-- ==== Sys2Proof/Word.lean ====
section
/-! DEFINITION. The word types of the LGD-4640 model: register words (R536), micro-words (R343), general registers of
SEQ (R343), the extended angle (R55), host and DRAM addresses, and the index types of R3 and R4. -/

namespace Sys2Proof

/-- A 32-bit register word (R536). -/
abbrev Word := BitVec 32

/-- A byte. -/
abbrev Byte := BitVec 8

/-- A 64-bit word: a general register of SEQ (R343), a header word (R38), an address word (R46). -/
abbrev Dword := BitVec 64

/-- A 128-bit micro-word of the control store (R342, R343). -/
abbrev MicroWord := BitVec 128

/-- The 44-bit extended angle (R55). -/
abbrev Angle := BitVec 44

/-- A head, H0 to H3 (R3). -/
abbrev Head := Fin 4

/-- A data beam, b = 4·h + d (R4). -/
abbrev Beam := Fin 16

/-- A laser driver channel, c = 5·h + e (R4). -/
abbrev Chan := Fin 20

/-- A sled, 0 = A and 1 = B (R3). -/
abbrev Sled := Fin 2

/-- A scheduler entry of ANG (R68). -/
abbrev Entry := Fin 64

/-- A physical DEC lane (R132). -/
abbrev DecLane := Fin 18

/-- A stepper channel (R268). -/
abbrev Stepper := Fin 6

/-- An SRV loop group (R190). -/
abbrev Group := Fin 11

/-- A zone-layer, layer × 20 + zone (R20, R340). -/
abbrev ZoneLayer := Fin 320

/-- A physical Zarvel lane (R286). -/
abbrev LinkLane := Fin 12

/-- A DRAM channel (R376). -/
abbrev DramChan := Fin 4

end Sys2Proof
end

