-- ==== Sys2Proof/Syntax.lean ====
section
/-! DEFINITION. The commands of the module, one constructor of `Instr` per row of spec/opcode_table.json, and the types of
their operands. A command is a stimulus: what its operands carry is the evidence that reaches the module from outside
(a level, a measured figure, the bytes of a flit or frame, the state of the disc surface); what follows from it is the
meaning, in Machine/. -/

namespace Sys2Proof

/-- A master of R9, the origin of an access. `tap` is the test connector, which carries master ID 1 (R544). -/
inductive Master where
  | hostOp | hostCust | seq | dec | srv | lbs | mir | axl | scrub | cfg | tap
  deriving DecidableEq, Repr

/-- A Zarvel port (R286). -/
inductive Port where
  | A | B | M
  deriving DecidableEq, Repr

/-- A cause of a laser channel fault (R163). -/
inductive LddCause where
  | ovc | openAnode | hot
  deriving DecidableEq, Repr

/-- A cause of a spindle fault (R266). -/
inductive SpnCause where
  | enl | ovc | hot | ovv | startf | estl | spde
  deriving DecidableEq, Repr

/-- The phase of a servo sample in which a residue error is detected (R203 to R205). -/
inductive SrvPhase where
  | output | observer | small
  deriving DecidableEq, Repr

/-- A residue error: a MAC lane in a phase, in the slice of a loop group (a head group in the output and observer phases, a
small channel's group in the small phase), or the mixer of a head group (R203, R205, R208). -/
inductive ResErr where
  | lane (l : Fin 5) (g : Group) (phase : SrvPhase)
  | mixer (g : Head)
  deriving DecidableEq, Repr

/-- What SLD has judged of a channel as it stalls (R275): P, the velocity in microsteps/s, the load angle in degrees and the back-EMF
amplitude in mV of the last chopper periods, oldest first, and the velocity-scaled average of the amplitude. DEDUCED (log entry 20). -/
structure StallIn where
  pos  : Word
  vel  : Nat
  lang : List Nat
  bemf : List Nat
  mean : Nat
  deriving DecidableEq, Repr

/-- What a servo sample instant brings: for each head the conversions of its four quadrant converters since the last instant, in order,
the last two bracketing the instant, as 14-bit codes after the offset trim (R87, R88); the instant's place between these two, in
fortieths of 50 ns; which of each head's 13 inputs a calibration holds (R85, R508); the residue errors detected in the sample (R203); the observer's
speed estimate, whether its loop is locked, and the revolution rate of the extended angle over the last revolution (R253); the
electrical angle in 1/65,536 (R253, R262); the largest q reference in mA at which the input power stays below PMAX (R252); the position
to which the profile of each stepper channel in MOVE or HOME has come (R271, R272); whether the spare's shadow differed (R206); and the nanoseconds to the place of the next
instant by the corrected angle (R75). DEDUCED (log entry 8). -/
structure SampleIn where
  conv     : List (List (List Int))
  at40     : Nat
  stale    : List (List Bool)
  residues : List ResErr
  speed    : Word
  speedOk  : Bool
  revRate  : Word
  eang     : BitVec 16
  qmax     : Nat
  pos      : List Word
  shadowDiff : Bool
  interval : Nat
  deriving DecidableEq, Repr

/-- One sync candidate of R114: its offset from bit 512 and its Hamming distance from the mark. -/
structure SyncCand where
  ofs  : Int
  dist : Nat
  deriving DecidableEq, Repr

/-- One update of the live taps (R111): the slot bit it belongs to, the equalizer's error there in 1/16 LSB, and the 15 samples that the
taps weigh, tap 0 first. DESIGN CHOICE (log entry 66). -/
structure LmsBit where
  bit : Nat
  err : Int
  x   : List Int
  deriving DecidableEq, Repr

/-- What the analog side gives at the end of a captured slot: the soft values of the data field in channel order (R112),
the mean squared equalizer error (R112), the reference envelope (R120), the runs longer than 48 (R119) and the updates of the
live taps (R111). DEDUCED (log entry 8). -/
structure CaptureIn where
  llr     : List Int
  mse     : Nat
  env     : Nat
  runlong : Nat
  lms     : List LmsBit
  deriving DecidableEq, Repr

/-- One codeword of a decode: the decoder's hard decisions after each iteration, in order (R128), each the codeword's 36,864 bits as
bytes, still scrambled. DEDUCED (log entry 8). -/
structure CwIn where
  hard : List (List Byte)
  deriving DecidableEq, Repr

/-- What the scan of R53 finds in one spare slot, by the outcomes of R125: BLANK; NOSYNC, marks without a sync mark; a sync mark
without a header that decodes; or the decoded header word. -/
inductive ScanSlot where
  | blank | noSync | syncOnly | header (h : Dword)
  deriving DecidableEq, Repr

/-- What a management slot read as (R48, R53 step 1): its layer, its slot index and the block's 32,768 bytes; another number of
bytes says that the slot ended UNRECOVERABLE. A slot that reads BLANK is not listed. DEDUCED (log entry 36). -/
structure MgmtBlock where
  layer : Fin 16
  slot  : Nat
  bytes : List Byte
  deriving DecidableEq, Repr

/-- What made a flit bad (R292, R295): its HCRC, or a codeword it overlaps, with the codeword's wrong symbols and whether this is the
first flit reported for it. -/
inductive BadFlit where
  | hcrc
  | codeword (wrong : Nat) (first : Bool)
  deriving DecidableEq, Repr

/-- A lane at the end of 2^24 codewords, with its FEC symbol corrections, or none where it lost signal (R290). -/
structure LaneCheck where
  lane : LinkLane
  corrections : Option Nat
  deriving DecidableEq, Repr

/-- A flit without payload of use: the port it arrived on and its header. -/
structure PortHdr where
  port : Port
  hdr  : Dword
  deriving DecidableEq, Repr

/-- A MIRR flit received on port M: its header and payload. -/
structure MirrIn where
  hdr     : Dword
  payload : List Byte
  deriving DecidableEq, Repr

/-- The verify of one management block (R48): whether the higher-numbered head of the layer's side wrote it, and what its verify
spot gave for channel bits 508 to 300,227 (R172). -/
structure MgmtVerify where
  high : Bool
  read : List Bool
  deriving DecidableEq, Repr

/-- A bank of a channel's data die or check die (R376). -/
structure DieBank where
  check : Bool
  bank  : Fin 16
  deriving DecidableEq, Repr

/-- The outcome of a check of one memory word or line (R383, R384). -/
inductive EccResult where
  | ok | correctable (pin : Bool) | uncorrectable | poisoned
  deriving DecidableEq, Repr

/-- The result a training helper reports (R381). -/
inductive TrainResult where
  | start (errmap : BitVec 16) (errcnt : Dword)
  | sweep (first last fails : Nat)
  deriving DecidableEq, Repr

/-- A condition of the pair supervisor that can fail (R461), in the order of its table. -/
inductive SupCause where
  | copies | outputs | lanes | dfault | release
  deriving DecidableEq, Repr

/-- A repair request to AXL: KIND, UNIT, ELEMENT and CAUSE of R478. DEDUCED (log entry 33). -/
structure AxlReq where
  kind    : Fin 64
  unit    : Fin 1024
  element : Fin 16777216
  cause   : Fin 16
  deriving DecidableEq, Repr

/-- What the start-up sequence meets on its way (R529, R530): whether BKP starts cold, the AXL self-check and map CRC,
the pair-side strap, the lanes failing BIST, the microseconds each step took, and the mixers, link lanes and fast ADC slices failing BIST (R477). DEDUCED (log entry 8). -/
structure StartIn where
  bkpCold : Bool
  axlOk   : Bool
  fieldMapOk : Bool
  side    : Bool
  bistDec : BitVec 18
  bistMac : BitVec 5
  stepUs  : List Nat
  bistMix : BitVec 4 := 0
  bistHlk : BitVec 12 := 0
  bistAdc : List (BitVec 9) := []
  deriving DecidableEq, Repr

/-- The figures of LDPWR for one channel (R507): threshold in 0.1 mA, slope in 0.1 µA/mA, residue in µA. -/
structure LdFit where
  thr   : Nat
  slope : Nat
  pres  : Nat
  deriving DecidableEq, Repr

/-- The commands, one per row of spec/opcode_table.json. DEDUCED (log entries 1, 8, 20). -/
inductive Instr where
  -- ANG, ACQ
  | frameMarkGood (h : Head) (ofs16 : Int) (run16 : Nat)
  | frameMarkMissing (h : Head)
  | headUnlocked (h : Head)
  | angleInvalid
  | addressWord (h : Head) (w : Dword) (now : Angle) (lag : Nat)
  | frameZero (h : Head) (monitor : Nat)
  | holdEnd (now : Angle)
  | wgateOpen (i : Entry) (now : Angle) (lead20us : Bool)
  | wgateClose (i : Entry) (now : Angle)
  | lpower (i : Entry) (now : Angle)
  | capture (i : Entry) (now : Angle)
  | srvTarget (i : Entry) (now : Angle)
  | sldStart (i : Entry) (now : Angle)
  | seqEvent (i : Entry) (now : Angle)
  | scrubTick (i : Entry) (now : Angle)
  | zoneSwitch (i : Entry) (now : Angle)
  | angEvtArm
  | angEvtDisarm
  | angEvtDisarmAll
  | servoSample (x : SampleIn)
  | encoderTransition (s : Sled) (ab : BitVec 2)
  | indexEdge (s : Sled)
  | sliceShadowEnd (a : Fin 36) (mad : Nat)
  | sliceSwap (a : Fin 36)
  | agcStep (i : Fin 52) (p2p : Nat)
  | pllEnable (h : Head) (v : Word)
  -- DET, DEC, recovery
  | slotStart (b : Beam)
  | syncDecision (b : Beam) (cands : List SyncCand) (envMv : Nat)
  | headerDecision (b : Beam) (cells : List Int)
  | captureEnd (b : Beam) (x : CaptureIn)
  | defectRegion (b : Beam) (first : Nat) (env : List Nat)
  | detMode (b : Beam) (mode : BitVec 2)
  | detStop (b : Beam)
  | laneTake (l : DecLane) (waitedUs : Nat)
  | decodeEnd (l : DecLane) (cws : List CwIn)
  | collectorDrain
  | knownAnswerTest
  | rebuildScan (h : Head) (slots : List ScanSlot)
  | zoneLayerReady (zl : ZoneLayer)
  -- write path
  | verifyDecision (b : Beam) (sync body : List Bool)
  | replacementPass (h : Head)
  | opc (h : Head) (totals : List (List (Option (List Bool))))
  | recordEvent (verify : List MgmtVerify)
  | lddFault (c : Chan) (cause : LddCause)
  | enableConditionLoss (c : Chan)
  | vldMonitor (h : Head) (mv : Nat)
  | hfIntervalEnd (c : Chan)
  -- SRV, loop supervisors
  | spareShadowMove
  | commit (groups : BitVec 11)
  | srvPreset (v : Word)
  | srvMode (g : Group) (v : Word)
  | acquire (h : Head)
  | layer (h : Head)
  | jump (h : Head) (delta : BitVec 16)
  | seek (h : Head)
  | release (h : Head)
  | lsvStop (h : Head)
  | jumpLaunch (h : Head) (frame : Fin 8192)
  | kickEnd (h : Head)
  | trackingKickEnd (h : Head)
  | fsettleEnd (h : Head)
  | tpullTimeout (h : Head)
  | singleJumpTimeout (h : Head)
  | seekSettleEnd (h : Head)
  | focusLost (h : Head)
  | trackLost (h : Head)
  -- SPN
  | spin
  | spnStop
  | brake
  | coast
  | park
  | rotate
  | alignEnd
  | handoff
  | handoffTimeout
  | atspeed
  | standstill
  | stopHoldEnd
  | vwatchOn (mv : Nat)
  | vwatchOff (mv : Nat)
  | spnFault (cause : SpnCause) (trace : List Word)
  | stageEnableOn (mv : Nat)
  | stageEnableOff (mv : Nat)
  -- SLD
  | move (n : Stepper) (arm : Bool)
  | sldStop (n : Stepper) (arm : Bool) (rest : Word)
  | hold (n : Stepper) (arm : Bool)
  | off (n : Stepper) (arm : Bool)
  | vel (n : Stepper) (arm : Bool)
  | trim (n : Stepper) (arm : Bool)
  | home (n : Stepper) (arm : Bool)
  | moveEnd (n : Stepper)
  | stall (n : Stepper) (x : StallIn)
  | holdCurrent (n : Stepper)
  -- HLK
  | portTraining (p : Port)
  | laneTrainingTimeout (l : LinkLane)
  | portUp (p : Port)
  | spareLaneMove (p : Port)
  | laneCondemn (x : LaneCheck)
  | remapSwitch (p : Port) (cw : Word)
  | badFlit (p : Port) (why : BadFlit)
  | linkAck (p : Port) (ackseq : Byte)
  | linkNak (p : Port) (nakseq : Byte)
  | linkInit (p : Port) (credc credd : BitVec 16)
  | linkCredit (p : Port) (credc credd : BitVec 16)
  | linkRemap (p : Port) (rlane : Byte) (rspare : Byte) (rcw : Word)
  | linkRemapack (p : Port) (rcw : Word)
  | linkRetrain (p : Port)
  | ackSend (p : Port)
  | replayTimeout (p : Port)
  | portDown (p : Port)
  | breakFlit (p : Port) (hdr : Dword) (payload : List Byte)
  | flitForward (p : Port) (hdr : Dword) (payload : List Byte)
  | creq (p : Port) (hdr : Dword) (payload : List Byte)
  | mcpl (p : Port) (hdr : Dword) (body : List Byte)
  | flack (x : PortHdr)
  | enum (p : Port) (hdr : Dword) (payload : List Byte)
  | mrdTimeout
  | dmaIssue (write : Bool) (addr : Dword) (len : Nat) (lba : BitVec 25)
  | windowWrite (m : Master) (ofs : BitVec 24) (v : Word)
  | drainComplete
  -- TSK
  | go (p : Port) (m : Master)
  | restart (p : Port)
  | readExtent
  | writeExtent
  | writeExtentSpare
  | verifyExtent
  | loadDisc (blocks : List MgmtBlock)
  | unloadDisc
  | spinUp
  | spinDownStop
  | spinDownBrake
  | spinDownPark
  | readMgmt (blocks : List MgmtBlock)
  | closeSession
  | scanSpare
  | catalogRead
  | catalogEvict
  | catalogEvictAll
  | pairHandover
  | patchLoad (blob : List Byte)
  | nop
  | calibrateRef (meas : Nat) (readings : List Int) (q : Nat)
  | calibrateInofs (means residues : List Int)
  | calibrateShunt (ofs gain : List Word) (residues : List Int)
  | calibrateLdcur (trims : List Word) (ires : List Nat)
  | calibrateLdpwr (fits : List LdFit)
  | calibrateSkew (syncofs vofs : List (List Int)) (spr : List (Nat × Nat))
  | calibrateHofs (means : List Int) (spread : List Nat)
  | calibrateSapos (jitter : List (List Nat)) (q : List Nat)
  | calibrateEye (offs : List (List (Nat × Nat))) (jit : List Nat)
  | calibrateLoop (rms : List Word)
  | taskSuccess
  | freezeSettled
  -- SEQ
  | next
  | br
  | call
  | ret
  | dispatch
  | loop
  | mode
  | wait
  | waitWake
  | eret
  | halt
  | xopNop
  | mov
  | add
  | sub
  | xAnd
  | xOr
  | xXor
  | shl
  | shr
  | sar
  | mul
  | cmp
  | bfx
  | bfi
  | ld
  | lds
  | st
  | sync
  | rdreg
  | wrreg
  -- CCH
  | invalidateLine (a : BitVec 34)
  | cleanLine (a : BitVec 34)
  | cleanAndInvalidateLine (a : BitVec 34)
  | invalidateAll
  | cleanAll
  | cleanAndInvalidateAll
  -- SEQ, continued
  | wdog
  | eventEntry
  | timer (k : Fin 4)
  | seqHalt (m : Master) (haltBit : Bool)
  | seqStep (m : Master)
  | seqEvtForce (m : Master) (n : Fin 64)
  | lineFill
  | regionWrite (m : Master) (ofs : BitVec 24) (v : Word)
  -- DMC, MIC
  | trainStart (c : DramChan)
  | trainSweep (c : DramChan)
  | trainingDone (c : DramChan) (r : TrainResult)
  | dramFillStart
  | dramFillDone
  | skinkDramStep (r : EccResult)
  | skinkSramStep (macro_ : Fin 1024) (word : Fin 65536) (cls : Fin 20) (r : EccResult)
  | rowRemap (c : DramChan) (check : Bool) (bank : Fin 16) (row : Fin 131072)
  | rowClose (c : DramChan) (bank : Fin 16)
  | refresh (c : DramChan) (x : DieBank)
  -- FLC, CFG
  | program (m : Master)
  | erase (m : Master)
  | suspend (m : Master) (runUs : Nat)
  | resume (m : Master)
  | flcDone (verified : Bool)
  | sectorRemap (spareBlank : Bool)
  | inc (m : Master) (c : Fin 2)
  | configImageRead
  | dload (m : Master)
  | configurationLock
  -- CPH, BKP
  | lockAcquire (m : Master)
  | lockRelease (m : Master)
  | enc (m : Master) (v : Word)
  | cphDec (m : Master) (v : Word)
  | tagcmp (m : Master) (v : Word)
  | seal (m : Master)
  | cphLoad (m : Master)
  | provision (m : Master)
  | clear (m : Master) (slot : Fin 8)
  | cphDone
  | sessionChallenge (m : Master)
  | sessionResponse (w3 : Word)
  | sessionClose (m : Master)
  | sessionTimeout
  | lockoutEnd
  | tamperAlarm (n : Fin 2)
  | bkpTemperatureSample (t : Int)
  | bkpLogClr (m : Master)
  -- MIR, AXL
  | ownershipChange (ownLine partLine : Bool)
  | supervisorRelease (cause : SupCause)
  | claim
  | heartbeatSend
  | heartbeatLost
  | mirrorRecord (x : MirrIn)
  | handoverTimeout
  | axlGrant (r : AxlReq)
  | axlFrozen
  -- LBS
  | frameReceive (bytes : List Byte)
  | lbsRxVerdict (m : Master) (v : Word)
  | lbsSend (m : Master) (v : Word)
  | collision
  | loadDone (e : Fin 8)
  | unloadDone (e : Fin 8)
  | lbsAck (e : Fin 8)
  | lbsAbort (e : Fin 8)
  | acktoExpiry
  | donetoExpiry
  | envReport
  | beaconLoss
  -- PWR, register space
  | powerOnReset
  | startUp (x : StartIn)
  | startUpTimeout
  | pinReset (lowNs : Nat)
  | softReset (m : Master) (v : Word)
  | thermalReset (temp : Int)
  | tapReset
  | dieTemperatureSample (temp : Int)
  | testConnectorAccess (write : Bool) (ofs : BitVec 24) (v : Word)
  | rcRead (m : Master) (ofs : BitVec 24)
  | loWordRead (m : Master) (ofs : BitVec 24)
  | registerWrite (m : Master) (ofs : BitVec 24) (v : Word)
  | refselWrite (v : Word)
  | messageMemoryParity (l : DecLane)
  | lddFaultClear (c : Chan) (v : Word)
  | spnCauseClear (v : Word)
  | sldPosWrite (n : Stepper) (v : Word)
  | tamperLoopGood (n : Fin 2)
  | beaconReturn
  deriving DecidableEq, Repr

end Sys2Proof
end

