-- ==== Sys2Proof/Decode.lean ====
section
/-! DEFINITION. The command a word of the opcode table spells. No row of spec/opcode_table.json has bits: a command is a stimulus
that reaches the module, not a word. -/

namespace Sys2Proof

/-- The command that a word spells by the table's bits: none, for every word. DEDUCED (log entry 4). -/
def decodeTableWord (_nbits _w : Nat) : Option Instr := none

end Sys2Proof
end

