-- ==== Sys2Proof/Machine/Aes.lean ====
section
/-! DEFINITION. The block cipher the spec names by standard: AES-256 (FIPS 197), the CMAC of NIST SP 800-38B and the key wrap KW of
NIST SP 800-38F. PRESUMED: their contents are the standards', which the spec cites and does not print. Outside, blocks are lists of
16 bytes, first byte first; inside, a block is one number with its first byte highest, so that a column is 32 of its bits. -/

namespace Sys2Proof.Machine

namespace Aes

/-- A block as a number, and back. -/
def toNum (b : List Nat) : Nat := b.foldl (fun n x => n * 256 + x) 0
def ofNum : Nat → Nat → List Nat
  | 0, _ => []
  | k + 1, n => ofNum k (n / 256) ++ [n % 256]

/-- XOR of two byte strings. -/
def xorL (a b : List Nat) : List Nat := List.zipWith Nat.xor a b

/-! ## Bytes -/

/-- The S-box of FIPS 197 and its inverse as tables: 64 bytes to a number, the lowest byte first. -/
def sboxRows : List Nat :=
  [0x75b227ebe28012079a059618c323c7041531d871f1e5a534ccf73f362693fdb7c072a49cafa2d4adf04759fa7dc982ca76abd7fe2b670130c56f6bf27b777c63,
   0xd2f3ff1021dab6bcf5389d928f40a351a89f3c507f02f94585334d43fbaaefd0cf584c4a39becb6a5bb1fc20ed00d153842fe329b3d63b52a05a6e1b1a2c8309,
   0x08ae7a65eaf4566ca94ed58d6d37c8e779e4959162acd3c25c2406490a3a32e0db0b5ede14b8ee4688902a22dc4f816073195d643d7ea7c41744975fec130ccd,
   0x16bb54b00f2d99416842e6bf0d89a18cdf2855cee9871e9b948ed9691198f8e19e1dc186b95735610ef6034866b53e708a8bbd4b1f74dde8c6b4a61c2e2578ba]
def sboxInvRows : List Nat :=
  [0x25d18b6d49a25b76b224d92866a12e084ec3fa420b954cee3d23c2a632947b54cbe9dec444438e3487ff2f9b8239e37cfbd7f3819ea340bf38a53630d56a0952,
   0x6b8a130103bdafc1020f3fca8f1e2cd00645b3b80558e4f70ad3bc8c00abd890849d8da75746155edab9edfd5048706c92b6655dcc5ca4d41698688664f6f872,
   0xf45acd78fec0db9a2079d2c64b3e56fc1bbe18aa0e62b76f89c5291d711af1476edf751ce837f9e28535ade72274ac9673e6b4f0cecff297eadc674f4111913a,
   0x7d0c2155631469e126d677ba7e042b17619953833cbbebc8b0f52aae4d3be0a0ef9cc9939f7ae52d0d4ab519a97f51605fec8027591012b131c7078833a8dd1f]

/-- Look a byte up. -/
def look (t : List Nat) (a : Nat) : Nat := Nat.shiftRight (t.getD (a / 64) 0) (8 * (a % 64)) % 256

/-- Byte `k` of a block. -/
def byteAt (x k : Nat) : Nat := Nat.shiftRight x (8 * (15 - k)) % 256

/-- Substitute the bytes of a block and shift its rows: byte r + 4c comes from column c + r, or c − r to invert. -/
def subShift (t : List Nat) (inverse : Bool) (x : Nat) : Nat :=
  (List.range 16).foldl (fun n k =>
    n * 256 + look t (byteAt x (k % 4 + 4 * ((k / 4 + (if inverse then 4 - k % 4 else k % 4)) % 4)))) 0

/-! ## Columns -/

/-- Every byte of a block times x, in the field of 256 elements. -/
def times (x : Nat) : Nat :=
  Nat.xor (Nat.land x 0x7F7F7F7F7F7F7F7F7F7F7F7F7F7F7F7F * 2) (Nat.land (x / 128) 0x01010101010101010101010101010101 * 0x1B)

/-- Every column turned up by one byte. -/
def turn (x : Nat) : Nat :=
  Nat.land (x * 256) 0xFFFFFF00FFFFFF00FFFFFF00FFFFFF00 + Nat.land (x / 2 ^ 24) 0x000000FF000000FF000000FF000000FF

/-- Mix the columns: 2, 3, 1, 1. -/
def mix (x : Nat) : Nat :=
  let y := turn x
  Nat.xor (Nat.xor (times (Nat.xor x y)) y) (turn (turn (Nat.xor x y)))

/-- Mix the columns back: 14, 11, 13, 9. -/
def mixBack (x : Nat) : Nat :=
  let x2 := times x
  let x4 := times x2
  let x8 := times x4
  let a := Nat.xor (Nat.xor x8 x4) x2
  let b := Nat.xor (Nat.xor x8 x2) x
  let c := Nat.xor (Nat.xor x8 x4) x
  let d := Nat.xor x8 x
  Nat.xor (Nat.xor a (turn b)) (Nat.xor (turn (turn c)) (turn (turn (turn d))))

/-! ## The key schedule -/

/-- Substitute the bytes of a word. -/
def subWord (w : Nat) : Nat :=
  (List.range 4).foldl (fun n k => n * 256 + look sboxRows (Nat.shiftRight w (8 * (3 - k)) % 256)) 0

/-- The words of the schedule from word `i` on, newest first. -/
def expand : Nat → Nat → List Nat → List Nat
  | 0, _, ws => ws
  | n + 1, i, ws =>
    let t := ws.headD 0
    let t := if i % 8 = 0 then Nat.xor (subWord (t * 256 % 2 ^ 32 + t / 2 ^ 24)) (2 ^ (i / 8 - 1) * 2 ^ 24)
      else if i % 8 = 4 then subWord t else t
    expand n (i + 1) (Nat.xor (ws.getD 7 0) t :: ws)

/-- The fifteen round keys of a 32-byte key. -/
def roundKeys (key : List Nat) : List Nat :=
  let ws := (expand 52 8 (((List.range 8).map (fun i => toNum ((key.drop (4 * i)).take 4))).reverse)).reverse
  (List.range 15).map (fun r => (ws.drop (4 * r)).take 4 |>.foldl (fun n w => n * 2 ^ 32 + w) 0)

/-! ## Rounds -/

/-- Encrypt one block. PRESUMED (log entry 27). -/
def encrypt (key b : List Nat) : List Nat :=
  let ks := roundKeys key
  let x := (List.range 13).foldl (fun x r => Nat.xor (mix (subShift sboxRows false x)) (ks.getD (r + 1) 0)) (Nat.xor (toNum b) (ks.getD 0 0))
  ofNum 16 (Nat.xor (subShift sboxRows false x) (ks.getD 14 0))

/-- Decrypt one block. -/
def decrypt (key b : List Nat) : List Nat :=
  let ks := roundKeys key
  let x := (List.range 13).foldl (fun x r => mixBack (Nat.xor (subShift sboxInvRows true x) (ks.getD (13 - r) 0)))
    (Nat.xor (toNum b) (ks.getD 14 0))
  ofNum 16 (Nat.xor (subShift sboxInvRows true x) (ks.getD 0 0))

/-! ## CMAC and KW -/

/-- The doubling of SP 800-38B. -/
def dbl (n : Nat) : Nat := if n < 2 ^ 127 then n * 2 else Nat.xor (n * 2 % 2 ^ 128) 0x87

/-- CMAC over the blocks of a message; the fuel bounds their number. -/
def cmacRun (key : List Nat) (k1 : Nat) : Nat → List Nat → List Nat → List Nat
  | 0, c, _ => c
  | fuel + 1, c, m =>
    if m.length > 16 then cmacRun key k1 fuel (encrypt key (xorL c (m.take 16))) (m.drop 16)
    else if m.length = 16 then encrypt key (xorL c (xorL m (ofNum 16 k1)))
    else encrypt key (xorL c (xorL (m ++ [128] ++ List.replicate (15 - m.length) 0) (ofNum 16 (dbl k1))))

/-- The CMAC of a message. PRESUMED (log entry 27). -/
def cmac (key m : List Nat) : List Nat :=
  cmacRun key (dbl (toNum (encrypt key (List.replicate 16 0)))) (m.length + 1) (List.replicate 16 0) m

/-- KW unwrap of `c` (a multiple of 8 bytes, the first 8 the check value): the plaintext when its integrity check passes.
PRESUMED (log entry 27). -/
def unwrap (key c : List Nat) : Option (List Nat) :=
  let n := c.length / 8 - 1
  let r0 := (List.range n).map (fun i => (c.drop (8 * (i + 1))).take 8)
  let step (p : List Nat × List (List Nat)) (k : Nat) : List Nat × List (List Nat) :=
    let t := 6 * n - k
    let i := (t - 1) % n
    let a := ofNum 8 (Nat.xor (toNum p.1) t)
    let b := decrypt key (a ++ p.2.getD i [])
    (b.take 8, p.2.set i (b.drop 8))
  let p := (List.range (6 * n)).foldl step (c.take 8, r0)
  if p.1 = List.replicate 8 0xA6 then some p.2.flatten else none

end Aes

end Sys2Proof.Machine
end

