-- ==== Sys2Proof/Config.lean ====
section
/-! DEFINITION. What the spec leaves open and the machine goes on with: free values, as constants without a body, so that
nothing can be proved of what they are. -/

namespace Sys2Proof

/-- The n-th free value drawn (a value nothing in the spec fixes). DESIGN CHOICE (log entry 3). -/
opaque Config.free : Nat → Word

/-- The device transport key, fused at module test (R431): its value is each module's own. DESIGN CHOICE (log entry 5). -/
opaque Config.dtk : Vector Byte 32

/-- The 256-bit key that a subkey block of R433 gives: the spec makes a subkey of one 128-bit block and uses it as a key of
AES-256, and states no rule between the two. DESIGN CHOICE (log entry 6). -/
opaque Config.widen : List Byte → Vector Byte 32

/-- What the verify spots read of the management blocks that the record event of a task writes (R48, R49), at its n-th drawing: for
each block whether the side's higher-numbered head wrote it, and the channel bits read. DESIGN CHOICE (log entry 26). -/
opaque Config.mgmtRead : Nat → List (Bool × List Bool)

/-- Which unit of its class a word of an SRAM macro holds, by class, macro and word (R396): the spec numbers the macros no further.
DESIGN CHOICE (log entry 39). -/
opaque Config.sramUnit : Nat → Nat → Nat → Nat

/-- Which slope of the push-pull P is a band centre's (R232): the spec says one of the two. DESIGN CHOICE (log entry 54). -/
opaque Config.centreRises : Bool

/-- By how much a head's tracking target moves, in signal units, for an offset in steps of 15 nm (R147, R151): the spec gives signals
no unit. DESIGN CHOICE (log entry 55). -/
opaque Config.trackOffset : Head → Int → Int

/-- A shunt's reading corrected by the words of its offset and gain registers (R251): the spec gives these no format.
DESIGN CHOICE (log entry 67). -/
opaque Config.shuntCorrect : Word → Word → Word → Word

end Sys2Proof
end

