-- ==== Sys2Proof/Machine/Regs.lean ====
section
/-! DEFINITION. The register space (R536 to R547): one row per register of every block's table, with its place (R538), the
writable bits of each access code (R6, R542, R563, R564) and its reset value (R545); then the offset of every register and
the place of every field, under the names the spec gives them. -/

namespace Sys2Proof.Machine

/-- How a register answers a read (R540, R542). `lo` and `hi` are the words of a 64-bit pair; `rc16` is a read-clear count that
stops at 0xFFFF (R79). -/
inductive RegKind where
  | plain | rc | rc16 | lo | hi | rcLo
  deriving DecidableEq, Repr

/-- One row of a register table: the offset of element 0, the (count, stride) of each index, the bits each access code may
write, and the reset word (one for every element, or one word per element in index order). -/
structure RegRow where
  base  : Nat
  dims  : List (Nat × Nat)
  kind  : RegKind
  rw    : Nat
  w1c   : Nat
  rwl   : Nat
  rwk   : Nat
  wo    : Nat
  reset : List Nat
  deriving DecidableEq, Repr

/-- The flat index of the element `o` bytes past element 0, when one lies there (R538). -/
def RegRow.index : List (Nat × Nat) → Nat → Option Nat
  | [], o => if o = 0 then some 0 else none
  | (n, st) :: r, o =>
    if o / st < n then (RegRow.index r (o % st)).map (o / st * (r.foldl (fun p d => p * d.1) 1) + ·) else none

/-- The element of the row at offset `a`. -/
def RegRow.elem (r : RegRow) (a : Nat) : Option Nat :=
  if r.base ≤ a then RegRow.index r.dims (a - r.base) else none

/-- A bit field of a register: the register's offset, its lowest bit and its width. -/
structure RegField where
  reg   : Nat
  lo    : Nat
  width : Nat
  deriving DecidableEq, Repr


/-- The reset entries of one microstep table: TA in [30:16], TB in [14:0] (R270). -/
def Regs.sldQuarter0 : List Nat := [
  0x7fff0000, 0x7ffe00c9, 0x7ffd0192, 0x7ff9025b, 0x7ff50324, 0x7ff003ed, 0x7fe904b6, 0x7fe1057f,
  0x7fd80648, 0x7fcd0711, 0x7fc107d9, 0x7fb408a2, 0x7fa6096a, 0x7f970a33, 0x7f860afb, 0x7f740bc4,
  0x7f610c8c, 0x7f4d0d54, 0x7f370e1c, 0x7f210ee3, 0x7f090fab, 0x7eef1072, 0x7ed5113a, 0x7eb91201,
  0x7e9c12c8, 0x7e7e138f, 0x7e5f1455, 0x7e3e151c, 0x7e1d15e2, 0x7dfa16a8, 0x7dd5176e, 0x7db01833,
  0x7d8918f9, 0x7d6219be, 0x7d391a82, 0x7d0e1b47, 0x7ce31c0b, 0x7cb61ccf, 0x7c881d93, 0x7c591e57,
  0x7c291f1a, 0x7bf81fdd, 0x7bc5209f, 0x7b912161, 0x7b5c2223, 0x7b2622e5, 0x7aee23a6, 0x7ab62467,
  0x7a7c2528, 0x7a4125e8, 0x7a0526a8, 0x79c82767, 0x79892826, 0x794a28e5, 0x790929a3, 0x78c72a61,
  0x78842b1f, 0x783f2bdc, 0x77fa2c99, 0x77b32d55, 0x776b2e11, 0x77222ecc, 0x76d82f87, 0x768d3041]
def Regs.sldQuarter1 : List Nat := [
  0x764130fb, 0x75f331b5, 0x75a5326e, 0x75553326, 0x750433df, 0x74b23496, 0x745f354d, 0x740a3604,
  0x73b536ba, 0x735e376f, 0x73073824, 0x72ae38d9, 0x7254398c, 0x71f93a40, 0x719d3af2, 0x71403ba5,
  0x70e23c56, 0x70833d07, 0x70223db8, 0x6fc13e68, 0x6f5e3f17, 0x6efb3fc5, 0x6e964073, 0x6e304121,
  0x6dc941ce, 0x6d61427a, 0x6cf84325, 0x6c8e43d0, 0x6c23447a, 0x6bb74524, 0x6b4a45cd, 0x6adc4675,
  0x6a6d471c, 0x69fd47c3, 0x698b4869, 0x6919490f, 0x68a649b4, 0x68324a58, 0x67bc4afb, 0x67464b9d,
  0x66cf4c3f, 0x66564ce0, 0x65dd4d81, 0x65634e20, 0x64e84ebf, 0x646c4f5d, 0x63ee4ffb, 0x63705097,
  0x62f15133, 0x627151ce, 0x61f05268, 0x616e5302, 0x60eb539b, 0x60685432, 0x5fe354c9, 0x5f5d5560,
  0x5ed755f5, 0x5e4f568a, 0x5dc7571d, 0x5d3e57b0, 0x5cb35842, 0x5c2858d3, 0x5b9c5964, 0x5b0f59f3]
def Regs.sldQuarter2 : List Nat := [
  0x5a825a82, 0x59f35b0f, 0x59645b9c, 0x58d35c28, 0x58425cb3, 0x57b05d3e, 0x571d5dc7, 0x568a5e4f,
  0x55f55ed7, 0x55605f5d, 0x54c95fe3, 0x54326068, 0x539b60eb, 0x5302616e, 0x526861f0, 0x51ce6271,
  0x513362f1, 0x50976370, 0x4ffb63ee, 0x4f5d646c, 0x4ebf64e8, 0x4e206563, 0x4d8165dd, 0x4ce06656,
  0x4c3f66cf, 0x4b9d6746, 0x4afb67bc, 0x4a586832, 0x49b468a6, 0x490f6919, 0x4869698b, 0x47c369fd,
  0x471c6a6d, 0x46756adc, 0x45cd6b4a, 0x45246bb7, 0x447a6c23, 0x43d06c8e, 0x43256cf8, 0x427a6d61,
  0x41ce6dc9, 0x41216e30, 0x40736e96, 0x3fc56efb, 0x3f176f5e, 0x3e686fc1, 0x3db87022, 0x3d077083,
  0x3c5670e2, 0x3ba57140, 0x3af2719d, 0x3a4071f9, 0x398c7254, 0x38d972ae, 0x38247307, 0x376f735e,
  0x36ba73b5, 0x3604740a, 0x354d745f, 0x349674b2, 0x33df7504, 0x33267555, 0x326e75a5, 0x31b575f3]
def Regs.sldQuarter3 : List Nat := [
  0x30fb7641, 0x3041768d, 0x2f8776d8, 0x2ecc7722, 0x2e11776b, 0x2d5577b3, 0x2c9977fa, 0x2bdc783f,
  0x2b1f7884, 0x2a6178c7, 0x29a37909, 0x28e5794a, 0x28267989, 0x276779c8, 0x26a87a05, 0x25e87a41,
  0x25287a7c, 0x24677ab6, 0x23a67aee, 0x22e57b26, 0x22237b5c, 0x21617b91, 0x209f7bc5, 0x1fdd7bf8,
  0x1f1a7c29, 0x1e577c59, 0x1d937c88, 0x1ccf7cb6, 0x1c0b7ce3, 0x1b477d0e, 0x1a827d39, 0x19be7d62,
  0x18f97d89, 0x18337db0, 0x176e7dd5, 0x16a87dfa, 0x15e27e1d, 0x151c7e3e, 0x14557e5f, 0x138f7e7e,
  0x12c87e9c, 0x12017eb9, 0x113a7ed5, 0x10727eef, 0xfab7f09, 0xee37f21, 0xe1c7f37, 0xd547f4d,
  0xc8c7f61, 0xbc47f74, 0xafb7f86, 0xa337f97, 0x96a7fa6, 0x8a27fb4, 0x7d97fc1, 0x7117fcd,
  0x6487fd8, 0x57f7fe1, 0x4b67fe9, 0x3ed7ff0, 0x3247ff5, 0x25b7ff9, 0x1927ffd, 0xc97ffe]
def Regs.sldQuarter : List Nat := Regs.sldQuarter0 ++ Regs.sldQuarter1 ++ Regs.sldQuarter2 ++ Regs.sldQuarter3

/-- The register rows of block 0 (R428). -/
def Regs.block0 : List RegRow := [
  ⟨0x0, [], .plain, 0, 0, 0, 0, 0, [0x46400b01]⟩, -- CFG_ID
  ⟨0x4, [], .plain, 1, 0, 0, 0, 0, [0]⟩, -- CFG_CTRL
  ⟨0x8, [], .plain, 0, 0, 0, 0, 0, [0]⟩, -- CFG_STAT
  ⟨0xc, [], .plain, 0, 0, 0, 0, 1, [0]⟩, -- CFG_CMD
  ⟨0x10, [], .plain, 1, 0, 0, 0, 0, [0]⟩, -- CFG_LOCK
  ⟨0x14, [], .plain, 0, 0, 0, 0, 0, [0]⟩, -- CFG_IMG_VER
  ⟨0x18, [], .plain, 0, 0, 0, 0, 0, [0]⟩, -- CFG_IMG_LEN
  ⟨0x1c, [], .plain, 0, 0, 0, 0, 0, [0]⟩, -- CFG_REC_CNT
  ⟨0x20, [], .plain, 0, 0, 0, 0, 0, [0]⟩, -- CFG_SKIP_CNT
  ⟨0x24, [], .plain, 0, 0, 0, 0, 0, [0]⟩, -- CFG_REJ_CNT
  ⟨0x28, [], .plain, 0, 0, 0, 0, 0, [0]⟩, -- CFG_BAD_OFS
  ⟨0x2c, [], .plain, 0, 0, 0, 0, 0, [0]⟩, -- CFG_BAD_TYPE
  ⟨0x30, [(3, 0x4)], .plain, 0, 0, 0, 0, 0, [0]⟩, -- CFG_SERIAL
  ⟨0x40, [(4, 0x4)], .plain, 0, 0, 0, 0, 0, [0]⟩, -- CFG_TAG
  ⟨0x50, [], .plain, 0, 0, 0, 0, 0, [0]⟩, -- CFG_KEY_STAT
  ⟨0x54, [], .plain, 0, 0, 0, 0, 0, [0]⟩, -- CFG_DLOAD_STAT
  ⟨0x58, [(3, 0x4)], .plain, 0, 0, 0, 0, 0, [0]⟩, -- CFG_TIME
  ⟨0x80, [(2, 0x4)], .plain, 0, 0, 0xffffffff, 0, 0, [0x1c20, 0x12c0]⟩, -- CFG_PARAM
  ⟨0x88, [], .plain, 0, 0, 0xffff, 0, 0, [0]⟩, -- CFG_PARAM[2]
  ⟨0x8c, [], .plain, 0, 0, 0, 0, 0, [0]⟩, -- CFG_PARAM[3]
  ⟨0x90, [(12, 0x4)], .plain, 0, 0, 0xffffffff, 0, 0, [0]⟩ -- CFG_PARAM[4:15]
  ]

/-- The register rows of block 1 (R456, R534). -/
def Regs.block1 : List RegRow := [
  ⟨0x18000, [], .plain, 0, 0, 0, 1, 0, [0]⟩, -- BKP_CTRL
  ⟨0x18004, [], .plain, 0, 0, 0, 0, 0, [0]⟩, -- BKP_STAT
  ⟨0x18008, [], .plain, 0, 0, 0, 0x3f, 0, [0]⟩, -- BKP_ALARM
  ⟨0x1800c, [], .plain, 0, 0, 0, 0xf, 0, [0]⟩, -- BKP_TAMP_CFG
  ⟨0x18010, [], .plain, 0, 0, 0, 0xffff, 0, [0x55d8]⟩, -- BKP_TEMP_CFG
  ⟨0x18014, [], .plain, 0, 0, 0, 0, 0, [0]⟩, -- BKP_TEMP
  ⟨0x18018, [], .lo, 0, 0, 0, 0, 0, [0]⟩, -- BKP_TICK_LO
  ⟨0x1801c, [], .hi, 0, 0, 0, 0, 0, [0]⟩, -- BKP_TICK_HI
  ⟨0x18020, [], .plain, 0, 0, 0, 0, 0, [0]⟩, -- BKP_LOG_HEAD
  ⟨0x18024, [], .plain, 0, 0, 0, 0xffffffff, 0, [0]⟩, -- BKP_LOG_CLR
  ⟨0x18028, [], .plain, 0, 0, 0, 0, 0, [0]⟩, -- BKP_VBAK
  ⟨0x1802c, [], .plain, 0, 0, 0, 0, 0, [0]⟩, -- BKP_KSTAT
  ⟨0x18040, [(8, 0x8), (2, 0x4)], .plain, 0, 0, 0, 0, 0, [0]⟩, -- BKP_LOG
  ⟨0x10000, [], .plain, 0xffffffff, 0, 0, 0, 0, [0]⟩, -- PWR_CTRL
  ⟨0x10004, [], .plain, 0, 2, 0, 0, 0, [0xc]⟩, -- PWR_STAT
  ⟨0x10008, [], .plain, 0, 0xffffffff, 0, 0, 0, [0]⟩, -- PWR_INT_STAT
  ⟨0x1000c, [], .plain, 0xffffffff, 0, 0, 0, 0, [0]⟩, -- PWR_INT_EN
  ⟨0x10010, [], .plain, 0, 0, 0, 0xffff0001, 0, [0]⟩, -- PWR_RST_CMD
  ⟨0x10014, [], .plain, 0, 0xf, 0, 0, 0, [1]⟩, -- PWR_RST_CAUSE
  ⟨0x10018, [], .plain, 0, 0, 0, 0, 0, [0]⟩, -- PWR_START
  ⟨0x1001c, [], .plain, 0, 0, 0, 0, 0, [0]⟩, -- PWR_START_TO
  ⟨0x10040, [(14, 0x4)], .plain, 0, 0, 0, 0, 0, [0]⟩, -- PWR_STEP_T
  ⟨0x10080, [(14, 0x4)], .plain, 0, 0, 0, 0, 0, [0]⟩, -- PWR_RAIL
  ⟨0x100c0, [], .plain, 0, 0, 0, 0, 0, [0]⟩, -- PWR_VIN12
  ⟨0x100c4, [], .plain, 0, 0, 0, 0, 0, [0]⟩, -- PWR_V3P3
  ⟨0x100c8, [], .plain, 0, 0, 0, 0, 0, [0]⟩, -- PWR_IIN12
  ⟨0x100cc, [], .plain, 0, 0, 0, 0, 0, [0]⟩, -- PWR_I3P3
  ⟨0x100d0, [], .plain, 0, 0, 0, 0, 0, [0]⟩, -- PWR_PIN
  ⟨0x100e0, [], .plain, 0, 0, 0, 0, 0, [0]⟩, -- PWR_TEMP_DIE
  ⟨0x100e4, [], .plain, 0, 0, 0xff, 0, 0, [0x6e]⟩, -- PWR_TEMP_CFG
  ⟨0x10100, [], .rc, 0, 0, 0, 0, 0, [0]⟩, -- PWR_POR_CNT
  ⟨0x10104, [], .rc, 0, 0, 0, 0, 0, [0]⟩, -- PWR_PIN_CNT
  ⟨0x10108, [], .rc, 0, 0, 0, 0, 0, [0]⟩, -- PWR_SOFT_CNT
  ⟨0x1010c, [], .rc, 0, 0, 0, 0, 0, [0]⟩, -- PWR_THERM_CNT
  ⟨0x10110, [], .rc, 0, 0, 0, 0, 0, [0]⟩, -- PWR_STGOFF_CNT
  ⟨0x10114, [], .rc, 0, 0, 0, 0, 0, [0]⟩, -- PWR_WARN_CNT
  ⟨0x10120, [], .rc, 0, 0, 0, 0, 0, [0]⟩, -- PWR_PEAK_PIN
  ⟨0x10124, [], .rc, 0, 0, 0, 0, 0, [0]⟩, -- PWR_PEAK_TEMP
  ⟨0x10128, [], .rc, 0, 0, 0, 0, 0, [0]⟩ -- PWR_VIN_MIN
  ]

/-- The register rows of block 2 (R312). -/
def Regs.block2a : List RegRow := [
  ⟨0x20000, [], .plain, 1, 0, 0, 0, 0, [0]⟩, -- HLK_CTRL
  ⟨0x20004, [], .plain, 0, 0x1c, 0, 0, 0, [0]⟩, -- HLK_STAT
  ⟨0x20008, [], .plain, 0, 0, 0, 0, 0, [0]⟩, -- HLK_ID
  ⟨0x2000c, [], .plain, 0, 0xffffffff, 0, 0, 0, [0]⟩, -- HLK_INT_STAT
  ⟨0x20010, [], .plain, 0xffffffff, 0, 0, 0, 0, [0]⟩, -- HLK_INT_EN
  ⟨0x20014, [], .plain, 0x33f, 0, 0, 0, 0, [0x1f]⟩, -- HLK_ARB
  ⟨0x20018, [], .plain, 0xffff00ff, 0, 0, 0, 0, [0x640008]⟩, -- HLK_RETRY_CFG
  ⟨0x2001c, [], .plain, 0, 0, 0, 0, 0, [0]⟩, -- HLK_ENUM_STAT
  ⟨0x20020, [], .plain, 0, 0, 0, 0, 0, [0]⟩, -- HLK_DRAIN_STAT
  ⟨0x20030, [], .lo, 0, 0, 0, 0, 0, [0]⟩, -- HLK_VIOL_ADDR_LO
  ⟨0x20034, [], .hi, 0, 0, 0, 0, 0, [0]⟩, -- HLK_VIOL_ADDR_HI
  ⟨0x20038, [], .plain, 0, 0, 0, 0, 0, [0]⟩, -- HLK_VIOL_INFO
  ⟨0x20040, [(24, 0x4)], .plain, 0, 0, 0, 3, 0, [1, 3, 3, 3, 3, 3, 3, 3, 3, 1, 3, 3, 3, 3, 3, 3, 3, 3, 3, 3, 1, 1, 3, 3]⟩, -- HLK_PRIV
  ⟨0x20100, [(8, 0x20)], .lo, 0xfffff000, 0, 0, 0, 0, [0]⟩, -- HLK_WIN_BASE_LO
  ⟨0x20104, [(8, 0x20)], .hi, 0xffffffff, 0, 0, 0, 0, [0]⟩, -- HLK_WIN_BASE_HI
  ⟨0x20108, [(8, 0x20)], .lo, 0xffffffff, 0, 0, 0, 0, [0]⟩, -- HLK_WIN_LIM_LO
  ⟨0x2010c, [(8, 0x20)], .hi, 0xffffffff, 0, 0, 0, 0, [0]⟩, -- HLK_WIN_LIM_HI
  ⟨0x20110, [(8, 0x20)], .plain, 7, 0, 0, 0, 0, [0]⟩, -- HLK_WIN_CTRL
  ⟨0x20400, [(3, 0x100)], .plain, 1, 0, 0, 0, 0, [0]⟩, -- HLK_P_CTRL
  ⟨0x20404, [(3, 0x100)], .plain, 0, 0, 0, 0, 0, [0]⟩, -- HLK_P_STAT
  ⟨0x20408, [(3, 0x100)], .plain, 0, 0, 0, 0, 0, [0]⟩, -- HLK_P_TRAIN
  ⟨0x2040c, [(3, 0x100)], .plain, 0, 0, 0, 0, 0, [0x43210, 0x98765, 0xb000a]⟩, -- HLK_P_MAP
  ⟨0x20410, [(3, 0x100)], .plain, 0, 0, 0, 0, 0, [0]⟩, -- HLK_P_CRED
  ⟨0x20414, [(3, 0x100)], .plain, 0, 0, 0, 0, 0, [0]⟩, -- HLK_P_LAT
  ⟨0x20418, [(3, 0x100)], .rcLo, 0, 0, 0, 0, 0, [0]⟩, -- HLK_P_CW_CNT_LO
  ⟨0x2041c, [(3, 0x100)], .hi, 0, 0, 0, 0, 0, [0]⟩, -- HLK_P_CW_CNT_HI
  ⟨0x20420, [(3, 0x100)], .rcLo, 0, 0, 0, 0, 0, [0]⟩, -- HLK_P_COR_CNT_LO
  ⟨0x20424, [(3, 0x100)], .hi, 0, 0, 0, 0, 0, [0]⟩, -- HLK_P_COR_CNT_HI
  ⟨0x20428, [(3, 0x100)], .rc, 0, 0, 0, 0, 0, [0]⟩, -- HLK_P_UNC_CNT
  ⟨0x2042c, [(3, 0x100)], .rcLo, 0, 0, 0, 0, 0, [0]⟩, -- HLK_P_TX_CNT_LO
  ⟨0x20430, [(3, 0x100)], .hi, 0, 0, 0, 0, 0, [0]⟩, -- HLK_P_TX_CNT_HI
  ⟨0x20434, [(3, 0x100)], .rcLo, 0, 0, 0, 0, 0, [0]⟩, -- HLK_P_RX_CNT_LO
  ⟨0x20438, [(3, 0x100)], .hi, 0, 0, 0, 0, 0, [0]⟩, -- HLK_P_RX_CNT_HI
  ⟨0x2043c, [(3, 0x100)], .rcLo, 0, 0, 0, 0, 0, [0]⟩, -- HLK_P_FWD_CNT_LO
  ⟨0x20440, [(3, 0x100)], .hi, 0, 0, 0, 0, 0, [0]⟩, -- HLK_P_FWD_CNT_HI
  ⟨0x20444, [(3, 0x100)], .rc, 0, 0, 0, 0, 0, [0]⟩, -- HLK_P_NAK_CNT
  ⟨0x20448, [(3, 0x100)], .rc, 0, 0, 0, 0, 0, [0]⟩, -- HLK_P_RPL_CNT
  ⟨0x2044c, [(3, 0x100)], .rc, 0, 0, 0, 0, 0, [0]⟩, -- HLK_P_HCRC_CNT
  ⟨0x20450, [(3, 0x100)], .rc, 0, 0, 0, 0, 0, [0]⟩, -- HLK_P_CRC32_CNT
  ⟨0x20454, [(3, 0x100)], .rc, 0, 0, 0, 0, 0, [0]⟩ -- HLK_P_DROP_CNT
  ]
def Regs.block2b : List RegRow := [
  ⟨0x20458, [(3, 0x100)], .rc, 0, 0, 0, 0, 0, [0]⟩, -- HLK_P_LATE_CNT
  ⟨0x2045c, [(3, 0x100)], .rc, 0, 0, 0, 0, 0, [0]⟩, -- HLK_P_SWAP_CNT
  ⟨0x20800, [(12, 0x20)], .plain, 0xffffffff, 0, 0, 0, 0, [0]⟩, -- HLK_L_CTRL
  ⟨0x20804, [(12, 0x20)], .plain, 0xffffffff, 0, 0, 0, 0, [0]⟩, -- HLK_L_TXEQ
  ⟨0x20808, [(12, 0x20)], .plain, 0, 0, 0, 0, 0, [0]⟩, -- HLK_L_RXEQ
  ⟨0x2080c, [(12, 0x20)], .plain, 0xffffff, 0, 0, 0, 0, [0]⟩, -- HLK_L_HLTH
  ⟨0x20810, [(12, 0x20)], .plain, 0, 0, 0, 0, 0, [0]⟩, -- HLK_L_EYE
  ⟨0x20814, [(12, 0x20)], .rc, 0, 0, 0, 0, 0, [0]⟩ -- HLK_L_SER_CNT
  ]
def Regs.block2 : List RegRow := Regs.block2a ++ Regs.block2b

/-- The register rows of block 3 (R340). -/
def Regs.block3 : List RegRow := [
  ⟨0x30000, [], .plain, 0xf6, 0, 0, 0, 0, [6]⟩, -- TSK_CTRL
  ⟨0x30004, [], .plain, 0, 0, 0, 0, 0, [0x30000000]⟩, -- TSK_STATE
  ⟨0x30008, [], .plain, 0, 0, 0, 0, 3, [0]⟩, -- TSK_CMD
  ⟨0x3000c, [], .plain, 0, 0xf, 0, 0, 0, [0]⟩, -- TSK_INT_STAT
  ⟨0x30010, [], .plain, 0xf, 0, 0, 0, 0, [0]⟩, -- TSK_INT_EN
  ⟨0x30014, [], .plain, 0, 0, 0, 0, 0, [0]⟩, -- TSK_PROG
  ⟨0x30018, [], .plain, 0, 0, 0, 0, 0, [0]⟩, -- TSK_LOW_LBA
  ⟨0x3001c, [], .plain, 0, 0, 0, 0, 0, [0]⟩, -- TSK_ERR_LBA
  ⟨0x30020, [], .plain, 0, 0, 0, 0, 0, [0]⟩, -- TSK_DISC
  ⟨0x30024, [], .plain, 0, 0, 0, 0, 0, [0]⟩, -- TSK_EVT_SEQ
  ⟨0x30028, [], .plain, 0, 0, 0, 0, 0, [0]⟩, -- TSK_HTAG
  ⟨0x3002c, [], .plain, 0, 0, 0, 0, 0, [0]⟩, -- TSK_DETAIL
  ⟨0x30040, [(10, 0x4)], .plain, 0, 0, 0, 0, 0, [0]⟩, -- TSK_READY
  ⟨0x30080, [], .plain, 0, 0, 0, 0, 0, [0]⟩, -- TSK_SG_STAT
  ⟨0x30084, [], .lo, 0, 0, 0, 0, 0, [0]⟩, -- TSK_SG_ADDR_LO
  ⟨0x30088, [], .hi, 0, 0, 0, 0, 0, [0]⟩, -- TSK_SG_ADDR_HI
  ⟨0x3008c, [], .plain, 0, 0, 0, 0, 0, [0]⟩, -- TSK_CAT_STAT
  ⟨0x300a0, [], .rc, 0, 0, 0, 0, 0, [0]⟩, -- TSK_DONE_CNT
  ⟨0x300a4, [], .rc, 0, 0, 0, 0, 0, [0]⟩, -- TSK_FRZ_CNT
  ⟨0x300a8, [], .rc, 0, 0, 0, 0, 0, [0]⟩, -- TSK_NAK_CNT
  ⟨0x300ac, [], .rc, 0, 0, 0, 0, 0, [0]⟩, -- TSK_ILL_CNT
  ⟨0x30100, [(16, 0x4)], .plain, 0xffffffff, 0, 0, 0, 0, [0]⟩, -- TSK_DESC
  ⟨0x30140, [(16, 0x4)], .plain, 0, 0, 0, 0, 0, [0]⟩, -- TSK_RES
  ⟨0x30180, [], .plain, 0x3f, 0, 0, 0, 0, [0]⟩, -- TSK_ELOG_IDX
  ⟨0x30184, [], .plain, 0, 0, 0, 0, 0, [0]⟩, -- TSK_ELOG_HEAD
  ⟨0x30188, [(8, 0x4)], .plain, 0, 0, 0, 0, 0, [0]⟩, -- TSK_ELOG_DATA
  ⟨0x30200, [(24, 0x4)], .rc, 0, 0, 0, 0, 0, [0]⟩ -- TSK_EC_CNT
  ]

/-- The register rows of block 4 (R158, R244, R373). -/
def Regs.block4a : List RegRow := [
  ⟨0x48000, [], .plain, 0xffffffff, 0, 0, 0, 0, [0x8020624]⟩, -- RCV_CFG
  ⟨0x48004, [], .plain, 0, 1, 0, 0, 0, [0]⟩, -- RCV_STAT
  ⟨0x48008, [], .plain, 0, 0, 0, 0, 0, [0x38000000]⟩, -- RCV_QBASE
  ⟨0x4800c, [], .plain, 0, 0, 0, 0, 0, [0]⟩, -- RCV_QPTR
  ⟨0x48040, [(16, 0x4)], .plain, 0xfffff000, 0, 0, 0, 0, [0x8c008000, 0x18000000, 0x30000000, 0xb000d000, 0xb040d000, 0xb080d000, 0xb0c0d000, 0xb038d000, 0xb008d000, 0xb030d000, 0xb010d000, 0xb028d000, 0xb018d000, 0xb001d000, 0xb002e000, 0xf043e000]⟩, -- RCV_RUNG
  ⟨0x48080, [(16, 0x4)], .rc, 0, 0, 0, 0, 0, [0]⟩, -- RCV_RUNG_CNT
  ⟨0x48100, [(4, 0x4)], .plain, 0, 0, 0, 0, 0, [0]⟩, -- RCV_H_STAT
  ⟨0x48110, [(4, 0x4)], .rc, 0, 0, 0, 0, 0, [0]⟩, -- RCV_H_RP_CNT
  ⟨0x48200, [(16, 0x10)], .plain, 0, 0, 0, 0, 0, [0]⟩, -- RCV_B_STAT
  ⟨0x48204, [(16, 0x10)], .rc, 0, 0, 0, 0, 0, [0]⟩, -- RCV_B_RECOV_CNT
  ⟨0x48208, [(16, 0x10)], .rc, 0, 0, 0, 0, 0, [0]⟩, -- RCV_B_UNREC_CNT
  ⟨0x4a000, [], .plain, 1, 0, 0, 0, 0, [0]⟩, -- LSV_CTRL
  ⟨0x4a004, [], .plain, 0, 7, 0, 0, 0, [0]⟩, -- LSV_STAT
  ⟨0x4a008, [], .plain, 0, 0xf, 0, 0, 0, [0]⟩, -- LSV_INT_STAT
  ⟨0x4a00c, [], .plain, 0xf, 0, 0, 0, 0, [0]⟩, -- LSV_INT_EN
  ⟨0x4a040, [(2, 0x20)], .plain, 1, 0, 0, 0, 0, [0]⟩, -- LSV_S_LEAD
  ⟨0x4a044, [(2, 0x20)], .plain, 0xfff00000, 0, 0xffff, 0, 0, [0x10300000]⟩, -- LSV_S_SEEKCFG
  ⟨0x4a048, [(2, 0x20)], .plain, 0, 0, 0, 0, 0, [0]⟩, -- LSV_S_STAT
  ⟨0x4a04c, [(2, 0x20)], .rc, 0, 0, 0, 0, 0, [0]⟩, -- LSV_S_SEEK_CNT
  ⟨0x4a100, [(4, 0x40)], .plain, 0, 0, 0, 0, 0xf0ffff00, [0]⟩, -- LSV_H_CMD
  ⟨0x4a104, [(4, 0x40)], .plain, 0, 0x1000000, 0, 0, 0, [0]⟩, -- LSV_H_STAT
  ⟨0x4a108, [(4, 0x40)], .plain, 0xf1fffc00, 0, 0, 0, 0, [0]⟩, -- LSV_H_TGT
  ⟨0x4a10c, [(4, 0x40)], .plain, 0x80001fff, 0, 0, 0, 0, [0x80000000]⟩, -- LSV_H_JANG
  ⟨0x4a110, [(4, 0x40)], .plain, 0xffffffff, 0, 0, 0, 0, [0x320fa10b]⟩, -- LSV_H_FSRCH
  ⟨0x4a114, [(4, 0x40)], .plain, 0xffffffff, 0, 0, 0, 0, [0x80104032]⟩, -- LSV_H_LOSS
  ⟨0x4a118, [(4, 0x40)], .plain, 0xffffffff, 0, 0, 0, 0, [0x28303040]⟩, -- LSV_H_KICK
  ⟨0x4a11c, [(4, 0x40)], .plain, 0xffffffff, 0, 0, 0, 0, [0x20181840]⟩, -- LSV_H_TKICK
  ⟨0x4a120, [(4, 0x40)], .plain, 0, 0, 0xffffffff, 0, 0, [0]⟩, -- LSV_H_SETBASE
  ⟨0x4a124, [(4, 0x40)], .plain, 0, 0, 0, 0, 0, [0]⟩, -- LSV_H_SUMREF
  ⟨0x4a128, [(4, 0x40)], .rc, 0, 0, 0, 0, 0, [0]⟩, -- LSV_H_FL_CNT
  ⟨0x4a12c, [(4, 0x40)], .rc, 0, 0, 0, 0, 0, [0]⟩, -- LSV_H_TL_CNT
  ⟨0x4a130, [(4, 0x40)], .rc, 0, 0, 0, 0, 0, [0]⟩, -- LSV_H_SLIP_CNT
  ⟨0x4a134, [(4, 0x40)], .rc, 0, 0, 0, 0, 0, [0]⟩, -- LSV_H_LC_CNT
  ⟨0x4a138, [(4, 0x40)], .rc, 0, 0, 0, 0, 0, [0]⟩, -- LSV_H_JMP_CNT
  ⟨0x4a13c, [(4, 0x40)], .rc, 0, 0, 0, 0, 0, [0]⟩, -- LSV_H_RCV_CNT
  ⟨0x4a200, [(4, 0x20), (8, 0x4)], .plain, 0xffff, 0, 0, 0, 0, [0]⟩, -- LSV_SA_POS
  ⟨0x40000, [], .plain, 0, 0, 0, 6, 0, [0]⟩, -- SEQ_CTRL
  ⟨0x40004, [], .plain, 0, 0x10000000, 0, 0, 0, [0x80000000]⟩, -- SEQ_STAT
  ⟨0x40008, [], .plain, 0, 0, 0, 0, 0, [2]⟩, -- SEQ_MODE
  ⟨0x4000c, [], .plain, 0, 0, 0, 0, 0, [0x200]⟩ -- SEQ_PC
  ]
def Regs.block4b : List RegRow := [
  ⟨0x40010, [], .plain, 0, 0, 0, 0, 0, [0]⟩, -- SEQ_EPC
  ⟨0x40014, [], .plain, 0, 0, 0, 0, 0, [0]⟩, -- SEQ_ECAUSE
  ⟨0x40018, [], .plain, 0, 0, 0, 0, 0, [0]⟩, -- SEQ_EMODE
  ⟨0x4001c, [], .lo, 0, 0, 0, 0, 0, [0]⟩, -- SEQ_EADDR_LO
  ⟨0x40020, [], .hi, 0, 0, 0, 0, 0, [0]⟩, -- SEQ_EADDR_HI
  ⟨0x40024, [], .plain, 0, 0, 0, 0, 0, [0]⟩, -- SEQ_EVPC
  ⟨0x40028, [], .plain, 0, 0, 0, 0, 0, [0]⟩, -- SEQ_EVMODE
  ⟨0x4002c, [], .plain, 0, 0xffffffff, 0, 0, 0, [0]⟩, -- SEQ_INT_STAT
  ⟨0x40030, [], .plain, 0xffffffff, 0, 0, 0, 0, [0]⟩, -- SEQ_INT_EN
  ⟨0x40034, [], .plain, 0, 0, 0, 0, 0, [0]⟩, -- SEQ_UCODE_VER
  ⟨0x40038, [], .plain, 0, 0, 0, 0, 0, [0]⟩, -- SEQ_PATCH_VER
  ⟨0x4003c, [], .plain, 0, 0, 0x3fff, 0, 0, [0]⟩, -- SEQ_ILLVEC
  ⟨0x40040, [], .plain, 0x3fff, 0, 0, 0, 0, [0]⟩, -- SEQ_CS_ADDR
  ⟨0x40044, [(4, 0x4)], .plain, 0, 0, 0, 0xffffffff, 0, [0]⟩, -- SEQ_CS_DATA
  ⟨0x40054, [], .plain, 0xff, 0, 0, 0, 0, [0]⟩, -- SEQ_DISP_SEL
  ⟨0x40058, [], .plain, 0, 0, 0, 0, 0, [0]⟩, -- SEQ_DISP_DATA
  ⟨0x4005c, [], .plain, 0x80ffffff, 0, 0, 0, 0, [0]⟩, -- SEQ_WDOG
  ⟨0x40080, [(2, 0x4)], .plain, 0, 0, 0, 0, 0, [0]⟩, -- SEQ_EVT_PEND
  ⟨0x40088, [(2, 0x4)], .plain, 0xffffffff, 0, 0, 0, 0, [0]⟩, -- SEQ_EVT_EN
  ⟨0x40090, [], .plain, 0, 0, 0, 0, 0, [0]⟩, -- SEQ_EVT_LAST
  ⟨0x40094, [], .rc, 0, 0, 0, 0, 0, [0]⟩, -- SEQ_EVT_TAKEN_CNT
  ⟨0x40098, [], .rc, 0, 0, 0, 0, 0, [0]⟩, -- SEQ_EVT_MERGE_CNT
  ⟨0x4009c, [], .plain, 0, 0, 0, 0xffffffff, 0, [0]⟩, -- SEQ_EVT_FORCE
  ⟨0x400c0, [(4, 0x8)], .plain, 0, 0, 0, 0, 0, [0]⟩, -- SEQ_TMR_CNT
  ⟨0x400c4, [(4, 0x8)], .plain, 0xffffffff, 0, 0, 0, 0, [0]⟩, -- SEQ_TMR_RLD
  ⟨0x40100, [], .plain, 0, 0, 0, 0, 0, [0]⟩, -- SEQ_LSTK_PTR
  ⟨0x40104, [(8, 0x4)], .plain, 0, 0, 0, 0, 0, [0]⟩, -- SEQ_LSTK_START
  ⟨0x40124, [(8, 0x4)], .plain, 0, 0, 0, 0, 0, [0]⟩, -- SEQ_LSTK_END
  ⟨0x40144, [(8, 0x4)], .plain, 0, 0, 0, 0, 0, [0]⟩, -- SEQ_LSTK_CNT
  ⟨0x40200, [], .plain, 0, 0, 0, 0, 0, [0]⟩, -- SEQ_CSTK_PTR
  ⟨0x40204, [(16, 0x4)], .plain, 0, 0, 0, 0, 0, [0]⟩, -- SEQ_CSTK
  ⟨0x40300, [(32, 0x8)], .lo, 0, 0, 0, 0, 0, [0]⟩, -- SEQ_G_LO
  ⟨0x40304, [(32, 0x8)], .hi, 0, 0, 0, 0, 0, [0]⟩, -- SEQ_G_HI
  ⟨0x40400, [], .lo, 0, 0, 0, 0, 0, [0]⟩, -- SEQ_INSTR_CNT_LO
  ⟨0x40404, [], .hi, 0, 0, 0, 0, 0, [0]⟩, -- SEQ_INSTR_CNT_HI
  ⟨0x40408, [], .lo, 0, 0, 0, 0, 0, [0]⟩, -- SEQ_STALL_CNT_LO
  ⟨0x4040c, [], .hi, 0, 0, 0, 0, 0, [0]⟩, -- SEQ_STALL_CNT_HI
  ⟨0x40440, [(16, 0x4)], .rc, 0, 0, 0, 0, 0, [0]⟩, -- SEQ_XC_CNT
  ⟨0x40480, [(4, 0x4)], .plain, 0, 0, 0, 0xffffffff, 0, [0]⟩, -- SEQ_BKPT
  ⟨0x40490, [], .plain, 0, 0, 0, 0xf, 0, [0]⟩ -- SEQ_DBG_CTRL
  ]
def Regs.block4c : List RegRow := [
  ⟨0x40494, [], .plain, 0, 0, 0, 0, 0, [0]⟩, -- SEQ_DBG_STAT
  ⟨0x40500, [(48, 0x4)], .plain, 0xffffffff, 0, 0, 0, 0, [0]⟩ -- SEQ_MBOX
  ]
def Regs.block4 : List RegRow := Regs.block4a ++ Regs.block4b ++ Regs.block4c

/-- The register rows of block 5 (R375). -/
def Regs.block5 : List RegRow := [
  ⟨0x50000, [], .plain, 0, 0, 0, 1, 0, [0]⟩, -- CCH_CTRL
  ⟨0x50004, [], .plain, 0, 0, 0, 0, 0, [0]⟩, -- CCH_STAT
  ⟨0x50008, [], .plain, 0, 0, 0, 0, 7, [0]⟩, -- CCH_OP
  ⟨0x5000c, [], .lo, 0xffffffff, 0, 0, 0, 0, [0]⟩, -- CCH_OP_ADDR_LO
  ⟨0x50010, [], .hi, 0xffffffff, 0, 0, 0, 0, [0]⟩, -- CCH_OP_ADDR_HI
  ⟨0x50014, [], .plain, 0, 0xffffffff, 0, 0, 0, [0]⟩, -- CCH_INT_STAT
  ⟨0x50018, [], .plain, 0xffffffff, 0, 0, 0, 0, [0]⟩, -- CCH_INT_EN
  ⟨0x5001c, [], .plain, 0, 0, 0, 0, 0, [0]⟩, -- CCH_FILL_STAT
  ⟨0x50040, [(8, 0x10)], .plain, 0, 0, 0, 0x7fffff, 0, [0]⟩, -- CCH_REG_BASE
  ⟨0x50044, [(8, 0x10)], .plain, 0, 0, 0, 0x7fffff, 0, [0]⟩, -- CCH_REG_LIM
  ⟨0x50048, [(8, 0x10)], .plain, 0, 0, 0, 0x8f, 0, [3]⟩, -- CCH_REG_ATTR
  ⟨0x50100, [], .lo, 0, 0, 0, 0, 0, [0]⟩, -- CCH_HIT_LO
  ⟨0x50104, [], .hi, 0, 0, 0, 0, 0, [0]⟩, -- CCH_HIT_HI
  ⟨0x50108, [], .lo, 0, 0, 0, 0, 0, [0]⟩, -- CCH_MISS_LO
  ⟨0x5010c, [], .hi, 0, 0, 0, 0, 0, [0]⟩, -- CCH_MISS_HI
  ⟨0x50110, [], .lo, 0, 0, 0, 0, 0, [0]⟩, -- CCH_VHIT_LO
  ⟨0x50114, [], .hi, 0, 0, 0, 0, 0, [0]⟩, -- CCH_VHIT_HI
  ⟨0x50118, [], .lo, 0, 0, 0, 0, 0, [0]⟩, -- CCH_WB_LO
  ⟨0x5011c, [], .hi, 0, 0, 0, 0, 0, [0]⟩, -- CCH_WB_HI
  ⟨0x50120, [], .lo, 0, 0, 0, 0, 0, [0]⟩, -- CCH_EVICT_LO
  ⟨0x50124, [], .hi, 0, 0, 0, 0, 0, [0]⟩, -- CCH_EVICT_HI
  ⟨0x50128, [], .lo, 0, 0, 0, 0, 0, [0]⟩, -- CCH_STALL_LO
  ⟨0x5012c, [], .hi, 0, 0, 0, 0, 0, [0]⟩, -- CCH_STALL_HI
  ⟨0x50130, [], .lo, 0, 0, 0, 0, 0, [0]⟩, -- CCH_UNC_LO
  ⟨0x50134, [], .hi, 0, 0, 0, 0, 0, [0]⟩, -- CCH_UNC_HI
  ⟨0x50138, [], .lo, 0, 0, 0, 0, 0, [0]⟩, -- CCH_MAINT_LO
  ⟨0x5013c, [], .hi, 0, 0, 0, 0, 0, [0]⟩, -- CCH_MAINT_HI
  ⟨0x50180, [], .plain, 0x3f, 0, 0, 0, 0, [0]⟩, -- CCH_TAG_SEL
  ⟨0x50184, [], .plain, 0, 0, 0, 0, 0, [0]⟩, -- CCH_TAG_DATA
  ⟨0x501c0, [(16, 0x4)], .plain, 0, 0, 0, 0, 0, [0]⟩, -- CCH_LINE_DATA
  ⟨0x50200, [(8, 0x4)], .plain, 0, 0, 0, 0, 0, [0]⟩, -- CCH_VIC_TAG
  ⟨0x50220, [], .rc, 0, 0, 0, 0, 0, [0]⟩, -- CCH_ECC_CNT
  ⟨0x50224, [], .plain, 0, 0, 0, 0, 0, [0]⟩, -- CCH_ECC_ADDR
  ⟨0x50228, [], .rc, 0, 0, 0, 0, 0, [0]⟩, -- CCH_POISON_CNT
  ⟨0x5022c, [], .plain, 0, 0, 0, 0, 0, [0]⟩, -- CCH_LRU_STAT
  ⟨0x50230, [], .plain, 0, 0, 0, 0, 0, [0]⟩, -- CCH_FILL_LAT
  ⟨0x50234, [], .plain, 0, 0, 0, 0, 0, [0]⟩ -- CCH_REMAP_STAT
  ]

/-- The register rows of block 6 (R398). -/
def Regs.block6a : List RegRow := [
  ⟨0x60000, [], .plain, 1, 0, 0, 0, 0, [0]⟩, -- DMC_CTRL
  ⟨0x60004, [], .plain, 0, 1, 0, 0, 0, [0]⟩, -- DMC_STAT
  ⟨0x60008, [], .plain, 0, 0xffffffff, 0, 0, 0, [0]⟩, -- DMC_INT_STAT
  ⟨0x6000c, [], .plain, 0xffffffff, 0, 0, 0, 0, [0]⟩, -- DMC_INT_EN
  ⟨0x60010, [], .plain, 0, 0, 0xf, 0, 0, [3]⟩, -- DMC_ILV
  ⟨0x60014, [], .plain, 0xffff, 0, 0, 0, 0, [0xfee8]⟩, -- DMC_PGPRED
  ⟨0x60018, [], .plain, 0xff, 0, 0, 0, 0, [0x10]⟩, -- DMC_PGTO
  ⟨0x6001c, [], .plain, 0xffffffff, 0, 0, 0, 0, [0]⟩, -- DMC_ARB
  ⟨0x60020, [], .plain, 0, 0, 0xffffffff, 0, 0, [0]⟩, -- DMC_REFCFG
  ⟨0x60024, [], .plain, 0, 0, 0, 0, 0xffffffff, [0]⟩, -- DMC_MR_CMD
  ⟨0x60028, [], .plain, 0xffffffff, 0, 0, 0, 0, [0]⟩, -- DMC_MR_DATA
  ⟨0x6002c, [], .plain, 0xffffffff, 0, 0, 0, 0, [0]⟩, -- DMC_CCACHE_CFG
  ⟨0x60030, [], .lo, 0, 0, 0, 0, 0, [0]⟩, -- DMC_RD_CNT_LO
  ⟨0x60034, [], .hi, 0, 0, 0, 0, 0, [0]⟩, -- DMC_RD_CNT_HI
  ⟨0x60038, [], .lo, 0, 0, 0, 0, 0, [0]⟩, -- DMC_WR_CNT_LO
  ⟨0x6003c, [], .hi, 0, 0, 0, 0, 0, [0]⟩, -- DMC_WR_CNT_HI
  ⟨0x60040, [], .plain, 0, 0, 0, 0, 0, [0]⟩, -- DMC_LAT_STAT
  ⟨0x60044, [], .plain, 0, 0, 0, 0, 0, [0]⟩, -- DMC_BW_STAT
  ⟨0x61000, [(4, 0x400)], .plain, 1, 0, 0, 0, 0, [0]⟩, -- DMC_CH_CTRL
  ⟨0x61004, [(4, 0x400)], .plain, 0, 0, 0, 0, 0, [0]⟩, -- DMC_CH_STAT
  ⟨0x61008, [(4, 0x400), (10, 0x4)], .plain, 0, 0, 0xffffffff, 0, 0, [0]⟩, -- DMC_CH_TIM
  ⟨0x61030, [(4, 0x400)], .plain, 0, 0, 0, 0, 0, [0]⟩, -- DMC_CH_TEMP
  ⟨0x61034, [(4, 0x400)], .rc, 0, 0, 0, 0, 0, [0]⟩, -- DMC_CH_REF_CNT
  ⟨0x61038, [(4, 0x400)], .rc, 0, 0, 0, 0, 0, [0]⟩, -- DMC_CH_ACT_CNT
  ⟨0x6103c, [(4, 0x400)], .rc, 0, 0, 0, 0, 0, [0]⟩, -- DMC_CH_HIT_CNT
  ⟨0x61040, [(4, 0x400), (16, 0x4)], .plain, 0x000001ff, 0, 0, 0, 0, [0]⟩, -- DMC_DQ_RDLY
  ⟨0x61080, [(4, 0x400), (16, 0x4)], .plain, 0x000001ff, 0, 0, 0, 0, [0]⟩, -- DMC_DQ_WDLY
  ⟨0x610c0, [(4, 0x400)], .plain, 0x000001ff, 0, 0, 0, 0, [0]⟩, -- DMC_CA_DLY
  ⟨0x610c4, [(4, 0x400)], .plain, 0x000001ff, 0, 0, 0, 0, [0]⟩, -- DMC_WCK_DLY
  ⟨0x610c8, [(4, 0x400)], .plain, 0x000001ff, 0, 0, 0, 0, [0]⟩, -- DMC_RDQS_DLY
  ⟨0x610cc, [(4, 0x400)], .plain, 0xffffffff, 0, 0, 0, 0, [0]⟩, -- DMC_VREF
  ⟨0x61100, [(4, 0x400)], .plain, 0xffff0001, 0, 0, 0, 6, [0x1400000]⟩, -- DMC_TRN_CTRL
  ⟨0x61104, [(4, 0x400)], .plain, 0, 0, 0, 0, 0, [0]⟩, -- DMC_TRN_STAT
  ⟨0x61108, [(4, 0x400)], .plain, 0xffffffff, 0, 0, 0, 0, [0]⟩, -- DMC_TRN_SEED
  ⟨0x6110c, [(4, 0x400), (4, 0x4)], .plain, 0xffffffff, 0, 0, 0, 0, [0]⟩, -- DMC_TRN_USER
  ⟨0x6111c, [(4, 0x400)], .plain, 0xffffffff, 0, 0, 0, 0, [0]⟩, -- DMC_TRN_ADDR
  ⟨0x61120, [(4, 0x400)], .plain, 0xffffffff, 0, 0, 0, 0, [0]⟩, -- DMC_TRN_LEN
  ⟨0x61124, [(4, 0x400)], .plain, 0, 0, 0, 0, 0, [0]⟩, -- DMC_TRN_ERRMAP
  ⟨0x61128, [(4, 0x400)], .lo, 0, 0, 0, 0, 0, [0]⟩, -- DMC_TRN_ERRCNT_LO
  ⟨0x6112c, [(4, 0x400)], .hi, 0, 0, 0, 0, 0, [0]⟩ -- DMC_TRN_ERRCNT_HI
  ]
def Regs.block6b : List RegRow := [
  ⟨0x61130, [(4, 0x400)], .plain, 0xffffffff, 0, 0, 0, 0, [0]⟩, -- DMC_TRN_SWEEP_CFG
  ⟨0x61134, [(4, 0x400)], .plain, 0xffffffff, 0, 0, 0, 0, [0]⟩, -- DMC_TRN_SEL
  ⟨0x61138, [(4, 0x400), (3, 0x4)], .plain, 0, 0, 0, 0, 0, [0]⟩, -- DMC_TRN_SWEEP_RES
  ⟨0x61180, [(4, 0x400), (2, 0x4)], .plain, 0, 0, 0, 0, 0, [0]⟩, -- DMC_BANK_HIST
  ⟨0x61188, [(4, 0x400)], .rc, 0, 0, 0, 0, 0, [0]⟩, -- DMC_PG_KEEP_CNT
  ⟨0x6118c, [(4, 0x400)], .rc, 0, 0, 0, 0, 0, [0]⟩ -- DMC_PG_CLOSE_CNT
  ]
def Regs.block6 : List RegRow := Regs.block6a ++ Regs.block6b

/-- The register rows of block 7 (R399). -/
def Regs.block7 : List RegRow := [
  ⟨0x70000, [], .plain, 1, 0, 0, 0, 0, [0]⟩, -- MIC_CTRL
  ⟨0x70004, [], .plain, 0, 0x1f, 0, 0, 0, [0]⟩, -- MIC_STAT
  ⟨0x70008, [], .plain, 0, 0xffffffff, 0, 0, 0, [0]⟩, -- MIC_INT_STAT
  ⟨0x7000c, [], .plain, 0xffffffff, 0, 0, 0, 0, [0]⟩, -- MIC_INT_EN
  ⟨0x70010, [], .plain, 0, 0, 0, 0, 1, [0]⟩, -- MIC_FILL_CTRL
  ⟨0x70014, [], .plain, 0, 0, 0, 0, 0, [0]⟩, -- MIC_FILL_STAT
  ⟨0x70018, [], .plain, 0, 0, 0, 3, 0, [0]⟩, -- MIC_POISON_CFG
  ⟨0x7001c, [], .plain, 0, 0, 0, 0xffffffff, 0, [0]⟩, -- MIC_ECC_INJ
  ⟨0x70040, [], .plain, 0xc0ffffff, 0, 0, 0, 0, [0xc0100040]⟩, -- MIC_SKINK_CFG
  ⟨0x70044, [], .plain, 0, 0, 0, 0, 0, [0]⟩, -- MIC_SKINK_DEBT
  ⟨0x70048, [], .plain, 0, 0, 0, 0, 0, [0]⟩, -- MIC_SKINK_STAT
  ⟨0x7004c, [], .lo, 0, 0, 0, 0, 0, [0]⟩, -- MIC_SKINK_POS_LO
  ⟨0x70050, [], .hi, 0, 0, 0, 0, 0, [0]⟩, -- MIC_SKINK_POS_HI
  ⟨0x70054, [], .plain, 0, 0, 0, 0, 0, [0]⟩, -- MIC_SKINK_LAP
  ⟨0x70058, [], .plain, 0, 0, 0, 0, 0, [0]⟩, -- MIC_SKINK_LAPMAX
  ⟨0x7005c, [], .plain, 0, 0, 0, 0, 0, [0]⟩, -- MIC_SKINK_LAPS
  ⟨0x70060, [], .plain, 0, 0, 0, 0, 0, [0]⟩, -- MIC_SKINK_SRAM_LAP
  ⟨0x70064, [], .rc, 0, 0, 0, 0, 0, [0]⟩, -- MIC_SKINK_SKIP_CNT
  ⟨0x70080, [], .plain, 0xffffff, 0, 0, 0, 0, [0x1004]⟩, -- MIC_D_CFG
  ⟨0x70084, [], .rc, 0, 0, 0, 0, 0, [0]⟩, -- MIC_D_CE_CNT
  ⟨0x70088, [], .rc, 0, 0, 0, 0, 0, [0]⟩, -- MIC_D_UE_CNT
  ⟨0x7008c, [], .rc, 0, 0, 0, 0, 0, [0]⟩, -- MIC_D_PSN_CNT
  ⟨0x70090, [], .rc, 0, 0, 0, 0, 0, [0]⟩, -- MIC_D_CONS_CNT
  ⟨0x70094, [], .lo, 0, 0, 0, 0, 0, [0]⟩, -- MIC_D_ERR_ADDR_LO
  ⟨0x70098, [], .hi, 0, 0, 0, 0, 0, [0]⟩, -- MIC_D_ERR_ADDR_HI
  ⟨0x7009c, [], .rc, 0, 0, 0, 0, 0, [0]⟩, -- MIC_D_PIN_CNT
  ⟨0x70100, [(64, 0x4)], .plain, 0, 0, 0, 0, 0, [0]⟩, -- MIC_DRM
  ⟨0x70200, [], .plain, 0xf, 0, 0, 0, 0, [2]⟩, -- MIC_S_CFG
  ⟨0x70204, [], .rc, 0, 0, 0, 0, 0, [0]⟩, -- MIC_S_CE_CNT
  ⟨0x70208, [], .rc, 0, 0, 0, 0, 0, [0]⟩, -- MIC_S_UE_CNT
  ⟨0x7020c, [], .rc, 0, 0, 0, 0, 0, [0]⟩, -- MIC_S_PSN_CNT
  ⟨0x70210, [], .rc, 0, 0, 0, 0, 0, [0]⟩, -- MIC_S_CONS_CNT
  ⟨0x70214, [], .plain, 0, 0, 0, 0, 0, [0]⟩, -- MIC_S_ERR_LOC
  ⟨0x70218, [], .plain, 0, 0, 0, 0, 0, [0]⟩, -- MIC_S_ERR_SYND
  ⟨0x7021c, [], .plain, 0xffffffff, 0, 0, 0, 0, [0]⟩, -- MIC_S_RMP_SEL
  ⟨0x70220, [], .plain, 0, 0, 0, 0, 0, [0]⟩, -- MIC_S_RMP_DATA
  ⟨0x70224, [], .plain, 0, 0, 0, 0, 0, [0]⟩, -- MIC_S_RMP_FREE
  ⟨0x70300, [(20, 0x8)], .rc, 0, 0, 0, 0, 0, [0]⟩, -- MIC_SCLS_CNT
  ⟨0x70304, [(20, 0x8)], .plain, 0, 0, 0, 0, 0, [0]⟩ -- MIC_SCLS_RMP
  ]

/-- The register rows of block 8 (R426). -/
def Regs.block8 : List RegRow := [
  ⟨0x80000, [], .plain, 1, 0, 0, 0, 0, [0]⟩, -- FLC_CTRL
  ⟨0x80004, [], .plain, 0, 0x3f000000, 0, 0, 0, [0]⟩, -- FLC_STAT
  ⟨0x80008, [], .plain, 0, 0, 0, 0, 0xf0000000, [0]⟩, -- FLC_CMD
  ⟨0x8000c, [], .plain, 0x83ffffff, 0, 0, 0, 0, [0]⟩, -- FLC_ADDR
  ⟨0x80010, [], .plain, 0xffffffff, 0, 0, 0, 0, [0]⟩, -- FLC_WDATA
  ⟨0x80014, [], .plain, 0, 0, 0, 0, 0, [0]⟩, -- FLC_RDATA
  ⟨0x80018, [], .plain, 0, 0xffffffff, 0, 0, 0, [0]⟩, -- FLC_INT_STAT
  ⟨0x8001c, [], .plain, 0xffffffff, 0, 0, 0, 0, [0]⟩, -- FLC_INT_EN
  ⟨0x80020, [], .plain, 0, 0, 0, 0, 0, [0]⟩, -- FLC_RUNTIME
  ⟨0x80024, [], .plain, 0, 0, 0, 0, 0, [0]⟩, -- FLC_SUSP_ADDR
  ⟨0x80028, [], .plain, 0, 0, 0, 0, 0, [0]⟩, -- FLC_LAST_MID
  ⟨0x80040, [], .rc, 0, 0, 0, 0, 0, [0]⟩, -- FLC_PROG_CNT
  ⟨0x80044, [], .rc, 0, 0, 0, 0, 0, [0]⟩, -- FLC_ERASE_CNT
  ⟨0x80048, [], .rc, 0, 0, 0, 0, 0, [0]⟩, -- FLC_SUSP_CNT
  ⟨0x8004c, [], .rc, 0, 0, 0, 0, 0, [0]⟩, -- FLC_BUSY_CNT
  ⟨0x80050, [], .rc, 0, 0, 0, 0, 0, [0]⟩, -- FLC_PFAIL_CNT
  ⟨0x80054, [], .rc, 0, 0, 0, 0, 0, [0]⟩, -- FLC_EFAIL_CNT
  ⟨0x80060, [], .plain, 0, 0, 0, 0, 3, [0]⟩, -- FLC_MC_CMD
  ⟨0x80064, [(2, 0x4)], .plain, 0, 0, 0, 0, 0, [0]⟩, -- FLC_MC_VAL
  ⟨0x8006c, [(2, 0x4)], .plain, 0, 0, 0, 0, 0, [0]⟩, -- FLC_MC_STAT
  ⟨0x80080, [], .plain, 0, 0, 0, 0, 0, [0]⟩, -- FLC_SMAP_FREE
  ⟨0x80084, [], .plain, 0, 0, 0, 0, 0, [0]⟩, -- FLC_ERR_ADDR
  ⟨0x80088, [], .plain, 0, 0, 0, 0, 0, [0]⟩, -- FLC_DIE_ID
  ⟨0x8008c, [], .plain, 0, 0, 0, 0, 0, [0]⟩, -- FLC_CAT_STAT
  ⟨0x80100, [(64, 0x4)], .plain, 0, 0, 0, 0, 0, [0]⟩ -- FLC_SMAP
  ]

/-- The register rows of block 9 (R454). -/
def Regs.block9 : List RegRow := [
  ⟨0x90000, [], .plain, 1, 0, 0, 0, 0, [0]⟩, -- CPH_CTRL
  ⟨0x90004, [], .plain, 0, 0xff00000, 0, 0, 0, [0x40000000]⟩, -- CPH_STAT
  ⟨0x90008, [], .plain, 0, 0, 0, 0, 3, [0]⟩, -- CPH_LOCK
  ⟨0x9000c, [], .plain, 0, 0, 0, 0, 0xf7331100, [0]⟩, -- CPH_CMD
  ⟨0x90010, [], .plain, 0, 0xffffffff, 0, 0, 0, [0]⟩, -- CPH_INT_STAT
  ⟨0x90014, [], .plain, 0xffffffff, 0, 0, 0, 0, [0]⟩, -- CPH_INT_EN
  ⟨0x90018, [], .plain, 0, 0, 0, 0, 0, [0]⟩, -- CPH_KEYSTAT
  ⟨0x9001c, [], .plain, 0xffffffff, 0, 0, 0, 0, [0]⟩, -- CPH_SB_PTR
  ⟨0x90020, [], .plain, 0, 0, 0, 0, 0, [0]⟩, -- CPH_SB_LEN
  ⟨0x90024, [], .plain, 0, 0, 0, 0, 0, [0]⟩, -- CPH_DRBG_STAT
  ⟨0x90040, [(4, 0x4)], .plain, 0xffffffff, 0, 0, 0, 0, [0]⟩, -- CPH_IN
  ⟨0x90050, [(4, 0x4)], .plain, 0xffffffff, 0, 0, 0, 0, [0]⟩, -- CPH_DATA
  ⟨0x90060, [(4, 0x4)], .plain, 0, 0, 0, 0, 0, [0]⟩, -- CPH_OUT
  ⟨0x90070, [(4, 0x4)], .plain, 0xffffffff, 0, 0, 0, 0, [0]⟩, -- CPH_TAG_EXP
  ⟨0x90080, [(14, 0x4)], .plain, 0, 0, 0, 0, 0xffffffff, [0]⟩, -- CPH_BLOB
  ⟨0x900c0, [], .plain, 1, 0, 0, 0, 0, [0]⟩, -- CPH_SESS_CTRL
  ⟨0x900c4, [], .plain, 0, 0, 0, 0, 0, [0]⟩, -- CPH_SESS_STAT
  ⟨0x900c8, [(4, 0x4)], .plain, 0, 0, 0, 0, 0, [0]⟩, -- CPH_SESS_CHAL
  ⟨0x900d8, [(4, 0x4)], .plain, 0, 0, 0, 0, 0xffffffff, [0]⟩, -- CPH_SESS_RESP
  ⟨0x900e8, [], .plain, 0, 0, 0, 0xffffffff, 0, [0x3c]⟩, -- CPH_SESS_TO
  ⟨0x90100, [], .rc, 0, 0, 0, 0, 0, [0]⟩, -- CPH_OP_CNT
  ⟨0x90104, [], .rc, 0, 0, 0, 0, 0, [0]⟩, -- CPH_TAGFAIL_CNT
  ⟨0x90108, [], .rc, 0, 0, 0, 0, 0, [0]⟩, -- CPH_UNWRAP_CNT
  ⟨0x9010c, [], .rc, 0, 0, 0, 0, 0, [0]⟩, -- CPH_BUSY_CNT
  ⟨0x90110, [], .rc, 0, 0, 0, 0, 0, [0]⟩, -- CPH_SESS_OK_CNT
  ⟨0x90114, [], .rc, 0, 0, 0, 0, 0, [0]⟩, -- CPH_SESS_FAIL_CNT
  ⟨0x90118, [], .rc, 0, 0, 0, 0, 0, [0]⟩, -- CPH_PROV_CNT
  ⟨0x9011c, [], .rc, 0, 0, 0, 0, 0, [0]⟩, -- CPH_ZERO_CNT
  ⟨0x90120, [], .plain, 0, 0, 0, 0, 0, [0]⟩ -- CPH_FUSE_STAT
  ]

/-- The register rows of block 10 (R82). -/
def Regs.block10 : List RegRow := [
  ⟨0xa0000, [], .plain, 0x1f, 0, 0, 0, 0, [0]⟩, -- ANG_CTRL
  ⟨0xa0004, [], .plain, 0, 0x300, 0, 0, 0, [0]⟩, -- ANG_STAT
  ⟨0xa0008, [], .lo, 0, 0, 0, 0, 0, [0]⟩, -- ANG_NOW_LO
  ⟨0xa000c, [], .hi, 0, 0, 0, 0, 0, [0]⟩, -- ANG_NOW_HI
  ⟨0xa0010, [], .lo, 0, 0, 0, 0, 0, [0]⟩, -- ANG_HWM_LO
  ⟨0xa0014, [], .hi, 0, 0, 0, 0, 0, [0]⟩, -- ANG_HWM_HI
  ⟨0xa0018, [], .plain, 0, 0xff, 0, 0, 0, [0]⟩, -- ANG_CANCEL
  ⟨0xa001c, [], .plain, 0, 0, 0, 0, 0, [0]⟩, -- ANG_CORR
  ⟨0xa0020, [], .plain, 0xffffffff, 0, 0, 0, 0, [0x2710]⟩, -- ANG_SRV_SPR
  ⟨0xa0024, [], .plain, 0, 0, 0, 0, 0, [0]⟩, -- ANG_SRV_INT
  ⟨0xa0028, [], .rc, 0, 0, 0, 0, 0, [0]⟩, -- ANG_LATE_CNT
  ⟨0xa002c, [], .rc, 0, 0, 0, 0, 0, [0]⟩, -- ANG_CANCEL_CNT
  ⟨0xa0030, [], .rc, 0, 0, 0, 0, 0, [0]⟩, -- ANG_SLIP_CNT
  ⟨0xa0034, [], .plain, 0xffffffff, 0, 0, 0, 0, [0]⟩, -- ANG_PAIR_CTRL
  ⟨0xa0038, [], .plain, 0, 0, 0, 0, 0, [0]⟩, -- ANG_PAIR_DIFF
  ⟨0xa003c, [], .rc, 0, 0, 0, 0, 0, [0]⟩, -- ANG_PAIR_CNT
  ⟨0xa0040, [(4, 0x10)], .plain, 0xffffffff, 0, 0, 0, 0, [0, 0, 0x80000, 0x80000]⟩, -- ANG_HOFS
  ⟨0xa0044, [(4, 0x10)], .plain, 0, 0, 0, 0, 0, [0]⟩, -- ANG_HPOS
  ⟨0xa0048, [(4, 0x10)], .plain, 0, 0, 0, 0, 0, [0]⟩, -- ANG_HSTAT
  ⟨0xa004c, [(4, 0x10)], .rc, 0, 0, 0, 0, 0, [0]⟩, -- ANG_HDISC_CNT
  ⟨0xa0080, [], .plain, 0xffffffff, 0, 0, 0, 0, [0]⟩, -- ANG_EVT_SEL
  ⟨0xa0084, [], .plain, 0xffffffff, 0, 0, 0, 0, [0]⟩, -- ANG_EVT_TGT
  ⟨0xa0088, [], .plain, 0xfffeffff, 0, 0, 0, 0, [0]⟩, -- ANG_EVT_ACTW
  ⟨0xa008c, [], .plain, 0, 0, 0, 0, 3, [0]⟩, -- ANG_EVT_CMD
  ⟨0xa0090, [(2, 0x4)], .plain, 0, 0, 0, 0, 0, [0]⟩, -- ANG_EVT_ARMED
  ⟨0xa0098, [(2, 0x4)], .plain, 0, 0, 0, 0, 0, [0]⟩, -- ANG_EVT_FIRED
  ⟨0xa00c0, [(2, 0x20)], .plain, 0x1f, 0, 0, 0, 0, [2]⟩, -- ANG_ENC_CTRL
  ⟨0xa00c4, [(2, 0x20)], .plain, 0xffffffff, 0, 0, 0, 0, [0]⟩, -- ANG_ENC_CNT
  ⟨0xa00c8, [(2, 0x20)], .plain, 0xffffffff, 0, 0, 0, 0, [0]⟩, -- ANG_ENC_IDX
  ⟨0xa00cc, [(2, 0x20)], .rc16, 0, 0, 0, 0, 0, [0]⟩, -- ANG_ENC_ERR
  ⟨0xa00d0, [(2, 0x20)], .plain, 0, 0, 0, 0, 0, [0]⟩, -- ANG_ENC_STAT
  ⟨0xa00d4, [(2, 0x20)], .plain, 0xffffffff, 0, 0, 0, 0, [0]⟩, -- ANG_ENC_SCALE
  ⟨0xa00d8, [(2, 0x20)], .plain, 0xffffffff, 0, 0, 0, 0, [0]⟩, -- ANG_ENC_BANDREF
  ⟨0xa00dc, [(2, 0x20)], .plain, 0, 0, 0, 0, 0, [0]⟩, -- ANG_ENC_FILTSTAT
  ⟨0xa0100, [(64, 0x4)], .plain, 0, 0, 0, 0, 0, [0]⟩ -- ANG_EVT_STAT
  ]

/-- The register rows of block 11 (R103). -/
def Regs.block11 : List RegRow := [
  ⟨0xb0000, [], .plain, 1, 0, 0, 0, 0, [0]⟩, -- ACQ_CTRL
  ⟨0xb0004, [], .plain, 0, 3, 0, 0, 0, [0]⟩, -- ACQ_STAT
  ⟨0xb0008, [], .plain, 0xffffffff, 0, 0, 0, 0, [0]⟩, -- ACQ_SLICE_SEL
  ⟨0xb000c, [], .plain, 0xffffffff, 0, 0, 0, 0, [0]⟩, -- ACQ_SLICE_DATA
  ⟨0xb0010, [], .plain, 0x1f, 0, 0, 0, 0, [6]⟩, -- ACQ_SLICE_CTRL
  ⟨0xb0014, [], .plain, 0xffffffff, 0, 0, 0, 0, [0]⟩, -- ACQ_SQ_CTRL
  ⟨0xb0018, [], .plain, 0, 0, 0, 0, 0, [0]⟩, -- ACQ_SKEW_STAT
  ⟨0xb001c, [], .rc, 0, 0, 0, 0, 0, [0]⟩, -- ACQ_SWAP_CNT
  ⟨0xb0040, [(4, 0x40)], .plain, 0xfff3, 0, 0, 0, 0, [0x4402]⟩, -- ACQ_PLL_CTRL
  ⟨0xb0044, [(4, 0x40)], .plain, 0, 0, 0, 0, 0, [0]⟩, -- ACQ_PLL_STAT
  ⟨0xb0048, [(4, 0x40)], .plain, 0, 0, 0, 0, 0, [0]⟩, -- ACQ_PLL_PHERR
  ⟨0xb004c, [(4, 0x40)], .plain, 0xffffffff, 0, 0, 0, 0, [0]⟩, -- ACQ_PLL_FREQ
  ⟨0xb0050, [(4, 0x40)], .plain, 0xffffffff, 0, 0, 0, 0, [0]⟩, -- ACQ_HZONE
  ⟨0xb0054, [(4, 0x40)], .plain, 0xffffffff, 0, 0, 0, 0, [0]⟩, -- ACQ_MARK_CFG
  ⟨0xb0058, [(4, 0x40)], .lo, 0, 0, 0, 0, 0, [0]⟩, -- ACQ_ADDR_LO
  ⟨0xb005c, [(4, 0x40)], .hi, 0, 0, 0, 0, 0, [0]⟩, -- ACQ_ADDR_HI
  ⟨0xb0060, [(4, 0x40)], .rc, 0, 0, 0, 0, 0, [0]⟩, -- ACQ_MISS_CNT
  ⟨0xb0064, [(4, 0x40)], .rc, 0, 0, 0, 0, 0, [0]⟩, -- ACQ_HOLD_CNT
  ⟨0xb0068, [(4, 0x40)], .rc, 0, 0, 0, 0, 0, [0]⟩, -- ACQ_UNLOCK_CNT
  ⟨0xb006c, [(4, 0x40)], .rc, 0, 0, 0, 0, 0, [0]⟩, -- ACQ_ACRC_CNT
  ⟨0xb0070, [(4, 0x40)], .rc, 0, 0, 0, 0, 0, [0]⟩, -- ACQ_ZMIS_CNT
  ⟨0xb0074, [(4, 0x40)], .rc, 0, 0, 0, 0, 0, [0]⟩, -- ACQ_MARK_OUT_CNT
  ⟨0xb0200, [(20, 0x4)], .plain, 0, 0, 0xffffffff, 0, 0, [0xc9bd, 0xdc14, 0xee6b, 0x100c2, 0x11319, 0x12570, 0x137c7, 0x14a1e, 0x15c75, 0x15c75, 0x16ecc, 0x18123, 0x1937a, 0x1a5d1, 0x1b828, 0x1ca7f, 0x1dcd6, 0x1ef2d, 0x20184, 0x213db]⟩, -- ACQ_ZRATIO
  ⟨0xb0300, [(16, 0x20)], .plain, 0x1ffff, 0, 0, 0, 0, [0]⟩, -- ACQ_SKEW_D
  ⟨0xb0304, [(16, 0x20)], .plain, 0x1ffff, 0, 0, 0, 0, [0x36b0]⟩, -- ACQ_SKEW_V
  ⟨0xb0308, [(16, 0x20)], .plain, 0, 0, 0, 0, 0, [0]⟩, -- ACQ_PHOFS_D
  ⟨0xb030c, [(16, 0x20)], .plain, 0, 0, 0, 0, 0, [0]⟩, -- ACQ_PHOFS_V
  ⟨0xb0310, [(16, 0x20)], .plain, 0, 0, 0, 0, 0, [0]⟩, -- ACQ_VDLY
  ⟨0xb0800, [(52, 0x10)], .plain, 0xfffd, 0, 0, 0, 0, [0xf4, 0xf4, 0xf4, 0xf4, 0xcf4, 0xcf4, 0xcf4, 0xcf4, 0xcf4, 0xcf4, 0xcf4, 0xcf4, 0xcf4, 0xf4, 0xf4, 0xf4, 0xf4, 0xcf4, 0xcf4, 0xcf4, 0xcf4, 0xcf4, 0xcf4, 0xcf4, 0xcf4, 0xcf4, 0xf4, 0xf4, 0xf4, 0xf4, 0xcf4, 0xcf4, 0xcf4, 0xcf4, 0xcf4, 0xcf4, 0xcf4, 0xcf4, 0xcf4, 0xf4, 0xf4, 0xf4, 0xf4, 0xcf4, 0xcf4, 0xcf4, 0xcf4, 0xcf4, 0xcf4, 0xcf4, 0xcf4, 0xcf4]⟩, -- ACQ_IN_CTRL
  ⟨0xb0804, [(52, 0x10)], .plain, 0xffffffff, 0, 0, 0, 0, [0]⟩, -- ACQ_IN_OFS
  ⟨0xb0808, [(52, 0x10)], .plain, 0, 0, 0, 0, 0, [0]⟩, -- ACQ_IN_STAT
  ⟨0xb080c, [(52, 0x10)], .plain, 0, 0, 0, 0, 0, [0]⟩, -- ACQ_IN_PEAK
  ⟨0xb0c00, [(36, 0x10)], .plain, 0, 0, 0, 0, 0, [0]⟩, -- ACQ_ADC_MAP
  ⟨0xb0c04, [(36, 0x10)], .plain, 0, 0xff, 0, 0, 0, [0]⟩, -- ACQ_ADC_HLTH
  ⟨0xb0c08, [(36, 0x10)], .plain, 0, 0, 0, 0, 0, [0]⟩ -- ACQ_ADC_AGC
  ]

/-- The register rows of block 12 (R139). -/
def Regs.block12a : List RegRow := [
  ⟨0xc0000, [], .plain, 1, 0, 0, 0, 0, [0]⟩, -- DET_GCTRL
  ⟨0xc0004, [], .plain, 0, 3, 0, 0, 0, [0]⟩, -- DET_GSTAT
  ⟨0xc0008, [], .plain, 0, 0xffffffff, 0, 0, 0, [0]⟩, -- DET_INT_STAT
  ⟨0xc000c, [], .plain, 0xffffffff, 0, 0, 0, 0, [0]⟩, -- DET_INT_EN
  ⟨0xc0010, [], .plain, 0xfff, 0, 0, 0, 0, [0xe0]⟩, -- DET_ERASE_MAX
  ⟨0xc0014, [], .plain, 0, 0, 0xffffffff, 0, 0, [0]⟩, -- DET_SBUF_CFG
  ⟨0xc0018, [], .plain, 0x1f, 0, 0, 0, 0, [6]⟩, -- DET_FLAG_CFG
  ⟨0xc0020, [(4, 0x4)], .plain, 0xffffffff, 0, 0, 0, 0, [0, 0x820c828, 0x10109632, 0x20088241]⟩, -- DET_DEF_PROFILE
  ⟨0xc0030, [(3, 0x4)], .plain, 0xffffff, 0, 0, 0, 0, [0x408040]⟩, -- DET_ALT_TARGET
  ⟨0xc0040, [], .lo, 0, 0, 0, 0, 0, [0xd95f26b]⟩, -- DET_SYNC_PAT_LO
  ⟨0xc0044, [], .hi, 0, 0, 0, 0, 0, [0x3e4cb1a7]⟩, -- DET_SYNC_PAT_HI
  ⟨0xc0080, [(3, 0x20), (8, 0x4)], .plain, 0xffffffff, 0, 0, 0, 0, [0]⟩, -- DET_ALT_TAP
  ⟨0xc0100, [], .plain, 0xffff7f, 0, 0, 0, 0, [0]⟩, -- DET_SBUF_SEL
  ⟨0xc0104, [], .plain, 0, 0, 0, 0, 0, [0]⟩, -- DET_SBUF_INFO
  ⟨0xc0108, [(4, 0x4)], .plain, 0, 0, 0, 0, 0, [0]⟩, -- DET_SBUF_ERC
  ⟨0xc0118, [(16, 0x4)], .plain, 0, 0, 0, 0, 0, [0]⟩, -- DET_SBUF_DATA
  ⟨0xc0158, [(2, 0x4)], .plain, 0, 0, 0, 0, 0, [0]⟩, -- DET_SBUF_FLAGS
  ⟨0xc1000, [(16, 0x100)], .plain, 3, 0, 0, 0, 4, [0]⟩, -- DET_CTRL
  ⟨0xc1004, [(16, 0x100)], .plain, 0, 0, 0, 0, 0, [0]⟩, -- DET_STAT
  ⟨0xc1008, [(16, 0x100)], .plain, 0x3c7, 0, 0, 0, 0, [0x83]⟩, -- DET_EQ_CFG
  ⟨0xc100c, [(16, 0x100)], .plain, 0xffffff, 0, 0, 0, 0, [0x408040]⟩, -- DET_TARGET
  ⟨0xc1010, [(16, 0x100)], .plain, 0x1f7f, 0, 0, 0, 0, [0x818]⟩, -- DET_SYNC_CFG
  ⟨0xc1014, [(16, 0x100)], .plain, 0x1f, 0, 0, 0, 0, [4]⟩, -- DET_HDR_CFG
  ⟨0xc1018, [(16, 0x100)], .plain, 3, 0, 0, 0, 0, [2]⟩, -- DET_DEF_CFG
  ⟨0xc101c, [(16, 0x100)], .plain, 0x1ff, 0, 0, 0, 0, [0x28]⟩, -- DET_BLANK_CFG
  ⟨0xc1020, [(16, 0x100)], .plain, 0x1ffffff, 0, 0, 0, 0, [0]⟩, -- DET_RUN_LBA
  ⟨0xc1024, [(16, 0x100)], .plain, 0x3ffff, 0, 0, 0, 0, [1]⟩, -- DET_RUN_CFG
  ⟨0xc1028, [(16, 0x100)], .plain, 0, 0, 0, 0, 0, [0]⟩, -- DET_SBUF_STAT
  ⟨0xc102c, [(16, 0x100)], .plain, 0, 0, 0, 0, 0, [0]⟩, -- DET_ENV
  ⟨0xc1030, [(16, 0x100)], .plain, 0, 0, 0, 0, 0, [0]⟩, -- DET_EQ_MSE
  ⟨0xc1034, [(16, 0x100)], .plain, 0, 0, 0, 0, 0, [0]⟩, -- DET_LAST_RES
  ⟨0xc1038, [(16, 0x100)], .lo, 0, 0, 0, 0, 0, [0]⟩, -- DET_LAST_HDR_LO
  ⟨0xc103c, [(16, 0x100)], .hi, 0, 0, 0, 0, 0, [0]⟩, -- DET_LAST_HDR_HI
  ⟨0xc1040, [(16, 0x100), (7, 0x4)], .plain, 0xffffffff, 0, 0, 0, 0, [0]⟩, -- DET_EQ_TAP, 0 to 6
  ⟨0xc105c, [(16, 0x100)], .plain, 0xffff, 0, 0, 0, 0, [0]⟩, -- DET_EQ_TAP, 7
  ⟨0xc1060, [(16, 0x100)], .rc, 0, 0, 0, 0, 0, [0]⟩, -- DET_BLK_CNT
  ⟨0xc1064, [(16, 0x100)], .rc, 0, 0, 0, 0, 0, [0]⟩, -- DET_NOSYNC_CNT
  ⟨0xc1068, [(16, 0x100)], .rc, 0, 0, 0, 0, 0, [0]⟩, -- DET_HDRFAIL_CNT
  ⟨0xc106c, [(16, 0x100)], .rc, 0, 0, 0, 0, 0, [0]⟩, -- DET_HDRMIS_CNT
  ⟨0xc1070, [(16, 0x100)], .rc, 0, 0, 0, 0, 0, [0]⟩, -- DET_BLANK_CNT
  ⟨0xc1074, [(16, 0x100)], .rc, 0, 0, 0, 0, 0, [0]⟩ -- DET_DEFLIM_CNT
  ]
def Regs.block12b : List RegRow := [
  ⟨0xc1078, [(16, 0x100)], .rc, 0, 0, 0, 0, 0, [0]⟩, -- DET_OVR_CNT
  ⟨0xc107c, [(16, 0x100)], .rc, 0, 0, 0, 0, 0, [0]⟩, -- DET_ABORT_CNT
  ⟨0xc1080, [(16, 0x100)], .rc, 0, 0, 0, 0, 0, [0]⟩, -- DET_DEF_CNT
  ⟨0xc1084, [(16, 0x100)], .rc, 0, 0, 0, 0, 0, [0]⟩, -- DET_ERAS_CNT
  ⟨0xc1088, [(16, 0x100)], .rc, 0, 0, 0, 0, 0, [0]⟩, -- DET_FLAGAMB_CNT
  ⟨0xc108c, [(16, 0x100)], .rc, 0, 0, 0, 0, 0, [0]⟩ -- DET_RUNLONG_CNT
  ]
def Regs.block12 : List RegRow := Regs.block12a ++ Regs.block12b

/-- The register rows of block 13 (R141). -/
def Regs.block13 : List RegRow := [
  ⟨0xd0000, [], .plain, 1, 0, 0, 0, 0, [0]⟩, -- DEC_CTRL
  ⟨0xd0004, [], .plain, 0, 1, 0, 0, 0, [0]⟩, -- DEC_STAT
  ⟨0xd0008, [], .plain, 0xf003f, 0, 0x3f00, 0, 0, [0x300c]⟩, -- DEC_ITER_CFG
  ⟨0xd000c, [], .plain, 0xffff, 0, 0, 0, 0, [0x1f4]⟩, -- DEC_SCHED_CFG
  ⟨0xd0010, [], .plain, 3, 0, 0, 0, 0, [0]⟩, -- DEC_LLR_CFG
  ⟨0xd0014, [], .plain, 0, 0, 0, 0, 0, [0x3ffff]⟩, -- DEC_LANE_EN
  ⟨0xd0018, [], .plain, 0, 0, 0, 0, 0, [0]⟩, -- DEC_QSTAT
  ⟨0xd001c, [], .plain, 0, 0, 0, 0, 0, [0]⟩, -- DEC_CLT_PTR
  ⟨0xd0020, [], .plain, 0, 0, 0, 0, 0, [0]⟩, -- DEC_CLT_OCC
  ⟨0xd0024, [], .plain, 0, 0xffffffff, 0, 0, 0, [0]⟩, -- DEC_INT_STAT
  ⟨0xd0028, [], .plain, 0xffffffff, 0, 0, 0, 0, [0]⟩, -- DEC_INT_EN
  ⟨0xd002c, [], .rc, 0, 0, 0, 0, 0, [0]⟩, -- DEC_SWAP_CNT
  ⟨0xd0100, [(16, 0x10)], .plain, 0, 0, 0, 0, 0, [0]⟩, -- DEC_B_RES
  ⟨0xd0104, [(16, 0x10)], .plain, 0, 0, 0, 0, 0, [0]⟩, -- DEC_B_LBA
  ⟨0xd0108, [(16, 0x10)], .rc, 0, 0, 0, 0, 0, [0]⟩, -- DEC_B_CNT
  ⟨0xd1000, [(18, 0x80)], .plain, 0, 0, 0, 0, 0, [0]⟩, -- DEC_L_STAT
  ⟨0xd1004, [(18, 0x80)], .plain, 0, 0, 0, 0, 0, [0]⟩, -- DEC_L_CUR
  ⟨0xd1008, [(18, 0x80)], .plain, 0, 0, 0, 0, 0, [0]⟩, -- DEC_L_LAST
  ⟨0xd100c, [(18, 0x80)], .rc, 0, 0, 0, 0, 0, [0]⟩, -- DEC_L_BLK_CNT
  ⟨0xd1010, [(18, 0x80)], .rc, 0, 0, 0, 0, 0, [0]⟩, -- DEC_L_FAIL_CNT
  ⟨0xd1014, [(18, 0x80)], .lo, 0, 0, 0, 0, 0, [0]⟩, -- DEC_L_ITER_LO
  ⟨0xd1018, [(18, 0x80)], .hi, 0, 0, 0, 0, 0, [0]⟩, -- DEC_L_ITER_HI
  ⟨0xd101c, [(18, 0x80)], .lo, 0, 0, 0, 0, 0, [0]⟩, -- DEC_L_RET_LO
  ⟨0xd1020, [(18, 0x80)], .hi, 0, 0, 0, 0, 0, [0]⟩, -- DEC_L_RET_HI
  ⟨0xd1024, [(18, 0x80)], .lo, 0, 0, 0, 0, 0, [0]⟩, -- DEC_L_WST_LO
  ⟨0xd1028, [(18, 0x80)], .hi, 0, 0, 0, 0, 0, [0]⟩, -- DEC_L_WST_HI
  ⟨0xd102c, [(18, 0x80)], .lo, 0, 0, 0, 0, 0, [0]⟩, -- DEC_L_FST_LO
  ⟨0xd1030, [(18, 0x80)], .hi, 0, 0, 0, 0, 0, [0]⟩, -- DEC_L_FST_HI
  ⟨0xd1034, [(18, 0x80)], .lo, 0, 0, 0, 0, 0, [0]⟩, -- DEC_L_BST_LO
  ⟨0xd1038, [(18, 0x80)], .hi, 0, 0, 0, 0, 0, [0]⟩, -- DEC_L_BST_HI
  ⟨0xd103c, [(18, 0x80)], .plain, 0, 0, 0, 0, 0, [0]⟩, -- DEC_L_HLTH
  ⟨0xd1040, [(18, 0x80)], .plain, 0, 0, 0, 0, 0, [0]⟩, -- DEC_L_BIST
  ⟨0xd1044, [(18, 0x80)], .rc, 0, 0, 0, 0, 0, [0]⟩, -- DEC_L_SWAP_CNT
  ⟨0xd1048, [(18, 0x80)], .plain, 0, 0, 0, 0, 0, [0]⟩, -- DEC_L_CLT
  ⟨0xd104c, [(18, 0x80)], .rc, 0, 0, 0, 0, 0, [0]⟩ -- DEC_L_PAR_CNT
  ]

/-- The register rows of block 14 (R182). -/
def Regs.block14 : List RegRow := [
  ⟨0xe0000, [(4, 0x280)], .plain, 0xf0d, 0, 0, 0, 0, [0xf00]⟩, -- LDD_CTRL (S)
  ⟨0xe0080, [(4, 0x280), (4, 0x80)], .plain, 0xf0b, 0, 0, 0, 0, [0xf00]⟩, -- LDD_CTRL (D)
  ⟨0xe0004, [(20, 0x80)], .plain, 0, 0xee, 0, 0, 0, [0]⟩, -- LDD_STAT
  ⟨0xe0008, [(20, 0x80)], .plain, 0x7ff, 0, 0, 0, 0, [0]⟩, -- LDD_READ
  ⟨0xe000c, [(20, 0x80)], .plain, 0xff0f, 0, 0, 0, 0, [0]⟩, -- LDD_HF
  ⟨0xe0010, [(4, 0x280), (8, 0x4)], .plain, 0, 0, 0, 0, 0, [0]⟩, -- LDD_WLVL (S)
  ⟨0xe0090, [(4, 0x280), (4, 0x80), (8, 0x4)], .plain, 0xfff, 0, 0, 0, 0, [0]⟩, -- LDD_WLVL (D)
  ⟨0xe0030, [(20, 0x80)], .plain, 0, 0, 0xfff0fff, 0, 0, [0]⟩, -- LDD_LIMIT
  ⟨0xe0034, [(4, 0x280)], .plain, 0, 0, 0, 0, 0, [0x1000000]⟩, -- LDD_SCALE (S)
  ⟨0xe00b4, [(4, 0x280), (4, 0x80)], .plain, 0, 0, 0, 0, 0, [0x1000100]⟩, -- LDD_SCALE (D)
  ⟨0xe00b8, [(4, 0x280), (4, 0x80)], .plain, 0, 0, 0, 0, 0, [0]⟩, -- LDD_COMPL (D)
  ⟨0xe0038, [(4, 0x280)], .plain, 0xffff, 0, 0, 0, 0, [0x423f]⟩, -- LDD_COMPL (S)
  ⟨0xe00bc, [(4, 0x280), (4, 0x80)], .plain, 0, 0, 0, 0, 0, [0]⟩, -- LDD_APC (D)
  ⟨0xe003c, [(4, 0x280)], .plain, 0xffffffff, 0, 0, 0, 0, [0]⟩, -- LDD_APC (S)
  ⟨0xe00c0, [(4, 0x280), (4, 0x80)], .plain, 0, 0, 0, 0, 0, [0]⟩, -- LDD_MONI (D)
  ⟨0xe0040, [(4, 0x280)], .plain, 0, 0, 0, 0, 0, [0]⟩, -- LDD_MONI (S)
  ⟨0xe0044, [(20, 0x80)], .rc, 0, 0, 0, 0, 0, [0]⟩, -- LDD_FAULT_CNT
  ⟨0xe0048, [(20, 0x80)], .plain, 0, 0, 0, 0, 0, [0]⟩, -- LDD_TEMP
  ⟨0xe004c, [(4, 0x280)], .plain, 0, 0, 0, 0, 0, [0]⟩, -- WRP_STRAT_CFG (S)
  ⟨0xe00cc, [(4, 0x280), (4, 0x80)], .plain, 0xffffffff, 0, 0, 0, 0, [0]⟩, -- WRP_STRAT_CFG (D)
  ⟨0xe0050, [(4, 0x280)], .plain, 0, 0, 0, 0, 0, [0]⟩, -- WRP_OPC_RES (S)
  ⟨0xe00d0, [(4, 0x280), (4, 0x80)], .plain, 0, 0, 0, 0, 0, [0x1000000]⟩, -- WRP_OPC_RES (D)
  ⟨0xe0054, [(4, 0x280)], .plain, 0, 0, 0, 0, 0, [0]⟩, -- WRP_OPC_MIS (S)
  ⟨0xe00d4, [(4, 0x280), (4, 0x80)], .plain, 0, 0, 0, 0, 0, [0]⟩, -- WRP_OPC_MIS (D)
  ⟨0xe0058, [(4, 0x280)], .plain, 0, 0, 0, 0, 0, [0]⟩, -- WRP_BLK_CNT (S)
  ⟨0xe00d8, [(4, 0x280), (4, 0x80)], .rc, 0, 0, 0, 0, 0, [0]⟩, -- WRP_BLK_CNT (D)
  ⟨0xe005c, [(4, 0x280)], .plain, 0, 0, 0, 0, 0, [0]⟩, -- WRP_URUN_CNT (S)
  ⟨0xe00dc, [(4, 0x280), (4, 0x80)], .rc, 0, 0, 0, 0, 0, [0]⟩, -- WRP_URUN_CNT (D)
  ⟨0xe4000, [(4, 0x200), (128, 0x4)], .plain, 0xffffffff, 0, 0, 0, 0, [0x43104220]⟩ -- WRP_STRAT
  ]

/-- The register rows of block 15 (R185). -/
def Regs.block15 : List RegRow := [
  ⟨0xf0000, [], .plain, 1, 0, 0, 0, 0, [0]⟩, -- VFY_CTRL
  ⟨0xf0004, [], .plain, 0, 1, 0, 0, 0, [0]⟩, -- VFY_STAT
  ⟨0xf0008, [], .plain, 0, 0xffffffff, 0, 0, 0, [0]⟩, -- VFY_INT_STAT
  ⟨0xf000c, [], .plain, 0xffffffff, 0, 0, 0, 0, [0]⟩, -- VFY_INT_EN
  ⟨0xf0010, [], .plain, 0xfff8000, 0, 0, 0, 0, [0x4800000]⟩, -- VFY_RPL_CFG
  ⟨0xf0014, [], .plain, 0, 0, 0, 0, 0, [0x1ff0000]⟩, -- VFY_RPL_STAT
  ⟨0xf0018, [], .rc, 0, 0, 0, 0, 0, [0]⟩, -- VFY_RPL_CNT
  ⟨0xf001c, [], .rc, 0, 0, 0, 0, 0, [0]⟩, -- VFY_RPL_FAIL_CNT
  ⟨0xf0020, [], .plain, 0xffff0003, 0, 0, 0, 0, [0x4000001]⟩, -- VFY_OPC_CFG
  ⟨0xf0024, [], .plain, 0, 0, 0, 0, 0, [0]⟩, -- VFY_OPC_STAT
  ⟨0xf0028, [], .rc, 0, 0, 0, 0, 0, [0]⟩, -- VFY_OPC_CNT
  ⟨0xf002c, [], .plain, 0, 0, 0, 0, 0, [0]⟩, -- VFY_WGEN
  ⟨0xf0030, [], .plain, 0, 0, 0, 0, 0, [0]⟩, -- VFY_WHW
  ⟨0xf0034, [], .plain, 0, 0, 0, 0, 0, [0]⟩, -- VFY_ERR_LBA
  ⟨0xf0038, [], .rc, 0, 0, 0, 0, 0, [0]⟩, -- VFY_EARLY_CNT
  ⟨0xf003c, [], .rc, 0, 0, 0, 0, 0, [0]⟩, -- VFY_URUN_CNT
  ⟨0xf0100, [(16, 0x20)], .plain, 0xffffffff, 0, 0, 0, 0, [0x8006008]⟩, -- VFY_B_THR
  ⟨0xf0104, [(16, 0x20)], .plain, 0, 0, 0, 0, 0, [0]⟩, -- VFY_B_LAST
  ⟨0xf0108, [(16, 0x20)], .plain, 0, 0, 0, 0, 0, [0]⟩, -- VFY_B_LBA
  ⟨0xf010c, [(16, 0x20)], .rc, 0, 0, 0, 0, 0, [0]⟩, -- VFY_B_PASS_CNT
  ⟨0xf0110, [(16, 0x20)], .rc, 0, 0, 0, 0, 0, [0]⟩, -- VFY_B_FAIL_CNT
  ⟨0xf0114, [(16, 0x20)], .rcLo, 0, 0, 0, 0, 0, [0]⟩, -- VFY_B_MIS_LO
  ⟨0xf0118, [(16, 0x20)], .hi, 0, 0, 0, 0, 0, [0]⟩ -- VFY_B_MIS_HI
  ]

/-- The register rows of block 16 (R218). -/
def Regs.block16 : List RegRow := [
  ⟨0x100000, [], .plain, 1, 0, 0, 0, 0x7ff0000, [0]⟩, -- SRV_CTRL
  ⟨0x100004, [], .plain, 0, 7, 0, 0, 0, [0]⟩, -- SRV_STAT
  ⟨0x100008, [], .plain, 0xf33, 0, 0, 0, 0, [0x833]⟩, -- SRV_HDIM
  ⟨0x10000c, [], .plain, 7, 0, 0, 0, 0, [0xf44]⟩, -- SRV_LANES
  ⟨0x100010, [], .plain, 0xffff00ff, 0, 0, 0, 0, [0x1000024]⟩, -- SRV_RES_CFG
  ⟨0x100014, [], .plain, 0, 0, 0, 0, 0, [0]⟩, -- SRV_RES_STAT
  ⟨0x100018, [], .plain, 0, 0xffffffff, 0, 0, 0, [0]⟩, -- SRV_INT_STAT
  ⟨0x10001c, [], .plain, 0xffffffff, 0, 0, 0, 0, [0]⟩, -- SRV_INT_EN
  ⟨0x100020, [], .lo, 0, 0, 0, 0, 0, [0]⟩, -- SRV_SAMPLE_CNT_LO
  ⟨0x100024, [], .hi, 0, 0, 0, 0, 0, [0]⟩, -- SRV_SAMPLE_CNT_HI
  ⟨0x100028, [], .rc, 0, 0, 0, 0, 0, [0]⟩, -- SRV_OVR_CNT
  ⟨0x10002c, [], .plain, 0, 0, 0, 0, 0, [0xd]⟩, -- SRV_LAT
  ⟨0x100030, [], .rc, 0, 0, 0, 0, 0, [0]⟩, -- SRV_STALE_CNT
  ⟨0x100034, [], .plain, 1, 0, 0, 0, 0, [0]⟩, -- SRV_MIR_CTRL
  ⟨0x100038, [], .plain, 0, 0, 0, 0, 0xfff, [0]⟩, -- SRV_PRESET
  ⟨0x10003c, [], .plain, 1, 0, 0, 0, 0, [0]⟩, -- SRV_SPARE_CFG
  ⟨0x100040, [], .plain, 0, 0, 0, 0, 0, [0]⟩, -- SRV_SPARE_STAT
  ⟨0x100060, [(5, 0x4)], .plain, 0, 0, 0, 0, 0, [1, 1, 1, 1, 2]⟩, -- SRV_LANE_STAT
  ⟨0x100080, [(5, 0x4)], .rc, 0, 0, 0, 0, 0, [0]⟩, -- SRV_LANE_RES_CNT
  ⟨0x100200, [(4, 0x80)], .plain, 0xb3, 0, 0, 0, 0, [0]⟩, -- SRV_G_CTRL
  ⟨0x100204, [(4, 0x80)], .plain, 0, 0, 0, 0, 0, [0]⟩, -- SRV_G_STAT
  ⟨0x100208, [(4, 0x80), (3, 0x4)], .plain, 0xffffffff, 0, 0, 0, 0, [0]⟩, -- SRV_G_TGT
  ⟨0x100214, [(4, 0x80), (3, 0x4)], .plain, 0xffffffff, 0, 0, 0, 0, [0]⟩, -- SRV_G_NEXT
  ⟨0x100220, [(4, 0x80), (3, 0x4)], .plain, 0xffffffff, 0, 0, 0, 0, [0]⟩, -- SRV_G_UOPEN
  ⟨0x10022c, [(4, 0x80), (3, 0x4)], .plain, 0, 0, 0, 0, 0, [0]⟩, -- SRV_G_U
  ⟨0x100238, [(4, 0x80), (3, 0x4)], .plain, 0, 0, 0, 0, 0, [0]⟩, -- SRV_G_E
  ⟨0x100244, [(4, 0x80)], .plain, 0xff, 0, 0, 0, 0, [0]⟩, -- SRV_G_IMASK
  ⟨0x100248, [(4, 0x80)], .plain, 7, 0, 0, 0, 0, [0]⟩, -- SRV_G_XSEL
  ⟨0x10024c, [(4, 0x80)], .plain, 0xffffffff, 0, 0, 0, 0, [0]⟩, -- SRV_G_XVAL
  ⟨0x100250, [(4, 0x80)], .rc, 0, 0, 0, 0, 0, [0]⟩, -- SRV_G_SAT_CNT
  ⟨0x100254, [(4, 0x80)], .rc, 0, 0, 0, 0, 0, [0]⟩, -- SRV_G_HOLD_CNT
  ⟨0x100400, [(7, 0x20)], .plain, 0xb3, 0, 0, 0, 0, [0]⟩, -- SRV_S_CTRL
  ⟨0x100404, [(7, 0x20)], .plain, 0xffffffff, 0, 0, 0, 0, [0]⟩, -- SRV_S_TGT
  ⟨0x100408, [(7, 0x20)], .plain, 0xffffffff, 0, 0, 0, 0, [0]⟩, -- SRV_S_NEXT
  ⟨0x10040c, [(7, 0x20)], .plain, 0, 0, 0, 0, 0, [0]⟩, -- SRV_S_U
  ⟨0x100410, [(7, 0x20)], .plain, 0, 0, 0, 0, 0, [0]⟩, -- SRV_S_E
  ⟨0x101000, [(4, 0x400), (192, 0x4)], .plain, 0xffffffff, 0, 0, 0, 0, [0]⟩, -- SRV_G_MEM
  ⟨0x102000, [(3, 0x100), (64, 0x4)], .plain, 0xffffffff, 0, 0, 0, 0, [0]⟩ -- SRV_S_MEM
  ]

/-- The register rows of block 17 (R278). -/
def Regs.block17a : List RegRow := [
  ⟨0x110000, [], .plain, 1, 0, 0, 0, 0, [0]⟩, -- SPN_CTRL
  ⟨0x110004, [], .plain, 0, 0x10004ff, 0, 0, 0, [0]⟩, -- SPN_STAT
  ⟨0x110008, [], .plain, 0, 0, 0, 0, 0xf0000000, [0]⟩, -- SPN_CMD
  ⟨0x11000c, [], .plain, 0, 0xffffffff, 0, 0, 0, [0]⟩, -- SPN_INT_STAT
  ⟨0x110010, [], .plain, 0xffffffff, 0, 0, 0, 0, [0]⟩, -- SPN_INT_EN
  ⟨0x110014, [], .plain, 0, 0, 0x3f, 0, 0, [0]⟩, -- SPN_MOTOR
  ⟨0x110018, [], .plain, 0xffff00ff, 0, 0, 0, 0, [0xfa00018]⟩, -- SPN_ILIM
  ⟨0x11001c, [], .plain, 0, 0, 0xffffffff, 0, 0, [0]⟩, -- SPN_PWM
  ⟨0x110020, [], .plain, 0, 0, 0, 0, 0, [0]⟩, -- SPN_SPEED
  ⟨0x110024, [], .plain, 0x1fff, 0, 0, 0, 0, [0]⟩, -- SPN_TARGET
  ⟨0x110028, [], .plain, 0, 0, 0, 0, 0, [0]⟩, -- SPN_REF
  ⟨0x11002c, [], .plain, 0xffffffff, 0, 0, 0, 0, [0x9600960]⟩, -- SPN_RAMP
  ⟨0x110030, [], .plain, 0xffffffff, 0, 0, 0, 0, [2]⟩, -- SPN_TOL
  ⟨0x110034, [], .plain, 0xffff, 0, 0, 0, 0, [0]⟩, -- SPN_PARK
  ⟨0x110038, [], .plain, 0xffffffff, 0, 0, 0, 0, [0]⟩, -- SPN_ROT
  ⟨0x11003c, [], .plain, 0, 0, 0, 0, 0, [0]⟩, -- SPN_MANG
  ⟨0x110040, [], .plain, 0, 0, 0, 0, 0, [0]⟩, -- SPN_IQ_REF
  ⟨0x110044, [], .plain, 0, 0, 0, 0, 0, [0]⟩, -- SPN_ID_REF
  ⟨0x110048, [], .plain, 0, 0, 0, 0, 0, [0]⟩, -- SPN_IQ
  ⟨0x11004c, [], .plain, 0, 0, 0, 0, 0, [0]⟩, -- SPN_ID
  ⟨0x110050, [], .plain, 0, 0, 0, 0, 0, [0]⟩, -- SPN_VQ
  ⟨0x110054, [], .plain, 0, 0, 0, 0, 0, [0]⟩, -- SPN_VD
  ⟨0x110058, [], .plain, 0xffffffff, 0, 0, 0, 0, [0]⟩, -- SPN_CL_GAIN
  ⟨0x11005c, [], .plain, 0, 0, 0, 0, 0, [0]⟩, -- SPN_PIN
  ⟨0x110060, [(3, 0x4)], .plain, 0, 0, 0, 0, 0, [0]⟩, -- SPN_IPH
  ⟨0x11006c, [(3, 0x4)], .plain, 0, 0, 0, 0, 0, [0]⟩, -- SPN_VPH
  ⟨0x110078, [(3, 0x4)], .plain, 0xffffffff, 0, 0, 0, 0, [0]⟩, -- SPN_SHUNT_OFS
  ⟨0x110084, [(3, 0x4)], .plain, 0xffffffff, 0, 0, 0, 0, [0]⟩, -- SPN_SHUNT_GAIN
  ⟨0x110090, [], .plain, 1, 0, 0, 0, 0, [0]⟩, -- SPN_EST_CFG
  ⟨0x110094, [], .plain, 0xffffffff, 0, 0, 0, 0, [0]⟩, -- SPN_EST_R
  ⟨0x110098, [], .plain, 0xffffffff, 0, 0, 0, 0, [0]⟩, -- SPN_EST_L
  ⟨0x11009c, [], .plain, 0xffffffff, 0, 0, 0, 0, [0]⟩, -- SPN_EST_KE
  ⟨0x1100a0, [], .plain, 0xffffffff, 0, 0, 0, 0, [0]⟩, -- SPN_EST_PLL
  ⟨0x1100a4, [], .plain, 0, 0, 0, 0, 0, [0]⟩, -- SPN_EANG
  ⟨0x1100a8, [], .plain, 0, 0, 0, 0, 0, [0]⟩, -- SPN_EST_STAT
  ⟨0x1100ac, [], .plain, 0, 0, 0, 0, 0, [0]⟩, -- SPN_OFS_LATCH
  ⟨0x1100b0, [], .plain, 0xffffffff, 0, 0, 0, 0, [0xc805dc]⟩, -- SPN_START
  ⟨0x1100b4, [], .plain, 0xffffffff, 0, 0, 0, 0, [0x25807d0]⟩, -- SPN_IF
  ⟨0x1100b8, [], .plain, 0xffffffff, 0, 0, 0, 0, [0x12c]⟩, -- SPN_HANDOFF
  ⟨0x1100c0, [], .plain, 0xffff, 0, 0, 0, 0, [0x5dc]⟩ -- SPN_BRAKE
  ]
def Regs.block17b : List RegRow := [
  ⟨0x1100c4, [], .plain, 0xffff0fff, 0, 0, 0, 0, [0x848107d0]⟩, -- SPN_VWATCH
  ⟨0x1100c8, [], .plain, 0, 0, 0, 0, 0, [0]⟩, -- SPN_VIN
  ⟨0x1100cc, [], .plain, 0, 0, 0, 0, 0, [0]⟩, -- SPN_TEMP
  ⟨0x1100d0, [], .plain, 0xffff, 0, 0, 0, 0, [0xc8]⟩, -- SPN_STOPCFG
  ⟨0x1100e0, [], .rc, 0, 0, 0, 0, 0, [0]⟩, -- SPN_FLT_CNT
  ⟨0x1100e4, [], .rc, 0, 0, 0, 0, 0, [0]⟩, -- SPN_OVC_CNT
  ⟨0x1100e8, [], .rc, 0, 0, 0, 0, 0, [0]⟩, -- SPN_WATCH_CNT
  ⟨0x1100ec, [], .rc, 0, 0, 0, 0, 0, [0]⟩, -- SPN_ZV_CNT
  ⟨0x1100f0, [], .rc, 0, 0, 0, 0, 0, [0]⟩, -- SPN_REFUSE_CNT
  ⟨0x1100f4, [], .rc, 0, 0, 0, 0, 0, [0]⟩, -- SPN_START_CNT
  ⟨0x110100, [(32, 0x4)], .plain, 0, 0, 0, 0, 0, [0]⟩ -- SPN_TRACE
  ]
def Regs.block17 : List RegRow := Regs.block17a ++ Regs.block17b

/-- The register rows of block 18 (R282). -/
def Regs.block18 : List RegRow := [
  ⟨0x120000, [(2, 0x100)], .plain, 1, 0, 0, 0, 0, [0]⟩, -- SLD_G_CTRL
  ⟨0x120004, [(2, 0x100)], .plain, 0, 3, 0, 0, 0, [0]⟩, -- SLD_G_STAT
  ⟨0x120008, [(2, 0x100)], .rc, 0, 0, 0, 0, 0, [0]⟩, -- SLD_G_STALL_CNT
  ⟨0x12000c, [(2, 0x100)], .rc, 0, 0, 0, 0, 0, [0]⟩, -- SLD_G_MOVE_CNT
  ⟨0x120010, [(2, 0x100), (3, 0x30)], .plain, 0x13, 0, 0, 0, 0, [0, 1, 1, 0, 1, 1]⟩, -- SLD_CTRL
  ⟨0x120014, [(2, 0x100), (3, 0x30)], .plain, 0, 0x4006000, 0, 0, 0, [0x40000000]⟩, -- SLD_STAT
  ⟨0x120018, [(2, 0x100), (3, 0x30)], .plain, 0xf8000000, 0, 0, 0, 0, [0]⟩, -- SLD_CMD
  ⟨0x12001c, [(2, 0x100), (3, 0x30)], .plain, 0xffffffff, 0, 0, 0, 0, [0]⟩, -- SLD_TGT
  ⟨0x120020, [(2, 0x100), (3, 0x30)], .plain, 0xffffffff, 0, 0, 0, 0, [0]⟩, -- SLD_POS
  ⟨0x120024, [(2, 0x100), (3, 0x30)], .plain, 0xffffff, 0, 0, 0, 0, [0]⟩, -- SLD_VMAX
  ⟨0x120028, [(2, 0x100), (3, 0x30)], .plain, 0xffffff, 0, 0, 0, 0, [0]⟩, -- SLD_AMAX
  ⟨0x12002c, [(2, 0x100), (3, 0x30)], .plain, 0xffffff, 0, 0, 0, 0, [0]⟩, -- SLD_JMAX
  ⟨0x120030, [(2, 0x100), (3, 0x30)], .plain, 0xffffffff, 0, 0, 0, 0, [0]⟩, -- SLD_CUR
  ⟨0x120034, [(2, 0x100), (3, 0x30)], .plain, 0, 0, 0xffffffff, 0, 0, [0]⟩, -- SLD_MOTOR
  ⟨0x120038, [(2, 0x100), (3, 0x30)], .plain, 0xffffffff, 0, 0, 0, 0, [0x40504410]⟩, -- SLD_STALL
  ⟨0x12003c, [(2, 0x100), (3, 0x30)], .plain, 0, 0, 0, 0, 0, [0]⟩, -- SLD_LANG
  ⟨0x121000, [(2, 0x400), (256, 0x4)], .plain, 0x7fff7fff, 0, 0, 0, 0, Regs.sldQuarter ++ Regs.sldQuarter⟩ -- SLD_TBL
  ]

/-- The register rows of block 19 (R499). -/
def Regs.block19a : List RegRow := [
  ⟨0x130000, [], .plain, 1, 0, 0, 0, 0, [0]⟩, -- LBS_CTRL
  ⟨0x130004, [], .plain, 0, 1, 0, 0, 0, [0]⟩, -- LBS_STAT
  ⟨0x130008, [], .plain, 0, 0xffffffff, 0, 0, 0, [0]⟩, -- LBS_INT_STAT
  ⟨0x13000c, [], .plain, 0xffffffff, 0, 0, 0, 0, [0]⟩, -- LBS_INT_EN
  ⟨0x130010, [], .plain, 0, 0, 0xffffffff, 0, 0, [0]⟩, -- LBS_MAC_LO
  ⟨0x130014, [], .plain, 0, 0, 0xffff, 0, 0, [0]⟩, -- LBS_MAC_HI
  ⟨0x130018, [], .plain, 0, 0, 0xffffffff, 0, 0, [0x88b5]⟩, -- LBS_ETYPE
  ⟨0x13001c, [], .plain, 0, 0, 1, 0, 0, [0]⟩, -- LBS_PHY_CTRL
  ⟨0x130020, [], .plain, 0, 0, 0, 0, 0, [0]⟩, -- LBS_PHY_STAT
  ⟨0x130024, [], .plain, 0, 0, 0x80ffffff, 0, 0, [0x2008ff]⟩, -- LBS_PLCA_CFG
  ⟨0x130028, [], .plain, 0, 0, 0xffff, 0, 0, [0x8000]⟩, -- LBS_PLCA_BURST
  ⟨0x13002c, [], .plain, 0, 0, 0, 0, 0, [0]⟩, -- LBS_PLCA_STAT
  ⟨0x130030, [], .plain, 0, 0, 0x3fff0007, 0, 0, [7]⟩, -- LBS_AUTH_CFG
  ⟨0x130034, [], .plain, 0xfffff0ff, 0, 0, 0, 0, [0x1e3014]⟩, -- LBS_HS_CFG
  ⟨0x130038, [], .plain, 0xffff, 0, 0, 0, 0, [0xa]⟩, -- LBS_ENV_CFG
  ⟨0x13003c, [], .plain, 0xffffffff, 0, 0, 0, 0, [0]⟩, -- LBS_STR_CFG
  ⟨0x130040, [], .rc, 0, 0, 0, 0, 0, [0]⟩, -- LBS_TX_CNT
  ⟨0x130044, [], .rc, 0, 0, 0, 0, 0, [0]⟩, -- LBS_RX_CNT
  ⟨0x130048, [], .rc, 0, 0, 0, 0, 0, [0]⟩, -- LBS_OTHER_CNT
  ⟨0x13004c, [], .rc, 0, 0, 0, 0, 0, [0]⟩, -- LBS_STR_CNT
  ⟨0x130050, [], .rc, 0, 0, 0, 0, 0, [0]⟩, -- LBS_COL_CNT
  ⟨0x130054, [], .rc, 0, 0, 0, 0, 0, [0]⟩, -- LBS_EXCOL_CNT
  ⟨0x130058, [], .rc, 0, 0, 0, 0, 0, [0]⟩, -- LBS_SYM_CNT
  ⟨0x13005c, [], .rc, 0, 0, 0, 0, 0, [0]⟩, -- LBS_BCN_CNT
  ⟨0x130060, [], .rc, 0, 0, 0, 0, 0, [0]⟩, -- LBS_RXOVF_CNT
  ⟨0x130064, [], .rc, 0, 0, 0, 0, 0, [0]⟩, -- LBS_TXDROP_CNT
  ⟨0x130068, [], .rc, 0, 0, 0, 0, 0, [0]⟩, -- LBS_HS_FAIL_CNT
  ⟨0x130070, [], .lo, 0, 0, 0, 0, 0, [0]⟩, -- LBS_STR_LAST_LO
  ⟨0x130074, [], .hi, 0, 0, 0, 0, 0, [0]⟩, -- LBS_STR_LAST_HI
  ⟨0x130078, [], .lo, 0, 0, 0, 0, 0, [0]⟩, -- LBS_TX_CTR_LO
  ⟨0x13007c, [], .hi, 0, 0, 0, 0, 0, [0]⟩, -- LBS_TX_CTR_HI
  ⟨0x130100, [(8, 0x10)], .plain, 0, 0, 0xffffffff, 0, 0, [0]⟩, -- LBS_PEER_MAC_LO
  ⟨0x130104, [(8, 0x10)], .plain, 0, 0, 0x8300ffff, 0, 0, [0]⟩, -- LBS_PEER_MAC_HI
  ⟨0x130108, [(8, 0x10)], .lo, 0, 0, 0, 0, 0, [0]⟩, -- LBS_PEER_CTR_LO
  ⟨0x13010c, [(8, 0x10)], .hi, 0, 0, 0, 0, 0, [0]⟩, -- LBS_PEER_CTR_HI
  ⟨0x130200, [], .plain, 0, 0, 0, 0, 0, [0]⟩, -- LBS_RX_HEAD
  ⟨0x130204, [], .plain, 0, 0, 0, 0, 0, [0]⟩, -- LBS_RX_TAIL
  ⟨0x130208, [], .plain, 0xf7, 0, 0, 0, 0, [0]⟩, -- LBS_RX_VERDICT
  ⟨0x13020c, [], .plain, 0x3f, 0, 0, 0, 0, [0]⟩, -- LBS_RX_WIN_SEL
  ⟨0x130220, [(8, 0x4)], .plain, 0, 0, 0, 0, 0, [0]⟩ -- LBS_RX_DESC
  ]
def Regs.block19b : List RegRow := [
  ⟨0x130240, [(16, 0x4)], .plain, 0, 0, 0, 0, 0, [0]⟩, -- LBS_RX_WIN
  ⟨0x130280, [], .plain, 0, 0, 0, 0, 0x800001ff, [0]⟩, -- LBS_TX_CMD
  ⟨0x130284, [], .plain, 0, 0, 0, 0, 0, [0]⟩, -- LBS_TX_STAT
  ⟨0x130288, [], .plain, 7, 0, 0, 0, 0, [0]⟩, -- LBS_TX_WIN_SEL
  ⟨0x1302c0, [(16, 0x4)], .plain, 0xffffffff, 0, 0, 0, 0, [0]⟩ -- LBS_TX_WIN
  ]
def Regs.block19 : List RegRow := Regs.block19a ++ Regs.block19b

/-- The register rows of block 20 (R480). -/
def Regs.block20a : List RegRow := [
  ⟨0x140000, [], .plain, 0x81, 0, 2, 0, 0, [0x80]⟩, -- MIR_CTRL
  ⟨0x140004, [], .plain, 0, 0xc0000, 0, 0, 0, [0]⟩, -- MIR_STAT
  ⟨0x140008, [], .plain, 0, 0xffffffff, 0, 0, 0, [0]⟩, -- MIR_INT_STAT
  ⟨0x14000c, [], .plain, 0xffffffff, 0, 0, 0, 0, [0]⟩, -- MIR_INT_EN
  ⟨0x140010, [], .plain, 0xffffffff, 0, 0, 0, 0, [0x4084258]⟩, -- MIR_CFG
  ⟨0x140014, [], .plain, 0xffff, 0, 0, 0, 0, [0xc8]⟩, -- MIR_HB
  ⟨0x140018, [], .plain, 0, 0, 0, 0, 0, [0]⟩, -- MIR_OWN_STAT
  ⟨0x14001c, [], .plain, 0, 0, 0, 0, 0, [0]⟩, -- MIR_REL_CAUSE
  ⟨0x140020, [], .plain, 0, 0, 0, 0, 0, [0]⟩, -- MIR_TX_SEQ
  ⟨0x140024, [], .plain, 0, 0, 0, 0, 0, [0]⟩, -- MIR_RX_SEQ
  ⟨0x140028, [], .plain, 0, 0, 0, 0, 0, [0]⟩, -- MIR_AGE
  ⟨0x14002c, [], .plain, 0, 0, 0, 0, 0, [0]⟩, -- MIR_LAT
  ⟨0x140030, [], .plain, 0, 0, 0, 0, 0, [0]⟩, -- MIR_PART_STAT
  ⟨0x140040, [], .rc, 0, 0, 0, 0, 0, [0]⟩, -- MIR_TX_CNT
  ⟨0x140044, [], .rc, 0, 0, 0, 0, 0, [0]⟩, -- MIR_RX_CNT
  ⟨0x140048, [], .rc, 0, 0, 0, 0, 0, [0]⟩, -- MIR_GAP_CNT
  ⟨0x14004c, [], .rc, 0, 0, 0, 0, 0, [0]⟩, -- MIR_DEG_CNT
  ⟨0x140050, [], .rc, 0, 0, 0, 0, 0, [0]⟩, -- MIR_HBLOSS_CNT
  ⟨0x140054, [], .rc, 0, 0, 0, 0, 0, [0]⟩, -- MIR_TAKE_CNT
  ⟨0x140058, [], .rc, 0, 0, 0, 0, 0, [0]⟩, -- MIR_HAND_CNT
  ⟨0x14005c, [], .rc, 0, 0, 0, 0, 0, [0]⟩, -- MIR_REL_CNT
  ⟨0x140060, [], .rc, 0, 0, 0, 0, 0, [0]⟩, -- MIR_SUPFAIL_CNT
  ⟨0x140064, [], .rc, 0, 0, 0, 0, 0, [0]⟩, -- MIR_NOPRE_CNT
  ⟨0x140068, [], .rc, 0, 0, 0, 0, 0, [0]⟩, -- MIR_ENTRY_CNT
  ⟨0x14006c, [], .rc, 0, 0, 0, 0, 0, [0]⟩, -- MIR_CLASH_CNT
  ⟨0x140080, [], .plain, 0, 0, 0, 0, 0, [0]⟩, -- MIR_TAKE_SEQ
  ⟨0x140084, [], .lo, 0, 0, 0, 0, 0, [0]⟩, -- MIR_TAKE_TIME_LO
  ⟨0x140088, [], .hi, 0, 0, 0, 0, 0, [0]⟩, -- MIR_TAKE_TIME_HI
  ⟨0x14008c, [], .plain, 0, 0, 0, 0, 0, [0]⟩, -- MIR_TAKE_GAP
  ⟨0x140090, [], .plain, 0, 0, 0, 0, 0, [0x3c000000]⟩, -- MIR_RING_BASE
  ⟨0x140094, [], .plain, 0, 0, 0, 0, 0, [0]⟩, -- MIR_RING_PTR
  ⟨0x1400a0, [], .plain, 0, 0, 0, 0, 0, [0]⟩, -- MIR_DESC_SEQ
  ⟨0x1400a4, [], .plain, 0, 0, 0, 0, 0, [0]⟩, -- MIR_DISC_STAT
  ⟨0x1400a8, [], .rc, 0, 0, 0, 0, 0, [0]⟩, -- MIR_NEXTFREE_CNT
  ⟨0x1400ac, [], .plain, 0, 0, 0, 0, 0, [0]⟩, -- MIR_AGREE_MAX
  ⟨0x1400b0, [], .plain, 0, 0, 0, 0, 0, [0]⟩, -- MIR_LIVE_STAT
  ⟨0x1400b4, [], .plain, 0, 0, 0, 0, 0, [0]⟩, -- MIR_PART_SEQ
  ⟨0x1400b8, [], .plain, 0, 0, 0, 0, 0, [0]⟩, -- MIR_CLAIM_STAT
  ⟨0x1400bc, [], .plain, 0, 0, 0, 0, 0, [0]⟩, -- MIR_HB_AGE
  ⟨0x140100, [], .plain, 0x303ff, 0, 0, 0, 0, [0]⟩ -- MIR_STG_SEL
  ]
def Regs.block20b : List RegRow := [
  ⟨0x140104, [(30, 0x4)], .plain, 0, 0, 0, 0, 0, [0]⟩ -- MIR_STG_DATA
  ]
def Regs.block20 : List RegRow := Regs.block20a ++ Regs.block20b

/-- The register rows of block 21 (R482). -/
def Regs.block21 : List RegRow := [
  ⟨0x150000, [], .plain, 0, 0, 0, 1, 0, [0]⟩, -- AXL_CTRL
  ⟨0x150004, [], .plain, 0, 0, 0, 0, 0, [0]⟩, -- AXL_STAT
  ⟨0x150008, [], .plain, 0, 0xffffffff, 0, 0, 0, [0]⟩, -- AXL_INT_STAT
  ⟨0x15000c, [], .plain, 0xffffffff, 0, 0, 0, 0, [0]⟩, -- AXL_INT_EN
  ⟨0x150010, [], .plain, 0, 0, 0, 0xffff, 0, [0xa]⟩, -- AXL_CFG
  ⟨0x150014, [], .plain, 0, 0, 0, 0, 0, [0]⟩, -- AXL_KAT_STAT
  ⟨0x150018, [], .plain, 0, 0, 0, 0, 0, [0]⟩, -- AXL_REQ_STAT
  ⟨0x15001c, [], .lo, 0, 0, 0, 0, 0, [0]⟩, -- AXL_LAST_REQ_LO
  ⟨0x150020, [], .hi, 0, 0, 0, 0, 0, [0]⟩, -- AXL_LAST_REQ_HI
  ⟨0x150040, [], .plain, 0, 0, 0, 0, 0, [0]⟩, -- AXL_FMAP_CNT
  ⟨0x150044, [], .plain, 0, 0, 0, 0, 0, [0]⟩, -- AXL_FLD_CNT
  ⟨0x150048, [], .plain, 0, 0, 0, 0, 0, [0]⟩, -- AXL_FLD_FREE
  ⟨0x15004c, [], .plain, 0x83ff, 0, 0, 0, 0, [0]⟩, -- AXL_MAP_SEL
  ⟨0x150050, [], .lo, 0, 0, 0, 0, 0, [0]⟩, -- AXL_MAP_DATA_LO
  ⟨0x150054, [], .hi, 0, 0, 0, 0, 0, [0]⟩, -- AXL_MAP_DATA_HI
  ⟨0x150080, [(8, 0x4)], .plain, 0, 0, 0, 0, 0, [0]⟩, -- AXL_INV
  ⟨0x1500c0, [], .rc, 0, 0, 0, 0, 0, [0]⟩, -- AXL_GRANT_CNT
  ⟨0x1500c4, [], .rc, 0, 0, 0, 0, 0, [0]⟩, -- AXL_DENY_CNT
  ⟨0x1500c8, [], .rc, 0, 0, 0, 0, 0, [0]⟩, -- AXL_UNREP_CNT
  ⟨0x1500cc, [], .rc, 0, 0, 0, 0, 0, [0]⟩, -- AXL_EXH_CNT
  ⟨0x1500d0, [], .rc, 0, 0, 0, 0, 0, [0]⟩, -- AXL_BIST_FAIL_CNT
  ⟨0x1500d4, [], .rc, 0, 0, 0, 0, 0, [0]⟩, -- AXL_KAT_CNT
  ⟨0x1500d8, [], .rc, 0, 0, 0, 0, 0, [0]⟩, -- AXL_KATFAIL_CNT
  ⟨0x1500dc, [], .rc, 0, 0, 0, 0, 0, [0]⟩, -- AXL_REC_WR_CNT
  ⟨0x150100, [], .plain, 0, 0, 0, 0, 0, [0]⟩, -- AXL_BIST_DEC
  ⟨0x150104, [], .plain, 0, 0, 0, 0, 0, [0]⟩, -- AXL_BIST_MAC
  ⟨0x150108, [], .plain, 0, 0, 0, 0, 0, [0]⟩, -- AXL_BIST_MIX
  ⟨0x15010c, [], .plain, 0, 0, 0, 0, 0, [0]⟩, -- AXL_BIST_HLK
  ⟨0x150110, [(12, 0x4)], .plain, 0, 0, 0, 0, 0, [0]⟩, -- AXL_BIST_ADC
  ⟨0x150180, [], .plain, 0x1f, 0, 0, 0, 0, [0]⟩, -- AXL_LOG_SEL
  ⟨0x150184, [(4, 0x4)], .plain, 0, 0, 0, 0, 0, [0]⟩, -- AXL_LOG_DATA
  ⟨0x150194, [], .plain, 0, 0, 0, 0, 0, [0]⟩, -- AXL_LOG_HEAD
  ⟨0x1501c0, [], .plain, 0, 0, 0, 0, 0, [0]⟩, -- AXL_ISLAND_STAT
  ⟨0x1501c4, [], .plain, 0, 0, 0, 0, 0, [0]⟩, -- AXL_SELFCHK
  ⟨0x1501c8, [], .plain, 0, 0, 0, 0, 0, [0]⟩, -- AXL_REC_STAT
  ⟨0x1501cc, [], .plain, 0, 0, 0, 0, 0, [0]⟩, -- AXL_FUSE_STAT
  ⟨0x1501d0, [], .plain, 0, 0, 0, 0xffffffff, 0, [0]⟩, -- AXL_HM_CFG
  ⟨0x1501d4, [], .lo, 0, 0, 0, 0, 0, [0]⟩, -- AXL_TIME_LO
  ⟨0x1501d8, [], .hi, 0, 0, 0, 0, 0, [0]⟩ -- AXL_TIME_HI
  ]

/-- The register rows of block 22 (R516). -/
def Regs.block22 : List RegRow := [
  ⟨0x160000, [], .plain, 1, 0, 0, 0, 0, [0]⟩, -- CAL_CTRL
  ⟨0x160004, [], .plain, 0, 0x700, 0, 0, 0, [0]⟩, -- CAL_STAT
  ⟨0x160008, [], .plain, 0, 0xffffffff, 0, 0, 0, [0]⟩, -- CAL_INT_STAT
  ⟨0x16000c, [], .plain, 0xffffffff, 0, 0, 0, 0, [0]⟩, -- CAL_INT_EN
  ⟨0x160010, [], .plain, 0, 0, 0, 0, 0, [0]⟩, -- CAL_REFMEAS
  ⟨0x160014, [], .plain, 0, 0, 0xffffffff, 0, 0, [0]⟩, -- CAL_REFCOR
  ⟨0x160018, [], .plain, 0, 0, 0, 0, 0, [0]⟩, -- CAL_REFQ
  ⟨0x16001c, [], .plain, 0, 0, 0, 0, 0, [0]⟩, -- CAL_SHUNT_Q
  ⟨0x160020, [], .plain, 0, 0, 0, 0, 0, [0]⟩, -- CAL_HOFS_Q
  ⟨0x160040, [(26, 0x4)], .plain, 0, 0, 0, 0, 0, [0x80008000]⟩, -- CAL_IN_RES
  ⟨0x160100, [(16, 0x4)], .plain, 0, 0, 0, 0, 0, [0xffffffff]⟩, -- CAL_B_Q
  ⟨0x160140, [(20, 0x4)], .plain, 0, 0, 0, 0, 0, [0xffffffff]⟩, -- CAL_LD_Q
  ⟨0x1601c0, [(19, 0x4)], .plain, 0, 0, 0, 0, 0, [0xffffffff]⟩ -- CAL_LOOP_RES
  ]

/-- The register rows of block 23 (R518). -/
def Regs.block23 : List RegRow := [
  ⟨0x170000, [], .plain, 7, 0, 0, 0, 0, [0]⟩, -- PMC_CTRL
  ⟨0x170004, [], .plain, 0, 1, 0, 0, 0, [0]⟩, -- PMC_STAT
  ⟨0x170008, [], .plain, 0, 0xff, 0, 0, 0, [0]⟩, -- PMC_OVF
  ⟨0x17000c, [], .plain, 0, 0, 1, 0, 0, [0]⟩, -- PMC_ACCESS
  ⟨0x170010, [], .lo, 0, 0, 0, 0, 0, [0]⟩, -- PMC_CYC_LO
  ⟨0x170014, [], .hi, 0, 0, 0, 0, 0, [0]⟩, -- PMC_CYC_HI
  ⟨0x170018, [], .plain, 0xffffffff, 0, 0, 0, 0, [0]⟩, -- PMC_WIN_BASE
  ⟨0x17001c, [], .plain, 0xffffffff, 0, 0, 0, 0, [0]⟩, -- PMC_WIN_LIM
  ⟨0x170100, [(8, 0x10)], .lo, 0xffffffff, 0, 0, 0, 0, [0]⟩, -- PMC_CNT_LO
  ⟨0x170104, [(8, 0x10)], .hi, 0xffffffff, 0, 0, 0, 0, [0]⟩, -- PMC_CNT_HI
  ⟨0x170108, [(8, 0x10)], .plain, 0xf0ffffff, 0, 0, 0, 0, [0]⟩, -- PMC_SEL
  ⟨0x17010c, [(8, 0x10)], .plain, 0x87ff0000, 0, 0, 0, 0, [0x1ff0000]⟩ -- PMC_FILT
  ]

/-- The register rows of block number `n` (R539). -/
def Regs.block : Nat → List RegRow
  | 0 => Regs.block0
  | 1 => Regs.block1
  | 2 => Regs.block2
  | 3 => Regs.block3
  | 4 => Regs.block4
  | 5 => Regs.block5
  | 6 => Regs.block6
  | 7 => Regs.block7
  | 8 => Regs.block8
  | 9 => Regs.block9
  | 10 => Regs.block10
  | 11 => Regs.block11
  | 12 => Regs.block12
  | 13 => Regs.block13
  | 14 => Regs.block14
  | 15 => Regs.block15
  | 16 => Regs.block16
  | 17 => Regs.block17
  | 18 => Regs.block18
  | 19 => Regs.block19
  | 20 => Regs.block20
  | 21 => Regs.block21
  | 22 => Regs.block22
  | 23 => Regs.block23
  | _ => []

/-- The row and element of the register at offset `a`; `none` is answered UR (R536). -/
def regAt (a : Nat) : Option (RegRow × Nat) :=
  if a % 4 = 0 then (Regs.block (a / 0x10000)).findSome? (fun r => (r.elem a).map (fun i => (r, i))) else none

/-- The reset word of the register at offset `a` (R545). DESIGN CHOICE (log entry 9). -/
def resetWord (a : Nat) : Word :=
  match regAt a with
  | some (r, i) => BitVec.ofNat 32 (match r.reset with | [v] => v | l => l.getD i 0)
  | none => 0#32

/-- A channel's place in the two control groups of SLD (R282). -/
def sldOfs (n : Nat) : Nat :=
  if n < 2 then 0x100 * n else 0x100 * ((n - 2) / 2) + 0x30 * (1 + (n - 2) % 2)

/-! ## Register offsets -/

namespace Reg

abbrev ANG_CTRL : Nat := 0xa0000
abbrev ANG_STAT : Nat := 0xa0004
abbrev ANG_NOW_LO : Nat := 0xa0008
abbrev ANG_NOW_HI : Nat := 0xa000c
abbrev ANG_HWM_LO : Nat := 0xa0010
abbrev ANG_HWM_HI : Nat := 0xa0014
abbrev ANG_CANCEL : Nat := 0xa0018
abbrev ANG_CORR : Nat := 0xa001c
abbrev ANG_SRV_SPR : Nat := 0xa0020
abbrev ANG_SRV_INT : Nat := 0xa0024
abbrev ANG_LATE_CNT : Nat := 0xa0028
abbrev ANG_CANCEL_CNT : Nat := 0xa002c
abbrev ANG_SLIP_CNT : Nat := 0xa0030
abbrev ANG_PAIR_CTRL : Nat := 0xa0034
abbrev ANG_PAIR_DIFF : Nat := 0xa0038
abbrev ANG_PAIR_CNT : Nat := 0xa003c
abbrev ANG_HOFS (h : Nat) : Nat := 0xa0040 + 0x10 * h
abbrev ANG_HPOS (h : Nat) : Nat := 0xa0044 + 0x10 * h
abbrev ANG_HSTAT (h : Nat) : Nat := 0xa0048 + 0x10 * h
abbrev ANG_HDISC_CNT (h : Nat) : Nat := 0xa004c + 0x10 * h
abbrev ANG_EVT_SEL : Nat := 0xa0080
abbrev ANG_EVT_TGT : Nat := 0xa0084
abbrev ANG_EVT_ACTW : Nat := 0xa0088
abbrev ANG_EVT_CMD : Nat := 0xa008c
abbrev ANG_EVT_ARMED (k : Nat) : Nat := 0xa0090 + 0x4 * k
abbrev ANG_EVT_FIRED (k : Nat) : Nat := 0xa0098 + 0x4 * k
abbrev ANG_ENC_CTRL (s : Nat) : Nat := 0xa00c0 + 0x20 * s
abbrev ANG_ENC_CNT (s : Nat) : Nat := 0xa00c4 + 0x20 * s
abbrev ANG_ENC_IDX (s : Nat) : Nat := 0xa00c8 + 0x20 * s
abbrev ANG_ENC_ERR (s : Nat) : Nat := 0xa00cc + 0x20 * s
abbrev ANG_ENC_STAT (s : Nat) : Nat := 0xa00d0 + 0x20 * s
abbrev ANG_ENC_SCALE (s : Nat) : Nat := 0xa00d4 + 0x20 * s
abbrev ANG_ENC_BANDREF (s : Nat) : Nat := 0xa00d8 + 0x20 * s
abbrev ANG_ENC_FILTSTAT (s : Nat) : Nat := 0xa00dc + 0x20 * s
abbrev ANG_EVT_STAT (i : Nat) : Nat := 0xa0100 + 0x4 * i
abbrev ACQ_CTRL : Nat := 0xb0000
abbrev ACQ_STAT : Nat := 0xb0004
abbrev ACQ_SLICE_SEL : Nat := 0xb0008
abbrev ACQ_SLICE_DATA : Nat := 0xb000c
abbrev ACQ_SLICE_CTRL : Nat := 0xb0010
abbrev ACQ_SQ_CTRL : Nat := 0xb0014
abbrev ACQ_SKEW_STAT : Nat := 0xb0018
abbrev ACQ_SWAP_CNT : Nat := 0xb001c
abbrev ACQ_PLL_CTRL (h : Nat) : Nat := 0xb0040 + 0x40 * h
abbrev ACQ_PLL_STAT (h : Nat) : Nat := 0xb0044 + 0x40 * h
abbrev ACQ_PLL_PHERR (h : Nat) : Nat := 0xb0048 + 0x40 * h
abbrev ACQ_PLL_FREQ (h : Nat) : Nat := 0xb004c + 0x40 * h
abbrev ACQ_HZONE (h : Nat) : Nat := 0xb0050 + 0x40 * h
abbrev ACQ_MARK_CFG (h : Nat) : Nat := 0xb0054 + 0x40 * h
abbrev ACQ_ADDR_LO (h : Nat) : Nat := 0xb0058 + 0x40 * h
abbrev ACQ_ADDR_HI (h : Nat) : Nat := 0xb005c + 0x40 * h
abbrev ACQ_MISS_CNT (h : Nat) : Nat := 0xb0060 + 0x40 * h
abbrev ACQ_HOLD_CNT (h : Nat) : Nat := 0xb0064 + 0x40 * h
abbrev ACQ_UNLOCK_CNT (h : Nat) : Nat := 0xb0068 + 0x40 * h
abbrev ACQ_ACRC_CNT (h : Nat) : Nat := 0xb006c + 0x40 * h
abbrev ACQ_ZMIS_CNT (h : Nat) : Nat := 0xb0070 + 0x40 * h
abbrev ACQ_MARK_OUT_CNT (h : Nat) : Nat := 0xb0074 + 0x40 * h
abbrev ACQ_ZRATIO (z : Nat) : Nat := 0xb0200 + 0x4 * z
abbrev ACQ_SKEW_D (b : Nat) : Nat := 0xb0300 + 0x20 * b
abbrev ACQ_SKEW_V (b : Nat) : Nat := 0xb0304 + 0x20 * b
abbrev ACQ_PHOFS_D (b : Nat) : Nat := 0xb0308 + 0x20 * b
abbrev ACQ_PHOFS_V (b : Nat) : Nat := 0xb030c + 0x20 * b
abbrev ACQ_VDLY (b : Nat) : Nat := 0xb0310 + 0x20 * b
abbrev ACQ_IN_CTRL (i : Nat) : Nat := 0xb0800 + 0x10 * i
abbrev ACQ_IN_OFS (i : Nat) : Nat := 0xb0804 + 0x10 * i
abbrev ACQ_IN_STAT (i : Nat) : Nat := 0xb0808 + 0x10 * i
abbrev ACQ_IN_PEAK (i : Nat) : Nat := 0xb080c + 0x10 * i
abbrev ACQ_ADC_MAP (a : Nat) : Nat := 0xb0c00 + 0x10 * a
abbrev ACQ_ADC_HLTH (a : Nat) : Nat := 0xb0c04 + 0x10 * a
abbrev ACQ_ADC_AGC (a : Nat) : Nat := 0xb0c08 + 0x10 * a
abbrev DET_GCTRL : Nat := 0xc0000
abbrev DET_GSTAT : Nat := 0xc0004
abbrev DET_INT_STAT : Nat := 0xc0008
abbrev DET_INT_EN : Nat := 0xc000c
abbrev DET_ERASE_MAX : Nat := 0xc0010
abbrev DET_SBUF_CFG : Nat := 0xc0014
abbrev DET_FLAG_CFG : Nat := 0xc0018
abbrev DET_DEF_PROFILE (k : Nat) : Nat := 0xc0020 + 0x4 * k
abbrev DET_ALT_TARGET (k : Nat) : Nat := 0xc0030 + 0x4 * k
abbrev DET_SYNC_PAT_LO : Nat := 0xc0040
abbrev DET_SYNC_PAT_HI : Nat := 0xc0044
abbrev DET_ALT_TAP (k j : Nat) : Nat := 0xc0080 + 0x20 * k + 0x4 * j
abbrev DET_SBUF_SEL : Nat := 0xc0100
abbrev DET_SBUF_INFO : Nat := 0xc0104
abbrev DET_SBUF_ERC (k : Nat) : Nat := 0xc0108 + 0x4 * k
abbrev DET_SBUF_DATA (k : Nat) : Nat := 0xc0118 + 0x4 * k
abbrev DET_SBUF_FLAGS (k : Nat) : Nat := 0xc0158 + 0x4 * k
abbrev DET_CTRL (b : Nat) : Nat := 0xc1000 + 0x100 * b
abbrev DET_STAT (b : Nat) : Nat := 0xc1004 + 0x100 * b
abbrev DET_EQ_CFG (b : Nat) : Nat := 0xc1008 + 0x100 * b
abbrev DET_TARGET (b : Nat) : Nat := 0xc100c + 0x100 * b
abbrev DET_SYNC_CFG (b : Nat) : Nat := 0xc1010 + 0x100 * b
abbrev DET_HDR_CFG (b : Nat) : Nat := 0xc1014 + 0x100 * b
abbrev DET_DEF_CFG (b : Nat) : Nat := 0xc1018 + 0x100 * b
abbrev DET_BLANK_CFG (b : Nat) : Nat := 0xc101c + 0x100 * b
abbrev DET_RUN_LBA (b : Nat) : Nat := 0xc1020 + 0x100 * b
abbrev DET_RUN_CFG (b : Nat) : Nat := 0xc1024 + 0x100 * b
abbrev DET_SBUF_STAT (b : Nat) : Nat := 0xc1028 + 0x100 * b
abbrev DET_ENV (b : Nat) : Nat := 0xc102c + 0x100 * b
abbrev DET_EQ_MSE (b : Nat) : Nat := 0xc1030 + 0x100 * b
abbrev DET_LAST_RES (b : Nat) : Nat := 0xc1034 + 0x100 * b
abbrev DET_LAST_HDR_LO (b : Nat) : Nat := 0xc1038 + 0x100 * b
abbrev DET_LAST_HDR_HI (b : Nat) : Nat := 0xc103c + 0x100 * b
abbrev DET_EQ_TAP (b j : Nat) : Nat := 0xc1040 + 0x100 * b + 0x4 * j
abbrev DET_BLK_CNT (b : Nat) : Nat := 0xc1060 + 0x100 * b
abbrev DET_NOSYNC_CNT (b : Nat) : Nat := 0xc1064 + 0x100 * b
abbrev DET_HDRFAIL_CNT (b : Nat) : Nat := 0xc1068 + 0x100 * b
abbrev DET_HDRMIS_CNT (b : Nat) : Nat := 0xc106c + 0x100 * b
abbrev DET_BLANK_CNT (b : Nat) : Nat := 0xc1070 + 0x100 * b
abbrev DET_DEFLIM_CNT (b : Nat) : Nat := 0xc1074 + 0x100 * b
abbrev DET_OVR_CNT (b : Nat) : Nat := 0xc1078 + 0x100 * b
abbrev DET_ABORT_CNT (b : Nat) : Nat := 0xc107c + 0x100 * b
abbrev DET_DEF_CNT (b : Nat) : Nat := 0xc1080 + 0x100 * b
abbrev DET_ERAS_CNT (b : Nat) : Nat := 0xc1084 + 0x100 * b
abbrev DET_FLAGAMB_CNT (b : Nat) : Nat := 0xc1088 + 0x100 * b
abbrev DET_RUNLONG_CNT (b : Nat) : Nat := 0xc108c + 0x100 * b
abbrev DEC_CTRL : Nat := 0xd0000
abbrev DEC_STAT : Nat := 0xd0004
abbrev DEC_ITER_CFG : Nat := 0xd0008
abbrev DEC_SCHED_CFG : Nat := 0xd000c
abbrev DEC_LLR_CFG : Nat := 0xd0010
abbrev DEC_LANE_EN : Nat := 0xd0014
abbrev DEC_QSTAT : Nat := 0xd0018
abbrev DEC_CLT_PTR : Nat := 0xd001c
abbrev DEC_CLT_OCC : Nat := 0xd0020
abbrev DEC_INT_STAT : Nat := 0xd0024
abbrev DEC_INT_EN : Nat := 0xd0028
abbrev DEC_SWAP_CNT : Nat := 0xd002c
abbrev DEC_B_RES (b : Nat) : Nat := 0xd0100 + 0x10 * b
abbrev DEC_B_LBA (b : Nat) : Nat := 0xd0104 + 0x10 * b
abbrev DEC_B_CNT (b : Nat) : Nat := 0xd0108 + 0x10 * b
abbrev DEC_L_STAT (l : Nat) : Nat := 0xd1000 + 0x80 * l
abbrev DEC_L_CUR (l : Nat) : Nat := 0xd1004 + 0x80 * l
abbrev DEC_L_LAST (l : Nat) : Nat := 0xd1008 + 0x80 * l
abbrev DEC_L_BLK_CNT (l : Nat) : Nat := 0xd100c + 0x80 * l
abbrev DEC_L_FAIL_CNT (l : Nat) : Nat := 0xd1010 + 0x80 * l
abbrev DEC_L_ITER_LO (l : Nat) : Nat := 0xd1014 + 0x80 * l
abbrev DEC_L_ITER_HI (l : Nat) : Nat := 0xd1018 + 0x80 * l
abbrev DEC_L_RET_LO (l : Nat) : Nat := 0xd101c + 0x80 * l
abbrev DEC_L_RET_HI (l : Nat) : Nat := 0xd1020 + 0x80 * l
abbrev DEC_L_WST_LO (l : Nat) : Nat := 0xd1024 + 0x80 * l
abbrev DEC_L_WST_HI (l : Nat) : Nat := 0xd1028 + 0x80 * l
abbrev DEC_L_FST_LO (l : Nat) : Nat := 0xd102c + 0x80 * l
abbrev DEC_L_FST_HI (l : Nat) : Nat := 0xd1030 + 0x80 * l
abbrev DEC_L_BST_LO (l : Nat) : Nat := 0xd1034 + 0x80 * l
abbrev DEC_L_BST_HI (l : Nat) : Nat := 0xd1038 + 0x80 * l
abbrev DEC_L_HLTH (l : Nat) : Nat := 0xd103c + 0x80 * l
abbrev DEC_L_BIST (l : Nat) : Nat := 0xd1040 + 0x80 * l
abbrev DEC_L_SWAP_CNT (l : Nat) : Nat := 0xd1044 + 0x80 * l
abbrev DEC_L_CLT (l : Nat) : Nat := 0xd1048 + 0x80 * l
abbrev DEC_L_PAR_CNT (l : Nat) : Nat := 0xd104c + 0x80 * l
abbrev RCV_CFG : Nat := 0x48000
abbrev RCV_STAT : Nat := 0x48004
abbrev RCV_QBASE : Nat := 0x48008
abbrev RCV_QPTR : Nat := 0x4800c
abbrev RCV_RUNG (k : Nat) : Nat := 0x48040 + 0x4 * k
abbrev RCV_RUNG_CNT (k : Nat) : Nat := 0x48080 + 0x4 * k
abbrev RCV_H_STAT (h : Nat) : Nat := 0x48100 + 0x4 * h
abbrev RCV_H_RP_CNT (h : Nat) : Nat := 0x48110 + 0x4 * h
abbrev RCV_B_STAT (b : Nat) : Nat := 0x48200 + 0x10 * b
abbrev RCV_B_RECOV_CNT (b : Nat) : Nat := 0x48204 + 0x10 * b
abbrev RCV_B_UNREC_CNT (b : Nat) : Nat := 0x48208 + 0x10 * b
abbrev LDD_CTRL (c : Nat) : Nat := 0xe0000 + 0x80 * c
abbrev LDD_STAT (c : Nat) : Nat := 0xe0004 + 0x80 * c
abbrev LDD_READ (c : Nat) : Nat := 0xe0008 + 0x80 * c
abbrev LDD_HF (c : Nat) : Nat := 0xe000c + 0x80 * c
abbrev LDD_WLVL (c j : Nat) : Nat := 0xe0010 + 0x80 * c + 0x4 * j
abbrev LDD_LIMIT (c : Nat) : Nat := 0xe0030 + 0x80 * c
abbrev LDD_SCALE (c : Nat) : Nat := 0xe0034 + 0x80 * c
abbrev LDD_COMPL (c : Nat) : Nat := 0xe0038 + 0x80 * c
abbrev LDD_APC (c : Nat) : Nat := 0xe003c + 0x80 * c
abbrev LDD_MONI (c : Nat) : Nat := 0xe0040 + 0x80 * c
abbrev LDD_FAULT_CNT (c : Nat) : Nat := 0xe0044 + 0x80 * c
abbrev LDD_TEMP (c : Nat) : Nat := 0xe0048 + 0x80 * c
abbrev WRP_STRAT_CFG (c : Nat) : Nat := 0xe004c + 0x80 * c
abbrev WRP_OPC_RES (c : Nat) : Nat := 0xe0050 + 0x80 * c
abbrev WRP_OPC_MIS (c : Nat) : Nat := 0xe0054 + 0x80 * c
abbrev WRP_BLK_CNT (c : Nat) : Nat := 0xe0058 + 0x80 * c
abbrev WRP_URUN_CNT (c : Nat) : Nat := 0xe005c + 0x80 * c
abbrev WRP_STRAT (h n : Nat) : Nat := 0xe4000 + 0x200 * h + 0x4 * n
abbrev VFY_CTRL : Nat := 0xf0000
abbrev VFY_STAT : Nat := 0xf0004
abbrev VFY_INT_STAT : Nat := 0xf0008
abbrev VFY_INT_EN : Nat := 0xf000c
abbrev VFY_RPL_CFG : Nat := 0xf0010
abbrev VFY_RPL_STAT : Nat := 0xf0014
abbrev VFY_RPL_CNT : Nat := 0xf0018
abbrev VFY_RPL_FAIL_CNT : Nat := 0xf001c
abbrev VFY_OPC_CFG : Nat := 0xf0020
abbrev VFY_OPC_STAT : Nat := 0xf0024
abbrev VFY_OPC_CNT : Nat := 0xf0028
abbrev VFY_WGEN : Nat := 0xf002c
abbrev VFY_WHW : Nat := 0xf0030
abbrev VFY_ERR_LBA : Nat := 0xf0034
abbrev VFY_EARLY_CNT : Nat := 0xf0038
abbrev VFY_URUN_CNT : Nat := 0xf003c
abbrev VFY_B_THR (b : Nat) : Nat := 0xf0100 + 0x20 * b
abbrev VFY_B_LAST (b : Nat) : Nat := 0xf0104 + 0x20 * b
abbrev VFY_B_LBA (b : Nat) : Nat := 0xf0108 + 0x20 * b
abbrev VFY_B_PASS_CNT (b : Nat) : Nat := 0xf010c + 0x20 * b
abbrev VFY_B_FAIL_CNT (b : Nat) : Nat := 0xf0110 + 0x20 * b
abbrev VFY_B_MIS_LO (b : Nat) : Nat := 0xf0114 + 0x20 * b
abbrev VFY_B_MIS_HI (b : Nat) : Nat := 0xf0118 + 0x20 * b
abbrev SRV_CTRL : Nat := 0x100000
abbrev SRV_STAT : Nat := 0x100004
abbrev SRV_HDIM : Nat := 0x100008
abbrev SRV_LANES : Nat := 0x10000c
abbrev SRV_RES_CFG : Nat := 0x100010
abbrev SRV_RES_STAT : Nat := 0x100014
abbrev SRV_INT_STAT : Nat := 0x100018
abbrev SRV_INT_EN : Nat := 0x10001c
abbrev SRV_SAMPLE_CNT_LO : Nat := 0x100020
abbrev SRV_SAMPLE_CNT_HI : Nat := 0x100024
abbrev SRV_OVR_CNT : Nat := 0x100028
abbrev SRV_LAT : Nat := 0x10002c
abbrev SRV_STALE_CNT : Nat := 0x100030
abbrev SRV_MIR_CTRL : Nat := 0x100034
abbrev SRV_PRESET : Nat := 0x100038
abbrev SRV_SPARE_CFG : Nat := 0x10003c
abbrev SRV_SPARE_STAT : Nat := 0x100040
abbrev SRV_LANE_STAT (l : Nat) : Nat := 0x100060 + 0x4 * l
abbrev SRV_LANE_RES_CNT (l : Nat) : Nat := 0x100080 + 0x4 * l
abbrev SRV_G_CTRL (g : Nat) : Nat := 0x100200 + 0x80 * g
abbrev SRV_G_STAT (g : Nat) : Nat := 0x100204 + 0x80 * g
abbrev SRV_G_TGT (g j : Nat) : Nat := 0x100208 + 0x80 * g + 0x4 * j
abbrev SRV_G_NEXT (g j : Nat) : Nat := 0x100214 + 0x80 * g + 0x4 * j
abbrev SRV_G_UOPEN (g j : Nat) : Nat := 0x100220 + 0x80 * g + 0x4 * j
abbrev SRV_G_U (g j : Nat) : Nat := 0x10022c + 0x80 * g + 0x4 * j
abbrev SRV_G_E (g j : Nat) : Nat := 0x100238 + 0x80 * g + 0x4 * j
abbrev SRV_G_IMASK (g : Nat) : Nat := 0x100244 + 0x80 * g
abbrev SRV_G_XSEL (g : Nat) : Nat := 0x100248 + 0x80 * g
abbrev SRV_G_XVAL (g : Nat) : Nat := 0x10024c + 0x80 * g
abbrev SRV_G_SAT_CNT (g : Nat) : Nat := 0x100250 + 0x80 * g
abbrev SRV_G_HOLD_CNT (g : Nat) : Nat := 0x100254 + 0x80 * g
abbrev SRV_S_CTRL (c : Nat) : Nat := 0x100400 + 0x20 * c
abbrev SRV_S_TGT (c : Nat) : Nat := 0x100404 + 0x20 * c
abbrev SRV_S_NEXT (c : Nat) : Nat := 0x100408 + 0x20 * c
abbrev SRV_S_U (c : Nat) : Nat := 0x10040c + 0x20 * c
abbrev SRV_S_E (c : Nat) : Nat := 0x100410 + 0x20 * c
abbrev SRV_G_MEM (g w : Nat) : Nat := 0x101000 + 0x400 * g + 0x4 * w
abbrev SRV_S_MEM (s w : Nat) : Nat := 0x102000 + 0x100 * s + 0x4 * w
abbrev LSV_CTRL : Nat := 0x4a000
abbrev LSV_STAT : Nat := 0x4a004
abbrev LSV_INT_STAT : Nat := 0x4a008
abbrev LSV_INT_EN : Nat := 0x4a00c
abbrev LSV_S_LEAD (s : Nat) : Nat := 0x4a040 + 0x20 * s
abbrev LSV_S_SEEKCFG (s : Nat) : Nat := 0x4a044 + 0x20 * s
abbrev LSV_S_STAT (s : Nat) : Nat := 0x4a048 + 0x20 * s
abbrev LSV_S_SEEK_CNT (s : Nat) : Nat := 0x4a04c + 0x20 * s
abbrev LSV_H_CMD (h : Nat) : Nat := 0x4a100 + 0x40 * h
abbrev LSV_H_STAT (h : Nat) : Nat := 0x4a104 + 0x40 * h
abbrev LSV_H_TGT (h : Nat) : Nat := 0x4a108 + 0x40 * h
abbrev LSV_H_JANG (h : Nat) : Nat := 0x4a10c + 0x40 * h
abbrev LSV_H_FSRCH (h : Nat) : Nat := 0x4a110 + 0x40 * h
abbrev LSV_H_LOSS (h : Nat) : Nat := 0x4a114 + 0x40 * h
abbrev LSV_H_KICK (h : Nat) : Nat := 0x4a118 + 0x40 * h
abbrev LSV_H_TKICK (h : Nat) : Nat := 0x4a11c + 0x40 * h
abbrev LSV_H_SETBASE (h : Nat) : Nat := 0x4a120 + 0x40 * h
abbrev LSV_H_SUMREF (h : Nat) : Nat := 0x4a124 + 0x40 * h
abbrev LSV_H_FL_CNT (h : Nat) : Nat := 0x4a128 + 0x40 * h
abbrev LSV_H_TL_CNT (h : Nat) : Nat := 0x4a12c + 0x40 * h
abbrev LSV_H_SLIP_CNT (h : Nat) : Nat := 0x4a130 + 0x40 * h
abbrev LSV_H_LC_CNT (h : Nat) : Nat := 0x4a134 + 0x40 * h
abbrev LSV_H_JMP_CNT (h : Nat) : Nat := 0x4a138 + 0x40 * h
abbrev LSV_H_RCV_CNT (h : Nat) : Nat := 0x4a13c + 0x40 * h
abbrev LSV_SA_POS (h k : Nat) : Nat := 0x4a200 + 0x20 * h + 0x4 * k
abbrev SPN_CTRL : Nat := 0x110000
abbrev SPN_STAT : Nat := 0x110004
abbrev SPN_CMD : Nat := 0x110008
abbrev SPN_INT_STAT : Nat := 0x11000c
abbrev SPN_INT_EN : Nat := 0x110010
abbrev SPN_MOTOR : Nat := 0x110014
abbrev SPN_ILIM : Nat := 0x110018
abbrev SPN_PWM : Nat := 0x11001c
abbrev SPN_SPEED : Nat := 0x110020
abbrev SPN_TARGET : Nat := 0x110024
abbrev SPN_REF : Nat := 0x110028
abbrev SPN_RAMP : Nat := 0x11002c
abbrev SPN_TOL : Nat := 0x110030
abbrev SPN_PARK : Nat := 0x110034
abbrev SPN_ROT : Nat := 0x110038
abbrev SPN_MANG : Nat := 0x11003c
abbrev SPN_IQ_REF : Nat := 0x110040
abbrev SPN_ID_REF : Nat := 0x110044
abbrev SPN_IQ : Nat := 0x110048
abbrev SPN_ID : Nat := 0x11004c
abbrev SPN_VQ : Nat := 0x110050
abbrev SPN_VD : Nat := 0x110054
abbrev SPN_CL_GAIN : Nat := 0x110058
abbrev SPN_PIN : Nat := 0x11005c
abbrev SPN_IPH (p : Nat) : Nat := 0x110060 + 0x4 * p
abbrev SPN_VPH (p : Nat) : Nat := 0x11006c + 0x4 * p
abbrev SPN_SHUNT_OFS (p : Nat) : Nat := 0x110078 + 0x4 * p
abbrev SPN_SHUNT_GAIN (p : Nat) : Nat := 0x110084 + 0x4 * p
abbrev SPN_EST_CFG : Nat := 0x110090
abbrev SPN_EST_R : Nat := 0x110094
abbrev SPN_EST_L : Nat := 0x110098
abbrev SPN_EST_KE : Nat := 0x11009c
abbrev SPN_EST_PLL : Nat := 0x1100a0
abbrev SPN_EANG : Nat := 0x1100a4
abbrev SPN_EST_STAT : Nat := 0x1100a8
abbrev SPN_OFS_LATCH : Nat := 0x1100ac
abbrev SPN_START : Nat := 0x1100b0
abbrev SPN_IF : Nat := 0x1100b4
abbrev SPN_HANDOFF : Nat := 0x1100b8
abbrev SPN_BRAKE : Nat := 0x1100c0
abbrev SPN_VWATCH : Nat := 0x1100c4
abbrev SPN_VIN : Nat := 0x1100c8
abbrev SPN_TEMP : Nat := 0x1100cc
abbrev SPN_STOPCFG : Nat := 0x1100d0
abbrev SPN_FLT_CNT : Nat := 0x1100e0
abbrev SPN_OVC_CNT : Nat := 0x1100e4
abbrev SPN_WATCH_CNT : Nat := 0x1100e8
abbrev SPN_ZV_CNT : Nat := 0x1100ec
abbrev SPN_REFUSE_CNT : Nat := 0x1100f0
abbrev SPN_START_CNT : Nat := 0x1100f4
abbrev SPN_TRACE (k : Nat) : Nat := 0x110100 + 0x4 * k
abbrev SLD_G_CTRL (s : Nat) : Nat := 0x120000 + 0x100 * s
abbrev SLD_G_STAT (s : Nat) : Nat := 0x120004 + 0x100 * s
abbrev SLD_G_STALL_CNT (s : Nat) : Nat := 0x120008 + 0x100 * s
abbrev SLD_G_MOVE_CNT (s : Nat) : Nat := 0x12000c + 0x100 * s
abbrev SLD_CTRL (n : Nat) : Nat := 0x120010 + sldOfs n
abbrev SLD_STAT (n : Nat) : Nat := 0x120014 + sldOfs n
abbrev SLD_CMD (n : Nat) : Nat := 0x120018 + sldOfs n
abbrev SLD_TGT (n : Nat) : Nat := 0x12001c + sldOfs n
abbrev SLD_POS (n : Nat) : Nat := 0x120020 + sldOfs n
abbrev SLD_VMAX (n : Nat) : Nat := 0x120024 + sldOfs n
abbrev SLD_AMAX (n : Nat) : Nat := 0x120028 + sldOfs n
abbrev SLD_JMAX (n : Nat) : Nat := 0x12002c + sldOfs n
abbrev SLD_CUR (n : Nat) : Nat := 0x120030 + sldOfs n
abbrev SLD_MOTOR (n : Nat) : Nat := 0x120034 + sldOfs n
abbrev SLD_STALL (n : Nat) : Nat := 0x120038 + sldOfs n
abbrev SLD_LANG (n : Nat) : Nat := 0x12003c + sldOfs n
abbrev SLD_TBL (t k : Nat) : Nat := 0x121000 + 0x400 * t + 0x4 * k
abbrev HLK_CTRL : Nat := 0x20000
abbrev HLK_STAT : Nat := 0x20004
abbrev HLK_ID : Nat := 0x20008
abbrev HLK_INT_STAT : Nat := 0x2000c
abbrev HLK_INT_EN : Nat := 0x20010
abbrev HLK_ARB : Nat := 0x20014
abbrev HLK_RETRY_CFG : Nat := 0x20018
abbrev HLK_ENUM_STAT : Nat := 0x2001c
abbrev HLK_DRAIN_STAT : Nat := 0x20020
abbrev HLK_VIOL_ADDR_LO : Nat := 0x20030
abbrev HLK_VIOL_ADDR_HI : Nat := 0x20034
abbrev HLK_VIOL_INFO : Nat := 0x20038
abbrev HLK_PRIV (n : Nat) : Nat := 0x20040 + 0x4 * n
abbrev HLK_WIN_BASE_LO (w : Nat) : Nat := 0x20100 + 0x20 * w
abbrev HLK_WIN_BASE_HI (w : Nat) : Nat := 0x20104 + 0x20 * w
abbrev HLK_WIN_LIM_LO (w : Nat) : Nat := 0x20108 + 0x20 * w
abbrev HLK_WIN_LIM_HI (w : Nat) : Nat := 0x2010c + 0x20 * w
abbrev HLK_WIN_CTRL (w : Nat) : Nat := 0x20110 + 0x20 * w
abbrev HLK_P_CTRL (p : Nat) : Nat := 0x20400 + 0x100 * p
abbrev HLK_P_STAT (p : Nat) : Nat := 0x20404 + 0x100 * p
abbrev HLK_P_TRAIN (p : Nat) : Nat := 0x20408 + 0x100 * p
abbrev HLK_P_MAP (p : Nat) : Nat := 0x2040c + 0x100 * p
abbrev HLK_P_CRED (p : Nat) : Nat := 0x20410 + 0x100 * p
abbrev HLK_P_LAT (p : Nat) : Nat := 0x20414 + 0x100 * p
abbrev HLK_P_CW_CNT_LO (p : Nat) : Nat := 0x20418 + 0x100 * p
abbrev HLK_P_CW_CNT_HI (p : Nat) : Nat := 0x2041c + 0x100 * p
abbrev HLK_P_COR_CNT_LO (p : Nat) : Nat := 0x20420 + 0x100 * p
abbrev HLK_P_COR_CNT_HI (p : Nat) : Nat := 0x20424 + 0x100 * p
abbrev HLK_P_UNC_CNT (p : Nat) : Nat := 0x20428 + 0x100 * p
abbrev HLK_P_TX_CNT_LO (p : Nat) : Nat := 0x2042c + 0x100 * p
abbrev HLK_P_TX_CNT_HI (p : Nat) : Nat := 0x20430 + 0x100 * p
abbrev HLK_P_RX_CNT_LO (p : Nat) : Nat := 0x20434 + 0x100 * p
abbrev HLK_P_RX_CNT_HI (p : Nat) : Nat := 0x20438 + 0x100 * p
abbrev HLK_P_FWD_CNT_LO (p : Nat) : Nat := 0x2043c + 0x100 * p
abbrev HLK_P_FWD_CNT_HI (p : Nat) : Nat := 0x20440 + 0x100 * p
abbrev HLK_P_NAK_CNT (p : Nat) : Nat := 0x20444 + 0x100 * p
abbrev HLK_P_RPL_CNT (p : Nat) : Nat := 0x20448 + 0x100 * p
abbrev HLK_P_HCRC_CNT (p : Nat) : Nat := 0x2044c + 0x100 * p
abbrev HLK_P_CRC32_CNT (p : Nat) : Nat := 0x20450 + 0x100 * p
abbrev HLK_P_DROP_CNT (p : Nat) : Nat := 0x20454 + 0x100 * p
abbrev HLK_P_LATE_CNT (p : Nat) : Nat := 0x20458 + 0x100 * p
abbrev HLK_P_SWAP_CNT (p : Nat) : Nat := 0x2045c + 0x100 * p
abbrev HLK_L_CTRL (l : Nat) : Nat := 0x20800 + 0x20 * l
abbrev HLK_L_TXEQ (l : Nat) : Nat := 0x20804 + 0x20 * l
abbrev HLK_L_RXEQ (l : Nat) : Nat := 0x20808 + 0x20 * l
abbrev HLK_L_HLTH (l : Nat) : Nat := 0x2080c + 0x20 * l
abbrev HLK_L_EYE (l : Nat) : Nat := 0x20810 + 0x20 * l
abbrev HLK_L_SER_CNT (l : Nat) : Nat := 0x20814 + 0x20 * l
abbrev TSK_CTRL : Nat := 0x30000
abbrev TSK_STATE : Nat := 0x30004
abbrev TSK_CMD : Nat := 0x30008
abbrev TSK_INT_STAT : Nat := 0x3000c
abbrev TSK_INT_EN : Nat := 0x30010
abbrev TSK_PROG : Nat := 0x30014
abbrev TSK_LOW_LBA : Nat := 0x30018
abbrev TSK_ERR_LBA : Nat := 0x3001c
abbrev TSK_DISC : Nat := 0x30020
abbrev TSK_EVT_SEQ : Nat := 0x30024
abbrev TSK_HTAG : Nat := 0x30028
abbrev TSK_DETAIL : Nat := 0x3002c
abbrev TSK_READY (k : Nat) : Nat := 0x30040 + 0x4 * k
abbrev TSK_SG_STAT : Nat := 0x30080
abbrev TSK_SG_ADDR_LO : Nat := 0x30084
abbrev TSK_SG_ADDR_HI : Nat := 0x30088
abbrev TSK_CAT_STAT : Nat := 0x3008c
abbrev TSK_DONE_CNT : Nat := 0x300a0
abbrev TSK_FRZ_CNT : Nat := 0x300a4
abbrev TSK_NAK_CNT : Nat := 0x300a8
abbrev TSK_ILL_CNT : Nat := 0x300ac
abbrev TSK_DESC (k : Nat) : Nat := 0x30100 + 0x4 * k
abbrev TSK_RES (k : Nat) : Nat := 0x30140 + 0x4 * k
abbrev TSK_ELOG_IDX : Nat := 0x30180
abbrev TSK_ELOG_HEAD : Nat := 0x30184
abbrev TSK_ELOG_DATA (k : Nat) : Nat := 0x30188 + 0x4 * k
abbrev TSK_EC_CNT (k : Nat) : Nat := 0x30200 + 0x4 * k
abbrev SEQ_CTRL : Nat := 0x40000
abbrev SEQ_STAT : Nat := 0x40004
abbrev SEQ_MODE : Nat := 0x40008
abbrev SEQ_PC : Nat := 0x4000c
abbrev SEQ_EPC : Nat := 0x40010
abbrev SEQ_ECAUSE : Nat := 0x40014
abbrev SEQ_EMODE : Nat := 0x40018
abbrev SEQ_EADDR_LO : Nat := 0x4001c
abbrev SEQ_EADDR_HI : Nat := 0x40020
abbrev SEQ_EVPC : Nat := 0x40024
abbrev SEQ_EVMODE : Nat := 0x40028
abbrev SEQ_INT_STAT : Nat := 0x4002c
abbrev SEQ_INT_EN : Nat := 0x40030
abbrev SEQ_UCODE_VER : Nat := 0x40034
abbrev SEQ_PATCH_VER : Nat := 0x40038
abbrev SEQ_ILLVEC : Nat := 0x4003c
abbrev SEQ_CS_ADDR : Nat := 0x40040
abbrev SEQ_CS_DATA (k : Nat) : Nat := 0x40044 + 0x4 * k
abbrev SEQ_DISP_SEL : Nat := 0x40054
abbrev SEQ_DISP_DATA : Nat := 0x40058
abbrev SEQ_WDOG : Nat := 0x4005c
abbrev SEQ_EVT_PEND (k : Nat) : Nat := 0x40080 + 0x4 * k
abbrev SEQ_EVT_EN (k : Nat) : Nat := 0x40088 + 0x4 * k
abbrev SEQ_EVT_LAST : Nat := 0x40090
abbrev SEQ_EVT_TAKEN_CNT : Nat := 0x40094
abbrev SEQ_EVT_MERGE_CNT : Nat := 0x40098
abbrev SEQ_EVT_FORCE : Nat := 0x4009c
abbrev SEQ_TMR_CNT (k : Nat) : Nat := 0x400c0 + 0x8 * k
abbrev SEQ_TMR_RLD (k : Nat) : Nat := 0x400c4 + 0x8 * k
abbrev SEQ_LSTK_PTR : Nat := 0x40100
abbrev SEQ_LSTK_START (k : Nat) : Nat := 0x40104 + 0x4 * k
abbrev SEQ_LSTK_END (k : Nat) : Nat := 0x40124 + 0x4 * k
abbrev SEQ_LSTK_CNT (k : Nat) : Nat := 0x40144 + 0x4 * k
abbrev SEQ_CSTK_PTR : Nat := 0x40200
abbrev SEQ_CSTK (k : Nat) : Nat := 0x40204 + 0x4 * k
abbrev SEQ_G_LO (n : Nat) : Nat := 0x40300 + 0x8 * n
abbrev SEQ_G_HI (n : Nat) : Nat := 0x40304 + 0x8 * n
abbrev SEQ_INSTR_CNT_LO : Nat := 0x40400
abbrev SEQ_INSTR_CNT_HI : Nat := 0x40404
abbrev SEQ_STALL_CNT_LO : Nat := 0x40408
abbrev SEQ_STALL_CNT_HI : Nat := 0x4040c
abbrev SEQ_XC_CNT (k : Nat) : Nat := 0x40440 + 0x4 * k
abbrev SEQ_BKPT (k : Nat) : Nat := 0x40480 + 0x4 * k
abbrev SEQ_DBG_CTRL : Nat := 0x40490
abbrev SEQ_DBG_STAT : Nat := 0x40494
abbrev SEQ_MBOX (k : Nat) : Nat := 0x40500 + 0x4 * k
abbrev CCH_CTRL : Nat := 0x50000
abbrev CCH_STAT : Nat := 0x50004
abbrev CCH_OP : Nat := 0x50008
abbrev CCH_OP_ADDR_LO : Nat := 0x5000c
abbrev CCH_OP_ADDR_HI : Nat := 0x50010
abbrev CCH_INT_STAT : Nat := 0x50014
abbrev CCH_INT_EN : Nat := 0x50018
abbrev CCH_FILL_STAT : Nat := 0x5001c
abbrev CCH_REG_BASE (k : Nat) : Nat := 0x50040 + 0x10 * k
abbrev CCH_REG_LIM (k : Nat) : Nat := 0x50044 + 0x10 * k
abbrev CCH_REG_ATTR (k : Nat) : Nat := 0x50048 + 0x10 * k
abbrev CCH_HIT_LO : Nat := 0x50100
abbrev CCH_HIT_HI : Nat := 0x50104
abbrev CCH_MISS_LO : Nat := 0x50108
abbrev CCH_MISS_HI : Nat := 0x5010c
abbrev CCH_VHIT_LO : Nat := 0x50110
abbrev CCH_VHIT_HI : Nat := 0x50114
abbrev CCH_WB_LO : Nat := 0x50118
abbrev CCH_WB_HI : Nat := 0x5011c
abbrev CCH_EVICT_LO : Nat := 0x50120
abbrev CCH_EVICT_HI : Nat := 0x50124
abbrev CCH_STALL_LO : Nat := 0x50128
abbrev CCH_STALL_HI : Nat := 0x5012c
abbrev CCH_UNC_LO : Nat := 0x50130
abbrev CCH_UNC_HI : Nat := 0x50134
abbrev CCH_MAINT_LO : Nat := 0x50138
abbrev CCH_MAINT_HI : Nat := 0x5013c
abbrev CCH_TAG_SEL : Nat := 0x50180
abbrev CCH_TAG_DATA : Nat := 0x50184
abbrev CCH_LINE_DATA (k : Nat) : Nat := 0x501c0 + 0x4 * k
abbrev CCH_VIC_TAG (k : Nat) : Nat := 0x50200 + 0x4 * k
abbrev CCH_ECC_CNT : Nat := 0x50220
abbrev CCH_ECC_ADDR : Nat := 0x50224
abbrev CCH_POISON_CNT : Nat := 0x50228
abbrev CCH_LRU_STAT : Nat := 0x5022c
abbrev CCH_FILL_LAT : Nat := 0x50230
abbrev CCH_REMAP_STAT : Nat := 0x50234
abbrev DMC_CTRL : Nat := 0x60000
abbrev DMC_STAT : Nat := 0x60004
abbrev DMC_INT_STAT : Nat := 0x60008
abbrev DMC_INT_EN : Nat := 0x6000c
abbrev DMC_ILV : Nat := 0x60010
abbrev DMC_PGPRED : Nat := 0x60014
abbrev DMC_PGTO : Nat := 0x60018
abbrev DMC_ARB : Nat := 0x6001c
abbrev DMC_REFCFG : Nat := 0x60020
abbrev DMC_MR_CMD : Nat := 0x60024
abbrev DMC_MR_DATA : Nat := 0x60028
abbrev DMC_CCACHE_CFG : Nat := 0x6002c
abbrev DMC_RD_CNT_LO : Nat := 0x60030
abbrev DMC_RD_CNT_HI : Nat := 0x60034
abbrev DMC_WR_CNT_LO : Nat := 0x60038
abbrev DMC_WR_CNT_HI : Nat := 0x6003c
abbrev DMC_LAT_STAT : Nat := 0x60040
abbrev DMC_BW_STAT : Nat := 0x60044
abbrev DMC_CH_CTRL (c : Nat) : Nat := 0x61000 + 0x400 * c
abbrev DMC_CH_STAT (c : Nat) : Nat := 0x61004 + 0x400 * c
abbrev DMC_CH_TIM (c j : Nat) : Nat := 0x61008 + 0x400 * c + 0x4 * j
abbrev DMC_CH_TEMP (c : Nat) : Nat := 0x61030 + 0x400 * c
abbrev DMC_CH_REF_CNT (c : Nat) : Nat := 0x61034 + 0x400 * c
abbrev DMC_CH_ACT_CNT (c : Nat) : Nat := 0x61038 + 0x400 * c
abbrev DMC_CH_HIT_CNT (c : Nat) : Nat := 0x6103c + 0x400 * c
abbrev DMC_DQ_RDLY (c j : Nat) : Nat := 0x61040 + 0x400 * c + 0x4 * j
abbrev DMC_DQ_WDLY (c j : Nat) : Nat := 0x61080 + 0x400 * c + 0x4 * j
abbrev DMC_CA_DLY (c : Nat) : Nat := 0x610c0 + 0x400 * c
abbrev DMC_WCK_DLY (c : Nat) : Nat := 0x610c4 + 0x400 * c
abbrev DMC_RDQS_DLY (c : Nat) : Nat := 0x610c8 + 0x400 * c
abbrev DMC_VREF (c : Nat) : Nat := 0x610cc + 0x400 * c
abbrev DMC_TRN_CTRL (c : Nat) : Nat := 0x61100 + 0x400 * c
abbrev DMC_TRN_STAT (c : Nat) : Nat := 0x61104 + 0x400 * c
abbrev DMC_TRN_SEED (c : Nat) : Nat := 0x61108 + 0x400 * c
abbrev DMC_TRN_USER (c j : Nat) : Nat := 0x6110c + 0x400 * c + 0x4 * j
abbrev DMC_TRN_ADDR (c : Nat) : Nat := 0x6111c + 0x400 * c
abbrev DMC_TRN_LEN (c : Nat) : Nat := 0x61120 + 0x400 * c
abbrev DMC_TRN_ERRMAP (c : Nat) : Nat := 0x61124 + 0x400 * c
abbrev DMC_TRN_ERRCNT_LO (c : Nat) : Nat := 0x61128 + 0x400 * c
abbrev DMC_TRN_ERRCNT_HI (c : Nat) : Nat := 0x6112c + 0x400 * c
abbrev DMC_TRN_SWEEP_CFG (c : Nat) : Nat := 0x61130 + 0x400 * c
abbrev DMC_TRN_SEL (c : Nat) : Nat := 0x61134 + 0x400 * c
abbrev DMC_TRN_SWEEP_RES (c j : Nat) : Nat := 0x61138 + 0x400 * c + 0x4 * j
abbrev DMC_BANK_HIST (c j : Nat) : Nat := 0x61180 + 0x400 * c + 0x4 * j
abbrev DMC_PG_KEEP_CNT (c : Nat) : Nat := 0x61188 + 0x400 * c
abbrev DMC_PG_CLOSE_CNT (c : Nat) : Nat := 0x6118c + 0x400 * c
abbrev MIC_CTRL : Nat := 0x70000
abbrev MIC_STAT : Nat := 0x70004
abbrev MIC_INT_STAT : Nat := 0x70008
abbrev MIC_INT_EN : Nat := 0x7000c
abbrev MIC_FILL_CTRL : Nat := 0x70010
abbrev MIC_FILL_STAT : Nat := 0x70014
abbrev MIC_POISON_CFG : Nat := 0x70018
abbrev MIC_ECC_INJ : Nat := 0x7001c
abbrev MIC_SKINK_CFG : Nat := 0x70040
abbrev MIC_SKINK_DEBT : Nat := 0x70044
abbrev MIC_SKINK_STAT : Nat := 0x70048
abbrev MIC_SKINK_POS_LO : Nat := 0x7004c
abbrev MIC_SKINK_POS_HI : Nat := 0x70050
abbrev MIC_SKINK_LAP : Nat := 0x70054
abbrev MIC_SKINK_LAPMAX : Nat := 0x70058
abbrev MIC_SKINK_LAPS : Nat := 0x7005c
abbrev MIC_SKINK_SRAM_LAP : Nat := 0x70060
abbrev MIC_SKINK_SKIP_CNT : Nat := 0x70064
abbrev MIC_D_CFG : Nat := 0x70080
abbrev MIC_D_CE_CNT : Nat := 0x70084
abbrev MIC_D_UE_CNT : Nat := 0x70088
abbrev MIC_D_PSN_CNT : Nat := 0x7008c
abbrev MIC_D_CONS_CNT : Nat := 0x70090
abbrev MIC_D_ERR_ADDR_LO : Nat := 0x70094
abbrev MIC_D_ERR_ADDR_HI : Nat := 0x70098
abbrev MIC_D_PIN_CNT : Nat := 0x7009c
abbrev MIC_DRM (e : Nat) : Nat := 0x70100 + 0x4 * e
abbrev MIC_S_CFG : Nat := 0x70200
abbrev MIC_S_CE_CNT : Nat := 0x70204
abbrev MIC_S_UE_CNT : Nat := 0x70208
abbrev MIC_S_PSN_CNT : Nat := 0x7020c
abbrev MIC_S_CONS_CNT : Nat := 0x70210
abbrev MIC_S_ERR_LOC : Nat := 0x70214
abbrev MIC_S_ERR_SYND : Nat := 0x70218
abbrev MIC_S_RMP_SEL : Nat := 0x7021c
abbrev MIC_S_RMP_DATA : Nat := 0x70220
abbrev MIC_S_RMP_FREE : Nat := 0x70224
abbrev MIC_SCLS_CNT (k : Nat) : Nat := 0x70300 + 0x8 * k
abbrev MIC_SCLS_RMP (k : Nat) : Nat := 0x70304 + 0x8 * k
abbrev FLC_CTRL : Nat := 0x80000
abbrev FLC_STAT : Nat := 0x80004
abbrev FLC_CMD : Nat := 0x80008
abbrev FLC_ADDR : Nat := 0x8000c
abbrev FLC_WDATA : Nat := 0x80010
abbrev FLC_RDATA : Nat := 0x80014
abbrev FLC_INT_STAT : Nat := 0x80018
abbrev FLC_INT_EN : Nat := 0x8001c
abbrev FLC_RUNTIME : Nat := 0x80020
abbrev FLC_SUSP_ADDR : Nat := 0x80024
abbrev FLC_LAST_MID : Nat := 0x80028
abbrev FLC_PROG_CNT : Nat := 0x80040
abbrev FLC_ERASE_CNT : Nat := 0x80044
abbrev FLC_SUSP_CNT : Nat := 0x80048
abbrev FLC_BUSY_CNT : Nat := 0x8004c
abbrev FLC_PFAIL_CNT : Nat := 0x80050
abbrev FLC_EFAIL_CNT : Nat := 0x80054
abbrev FLC_MC_CMD : Nat := 0x80060
abbrev FLC_MC_VAL (k : Nat) : Nat := 0x80064 + 0x4 * k
abbrev FLC_MC_STAT (k : Nat) : Nat := 0x8006c + 0x4 * k
abbrev FLC_SMAP_FREE : Nat := 0x80080
abbrev FLC_ERR_ADDR : Nat := 0x80084
abbrev FLC_DIE_ID : Nat := 0x80088
abbrev FLC_CAT_STAT : Nat := 0x8008c
abbrev FLC_SMAP (e : Nat) : Nat := 0x80100 + 0x4 * e
abbrev CFG_ID : Nat := 0x0
abbrev CFG_CTRL : Nat := 0x4
abbrev CFG_STAT : Nat := 0x8
abbrev CFG_CMD : Nat := 0xc
abbrev CFG_LOCK : Nat := 0x10
abbrev CFG_IMG_VER : Nat := 0x14
abbrev CFG_IMG_LEN : Nat := 0x18
abbrev CFG_REC_CNT : Nat := 0x1c
abbrev CFG_SKIP_CNT : Nat := 0x20
abbrev CFG_REJ_CNT : Nat := 0x24
abbrev CFG_BAD_OFS : Nat := 0x28
abbrev CFG_BAD_TYPE : Nat := 0x2c
abbrev CFG_SERIAL (k : Nat) : Nat := 0x30 + 0x4 * k
abbrev CFG_TAG (k : Nat) : Nat := 0x40 + 0x4 * k
abbrev CFG_KEY_STAT : Nat := 0x50
abbrev CFG_DLOAD_STAT : Nat := 0x54
abbrev CFG_TIME (k : Nat) : Nat := 0x58 + 0x4 * k
abbrev CFG_PARAM (k : Nat) : Nat := 0x80 + 0x4 * k
abbrev CPH_CTRL : Nat := 0x90000
abbrev CPH_STAT : Nat := 0x90004
abbrev CPH_LOCK : Nat := 0x90008
abbrev CPH_CMD : Nat := 0x9000c
abbrev CPH_INT_STAT : Nat := 0x90010
abbrev CPH_INT_EN : Nat := 0x90014
abbrev CPH_KEYSTAT : Nat := 0x90018
abbrev CPH_SB_PTR : Nat := 0x9001c
abbrev CPH_SB_LEN : Nat := 0x90020
abbrev CPH_DRBG_STAT : Nat := 0x90024
abbrev CPH_IN (k : Nat) : Nat := 0x90040 + 0x4 * k
abbrev CPH_DATA (k : Nat) : Nat := 0x90050 + 0x4 * k
abbrev CPH_OUT (k : Nat) : Nat := 0x90060 + 0x4 * k
abbrev CPH_TAG_EXP (k : Nat) : Nat := 0x90070 + 0x4 * k
abbrev CPH_BLOB (k : Nat) : Nat := 0x90080 + 0x4 * k
abbrev CPH_SESS_CTRL : Nat := 0x900c0
abbrev CPH_SESS_STAT : Nat := 0x900c4
abbrev CPH_SESS_CHAL (k : Nat) : Nat := 0x900c8 + 0x4 * k
abbrev CPH_SESS_RESP (k : Nat) : Nat := 0x900d8 + 0x4 * k
abbrev CPH_SESS_TO : Nat := 0x900e8
abbrev CPH_OP_CNT : Nat := 0x90100
abbrev CPH_TAGFAIL_CNT : Nat := 0x90104
abbrev CPH_UNWRAP_CNT : Nat := 0x90108
abbrev CPH_BUSY_CNT : Nat := 0x9010c
abbrev CPH_SESS_OK_CNT : Nat := 0x90110
abbrev CPH_SESS_FAIL_CNT : Nat := 0x90114
abbrev CPH_PROV_CNT : Nat := 0x90118
abbrev CPH_ZERO_CNT : Nat := 0x9011c
abbrev CPH_FUSE_STAT : Nat := 0x90120
abbrev BKP_CTRL : Nat := 0x18000
abbrev BKP_STAT : Nat := 0x18004
abbrev BKP_ALARM : Nat := 0x18008
abbrev BKP_TAMP_CFG : Nat := 0x1800c
abbrev BKP_TEMP_CFG : Nat := 0x18010
abbrev BKP_TEMP : Nat := 0x18014
abbrev BKP_TICK_LO : Nat := 0x18018
abbrev BKP_TICK_HI : Nat := 0x1801c
abbrev BKP_LOG_HEAD : Nat := 0x18020
abbrev BKP_LOG_CLR : Nat := 0x18024
abbrev BKP_VBAK : Nat := 0x18028
abbrev BKP_KSTAT : Nat := 0x1802c
abbrev BKP_LOG (e k : Nat) : Nat := 0x18040 + 0x8 * e + 0x4 * k
abbrev MIR_CTRL : Nat := 0x140000
abbrev MIR_STAT : Nat := 0x140004
abbrev MIR_INT_STAT : Nat := 0x140008
abbrev MIR_INT_EN : Nat := 0x14000c
abbrev MIR_CFG : Nat := 0x140010
abbrev MIR_HB : Nat := 0x140014
abbrev MIR_OWN_STAT : Nat := 0x140018
abbrev MIR_REL_CAUSE : Nat := 0x14001c
abbrev MIR_TX_SEQ : Nat := 0x140020
abbrev MIR_RX_SEQ : Nat := 0x140024
abbrev MIR_AGE : Nat := 0x140028
abbrev MIR_LAT : Nat := 0x14002c
abbrev MIR_PART_STAT : Nat := 0x140030
abbrev MIR_TX_CNT : Nat := 0x140040
abbrev MIR_RX_CNT : Nat := 0x140044
abbrev MIR_GAP_CNT : Nat := 0x140048
abbrev MIR_DEG_CNT : Nat := 0x14004c
abbrev MIR_HBLOSS_CNT : Nat := 0x140050
abbrev MIR_TAKE_CNT : Nat := 0x140054
abbrev MIR_HAND_CNT : Nat := 0x140058
abbrev MIR_REL_CNT : Nat := 0x14005c
abbrev MIR_SUPFAIL_CNT : Nat := 0x140060
abbrev MIR_NOPRE_CNT : Nat := 0x140064
abbrev MIR_ENTRY_CNT : Nat := 0x140068
abbrev MIR_CLASH_CNT : Nat := 0x14006c
abbrev MIR_TAKE_SEQ : Nat := 0x140080
abbrev MIR_TAKE_TIME_LO : Nat := 0x140084
abbrev MIR_TAKE_TIME_HI : Nat := 0x140088
abbrev MIR_TAKE_GAP : Nat := 0x14008c
abbrev MIR_RING_BASE : Nat := 0x140090
abbrev MIR_RING_PTR : Nat := 0x140094
abbrev MIR_DESC_SEQ : Nat := 0x1400a0
abbrev MIR_DISC_STAT : Nat := 0x1400a4
abbrev MIR_NEXTFREE_CNT : Nat := 0x1400a8
abbrev MIR_AGREE_MAX : Nat := 0x1400ac
abbrev MIR_LIVE_STAT : Nat := 0x1400b0
abbrev MIR_PART_SEQ : Nat := 0x1400b4
abbrev MIR_CLAIM_STAT : Nat := 0x1400b8
abbrev MIR_HB_AGE : Nat := 0x1400bc
abbrev MIR_STG_SEL : Nat := 0x140100
abbrev MIR_STG_DATA (k : Nat) : Nat := 0x140104 + 0x4 * k
abbrev AXL_CTRL : Nat := 0x150000
abbrev AXL_STAT : Nat := 0x150004
abbrev AXL_INT_STAT : Nat := 0x150008
abbrev AXL_INT_EN : Nat := 0x15000c
abbrev AXL_CFG : Nat := 0x150010
abbrev AXL_KAT_STAT : Nat := 0x150014
abbrev AXL_REQ_STAT : Nat := 0x150018
abbrev AXL_LAST_REQ_LO : Nat := 0x15001c
abbrev AXL_LAST_REQ_HI : Nat := 0x150020
abbrev AXL_FMAP_CNT : Nat := 0x150040
abbrev AXL_FLD_CNT : Nat := 0x150044
abbrev AXL_FLD_FREE : Nat := 0x150048
abbrev AXL_MAP_SEL : Nat := 0x15004c
abbrev AXL_MAP_DATA_LO : Nat := 0x150050
abbrev AXL_MAP_DATA_HI : Nat := 0x150054
abbrev AXL_INV (k : Nat) : Nat := 0x150080 + 0x4 * k
abbrev AXL_GRANT_CNT : Nat := 0x1500c0
abbrev AXL_DENY_CNT : Nat := 0x1500c4
abbrev AXL_UNREP_CNT : Nat := 0x1500c8
abbrev AXL_EXH_CNT : Nat := 0x1500cc
abbrev AXL_BIST_FAIL_CNT : Nat := 0x1500d0
abbrev AXL_KAT_CNT : Nat := 0x1500d4
abbrev AXL_KATFAIL_CNT : Nat := 0x1500d8
abbrev AXL_REC_WR_CNT : Nat := 0x1500dc
abbrev AXL_BIST_DEC : Nat := 0x150100
abbrev AXL_BIST_MAC : Nat := 0x150104
abbrev AXL_BIST_MIX : Nat := 0x150108
abbrev AXL_BIST_HLK : Nat := 0x15010c
abbrev AXL_BIST_ADC (k : Nat) : Nat := 0x150110 + 0x4 * k
abbrev AXL_LOG_SEL : Nat := 0x150180
abbrev AXL_LOG_DATA (k : Nat) : Nat := 0x150184 + 0x4 * k
abbrev AXL_LOG_HEAD : Nat := 0x150194
abbrev AXL_ISLAND_STAT : Nat := 0x1501c0
abbrev AXL_SELFCHK : Nat := 0x1501c4
abbrev AXL_REC_STAT : Nat := 0x1501c8
abbrev AXL_FUSE_STAT : Nat := 0x1501cc
abbrev AXL_HM_CFG : Nat := 0x1501d0
abbrev AXL_TIME_LO : Nat := 0x1501d4
abbrev AXL_TIME_HI : Nat := 0x1501d8
abbrev LBS_CTRL : Nat := 0x130000
abbrev LBS_STAT : Nat := 0x130004
abbrev LBS_INT_STAT : Nat := 0x130008
abbrev LBS_INT_EN : Nat := 0x13000c
abbrev LBS_MAC_LO : Nat := 0x130010
abbrev LBS_MAC_HI : Nat := 0x130014
abbrev LBS_ETYPE : Nat := 0x130018
abbrev LBS_PHY_CTRL : Nat := 0x13001c
abbrev LBS_PHY_STAT : Nat := 0x130020
abbrev LBS_PLCA_CFG : Nat := 0x130024
abbrev LBS_PLCA_BURST : Nat := 0x130028
abbrev LBS_PLCA_STAT : Nat := 0x13002c
abbrev LBS_AUTH_CFG : Nat := 0x130030
abbrev LBS_HS_CFG : Nat := 0x130034
abbrev LBS_ENV_CFG : Nat := 0x130038
abbrev LBS_STR_CFG : Nat := 0x13003c
abbrev LBS_TX_CNT : Nat := 0x130040
abbrev LBS_RX_CNT : Nat := 0x130044
abbrev LBS_OTHER_CNT : Nat := 0x130048
abbrev LBS_STR_CNT : Nat := 0x13004c
abbrev LBS_COL_CNT : Nat := 0x130050
abbrev LBS_EXCOL_CNT : Nat := 0x130054
abbrev LBS_SYM_CNT : Nat := 0x130058
abbrev LBS_BCN_CNT : Nat := 0x13005c
abbrev LBS_RXOVF_CNT : Nat := 0x130060
abbrev LBS_TXDROP_CNT : Nat := 0x130064
abbrev LBS_HS_FAIL_CNT : Nat := 0x130068
abbrev LBS_STR_LAST_LO : Nat := 0x130070
abbrev LBS_STR_LAST_HI : Nat := 0x130074
abbrev LBS_TX_CTR_LO : Nat := 0x130078
abbrev LBS_TX_CTR_HI : Nat := 0x13007c
abbrev LBS_PEER_MAC_LO (p : Nat) : Nat := 0x130100 + 0x10 * p
abbrev LBS_PEER_MAC_HI (p : Nat) : Nat := 0x130104 + 0x10 * p
abbrev LBS_PEER_CTR_LO (p : Nat) : Nat := 0x130108 + 0x10 * p
abbrev LBS_PEER_CTR_HI (p : Nat) : Nat := 0x13010c + 0x10 * p
abbrev LBS_RX_HEAD : Nat := 0x130200
abbrev LBS_RX_TAIL : Nat := 0x130204
abbrev LBS_RX_VERDICT : Nat := 0x130208
abbrev LBS_RX_WIN_SEL : Nat := 0x13020c
abbrev LBS_RX_DESC (e : Nat) : Nat := 0x130220 + 0x4 * e
abbrev LBS_RX_WIN (k : Nat) : Nat := 0x130240 + 0x4 * k
abbrev LBS_TX_CMD : Nat := 0x130280
abbrev LBS_TX_STAT : Nat := 0x130284
abbrev LBS_TX_WIN_SEL : Nat := 0x130288
abbrev LBS_TX_WIN (k : Nat) : Nat := 0x1302c0 + 0x4 * k
abbrev CAL_CTRL : Nat := 0x160000
abbrev CAL_STAT : Nat := 0x160004
abbrev CAL_INT_STAT : Nat := 0x160008
abbrev CAL_INT_EN : Nat := 0x16000c
abbrev CAL_REFMEAS : Nat := 0x160010
abbrev CAL_REFCOR : Nat := 0x160014
abbrev CAL_REFQ : Nat := 0x160018
abbrev CAL_SHUNT_Q : Nat := 0x16001c
abbrev CAL_HOFS_Q : Nat := 0x160020
abbrev CAL_IN_RES (w : Nat) : Nat := 0x160040 + 0x4 * w
abbrev CAL_B_Q (b : Nat) : Nat := 0x160100 + 0x4 * b
abbrev CAL_LD_Q (c : Nat) : Nat := 0x160140 + 0x4 * c
abbrev CAL_LOOP_RES (k : Nat) : Nat := 0x1601c0 + 0x4 * k
abbrev PMC_CTRL : Nat := 0x170000
abbrev PMC_STAT : Nat := 0x170004
abbrev PMC_OVF : Nat := 0x170008
abbrev PMC_ACCESS : Nat := 0x17000c
abbrev PMC_CYC_LO : Nat := 0x170010
abbrev PMC_CYC_HI : Nat := 0x170014
abbrev PMC_WIN_BASE : Nat := 0x170018
abbrev PMC_WIN_LIM : Nat := 0x17001c
abbrev PMC_CNT_LO (n : Nat) : Nat := 0x170100 + 0x10 * n
abbrev PMC_CNT_HI (n : Nat) : Nat := 0x170104 + 0x10 * n
abbrev PMC_SEL (n : Nat) : Nat := 0x170108 + 0x10 * n
abbrev PMC_FILT (n : Nat) : Nat := 0x17010c + 0x10 * n
abbrev PWR_CTRL : Nat := 0x10000
abbrev PWR_STAT : Nat := 0x10004
abbrev PWR_INT_STAT : Nat := 0x10008
abbrev PWR_INT_EN : Nat := 0x1000c
abbrev PWR_RST_CMD : Nat := 0x10010
abbrev PWR_RST_CAUSE : Nat := 0x10014
abbrev PWR_START : Nat := 0x10018
abbrev PWR_START_TO : Nat := 0x1001c
abbrev PWR_STEP_T (k : Nat) : Nat := 0x10040 + 0x4 * k
abbrev PWR_RAIL (r : Nat) : Nat := 0x10080 + 0x4 * r
abbrev PWR_VIN12 : Nat := 0x100c0
abbrev PWR_V3P3 : Nat := 0x100c4
abbrev PWR_IIN12 : Nat := 0x100c8
abbrev PWR_I3P3 : Nat := 0x100cc
abbrev PWR_PIN : Nat := 0x100d0
abbrev PWR_TEMP_DIE : Nat := 0x100e0
abbrev PWR_TEMP_CFG : Nat := 0x100e4
abbrev PWR_POR_CNT : Nat := 0x10100
abbrev PWR_PIN_CNT : Nat := 0x10104
abbrev PWR_SOFT_CNT : Nat := 0x10108
abbrev PWR_THERM_CNT : Nat := 0x1010c
abbrev PWR_STGOFF_CNT : Nat := 0x10110
abbrev PWR_WARN_CNT : Nat := 0x10114
abbrev PWR_PEAK_PIN : Nat := 0x10120
abbrev PWR_PEAK_TEMP : Nat := 0x10124
abbrev PWR_VIN_MIN : Nat := 0x10128

end Reg

/-! ## Fields -/

namespace F

abbrev ANG_CTRL_EN : RegField := ⟨Reg.ANG_CTRL, 0, 1⟩
abbrev ANG_CTRL_REFSEL : RegField := ⟨Reg.ANG_CTRL, 1, 3⟩
abbrev ANG_CTRL_FLOOR_EN : RegField := ⟨Reg.ANG_CTRL, 4, 1⟩
abbrev ANG_STAT_LOCKMAP : RegField := ⟨Reg.ANG_STAT, 0, 4⟩
abbrev ANG_STAT_REFHEAD : RegField := ⟨Reg.ANG_STAT, 4, 2⟩
abbrev ANG_STAT_HOLD : RegField := ⟨Reg.ANG_STAT, 6, 1⟩
abbrev ANG_STAT_ARMERR : RegField := ⟨Reg.ANG_STAT, 8, 1⟩
abbrev ANG_STAT_CFGERR : RegField := ⟨Reg.ANG_STAT, 9, 1⟩
abbrev ANG_CANCEL_LAYER : RegField := ⟨Reg.ANG_CANCEL, 0, 1⟩
abbrev ANG_CANCEL_BACK : RegField := ⟨Reg.ANG_CANCEL, 1, 1⟩
abbrev ANG_CANCEL_FWD : RegField := ⟨Reg.ANG_CANCEL, 2, 1⟩
abbrev ANG_CANCEL_INVALID : RegField := ⟨Reg.ANG_CANCEL, 3, 1⟩
abbrev ANG_CANCEL_HEADCAN : RegField := ⟨Reg.ANG_CANCEL, 4, 4⟩
abbrev ANG_PAIR_CTRL_LAT : RegField := ⟨Reg.ANG_PAIR_CTRL, 0, 32⟩
abbrev ANG_HPOS_BAND (h : Nat) : RegField := ⟨Reg.ANG_HPOS h, 0, 16⟩
abbrev ANG_HPOS_LAYER (h : Nat) : RegField := ⟨Reg.ANG_HPOS h, 28, 4⟩
abbrev ANG_EVT_ACTW_ARG : RegField := ⟨Reg.ANG_EVT_ACTW, 0, 16⟩
abbrev ANG_EVT_ACTW_HTAG : RegField := ⟨Reg.ANG_EVT_ACTW, 17, 1⟩
abbrev ANG_EVT_ACTW_HEAD : RegField := ⟨Reg.ANG_EVT_ACTW, 18, 2⟩
abbrev ANG_EVT_ACTW_ACTION : RegField := ⟨Reg.ANG_EVT_ACTW, 20, 4⟩
abbrev ANG_EVT_ACTW_FRAC : RegField := ⟨Reg.ANG_EVT_ACTW, 24, 8⟩
abbrev ANG_EVT_CMD_OP : RegField := ⟨Reg.ANG_EVT_CMD, 0, 2⟩
abbrev ANG_ENC_CTRL_FILT (s : Nat) : RegField := ⟨Reg.ANG_ENC_CTRL s, 0, 3⟩
abbrev ANG_ENC_CTRL_DIR (s : Nat) : RegField := ⟨Reg.ANG_ENC_CTRL s, 3, 1⟩
abbrev ANG_ENC_CTRL_EN (s : Nat) : RegField := ⟨Reg.ANG_ENC_CTRL s, 4, 1⟩
abbrev ANG_ENC_STAT_UNCERTAIN (s : Nat) : RegField := ⟨Reg.ANG_ENC_STAT s, 0, 1⟩
abbrev ANG_ENC_SCALE_CPB (s : Nat) : RegField := ⟨Reg.ANG_ENC_SCALE s, 0, 32⟩
abbrev ANG_EVT_STAT_HEAD (i : Nat) : RegField := ⟨Reg.ANG_EVT_STAT i, 18, 2⟩
abbrev ANG_EVT_STAT_ACTION (i : Nat) : RegField := ⟨Reg.ANG_EVT_STAT i, 20, 4⟩
abbrev ANG_EVT_STAT_CANCELLED (i : Nat) : RegField := ⟨Reg.ANG_EVT_STAT i, 28, 1⟩
abbrev ANG_EVT_STAT_LATE (i : Nat) : RegField := ⟨Reg.ANG_EVT_STAT i, 29, 1⟩
abbrev ANG_EVT_STAT_FIRED (i : Nat) : RegField := ⟨Reg.ANG_EVT_STAT i, 30, 1⟩
abbrev ANG_EVT_STAT_ARMED (i : Nat) : RegField := ⟨Reg.ANG_EVT_STAT i, 31, 1⟩
abbrev ACQ_CTRL_EN : RegField := ⟨Reg.ACQ_CTRL, 0, 1⟩
abbrev ACQ_STAT_CFGERR : RegField := ⟨Reg.ACQ_STAT, 0, 1⟩
abbrev ACQ_STAT_SKEWERR : RegField := ⟨Reg.ACQ_STAT, 1, 1⟩
abbrev ACQ_SLICE_CTRL_THR : RegField := ⟨Reg.ACQ_SLICE_CTRL, 0, 5⟩
abbrev ACQ_SKEW_STAT_CLAMPED : RegField := ⟨Reg.ACQ_SKEW_STAT, 0, 16⟩
abbrev ACQ_PLL_CTRL_EN (h : Nat) : RegField := ⟨Reg.ACQ_PLL_CTRL h, 0, 1⟩
abbrev ACQ_PLL_CTRL_SEED (h : Nat) : RegField := ⟨Reg.ACQ_PLL_CTRL h, 1, 1⟩
abbrev ACQ_PLL_CTRL_HOWIN (h : Nat) : RegField := ⟨Reg.ACQ_PLL_CTRL h, 4, 8⟩
abbrev ACQ_PLL_CTRL_LOCKN (h : Nat) : RegField := ⟨Reg.ACQ_PLL_CTRL h, 12, 4⟩
abbrev ACQ_PLL_STAT_STATE (h : Nat) : RegField := ⟨Reg.ACQ_PLL_STAT h, 0, 2⟩
abbrev ACQ_PLL_STAT_RATEERR (h : Nat) : RegField := ⟨Reg.ACQ_PLL_STAT h, 4, 1⟩
abbrev ACQ_PLL_STAT_ZPEND (h : Nat) : RegField := ⟨Reg.ACQ_PLL_STAT h, 5, 1⟩
abbrev ACQ_PLL_STAT_GOODRUN (h : Nat) : RegField := ⟨Reg.ACQ_PLL_STAT h, 20, 4⟩
abbrev ACQ_PLL_STAT_MISSRUN (h : Nat) : RegField := ⟨Reg.ACQ_PLL_STAT h, 24, 7⟩
abbrev ACQ_SKEW_D_OFS (b : Nat) : RegField := ⟨Reg.ACQ_SKEW_D b, 0, 17⟩
abbrev ACQ_SKEW_V_OFS (b : Nat) : RegField := ⟨Reg.ACQ_SKEW_V b, 0, 17⟩
abbrev ACQ_IN_CTRL_EN (i : Nat) : RegField := ⟨Reg.ACQ_IN_CTRL i, 0, 1⟩
abbrev ACQ_IN_CTRL_STALE_EN (i : Nat) : RegField := ⟨Reg.ACQ_IN_CTRL i, 2, 1⟩
abbrev ACQ_IN_CTRL_AGC (i : Nat) : RegField := ⟨Reg.ACQ_IN_CTRL i, 3, 1⟩
abbrev ACQ_IN_CTRL_BW (i : Nat) : RegField := ⟨Reg.ACQ_IN_CTRL i, 4, 4⟩
abbrev ACQ_IN_CTRL_GAIN (i : Nat) : RegField := ⟨Reg.ACQ_IN_CTRL i, 8, 8⟩
abbrev ACQ_IN_STAT_STALE (i : Nat) : RegField := ⟨Reg.ACQ_IN_STAT i, 0, 1⟩
abbrev ACQ_ADC_MAP_MAP (a : Nat) : RegField := ⟨Reg.ACQ_ADC_MAP a, 0, 8⟩
abbrev ACQ_ADC_MAP_SPARE (a : Nat) : RegField := ⟨Reg.ACQ_ADC_MAP a, 8, 1⟩
abbrev ACQ_ADC_HLTH_SUSPECT (a : Nat) : RegField := ⟨Reg.ACQ_ADC_HLTH a, 0, 8⟩
abbrev DET_GCTRL_EN : RegField := ⟨Reg.DET_GCTRL, 0, 1⟩
abbrev DET_GSTAT_CFGERR : RegField := ⟨Reg.DET_GSTAT, 0, 1⟩
abbrev DET_GSTAT_CAPERR : RegField := ⟨Reg.DET_GSTAT, 1, 1⟩
abbrev DET_ERASE_MAX_MAX : RegField := ⟨Reg.DET_ERASE_MAX, 0, 12⟩
abbrev DET_FLAG_CFG_AMB : RegField := ⟨Reg.DET_FLAG_CFG, 0, 5⟩
abbrev DET_DEF_PROFILE_DO_THR (k : Nat) : RegField := ⟨Reg.DET_DEF_PROFILE k, 0, 8⟩
abbrev DET_DEF_PROFILE_DI_THR (k : Nat) : RegField := ⟨Reg.DET_DEF_PROFILE k, 8, 8⟩
abbrev DET_DEF_PROFILE_PERS (k : Nat) : RegField := ⟨Reg.DET_DEF_PROFILE k, 16, 8⟩
abbrev DET_DEF_PROFILE_EXT (k : Nat) : RegField := ⟨Reg.DET_DEF_PROFILE k, 24, 8⟩
abbrev DET_ALT_TARGET_G0 (k : Nat) : RegField := ⟨Reg.DET_ALT_TARGET k, 0, 8⟩
abbrev DET_ALT_TARGET_G1 (k : Nat) : RegField := ⟨Reg.DET_ALT_TARGET k, 8, 8⟩
abbrev DET_ALT_TARGET_G2 (k : Nat) : RegField := ⟨Reg.DET_ALT_TARGET k, 16, 8⟩
abbrev DET_SBUF_SEL_BEAM : RegField := ⟨Reg.DET_SBUF_SEL, 0, 4⟩
abbrev DET_SBUF_SEL_SLOT : RegField := ⟨Reg.DET_SBUF_SEL, 4, 3⟩
abbrev DET_SBUF_SEL_W : RegField := ⟨Reg.DET_SBUF_SEL, 8, 16⟩
abbrev DET_CTRL_MODE (b : Nat) : RegField := ⟨Reg.DET_CTRL b, 0, 2⟩
abbrev DET_CTRL_STOP (b : Nat) : RegField := ⟨Reg.DET_CTRL b, 2, 1⟩
abbrev DET_STAT_RUN (b : Nat) : RegField := ⟨Reg.DET_STAT b, 0, 1⟩
abbrev DET_STAT_MODE (b : Nat) : RegField := ⟨Reg.DET_STAT b, 1, 2⟩
abbrev DET_STAT_LEFT (b : Nat) : RegField := ⟨Reg.DET_STAT b, 16, 16⟩
abbrev DET_EQ_CFG_MU (b : Nat) : RegField := ⟨Reg.DET_EQ_CFG b, 0, 3⟩
abbrev DET_EQ_CFG_CTR_ADAPT (b : Nat) : RegField := ⟨Reg.DET_EQ_CFG b, 6, 1⟩
abbrev DET_EQ_CFG_ADAPT (b : Nat) : RegField := ⟨Reg.DET_EQ_CFG b, 7, 1⟩
abbrev DET_EQ_CFG_SET (b : Nat) : RegField := ⟨Reg.DET_EQ_CFG b, 8, 2⟩
abbrev DET_TARGET_G0 (b : Nat) : RegField := ⟨Reg.DET_TARGET b, 0, 8⟩
abbrev DET_TARGET_G1 (b : Nat) : RegField := ⟨Reg.DET_TARGET b, 8, 8⟩
abbrev DET_TARGET_G2 (b : Nat) : RegField := ⟨Reg.DET_TARGET b, 16, 8⟩
abbrev DET_SYNC_CFG_WIN (b : Nat) : RegField := ⟨Reg.DET_SYNC_CFG b, 0, 7⟩
abbrev DET_SYNC_CFG_MAXD (b : Nat) : RegField := ⟨Reg.DET_SYNC_CFG b, 8, 5⟩
abbrev DET_HDR_CFG_AMB (b : Nat) : RegField := ⟨Reg.DET_HDR_CFG b, 0, 5⟩
abbrev DET_DEF_CFG_LEVEL (b : Nat) : RegField := ⟨Reg.DET_DEF_CFG b, 0, 2⟩
abbrev DET_BLANK_CFG_THR (b : Nat) : RegField := ⟨Reg.DET_BLANK_CFG b, 0, 9⟩
abbrev DET_RUN_LBA_LBA (b : Nat) : RegField := ⟨Reg.DET_RUN_LBA b, 0, 25⟩
abbrev DET_RUN_CFG_COUNT (b : Nat) : RegField := ⟨Reg.DET_RUN_CFG b, 0, 16⟩
abbrev DET_RUN_CFG_SPARE (b : Nat) : RegField := ⟨Reg.DET_RUN_CFG b, 16, 1⟩
abbrev DET_RUN_CFG_ANY (b : Nat) : RegField := ⟨Reg.DET_RUN_CFG b, 17, 1⟩
abbrev DET_SBUF_STAT_USED (b : Nat) : RegField := ⟨Reg.DET_SBUF_STAT b, 0, 6⟩
abbrev DET_LAST_RES_FLAGAMB (b : Nat) : RegField := ⟨Reg.DET_LAST_RES b, 0, 8⟩
abbrev DET_LAST_RES_ERMAX (b : Nat) : RegField := ⟨Reg.DET_LAST_RES b, 8, 8⟩
abbrev DET_LAST_RES_SYNCD (b : Nat) : RegField := ⟨Reg.DET_LAST_RES b, 16, 5⟩
abbrev DET_LAST_RES_SYNCOFS (b : Nat) : RegField := ⟨Reg.DET_LAST_RES b, 21, 8⟩
abbrev DET_LAST_RES_OUTCOME (b : Nat) : RegField := ⟨Reg.DET_LAST_RES b, 29, 3⟩
abbrev DEC_CTRL_EN : RegField := ⟨Reg.DEC_CTRL, 0, 1⟩
abbrev DEC_STAT_CFGERR : RegField := ⟨Reg.DEC_STAT, 0, 1⟩
abbrev DEC_ITER_CFG_DFLT : RegField := ⟨Reg.DEC_ITER_CFG, 0, 6⟩
abbrev DEC_ITER_CFG_CEIL : RegField := ⟨Reg.DEC_ITER_CFG, 8, 6⟩
abbrev DEC_ITER_CFG_STALL : RegField := ⟨Reg.DEC_ITER_CFG, 16, 4⟩
abbrev DEC_SCHED_CFG_RQ_AGE : RegField := ⟨Reg.DEC_SCHED_CFG, 0, 16⟩
abbrev DEC_LLR_CFG_NORM : RegField := ⟨Reg.DEC_LLR_CFG, 0, 2⟩
abbrev DEC_LANE_EN_EN : RegField := ⟨Reg.DEC_LANE_EN, 0, 18⟩
abbrev DEC_QSTAT_FPQ : RegField := ⟨Reg.DEC_QSTAT, 0, 16⟩
abbrev DEC_QSTAT_RQ : RegField := ⟨Reg.DEC_QSTAT, 16, 16⟩
abbrev DEC_CLT_OCC_OCC : RegField := ⟨Reg.DEC_CLT_OCC, 0, 18⟩
abbrev DEC_B_RES_FLIPS (b : Nat) : RegField := ⟨Reg.DEC_B_RES b, 0, 16⟩
abbrev DEC_B_RES_ITER (b : Nat) : RegField := ⟨Reg.DEC_B_RES b, 16, 6⟩
abbrev DEC_B_RES_FAILMAP (b : Nat) : RegField := ⟨Reg.DEC_B_RES b, 22, 8⟩
abbrev DEC_B_RES_GOOD (b : Nat) : RegField := ⟨Reg.DEC_B_RES b, 30, 1⟩
abbrev DEC_B_RES_VALID (b : Nat) : RegField := ⟨Reg.DEC_B_RES b, 31, 1⟩
abbrev DEC_B_LBA_LBA (b : Nat) : RegField := ⟨Reg.DEC_B_LBA b, 0, 25⟩
abbrev DEC_B_CNT_GOOD (b : Nat) : RegField := ⟨Reg.DEC_B_CNT b, 0, 16⟩
abbrev DEC_B_CNT_FAILED (b : Nat) : RegField := ⟨Reg.DEC_B_CNT b, 16, 16⟩
abbrev DEC_L_STAT_STATE (l : Nat) : RegField := ⟨Reg.DEC_L_STAT l, 0, 2⟩
abbrev DEC_L_STAT_CW (l : Nat) : RegField := ⟨Reg.DEC_L_STAT l, 4, 3⟩
abbrev DEC_L_STAT_ITER (l : Nat) : RegField := ⟨Reg.DEC_L_STAT l, 8, 6⟩
abbrev DEC_L_CUR_LBA (l : Nat) : RegField := ⟨Reg.DEC_L_CUR l, 0, 25⟩
abbrev DEC_L_CUR_BEAM (l : Nat) : RegField := ⟨Reg.DEC_L_CUR l, 25, 4⟩
abbrev DEC_L_CUR_VALID (l : Nat) : RegField := ⟨Reg.DEC_L_CUR l, 31, 1⟩
abbrev RCV_CFG_QALL : RegField := ⟨Reg.RCV_CFG, 0, 1⟩
abbrev RCV_CFG_BLANKN : RegField := ⟨Reg.RCV_CFG, 1, 2⟩
abbrev RCV_CFG_NRMAX : RegField := ⟨Reg.RCV_CFG, 3, 3⟩
abbrev RCV_CFG_REVMAX : RegField := ⟨Reg.RCV_CFG, 6, 5⟩
abbrev RCV_CFG_DEFMAX : RegField := ⟨Reg.RCV_CFG, 11, 9⟩
abbrev RCV_CFG_DEFAGE : RegField := ⟨Reg.RCV_CFG, 20, 12⟩
abbrev RCV_STAT_CFGERR : RegField := ⟨Reg.RCV_STAT, 0, 1⟩
abbrev RCV_QPTR_PTR : RegField := ⟨Reg.RCV_QPTR, 0, 16⟩
abbrev RCV_RUNG_WINSEL (k : Nat) : RegField := ⟨Reg.RCV_RUNG k, 12, 2⟩
abbrev RCV_RUNG_ELVL (k : Nat) : RegField := ⟨Reg.RCV_RUNG k, 14, 2⟩
abbrev RCV_RUNG_RPWR (k : Nat) : RegField := ⟨Reg.RCV_RUNG k, 16, 3⟩
abbrev RCV_RUNG_TRKOFS (k : Nat) : RegField := ⟨Reg.RCV_RUNG k, 19, 3⟩
abbrev RCV_RUNG_EQSET (k : Nat) : RegField := ⟨Reg.RCV_RUNG k, 22, 2⟩
abbrev RCV_RUNG_ITER (k : Nat) : RegField := ⟨Reg.RCV_RUNG k, 24, 6⟩
abbrev RCV_RUNG_END (k : Nat) : RegField := ⟨Reg.RCV_RUNG k, 30, 1⟩
abbrev RCV_RUNG_PASS (k : Nat) : RegField := ⟨Reg.RCV_RUNG k, 31, 1⟩
abbrev RCV_H_STAT_DEF (h : Nat) : RegField := ⟨Reg.RCV_H_STAT h, 0, 9⟩
abbrev RCV_H_STAT_WAIT (h : Nat) : RegField := ⟨Reg.RCV_H_STAT h, 9, 9⟩
abbrev RCV_H_STAT_ACTIVE (h : Nat) : RegField := ⟨Reg.RCV_H_STAT h, 18, 1⟩
abbrev RCV_H_STAT_REVMAXEXIT (h : Nat) : RegField := ⟨Reg.RCV_H_STAT h, 24, 8⟩
abbrev RCV_B_STAT_OPEN (b : Nat) : RegField := ⟨Reg.RCV_B_STAT b, 0, 10⟩
abbrev RCV_B_STAT_CLIMB (b : Nat) : RegField := ⟨Reg.RCV_B_STAT b, 10, 10⟩
abbrev RCV_B_STAT_DEFER (b : Nat) : RegField := ⟨Reg.RCV_B_STAT b, 20, 10⟩
abbrev RCV_B_UNREC_CNT_UNREC (b : Nat) : RegField := ⟨Reg.RCV_B_UNREC_CNT b, 0, 16⟩
abbrev RCV_B_UNREC_CNT_BLANK (b : Nat) : RegField := ⟨Reg.RCV_B_UNREC_CNT b, 16, 16⟩
abbrev LDD_CTRL_EN (c : Nat) : RegField := ⟨Reg.LDD_CTRL c, 0, 1⟩
abbrev LDD_CTRL_APC_EN (c : Nat) : RegField := ⟨Reg.LDD_CTRL c, 2, 1⟩
abbrev LDD_CTRL_HF_EN (c : Nat) : RegField := ⟨Reg.LDD_CTRL c, 3, 1⟩
abbrev LDD_CTRL_RLVL (c : Nat) : RegField := ⟨Reg.LDD_CTRL c, 8, 4⟩
abbrev LDD_CTRL_WREN (c : Nat) : RegField := ⟨Reg.LDD_CTRL c, 1, 1⟩
abbrev LDD_STAT_FAULT (c : Nat) : RegField := ⟨Reg.LDD_STAT c, 0, 1⟩
abbrev LDD_STAT_HOT (c : Nat) : RegField := ⟨Reg.LDD_STAT c, 1, 1⟩
abbrev LDD_STAT_OPEN (c : Nat) : RegField := ⟨Reg.LDD_STAT c, 2, 1⟩
abbrev LDD_STAT_OVC (c : Nat) : RegField := ⟨Reg.LDD_STAT c, 3, 1⟩
abbrev LDD_STAT_CLIP (c : Nat) : RegField := ⟨Reg.LDD_STAT c, 5, 1⟩
abbrev LDD_STAT_APCLIM (c : Nat) : RegField := ⟨Reg.LDD_STAT c, 6, 1⟩
abbrev LDD_STAT_CFGERR (c : Nat) : RegField := ⟨Reg.LDD_STAT c, 7, 1⟩
abbrev LDD_STAT_GATE (c : Nat) : RegField := ⟨Reg.LDD_STAT c, 27, 1⟩
abbrev LDD_STAT_ACTIVE (c : Nat) : RegField := ⟨Reg.LDD_STAT c, 28, 1⟩
abbrev LDD_STAT_VLDOK (c : Nat) : RegField := ⟨Reg.LDD_STAT c, 29, 1⟩
abbrev LDD_STAT_STAGEOK (c : Nat) : RegField := ⟨Reg.LDD_STAT c, 30, 1⟩
abbrev LDD_STAT_OWNED (c : Nat) : RegField := ⟨Reg.LDD_STAT c, 31, 1⟩
abbrev LDD_READ_DC (c : Nat) : RegField := ⟨Reg.LDD_READ c, 0, 11⟩
abbrev LDD_HF_FREQ (c : Nat) : RegField := ⟨Reg.LDD_HF c, 0, 4⟩
abbrev LDD_HF_AMP (c : Nat) : RegField := ⟨Reg.LDD_HF c, 8, 8⟩
abbrev LDD_WLVL_LVL (c j : Nat) : RegField := ⟨Reg.LDD_WLVL c j, 0, 12⟩
abbrev LDD_LIMIT_PEAK (c : Nat) : RegField := ⟨Reg.LDD_LIMIT c, 0, 12⟩
abbrev LDD_LIMIT_RCEIL (c : Nat) : RegField := ⟨Reg.LDD_LIMIT c, 16, 12⟩
abbrev LDD_SCALE_OPC (c : Nat) : RegField := ⟨Reg.LDD_SCALE c, 0, 16⟩
abbrev LDD_SCALE_APC (c : Nat) : RegField := ⟨Reg.LDD_SCALE c, 16, 16⟩
abbrev LDD_COMPL_DN (c : Nat) : RegField := ⟨Reg.LDD_COMPL c, 0, 8⟩
abbrev LDD_COMPL_UP (c : Nat) : RegField := ⟨Reg.LDD_COMPL c, 8, 8⟩
abbrev LDD_COMPL_VLD (c : Nat) : RegField := ⟨Reg.LDD_COMPL c, 16, 8⟩
abbrev LDD_APC_TARGET (c : Nat) : RegField := ⟨Reg.LDD_APC c, 0, 32⟩
abbrev WRP_STRAT_CFG_TRIM (c : Nat) : RegField := ⟨Reg.WRP_STRAT_CFG c, 0, 32⟩
abbrev WRP_OPC_RES_FIRST (c : Nat) : RegField := ⟨Reg.WRP_OPC_RES c, 0, 3⟩
abbrev WRP_OPC_RES_LAST (c : Nat) : RegField := ⟨Reg.WRP_OPC_RES c, 4, 3⟩
abbrev WRP_OPC_RES_FACTOR (c : Nat) : RegField := ⟨Reg.WRP_OPC_RES c, 16, 9⟩
abbrev WRP_OPC_RES_NOWIN (c : Nat) : RegField := ⟨Reg.WRP_OPC_RES c, 31, 1⟩
abbrev WRP_STRAT_LEND (h n : Nat) : RegField := ⟨Reg.WRP_STRAT h n, 0, 3⟩
abbrev WRP_STRAT_CWIDTH (h n : Nat) : RegField := ⟨Reg.WRP_STRAT h n, 3, 4⟩
abbrev WRP_STRAT_MDUTY (h n : Nat) : RegField := ⟨Reg.WRP_STRAT h n, 7, 3⟩
abbrev WRP_STRAT_FWIDTH (h n : Nat) : RegField := ⟨Reg.WRP_STRAT h n, 10, 5⟩
abbrev WRP_STRAT_FSTART (h n : Nat) : RegField := ⟨Reg.WRP_STRAT h n, 15, 5⟩
abbrev WRP_STRAT_CLVL (h n : Nat) : RegField := ⟨Reg.WRP_STRAT h n, 20, 4⟩
abbrev WRP_STRAT_MLVL (h n : Nat) : RegField := ⟨Reg.WRP_STRAT h n, 24, 4⟩
abbrev WRP_STRAT_FLVL (h n : Nat) : RegField := ⟨Reg.WRP_STRAT h n, 28, 4⟩
abbrev VFY_CTRL_EN : RegField := ⟨Reg.VFY_CTRL, 0, 1⟩
abbrev VFY_STAT_CFGERR : RegField := ⟨Reg.VFY_STAT, 0, 1⟩
abbrev VFY_RPL_CFG_RQMAX : RegField := ⟨Reg.VFY_RPL_CFG, 15, 9⟩
abbrev VFY_RPL_CFG_TRIES : RegField := ⟨Reg.VFY_RPL_CFG, 24, 4⟩
abbrev VFY_RPL_STAT_QUEUED : RegField := ⟨Reg.VFY_RPL_STAT, 0, 9⟩
abbrev VFY_RPL_STAT_ZL : RegField := ⟨Reg.VFY_RPL_STAT, 16, 9⟩
abbrev VFY_OPC_CFG_EN : RegField := ⟨Reg.VFY_OPC_CFG, 0, 1⟩
abbrev VFY_OPC_CFG_MODE : RegField := ⟨Reg.VFY_OPC_CFG, 1, 1⟩
abbrev VFY_OPC_CFG_THR : RegField := ⟨Reg.VFY_OPC_CFG, 16, 16⟩
abbrev VFY_OPC_STAT_BUSY : RegField := ⟨Reg.VFY_OPC_STAT, 0, 1⟩
abbrev VFY_WGEN_WGEN : RegField := ⟨Reg.VFY_WGEN, 0, 16⟩
abbrev VFY_WHW_LBA : RegField := ⟨Reg.VFY_WHW, 0, 25⟩
abbrev VFY_ERR_LBA_LBA : RegField := ⟨Reg.VFY_ERR_LBA, 0, 25⟩
abbrev VFY_B_THR_HDR (b : Nat) : RegField := ⟨Reg.VFY_B_THR b, 0, 6⟩
abbrev VFY_B_THR_CW (b : Nat) : RegField := ⟨Reg.VFY_B_THR b, 6, 10⟩
abbrev VFY_B_THR_TOTAL (b : Nat) : RegField := ⟨Reg.VFY_B_THR b, 16, 16⟩
abbrev VFY_B_LAST_TOTAL (b : Nat) : RegField := ⟨Reg.VFY_B_LAST b, 0, 16⟩
abbrev VFY_B_LAST_HDRF (b : Nat) : RegField := ⟨Reg.VFY_B_LAST b, 16, 1⟩
abbrev VFY_B_LAST_CWMAP (b : Nat) : RegField := ⟨Reg.VFY_B_LAST b, 17, 8⟩
abbrev VFY_B_LAST_ALIGN (b : Nat) : RegField := ⟨Reg.VFY_B_LAST b, 25, 4⟩
abbrev VFY_B_LAST_EARLY (b : Nat) : RegField := ⟨Reg.VFY_B_LAST b, 29, 1⟩
abbrev VFY_B_LAST_PASS (b : Nat) : RegField := ⟨Reg.VFY_B_LAST b, 30, 1⟩
abbrev VFY_B_LAST_VALID (b : Nat) : RegField := ⟨Reg.VFY_B_LAST b, 31, 1⟩
abbrev VFY_B_LBA_LBA (b : Nat) : RegField := ⟨Reg.VFY_B_LBA b, 0, 25⟩
abbrev SRV_CTRL_EN : RegField := ⟨Reg.SRV_CTRL, 0, 1⟩
abbrev SRV_CTRL_COMMIT : RegField := ⟨Reg.SRV_CTRL, 16, 11⟩
abbrev SRV_STAT_CFGERR : RegField := ⟨Reg.SRV_STAT, 0, 1⟩
abbrev SRV_STAT_ARGERR : RegField := ⟨Reg.SRV_STAT, 1, 1⟩
abbrev SRV_STAT_NOMIR : RegField := ⟨Reg.SRV_STAT, 2, 1⟩
abbrev SRV_HDIM_NMEAS : RegField := ⟨Reg.SRV_HDIM, 0, 2⟩
abbrev SRV_HDIM_NOUT : RegField := ⟨Reg.SRV_HDIM, 4, 2⟩
abbrev SRV_HDIM_NSTATE : RegField := ⟨Reg.SRV_HDIM, 8, 4⟩
abbrev SRV_LANES_ACTIVE : RegField := ⟨Reg.SRV_LANES, 0, 3⟩
abbrev SRV_LANES_SPARE : RegField := ⟨Reg.SRV_LANES, 4, 3⟩
abbrev SRV_LANES_INUSE : RegField := ⟨Reg.SRV_LANES, 8, 5⟩
abbrev SRV_RES_CFG_HOLDMAX : RegField := ⟨Reg.SRV_RES_CFG, 0, 4⟩
abbrev SRV_RES_CFG_SWAPN : RegField := ⟨Reg.SRV_RES_CFG, 4, 4⟩
abbrev SRV_RES_CFG_WIN : RegField := ⟨Reg.SRV_RES_CFG, 16, 16⟩
abbrev SRV_RES_STAT_RECOMP : RegField := ⟨Reg.SRV_RES_STAT, 0, 1⟩
abbrev SRV_RES_STAT_HELD : RegField := ⟨Reg.SRV_RES_STAT, 1, 11⟩
abbrev SRV_MIR_CTRL_EN : RegField := ⟨Reg.SRV_MIR_CTRL, 0, 1⟩
abbrev SRV_PRESET_MASK : RegField := ⟨Reg.SRV_PRESET, 0, 11⟩
abbrev SRV_PRESET_SRC : RegField := ⟨Reg.SRV_PRESET, 11, 1⟩
abbrev SRV_SPARE_CFG_EN : RegField := ⟨Reg.SRV_SPARE_CFG, 0, 1⟩
abbrev SRV_SPARE_STAT_BAD : RegField := ⟨Reg.SRV_SPARE_STAT, 0, 1⟩
abbrev SRV_LANE_STAT_INUSE (l : Nat) : RegField := ⟨Reg.SRV_LANE_STAT l, 0, 1⟩
abbrev SRV_LANE_STAT_SPARE (l : Nat) : RegField := ⟨Reg.SRV_LANE_STAT l, 1, 1⟩
abbrev SRV_LANE_STAT_BAD (l : Nat) : RegField := ⟨Reg.SRV_LANE_STAT l, 2, 1⟩
abbrev SRV_LANE_STAT_RETIRED (l : Nat) : RegField := ⟨Reg.SRV_LANE_STAT l, 3, 1⟩
abbrev SRV_G_CTRL_MODE (g : Nat) : RegField := ⟨Reg.SRV_G_CTRL g, 0, 2⟩
abbrev SRV_G_CTRL_NEXTMODE (g : Nat) : RegField := ⟨Reg.SRV_G_CTRL g, 4, 2⟩
abbrev SRV_G_CTRL_NMEN (g : Nat) : RegField := ⟨Reg.SRV_G_CTRL g, 7, 1⟩
abbrev SRV_G_STAT_MODE (g : Nat) : RegField := ⟨Reg.SRV_G_STAT g, 22, 2⟩
abbrev SRV_G_STAT_HELD (g : Nat) : RegField := ⟨Reg.SRV_G_STAT g, 24, 1⟩
abbrev SRV_G_STAT_USAT (g : Nat) : RegField := ⟨Reg.SRV_G_STAT g, 25, 3⟩
abbrev SRV_G_STAT_XSAT (g : Nat) : RegField := ⟨Reg.SRV_G_STAT g, 28, 1⟩
abbrev SRV_G_STAT_POISON (g : Nat) : RegField := ⟨Reg.SRV_G_STAT g, 29, 1⟩
abbrev SRV_G_STAT_STALE (g : Nat) : RegField := ⟨Reg.SRV_G_STAT g, 30, 1⟩
abbrev SRV_G_STAT_OWNED (g : Nat) : RegField := ⟨Reg.SRV_G_STAT g, 31, 1⟩
abbrev SRV_G_IMASK_MASK (g : Nat) : RegField := ⟨Reg.SRV_G_IMASK g, 0, 8⟩
abbrev SRV_G_XSEL_IDX (g : Nat) : RegField := ⟨Reg.SRV_G_XSEL g, 0, 3⟩
abbrev SRV_S_CTRL_MODE (c : Nat) : RegField := ⟨Reg.SRV_S_CTRL c, 0, 2⟩
abbrev SRV_S_CTRL_NEXTMODE (c : Nat) : RegField := ⟨Reg.SRV_S_CTRL c, 4, 2⟩
abbrev SRV_S_CTRL_NMEN (c : Nat) : RegField := ⟨Reg.SRV_S_CTRL c, 7, 1⟩
abbrev LSV_CTRL_EN : RegField := ⟨Reg.LSV_CTRL, 0, 1⟩
abbrev LSV_STAT_CFGERR : RegField := ⟨Reg.LSV_STAT, 0, 1⟩
abbrev LSV_STAT_BUSYERR : RegField := ⟨Reg.LSV_STAT, 1, 1⟩
abbrev LSV_STAT_STATEERR : RegField := ⟨Reg.LSV_STAT, 2, 1⟩
abbrev LSV_INT_STAT_DONE : RegField := ⟨Reg.LSV_INT_STAT, 0, 4⟩
abbrev LSV_INT_EN_DONE : RegField := ⟨Reg.LSV_INT_EN, 0, 4⟩
abbrev LSV_S_LEAD_LEAD (s : Nat) : RegField := ⟨Reg.LSV_S_LEAD s, 0, 1⟩
abbrev LSV_S_SEEKCFG_SPB (s : Nat) : RegField := ⟨Reg.LSV_S_SEEKCFG s, 0, 16⟩
abbrev LSV_S_SEEKCFG_SEEKTRY (s : Nat) : RegField := ⟨Reg.LSV_S_SEEKCFG s, 20, 4⟩
abbrev LSV_S_SEEKCFG_SETTLE (s : Nat) : RegField := ⟨Reg.LSV_S_SEEKCFG s, 24, 8⟩
abbrev LSV_H_CMD_DELTA (h : Nat) : RegField := ⟨Reg.LSV_H_CMD h, 8, 16⟩
abbrev LSV_H_CMD_OP (h : Nat) : RegField := ⟨Reg.LSV_H_CMD h, 28, 4⟩
abbrev LSV_H_STAT_CLAYER (h : Nat) : RegField := ⟨Reg.LSV_H_STAT h, 12, 4⟩
abbrev LSV_H_STAT_ERRCLS (h : Nat) : RegField := ⟨Reg.LSV_H_STAT h, 16, 8⟩
abbrev LSV_H_STAT_DONE (h : Nat) : RegField := ⟨Reg.LSV_H_STAT h, 24, 1⟩
abbrev LSV_H_STAT_BUSY (h : Nat) : RegField := ⟨Reg.LSV_H_STAT h, 25, 1⟩
abbrev LSV_H_STAT_TRK (h : Nat) : RegField := ⟨Reg.LSV_H_STAT h, 26, 1⟩
abbrev LSV_H_STAT_FOC (h : Nat) : RegField := ⟨Reg.LSV_H_STAT h, 27, 1⟩
abbrev LSV_H_STAT_STATE (h : Nat) : RegField := ⟨Reg.LSV_H_STAT h, 28, 4⟩
abbrev LSV_H_TGT_BAND (h : Nat) : RegField := ⟨Reg.LSV_H_TGT h, 10, 15⟩
abbrev LSV_H_TGT_LAYER (h : Nat) : RegField := ⟨Reg.LSV_H_TGT h, 28, 4⟩
abbrev LSV_H_JANG_FRAME (h : Nat) : RegField := ⟨Reg.LSV_H_JANG h, 0, 13⟩
abbrev LSV_H_JANG_NOW (h : Nat) : RegField := ⟨Reg.LSV_H_JANG h, 31, 1⟩
abbrev LSV_H_FSRCH_TRIES (h : Nat) : RegField := ⟨Reg.LSV_H_FSRCH h, 0, 3⟩
abbrev LSV_H_FSRCH_SURF (h : Nat) : RegField := ⟨Reg.LSV_H_FSRCH h, 3, 1⟩
abbrev LSV_H_FSRCH_SUMACQ (h : Nat) : RegField := ⟨Reg.LSV_H_FSRCH h, 4, 8⟩
abbrev LSV_H_FSRCH_RATE (h : Nat) : RegField := ⟨Reg.LSV_H_FSRCH h, 12, 10⟩
abbrev LSV_H_FSRCH_LIMIT (h : Nat) : RegField := ⟨Reg.LSV_H_FSRCH h, 22, 10⟩
abbrev LSV_H_LOSS_FRETRY (h : Nat) : RegField := ⟨Reg.LSV_H_LOSS h, 0, 4⟩
abbrev LSV_H_LOSS_SLIPN (h : Nat) : RegField := ⟨Reg.LSV_H_LOSS h, 4, 4⟩
abbrev LSV_H_LOSS_TLN (h : Nat) : RegField := ⟨Reg.LSV_H_LOSS h, 8, 8⟩
abbrev LSV_H_LOSS_FLN (h : Nat) : RegField := ⟨Reg.LSV_H_LOSS h, 16, 8⟩
abbrev LSV_H_LOSS_SUMLOSS (h : Nat) : RegField := ⟨Reg.LSV_H_LOSS h, 24, 8⟩
abbrev LSV_H_KICK_TO (h : Nat) : RegField := ⟨Reg.LSV_H_KICK h, 0, 8⟩
abbrev LSV_H_KICK_BN (h : Nat) : RegField := ⟨Reg.LSV_H_KICK h, 8, 8⟩
abbrev LSV_H_KICK_KN (h : Nat) : RegField := ⟨Reg.LSV_H_KICK h, 16, 8⟩
abbrev LSV_H_KICK_KAMP (h : Nat) : RegField := ⟨Reg.LSV_H_KICK h, 24, 8⟩
abbrev LSV_H_TKICK_JMAX (h : Nat) : RegField := ⟨Reg.LSV_H_TKICK h, 0, 8⟩
abbrev LSV_H_TKICK_TBN (h : Nat) : RegField := ⟨Reg.LSV_H_TKICK h, 8, 8⟩
abbrev LSV_H_TKICK_TN (h : Nat) : RegField := ⟨Reg.LSV_H_TKICK h, 16, 8⟩
abbrev LSV_H_TKICK_TAMP (h : Nat) : RegField := ⟨Reg.LSV_H_TKICK h, 24, 8⟩
abbrev LSV_SA_POS_POS (h k : Nat) : RegField := ⟨Reg.LSV_SA_POS h k, 0, 16⟩
abbrev SPN_CTRL_EN : RegField := ⟨Reg.SPN_CTRL, 0, 1⟩
abbrev SPN_STAT_SPDE : RegField := ⟨Reg.SPN_STAT, 0, 1⟩
abbrev SPN_STAT_ESTL : RegField := ⟨Reg.SPN_STAT, 1, 1⟩
abbrev SPN_STAT_STARTF : RegField := ⟨Reg.SPN_STAT, 2, 1⟩
abbrev SPN_STAT_OVV : RegField := ⟨Reg.SPN_STAT, 3, 1⟩
abbrev SPN_STAT_HOT : RegField := ⟨Reg.SPN_STAT, 4, 1⟩
abbrev SPN_STAT_OVC : RegField := ⟨Reg.SPN_STAT, 5, 1⟩
abbrev SPN_STAT_ENL : RegField := ⟨Reg.SPN_STAT, 6, 1⟩
abbrev SPN_STAT_CFGERR : RegField := ⟨Reg.SPN_STAT, 7, 1⟩
abbrev SPN_STAT_BUSYERR : RegField := ⟨Reg.SPN_STAT, 10, 1⟩
abbrev SPN_STAT_PARKED : RegField := ⟨Reg.SPN_STAT, 11, 1⟩
abbrev SPN_STAT_OWNED : RegField := ⟨Reg.SPN_STAT, 12, 1⟩
abbrev SPN_STAT_ENABLED : RegField := ⟨Reg.SPN_STAT, 13, 1⟩
abbrev SPN_STAT_ZVB : RegField := ⟨Reg.SPN_STAT, 14, 1⟩
abbrev SPN_STAT_WATCH : RegField := ⟨Reg.SPN_STAT, 15, 1⟩
abbrev SPN_STAT_ERRCLS : RegField := ⟨Reg.SPN_STAT, 16, 8⟩
abbrev SPN_STAT_DONE : RegField := ⟨Reg.SPN_STAT, 24, 1⟩
abbrev SPN_STAT_BUSY : RegField := ⟨Reg.SPN_STAT, 25, 1⟩
abbrev SPN_STAT_SPDVALID : RegField := ⟨Reg.SPN_STAT, 26, 1⟩
abbrev SPN_STAT_ATSPEED : RegField := ⟨Reg.SPN_STAT, 27, 1⟩
abbrev SPN_STAT_STATE : RegField := ⟨Reg.SPN_STAT, 28, 4⟩
abbrev SPN_CMD_OP : RegField := ⟨Reg.SPN_CMD, 28, 4⟩
abbrev SPN_MOTOR_PP : RegField := ⟨Reg.SPN_MOTOR, 0, 5⟩
abbrev SPN_MOTOR_DIR : RegField := ⟨Reg.SPN_MOTOR, 5, 1⟩
abbrev SPN_ILIM_PMAX : RegField := ⟨Reg.SPN_ILIM, 0, 8⟩
abbrev SPN_ILIM_IQMAX : RegField := ⟨Reg.SPN_ILIM, 16, 16⟩
abbrev SPN_TARGET_RPM : RegField := ⟨Reg.SPN_TARGET, 0, 13⟩
abbrev SPN_RAMP_DECEL : RegField := ⟨Reg.SPN_RAMP, 0, 16⟩
abbrev SPN_RAMP_ACCEL : RegField := ⟨Reg.SPN_RAMP, 16, 16⟩
abbrev SPN_PARK_ANGLE : RegField := ⟨Reg.SPN_PARK, 0, 16⟩
abbrev SPN_CL_GAIN_KI : RegField := ⟨Reg.SPN_CL_GAIN, 0, 16⟩
abbrev SPN_CL_GAIN_KP : RegField := ⟨Reg.SPN_CL_GAIN, 16, 16⟩
abbrev SPN_EST_CFG_ANGSPD : RegField := ⟨Reg.SPN_EST_CFG, 0, 1⟩
abbrev SPN_START_ALIGNI : RegField := ⟨Reg.SPN_START, 0, 16⟩
abbrev SPN_START_ALIGNT : RegField := ⟨Reg.SPN_START, 16, 16⟩
abbrev SPN_IF_IFI : RegField := ⟨Reg.SPN_IF, 0, 16⟩
abbrev SPN_IF_IFACC : RegField := ⟨Reg.SPN_IF, 16, 16⟩
abbrev SPN_BRAKE_BRKI : RegField := ⟨Reg.SPN_BRAKE, 0, 16⟩
abbrev SPN_VWATCH_ZVLIM : RegField := ⟨Reg.SPN_VWATCH, 0, 12⟩
abbrev SPN_VWATCH_OFF : RegField := ⟨Reg.SPN_VWATCH, 16, 8⟩
abbrev SPN_VWATCH_ON : RegField := ⟨Reg.SPN_VWATCH, 24, 8⟩
abbrev SPN_STOPCFG_HOLD : RegField := ⟨Reg.SPN_STOPCFG, 0, 16⟩
abbrev SLD_G_CTRL_EN (s : Nat) : RegField := ⟨Reg.SLD_G_CTRL s, 0, 1⟩
abbrev SLD_G_STAT_CFGERR (s : Nat) : RegField := ⟨Reg.SLD_G_STAT s, 0, 1⟩
abbrev SLD_G_STAT_BUSYERR (s : Nat) : RegField := ⟨Reg.SLD_G_STAT s, 1, 1⟩
abbrev SLD_CTRL_TBL (n : Nat) : RegField := ⟨Reg.SLD_CTRL n, 0, 2⟩
abbrev SLD_CTRL_ENCSTALL (n : Nat) : RegField := ⟨Reg.SLD_CTRL n, 4, 1⟩
abbrev SLD_STAT_ENERG (n : Nat) : RegField := ⟨Reg.SLD_STAT n, 12, 1⟩
abbrev SLD_STAT_DEEN (n : Nat) : RegField := ⟨Reg.SLD_STAT n, 13, 1⟩
abbrev SLD_STAT_ENCMIS (n : Nat) : RegField := ⟨Reg.SLD_STAT n, 14, 1⟩
abbrev SLD_STAT_LOST (n : Nat) : RegField := ⟨Reg.SLD_STAT n, 15, 1⟩
abbrev SLD_STAT_ERRCLS (n : Nat) : RegField := ⟨Reg.SLD_STAT n, 16, 8⟩
abbrev SLD_STAT_STOPPED (n : Nat) : RegField := ⟨Reg.SLD_STAT n, 24, 1⟩
abbrev SLD_STAT_ARMED (n : Nat) : RegField := ⟨Reg.SLD_STAT n, 25, 1⟩
abbrev SLD_STAT_DONE (n : Nat) : RegField := ⟨Reg.SLD_STAT n, 26, 1⟩
abbrev SLD_STAT_BUSY (n : Nat) : RegField := ⟨Reg.SLD_STAT n, 27, 1⟩
abbrev SLD_STAT_MODE (n : Nat) : RegField := ⟨Reg.SLD_STAT n, 28, 4⟩
abbrev SLD_CMD_ARM (n : Nat) : RegField := ⟨Reg.SLD_CMD n, 27, 1⟩
abbrev SLD_CMD_OP (n : Nat) : RegField := ⟨Reg.SLD_CMD n, 28, 4⟩
abbrev SLD_VMAX_V (n : Nat) : RegField := ⟨Reg.SLD_VMAX n, 0, 24⟩
abbrev SLD_AMAX_A (n : Nat) : RegField := ⟨Reg.SLD_AMAX n, 0, 24⟩
abbrev SLD_JMAX_J (n : Nat) : RegField := ⟨Reg.SLD_JMAX n, 0, 24⟩
abbrev SLD_CUR_IHOLD (n : Nat) : RegField := ⟨Reg.SLD_CUR n, 0, 16⟩
abbrev SLD_CUR_IRUN (n : Nat) : RegField := ⟨Reg.SLD_CUR n, 16, 16⟩
abbrev SLD_MOTOR_ENCPM (n : Nat) : RegField := ⟨Reg.SLD_MOTOR n, 0, 16⟩
abbrev SLD_MOTOR_LPH (n : Nat) : RegField := ⟨Reg.SLD_MOTOR n, 16, 8⟩
abbrev SLD_MOTOR_RPH (n : Nat) : RegField := ⟨Reg.SLD_MOTOR n, 24, 8⟩
abbrev SLD_STALL_ENCTOL (n : Nat) : RegField := ⟨Reg.SLD_STALL n, 0, 8⟩
abbrev SLD_STALL_BEMFMIN (n : Nat) : RegField := ⟨Reg.SLD_STALL n, 8, 4⟩
abbrev SLD_STALL_STALLN (n : Nat) : RegField := ⟨Reg.SLD_STALL n, 12, 4⟩
abbrev SLD_STALL_LATHR (n : Nat) : RegField := ⟨Reg.SLD_STALL n, 16, 8⟩
abbrev SLD_STALL_VSTALL (n : Nat) : RegField := ⟨Reg.SLD_STALL n, 24, 8⟩
abbrev SLD_LANG_BEMF (n : Nat) : RegField := ⟨Reg.SLD_LANG n, 0, 16⟩
abbrev SLD_LANG_ANGLE (n : Nat) : RegField := ⟨Reg.SLD_LANG n, 24, 8⟩
abbrev SLD_TBL_TB (t k : Nat) : RegField := ⟨Reg.SLD_TBL t k, 0, 15⟩
abbrev SLD_TBL_TA (t k : Nat) : RegField := ⟨Reg.SLD_TBL t k, 16, 15⟩
abbrev HLK_CTRL_EN : RegField := ⟨Reg.HLK_CTRL, 0, 1⟩
abbrev HLK_STAT_ENDA : RegField := ⟨Reg.HLK_STAT, 0, 1⟩
abbrev HLK_STAT_ENDB : RegField := ⟨Reg.HLK_STAT, 1, 1⟩
abbrev HLK_STAT_BRKA : RegField := ⟨Reg.HLK_STAT, 2, 1⟩
abbrev HLK_STAT_BRKB : RegField := ⟨Reg.HLK_STAT, 3, 1⟩
abbrev HLK_STAT_CFGERR : RegField := ⟨Reg.HLK_STAT, 4, 1⟩
abbrev HLK_ID_HOP : RegField := ⟨Reg.HLK_ID, 0, 6⟩
abbrev HLK_ID_VALID : RegField := ⟨Reg.HLK_ID, 8, 1⟩
abbrev HLK_ARB_THRU : RegField := ⟨Reg.HLK_ARB, 0, 6⟩
abbrev HLK_ARB_ROUTE : RegField := ⟨Reg.HLK_ARB, 8, 2⟩
abbrev HLK_RETRY_CFG_RMAX : RegField := ⟨Reg.HLK_RETRY_CFG, 0, 8⟩
abbrev HLK_RETRY_CFG_CTO : RegField := ⟨Reg.HLK_RETRY_CFG, 16, 16⟩
abbrev HLK_ENUM_STAT_HOPID : RegField := ⟨Reg.HLK_ENUM_STAT, 0, 8⟩
abbrev HLK_ENUM_STAT_COUNT : RegField := ⟨Reg.HLK_ENUM_STAT, 8, 8⟩
abbrev HLK_ENUM_STAT_FLAGS : RegField := ⟨Reg.HLK_ENUM_STAT, 16, 8⟩
abbrev HLK_ENUM_STAT_BASE : RegField := ⟨Reg.HLK_ENUM_STAT, 24, 8⟩
abbrev HLK_DRAIN_STAT_COUNT : RegField := ⟨Reg.HLK_DRAIN_STAT, 0, 32⟩
abbrev HLK_VIOL_INFO_LEN : RegField := ⟨Reg.HLK_VIOL_INFO, 0, 16⟩
abbrev HLK_VIOL_INFO_DIR : RegField := ⟨Reg.HLK_VIOL_INFO, 16, 1⟩
abbrev HLK_PRIV_OPR (n : Nat) : RegField := ⟨Reg.HLK_PRIV n, 0, 1⟩
abbrev HLK_PRIV_OPW (n : Nat) : RegField := ⟨Reg.HLK_PRIV n, 1, 1⟩
abbrev HLK_WIN_CTRL_EN (w : Nat) : RegField := ⟨Reg.HLK_WIN_CTRL w, 0, 1⟩
abbrev HLK_WIN_CTRL_R (w : Nat) : RegField := ⟨Reg.HLK_WIN_CTRL w, 1, 1⟩
abbrev HLK_WIN_CTRL_W (w : Nat) : RegField := ⟨Reg.HLK_WIN_CTRL w, 2, 1⟩
abbrev HLK_P_CTRL_EN (p : Nat) : RegField := ⟨Reg.HLK_P_CTRL p, 0, 1⟩
abbrev HLK_P_STAT_UNACK (p : Nat) : RegField := ⟨Reg.HLK_P_STAT p, 8, 8⟩
abbrev HLK_P_STAT_SPAREUSED (p : Nat) : RegField := ⟨Reg.HLK_P_STAT p, 25, 1⟩
abbrev HLK_P_STAT_SWAP (p : Nat) : RegField := ⟨Reg.HLK_P_STAT p, 26, 1⟩
abbrev HLK_P_STAT_STEP (p : Nat) : RegField := ⟨Reg.HLK_P_STAT p, 27, 3⟩
abbrev HLK_P_STAT_DOWN (p : Nat) : RegField := ⟨Reg.HLK_P_STAT p, 30, 1⟩
abbrev HLK_P_STAT_UP (p : Nat) : RegField := ⟨Reg.HLK_P_STAT p, 31, 1⟩
abbrev HLK_P_MAP_L0 (p : Nat) : RegField := ⟨Reg.HLK_P_MAP p, 0, 4⟩
abbrev HLK_P_MAP_L1 (p : Nat) : RegField := ⟨Reg.HLK_P_MAP p, 4, 4⟩
abbrev HLK_P_MAP_L2 (p : Nat) : RegField := ⟨Reg.HLK_P_MAP p, 8, 4⟩
abbrev HLK_P_MAP_L3 (p : Nat) : RegField := ⟨Reg.HLK_P_MAP p, 12, 4⟩
abbrev HLK_P_MAP_SPARE (p : Nat) : RegField := ⟨Reg.HLK_P_MAP p, 16, 4⟩
abbrev HLK_P_CRED_C (p : Nat) : RegField := ⟨Reg.HLK_P_CRED p, 0, 16⟩
abbrev HLK_P_CRED_D (p : Nat) : RegField := ⟨Reg.HLK_P_CRED p, 16, 16⟩
abbrev HLK_L_HLTH_THR (l : Nat) : RegField := ⟨Reg.HLK_L_HLTH l, 0, 24⟩
abbrev HLK_L_HLTH_STATE (l : Nat) : RegField := ⟨Reg.HLK_L_HLTH l, 24, 2⟩
abbrev TSK_CTRL_EV_READY : RegField := ⟨Reg.TSK_CTRL, 1, 1⟩
abbrev TSK_CTRL_EV_ATT : RegField := ⟨Reg.TSK_CTRL, 2, 1⟩
abbrev TSK_CTRL_PROGINT : RegField := ⟨Reg.TSK_CTRL, 4, 4⟩
abbrev TSK_STATE_ERRCLS : RegField := ⟨Reg.TSK_STATE, 8, 8⟩
abbrev TSK_STATE_OPCODE : RegField := ⟨Reg.TSK_STATE, 16, 8⟩
abbrev TSK_STATE_STANDBY : RegField := ⟨Reg.TSK_STATE, 28, 1⟩
abbrev TSK_STATE_SETTLED : RegField := ⟨Reg.TSK_STATE, 29, 1⟩
abbrev TSK_STATE_STATE : RegField := ⟨Reg.TSK_STATE, 30, 2⟩
abbrev TSK_CMD_GO : RegField := ⟨Reg.TSK_CMD, 0, 1⟩
abbrev TSK_CMD_RESTART : RegField := ⟨Reg.TSK_CMD, 1, 1⟩
abbrev TSK_INT_STAT_END : RegField := ⟨Reg.TSK_INT_STAT, 0, 1⟩
abbrev TSK_INT_STAT_FROZEN : RegField := ⟨Reg.TSK_INT_STAT, 1, 1⟩
abbrev TSK_INT_STAT_PROGRESS : RegField := ⟨Reg.TSK_INT_STAT, 2, 1⟩
abbrev TSK_INT_STAT_DISC_READY : RegField := ⟨Reg.TSK_INT_STAT, 3, 1⟩
abbrev TSK_INT_EN_END : RegField := ⟨Reg.TSK_INT_EN, 0, 1⟩
abbrev TSK_INT_EN_FROZEN : RegField := ⟨Reg.TSK_INT_EN, 1, 1⟩
abbrev TSK_INT_EN_PROGRESS : RegField := ⟨Reg.TSK_INT_EN, 2, 1⟩
abbrev TSK_INT_EN_DISC_READY : RegField := ⟨Reg.TSK_INT_EN, 3, 1⟩
abbrev TSK_DISC_WGEN : RegField := ⟨Reg.TSK_DISC, 0, 16⟩
abbrev TSK_DISC_READYN : RegField := ⟨Reg.TSK_DISC, 16, 9⟩
abbrev TSK_DISC_ALLREADY : RegField := ⟨Reg.TSK_DISC, 29, 1⟩
abbrev TSK_DISC_CATALOGUED : RegField := ⟨Reg.TSK_DISC, 30, 1⟩
abbrev TSK_DISC_LOADED : RegField := ⟨Reg.TSK_DISC, 31, 1⟩
abbrev TSK_SG_STAT_FETCHED : RegField := ⟨Reg.TSK_SG_STAT, 0, 16⟩
abbrev TSK_SG_STAT_LEFT : RegField := ⟨Reg.TSK_SG_STAT, 16, 16⟩
abbrev TSK_CAT_STAT_USED : RegField := ⟨Reg.TSK_CAT_STAT, 0, 13⟩
abbrev TSK_ELOG_IDX_IDX : RegField := ⟨Reg.TSK_ELOG_IDX, 0, 6⟩
abbrev TSK_ELOG_HEAD_IDX : RegField := ⟨Reg.TSK_ELOG_HEAD, 0, 6⟩
abbrev TSK_ELOG_HEAD_COUNT : RegField := ⟨Reg.TSK_ELOG_HEAD, 8, 24⟩
abbrev SEQ_CTRL_HALT : RegField := ⟨Reg.SEQ_CTRL, 1, 1⟩
abbrev SEQ_CTRL_STEP : RegField := ⟨Reg.SEQ_CTRL, 2, 1⟩
abbrev SEQ_STAT_CDEPTH : RegField := ⟨Reg.SEQ_STAT, 15, 5⟩
abbrev SEQ_STAT_LDEPTH : RegField := ⟨Reg.SEQ_STAT, 20, 4⟩
abbrev SEQ_STAT_CSLOAD : RegField := ⟨Reg.SEQ_STAT, 27, 1⟩
abbrev SEQ_STAT_EVOVF : RegField := ⟨Reg.SEQ_STAT, 28, 1⟩
abbrev SEQ_STAT_DFILL : RegField := ⟨Reg.SEQ_STAT, 29, 1⟩
abbrev SEQ_STAT_DFAULT : RegField := ⟨Reg.SEQ_STAT, 30, 1⟩
abbrev SEQ_STAT_HALTED : RegField := ⟨Reg.SEQ_STAT, 31, 1⟩
abbrev SEQ_MODE_DRAM : RegField := ⟨Reg.SEQ_MODE, 0, 1⟩
abbrev SEQ_MODE_PRIV : RegField := ⟨Reg.SEQ_MODE, 1, 1⟩
abbrev SEQ_MODE_EVEN : RegField := ⟨Reg.SEQ_MODE, 2, 1⟩
abbrev SEQ_MODE_TASK : RegField := ⟨Reg.SEQ_MODE, 3, 1⟩
abbrev SEQ_MODE_EM : RegField := ⟨Reg.SEQ_MODE, 4, 1⟩
abbrev SEQ_MODE_XM : RegField := ⟨Reg.SEQ_MODE, 5, 1⟩
abbrev SEQ_ECAUSE_CODE : RegField := ⟨Reg.SEQ_ECAUSE, 20, 4⟩
abbrev SEQ_ECAUSE_LE : RegField := ⟨Reg.SEQ_ECAUSE, 28, 1⟩
abbrev SEQ_ECAUSE_SH : RegField := ⟨Reg.SEQ_ECAUSE, 29, 1⟩
abbrev SEQ_ECAUSE_DS : RegField := ⟨Reg.SEQ_ECAUSE, 30, 1⟩
abbrev SEQ_ECAUSE_VALID : RegField := ⟨Reg.SEQ_ECAUSE, 31, 1⟩
abbrev SEQ_PATCH_VER_VERSION : RegField := ⟨Reg.SEQ_PATCH_VER, 0, 16⟩
abbrev SEQ_PATCH_VER_MINVER : RegField := ⟨Reg.SEQ_PATCH_VER, 16, 16⟩
abbrev SEQ_ILLVEC_VEC : RegField := ⟨Reg.SEQ_ILLVEC, 0, 14⟩
abbrev SEQ_CS_ADDR_ADDR : RegField := ⟨Reg.SEQ_CS_ADDR, 0, 14⟩
abbrev SEQ_DISP_SEL_SEL : RegField := ⟨Reg.SEQ_DISP_SEL, 0, 8⟩
abbrev SEQ_WDOG_PERIOD : RegField := ⟨Reg.SEQ_WDOG, 0, 24⟩
abbrev SEQ_WDOG_EN : RegField := ⟨Reg.SEQ_WDOG, 31, 1⟩
abbrev SEQ_EVT_LAST_NUM : RegField := ⟨Reg.SEQ_EVT_LAST, 0, 6⟩
abbrev SEQ_EVT_LAST_ARG : RegField := ⟨Reg.SEQ_EVT_LAST, 16, 16⟩
abbrev SEQ_DBG_CTRL_EN : RegField := ⟨Reg.SEQ_DBG_CTRL, 0, 4⟩
abbrev SEQ_DBG_STAT_CAUSE : RegField := ⟨Reg.SEQ_DBG_STAT, 0, 32⟩
abbrev CCH_CTRL_EN : RegField := ⟨Reg.CCH_CTRL, 0, 1⟩
abbrev CCH_STAT_BUSY : RegField := ⟨Reg.CCH_STAT, 0, 1⟩
abbrev CCH_STAT_DRAIN : RegField := ⟨Reg.CCH_STAT, 1, 1⟩
abbrev CCH_OP_OP : RegField := ⟨Reg.CCH_OP, 0, 3⟩
abbrev CCH_FILL_STAT_ADDR : RegField := ⟨Reg.CCH_FILL_STAT, 0, 31⟩
abbrev CCH_FILL_STAT_BUSY : RegField := ⟨Reg.CCH_FILL_STAT, 31, 1⟩
abbrev CCH_REG_BASE_BASE (k : Nat) : RegField := ⟨Reg.CCH_REG_BASE k, 0, 23⟩
abbrev CCH_REG_LIM_LIM (k : Nat) : RegField := ⟨Reg.CCH_REG_LIM k, 0, 23⟩
abbrev CCH_REG_ATTR_VICT (k : Nat) : RegField := ⟨Reg.CCH_REG_ATTR k, 0, 1⟩
abbrev CCH_REG_ATTR_RDALLOC (k : Nat) : RegField := ⟨Reg.CCH_REG_ATTR k, 1, 1⟩
abbrev CCH_REG_ATTR_POLICY (k : Nat) : RegField := ⟨Reg.CCH_REG_ATTR k, 2, 2⟩
abbrev CCH_REG_ATTR_EN (k : Nat) : RegField := ⟨Reg.CCH_REG_ATTR k, 7, 1⟩
abbrev CCH_TAG_SEL_SEL : RegField := ⟨Reg.CCH_TAG_SEL, 0, 6⟩
abbrev DMC_CTRL_EN : RegField := ⟨Reg.DMC_CTRL, 0, 1⟩
abbrev DMC_STAT_CFGERR : RegField := ⟨Reg.DMC_STAT, 0, 1⟩
abbrev DMC_ILV_GRAIN : RegField := ⟨Reg.DMC_ILV, 0, 4⟩
abbrev DMC_PGPRED_TABLE : RegField := ⟨Reg.DMC_PGPRED, 0, 16⟩
abbrev DMC_PGTO_TO : RegField := ⟨Reg.DMC_PGTO, 0, 8⟩
abbrev DMC_CH_CTRL_EN (c : Nat) : RegField := ⟨Reg.DMC_CH_CTRL c, 0, 1⟩
abbrev DMC_CH_STAT_TRNFAIL (c : Nat) : RegField := ⟨Reg.DMC_CH_STAT c, 0, 1⟩
abbrev DMC_TRN_CTRL_TRAIN (c : Nat) : RegField := ⟨Reg.DMC_TRN_CTRL c, 0, 1⟩
abbrev DMC_TRN_CTRL_START (c : Nat) : RegField := ⟨Reg.DMC_TRN_CTRL c, 1, 1⟩
abbrev DMC_TRN_CTRL_SWEEP (c : Nat) : RegField := ⟨Reg.DMC_TRN_CTRL c, 2, 1⟩
abbrev DMC_TRN_CTRL_BURSTS (c : Nat) : RegField := ⟨Reg.DMC_TRN_CTRL c, 16, 8⟩
abbrev DMC_TRN_CTRL_PAT (c : Nat) : RegField := ⟨Reg.DMC_TRN_CTRL c, 24, 4⟩
abbrev DMC_TRN_CTRL_STEP (c : Nat) : RegField := ⟨Reg.DMC_TRN_CTRL c, 28, 4⟩
abbrev DMC_TRN_STAT_BUSY (c : Nat) : RegField := ⟨Reg.DMC_TRN_STAT c, 0, 1⟩
abbrev DMC_TRN_STAT_DONE (c : Nat) : RegField := ⟨Reg.DMC_TRN_STAT c, 1, 1⟩
abbrev MIC_CTRL_EN : RegField := ⟨Reg.MIC_CTRL, 0, 1⟩
abbrev MIC_STAT_CFGERR : RegField := ⟨Reg.MIC_STAT, 0, 1⟩
abbrev MIC_STAT_PINDEG : RegField := ⟨Reg.MIC_STAT, 1, 4⟩
abbrev MIC_FILL_CTRL_START : RegField := ⟨Reg.MIC_FILL_CTRL, 0, 1⟩
abbrev MIC_FILL_STAT_SDONE : RegField := ⟨Reg.MIC_FILL_STAT, 0, 1⟩
abbrev MIC_FILL_STAT_DDONE : RegField := ⟨Reg.MIC_FILL_STAT, 1, 1⟩
abbrev MIC_FILL_STAT_PROGRESS : RegField := ⟨Reg.MIC_FILL_STAT, 2, 30⟩
abbrev MIC_POISON_CFG_DRAM : RegField := ⟨Reg.MIC_POISON_CFG, 0, 1⟩
abbrev MIC_POISON_CFG_SRAM : RegField := ⟨Reg.MIC_POISON_CFG, 1, 1⟩
abbrev MIC_SKINK_CFG_QUOTA : RegField := ⟨Reg.MIC_SKINK_CFG, 0, 16⟩
abbrev MIC_SKINK_CFG_GAP : RegField := ⟨Reg.MIC_SKINK_CFG, 16, 8⟩
abbrev MIC_SKINK_CFG_SEN : RegField := ⟨Reg.MIC_SKINK_CFG, 30, 1⟩
abbrev MIC_SKINK_CFG_EN : RegField := ⟨Reg.MIC_SKINK_CFG, 31, 1⟩
abbrev MIC_SKINK_STAT_DRUN : RegField := ⟨Reg.MIC_SKINK_STAT, 0, 1⟩
abbrev MIC_SKINK_STAT_SRUN : RegField := ⟨Reg.MIC_SKINK_STAT, 1, 1⟩
abbrev MIC_D_CFG_ROWN : RegField := ⟨Reg.MIC_D_CFG, 0, 8⟩
abbrev MIC_D_CFG_PINN : RegField := ⟨Reg.MIC_D_CFG, 8, 16⟩
abbrev MIC_DRM_ROW (e : Nat) : RegField := ⟨Reg.MIC_DRM e, 0, 17⟩
abbrev MIC_DRM_BANK (e : Nat) : RegField := ⟨Reg.MIC_DRM e, 24, 4⟩
abbrev MIC_DRM_CH (e : Nat) : RegField := ⟨Reg.MIC_DRM e, 28, 2⟩
abbrev MIC_DRM_CHECK (e : Nat) : RegField := ⟨Reg.MIC_DRM e, 30, 1⟩
abbrev MIC_DRM_VALID (e : Nat) : RegField := ⟨Reg.MIC_DRM e, 31, 1⟩
abbrev MIC_S_CFG_CEN : RegField := ⟨Reg.MIC_S_CFG, 0, 4⟩
abbrev MIC_S_ERR_LOC_WORD : RegField := ⟨Reg.MIC_S_ERR_LOC, 0, 16⟩
abbrev MIC_S_ERR_LOC_MACRO : RegField := ⟨Reg.MIC_S_ERR_LOC, 16, 10⟩
abbrev MIC_SCLS_CNT_CE (k : Nat) : RegField := ⟨Reg.MIC_SCLS_CNT k, 0, 16⟩
abbrev MIC_SCLS_CNT_UE (k : Nat) : RegField := ⟨Reg.MIC_SCLS_CNT k, 16, 16⟩
abbrev MIC_SCLS_RMP_USED (k : Nat) : RegField := ⟨Reg.MIC_SCLS_RMP k, 0, 16⟩
abbrev MIC_SCLS_RMP_MACROS (k : Nat) : RegField := ⟨Reg.MIC_SCLS_RMP k, 16, 16⟩
abbrev FLC_CTRL_EN : RegField := ⟨Reg.FLC_CTRL, 0, 1⟩
abbrev FLC_STAT_SPEX : RegField := ⟨Reg.FLC_STAT, 24, 1⟩
abbrev FLC_STAT_CFGERR : RegField := ⟨Reg.FLC_STAT, 25, 1⟩
abbrev FLC_STAT_PROTERR : RegField := ⟨Reg.FLC_STAT, 26, 1⟩
abbrev FLC_STAT_EFAIL : RegField := ⟨Reg.FLC_STAT, 27, 1⟩
abbrev FLC_STAT_PFAIL : RegField := ⟨Reg.FLC_STAT, 28, 1⟩
abbrev FLC_STAT_DONE : RegField := ⟨Reg.FLC_STAT, 29, 1⟩
abbrev FLC_STAT_SUSP : RegField := ⟨Reg.FLC_STAT, 30, 1⟩
abbrev FLC_STAT_BUSY : RegField := ⟨Reg.FLC_STAT, 31, 1⟩
abbrev FLC_CMD_OP : RegField := ⟨Reg.FLC_CMD, 28, 4⟩
abbrev FLC_ADDR_ADDR : RegField := ⟨Reg.FLC_ADDR, 0, 26⟩
abbrev FLC_ADDR_INC : RegField := ⟨Reg.FLC_ADDR, 31, 1⟩
abbrev FLC_MC_CMD_INC : RegField := ⟨Reg.FLC_MC_CMD, 0, 2⟩
abbrev FLC_MC_STAT_SETTLED (k : Nat) : RegField := ⟨Reg.FLC_MC_STAT k, 0, 8⟩
abbrev FLC_MC_STAT_MIG (k : Nat) : RegField := ⟨Reg.FLC_MC_STAT k, 30, 1⟩
abbrev FLC_MC_STAT_BAD (k : Nat) : RegField := ⟨Reg.FLC_MC_STAT k, 31, 1⟩
abbrev FLC_CAT_STAT_RESTORED : RegField := ⟨Reg.FLC_CAT_STAT, 0, 13⟩
abbrev FLC_SMAP_SECTOR (e : Nat) : RegField := ⟨Reg.FLC_SMAP e, 0, 14⟩
abbrev FLC_SMAP_RETIRED (e : Nat) : RegField := ⟨Reg.FLC_SMAP e, 30, 1⟩
abbrev FLC_SMAP_VALID (e : Nat) : RegField := ⟨Reg.FLC_SMAP e, 31, 1⟩
abbrev CFG_CTRL_EN : RegField := ⟨Reg.CFG_CTRL, 0, 1⟩
abbrev CFG_STAT_PASS : RegField := ⟨Reg.CFG_STAT, 18, 2⟩
abbrev CFG_STAT_FCAUSE : RegField := ⟨Reg.CFG_STAT, 20, 4⟩
abbrev CFG_STAT_FAULT : RegField := ⟨Reg.CFG_STAT, 29, 1⟩
abbrev CFG_STAT_DLDONE : RegField := ⟨Reg.CFG_STAT, 30, 1⟩
abbrev CFG_STAT_APPLIED : RegField := ⟨Reg.CFG_STAT, 31, 1⟩
abbrev CFG_CMD_DLOAD : RegField := ⟨Reg.CFG_CMD, 0, 1⟩
abbrev CFG_LOCK_LOCK : RegField := ⟨Reg.CFG_LOCK, 0, 1⟩
abbrev CFG_KEY_STAT_KEY : RegField := ⟨Reg.CFG_KEY_STAT, 0, 1⟩
abbrev CPH_CTRL_EN : RegField := ⟨Reg.CPH_CTRL, 0, 1⟩
abbrev CPH_STAT_SLOTV : RegField := ⟨Reg.CPH_STAT, 0, 8⟩
abbrev CPH_STAT_DONE : RegField := ⟨Reg.CPH_STAT, 20, 1⟩
abbrev CPH_STAT_NOKEY : RegField := ⟨Reg.CPH_STAT, 21, 1⟩
abbrev CPH_STAT_LOCKERR : RegField := ⟨Reg.CPH_STAT, 22, 1⟩
abbrev CPH_STAT_CFGERR : RegField := ⟨Reg.CPH_STAT, 23, 1⟩
abbrev CPH_STAT_SBFULL : RegField := ⟨Reg.CPH_STAT, 24, 1⟩
abbrev CPH_STAT_USAGEERR : RegField := ⟨Reg.CPH_STAT, 25, 1⟩
abbrev CPH_STAT_UNWRAPF : RegField := ⟨Reg.CPH_STAT, 26, 1⟩
abbrev CPH_STAT_TAGFAIL : RegField := ⟨Reg.CPH_STAT, 27, 1⟩
abbrev CPH_STAT_TAGOK : RegField := ⟨Reg.CPH_STAT, 28, 1⟩
abbrev CPH_STAT_RELEASED : RegField := ⟨Reg.CPH_STAT, 29, 1⟩
abbrev CPH_STAT_KEYLESS : RegField := ⟨Reg.CPH_STAT, 30, 1⟩
abbrev CPH_STAT_BUSY : RegField := ⟨Reg.CPH_STAT, 31, 1⟩
abbrev CPH_LOCK_ACQ : RegField := ⟨Reg.CPH_LOCK, 0, 1⟩
abbrev CPH_LOCK_REL : RegField := ⟨Reg.CPH_LOCK, 1, 1⟩
abbrev CPH_LOCK_OWNER : RegField := ⟨Reg.CPH_LOCK, 24, 4⟩
abbrev CPH_LOCK_HELD : RegField := ⟨Reg.CPH_LOCK, 31, 1⟩
abbrev CPH_CMD_XD : RegField := ⟨Reg.CPH_CMD, 8, 1⟩
abbrev CPH_CMD_TL : RegField := ⟨Reg.CPH_CMD, 12, 1⟩
abbrev CPH_CMD_DST : RegField := ⟨Reg.CPH_CMD, 16, 2⟩
abbrev CPH_CMD_KV : RegField := ⟨Reg.CPH_CMD, 20, 2⟩
abbrev CPH_CMD_SLOT : RegField := ⟨Reg.CPH_CMD, 24, 3⟩
abbrev CPH_CMD_OP : RegField := ⟨Reg.CPH_CMD, 28, 4⟩
abbrev CPH_SESS_CTRL_CLOSE : RegField := ⟨Reg.CPH_SESS_CTRL, 0, 1⟩
abbrev CPH_SESS_STAT_NUM : RegField := ⟨Reg.CPH_SESS_STAT, 0, 8⟩
abbrev CPH_SESS_STAT_FAILS : RegField := ⟨Reg.CPH_SESS_STAT, 8, 4⟩
abbrev CPH_SESS_STAT_LOCKOUT : RegField := ⟨Reg.CPH_SESS_STAT, 29, 1⟩
abbrev CPH_SESS_STAT_REFUSED : RegField := ⟨Reg.CPH_SESS_STAT, 30, 1⟩
abbrev CPH_SESS_STAT_OPEN : RegField := ⟨Reg.CPH_SESS_STAT, 31, 1⟩
abbrev CPH_FUSE_STAT_DTK : RegField := ⟨Reg.CPH_FUSE_STAT, 0, 1⟩
abbrev CPH_FUSE_STAT_CFGKEY : RegField := ⟨Reg.CPH_FUSE_STAT, 1, 1⟩
abbrev CPH_FUSE_STAT_ERR : RegField := ⟨Reg.CPH_FUSE_STAT, 31, 1⟩
abbrev BKP_CTRL_EN : RegField := ⟨Reg.BKP_CTRL, 0, 1⟩
abbrev BKP_STAT_SUPPLY : RegField := ⟨Reg.BKP_STAT, 0, 1⟩
abbrev BKP_STAT_LOOP0 : RegField := ⟨Reg.BKP_STAT, 1, 1⟩
abbrev BKP_STAT_LOOP1 : RegField := ⟨Reg.BKP_STAT, 2, 1⟩
abbrev BKP_ALARM_TAMP0 : RegField := ⟨Reg.BKP_ALARM, 0, 1⟩
abbrev BKP_ALARM_TAMP1 : RegField := ⟨Reg.BKP_ALARM, 1, 1⟩
abbrev BKP_ALARM_TEMPHI : RegField := ⟨Reg.BKP_ALARM, 2, 1⟩
abbrev BKP_ALARM_TEMPLO : RegField := ⟨Reg.BKP_ALARM, 3, 1⟩
abbrev BKP_ALARM_ZEROISED : RegField := ⟨Reg.BKP_ALARM, 4, 1⟩
abbrev BKP_ALARM_BKPLOST : RegField := ⟨Reg.BKP_ALARM, 5, 1⟩
abbrev BKP_TAMP_CFG_EN0 : RegField := ⟨Reg.BKP_TAMP_CFG, 0, 1⟩
abbrev BKP_TAMP_CFG_EN1 : RegField := ⟨Reg.BKP_TAMP_CFG, 1, 1⟩
abbrev BKP_TAMP_CFG_MODE0 : RegField := ⟨Reg.BKP_TAMP_CFG, 2, 1⟩
abbrev BKP_TAMP_CFG_MODE1 : RegField := ⟨Reg.BKP_TAMP_CFG, 3, 1⟩
abbrev BKP_TEMP_CFG_LO : RegField := ⟨Reg.BKP_TEMP_CFG, 0, 8⟩
abbrev BKP_TEMP_CFG_HI : RegField := ⟨Reg.BKP_TEMP_CFG, 8, 8⟩
abbrev BKP_LOG_HEAD_COUNT : RegField := ⟨Reg.BKP_LOG_HEAD, 0, 4⟩
abbrev BKP_LOG_HEAD_LOST : RegField := ⟨Reg.BKP_LOG_HEAD, 8, 8⟩
abbrev BKP_KSTAT_KEK : RegField := ⟨Reg.BKP_KSTAT, 0, 1⟩
abbrev BKP_KSTAT_CAK : RegField := ⟨Reg.BKP_KSTAT, 1, 1⟩
abbrev BKP_KSTAT_KEYID : RegField := ⟨Reg.BKP_KSTAT, 16, 16⟩
abbrev MIR_CTRL_EN : RegField := ⟨Reg.MIR_CTRL, 0, 1⟩
abbrev MIR_CTRL_PAIR : RegField := ⟨Reg.MIR_CTRL, 1, 1⟩
abbrev MIR_CTRL_TAKE_EN : RegField := ⟨Reg.MIR_CTRL, 7, 1⟩
abbrev MIR_STAT_CFGERR : RegField := ⟨Reg.MIR_STAT, 18, 1⟩
abbrev MIR_STAT_NOPRESET : RegField := ⟨Reg.MIR_STAT, 19, 1⟩
abbrev MIR_STAT_DEG : RegField := ⟨Reg.MIR_STAT, 20, 1⟩
abbrev MIR_STAT_SUPOK : RegField := ⟨Reg.MIR_STAT, 21, 1⟩
abbrev MIR_STAT_RED : RegField := ⟨Reg.MIR_STAT, 22, 2⟩
abbrev MIR_STAT_HBOK : RegField := ⟨Reg.MIR_STAT, 24, 1⟩
abbrev MIR_STAT_ARMED : RegField := ⟨Reg.MIR_STAT, 25, 1⟩
abbrev MIR_STAT_SIDE : RegField := ⟨Reg.MIR_STAT, 26, 1⟩
abbrev MIR_STAT_OWNPART : RegField := ⟨Reg.MIR_STAT, 27, 1⟩
abbrev MIR_STAT_OWNSELF : RegField := ⟨Reg.MIR_STAT, 28, 1⟩
abbrev MIR_STAT_OWNED : RegField := ⟨Reg.MIR_STAT, 29, 1⟩
abbrev MIR_STAT_ROLE : RegField := ⟨Reg.MIR_STAT, 30, 2⟩
abbrev MIR_CFG_HBTO : RegField := ⟨Reg.MIR_CFG, 0, 12⟩
abbrev MIR_CFG_AGEMAX : RegField := ⟨Reg.MIR_CFG, 12, 4⟩
abbrev MIR_CFG_GAPMAX : RegField := ⟨Reg.MIR_CFG, 16, 8⟩
abbrev MIR_CFG_GOODN : RegField := ⟨Reg.MIR_CFG, 24, 8⟩
abbrev MIR_HB_PERIOD : RegField := ⟨Reg.MIR_HB, 0, 16⟩
abbrev MIR_STG_SEL_BACK : RegField := ⟨Reg.MIR_STG_SEL, 0, 10⟩
abbrev MIR_STG_SEL_PART : RegField := ⟨Reg.MIR_STG_SEL, 16, 2⟩
abbrev AXL_CTRL_EN : RegField := ⟨Reg.AXL_CTRL, 0, 1⟩
abbrev AXL_STAT_LASTKIND : RegField := ⟨Reg.AXL_STAT, 0, 8⟩
abbrev AXL_STAT_RECERR : RegField := ⟨Reg.AXL_STAT, 26, 1⟩
abbrev AXL_STAT_UNREP : RegField := ⟨Reg.AXL_STAT, 27, 1⟩
abbrev AXL_STAT_EXH : RegField := ⟨Reg.AXL_STAT, 28, 1⟩
abbrev AXL_STAT_BISTDONE : RegField := ⟨Reg.AXL_STAT, 29, 1⟩
abbrev AXL_STAT_LOADED : RegField := ⟨Reg.AXL_STAT, 30, 1⟩
abbrev AXL_STAT_FROZEN : RegField := ⟨Reg.AXL_STAT, 31, 1⟩
abbrev AXL_CFG_KATPER : RegField := ⟨Reg.AXL_CFG, 0, 16⟩
abbrev AXL_MAP_SEL_ENTRY : RegField := ⟨Reg.AXL_MAP_SEL, 0, 10⟩
abbrev AXL_MAP_SEL_MAP : RegField := ⟨Reg.AXL_MAP_SEL, 15, 1⟩
abbrev AXL_LOG_SEL_SEL : RegField := ⟨Reg.AXL_LOG_SEL, 0, 5⟩
abbrev LBS_CTRL_EN : RegField := ⟨Reg.LBS_CTRL, 0, 1⟩
abbrev LBS_STAT_CFGERR : RegField := ⟨Reg.LBS_STAT, 0, 1⟩
abbrev LBS_STAT_NOISY : RegField := ⟨Reg.LBS_STAT, 1, 1⟩
abbrev LBS_STAT_HS : RegField := ⟨Reg.LBS_STAT, 2, 3⟩
abbrev LBS_MAC_HI_MAC : RegField := ⟨Reg.LBS_MAC_HI, 0, 16⟩
abbrev LBS_ETYPE_ETYPE : RegField := ⟨Reg.LBS_ETYPE, 0, 16⟩
abbrev LBS_ETYPE_DRIVE : RegField := ⟨Reg.LBS_ETYPE, 16, 16⟩
abbrev LBS_PHY_CTRL_TERM : RegField := ⟨Reg.LBS_PHY_CTRL, 0, 1⟩
abbrev LBS_PHY_STAT_LINK : RegField := ⟨Reg.LBS_PHY_STAT, 0, 1⟩
abbrev LBS_PHY_STAT_PLCA : RegField := ⟨Reg.LBS_PHY_STAT, 1, 1⟩
abbrev LBS_PLCA_CFG_NODE_ID : RegField := ⟨Reg.LBS_PLCA_CFG, 0, 8⟩
abbrev LBS_PLCA_CFG_NCNT : RegField := ⟨Reg.LBS_PLCA_CFG, 8, 8⟩
abbrev LBS_PLCA_CFG_TO : RegField := ⟨Reg.LBS_PLCA_CFG, 16, 8⟩
abbrev LBS_PLCA_CFG_EN : RegField := ⟨Reg.LBS_PLCA_CFG, 31, 1⟩
abbrev LBS_PLCA_BURST_MAXBC : RegField := ⟨Reg.LBS_PLCA_BURST, 0, 8⟩
abbrev LBS_PLCA_BURST_TIMER : RegField := ⟨Reg.LBS_PLCA_BURST, 8, 8⟩
abbrev LBS_PLCA_STAT_ACTIVE : RegField := ⟨Reg.LBS_PLCA_STAT, 0, 1⟩
abbrev LBS_PLCA_STAT_CUR : RegField := ⟨Reg.LBS_PLCA_STAT, 1, 8⟩
abbrev LBS_AUTH_CFG_SLOT : RegField := ⟨Reg.LBS_AUTH_CFG, 0, 3⟩
abbrev LBS_AUTH_CFG_BLOBSEC : RegField := ⟨Reg.LBS_AUTH_CFG, 16, 14⟩
abbrev LBS_HS_CFG_ACKTO : RegField := ⟨Reg.LBS_HS_CFG, 0, 8⟩
abbrev LBS_HS_CFG_RETRY : RegField := ⟨Reg.LBS_HS_CFG, 12, 4⟩
abbrev LBS_HS_CFG_DONETO : RegField := ⟨Reg.LBS_HS_CFG, 16, 16⟩
abbrev LBS_ENV_CFG_PER : RegField := ⟨Reg.LBS_ENV_CFG, 0, 16⟩
abbrev LBS_STR_CFG_STRMAX : RegField := ⟨Reg.LBS_STR_CFG, 0, 16⟩
abbrev LBS_STR_CFG_SYMMAX : RegField := ⟨Reg.LBS_STR_CFG, 16, 16⟩
abbrev LBS_PEER_MAC_HI_MAC (p : Nat) : RegField := ⟨Reg.LBS_PEER_MAC_HI p, 0, 16⟩
abbrev LBS_PEER_MAC_HI_ROLE (p : Nat) : RegField := ⟨Reg.LBS_PEER_MAC_HI p, 24, 2⟩
abbrev LBS_PEER_MAC_HI_EN (p : Nat) : RegField := ⟨Reg.LBS_PEER_MAC_HI p, 31, 1⟩
abbrev LBS_RX_VERDICT_ENTRY : RegField := ⟨Reg.LBS_RX_VERDICT, 0, 3⟩
abbrev LBS_RX_VERDICT_VERDICT : RegField := ⟨Reg.LBS_RX_VERDICT, 4, 4⟩
abbrev LBS_RX_WIN_SEL_ENTRY : RegField := ⟨Reg.LBS_RX_WIN_SEL, 0, 3⟩
abbrev LBS_RX_WIN_SEL_PART : RegField := ⟨Reg.LBS_RX_WIN_SEL, 3, 3⟩
abbrev LBS_RX_DESC_LEN (e : Nat) : RegField := ⟨Reg.LBS_RX_DESC e, 0, 9⟩
abbrev LBS_RX_DESC_PEER (e : Nat) : RegField := ⟨Reg.LBS_RX_DESC e, 12, 3⟩
abbrev LBS_RX_DESC_STATE (e : Nat) : RegField := ⟨Reg.LBS_RX_DESC e, 30, 2⟩
abbrev LBS_TX_CMD_LEN : RegField := ⟨Reg.LBS_TX_CMD, 0, 9⟩
abbrev LBS_TX_CMD_SEND : RegField := ⟨Reg.LBS_TX_CMD, 31, 1⟩
abbrev LBS_TX_STAT_BUSY : RegField := ⟨Reg.LBS_TX_STAT, 0, 1⟩
abbrev LBS_TX_STAT_OUTCOME : RegField := ⟨Reg.LBS_TX_STAT, 1, 2⟩
abbrev LBS_TX_WIN_SEL_PART : RegField := ⟨Reg.LBS_TX_WIN_SEL, 0, 3⟩
abbrev CAL_CTRL_EN : RegField := ⟨Reg.CAL_CTRL, 0, 1⟩
abbrev CAL_STAT_CLAMP : RegField := ⟨Reg.CAL_STAT, 8, 1⟩
abbrev CAL_STAT_NORESP : RegField := ⟨Reg.CAL_STAT, 9, 1⟩
abbrev CAL_STAT_PARTIAL : RegField := ⟨Reg.CAL_STAT, 10, 1⟩
abbrev CAL_STAT_STALE : RegField := ⟨Reg.CAL_STAT, 11, 1⟩
abbrev CAL_STAT_CODE : RegField := ⟨Reg.CAL_STAT, 16, 8⟩
abbrev CAL_STAT_BUSY : RegField := ⟨Reg.CAL_STAT, 31, 1⟩
abbrev CAL_SHUNT_Q_U : RegField := ⟨Reg.CAL_SHUNT_Q, 0, 10⟩
abbrev CAL_SHUNT_Q_V : RegField := ⟨Reg.CAL_SHUNT_Q, 10, 10⟩
abbrev CAL_SHUNT_Q_W : RegField := ⟨Reg.CAL_SHUNT_Q, 20, 10⟩
abbrev CAL_HOFS_Q_H1 : RegField := ⟨Reg.CAL_HOFS_Q, 8, 8⟩
abbrev CAL_HOFS_Q_H2 : RegField := ⟨Reg.CAL_HOFS_Q, 16, 8⟩
abbrev CAL_HOFS_Q_H3 : RegField := ⟨Reg.CAL_HOFS_Q, 24, 8⟩
abbrev CAL_B_Q_VSPR (b : Nat) : RegField := ⟨Reg.CAL_B_Q b, 0, 8⟩
abbrev CAL_B_Q_DSPR (b : Nat) : RegField := ⟨Reg.CAL_B_Q b, 8, 8⟩
abbrev CAL_B_Q_JIT (b : Nat) : RegField := ⟨Reg.CAL_B_Q b, 16, 9⟩
abbrev CAL_B_Q_EYEW (b : Nat) : RegField := ⟨Reg.CAL_B_Q b, 25, 7⟩
abbrev CAL_LD_Q_SLOPE (c : Nat) : RegField := ⟨Reg.CAL_LD_Q c, 0, 12⟩
abbrev CAL_LD_Q_THR (c : Nat) : RegField := ⟨Reg.CAL_LD_Q c, 12, 12⟩
abbrev CAL_LD_Q_PRES (c : Nat) : RegField := ⟨Reg.CAL_LD_Q c, 24, 4⟩
abbrev CAL_LD_Q_IRES (c : Nat) : RegField := ⟨Reg.CAL_LD_Q c, 28, 4⟩
abbrev PMC_CTRL_EN : RegField := ⟨Reg.PMC_CTRL, 0, 1⟩
abbrev PMC_CTRL_FRZOVF : RegField := ⟨Reg.PMC_CTRL, 1, 1⟩
abbrev PMC_CTRL_OVF_ATT : RegField := ⟨Reg.PMC_CTRL, 2, 1⟩
abbrev PMC_STAT_CFGERR : RegField := ⟨Reg.PMC_STAT, 0, 1⟩
abbrev PMC_OVF_OVF : RegField := ⟨Reg.PMC_OVF, 0, 8⟩
abbrev PMC_ACCESS_OPREAD : RegField := ⟨Reg.PMC_ACCESS, 0, 1⟩
abbrev PMC_SEL_SIGNAL (n : Nat) : RegField := ⟨Reg.PMC_SEL n, 0, 16⟩
abbrev PMC_SEL_CLASS (n : Nat) : RegField := ⟨Reg.PMC_SEL n, 16, 8⟩
abbrev PMC_SEL_INV (n : Nat) : RegField := ⟨Reg.PMC_SEL n, 28, 1⟩
abbrev PMC_SEL_CHAIN (n : Nat) : RegField := ⟨Reg.PMC_SEL n, 29, 1⟩
abbrev PMC_SEL_MODE (n : Nat) : RegField := ⟨Reg.PMC_SEL n, 30, 2⟩
abbrev PMC_FILT_MMASK (n : Nat) : RegField := ⟨Reg.PMC_FILT n, 16, 9⟩
abbrev PMC_FILT_PRIV (n : Nat) : RegField := ⟨Reg.PMC_FILT n, 25, 2⟩
abbrev PMC_FILT_WIN_EN (n : Nat) : RegField := ⟨Reg.PMC_FILT n, 31, 1⟩
abbrev PWR_STAT_STGEN : RegField := ⟨Reg.PWR_STAT, 0, 1⟩
abbrev PWR_STAT_WARN : RegField := ⟨Reg.PWR_STAT, 1, 1⟩
abbrev PWR_STAT_VIN12OK : RegField := ⟨Reg.PWR_STAT, 2, 1⟩
abbrev PWR_STAT_V3P3OK : RegField := ⟨Reg.PWR_STAT, 3, 1⟩
abbrev PWR_RST_CMD_GO : RegField := ⟨Reg.PWR_RST_CMD, 0, 1⟩
abbrev PWR_RST_CMD_KEY : RegField := ⟨Reg.PWR_RST_CMD, 16, 16⟩
abbrev PWR_RST_CAUSE_POR : RegField := ⟨Reg.PWR_RST_CAUSE, 0, 1⟩
abbrev PWR_RST_CAUSE_PIN : RegField := ⟨Reg.PWR_RST_CAUSE, 1, 1⟩
abbrev PWR_RST_CAUSE_SOFT : RegField := ⟨Reg.PWR_RST_CAUSE, 2, 1⟩
abbrev PWR_RST_CAUSE_THERM : RegField := ⟨Reg.PWR_RST_CAUSE, 3, 1⟩
abbrev PWR_START_CAUSE : RegField := ⟨Reg.PWR_START, 16, 8⟩
abbrev PWR_START_STEP : RegField := ⟨Reg.PWR_START, 24, 4⟩
abbrev PWR_START_STOPPED : RegField := ⟨Reg.PWR_START, 30, 1⟩
abbrev PWR_START_DONE : RegField := ⟨Reg.PWR_START, 31, 1⟩
abbrev PWR_RAIL_MV (r : Nat) : RegField := ⟨Reg.PWR_RAIL r, 0, 16⟩
abbrev PWR_RAIL_FAULT (r : Nat) : RegField := ⟨Reg.PWR_RAIL r, 30, 1⟩
abbrev PWR_RAIL_GOOD (r : Nat) : RegField := ⟨Reg.PWR_RAIL r, 31, 1⟩
abbrev PWR_TEMP_CFG_WARN : RegField := ⟨Reg.PWR_TEMP_CFG, 0, 8⟩

end F

end Sys2Proof.Machine
end

