-- ==== Sys2Proof/Machine/State.lean ====
section
/-! DEFINITION. The state of the module as plain data. Every register of the register space (R539) lives in `regs`, a sparse
map from offset to word in canonical form (offsets rising, no word equal to its reset value); what the spec gives a block
beside its registers (queues, buffers, memories, what an engine has in progress) lives in that block's structure. Commands
that wait stand in `pending`, first in, first out. -/

namespace Sys2Proof.Machine

/-- There is no fault: no command of the table stops the block. A type with no element. -/
inductive Fault where
  deriving DecidableEq, Repr

/-- Why a command is refused. `notModelled` is answered by `exec` for a row that has no meaning yet, and is safe: nothing is
claimed of the row. -/
inductive Refusal where
  | notModelled (mnemonic : String)
  deriving DecidableEq, Repr

/-! ## Disc side: ANG, ACQ, DET, DEC, recovery -/

/-- One scheduler entry of ANG (R68, R84). -/
structure AngEntry where
  armed     : Bool := false
  fired     : Bool := false
  late      : Bool := false
  cancelled : Bool := false
  target    : Word := 0
  frac      : Byte := 0
  action    : BitVec 4 := 0
  head      : Head := 0
  htag      : Bool := false
  arg       : BitVec 16 := 0
  deriving DecidableEq, Repr

/-- What ANG keeps for one head beside its registers: the last correct address word (R58), whether the first confirmed word
after a relock is still awaited (R61), and by how many ticks the head's own disc angle last led the module's (R57).
DEDUCED (log entry 12). -/
structure AngHead where
  last   : Option Dword := none
  relock : Bool := false
  delta  : Int := 0
  deriving DecidableEq, Repr

/-- ANG (R55 to R84) beside its registers. -/
structure Ang where
  now     : Angle := 0
  hwm     : Angle := 0
  entries : Vector AngEntry 64 := Vector.replicate 64 {}
  heads   : Vector AngHead 4 := Vector.replicate 4 {}
  /-- a sample count written to `ANG_SRV_SPR` and not yet in force (R74), and the count in force -/
  spr     : Nat := 10000
  /-- the next sample instant is issued by time (R14, R76), and the last measured interval between instants, in ns (R14 step 5) -/
  timed   : Bool := false
  rate    : Nat := 1667
  /-- the filtered lines A and B of each encoder (R78) -/
  encAB   : Vector (BitVec 2) 2 := Vector.replicate 2 0
  deriving DecidableEq, Repr

/-- One fast ADC beside its registers: the slice the spare shadows, which slices were suspect in their last shadow, and a
swap granted and awaiting the boundary of R91. -/
structure Adc where
  shadow  : Fin 8 := 0
  suspect : BitVec 8 := 0
  granted : Option (Fin 8) := none
  deriving DecidableEq, Repr

/-- ACQ (R85 to R107) beside its registers. -/
structure Acq where
  /-- the zone awaiting each head's frame 0 while `ZPEND` is 1 (R99) -/
  zpend  : Vector Nat 4 := Vector.replicate 4 0
  adcs   : Vector Adc 36 := Vector.replicate 36 {}
  /-- the slice trims behind `ACQ_SLICE_SEL` and `ACQ_SLICE_DATA` (R89), by the value of SEL -/
  trims  : List (Nat × Word) := []
  /-- good marks on prediction in a row of each head in SEARCH, and the frequency its search started from (R93) -/
  seek   : Vector Nat 4 := Vector.replicate 4 0
  freq   : Vector Word 4 := Vector.replicate 4 0
  /-- the last quadrants of each head that were not held (R508), and whether a background refinement has moved the slice trims since
  the window was last written (R89) -/
  quads  : Vector (List Int) 4 := Vector.replicate 4 []
  refined : Bool := false
  /-- the sign of each head's push-pull P at its last conversion (R232) -/
  push   : Vector Bool 4 := Vector.replicate 4 false
  /-- DET flags a defect on the beam (R87, R120) -/
  defect : Vector Bool 16 := Vector.replicate 16 false
  /-- skews written and awaiting the head's frame 0 (R107): the values in force of D and V -/
  skewD  : Vector Word 16 := Vector.replicate 16 0
  skewV  : Vector Word 16 := Vector.replicate 16 14000
  deriving DecidableEq, Repr

/-- A capture run (R109): slots left, the expected LBA of the slot in capture, the run's SPARE and ANY, its zone-layer, and
the band and slot of the slot in capture. -/
structure DetRun where
  left  : Nat
  lba   : Nat
  spare : Bool
  any   : Bool
  zl    : Nat
  band  : Int := 0
  slot  : Nat := 0
  deriving DecidableEq, Repr

/-- The slot in capture: its expected LBA, its sample buffer slot, the settings of its rung (R151), the live taps saved at
its start (R111), the sync decision (R114), the accepted header (R118), the regions marked so far (R120) and the beam whose
recovery logic keeps its block (R144). -/
structure Capture where
  lba    : Nat
  buf    : Fin 6
  eqset  : Nat
  elvl   : Nat
  win    : Nat
  rung   : Nat
  repass : Bool
  home   : Beam
  taps   : List Word
  /-- the read-power code to return to at the slot's end, when the rung steps the power (R151) -/
  rlvl   : Option Nat := none
  /-- the recovery logic captures the block in this slot (R153, R155) -/
  serves : Bool := true
  sync   : Option (Int × Nat) := none
  header : Option Dword := none
  marks  : List (Nat × Nat) := []
  deriving DecidableEq, Repr

/-- One occupied sample buffer slot (R124, R139): the block, its outcome, the data-field values in channel order without the
flag bits, frame by frame, the flags taken as 1 and those ambiguous, and the erasure map: the stream groups erased. -/
structure SBuf where
  lba     : Nat
  outcome : Nat := 0
  values  : List Int := []
  flags   : List Bool := []
  amb     : List Bool := []
  erased  : List Nat := []
  deriving DecidableEq, Repr

/-- The detector of one beam (R108 to R127) beside its registers. -/
structure Det where
  run  : Option DetRun := none
  cap  : Option Capture := none
  bufs : Vector (Option SBuf) 6 := Vector.replicate 6 none
  deriving DecidableEq, Repr

/-- A block on its way through DEC: its LBA, home beam and capturing beam, its sample buffer slot, its rung, whether a
re-pass captured it, the converged codewords (R129), and the lane a known-answer test is for (R477). -/
structure DecBlk where
  lba    : Nat
  home   : Beam
  cap    : Beam
  buf    : Fin 6
  rung   : Nat
  repass : Bool
  conv   : Byte
  kat    : Option (Fin 18) := none
  deriving DecidableEq, Repr

/-- A lane's result (R128, R134, R136), with the codewords converged before this decode, and the DEC cycles it kept and wasted (R133,
R138). -/
structure DecRes where
  blk     : DecBlk
  was     : Byte := 0
  good    : Bool
  failmap : Byte
  iter    : Nat
  flips   : Nat
  kept    : Nat
  wasted  : Nat
  deriving DecidableEq, Repr

/-- A physical lane: the block in progress, whether it came from the recovery queue, its iteration limit, a result held
under R134, a repair awaiting the block's end, and a condemnation, after which it takes no block (R133). -/
structure Lane where
  cur   : Option DecBlk := none
  fromR : Bool := false
  limit : Nat := 0
  held  : Option DecRes := none
  outReq : Bool := false
  sick  : Bool := false
  deriving DecidableEq, Repr

/-- DEC (R128 to R138) beside its registers: the two queues, oldest first, the lanes and the completion collector. -/
structure Dec where
  fpq   : List DecBlk := []
  rq    : List DecBlk := []
  lanes : Vector Lane 18 := Vector.replicate 18 {}
  clt   : Vector (Option DecRes) 18 := Vector.replicate 18 none
  deriving DecidableEq, Repr

/-- Where the recovery logic has a block: being read or decoded, climbing (its rung is chosen and runs now), deferred in
its head's list, deferred beside the full list (R155), waiting for a ready bit in the list (R21, R154), or waiting for it beside
the full list. -/
inductive RPhase where
  | reading | deferred | beside | waiting | outside
  deriving DecidableEq, Repr

/-- The figures of the capture and decode that a quality record shows (R157). -/
structure Figures where
  syncd : Nat := 0
  syncofs : Nat := 0
  ermax : Nat := 0
  flagamb : Nat := 0
  mse : Nat := 0
  wgen : Nat := 0
  iter : Nat := 0
  flips : Nat := 0
  deriving DecidableEq, Repr

/-- The recovery logic's state of one block (R142), which is named by its LBA, a management block by its header LBA plus
2^25: its home beam, rung, no-read and blank counts, re-pass captures, spare
index when it is read from its spare (R144), converged codewords (R150), age in frame 0 crossings (R152), the sample buffer
slot it holds, and whether it had failed a rung. -/
structure RBlk where
  lba    : Nat
  beam   : Beam
  phase  : RPhase := .reading
  rung   : Nat := 0
  noread : Nat := 0
  blank  : Nat := 0
  passes : Nat := 0
  spare  : Option Nat := none
  conv   : Byte := 0
  age    : Nat := 0
  buf    : Option (Beam × Fin 6) := none
  fig    : Figures := {}
  deriving DecidableEq, Repr

/-- A retry point in progress (R153): the layer and band being worked, the revolutions made on it, the tracking offset of
the revolution, the layer and band to resume, and the head's tracking target as the retry point began (R151). -/
structure Retry where
  layer  : Nat
  band   : Int
  revs   : Nat
  ofs    : Int
  resLayer : Nat
  resBand  : Int
  /-- no band is left, and the head is on its way to the resume band -/
  back     : Bool := false
  /-- the kick-back of a revolution was not confirmed by its frame 0 -/
  await    : Bool := false
  tgt      : Int := 0
  deriving DecidableEq, Repr

/-- A management slot that the read path has read: its layer and slot index, how its block ended, by the numbers of `State.blockEnd`,
and its bytes where it was delivered (R53 step 1). -/
structure MgmtRead where
  layer   : Fin 16
  slot    : Nat
  outcome : Nat
  bytes   : List Byte
  deriving DecidableEq, Repr

/-- The recovery logic (R142 to R157) beside its registers. -/
structure Rcv where
  blks  : List RBlk := []
  /-- the management slots read since LOAD_DISC or READ_MGMT began (R53) -/
  mgmt  : List MgmtRead := []
  retry : Vector (Option Retry) 4 := Vector.replicate 4 none
  /-- entries of the quality ring written, by ring index (R157) -/
  quality : List (Nat × BitVec 128) := []
  deriving DecidableEq, Repr

/-! ## The disc: replacement table, ready bits, records -/

/-- One replacement entry (R18, R50): home LBA, spare index, write generation, and whether a record on the disc holds it. -/
structure RplEntry where
  lba   : Nat
  spare : Nat
  wgen  : Nat
  recorded : Bool
  deriving DecidableEq, Repr

/-- The optimum power factors of one zone-layer and head (R175): whether they were measured since the load, and whether the
catalogue entry keeps them, as those of an OPC under MODE = 1 and those that came from it. -/
structure OpcFactors where
  zl   : ZoneLayer
  head : Head
  f    : List Nat
  measured : Bool := true
  keep     : Bool := false
  deriving DecidableEq, Repr

/-- The state of the loaded disc (R17 to R24, R48 to R54). -/
structure Disc where
  identity : List Byte := List.replicate 16 0
  recSeq   : Nat := 0
  /-- WGEN of the last valid disc record (R24, R25) -/
  recWgen  : Nat := 0
  hasRecord : Bool := false
  table    : List RplEntry := []
  nextFree : Vector Nat 320 := Vector.replicate 320 0
  ready    : Vector Bool 320 := Vector.replicate 320 false
  /-- entries added under R18 since the last record event (R19), and whether entries or indices changed at all (R24) -/
  added    : Nat := 0
  changed  : Bool := false
  /-- the next free management slot of each layer (R48) -/
  mgmtNext : Vector Nat 16 := Vector.replicate 16 0
  /-- replacement entries recorded in each layer's entry blocks (R51) -/
  recorded : Vector Nat 16 := Vector.replicate 16 0
  /-- the management blocks the module has written since the load, oldest first (R48 to R51) -/
  written  : List MgmtBlock := []
  opc      : List OpcFactors := []
  /-- zone-layers in the order the rebuild takes them (R22) -/
  rebuild  : List Nat := []
  /-- the catalogue entry of the disc (R25), and the module load count -/
  catEntry : Option Nat := none
  loads    : Nat := 0
  deriving DecidableEq, Repr

/-! ## Write path -/

/-- What a planned write is: a home block, or a replacement at a spare index. -/
inductive WKind where
  | home | repl (spare : Nat)
  deriving DecidableEq, Repr

/-- A block to write: LBA, kind, failed replacement writes so far (R177), zone-layer; and, from the opening of its gate, its header
word and its 32,768 bytes (R38, R169). -/
structure WBlk where
  lba   : Nat
  kind  : WKind
  tries : Nat := 0
  zl    : Nat := 0
  hdr   : Dword := 0
  data  : List Byte := []
  deriving DecidableEq, Repr

/-- A beam's writing: home blocks planned for its next gates, the block whose gate is open with the target and fraction of the event
that opened it (R69, R171), the slot in which a gate last closed early, by layer, band and target (R15), and blocks written and awaiting
their verify decision, each oldest first. -/
structure WBeam where
  plan : List WBlk := []
  gate : Option WBlk := none
  gateAt : Word := 0
  gateFrac : Byte := 0
  shut : Option (Nat × Int × Word) := none
  vfy  : List WBlk := []
  deriving DecidableEq, Repr

/-- A block in a replacement queue (R176). -/
structure RqBlk where
  lba   : Nat
  tries : Nat
  deriving DecidableEq, Repr

/-- WRP, LDD and VFY (R160 to R189) beside their registers. -/
structure Wrp where
  beams  : Vector WBeam 16 := Vector.replicate 16 {}
  /-- replacement queues by zone-layer, oldest first -/
  queues : List (Nat × List RqBlk) := []
  /-- the zone-layer of each head's replacement pass in progress (R176), and `VFY_OPC_CFG` at the start of its OPC in progress
  (R189) -/
  pass   : Vector (Option Nat) 4 := Vector.replicate 4 none
  opcRun : Vector (Option Word) 4 := Vector.replicate 4 none
  /-- an LPOWER held during the interval of R165 -/
  lpower : Vector (Option (BitVec 4)) 20 := Vector.replicate 20 none
  /-- high-frequency superposition off around a gate (R165) -/
  hfOff  : Vector Bool 20 := Vector.replicate 20 false
  /-- VLD monitor enabled (R162) -/
  vld    : Vector Bool 4 := Vector.replicate 4 false
  /-- a gate, a read step or an off level of the head since its last frame 0 (R166) -/
  apcHold : Vector Bool 4 := Vector.replicate 4 true
  /-- replacements made, OPC runs and failed replacement writes of the running task (R326) -/
  made   : Nat := 0
  opcs   : Nat := 0
  failedRpl : Nat := 0
  /-- the current trims of the channels (R506, R507) -/
  trims : Vector Word 20 := Vector.replicate 20 0
  deriving DecidableEq, Repr

/-! ## Servo, loop supervisors, motors -/

/-- One loop group of SRV beside its registers: mode in force, states, a small channel's output computed one sample ahead
(R196), a pending SRV_TARGET (R211) and the values staged for a preset (R215). -/
structure SrvGroup where
  mode   : Nat := 0
  x      : List Int := List.replicate 8 0
  ahead  : Int := 0
  target : Bool := false
  staged : List (Nat × Int) := []
  deriving DecidableEq, Repr

/-- SRV (R190 to R217) beside its registers. -/
structure Srv where
  groups : Vector SrvGroup 11 := Vector.replicate 11 {}
  /-- the active copy of coefficient memory by register offset (R212); words not listed are 0 -/
  active : List (Nat × Word) := []
  /-- poisoned words of coefficient memory (R209) -/
  poison : List Nat := []
  commit : BitVec 11 := 0
  /-- presets ordered for the next instant: groups, and whether from the staged values (R215) -/
  presets : List (BitVec 11 × Bool) := []
  /-- sample numbers of each lane's residue errors inside the swap window (R207) -/
  errors : Vector (List Nat) 5 := Vector.replicate 5 []
  /-- consecutive samples in which a lane held a group over with the spare in use, by lane and group, and in which each mixer did
  (R207, R208) -/
  laneHeld : Vector (Vector Nat 11) 5 := Vector.replicate 5 (Vector.replicate 11 0)
  mixHeld  : Vector Nat 4 := Vector.replicate 4 0
  /-- the run of a mixer's errors has been reported to AXL (R208) -/
  mixTold  : Vector Bool 4 := Vector.replicate 4 false
  /-- the lane the spare shadows (R206) -/
  shadow : Fin 5 := 0
  retire : Option (Fin 5) := none
  /-- lanes that leave service at the next instant (R207), and samples since the shadow last moved (R206) -/
  leaving : List (Fin 5) := []
  shadowN : Nat := 0
  deriving DecidableEq, Repr

/-- What a supervisor runs: a command of R225, the recovery of R240 after a loss of the class given, or, for the other head of
a sled, being carried by a Gazelle (R238). -/
inductive LsvOp where
  | none | acquire | layer | jump | seek | recover (cls : Nat) | carried
  deriving DecidableEq, Repr

/-- Where a single layer jump (R233) or a band jump (R235) stands: the corrector on its way to the midpoint, the kick, the wait
for the point of the opposite kick, the opposite kick, the wait for the landing, the corrector on its way to the end. -/
inductive JPhase where
  | none | toMid | kick | wait | brake | land | toEnd
  deriving DecidableEq, Repr

/-- One head's loop supervisor (R225 to R243) beside its registers. -/
structure Lsv where
  /-- the command, and the one in progress within it -/
  op     : LsvOp := .none
  inner  : LsvOp := .none
  /-- the state of R229 behind RECOVER -/
  st     : Nat := 0
  /-- target layer and band of the command, and the layer the stage in progress aims at -/
  layer  : Nat := 0
  band   : Int := 0
  aim    : Nat := 0
  /-- failed attempts of R231, sled moves of R237, recoveries left of R240 -/
  tries  : Nat := 0
  moves  : Nat := 0
  left   : Nat := 0
  ph     : JPhase := .none
  /-- the search of R234 runs after a failed single jump -/
  search : Bool := false
  /-- bands a jump covers, the band it started from, and whether it awaits its launch frame (R235) -/
  delta  : Int := 0
  origin : Int := 0
  launch : Bool := false
  /-- the corrector loop's mode before SAMOVE (R231) -/
  corr   : Nat := 0
  /-- the search ramp, in 10 nA, whether it rises, and the S-curves counted; also the sum and the samples of FSETTLE -/
  ramp   : Int := 0
  rising : Bool := false
  curves : Nat := 0
  acc    : Int := 0
  n      : Nat := 0
  /-- the last sample: sum above SUMACQ, focus error; and whether the sum fell below since the kick -/
  above  : Bool := false
  fell   : Bool := false
  lastE  : Int := 0
  /-- crossings of P counted in a jump; band-centre crossings that may be the pull-in, as samples and crossings since (R232) -/
  cross  : Nat := 0
  cands  : List (Nat × Nat) := []
  /-- frame 0 crossings since each slip of the last 16 revolutions (R239) -/
  slips  : List Nat := []
  /-- servo samples in the state, and since the kick or brake began; samples in a row with the sum below SUMLOSS, and with the tracking
  output clipped (R231 to R235, R237, R239) -/
  smp    : Nat := 0
  kn     : Nat := 0
  low    : Nat := 0
  clip   : Nat := 0
  /-- outputs at the last sample before a hold began (R227) -/
  held   : List Int := [0, 0, 0]
  deriving DecidableEq, Repr

/-- SPN (R248 to R267) beside its registers. -/
structure Spn where
  /-- the command in progress: its OP of R279, 0 = none -/
  cmd    : Nat := 0
  /-- start attempts of the SPIN in progress, and whether the next awaits standstill (R257) -/
  starts : Nat := 0
  again  : Bool := false
  /-- zero-vector braking of ESTL in progress (R266) -/
  zvBrake : Bool := false
  /-- the motion: 1 = final stop of R259, 2 = park, 3 = rotate -/
  drive  : Nat := 0
  /-- standstill has been declared and nothing has turned the disc since (R254) -/
  still  : Bool := true
  /-- the observer's speed and whether its loop is locked, the revolution rate (R253), and the driven vector's frequency (R264), in
  1/65,536 rpm -/
  obs    : Word := 0
  obsOk  : Bool := false
  rev    : Word := 0
  driven : Word := 0
  /-- what `SPN_REF` and the driven frequency hold below their last bit, in 10⁻⁹ of it (R258, R259) -/
  refFrac : Nat := 0
  dFrac   : Nat := 0
  /-- the angle left to a park or a rotation, in 1/(65,536 · 60 · 10¹⁸) revolution (R262, R263) -/
  left   : Int := 0
  /-- group 4 has been CLOSED since the handoff (R260) -/
  closed : Bool := false
  /-- the q reference in 2⁻¹⁶ mA, whether it is led to the loop's output by 20 mA a PWM period, and the nanoseconds of the PWM period
  in progress (R252, R257, R261) -/
  iq     : Int := 0
  soft   : Bool := false
  pwm    : Nat := 0
  /-- the electrical angle with its turns, modulo a mechanical revolution (R262) -/
  turns  : Nat := 0
  deriving DecidableEq, Repr

/-- One stepper channel beside its registers: the head whose supervisor awaits its command's end, P and the encoder count when
the move began, the target it was planned for (R272), the velocity and the part of a microstep below P in VEL and TRIM (R273), the
phases at IHOLD (R269), and the mode that a STOP ended (R285). -/
structure Sld where
  owner : Option Head := none
  from_ : Word := 0
  enc   : Word := 0
  goal  : Word := 0
  /-- in 10⁻⁹ of 1/256 microstep/s -/
  vel   : Int := 0
  /-- in 10⁻¹⁸ of 1/256 microstep -/
  frac  : Int := 0
  ihold : Bool := false
  ended : Nat := 0
  deriving DecidableEq, Repr

/-! ## Zarvel link -/

/-- A flit: its type, direction, DST, SRC, TAG, its payload bytes and its XD (R293, R294). While it waits at a port: whether it is
through traffic (R305), the port whose buffer it holds a place of (R301), and how many data flits it may not overtake (R300). Once
sent: how often it has been resent (R303). -/
structure Flit where
  typ : Nat
  hb  : Bool := false
  dst : Nat := 0
  src : Nat := 0
  tag : Nat := 0
  bytes : List Byte := []
  through : Bool := false
  owes    : Option (Fin 3) := none
  behind  : Nat := 0
  resent  : Nat := 0
  deriving DecidableEq, Repr

/-- One port (R286 to R303) beside its registers: sequence numbers, credits, queues by class, the replay buffer with each
flit's resends, and a LINK flit's worth of acknowledgement due. -/
structure HlkPort where
  txSeq  : Nat := 0
  rxSeq  : Nat := 0
  nakSent : Bool := false
  qc     : List Flit := []
  qd     : List Flit := []
  unack  : List (Nat × Flit) := []
  ackDue : Nat := 0
  /-- credits to return to the far end (R301) -/
  retC   : Nat := 0
  retD   : Nat := 0
  /-- flits put on the line since the last event, newest last, IDLE left out -/
  line   : List (Nat × Flit) := []
  /-- a lane swap in progress: logical lane, spare, codeword (R290) -/
  swap   : Option (Nat × Nat × Word) := none
  /-- the swap is acknowledged -/
  swapAck : Bool := false
  /-- the sequence number that a NAK taken during a swap names (R311) -/
  nakHeld : Option Nat := none
  /-- the logical lane that the spare copies (R290) -/
  copying : Nat := 0
  /-- condemned with no spare left (R290) -/
  noSpare : Bool := false
  /-- through flits of class C and of class D sent since the module's own last one, while both wait (R305) -/
  passC  : Nat := 0
  passD  : Nat := 0
  deriving DecidableEq, Repr

/-- An MRD issued and not answered (R300): port, host address, length, the LBA whose data it fetches, whether its task still
wants it, and whether it fetches scatter-list entries (R321). -/
structure Mrd where
  port : Port
  addr : Nat
  len  : Nat
  lba  : Nat
  live : Bool
  sg   : Bool
  /-- a drain of R308 waits for it -/
  held : Bool := false
  /-- it was not answered within CTO; what comes for it is late (R303, R309) -/
  timed : Bool := false
  /-- where in the block its bytes belong -/
  ofs  : Nat := 0
  deriving DecidableEq, Repr

/-- What waits behind a drain (R308): a register write, or a CREQ with its port, header and payload. -/
inductive DrainWait where
  | write (m : Master) (ofs : Nat) (v : Word)
  | creq (p : Port) (hdr : Dword) (payload : List Byte)
  deriving DecidableEq, Repr

/-- HLK beside its registers. -/
structure Hlk where
  ports : Vector HlkPort 3 := Vector.replicate 3 {}
  mrds  : List Mrd := []
  /-- ports that carry MWRs not yet flushed, and FLUSHes of each port that await their FLACK -/
  mwrs  : BitVec 3 := 0
  flush : Vector Nat 3 := Vector.replicate 3 0
  /-- a window or privilege write awaits the drain (R308), with the CCPL withheld for it when it came by CREQ -/
  drain : Option (Option (Port × Flit)) := none
  /-- what waits behind the drain, oldest first -/
  waiting : List DrainWait := []
  deriving DecidableEq, Repr

/-! ## Tasks -/

/-- The running or last task beside its registers (R318 to R332). -/
structure Tsk where
  /-- descriptor taken by GO -/
  desc   : List Word := List.replicate 16 0
  port   : Port := .A
  /-- the extent, or the first item and count -/
  lba    : Nat := 0
  count  : Nat := 0
  /-- LBAs completed out of order, and blocks ended BLANK or UNRECOVERABLE with their class (R13, R156) -/
  done   : List Nat := []
  bad    : List (Nat × Nat) := []
  /-- blocks whose data has reached the stream buffers for a write -/
  fetched : List Nat := []
  /-- blocks of a read that stand in a stream buffer, with the home beam of each -/
  landed : List (Nat × Beam) := []
  /-- results of words 10 to 15 (R326) -/
  res    : List Word := [0, 0, 0, 0, 0, 0]
  /-- work still owed by the task before it may succeed, and its success end in progress (R329) -/
  work   : Bool := false
  ending : Bool := false
  /-- highest LBA whose home gate opened (R180) -/
  whw    : Option Nat := none
  /-- bytes moved to or from the host, buffers of the scatter list not yet used up, entries fetched, and the address of the
  next segment (R321) -/
  moved  : Nat := 0
  sgl    : List (Nat × Nat) := []
  sgN    : Nat := 0
  sgNext : Option Nat := none
  seq    : Nat := 0
  started : Dword := 0
  /-- bytes the scatter list covers so far, and whether its last entry has come (R321) -/
  sgTotal : Nat := 0
  sgDone : Bool := false
  /-- GO was accepted with TASK = 0, and the checks of R318 are still to be made (R362); the record event of an UNLOAD_DISC
  with FORCE failed (R325) -/
  unchecked : Bool := false
  /-- GO came with custodian privilege (R323) -/
  cust : Bool := false
  failed : Bool := false
  /-- a FLUSH of the task's end is out, or the stage its task has reached (R325) -/
  phase  : Nat := 0
  /-- zone-layers that a SCAN_SPARE names and that are not scanned yet (R325) -/
  scans  : List Nat := []
  /-- buffers of the scatter list before those of the current segment (R340) -/
  sgFrom : Nat := 0
  /-- DISC_READY follows a TASK_END in preparation (R339) -/
  readyDue : Bool := false
  /-- highest rung, blocks recovered and read from spare, records placed and not placed -/
  recovered : Nat := 0
  fromSpare : Nat := 0
  topRung : Nat := 0
  placed : Nat := 0
  unplaced : Nat := 0
  /-- an MWR or MRD was issued through the port (bit 0 = A, bit 1 = B) -/
  used   : BitVec 3 := 0
  elog   : Vector (List Word) 64 := Vector.replicate 64 (List.replicate 8 0)
  deriving DecidableEq, Repr

/-! ## SEQ and CCH -/

/-- One level of the loop stack (R350). -/
structure LoopLevel where
  start : BitVec 14
  stop  : BitVec 14
  count : Word
  deriving DecidableEq, Repr

/-- A branch that executed and awaits its delay slot (R347): its address, its target when taken, and what its commit does
to the call stack. -/
structure Branch where
  at_    : BitVec 14
  target : Option (BitVec 14)
  call   : Option (BitVec 14) := none
  pop    : Bool := false
  deriving DecidableEq, Repr

/-- A line of CCH or of its victim cache: address of its first byte, dirty, poisoned words, data (R367, R372). -/
structure CLine where
  addr   : Nat
  dirty  : Bool
  poison : BitVec 8
  data   : List Byte
  deriving DecidableEq, Repr

/-- SEQ and CCH (R342 to R375) beside their registers. -/
structure Seq where
  g      : Vector Dword 32 := Vector.replicate 32 0
  z : Bool := false
  n : Bool := false
  c : Bool := false
  v : Bool := false
  /-- control store words that differ from the fill value, and the addresses with an uncorrectable error -/
  cs     : List (Nat × MicroWord) := []
  csBad  : List Nat := []
  disp   : Vector (BitVec 14) 256 := Vector.replicate 256 0
  loops  : List LoopLevel := []
  calls  : List (BitVec 14) := []
  branch : Option Branch := none
  /-- MODE bits to take effect after the shadow instruction (R353) -/
  shadow : Option (BitVec 4) := none
  afterEret : Bool := false
  /-- arguments of SEQ_EVENT firings, oldest first (R359) -/
  queue  : List (BitVec 16) := []
  waiting : Bool := false
  /-- `SEQ_WDOG` has expired and its exception awaits a boundary (R354, R360) -/
  wdog   : Bool := false
  /-- stores in the store buffer: address, bytes (R348) -/
  stores : List (Nat × List Byte) := []
  sram   : List Host.Cell := []
  /-- lines of CCH, most recently used first; victims, oldest first -/
  lines  : List CLine := []
  victims : List CLine := []
  /-- a fill in progress (R370) -/
  fill   : Option Nat := none
  deriving DecidableEq, Repr
/-! ## Memory, flash, security, pair, library bus, counters -/

/-- MIR (R458 to R474) beside its registers. -/
structure Mir where
  /-- the supervisor's two copies have agreed, and SRV wrote its outputs in time, so far (R461) -/
  copies : Bool := true
  timely : Bool := true
  /-- the refresher runs (R459); a release was ordered and the module awaits the partner's claim (R473) -/
  pulse  : Bool := false
  giving : Bool := false
  /-- MIRR traffic has stopped with a release (R461); PAIR_HANDOVER waits for an armed standby (R473 step 1) -/
  quiet  : Bool := false
  wants  : Bool := false
  /-- a status of the partner has arrived -/
  heard  : Bool := false
  /-- parts of the sample record that is arriving with its SEQ, and of the newest complete one -/
  seq    : Nat := 0
  parts  : List (List Byte) := []
  newest : Option (List (List Byte)) := none
  /-- a complete record has come since the last instant, and awaits application (R467) -/
  fresh  : Bool := false
  /-- instants without a complete record in a row; complete records without a failed check in a row (R468) -/
  gap    : Nat := 0
  clean  : Nat := 0
  /-- whether set T was in force on each head in the last record applied (R467) -/
  setT   : BitVec 4 := 0
  /-- the mirrored descriptor (R466) -/
  desc   : List Word := List.replicate 16 0
  deriving DecidableEq, Repr

/-- AXL (R475 to R479) beside its registers: the two maps and the log. -/
structure Axl where
  factory : List Dword := []
  field   : List Dword := []
  log     : List (List Word) := []
  /-- the copy of the field map in use and its generation -/
  copy    : Option (Fin 2 × Nat) := none
  deriving DecidableEq, Repr

/-- A key in a slot (R432, R433): usage 1 = OPEN, 2 = SEALED. -/
structure Slot where
  usage : Nat
  key   : List Byte
  keyId : Nat
  deriving DecidableEq, Repr

/-- An operation of CPH in progress, with its result (R437). -/
inductive CphOp where
  | block (dst : Nat) (out : List Byte)
  | tagcmp (short : Bool)
  | seal
  | load (slot : Fin 8) (k : Slot)
  | store (usage : Nat) (key : List Byte) (keyId : Nat)
  | clear (slot : Fin 8)
  /-- an operation whose output is discarded (R435) -/
  | void
  deriving DecidableEq, Repr

/-- CPH and BKP (R431 to R453) beside their registers. -/
structure Cph where
  slots  : Vector (Option Slot) 8 := Vector.replicate 8 none
  /-- key store and fused configuration key -/
  kek    : Option (List Byte) := none
  cak    : Option (List Byte) := none
  cfgKey : Option (List Byte) := none
  /-- the tag register since the last SEAL, and the sealed buffer -/
  tag    : Option (List Byte) := none
  buf    : List Host.Cell := []
  op     : Option CphOp := none
  /-- the challenge that awaits its response (R445) -/
  chal   : Option (List Byte) := none
  /-- loops declared bad (R448), and temperature excursions, high and low (R450) -/
  loops  : BitVec 2 := 0
  excHi  : Bool := false
  excLo  : Bool := false
  deriving DecidableEq, Repr

/-- One entry of the receive ring (R491): 0 = free, 1 = awaiting its verdict, 2 = freed by an accept whose message has not been
acted on. -/
structure RxEntry where
  state : Nat := 0
  bytes : List Byte := []
  peer  : Fin 8 := 0
  deriving DecidableEq, Repr

/-- LBS (R484 to R498) beside its registers. -/
structure Lbs where
  ring   : Vector RxEntry 8 := Vector.replicate 8 {}
  /-- the transmit window -/
  win    : List Host.Cell := []
  /-- the handshake: 0 = none, 1 = LOAD_REQ, 2 = UNLOAD_REQ awaiting its acknowledgement, 3, 4 the same awaiting the reply -/
  hs     : Nat := 0
  sent   : Nat := 0
  /-- CTR of the request last sent, and of reports awaiting their acknowledgement -/
  req    : Nat := 0
  reports : List Nat := []
  /-- the frame on its way and its attempts, and the frames sent, newest last -/
  frame  : Option (List Byte) := none
  tries  : Nat := 0
  line   : List (List Byte) := []
  /-- cycle counter values of the strangers and of the symbol errors within the last second, and at the last ATTENTION for noise
  (R497) -/
  strAt  : List Nat := []
  symAt  : List Nat := []
  noisyAt : Option Nat := none
  deriving DecidableEq, Repr

/-! ## DRAM, flash, power -/

/-- A DRAM row: channel, die (`check` = the check die), bank and row (R376, R377). -/
structure DRow where
  ch    : Fin 4
  check : Bool
  bank  : Fin 16
  row   : Nat
  deriving DecidableEq, Repr

/-- A bank of a data die (R379): access history, the row its last access named, and whether that row is open. -/
structure DBank where
  hist   : BitVec 4 := 0
  last   : Option Nat := none
  opened : Bool := false
  deriving DecidableEq, Repr

/-- DMC and MIC (R376 to R399) beside their registers. -/
structure Mem where
  /-- banks of the data dies, 16 of each channel in turn -/
  banks   : Vector DBank 64 := Vector.replicate 64 {}
  /-- the training helper that runs on each channel: 1 = START, 2 = SWEEP (R381) -/
  helper  : Vector Nat 4 := Vector.replicate 4 0
  /-- the DRAM fill has been started (R378), and is in progress (R389) -/
  started : Bool := false
  filling : Bool := false
  /-- the row table of R394, with the corrected errors of each row -/
  rows    : List (DRow × Nat) := []
  /-- remaps granted whose copy is not made yet: CAM entry and row (R395) -/
  granted : List (Fin 64 × DRow) := []
  /-- pin errors of each channel in this lap (R385), and the cycle counter at the lap's start (R392) -/
  pins    : Vector Nat 4 := Vector.replicate 4 0
  lapAt   : Nat := 0
  /-- SRAM words with corrected errors in this SRAM lap: macro, word, errors (R396), and the cycle counter at its start -/
  words   : List (Nat × Nat × Nat) := []
  sramAt  : Nat := 0
  /-- the class of each macro an error has named (R396) -/
  classes : List (Nat × Nat) := []
  /-- remap words in use: macro, word replaced, class (R396) -/
  remaps  : List (Nat × Nat × Nat) := []
  /-- poisoned units of SRAM: class of R396, and unit within the class (R386, R388) -/
  bad     : List (Nat × Nat) := []
  deriving DecidableEq, Repr

/-- An operation of FLC (R403, R412). -/
inductive FlcOp where
  | program (word : Nat) (v : Word)
  | erase (sector : Nat)
  | inc (c : Fin 2)
  deriving DecidableEq, Repr

/-- FLC (R400 to R427) beside its registers. Sectors and words are physical: 1,024 words to a sector. -/
structure Flc where
  /-- words that are not erased -/
  words  : List (Nat × Word) := []
  /-- how often each word has been programmed since its sector's erase (R404) -/
  progs  : List (Nat × Nat) := []
  /-- undefined units (R404, R408): first word and number of words -/
  undef  : List (Nat × Nat) := []
  op     : Option FlcOp := none
  susp   : Option FlcOp := none
  /-- counter increments that wait (R425) -/
  incs   : List (Fin 2) := []
  /-- the running operation failed and AXL has been asked (R410); the spare it granted -/
  failed : Bool := false
  spare  : Option (Fin 64) := none
  deriving DecidableEq, Repr

/-- PWR (R520 to R535) beside its registers. -/
structure Pwr where
  /-- a reset is asserted and start-up has not run since; whether it is a power-on reset, which restarts at step 1 (R526) -/
  held  : Bool := true
  por   : Bool := true
  /-- a thermal reset holds until the die has cooled; the cycle counter at the last warning's ATTENTION (R525) -/
  therm : Bool := false
  warned : Option Nat := none
  /-- ATTENTION for PWR and BKP is owed once the module is numbered (R530) -/
  owed  : Bool := false
  /-- a SOFT write has been accepted, and its reset follows its CCPL (R528) -/
  soft  : Bool := false
  deriving DecidableEq, Repr

/-- The whole state. -/
structure State where
  /-- registers that differ from their reset word, by offset -/
  regs    : List (Nat × Word) := []
  /-- the high words latched for each reader (R540): reader × 2^24 + offset of the high word -/
  latch   : List (Nat × Word) := []
  /-- DRAM bytes that differ from 0 (R26, R389) -/
  dram    : List Host.Cell := []
  /-- poisoned lines of DRAM, by address div 64, rising (R386) -/
  psn     : List Nat := []
  ang     : Ang := {}
  acq     : Acq := {}
  det     : Vector Det 16 := Vector.replicate 16 {}
  dec     : Dec := {}
  rcv     : Rcv := {}
  disc    : Disc := {}
  wrp     : Wrp := {}
  srv     : Srv := {}
  lsv     : Vector Lsv 4 := Vector.replicate 4 {}
  spn     : Spn := {}
  sld     : Vector Sld 6 := Vector.replicate 6 {}
  hlk     : Hlk := {}
  tsk     : Tsk := {}
  seq     : Seq := {}
  mir     : Mir := {}
  axl     : Axl := {}
  cph     : Cph := {}
  lbs     : Lbs := {}
  mem     : Mem := {}
  flc     : Flc := {}
  pwr     : Pwr := {}
  /-- repair requests made to AXL and not yet decided (R477) -/
  axlReq  : List AxlReq := []
  /-- the answer to the test connector's last access (R544): status as in a CCPL (R296), and the word read -/
  tap     : Option (Nat × Word) := none
  /-- the model's own: how many free values have been drawn -/
  free    : Nat := 0
  /-- commands waiting, first in, first out -/
  pending : List Instr := []
  deriving DecidableEq, Repr

/-- The module right after reset. DESIGN CHOICE (log entry 9). -/
def State.reset : State := {}

end Sys2Proof.Machine
end

