-- ==== Sys2Proof/Machine/Ops.lean ====
section
/-! DEFINITION. The named operations over registers, fields, counters and memories, and the signals every block raises:
SEQ events (R358, R359), interrupt bits, EVENT flits (R330). -/

namespace Sys2Proof.Machine

/-! ## Sparse maps in canonical form -/

namespace Sparse

/-- The value at key `k`, `d` where nothing is listed. DESIGN CHOICE (log entry 10). -/
def get (d : α) (m : List (Nat × α)) (k : Nat) : α :=
  match m with
  | [] => d
  | (a, v) :: r => if a = k then v else get d r k

/-- Insert before the first greater key. -/
def ins (k : Nat) (v : α) : List (Nat × α) → List (Nat × α)
  | [] => [(k, v)]
  | (a, w) :: r => if k < a then (k, v) :: (a, w) :: r else (a, w) :: ins k v r

/-- Set key `k` to `v`: a value equal to the default leaves no entry. -/
def set [DecidableEq α] (d : α) (m : List (Nat × α)) (k : Nat) (v : α) : List (Nat × α) :=
  let m' := m.filter (fun p => p.1 ≠ k)
  if v = d then m' else ins k v m'

/-- Canonical form: keys strictly rising, no entry at the default. -/
def wf [DecidableEq α] (d : Nat → α) (m : List (Nat × α)) : Bool :=
  m.Pairwise (fun p q => p.1 < q.1) && m.all (fun p => p.2 ≠ d p.1)

end Sparse

/-! ## Registers and fields -/

/-- The word a register holds. -/
def State.reg (s : State) (a : Nat) : Word := Sparse.get (resetWord a) s.regs a

/-- Put a word into a register. -/
def State.setReg (s : State) (a : Nat) (w : Word) : State :=
  { s with regs := Sparse.set (resetWord a) s.regs a w }

/-- The bits of field `f` in word `w`. -/
def RegField.of (f : RegField) (w : Word) : Nat := w.toNat / 2 ^ f.lo % 2 ^ f.width

/-- Word `w` with field `f` set to `v`. -/
def RegField.put (f : RegField) (w : Word) (v : Nat) : Word :=
  BitVec.ofNat 32 (w.toNat - f.of w * 2 ^ f.lo + v % 2 ^ f.width * 2 ^ f.lo)

/-- The value of a field. -/
def State.rd (s : State) (f : RegField) : Nat := f.of (s.reg f.reg)

/-- Write a field. -/
def State.wr (s : State) (f : RegField) (v : Nat) : State := s.setReg f.reg (f.put (s.reg f.reg) v)

/-- A one-bit field, as a truth value. -/
def State.flag (s : State) (f : RegField) : Bool := s.rd f != 0

/-- Write a truth value to a one-bit field. -/
def State.put (s : State) (f : RegField) (b : Bool) : State := s.wr f b.toNat

/-- Count `n` more in a count register of 32 bits, which stops at all ones (R543). -/
def State.bumpBy (s : State) (a n : Nat) : State :=
  s.setReg a (BitVec.ofNat 32 (min (2 ^ 32 - 1) ((s.reg a).toNat + n)))

/-- Count one more (R543). -/
def State.bump (s : State) (a : Nat) : State := s.bumpBy a 1

/-- Count one more in a count field, which stops at all ones. -/
def State.bumpF (s : State) (f : RegField) : State := s.wr f (min (2 ^ f.width - 1) (s.rd f + 1))

/-- The value of a `_LO`, `_HI` pair with its low word at `a`. -/
def State.pair (s : State) (a : Nat) : Nat := (s.reg a).toNat + (s.reg (a + 4)).toNat * 2 ^ 32

/-- Write a pair. -/
def State.setPair (s : State) (a n : Nat) : State :=
  (s.setReg a (BitVec.ofNat 32 n)).setReg (a + 4) (BitVec.ofNat 32 (n / 2 ^ 32))

/-- Count `n` more in a pair, which wraps at 2^64 (R543). -/
def State.bump64 (s : State) (a n : Nat) : State := s.setPair a ((s.pair a + n) % 2 ^ 64)

/-- Set a register that is read as a signed word. -/
def State.setInt (s : State) (a : Nat) (v : Int) : State := s.setReg a (BitVec.ofInt 32 v)

/-- A register read as a signed word. -/
def State.int (s : State) (a : Nat) : Int := (s.reg a).toInt

/-! ## Lists and numbers -/

/-- Apply `f` to the elements of a list from the left, on the state. -/
def forEach (l : List α) (f : α → State → State) (s : State) : State := l.foldl (fun s a => f a s) s

/-- The signed value of `v` as a `w`-bit two's complement number. -/
def signed (w v : Nat) : Int := if v % 2 ^ w < 2 ^ (w - 1) then (v % 2 ^ w : Nat) else (v % 2 ^ w : Nat) - 2 ^ w

/-- A signed number as `w` bits. -/
def unsigned (w : Nat) (v : Int) : Nat := (v % 2 ^ w).toNat

/-- Big-endian number of a list of bytes. -/
def beNat (bs : List Byte) : Nat := bs.foldl (fun n b => n * 256 + b.toNat) 0

/-- `n` in `k` big-endian bytes. -/
def beBytes : Nat → Nat → List Byte
  | 0, _ => []
  | k + 1, n => beBytes k (n / 256) ++ [BitVec.ofNat 8 n]

/-- Bytes `i` to `i + k − 1`, zero past the end. -/
def bytesAt (bs : List Byte) (i k : Nat) : List Byte := (List.range k).map (fun j => bs.getD (i + j) 0)

/-- The number in `k` big-endian bytes from byte `i`. -/
def beAt (bs : List Byte) (i k : Nat) : Nat := beNat (bytesAt bs i k)

/-! ## DRAM bytes -/

/-- One byte of DRAM. DESIGN CHOICE (log entry 10). -/
def State.dramByte (s : State) (a : Nat) : Byte := Sparse.get 0 s.dram a

/-- Store one byte of DRAM; nothing lies past 16 GiB (R26). -/
def State.setDram (s : State) (a : Nat) (b : Byte) : State :=
  if a < 2 ^ 34 then { s with dram := Sparse.set 0 s.dram a b } else s

/-- Store bytes from address `a` up. -/
def State.setDramBytes (s : State) (a : Nat) : List Byte → State
  | [] => s
  | b :: r => (s.setDram a b).setDramBytes (a + 1) r

/-- Read `n` bytes of DRAM from address `a`. -/
def State.dramBytes (s : State) (a n : Nat) : List Byte := (List.range n).map (fun i => s.dramByte (a + i))

/-! ## Ownership and enables -/

/-- The module holds ownership (R459). -/
def State.owned (s : State) : Bool := s.flag F.MIR_STAT_OWNED

/-- The stage enable is on (R248). -/
def State.stageOn (s : State) : Bool := s.flag F.PWR_STAT_STGEN

/-- The motor bridges switch: stage enable on and ownership held (R249). -/
def State.bridges (s : State) : Bool := s.stageOn && s.owned

/-- Bring a value toward another by at most `d`. -/
def toward (a b d : Int) : Int := max (a - d) (min (a + d) b)

/-- The 800 MHz cycle counter of PMC (R327, R333). -/
def State.cycles (s : State) : Nat := s.pair Reg.PMC_CYC_LO

/-- Draw the next free value: a value nothing in the spec fixes. DESIGN CHOICE (log entry 3). -/
def State.draw (s : State) : Word × State := (Config.free s.free, { s with free := s.free + 1 })

/-- Move the cycle counter on by the unstated number of cycles since it was last looked at: no command states how long the
module has run. DESIGN CHOICE (log entry 7). -/
def State.clock (s : State) : State :=
  let (a, s) := s.draw
  let (b, s) := s.draw
  s.bump64 Reg.PMC_CYC_LO (a.toNat + b.toNat * 2 ^ 32)

/-- The same for the 48-bit backup tick (R447). DESIGN CHOICE (log entry 7). -/
def State.tick (s : State) : State :=
  let (a, s) := s.draw
  let (b, s) := s.draw
  s.setPair Reg.BKP_TICK_LO ((s.pair Reg.BKP_TICK_LO + a.toNat + b.toNat * 2 ^ 32) % 2 ^ 48)

/-! ## SEQ events -/

/-- Event `n` is pending (R358, R359): event 32 while the SEQ_EVENT queue is not empty. -/
def State.evPending (s : State) (n : Nat) : Bool :=
  if n = 32 then !s.seq.queue.isEmpty else (s.reg (Reg.SEQ_EVT_PEND (n / 32))).getLsbD (n % 32)

/-- Raise event `n`: set its pending bit, or merge and count (R358). -/
def State.event (s : State) (n : Nat) : State :=
  if s.evPending n then s.bump Reg.SEQ_EVT_MERGE_CNT
  else
    let a := Reg.SEQ_EVT_PEND (n / 32)
    s.setReg a (s.reg a ||| BitVec.ofNat 32 (2 ^ (n % 32)))

/-- Clear event `n`'s pending bit. -/
def State.evClear (s : State) (n : Nat) : State :=
  let a := Reg.SEQ_EVT_PEND (n / 32)
  s.setReg a (s.reg a &&& ~~~BitVec.ofNat 32 (2 ^ (n % 32)))

/-- A SEQ_EVENT firing enters the queue, or is lost when it is full (R359). -/
def State.seqFire (s : State) (arg : BitVec 16) : State :=
  if s.seq.queue.length < 64 then { s with seq := { s.seq with queue := s.seq.queue ++ [arg] } }
  else s.put F.SEQ_STAT_EVOVF true

namespace Ev
abbrev taskGo : Nat := 0
abbrev angleCancel : Nat := 1
abbrev loopDone (h : Nat) : Nat := 2 + h
abbrev spnDone : Nat := 6
abbrev sldDone (n : Nat) : Nat := 7 + n
abbrev blockEnd : Nat := 13
abbrev vfyFail : Nat := 14
abbrev rplDone : Nat := 15
abbrev rplExhaust : Nat := 16
abbrev dmaDone : Nat := 17
abbrev dmaErr : Nat := 18
abbrev linkDown : Nat := 19
abbrev axlRepair : Nat := 20
abbrev axlFault : Nat := 21
abbrev mirState : Nat := 22
abbrev ownChange : Nat := 23
abbrev zlReady : Nat := 24
abbrev cphDone : Nat := 25
abbrev flcDone : Nat := 26
abbrev lbsMsg : Nat := 27
abbrev timer : Nat := 28
abbrev stageErr : Nat := 29
end Ev

/-! ## Flits leaving the module -/

/-- The index of a port: A, B, M. -/
def portIdx : Port → Fin 3
  | .A => 0
  | .B => 1
  | .M => 2

/-- Whether a flit type is sequenced, and in class C (R294). -/
def flitSequenced (t : Nat) : Bool := 2 ≤ t && t ≤ 13
def flitClassC (t : Nat) : Bool := t = 2 || t = 3 || t = 4 || (8 ≤ t && t ≤ 12)

/-- The port's structure. -/
def State.port (s : State) (p : Fin 3) : HlkPort := s.hlk.ports[p]

/-- Change the port's structure. -/
def State.modPort (s : State) (p : Fin 3) (f : HlkPort → HlkPort) : State :=
  { s with hlk := { s.hlk with ports := s.hlk.ports.set p (f s.hlk.ports[p]) } }

/-- CRC-32 of bytes, reflected, preset and inverted (R51). PRESUMED (log entry 27). -/
def crc32 (bs : List Byte) : Nat :=
  let step (c : Nat) : Nat := if c % 2 = 1 then Nat.xor (c / 2) 0xEDB88320 else c / 2
  let f (c : Nat) (b : Byte) : Nat := (List.range 8).foldl (fun c _ => step c) (Nat.xor c b.toNat)
  Nat.xor (bs.foldl f 0xFFFFFFFF) 0xFFFFFFFF

/-- Header bits [63:32] of a flit on the line (R293), as bytes. -/
def Flit.head (f : Flit) (seq : Nat) : List Byte :=
  beBytes 4 (f.typ * 2 ^ 28 + f.hb.toNat * 2 ^ 27 + f.dst % 64 * 2 ^ 21 + f.src % 64 * 2 ^ 15 + f.tag % 128 * 2 ^ 8 + seq)

/-- A CCPL of the module's own takes its CRC-32 over the header and bytes 0 to 115 (R295). -/
def Flit.sealed (f : Flit) (seq : Nat) : Flit :=
  if f.typ = 3 ∧ f.bytes.length = 116 then { f with bytes := f.bytes ++ beBytes 4 (crc32 (f.head seq ++ f.bytes)) } else f

/-- A flit leaves a receive buffer: its place is a credit to return there (R301). -/
def State.creditBack (s : State) (f : Flit) : State :=
  match f.owes with
  | none => s
  | some p => s.modPort p (fun q => if flitClassC f.typ then { q with retC := q.retC + 1 } else { q with retD := q.retD + 1 })

/-- Put the sequenced flit `f` on the line of port `p` with the next sequence number, against the credit count `cred`; it
stays in the replay buffer (R294, R301, R302). -/
def State.launch (s : State) (p : Fin 3) (cred : RegField) (f : Flit) : State :=
  let q := s.port p
  let s := s.creditBack f
  let f := { f.sealed q.txSeq with through := false, behind := 0, owes := none }
  let s := s.modPort p (fun q => { q with unack := q.unack ++ [(q.txSeq, f)], line := q.line ++ [(q.txSeq, f)] })
  let s := s.modPort p (fun q => { q with txSeq := (q.txSeq + 1) % 256 })
  let s := s.wr cred (s.rd cred - 1)
  let s := s.wr (F.HLK_P_STAT_UNACK p) (q.unack.length + 1)
  s.bump64 (Reg.HLK_P_TX_CNT_LO p) 1

/-- Which flit of a class goes next (R300, R305): one that overtakes nothing it must follow; between the module's own and through
traffic, one of its own for every `thru` through flits, of which `passed` have gone. -/
def pickFlit (passed thru : Nat) (l : List Flit) : Option Nat :=
  let own := l.findIdx? (fun f => !f.through && decide (f.behind = 0))
  let pass := l.findIdx? (fun f => f.through && decide (f.behind = 0))
  match own, pass with
  | some i, some j => some (if passed ≥ thru then i else j)
  | some i, none => some i
  | none, r => r

/-- Two flits at a port come from one source: both are the module's own, or both through traffic of one sender (R300). -/
def Flit.sameSource (f g : Flit) : Bool := f.through == g.through && (!f.through || (f.hb == g.hb && decide (f.src = g.src)))

/-- The through count after a flit of the queue `l` goes, which is through traffic or not. -/
def passedNext (passed : Nat) (thr : Bool) (l : List Flit) : Nat :=
  if thr && l.any (fun f => f.through) && l.any (fun f => !f.through) then passed + 1 else 0

/-- Take flit `i` of a class out of the queues: the through count of its class, and what waited behind it. -/
def HlkPort.taken (q : HlkPort) (classC : Bool) (i : Nat) : HlkPort :=
  if classC then { q with qc := q.qc.eraseIdx i, passC := passedNext q.passC (q.qc.getD i { typ := 0 }).through q.qc }
  else
    let g := q.qd.getD i { typ := 0 }
    { q with
      qd := q.qd.eraseIdx i, passD := passedNext q.passD g.through q.qd
      qc := q.qc.map (fun f => if f.sameSource g then { f with behind := f.behind - 1 } else f) }

/-- Send what waits at a port: class C ahead of class D (R301), each sequenced flit against a credit of its class and with
at most 128 unacknowledged (R302). The fuel is the number of flits waiting. -/
def State.pump (p : Fin 3) : Nat → State → State
  | 0, s => s
  | fuel + 1, s =>
    let q := s.port p
    let next (cred : RegField) (passed : Nat) (l : List Flit) : Option Nat :=
      if 0 < s.rd cred then pickFlit passed (s.rd F.HLK_ARB_THRU) l else none
    if q.unack.length < 128 && s.flag (F.HLK_P_STAT_UP p) && q.swap.isNone then
      match next (F.HLK_P_CRED_C p) q.passC q.qc, next (F.HLK_P_CRED_D p) q.passD q.qd with
      | some i, _ =>
        State.pump p fuel ((s.modPort p (·.taken true i)).launch p (F.HLK_P_CRED_C p) (q.qc.getD i { typ := 0 }))
      | none, some j =>
        State.pump p fuel ((s.modPort p (·.taken false j)).launch p (F.HLK_P_CRED_D p) (q.qd.getD j { typ := 0 }))
      | none, none => s
    else s

/-- A flit takes its place at a port. An EVENT and a FLUSH stay behind the writes of their source (R300). -/
def HlkPort.queued (q : HlkPort) (f : Flit) : HlkPort :=
  let follows := f.typ = 8 ∨ f.typ = 0xA
  let f := { f with behind := if follows then (q.qd.filter (fun g => f.sameSource g)).length else 0 }
  if flitClassC f.typ then { q with qc := q.qc ++ [f] } else { q with qd := q.qd ++ [f] }

/-- Queue a flit at a port and send what can be sent. LINK and IDLE flits go straight to the line. -/
def State.sendFlit (s : State) (p : Fin 3) (f : Flit) : State :=
  if flitSequenced f.typ then
    let s := s.modPort p (·.queued f)
    s.pump p ((s.port p).qc.length + (s.port p).qd.length)
  else (s.modPort p (fun q => { q with line := q.line ++ [(0, f)] })).bump64 (Reg.HLK_P_TX_CNT_LO p) 1

/-- The module's hop ID, 0 when it has none (R298). -/
def State.hop (s : State) : Nat := if s.flag F.HLK_ID_VALID then s.rd F.HLK_ID_HOP else 0

/-! ## Mirroring to the partner -/

/-- SUPOK: the conditions of R461. -/
def State.supOk (s : State) : Bool :=
  s.mir.copies && s.mir.timely && decide (1 ≤ s.rd F.SRV_LANES_ACTIVE) && !s.flag F.SEQ_STAT_DFAULT &&
  s.flag F.MIR_CTRL_EN && !s.mir.giving

/-- The extended angle is valid (R67): the VALID bit kept in `ANG_NOW_HI`. -/
def State.angValid (s : State) : Bool := (s.reg Reg.ANG_NOW_HI).getLsbD 31

/-- ARMED: the module may claim (R462). -/
def State.armed (s : State) : Bool :=
  s.flag F.MIR_CTRL_TAKE_EN && s.supOk && s.flag F.SEQ_MODE_TASK && (!s.flag F.MIR_CTRL_PAIR || s.spn.still || s.angValid) &&
  decide (s.rd F.MIR_STAT_ROLE ≠ 3)

/-- The STATUS field of a MIRR flit (R464). -/
def State.mirStatus (s : State) : Nat :=
  s.rd F.MIR_STAT_ROLE + s.owned.toNat * 4 + s.mir.giving.toNat * 8 + s.supOk.toNat * 16 + s.armed.toNat * 32
    + (s.flag F.MIR_STAT_DEG).toNat * 64

/-- Send one MIRR flit on port M (R464): KIND, SEQ, STATUS and what follows from byte 8. Nothing is sent while mirroring is off or
port M is down, after a release, or once the supervisor's copies disagree (R461). -/
def State.mirrSend (s : State) (kind : Nat) (body : List Byte) : State :=
  if s.flag F.MIR_CTRL_EN && s.flag (F.HLK_P_STAT_UP 2) && s.mir.copies && !s.mir.quiet then
    let seq := (s.reg Reg.SRV_SAMPLE_CNT_LO).toNat
    let head := beBytes 1 kind ++ [0] ++ beBytes 4 seq ++ beBytes 2 s.mirStatus
    (s.setReg Reg.MIR_TX_SEQ (BitVec.ofNat 32 seq)).sendFlit 2
      { typ := 0xD, hb := true, src := s.hop, bytes := head ++ body ++ List.replicate (112 - body.length) 0 }
  else s

/-- A record of R466, sent by the primary. -/
def State.mirrRecord (s : State) (kind : Nat) (body : List Byte) : State :=
  if s.rd F.MIR_STAT_ROLE = 1 then (s.mirrSend kind body).bump Reg.MIR_TX_CNT else s

/-- A word of `TSK_READY` (R340): ready bits of 32 zone-layers. -/
def State.readyWord (s : State) (k : Nat) : Nat :=
  ((List.range 32).filter (fun i => s.disc.ready.toList.getD (32 * k + i) false)).foldl (fun m i => m + 2 ^ i) 0

/-- The DISC record (R466): LOADED in byte 8, WGEN in bytes 10 and 11, then the ten words of ready bits. -/
def State.mirrDisc (s : State) : State :=
  s.mirrRecord 0x11 (beBytes 1 (s.flag F.TSK_DISC_LOADED).toNat ++ [0] ++ beBytes 2 (s.rd F.TSK_DISC_WGEN)
    ++ (List.range 10).flatMap (fun k => beBytes 4 (s.readyWord k)))

/-- The port of the end that `HLK_ARB.ROUTE` names for an LBA (R305). -/
def State.routePort (s : State) (lba : Nat) : Fin 3 :=
  match s.rd F.HLK_ARB_ROUTE with
  | 0 => 0
  | 1 => 1
  | _ => if lba % 2 = 0 then 0 else 1

/-- Send an EVENT flit on a port: CODE, ARG and the next event sequence number (R330). -/
def State.eventFlit (s : State) (p : Fin 3) (code : Nat) (arg : Nat) : State :=
  let n := (s.reg Reg.TSK_EVT_SEQ).toNat + 1
  let s := s.setReg Reg.TSK_EVT_SEQ (BitVec.ofNat 32 n)
  s.sendFlit p { typ := 8, hb := true, src := s.hop,
                 bytes := beBytes 2 code ++ beBytes 2 0 ++ beBytes 8 arg ++ beBytes 4 n }

/-- Send ATTENTION for the block at base `blk` × 0x1_0000, while enabled (R330). -/
def State.attention (s : State) (blk : Nat) : State :=
  if s.flag F.TSK_CTRL_EV_ATT then s.eventFlit (s.routePort 0) 0x10 blk else s

/-! ## A stopped start-up (R530) -/

/-- Start-up stops for a cause: the ports train in hardware, and ATTENTION for PWR and BKP goes out once the module is numbered. -/
def State.startStop (s : State) (cause : Nat) : State :=
  if s.flag F.PWR_START_DONE || s.flag F.PWR_START_STOPPED then s
  else
    let s := (s.put F.PWR_START_STOPPED true).wr F.PWR_START_CAUSE cause
    let s := [0, 1, 2].foldl (fun (s : State) (p : Fin 3) =>
      if p = 2 ∧ s.flag F.MIR_CTRL_PAIR = false then s else s.put (F.HLK_P_CTRL_EN p) true) s
    if s.flag F.HLK_ID_VALID then s.attention 1 else { s with pwr := { s.pwr with owed := true } }

/-! ## Performance counters (R510 to R513) -/

/-- The value of counter `k`: 48 bits. -/
def State.pmcValue (s : State) (k : Nat) : Nat := (s.reg (Reg.PMC_CNT_LO k)).toNat + (s.reg (Reg.PMC_CNT_HI k)).toNat % 2 ^ 16 * 2 ^ 32

/-- Counter `k` chains an overflow of counter `k − 1` (R513). -/
def State.pmcChained (s : State) (k : Nat) : Bool := decide (k + 1 < 8) && s.flag (F.PMC_SEL_CHAIN (k + 1))

/-- An overflow that no counter chains froze every counter (R513). -/
def State.pmcFrozen (s : State) : Bool :=
  s.flag F.PMC_CTRL_FRZOVF && (List.range 8).any (fun k => (s.rd F.PMC_OVF_OVF).testBit k && !s.pmcChained k)

/-- Counter `k` counts. -/
def State.pmcRuns (s : State) (k : Nat) : Bool :=
  s.flag F.PMC_CTRL_EN && decide (s.rd (F.PMC_SEL_MODE k) ≠ 0) && !s.pmcFrozen

/-- Counter `k` adds `n`; an overflow carries into a counter that chains it (R513). The fuel is the number of counters. -/
def State.pmcAdd : Nat → Nat → Nat → State → State
  | 0, _, _, s => s
  | fuel + 1, k, n, s =>
    let v := s.pmcValue k + n
    let s := s.setReg (Reg.PMC_CNT_LO k) (BitVec.ofNat 32 v)
    let s := s.setReg (Reg.PMC_CNT_HI k) (BitVec.ofNat 32 (v / 2 ^ 32 % 2 ^ 16))
    if v < 2 ^ 48 then s
    else
      let s := s.wr F.PMC_OVF_OVF (s.rd F.PMC_OVF_OVF ||| 2 ^ k)
      if s.pmcChained k then (if s.rd (F.PMC_SEL_MODE (k + 1)) ≠ 0 then State.pmcAdd fuel (k + 1) 1 s else s)
      else if s.flag F.PMC_CTRL_OVF_ATT then s.attention 23 else s

/-- The counters that a test selects add `n`. -/
def State.pmcCount (s : State) (sel : Nat → Bool) (n : Nat) : State :=
  forEach (List.range 8) (fun k s => if sel k && s.pmcRuns k && !s.flag (F.PMC_SEL_CHAIN k) then State.pmcAdd 8 k n s else s) s

/-- An event's address lies in the window (R511): `some (false, a)` is a register offset, `some (true, a)` a DRAM address. -/
def State.pmcInWin (s : State) (addr : Option (Bool × Nat)) : Bool :=
  match addr with
  | none => false
  | some (dram, a) =>
    let base := s.reg Reg.PMC_WIN_BASE
    let lim := s.reg Reg.PMC_WIN_LIM
    if dram then base.getLsbD 31 && decide (base.toNat % 2 ^ 22 ≤ a / 4096) && decide (a / 4096 ≤ lim.toNat % 2 ^ 22)
    else !base.getLsbD 31 && decide (base.toNat % 2 ^ 24 ≤ a) && decide (a ≤ lim.toNat % 2 ^ 24)

/-- `n` events of a class (R511): master ID, whether its privilege is custodian where it has one, and address. -/
def State.pmcEvent (s : State) (cls master : Nat) (cust : Option Bool) (addr : Option (Bool × Nat)) (n : Nat := 1) : State :=
  s.pmcCount (fun k => decide (s.rd (F.PMC_SEL_MODE k) = 1) && decide (s.rd (F.PMC_SEL_CLASS k) = cls) &&
    (s.rd (F.PMC_FILT_MMASK k)).testBit master &&
    (match s.rd (F.PMC_FILT_PRIV k), cust with
     | 0, _ => true
     | 1, some c => !c
     | 2, some c => c
     | _, _ => false) &&
    (!s.flag (F.PMC_FILT_WIN_EN k) || s.pmcInWin addr)) n

/-- `n` cycles of DEC lane `l` in class `cls` (R138, R511). -/
def State.pmcLane (s : State) (cls l n : Nat) : State :=
  s.pmcCount (fun k => decide (s.rd (F.PMC_SEL_MODE k) = 1) && decide (s.rd (F.PMC_SEL_CLASS k) = cls) &&
    (s.rd (F.PMC_FILT_MMASK k)).testBit 3 && decide (s.rd (F.PMC_FILT_PRIV k) = 0) && !s.flag (F.PMC_FILT_WIN_EN k) &&
    (decide (s.rd (F.PMC_SEL_SIGNAL k) % 32 = l) || decide (s.rd (F.PMC_SEL_SIGNAL k) % 32 = 31))) n

/-- Internal signal `sig` rises (R512). -/
def State.pmcEdge (s : State) (sig : Nat) : State :=
  s.pmcCount (fun k => decide (s.rd (F.PMC_SEL_MODE k) = 2) && decide (s.rd (F.PMC_SEL_SIGNAL k) = sig)) 1

/-- The signal rises when it was 0 and is 1. -/
def State.pmcRise (s : State) (sig : Nat) (was is_ : Bool) : State := if !was && is_ then s.pmcEdge sig else s

/-! ## Lines of DRAM: banks and poison (R377, R379, R386) -/

/-- The line of an address is poisoned. -/
def State.linePoisoned (s : State) (a : Nat) : Bool := s.psn.contains (a / 64)

/-- A line of `n` bytes from `a` is poisoned. -/
def State.anyPoisoned (s : State) (a n : Nat) : Bool := s.psn.any (fun l => decide (a < 64 * l + 64) && decide (64 * l < a + n))

/-- Insert in rising order. -/
def insNat (k : Nat) : List Nat → List Nat
  | [] => [k]
  | a :: r => if k < a then k :: a :: r else if k = a then a :: r else a :: insNat k r

/-- Mark the line of an address poisoned (R386); the mark is counted. -/
def State.poisonLine (s : State) (a : Nat) : State := ({ s with psn := insNat (a / 64) s.psn }).bump Reg.MIC_D_PSN_CNT

/-- Poison of `n` bytes from `a` is consumed (R387). -/
def State.consumePoison (s : State) (a : Nat) (master : Nat) (cust : Option Bool := none) : State :=
  (s.bump Reg.MIC_D_CONS_CNT).pmcEvent 7 master cust (some (true, a))

/-- Unit `u` of an SRAM class of R396 is poisoned (R386). A unit is what the class holds: a control-store word, an 8-byte word of data
SRAM or of the sealed buffer, four dispatch entries, a sample buffer slot. -/
def State.sramBad (s : State) (cls u : Nat) : Bool := s.mem.bad.contains (cls, u)

/-- Mark a unit, and clear its mark as a write of the whole unit does (R387). -/
def State.markSram (s : State) (cls u : Nat) : State :=
  if s.sramBad cls u then s else { s with mem := { s.mem with bad := s.mem.bad ++ [(cls, u)] } }
def State.clearSram (s : State) (cls u : Nat) : State := { s with mem := { s.mem with bad := s.mem.bad.filter (fun p => p ≠ (cls, u)) } }

/-- Poison of an SRAM unit is consumed (R387). -/
def State.consumeSram (s : State) (master : Nat) (cust : Option Bool := none) : State :=
  (s.bump Reg.MIC_S_CONS_CNT).pmcEvent 7 master cust none

/-- Full-line writes clear poison (R387). -/
def State.clearPoison (s : State) (a n : Nat) : State :=
  { s with psn := s.psn.filter (fun l => decide (64 * l < a) || decide (a + n < 64 * l + 64)) }

/-- The data-die row of an address, and the check-die row of its line (R377). -/
def State.chAddr (s : State) (a : Nat) : Nat :=
  let g := 8 + s.rd F.DMC_ILV_GRAIN
  a / 2 ^ (g + 2) * 2 ^ g + a % 2 ^ g
def State.dramCh (s : State) (a : Nat) : Fin 4 := Fin.ofNat 4 (a / 2 ^ (8 + s.rd F.DMC_ILV_GRAIN))
def State.dataRow (s : State) (a : Nat) : DRow :=
  let c := s.chAddr a
  { ch := s.dramCh a, check := false, bank := Fin.ofNat 16 (c / 2 ^ 11), row := c / 2 ^ 15 % 2 ^ 17 }
def State.checkRow (s : State) (a : Nat) : DRow :=
  let k := s.chAddr a / 256 * 32
  { ch := s.dramCh a, check := true, bank := Fin.ofNat 16 (k / 2 ^ 11), row := k / 2 ^ 15 % 2 ^ 14 }

/-- The number of a channel's bank. -/
def bankNo (ch : Fin 4) (bank : Fin 16) : Fin 64 := ⟨16 * ch.val + bank.val, by omega⟩

/-- One access to the line of an address (R379): a history bit, and the row is kept or closed; the counts of R398. -/
def State.touch (s : State) (a : Nat) (write : Bool) (master : Nat) (cust : Option Bool := none) : State :=
  let r := s.dataRow a
  let i := bankNo r.ch r.bank
  let b := s.mem.banks[i]
  let same := decide (b.last = some r.row)
  let hist : BitVec 4 := b.hist <<< 1 ||| BitVec.ofNat 4 same.toNat
  let keep := (s.reg Reg.DMC_PGPRED).getLsbD hist.toNat
  let s := s.bump (if b.opened && same then Reg.DMC_CH_HIT_CNT r.ch else Reg.DMC_CH_ACT_CNT r.ch)
  let s := s.bump (if keep then Reg.DMC_PG_KEEP_CNT r.ch else Reg.DMC_PG_CLOSE_CNT r.ch)
  let s := { s with mem := { s.mem with banks := s.mem.banks.set i { hist := hist, last := some r.row, opened := keep } } }
  (s.bump64 (if write then Reg.DMC_WR_CNT_LO else Reg.DMC_RD_CNT_LO) 1).pmcEvent (if write then 5 else 4) master cust (some (true, a))

/-- Accesses to the lines of `n` bytes from `a`. -/
def State.touchLines (s : State) (a n : Nat) (write : Bool) (master : Nat) : State :=
  forEach (List.range ((a + n + 63) / 64 - a / 64)) (fun k s => s.touch ((a / 64 + k) * 64) write master) s

/-- A master stores bytes from address `a` up (R387). -/
def State.storeBytes (s : State) (a : Nat) (bs : List Byte) (master : Nat) : State :=
  ((s.setDramBytes a bs).clearPoison a bs.length).touchLines a bs.length true master

/-! ## Repair requests -/

/-- Ask AXL for a repair (R477). -/
def State.axlAsk (s : State) (kind unit element cause : Nat) : State :=
  { s with axlReq := s.axlReq ++ [⟨Fin.ofNat 64 kind, Fin.ofNat 1024 unit, Fin.ofNat 16777216 element, Fin.ofNat 16 cause⟩] }

end Sys2Proof.Machine
end

