-- ==== Sys2Proof/Machine/Disc.lean ====
section
/-! DEFINITION. The Silxo disc as the module sees it (R28 to R54): zones, the mapping from LBA to place, spare slots, the
header and address words with their CRC, the scrambler, and the CRC-32 of records. -/

namespace Sys2Proof.Machine

/-! ## Zones and places -/

/-- Blocks per revolution of zone `z` (R31). -/
def bpr (z : Nat) : Nat :=
  [11, 12, 13, 14, 15, 16, 17, 18, 19, 19, 20, 21, 22, 23, 24, 25, 26, 27, 28, 29].getD z 0

/-- First block of zone `z` within a layer (R36). -/
def zstart (z : Nat) : Nat :=
  [0, 57156, 120276, 188656, 262296, 341196, 425356, 514776, 609456, 709396, 809336, 914536, 1024996, 1140716, 1261696,
   1387936, 1519436, 1656196, 1798216, 1945496].getD z 0

/-- An LBA's layer, and its block within the layer (R36). -/
def lbaLayer (lba : Nat) : Nat := lba / 2 ^ 21
def lbaBlk (lba : Nat) : Nat := lba % 2 ^ 21

/-- The zone of a block within a layer: the largest with `zstart` not above it (R36). -/
def blkZone (blk : Nat) : Nat := ((List.range 20).filter (fun z => zstart z ≤ blk)).length - 1

/-- Where an LBA's home slot lies (R36). -/
def lbaZone (lba : Nat) : Nat := blkZone (lbaBlk lba)
def lbaOff (lba : Nat) : Nat := lbaBlk lba - zstart (lbaZone lba)
def lbaBand (lba : Nat) : Nat :=
  1500 * lbaZone lba + lbaOff lba / (4 * bpr (lbaZone lba)) + if lbaZone lba = 0 then 16 else 0
def lbaSlot (lba : Nat) : Nat := lbaOff lba % (4 * bpr (lbaZone lba)) / 4
def lbaTrack (lba : Nat) : Nat := lbaOff lba % (4 * bpr (lbaZone lba)) % 4

/-- The zone-layer of an LBA, layer × 20 + zone (R20, R340). -/
def lbaZL (lba : Nat) : Nat := lbaLayer lba * 20 + lbaZone lba

/-- Spare slots of a zone-layer (R35). -/
def spares (zl : Nat) : Nat := 740 * bpr (zl % 20)

/-- Band, slot and track of spare index `i` of a zone-layer (R35). -/
def spareBand (zl i : Nat) : Nat := 1500 * (zl % 20) + 1315 + i / (4 * bpr (zl % 20))
def spareSlot (zl i : Nat) : Nat := i % (4 * bpr (zl % 20)) / 4
def spareTrack (i : Nat) : Nat := i % 4

/-- The zone of a band from 0 to 29,999, none for a guard band (R30, R47). -/
def bandZone (band : Int) : Option Nat := if 0 ≤ band ∧ band < 30000 then some (band.toNat / 1500) else none

/-- A BAND field as a signed band number: 32,704 and above are the inner guard bands (R59). -/
def bandSigned (b : Nat) : Int := if b ≥ 32704 then (b : Int) - 32768 else b

/-- The disc side of a head (R3): 0 for layers 0 to 7. -/
def headSide (h : Nat) : Nat := h % 2

/-- The head of beam `b`, and the beam of head `h` on track `d` (R4). -/
def beamHead (b : Beam) : Head := ⟨b.val / 4, by omega⟩
def headBeam (h : Head) (d : Nat) : Beam := ⟨4 * h.val + d % 4, by omega⟩

/-- The sled of a head, and the two heads of a sled (R3). -/
def headSled (h : Head) : Sled := ⟨h.val / 2, by omega⟩
def sledHead (s : Sled) (side : Nat) : Head := ⟨2 * s.val + side % 2, by omega⟩

/-- The driver channels of a head: emitter S and data emitter of beam `b` (R4). -/
def sChan (h : Head) : Chan := ⟨5 * h.val, by omega⟩
def beamChan (b : Beam) : Chan := ⟨5 * (b.val / 4) + 1 + b.val % 4, by omega⟩
def chanHead (c : Chan) : Head := ⟨c.val / 5, by omega⟩
def chanBeam (c : Chan) : Beam := ⟨4 * (c.val / 5) + (c.val % 5 - 1) % 4, by omega⟩

/-! ## CRCs and the scrambler -/

/-- One step of the CRC-16 register, generator 0x1021 (R39). -/
def crc16Step (c : Nat) (bit : Bool) : Nat :=
  let top := (c / 0x8000 % 2 = 1) != bit
  Nat.xor (c * 2 % 0x10000) (if top then 0x1021 else 0)

/-- CRC-16 of bits [hi:lo] of `w`, fed from the highest down, register preset to 0xFFFF (R39). -/
def crc16 (w hi lo : Nat) : Nat :=
  (List.range (hi + 1 - lo)).foldl (fun c i => crc16Step c (w.testBit (hi - i))) 0xFFFF

/-- The header fields of R38. -/
def hdrHVER (w : Dword) : Nat := w.toNat / 2 ^ 60
def hdrREPL (w : Dword) : Bool := w.getLsbD 59
def hdrMGMT (w : Dword) : Bool := w.getLsbD 58
def hdrLBA (w : Dword) : Nat := w.toNat / 2 ^ 33 % 2 ^ 25
def hdrWGEN (w : Dword) : Nat := w.toNat / 2 ^ 17 % 2 ^ 16

/-- A header word, or an address word, whose low 16 bits are the CRC-16 of bits [63:16] (R38, R46). -/
def crcGood (w : Dword) : Bool := crc16 w.toNat 63 16 = w.toNat % 2 ^ 16

/-- The header word of a block (R38). -/
def mkHeader (hver : Nat) (repl mgmt : Bool) (lba wgen : Nat) : Dword :=
  let w := hver * 2 ^ 60 + repl.toNat * 2 ^ 59 + mgmt.toNat * 2 ^ 58 + lba % 2 ^ 25 * 2 ^ 33 + wgen % 2 ^ 16 * 2 ^ 17
  BitVec.ofNat 64 (w + crc16 w 63 16)

/-- The address-word fields of R46. -/
def adrLAYER (w : Dword) : Nat := w.toNat / 2 ^ 60
def adrBAND (w : Dword) : Int := bandSigned (w.toNat / 2 ^ 45 % 2 ^ 15)
def adrFRAME (w : Dword) : Nat := w.toNat / 2 ^ 32 % 2 ^ 13
def adrZONE (w : Dword) : Nat := w.toNat / 2 ^ 27 % 2 ^ 5

/-- The scrambler's seed for an LBA field (R41). -/
def scramSeed (lba : Nat) : Nat :=
  let x := Nat.xor (lba % 2 ^ 23) 0x3A6C51
  if x = 0 then 1 else x

/-- One output of the scrambler and its next register (R41). -/
def scramStep (st : Nat) : Bool × Nat :=
  (st.testBit 22, (st * 2 + ((st.testBit 22) != (st.testBit 17)).toNat) % 2 ^ 23)

/-- Eight outputs of the scrambler, msb first, and its next register. -/
def scramByte (st : Nat) : Nat × Nat :=
  (List.range 8).foldl (fun p _ => let (o, n) := scramStep p.2; (p.1 * 2 + o.toNat, n)) (0, st)

/-- Scramble, or descramble, bytes from a register state (R41). -/
def scramble (st : Nat) : List Byte → List Byte
  | [] => []
  | b :: r => let (o, n) := scramByte st; (b ^^^ BitVec.ofNat 8 o) :: scramble n r

/-- The scrambler's register after `n` bytes. -/
def scramSkip (st : Nat) : Nat → Nat
  | 0 => st
  | n + 1 => scramSkip (scramByte st).2 n

/-! ## Replacement entries and records -/

/-- The word of a replacement entry (R50). -/
def entryDword (e : RplEntry) : Nat := e.lba * 2 ^ 39 + e.spare * 2 ^ 24 + e.wgen * 2 ^ 8

/-- An entry block: up to 4,096 entries, msb first; unused ones are all ones (R50). -/
def entryBlock (es : List RplEntry) : List Byte :=
  es.flatMap (fun e => beBytes 8 (entryDword e)) ++ List.replicate (32768 - 8 * es.length) 0xFF

/-- A disc record (R51): its sequence number, the disc identity, WGEN, whether CLOSE_SESSION wrote it, the replacement entries on
the disc, the next free spare indices and the entries recorded in each layer. -/
def discRecord (seq : Nat) (identity : List Byte) (wgen : Nat) (close : Bool) (total : Nat) (next : List Nat)
    (recorded : List Nat) : List Byte :=
  let body := beBytes 8 0x534C584D47524543 ++ beBytes 2 1 ++ [0, 0] ++ beBytes 4 seq ++ bytesAt identity 0 16 ++ beBytes 2 wgen ++
    beBytes 2 close.toNat ++ beBytes 4 total ++ next.flatMap (beBytes 2) ++ recorded.flatMap (beBytes 4)
  let bs := body ++ List.replicate (32764 - body.length) 0
  bs ++ beBytes 4 (crc32 bs)

/-- Where the live table keeps the entry of spare index `i` of a zone-layer: 8 bytes for every spare slot of the disc, in the work
area of DRAM (R17, R26). DESIGN CHOICE (log entry 49). -/
def tableAddr (zl i : Nat) : Nat :=
  0x3E0000000 + 8 * (zl / 20 * 295260 + ((List.range (zl % 20)).map (fun z => 740 * bpr z)).sum + i)

/-- The live table's part of the work area: 4,724,160 entries. -/
def tableEnd : Nat := 0x3E0000000 + 8 * 4724160

/-- Put an entry into the live table in DRAM (R17). -/
def State.putTableEntry (s : State) (e : RplEntry) : State := s.storeBytes (tableAddr (lbaZL e.lba) e.spare) (beBytes 8 (entryDword e)) 2

/-- The live table is `t` from now on, in DRAM too (R17). -/
def State.withTable (s : State) (t : List RplEntry) : State :=
  let s := { s with dram := s.dram.filter (fun c => decide (c.1 < 0x3E0000000) || decide (tableEnd ≤ c.1))
                    disc := { s.disc with table := t } }
  forEach t (fun e s => s.putTableEntry e) s

/-! ## The stream buffers -/

/-- The stream buffer slot of a block: each beam's 20,480 slots of 32 KiB are taken in turn by its LBAs (R26).
DESIGN CHOICE (log entry 16). -/
def streamAddr (b : Beam) (lba : Nat) : Nat := 2 ^ 32 + b.val * (640 * 2 ^ 20) + lba / 4 % 20480 * 32768

/-- The beam whose stream buffer takes a block to write: that of its track, of the lower-numbered head of its side.
DESIGN CHOICE (log entry 17). -/
def homeBeam (lba : Nat) : Beam := headBeam (Fin.ofNat 4 (if lbaLayer lba < 8 then 0 else 1)) (lbaTrack lba)

/-- The write generation after `g` (R52): it wraps from 0xFFFF to 0x0001. -/
def nextWGEN (g : Nat) : Nat := if g ≥ 0xFFFF then 1 else g + 1

end Sys2Proof.Machine
end

