-- ==== Sys2Proof/Machine/Task.lean ====
section
/-! DEFINITION. How a task ends (R327 to R333): the completion record, the in-order progress of an extent (R13), the error
freeze with its discard (R331, R332), and the host writes and window checks both need (R294, R306). Blocks that decide an
error call `taskError`. -/

namespace Sys2Proof.Machine

/-! ## Host writes -/

/-- A host access of `len` bytes at `addr` lies inside one enabled window that permits its direction (R306). A window starts and ends
at 4 KiB boundaries, whatever the low 12 bits of its registers (R312). DEDUCED (log entry 70). -/
def State.winOk (s : State) (write : Bool) (addr len : Nat) : Bool :=
  (List.range 8).any fun w =>
    s.flag (F.HLK_WIN_CTRL_EN w) && s.flag (if write then F.HLK_WIN_CTRL_W w else F.HLK_WIN_CTRL_R w) &&
    s.pair (Reg.HLK_WIN_BASE_LO w) / 4096 * 4096 ≤ addr && addr + len ≤ (s.pair (Reg.HLK_WIN_LIM_LO w) / 4096 + 1) * 4096

/-- The DATA flits of the bytes that follow an MWR or MCPL: 122 bytes each (R294). -/
def dataFlits (src : Nat) : Nat → List Byte → List Flit
  | 0, _ => []
  | fuel + 1, bs =>
    if bs.isEmpty then [] else { typ := 7, hb := true, src := src, bytes := bs.take 122 } :: dataFlits src fuel (bs.drop 122)

/-- The flits of one host write (R294): an MWR with 106 bytes, then DATA flits. -/
def mwrFlits (src addr : Nat) (bs : List Byte) : List Flit :=
  { typ := 5, hb := true, src := src, bytes := beBytes 8 addr ++ beBytes 4 bs.length ++ beBytes 4 0 ++ bs.take 106 }
    :: dataFlits src bs.length (bs.drop 106)

/-- Issue a host write on port `p`. -/
def State.sendMWR (s : State) (p : Fin 3) (addr : Nat) (bs : List Byte) : State :=
  let s := (mwrFlits s.hop addr bs).foldl (fun s f => s.sendFlit p f) s
  { s with hlk := { s.hlk with mwrs := s.hlk.mwrs ||| BitVec.ofNat 3 (2 ^ p.val) }
           tsk := { s.tsk with used := s.tsk.used ||| BitVec.ofNat 3 (2 ^ p.val) } }

/-- Send a FLUSH on every port that carried writes of the task (R300, R329, R332). -/
def State.flushAll (s : State) : State :=
  let m := s.hlk.mwrs
  let s := (List.finRange 3).foldl (fun (s : State) (p : Fin 3) =>
    if m.getLsbD p then s.sendFlit p { typ := 0xA, hb := true, src := s.hop } else s) s
  { s with hlk := { s.hlk with mwrs := 0, flush := Vector.ofFn (fun (p : Fin 3) => s.hlk.flush[p] + (m.getLsbD p).toNat) } }

/-- Every FLUSH sent has its FLACK. -/
def State.flushed (s : State) : Bool := s.hlk.flush.toList.all (fun n => decide (n = 0))

/-! ## The running task -/

/-- Task register states (R341). -/
def State.taskRunning (s : State) : Bool := s.rd F.TSK_STATE_STATE = 1
def State.taskFrozen (s : State) : Bool := s.rd F.TSK_STATE_STATE = 3
def State.opcode (s : State) : Nat := s.rd F.TSK_STATE_OPCODE

/-- The task in the register set is an extent task: READ, WRITE or VERIFY_EXTENT. -/
def State.isExtent (s : State) : Bool := 1 ≤ s.opcode && s.opcode ≤ 3

/-- The lowest LBA of the extent not complete. -/
def State.lowLba (s : State) : Nat := (s.reg Reg.TSK_LOW_LBA).toNat

/-- The lowest LBA of the running extent not yet ended, among those whose layer `p` takes (R328). -/
def State.lowOpen (s : State) (p : Nat → Bool) : Option Nat :=
  if s.rd F.TSK_STATE_STATE = 1 ∧ s.isExtent then
    ((List.range s.tsk.count).map (· + s.tsk.lba)).find? (fun l =>
      decide (s.lowLba ≤ l) && !s.tsk.done.contains l && !s.tsk.bad.any (·.1 = l) && p (lbaLayer l))
  else none

/-- An LBA belongs to the running extent task. -/
def State.inTask (s : State) (lba : Nat) : Bool :=
  s.taskRunning && s.isExtent && s.tsk.lba ≤ lba && lba < s.tsk.lba + s.tsk.count

/-- The error classes, in the order of `TSK_EC_CNT` (R340). -/
def errClasses : List Nat :=
  [0x10, 0x11, 0x12, 0x13, 0x20, 0x21, 0x22, 0x23, 0x24, 0x25, 0x30, 0x31, 0x32, 0x40, 0x41, 0x42, 0x50, 0x51, 0x52, 0x53,
   0x54, 0x60, 0x70, 0x71]

/-- Count an error of a class (R340). -/
def State.countErr (s : State) (cls : Nat) : State :=
  match errClasses.idxOf? cls with
  | some k => s.bump (Reg.TSK_EC_CNT k)
  | none => s

/-- "None" in an LBA word of the record (R327). -/
def noLba : Nat := 0xFFFFFFFF

/-- Word WHW of the record (R180, R327). -/
def State.whwWord (s : State) : Nat := if s.opcode = 2 then s.tsk.whw.getD noLba else noLba

/-- Words 10 to 15 of the record (R326): the counts a read, verify or write keeps, or what another task has left in `res`. -/
def State.resWords (s : State) : List Word :=
  let w (ns : List Nat) : List Word := ns.map (BitVec.ofNat 32)
  if s.opcode = 1 ∨ s.opcode = 3 then
    w [s.tsk.recovered, s.tsk.fromSpare, s.tsk.topRung, s.tsk.placed, s.tsk.unplaced, 0]
  else if s.opcode = 2 then w [s.wrp.made, s.wrp.opcs, s.wrp.failedRpl, 0, 0, 0]
  else s.tsk.res

/-- The completion record (R327). -/
def State.record (s : State) (cls detail low err : Nat) : List Word :=
  let cyc := s.cycles - s.tsk.started.toNat
  [BitVec.ofNat 32 (s.opcode * 2 ^ 24 + cls * 2 ^ 16 + detail % 2 ^ 16), s.reg Reg.TSK_HTAG, BitVec.ofNat 32 low,
   BitVec.ofNat 32 err, BitVec.ofNat 32 s.whwWord, s.reg Reg.TSK_PROG, BitVec.ofNat 32 (cyc / 2 ^ 32), BitVec.ofNat 32 cyc,
   BitVec.ofNat 32 s.tsk.seq, 0] ++ s.resWords

/-- Put the record into `TSK_RES[0:15]`. -/
def State.setRes (s : State) (r : List Word) : State :=
  (List.range 16).foldl (fun s k => s.setReg (Reg.TSK_RES k) (r.getD k 0)) s

/-- The completion record's host address, 0 for none (R320). -/
def State.cplAddr (s : State) : Nat := (s.tsk.desc.getD 8 0).toNat * 2 ^ 32 + (s.tsk.desc.getD 9 0).toNat

/-- The record's words as bytes, big-endian. -/
def wordsBytes (ws : List Word) : List Byte := ws.flatMap (fun w => beBytes 4 w.toNat)

/-- Issue the completion record's host write, when there is one and its window permits (R329, R332). -/
def State.sendRecord (s : State) : State :=
  if s.cplAddr ≠ 0 && s.winOk true s.cplAddr 64 then
    s.sendMWR (s.routePort 0) s.cplAddr (wordsBytes ((List.range 16).map (fun k => s.reg (Reg.TSK_RES k))))
  else s

/-! ## The freeze -/

/-- Lane cycles wasted (R138, R511). -/
def State.waste (s : State) (l : DecLane) (n : Nat) : State := (s.bump64 (Reg.DEC_L_WST_LO l) n).pmcLane 0x11 l n

/-- A head's tracking target is moved by an SRV_TARGET of its group: the other targets stay (R151, R211). -/
def State.trkTarget (s : State) (h : Head) (v : Int) : State :=
  let s := (s.setReg (Reg.SRV_G_NEXT h 0) (s.reg (Reg.SRV_G_TGT h 0))).setReg (Reg.SRV_G_NEXT h 2) (s.reg (Reg.SRV_G_TGT h 2))
  let s := s.setInt (Reg.SRV_G_NEXT h 1) v
  let g : Group := ⟨h.val, by omega⟩
  { s with srv := { s.srv with groups := s.srv.groups.set g { s.srv.groups[g] with target := true } } }

/-- A head whose revolution had a tracking offset goes back to its own target (R151). -/
def State.trkBack (s : State) (h : Head) : State :=
  match s.rcv.retry[h] with
  | some r => if r.ofs ≠ 0 then s.trkTarget h r.tgt else s
  | none => s

/-- A block of the disc, not a known-answer test of AXL (R477). -/
def ofDisc (e : DecBlk) : Bool := e.kat.isNone

/-- Beams whose capture stepped the read power return to their own setting (R148, R151). -/
def State.readLevels (s : State) : State :=
  (List.finRange 16).foldl (fun s b =>
    match s.det[b].cap.bind (·.rlvl) with
    | some v => s.wr (F.LDD_CTRL_RLVL (beamChan b)) v
    | none => s) s

/-- The band the head follows, as a signed number (R59). -/
def State.headBand (s : State) (h : Head) : Int := signed 16 (s.rd (F.ANG_HPOS_BAND h))

/-- The slot in which the open gate of beam `b` lies, by the layer and band its head follows and the target that opened it: no gate
opens in it again once that gate has closed early (R15). -/
def State.gateSlot (s : State) (b : Beam) : Nat × Int × Word :=
  (s.rd (F.ANG_HPOS_LAYER (beamHead b)), s.headBand (beamHead b), s.wrp.beams[b].gateAt)

/-- The cycles of a decode: 16 µs and 2.0 µs an iteration, at 1,200 cycles a microsecond (R128). -/
def loadCycles : Nat := 19200
def iterCycles : Nat := 2400

/-- The cycles a decode in progress has run are wasted: a free value, at most those of eight codewords at the block's limit (R138).
DESIGN CHOICE (log entry 29). -/
def State.wasteRunning (s : State) (l : DecLane) : State :=
  let (n, s) := s.draw
  s.waste l (n.toNat % (loadCycles + 8 * s.dec.lanes[l].limit * iterCycles + 1))

/-- Drop every piece of the task's work in flight (R331): capture runs, sample buffers, queued and running decodes, deferred
lists and retry points, gates, replacement queues, OPC. Rebuild, known-answer tests and what is committed stay. The cycles of
running decodes and of results dropped are wasted (R135, R138). -/
def State.discardWork (s : State) : State :=
  let waste (s : State) (l : Fin 18) : Option DecRes → State
    | some r => if ofDisc r.blk then s.waste l (r.kept + r.wasted) else s
    | none => s
  let kat (o : Option DecRes) : Option DecRes := o.filter (fun r => !ofDisc r.blk)
  let s := (List.finRange 18).foldl (fun s l => waste (waste s l s.dec.clt[l]) l s.dec.lanes[l].held) s.readLevels
  let s := (List.finRange 18).foldl (fun s l => if (s.dec.lanes[l].cur.filter ofDisc).isSome then s.wasteRunning l else s) s
  let s := (List.finRange 4).foldl State.trkBack s
  { s with
    det := Vector.ofFn (fun (b : Beam) => if s.rd (F.DET_STAT_MODE b) = 3 then s.det[b] else {})
    dec := { s.dec with
      fpq := [], rq := s.dec.rq.filter (fun e => !ofDisc e), clt := s.dec.clt.map kat
      lanes := s.dec.lanes.map (fun l => { l with cur := l.cur.filter (fun e => !ofDisc e), held := kat l.held }) }
    rcv := { s.rcv with blks := [], retry := Vector.replicate 4 none }
    wrp := { s.wrp with
      beams := Vector.ofFn (fun (b : Beam) =>
        { shut := if s.wrp.beams[b].gate.isSome then some (s.gateSlot b) else s.wrp.beams[b].shut })
      queues := [], pass := Vector.replicate 4 none, opcRun := Vector.replicate 4 none }
    hlk := { s.hlk with mrds := s.hlk.mrds.map (fun m => { m with live := false }) } }

/-- Write the error log entry (R333). -/
def State.logError (s : State) (cls detail low err : Nat) : State :=
  let h := s.rd F.TSK_ELOG_HEAD_IDX
  let e : List Word := [BitVec.ofNat 32 s.tsk.seq, BitVec.ofNat 32 (s.opcode * 2 ^ 24 + cls * 2 ^ 16 + detail % 2 ^ 16),
    s.reg Reg.TSK_HTAG, BitVec.ofNat 32 err, BitVec.ofNat 32 low, BitVec.ofNat 32 s.whwWord,
    BitVec.ofNat 32 (s.cycles / 2 ^ 32), BitVec.ofNat 32 s.cycles]
  let s := { s with tsk := { s.tsk with elog := s.tsk.elog.set (Fin.ofNat 64 h) e } }
  (s.wr F.TSK_ELOG_HEAD_IDX (h + 1)).bumpF F.TSK_ELOG_HEAD_COUNT

/-- A calibration in progress ends with its task: PARTIAL sets (R515). -/
def State.calStop (s : State) : State :=
  if s.flag F.CAL_STAT_BUSY then (s.put F.CAL_STAT_BUSY false).put F.CAL_STAT_PARTIAL true else s

/-- The handshake's state, also shown in `LBS_STAT.HS`. -/
def State.setHs (s : State) (k : Nat) : State := ({ s with lbs := { s.lbs with hs := k } }).wr F.LBS_STAT_HS k

/-- A handshake under way ends with the task that runs it (R498). -/
def State.hsDrop (s : State) : State := if s.lbs.hs = 0 ∨ s.lbs.hs > 4 then s else s.setHs 0

/-- An error of class `cls` ends the running task; of NOP, only a refusal at its GO does (R324). -/
def State.errEnds (s : State) (cls : Nat) : Bool := s.taskRunning && (decide (s.opcode ≠ 0x7F) || decide (cls / 16 = 5))

/-- An error of class `cls` is decided (R328, R332): it ends a running task in the freeze, naming `err`, or LOWLBA where
the error names no block of its own; one that ends no task is counted only (R339). -/
def State.taskError (s : State) (cls : Nat) (err : Option Nat := none) (detail : Nat := 0) : State :=
  let s := s.countErr cls
  if s.errEnds cls then
    let s := if s.opcode = 0x10 ∨ s.opcode = 0x11 then s.hsDrop else s
    let s := s.clock
    let low := s.lowLba
    let e := err.getD (if s.isExtent then low else noLba)
    let s := (s.wr F.TSK_STATE_STATE 3).wr F.TSK_STATE_ERRCLS cls
    let s := (s.put F.TSK_STATE_SETTLED false).setReg Reg.TSK_ERR_LBA (BitVec.ofNat 32 e)
    let s := (s.setReg Reg.TSK_DETAIL (BitVec.ofNat 32 detail)).setReg Reg.VFY_ERR_LBA (BitVec.ofNat 32 low)
    let s := (s.put F.TSK_INT_STAT_FROZEN true).bump Reg.TSK_FRZ_CNT
    let s := s.discardWork.calStop
    let s := s.logError cls detail low e
    let s := s.setRes (s.record cls detail low e)
    let s := { s with tsk := { s.tsk with ending := false, work := false } }
    let s := if 0x30 ≤ cls ∧ cls ≤ 0x32 then s.event Ev.dmaErr else if cls = 0x40 ∨ cls = 0x42 then s.event Ev.stageErr else s
    s.sendRecord.flushAll
  else s

/-- A consumer that R388 does not list has used poison: the running task ends with 0x40, or ATTENTION goes out for MIC. -/
def State.poisonEnd (s : State) : State := if s.taskRunning then s.taskError 0x40 else s.attention 7

/-- Such a consumer uses poisoned SRAM. -/
def State.poisonUsed (s : State) (master : Nat) : State := (s.consumeSram master).poisonEnd

/-- An access outside the windows is not sent, and the task ends with 0x30 (R306). -/
def State.winViol (s : State) (write : Bool) (addr len : Nat) : State :=
  let s := (s.setPair Reg.HLK_VIOL_ADDR_LO addr).wr F.HLK_VIOL_INFO_LEN len
  (s.put F.HLK_VIOL_INFO_DIR write).taskError 0x30

/-! ## Progress in LBA order -/

/-- Items completed in order since the task began: DONE (R327). -/
def State.doneCount (s : State) : Nat := (s.reg Reg.TSK_PROG).toNat

/-- Send PROGRESS when DONE crosses the interval (R330). -/
def State.progressEvent (s : State) (before : Nat) : State :=
  let p := s.rd F.TSK_CTRL_PROGINT
  if p ≠ 0 && s.doneCount / 2 ^ (9 + p) ≠ before / 2 ^ (9 + p) then
    (s.eventFlit (portIdx s.tsk.port) 2 ((s.reg Reg.TSK_HTAG).toNat * 2 ^ 32 + s.doneCount)).put F.TSK_INT_STAT_PROGRESS true
  else s

/-- Every block below `lba` has been delivered to the host, in a task that delivers (R156). -/
def State.delivered (s : State) (lba : Nat) : Bool := s.opcode ≠ 1 || decide ((lba - s.tsk.lba) * 32768 ≤ s.tsk.moved)

/-- Advance the extent over the blocks that are complete in LBA order, and end the task at a block that ended BLANK or
UNRECOVERABLE when every lower block is complete and delivered (R13, R156). The fuel bounds the blocks passed. -/
def State.advance : Nat → State → State
  | 0, s => s
  | fuel + 1, s =>
    let low := s.lowLba
    match s.tsk.bad.find? (·.1 = low) with
    | some (lba, cls) => if s.delivered lba then s.taskError cls (some lba) else s
    | none =>
      if low ∈ s.tsk.done then
        let n := s.doneCount
        let s := { s with tsk := { s.tsk with done := s.tsk.done.erase low } }
        let s := (s.setReg Reg.TSK_LOW_LBA (BitVec.ofNat 32 (low + 1))).setReg Reg.TSK_PROG (BitVec.ofNat 32 (n + 1))
        State.advance fuel (s.progressEvent n)
      else s

/-- A block of the running extent task is complete (R13). -/
def State.blockComplete (s : State) (lba : Nat) : State :=
  if s.inTask lba then
    let s := { s with tsk := { s.tsk with done := s.tsk.done ++ [lba] } }
    State.advance (s.tsk.done.length + s.tsk.bad.length) s
  else s

/-- A block of the running extent task ended BLANK or UNRECOVERABLE (R156). -/
def State.blockBad (s : State) (lba cls : Nat) : State :=
  if s.inTask lba then
    let s := { s with tsk := { s.tsk with bad := s.tsk.bad ++ [(lba, cls)] } }
    State.advance (s.tsk.done.length + s.tsk.bad.length) s
  else s.countErr cls

/-- Every block of the extent is complete. -/
def State.extentDone (s : State) : Bool := s.lowLba = s.tsk.lba + s.tsk.count

/-- The DISC_READY event goes out (R325, R330). -/
def State.discReadyNow (s : State) : State :=
  let s := s.put F.TSK_INT_STAT_DISC_READY true
  if s.flag F.TSK_CTRL_EV_READY then s.eventFlit (s.routePort 0) 3 (s.rd F.TSK_DISC_WGEN) else s

/-- The DISC_READY event, after a TASK_END in preparation (R339). -/
def State.discReadyEvent (s : State) : State :=
  if s.tsk.ending || (s.taskFrozen && !s.flag F.TSK_STATE_SETTLED) then { s with tsk := { s.tsk with readyDue := true } } else s.discReadyNow

/-- The TASK_END event on the port the GO arrived on (R329, R332), and a DISC_READY that waited for it. -/
def State.taskEndEvent (s : State) : State :=
  let s := s.eventFlit (portIdx s.tsk.port) 1 ((s.reg Reg.TSK_HTAG).toNat * 2 ^ 32 + s.opcode * 256 + s.rd F.TSK_STATE_ERRCLS)
  if s.tsk.readyDue then ({ s with tsk := { s.tsk with readyDue := false } }).discReadyNow else s

/-- Step 3 of R329: every write is flushed, TASK_END goes out and the state is DONE. -/
def State.taskDone (s : State) : State :=
  let s := (s.taskEndEvent.wr F.TSK_STATE_STATE 2).put F.TSK_STATE_SETTLED true
  let s := { s with tsk := { s.tsk with ending := false } }
  (s.put F.TSK_INT_STAT_END true).bump Reg.TSK_DONE_CNT

/-- Steps 1 and 2 of R329: the record, its host write and the FLUSHes; step 3 at once when no write needs one. A record that no window
admits ends the task with 0x30, but NOP, whose record is then not sent (R306, R324). -/
def State.taskFinish (s : State) : State :=
  let s := s.clock
  let low := if s.isExtent then s.lowLba else noLba
  let s := s.setRes (s.record 0 (s.reg Reg.TSK_DETAIL).toNat low noLba)
  let s := { s with tsk := { s.tsk with ending := true } }
  let s := if s.cplAddr ≠ 0 && !s.winOk true s.cplAddr 64 then s.winViol true s.cplAddr 64 else s
  if s.taskRunning then
    let s := s.sendRecord.flushAll
    if s.flushed then s.taskDone else s
  else s

end Sys2Proof.Machine
end

