-- ==== Sys2Proof/Machine/Cph.lean ====
section
/-! DEFINITION. CPH and BKP (R431 to R457): the lock, the operations, the sealed buffer, provisioning, custodian sessions, tamper
and temperature alarms; with their commands. -/

namespace Sys2Proof.Machine

/-! ## Masters and the lock -/

/-- The master ID of a master (R9). The test connector carries that of a custodian (R544). -/
def masterId : Master → Nat
  | .hostOp => 0
  | .hostCust => 1
  | .seq => 2
  | .dec => 3
  | .srv => 4
  | .lbs => 5
  | .mir => 6
  | .axl => 7
  | .scrub => 8
  | .cfg => 0xE
  | .tap => 1

/-- The module is keyless (R443). -/
def State.keyless (s : State) : Bool := s.cph.kek.isNone || s.cph.cak.isNone

/-- The master has custodian rights: a custodian, the test connector, or SEQ in custodian mode (R313, R544). -/
def State.custodian (s : State) : Master → Bool
  | .hostCust => true
  | .tap => true
  | .seq => s.flag F.SEQ_MODE_PRIV
  | .cfg => true
  | _ => false

/-- The master holds the lock. -/
def State.cphOwner (s : State) (m : Master) : Bool := s.flag F.CPH_LOCK_HELD && decide (s.rd F.CPH_LOCK_OWNER = masterId m)

/-- The key slots' status: SLOTV and `CPH_KEYSTAT`, usage in four bits per slot. -/
def State.slotStat (s : State) : State :=
  let u (k : Fin 8) : Nat := (s.cph.slots[k].map (·.usage)).getD 0
  let v := ((List.finRange 8).filter (fun k => s.cph.slots[k].isSome)).foldl (fun m k => m + 2 ^ k.val) 0
  (s.wr F.CPH_STAT_SLOTV v).setReg Reg.CPH_KEYSTAT
    (BitVec.ofNat 32 ((List.finRange 8).foldl (fun m k => m + u k * 16 ^ k.val) 0))

/-- SEAL (R441): the buffer zeroed, RELEASED, TAGOK and the tag register cleared. -/
def State.sealNow (s : State) : State :=
  let s := ({ s with cph := { s.cph with buf := [], tag := none } }).put F.CPH_STAT_RELEASED false
  ((s.put F.CPH_STAT_TAGOK false).setReg Reg.CPH_SB_PTR 0).setReg Reg.CPH_SB_LEN 0

/-- The lock is released: the buffer is sealed, and the output of an operation in progress is discarded (R434, R435). -/
def State.lockFree (s : State) : State :=
  let op := if s.cph.op.isSome then some CphOp.void else none
  let s := ({ s with cph := { s.cph with op := op } }).sealNow
  (s.put F.CPH_LOCK_HELD false).wr F.CPH_LOCK_OWNER 0

/-- LOCK_ACQUIRE: ACQ takes the lock if it is free; an operator may take it only while the module is keyless (R434, R436). -/
def State.lockTake (s : State) (m : Master) : State :=
  if s.flag F.CPH_LOCK_HELD || (decide (m = .hostOp) && !s.keyless) then s
  else (s.put F.CPH_LOCK_HELD true).wr F.CPH_LOCK_OWNER (masterId m)

/-- LOCK_RELEASE: REL from the owner; from any other master it is ignored (R434). -/
def State.lockGive (s : State) (m : Master) : State := if s.cphOwner m then s.lockFree else s

/-- A write of `CPH_LOCK`. -/
def State.lockWrite (s : State) (m : Master) (v : Word) : State :=
  let s := if v.getLsbD 1 then s.lockGive m else s
  if v.getLsbD 0 then s.lockTake m else s

/-- LOCK_ACQUIRE and LOCK_RELEASE. -/
def execLockAcquire (m : Master) (s : State) : Host.Outcome State Fault Refusal := .next (s.lockTake m)
def execLockRelease (m : Master) (s : State) : Host.Outcome State Fault Refusal := .next (s.lockGive m)

/-- An access without the lock (R434): LOCKERR and a count. -/
def State.lockErr (s : State) : State := (s.put F.CPH_STAT_LOCKERR true).bump Reg.CPH_BUSY_CNT

/-! ## Starting an operation (R437 to R444) -/

/-- Bytes as the numbers AES works on, and back. -/
def toNats (bs : List Byte) : List Nat := bs.map (·.toNat)
def toBytes (ns : List Nat) : List Byte := ns.map (fun n => BitVec.ofNat 8 n)

/-- The words of a register array as bytes. -/
def State.regBytes (s : State) (a n : Nat) : List Byte := (List.range n).flatMap (fun k => beBytes 4 (s.reg (a + 4 * k)).toNat)

/-- Write bytes to a register array, four to a word. -/
def State.setRegBytes (s : State) (a n : Nat) (bs : List Byte) : State :=
  forEach (List.range n) (fun k s => s.setReg (a + 4 * k) (BitVec.ofNat 32 (beAt bs (4 * k) 4))) s

/-- The slot key, or a subkey K_v (R433). DESIGN CHOICE (log entry 6). -/
def subkey (key : List Byte) (v : Nat) : List Byte :=
  if v = 0 then key else (Config.widen (toBytes (Aes.encrypt (toNats key) (List.replicate 15 0 ++ [v])))).toList

/-- What usage permits (R438). -/
def usageOk (usage kv op dst : Nat) : Bool :=
  usage = 1 || (kv = 1 && dst = 2) || (kv = 2 && op = 1 && dst ≤ 1)

/-- An operation starts. -/
def State.opBegin (s : State) (o : CphOp) : State := ({ s with cph := { s.cph with op := some o } }).put F.CPH_STAT_BUSY true

/-- ENC or DEC (R437 to R439). -/
def State.blockStart (s : State) (op : Nat) (v : Word) : State :=
  let dst := F.CPH_CMD_DST.of v
  let kv := F.CPH_CMD_KV.of v
  match s.cph.slots[(Fin.ofNat 8 (F.CPH_CMD_SLOT.of v) : Fin 8)] with
  | none => s.put F.CPH_STAT_NOKEY true
  | some k =>
    if dst = 3 then s.put F.CPH_STAT_CFGERR true
    else if !usageOk k.usage kv op dst then s.put F.CPH_STAT_USAGEERR true
    else if dst = 2 && (s.flag F.CPH_STAT_RELEASED || decide ((s.reg Reg.CPH_SB_PTR).toNat + 16 > 16384)) then
      s.put F.CPH_STAT_SBFULL true
    else
      let key := toNats (subkey k.key kv)
      let x := toNats (s.regBytes (Reg.CPH_IN 0) 4)
      let y := if op = 1 then Aes.encrypt key x else Aes.decrypt key x
      let y := if (F.CPH_CMD_XD.of v) = 1 then Aes.xorL y (toNats (s.regBytes (Reg.CPH_DATA 0) 4)) else y
      s.opBegin (.block dst (toBytes y))

/-- The blob in `CPH_BLOB`, unwrapped under a key (R432, R433): usage, slot, key ID and key, when it is accepted.
DESIGN CHOICE (log entry 5). -/
def State.unwrapBlob (s : State) (kek : List Byte) : Option (Nat × Nat × Nat × List Byte) :=
  let b := s.regBytes (Reg.CPH_BLOB 0) 14
  match Aes.unwrap (toNats kek) (toNats (b.drop 8)) with
  | none => none
  | some p =>
    let p := toBytes p
    if p.take 8 = b.take 8 ∧ beAt b 0 2 = 0x4B42 ∧ beAt b 2 1 = 1 then some (beAt b 3 1, beAt b 4 1, beAt b 6 2, p.drop 8) else none

/-- A blob is refused (R433). -/
def State.unwrapFail (s : State) : State := (s.put F.CPH_STAT_UNWRAPF true).bump Reg.CPH_UNWRAP_CNT

/-- LOAD (R432, R433, R443). -/
def State.loadStart (s : State) : State :=
  if s.keyless then s.put F.CPH_STAT_NOKEY true
  else
    match s.unwrapBlob (s.cph.kek.getD []) with
    | some (u, slot, id, key) =>
      if h : slot < 8 then
        if u = 1 ∨ u = 2 then s.opBegin (.load ⟨slot, h⟩ ⟨u, key, id⟩) else s.unwrapFail
      else s.unwrapFail
    | none => s.unwrapFail

/-- PROVISION (R444). -/
def State.provisionStart (s : State) (m : Master) : State :=
  if !s.keyless && !s.custodian m then s.put F.CPH_STAT_CFGERR true
  else
    match s.unwrapBlob Config.dtk.toList with
    | some (u, _, id, key) =>
      if u = 0x12 ∧ (s.cph.cfgKey.isSome = true ∨ s.flag F.PWR_STAT_V3P3OK = false) then s.put F.CPH_STAT_CFGERR true
      else if 0x10 ≤ u ∧ u ≤ 0x12 then s.opBegin (.store u key id)
      else s.unwrapFail
    | none => s.unwrapFail

/-- A write of `CPH_CMD` by a master (R434, R437). An operator, who holds the lock only to PROVISION (R436), has any other command
refused. DEDUCED (log entry 48). -/
def State.cphCommand (s : State) (m : Master) (v : Word) : State :=
  if !s.cphOwner m then s.lockErr
  else if s.flag F.CPH_STAT_BUSY then s.bump Reg.CPH_BUSY_CNT
  else if m = .hostOp ∧ F.CPH_CMD_OP.of v ≠ 6 then s.put F.CPH_STAT_CFGERR true
  else
    match F.CPH_CMD_OP.of v with
    | 1 => s.blockStart 1 v
    | 2 => s.blockStart 2 v
    | 3 => if s.flag F.CPH_STAT_RELEASED then s.put F.CPH_STAT_CFGERR true else s.opBegin (.tagcmp (decide (F.CPH_CMD_TL.of v = 1)))
    | 4 => s.opBegin .seal
    | 5 => s.loadStart
    | 6 => s.provisionStart m
    | 7 => s.opBegin (.clear (Fin.ofNat 8 (F.CPH_CMD_SLOT.of v)))
    | _ => s.put F.CPH_STAT_CFGERR true

/-- A command word with its OP set. -/
def cphOp (v : Word) (op : Nat) : Word := F.CPH_CMD_OP.put v op

/-- ENC, DEC, TAGCMP, SEAL, LOAD, PROVISION, CLEAR: writes of `CPH_CMD` with the OP. -/
def execEnc (m : Master) (v : Word) (s : State) : Host.Outcome State Fault Refusal := .next (s.cphCommand m (cphOp v 1))
def execCphDec (m : Master) (v : Word) (s : State) : Host.Outcome State Fault Refusal := .next (s.cphCommand m (cphOp v 2))
def execTagcmp (m : Master) (v : Word) (s : State) : Host.Outcome State Fault Refusal := .next (s.cphCommand m (cphOp v 3))
def execSeal (m : Master) (s : State) : Host.Outcome State Fault Refusal := .next (s.cphCommand m (cphOp 0 4))
def execCphLoad (m : Master) (s : State) : Host.Outcome State Fault Refusal := .next (s.cphCommand m (cphOp 0 5))
def execProvision (m : Master) (s : State) : Host.Outcome State Fault Refusal := .next (s.cphCommand m (cphOp 0 6))
def execClear (m : Master) (slot : Fin 8) (s : State) : Host.Outcome State Fault Refusal :=
  .next (s.cphCommand m (cphOp (F.CPH_CMD_SLOT.put 0 slot.val) 7))

/-! ## The end of an operation -/

/-- TAGCMP's outcome (R440). -/
def State.tagResult (s : State) (short : Bool) : State :=
  let n := if short then 8 else 16
  let want := (s.regBytes (Reg.CPH_TAG_EXP 0) 4).take n
  if s.cph.tag.map (·.take n) = some want then
    ((s.put F.CPH_STAT_TAGOK true).put F.CPH_STAT_RELEASED true).setReg Reg.CPH_SB_LEN (s.reg Reg.CPH_SB_PTR)
  else
    let s := (s.put F.CPH_STAT_TAGFAIL true).bump Reg.CPH_TAGFAIL_CNT
    ({ s with cph := { s.cph with buf := [] } }).setReg Reg.CPH_SB_PTR 0

/-- The key store's status registers (R455, R456). -/
def State.storeStat (s : State) : State :=
  let s := (s.put F.BKP_KSTAT_KEK s.cph.kek.isSome).put F.BKP_KSTAT_CAK s.cph.cak.isSome
  s.put F.CPH_STAT_KEYLESS s.keyless

/-- A provisioned key enters the store or the fuses (R444). -/
def State.storeKey (s : State) (u : Nat) (key : List Byte) (id : Nat) : State :=
  let s := s.bump Reg.CPH_PROV_CNT
  if u = 0x12 then ({ s with cph := { s.cph with cfgKey := some key } }).put F.CPH_FUSE_STAT_CFGKEY true
  else
    let c := s.cph
    let s := { s with cph := if u = 0x10 then { c with kek := some key } else { c with cak := some key } }
    let s := (if u = 0x11 then s.wr F.BKP_KSTAT_KEYID id else s).storeStat
    if s.keyless then s
    else ((s.put F.BKP_ALARM_ZEROISED false).put F.BKP_ALARM_BKPLOST false).attention 9

/-- What an operation leaves at its end. -/
def State.opResult (s : State) : CphOp → State
  | .block 0 out => s.setRegBytes (Reg.CPH_OUT 0) 4 out
  | .block 1 out => { s with cph := { s.cph with tag := some out } }
  | .block _ out =>
    let p := (s.reg Reg.CPH_SB_PTR).toNat
    let b := (List.range 16).foldl (fun (m : List Host.Cell) i => Sparse.set 0 m (p + i) (out.getD i 0)) s.cph.buf
    ({ s with cph := { s.cph with buf := b } }).setReg Reg.CPH_SB_PTR (BitVec.ofNat 32 (p + 16))
  | .tagcmp short => s.tagResult short
  | .seal => s.sealNow
  | .load i k => ({ s with cph := { s.cph with slots := s.cph.slots.set i (some k) } }).slotStat
  | .store u key id => s.storeKey u key id
  | .clear i => ({ s with cph := { s.cph with slots := s.cph.slots.set i none } }).slotStat
  | .void => s

/-- CPH_DONE: the operation ends (R437). -/
def State.cphFinish (s : State) : State :=
  match s.cph.op with
  | none => s
  | some o =>
    let s := { s with cph := { s.cph with op := none } }
    let s := ((s.opResult o).put F.CPH_STAT_BUSY false).put F.CPH_STAT_DONE true
    (s.bump Reg.CPH_OP_CNT).event Ev.cphDone

/-- CPH_DONE. -/
def execCphDone (s : State) : Host.Outcome State Fault Refusal := .next s.cphFinish

/-! ## Custodian sessions -/

/-- A session closes (R446): a lock held by master 1 is released (R434). -/
def State.sessionShut (s : State) : State :=
  if s.flag F.CPH_SESS_STAT_OPEN then
    let s := s.put F.CPH_SESS_STAT_OPEN false
    if s.flag F.CPH_LOCK_HELD ∧ s.rd F.CPH_LOCK_OWNER = 1 then s.lockFree else s
  else s

/-- SESSION_CHALLENGE: a read of `CPH_SESS_CHAL[0]` draws a fresh challenge (R443, R445, R447). -/
def State.sessionChallenge (s : State) : State :=
  if s.flag F.CPH_SESS_STAT_OPEN then s.setRegBytes (Reg.CPH_SESS_CHAL 0) 4 []
  else if s.keyless || s.flag F.CPH_SESS_STAT_LOCKOUT then
    (s.setRegBytes (Reg.CPH_SESS_CHAL 0) 4 []).put F.CPH_SESS_STAT_REFUSED true
  else
    let s := s.put F.CPH_SESS_STAT_REFUSED false
    let s := forEach (List.range 4) (fun k s => let (w, s) := s.draw; s.setReg (Reg.CPH_SESS_CHAL k) w) s
    { s with cph := { s.cph with chal := some (s.regBytes (Reg.CPH_SESS_CHAL 0) 4) } }

/-- SESSION_CHALLENGE, by any reader. -/
def execSessionChallenge (_m : Master) (s : State) : Host.Outcome State Fault Refusal := .next s.sessionChallenge

/-- The response the module expects (R445). -/
def State.sessionTag (s : State) (cak chal : List Byte) : List Byte :=
  toBytes (Aes.cmac (toNats cak) (toNats (chal ++ [BitVec.ofNat 8 s.hop, 0, 0, 0] ++ s.regBytes (Reg.CFG_SERIAL 0) 3)))

/-- The next session number, from 1 to 255 (R445). -/
def nextSession (n : Nat) : Nat := if n ≥ 255 then 1 else n + 1

/-- SESSION_RESPONSE: a write of `CPH_SESS_RESP[3]` is checked (R445, R447). -/
def State.sessionResponse (s : State) (w3 : Word) : State :=
  let s := s.setReg (Reg.CPH_SESS_RESP 3) w3
  let ok := match s.cph.chal, s.cph.cak with
    | some c, some k => decide (s.regBytes (Reg.CPH_SESS_RESP 0) 4 = s.sessionTag k c)
    | _, _ => false
  let s := { s with cph := { s.cph with chal := none } }
  if ok then
    let s := (s.put F.CPH_SESS_STAT_OPEN true).wr F.CPH_SESS_STAT_NUM (nextSession (s.rd F.CPH_SESS_STAT_NUM))
    ((s.wr F.CPH_SESS_STAT_FAILS 0).setRegBytes (Reg.CPH_SESS_CHAL 0) 4 []).bump Reg.CPH_SESS_OK_CNT
  else
    let n := min 8 (s.rd F.CPH_SESS_STAT_FAILS + 1)
    let s := (s.wr F.CPH_SESS_STAT_FAILS n).bump Reg.CPH_SESS_FAIL_CNT
    if n = 8 then s.put F.CPH_SESS_STAT_LOCKOUT true else s

/-- SESSION_RESPONSE. -/
def execSessionResponse (w3 : Word) (s : State) : Host.Outcome State Fault Refusal := .next (s.sessionResponse w3)

/-- SESSION_CLOSE: a write of CLOSE by the custodian (R446). -/
def State.sessionClose (s : State) (m : Master) : State := if s.custodian m then s.sessionShut else s
def execSessionClose (m : Master) (s : State) : Host.Outcome State Fault Refusal := .next (s.sessionClose m)

/-- SESSION_TIMEOUT: no custodian request for `CPH_SESS_TO` seconds (R446). -/
def execSessionTimeout (s : State) : Host.Outcome State Fault Refusal := .next s.sessionShut

/-- LOCKOUT_END: 60 s of the backup tick have passed (R447). -/
def execLockoutEnd (s : State) : Host.Outcome State Fault Refusal :=
  if s.flag F.CPH_SESS_STAT_LOCKOUT then .next ((s.put F.CPH_SESS_STAT_LOCKOUT false).wr F.CPH_SESS_STAT_FAILS 0) else .next s

/-! ## The backup domain -/

/-- Write an alarm log entry (R451). The module is on main power whenever a command reaches it. -/
def State.bkpLog (s : State) (cause : Nat) : State :=
  let s := s.tick
  let n := s.rd F.BKP_LOG_HEAD_COUNT
  let e := min n 7
  let t := (s.reg Reg.BKP_TEMP).toNat % 256
  let s := s.setReg (Reg.BKP_LOG e 0) (BitVec.ofNat 32 (cause * 2 ^ 28 + t * 2 ^ 16 + (s.reg Reg.BKP_TICK_HI).toNat % 2 ^ 16))
  let s := s.setReg (Reg.BKP_LOG e 1) (s.reg Reg.BKP_TICK_LO)
  if n < 8 then s.wr F.BKP_LOG_HEAD_COUNT (n + 1) else s.bumpF F.BKP_LOG_HEAD_LOST

/-- Zeroisation (R449): the store's keys, then slots, session, lock and buffer; a PATCH_LOAD in progress fails. -/
def State.zeroise (s : State) : State :=
  let c := s.cph
  let s := { s with cph := { c with kek := none, cak := none, chal := none, slots := Vector.replicate 8 none
                                    op := if c.op.isSome then some .void else none } }
  let s := ((s.storeStat.slotStat.put F.BKP_ALARM_ZEROISED true).bump Reg.CPH_ZERO_CNT).sessionShut
  let s := s.lockFree
  if s.taskRunning ∧ s.opcode = 0x60 then s.taskError 0x71 else s

/-- The enable and alarm flags of a tamper input (R457). -/
def tampEn (n : Fin 2) : RegField := if n = 0 then F.BKP_TAMP_CFG_EN0 else F.BKP_TAMP_CFG_EN1
def tampFlag (n : Fin 2) : RegField := if n = 0 then F.BKP_ALARM_TAMP0 else F.BKP_ALARM_TAMP1
def loopFlag (n : Fin 2) : RegField := if n = 0 then F.BKP_STAT_LOOP0 else F.BKP_STAT_LOOP1

/-- TAMPER_ALARM: an enabled loop goes from good to open or broken (R448, R449). -/
def execTamperAlarm (n : Fin 2) (s : State) : Host.Outcome State Fault Refusal :=
  if s.flag (tampEn n) && !s.cph.loops.getLsbD n.val then
    let s := { s with cph := { s.cph with loops := s.cph.loops ||| BitVec.ofNat 2 (2 ^ n.val) } }
    let s := ((s.put (loopFlag n) true).put (tampFlag n) true).zeroise
    .next ((s.bkpLog (n.val + 1)).attention 1)
  else .next s

/-- TAMPER_LOOP_GOOD: a loop that was bad has been good for one second (R448). -/
def execTamperLoopGood (n : Fin 2) (s : State) : Host.Outcome State Fault Refusal :=
  .next (({ s with cph := { s.cph with loops := s.cph.loops &&& ~~~BitVec.ofNat 2 (2 ^ n.val) } }).put (loopFlag n) false)

/-- BKP_TEMPERATURE_SAMPLE: `t` degrees (R450). -/
def execBkpTemperatureSample (t : Int) (s : State) : Host.Outcome State Fault Refusal :=
  let hi := signed 8 (s.rd F.BKP_TEMP_CFG_HI)
  let lo := signed 8 (s.rd F.BKP_TEMP_CFG_LO)
  let s := s.setInt Reg.BKP_TEMP t
  let c := s.cph
  let inside := decide (t ≤ hi - 2) && decide (lo + 2 ≤ t)
  let newHi := decide (hi < t) && !c.excHi
  let newLo := decide (t < lo) && !c.excLo
  let s := { s with cph := { c with excHi := !inside && (c.excHi || newHi), excLo := !inside && (c.excLo || newLo) } }
  let s := if newHi then (s.put F.BKP_ALARM_TEMPHI true).bkpLog 3 else s
  .next (if newLo then (s.put F.BKP_ALARM_TEMPLO true).bkpLog 4 else s)

/-- BKP_LOG_CLR: a custodian write empties the alarm log (R451). -/
def State.bkpLogClr (s : State) (m : Master) : State :=
  if !s.custodian m then s
  else
    let s := forEach (List.range 16) (fun k s => s.setReg (Reg.BKP_LOG 0 0 + 4 * k) 0) s
    (s.wr F.BKP_LOG_HEAD_COUNT 0).wr F.BKP_LOG_HEAD_LOST 0
def execBkpLogClr (m : Master) (s : State) : Host.Outcome State Fault Refusal := .next (s.bkpLogClr m)

end Sys2Proof.Machine
end

