-- ==== Sys2Proof/Machine/Flc.lean ====
section
/-! DEFINITION. The flash array and its controller FLC (R400 to R415, R425 to R427): words and undefined units, sector remaps,
PROGRAM, ERASE, SUSPEND and RESUME, the monotone counters, and catalogue slots. -/

namespace Sys2Proof.Machine

/-- Change FLC's structure. -/
def State.modFlc (s : State) (f : Flc → Flc) : State := { s with flc := f s.flc }

/-! ## The array (R400, R404, R408) -/

/-- An erased word. -/
def erasedWord : Word := 0xFFFFFFFF

/-- A word lies in an undefined unit. -/
def State.flashUndef (s : State) (w : Nat) : Bool := s.flc.undef.any (fun u => decide (u.1 ≤ w) && decide (w < u.1 + u.2))

/-- The content of a defined word. DESIGN CHOICE (log entry 10). -/
def State.flashWord (s : State) (w : Nat) : Word := Sparse.get erasedWord s.flc.words w

/-- Read a word: an undefined word reads a value of its own each time (R408). DESIGN CHOICE (log entry 25). -/
def State.flashRead (s : State) (w : Nat) : Word × State := if s.flashUndef w then s.draw else (s.flashWord w, s)

/-- Make units undefined. -/
def State.flashLose (s : State) (w n : Nat) : State := s.modFlc (fun f => { f with undef := f.undef ++ [(w, n)] })

/-- Erase a physical sector (R405). -/
def State.flashErase (s : State) (sec : Nat) : State :=
  let out (w : Nat) : Bool := decide (w / 1024 ≠ sec)
  s.modFlc (fun f => { f with
    words := f.words.filter (fun p => out p.1), progs := f.progs.filter (fun p => out p.1)
    undef := f.undef.filter (fun u => out u.1) })

/-- Program a word with the AND of `v` and its content; the third program since the erase leaves it undefined (R404). -/
def State.flashProgram (s : State) (w : Nat) (v : Word) : State :=
  let n := Sparse.get 0 s.flc.progs w + 1
  let s := s.modFlc (fun f => { f with
    words := Sparse.set erasedWord f.words w (s.flashWord w &&& v), progs := Sparse.set 0 f.progs w n })
  if n ≥ 3 ∧ s.flashUndef w = false then s.flashLose w 1 else s

/-- An engine's program and erase: master `m` carries them, and they count as any other (R9, R425, R511). -/
def State.engineProgram (s : State) (m w : Nat) (v : Word) : State :=
  ((s.flashProgram w v).bump Reg.FLC_PROG_CNT).pmcEvent 9 m (if m = 2 then some (s.custodian .seq) else none) none
def State.engineErase (s : State) (m sec : Nat) : State :=
  ((s.flashErase sec).bump Reg.FLC_ERASE_CNT).pmcEvent 9 m (if m = 2 then some (s.custodian .seq) else none) none

/-! ## Spare sectors (R410) -/

/-- Spare `e` serves logical sector `sec`. -/
def State.smapHit (s : State) (sec : Nat) (e : Fin 64) : Bool :=
  s.flag (F.FLC_SMAP_VALID e) && !s.flag (F.FLC_SMAP_RETIRED e) && decide (s.rd (F.FLC_SMAP_SECTOR e) = sec)

/-- The physical sector that serves a logical one. -/
def State.physSec (s : State) (sec : Nat) : Nat :=
  match (List.finRange 64).find? (s.smapHit sec) with
  | some e => 16320 + e.val
  | none => sec

/-- The physical word of a logical word. -/
def State.physWord (s : State) (w : Nat) : Nat := s.physSec (w / 1024) * 1024 + w % 1024

/-- Read a logical word. -/
def State.flashGet (s : State) (w : Nat) : Word × State := s.flashRead (s.physWord w)

/-- Read `n` logical words from word `w`. -/
def State.flashWords (w : Nat) : Nat → State → List Word × State
  | 0, s => ([], s)
  | n + 1, s =>
    let (v, s) := s.flashGet w
    let (r, s) := State.flashWords (w + 1) n s
    (v :: r, s)

/-! ## Operations -/

/-- The master may program and erase the sector (R409). -/
def flashMay (m : Master) (sec : Nat) : Bool :=
  let cust := decide (m = .hostCust) || decide (m = .tap)
  if sec < 1024 then cust
  else if 1028 ≤ sec ∧ sec ≤ 1031 then decide (m = .axl)
  else if 1040 ≤ sec ∧ sec ≤ 13327 then decide (m = .seq)
  else if 13328 ≤ sec ∧ sec ≤ 16319 then cust || decide (m = .seq)
  else false

/-- An access is answered busy (R403). -/
def State.flcBusyAnswer (s : State) : State := s.bump Reg.FLC_BUSY_CNT

/-- An operation starts. -/
def State.flcStart (s : State) (m : Master) (o : FlcOp) : State :=
  let s := (s.modFlc (fun f => { f with op := some o, failed := false, spare := none })).put F.FLC_STAT_BUSY true
  let s := (s.setReg Reg.FLC_RUNTIME 0).setReg Reg.FLC_LAST_MID (BitVec.ofNat 32 (masterId m))
  match o with
  | .program _ _ => (s.bump Reg.FLC_PROG_CNT).pmcEvent 9 (masterId m) (some (s.custodian m)) none
  | .erase _ => (s.bump Reg.FLC_ERASE_CNT).pmcEvent 9 (masterId m) (some (s.custodian m)) none
  | .inc _ => s

/-- The logical word that `FLC_ADDR` names, and the step of its auto-increment. -/
def State.flcWord (s : State) : Nat := s.rd F.FLC_ADDR_ADDR / 4
def State.flcStep (s : State) : State :=
  if s.flag F.FLC_ADDR_INC then s.wr F.FLC_ADDR_ADDR (s.rd F.FLC_ADDR_ADDR + 4) else s

/-- A PROGRAM, or ERASE, of the addressed unit would be answered busy (R403, R407). -/
def State.programBusy (s : State) : Bool :=
  s.flc.op.isSome || (match s.flc.susp with
    | some (.erase sec) => decide (s.flcWord / 1024 = sec)
    | some _ => true
    | none => false)
def State.eraseBusy (s : State) : Bool := s.flc.op.isSome || s.flc.susp.isSome

/-- PROGRAM (R403, R404, R406). -/
def State.flcProgram (s : State) (m : Master) : State :=
  if s.programBusy then s.flcBusyAnswer
  else if flashMay m (s.flcWord / 1024) then
    (s.flcStart m (.program s.flcWord (s.reg Reg.FLC_WDATA))).flcStep
  else s.put F.FLC_STAT_PROTERR true

/-- ERASE (R403, R405, R406). -/
def State.flcErase (s : State) (m : Master) : State :=
  if s.eraseBusy then s.flcBusyAnswer
  else if flashMay m (s.flcWord / 1024) then s.flcStart m (.erase (s.flcWord / 1024))
  else s.put F.FLC_STAT_PROTERR true

/-- SUSPEND of an operation that has run `us` since its start or resume (R407, R425). -/
def State.flcSuspend (s : State) (us : Nat) : State :=
  match s.flc.op with
  | none => s
  | some o =>
    if s.flc.susp.isSome then s
    else
      let unit := match o with
        | .program w _ => 4 * w
        | .erase sec => 4096 * sec
        | .inc _ => 0
      let counter := match o with
        | .inc _ => true
        | _ => false
      if us < 200 || s.flc.failed || counter then s.flcBusyAnswer
      else
        let s := (s.modFlc (fun f => { f with op := none, susp := some o })).put F.FLC_STAT_SUSP true
        let s := (s.setReg Reg.FLC_RUNTIME (BitVec.ofNat 32 us)).bump Reg.FLC_SUSP_CNT
        s.setReg Reg.FLC_SUSP_ADDR (BitVec.ofNat 32 unit)

/-- RESUME (R407). -/
def State.flcResume (s : State) : State :=
  match s.flc.susp with
  | none => s
  | some o =>
    if s.flc.op.isSome then s.flcBusyAnswer
    else ((s.modFlc (fun f => { f with op := some o, susp := none })).put F.FLC_STAT_SUSP false).setReg Reg.FLC_RUNTIME 0

/-- A write of `FLC_CMD` (R427). -/
def State.flcCmdWrite (s : State) (m : Master) (v : Word) (us : Nat) : State :=
  match F.FLC_CMD_OP.of v with
  | 1 => s.flcProgram m
  | 2 => s.flcErase m
  | 3 => s.flcSuspend us
  | 4 => s.flcResume
  | _ => s.put F.FLC_STAT_CFGERR true

/-- A read of `FLC_RDATA` is answered busy (R403, R407). -/
def State.rdataBusy (s : State) : Bool :=
  s.flc.op.isSome || (match s.flc.susp with
    | some (.erase sec) => decide (s.flcWord / 1024 = sec)
    | some (.program w _) => decide (s.flcWord = w)
    | _ => false)

/-- A read of `FLC_RDATA`. -/
def State.rdata (s : State) : Word × State :=
  let (v, s) := s.flashGet s.flcWord
  (v, (s.setReg Reg.FLC_RDATA v).flcStep)

/-- PROGRAM, ERASE, SUSPEND, RESUME: writes of `FLC_CMD`. -/
def execProgram (m : Master) (s : State) : Host.Outcome State Fault Refusal := .next (s.flcProgram m)
def execErase (m : Master) (s : State) : Host.Outcome State Fault Refusal := .next (s.flcErase m)
def execSuspend (_m : Master) (runUs : Nat) (s : State) : Host.Outcome State Fault Refusal := .next (s.flcSuspend runUs)
def execResume (_m : Master) (s : State) : Host.Outcome State Fault Refusal := .next s.flcResume

/-! ## Monotone counters (R411 to R413) -/

/-- The two sectors of counter `c`. -/
def mcSecs (c : Fin 2) : Nat × Nat := (1024 + 2 * c.val, 1025 + 2 * c.val)

/-- Three reads of a word: its first value, and whether they agree. -/
def State.read3 (s : State) (w : Nat) : Word × Bool × State :=
  let (a, s) := s.flashGet w
  let (b, s) := s.flashGet w
  let (d, s) := s.flashGet w
  (a, decide (a = b) && decide (b = d), s)

/-- A counter sector's base, when it is valid (R411). -/
def State.mcBase (s : State) (c : Fin 2) (sec : Nat) : Option Nat × State :=
  let (w0, k0, s) := s.read3 (1024 * sec)
  let (w1, k1, s) := s.read3 (1024 * sec + 1)
  let (w2, k2, s) := s.read3 (1024 * sec + 2)
  let (w3, k3, s) := s.read3 (1024 * sec + 3)
  if k0 && k1 && k2 && k3 && decide (w0 = 0x4D4F4E43) && decide (w1.toNat = c.val) && decide (w2 ^^^ w3 = 0xFFFFFFFF) then
    (some w3.toNat, s)
  else (none, s)

/-- Count the thermometer words of a sector from word `t`, settling the unstable ones when `fix` (R411, R413): words counted
and words settled. -/
def State.mcRun (sec : Nat) (fix : Bool) : Nat → Nat → State → Nat × Nat × State
  | 0, _, s => (0, 0, s)
  | left + 1, t, s =>
    let w := 1024 * sec + 4 + t
    let (v, same, s) := s.read3 w
    if same && decide (v = erasedWord) then (0, 0, s)
    else
      let bad := !(same && decide (v = 0))
      let s := if bad && fix then
          let p := s.physWord w
          (s.engineProgram 2 p 0).modFlc (fun f => { f with undef := f.undef.filter (fun u => u ≠ (p, 1)) })
        else s
      let (n, k, s) := State.mcRun sec fix left (t + 1) s
      (n + 1, k + (bad && fix).toNat, s)

/-- A sector reads blank. -/
def State.secBlank (s : State) (sec : Nat) : Bool × State :=
  let (ws, s) := State.flashWords (1024 * sec) 1024 s
  (ws.all (fun w => decide (w = erasedWord)), s)

/-- Write a counter sector's header (R411). -/
def State.mcHeader (s : State) (c : Fin 2) (sec base : Nat) : State :=
  let b := BitVec.ofNat 32 base
  let p := s.physSec sec * 1024
  (((s.engineProgram 2 p 0x4D4F4E43).engineProgram 2 (p + 1) (BitVec.ofNat 32 c.val)).engineProgram 2 (p + 2) (~~~b)).engineProgram 2 (p + 3) b

/-- The migration of R412 from the full sector `a` with value `v` to `b`. -/
def State.mcMigrate (s : State) (c : Fin 2) (a b v : Nat) : State :=
  ((s.engineErase 2 (s.physSec b)).mcHeader c b (v + 1)).engineErase 2 (s.physSec a)

/-- The winning sector of a counter, the other one, whether that is valid too, the winner's base, its programmed words and how
many of them were settled. -/
def State.mcWinner (s : State) (c : Fin 2) (fix : Bool) : Option (Nat × Nat × Bool × Nat × Nat × Nat) × State :=
  let (a, b) := mcSecs c
  let (va, s) := s.mcBase c a
  let (vb, s) := s.mcBase c b
  let pick (p q base : Nat) (s : State) :=
    let (n, k, s) := State.mcRun p fix 1020 0 s
    (some (p, q, va.isSome && vb.isSome, base, n, k), s)
  match va, vb with
  | none, none => (none, s)
  | some x, none => pick a b x s
  | none, some y => pick b a y s
  | some x, some y =>
    let (n, _, s) := State.mcRun a false 1020 0 s
    let (k, _, s) := State.mcRun b false 1020 0 s
    if x + n ≥ y + k then pick a b x s else pick b a y s

/-- COUNTER_SETTLE: settle one counter at start (R413). -/
def State.mcSettle (s : State) (c : Fin 2) : State :=
  match s.mcWinner c true with
  | (none, s) =>
    ((s.put (F.FLC_MC_STAT_BAD c) true).setReg (Reg.FLC_MC_VAL c) 0xFFFFFFFF).attention 8
  | (some (a, b, both, base, n, k), s) =>
    let (blank, s) := s.secBlank b
    let s := s.wr (F.FLC_MC_STAT_SETTLED c) (min 255 k)
    if n = 1020 ∧ blank = false ∧ both = false then
      ((s.mcMigrate c a b (base + n)).put (F.FLC_MC_STAT_MIG c) true).setReg (Reg.FLC_MC_VAL c) (BitVec.ofNat 32 (base + n + 1))
    else
      let s := if blank then s else s.engineErase 2 (s.physSec b)
      s.setReg (Reg.FLC_MC_VAL c) (BitVec.ofNat 32 (base + n))

/-- The increment itself (R412): the lowest erased thermometer word is programmed, or a full sector migrates. -/
def State.mcStep (s : State) (c : Fin 2) : State :=
  match s.mcWinner c false with
  | (none, s) => s
  | (some (a, b, _, base, n, _), s) =>
    let s := if n < 1020 then s.engineProgram 2 (s.physWord (1024 * a + 4 + n)) 0 else s.mcMigrate c a b (base + n)
    s.setReg (Reg.FLC_MC_VAL c) (BitVec.ofNat 32 (base + n + 1))

/-- A counter takes increments: SEQ's, while it is not bad (R412, R413). -/
def State.mcTakes (s : State) (m : Master) (c : Fin 2) : Bool := decide (m = .seq) && !s.flag (F.FLC_MC_STAT_BAD c)

/-- A write of `FLC_MC_CMD`: bit c increments counter c; both run one after the other (R412, R425). -/
def State.mcCmd (s : State) (m : Master) (bits : Nat) : State :=
  let cs := (List.finRange 2).filter (fun (c : Fin 2) => bits.testBit c.val && s.mcTakes m c)
  match cs with
  | [] => s
  | c :: r => if s.eraseBusy then s.flcBusyAnswer else (s.flcStart m (.inc c)).modFlc (fun f => { f with incs := r })

/-- INC: a write of `FLC_MC_CMD` for one counter. -/
def execInc (m : Master) (c : Fin 2) (s : State) : Host.Outcome State Fault Refusal := .next (s.mcCmd m (2 ^ c.val))

/-! ## The end of an operation -/

/-- The logical sector an operation works on: a counter's is the one that it programs. -/
def State.opSector (s : State) : FlcOp → Nat × State
  | .program w _ => (w / 1024, s)
  | .erase sec => (sec, s)
  | .inc c =>
    match s.mcWinner c false with
    | (some (a, b, _, _, n, _), s) => (if n < 1020 then a else b, s)
    | (none, s) => ((mcSecs c).1, s)

/-- The operation ends: DONE sets and FLC_DONE is raised; a waiting increment starts (R403, R425). -/
def State.flcEnd (s : State) : State :=
  let s := s.modFlc (fun f => { f with op := none, failed := false, spare := none, incs := [] })
  ((s.put F.FLC_STAT_DONE true).put F.FLC_STAT_BUSY s.flc.susp.isSome).event Ev.flcDone

/-- FLC_DONE: the running operation ends and FLC has read the unit back: `verified`, or not (R404, R405, R410). -/
def execFlcDone (verified : Bool) (s : State) : Host.Outcome State Fault Refusal :=
  match s.flc.op with
  | none => .next s
  | some o =>
    if s.flc.failed then .next s
    else if verified then
      let next := s.flc.incs
      let s := match o with
        | .program w v => s.flashProgram (s.physWord w) v
        | .erase sec => s.flashErase (s.physSec sec)
        | .inc c => s.mcStep c
      let s := s.flcEnd
      match next with
      | c :: r => .next ((s.flcStart .seq (.inc c)).modFlc (fun f => { f with incs := r }))
      | [] => .next s
    else
      let (sec, s) := s.opSector o
      let (cnt, addr) := match o with
        | .program w _ => (Reg.FLC_PFAIL_CNT, 4 * w)
        | .erase sec => (Reg.FLC_EFAIL_CNT, 4096 * sec)
        | .inc _ => (Reg.FLC_PFAIL_CNT, 4096 * sec)
      let s := (s.bump cnt).setReg Reg.FLC_ERR_ADDR (BitVec.ofNat 32 addr)
      .next ((s.modFlc (fun f => { f with failed := true })).axlAsk 0x07 0 sec 0x2)

/-- No spare sector is left (R410): the operation ends failed, and the task that issued it ends with 0x41. -/
def State.flcNoSpare (s : State) : State :=
  match s.flc.op with
  | none => s
  | some o =>
    let f := match o with
      | .erase _ => F.FLC_STAT_EFAIL
      | _ => F.FLC_STAT_PFAIL
    let mine := decide (s.reg Reg.FLC_LAST_MID = 2)
    let s := ((s.put f true).put F.FLC_STAT_SPEX true).flcEnd
    if mine then s.taskError 0x41 else s

/-- Copy the words of physical sector `a` that do not read erased into `b` (R410 step 2). -/
def State.copySector (a b : Nat) : Nat → State → State
  | 0, s => s
  | n + 1, s =>
    let (v, s) := s.flashRead (1024 * a + n)
    State.copySector a b n (if v = erasedWord then s else s.engineProgram 7 (1024 * b + n) v)

/-- SECTOR_REMAP: on AXL's grant the spare takes the failing sector's place and the operation is repeated on it (R410). A spare
that does not read blank is erased first. -/
def execSectorRemap (spareBlank : Bool) (s : State) : Host.Outcome State Fault Refusal :=
  match s.flc.op, s.flc.spare with
  | some o, some e =>
    let (sec, s) := s.opSector o
    let old := s.physSec sec
    let s := if spareBlank then s else s.engineErase 7 (16320 + e.val)
    let s := match o with
      | .erase _ => s
      | _ => State.copySector old (16320 + e.val) 1024 s
    let s := if 16320 ≤ old then s.put (F.FLC_SMAP_RETIRED (old - 16320)) true else s
    let s := s.setReg (Reg.FLC_SMAP e) (BitVec.ofNat 32 (2 ^ 31 + sec))
    .next (s.modFlc (fun f => { f with failed := false, spare := none }))
  | _, _ => .next s

/-- A reset during an operation leaves its unit undefined, a suspended one too (R408). -/
def State.flcLost (s : State) : State :=
  let lose (s : State) : FlcOp → State
    | .program w _ => s.flashLose (s.physWord w) 1
    | .erase sec => s.flashLose (1024 * s.physSec sec) 1024
    | .inc c =>
      match s.mcWinner c false with
      | (some (a, b, _, _, n, _), s) =>
        if n < 1020 then s.flashLose (s.physWord (1024 * a + 4 + n)) 1 else s.flashLose (1024 * s.physSec b) 1024
      | (none, s) => s
  let s := (s.flc.op.toList ++ s.flc.susp.toList).foldl lose s
  s.modFlc (fun f => { f with op := none, susp := none, incs := [], failed := false, spare := none })

end Sys2Proof.Machine
end

