-- ==== Sys2Proof/Machine/Cch.lean ====
section
/-! DEFINITION. The data side of SEQ: CCH with its regions, victim cache and maintenance operations, the store buffer, data
SRAM and the sealed buffer (R348, R367 to R372). -/

namespace Sys2Proof.Machine

/-- Change SEQ's structure. -/
def State.modSeq (s : State) (f : Seq → Seq) : State := { s with seq := f s.seq }

/-- SEQ's accesses are custodian accesses (R346). -/
def State.seqCust (s : State) : Bool := s.flag F.SEQ_MODE_PRIV

/-! ## Regions (R368) -/

/-- A page lies in region `k`'s range. -/
def State.inRegion (s : State) (k page : Nat) : Bool :=
  decide (s.rd (F.CCH_REG_BASE_BASE k) ≤ page) && decide (page ≤ s.rd (F.CCH_REG_LIM_LIM k))

/-- The lowest-numbered enabled region that holds an address. -/
def State.region (s : State) (a : Nat) : Option Nat :=
  (List.range 8).find? (fun k => s.flag (F.CCH_REG_ATTR_EN k) && s.inRegion k (a / 4096))

/-- The policy for an address: 0 = uncached. -/
def State.policy (s : State) (a : Nat) : Nat :=
  match s.region a with
  | some k => s.rd (F.CCH_REG_ATTR_POLICY k)
  | none => 0

/-! ## Store buffer and DRAM (R348, R387) -/

/-- A store of SEQ reaches DRAM. -/
def State.seqStore (s : State) (a : Nat) (bs : List Byte) : State :=
  ((s.setDramBytes a bs).clearPoison a bs.length).touch a true 2 (some s.seqCust)

/-- Every store in the buffer reaches DRAM, oldest first. -/
def State.drainStores (s : State) : State :=
  (s.seq.stores.foldl (fun s p => s.seqStore p.1 p.2) s).modSeq (fun q => { q with stores := [] })

/-- A store enters the buffer of 8; a full buffer gives up its oldest. -/
def State.pushStore (s : State) (a : Nat) (bs : List Byte) : State :=
  let s := match s.seq.stores with
    | p :: r => if r.length + 1 ≥ 8 then (s.seqStore p.1 p.2).modSeq (fun q => { q with stores := r }) else s
    | [] => s
  s.modSeq (fun q => { q with stores := q.stores ++ [(a, bs)] })

/-- The buffered byte of an address, which a load takes (R348): the newest. -/
def State.buffered (s : State) (x : Nat) : Option Byte :=
  s.seq.stores.foldl (fun b p => if p.1 ≤ x ∧ x < p.1 + p.2.length then p.2[x - p.1]? else b) none

/-- Stores to a line leave the buffer before newer data of the line does. -/
def State.settleLine (s : State) (a : Nat) : State :=
  if s.seq.stores.any (fun p => decide (p.1 / 64 = a / 64)) then s.drainStores else s

/-! ## Lines -/

/-- Write a line back; a poisoned word poisons the whole line in DRAM (R372, R386). -/
def State.writeBack (s : State) (l : CLine) : State :=
  let s := ((s.settleLine l.addr).bump64 Reg.CCH_WB_LO 1).seqStore l.addr l.data
  if l.poison = 0 then s else s.poisonLine l.addr

/-- Write a line back when it is dirty. -/
def State.cleanOne (s : State) (l : CLine) : State := if l.dirty then s.writeBack l else s

/-- A line enters the victim cache; the oldest of 8 makes room (R370). -/
def State.toVictim (s : State) (l : CLine) : State :=
  let s := match s.seq.victims with
    | v :: r => if r.length + 1 ≥ 8 then (s.cleanOne v).modSeq (fun q => { q with victims := r }) else s
    | [] => s
  s.modSeq (fun q => { q with victims := q.victims ++ [l] })

/-- A line is evicted (R368, R370). -/
def State.evictLine (s : State) (l : CLine) : State :=
  let s := s.bump64 Reg.CCH_EVICT_LO 1
  let vict := match s.region l.addr with
    | some k => s.flag (F.CCH_REG_ATTR_VICT k)
    | none => false
  if vict then s.toVictim l else s.cleanOne l

/-- Put a line in front, and evict the least recently used of 49. -/
def State.putLine (s : State) (l : CLine) : State :=
  let ls := s.seq.lines.filter (fun x => x.addr ≠ l.addr)
  match ls.drop 47 with
  | old :: _ => (s.evictLine old).modSeq (fun q => { q with lines := l :: ls.take 47 })
  | [] => s.modSeq (fun q => { q with lines := l :: ls })

/-- The line of an address, when CCH holds it: a hit comes to the front, a victim hit changes places with the least recently
used line (R370). -/
def State.findLine (s : State) (a : Nat) : Option CLine × State :=
  match s.seq.lines.find? (fun l => l.addr = a / 64 * 64) with
  | some l => (some l, (s.bump64 Reg.CCH_HIT_LO 1).putLine l)
  | none =>
    match s.seq.victims.find? (fun l => l.addr = a / 64 * 64) with
    | none => (none, s)
    | some v =>
      let s := s.bump64 Reg.CCH_VHIT_LO 1
      let vs := s.seq.victims
      match s.seq.lines.drop 47 with
      | old :: _ =>
        (some v, s.modSeq (fun q => { q with lines := v :: q.lines.take 47, victims := vs.map (fun x => if x.addr = v.addr then old else x) }))
      | [] => (some v, s.modSeq (fun q => { q with lines := v :: q.lines, victims := vs.filter (fun x => x.addr ≠ v.addr) }))

/-- The words of a line that the store buffer does not hold whole. -/
def State.wordsOpen (s : State) (b : Nat) : BitVec 8 :=
  BitVec.ofNat 8 (((List.range 8).filter (fun k => (List.range 8).any (fun i => (s.buffered (b + 8 * k + i)).isNone))).foldl
    (fun n k => n + 2 ^ k) 0)

/-- Fetch a line from DRAM, under what the store buffer holds (R348); a poisoned line brings eight poisoned words, but those that the
buffer holds whole (R370, R386, R387). -/
def State.fetchLine (s : State) (a : Nat) : CLine × State :=
  let b := a / 64 * 64
  let s := s.touch b false 2 (some s.seqCust)
  ({ addr := b, dirty := false, poison := if s.linePoisoned b then s.wordsOpen b else 0
     data := (s.dramBytes b 64).mapIdx (fun i v => (s.buffered (b + i)).getD v) }, s)

/-- A miss. -/
def State.cchMiss (s : State) (a : Nat) : State :=
  ((s.modSeq (fun q => { q with fill := none })).bump64 Reg.CCH_MISS_LO 1).pmcEvent 8 2 (some s.seqCust) (some (true, a))

/-- The word of an address in a line is poisoned. -/
def CLine.poisoned (l : CLine) (a : Nat) : Bool := l.poison.getLsbD (a % 64 / 8)

/-- Load `n` bytes from DRAM through CCH: the bytes, and whether poison was consumed. -/
def State.dramLoad (s : State) (a n : Nat) : List Byte × Bool × State :=
  let direct (s : State) : List Byte × Bool × State :=
    let (l, s) := s.fetchLine a
    (bytesAt l.data (a % 64) n, l.poisoned a, s)
  if s.policy a = 0 then direct (s.bump64 Reg.CCH_UNC_LO 1)
  else
    match s.findLine a with
    | (some l, s) => (bytesAt l.data (a % 64) n, l.poisoned a, s)
    | (none, s) =>
      let s := s.cchMiss a
      let alloc := match s.region a with
        | some k => s.flag (F.CCH_REG_ATTR_RDALLOC k)
        | none => false
      if alloc then
        let (l, s) := s.fetchLine a
        let s := (s.putLine l).modSeq (fun q => { q with fill := some l.addr })
        (bytesAt l.data (a % 64) n, l.poisoned a, s)
      else direct s

/-- A line with bytes stored at an address; a whole word clears its poison (R372). -/
def CLine.store (l : CLine) (a : Nat) (bs : List Byte) (dirty : Bool) : CLine :=
  let i := a % 64
  { l with
    data := l.data.take i ++ bs ++ l.data.drop (i + bs.length), dirty := l.dirty || dirty
    poison := if bs.length = 8 then l.poison &&& ~~~BitVec.ofNat 8 (2 ^ (i / 8)) else l.poison }

/-- Store bytes to DRAM through CCH (R368, R370). -/
def State.dramStore (s : State) (a : Nat) (bs : List Byte) : State :=
  let s := if s.seq.fill = some (a / 64 * 64) then s.modSeq (fun q => { q with fill := none }) else s
  match s.policy a with
  | 0 => (s.bump64 Reg.CCH_UNC_LO 1).pushStore a bs
  | p =>
    match s.findLine a with
    | (some l, s) =>
      let s := s.putLine (l.store a bs (decide (p ≠ 1)))
      if p = 1 then s.pushStore a bs else s
    | (none, s) =>
      let s := s.cchMiss a
      if p = 2 then
        let (l, s) := s.fetchLine a
        s.putLine (l.store a bs true)
      else s.pushStore a bs

/-! ## Maintenance (R369, R371) -/

/-- Clean, then drop, the lines and victims that a test selects. -/
def State.sweepLines (s : State) (sel : CLine → Bool) (clean drop_ : Bool) : State :=
  let s := if s.seq.lines.any (fun l => sel l && decide (s.seq.fill = some l.addr)) then s.modSeq (fun q => { q with fill := none }) else s
  let s := if clean then ((s.seq.lines ++ s.seq.victims).filter sel).foldl (fun s l => s.cleanOne l) s else s
  s.modSeq (fun q =>
    let keep (ls : List CLine) : List CLine :=
      if drop_ then ls.filter (fun l => !sel l)
      else if clean then ls.map (fun l => if sel l then { l with dirty := false } else l)
      else ls
    { q with lines := keep q.lines, victims := keep q.victims })

/-- A maintenance operation of R371 on the line at `a`. -/
def State.cchOp (s : State) (code a : Nat) : State :=
  let s := s.bump64 Reg.CCH_MAINT_LO 1
  let one (l : CLine) : Bool := decide (l.addr = a / 64 * 64)
  match code with
  | 0 => s.sweepLines one false true
  | 1 => s.sweepLines one true false
  | 2 => s.sweepLines one true true
  | 3 => s.sweepLines (fun _ => true) false true
  | 4 => s.sweepLines (fun _ => true) true false
  | 5 => s.sweepLines (fun _ => true) true true
  | _ => s

/-- INVALIDATE_LINE, CLEAN_LINE, CLEAN_AND_INVALIDATE_LINE and the same of all: the CACHE operation, and writes of `CCH_OP`. -/
def execInvalidateLine (a : BitVec 34) (s : State) : Host.Outcome State Fault Refusal := .next (s.cchOp 0 a.toNat)
def execCleanLine (a : BitVec 34) (s : State) : Host.Outcome State Fault Refusal := .next (s.cchOp 1 a.toNat)
def execCleanAndInvalidateLine (a : BitVec 34) (s : State) : Host.Outcome State Fault Refusal := .next (s.cchOp 2 a.toNat)
def execInvalidateAll (s : State) : Host.Outcome State Fault Refusal := .next (s.cchOp 3 0)
def execCleanAll (s : State) : Host.Outcome State Fault Refusal := .next (s.cchOp 4 0)
def execCleanAndInvalidateAll (s : State) : Host.Outcome State Fault Refusal := .next (s.cchOp 5 0)

/-- LINE_FILL: the rest of the filling line has arrived (R370 step 3). -/
def execLineFill (s : State) : Host.Outcome State Fault Refusal := .next (s.modSeq (fun q => { q with fill := none }))

/-- The writable bits of a region register, by its place in the group. -/
def regionMask (ofs : Nat) : Word := if ofs % 16 = 8 then 0x8F else 0x7FFFFF

/-- A write of a region register at offset `ofs`: lines of the old and the new range are written back and dropped first (R369). -/
def State.regionSet (s : State) (ofs : Nat) (v : Word) : State :=
  let k := (ofs - Reg.CCH_REG_BASE 0) / 16
  let s' := s.setReg ofs (v &&& regionMask ofs)
  let s := s.modSeq (fun q => { q with fill := none })
  let s := s.sweepLines (fun l => s.inRegion k (l.addr / 4096) || s'.inRegion k (l.addr / 4096)) true true
  s.setReg ofs (v &&& regionMask ofs)

/-- An offset names a region register. -/
def isRegion (ofs : Nat) : Bool := decide (Reg.CCH_REG_BASE 0 ≤ ofs) && decide (ofs < Reg.CCH_REG_BASE 0 + 128) && decide (ofs % 16 < 12) && decide (ofs % 4 = 0)

/-- REGION_WRITE: every field of these registers is RWK, so an operator's write is answered PRIV (R369, R542). -/
def execRegionWrite (m : Master) (ofs : BitVec 24) (v : Word) (s : State) : Host.Outcome State Fault Refusal :=
  .next (if isRegion ofs.toNat && s.custodian m then s.regionSet ofs.toNat v else s)

/-! ## Other memory (R367) -/

/-- Data SRAM, 256 KiB from 0x4_0000_0000, and the sealed buffer, 16 KiB from 0x4_0010_0000. -/
def sramBase : Nat := 0x400000000
def sealBase : Nat := 0x400100000

/-- Bytes of data SRAM. -/
def State.sramBytes (s : State) (i n : Nat) : List Byte := (List.range n).map (fun k => Sparse.get 0 s.seq.sram (i + k))
def State.setSram (s : State) (i : Nat) : List Byte → State
  | [] => s
  | b :: r => (s.modSeq (fun q => { q with sram := Sparse.set 0 q.sram i b })).setSram (i + 1) r

/-- Bytes of the released buffer: those above the released length read 0 (R440). -/
def State.sealBytes (s : State) (i n : Nat) : List Byte :=
  (List.range n).map (fun k => if i + k < (s.reg Reg.CPH_SB_LEN).toNat then Sparse.get 0 s.cph.buf (i + k) else 0)

/-- The memory an address of `n` bytes lies in, when SEQ may access it: 0 = DRAM, 1 = data SRAM, 2 = sealed buffer, which SEQ reads
only while it is released and SEQ owns the lock (R367, R440). -/
def State.seqSpace (s : State) (a n : Nat) (write : Bool) : Option Nat :=
  if a % n ≠ 0 then none
  else if a < 2 ^ 34 then (if s.flag F.SEQ_MODE_DRAM then some 0 else none)
  else if sramBase ≤ a ∧ a < sramBase + 2 ^ 18 then some 1
  else if sealBase ≤ a ∧ a < sealBase + 2 ^ 14 ∧ write = false ∧ s.flag F.CPH_STAT_RELEASED = true ∧ s.cphOwner .seq = true then some 2
  else none

end Sys2Proof.Machine
end

