-- ==== Sys2Proof/Machine/Code.lean ====
section
/-! DEFINITION. A block as it stands on the track: the angle of its slot (R32, R36), its channel bits (R37 to R44) with the LDPC
code of R42, the comparison of R172 and R173 with what the verify spot reads, and the pulse trains of its marks (R167, R168). -/

namespace Sys2Proof.Machine

/-! ## Slots against angle (R32, R36) -/

/-- The disc angle at which slot `s` of zone `z` begins, in ticks, and how long it lasts: exact rationals (R32). -/
def slotAngle (z s : Nat) : Rat := (s : Rat) * 1048576 / (bpr z : Rat)
def slotTicks (z : Nat) : Rat := 1048576 / (bpr z : Rat)

/-- The disc angle of an LBA's home slot (R36). -/
def lbaAngle (lba : Nat) : Rat := slotAngle (lbaZone lba) (lbaSlot lba)

/-- The slot of zone `z` whose start angle an event names by its target tick and its fraction in 1/256 tick (R69): the slot
whose start lies nearest. DEDUCED (log entry 48). -/
def slotNamed (z tick frac : Nat) : Nat := ((tick % 2 ^ 20 * 256 + frac) * bpr z + 2 ^ 27) / 2 ^ 28 % bpr z

/-! ## The LDPC code (R42) -/

/-- A column or row block: 512 bits, bit 0 first. -/
abbrev Circ := BitVec 512

/-- The set T(v). -/
def ldpcT (v : Nat) : List Nat :=
  [[0, 1, 3, 7], [0, 2, 3, 6], [0, 1, 4, 5], [0, 2, 5, 7], [0, 3, 4, 6], [0, 1, 5, 6], [0, 2, 4, 7], [0, 3, 5, 6]].getD v []

/-- The rows in which information column block `j` has a circulant. -/
def ldpcRows (j : Nat) : List Nat := (ldpcT (j / 8)).map (fun t => (j % 8 + t) % 8)

/-- The shift σ(i, j). -/
def ldpcShift (i j : Nat) : Nat := (17 * i * j + 3 * j + 29 * i) % 512

/-- A circulant times a column block: row p takes bit (p + σ) mod 512. -/
def circMul (σ : Nat) (x : Circ) : Circ := x.rotateLeft σ

/-- The contribution of the information blocks from block `j` on to row `i`. -/
def rowInfo (i : Nat) : Nat → List Circ → Circ
  | _, [] => 0
  | j, x :: r => (if (ldpcRows j).contains i then circMul (ldpcShift i j) x else 0) ^^^ rowInfo i (j + 1) r

/-- The parity blocks by accumulation: p_0 := s_0 and p_i := s_i xor p_(i−1); `n` rows from row `i`, `p` the one before. -/
def parityFrom (info : List Circ) : Nat → Nat → Circ → List Circ
  | 0, _, _ => []
  | n + 1, i, p => let q := rowInfo i 0 info ^^^ p; q :: parityFrom info n (i + 1) q

/-- The codeword of 64 information blocks: 72 blocks. -/
def ldpcEncode (info : List Circ) : List Circ := info ++ parityFrom info 8 0 0

/-- Row `i` of H times a codeword. -/
def syndromeRow (x : List Circ) (i : Nat) : Circ :=
  rowInfo i 0 (x.take 64) ^^^ x.getD (64 + i) 0 ^^^ (if i = 0 then 0 else x.getD (63 + i) 0)

/-- H times a codeword, eight rows of 512 checks. -/
def syndrome (x : List Circ) : List Circ := (List.range 8).map (syndromeRow x)

/-- Bits set in the low `n` bits of a number. -/
def ones : Nat → Nat → Nat
  | 0, _ => 0
  | n + 1, w => w % 2 + ones n (w / 2)

/-- Unsatisfied checks of a codeword. -/
def unsatChecks (x : List Circ) : Nat := ((syndrome x).map (fun r => ones 512 r.toNat)).sum

/-- Bytes as blocks of 512 bits, each byte msb first; `n` blocks. -/
def blocksOf : Nat → List Byte → List Circ
  | 0, _ => []
  | n + 1, bs => BitVec.ofNat 512 (beNat (bytesAt bs 0 64)) :: blocksOf n (bs.drop 64)

/-- Blocks as bytes. -/
def bytesOf (xs : List Circ) : List Byte := xs.flatMap (fun x => beBytes 64 x.toNat)

/-- The eight codewords of a block's 32,768 user bytes under a header's LBA field, 4,608 bytes each (R41, R42). -/
def codewords (lba : Nat) (data : List Byte) : List (List Byte) :=
  let scr := scramble (scramSeed lba) data
  (List.range 8).map (fun c => bytesOf (ldpcEncode (blocksOf 64 (scr.drop (4096 * c)))))

/-! ## Interleaving and the run breaker (R43, R44) -/

/-- The bits of a number, `n` of them, msb first. -/
def msbBits (n w : Nat) : List Bool := (List.range n).map (fun i => w.testBit (n - 1 - i))

/-- Stream group `m`: bits 16q to 16q + 15 of codeword m mod 8, q = m div 8 (R43). -/
def streamGroup (cws : List (List Byte)) (m : Nat) : Nat := beAt (cws.getD (m % 8) []) (2 * (m / 8)) 2

/-- The 64-bit word of run-breaker frame `g`: stream groups 4g to 4g + 3 (R44). -/
def frameWord (cws : List (List Byte)) (g : Nat) : List Bool :=
  (List.range 4).flatMap (fun k => msbBits 16 (streamGroup cws (4 * g + k)))

/-- A frame as sent: the flag, then the word, every second bit of it inverted when the flag is 1. -/
def flagged (f : Bool) (w : List Bool) : List Bool :=
  f :: (w.zip (List.range w.length)).map (fun p => if f && decide (p.2 % 2 = 1) then !p.1 else p.1)

/-- Where the channel bits sent so far stand: the last bit, the length of the run that it ends, and the digital sum since bit
704. -/
structure RunState where
  last : Bool
  run  : Nat
  sum  : Int
  deriving DecidableEq, Repr

/-- Send bits: the longest run that ends in one of them, and where that leaves the channel. -/
def RunState.send : RunState → List Bool → Nat × RunState
  | q, [] => (0, q)
  | q, b :: r =>
    let n := if b = q.last then q.run + 1 else 1
    let (m, q') := RunState.send ⟨b, n, q.sum + if b then 1 else -1⟩ r
    (max n m, q')

/-- The flag the encoder chooses for a frame (R44). DEDUCED (log entry 48). -/
def chooseFlag (q : RunState) (w : List Bool) : Bool :=
  let (m0, q0) := q.send (flagged false w)
  let (m1, q1) := q.send (flagged true w)
  if m0 ≤ 48 ∧ m1 ≤ 48 then decide (q1.sum.natAbs < q0.sum.natAbs)
  else if m0 ≤ 48 then false
  else if m1 ≤ 48 then true
  else decide (m1 < m0)

/-- The frames of a data field from the state the header leaves, in order. -/
def breakRuns : RunState → List (List Bool) → List Bool
  | _, [] => []
  | q, w :: r => let x := flagged (chooseFlag q w) w; x ++ breakRuns (q.send x).2 r

/-! ## The block (R37, R38, R40) -/

/-- The sync mark of R37. -/
def syncMark : Nat := 0x3E4CB1A70D95F26B

/-- The bi-phase header code: a 1 is sent as 1 then 0, a 0 as 0 then 1, bit 63 first (R40). -/
def biphase (w : Dword) : List Bool := (msbBits 64 w.toNat).flatMap (fun b => [b, !b])

/-- Preamble, sync mark and header: channel bits 0 to 703. -/
def blockHead (hdr : Dword) : List Bool :=
  (List.replicate 64 (msbBits 8 0x0F)).flatten ++ msbBits 64 syncMark ++ biphase hdr

/-- The data field: channel bits 704 to 300,223. -/
def blockData (hdr : Dword) (data : List Byte) : List Bool :=
  let cws := codewords (hdrLBA hdr) data
  let q := ((⟨false, 0, 0⟩ : RunState).send (blockHead hdr)).2
  breakRuns { q with sum := 0 } ((List.range 4608).map (frameWord cws))

/-- The pad starts with the opposite of the last data bit: channel bits 300,224 to 300,479. -/
def blockPad (last : Bool) : List Bool := (List.replicate 32 (msbBits 8 (if last then 0x0F else 0xF0))).flatten

/-- The 300,480 channel bits of a block with header word `hdr` and user bytes `data`. -/
def blockBits (hdr : Dword) (data : List Byte) : List Bool :=
  let d := blockData hdr data
  blockHead hdr ++ d ++ blockPad (d.getLastD false)

/-! ## What verify compares (R172, R173) -/

/-- Positions, counted from `n`, at which two rows of bits differ. -/
def diffAt : Nat → List Bool → List Bool → List Nat
  | _, [], _ => []
  | _, _, [] => []
  | n, a :: r, b :: t => if a = b then diffAt (n + 1) r t else n :: diffAt (n + 1) r t

/-- Mismatches over the sync mark at offsets −4 to +4. `read` holds what the verify spot gave for channel bits 508 to
300,227. -/
def syncMismatches (written read : List Bool) : List Nat :=
  (List.range 9).map (fun k => (diffAt 512 ((written.drop 512).take 64) (read.drop k)).length)

/-- The alignment of R172: the offset with the fewest sync mismatches, ties nearer 0, then negative. -/
def vfyAlign (mis : List Nat) : Int :=
  let order : List Int := [0, -1, 1, -2, 2, -3, 3, -4, 4]
  let at_ (o : Int) : Nat := mis.getD (o + 4).toNat 64
  order.foldl (fun best o => if at_ o < at_ best then o else best) 0

/-- The channel bits from 512 to 300,223 that differ at the alignment taken. -/
def mismatches (written read : List Bool) : List Nat :=
  let o := vfyAlign (syncMismatches written read)
  diffAt 512 ((written.drop 512).take 299712) (read.drop (o + 4).toNat)

/-- The codewords a mismatch at slot bit `n` counts for (R173). -/
def misCodewords (n : Nat) : List Nat :=
  if n < 704 then []
  else
    let k := n - 704
    let g := k / 65
    let p := k % 65
    if p = 0 then (List.range 4).map (fun i => (4 * g + i) % 8) else [(4 * g + (p - 1) / 16) % 8]

/-- Mismatches that count for codeword `c`. -/
def misCount (mis : List Nat) (c : Nat) : Nat := (mis.filter (fun n => (misCodewords n).contains c)).length

/-! ## Pulse trains (R167, R168) -/

/-- A mark of a row of channel bits: its first bit, its length, and the lengths of the spaces around it. -/
structure Mark where
  start : Nat
  len   : Nat
  before : Nat
  after : Nat
  deriving DecidableEq, Repr

/-- Runs of a row of bits from position `n`: first bit, length, value. -/
def bitRuns : Nat → List Bool → List (Nat × Nat × Bool)
  | _, [] => []
  | n, b :: r =>
    match bitRuns (n + 1) r with
    | (_, k, v) :: t => if v = b then (n, k + 1, b) :: t else (n, 1, b) :: (n + 1, k, v) :: t
    | [] => [(n, 1, b)]

/-- The marks among runs; `before` is the space run just passed. A missing space counts as a long one. -/
def marksOf : Nat → List (Nat × Nat × Bool) → List Mark
  | _, [] => []
  | before, (n, k, v) :: r =>
    if v then ⟨n, k, before, match r with
      | (_, j, _) :: _ => j
      | [] => 4⟩ :: marksOf 4 r
    else marksOf k r

/-- The strategy entry a mark uses (R167). -/
def Mark.index (m : Mark) : Nat :=
  (min m.len 16 - 1) * 8 + (min m.before 4 - 1) * 2 + (decide (m.after = 1)).toNat

/-- The train of a mark under its entry (R168): edges as positions in 1/16 channel bit with the level code that begins there,
0 = read level. -/
def Mark.train (m : Mark) (e : Word) : List (Int × Nat) :=
  let f (lo n : Nat) : Nat := e.toNat / 2 ^ lo % 2 ^ n
  let fs : Int := 16 * m.start + signed 5 (f 15 5)
  let fe : Int := fs + f 10 5
  let be : Int := 16 * (m.start + m.len) + 2 * signed 3 (f 0 3)
  let duty := f 7 3
  let first : List (Int × Nat) := if f 10 5 = 0 then [] else [(fs, f 28 4)]
  let pulses : List (Int × Nat) := (List.range (m.len + 2)).flatMap (fun k =>
    let t : Int := 16 * (m.start + k)
    if fe ≤ t ∧ t < be then (if t + 2 * duty < be then [(t, f 24 4), (t + 2 * duty, 0)] else [(t, f 24 4)]) else [])
  let body : List (Int × Nat) :=
    if be ≤ fe then [] else if duty = 0 then [(fe, f 24 4)] else (if pulses.head?.map (·.1) = some fe then pulses else (fe, 0) :: pulses)
  let ce : Int := max fe be
  let cool : List (Int × Nat) := if f 3 4 = 0 then [] else [(ce, f 20 4)]
  first ++ body ++ cool ++ [(ce + 2 * f 3 4, 0)]

/-- Trains joined: where one would run into the next, the next takes precedence from its first edge (R168). -/
def joinTrains : List (List (Int × Nat)) → List (Int × Nat)
  | [] => []
  | t :: r =>
    let rest := joinTrains r
    match rest with
    | [] => t
    | (p, _) :: _ => t.filter (fun e => decide (e.1 < p)) ++ rest

/-- The edges of a row of channel bits under a strategy table, before the channel's trim. -/
def trains (entry : Nat → Word) (bits : List Bool) : List (Int × Nat) :=
  joinTrains ((marksOf 4 (bitRuns 0 bits)).map (fun m => m.train (entry m.index)))

end Sys2Proof.Machine
end

