-- ==== Sys2Proof/Machine/Quad.lean ====
section
/-! DEFINITION. What ACQ and the loop supervisors make of the quadrant converters between two servo sample instants (R87, R88,
R232, R508): the codes at the instant, the stale flags, the crossings of the radial push-pull; and the instants themselves
(R74 to R76). -/

namespace Sys2Proof.Machine

/-- An input is converted (R106). -/
def State.converts (s : State) (i : Nat) : Bool := s.flag (F.ACQ_IN_CTRL_EN i)

/-- The data rate of a head would pass 1.06 GS/s at its zone and the disc's speed (R89). RATEERR is judged as the PLL locks, as a zone
is applied and at each sample instant, from `SPN_SPEED`. DEDUCED (log entry 53). -/
def State.rateOver (s : State) (h : Head) : Bool :=
  let zr := (s.reg (Reg.ACQ_ZRATIO ((s.reg (Reg.ACQ_HZONE h)).toNat % 20))).toNat
  decide (s.int Reg.SPN_SPEED * 8192 * zr > 1060000000 * 60 * 128 * 65536)

/-- Data and verify of a head are sampled: its PLL is in LOCKED or HOLDOVER, without RATEERR (R89, R93). -/
def State.sampleOn (s : State) (h : Head) : Bool :=
  decide (2 ≤ s.rd (F.ACQ_PLL_STAT_STATE h)) && !s.flag (F.ACQ_PLL_STAT_RATEERR h)

/-- RATEERR of the heads that are locked or held over follows the disc's speed (R89). -/
def State.rateCheck (s : State) : State :=
  (List.finRange 4).foldl (fun (s : State) (h : Head) =>
    if 2 ≤ s.rd (F.ACQ_PLL_STAT_STATE h) then s.put (F.ACQ_PLL_STAT_RATEERR h) (s.rateOver h) else s) s

/-- The nearest integer to a quotient, halves away from zero. -/
def divNear (a : Int) (b : Nat) : Int :=
  let q : Int := ((2 * a.natAbs + b) / (2 * b) : Nat)
  if a < 0 then -q else q

/-- What the quadrants of the four heads give at an instant: the codes delivered to SRV, the stale flags, the crossings of P since the
last instant, for each band-centre crossing among them how many follow it, and the sign of P at the end. -/
structure Quads where
  codes  : List (List Int)
  stale  : List Bool
  cross  : List Nat
  centre : List (List Nat)
  pos    : List Bool
  deriving DecidableEq, Repr

/-- Input `k` of head `h` is held by a calibration: its consumers see its last value (R87, R508). -/
def State.quadHeld (s : State) (x : SampleIn) (h : Head) (k : Nat) : Bool :=
  (x.stale.getD h.val []).getD k false && s.flag (F.ACQ_IN_CTRL_STALE_EN (13 * h.val + k))

/-- A quadrant brings no new code: it is held, or not converted (R106, R508). DESIGN CHOICE (log entry 54). -/
def State.quadKeeps (s : State) (x : SampleIn) (h : Head) (k : Nat) : Bool := s.quadHeld x h k || !s.converts (13 * h.val + k)

/-- The four codes of a conversion of head `h`, those without a new code at their last value. -/
def State.quadCodes (s : State) (x : SampleIn) (h : Head) (c : List Int) : List Int :=
  (List.range 4).map (fun k => if s.quadKeeps x h k then (s.acq.quads[h]).getD k 0 else c.getD k 0)

/-- Linear interpolation between the two conversions that bracket an instant, `t` fortieths of 50 ns after the first, to the nearest
code (R88). DESIGN CHOICE (log entry 54). -/
def interpolate (a b : Int) (t : Nat) : Int := divNear (a * (40 - (t : Int)) + b * t) 40

/-- The radial push-pull P of four quadrants: ((QA + QB) − (QC + QD)) / sum (R232). -/
def pushPull (q : List Int) : Rat :=
  let v (k : Nat) : Int := q.getD k 0
  (((v 0 + v 1) - (v 2 + v 3) : Int) : Rat) / ((v 0 + v 1 + v 2 + v 3 : Int) : Rat)

/-- Crossings of P over a stretch of conversions: their number, and for each band-centre crossing the crossings that follow it. A
band centre lies on one of the two slopes, which the spec does not name. DESIGN CHOICE (log entry 54). -/
def pushCross : List (List Int) → Bool → Nat × List Nat × Bool
  | [], pos => (0, [], pos)
  | q :: r, pos =>
    let now := decide (0 ≤ pushPull q)
    let (n, cs, z) := pushCross r now
    if now = pos then (n, cs, z) else (n + 1, if now = Config.centreRises then n :: cs else cs, z)

/-- What a sample instant brings of the quadrants. -/
def State.quadsOf (s : State) (x : SampleIn) : Quads :=
  let hs := List.finRange 4
  let conv (h : Head) : List (List Int) := (x.conv.getD h.val []).map (s.quadCodes x h)
  let code (h : Head) (k : Nat) : Int :=
    let l := conv h
    if s.quadKeeps x h k then (s.acq.quads[h]).getD k 0
    else interpolate ((l.getD (l.length - 2) []).getD k 0) ((l.getD (l.length - 1) []).getD k 0) x.at40
  let p (h : Head) : Nat × List Nat × Bool := pushCross (conv h) s.acq.push[h]
  { codes := hs.map (fun h => (List.range 4).map (code h))
    stale := hs.map (fun h => (List.range 4).any (s.quadHeld x h))
    cross := hs.map (fun h => (p h).1), centre := hs.map (fun h => (p h).2.1), pos := hs.map (fun h => (p h).2.2) }

/-- ACQ keeps what it delivered, and shows which of each head's 13 inputs are held (R87, R508). -/
def State.quadKeep (s : State) (x : SampleIn) (q : Quads) : State :=
  let s := { s with acq := { s.acq with
    quads := Vector.ofFn (fun (h : Head) => q.codes.getD h.val [])
    push := Vector.ofFn (fun (h : Head) => q.pos.getD h.val false) } }
  (List.finRange 4).foldl (fun s h => forEach (List.range 13) (fun k s => s.put (F.ACQ_IN_STAT_STALE (13 * h.val + k)) (s.quadHeld x h k)) s) s

/-! ## Sample instants (R74 to R76) -/

/-- The nominal interval between angle-based instants, in ns: a revolution at the spindle's speed over the samples in force; none at
standstill. -/
def State.nominalNs (s : State) : Option Nat :=
  let v := s.int Reg.SPN_SPEED
  if 0 < v then some (60000000000 * 65536 / (v.toNat * max 1 s.ang.spr)) else none

/-- The angle-based rate lies below 600 kHz, and the floor is on (R76). DEDUCED (log entry 53). -/
def State.floorOn (s : State) : Bool :=
  let v := s.int Reg.SPN_SPEED
  s.flag F.ANG_CTRL_FLOOR_EN && (decide (v ≤ 0) || decide (v.toNat * s.ang.spr < 600000 * 60 * 65536))

/-- No head is locked, and none is held over (R14 step 5): instants are issued by time. DEDUCED (log entry 53). -/
def State.headsLost (s : State) : Bool :=
  (List.finRange 4).all (fun (h : Head) => decide (s.rd (F.ACQ_PLL_STAT_STATE h) ≠ 2) && decide (s.rd (F.ACQ_PLL_STAT_STATE h) ≠ 3))

/-- The first angle instant at least 833 ns after a timed one, when the next lies `ns` on and they are `n` apart (R76). -/
def returnNs (n ns : Nat) : Nat := if ns < 833 then ns + (833 - ns + (n - 1)) / max 1 n * n else ns

/-- The interval to the next instant, which the corrected angle places `ns` after this one: with no head locked by time at the last
measured rate; at 600 kHz by time under the floor; after a timed instant the first angle instant at least 833 ns on; else from the
larger of 360 ns and half the nominal interval; never more than 1.5 times the nominal interval (R14, R75, R76).
DEDUCED (log entry 53). -/
def State.instantNs (s : State) (ns : Nat) : Nat :=
  if s.headsLost then s.ang.rate
  else if s.floorOn then 1667
  else match s.nominalNs with
    | none => max 360 ns
    | some n =>
      if s.ang.timed then min (returnNs n ns) (max 833 (3 * n / 2))
      else min (max ns (max 360 (n / 2))) (max 360 (3 * n / 2))

end Sys2Proof.Machine
end

