-- ==== Sys2Proof/Machine/Wrp.lean ====
section
/-! DEFINITION. The write path (R160 to R189): the enable conditions of a driver channel, write gates, verify decisions,
replacement queues, OPC and record events, and the commands that are theirs alone. -/

namespace Sys2Proof.Machine

/-! ## Channels -/

/-- The channel has a fault cause (R163, R184). -/
def State.lddFault (s : State) (c : Chan) : Bool :=
  s.flag (F.LDD_STAT_OVC c) || s.flag (F.LDD_STAT_OPEN c) || s.flag (F.LDD_STAT_HOT c)

/-- The five conditions of R161. -/
def State.chanOn (s : State) (c : Chan) : Bool :=
  s.stageOn && s.wrp.vld[chanHead c] && s.owned && s.flag (F.LDD_CTRL_EN c) && !s.lddFault c

/-- Change a beam's writing. -/
def State.modW (s : State) (b : Beam) (f : WBeam → WBeam) : State :=
  { s with wrp := { s.wrp with beams := s.wrp.beams.set b (f s.wrp.beams[b]) } }

/-- The channel carries current (R161, R164): a gate is open, or its read level is not off. -/
def State.chanActive (s : State) (c : Chan) : Bool :=
  s.chanOn c && (s.rd (F.LDD_CTRL_RLVL c) != 15 || (c.val % 5 != 0 && s.wrp.beams[chanBeam c].gate.isSome))

/-- A refused write of the channel. -/
def State.lddCfgErr (s : State) (c : Chan) : State := s.put (F.LDD_STAT_CFGERR c) true

/-- The read current of code `k`, in 0.1 mA, before the ceiling: DC by the APC factor and the step of 5 % (R147, R164). -/
def State.readLevel (s : State) (c : Chan) (k : Nat) : Int :=
  (s.rd (F.LDD_READ_DC c) : Int) * s.rd (F.LDD_SCALE_APC c) * (100 + 5 * signed 3 k) / 25600

/-- The current of read code `k`, in 0.1 mA (R164): zero for off, and a stepped level never above RCEIL. -/
def State.readCurrent (s : State) (c : Chan) (k : Nat) : Int :=
  if k = 15 then 0 else if k = 0 then s.readLevel c 0 else min (s.readLevel c k) (s.rd (F.LDD_LIMIT_RCEIL c))

/-- The current of level code `k` while a write gate of the channel is open, in 0.1 mA (R164, R165): code 0 is the read level with RLVL
as 0; codes 1 to 8 are W1 to W8 by the OPC factor in force. -/
def State.writeLevel (s : State) (c : Chan) (k : Nat) : Int :=
  if k = 0 then s.readCurrent c 0
  else ((s.reg (Reg.LDD_WLVL c (k - 1))).toNat : Int) * s.rd (F.LDD_SCALE_OPC c) / 256

/-- Ticks and 1/256 ticks in channel bits of zone `z` (R30). -/
def tickBits (z : Nat) (ticks256 : Int) : Rat := (ticks256 * (bpr z * 300480 : Nat) : Rat) / (2 ^ 28 : Nat)

/-- The zone applied on a beam's head, and the beam's data phase offset in channel bits (R99, R100). -/
def State.beamZone (s : State) (b : Beam) : Nat := (s.reg (Reg.ACQ_HZONE (b.val / 4))).toNat % 20
def State.phaseBits (s : State) (b : Beam) : Rat := (s.int (Reg.ACQ_PHOFS_D b) : Rat) / (64 : Nat)

/-- The slot start of a write gate, in channel bits from frame 0 of its revolution (R170): the target of its event with the fraction,
and the data phase offset of the beam. -/
def State.slotStart (s : State) (b : Beam) (target : Word) (frac : Byte) : Rat :=
  tickBits (s.beamZone b) (target.toNat % 2 ^ 20 * 256 + frac.toNat : Nat) + s.phaseBits b

/-- The slot start of an armed WGATE_OPEN of the beam lies at most 2,048 channel bits ahead (R165, R170 step 2). -/
def State.gateNear (s : State) (b : Beam) : Bool :=
  s.ang.entries.toList.any (fun e => e.armed && decide (e.action.toNat = 1) && decide (e.arg.toNat = b.val) &&
    decide (0 ≤ signed 32 (e.target.toNat + 2 ^ 44 - s.ang.now.toNat)) && decide (tickBits (s.beamZone b) ((signed 32 (e.target.toNat + 2 ^ 44 - s.ang.now.toNat)) * 256 + e.frac.toNat) + s.phaseBits b
      ≤ (2048 : Nat)))

/-- High-frequency superposition of the channel is off around a write gate (R165). -/
def State.hfDark (s : State) (c : Chan) : Bool := s.wrp.hfOff[c] || (c.val % 5 != 0 && s.gateNear (chanBeam c))

/-- Take read-level code `k` into force (R164): a step past RCEIL gives RCEIL and sets CLIP. -/
def State.setRlvl (s : State) (c : Chan) (k : Nat) : State :=
  let s := s.wr (F.LDD_CTRL_RLVL c) k
  let s := if k ≠ 0 then { s with wrp := { s.wrp with apcHold := s.wrp.apcHold.set (chanHead c) true } } else s
  if k < 8 ∧ k ≠ 0 ∧ s.readLevel c k > s.rd (F.LDD_LIMIT_RCEIL c) then s.put (F.LDD_STAT_CLIP c) true else s

/-- The LPOWER action (R164, R165). -/
def State.lpowerAct (s : State) (c : Nat) (k : Nat) : State :=
  if h : c < 20 then
    let c : Chan := ⟨c, h⟩
    if k < 8 ∧ k ≠ 4 ∨ k = 15 then
      if s.hfDark c then { s with wrp := { s.wrp with lpower := s.wrp.lpower.set c (some (BitVec.ofNat 4 k)) } }
      else s.setRlvl c k
    else s.lddCfgErr c
  else s

/-! ## Replacement queues -/

/-- The queue of a zone-layer. -/
def State.queue (s : State) (zl : Nat) : List RqBlk := Sparse.get [] s.wrp.queues zl

/-- Set the queue of a zone-layer. -/
def State.setQueue (s : State) (zl : Nat) (q : List RqBlk) : State :=
  { s with wrp := { s.wrp with queues := Sparse.set [] s.wrp.queues zl q } }

/-- A home block that failed verify joins its zone-layer's queue (R176). -/
def State.queueJoin (s : State) (lba : Nat) : State :=
  s.setQueue (lbaZL lba) (s.queue (lbaZL lba) ++ [⟨lba, 0⟩])

/-- Blocks in all queues (R564). -/
def State.queued (s : State) : Nat := (s.wrp.queues.map (fun p => p.2.length)).sum

/-- A zone-layer's next free spare index and ready bit. -/
def State.nextFree (s : State) (zl : Nat) : Nat := s.disc.nextFree.toList.getD zl 0
def State.zlReady (s : State) (zl : Nat) : Bool := s.disc.ready.toList.getD zl false

/-- Set a zone-layer's next free spare index. -/
def State.setNextFree (s : State) (zl n : Nat) : State :=
  if h : zl < 320 then
    ({ s with disc := { s.disc with nextFree := s.disc.nextFree.set zl n, changed := true } }).mirrRecord 0x13
      (beBytes 2 zl ++ beBytes 2 n)
  else s

/-- What waits for a zone-layer's ready bit brings its scan to the front of the rebuild's order (R22). -/
def State.zlFront (s : State) (zl : Nat) : State :=
  { s with disc := { s.disc with rebuild := if zl ∈ s.disc.rebuild then zl :: s.disc.rebuild.erase zl else s.disc.rebuild } }

/-- A head writes replacements of the zone-layer, or awaits the verify of one. -/
def State.replInFlight (s : State) (h : Head) (zl : Nat) : Bool :=
  (List.range 4).any (fun d =>
    let x := s.wrp.beams[headBeam h d]
    (x.gate.toList ++ x.vfy).any (fun w => decide (w.kind ≠ .home) && decide (w.zl = zl)))

/-- A replacement pass on the zone-layer goes on, ends with nothing left to write or judge, or, with blocks left and no spare slot,
ends the task with 0x12 naming the lowest queued LBA (R177). -/
def State.passStep (s : State) (zl : Nat) : State :=
  if (List.finRange 4).any (fun h => decide (s.wrp.pass[(h : Head)] = some zl)) then
    match s.queue zl with
    | [] =>
      { s with wrp := { s.wrp with pass := Vector.ofFn (fun (h : Head) =>
        if s.wrp.pass[h] = some zl ∧ s.replInFlight h zl = false then none else s.wrp.pass[h]) } }
    | q :: r =>
      if s.nextFree zl ≥ spares zl then (s.event Ev.rplExhaust).taskError 0x12 (some ((r.map (·.lba)).foldl min q.lba)) else s
  else s

/-- What follows a failed verify (R176, R177). -/
def State.verifyFailed (s : State) (b : WBlk) : State :=
  let s := s.event Ev.vfyFail
  match b.kind with
  | .home => s.queueJoin b.lba
  | .repl _ =>
    let s := (s.bump Reg.VFY_RPL_FAIL_CNT)
    let s := { s with wrp := { s.wrp with failedRpl := s.wrp.failedRpl + 1 } }
    if b.tries + 1 ≥ s.rd F.VFY_RPL_CFG_TRIES then s.taskError 0x10 (some b.lba)
    else (s.setQueue b.zl (⟨b.lba, b.tries + 1⟩ :: s.queue b.zl)).passStep b.zl

/-- The word of `VFY_B_LAST` for a decision (R187). -/
def vfyLast (pass early : Bool) (align : Int) (cwmap : Nat) (hdrf : Bool) (total : Nat) : Nat :=
  min total 0xFFFF + hdrf.toNat * 2 ^ 16 + cwmap % 256 * 2 ^ 17 + unsigned 4 align * 2 ^ 25 + early.toNat * 2 ^ 29
    + pass.toNat * 2 ^ 30 + 2 ^ 31

/-- A block fails without a comparison (R63, R169, R174). -/
def State.earlyFail (s : State) (b : Beam) (w : WBlk) : State :=
  let s := s.setReg (Reg.VFY_B_LAST b) (BitVec.ofNat 32 (vfyLast false true 0 0 false 0))
  let s := (s.wr (F.VFY_B_LBA_LBA b) w.lba).bump (Reg.VFY_B_FAIL_CNT b)
  s.verifyFailed w

/-- A beam's open gate closes before its block's end: the block is a verify failure (R14, R64, R161, R230). -/
def State.gateEarly (s : State) (b : Beam) : State :=
  match s.wrp.beams[b].gate with
  | some w => ((s.modW b (fun x => { x with gate := none, shut := some (s.gateSlot b) })).bump Reg.VFY_EARLY_CNT).earlyFail b w
  | none => s

/-- Every open gate of a head closes early, in ascending beam order. -/
def State.gatesEarly (s : State) (h : Head) : State :=
  (List.range 4).foldl (fun s d => s.gateEarly (headBeam h d)) s

/-- Every gate whose channel lost a condition of R161 closes early. -/
def State.dropGates (s : State) : State :=
  (List.finRange 16).foldl (fun s b => if s.chanOn (beamChan b) then s else s.gateEarly b) s

/-! ## Write gates -/

/-- `VFY_OPC_CFG` as it is in force on a head: while the head runs OPC, as it stood when that began (R189). -/
def State.opcCfg (s : State) (h : Head) : Word := (s.wrp.opcRun[h]).getD (s.reg Reg.VFY_OPC_CFG)
def State.opcEn (s : State) (h : Head) : Bool := decide (F.VFY_OPC_CFG_EN.of (s.opcCfg h) = 1)
def State.opcMode (s : State) (h : Head) : Bool := decide (F.VFY_OPC_CFG_MODE.of (s.opcCfg h) = 1)

/-- OPC factors that exist for a zone-layer and head (R175): those measured since the load, and with MODE = 1 those that the
catalogue entry held. -/
def State.opcFactors (s : State) (zl : Nat) (h : Head) : Option (List Nat) :=
  let hit (o : OpcFactors) : Bool := decide (o.zl.val = zl) && decide (o.head = h)
  ((s.disc.opc.find? (fun o => hit o && o.measured)).or
    (if s.opcMode h then s.disc.opc.find? hit else none)).map (·.f)

/-- The OPC factor a gate of beam `b` uses in a zone-layer; 256/256 with OPC off (R175, R189). -/
def State.opcFactor (s : State) (zl : Nat) (b : Beam) : Nat :=
  if s.opcEn (beamHead b) then ((s.opcFactors zl (beamHead b)).getD []).getD (b.val % 4) 256 else 256

/-- The head must run OPC before it writes in the zone-layer (R175). -/
def State.opcDue (s : State) (zl : Nat) (h : Head) : Bool := s.opcEn h && (s.opcFactors zl h).isNone

/-- Conditions of R169 but the first: speed, PLL in LOCKED, FOLLOW, R161 and WREN. -/
def State.gateOk (s : State) (b : Beam) : Bool :=
  s.int Reg.SPN_SPEED ≤ 4848 * 65536 && s.rd (F.ACQ_PLL_STAT_STATE (beamHead b)) = 2 &&
  s.rd (F.LSV_H_STAT_STATE (beamHead b)) = 6 && s.chanOn (beamChan b) && s.flag (F.LDD_CTRL_WREN (beamChan b))

/-- The gate of a beam closes at its block's end; the block awaits its verify decision (R170, R171). -/
def State.gateEnd (s : State) (b : Beam) : State :=
  match s.wrp.beams[b].gate with
  | some w => (s.modW b (fun x => { x with gate := none, vfy := x.vfy ++ [w] })).bump (Reg.WRP_BLK_CNT (beamChan b))
  | none => s

/-- The WGATE_CLOSE action. Where the beam's gate opened at the same target the close ends the earlier block, whose gate the
open has ended, and the gate stays open (R171). -/
def State.gateClose (s : State) (b : Beam) (e : AngEntry) : State :=
  if s.wrp.beams[b].gate.isSome && decide (s.wrp.beams[b].gateAt = e.target) then s else s.gateEnd b

/-- The stream buffer slot that holds a block to write: that of its home beam. DESIGN CHOICE (log entry 17). -/
def slotOf (w : WBlk) : Nat := streamAddr (homeBeam w.lba) w.lba

/-- The header word of a block to write, with the current WGEN (R38, R52, R169). -/
def State.headerOf (s : State) (w : WBlk) : Dword := mkHeader 1 (decide (w.kind ≠ .home)) false w.lba (s.rd F.TSK_DISC_WGEN)

/-- The gate of a beam opens on a block, at the slot that the event names: its header and its bytes are what the slot is written
with. -/
def State.gateBegin (s : State) (b : Beam) (w : WBlk) (at_ : Word) (frac : Byte) : State :=
  let c := beamChan b
  let w := { w with hdr := s.headerOf w, data := s.dramBytes (slotOf w) 32768 }
  let s := (s.modW b (fun x => { x with gate := some w, gateAt := at_, gateFrac := frac })).pmcEdge (0x110 + b)
  let s := s.wr (F.LDD_SCALE_OPC c) (s.opcFactor w.zl b)
  let s := { s with wrp := { s.wrp with hfOff := s.wrp.hfOff.set c true, apcHold := s.wrp.apcHold.set (beamHead b) true } }
  match w.kind with
  | .home =>
    let m := max w.lba (s.tsk.whw.getD 0)
    { s.wr F.VFY_WHW_LBA m with tsk := { s.tsk with whw := some m } }
  | .repl _ => s

/-- A gate of the beam has closed early inside the slot that the event names (R15). -/
def State.slotShut (s : State) (b : Beam) (zl : Nat) (e : AngEntry) : Bool :=
  match s.wrp.beams[b].shut with
  | some (layer, band, t) => decide (layer = s.rd (F.ANG_HPOS_LAYER (beamHead b))) && decide (band = s.headBand (beamHead b)) &&
      decide (slotNamed (zl % 20) t.toNat 0 = slotNamed (zl % 20) e.target.toNat e.frac.toNat)
  | none => false

/-- WGATE_OPEN on a block (R63, R169, R388): the gate opens, or stays shut and the block is a verify failure; a poisoned stream buffer
slot keeps it shut and ends the task with 0x40. `lead` says that what stood in the slot was complete 20 µs before. -/
def State.gateTry (s : State) (b : Beam) (w : WBlk) (e : AngEntry) (late lead : Bool) : State :=
  let s := s.gateEnd b
  let full := lead && s.tsk.fetched.contains w.lba
  if !late && full && s.gateOk b && !s.slotShut b w.zl e then
    if s.anyPoisoned (slotOf w) 32768 then (s.consumePoison (slotOf w) 2).taskError 0x40 (some w.lba)
    else (s.touchLines (slotOf w) 32768 false 2).gateBegin b w e.target e.frac
  else
    let s := if !late && !full then (s.bump (Reg.WRP_URUN_CNT (beamChan b))).bump Reg.VFY_URUN_CNT else s
    s.earlyFail b w

/-- The spare index that a WGATE_OPEN of beam `b` names in a pass: the first at or after `n` on the beam's track and in the slot
named; those before it are consumed unwritten (R177). -/
def spareNamed (zl n : Nat) (b : Beam) (slot : Nat) : Option Nat :=
  ((List.range (4 * bpr (zl % 20))).map (· + n)).find? (fun i =>
    decide (i < spares zl) && decide (spareTrack i = b.val % 4) && decide (spareSlot zl i = slot))

/-- A head begins OPC in a zone-layer at the gate that needs its factors, with `VFY_OPC_CFG` as it stands; it waits for the ready bit
(R175, R181, R189). -/
def State.opcBegin (s : State) (zl : Nat) (h : Head) : State :=
  if s.zlReady zl then
    if s.wrp.opcRun[h].isSome then s
    else { s with wrp := { s.wrp with opcRun := s.wrp.opcRun.set h (some (s.reg Reg.VFY_OPC_CFG)) } }
  else s.zlFront zl

/-- The WGATE_OPEN action (R63, R169, R175, R177). In a replacement pass the head's queue gives the block, at the spare slot that the
event names; else the block is the first planned one whose home slot the event names. Without one nothing is written. -/
def State.gateAct (s : State) (b : Beam) (e : AngEntry) (late lead : Bool) : State :=
  let slot (zl : Nat) : Nat := slotNamed (zl % 20) e.target.toNat e.frac.toNat
  let h := beamHead b
  match s.wrp.pass[h] with
  | some zl =>
    if !late && s.opcDue zl h then s.opcBegin zl h
    else
      match s.queue zl, spareNamed zl (s.nextFree zl) b (slot zl) with
      | q :: r, some i => (((s.setQueue zl r).setNextFree zl (i + 1)).gateTry b ⟨q.lba, .repl i, q.tries, zl, 0, []⟩ e late lead).passStep zl
      | _, _ => s
  | none =>
    match s.wrp.beams[b].plan.find? (fun w => decide (lbaSlot w.lba = slot w.zl)) with
    | none => s
    | some w =>
      if !late && s.opcDue w.zl h then s.opcBegin w.zl h
      else (s.modW b (fun x => { x with plan := x.plan.erase w })).gateTry b w e late lead

/-! ## What is written (R164 to R168, R170) -/

/-- The channel bits of the block whose gate is open. -/
def WBlk.bits (w : WBlk) : List Bool := blockBits w.hdr w.data

/-- What the channel of beam `b` emits while its gate is open: the edges of the block's pulse trains, in channel bits from frame 0 of
the revolution, with the slot start and the trim of the channel, and the current from each edge on, in 0.1 mA (R164, R165, R167, R168,
R170). DESIGN CHOICE (log entry 62). -/
def State.emission (s : State) (b : Beam) : List (Rat × Int) :=
  let c := beamChan b
  let x := s.wrp.beams[b]
  match x.gate with
  | some w => (trains (fun n => s.reg (Reg.WRP_STRAT (beamHead b) n)) w.bits).map (fun p =>
      (s.slotStart b x.gateAt x.gateFrac + ((p.1 + s.int (Reg.WRP_STRAT_CFG c) : Int) : Rat) / (16 : Nat), s.writeLevel c p.2))
  | none => []

/-! ## Verify -/

/-- What VFY finds of a block (R172, R173, R187). -/
structure Verdict where
  pass  : Bool
  hdrf  : Bool
  total : Nat
  cwmap : Nat
  align : Int
  deriving DecidableEq, Repr

/-- A block without a mismatch. -/
def Verdict.clean : Verdict := ⟨true, false, 0, 0, 0⟩

/-- The counts of R173 over the positions that mismatch, by the thresholds of beam `b`. -/
def State.verdict (s : State) (b : Beam) (align : Int) (mis : List Nat) : Verdict :=
  let hdrf := decide ((mis.filter (fun n => n < 704)).length ≥ s.rd (F.VFY_B_THR_HDR b))
  let cwmap := ((List.range 8).filter (fun c => misCount mis c ≥ s.rd (F.VFY_B_THR_CW b))).foldl (fun m c => m + 2 ^ c) 0
  ⟨!hdrf && decide (mis.length < s.rd (F.VFY_B_THR_TOTAL b)) && decide (cwmap = 0), hdrf, mis.length, cwmap, align⟩

/-- VFY compares a block written by beam `b` with what its verify spot read for channel bits 508 to 300,227 (R172, R173). -/
def State.judge (s : State) (b : Beam) (hdr : Dword) (data : List Byte) (read : List Bool) : Verdict :=
  let bits := blockBits hdr data
  s.verdict b (vfyAlign (syncMismatches bits read)) (mismatches bits read)

/-- A decision with a comparison is reported and counted (R174, R185, R187). -/
def State.vfyReport (s : State) (b : Beam) (lba : Nat) (d : Verdict) : State :=
  let s := s.setReg (Reg.VFY_B_LAST b) (BitVec.ofNat 32 (vfyLast d.pass false d.align d.cwmap d.hdrf d.total))
  let s := (s.wr (F.VFY_B_LBA_LBA b) lba).bump64 (Reg.VFY_B_MIS_LO b) d.total
  s.bump (if d.pass then Reg.VFY_B_PASS_CNT b else Reg.VFY_B_FAIL_CNT b)

/-- A replacement entry enters the live table in the step its block passes (R17, R18). -/
def State.addEntry (s : State) (lba spare : Nat) : State :=
  let e : RplEntry := ⟨lba, spare, s.rd F.TSK_DISC_WGEN, false⟩
  let s := { s with disc := { s.disc with table := s.disc.table ++ [e], added := s.disc.added + 1, changed := true }
                    wrp := { s.wrp with made := s.wrp.made + 1 } }
  (((s.putTableEntry e).bump Reg.VFY_RPL_CNT).event Ev.rplDone).mirrRecord 0x12 (beBytes 8 (entryDword e))

/-- VFY decides on the beam: its DET hands over hard bits in VERIFY mode, and VFY is enabled (R108, R172, R185).
DESIGN CHOICE (log entry 50). -/
def State.vfyOn (s : State) (b : Beam) : Bool := decide (s.rd (F.DET_STAT_MODE b) = 2) && s.flag F.VFY_CTRL_EN

/-- The verify spot of beam `b` is sampled (R85, R89, R93, R106). -/
def State.vfySampled (s : State) (b : Beam) : Bool :=
  s.sampleOn (beamHead b) && s.converts (13 * (b.val / 4) + 9 + b.val % 4)

/-- VFY decides the oldest written block of beam `b` (R172 to R174, R178); while the verify spot is not sampled there is nothing to
compare, and the block fails without a comparison (R14, R89, R93). DESIGN CHOICE (log entry 50). `sync` is what the verify spot gave for channel bits 508
to 579, where the sync mark is sought, and `body` for bits 580 to 300,227. -/
def execVerifyDecision (b : Beam) (sync body : List Bool) (s : State) : Host.Outcome State Fault Refusal :=
  match s.wrp.beams[b].vfy with
  | [] => .next s
  | w :: r =>
    if s.vfyOn b && !s.vfySampled b then .next ((s.modW b (fun x => { x with vfy := r })).earlyFail b w)
    else if s.vfyOn b then
      let d := s.judge b w.hdr w.data (sync ++ body)
      let s := (s.modW b (fun x => { x with vfy := r })).vfyReport b w.lba d
      if d.pass then
        match w.kind with
        | .home => .next (s.blockComplete w.lba)
        | .repl i => .next (((s.addEntry w.lba i).blockComplete w.lba).passStep w.zl)
      else .next (s.verifyFailed w)
    else .next s

/-! ## Replacement pass, OPC, record event -/

/-- The zone-layer a head works: the layer it follows and the zone applied (R59, R99). -/
def State.headZL (s : State) (h : Head) : Nat := s.rd (F.ANG_HPOS_LAYER h) * 20 + (s.reg (Reg.ACQ_HZONE h)).toNat % 20

/-- The next home block planned on the head's beams, in LBA order. -/
def State.nextHome (s : State) (h : Head) : Option WBlk :=
  ((List.range 4).flatMap (fun d => s.wrp.beams[headBeam h d].plan)).foldl (fun best w => match best with
    | none => some w
    | some q => if w.lba < q.lba then some w else some q) none

/-- A home block of the head is being written or awaits its verify. -/
def State.homeInFlight (s : State) (h : Head) : Bool :=
  (List.range 4).any (fun d =>
    let x := s.wrp.beams[headBeam h d]
    (x.gate.toList ++ x.vfy).any (fun w => decide (w.kind = .home)))

/-- The head takes a replacement pass on a zone-layer (R176): its queue holds RQMAX blocks, the next planned band lies elsewhere, or
no home write of the task is left. -/
def State.passDue (s : State) (h : Head) (zl : Nat) : Bool :=
  !(s.queue zl).isEmpty &&
  (decide ((s.queue zl).length ≥ s.rd F.VFY_RPL_CFG_RQMAX) ||
   match s.nextHome h with
   | some w => decide (w.zl ≠ zl)
   | none => !s.homeInFlight h)

/-- REPLACEMENT_PASS: a head takes a pass on the zone-layer it writes; it waits for the ready bit, and the scan of the zone-layer moves
to the front (R22, R176, R177). -/
def execReplacementPass (h : Head) (s : State) : Host.Outcome State Fault Refusal :=
  let zl := s.headZL h
  if s.wrp.pass[h].isNone && s.passDue h zl then
    if s.zlReady zl then .next (({ s with wrp := { s.wrp with pass := s.wrp.pass.set h (some zl) } }).passStep zl)
    else .next (s.zlFront zl)
  else .next s

/-- Scale of OPC step `k`, in 1/256 (R175). -/
def opcScale (k : Nat) : Nat := 202 + 15 * k

/-- The longest run of passing steps, as (first, last); ties go to the lower power (R175 step 4). -/
def opcWindow (pass : List Bool) : Option (Nat × Nat) :=
  let runs := (List.range 8).flatMap (fun a => ((List.range 8).filter (fun b => a ≤ b &&
    (List.range 8).all (fun k => !(a ≤ k && k ≤ b) || pass.getD k false))).map (fun b => (a, b)))
  runs.foldl (fun best r => match best with
    | none => some r
    | some q => if r.2 - r.1 > q.2 - q.1 then some r else some q) none

/-- One beam's factor and `WRP_OPC_RES` word from its test totals (R175 steps 4 and 5); a test block that was not written is a
failing step (R565). -/
def opcResult (thr : Nat) (totals : List (Option Nat)) : Nat × Nat :=
  match opcWindow ((List.range 8).map (fun k => match totals.getD k none with
    | some t => decide (t < thr)
    | none => false)) with
  | some (a, z) => let f := (opcScale a + opcScale z) / 2; (f, a + z * 16 + f * 2 ^ 16)
  | none => (256, 256 * 2 ^ 16 + 2 ^ 31)

/-- An OPC test block (R175): HVER 0xF, LBA 0, the current WGEN, zero user bytes. -/
def State.testHeader (s : State) : Dword := mkHeader 0xF false false 0 (s.rd F.TSK_DISC_WGEN)

/-- The TOTAL of a test block of beam `b` from what its verify spot read (R173, R175 step 3), none for one that was not written. -/
def State.testTotal (s : State) (b : Beam) (read : Option (List Bool)) : Option Nat :=
  read.map (fun r => (s.judge b s.testHeader (List.replicate 32768 0) r).total)

/-- The TOTALs of the eight test blocks of each of a head's four beams. -/
def State.testTotals (s : State) (h : Head) (reads : List (List (Option (List Bool)))) (d : Nat) : List (Option Nat) :=
  (reads.getD d []).map (s.testTotal (headBeam h d))

/-- A head runs OPC in the zone-layer it works (R175): `reads` is what the verify spots gave of the eight test blocks of each of its
four beams, for channel bits 508 to 300,227, none for a block that was not written. It waits for the ready bit (R22, R181). Where no
block of a beam was written, its least TOTAL reads all ones. DESIGN CHOICE (log entry 51). -/
def execOpc (h : Head) (reads : List (List (Option (List Bool)))) (s : State) : Host.Outcome State Fault Refusal :=
  let zl := s.headZL h
  if s.opcDue zl h then
    if s.zlReady zl then
      let i0 := (s.nextFree zl + 3) / 4 * 4
      let cfg := s.opcCfg h
      let test := decide (i0 + 32 ≤ spares zl)
      let totals := s.testTotals h reads
      let res (d : Nat) : Nat × Nat := if test then opcResult (F.VFY_OPC_CFG_THR.of cfg) (totals d) else (256, 256 * 2 ^ 16 + 2 ^ 31)
      let keep := s.opcMode h
      let s := s.bump Reg.VFY_OPC_CNT
      let s := { s with
        wrp := { s.wrp with opcs := s.wrp.opcs + 1, opcRun := s.wrp.opcRun.set h none }
        disc := { s.disc with opc := s.disc.opc ++ [⟨Fin.ofNat 320 zl, h, (List.range 4).map (fun d => (res d).1), true, keep⟩] } }
      let s := forEach (List.range 4) (fun d s =>
        let c := beamChan (headBeam h d)
        let s := s.setReg (Reg.WRP_OPC_RES c) (BitVec.ofNat 32 (res d).2)
        if test then
          (s.wr (F.LDD_SCALE_OPC c) (res d).1).setReg (Reg.WRP_OPC_MIS c)
            (BitVec.ofNat 32 (((totals d).filterMap id).foldl min 0xFFFFFFFF))
        else s) s
      .next (if test then s.setNextFree zl (i0 + 32) else s)
    else .next (s.zlFront zl)
  else .next s

/-- The head of a layer's side that writes a management block (R48). -/
def mgmtHead (layer : Nat) (high : Bool) : Head := Fin.ofNat 4 (layer / 8 % 2 + 2 * high.toNat)

/-- Write one management block of a layer (R48): at the next slot, by the beam of its track, with MGMT = 1 in its header, judged under
R173; one that fails leaves its slot used and is written again in the next. Answers the verifies still to come, none when no slot
is free (R54). Past the end of the evidence a block passes. DESIGN CHOICE (log entry 26). -/
def State.writeMgmt (layer : Nat) (bytes : List Byte) : Nat → List MgmtVerify → State → Option (List MgmtVerify) × State
  | 0, _, s => (none, s)
  | fuel + 1, ev, s =>
    if h : layer < 16 then
      let j := s.disc.mgmtNext[layer]
      if j ≥ 704 then (none, s)
      else
        let s := { s with disc := { s.disc with mgmtNext := s.disc.mgmtNext.set layer (j + 1) } }
        let b := headBeam (mgmtHead layer ((ev.head?.map (·.high)).getD false)) j
        let hdr := mkHeader 1 false true (layer * 2 ^ 21 + j) (s.rd F.TSK_DISC_WGEN)
        let d := match ev with
          | v :: _ => s.judge b hdr bytes v.read
          | [] => Verdict.clean
        let s := s.vfyReport b (hdrLBA hdr) d
        if d.pass then (some (ev.drop 1), { s with disc := { s.disc with written := s.disc.written ++ [⟨⟨layer, h⟩, j, bytes⟩] } })
        else State.writeMgmt layer bytes fuel (ev.drop 1) s
    else (none, s)

/-- The entries of a layer that no entry block holds yet (R49). -/
def State.unrecorded (s : State) (layer : Nat) : List RplEntry :=
  s.disc.table.filter (fun e => !e.recorded && decide (lbaLayer e.lba = layer))

/-- Write a layer's entry blocks, 4,096 entries each, in the order they were added (R49 step 1, R50). -/
def State.writeEntries (layer : Nat) : Nat → List MgmtVerify → State → Option (List MgmtVerify) × State
  | 0, ev, s => (some ev, s)
  | fuel + 1, ev, s =>
    let batch := (s.unrecorded layer).take 4096
    if batch.isEmpty then (some ev, s)
    else
      match State.writeMgmt layer (entryBlock batch) 704 ev s with
      | (none, s) => (none, s)
      | (some ev, s) =>
        State.writeEntries layer fuel ev { s with disc := { s.disc with
          table := s.disc.table.map (fun e => if batch.contains e then { e with recorded := true } else e)
          recorded := if h : layer < 16 then s.disc.recorded.set layer (s.disc.recorded[layer] + batch.length) else s.disc.recorded } }

/-- The disc identity: the record's, or for a disc without one the serial number and the load count (R51, R52). -/
def State.discIdentity (s : State) : List Byte :=
  if s.disc.hasRecord then s.disc.identity
  else wordsBytes ((List.range 3).map (fun k => s.reg (Reg.CFG_SERIAL k))) ++ beBytes 4 s.disc.loads

/-- The disc record of a record event made now (R51). The total counts every entry of the live table, one that a later entry for its
LBA has replaced too. DESIGN CHOICE (log entry 56). -/
def State.recordNow (s : State) (close : Bool) : List Byte :=
  discRecord (s.disc.recSeq + 1) s.discIdentity (s.rd F.TSK_DISC_WGEN) close s.disc.table.length s.disc.nextFree.toList s.disc.recorded.toList

/-- A record event (R19, R49, R54): entry blocks of each layer in ascending order, then the disc record in layer 0 and its
copy in layer 8. Without a free slot it stops, and what it has written stays written: the slots are used and the entries
recorded; answers whether it was completed. Where the record stands in layer 0 and layer 8 has no slot, the sequence number, the
identity and the count of added entries stay as they were. DESIGN CHOICE (log entry 51). -/
def State.recordEvent (s : State) (close : Bool) (verify : List MgmtVerify) : Bool × State :=
  let step (p : Option (List MgmtVerify) × State) (layer : Nat) : Option (List MgmtVerify) × State :=
    match p.1 with
    | none => p
    | some ev => State.writeEntries layer (p.2.disc.table.length + 1) ev p.2
  let p := (List.range 16).foldl step (some verify, s)
  let r := p.2.recordNow close
  let rec_ (p : Option (List MgmtVerify) × State) (layer : Nat) : Option (List MgmtVerify) × State :=
    match p.1 with
    | none => p
    | some ev => State.writeMgmt layer r 704 ev p.2
  let p := [0, 8].foldl rec_ p
  match p.1 with
  | none => (false, p.2)
  | some _ =>
    (true, { p.2 with disc := { p.2.disc with
      recSeq := p.2.disc.recSeq + 1, recWgen := p.2.rd F.TSK_DISC_WGEN, hasRecord := true, identity := p.2.discIdentity
      added := 0, changed := false } })

/-- What the verify spots give in the record event of a task: a free value, drawn anew each time. DESIGN CHOICE (log entry 26). -/
def State.mgmtSeen (s : State) : List MgmtVerify × State :=
  ((Config.mgmtRead s.free).map (fun v => ⟨v.1, v.2⟩), { s with free := s.free + 1 })

/-- The record event a task makes (R325). -/
def State.taskRecord (s : State) (close : Bool) : Bool × State := s.mgmtSeen.2.recordEvent close s.mgmtSeen.1

/-- RECORD_EVENT: made after every 4,096 entries added (R19); with `verify` as the verify results of its blocks. -/
def execRecordEvent (verify : List MgmtVerify) (s : State) : Host.Outcome State Fault Refusal :=
  if s.flag F.TSK_DISC_LOADED && s.disc.added ≥ 4096 then
    match s.recordEvent false verify with
    | (true, s) => .next s
    | (false, s) => .next (s.taskError 0x13)
  else .next s

/-! ## Enable conditions -/

/-- A condition of R161 fell for the channel: its open gate closes, and the block is a verify failure. -/
def execEnableConditionLoss (c : Chan) (s : State) : Host.Outcome State Fault Refusal :=
  if s.chanOn c || c.val % 5 = 0 then .next s else .next (s.gateEarly (chanBeam c))

/-- The head's VLD monitor takes a reading (R162): off below DN, on only by a rising crossing of UP. -/
def execVldMonitor (h : Head) (mv : Nat) (s : State) : Host.Outcome State Fault Refusal :=
  let c := sChan h
  let before := s.rd (F.LDD_COMPL_VLD c)
  let up := s.rd (F.LDD_COMPL_UP c)
  let s1 := s.wr (F.LDD_COMPL_VLD c) (min 255 (mv / 100))
  let set (s : State) (on : Bool) : State := { s with wrp := { s.wrp with vld := s.wrp.vld.set h on } }
  if mv < s.rd (F.LDD_COMPL_DN c) * 100 then .next (set s1 false).dropGates
  else if before < up && up * 100 ≤ mv then .next (set s1 true)
  else .next s1

/-- The interval of R165 ends: superposition is on again, and a stored LPOWER takes effect. -/
def execHfIntervalEnd (c : Chan) (s : State) : Host.Outcome State Fault Refusal :=
  if c.val % 5 ≠ 0 && (s.wrp.beams[chanBeam c].gate.isSome || s.gateNear (chanBeam c)) then .next s
  else
    let k := s.wrp.lpower[c]
    let s := { s with wrp := { s.wrp with hfOff := s.wrp.hfOff.set c false, lpower := s.wrp.lpower.set c none } }
    match k with
    | some k => .next (s.setRlvl c k.toNat)
    | none => .next s

end Sys2Proof.Machine
end

