-- ==== Sys2Proof/Machine/Rcv.lean ====
section
/-! DEFINITION. Read recovery (R142 to R159): the block's way up the ladder, deferral, retry points, quality records; and
the rebuild of the replacement table (R20 to R22, R53), with its two commands. -/

namespace Sys2Proof.Machine

/-! ## Blocks and rungs -/

/-- The recovery logic's state of a block. -/
def State.rblk (s : State) (lba : Nat) : Option RBlk := s.rcv.blks.find? (·.lba = lba)

/-- Keep the state of a block, in the place it had, or as the newest. -/
def State.keepBlk (s : State) (k : RBlk) : State :=
  let l := s.rcv.blks
  let l := if l.any (·.lba = k.lba) then l.map (fun q => if q.lba = k.lba then k else q) else l ++ [k]
  { s with rcv := { s.rcv with blks := l } }

/-- Drop the state of a block. -/
def State.dropBlk (s : State) (lba : Nat) : State :=
  { s with rcv := { s.rcv with blks := s.rcv.blks.filter (·.lba ≠ lba) } }

/-- The head a block is deferred on: its home beam's. -/
def RBlk.head (k : RBlk) : Head := beamHead k.beam

/-- The block lies in the management area (R48). DESIGN CHOICE (log entry 15). -/
def RBlk.mgmt (k : RBlk) : Bool := decide (k.lba ≥ 2 ^ 25)

/-- The layer and band the block is read at: its home slot's, its spare slot's, or its management slot's (R35, R36, R48).
DESIGN CHOICE (log entry 15). -/
def RBlk.place (k : RBlk) : Nat × Nat :=
  (lbaLayer k.lba % 16, if k.mgmt then lbaBlk k.lba / 44 else match k.spare with
    | none => lbaBand k.lba
    | some i => spareBand (lbaZL k.lba) i)

/-- The slot the block is read at. -/
def RBlk.slot (k : RBlk) : Nat :=
  if k.mgmt then lbaBlk k.lba % 44 / 4 else match k.spare with
  | none => lbaSlot k.lba
  | some i => spareSlot (lbaZL k.lba) i

/-- Rung `k` has PASS = 1; rung 0 is a read of the disc (R147). -/
def State.rungPass (s : State) (k : Nat) : Bool := k = 0 || s.flag (F.RCV_RUNG_PASS k)

/-- Nothing follows rung `k` (R149). -/
def State.rungLast (s : State) (k : Nat) : Bool := k ≥ 15 || (k ≠ 0 && s.flag (F.RCV_RUNG_END k))

/-- The iteration limit of rung `k`, clipped to CEIL (R129, R147). -/
def State.rungIter (s : State) (k : Nat) : Nat :=
  min (s.rd F.DEC_ITER_CFG_CEIL) (if k = 0 then s.rd F.DEC_ITER_CFG_DFLT else s.rd (F.RCV_RUNG_ITER k))

/-- The tracking offset of rung `k`, in 15 nm steps (R147). -/
def State.rungOfs (s : State) (k : Nat) : Int := if k = 0 then 0 else signed 3 (s.rd (F.RCV_RUNG_TRKOFS k))

/-- Change a beam's detector. -/
def State.modDet (s : State) (b : Beam) (f : Det → Det) : State := { s with det := s.det.set b (f s.det[b]) }

/-- Free a sample buffer slot (R124). -/
def State.freeBuf (s : State) : Option (Beam × Fin 6) → State
  | none => s
  | some (b, i) => s.modDet b (fun d => { d with bufs := d.bufs.set i none })

/-! ## Ready bits and the table -/

/-- The spare index the live table holds for an LBA (R17). -/
def State.spareOf (s : State) (lba : Nat) : Option Nat := (s.disc.table.reverse.find? (·.lba = lba)).map (·.spare)

/-! ## The quality record -/

/-- The 128 bits of a quality record (R157). -/
def qualityWord (k : RBlk) (outcome : Nat) : Nat :=
  let f := k.fig
  k.lba % 2 ^ 25 * 2 ^ 103 + outcome * 2 ^ 100 + k.rung * 2 ^ 96 + min 15 k.passes * 2 ^ 92 + k.beam.val * 2 ^ 88
    + f.iter % 64 * 2 ^ 82 + f.syncd % 32 * 2 ^ 77 + f.syncofs % 256 * 2 ^ 64 + min 255 f.ermax * 2 ^ 56
    + min 255 f.flagamb * 2 ^ 48 + f.flips % 2 ^ 16 * 2 ^ 32 + f.mse % 2 ^ 16 * 2 ^ 16 + f.wgen % 2 ^ 16

/-- Write a record to the ring in DRAM, over the oldest (R157). R9 names no master for these writes; they carry that of the read path, DEC.
DESIGN CHOICE (log entry 51). -/
def State.ringRecord (s : State) (w : Nat) : State :=
  let p := s.rd F.RCV_QPTR_PTR
  (s.storeBytes ((s.reg Reg.RCV_QBASE).toNat * 16 + 16 * p) (beBytes 16 w) 3).wr F.RCV_QPTR_PTR (p + 1)

/-- The quality area of the running task: its host address and its size in records (R320). -/
def State.qarea (s : State) : Nat × Nat :=
  ((s.tsk.desc.getD 10 0).toNat * 2 ^ 32 + (s.tsk.desc.getD 11 0).toNat, (s.tsk.desc.getD 12 0).toNat)

/-- Place a record in the running task's quality area (R157, R326): a full area counts it as not placed, and an area no
window permits ends the task with 0x30. -/
def State.areaRecord (s : State) (lba w : Nat) : State :=
  let (a, n) := s.qarea
  if a = 0 then s
  else if s.tsk.placed ≥ n then { s with tsk := { s.tsk with unplaced := s.tsk.unplaced + 1 } }
  else
    let at_ := a + 16 * s.tsk.placed
    if s.winOk true at_ 16 then
      let s := s.sendMWR (s.routePort lba) at_ (beBytes 16 w)
      { s with tsk := { s.tsk with placed := s.tsk.placed + 1 } }
    else s.winViol true at_ 16

/-- A task that reads: READ_EXTENT or VERIFY_EXTENT, and the block is its own. -/
def State.readTask (s : State) (lba : Nat) : Bool := s.inTask lba && s.opcode ≠ 2

/-- The quality record of a block that ends (R157): the ring under `RCV_CFG.QALL`, the area under the task's QALL. -/
def State.qualityRecord (s : State) (k : RBlk) (outcome : Nat) : State :=
  let w := qualityWord k outcome
  let s := if outcome ≠ 0 || s.flag F.RCV_CFG_QALL then s.ringRecord w else s
  if s.readTask k.lba && (outcome ≠ 0 || (s.tsk.desc.getD 0 0).getLsbD 16) then s.areaRecord k.lba w else s

/-! ## How a block ends -/

/-- A management block that ends is kept for the command that reads the management area, with the bytes its stream buffer slot holds
(R53 step 1, R130). -/
def State.mgmtEnd (s : State) (k : RBlk) (outcome : Nat) : State :=
  if k.mgmt then
    let a := streamAddr k.beam k.lba
    let good := decide (outcome ≤ 2)
    let m : MgmtRead := ⟨Fin.ofNat 16 (lbaLayer k.lba), lbaBlk k.lba, outcome, if good then s.dramBytes a 32768 else []⟩
    let s := if good then s.touchLines a 32768 false 2 else s
    { s with rcv := { s.rcv with mgmt := s.rcv.mgmt.filter (fun q => !(q.layer = m.layer && q.slot = m.slot)) ++ [m] } }
  else s

/-- What the management slots read as: those the read path has read, and for the others `blocks` (R53 step 1).
DEDUCED (log entry 36). -/
def State.mgmtBlocks (s : State) (blocks : List MgmtBlock) : List MgmtBlock :=
  (s.rcv.mgmt.filter (fun q => q.outcome ≠ 3)).map (fun q => ⟨q.layer, q.slot, q.bytes⟩) ++
    blocks.filter (fun b => !s.rcv.mgmt.any (fun q => q.layer = b.layer && q.slot = b.slot))

/-- No management slot has been read yet. -/
def State.mgmtFresh (s : State) : State := { s with rcv := { s.rcv with mgmt := [] } }

/-- A block ends (R142, R156): 0 GOOD, 1 RECOVERED at home, 2 RECOVERED from spare, 3 BLANK, 4 UNRECOVERABLE. -/
def State.blockEnd (s : State) (k : RBlk) (outcome : Nat) : State :=
  let s := ((s.freeBuf k.buf).dropBlk k.lba).bump (Reg.RCV_RUNG_CNT k.rung)
  let s := if outcome = 0 then s else s.event Ev.blockEnd
  let s := if outcome = 1 ∨ outcome = 2 then s.bump (Reg.RCV_B_RECOV_CNT k.beam) else s
  let s := if outcome = 3 then s.bumpF (F.RCV_B_UNREC_CNT_BLANK k.beam) else s
  let s := if outcome = 4 then s.bumpF (F.RCV_B_UNREC_CNT_UNREC k.beam) else s
  let s := (s.mgmtEnd k outcome).qualityRecord k outcome
  if s.readTask k.lba then
    let t := s.tsk
    let s := { s with tsk := { t with
      topRung := max t.topRung k.rung
      recovered := t.recovered + (decide (outcome = 1 ∨ outcome = 2)).toNat
      fromSpare := t.fromSpare + (decide (outcome = 2)).toNat } }
    let s := if outcome ≤ 2 then { s with tsk := { s.tsk with landed := s.tsk.landed ++ [(k.lba, k.beam)] } } else s
    if outcome ≤ 2 then s.blockComplete k.lba else s.blockBad k.lba (if outcome = 3 then 0x11 else 0x10)
  else if outcome ≤ 2 then s else s.countErr (if outcome = 3 then 0x11 else 0x10)

/-! ## The ladder -/

/-- Blocks in a head's deferred list: deferred, or waiting for a ready bit (R152, R154). -/
def State.listed (s : State) (h : Head) : List RBlk :=
  s.rcv.blks.filter (fun k => k.head = h && (k.phase = .deferred || k.phase = .waiting))

/-- Eligible blocks of a head: those that await a re-pass and no ready bit (R152). -/
def State.eligible (s : State) (h : Head) : List RBlk :=
  s.rcv.blks.filter (fun k => k.head = h && (k.phase = .deferred || k.phase = .beside))

/-- Defer a block (R149, R155): its sample buffer slot is released; with 256 blocks in the list it waits beside it. -/
def State.defer (s : State) (k : RBlk) : State :=
  let s := s.freeBuf k.buf
  let full := decide (((s.listed k.head).filter (·.lba ≠ k.lba)).length ≥ 256)
  s.keepBlk { k with phase := if full then .beside else .deferred, buf := none, age := 0 }

/-- Request a re-decode from the sample buffer (R149): the block enters the recovery queue. -/
def State.redecode (s : State) (k : RBlk) (b : Beam) (i : Fin 6) : State :=
  let e : DecBlk := ⟨k.lba, k.beam, b, i, k.rung, false, k.conv, none⟩
  let s := { s with dec := { s.dec with rq := s.dec.rq ++ [e] } }
  s.keepBlk { k with phase := .reading }

/-- The rung after `n` for a block whose last rung used is `k.rung` (R149): a re-pass defers it, a re-decode runs from the sample buffer
slot it holds, and one that is skipped leads on. With nothing left the block ends UNRECOVERABLE. The fuel is the number of rungs. -/
def State.climbFrom : Nat → Nat → State → RBlk → State
  | 0, _, s, k => s.blockEnd k 4
  | fuel + 1, n, s, k =>
    if s.rungLast n then s.blockEnd k 4
    else if s.rungPass (n + 1) then s.defer { k with rung := n + 1 }
    else match k.buf with
      | some (b, i) => s.redecode { k with rung := n + 1 } b i
      | none => State.climbFrom fuel (n + 1) s k

/-- After a failure at the block's rung (R149). -/
def State.climb (s : State) (k : RBlk) : State := State.climbFrom 16 k.rung s k

/-- The part of the live table that a look-up of the zone-layer reads is poisoned (R388). -/
def State.tablePoisoned (s : State) (zl : Nat) : Bool := s.anyPoisoned (tableAddr zl 0) (8 * s.nextFree zl)

/-- R21: a block bad at home is read from its spare slot, climbs at home, or waits for the ready bit, in the deferred list while that has
room (R152, R154); a wait moves its zone-layer to the front of the rebuild (R22). A management block has no spare and climbs (R48,
R53). A look-up that meets poison ends the task with 0x40 (R388). -/
def State.badAtHome (s : State) (k : RBlk) : State :=
  let zl := lbaZL k.lba
  if k.mgmt then s.climb k
  else if s.zlReady zl then
    if s.tablePoisoned zl then
      (((s.freeBuf k.buf).dropBlk k.lba).consumePoison (tableAddr zl 0) 2).taskError 0x40 (some k.lba)
    else
      match s.spareOf k.lba with
      | some i => s.defer { k with spare := some i, rung := 0 }
      | none => s.climb k
  else
    let s := (s.freeBuf k.buf).zlFront zl
    let full := decide (((s.listed k.head).filter (·.lba ≠ k.lba)).length ≥ 256)
    s.keepBlk { k with phase := if full then .outside else .waiting, buf := none, age := 0 }

/-- A failure of the block at its rung: R21 at a first read at home, else the ladder (R143, R144, R149). -/
def State.rungFailed (s : State) (k : RBlk) : State :=
  if k.rung = 0 && k.spare.isNone then s.badAtHome k else s.climb k

/-- A capture that was not made, OVERRUN or ABORTED (R145, R146). -/
def State.notRead (s : State) (k : RBlk) : State :=
  let k := { k with noread := k.noread + 1, blank := 0 }
  if k.noread ≥ s.rd F.RCV_CFG_NRMAX then s.blockEnd k 4 else s.defer k

/-- A BLANK slot (R145): at home, ready and not listed it counts, and BLANKN in a row end the block. -/
def State.blankRead (s : State) (k : RBlk) : State :=
  if k.mgmt || (k.spare.isNone && s.zlReady (lbaZL k.lba) && (s.spareOf k.lba).isNone) then
    let k := { k with blank := k.blank + 1 }
    if k.blank ≥ s.rd F.RCV_CFG_BLANKN then s.blockEnd k 3 else s.rungFailed k
  else s.rungFailed k

/-- The outcome of a capture reaches the recovery logic (R125, R143): `buf` is the slot a GOOD_CAPTURE holds, `repass`
whether the capture was a re-pass. -/
def State.captured (s : State) (k : RBlk) (outcome : Nat) (cap : Beam) (buf : Fin 6) (repass : Bool) : State :=
  if outcome = 0 then
    let e : DecBlk := ⟨k.lba, k.beam, cap, buf, k.rung, repass, k.conv, none⟩
    let d := s.dec
    let s := { s with dec := if repass then { d with rq := d.rq ++ [e] } else { d with fpq := d.fpq ++ [e] } }
    s.keepBlk { k with phase := .reading, buf := some (cap, buf), blank := 0 }
  else if outcome = 6 ∨ outcome = 7 then s.notRead k
  else if outcome = 4 then s.blankRead k
  else s.rungFailed { k with blank := 0 }

/-- A DEC result drained for a block (R142, R143, R150). -/
def State.decoded (s : State) (k : RBlk) (good : Bool) : State :=
  if good then s.blockEnd k (if k.spare.isSome then 2 else if k.rung = 0 then 0 else 1)
  else s.rungFailed k

/-! ## Retry points -/

/-- The eligible blocks of a head on a band, other than those whose capture is in progress. -/
def State.onBand (s : State) (h : Head) (layer : Nat) (band : Int) : List RBlk :=
  (s.eligible h).filter (fun k => k.place.1 = layer && (k.place.2 : Int) = band)

/-- A block of the band was captured in a re-pass, and its rung is not decided yet (R153 step 5). -/
def State.undecided (s : State) (h : Head) (layer : Nat) (band : Int) : Bool :=
  s.rcv.blks.any (fun k => k.head = h && k.phase = .reading && decide (0 < k.passes) && k.place.1 = layer && (k.place.2 : Int) = band)

/-- The offset of a revolution: the TRKOFS of the block with the lowest rung, ties to the lower beam, then the lower slot
(R153 step 4). DEDUCED (log entry 41). -/
def State.revOfs (s : State) (ks : List RBlk) : Int :=
  let key (k : RBlk) : Nat := k.rung * 2 ^ 12 + k.beam.val * 2 ^ 6 + k.slot
  match ks with
  | [] => 0
  | k :: r => s.rungOfs (r.foldl (fun m q => if key q < key m then q else m) k).rung

/-- The next band after (layer, band): upward in the layer, then the other layers of the side in ascending order, the
layer first worked left out (R153 step 2). -/
def State.nextBand (s : State) (h : Head) (first layer : Nat) (band : Int) : Option (Nat × Int) :=
  let ps := (s.eligible h).map (·.place)
  let low (l : List (Nat × Nat)) : Option (Nat × Int) :=
    match l with
    | [] => none
    | p :: r => let q := r.foldl (fun m q => if q.1 < m.1 ∨ (q.1 = m.1 ∧ q.2 < m.2) then q else m) p; some (q.1, (q.2 : Int))
  match low (ps.filter (fun p => p.1 = layer && decide (band < (p.2 : Int)))) with
  | some q => some q
  | none => low (ps.filter (fun p => p.1 ≠ first && (layer = first || decide (layer < p.1))))

/-- Set a head's retry point. -/
def State.setRetry (s : State) (h : Head) (r : Option Retry) : State :=
  { s with rcv := { s.rcv with retry := s.rcv.retry.set h r } }

/-- Blocks held beside a full list take places as places free, once no retry point runs (R155). -/
def State.listBeside (s : State) (h : Head) : State :=
  let room := 256 - (s.listed h).length
  let take := ((s.rcv.blks.filter (fun k => k.head = h && (k.phase = .beside || k.phase = .outside))).take room).map (·.lba)
  { s with rcv := { s.rcv with blks := s.rcv.blks.map (fun k =>
    if take.contains k.lba then { k with phase := if k.phase = .outside then .waiting else .deferred } else k) } }

/-- A layer lies on the head's path: it is of the head's side, and not one that the side's other head alone follows.
DESIGN CHOICE (log entry 52). -/
def State.onPath (s : State) (h : Head) (layer : Nat) : Bool :=
  let o : Head := Fin.ofNat 4 (h.val + 2)
  decide (layer / 8 = headSide h) &&
  (decide (layer = s.rd (F.ANG_HPOS_LAYER h)) || decide (layer ≠ s.rd (F.ANG_HPOS_LAYER o)))

/-- The first LBA of the running read extent on the head's path whose first read has not begun. -/
def State.nextFirst (s : State) (h : Head) : Option Nat :=
  if s.taskRunning && s.isExtent && s.opcode ≠ 2 then
    let begun (l : Nat) : Bool := decide (l < s.lowLba) || s.tsk.done.contains l || s.tsk.bad.any (·.1 = l) || (s.rblk l).isSome
    ((List.range s.tsk.count).map (· + s.tsk.lba)).find? (fun l => s.onPath h (lbaLayer l) && !begun l)
  else none

/-- R152: whether the head takes a retry point at this frame 0. -/
def State.retryDue (s : State) (h : Head) : Bool :=
  let el := s.eligible h
  !el.isEmpty &&
  (decide ((s.listed h).length ≥ s.rd F.RCV_CFG_DEFMAX) || el.any (fun k => decide (k.age ≥ s.rd F.RCV_CFG_DEFAGE)) ||
   el.any (fun k => k.phase = .beside) ||
   (s.taskRunning && s.isExtent && s.opcode ≠ 2 &&
    match s.nextFirst h with
    | none => true
    | some l => decide (lbaZL l ≠ s.rd (F.ANG_HPOS_LAYER h) * 20 + (s.reg (Reg.ACQ_HZONE h)).toNat % 20)))

/-- Go to the next band that holds eligible blocks, or back to the resume band (R153 steps 2, 6, 7). -/
def State.retryNext (s : State) (h : Head) (r : Retry) : State :=
  let s := s.trkBack h
  match s.nextBand h r.resLayer r.layer r.band with
  | some (l, b) => s.setRetry h (some { r with layer := l, band := b, revs := 0, ofs := 0, await := false })
  | none => s.setRetry h (some { r with layer := r.resLayer, band := r.resBand, revs := 0, ofs := 0, await := false, back := true })

/-- A retry point comes to the start of a revolution on its band (R153 steps 3 to 6): the head makes it with the offset of the eligible
block with the lowest rung, waits a revolution out for a block not decided yet, or leaves the band. DESIGN CHOICE (log entry 55). -/
def State.retryRevolution (s : State) (h : Head) (r : Retry) : State :=
  let ks := s.onBand h r.layer r.band
  if ks.isEmpty && !s.undecided h r.layer r.band then s.retryNext h r
  else if r.revs ≥ s.rd F.RCV_CFG_REVMAX then (s.bumpF (F.RCV_H_STAT_REVMAXEXIT h)).retryNext h r
  else
    let o := s.revOfs ks
    let s := if o ≠ 0 then s.trkTarget h (r.tgt + Config.trackOffset h o) else s.trkBack h
    s.setRetry h (some { r with revs := r.revs + 1, ofs := o, await := false })

/-- The recovery side of a head's frame 0 (R152, R153), at which the head enters `ANG_HPOS.BAND`: deferred blocks age by a crossing; a
retry point begins, starts a revolution on the band it has come to, awaits a kick-back not yet confirmed, or ends at the resume
band. -/
def State.retryFrameZero (s : State) (h : Head) : State :=
  let s := { s with rcv := { s.rcv with blks := s.rcv.blks.map (fun (k : RBlk) =>
    if k.head = h ∧ k.phase ≠ RPhase.reading then { k with age := k.age + 1 } else k) } }
  let layer := s.rd (F.ANG_HPOS_LAYER h)
  let band := s.headBand h
  match s.rcv.retry[h] with
  | none =>
    if s.retryDue h then
      let s := s.bump (Reg.RCV_H_RP_CNT h)
      s.retryNext h { layer := layer, band := -65, revs := 0, ofs := 0, resLayer := layer, resBand := band, tgt := s.int (Reg.SRV_G_TGT h 1) }
    else s.listBeside h
  | some r =>
    if r.layer ≠ layer then s
    else if r.band = band then (if r.back then (s.setRetry h none).listBeside h else s.retryRevolution h r)
    else if 0 < r.revs ∧ band = r.band + 1 then s.setRetry h (some { r with await := true })
    else s

/-- A confirmed word puts a head on `band` (R153, R236): the kick-back of a revolution, confirmed after its frame 0, starts the next. -/
def State.retryConfirmed (s : State) (h : Head) (band : Int) : State :=
  match s.rcv.retry[h] with
  | some r => if r.await = true ∧ r.band = band ∧ r.layer = s.rd (F.ANG_HPOS_LAYER h) then s.retryRevolution h r else s
  | none => s

/-- The head may capture the block in the revolution under way (R153 steps 4 and 5, R155): outside a retry point any block; in one, a
block on the band that awaits a re-pass with the revolution's offset. -/
def State.captureFit (s : State) (h : Head) (lba : Nat) : Bool :=
  match s.rcv.retry[h], s.rblk lba with
  | some r, some k => !r.back && decide (0 < r.revs) && !r.await && (k.phase = .deferred || k.phase = .beside) && decide (k.place.1 = r.layer) &&
      decide ((k.place.2 : Int) = r.band) && decide (s.rungOfs k.rung = r.ofs)
  | some _, none => false
  | none, some k => decide (k.phase = .deferred) || decide (k.phase = .beside)
  | none, none => true

/-! ## The rebuild -/

/-- Set a ready bit. -/
def State.setReady (s : State) (zl : Nat) (v : Bool) : State :=
  if h : zl < 320 then ({ s with disc := { s.disc with ready := s.disc.ready.set zl v } }).mirrDisc else s

/-- What a scanned slot adds: an accepted spare header of the zone-layer (R53 steps 3 and 5, R118). -/
def scanEntry (zl i : Nat) : ScanSlot → Option RplEntry
  | .header w =>
    if crcGood w && hdrHVER w = 1 && hdrREPL w && !hdrMGMT w && lbaZL (hdrLBA w) = zl then
      some ⟨hdrLBA w, i, hdrWGEN w, false⟩
    else none
  | _ => none

/-- A scanned block joins the table; where the table names another spare slot for the LBA, the higher index wins. -/
def addScanned (t : List RplEntry) (e : RplEntry) : List RplEntry :=
  if t.any (fun o => o.lba = e.lba && decide (e.spare ≤ o.spare)) then t else t.filter (·.lba ≠ e.lba) ++ [e]

/-- Spare slots the scan reads before it ends after the first blank band (R20). -/
def scanExtent (zl : Nat) (slots : List ScanSlot) : Nat :=
  let n := 4 * bpr (zl % 20)
  let used (k : Nat) : Bool := (List.range n).any (fun j => slots.getD (k * n + j) .blank ≠ .blank)
  ((List.range 185).takeWhile used).length * n

/-- The zone-layer the rebuild scans next with a head: the first of its order on the head's side (R22). -/
def State.rebuildNext (s : State) (h : Head) : Option Nat := s.disc.rebuild.find? (fun zl => zl / 20 / 8 = headSide h)

/-- The scan found a sync mark in the slot (R53 step 4). -/
def slotSynced : ScanSlot → Bool
  | .syncOnly | .header _ => true
  | .blank | .noSync => false

/-- REBUILD_SCAN: a head scans the spare bands of the zone-layer at the front of the rebuild's order (R22, R53). -/
def execRebuildScan (h : Head) (slots : List ScanSlot) (s : State) : Host.Outcome State Fault Refusal :=
  match s.rebuildNext h with
  | none => .next s
  | some zl =>
    let n := min slots.length (scanExtent zl slots)
    let seen := (List.range n).zip (slots.take n)
    let es := seen.filterMap (fun p => scanEntry zl p.1 p.2)
    let t := es.foldl addScanned s.disc.table
    let marks := (seen.filter (fun p => slotSynced p.2)).map (fun p => p.1 + 1)
    let free := max (s.disc.nextFree.toList.getD zl 0) (marks.foldl max 0)
    let d := s.disc
    let d' : Disc := { d with
      nextFree := if hz : zl < 320 then d.nextFree.set zl free else d.nextFree
      changed := d.changed || decide (t ≠ d.table) || decide (free ≠ d.nextFree.toList.getD zl 0)
      rebuild := d.rebuild.erase zl }
    let s' := State.withTable { s with disc := d' } t
    let s' := if free ≠ d.nextFree.toList.getD zl 0 then s'.mirrRecord 0x13 (beBytes 2 zl ++ beBytes 2 free) else s'
    if s.taskRunning && decide (s.opcode = 0x31) && s.tsk.scans.contains zl then
      let r := s.tsk.res
      let r' := [r.getD 0 0 + BitVec.ofNat 32 (t.length - d.table.length), r.getD 1 0 + 1] ++ r.drop 2
      .next { s' with tsk := { s'.tsk with res := r', scans := s.tsk.scans.erase zl, work := !(s.tsk.scans.erase zl).isEmpty } }
    else .next s'

/-- ZONE_LAYER_READY: the records are applied and the spare bands scanned, so the ready bit sets, and the blocks that wait
for it are decided under R21 (R20, R154). -/
def execZoneLayerReady (zl : ZoneLayer) (s : State) : Host.Outcome State Fault Refusal :=
  if s.flag F.TSK_DISC_LOADED && !s.disc.rebuild.contains zl.val && !s.zlReady zl then
    let s := (s.setReady zl true).event Ev.zlReady
    let ks := s.rcv.blks.filter (fun k => (k.phase = .waiting || k.phase = .outside) && lbaZL k.lba = zl.val)
    let s := ks.foldl (fun s k => s.badAtHome k) s
    .next (if s.disc.ready.toList.all id then s.discReadyEvent else s)
  else .next s

end Sys2Proof.Machine
end

