-- ==== Sys2Proof/Machine/Det.lean ====
section
/-! DEFINITION. DET (R108 to R127): capture runs, the decisions a slot goes through, and what each hands to the beam's
recovery logic; with its commands. -/

namespace Sys2Proof.Machine

/-! ## The end of a slot -/

/-- The count register of an outcome of R125. -/
def outcomeCnt (b : Beam) : Nat → Option Nat
  | 1 => some (Reg.DET_NOSYNC_CNT b)
  | 2 => some (Reg.DET_HDRFAIL_CNT b)
  | 3 => some (Reg.DET_HDRMIS_CNT b)
  | 4 => some (Reg.DET_BLANK_CNT b)
  | 5 => some (Reg.DET_DEFLIM_CNT b)
  | 6 => some (Reg.DET_OVR_CNT b)
  | 7 => some (Reg.DET_ABORT_CNT b)
  | _ => none

/-- The mode in force is one in which capture runs go on (R109). -/
def State.detReads (s : State) (b : Beam) : Bool := s.rd (F.DET_STAT_MODE b) % 2 = 1

/-- The beam scans: SCAN mode, or a run that accepts any LBA (R118). -/
def State.detScans (s : State) (b : Beam) (r : DetRun) : Bool := s.rd (F.DET_STAT_MODE b) = 3 || r.any

/-- The home beam of the block a slot is expected to hold: the capturing beam, or for a spare slot the beam of the LBA's
own track (R144). -/
def slotHome (b : Beam) (r : DetRun) : Beam := if r.spare then headBeam (beamHead b) (lbaTrack r.lba) else b

/-- The spare index of the slot in capture of a run on beam `b`, at its band and slot (R35). -/
def DetRun.spareIndex (r : DetRun) (b : Beam) : Nat :=
  let z := r.zl % 20
  (r.band.toNat - (1500 * z + 1315)) * (4 * bpr z) + 4 * r.slot + b.val % 4

/-- The recovery logic's state for the block a slot is read for: the one it keeps, or a new one at rung 0. None when the logic reads
the block elsewhere: once moved to its spare slot it is never read at home again (R144). -/
def State.expectBlk (s : State) (b : Beam) (r : DetRun) : Option RBlk :=
  match s.rblk r.lba with
  | some k => if k.spare.isSome = r.spare then some k else none
  | none => some { lba := r.lba, beam := slotHome b r
                   spare := if r.any then some (r.spareIndex b) else if r.spare then s.spareOf r.lba else none }

/-- The slots behind the last addressed block of a layer are never read for data (R34). -/
def pastLast (r : DetRun) : Bool := decide (lbaLayer (r.lba + 4) ≠ lbaLayer r.lba)

/-- The run goes on to its next slot, or ends after its last, at a zone boundary, or where no block is addressed (R34, R109). -/
def DetRun.next (r : DetRun) : Option DetRun :=
  let z := r.zl % 20
  let wrap := decide (r.slot + 1 ≥ bpr z)
  let band := if wrap then r.band + 1 else r.band
  if r.left ≤ 1 then none
  else if bandZone band ≠ some z then none
  else if !r.any && !r.spare && pastLast r then none
  else some { r with left := r.left - 1, lba := if r.any then r.lba else r.lba + 4, band := band, slot := if wrap then 0 else r.slot + 1 }

/-- The outcome of a slot in the registers of its beam (R125, R136, R139). -/
def State.slotNote (s : State) (b : Beam) (o : Nat) (fig : Figures) : State :=
  let res := min 255 fig.flagamb + min 255 fig.ermax * 2 ^ 8 + fig.syncd * 2 ^ 16 + fig.syncofs * 2 ^ 21 + o * 2 ^ 29
  let s := (s.setReg (Reg.DET_LAST_RES b) (BitVec.ofNat 32 res)).bump (Reg.DET_BLK_CNT b)
  match outcomeCnt b o with
  | some a => s.bump a
  | none => s

/-- The block a slot of the run would be captured for: in a scan or a run of any LBA whatever stands there, else the expected block
when the head may capture it (R144, R153). -/
def State.slotBlk (s : State) (b : Beam) (r : DetRun) : Option RBlk :=
  if s.detScans b r then some { lba := r.lba, beam := slotHome b r }
  else if s.captureFit (beamHead b) r.lba then s.expectBlk b r else none

/-- A slot that was not captured ends (R109, R125): the run goes on, and its block, if it has one, has this outcome. -/
def State.slotMissed (s : State) (b : Beam) (r : DetRun) (o : Nat) (fig : Figures) (scan : Bool) : State :=
  let k := if scan || r.any then none else s.slotBlk b r
  let s := s.modDet b (fun d => { d with run := r.next })
  match k with
  | none => s
  | some k => s.captured { k with passes := k.passes + (decide (k.phase ≠ .reading)).toNat, fig := fig } o b 0 false

/-- The word of a live tap register after adaptation (R110, R111): the centre tap, tap 7, only under CTR_ADAPT. -/
def keptTap (ctr : Bool) (j : Nat) (before after : Word) : Word :=
  if j = 3 ∧ ctr = false then (after &&& 0x0000FFFF) ||| (before &&& 0xFFFF0000)
  else if j = 7 then after &&& 0x0000FFFF else after

/-- The live taps after adaptation. -/
def State.setTaps (s : State) (b : Beam) (c : Capture) (after : List Word) : State :=
  forEach (List.range 8) (fun j s =>
    s.setReg (Reg.DET_EQ_TAP b j) (keptTap (s.flag (F.DET_EQ_CFG_CTR_ADAPT b)) j (c.taps.getD j 0) (after.getD j 0))) s

/-- What a capture changed for its slot alone is put back: the taps it adapted without an accepted header, and the read level (R111,
R151). A slot that is cut off after its header was accepted keeps the updates made until then, which are free values.
DESIGN CHOICE (log entry 66). -/
def State.captureBack (s : State) (b : Beam) (c : Capture) (o : Nat) : State :=
  let s :=
    if c.eqset ≠ 0 || !s.flag (F.DET_EQ_CFG_ADAPT b) then s
    else if c.header.isNone then forEach (List.range 8) (fun j s => s.setReg (Reg.DET_EQ_TAP b j) (c.taps.getD j 0)) s
    else if o = 7 then
      ({ s with free := s.free + 8 }).setTaps b c ((List.range 8).map (fun j => Config.free (s.free + j)))
    else s
  match c.rlvl with
  | some v => s.setRlvl (beamChan b) v
  | none => s

/-- A good capture of a run of any LBA goes to DEC although the recovery logic reads that block elsewhere (R125). -/
def State.strayCapture (s : State) (b : Beam) (c : Capture) (lba : Nat) : State :=
  let e : DecBlk := ⟨lba, headBeam (beamHead b) (lbaTrack lba), b, c.buf, 0, false, 0, none⟩
  { s with dec := { s.dec with fpq := s.dec.fpq ++ [e] } }

/-- The slot in capture ends (R109, R125): its buffer keeps what a good capture leaves, and its block has this outcome; with ANY = 1 the
header says which block it is. The recovery logic releases a slot captured for no block at once (R124). DEDUCED (log entry 41). -/
def State.slotOver (s : State) (b : Beam) (r : DetRun) (c : Capture) (o : Nat) (fig : Figures) (keep : Option SBuf) (scan : Bool) : State :=
  let r' := if r.any then (match c.header with
    | some w => { r with lba := hdrLBA w, spare := true }
    | none => r) else r
  let k := if scan || (r.any && c.header.isNone) || !c.serves then none else s.expectBlk b r'
  let stray := !scan && r.any && c.header.isSome && k.isNone && keep.isSome
  let kept := if k.isSome || stray then keep.map (fun x => { x with lba := r'.lba }) else none
  let s := (s.captureBack b c o).modDet b (fun d => { d with run := r.next, cap := none, bufs := d.bufs.set c.buf kept })
  let s := { s with acq := { s.acq with defect := s.acq.defect.set b false } }
  match k with
  | none => if stray then s.strayCapture b c r'.lba else s
  | some k => s.captured { k with passes := k.passes + c.repass.toNat, fig := fig } o b c.buf c.repass

/-- A slot of the run ends with outcome `o` (R125): the report, the counts, the taps of R111, which stay only after an accepted header,
and the recovery logic. A good capture keeps its sample buffer slot; `keep` holds what is stored there. In a run with ANY = 1 the block
is the one its accepted header names, and without one there is none; a scan decodes headers alone (R53), and its slots are released. -/
def State.slotEnd (s : State) (b : Beam) (r : DetRun) (o : Nat) (fig : Figures) (keep : Option SBuf := none) : State :=
  let s := s.slotNote b o fig
  let scan := decide (s.rd (F.DET_STAT_MODE b) = 3)
  match s.det[b].cap with
  | none => s.slotMissed b r o fig scan
  | some c => s.slotOver b r c o fig keep scan

/-- The figures of a capture in progress. -/
def Capture.figures (c : Capture) : Figures :=
  match c.sync with
  | none => {}
  | some (o, d) => { syncd := d, syncofs := unsigned 8 o, wgen := (c.header.map hdrWGEN).getD 0 }

/-- A run ends before its last slot (R109): the slot in capture ends ABORTED; `begin` says that a slot begins now and is not
captured. -/
def State.runAbort (s : State) (b : Beam) (begin_ : Bool) : State :=
  match s.det[b].run with
  | none => s
  | some r =>
    let stop (s : State) : State := s.modDet b (fun d => { d with run := none })
    match s.det[b].cap with
    | some c => stop (s.slotEnd b r 7 c.figures)
    | none => if begin_ then stop (s.slotEnd b r 7 {}) else stop s

/-- A written mode takes effect at a slot start, and ends the run in progress (R108, R109). -/
def State.detApplyMode (s : State) (b : Beam) : State :=
  let m := s.rd (F.DET_CTRL_MODE b)
  if m = s.rd (F.DET_STAT_MODE b) then s else (s.runAbort b true).wr (F.DET_STAT_MODE b) m

/-- The head's runs end: a path discontinuity of the head (R59), or the head is unlocked (R14). -/
def State.headAbort (s : State) (h : Head) : State := forEach (List.range 4) (fun d s => s.runAbort (headBeam h d) false) s

/-- Data of the beam may be sampled: its head's PLL is in LOCKED or HOLDOVER without RATEERR, the data input is converted, and the
head's supervisor is in FOLLOW (R89, R93, R106, R229, R230). -/
def State.sampling (s : State) (b : Beam) : Bool :=
  s.sampleOn (beamHead b) && s.converts (13 * (b.val / 4) + 5 + b.val % 4) && decide (s.rd (F.LSV_H_STAT_STATE (beamHead b)) = 6)

/-- The CAPTURE action (R109): a run starts at the slot whose start angle the event names, or is ignored with CAPERR: with one in
progress, in a mode without runs, with DET disabled (R139), or while the head's data is not sampled. DESIGN CHOICE (log entry 50). -/
def State.captureAct (s : State) (b : Beam) (e : AngEntry) : State :=
  let s := s.detApplyMode b
  let h := beamHead b
  if s.det[b].run.isSome || !s.detReads b || !s.flag F.DET_GCTRL_EN || !s.sampling b then s.put F.DET_GSTAT_CAPERR true
  else
    let band := signed 16 (s.rd (F.ANG_HPOS_BAND h))
    let lba := s.rd (F.DET_RUN_LBA_LBA b)
    let mgmt := decide (0 ≤ band ∧ band < 16)
    let zl := s.rd (F.ANG_HPOS_LAYER h) * 20 + ((bandZone band).getD 0)
    let r : DetRun :=
      { left := s.rd (F.DET_RUN_CFG_COUNT b), lba := if mgmt then 2 ^ 25 + lba else lba, spare := s.flag (F.DET_RUN_CFG_SPARE b)
        any := s.flag (F.DET_RUN_CFG_ANY b), zl := zl, band := band, slot := slotNamed (zl % 20) e.target.toNat e.frac.toNat }
    s.modDet b (fun d => { d with run := some r })

/-! ## The commands of a slot -/

/-- The sync half-window of a rung for a beam (R147). -/
def State.rungWin (s : State) (b : Beam) (k : Nat) : Nat :=
  let w := if k = 0 then 0 else s.rd (F.RCV_RUNG_WINSEL k)
  if w = 1 then 48 else if w = 2 then 96 else s.rd (F.DET_SYNC_CFG_WIN b)

/-- The settings of a capture: those of the block's rung, at rung 0 the beam's own (R147, R151). -/
def State.capOf (s : State) (b : Beam) (r : DetRun) (k : RBlk) (i : Fin 6) : Capture :=
  let first := k.rung = 0
  { lba := r.lba, buf := i, rung := k.rung, home := k.beam, repass := k.phase ≠ .reading
    eqset := if first then s.rd (F.DET_EQ_CFG_SET b) else s.rd (F.RCV_RUNG_EQSET k.rung)
    elvl := if first then s.rd (F.DET_DEF_CFG_LEVEL b) else s.rd (F.RCV_RUNG_ELVL k.rung)
    win := s.rungWin b k.rung
    taps := (List.range 8).map (fun j => s.reg (Reg.DET_EQ_TAP b j))
    rlvl := if first ∨ s.rd (F.RCV_RUNG_RPWR k.rung) = 0 then none else some (s.rd (F.LDD_CTRL_RLVL (beamChan b))) }

/-- SLOT_START: DET takes a sample buffer slot, with the settings of the block's rung (R124, R151), or reports OVERRUN; a new
mode takes effect first (R108). A slot whose block misses the revolution is captured for no block (R125, R153, R155). -/
def execSlotStart (b : Beam) (s : State) : Host.Outcome State Fault Refusal :=
  let s := s.detApplyMode b
  match s.det[b].run, s.det[b].cap with
  | some r, none =>
    match (List.finRange 6).find? (fun i => s.det[b].bufs[i].isNone) with
    | none => .next (s.slotEnd b r 6 {})
    | some i =>
      let k := (s.slotBlk b r).getD { lba := r.lba, beam := slotHome b r }
      let c := { s.capOf b r k i with serves := (s.slotBlk b r).isSome }
      let s := (s.clearSram 5 (6 * b.val + i.val)).modDet b (fun d => { d with cap := some c, bufs := d.bufs.set i (some { lba := r.lba }) })
      .next (if c.rlvl.isSome then s.setRlvl (beamChan b) (s.rd (F.RCV_RUNG_RPWR k.rung)) else s)
  | _, _ => .next s

/-- The candidate R114 accepts: the smallest distance, then nearest bit 512, then earliest. -/
def bestSync (win maxd : Nat) (cands : List SyncCand) : Option SyncCand :=
  (cands.filter (fun c => c.ofs.natAbs ≤ win ∧ c.dist ≤ maxd)).foldl (fun best c =>
    match best with
    | none => some c
    | some q =>
      if c.dist < q.dist ∨ (c.dist = q.dist ∧ (c.ofs.natAbs < q.ofs.natAbs ∨ (c.ofs.natAbs = q.ofs.natAbs ∧ c.ofs < q.ofs)))
      then some c else some q) none

/-- SYNC_DECISION: at the end of the sync window a mark is accepted, or the slot is BLANK or NOSYNC (R114, R116). -/
def execSyncDecision (b : Beam) (cands : List SyncCand) (envMv : Nat) (s : State) : Host.Outcome State Fault Refusal :=
  match s.det[b].run, s.det[b].cap with
  | some r, some c =>
    if c.sync.isSome then .next s
    else
      match bestSync c.win (s.rd (F.DET_SYNC_CFG_MAXD b)) cands with
      | some q => .next (s.modDet b (fun d => { d with cap := some { c with sync := some (q.ofs, q.dist) } }))
      | none => .next (s.slotEnd b r (if envMv < s.rd (F.DET_BLANK_CFG_THR b) then 4 else 1) {})
  | _, _ => .next s

/-- The word of 64 header cells, the ambiguous ones set from the bits of `pick` in order (R117). -/
def headerWord (amb : Nat) : List Int → Nat → Nat → Nat
  | [], _, w => w
  | d :: r, pick, w =>
    if d.natAbs < amb then headerWord amb r (pick / 2) (w * 2 + pick % 2)
    else headerWord amb r pick (w * 2 + (decide (0 < d)).toNat)

/-- The header the cells decode to (R117): with at most two ambiguous, the one combination whose HCRC is correct.
DEDUCED (log entry 41). -/
def headerDecode (amb : Nat) (cells : List Int) : Option Dword :=
  let n := (cells.filter (fun d => d.natAbs < amb)).length
  if n > 2 then none
  else
    match ((List.range (2 ^ n)).map (fun p => (BitVec.ofNat 64 (headerWord amb cells p 0) : Dword))).filter crcGood with
    | [w] => some w
    | _ => none

/-- The checks of R118. -/
def headerAccept (scan spare : Bool) (lba zl : Nat) (w : Dword) : Bool :=
  decide (hdrHVER w = 1) && (hdrMGMT w == (!scan && !spare && decide (lba ≥ 2 ^ 25))) && (hdrREPL w == (scan || spare)) &&
  (if scan then decide (lbaZL (hdrLBA w) = zl) else decide (hdrLBA w = lba % 2 ^ 25))

/-- HEADER_DECISION: the header is accepted, or the slot ends HDRFAIL or HDRMIS (R117, R118); `cells` are the differences of
the 64 cells, header bit 63 first. -/
def execHeaderDecision (b : Beam) (cells : List Int) (s : State) : Host.Outcome State Fault Refusal :=
  match s.det[b].run, s.det[b].cap with
  | some r, some c =>
    if c.sync.isNone || c.header.isSome then .next s
    else
      match headerDecode (s.rd (F.DET_HDR_CFG_AMB b)) cells with
      | none => .next (s.slotEnd b r 2 c.figures)
      | some w =>
        let s := s.setPair (Reg.DET_LAST_HDR_LO b) w.toNat
        if headerAccept (s.detScans b r) r.spare r.lba r.zl w then
          .next (s.modDet b (fun d => { d with cap := some { c with header := some w } }))
        else .next (s.slotEnd b r 3 c.figures)
  | _, _ => .next s

/-- Where the defect detector stands in a stretch of envelope (R120): bits in a row outside a limit, the first of them, the last bit
outside once a region is declared, and bits in a row back inside. -/
structure DefState where
  low   : Nat := 0
  high  : Nat := 0
  open_ : Option (Nat × Nat) := none
  inside : Nat := 0
  deriving DecidableEq, Repr

/-- One bit of envelope `e` at position `n`, against reference `ref` under profile `p` (R120, R123): a region opens after PERS bits
below DO_THR % or above DI_THR %, and is complete when the envelope has been back inside both limits for PERS bits. -/
def State.defBit (s : State) (p ref n e : Nat) (q : DefState) : DefState :=
  let pers := s.rd (F.DET_DEF_PROFILE_PERS p)
  let dout := s.rd (F.DET_DEF_PROFILE_DO_THR p)
  let din := s.rd (F.DET_DEF_PROFILE_DI_THR p)
  let lo := decide (dout ≠ 0 ∧ 100 * e < dout * ref)
  let hi := decide (din ≠ 0 ∧ din * ref < 100 * e)
  match q.open_ with
  | none =>
    let low := if lo then q.low + 1 else 0
    let high := if hi then q.high + 1 else 0
    if pers ≤ low ∧ lo = true then ⟨0, 0, some (n + 1 - low, n), 0⟩
    else if pers ≤ high ∧ hi = true then ⟨0, 0, some (n + 1 - high, n), 0⟩ else ⟨low, high, none, 0⟩
  | some (a, z) =>
    if pers ≤ q.inside then q
    else if lo || hi then ⟨0, 0, some (a, n), 0⟩ else ⟨0, 0, some (a, z), q.inside + 1⟩

/-- The detector after a stretch of envelope from position `n`; `open_` is the first region, with its first and last bits outside the
limits. -/
def State.defRun (s : State) (p ref : Nat) : Nat → List Nat → DefState → DefState
  | _, [], q => q
  | n, e :: r, q => State.defRun s p ref (n + 1) r (s.defBit p ref n e q)

/-- Flag a defect on a beam, or its end (R87). -/
def State.setDefect (s : State) (b : Beam) (v : Bool) : State := { s with acq := { s.acq with defect := s.acq.defect.set b v } }

/-- DEFECT_REGION: the envelope of the slot in capture, from channel bit `first` on, leaves the limits of the profile in use and comes
back; the region is marked with its extensions (R120, R123), and the defect is flagged while the envelope has not come back (R87). -/
def execDefectRegion (b : Beam) (first : Nat) (env : List Nat) (s : State) : Host.Outcome State Fault Refusal :=
  match s.det[b].cap with
  | some c =>
    let q := s.defRun c.elvl (s.reg (Reg.DET_ENV b)).toNat first env {}
    match q.open_ with
    | some (a, z) =>
      let e := 4 * s.rd (F.DET_DEF_PROFILE_EXT c.elvl)
      let s := s.setDefect b (decide (q.inside < s.rd (F.DET_DEF_PROFILE_PERS c.elvl)))
      .next ((s.modDet b (fun d => { d with cap := some { c with marks := c.marks ++ [(a - e, z + e)] } })).bump (Reg.DET_DEF_CNT b))
    | none => .next (s.setDefect b false)
  | none => .next s

/-- A range of slot bits meets a marked region. -/
def marked (marks : List (Nat × Nat)) (a z : Nat) : Bool := marks.any (fun m => m.1 ≤ z && a ≤ m.2)

/-- The first slot bit of frame `g` (its flag), and of group `k` of the frame (R44). -/
def frameBit (g : Nat) : Nat := 704 + 65 * g
def groupBit (m : Nat) : Nat := frameBit (m / 4) + 1 + 16 * (m % 4)

/-- The stream groups with a bit in a marked region: the erasures (R121). -/
def erasedGroups (marks : List (Nat × Nat)) : List Nat :=
  if marks.isEmpty then [] else (List.range 18432).filter (fun m => marked marks (groupBit m) (groupBit m + 15))

/-- Erased groups of each codeword (R121). -/
def erasedCounts (gs : List Nat) : List Nat := (List.range 8).map (fun c => (gs.filter (fun m => m % 8 = c)).length)

/-- One frame's values after the flag and the erasures (R119, R121): flag taken as 1, flag ambiguous, the 64 values. -/
def frameValues (amb : Nat) (marks : List (Nat × Nat)) (g : Nat) (llr : List Int) : Bool × Bool × List Int :=
  let f := llr.headD 0
  let m := marked marks (frameBit g) (frameBit g)
  let bad := m || decide (f.natAbs < amb)
  let one := !bad && decide (0 < f)
  let clip (v : Int) : Int := max (-31) (min 31 v)
  let v (p : Nat) : Int :=
    if marked marks (groupBit (4 * g + p / 16)) (groupBit (4 * g + p / 16) + 15) then 0
    else
      let x := clip (llr.getD (p + 1) 0)
      if p % 2 = 1 then (if bad then 0 else if one then -x else x) else x
  (one, bad, (List.range 64).map v)

/-- The frames of a data field, 65 values each. -/
def frames (amb : Nat) (marks : List (Nat × Nat)) : Nat → Nat → List Int → List (Bool × Bool × List Int)
  | 0, _, _ => []
  | n + 1, g, llr => frameValues amb marks g (llr.take 65) :: frames amb marks n (g + 1) (llr.drop 65)

/-- Tap `k` of a coefficient set, in 2^−14 (R110). -/
def tapAt (ts : List Word) (k : Nat) : Int := signed 16 ((ts.getD (k / 2) 0).toNat / 2 ^ (16 * (k % 2)) % 2 ^ 16)

/-- Tap `k` after the updates of a slot (R111): each takes 2^−(10 + MU) of error times sample off it, and none is made in a marked
region. The sum is rounded once, to the nearest 2^−14, and saturates. DESIGN CHOICE (log entry 66). -/
def lmsTap (mu : Nat) (marks : List (Nat × Nat)) (l : List LmsBit) (ts : List Word) (k : Nat) : Int :=
  let sum := ((l.filter (fun u => !marked marks u.bit u.bit)).map (fun u => u.err * u.x.getD k 0)).sum
  max (-32768) (min 32767 (tapAt ts k - divNear sum (2 ^ mu)))

/-- The eight tap registers after the updates of a slot. -/
def lmsTaps (mu : Nat) (marks : List (Nat × Nat)) (l : List LmsBit) (ts : List Word) : List Word :=
  (List.range 8).map (fun j =>
    let v (k : Nat) : Nat := unsigned 16 (lmsTap mu marks l ts k)
    BitVec.ofNat 32 (v (2 * j) + 2 ^ 16 * v (2 * j + 1)))

/-- CAPTURE_END: the slot ends GOOD_CAPTURE and enters its queue, or ends DEFLIMIT (R119 to R122, R125, R127). -/
def execCaptureEnd (b : Beam) (x : CaptureIn) (s : State) : Host.Outcome State Fault Refusal :=
  match s.det[b].run, s.det[b].cap with
  | some r, some c =>
    if c.header.isNone then .next s
    else
      let fs := frames (s.rd F.DET_FLAG_CFG_AMB) c.marks (min 4608 (x.llr.length / 65)) 0 x.llr
      let gs := erasedGroups c.marks
      let er := erasedCounts gs
      let ermax := er.foldl max 0
      let amb := (fs.filter (fun f => f.2.1)).length
      let s := s.setReg (Reg.DET_EQ_MSE b) (BitVec.ofNat 32 x.mse)
      let s := s.setReg (Reg.DET_ENV b) (BitVec.ofNat 32 x.env)
      let s := (s.bumpBy (Reg.DET_RUNLONG_CNT b) x.runlong).bumpBy (Reg.DET_FLAGAMB_CNT b) amb
      let s := s.bumpBy (Reg.DET_ERAS_CNT b) er.sum
      let s := if c.eqset = 0 && s.flag (F.DET_EQ_CFG_ADAPT b) then
          s.setTaps b c (lmsTaps (s.rd (F.DET_EQ_CFG_MU b)) c.marks x.lms c.taps)
        else s
      let fig := { c.figures with ermax := ermax, flagamb := amb, mse := x.mse }
      if ermax > s.rd F.DET_ERASE_MAX_MAX then .next (s.slotEnd b r 5 fig)
      else .next (s.slotEnd b r 0 fig (some { lba := c.lba, outcome := 0, values := fs.flatMap (fun f => f.2.2),
                                              flags := fs.map (fun f => f.1), amb := fs.map (fun f => f.2.1), erased := gs }))
  | _, _ => .next s

/-- DET_MODE: a write of `DET_CTRL.MODE` (R108). -/
def execDetMode (b : Beam) (mode : BitVec 2) (s : State) : Host.Outcome State Fault Refusal :=
  .next (s.wr (F.DET_CTRL_MODE b) mode.toNat)

/-- DET_STOP: a write of `DET_CTRL.STOP` (R109). -/
def execDetStop (b : Beam) (s : State) : Host.Outcome State Fault Refusal := .next (s.runAbort b false)

end Sys2Proof.Machine
end

