-- ==== Sys2Proof/Machine/Srv.lean ====
section
/-! DEFINITION. SRV (R190 to R224): the arithmetic of a sample, the residue checks, modes, targets, commits and presets; and
the commands that are SRV's alone. The whole of a servo sample is put together in Sample.lean. -/

namespace Sys2Proof.Machine

/-! ## Coefficients and sums -/

/-- Where a group's coefficient memory lies, and its words (R219, R220). -/
def memBase (g : Nat) : Nat :=
  if g < 4 then Reg.SRV_G_MEM g 0
  else if g = 4 then Reg.SRV_S_MEM 0 0
  else if g < 7 then Reg.SRV_S_MEM 1 (16 * (g - 5))
  else Reg.SRV_S_MEM 2 (16 * (g - 7))
def memWords (g : Nat) : Nat := if g < 4 then 192 else 16

/-- The bits of a word of coefficient memory that are kept: reserved words, unused channels and the reserved bits of CFG read 0
(R219 to R221). -/
def memMask (a : Nat) : Word :=
  if a < Reg.SRV_S_MEM 0 0 then
    let w := (a - Reg.SRV_G_MEM 0 0) / 4 % 256
    if w = 15 ∨ w = 19 ∨ w = 23 ∨ (51 ≤ w ∧ w < 56) then 0 else 0xFFFFFFFF
  else
    let o := a - Reg.SRV_S_MEM 0 0
    let k := o % 0x100 / 0x40
    if (o / 0x100 = 0 ∧ 1 ≤ k) ∨ (o / 0x100 = 1 ∧ 2 ≤ k) then 0 else if o % 0x40 = 0 then 0x33FF else 0xFFFFFFFF

/-- Word `i` of a group's active copy (R212). -/
def State.coef (s : State) (g i : Nat) : Word := Sparse.get 0 s.srv.active (memBase g + 4 * i)

/-- Copy a group's shadow into its active copy (R212). -/
def State.commitGroup (s : State) (g : Nat) : State :=
  let a := memBase g
  let z := a + 4 * memWords g
  let kept := s.srv.active.filter (fun p => p.1 < a || z ≤ p.1)
  let new := s.regs.filter (fun p => a ≤ p.1 && p.1 < z)
  { s with srv := { s.srv with active := new.foldl (fun m p => Sparse.set 0 m p.1 p.2) kept } }

/-- One term x × M × 2^(16 − SH); past 16 fraction bits it truncates toward minus infinity (R192, R193).
DEDUCED (log entry 24). -/
def macTerm (x : Int) (c : Word) : Int :=
  let m := signed 27 (c.toNat / 32)
  let sh := c.toNat % 32
  if sh ≤ 16 then x * m * 2 ^ (16 - sh) else x * m / 2 ^ (sh - 16)

/-- The sum of terms in the accumulator. -/
def macSum (ts : List (Int × Word)) : Int := (ts.map (fun t => macTerm t.1 t.2)).sum

/-- Saturate to 32 bits. -/
def sat32 (v : Int) : Int := max (-2 ^ 31) (min (2 ^ 31 - 1) v)

/-- Round and shift the accumulator: 2^15 added, shifted right by 16 (R193). -/
def macRound (acc : Int) : Int := (acc + 2 ^ 15) / 2 ^ 16

/-- Clip to ±lim, and whether that changed the value (R195). -/
def clipTo (lim v : Int) : Int × Bool := let c := max (-lim) (min lim v); (c, decide (c ≠ v))

/-! ## Dimensions, lanes, latency -/

/-- NSTATE, NOUT and NMEAS of the head groups (R190). -/
def State.nstate (s : State) : Nat := s.rd F.SRV_HDIM_NSTATE
def State.nout (s : State) : Nat := s.rd F.SRV_HDIM_NOUT
def State.nmeas (s : State) : Nat := s.rd F.SRV_HDIM_NMEAS

/-- ceil(a / n), with no lane as one. -/
def perLane (a n : Nat) : Nat := (a + (max n 1) - 1) / max n 1

/-- Cycles of the output, observer and small phases (R198, R200). -/
def State.nU (s : State) : Nat := perLane (s.nstate * s.nout + s.nout) (s.rd F.SRV_LANES_ACTIVE)
def State.nO (s : State) : Nat :=
  perLane (2 * s.nmeas * s.nstate + s.nstate * s.nstate + s.nstate * s.nout) (s.rd F.SRV_LANES_ACTIVE)
def State.nS (s : State) : Nat := perLane 26 (s.rd F.SRV_LANES_ACTIVE)

/-- When a sample with `extra` recompute cycles ends, in 1/4 ns after its instant (R200). -/
def State.sampleEnd (s : State) (extra : Nat) : Nat := 448 + 5 * (7 + s.nU + s.nO + s.nS + extra)

/-! ## Groups -/

/-- A group's structure. -/
def State.group (s : State) (g : Group) : SrvGroup := s.srv.groups[g]

/-- Change a group's structure. -/
def State.modGroup (s : State) (g : Group) (f : SrvGroup → SrvGroup) : State :=
  { s with srv := { s.srv with groups := s.srv.groups.set g (f s.srv.groups[g]) } }

/-- The MODE field of a group's control register, its NEXTMODE and NMEN (R224). -/
def modeField (g : Group) : RegField := if g.val < 4 then F.SRV_G_CTRL_MODE g else F.SRV_S_CTRL_MODE (g.val - 4)
def nextModeField (g : Group) : RegField := if g.val < 4 then F.SRV_G_CTRL_NEXTMODE g else F.SRV_S_CTRL_NEXTMODE (g.val - 4)
def nmenField (g : Group) : RegField := if g.val < 4 then F.SRV_G_CTRL_NMEN g else F.SRV_S_CTRL_NMEN (g.val - 4)

/-- Write a group's mode: it takes effect at the next sample instant (R210). -/
def State.writeMode (s : State) (g : Group) (m : Nat) : State := s.wr (modeField g) m

/-- The integrator mask of a group (R214). -/
def State.imask (s : State) (g : Group) : Nat :=
  if g.val < 4 then s.rd (F.SRV_G_IMASK_MASK g) else (s.coef g 0).toNat / 2 ^ 12 % 4

/-- The limit of output `j` of a group (R195). -/
def State.ulim (s : State) (g : Group) (j : Nat) : Int :=
  let w := if g.val < 4 then (s.coef g (20 + j)).toInt else (s.coef g 2).toInt
  if g.val < 4 then max 0 (min w 19660800) else max 0 w

/-! ## What takes effect at an instant (R210 to R215, R217) -/

/-- A mirrored integrator state of the newest complete record (R465). -/
def mirroredState (parts : List (List Byte)) (g i : Nat) : Int :=
  let at_ (p k : Nat) : Int := signed 32 (beAt (parts.getD p []) k 4)
  if g < 3 then at_ 2 (8 + 32 * g + 4 * i) else if g = 3 then at_ 3 (8 + 4 * i) else at_ 3 (40 + 8 * (g - 4) + 4 * i)

/-- Preset one group: each marked state takes its value from the mirror, or as staged (R215). -/
def State.presetGroup (s : State) (g : Group) (src : Option (List (List Byte))) : State :=
  let mask := s.imask g
  s.modGroup g (fun q => { q with x := (List.range 8).map (fun i =>
    if mask.testBit i then
      match src with
      | some parts => mirroredState parts g.val i
      | none => if g.val < 4 then ((q.staged.find? (·.1 = i)).map (·.2)).getD 0 else 0
    else q.x.getD i 0) })

/-- One preset ordered for this instant (R215): from the mirror it needs a complete record. -/
def State.presetOne (s : State) (p : BitVec 11 × Bool) : State :=
  if !p.2 && s.mir.newest.isNone then s.put F.SRV_STAT_NOMIR true
  else
    let src := if p.2 then none else s.mir.newest
    (List.finRange 11).foldl (fun s g => if p.1.getLsbD g.val then s.presetGroup g src else s) s

/-- The presets ordered for this instant, in the order of their writes. -/
def State.presetNow (s : State) : State :=
  s.srv.presets.foldl State.presetOne { s with srv := { s.srv with presets := [] } }

/-- The targets and mode of an SRV_TARGET that fired (R211). -/
def State.targetNow (s : State) (g : Group) : State :=
  if (s.group g).target then
    let s := s.modGroup g (fun q => { q with target := false })
    let s := if g.val < 4 then
        forEach (List.range 3) (fun j s => s.setReg (Reg.SRV_G_TGT g j) (s.reg (Reg.SRV_G_NEXT g j))) s
      else s.setReg (Reg.SRV_S_TGT (g.val - 4)) (s.reg (Reg.SRV_S_NEXT (g.val - 4)))
    if s.flag (nmenField g) then s.wr (modeField g) (s.rd (nextModeField g)) else s
  else s

/-- The mode in the control register comes into force (R210): OFF zeroes the states, and a change ends POISON (R209). -/
def State.modeNow (s : State) (g : Group) : State :=
  let m := s.rd (modeField g)
  if m = (s.group g).mode then s
  else
    let s := s.modGroup g (fun q => { q with mode := m, x := if m = 0 then List.replicate 8 0 else q.x })
    if g.val < 4 then s.put (F.SRV_G_STAT_POISON g) (decide (m = 3) && s.flag (F.SRV_G_STAT_POISON g)) else s

/-- A swap AXL granted: the spare replaces the lane (R207). -/
def State.swapLaneNow (s : State) : State :=
  match s.srv.retire with
  | none => s
  | some l =>
    let sp := s.rd F.SRV_LANES_SPARE
    let s := { s with srv := { s.srv with retire := none } }
    if sp < 5 then
      let u := s.rd F.SRV_LANES_INUSE
      let s := (s.wr F.SRV_LANES_INUSE (u - (u / 2 ^ l.val % 2) * 2 ^ l.val + 2 ^ sp)).wr F.SRV_LANES_SPARE 7
      let s := (s.put (F.SRV_LANE_STAT_INUSE l) false).put (F.SRV_LANE_STAT_RETIRED l) true
      (s.put (F.SRV_LANE_STAT_INUSE sp) true).put (F.SRV_LANE_STAT_SPARE sp) false
    else s

/-- A lane leaves service for good (R207): ACTIVE falls by one, AXL hears of an unrepaired fault, the task ends with 0x42. -/
def State.laneRetire (s : State) (l : Fin 5) : State :=
  let u := s.rd F.SRV_LANES_INUSE
  let s := s.wr F.SRV_LANES_INUSE (u - (u / 2 ^ l.val % 2) * 2 ^ l.val)
  let s := s.wr F.SRV_LANES_ACTIVE (s.rd F.SRV_LANES_ACTIVE - 1)
  let s := (s.put (F.SRV_LANE_STAT_INUSE l) false).put (F.SRV_LANE_STAT_RETIRED l) true
  (s.axlAsk 0x3F 0 l 0x2).taskError 0x42

/-- The lanes found out at the last sample leave (R207). -/
def State.lanesLeave (s : State) : State :=
  s.srv.leaving.foldl State.laneRetire { s with srv := { s.srv with leaving := [] } }

/-- All that takes effect at a sample instant, in order (R217). -/
def State.instant (s : State) : State :=
  let c := s.srv.commit
  let s := (List.range 11).foldl (fun s g => if c.getLsbD g then s.commitGroup g else s) s
  let s := { s with srv := { s.srv with commit := 0 } }
  let s := s.swapLaneNow.lanesLeave.presetNow
  (List.finRange 11).foldl (fun s g => (s.targetNow g).modeNow g) s

/-! ## Residue errors (R203 to R208) -/

/-- What a sample's residue errors lead to: which groups hold their outputs, their states and a small channel's both, which
lane caused it in which group, which mixers, whether a recompute ran, and whether one ran in the observer phase. -/
structure Holds where
  out    : List Group := []
  obs    : List Group := []
  lanes  : List (Fin 5 × Group) := []
  mixers : List Head := []
  recomp : Bool := false
  recObs : Bool := false

/-- The spare may recompute and shadow: unmapped and not bad (R204, R206). -/
def State.spareGood (s : State) : Bool := decide (s.rd F.SRV_LANES_SPARE < 5) && !s.flag F.SRV_SPARE_STAT_BAD

/-- The phase's recompute cost in cycles (R204). -/
def State.phaseCost (s : State) : SrvPhase → Nat
  | .output => s.nU + 2
  | .observer => s.nO + 2
  | .small => s.nS + 2

/-- A residue error of a lane: the lane, the group of its slice, the phase. -/
abbrev LaneErr := Fin 5 × Group × SrvPhase

/-- The phases in which lane `low` is recomputed (R204): in order, each while the spare has not erred in it or before, and as long as
the sample still ends before the next instant; `cost` is the recompute time so far. -/
def State.recomputes (s : State) (errs : List LaneErr) (low sp interval : Nat) : List SrvPhase → Nat → List SrvPhase
  | [], _ => []
  | p :: r, cost =>
    if errs.any (fun e => decide (e.1.val = sp) && decide (e.2.2 = p)) then []
    else if errs.any (fun e => decide (e.1.val = low) && decide (e.2.2 = p)) && decide (s.sampleEnd (cost + s.phaseCost p) < 4 * interval) then
      p :: State.recomputes s errs low sp interval r (cost + s.phaseCost p)
    else State.recomputes s errs low sp interval r cost

/-- Which errors of the sample are held over (R204, R205, R208, R217): the lowest erring lane is recomputed where it can be;
`interval` is the time to the next instant in ns. DEDUCED (log entry 24). -/
def State.holds (s : State) (errs : List ResErr) (interval : Nat) : Holds :=
  let sp := s.rd F.SRV_LANES_SPARE
  let lanes : List LaneErr := errs.filterMap (fun e => match e with | .lane l g p => some (l, g, p) | .mixer _ => none)
  let mixers := errs.filterMap (fun e => match e with | .mixer g => some g | .lane _ _ _ => none)
  let work := lanes.filter (fun e => decide (e.1.val ≠ sp))
  let low : Nat := (work.map (fun e => e.1.val)).foldl min 5
  let done := if s.spareGood then s.recomputes lanes low sp interval [.output, .observer, .small] 0 else []
  let held := work.filter (fun e => !(decide (e.1.val = low) && done.contains e.2.2))
  let mg : List Group := mixers.map (fun h => Fin.ofNat 11 h.val)
  { out := mg ++ (held.filter (fun e => decide (e.2.2 = .output))).map (fun e => e.2.1)
    obs := mg ++ (held.filter (fun e => decide (e.2.2 ≠ .output))).map (fun e => e.2.1)
    lanes := held.map (fun e => (e.1, e.2.1)), mixers := mixers, recomp := !done.isEmpty, recObs := done.contains .observer }

/-- A residue error of a lane is counted, and SWAPN of them in the window ask AXL for a swap (R203, R207). -/
def State.laneError (s : State) (l : Fin 5) : State :=
  let s := s.bump (Reg.SRV_LANE_RES_CNT l)
  let n := s.pair Reg.SRV_SAMPLE_CNT_LO
  let win := s.rd F.SRV_RES_CFG_WIN * 256
  let es := (n :: s.srv.errors[l]).filter (fun m => n < m + win)
  let ask := decide (es.length ≥ s.rd F.SRV_RES_CFG_SWAPN)
  let s := { s with srv := { s.srv with errors := s.srv.errors.set l (if ask then [] else es) } }
  if ask then s.axlAsk 0x02 0 l 0x2 else s

/-- The spare errs: it is marked bad and reported (R206). -/
def State.spareError (s : State) (l : Fin 5) : State :=
  if s.flag F.SRV_SPARE_STAT_BAD then s
  else ((s.put F.SRV_SPARE_STAT_BAD true).put (F.SRV_LANE_STAT_BAD l) true).axlAsk 0x02 0 l 0x2

/-- Count the errors of a sample. The spare shadows while it does not recompute (R206). -/
def State.countErrors (s : State) (errs : List ResErr) (shadowDiff : Bool) : State :=
  let sp := s.rd F.SRV_LANES_SPARE
  let s := errs.foldl (fun s e => match e with
    | .lane l _ _ => if l.val = sp then (s.bump (Reg.SRV_LANE_RES_CNT l)).spareError l else s.laneError l
    | .mixer _ => s) s
  if shadowDiff && s.spareGood && s.flag F.SRV_SPARE_CFG_EN then s.laneError s.srv.shadow else s

/-- After a sample: consecutive hold-overs by lane and group with the spare in use, and by mixer; a lane that HOLDMAX of them name leaves
at the next instant, and a mixer whose run has come to HOLDMAX is reported once and ends the running task (R207, R208). -/
def State.holdCounts (s : State) (h : Holds) : State :=
  let max_ := max 1 (s.rd F.SRV_RES_CFG_HOLDMAX)
  let used := decide (s.rd F.SRV_LANES_SPARE = 7)
  let n : Vector (Vector Nat 11) 5 := Vector.ofFn (fun (l : Fin 5) => Vector.ofFn (fun (g : Group) =>
    if used && h.lanes.contains (l, g) then s.srv.laneHeld[l][g] + 1 else 0))
  let due (l : Fin 5) : Bool := (List.finRange 11).any (fun g => decide (n[l][g] ≥ max_)) && s.flag (F.SRV_LANE_STAT_INUSE l)
  let s := { s with srv := { s.srv with
    laneHeld := Vector.ofFn (fun (l : Fin 5) => if due l then Vector.replicate 11 0 else n[l])
    leaving := s.srv.leaving ++ (List.finRange 5).filter (fun l => due l && !s.srv.leaving.contains l) } }
  (List.finRange 4).foldl (fun (s : State) g =>
    let n := if h.mixers.contains g then s.srv.mixHeld[g] + 1 else 0
    let due := decide (n ≥ max_)
    let told := decide (0 < n) && s.srv.mixTold[g]
    let s := { s with srv := { s.srv with mixHeld := s.srv.mixHeld.set g n, mixTold := s.srv.mixTold.set g (told || due) } }
    let s := if due && !told then s.axlAsk 0x3F 0 g 0x2 else s
    if due then s.taskError 0x42 else s) s

/-! ## A head group's sample (R194, R195) -/

/-- The input vector of a head: quadrants times 2^15, and their sum (R191). -/
def quadVec (q : List Int) : List Int :=
  let v := (List.range 4).map (fun k => q.getD k 0 * 2 ^ 15)
  v ++ [v.sum]

/-- The errors e[m] (R194): the mixer's sum with EOFS and the target taken in. -/
def State.headErrors (s : State) (g : Head) (q : List Int) : List Int :=
  (List.range 3).map (fun m =>
    if m < s.nmeas then
      let mix := macSum ((List.range 5).map (fun k => (q.getD k 0, s.coef g (5 * m + k))))
      sat32 (macRound (mix + ((s.coef g (16 + m)).toInt - s.int (Reg.SRV_G_TGT g m)) * 2 ^ 16))
    else 0)

/-- The computed output j, before selection. -/
def State.headU (s : State) (g : Head) (x e : List Int) (j : Nat) : Int :=
  let fb := (List.range s.nstate).map (fun i => (x.getD i 0, s.coef g (24 + 8 * j + i)))
  let ff := if j < s.nmeas then [(e.getD j 0, s.coef g (48 + j))] else []
  sat32 (macRound (macSum (fb ++ ff)))

/-- The output written for j, and whether clipping changed it (R195). -/
def State.selectU (s : State) (g : Head) (mode : Nat) (held : Bool) (comp : Nat → Int) (j : Nat) : Int × Bool :=
  let prev := s.int (Reg.SRV_G_U g j)
  if mode = 0 then (0, false)
  else if held then (prev, false)
  else if j ≥ s.nout then clipTo (s.ulim (Fin.ofNat 11 g.val) j) (s.int (Reg.SRV_G_UOPEN g j))
  else if mode = 1 then clipTo (s.ulim (Fin.ofNat 11 g.val) j) (s.int (Reg.SRV_G_UOPEN g j))
  else if mode = 2 then clipTo (s.ulim (Fin.ofNat 11 g.val) j) (comp j)
  else (prev, false)

/-- The next states, before saturation; each r is one sum, rounded once (R193, R194). DEDUCED (log entry 24). -/
def State.headNext (s : State) (g : Head) (x u e : List Int) : List Int :=
  let n := s.nstate
  let r := (List.range s.nmeas).map (fun m =>
    sat32 (macRound (e.getD m 0 * 2 ^ 16 - macSum ((List.range n).map (fun i => (x.getD i 0, s.coef g (56 + 8 * m + i)))))))
  (List.range 8).map (fun i =>
    if i < n then
      macRound (macSum ((List.range n).map (fun k => (x.getD k 0, s.coef g (80 + 8 * i + k)))
        ++ (List.range s.nout).map (fun j => (u.getD j 0, s.coef g (144 + 3 * i + j)))
        ++ (List.range s.nmeas).map (fun m => (r.getD m 0, s.coef g (168 + 3 * i + m)))))
    else x.getD i 0)

/-- Words of a head group's memory in use under the present dimensions (R213, R219). -/
def State.headUses (s : State) (w : Nat) : Bool :=
  let n := s.nstate; let p := s.nout; let m := s.nmeas
  if w < 15 then decide (w / 5 < m)
  else if w < 20 then decide (16 ≤ w ∧ w < 19 ∧ w - 16 < m)
  else if w < 24 then decide (w < 23)
  else if w < 48 then decide ((w - 24) / 8 < p ∧ (w - 24) % 8 < n)
  else if w < 56 then decide (w - 48 < p ∧ w - 48 < m)
  else if w < 80 then decide ((w - 56) / 8 < m ∧ (w - 56) % 8 < n)
  else if w < 144 then decide ((w - 80) / 8 < n ∧ (w - 80) % 8 < n)
  else if w < 168 then decide ((w - 144) / 3 < n ∧ (w - 144) % 3 < p)
  else decide ((w - 168) / 3 < n ∧ (w - 168) % 3 < m)

/-- Words of a small channel's memory in use: with one state every entry of state 1 is ignored (R220). -/
def State.smallUses (s : State) (g : Group) (w : Nat) : Bool :=
  2 ≤ (s.coef g 0).toNat / 256 % 4 || !(List.contains [4, 7, 9, 10, 11, 13, 15] w)

/-- A computed group reads a poisoned word (R209). -/
def State.readsPoison (s : State) (g : Group) : Bool :=
  s.srv.poison.any (fun a => memBase g ≤ a && a < memBase g + 4 * memWords g &&
    (if g.val < 4 then s.headUses ((a - memBase g) / 4) else s.smallUses g ((a - memBase g) / 4)))

/-- A poisoned coefficient (R209): HOLD from the next sample, POISON, and the task ends with 0x40. -/
def State.poisonGroup (s : State) (g : Group) : State :=
  let s := s.writeMode g 3
  let s := if g.val < 4 then s.put (F.SRV_G_STAT_POISON g) true else s
  s.taskError 0x40

/-- One head group's sample. -/
def State.headSample (s : State) (h : Holds) (quads : List (List Int)) (stale : List Bool) (g : Head) : State :=
  let gg : Group := Fin.ofNat 11 g.val
  let mode := (s.group gg).mode
  let st := stale.getD g.val false
  let s := if st then s.bump Reg.SRV_STALE_CNT else s
  let s := s.put (F.SRV_G_STAT_STALE g) st
  if mode = 0 then
    let s := forEach (List.range 3) (fun j s => s.setInt (Reg.SRV_G_U g j) 0) s
    ((s.put (F.SRV_G_STAT_HELD g) false).wr (F.SRV_G_STAT_USAT g) 0).put (F.SRV_G_STAT_XSAT g) false
  else
    let poison := s.readsPoison gg
    let heldOut := poison || h.out.contains gg
    let heldObs := poison || h.obs.contains gg
    let x := (s.group gg).x
    let e := s.headErrors g (quadVec (quads.getD g.val []))
    let us := (List.range 3).map (s.selectU g mode heldOut (s.headU g x e))
    let u := us.map (·.1)
    let clips := us.filter (·.2)
    let xr := s.headNext g x u e
    let xn := if heldObs then x else xr.map sat32
    let usat := ((List.range 3).filter (fun j => (us.getD j (0, false)).2)).foldl (fun m j => m + 2 ^ j) 0
    let s := forEach (List.range 3) (fun j s => s.setInt (Reg.SRV_G_U g j) (u.getD j 0)) s
    let s := forEach (List.range 3) (fun j s => s.setInt (Reg.SRV_G_E g j) (e.getD j 0)) s
    let s := (s.wr (F.SRV_G_STAT_USAT g) usat).bumpBy (Reg.SRV_G_SAT_CNT g) clips.length
    let s := s.put (F.SRV_G_STAT_XSAT g) (!heldObs && xr.any (fun v => decide (sat32 v ≠ v)))
    let s := (s.pmcRise (0x140 + g) (s.flag (F.SRV_G_STAT_HELD g)) (heldOut || heldObs)).put (F.SRV_G_STAT_HELD g) (heldOut || heldObs)
    let s := if heldOut || heldObs then s.bump (Reg.SRV_G_HOLD_CNT g) else s
    let s := s.modGroup gg (fun q => { q with x := xn })
    if poison then s.poisonGroup gg else s

/-! ## A small channel's sample (R196) -/

/-- The position error of an SLD channel as SRV reads it (R273). -/
def State.sldError (s : State) (n : Nat) : Int :=
  let m := s.rd (F.SLD_STAT_MODE n)
  if m = 1 ∨ m = 6 then (s.int (Reg.SLD_TGT n) - s.int (Reg.SLD_POS n)) * 256 else 0

/-- The source an INSEL names (R221). -/
def State.insel (s : State) (k : Nat) (quads : List (List Int)) : Int :=
  if k = 1 then s.int Reg.SPN_SPEED
  else if 0x10 ≤ k ∧ k < 0x1C then s.int (Reg.SRV_G_U (k % 4) ((k - 0x10) / 4))
  else if 0x20 ≤ k ∧ k < 0x26 then sat32 (s.sldError (k - 0x20))
  else if 0x30 ≤ k ∧ k < 0x34 then (quadVec (quads.getD (k - 0x30) [])).getD 4 0
  else 0

/-- The output of a small channel written at this sample: the one computed ahead, by its mode (R195, R196). -/
def State.smallOut (s : State) (c : Fin 7) : State :=
  let g : Group := Fin.ofNat 11 (c.val + 4)
  let mode := (s.group g).mode
  let lim := s.ulim g 0
  let u := if mode = 0 then 0 else if mode = 1 then (clipTo lim (s.int (Reg.SRV_S_NEXT c))).1
    else if mode = 2 then (clipTo lim (s.group g).ahead).1 else s.int (Reg.SRV_S_U c)
  s.setInt (Reg.SRV_S_U c) u

/-- The small phase of a channel. -/
def State.smallSample (s : State) (h : Holds) (quads : List (List Int)) (c : Fin 7) : State :=
  let g : Group := Fin.ofNat 11 (c.val + 4)
  let q := s.group g
  if q.mode = 0 then s
  else
    let cfg := (s.coef g 0).toNat
    let n := min 2 (cfg / 256 % 4)
    let poison := s.readsPoison g
    let es := sat32 (s.insel (cfg % 256) quads + (s.coef g 1).toInt - s.int (Reg.SRV_S_TGT c))
    let us := s.int (Reg.SRV_S_U c)
    let x := q.x
    let r := sat32 (macRound (es * 2 ^ 16 - macSum ((List.range n).map (fun i => (x.getD i 0, s.coef g (6 + i))))))
    let xn := (List.range 8).map (fun i =>
      if i < n then
        sat32 (macRound (macSum ((List.range n).map (fun k => (x.getD k 0, s.coef g (8 + 2 * i + k)))
          ++ [(us, s.coef g (12 + i)), (r, s.coef g (14 + i))])))
      else x.getD i 0)
    let s := s.setInt (Reg.SRV_S_E c) es
    if poison then s.poisonGroup g
    else if h.obs.contains g || h.out.contains g then s
    else
      let ahead := sat32 (macRound (macSum ((List.range n).map (fun i => (xn.getD i 0, s.coef g (3 + i))) ++ [(es, s.coef g 5)])))
      s.modGroup g (fun q => { q with x := xn, ahead := ahead })

/-! ## The sample -/

/-- SRV's part of a servo sample (R194 to R209) on the quadrants `y`. With EN = 0 every output is 0 and every state held (R222).
DEDUCED (log entry 24). -/
def State.srvSample (s : State) (x : SampleIn) (y : Quads) : State :=
  let s := s.instant
  if s.flag F.SRV_CTRL_EN then
    let s : State := { s.bump64 Reg.SRV_SAMPLE_CNT_LO 1 with srv := { s.srv with shadowN := s.srv.shadowN + 1 } }
    let none_ := decide (s.rd F.SRV_LANES_ACTIVE = 0)
    let h0 := s.holds x.residues x.interval
    let h := if none_ then { h0 with out := List.finRange 11, obs := List.finRange 11 } else h0
    let s := s.countErrors x.residues (x.shadowDiff && !h.recObs)
    let s := (List.finRange 7).foldl State.smallOut s
    let s := (List.finRange 4).foldl (fun s g => s.headSample h y.codes y.stale g) s
    let s := (List.finRange 7).foldl (fun s c => s.smallSample h y.codes c) s
    let s := (s.put F.SRV_RES_STAT_RECOMP h.recomp).wr F.SRV_RES_STAT_HELD
      (((List.finRange 11).filter (fun g => h.out.contains g || h.obs.contains g)).foldl (fun m g => m + 2 ^ g.val) 0)
    let s := s.holdCounts h
    if none_ then s.taskError 0x42 else s
  else
    let s := (List.range 4).foldl (fun s g => forEach (List.range 3) (fun j s => s.setInt (Reg.SRV_G_U g j) 0) s) s
    forEach (List.range 7) (fun c s => s.setInt (Reg.SRV_S_U c) 0) s

/-! ## Commands of SRV -/

/-- SPARE_SHADOW_MOVE: after 65,536 samples the spare shadows the next active lane (R206). -/
def execSpareShadowMove (s : State) : Host.Outcome State Fault Refusal :=
  if s.spareGood && s.flag F.SRV_SPARE_CFG_EN && decide (65536 ≤ s.srv.shadowN) then
    let u := s.reg Reg.SRV_LANES
    let order := (List.finRange 5).map (fun i => (Fin.ofNat 5 (s.srv.shadow.val + 1 + i.val) : Fin 5))
    match order.find? (fun l => u.getLsbD (8 + l.val)) with
    | some l => .next { s with srv := { s.srv with shadow := l, shadowN := 0 } }
    | none => .next { s with srv := { s.srv with shadowN := 0 } }
  else .next s

/-- COMMIT: a write of `SRV_CTRL.COMMIT` (R212): the copies are made at the next sample instant. -/
def execCommit (groups : BitVec 11) (s : State) : Host.Outcome State Fault Refusal :=
  .next { s with srv := { s.srv with commit := s.srv.commit ||| groups } }

/-- A preset is ordered for the next sample instant, beside those ordered before (R215). -/
def State.orderPreset (s : State) (mask : BitVec 11) (staged : Bool) : State :=
  { s with srv := { s.srv with presets := s.srv.presets ++ [(mask, staged)] } }

/-- SRV_PRESET: a write of `SRV_PRESET` orders a preset at the next sample instant (R215). -/
def execSrvPreset (v : Word) (s : State) : Host.Outcome State Fault Refusal :=
  .next (s.orderPreset (v.extractLsb' 0 11) (v.getLsbD 11))

/-- The control register of a group. -/
def ctrlReg (g : Group) : Nat := (modeField g).reg

/-- SRV_MODE: a write of a group's control register (R210, R224): its MODE is in force from the next sample instant. -/
def execSrvMode (g : Group) (v : Word) (s : State) : Host.Outcome State Fault Refusal :=
  .next (s.setReg (ctrlReg g) (v &&& 0xB3))

end Sys2Proof.Machine
end

