-- ==== Sys2Proof/Machine/Sld.lean ====
section
/-! DEFINITION. SLD (R268 to R285): starting, refusing and ending the commands of a stepper channel. The commands themselves
stand in Drive.lean, since a channel's end is reported to the loop supervisor that started it. -/

namespace Sys2Proof.Machine

/-- The control group of a channel (R282). -/
def sldGroup (n : Stepper) : Nat := if n.val < 2 then n.val else (n.val - 2) / 2

/-- The slot of a channel in its group. -/
def sldSlot (n : Stepper) : Nat := if n.val < 2 then 0 else 1 + (n.val - 2) % 2

/-- The corrector channel of a head (R268). -/
def corrector (h : Head) : Stepper := ⟨h.val + 2, by omega⟩

/-- The sled channel of a sled. -/
def sledChan (s : Sled) : Stepper := ⟨s.val, by omega⟩

/-- Change a channel's structure. -/
def State.modSld (s : State) (n : Stepper) (f : Sld → Sld) : State := { s with sld := s.sld.set n (f s.sld[n]) }

/-- The currents of phases A and B in mA/32,767 (R269): from the channel's table at P, at IRUN, or at IHOLD once it has rested. -/
def State.phases (s : State) (n : Stepper) : Int × Int :=
  if s.flag (F.SLD_STAT_ENERG n) && s.bridges then
    let p := (s.reg (Reg.SLD_POS n)).toNat % 1024
    let t := s.rd (F.SLD_CTRL_TBL n) % 2
    let i := if s.sld[n].ihold then s.rd (F.SLD_CUR_IHOLD n) else s.rd (F.SLD_CUR_IRUN n)
    let a : Int := (s.rd (F.SLD_TBL_TA t (p % 256)) : Int) * i
    let b : Int := (s.rd (F.SLD_TBL_TB t (p % 256)) : Int) * i
    match p / 256 with
    | 0 => (a, b)
    | 1 => (-b, a)
    | 2 => (-a, -b)
    | _ => (b, -a)
  else (0, 0)

/-- The microsteps a velocity covers in `ns` nanoseconds, rounded up. -/
def stepLimit (v ns : Nat) : Int := ((v * ns + 999999999) / 10 ^ 9 : Nat)

/-- A planned motion by one sample (R271, R272): P goes toward the target of its plan, or downward in HOME, by what the velocity
permits; how far the profile has come is `want`. DEDUCED (log entry 20). -/
def State.sldPath (s : State) (n : Stepper) (want : Int) (ns : Nat) : State :=
  let p := s.int (Reg.SLD_POS n)
  if s.rd (F.SLD_STAT_MODE n) = 7 then
    s.setInt (Reg.SLD_POS n) (max (p - stepLimit (2 * 4096 * s.rd (F.SLD_STALL_VSTALL n)) ns) (min p want))
  else
    let g := s.sld[n].goal.toInt
    s.setInt (Reg.SLD_POS n) (toward p (max (min p g) (min (max p g) want)) (stepLimit (s.rd (F.SLD_VMAX_V n)) ns))

/-- A channel that follows SRV by one sample (R273): in VEL the output of its group is the velocity, in TRIM the target plus the output
is the position; VMAX limits the velocity, and AMAX its change. DESIGN CHOICE (log entry 67). -/
def State.sldFollow (s : State) (n : Stepper) (ns : Nat) : State :=
  let c := s.sld[n]
  let u := s.int (Reg.SRV_S_U (n.val + 1))
  let unit : Int := 256 * 10 ^ 18
  let at_ := s.int (Reg.SLD_POS n) * unit + c.frac
  let want : Int := if s.rd (F.SLD_STAT_MODE n) = 5 then u * 10 ^ 9
    else (((s.int (Reg.SLD_TGT n) * 256 + u) * 10 ^ 18) - at_) / max 1 ns
  let vmax : Int := s.rd (F.SLD_VMAX_V n) * 256 * 10 ^ 9
  let v := toward c.vel (max (-vmax) (min vmax want)) (s.rd (F.SLD_AMAX_A n) * 65536 * ns)
  let p := at_ + v * ns
  (s.setInt (Reg.SLD_POS n) (p / unit)).modSld n (fun c => { c with vel := v, frac := p % unit })

/-- At a servo sample the channels in motion move on (R271 to R273). -/
def State.sldSample (s : State) (pos : List Word) (ns : Nat) : State :=
  (List.finRange 6).foldl (fun s (n : Stepper) =>
    if !s.flag (F.SLD_STAT_BUSY n) then s
    else if s.rd (F.SLD_STAT_MODE n) = 5 ∨ s.rd (F.SLD_STAT_MODE n) = 6 then s.sldFollow n ns
    else match pos[n.val]? with
      | some v => s.sldPath n v.toInt ns
      | none => s) s

/-- Why a command is refused (R271, R282): the group flag it sets. -/
def State.sldRefusal (s : State) (n : Stepper) (op : Nat) (busy : Bool) : Option RegField :=
  let cfg := F.SLD_G_STAT_CFGERR (sldGroup n)
  let v0 := s.rd (F.SLD_VMAX_V n) = 0
  let a0 := s.rd (F.SLD_AMAX_A n) = 0
  let j0 := s.rd (F.SLD_JMAX_J n) = 0
  let quiet := op = 2 ∨ op = 3 ∨ op = 4
  if op ≥ 8 ∨ (op = 6 ∧ n.val < 2) ∨ (op = 5 ∧ 2 ≤ n.val) then some cfg
  else if busy ∧ ¬quiet then some (F.SLD_G_STAT_BUSYERR (sldGroup n))
  else if s.flag (F.SLD_STAT_LOST n) ∧ op ≠ 7 ∧ op ≠ 3 ∧ op ≠ 4 then some cfg
  else if (op = 1 ∨ op = 7) ∧ (v0 ∨ a0 ∨ j0) then some cfg
  else if (op = 5 ∨ op = 6) ∧ (v0 ∨ a0) then some cfg
  else none

/-- A command of a channel ends (R271): DONE, SLD_DONE, its error class. -/
def State.sldDone (s : State) (n : Stepper) (cls : Nat) : State :=
  let s := ((s.put (F.SLD_STAT_BUSY n) false).put (F.SLD_STAT_DONE n) true).wr (F.SLD_STAT_ERRCLS n) cls
  s.event (Ev.sldDone n)

/-- A command of a channel starts (R271, R272): a move remembers where it began; HOLD and OFF end at once. STOP stands until
the channel is at rest. -/
def State.sldBegin (s : State) (n : Stepper) (op : Nat) : State :=
  let s := (s.wr (F.SLD_STAT_MODE n) op).put (F.SLD_STAT_ARMED n) false
  let s := (s.put (F.SLD_STAT_STOPPED n) false).modSld n (fun c => { c with ended := 0 })
  if op = 3 then (s.put (F.SLD_STAT_ENERG n) true).sldDone n 0
  else if op = 4 then (s.put (F.SLD_STAT_ENERG n) false).sldDone n 0
  else
    let s := (s.pmcRise (0x400 + n) (s.flag (F.SLD_STAT_BUSY n)) true).put (F.SLD_STAT_BUSY n) true
    let s := s.put (F.SLD_STAT_ENERG n) true
    let e := if n.val < 2 then s.reg (Reg.ANG_ENC_CNT n) else 0
    let s := s.modSld n (fun c => { c with from_ := s.reg (Reg.SLD_POS n), enc := e, ihold := false, goal := s.reg (Reg.SLD_TGT n), vel := 0, frac := 0 })
    if op = 1 then s.bump (Reg.SLD_G_MOVE_CNT (sldGroup n)) else s

/-- The encoder check at the end of a sled's move (R277): whether the difference passes ENCTOL. -/
def State.encoderMis (s : State) (n : Stepper) : Bool :=
  if n.val < 2 ∧ s.rd (F.SLD_MOTOR_ENCPM n) ≠ 0 ∧ s.flag (F.ANG_ENC_STAT_UNCERTAIN n) = false then
    let c := s.sld[n]
    let dp := (s.reg (Reg.SLD_POS n) - c.from_).toInt
    let de := (s.reg (Reg.ANG_ENC_CNT n) - c.enc).toInt
    decide ((de - dp * s.rd (F.SLD_MOTOR_ENCPM n) / 1024).natAbs > s.rd (F.SLD_STALL_ENCTOL n))
  else false

/-- The error class of a stall: 0x24 for a sled, 0x25 for a corrector (R276). -/
def stallClass (n : Stepper) : Nat := if n.val < 2 then 0x24 else 0x25

/-- A stall (R276): the channel holds at P, LOST is set and the command ends with its class. The count is kept per slot, one
byte each. -/
def State.sldStall (s : State) (n : Stepper) : State :=
  let s := (s.wr (F.SLD_STAT_MODE n) 3).put (F.SLD_STAT_LOST n) true
  let s := s.bumpF ⟨Reg.SLD_G_STALL_CNT (sldGroup n), 8 * sldSlot n, 8⟩
  s.sldDone n (stallClass n)

/-- A STOP ends at rest (R274): at `rest` under the profile's limits, in TRIM where the channel is; it holds there, with STOPPED. -/
def State.sldRest (s : State) (n : Stepper) (rest : Word) : State :=
  let m := s.rd (F.SLD_STAT_MODE n)
  let s := if s.flag (F.SLD_STAT_BUSY n) then
      let s := if m = 6 then s else s.setReg (Reg.SLD_POS n) rest
      (s.wr (F.SLD_STAT_MODE n) 3).modSld n (fun c => { c with ended := m })
    else s
  ((s.put (F.SLD_STAT_ARMED n) false).put (F.SLD_STAT_STOPPED n) true).sldDone n 0

end Sys2Proof.Machine
end

