-- ==== Sys2Proof/Machine/Spn.lean ====
section
/-! DEFINITION. SPN (R248 to R267): the spindle's states, commands, ends and faults, with its commands. What a servo sample
does to the spindle (the ramp, the ends of a stop) is `spnSample`. -/

namespace Sys2Proof.Machine

/-! ## States -/

/-- The spindle's state code (R255). -/
def State.spnState (s : State) : Nat := s.rd F.SPN_STAT_STATE

/-- RUN and STOPPING: SPN owns the target of group 4 (R258). -/
def State.spnLoops (s : State) : Bool := s.spnState = 4 || s.spnState = 5

/-- The speed estimate in whole rpm. -/
def State.spnRpm (s : State) : Int := s.int Reg.SPN_SPEED / 65536

/-- Change SPN's structure. -/
def State.modSpn (s : State) (f : Spn → Spn) : State := { s with spn := f s.spn }

/-- The speed estimate of R253: the observer's, or under ANGSPD the revolution rate while the angle is valid; valid above 240 rpm. -/
def State.speedNow (s : State) : State :=
  let byAngle := s.flag F.SPN_EST_CFG_ANGSPD && s.angValid
  let v := if byAngle then s.spn.rev else s.spn.obs
  (s.setReg Reg.SPN_SPEED v).put F.SPN_STAT_SPDVALID ((byAngle || s.spn.obsOk) && decide (240 * 65536 < v.toInt.natAbs))

/-- Go to a state; leaving RUN clears ATSPEED (R257), leaving RUN and STOPPING turns group 4 OFF (R258), and without a braking state
there is no zero-vector braking (R261). DEDUCED (log entry 38). -/
def State.spnGo (s : State) (k : Nat) : State :=
  let s' := s.wr F.SPN_STAT_STATE k
  let s' := if k = 5 ∨ k = 6 ∨ k = 7 then s' else s'.put F.SPN_STAT_ZVB false
  let s' := if s.spnState = 4 ∧ k ≠ 4 then s'.put F.SPN_STAT_ATSPEED false else s'
  if s.spnLoops && k ≠ 4 && k ≠ 5 then s'.writeMode 4 0 else s'

/-- A fault cause is set (R266). -/
def State.spnCauses (s : State) : Nat := (s.reg Reg.SPN_STAT).toNat % 128

/-- A command ends (R256): DONE, SPN_DONE, its error class; class 0x23 ends the running task (R266). -/
def State.spnEnd (s : State) (cls : Nat) : State :=
  if s.spn.cmd = 0 then s
  else
    let s := s.modSpn (fun p => { p with cmd := 0 })
    let s := ((s.put F.SPN_STAT_BUSY false).put F.SPN_STAT_DONE true).wr F.SPN_STAT_ERRCLS cls
    s.event Ev.spnDone

/-- A command is accepted: one in progress ends with 0x52, and this one is in progress (R256). -/
def State.spnAccept (s : State) (op : Nat) : State :=
  ((s.spnEnd 0x52).modSpn (fun p => { p with cmd := op, again := false })).put F.SPN_STAT_BUSY true

/-! ## Refusals (R256, R264, R265) -/

/-- The spindle speed of R264 in 1/65,536 rpm, none when unknown; in ALIGN the rotor is at rest (R255). -/
def State.spnSpeed (s : State) : Option Int :=
  let k := s.spnState
  if k = 0 ∨ k = 2 ∨ k = 8 then some 0
  else if k = 3 ∨ k = 7 then some s.spn.driven.toInt
  else if s.flag F.SPN_STAT_SPDVALID then some (s.int Reg.SPN_SPEED)
  else if s.spn.still then some 0 else none

/-- The state accepts the command (R256). -/
def spnAccepts (op state : Nat) : Bool :=
  match op with
  | 1 => state = 0 || state = 4 || state = 5
  | 2 => state ≠ 0
  | 3 => state = 4 || state = 5
  | 4 => true
  | 5 => state = 4 || state = 5
  | 6 => state = 0 || state = 8 || state = 7
  | _ => false

/-- Why a command is refused: the flag set, and the error class when it changes (R256, R265); a SPIN during STOPPING is accepted whatever
is in progress (R267). DEDUCED (log entry 38). -/
def State.spnRefusal (s : State) (op : Nat) : Option (RegField × Option Nat) :=
  let tgt := s.rd F.SPN_TARGET_RPM
  if op = 0 ∨ op ≥ 7 ∨ (op = 1 ∧ (tgt < 300 ∨ tgt > 7560)) then some (F.SPN_STAT_CFGERR, none)
  else if s.spn.cmd ≠ 0 ∧ op ≠ 2 ∧ op ≠ 3 ∧ op ≠ 4 ∧ ¬(op = 1 ∧ s.spnState = 5) then some (F.SPN_STAT_BUSYERR, none)
  else if !s.owned || !s.stageOn then some (F.SPN_STAT_CFGERR, some 0x52)
  else
    let fast : Bool := match s.spnSpeed with
      | some v => decide (v.natAbs > 60 * 65536)
      | none => true
    if op = 6 ∧ fast then some (F.SPN_STAT_CFGERR, some (if s.int Reg.SPN_ROT < 0 then 0x53 else 0x52))
    else if s.spnState = 9 ∧ op ≠ 2 ∧ op ≠ 4 then some (F.SPN_STAT_CFGERR, some 0x52)
    else if spnAccepts op s.spnState then none
    else some (F.SPN_STAT_CFGERR, some 0x52)

/-- Run a command unless it is refused. -/
def State.spnCommand (s : State) (op : Nat) (run : State → State) : State :=
  match s.spnRefusal op with
  | some (f, cls) =>
    let s := (s.put f true).bump Reg.SPN_REFUSE_CNT
    match cls with
    | some c => s.wr F.SPN_STAT_ERRCLS c
    | none => s
  | none => run (s.spnAccept op)

/-! ## The commands -/

/-- `SPN_TARGET` takes a value; ATSPEED clears when that changes it (R258). -/
def State.spnTarget (s : State) (rpm : Nat) : State :=
  if s.rd F.SPN_TARGET_RPM = rpm then s else (s.wr F.SPN_TARGET_RPM rpm).put F.SPN_STAT_ATSPEED false

/-- The driven frequency is at rest. -/
def State.vectorRest (s : State) : State := s.modSpn (fun p => { p with driven := 0, dFrac := 0 })

/-- A start attempt begins with ALIGN (R257). -/
def State.spnAlign (s : State) : State :=
  ((s.vectorRest.modSpn (fun p => { p with starts := p.starts + 1, again := false, still := false })).bump Reg.SPN_START_CNT).spnGo 2

/-- SPIN (R257, R258). -/
def State.spinRun (s : State) : State :=
  if s.spnState = 0 then (s.modSpn (fun p => { p with starts := 0 })).spnAlign
  else (s.spnGo 4).modSpn (fun p => { p with drive := 0 })

/-- STOP in each state (R259). -/
def State.stopRun (s : State) : State :=
  let k := s.spnState
  if k = 4 ∨ k = 5 then
    ((s.spnTarget 0).spnGo 5).modSpn (fun p => { p with drive := 1 })
  else if k = 2 ∨ k = 3 ∨ k = 7 then (s.spnGo 7).modSpn (fun p => { p with drive := 1 })
  else if k = 8 then s.spnGo 1
  else if k = 9 ∧ s.spn.still = true then s.spnEnd 0
  else s

/-- COAST: the bridge opens, and the command ends at once (R256). -/
def State.coastRun (s : State) : State :=
  let s := if s.spnState = 0 ∨ s.spnState = 9 then s else s.spnGo 1
  (s.modSpn (fun p => { p with drive := 0, zvBrake := false })).spnEnd 0

/-- PARK (R262): a STOP that latches the park offset and ends in HELD. -/
def State.parkRun (s : State) : State :=
  let s := (s.spnTarget 0).put F.SPN_STAT_PARKED false
  (s.spnGo 5).modSpn (fun p => { p with drive := 2 })

/-- BRAKE (R260): the fixed braking current, then steps 2 and 3 of R259. -/
def State.brakeRun (s : State) : State := (s.spnGo 6).modSpn (fun p => { p with drive := 1 })

/-- The angle of 1/65,536 revolution in the unit of `Spn.left`. -/
def angleUnit : Int := 60 * 10 ^ 18

/-- ROTATE (R263): the signed angle of `SPN_ROT` is to be turned. -/
def State.rotateRun (s : State) : State :=
  ((if s.spnState = 7 then s else s.vectorRest).spnGo 7).modSpn (fun p => { p with drive := 3, still := false, left := s.int Reg.SPN_ROT * angleUnit })

/-- SPIN, STOP, BRAKE, COAST, PARK, ROTATE: a write of `SPN_CMD` with the OP (R256). -/
def execSpin (s : State) : Host.Outcome State Fault Refusal := .next (s.spnCommand 1 State.spinRun)
def execSpnStop (s : State) : Host.Outcome State Fault Refusal := .next (s.spnCommand 2 State.stopRun)
def execBrake (s : State) : Host.Outcome State Fault Refusal := .next (s.spnCommand 3 State.brakeRun)
def execCoast (s : State) : Host.Outcome State Fault Refusal := .next (s.spnCommand 4 State.coastRun)
def execPark (s : State) : Host.Outcome State Fault Refusal := .next (s.spnCommand 5 State.parkRun)
def execRotate (s : State) : Host.Outcome State Fault Refusal := .next (s.spnCommand 6 State.rotateRun)

/-! ## Faults -/

/-- The cause bit of a fault (R266, R280). -/
def causeField : SpnCause → RegField
  | .enl => F.SPN_STAT_ENL
  | .ovc => F.SPN_STAT_OVC
  | .hot => F.SPN_STAT_HOT
  | .ovv => F.SPN_STAT_OVV
  | .startf => F.SPN_STAT_STARTF
  | .estl => F.SPN_STAT_ESTL
  | .spde => F.SPN_STAT_SPDE

/-- The condition of a cause can arise in the state (R266). -/
def State.spnFaultable (s : State) : SpnCause → Bool
  | .enl => s.spnState ≠ 0 && s.spnState ≠ 1
  | .estl => s.spnState = 4 || s.spnState = 5 || s.spnState = 6
  | .spde => s.spnState = 4 && !s.flag F.SPN_STAT_WATCH
  | _ => true

/-- `SPN_TRACE` freezes: what the command brings, and free values past it, for a cause that a command of another kind sets (R266).
DESIGN CHOICE (log entry 58). -/
def State.traceFreeze (s : State) (tr : List Word) : State :=
  forEach (List.range 32) (fun k s => match tr[k]? with
    | some w => s.setReg (Reg.SPN_TRACE k) w
    | none => let (w, s) := s.draw; s.setReg (Reg.SPN_TRACE k) w) s

/-- A spindle fault (R266): the cause, the trace, the command's end with 0x23, and braking or FAULT. DEDUCED (log entry 38). -/
def State.spnFails (s : State) (cause : SpnCause) (trace : List Word) : State :=
  let s := (s.put (causeField cause) true).bump Reg.SPN_FLT_CNT
  let s := if cause = .ovc then s.bump Reg.SPN_OVC_CNT else s
  let s := s.traceFreeze trace
  let brake := (cause = .estl ∨ cause = .spde) ∧ s.spnState ≠ 9
  let s := s.spnGo (if brake then 6 else 9)
  let s := s.modSpn (fun p => { p with again := false, drive := if brake then 1 else 0,
                                        zvBrake := if brake then decide (cause = .estl) || p.zvBrake else false })
  (s.put F.SPN_STAT_ZVB (brake && s.spn.zvBrake)).spnEnd 0x23

/-- A spindle fault whose condition can arise in the state; it ends the running task (R266). -/
def State.spnFault (s : State) (cause : SpnCause) (trace : List Word) : State :=
  if s.spnFaultable cause then (s.spnFails cause trace).taskError 0x23 (s.lowOpen (fun _ => true)) else s

/-- SPN_FAULT. -/
def execSpnFault (cause : SpnCause) (trace : List Word) (s : State) : Host.Outcome State Fault Refusal :=
  .next (s.spnFault cause trace)

/-- SPN_CAUSE_CLEAR: a write to `SPN_STAT`; with the last cause cleared FAULT becomes COAST, or STOPPED at standstill (R266). -/
def State.spnStatWrite (s : State) (v : Word) : State :=
  let s := s.setReg Reg.SPN_STAT (s.reg Reg.SPN_STAT &&& ~~~(v &&& 0x010004FF))
  if s.spnState = 9 ∧ s.spnCauses = 0 then s.spnGo (if s.spn.still then 0 else 1) else s

/-- SPN_CAUSE_CLEAR. -/
def execSpnCauseClear (v : Word) (s : State) : Host.Outcome State Fault Refusal := .next (s.spnStatWrite v)

/-! ## What time brings -/

/-- ALIGN_END: ALIGNT expires (R257). -/
def execAlignEnd (s : State) : Host.Outcome State Fault Refusal := .next (if s.spnState = 2 then s.spnGo 3 else s)

/-- RUN begins with group 4 CLOSED and REF at the speed estimate (R257, R258, R267). -/
def State.spnRun (s : State) : State :=
  (((s.spnGo 4).writeMode 4 2).setReg Reg.SPN_REF (s.reg Reg.SPN_SPEED)).modSpn (fun p => { p with closed := false, refFrac := 0 })

/-- HANDOFF: the q reference moves from IFI to the loop's output (R257). -/
def execHandoff (s : State) : Host.Outcome State Fault Refusal :=
  if s.spnState = 3 then
    .next (s.spnRun.modSpn (fun p => { p with iq := s.rd F.SPN_IF_IFI * 65536, soft := true }))
  else .next s

/-- HANDOFF_TIMEOUT: the attempt ends with the bridge open; the third one is STARTF (R257). -/
def execHandoffTimeout (s : State) : Host.Outcome State Fault Refusal :=
  if s.spnState = 3 then
    if s.spn.starts ≥ 3 then .next (s.spnFault .startf [])
    else .next ((s.spnGo 1).modSpn (fun p => { p with again := decide (p.cmd = 1) }))
  else .next s

/-- ATSPEED: the speed has stayed within the tolerance, and a SPIN ends (R257). -/
def execAtspeed (s : State) : Host.Outcome State Fault Refusal :=
  if s.spnState = 4 then
    let s := (s.pmcRise 0x410 (s.flag F.SPN_STAT_ATSPEED) true).put F.SPN_STAT_ATSPEED true
    .next (if s.spn.cmd = 1 then s.spnEnd 0 else s)
  else .next s

/-- A failed start is repeated at standstill (R257); without the stages it faults at once (R249, R266). -/
def State.spnRetry (s : State) : State := if s.bridges then s.spnAlign else s.spnAlign.spnFault .enl []

/-- STANDSTILL: declared with the bridge open (R254). A failed start is repeated, a STOP ends, a COAST becomes STOPPED; the
braking of ESTL ends in FAULT (R257, R259, R266). -/
def execStandstill (s : State) : Host.Outcome State Fault Refusal :=
  let k := s.spnState
  if k = 0 ∨ k = 1 then
    let s := (s.spnGo 0).modSpn (fun p => { p with still := true })
    .next (if s.spn.again then s.spnRetry else if s.spn.cmd = 2 then s.spnEnd 0 else s)
  else if k = 9 then
    let s := s.modSpn (fun p => { p with still := true })
    .next (if s.spn.cmd = 2 then s.spnEnd 0 else s)
  else if k = 6 ∧ s.spn.zvBrake then
    .next (((s.spnGo (if s.spnCauses = 0 then 0 else 9)).modSpn (fun p => { p with still := true, zvBrake := false, drive := 0 })).spnEnd 0)
  else .next s

/-- STOP_HOLD_END: the hold of the driven vector at zero frequency ends, and the bridge opens (R259): STOPPED, or FAULT after SPDE
(R266). -/
def execStopHoldEnd (s : State) : Host.Outcome State Fault Refusal :=
  if s.spnState = 7 ∧ s.spn.drive ≤ 1 ∧ s.spn.driven = 0 then
    let s := (s.spnGo (if s.spnCauses = 0 then 0 else 9)).modSpn (fun p => { p with drive := 0, still := true })
    .next (s.spnEnd 0)
  else .next s

/-- VWATCH_ON: VIN12 above the watch-on level in STOPPING, BRAKING or DRIVEN (R261). -/
def execVwatchOn (mv : Nat) (s : State) : Host.Outcome State Fault Refusal :=
  let k := s.spnState
  let s := s.setReg Reg.SPN_VIN (BitVec.ofNat 32 mv)
  if (k = 5 ∨ k = 6 ∨ k = 7) ∧ mv > s.rd F.SPN_VWATCH_ON * 100 ∧ s.flag F.SPN_STAT_WATCH = false then
    .next (((s.put F.SPN_STAT_WATCH true).put F.SPN_STAT_ZVB true).bump Reg.SPN_WATCH_CNT)
  else .next s

/-- VWATCH_OFF: VIN12 below the watch-off level (R261). -/
def execVwatchOff (mv : Nat) (s : State) : Host.Outcome State Fault Refusal :=
  let s := s.setReg Reg.SPN_VIN (BitVec.ofNat 32 mv)
  if mv < s.rd F.SPN_VWATCH_OFF * 100 then
    .next ((s.put F.SPN_STAT_WATCH false).put F.SPN_STAT_ZVB s.spn.zvBrake)
  else .next s

/-- A ramp over `ns` nanoseconds toward a target at rates in rpm/s (R258): value and target in 10⁻⁹ of 1/65,536 rpm.
DEDUCED (log entry 38). -/
def rampRef (ref target : Int) (accel decel ns : Nat) : Int :=
  if ref < target then min target (ref + accel * 65536 * ns) else max target (ref - decel * 65536 * ns)

/-- The latch of R262: between 1,200 and 600 rpm with a valid angle, disc angle minus mechanical angle in 1/65,536
revolution. -/
def State.parkLatch (s : State) : State :=
  let rpm := s.spnRpm
  if s.spn.drive = 2 ∧ (s.spnState = 5 ∨ s.spnState = 6) ∧ s.flag F.SPN_STAT_PARKED = false then
    if rpm < 600 then ((s.spnEnd 0x52).modSpn (fun p => { p with drive := 1 }))
    else if rpm ≤ 1200 ∧ s.angValid then
      let disc := s.ang.now.toNat % 2 ^ 20 / 16
      let ofs := (disc + 65536 - (s.reg Reg.SPN_MANG).toNat % 65536) % 65536
      (s.setReg Reg.SPN_OFS_LATCH (BitVec.ofNat 32 ofs)).put F.SPN_STAT_PARKED true
    else s
  else s

/-- What the observer gives at a sample (R253): the speed, the electrical angle, and the mechanical angle, which is the electrical one
with its turns divided by PP (R262); a disc seen to turn is not at standstill (R254). -/
def State.spnSense (s : State) (x : SampleIn) : State :=
  let pp := max 1 (s.rd F.SPN_MOTOR_PP)
  let turns := (((s.spn.turns : Int) + signed 16 ((x.eang.toNat + 65536 - s.spn.turns % 65536) % 65536)) % (65536 * pp : Nat)).toNat
  let s := s.modSpn (fun p => { p with obs := x.speed, obsOk := x.speedOk, rev := x.revRate, turns := turns })
  let s := ((s.setReg Reg.SPN_EANG (x.eang.setWidth 32)).setReg Reg.SPN_MANG (BitVec.ofNat 32 (turns / pp))).speedNow
  s.modSpn (fun p => { p with still := p.still && !s.flag F.SPN_STAT_SPDVALID })

/-- The driven frequency in 10⁻⁹ of 1/65,536 rpm. -/
def State.vector (s : State) : Int := s.spn.driven.toInt * 10 ^ 9 + s.spn.dFrac

/-- The driven frequency takes a value. -/
def State.setVector (s : State) (v : Int) : State :=
  s.modSpn (fun p => { p with driven := BitVec.ofInt 32 (v / 10 ^ 9), dFrac := (v % 10 ^ 9).toNat })

/-- A motion at rate `a` rpm/s by one sample toward the angle `left` (R262, R263): the frequency rises to `cap` at most, and falls in time
to rest at the angle; past it the vector turns back. DESIGN CHOICE (log entry 67). -/
def planStep (a cap ns : Nat) (v left : Int) : Int × Int :=
  let sg : Int := if left < 0 then -1 else 1
  let d : Int := left.natAbs
  let sp := v * sg
  let da : Int := a * 65536 * ns
  if sp < 0 then (sg * min 0 (sp + da), left - v * ns)
  else
    let up := if (cap : Int) ≤ sp then sp else min (cap : Int) (sp + da)
    let stops (x : Int) : Bool := decide (x * x / (131072 * a) + x * ns ≤ d)
    let nx := if stops up then up else if stops sp then sp else max (sp - da) (min da up)
    if d ≤ nx * ns then (0, 0) else (sg * nx, left - sg * nx * ns)

/-- 60 rpm in 10⁻⁹ of 1/65,536 rpm (R262, R263). -/
def slowest : Nat := 60 * 65536 * 10 ^ 9

/-- The angle a park has before it (R262): forward to `SPN_PARK.ANGLE`, with as many revolutions as the way to rest at DECEL needs. -/
def State.parkWay (s : State) (v : Int) : Int :=
  let disc := ((s.reg Reg.SPN_MANG).toNat + (s.reg Reg.SPN_OFS_LATCH).toNat) % 65536
  let fwd : Int := ((s.rd F.SPN_PARK_ANGLE + 65536 - disc) % 65536 : Nat) * angleUnit
  let rev : Int := 65536 * angleUnit
  let need := v * v / (131072 * max 1 (s.rd F.SPN_RAMP_DECEL) : Nat)
  if need ≤ fwd then fwd else fwd + (need - fwd + rev - 1) / rev * rev

/-- The driven vector by one sample (R257, R259, R262, R263): it speeds up at IFACC in IFSTART, slows down at DECEL in a stop, and follows
its plan in a park or a rotation, which ends at rest in HELD. -/
def State.vectorSample (s : State) (ns : Nat) : State :=
  let v := s.vector
  let decel := s.rd F.SPN_RAMP_DECEL
  if s.spnState = 3 then s.setVector (rampRef v ((s.reg Reg.SPN_HANDOFF).toNat * 65536 * 10 ^ 9) (s.rd F.SPN_IF_IFACC) 0 ns)
  else if s.spnState = 7 then
    if s.spn.drive ≤ 1 then s.setVector (rampRef v 0 decel decel ns)
    else
      let q := planStep (if s.spn.drive = 2 then decel else s.rd F.SPN_IF_IFACC) slowest ns v s.spn.left
      let s := (s.setVector q.1).modSpn (fun p => { p with left := q.2 })
      if q = (0, 0) then ((s.spnGo 8).modSpn (fun p => { p with drive := 0 })).spnEnd 0 else s
  else s

/-- What the q reference is to be, in 2⁻¹⁶ mA (R252, R260): group 4's output within IQMAX and, drawing power, within what PMAX permits;
in BRAKING −BRKI; with the bridge's vector driven or open, none. -/
def State.qWant (s : State) (qmax : Nat) : Int :=
  let m : Int := s.rd F.SPN_ILIM_IQMAX * 65536
  match s.spnState with
  | 4 | 5 => max (-m) (min (min m (qmax * 65536)) (s.int (Reg.SRV_S_U 0)))
  | 6 => if s.spn.zvBrake then 0 else max (-m) (-(s.rd F.SPN_BRAKE_BRKI * 65536))
  | _ => 0

/-- A PWM period (R257, R261): under the watch a negative q reference loses 1/16 of its value; after it, and after a handoff, the reference
is led back by 20 mA; periods of zero-vector braking are counted. DESIGN CHOICE (log entry 67). -/
def State.pwmPeriod (s : State) (qmax : Nat) : State :=
  let want := s.qWant qmax
  let q := s.spn.iq
  let s := if s.flag F.SPN_STAT_ZVB then s.bump Reg.SPN_ZV_CNT else s
  if s.flag F.SPN_STAT_WATCH && decide (want < 0) then
    let b := if q < 0 then max want q else want
    s.modSpn (fun p => { p with iq := b + (15 - b) / 16, soft := true })
  else if s.spn.soft && (s.spnLoops || s.spnState = 6) then
    let q' := toward q want (20 * 65536)
    s.modSpn (fun p => { p with iq := q', soft := decide (q' ≠ want) })
  else s.modSpn (fun p => { p with iq := want, soft := false })

/-- The PWM periods of 25 µs that end within a sample interval (R250). -/
def State.pwmSample (s : State) (qmax ns : Nat) : State :=
  let t := s.spn.pwm + ns
  forEach (List.range (t / 25000)) (fun _ s => s.pwmPeriod qmax) (s.modSpn (fun p => { p with pwm := t % 25000 }))

/-- BRAKING is entered without a command (R260): it goes on with steps 2 and 3 of R259, and a PARK in progress ends with 0x52.
DEDUCED (log entry 38). -/
def State.brakeOwn (s : State) : State :=
  let s := (s.spnGo 6).modSpn (fun p => { p with drive := 1 })
  if s.spn.cmd = 5 then s.spnEnd 0x52 else s

/-- The ramp and the target of group 4 in RUN and STOPPING (R258), where SPN's target is the one in force; the group leaving CLOSED is
braked (R260). -/
def State.loopSample (s : State) (ns : Nat) : State :=
  if s.spnLoops then
    let r := rampRef (s.int Reg.SPN_REF * 10 ^ 9 + s.spn.refFrac) (s.rd F.SPN_TARGET_RPM * 65536 * 10 ^ 9)
      (s.rd F.SPN_RAMP_ACCEL) (s.rd F.SPN_RAMP_DECEL) ns
    let s := (s.setInt Reg.SPN_REF (r / 10 ^ 9)).modSpn (fun p => { p with refFrac := (r % 10 ^ 9).toNat })
    let s := ((s.setInt (Reg.SRV_S_TGT 0) (r / 10 ^ 9)).setInt (Reg.SRV_S_NEXT 0) (r / 10 ^ 9))
    let closed := decide ((s.group 4).mode = 2)
    if !s.flag F.SRV_CTRL_EN || (!closed && (s.spn.closed || decide (s.rd (modeField 4) ≠ 2))) then s.brakeOwn
    else s.modSpn (fun p => { p with closed := closed })
  else s

/-- SPN's part of a servo sample: the speed estimate (R253), the ramp and the target of group 4 (R258), braking entered on its
own (R260), the latch of R262, DRIVEN at 240 rpm (R259), the driven vector, and the PWM periods that have passed. -/
def State.spnSample (s : State) (x : SampleIn) : State :=
  let s := (((s.spnSense x).loopSample x.interval).parkLatch).vectorSample x.interval
  let k := s.spnState
  let s := if (k = 5 ∨ (k = 6 ∧ s.spn.zvBrake = false)) ∧ s.spnRpm ≤ 240 then
      let v := s.int Reg.SPN_SPEED * 10 ^ 9
      ((s.spnGo 7).setVector v).modSpn (fun p => { p with drive := if p.drive = 2 then 2 else 1, left := s.parkWay v })
    else s
  s.pwmSample x.qmax x.interval

end Sys2Proof.Machine
end

