-- ==== Sys2Proof/Machine/Lsv.lean ====
section
/-! DEFINITION. The loop supervisors (R225 to R243): acquiring, layer changes, band jumps, Gazelle, losses; and their
commands. -/

namespace Sys2Proof.Machine

/-! ## State and sets -/

/-- A head's supervisor, and changing it. -/
def State.sup (s : State) (h : Head) : Lsv := s.lsv[h]
def State.modLsv (s : State) (h : Head) (f : Lsv → Lsv) : State := { s with lsv := s.lsv.set h (f s.lsv[h]) }

/-- Head group, corrector group and sled group of a head (R190). -/
def headGroup (h : Head) : Group := ⟨h.val, by omega⟩
def corrGroup (h : Head) : Group := ⟨h.val + 7, by omega⟩
def sledGroup (h : Head) : Group := ⟨h.val / 2 + 5, by omega⟩

/-- The other head of the sled. -/
def otherHead (h : Head) : Head := sledHead (headSled h) (h.val + 1)

/-- A head leaves FOLLOW (R230): captures end ABORTED, write gates close early, and no jump awaits its frame (R235). -/
def State.leaveFollow (s : State) (h : Head) : State :=
  if (s.sup h).st = 6 then ((s.headAbort h).gatesEarly h).modLsv h (fun l => { l with launch := false }) else s

/-- Go to a state of R229, in which samples are counted anew; `STATE` reads RECOVER while a recovery runs (R240). -/
def State.lsvGo (s : State) (h : Head) (k : Nat) : State :=
  let s := s.modLsv h (fun l => { l with st := k, smp := 0, kn := 0 })
  let rec_ := match (s.sup h).op with
    | .recover _ => decide (k ≠ 6 ∧ k ≠ 11)
    | _ => false
  (s.wr (F.LSV_H_STAT_STATE h) (if rec_ then 10 else k)).pmcRise (0x510 + h) (decide (s.rd (F.LSV_H_STAT_STATE h) = 6)) (!rec_ && decide (k = 6))

/-- Copy set F or set T from DRAM into the group's shadow memory (R227), reserved words left 0 (R219); rewriting clears poison (R209).
The reads carry the ID of SRV, as no row of R9 names the supervisor's. DESIGN CHOICE (log entry 65). -/
def State.loadSet (s : State) (h : Head) (t : Bool) : State :=
  let a := (s.reg (Reg.LSV_H_SETBASE h)).toNat * 16 + (if t then 0x300 else 0)
  let s := s.touchLines a 768 false 4
  let s := forEach (List.range 192) (fun w s =>
    s.setReg (Reg.SRV_G_MEM h w) (BitVec.ofNat 32 (beNat (s.dramBytes (a + 4 * w) 4)) &&& memMask (Reg.SRV_G_MEM h w))) s
  { s with srv := { s.srv with poison := s.srv.poison.filter (fun p => !(memBase h.val ≤ p && p < memBase h.val + 768)) } }

/-- Commit a head's set at the next instant (R212). -/
def State.commitSet (s : State) (h : Head) : State :=
  { s with srv := { s.srv with commit := s.srv.commit ||| BitVec.ofNat 11 (2 ^ h.val) } }

/-- The outputs of the last sample, held (R227). -/
def State.outputs (s : State) (h : Head) : List Int := (List.range 3).map (fun j => s.int (Reg.SRV_G_U h j))

/-- Drive coil `j` at output `u` while set F is in force (R227): TGT[j] := EOFS[j] − u. -/
def State.driveCoil (s : State) (h : Head) (j : Nat) (u : Int) : State :=
  s.setInt (Reg.SRV_G_TGT h j) (s.int (Reg.SRV_G_MEM h (16 + j)) - u)

/-- The lowest LBA of the running extent not yet ended that is planned on the head (R163, R328): of a write, blocks of the side's
layers on its lower-numbered head (log entry 17); of a read, blocks on its path. -/
def State.lowOnHead (s : State) (h : Head) : Option Nat :=
  if s.opcode = 2 then (if h.val < 2 then s.lowOpen (fun l => decide (l / 8 = headSide h)) else none) else s.lowOpen (s.onPath h)

/-- The running task writes or reads on the head (R163): an extent with a block left on its path, a READ_MGMT of a layer there, or a
SCAN_SPARE with a zone-layer left there. -/
def State.worksOn (s : State) (h : Head) : Bool :=
  s.taskRunning &&
  (if s.isExtent then (s.lowOnHead h).isSome
   else if s.opcode = 0x20 then s.onPath h ((s.tsk.desc.getD 2 0).toNat % 16)
   else decide (s.opcode = 0x31) && s.tsk.scans.any (fun zl => s.onPath h (zl / 20)))

/-! ## Ends -/

/-- A command ends: DONE, LOOP_DONE, its error class (R225). -/
def State.lsvDone (s : State) (h : Head) (cls : Nat) : State :=
  let s := s.modLsv h (fun l => { l with op := .none, inner := .none, ph := .none, launch := false, search := false })
  let s := ((s.put (F.LSV_H_STAT_BUSY h) false).put (F.LSV_H_STAT_DONE h) true).wr (F.LSV_H_STAT_ERRCLS h) cls
  let s := s.wr F.LSV_INT_STAT_DONE (s.rd F.LSV_INT_STAT_DONE ||| 2 ^ h.val)
  s.event (Ev.loopDone h)

/-- A supervisor ends FAILED (R229, R240): HOLD if focus is closed, else OFF; the running task ends with the class. -/
def State.lsvFailed (s : State) (h : Head) (cls : Nat) : State :=
  let foc := s.flag (F.LSV_H_STAT_FOC h)
  let s := s.writeMode (headGroup h) (if foc then 3 else 0)
  let s := (s.put (F.LSV_H_STAT_TRK h) false).modLsv h (fun l => { l with op := .none })
  let s := (s.lsvGo h 11).lsvDone h cls
  s.taskError cls (s.lowOnHead h)

/-- A channel a supervisor awaits has stalled, or refused its move: 0x25 ends a LAYER or ACQUIRE, 0x24 a SEEK with the head it
carries (R234, R237, R238). A recovery fails with the class of its loss, for a channel that is LOST takes no further move (R240, R271).
Where the command has ended before, the running task ends; a module without ownership ends the command alone (R242).
DEDUCED (log entry 23). -/
def State.lsvStalled (s : State) (h : Head) (cls : Nat) : State :=
  let o := otherHead h
  let fail (s : State) (h : Head) (cls : Nat) : State := if s.owned then s.lsvFailed h cls else s.lsvDone h cls
  let s := if cls = 0x24 ∧ (s.sup o).op = .carried then fail s o 0x24 else s
  match (s.sup h).op with
  | .none => if s.owned then s.taskError cls (s.lowOnHead h) else s
  | .recover c => fail s h c
  | _ => fail s h cls

/-- A supervisor has a channel MOVE to a position and awaits its end (R231, R233, R237). A channel that refuses under R271, or whose
bridge is off (R249), ends the command as a stall does. DESIGN CHOICE (log entry 67). -/
def State.supMove (s : State) (n : Stepper) (h : Head) (target : Int) : State :=
  match s.sldRefusal n 1 (s.flag (F.SLD_STAT_BUSY n)) with
  | some f => (s.put f true).lsvStalled h (stallClass n)
  | none =>
    let s := (s.setInt (Reg.SLD_TGT n) target).sldBegin n 1
    if s.bridges then s.modSld n (fun c => { c with owner := some h })
    else ((s.sldStall n).put (F.SLD_STAT_ENERG n) false).lsvStalled h (stallClass n)

/-- A command ends in FOLLOW. -/
def State.lsvFollow (s : State) (h : Head) : State := (s.lsvGo h 6).lsvDone h 0

/-! ## Stages -/

/-- SAMOVE: the corrector loop goes to HOLD, and SLD moves the corrector (R231, R233). -/
def State.samove (s : State) (h : Head) (target : Int) : State :=
  let s := s.modLsv h (fun l => { l with corr := s.rd (modeField (corrGroup h)) })
  ((s.writeMode (corrGroup h) 3).lsvGo h 1).supMove (corrector h) h target

/-- The corrector position for a layer (R244). -/
def State.saPos (s : State) (h : Head) (k : Nat) : Int := signed 16 (s.rd (F.LSV_SA_POS_POS h (k % 8)))

/-- FSEARCH begins (R231 stage 2): set F into the shadow, the coils at 0, the ramp from where it stands down to −LIMIT. -/
def State.fsearch (s : State) (h : Head) : State :=
  let s := s.loadSet h false
  let s := (s.setInt (Reg.SRV_G_UOPEN h 1) 0).setInt (Reg.SRV_G_UOPEN h 2) 0
  let r := s.int (Reg.SRV_G_UOPEN h 0) * 100000 / 65536
  let s := s.modLsv h (fun l => { l with ramp := r, rising := false, curves := 0, above := false, lastE := 0 })
  let s := (s.put (F.LSV_H_STAT_FOC h) false).put (F.LSV_H_STAT_TRK h) false
  (s.writeMode (headGroup h) 1).lsvGo h 2

/-- FSETTLE begins (R231 stage 3): focus closed on set F, tracking and tilt outputs 0. -/
def State.fsettle (s : State) (h : Head) : State :=
  let s := (s.driveCoil h 1 0).driveCoil h 2 0
  ((s.put (F.LSV_H_STAT_FOC h) true).modLsv h (fun l => { l with acc := 0, n := 0 })).lsvGo h 3

/-- TPULL begins (R231 stage 4): the tracking coil held at 0. -/
def State.tpull (s : State) (h : Head) : State :=
  ((s.driveCoil h 1 0).modLsv h (fun l => { l with cands := [] })).lsvGo h 4

/-- A confirmed head that was acquiring or changing layer writes its correction mode. -/
def State.confirmMode (s : State) (h : Head) : State :=
  match (s.sup h).inner with
  | .acquire => s.writeMode (corrGroup h) (s.sup h).corr
  | .layer => s.writeMode (corrGroup h) (s.sup h).corr
  | _ => s

/-- CONFIRM begins (R231 stage 5): set T committed; the corrector loop returns to its mode when the corrector was moved. -/
def State.confirm (s : State) (h : Head) : State :=
  let s := (s.loadSet h true).commitSet h
  ((s.put (F.LSV_H_STAT_TRK h) true).lsvGo h 5).confirmMode h

/-- Stage 1 of ACQUIRE for the layer aimed at. -/
def State.acquireStage (s : State) (h : Head) (layer : Nat) : State :=
  let s := s.modLsv h (fun l => { l with inner := .acquire, aim := layer, tries := 0, search := false })
  s.samove h (s.saPos h layer)

/-- One single jump from the present layer toward the target (R233 step 1). DEDUCED (log entry 23). -/
def State.singleJump (s : State) (h : Head) : State :=
  let a := s.rd (F.ANG_HPOS_LAYER h)
  let a' := if a < (s.sup h).layer then a + 1 else a - 1
  let p := s.saPos h a
  let q := s.saPos h a'
  let mid := if q ≥ p then (p + q + 1) / 2 else (p + q) / 2
  let s := s.modLsv h (fun l => { l with inner := .layer, aim := a', ph := .toMid, search := false })
  s.samove h mid

/-- A LAYER sequence toward the target layer: nothing to do on it (R233). -/
def State.layerRun (s : State) (h : Head) : State :=
  if s.rd (F.ANG_HPOS_LAYER h) = (s.sup h).layer then s.lsvFollow h else s.singleJump h

/-- LJUMP (R233 step 2): the group OPEN with its outputs held, and the kick. -/
def State.ljump (s : State) (h : Head) : State :=
  let u := s.outputs h
  let amp : Int := s.rd (F.LSV_H_KICK_KAMP h) * 32768
  let deeper := decide (s.rd (F.ANG_HPOS_LAYER h) < (s.sup h).aim)
  let s := s.loadSet h false
  let s := forEach (List.range 3) (fun j s => s.setInt (Reg.SRV_G_UOPEN h j) (u.getD j 0)) s
  let s := s.setInt (Reg.SRV_G_UOPEN h 0) (u.getD 0 0 + if deeper then amp else -amp)
  let s := s.modLsv h (fun l => { l with ph := .kick, held := u, fell := false, above := true, lastE := 0, kn := 0 })
  let s := (s.put (F.LSV_H_STAT_FOC h) false).put (F.LSV_H_STAT_TRK h) false
  ((s.bump (Reg.LSV_H_LC_CNT h)).writeMode (headGroup h) 1).lsvGo h 7

/-- The launch of a band jump (R235 step 1): set F, the tracking coil at the held value ± TAMP, tilt held. -/
def State.jumpLaunch (s : State) (h : Head) : State :=
  let s := s.leaveFollow h
  let u := s.outputs h
  let d := (s.sup h).delta
  let amp : Int := s.rd (F.LSV_H_TKICK_TAMP h) * 16384
  let s := (s.loadSet h false).commitSet h
  let s := (s.driveCoil h 1 (u.getD 1 0 + if d > 0 then amp else -amp)).driveCoil h 2 (u.getD 2 0)
  let b := s.headBand h
  let s := s.modLsv h (fun l => { l with ph := .kick, held := u, cross := 0, launch := false, origin := b })
  ((s.put (F.LSV_H_STAT_TRK h) false).bump (Reg.LSV_H_JMP_CNT h)).lsvGo h 8

/-- A JUMP of `d` bands (R235): launched at once, or at its frame. -/
def State.jumpRun (s : State) (h : Head) (d : Int) : State :=
  let s := s.modLsv h (fun l => { l with inner := .jump, delta := d })
  if s.flag (F.LSV_H_JANG_NOW h) then s.jumpLaunch h else s.modLsv h (fun l => { l with launch := true })

/-- The largest band jump of a head, and whether a difference is a jump (R226, R237). -/
def State.jmax (s : State) (h : Head) : Nat := s.rd (F.LSV_H_TKICK_JMAX h)
def State.isJump (s : State) (h : Head) (d : Int) : Bool := d ≠ 0 && decide (d.natAbs ≤ s.jmax h)

/-- A head goes to SEEK (R237 step 1): set F, the tracking coil at 0, tilt held. -/
def State.seekHead (s : State) (h : Head) (op : LsvOp) : State :=
  let s := s.leaveFollow h
  let u := s.outputs h
  let s := (s.loadSet h false).commitSet h
  let s := (s.driveCoil h 1 0).driveCoil h 2 (u.getD 2 0)
  let s := s.modLsv h (fun l => { l with inner := op, held := u, op := if l.op = .none || op = .carried then op else l.op })
  (s.put (F.LSV_H_STAT_TRK h) false).lsvGo h 9

/-- One sled move of a Gazelle by `d` bands (R237 steps 1 and 2); the other head of the sled is carried (R238).
DEDUCED (log entry 23). -/
def State.gazelle (s : State) (h : Head) (d : Int) : State :=
  let sl := headSled h
  let o := otherHead h
  let s := s.seekHead h .seek
  let carried := decide ((s.sup o).st = 6) || (s.sup o).op = .carried
  let s := if carried then
      ((s.seekHead o .carried).modLsv o (fun l => { l with aim := s.rd (F.ANG_HPOS_LAYER o) })).put (F.LSV_H_STAT_BUSY o) true
    else s
  let s := s.writeMode (sledGroup h) 0
  let s := s.modLsv h (fun l => { l with moves := l.moves + 1 })
  let s := (s.bump (Reg.LSV_S_SEEK_CNT sl)).setReg (Reg.LSV_S_STAT sl) 0
  let spb : Int := s.rd (F.LSV_S_SEEKCFG_SPB sl)
  let steps := (d * spb + 128) / 256
  s.supMove (sledChan sl) h (s.int (Reg.SLD_POS sl) + steps)

/-- A SEEK toward the target (R237): done, a JUMP, or a Gazelle. -/
def State.seekRun (s : State) (h : Head) : State :=
  let l := s.sup h
  let d := l.band - s.headBand h
  let here := decide (s.rd (F.ANG_HPOS_LAYER h) = l.layer)
  if here && d = 0 then s.lsvFollow h
  else if here && s.isJump h d then s.jumpRun h d
  else s.gazelle h d

/-! ## Failures -/

/-- An ACQUIRE attempt failed with the class given (R231, R240): the next attempt, the next recovery, or the end. -/
def State.acquireFailed (s : State) (h : Head) (cls : Nat) : State :=
  let s := s.modLsv h (fun l => { l with tries := l.tries + 1 })
  let l := s.sup h
  if l.tries < s.rd (F.LSV_H_FSRCH_TRIES h) then s.fsearch h
  else match l.op with
    | .recover c =>
      if l.left > 1 then (s.modLsv h (fun l => { l with left := l.left - 1 })).acquireStage h l.layer
      else s.lsvFailed h c
    | _ => s.lsvFailed h cls

/-- A command within RECOVER failed: the next recovery, or the end with the loss's class; elsewhere the end (R240). -/
def State.innerFailed (s : State) (h : Head) (cls : Nat) : State :=
  let l := s.sup h
  match l.op with
  | .recover c =>
    if l.left > 1 then (s.modLsv h (fun l => { l with left := l.left - 1 })).acquireStage h l.layer else s.lsvFailed h c
  | _ => s.lsvFailed h cls

/-- A single layer jump failed (R233, R234): one search for its layer, then the end with 0x22. -/
def State.singleJumpFailed (s : State) (h : Head) : State :=
  if (s.sup h).search then s.innerFailed h 0x22
  else (s.modLsv h (fun l => { l with search := true, ph := .none })).fsearch h

/-- A sled move did not bring the head to its band (R237 step 4). -/
def State.moveFailed (s : State) (h : Head) : State :=
  let l := s.sup h
  if l.moves < s.rd (F.LSV_S_SEEKCFG_SEEKTRY (headSled h)) then s.gazelle h (l.band - s.headBand h)
  else s.innerFailed h 0x21

/-- A stage failed or was lost: `foc` says focus. The rule of the command in progress (R231 to R238, R240). -/
def State.stageFailed (s : State) (h : Head) (foc : Bool) : State :=
  let l := s.sup h
  match l.inner with
  | .acquire => s.acquireFailed h (if l.st = 4 then 0x21 else 0x20)
  | .layer => s.singleJumpFailed h
  | .jump => s.innerFailed h 0x21
  | .seek => if l.st = 4 ∨ l.st = 5 then s.moveFailed h else s.innerFailed h (if foc then 0x20 else 0x21)
  | .carried => s.lsvFailed h (if foc && decide (l.st = 9) then 0x20 else 0x21)
  | _ => s

/-! ## The confirmed word in CONFIRM -/

/-- After ACQUIRE has reached FOLLOW (R231): the end, a JUMP, or a SEEK. -/
def State.acquireLanded (s : State) (h : Head) : State :=
  let d := (s.sup h).band - s.headBand h
  if d = 0 then s.lsvFollow h
  else if s.isJump h d then (s.lsvGo h 6).jumpRun h d
  else if s.rd (F.LSV_S_SEEKCFG_SPB (headSled h)) = 0 then s.innerFailed h 0x21
  else (s.modLsv h (fun l => { l with moves := 0 })).gazelle h d

/-- After the SEEK's band is reached: a LAYER sequence when another layer is wanted (R237 step 5). -/
def State.seekLanded (s : State) (h : Head) : State :=
  if s.rd (F.ANG_HPOS_LAYER h) = (s.sup h).layer then s.lsvFollow h else s.singleJump h

/-- A jump landed where it should: what stands around it goes on. -/
def State.jumpLanded (s : State) (h : Head) : State :=
  match (s.sup h).op with
  | .seek => s.seekLanded h
  | _ => s.lsvFollow h

/-- ANG confirms a word of a head in CONFIRM; `HPOS` holds it by now (R231, R233, R235, R237, R238). -/
def State.lsvConfirmed (s : State) (h : Head) (layer : Nat) (band : Int) : State :=
  let l := s.sup h
  if l.st ≠ 5 then s
  else match l.inner with
  | .acquire => if layer = l.aim then s.acquireLanded h else s.acquireFailed h 0x20
  | .layer =>
    if layer = l.aim then (if l.aim = l.layer then s.lsvFollow h else s.singleJump h)
    else s.singleJumpFailed h
  | .jump => if layer = l.aim ∧ band = l.origin + l.delta then s.jumpLanded h else s.innerFailed h 0x21
  | .seek =>
    let d := l.band - band
    if layer ≠ l.aim then s.moveFailed h
    else if d = 0 then s.seekLanded h
    else if s.isJump h d then (s.lsvGo h 6).jumpRun h d
    else s.moveFailed h
  | .carried => if layer = l.aim then s.lsvFollow h else s.lsvFailed h 0x21
  | _ => s

/-! ## Losses in FOLLOW (R239, R240) -/

/-- Focus or track is lost. In FOLLOW the head recovers to the layer and band it was expected on, or fails; elsewhere the rule of the
command in progress applies. A module without ownership judges and counts the loss, and does no more (R242). -/
def State.lost (s : State) (h : Head) (foc : Bool) (k : Nat) (b : Int) : State :=
  let s := (s.bump (if foc then Reg.LSV_H_FL_CNT h else Reg.LSV_H_TL_CNT h)).modLsv h (fun l => { l with low := 0, clip := 0 })
  if !s.owned then s.modLsv h (fun l => { l with slips := [] })
  else if (s.sup h).st = 6 then
    let s := s.leaveFollow h
    let n := s.rd (F.LSV_H_LOSS_FRETRY h)
    let cls := if foc then 0x20 else 0x21
    let s := if foc then s.put (F.LSV_H_STAT_FOC h) false else s
    if n = 0 then s.lsvFailed h cls
    else
      let s := s.modLsv h (fun l => { l with op := .recover cls, layer := k, band := b, left := n, slips := [] })
      ((s.bump (Reg.LSV_H_RCV_CNT h)).put (F.LSV_H_STAT_BUSY h) true).acquireStage h k
  else
    let s := if foc then s.put (F.LSV_H_STAT_FOC h) false else s
    s.stageFailed h foc

/-- The head is lost on the layer and band that `ANG_HPOS` has it on. -/
def State.lostHere (s : State) (h : Head) (foc : Bool) : State := s.lost h foc (s.rd (F.ANG_HPOS_LAYER h)) (s.headBand h)

/-- A slip in FOLLOW (R239): counted, and SLIPN of them within 16 revolutions lose the track, expected on `k` and `b`. -/
def State.slip (s : State) (h : Head) (k : Nat) (b : Int) : State :=
  if (s.sup h).st = 6 then
    let s := (s.bump (Reg.LSV_H_SLIP_CNT h)).modLsv h (fun l => { l with slips := 0 :: l.slips })
    if (s.sup h).slips.length ≥ s.rd (F.LSV_H_LOSS_SLIPN h) then s.lost h false k b else s
  else s

/-- The head's frame 0: slips age by a revolution, and the band from which a jump in the air is counted advances as the expected band
does (R59, R235). -/
def State.lsvFrameZero (s : State) (h : Head) : State :=
  s.modLsv h (fun l => { l with
    slips := (l.slips.map (· + 1)).filter (· < 16)
    origin := if l.st = 8 ∨ (l.st = 5 ∧ l.inner = .jump) then l.origin + 1 else l.origin })

/-- An S channel fault (R241): the group OFF, FAILED with 0x42, the data channels at zero current. -/
def State.lsvChannelFault (s : State) (h : Head) : State :=
  if s.owned then
    let s := s.leaveFollow h
    let s := (s.put (F.LSV_H_STAT_FOC h) false).lsvFailed h 0x42
    (List.range 4).foldl (fun s d => s.setRlvl (beamChan (headBeam h d)) 15) s
  else s

/-! ## Commands -/

/-- Why a command is refused: the flag of `LSV_STAT` (R226, R242). -/
def State.lsvRefusal (s : State) (h : Head) (op : Nat) (delta : Int) : Option RegField :=
  let st := s.rd (F.LSV_H_STAT_STATE h)
  let layer := s.rd (F.LSV_H_TGT_LAYER h)
  let band := s.rd (F.LSV_H_TGT_BAND h)
  let rpm := s.int Reg.SPN_SPEED
  let named := op = 1 ∨ op = 2 ∨ op = 4
  let d : Int := band - s.headBand h
  let sameLayer := layer = s.rd (F.ANG_HPOS_LAYER h)
  if !s.owned then some F.LSV_STAT_STATEERR
  else if op ≥ 7 then some F.LSV_STAT_CFGERR
  else if s.flag (F.LSV_H_STAT_BUSY h) ∧ op ≠ 5 ∧ op ≠ 6 then some F.LSV_STAT_BUSYERR
  else if st = 11 ∧ op ≠ 5 ∧ s.rd (F.LSV_H_STAT_ERRCLS h) = 0x42 ∧ s.lddFault (sChan h) = true then some F.LSV_STAT_STATEERR
  else if named ∧ layer / 8 ≠ headSide h then some F.LSV_STAT_CFGERR
  else if (op = 1 ∨ op = 4) ∧ band ≥ 30000 then some F.LSV_STAT_CFGERR
  else if op = 3 ∧ (delta = 0 ∨ delta.natAbs > s.jmax h) then some F.LSV_STAT_CFGERR
  else if (op = 1 ∨ op = 4) ∧ (rpm < 600 * 65536 ∨ rpm > 7560 * 65536 ∨ s.chanActive (sChan h) = false) then
    some F.LSV_STAT_STATEERR
  else if (op = 2 ∨ op = 3 ∨ op = 4) ∧ st ≠ 6 then some F.LSV_STAT_STATEERR
  else if op = 4 ∧ ¬(sameLayer ∧ (d = 0 ∨ s.isJump h d = true)) ∧ s.rd (F.LSV_S_SEEKCFG_SPB (headSled h)) = 0 then
    some F.LSV_STAT_CFGERR
  else none

/-- Run a command unless it is refused. -/
def State.lsvCommand (s : State) (h : Head) (op : Nat) (delta : Int) (run : State → State) : State :=
  match s.lsvRefusal h op delta with
  | some f => s.put f true
  | none => run s

/-- A command with a target begins (R225). -/
def State.lsvBegin (s : State) (h : Head) (op : LsvOp) : State :=
  let layer := s.rd (F.LSV_H_TGT_LAYER h)
  let band : Int := s.rd (F.LSV_H_TGT_BAND h)
  let here := s.rd (F.ANG_HPOS_LAYER h)
  let s := s.modLsv h (fun l => { l with op := op, inner := op, aim := here, tries := 0, moves := 0, search := false
                                         layer := if op = .jump then here else layer, band := band })
  s.put (F.LSV_H_STAT_BUSY h) true

/-- RELEASE (R225, R243): the group OFF, the corrector loop HOLD, the sled loop OFF. -/
def State.releaseRun (s : State) (h : Head) : State :=
  let s := s.leaveFollow h
  let s := ((s.writeMode (headGroup h) 0).writeMode (corrGroup h) 3).writeMode (sledGroup h) 0
  let s := (s.put (F.LSV_H_STAT_FOC h) false).put (F.LSV_H_STAT_TRK h) false
  let s := s.modLsv h (fun l => { l with op := .none })
  (s.lsvGo h 0).lsvDone h 0

/-- STOP (R225, R243): the command ends where it stood; a move of SLD ends under SLD's own stop rule (R274), at a place that is free.
DESIGN CHOICE (log entry 61). -/
def State.lsvStopRun (s : State) (h : Head) : State :=
  let stopMove (s : State) (n : Stepper) : State :=
    if s.sld[n].owner = some h ∧ s.flag (F.SLD_STAT_BUSY n) = true then
      let (rest, s) := s.draw
      (s.modSld n (fun c => { c with owner := none })).sldRest n rest
    else s
  stopMove (stopMove (s.lsvDone h 0) (corrector h)) (sledChan (headSled h))

/-- ACQUIRE, LAYER, JUMP, SEEK, RELEASE, STOP: a write of `LSV_H_CMD` with the OP (R225). -/
def execAcquire (h : Head) (s : State) : Host.Outcome State Fault Refusal :=
  .next (s.lsvCommand h 1 0 (fun s => ((s.leaveFollow h).lsvBegin h .acquire).acquireStage h (s.rd (F.LSV_H_TGT_LAYER h))))
def execLayer (h : Head) (s : State) : Host.Outcome State Fault Refusal :=
  .next (s.lsvCommand h 2 0 (fun s => (if s.rd (F.LSV_H_TGT_LAYER h) = s.rd (F.ANG_HPOS_LAYER h) then s else s.leaveFollow h)
    |>.lsvBegin h .layer |>.layerRun h))
def execJump (h : Head) (delta : BitVec 16) (s : State) : Host.Outcome State Fault Refusal :=
  .next (s.lsvCommand h 3 delta.toInt (fun s => (s.lsvBegin h .jump).jumpRun h delta.toInt))
def execSeek (h : Head) (s : State) : Host.Outcome State Fault Refusal :=
  .next (s.lsvCommand h 4 0 (fun s => (s.lsvBegin h .seek).seekRun h))
def execRelease (h : Head) (s : State) : Host.Outcome State Fault Refusal := .next (s.lsvCommand h 5 0 (·.releaseRun h))
def execLsvStop (h : Head) (s : State) : Host.Outcome State Fault Refusal := .next (s.lsvCommand h 6 0 (·.lsvStopRun h))

/-- A write of `LSV_H_CMD` (R225, R226, R245). -/
def State.lsvCmdWrite (s : State) (h : Head) (v : Word) : State :=
  let d := signed 16 (v.toNat / 256)
  match v.toNat / 2 ^ 28 with
  | 0 => s
  | 1 => s.lsvCommand h 1 0 (fun s => ((s.leaveFollow h).lsvBegin h .acquire).acquireStage h (s.rd (F.LSV_H_TGT_LAYER h)))
  | 2 => s.lsvCommand h 2 0 (fun s =>
      (if s.rd (F.LSV_H_TGT_LAYER h) = s.rd (F.ANG_HPOS_LAYER h) then s else s.leaveFollow h) |>.lsvBegin h .layer |>.layerRun h)
  | 3 => s.lsvCommand h 3 d (fun s => (s.lsvBegin h .jump).jumpRun h d)
  | 4 => s.lsvCommand h 4 0 (fun s => (s.lsvBegin h .seek).seekRun h)
  | 5 => s.lsvCommand h 5 0 (·.releaseRun h)
  | 6 => s.lsvCommand h 6 0 (·.lsvStopRun h)
  | n => s.lsvCommand h n 0 id

/-! ## What time brings -/

/-- JUMP_LAUNCH: the head reaches the frame of a jump that awaits it (R235). -/
def execJumpLaunch (h : Head) (frame : Fin 8192) (s : State) : Host.Outcome State Fault Refusal :=
  if s.owned = true ∧ (s.sup h).st = 6 ∧ (s.sup h).launch = true ∧ frame.val = s.rd (F.LSV_H_JANG_FRAME h) then .next (s.jumpLaunch h) else .next s

/-- KICK_END: the focus kick or brake has lasted KN or BN samples (R233): the coil returns to the held value. -/
def execKickEnd (h : Head) (s : State) : Host.Outcome State Fault Refusal :=
  let l := s.sup h
  if s.owned = true ∧ l.st = 7 ∧ ((l.ph = .kick ∧ s.rd (F.LSV_H_KICK_KN h) ≤ l.kn) ∨ (l.ph = .brake ∧ s.rd (F.LSV_H_KICK_BN h) ≤ l.kn)) then
    let s := s.setInt (Reg.SRV_G_UOPEN h 0) (l.held.getD 0 0)
    .next (s.modLsv h (fun l => { l with ph := if l.ph = .kick then .wait else .land }))
  else .next s

/-- TRACKING_KICK_END: the tracking kick or brake has lasted TN or TBN samples (R235): the coil is held. -/
def execTrackingKickEnd (h : Head) (s : State) : Host.Outcome State Fault Refusal :=
  let l := s.sup h
  if s.owned = true ∧ l.st = 8 ∧ ((l.ph = .kick ∧ s.rd (F.LSV_H_TKICK_TN h) ≤ l.kn) ∨ (l.ph = .brake ∧ s.rd (F.LSV_H_TKICK_TBN h) ≤ l.kn)) then
    .next ((s.driveCoil h 1 (l.held.getD 1 0)).modLsv h (fun l => { l with ph := if l.ph = .kick then .wait else .land }))
  else .next s

/-- FSETTLE_END: the average of the sum over 1,024 samples is `LSV_H_SUMREF` (R231 stage 3). -/
def execFsettleEnd (h : Head) (s : State) : Host.Outcome State Fault Refusal :=
  let l := s.sup h
  if s.owned = true ∧ l.st = 3 ∧ l.n = 1024 ∧ l.op ≠ .none then .next ((s.setInt (Reg.LSV_H_SUMREF h) (l.acc / 1024)).tpull h) else .next s

/-- TPULL_TIMEOUT: no pull-in within 16,384 samples (R232). -/
def execTpullTimeout (h : Head) (s : State) : Host.Outcome State Fault Refusal :=
  if s.owned = true ∧ (s.sup h).st = 4 ∧ 16384 ≤ (s.sup h).smp ∧ (s.sup h).op ≠ .none then .next (s.stageFailed h false) else .next s

/-- SINGLE_JUMP_TIMEOUT: focus not closed within TO × 64 samples of the kick's start (R233). -/
def execSingleJumpTimeout (h : Head) (s : State) : Host.Outcome State Fault Refusal :=
  if s.owned = true ∧ (s.sup h).st = 7 ∧ 64 * s.rd (F.LSV_H_KICK_TO h) ≤ (s.sup h).smp ∧ (s.sup h).op ≠ .none then .next (s.singleJumpFailed h)
  else .next s

/-- The sled loop returns to CLOSED, on the head that `LSV_S_LEAD` names (R237 step 3): its INSEL selects that head's tracking
output, committed with the mode. -/
def State.sledClose (s : State) (sl : Sled) : State :=
  let lead := sledHead sl (s.rd (F.LSV_S_LEAD_LEAD sl))
  let a := Reg.SRV_S_MEM 1 (16 * sl.val)
  let s := s.setReg a ((s.reg a &&& 0xFFFFFF00) ||| BitVec.ofNat 32 (0x14 + lead.val))
  let g : Group := ⟨sl.val + 5, by omega⟩
  ({ s with srv := { s.srv with commit := s.srv.commit ||| BitVec.ofNat 11 (2 ^ g.val) } }).writeMode g 2

/-- The head is in SEEK for a sled move: its own, which it still commands, or one that carries it. -/
def State.seeks (s : State) (h : Head) : Bool :=
  let l := s.sup h
  decide (l.st = 9) && decide (l.op ≠ .none) && (decide (l.inner = .seek) || decide (l.op = .carried))

/-- SEEK_SETTLE_END: the wait of SETTLE × 64 samples after a sled move ends, and the heads of the sled run TPULL (R237 step 3). A carried
head whose commander has failed or been stopped goes on alone (R238, R243). -/
def execSeekSettleEnd (h : Head) (s : State) : Host.Outcome State Fault Refusal :=
  let o := otherHead h
  if s.owned = true ∧ s.seeks h = true ∧ s.flag (F.SLD_STAT_BUSY (headSled h)) = false ∧
      64 * s.rd (F.LSV_S_SEEKCFG_SETTLE (headSled h)) ≤ (s.sup h).smp then
    let s := (s.tpull h).sledClose (headSled h)
    .next (if s.seeks o then s.tpull o else s)
  else .next s

/-- The sum has stayed below SUMLOSS for FLN samples (R239). -/
def State.focusGone (s : State) (h : Head) : Bool :=
  s.flag (F.LSV_H_STAT_FOC h) && decide (s.rd (F.LSV_H_LOSS_FLN h) ≤ (s.sup h).low)

/-- FOCUS_LOST and TRACK_LOST: the loss is declared after FLN samples with the sum below SUMLOSS, or TLN × 16 with the tracking output
clipped (R239, R240); with both in one sample focus is lost (R243). -/
def execFocusLost (h : Head) (s : State) : Host.Outcome State Fault Refusal :=
  if s.focusGone h = true then .next (s.lostHere h true) else .next s
def execTrackLost (h : Head) (s : State) : Host.Outcome State Fault Refusal :=
  if s.flag (F.LSV_H_STAT_TRK h) = true ∧ 16 * s.rd (F.LSV_H_LOSS_TLN h) ≤ (s.sup h).clip then .next (s.lostHere h (s.focusGone h))
  else .next s

/-! ## SLD's reports -/

/-- A move a supervisor awaits has ended (R231, R233, R237). -/
def State.lsvMoveDone (s : State) (h : Head) : State :=
  let l := s.sup h
  if s.owned && decide (l.op ≠ .none) && decide (l.st = 1) then
    match l.inner, l.ph with
    | .acquire, _ => s.fsearch h
    | .layer, .toMid => s.ljump h
    | .layer, .toEnd => s.fsettle h
    | _, _ => s
  else s

/-! ## The sample -/

/-- The ramp of FSEARCH by one sample, and S-curve N's zero crossing (R231 stage 2). -/
def State.searchSample (s : State) (h : Head) (sum e0 : Int) : State :=
  let l := s.sup h
  let rate : Int := s.rd (F.LSV_H_FSRCH_RATE h)
  let lim : Int := s.rd (F.LSV_H_FSRCH_LIMIT h) * 50000
  let above := decide (sum ≥ (s.rd (F.LSV_H_FSRCH_SUMACQ h) : Int) * 2 ^ 23)
  let curves := if l.rising && above && !l.above then l.curves + 1 else l.curves
  let want := l.aim % 8 + 1 + s.rd (F.LSV_H_FSRCH_SURF h)
  let zero := decide ((l.lastE < 0 ∧ 0 ≤ e0) ∨ (0 < l.lastE ∧ e0 ≤ 0))
  let s := s.modLsv h (fun l => { l with curves := curves, above := above, lastE := e0 })
  if l.rising && above && decide (curves = want) && zero then
    ((s.writeMode (headGroup h) 2).commitSet h).fsettle h
  else if l.rising && decide (l.ramp ≥ lim) then s.stageFailed h true
  else
    let down := !l.rising && decide (l.ramp > -lim)
    let r := if down then max (-lim) (l.ramp - rate) else min lim (l.ramp + rate)
    (s.setInt (Reg.SRV_G_UOPEN h 0) (r * 65536 / 100000)).modLsv h (fun l => { l with ramp := r, rising := !down })

/-- A layer jump by one sample (R233 step 2): the point of the opposite kick, then, once it has lasted BN samples, the landing. -/
def State.ljumpSample (s : State) (h : Head) (sum e0 : Int) : State :=
  let l := s.sup h
  let above := decide (sum ≥ (s.rd (F.LSV_H_FSRCH_SUMACQ h) : Int) * 2 ^ 23)
  let fell := l.fell || !above
  let peak := above && fell && l.above && decide (e0.natAbs < l.lastE.natAbs)
  let zero := decide ((l.lastE < 0 ∧ 0 ≤ e0) ∨ (0 < l.lastE ∧ e0 ≤ 0))
  let s := s.modLsv h (fun l => { l with above := above, fell := fell, lastE := e0 })
  if l.ph = .wait ∧ peak = true then
    let amp : Int := s.rd (F.LSV_H_KICK_KAMP h) * 32768
    let deeper := decide (s.rd (F.ANG_HPOS_LAYER h) < l.aim)
    (s.setInt (Reg.SRV_G_UOPEN h 0) (l.held.getD 0 0 + if deeper then -amp else amp)).modLsv h (fun l => { l with ph := .brake, kn := 0 })
  else if l.ph = .land ∧ zero = true then
    let s := ((s.writeMode (headGroup h) 2).commitSet h).put (F.LSV_H_STAT_FOC h) true
    let s := (s.driveCoil h 1 (l.held.getD 1 0)).driveCoil h 2 (l.held.getD 2 0)
    let s := (s.modLsv h (fun l => { l with ph := .toEnd })).lsvGo h 1
    s.supMove (corrector h) h (s.saPos h l.aim)
  else s

/-- A band jump by one sample (R235 steps 2 to 4): the crossings counted, the opposite kick, set T. -/
def State.bjumpSample (s : State) (h : Head) (crossings : Nat) : State :=
  let l := s.sup h
  let n := l.cross + crossings
  let s := s.modLsv h (fun l => { l with cross := n })
  if n ≥ 2 * l.delta.natAbs then (s.modLsv h (fun l => { l with ph := .none })).confirm h
  else if n ≥ 2 * l.delta.natAbs - 1 ∧ (l.ph = .kick ∨ l.ph = .wait) then
    let amp : Int := s.rd (F.LSV_H_TKICK_TAMP h) * 16384
    (s.driveCoil h 1 (l.held.getD 1 0 + if l.delta > 0 then -amp else amp)).modLsv h (fun l => { l with ph := .brake, kn := 0 })
  else s

/-- TPULL by one sample (R232): pull-in at a band-centre crossing after which fewer than 2 crossings fall in 32 samples; `centre` holds
the crossings that follow each band-centre crossing of the sample. -/
def State.tpullSample (s : State) (h : Head) (crossings : Nat) (centre : List Nat) : State :=
  let old := ((s.sup h).cands.map (fun p => (p.1 + 1, p.2 + crossings))).filter (fun p => p.2 < 2)
  if old.any (fun p => p.1 ≥ 32) then (s.modLsv h (fun l => { l with cands := [] })).confirm h
  else s.modLsv h (fun l => { l with cands := old ++ (centre.filter (· < 2)).map (fun n => (0, n)) })

/-- A supervisor's judgement of a sample (R239, R242): samples in a row below the loss level, and with the tracking output clipped; and
the samples of the stage, in SEEK since the sled came to rest, and of the kick in progress. -/
def State.lsvJudge (s : State) (h : Head) (sum : Int) : State :=
  let dark := s.flag (F.LSV_H_STAT_FOC h) && decide (sum * 256 < (s.rd (F.LSV_H_LOSS_SUMLOSS h) : Int) * s.int (Reg.LSV_H_SUMREF h))
  let clipped := (s.rd (F.SRV_G_STAT_USAT h)).testBit 1
  s.modLsv h (fun l => { l with
    smp := if l.st = 9 ∧ s.flag (F.SLD_STAT_BUSY (headSled h)) = true then 0 else l.smp + 1, kn := l.kn + 1, low := if dark then l.low + 1 else 0, clip := if clipped then l.clip + 1 else 0 })

/-- A supervisor's part of a servo sample. Without ownership it launches nothing (R242), and after a STOP the state stays as it stood
(R225). -/
def State.lsvSample (s : State) (y : Quads) (h : Head) : State :=
  let sum := (quadVec (y.codes.getD h.val [])).getD 4 0
  let s := s.lsvJudge h sum
  let l := s.sup h
  if !s.owned || decide (l.op = .none) then s
  else
    let e0 := s.int (Reg.SRV_G_E h 0)
    let crossings := y.cross.getD h.val 0
    match l.st with
    | 2 => s.searchSample h sum e0
    | 3 => if l.n < 1024 then s.modLsv h (fun l => { l with acc := l.acc + sum, n := l.n + 1 }) else s
    | 4 => s.tpullSample h crossings (y.centre.getD h.val [])
    | 7 => s.ljumpSample h sum e0
    | 8 => s.bjumpSample h crossings
    | 9 => if l.inner = .seek then s.bumpBy (Reg.LSV_S_STAT (headSled h)) crossings else s
    | _ => s

end Sys2Proof.Machine
end

