-- ==== Sys2Proof/Machine/Drive.lean ====
section
/-! DEFINITION. Commands of SLD (R271 to R277), the motor and laser stage enable (R248, R249, R524), and laser channel faults
(R163, R241): what reaches a loop supervisor from below. -/

namespace Sys2Proof.Machine

/-! ## Reports -/

/-- The heads a channel's fault stops: a sled's two, or a corrector's one (R268, R328). -/
def stepperHeads (n : Stepper) : List Head :=
  (List.finRange 4).filter (fun h => decide ((headSled h).val = n.val) || decide (n.val = h.val + 2))

/-- A channel's command has ended: report to the supervisor that awaits it; a stall without one ends the running task, but nothing of
a module without ownership does (R242). -/
def State.sldReport (s : State) (n : Stepper) (ok : Bool) : State :=
  let o := s.sld[n].owner
  let s := s.modSld n (fun c => { c with owner := none })
  match o with
  | some h => if ok then s.lsvMoveDone h else s.lsvStalled h (stallClass n)
  | none => if ok || !s.owned then s else s.taskError (stallClass n) (s.lowOpen (fun k => (stepperHeads n).any (fun h => s.onPath h k)))

/-- A channel loses its bridge (R249, R276): in motion it is treated as stalled, at rest it keeps P and sets DEEN. -/
def State.deenergise (s : State) (n : Stepper) : State :=
  if s.flag (F.SLD_STAT_BUSY n) then ((s.sldStall n).put (F.SLD_STAT_ENERG n) false).sldReport n false
  else if s.flag (F.SLD_STAT_ENERG n) then (s.put (F.SLD_STAT_ENERG n) false).put (F.SLD_STAT_DEEN n) true
  else s

/-! ## Commands -/

/-- Start a command that is not refused; where a stopped channel comes to rest is `rest`. The command it ends is reported to the
supervisor that started it (R271). -/
def State.sldStart (s : State) (n : Stepper) (op : Nat) (rest : Word) : State :=
  let was := s.sld[n].owner
  let s := s.modSld n (fun c => { c with owner := none })
  let s := if op = 2 then s.sldRest n rest
    else
      let s := s.sldBegin n op
      if s.bridges then s else s.deenergise n
  match was with
  | some h => s.lsvMoveDone h
  | none => s

/-- A command written to a channel (R271): refused, armed, or started. -/
def State.sldCommand (s : State) (n : Stepper) (op : Nat) (arm : Bool) (rest : Word := 0) : State :=
  match s.sldRefusal n op (s.flag (F.SLD_STAT_BUSY n)) with
  | some f => s.put f true
  | none =>
    let s := (s.wr (F.SLD_CMD_OP n) op).put (F.SLD_CMD_ARM n) arm
    if op = 0 then s else if arm then s.put (F.SLD_STAT_ARMED n) true else s.sldStart n op rest

/-- The SLD_START action (R271, R285): an armed command is checked again and starts; where an armed STOP brings the channel to rest is
free. DESIGN CHOICE (log entry 61). -/
def State.sldStartAct (s : State) (k : Nat) : State :=
  if h : k < 6 then
    let n : Stepper := ⟨k, h⟩
    if s.flag (F.SLD_STAT_ARMED n) then
      let op := s.rd (F.SLD_CMD_OP n)
      let s := s.put (F.SLD_CMD_ARM n) false
      match s.sldRefusal n op (s.flag (F.SLD_STAT_BUSY n)) with
      | some _ => (s.put (F.SLD_STAT_ARMED n) false).put (F.SLD_G_STAT_CFGERR (sldGroup n)) true
      | none => let (rest, s) := s.draw; s.sldStart n op rest
    else s.put (F.SLD_G_STAT_CFGERR (sldGroup n)) true
  else s

/-- MOVE, HOLD, OFF, VEL, TRIM, HOME: writes of `SLD_CMD` (R271). -/
def execMove (n : Stepper) (arm : Bool) (s : State) : Host.Outcome State Fault Refusal := .next (s.sldCommand n 1 arm)
def execHold (n : Stepper) (arm : Bool) (s : State) : Host.Outcome State Fault Refusal := .next (s.sldCommand n 3 arm)
def execOff (n : Stepper) (arm : Bool) (s : State) : Host.Outcome State Fault Refusal := .next (s.sldCommand n 4 arm)
def execVel (n : Stepper) (arm : Bool) (s : State) : Host.Outcome State Fault Refusal := .next (s.sldCommand n 5 arm)
def execTrim (n : Stepper) (arm : Bool) (s : State) : Host.Outcome State Fault Refusal := .next (s.sldCommand n 6 arm)
def execHome (n : Stepper) (arm : Bool) (s : State) : Host.Outcome State Fault Refusal := .next (s.sldCommand n 7 arm)

/-- SLD_STOP (R274): the command in progress ends at rest, at `rest`, with STOPPED, and the channel holds there. With ARM the
stop waits for SLD_START. DEDUCED (log entry 20). -/
def State.sldStopRun (s : State) (n : Stepper) (arm : Bool) (rest : Word) : State := s.sldCommand n 2 arm rest

/-- SLD_STOP. -/
def execSldStop (n : Stepper) (arm : Bool) (rest : Word) (s : State) : Host.Outcome State Fault Refusal := .next (s.sldStopRun n arm rest)

/-- MOVE_END (R272, R277): at rest at the target; the encoder check of a sled. -/
def execMoveEnd (n : Stepper) (s : State) : Host.Outcome State Fault Refusal :=
  if s.rd (F.SLD_STAT_MODE n) = 1 ∧ s.flag (F.SLD_STAT_BUSY n) = true then
    let s := s.setReg (Reg.SLD_POS n) s.sld[n].goal
    let mis := s.encoderMis n
    let s := if mis then s.put (F.SLD_STAT_ENCMIS n) true else s
    if mis && s.flag (F.SLD_CTRL_ENCSTALL n) then .next ((s.sldStall n).sldReport n false)
    else .next (((s.wr (F.SLD_STAT_MODE n) 3).sldDone n 0).sldReport n true)
  else .next s

/-- The last `m` values of a list all satisfy a test, and there are that many. -/
def lastAll (m : Nat) (p : Nat → Bool) (l : List Nat) : Bool := decide (m ≤ l.length) && (l.drop (l.length - m)).all p

/-- A stall is judged (R275, R284): at VSTALL or above, with the load angle beyond LATHR, or the back-EMF below its share of the
average, for 8 × STALLN chopper periods. VSTALL 0 switches the judgement off. -/
def State.stallJudged (s : State) (n : Stepper) (x : StallIn) : Bool :=
  let v := s.rd (F.SLD_STALL_VSTALL n)
  let m := 8 * s.rd (F.SLD_STALL_STALLN n)
  decide (v ≠ 0) && decide (4096 * v ≤ x.vel) &&
  (lastAll m (fun a => decide (s.rd (F.SLD_STALL_LATHR n) < a)) x.lang ||
   lastAll m (fun e => decide (16 * e < s.rd (F.SLD_STALL_BEMFMIN n) * x.mean)) x.bemf)

/-- The mode a stall ends: that of the command in progress, or of the one a STOP has just ended (R285). -/
def State.stallMode (s : State) (n : Stepper) : Nat :=
  if s.flag (F.SLD_STAT_BUSY n) then s.rd (F.SLD_STAT_MODE n)
  else if s.flag (F.SLD_STAT_STOPPED n) then s.sld[n].ended else 0

/-- STALL (R275, R276): the channel holds where it is, LOST; in HOME it is the expected end. A stall while a STOP brings the channel to
rest prevails over the STOP (R285). DEDUCED (log entry 20). -/
def execStall (n : Stepper) (x : StallIn) (s : State) : Host.Outcome State Fault Refusal :=
  let m := s.stallMode n
  if decide (m ≠ 0) && s.stallJudged n x then
    let s := (s.put (F.SLD_STAT_STOPPED n) false).modSld n (fun c => { c with ended := 0 })
    if m = 7 then
      let s := (s.setReg (Reg.SLD_POS n) (s.reg (Reg.SLD_TGT n))).put (F.SLD_STAT_LOST n) false
      .next (((s.wr (F.SLD_STAT_MODE n) 3).sldDone n 0).sldReport n true)
    else .next (((s.setReg (Reg.SLD_POS n) x.pos).sldStall n).sldReport n false)
  else .next s

/-- HOLD_CURRENT (R269): after 100 ms at rest the phases are at IHOLD. -/
def execHoldCurrent (n : Stepper) (s : State) : Host.Outcome State Fault Refusal :=
  if s.flag (F.SLD_STAT_ENERG n) && !s.flag (F.SLD_STAT_BUSY n) then .next (s.modSld n (fun c => { c with ihold := true }))
  else .next s

/-- A write of `SLD_POS` (R276, R282): taken in HOLD or OFF, where it clears LOST; refused elsewhere. -/
def State.sldPosWrite (s : State) (n : Stepper) (v : Word) : State :=
  let m := s.rd (F.SLD_STAT_MODE n)
  if (m = 3 ∨ m = 4) ∧ s.flag (F.SLD_STAT_BUSY n) = false then (s.setReg (Reg.SLD_POS n) v).put (F.SLD_STAT_LOST n) false
  else s.put (F.SLD_G_STAT_CFGERR (sldGroup n)) true

/-- SLD_POS_WRITE. -/
def execSldPosWrite (n : Stepper) (v : Word) (s : State) : Host.Outcome State Fault Refusal := .next (s.sldPosWrite n v)

/-! ## Stage enable and ownership -/

/-- The output stages are off (R161, R249, R460): write gates close early, steppers are de-energised, and the spindle faults
with ENL. -/
def State.stagesOff (s : State) : State :=
  let s := s.dropGates
  let s := (List.finRange 6).foldl State.deenergise s
  s.spnFault .enl []

/-- STAGE_ENABLE_ON: VIN12 rises through 10.2 V (R248). -/
def execStageEnableOn (mv : Nat) (s : State) : Host.Outcome State Fault Refusal :=
  let s := s.setReg Reg.SPN_VIN (BitVec.ofNat 32 mv)
  if mv ≥ 10200 then .next (s.put F.PWR_STAT_STGEN true) else .next s

/-- STAGE_ENABLE_OFF: VIN12 falls below 9.6 V (R248, R524). -/
def execStageEnableOff (mv : Nat) (s : State) : Host.Outcome State Fault Refusal :=
  let s := s.setReg Reg.SPN_VIN (BitVec.ofNat 32 mv)
  if mv < 9600 ∧ s.stageOn = true then
    .next ((((s.put F.PWR_STAT_STGEN false).bump Reg.PWR_STGOFF_CNT).stagesOff).attention 1)
  else .next s

/-! ## Laser channel faults -/

/-- The cause bit of a channel fault (R184). -/
def lddField (c : Chan) : LddCause → RegField
  | .ovc => F.LDD_STAT_OVC c
  | .openAnode => F.LDD_STAT_OPEN c
  | .hot => F.LDD_STAT_HOT c

/-- LDD_FAULT (R163): the channel goes to zero; an S channel's fault stops the head (R241), and a data channel's ends a task
that works on its head. -/
def execLddFault (c : Chan) (cause : LddCause) (s : State) : Host.Outcome State Fault Refusal :=
  let h := chanHead c
  let s := ((s.put (lddField c cause) true).bump (Reg.LDD_FAULT_CNT c)).axlAsk 0x3F 0 c.val 0x2
  if c.val % 5 = 0 then .next (s.lsvChannelFault h)
  else
    let s := s.gateEarly (chanBeam c)
    .next (if s.worksOn h then s.taskError 0x42 (s.lowOnHead h) else s)

/-- A write to `LDD_STAT` (R163, R184): the flags written 1 clear. With the last cause of an S channel gone, its supervisor accepts
commands again (R226, R241). -/
def State.lddStatWrite (s : State) (c : Chan) (v : Word) : State :=
  s.setReg (Reg.LDD_STAT c) (s.reg (Reg.LDD_STAT c) &&& ~~~(v &&& 0xEE))

/-- LDD_FAULT_CLEAR. -/
def execLddFaultClear (c : Chan) (v : Word) (s : State) : Host.Outcome State Fault Refusal := .next (s.lddStatWrite c v)

end Sys2Proof.Machine
end

