-- ==== Sys2Proof/Machine/Fire.lean ====
section
/-! DEFINITION. The event scheduler of ANG (R61 to R73): firing an entry with each of the nine actions of R72, late firings,
cancels, arming and disarming; with the commands that are these alone. -/

namespace Sys2Proof.Machine

/-! ## The counted angle -/

/-- Set the VALID and HOLDOVER flags of `ANG_NOW_HI` (R67, R82). -/
def State.setAngFlags (s : State) (valid holdover : Bool) : State :=
  s.setReg Reg.ANG_NOW_HI (BitVec.ofNat 32 (valid.toNat * 2 ^ 31 + holdover.toNat * 2 ^ 30))

/-- The signed difference of two extended angles, modular (R56). -/
def angDiff (a b : Angle) : Int := signed 44 (a.toNat + 2 ^ 44 - b.toNat)

/-- `ANG_STAT.HOLD`: a hold stands (R61). -/
def State.holding (s : State) : Bool := s.flag F.ANG_STAT_HOLD

/-- The counted angle has flowed to `now`. It never flows backward. Outside a hold the high-water mark rises with it (R62).
DEDUCED (log entry 11). -/
def State.flow (s : State) (now : Angle) : State :=
  let a := s.ang
  let n := if angDiff now a.now > 0 then now else a.now
  let h := if !s.holding && angDiff n a.hwm > 0 then n else a.hwm
  { s with ang := { a with now := n, hwm := h } }

/-! ## Entries -/

/-- Change an entry. -/
def State.modEntry (s : State) (i : Entry) (f : AngEntry → AngEntry) : State :=
  { s with ang := { s.ang with entries := s.ang.entries.set i (f s.ang.entries[i]) } }

/-- The angle has reached the entry's target: the modular difference lies in [0, 2^31) (R68). -/
def AngEntry.due (e : AngEntry) (now : Angle) : Bool := decide ((now.toNat + 2 ^ 44 - e.target.toNat) % 2 ^ 32 < 2 ^ 31)

/-- Entries may fire: the angle is valid, and no hold stands (R62, R67). -/
def State.mayFire (s : State) : Bool := s.angValid && !s.holding

/-! ## The nine actions (R72) -/

/-- A zone is made pending for a head (R99). -/
def State.zonePend (s : State) (h : Head) (z : Nat) : State :=
  ({ s with acq := { s.acq with zpend := s.acq.zpend.set h z } }).put (F.ACQ_PLL_STAT_ZPEND h) true

/-- ZONE_SWITCH (R99): the zone of the band the head enters at its next frame 0, unless it is the zone applied or a guard band's; it
replaces a zone already pending. DEDUCED (log entry 53). -/
def State.zoneSwitchAct (s : State) (k : Nat) : State :=
  if hk : k < 4 then
    let h : Head := ⟨k, hk⟩
    match bandZone (s.headBand h + 1) with
    | some z =>
      if z = (s.reg (Reg.ACQ_HZONE h)).toNat then s else s.zonePend h z
    | none => s
  else s

/-- SRV_TARGET (R211): the group's next targets take effect at the next instant; an ARG above 10 sets ARGERR. -/
def State.srvTargetAct (s : State) (k : Nat) : State :=
  if hk : k < 11 then s.modGroup ⟨k, hk⟩ (fun g => { g with target := true }) else s.put F.SRV_STAT_ARGERR true

/-- SCRUB_TICK (R391). -/
def State.scrubTickAct (s : State) : State :=
  (s.pmcRise 0x500 (decide (s.reg Reg.MIC_SKINK_DEBT ≠ 0)) (decide (s.rd F.MIC_SKINK_CFG_QUOTA ≠ 0))).setReg Reg.MIC_SKINK_DEBT
    (BitVec.ofNat 32 (min (2 ^ 24 - 1) ((s.reg Reg.MIC_SKINK_DEBT).toNat + s.rd F.MIC_SKINK_CFG_QUOTA * 1024)))

/-- Act on the beam that ARG names. DEDUCED (log entry 18). -/
def State.onBeam (s : State) (k : Nat) (f : Beam → State → State) : State := if h : k < 16 then f ⟨k, h⟩ s else s

/-- An entry's action reaches its block (R72). A late WGATE_OPEN fails its block (R63); `lead` is the evidence of R169. An action that
begins a slot first brings a written DET mode into force (R108). DEDUCED (log entry 18). -/
def State.act (s : State) (e : AngEntry) (late lead : Bool) : State :=
  let arg := e.arg.toNat
  match e.action.toNat with
  | 1 => s.onBeam arg (fun b s => (s.detApplyMode b).gateAct b e late lead)
  | 2 => s.onBeam arg (fun b s => s.gateClose b e)
  | 3 => s.lpowerAct (arg / 256) (arg % 16)
  | 4 => s.onBeam arg (fun b s => s.captureAct b e)
  | 5 => s.srvTargetAct arg
  | 6 => s.sldStartAct arg
  | 7 => s.seqFire e.arg
  | 8 => s.scrubTickAct
  | 9 => s.zoneSwitchAct arg
  | _ => s

/-- An entry fires: each arming fires once (R62, R68). -/
def State.fire (s : State) (i : Entry) (late lead : Bool) : State :=
  let e := s.ang.entries[i]
  let s := s.modEntry i (fun e => { e with armed := false, fired := true, late := late })
  let s := if late then s.bump Reg.ANG_LATE_CNT else s
  s.act e late lead

/-- Fire, late, the armed entries that a test selects, in ascending index (R70). -/
def State.fireLate (s : State) (sel : AngEntry → Bool) : State :=
  forEach (List.finRange 64) (fun i s =>
    let e := s.ang.entries[i]
    if e.armed && sel e then s.fire i true false else s) s

/-- An entry of the given action reaches its target at `now` (R68, R69). -/
def State.fireAt (s : State) (i : Entry) (now : Angle) (action : Nat) (lead : Bool) : State :=
  let e := s.ang.entries[i]
  if s.mayFire && e.armed && decide (e.action.toNat = action) && e.due (s.flow now).ang.now then (s.flow now).fire i false lead
  else s

/-- SEQ_EVENT: with entry `i` fire the SEQ_EVENT entries armed for the same target, in ascending index (R70). -/
def State.seqEvents (s : State) (i : Entry) (now : Angle) : State :=
  let t := (s.ang.entries[i]).target
  if (s.ang.entries[i]).armed && decide ((s.ang.entries[i]).action.toNat = 7) then
    forEach (List.finRange 64) (fun j s => if (s.ang.entries[j]).target = t then s.fireAt j now 7 false else s) s
  else s

/-- The nine rows of firings: WGATE_OPEN, WGATE_CLOSE, LPOWER, CAPTURE, SRV_TARGET, SLD_START, SEQ_EVENT, SCRUB_TICK,
ZONE_SWITCH. -/
def execWgateOpen (i : Entry) (now : Angle) (lead : Bool) (s : State) : Host.Outcome State Fault Refusal :=
  .next (s.fireAt i now 1 lead)
def execWgateClose (i : Entry) (now : Angle) (s : State) : Host.Outcome State Fault Refusal := .next (s.fireAt i now 2 false)
def execLpower (i : Entry) (now : Angle) (s : State) : Host.Outcome State Fault Refusal := .next (s.fireAt i now 3 false)
def execCapture (i : Entry) (now : Angle) (s : State) : Host.Outcome State Fault Refusal := .next (s.fireAt i now 4 false)
def execSrvTarget (i : Entry) (now : Angle) (s : State) : Host.Outcome State Fault Refusal := .next (s.fireAt i now 5 false)
def execSldStart (i : Entry) (now : Angle) (s : State) : Host.Outcome State Fault Refusal := .next (s.fireAt i now 6 false)
def execSeqEvent (i : Entry) (now : Angle) (s : State) : Host.Outcome State Fault Refusal := .next (s.seqEvents i now)
def execScrubTick (i : Entry) (now : Angle) (s : State) : Host.Outcome State Fault Refusal := .next (s.fireAt i now 8 false)
def execZoneSwitch (i : Entry) (now : Angle) (s : State) : Host.Outcome State Fault Refusal := .next (s.fireAt i now 9 false)

/-- HOLD_END: the angle exceeds the high-water mark; entries armed during the hold with a target at or below the mark fire late
(R62). -/
def execHoldEnd (now : Angle) (s : State) : Host.Outcome State Fault Refusal :=
  if s.holding && decide (angDiff now s.ang.hwm > 0) then
    let mark := s.ang.hwm
    let s := { s.put F.ANG_STAT_HOLD false with ang := { s.ang with now := now, hwm := now } }
    .next (s.fireLate (fun e => e.due mark))
  else .next s

/-! ## Cancels -/

/-- The home slot of a block lies ahead of a head on its path: on a later layer or band, or on the head's band at an angle still to
come in the revolution (R565). -/
def State.slotAhead (s : State) (h : Head) (lba : Nat) : Bool :=
  let l := s.rd (F.ANG_HPOS_LAYER h)
  let n := s.headBand h
  decide (l < lbaLayer lba) || (decide (l = lbaLayer lba) && (decide (n < lbaBand lba) || (decide (n = lbaBand lba) &&
    decide ((s.ang.now.toNat % 2 ^ 20 : Nat) * bpr (lbaZone lba) < lbaSlot lba * 2 ^ 20))))

/-- A WGATE_OPEN entry is cancelled before it fires (R565). A home block stays planned when its slot lies ahead, else it joins its
zone-layer's queue; the spare slot that the entry names in a replacement pass is consumed unwritten, and its block stays where it
stands in the queue. `before` is the state as the cancel struck. While the head runs OPC the entry is a test block's, which OPC
itself counts as a failing step. -/
def State.openCancelled (before : State) (e : AngEntry) (s : State) : State :=
  let slot (zl : Nat) : Nat := slotNamed (zl % 20) e.target.toNat e.frac.toNat
  s.onBeam e.arg.toNat (fun b s =>
    if (s.wrp.opcRun[beamHead b]).isSome then s else
    match s.wrp.pass[beamHead b] with
    | some zl =>
      match s.queue zl, spareNamed zl (before.nextFree zl) b (slot zl) with
      | _ :: _, some i => (s.setNextFree zl (max (s.nextFree zl) (i + 1))).passStep zl
      | _, _ => s
    | none =>
      match s.wrp.beams[b].plan.find? (fun w => decide (lbaSlot w.lba = slot w.zl)) with
      | none => s
      | some w =>
        if s.slotAhead (beamHead b) w.lba then s
        else (s.modW b (fun x => { x with plan := x.plan.erase w })).queueJoin w.lba)

/-- Cancel the armed entries that a test selects (R61, R64, R565). -/
def State.cancelEntries (s : State) (sel : AngEntry → Bool) : State :=
  let hit (e : AngEntry) : Bool := e.armed && sel e
  let es := s.ang.entries.map (fun e => if hit e then { e with armed := false, cancelled := true } else e)
  let s' := { s with ang := { s.ang with entries := es } }
  let s' := forEach (s.ang.entries.toList.filter (fun e => hit e && decide (e.action.toNat = 1))) (fun e t => State.openCancelled s e t) s'
  (s'.bump Reg.ANG_CANCEL_CNT).event Ev.angleCancel

/-- A cancel of R61 or R67: every armed entry; the high-water mark is the new angle, no hold is left, and every open gate
closes early (R62, R64). `band` says that the reference's band did not change: `ANG_SLIP_CNT` counts such a cancel, that of R67 too
(R82). DEDUCED (log entry 53). -/
def State.cancelAll (s : State) (cause : RegField) (band : Bool) : State :=
  let s := (s.put cause true).cancelEntries (fun _ => true)
  let s := if band then s.bump Reg.ANG_SLIP_CNT else s
  let s := { s.put F.ANG_STAT_HOLD false with ang := { s.ang with hwm := s.ang.now } }
  forEach (List.finRange 4) (fun h s => s.gatesEarly h) s

/-- The cancel of R66: the tagged entries of one head, and its open gates; `band` says that the head's band did not change (R82). -/
def State.cancelHead (s : State) (h : Head) (band : Bool) : State :=
  let s := s.wr F.ANG_CANCEL_HEADCAN (s.rd F.ANG_CANCEL_HEADCAN ||| 2 ^ h.val)
  let s := if band then s.bump Reg.ANG_SLIP_CNT else s
  (s.cancelEntries (fun e => e.htag && decide (e.head = h))).gatesEarly h

/-! ## Steps of the angle (R61) -/

/-- The angle steps to `new`: the classes of R61, `layer` saying that the reference's layer changed and `band` that its band
did not. -/
def State.angStep (s : State) (new : Angle) (layer band : Bool) : State :=
  let old := s.ang.now
  let d := angDiff new old
  let rev (a : Angle) : Nat := a.toNat / 2 ^ 20
  let revDown := decide (signed 24 (rev new + 2 ^ 24 - rev old) < 0)
  let s := { s.setInt Reg.ANG_CORR d with ang := { s.ang with now := new } }
  if layer then s.cancelAll F.ANG_CANCEL_LAYER band
  else if d = 0 then s
  else if d < -64 || revDown then s.cancelAll F.ANG_CANCEL_BACK band
  else if d > 64 then s.cancelAll F.ANG_CANCEL_FWD band
  else if d < 0 then s.put F.ANG_STAT_HOLD true
  else if s.holding && decide (angDiff new s.ang.hwm ≤ 0) then s
  else
    let s := { s.put F.ANG_STAT_HOLD false with ang := { s.ang with hwm := if angDiff new s.ang.hwm > 0 then new else s.ang.hwm } }
    if s.angValid then s.fireLate (fun e => e.due new) else s

/-! ## Arming (R71, R73) -/

/-- Arm the selected entry with `ANG_EVT_TGT` and `ANG_EVT_ACTW`: an armed entry or a reserved ACTION is refused; a target
already passed, or the angle of this moment, fires late at once. DEDUCED (log entry 53). -/
def State.evtArm (s : State) : State :=
  let i : Entry := Fin.ofNat 64 (s.reg Reg.ANG_EVT_SEL).toNat
  let act := s.rd F.ANG_EVT_ACTW_ACTION
  if (s.ang.entries[i]).armed || act = 0 || 9 < act then s.put F.ANG_STAT_ARMERR true
  else
    let e : AngEntry :=
      { armed := true, target := s.reg Reg.ANG_EVT_TGT, frac := BitVec.ofNat 8 (s.rd F.ANG_EVT_ACTW_FRAC)
        action := BitVec.ofNat 4 act, head := Fin.ofNat 4 (s.rd F.ANG_EVT_ACTW_HEAD), htag := s.flag F.ANG_EVT_ACTW_HTAG
        arg := BitVec.ofNat 16 (s.rd F.ANG_EVT_ACTW_ARG) }
    let s := s.modEntry i (fun _ => e)
    if s.mayFire && e.due s.ang.now then s.fire i true false else s

/-- Disarm one entry: ARMED only (R73). -/
def State.evtDisarm (s : State) : State :=
  s.modEntry (Fin.ofNat 64 (s.reg Reg.ANG_EVT_SEL).toNat) (fun e => { e with armed := false })

/-- Disarm every entry (R73). -/
def State.evtDisarmAll (s : State) : State :=
  { s with ang := { s.ang with entries := s.ang.entries.map (fun e => { e with armed := false }) } }

/-- ANG_EVT_ARM, ANG_EVT_DISARM, ANG_EVT_DISARM_ALL: writes of `ANG_EVT_CMD`. -/
def execAngEvtArm (s : State) : Host.Outcome State Fault Refusal := .next s.evtArm
def execAngEvtDisarm (s : State) : Host.Outcome State Fault Refusal := .next s.evtDisarm
def execAngEvtDisarmAll (s : State) : Host.Outcome State Fault Refusal := .next s.evtDisarmAll

end Sys2Proof.Machine
end

