-- ==== Sys2Proof/Machine/Retry.lean ====
section
/-! DEFINITION. The orders that a retry point gives a head's loop supervisor (R153, R236): seeks, changes of layer and kick-backs. -/

namespace Sys2Proof.Machine

/-- A JUMP of `d` bands is ordered, at once or at a frame (R235, R245). -/
def State.orderJump (s : State) (h : Head) (d : Int) (frame : Option Nat) : State :=
  let s := (s.put (F.LSV_H_JANG_NOW h) frame.isNone).wr (F.LSV_H_JANG_FRAME h) (frame.getD 0)
  s.lsvCommand h 3 d (fun s => (s.lsvBegin h .jump).jumpRun h d)

/-- The head is sent to a band of its layer, or its layer is changed first (R153 step 2). -/
def State.orderMove (s : State) (h : Head) (layer : Nat) (band : Int) : State :=
  let d := band - s.headBand h
  let s1 := (s.wr (F.LSV_H_TGT_LAYER h) layer).wr (F.LSV_H_TGT_BAND h) band.toNat
  if s.rd (F.ANG_HPOS_LAYER h) ≠ layer then s1.lsvCommand h 2 0 (fun s => (s.leaveFollow h |>.lsvBegin h .layer) |>.layerRun h)
  else if d = 0 then s
  else if s.isJump h d then s.orderJump h d none
  else s1.lsvCommand h 4 0 (fun s => (s.lsvBegin h .seek).seekRun h)

/-- The frame behind the last slot that a revolution needs: the place of its kick-back (R236). -/
def State.kickFrame (s : State) (h : Head) (r : Retry) : Nat :=
  let ks := (s.onBand h r.layer r.band).filter (fun k => decide (s.rungOfs k.rung = r.ofs))
  let n := match bandZone r.band with
    | some z => bpr z
    | none => bpr 0
  min 8191 (((ks.map (fun k => k.slot + 1)).foldl max 0 * 8192 + n - 1) / n)

/-- What SEQ orders a head in a retry point after its frame 0, or after a word that confirmed a kick-back (R153): in a revolution the
kick-back behind the last slot it needs; on the way a change of layer, and then the band before the one to be entered. While the
supervisor is busy or not in FOLLOW nothing is ordered. The events of a revolution are armed by commands. DESIGN CHOICE (log entry 55). -/
def State.retryOrders (s : State) (h : Head) : State :=
  match s.rcv.retry[h] with
  | none => s
  | some r =>
    if s.flag (F.LSV_H_STAT_BUSY h) || decide (s.rd (F.LSV_H_STAT_STATE h) ≠ 6) || r.await then s
    else if 0 < r.revs ∧ r.layer = s.rd (F.ANG_HPOS_LAYER h) ∧ r.band = s.headBand h then s.orderJump h (-1) (some (s.kickFrame h r))
    else s.orderMove h r.layer (r.band - 1)

end Sys2Proof.Machine
end

