-- ==== Sys2Proof/Machine/Ang.lean ====
section
/-! DEFINITION. The clock PLLs (R92 to R97), the reference head (R57), address words (R58 to R61), a head's frame 0 (R99, R100),
and the loss of the angle (R67); with their commands. -/

namespace Sys2Proof.Machine

/-! ## Locked heads and the reference (R57) -/

/-- The PLL state of a head: 0 OFF, 1 SEARCH, 2 LOCKED, 3 HOLDOVER (R93). -/
def State.pll (s : State) (h : Head) : Nat := s.rd (F.ACQ_PLL_STAT_STATE h)

/-- The head counts as locked (R57). -/
def State.locked (s : State) (h : Head) : Bool := decide (s.pll h = 2)

/-- The reference head. -/
def State.refHead (s : State) : Head := Fin.ofNat 4 (s.rd F.ANG_STAT_REFHEAD)

/-- The head that should be the reference: the fixed one while locked, else the lowest-numbered locked one (R57). -/
def State.refWanted (s : State) : Option Head :=
  let k := s.rd F.ANG_CTRL_REFSEL
  if hk : k < 4 then
    if s.locked ⟨k, hk⟩ then some ⟨k, hk⟩ else (List.finRange 4).find? s.locked
  else (List.finRange 4).find? s.locked

/-- Change what ANG keeps for a head. -/
def State.modAng (s : State) (h : Head) (f : AngHead → AngHead) : State :=
  { s with ang := { s.ang with heads := s.ang.heads.set h (f s.ang.heads[h]) } }

/-- The extended angle moved by `d` ticks. -/
def angAdd (a : Angle) (d : Int) : Angle := BitVec.ofInt 44 (a.toNat + d)

/-- Reconsider the reference after a change of locks or of REFSEL (R57). A change of reference is a step by what the new
reference last led the angle, and a layer cancel when it follows another layer; with no head locked the angle is extrapolated
and flagged hold-over (R14 step 4). DEDUCED (log entry 12). -/
def State.refUpdate (s : State) : State :=
  match s.refWanted with
  | none => s.setAngFlags s.angValid s.angValid
  | some h =>
    let s := s.setAngFlags s.angValid false
    let o := s.refHead
    if h = o then s
    else
      let d := (s.ang.heads[h]).delta
      let layer := decide (s.rd (F.ANG_HPOS_LAYER h) ≠ s.rd (F.ANG_HPOS_LAYER o))
      let band := decide (s.headBand h = s.headBand o)
      let s := s.wr F.ANG_STAT_REFHEAD h.val
      let a := s.ang
      let heads := a.heads.map (fun x => { x with delta := x.delta - d })
      let s := { s with ang := { a with heads := heads } }
      if s.angValid then s.angStep (angAdd s.ang.now d) layer band else s

/-- REFSEL_WRITE: a write of `ANG_CTRL` (R57): REFSEL 5 to 7 is refused. -/
def State.angCtrlWrite (s : State) (v : Word) : State :=
  if F.ANG_CTRL_REFSEL.of v > 4 then s.put F.ANG_STAT_CFGERR true
  else (s.setReg Reg.ANG_CTRL (v &&& 0x1F)).refUpdate
def execRefselWrite (v : Word) (s : State) : Host.Outcome State Fault Refusal := .next (s.angCtrlWrite v)

/-! ## The clock PLL -/

/-- The PLL of a head goes to LOCKED (R93): its next confirmed word follows a relock (R61), and sampling starts unless the rate
is too high (R89). -/
def State.pllLock (s : State) (h : Head) : State :=
  let s := s.wr (F.ACQ_PLL_STAT_STATE h) 2
  let s := s.put (F.ACQ_PLL_STAT_RATEERR h) (s.rateOver h)
  (s.modAng h (fun a => { a with last := none, relock := true })).refUpdate

/-- Set the run of good marks on prediction of a head in SEARCH (R93). -/
def State.setSeek (s : State) (h : Head) (n : Nat) : State := { s with acq := { s.acq with seek := s.acq.seek.set h n } }

/-- A PLL goes to SEARCH (R93): its run begins anew, at the frequency of the spindle's speed estimate or of `ACQ_PLL_FREQ`. -/
def State.pllSearch (s : State) (h : Head) : State :=
  let f := if s.flag (F.ACQ_PLL_CTRL_SEED h) then s.reg Reg.SPN_SPEED else s.reg (Reg.ACQ_PLL_FREQ h)
  ({ s with acq := { s.acq with freq := s.acq.freq.set h f } }.setSeek h 0).wr (F.ACQ_PLL_STAT_STATE h) 1

/-- One good mark: GOODRUN counts up to 15, MISSRUN is 0 (R95, R105). -/
def State.goodMark (s : State) (h : Head) : State :=
  (s.bumpF (F.ACQ_PLL_STAT_GOODRUN h)).wr (F.ACQ_PLL_STAT_MISSRUN h) 0

/-- The speed lies in the PLL's range (R97); without a valid estimate no mark is accepted in SEARCH. DEDUCED (log entry 53). -/
def State.pllSpeed (s : State) : Bool :=
  s.flag F.SPN_STAT_SPDVALID && decide (600 * 65536 ≤ s.int Reg.SPN_SPEED) && decide (s.int Reg.SPN_SPEED ≤ 7560 * 65536)

/-- A valid speed outside that range: no mark is accepted, in any state (R97). -/
def State.pllOut (s : State) : Bool := s.flag F.SPN_STAT_SPDVALID && !s.pllSpeed

/-- The clock RF input of a head is converted (R85, R106). -/
def State.clockOn (s : State) (h : Head) : Bool := s.converts (13 * h.val + 4)

/-- FRAME_MARK_GOOD: a pit leading edge `ofs` sixteenths of a tick from the expected mark, with a run of `run` sixteenths, is
judged by the acceptance rule of the PLL's state (R92, R93, R95 to R97), while the clock input is converted (R106). In SEARCH a good mark off prediction begins the run that
locks anew, while GOODRUN goes on counting. DEDUCED (log entry 53). -/
def execFrameMarkGood (h : Head) (ofs : Int) (run : Nat) (s : State) : Host.Outcome State Fault Refusal :=
  let long : Bool := 288 ≤ run && run ≤ 352
  if s.pllOut || !s.clockOn h then .next s else
  match s.pll h with
  | 1 =>
    if long && s.pllSpeed then
      let run := if decide (ofs.natAbs ≤ 64) then s.acq.seek[h] + 1 else 1
      let s := (s.goodMark h).setSeek h run
      .next (if run ≥ s.rd (F.ACQ_PLL_CTRL_LOCKN h) then s.pllLock h else s)
    else .next s
  | 2 =>
    if ofs.natAbs > 128 then .next (s.bump (Reg.ACQ_MARK_OUT_CNT h))
    else if 64 ≤ run then .next (s.goodMark h)
    else .next s
  | 3 =>
    if ofs.natAbs > 16 * s.rd (F.ACQ_PLL_CTRL_HOWIN h) then .next (s.bump (Reg.ACQ_MARK_OUT_CNT h))
    else if long then
      let s := s.goodMark h
      .next (if s.rd (F.ACQ_PLL_STAT_GOODRUN h) ≥ s.rd (F.ACQ_PLL_CTRL_LOCKN h) then
          (s.setInt (Reg.ACQ_PLL_PHERR h) ofs).pllLock h
        else s)
    else .next s
  | _ => .next s

/-- A missing mark is counted (R93, R95, R105). -/
def State.missMark (s : State) (h : Head) : State :=
  let s := ((s.setSeek h 0).bump (Reg.ACQ_MISS_CNT h)).wr (F.ACQ_PLL_STAT_GOODRUN h) 0
  s.wr (F.ACQ_PLL_STAT_MISSRUN h) (min 64 (s.rd (F.ACQ_PLL_STAT_MISSRUN h) + 1))

/-- FRAME_MARK_MISSING: in LOCKED the PLL enters hold-over and the head's open gates close; in HOLDOVER and SEARCH the mark is counted
(R14, R93 to R95). -/
def execFrameMarkMissing (h : Head) (s : State) : Host.Outcome State Fault Refusal :=
  match s.pll h with
  | 2 =>
    let s := (((s.missMark h).wr (F.ACQ_PLL_STAT_STATE h) 3).bump (Reg.ACQ_HOLD_CNT h)).pmcEdge (0x100 + h)
    .next ((s.gatesEarly h).refUpdate)
  | 0 => .next s
  | _ => .next (s.missMark h)

/-- HEAD_UNLOCKED: 64 consecutive marks are missing (R14 step 5, R95): SEARCH, sampling stops, the slots in capture are aborted,
and a head in FOLLOW has lost its track (R239). -/
def execHeadUnlocked (h : Head) (s : State) : Host.Outcome State Fault Refusal :=
  if s.pll h = 3 ∧ s.rd (F.ACQ_PLL_STAT_MISSRUN h) = 64 then
    let s := ((s.pllSearch h).bump (Reg.ACQ_UNLOCK_CNT h)).headAbort h
    let s := s.refUpdate
    .next (if s.rd (F.LSV_H_STAT_STATE h) = 6 then s.lostHere h false else s)
  else .next s

/-- A write of `ACQ_PLL_CTRL` (R93, R104): LOCKN and HOWIN in range; EN takes the PLL from OFF to SEARCH, and its clearing to
OFF, where sampling is stopped. -/
def State.pllCtrlWrite (s : State) (h : Head) (v : Word) : State :=
  let lockn := (F.ACQ_PLL_CTRL_LOCKN h).of v
  let howin := (F.ACQ_PLL_CTRL_HOWIN h).of v
  if lockn < 2 || 8 < lockn || howin < 16 || 64 < howin then s.put F.ACQ_STAT_CFGERR true
  else
    let s := s.setReg (Reg.ACQ_PLL_CTRL h) (v &&& 0xFFF3)
    if v.getLsbD 0 then (if s.pll h = 0 then (s.pllSearch h).wr (F.ACQ_PLL_STAT_GOODRUN h) 0 else s)
    else if s.pll h = 0 then s
    else (((s.wr (F.ACQ_PLL_STAT_STATE h) 0).headAbort h).gatesEarly h).refUpdate

/-- PLL_ENABLE. -/
def execPllEnable (h : Head) (v : Word) (s : State) : Host.Outcome State Fault Refusal := .next (s.pllCtrlWrite h v)

/-- ANGLE_INVALID: no head has been locked for 64 held frames (R67). -/
def execAngleInvalid (s : State) : Host.Outcome State Fault Refusal :=
  if s.angValid && !(List.finRange 4).any s.locked then .next (s.setAngFlags false false).speedNow else .next s

/-! ## Address words -/

/-- The previous correct word of the head agrees (R58). -/
def agrees (p w : Dword) : Bool :=
  decide (adrFRAME w = (adrFRAME p + 8) % 8192) && decide (adrLAYER w = adrLAYER p) &&
  (decide (adrBAND w = adrBAND p) || (decide (adrFRAME w < adrFRAME p) && decide (adrBAND w = adrBAND p + 1)))

/-- The ZONE of a confirmed word is 0 to 19 or 31 (R58). -/
def zoneLegal (w : Dword) : Bool := decide (adrZONE w < 20) || decide (adrZONE w = 31)

/-- The disc angle within a revolution that a word gives, `lag` ticks after its frame began, less the mounting offset (R57). -/
def State.wordAngle (s : State) (h : Head) (w : Dword) (lag : Nat) : Nat :=
  (adrFRAME w * 128 + lag + 2 ^ 20 - (s.reg (Reg.ANG_HOFS h)).toNat % 2 ^ 20) % 2 ^ 20

/-- The extended angle a word gives: at a path discontinuity REV moves by the signed band difference (R60); without one, the angle is
the nearest. DEDUCED (log entry 13). -/
def newAngle (now : Angle) (turn : Nat) (disc : Bool) (bands : Int) : Angle :=
  if disc = false then angAdd now (signed 20 (turn + 2 ^ 20 - now.toNat % 2 ^ 20))
  else BitVec.ofInt 44 ((((now.toNat / 2 ^ 20 : Nat) : Int) + bands) * 2 ^ 20 + turn)

/-- The encoder reload of R80 at a confirmed word of either head of a sled, while UNCERTAIN is set; an index edge loads the count in
any case. DEDUCED (log entries 14 and 53). -/
def State.encoderWord (s : State) (h : Head) (band : Int) : State :=
  let sl := headSled h
  if s.flag (F.ANG_ENC_STAT_UNCERTAIN sl) then
    (s.setInt (Reg.ANG_ENC_CNT sl) (s.int (Reg.ANG_ENC_BANDREF sl) + band * (s.reg (Reg.ANG_ENC_SCALE sl)).toNat / 256)).put
      (F.ANG_ENC_STAT_UNCERTAIN sl) false
  else s

/-- The zone of a confirmed word becomes pending when it is not the one applied (R99). -/
def State.zoneWord (s : State) (h : Head) (z : Nat) : State :=
  if z < 20 ∧ z ≠ (s.reg (Reg.ACQ_HZONE h)).toNat then (s.bump (Reg.ACQ_ZMIS_CNT h)).zonePend h z else s

/-- What the loop supervisor makes of a confirmed word (R231, R239): in CONFIRM the stage's end, in FOLLOW a focus loss on
another layer and a slip on another band than `k` and `b`, where the head was expected. -/
def State.supervisorWord (s : State) (h : Head) (layer : Nat) (band : Int) (k : Nat) (b : Int) : State :=
  let s := s.wr (F.LSV_H_STAT_CLAYER h) layer
  if (s.sup h).st = 6 then (if layer ≠ k then s.lost h true k b else if band ≠ b then s.slip h k b else s)
  else if s.owned then s.lsvConfirmed h layer band
  else s

/-- ANG confirms a word of a head (R59 to R61, R66, R67). -/
def State.confirmWord (s : State) (h : Head) (w : Dword) (lag : Nat) : State :=
  let layer := adrLAYER w
  let band := adrBAND w
  let k := s.rd (F.ANG_HPOS_LAYER h)
  let b := s.headBand h
  let bands := band - b
  let newLayer := decide (layer ≠ k)
  let disc := newLayer || decide (bands ≠ 0)
  let isRef := decide (s.refHead = h)
  let relock := (s.ang.heads[h]).relock
  let new := newAngle s.ang.now (s.wordAngle h w lag) disc bands
  let s := s.modAng h (fun a => { a with relock := false })
  let s := if disc then (((s.bump (Reg.ANG_HDISC_CNT h)).wr (F.ANG_HPOS_LAYER h) layer).wr (F.ANG_HPOS_BAND h) (unsigned 16 band)).headAbort h
    else s
  let s :=
    if !s.angValid then
      let s := { s.setInt Reg.ANG_CORR (angDiff new s.ang.now) with ang := { s.ang with now := new } }
      (s.setAngFlags true false).cancelAll F.ANG_CANCEL_INVALID (decide (bands = 0))
    else if isRef && (disc || relock) then s.angStep new newLayer (decide (bands = 0))
    else if isRef then s
    else
      let s := s.modAng h (fun a => { a with delta := signed 20 (s.wordAngle h w lag + 2 ^ 20 - s.ang.now.toNat % 2 ^ 20) })
      if disc then s.cancelHead h (decide (bands = 0)) else s
  let s := ((s.encoderWord h band).zoneWord h (adrZONE w)).supervisorWord h layer band k b
  if disc then (s.retryConfirmed h band).retryOrders h else s

/-- ADDRESS_WORD: ACQ holds the word and counts a wrong ACRC, in any state of the PLL (R92); ANG confirms a word of a locked head under
R58, or discards it. DEDUCED (log entry 53). -/
def execAddressWord (h : Head) (w : Dword) (now : Angle) (lag : Nat) (s : State) : Host.Outcome State Fault Refusal :=
  if !s.clockOn h then .next s else
  let s := s.setPair (Reg.ACQ_ADDR_LO h) w.toNat
  if crcGood w then
    if s.locked h then
      let s := s.flow now
      let ok := match (s.ang.heads[h]).last with
        | some p => agrees p w
        | none => false
      let s := s.modAng h (fun a => { a with last := some w })
      .next (if ok && zoneLegal w then s.confirmWord h w lag else s)
    else .next s
  else .next (s.bump (Reg.ACQ_ACRC_CNT h))

/-! ## A head's frame 0 -/

/-- π as a ratio, to 50 decimals. -/
def piNum : Nat := 314159265358979323846264338327950288419716939937510
def piDen : Nat := 10 ^ 50

/-- A distance along the track in 1/64 channel bit at a band, for a zone ratio in 1/128 (R98, R100): rounded half away from zero. -/
def skewBits (nm band : Int) (zratio : Nat) : Int :=
  let r2 := 44000000 + (2 * band + 1) * 1200
  let num := nm.natAbs * 2 ^ 20 * zratio * 64 * piDen
  let den := 128 * 128 * piNum * r2.natAbs
  let q : Int := ((2 * num + den) / (2 * den) : Nat)
  if nm < 0 then -q else q

/-- The limits of R102, in 1/64 channel bit. -/
def clampPhase (v : Int) : Int := max (-1024 * 64) (min (2047 * 64) v)

/-- A beam's phase offsets and verify delay at its head's frame 0 (R100, R102, R107). -/
def State.beamPhase (s : State) (b : Beam) : State :=
  let h := beamHead b
  let n := s.headBand h
  let zr := (s.reg (Reg.ACQ_ZRATIO ((s.reg (Reg.ACQ_HZONE h)).toNat % 20))).toNat
  let a := s.acq
  let d := s.reg (Reg.ACQ_SKEW_D b)
  let v := s.reg (Reg.ACQ_SKEW_V b)
  let s := { s with acq := { a with skewD := a.skewD.set b d, skewV := a.skewV.set b v } }
  let dn := signed 17 d.toNat
  let vn := signed 17 v.toNat
  let pd := skewBits dn n zr
  let pv := skewBits vn n zr
  let bad := decide (clampPhase pd ≠ pd) || decide (clampPhase pv ≠ pv)
  let s := ((s.setInt (Reg.ACQ_PHOFS_D b) (clampPhase pd)).setInt (Reg.ACQ_PHOFS_V b) (clampPhase pv)).setInt (Reg.ACQ_VDLY b)
    (skewBits (vn - dn) n zr)
  let s := s.put ⟨Reg.ACQ_SKEW_STAT, b.val, 1⟩ bad
  if bad then s.put F.ACQ_STAT_SKEWERR true else s

/-- The pending zone is applied (R99). -/
def State.zoneApply (s : State) (h : Head) : State :=
  if s.flag (F.ACQ_PLL_STAT_ZPEND h) then
    let s := (s.put (F.ACQ_PLL_STAT_ZPEND h) false).setReg (Reg.ACQ_HZONE h) (BitVec.ofNat 32 s.acq.zpend[h])
    if s.locked h then s.put (F.ACQ_PLL_STAT_RATEERR h) (s.rateOver h) else s
  else s

/-- The five channels of a head. -/
def headChan (h : Head) (e : Fin 5) : Chan := ⟨5 * h.val + e.val, by omega⟩

/-- A gate of the head is open, or a read step or off level is in force on it (R166). -/
def State.apcBusy (s : State) (h : Head) : Bool :=
  (List.range 4).any (fun d => (s.wrp.beams[headBeam h d]).gate.isSome) ||
  (List.finRange 5).any (fun e => decide (s.rd (F.LDD_CTRL_RLVL (headChan h e)) ≠ 0))

/-- The APC loop of a head at its frame 0 (R166): one step of 1/256 toward the target, from 205/256 to 320/256. -/
def State.apcUpdate (s : State) (h : Head) (monitor : Nat) : State :=
  let c := sChan h
  let hold := s.wrp.apcHold[h]
  let s := { s with wrp := { s.wrp with apcHold := s.wrp.apcHold.set h (s.apcBusy h) } }
  if s.flag (F.LDD_CTRL_APC_EN c) && !hold then
    let f := s.rd (F.LDD_SCALE_APC c)
    let t := s.rd (F.LDD_APC_TARGET c)
    let want := if monitor < t then f + 1 else if monitor > t then f - 1 else f
    let f' := max 205 (min 320 want)
    let s := forEach (List.finRange 5) (fun e s => s.wr (F.LDD_SCALE_APC (headChan h e)) f') s
    if f' ≠ want then s.put (F.LDD_STAT_APCLIM c) true else s
  else s

/-- FRAME_ZERO: a head's frame 0 (R59, R74, R99, R100, R152, R153, R166): the expected band advances, a pending zone and new skews
come into force, and what runs once a revolution runs; `monitor` is the monitor photocurrent. -/
def execFrameZero (h : Head) (monitor : Nat) (s : State) : Host.Outcome State Fault Refusal :=
  let s := s.wr (F.ANG_HPOS_BAND h) (unsigned 16 (s.headBand h + 1))
  let s := s.zoneApply h
  let s := if s.refHead = h then { s with ang := { s.ang with spr := (s.reg Reg.ANG_SRV_SPR).toNat } } else s
  let s := forEach (List.range 4) (fun d s => s.beamPhase (headBeam h d)) s
  let s := (s.apcUpdate h monitor).lsvFrameZero h
  .next ((s.retryFrameZero h).retryOrders h)

end Sys2Proof.Machine
end

