-- ==== Sys2Proof/Machine/Acq.lean ====
section
/-! DEFINITION. The sled encoders (R78 to R81), the slices of the fast ADCs (R90, R91), automatic gain control (R87) and the
refused writes of ACQ (R89, R102, R106). -/

namespace Sys2Proof.Machine

/-! ## Encoders -/

/-- The count of a transition of the lines AB, none when it is illegal (R78). -/
def quadStep (old new : BitVec 2) : Option Int :=
  let pos (ab : BitVec 2) : Nat := [0, 1, 3, 2].getD ab.toNat 0
  match (pos new + 4 - pos old) % 4 with
  | 0 => some 0
  | 1 => some 1
  | 3 => some (-1)
  | _ => none

/-- ENCODER_TRANSITION: the filtered lines of a sled's encoder read `ab` (R78, R79, R81). While EN = 0 the lines last decoded stay, and
the first transition after it is decoded against them. DEDUCED (log entry 53). -/
def execEncoderTransition (sl : Sled) (ab : BitVec 2) (s : State) : Host.Outcome State Fault Refusal :=
  if s.flag (F.ANG_ENC_CTRL_EN sl) then
    let old := s.ang.encAB[sl]
    let s := { s with ang := { s.ang with encAB := s.ang.encAB.set sl ab } }
    match quadStep old ab with
    | some d =>
      let d := if s.flag (F.ANG_ENC_CTRL_DIR sl) then -d else d
      .next (s.setInt (Reg.ANG_ENC_CNT sl) (s.int (Reg.ANG_ENC_CNT sl) + d))
    | none =>
      let n := (s.reg (Reg.ANG_ENC_ERR sl)).toNat
      .next ((s.setReg (Reg.ANG_ENC_ERR sl) (BitVec.ofNat 32 (min 0xFFFF (n + 1)))).put (F.ANG_ENC_STAT_UNCERTAIN sl) true)
  else .next s

/-- INDEX_EDGE: a rising index edge loads the count, whether or not UNCERTAIN is set, and clears UNCERTAIN (R80).
DEDUCED (log entry 53). -/
def execIndexEdge (sl : Sled) (s : State) : Host.Outcome State Fault Refusal :=
  if s.flag (F.ANG_ENC_CTRL_EN sl) then
    .next ((s.setReg (Reg.ANG_ENC_CNT sl) (s.reg (Reg.ANG_ENC_IDX sl))).put (F.ANG_ENC_STAT_UNCERTAIN sl) false)
  else .next s

/-! ## Slices -/

/-- Change a fast ADC's structure. -/
def State.modAdc (s : State) (a : Fin 36) (f : Adc → Adc) : State :=
  { s with acq := { s.acq with adcs := s.acq.adcs.set a (f s.acq.adcs[a]) } }

/-- The converter of an input samples: the data converters of a beam whose DET stands in VERIFY are stopped (R16), and an input that is
not enabled is not converted (R106). -/
def State.adcRuns (s : State) (i : Fin 52) : Bool :=
  let k := i.val % 13
  s.converts i && !(decide (5 ≤ k) && decide (k < 9) && decide (s.rd (F.DET_STAT_MODE (4 * (i.val / 13) + (k - 5))) = 2))

/-- Fast ADC `a` samples: that of input 13 h + 4 + (a mod 9) (R85). -/
def State.fastRuns (s : State) (a : Fin 36) : Bool := s.adcRuns ⟨13 * (a.val / 9) + 4 + a.val % 9, by omega⟩

/-- SLICE_SHADOW_END: the spare compared 8,192 conversions with the slice it shadows, with mean absolute difference `mad`
(R90): above the threshold the slice is suspect, and twice in a row it is reported to AXL; the shadow moves on, and the refinement has
moved the trims (R89, R90). With the spare in use nothing is shadowed: figures above the threshold are a further slice fault, which is
reported as unrepaired and ends a task with 0x42 (R91, R477). A converter that is stopped converts nothing to compare (R16).
DESIGN CHOICE (log entry 54). -/
def execSliceShadowEnd (a : Fin 36) (mad : Nat) (s : State) : Host.Outcome State Fault Refusal :=
  if !s.fastRuns a then .next s
  else if s.flag (F.ACQ_ADC_MAP_SPARE a) then
    .next (if mad > s.rd F.ACQ_SLICE_CTRL_THR then (s.axlAsk 0x3F a.val (s.acq.adcs[a]).shadow.val 0x2).taskError 0x42 else s)
  else
    let s := { s with acq := { s.acq with refined := true, trims := [] } }
    let c := s.acq.adcs[a]
    let k := c.shadow
    let bit : BitVec 8 := BitVec.ofNat 8 (2 ^ k.val)
    let bad := decide (mad > s.rd F.ACQ_SLICE_CTRL_THR)
    let again := bad && c.suspect.getLsbD k.val
    let s := s.modAdc a (fun c => { c with shadow := Fin.ofNat 8 (k.val + 1), suspect := if bad then c.suspect ||| bit else c.suspect &&& ~~~bit })
    let s := if bad then s.setReg (Reg.ACQ_ADC_HLTH a) (s.reg (Reg.ACQ_ADC_HLTH a) ||| BitVec.ofNat 32 (2 ^ k.val)) else s
    .next (if again then s.axlAsk 0x04 a.val k.val 0x2 else s)

/-- SLICE_SWAP: a swap AXL granted takes effect (R91). -/
def execSliceSwap (a : Fin 36) (s : State) : Host.Outcome State Fault Refusal :=
  match (s.acq.adcs[a]).granted with
  | none => .next s
  | some k =>
    let s := s.modAdc a (fun c => { c with granted := none })
    let s := s.wr (F.ACQ_ADC_MAP_MAP a) (s.rd (F.ACQ_ADC_MAP_MAP a) ||| 2 ^ k.val)
    .next ((s.put (F.ACQ_ADC_MAP_SPARE a) true).bump Reg.ACQ_SWAP_CNT)

/-! ## Gain -/

/-- The highest gain code of an input (R106). -/
def gainMax (i : Fin 52) : Nat := let k := i.val % 13; if k < 4 then 3 else if k < 9 then 48 else 60

/-- DET flags a defect on the beam of an RF input (R87): k = 5 to 8 are the data inputs, 9 to 12 the verify inputs (R85). -/
def State.agcFrozen (s : State) (i : Fin 52) : Bool :=
  let k := i.val % 13
  decide (5 ≤ k) && s.acq.defect[(Fin.ofNat 16 (4 * (i.val / 13) + (k - 5) % 4) : Beam)]

/-- AGC_STEP: after 1,024 samples with an envelope of `p2p` converter steps of 256, the gain moves by one code toward 75 % of
full scale, unless DET flags a defect on the beam (R87). DESIGN CHOICE (log entry 21). -/
def execAgcStep (i : Fin 52) (p2p : Nat) (s : State) : Host.Outcome State Fault Refusal :=
  if s.flag (F.ACQ_IN_CTRL_AGC i) && decide (4 ≤ i.val % 13) && !s.agcFrozen i && s.adcRuns i then
    let g := s.rd (F.ACQ_IN_CTRL_GAIN i)
    .next (s.wr (F.ACQ_IN_CTRL_GAIN i) (if p2p < 192 then min (gainMax i) (g + 1) else if p2p > 192 then g - 1 else g))
  else .next s

/-! ## Refused writes -/

/-- A write of `ACQ_IN_CTRL` (R106). -/
def State.inCtrlWrite (s : State) (i : Fin 52) (v : Word) : State :=
  if (F.ACQ_IN_CTRL_GAIN i).of v > gainMax i then s.put F.ACQ_STAT_CFGERR true
  else s.setReg (Reg.ACQ_IN_CTRL i) (v &&& 0xFFFD)

/-- A write of a skew (R102): `hi` is the upper limit in nm. -/
def State.skewWrite (s : State) (a : Nat) (hi : Int) (v : Word) : State :=
  let nm := signed 17 v.toNat
  if nm < -40000 ∨ hi < nm then s.put F.ACQ_STAT_CFGERR true else s.setReg a (v &&& 0x1FFFF)

/-- A write of the slice trim window (R89): the trim that SEL names. -/
def State.sliceWrite (s : State) (v : Word) : State :=
  { s with acq := { s.acq with trims := Sparse.set (~~~v) s.acq.trims (s.reg Reg.ACQ_SLICE_SEL).toNat v } }

/-- A write of `ANG_SRV_SPR` (R74). -/
def State.sprWrite (s : State) (v : Word) : State :=
  if 4096 ≤ v.toNat ∧ v.toNat ≤ 20000 then s.setReg Reg.ANG_SRV_SPR v else s.put F.ANG_STAT_CFGERR true

end Sys2Proof.Machine
end

