-- ==== Sys2Proof/Machine/Lbs.lean ====
section
/-! DEFINITION. The library bus (R484 to R500): frames, the receive ring and its verdicts, messages and their tags, the load and
unload handshakes, reports; with its commands. A frame is its bytes from the destination address to the FCS. -/

namespace Sys2Proof.Machine

/-! ## Frames -/

/-- The module's own address, and a peer's (R499). -/
def State.lbsMac (s : State) : Nat := s.rd F.LBS_MAC_HI_MAC * 2 ^ 32 + (s.reg Reg.LBS_MAC_LO).toNat
def State.peerMac (s : State) (p : Nat) : Nat := s.rd (F.LBS_PEER_MAC_HI_MAC p) * 2 ^ 32 + (s.reg (Reg.LBS_PEER_MAC_LO p)).toNat

/-- Enabled peers of a role: 0 robot, 1 controller, 2 partner (R494). -/
def State.peers (s : State) (role : Nat) : List (Fin 8) :=
  (List.finRange 8).filter (fun p => s.flag (F.LBS_PEER_MAC_HI_EN p) && decide (s.rd (F.LBS_PEER_MAC_HI_ROLE p) = role))

/-- The peer a source address names, the lower one of two (R498). -/
def State.peerOf (s : State) (src : Nat) : Option (Fin 8) :=
  (List.finRange 8).find? (fun p => s.flag (F.LBS_PEER_MAC_HI_EN p) && decide (s.peerMac p = src))

/-- The frame check sequence: the CRC-32 of R51, least significant byte first. -/
def fcs (bs : List Byte) : List Byte := (beBytes 4 (crc32 bs)).reverse

/-- A frame is put on the bus: counted, and on the line as sent (R493, R497). -/
def State.lbsTransmit (s : State) (body : List Byte) : State :=
  let bs := body ++ List.replicate (60 - body.length) 0
  let f := bs ++ fcs bs
  let l := s.lbs
  let s := { s with lbs := { l with frame := some f, tries := 1, line := l.line ++ [f] } }
  (s.bump Reg.LBS_TX_CNT).wr F.LBS_TX_STAT_OUTCOME 1

/-- The transmit counter moves on (R493). -/
def State.nextCtr (s : State) : Nat × State :=
  let n := (s.pair Reg.LBS_TX_CTR_LO + 1) % 2 ^ 64
  (n, s.setPair Reg.LBS_TX_CTR_LO n)

/-- The tag of a message (R490), none while the library key slot is empty. -/
def State.lbsTag (s : State) (src dst : List Byte) (msg : List Byte) : Option (List Byte) :=
  (s.cph.slots[(Fin.ofNat 8 (s.rd F.LBS_AUTH_CFG_SLOT) : Fin 8)]).map (fun k =>
    (toBytes (Aes.cmac (toNats (subkey k.key 2)) (toNats (src ++ dst ++ msg)))).take 8)

/-- Send a message to a peer (R489 to R494): the counter it carried, 0 when no key could tag it. -/
def State.lbsMessage (s : State) (p : Fin 8) (typ : Nat) (body : List Byte) : Nat × State :=
  let src := beBytes 6 s.lbsMac
  let dst := beBytes 6 (s.peerMac p)
  let (n, s') := s.nextCtr
  let msg := [1, BitVec.ofNat 8 typ] ++ beBytes 2 body.length ++ beBytes 8 n ++ beBytes 2 (s.rd F.LBS_ETYPE_DRIVE) ++ [0, 0] ++ body
  match s.lbsTag src dst msg with
  | some t => (n, s'.lbsTransmit (dst ++ src ++ beBytes 2 (s.rd F.LBS_ETYPE_ETYPE) ++ msg ++ t))
  | none => (0, s)

/-- What a peer of a role may send the module (R494): the robot its replies and ABORT, a partner PAIR_NOTICE, and each ACK. -/
def mayType (role typ : Nat) : Bool :=
  typ = 5 || (role = 0 && (typ = 2 || typ = 4 || typ = 6)) || (role = 2 && typ = 0x20)

/-- The checks of a received message, in order (R492): the reason of the first that fails, 0 when none does. -/
def State.lbsJudge (s : State) (x : RxEntry) : Nat :=
  let b := x.bytes
  let len := beAt b 16 2
  match s.peerOf (beAt b 6 6) with
  | none => 1
  | some p =>
    match s.lbsTag (bytesAt b 6 6) (bytesAt b 0 6) (bytesAt b 14 (16 + len)) with
    | none => 2
    | some t =>
      if beAt b 14 1 ≠ 1 ∨ 240 < len ∨ b.length < 42 + len ∨ beAt b 26 2 ≠ s.rd F.LBS_ETYPE_DRIVE then 3
      else if t ≠ bytesAt b (30 + len) 8 then 4
      else if beAt b 18 8 ≤ s.pair (Reg.LBS_PEER_CTR_LO p) then 5
      else if !mayType (s.rd (F.LBS_PEER_MAC_HI_ROLE p)) (beAt b 15 1) then 6
      else 0

/-- Send a message to a peer, its counter not kept. -/
def State.lbsTell (s : State) (p : Fin 8) (typ : Nat) (body : List Byte) : State := (s.lbsMessage p typ body).2

/-! ## The receive ring (R488, R491, R492) -/

/-- Change a ring entry. -/
def State.modRx (s : State) (e : Fin 8) (f : RxEntry → RxEntry) : State :=
  { s with lbs := { s.lbs with ring := s.lbs.ring.set e (f s.lbs.ring[e]) } }

/-- NOISY sets, and ATTENTION for LBS is sent at most once per minute (R497). -/
def State.noisy (s : State) : State :=
  let s := s.put F.LBS_STAT_NOISY true
  let quiet := match s.lbs.noisyAt with
    | some t => decide (s.cycles < t + 48000000000)
    | none => false
  if quiet then s else ({ s with lbs := { s.lbs with noisyAt := some s.cycles } }).attention 19

/-- The times of a list that lie within the last second, and now. -/
def State.lastSecond (s : State) (ts : List Nat) : List Nat := ts.filter (fun t => decide (s.cycles < t + 800000000)) ++ [s.cycles]

/-- A stranger (R492): counted, its source address and reason held; STRMAX of them within a second are noise (R497). -/
def State.stranger (s : State) (src reason : Nat) : State :=
  let s := ((s.bump Reg.LBS_STR_CNT).setPair Reg.LBS_STR_LAST_LO (src + reason * 2 ^ 60)).clock
  let ts := s.lastSecond s.lbs.strAt
  let s := { s with lbs := { s.lbs with strAt := ts } }
  if s.rd F.LBS_STR_CFG_STRMAX ≤ ts.length then s.noisy else s

/-- A symbol error, false carrier or FCS error: counted; SYMMAX of them within a second are noise (R497). -/
def State.symbolError (s : State) : State :=
  let s := (s.bump Reg.LBS_SYM_CNT).clock
  let ts := s.lastSecond s.lbs.symAt
  let s := { s with lbs := { s.lbs with symAt := ts } }
  if s.rd F.LBS_STR_CFG_SYMMAX ≤ ts.length then s.noisy else s

/-- FRAME_RECEIVE: a frame arrives (R488, R491, R497). -/
def execFrameReceive (bytes : List Byte) (s : State) : Host.Outcome State Fault Refusal :=
  let n := bytes.length - 4
  if bytes.length < 64 ∨ bytes.drop n ≠ fcs (bytes.take n) then .next s.symbolError
  else if beAt bytes 0 6 ≠ s.lbsMac ∨ beAt bytes 12 2 ≠ s.rd F.LBS_ETYPE_ETYPE then .next (s.bump Reg.LBS_OTHER_CNT)
  else if bytes.length > 512 then .next (s.stranger (beAt bytes 6 6) 3)
  else
    let e : Fin 8 := Fin.ofNat 8 (s.reg Reg.LBS_RX_HEAD).toNat
    if (s.lbs.ring[e]).state = 1 then .next (s.bump Reg.LBS_RXOVF_CNT)
    else
      let s := s.modRx e (fun _ => { state := 1, bytes := bytes, peer := (s.peerOf (beAt bytes 6 6)).getD 0 })
      let s := (s.setReg Reg.LBS_RX_HEAD (BitVec.ofNat 32 ((e.val + 1) % 8))).bump Reg.LBS_RX_CNT
      .next (s.event Ev.lbsMsg)

/-- The tail moves over entries freed. -/
def State.rxTail : Nat → State → State
  | 0, s => s
  | fuel + 1, s =>
    let t : Fin 8 := Fin.ofNat 8 (s.reg Reg.LBS_RX_TAIL).toNat
    if t.val = (s.reg Reg.LBS_RX_HEAD).toNat ∨ (s.lbs.ring[t]).state = 1 then s
    else State.rxTail fuel (s.setReg Reg.LBS_RX_TAIL (BitVec.ofNat 32 ((t.val + 1) % 8)))

/-- Acknowledge the message of an entry (R494). -/
def State.ackMsg (s : State) (e : Fin 8) (status : Nat) : State :=
  s.lbsTell (s.lbs.ring[e]).peer 5 (bytesAt (s.lbs.ring[e]).bytes 18 8 ++ beBytes 1 status)

/-- A message is accepted (R493): its CTR is the last accepted of its peer. A PAIR_NOTICE is acknowledged at once; every other waits for
the command that acts on it (R494). -/
def State.rxAccept (s : State) (e : Fin 8) : State :=
  let x := s.lbs.ring[e]
  let s := s.setPair (Reg.LBS_PEER_CTR_LO x.peer) (beAt x.bytes 18 8)
  if beAt x.bytes 15 1 = 0x20 then (s.ackMsg e 0).modRx e (fun x => { x with state := 0 })
  else s.modRx e (fun x => { x with state := 2 })

/-- A write of `LBS_RX_VERDICT`: only SEQ writes it; the verdict frees the entry (R491 to R493). A message that fails a check of R492 is
a stranger for that reason; one that passes them all is what the verdict says. DEDUCED (log entry 34). -/
def State.rxVerdict (s : State) (m : Master) (v : Word) : State :=
  if m ≠ .seq then s
  else
    let s := s.setReg Reg.LBS_RX_VERDICT (v &&& 0xF7)
    let e : Fin 8 := Fin.ofNat 8 (F.LBS_RX_VERDICT_ENTRY.of v)
    let x := s.lbs.ring[e]
    if x.state ≠ 1 then s
    else
      let j := s.lbsJudge x
      let r := if j = 0 then F.LBS_RX_VERDICT_VERDICT.of v else j
      let s := if r = 0 then s.rxAccept e
        else (s.stranger (beAt x.bytes 6 6) r).modRx e (fun x => { x with state := 0 })
      State.rxTail 8 s

/-- LBS_RX_VERDICT. -/
def execLbsRxVerdict (m : Master) (v : Word) (s : State) : Host.Outcome State Fault Refusal := .next (s.rxVerdict m v)

/-- A write of `LBS_TX_CMD`: only SEQ writes it (R491); SEND transmits the frame in the window. -/
def State.lbsSendCmd (s : State) (m : Master) (v : Word) : State :=
  if m = .seq ∧ F.LBS_TX_CMD_SEND.of v = 1 then
    (s.nextCtr.2).lbsTransmit ((List.range (F.LBS_TX_CMD_LEN.of v)).map (fun i => Sparse.get 0 s.lbs.win i))
  else s

/-- SEND. -/
def execLbsSend (m : Master) (v : Word) (s : State) : Host.Outcome State Fault Refusal := .next (s.lbsSendCmd m v)

/-- COLLISION: the frame is counted and retried, and dropped after 16 attempts (R497). DEDUCED (log entry 34). -/
def execCollision (s : State) : Host.Outcome State Fault Refusal :=
  match s.lbs.frame with
  | none => .next s
  | some f =>
    let s := s.bump Reg.LBS_COL_CNT
    let l := s.lbs
    if l.tries ≥ 16 then
      .next ((({ s with lbs := { l with frame := none, tries := 0 } }).bump Reg.LBS_EXCOL_CNT).wr F.LBS_TX_STAT_OUTCOME 2)
    else .next { s with lbs := { l with tries := l.tries + 1, line := l.line ++ [f] } }

/-! ## Handshakes (R495) -/


/-- Send the handshake's request to the lowest-numbered enabled robot: LOAD_REQ for a load, UNLOAD_REQ for an unload.
DEDUCED (log entry 34). -/
def State.sendReq (s : State) : State :=
  let body := if s.lbs.hs = 2 then beBytes 2 (s.reg Reg.SPN_PARK).toNat else []
  let (n, s) := match s.peers 0 with
    | p :: _ => s.lbsMessage p (if s.lbs.hs = 2 then 3 else 1) body
    | [] => (0, s)
  { s with lbs := { s.lbs with req := n, sent := s.lbs.sent + 1 } }

/-- A handshake starts: 1 = load, 2 = unload. -/
def State.hsStart (s : State) (k : Nat) : State := (({ s with lbs := { s.lbs with sent := 0 } }).setHs k).sendReq


/-- A handshake fails (R495 step 4): the task ends with 0x52. -/
def State.hsFail (s : State) : State :=
  let k := s.lbs.hs
  if k = 0 ∨ k > 4 then s
  else ((s.bump Reg.LBS_HS_FAIL_CNT).setHs 0).taskError 0x52 none (if k % 2 = 1 then 0x0100 else 0x0101)

/-- The accepted message in a ring entry, when it has the type; acting on it clears the entry. -/
def State.accepted (s : State) (e : Fin 8) (typ : Nat) : Bool :=
  decide ((s.lbs.ring[e]).state = 2) && decide (beAt (s.lbs.ring[e]).bytes 15 1 = typ)

/-- The body of an entry's message. -/
def State.rxBody (s : State) (e : Fin 8) (i k : Nat) : Nat := beAt (s.lbs.ring[e]).bytes (30 + i) k

/-- The disc has left the drive, or none is loaded (R325, R466). -/
def State.discGone (s : State) : State :=
  let d := s.disc
  let s := { s with disc := { loads := d.loads } }
  ((s.put F.TSK_DISC_LOADED false).put F.TSK_DISC_CATALOGUED false).mirrDisc

/-- A reply of the robot: `want` is the handshake state that awaits it, `done` the state it leads to. -/
def State.robotReply (s : State) (e : Fin 8) (typ want done : Nat) (effect : State → State) : State :=
  if s.accepted e typ then
    let s' := s.modRx e (fun x => { x with state := 0 })
    if !s.owned then s'.ackMsg e 1
    else if s.lbs.hs = want then
      let s' := s'.ackMsg e 0
      if s.rxBody e 0 1 = 0 then effect (s'.setHs done) else s'.hsFail
    else s'.ackMsg e (if s.lbs.hs = done then 0 else 2)
  else s

/-- LOAD_DONE and UNLOAD_DONE: the robot's accepted reply in ring entry `e` (R494, R495). -/
def execLoadDone (e : Fin 8) (s : State) : Host.Outcome State Fault Refusal := .next (s.robotReply e 2 3 5 id)
def execUnloadDone (e : Fin 8) (s : State) : Host.Outcome State Fault Refusal := .next (s.robotReply e 4 4 6 State.discGone)

/-- ACK: an accepted acknowledgement (R494 to R496). -/
def execLbsAck (e : Fin 8) (s : State) : Host.Outcome State Fault Refusal :=
  if s.accepted e 5 then
    let n := s.rxBody e 0 8
    let l := s.lbs
    let s' := ({ s with lbs := { l with reports := l.reports.erase n } }).modRx e (fun x => { x with state := 0 })
    .next (if (l.hs = 1 ∨ l.hs = 2) ∧ n = l.req ∧ s.rxBody e 8 1 = 0 then s'.setHs (l.hs + 2) else s')
  else .next s

/-- ABORT: an accepted abort of the robot fails the handshake (R495); without one it is unexpected. -/
def execLbsAbort (e : Fin 8) (s : State) : Host.Outcome State Fault Refusal :=
  if s.accepted e 6 then
    .next (((s.modRx e (fun x => { x with state := 0 })).ackMsg e (if s.lbs.hs = 0 ∨ s.lbs.hs > 4 then 2 else 0)).hsFail)
  else .next s

/-- ACKTO_EXPIRY: the request is resent, or the handshake fails (R495 steps 1 and 4). DEDUCED (log entry 34). -/
def execAcktoExpiry (s : State) : Host.Outcome State Fault Refusal :=
  if s.lbs.hs = 1 ∨ s.lbs.hs = 2 then
    .next (if s.lbs.sent ≤ s.rd F.LBS_HS_CFG_RETRY then s.sendReq else s.hsFail)
  else .next s

/-- DONETO_EXPIRY: no reply in time (R495 step 4). -/
def execDonetoExpiry (s : State) : Host.Outcome State Fault Refusal :=
  if s.lbs.hs = 3 ∨ s.lbs.hs = 4 then .next s.hsFail else .next s

/-! ## Reports (R494, R496) -/

/-- Send a report to the peers given; each awaits its acknowledgement. -/
def State.report (s : State) (ps : List (Fin 8)) (typ : Nat) (body : List Byte) : State :=
  ps.foldl (fun s p =>
    let (n, s) := s.lbsMessage p typ body
    if n = 0 then s else { s with lbs := { s.lbs with reports := s.lbs.reports ++ [n] } }) s

/-- The spindle speed in whole rpm. -/
def State.spnRpmWord (s : State) : Nat := unsigned 16 (s.int Reg.SPN_SPEED / 65536)

/-- ENV_REPORT: reports never acknowledged are counted, and a new one goes to each controller. DEDUCED (log entry 34). -/
def execEnvReport (s : State) : Host.Outcome State Fault Refusal :=
  if s.rd F.LBS_ENV_CFG_PER = 0 then .next s
  else
    let s := s.bumpBy Reg.LBS_TXDROP_CNT s.lbs.reports.length
    let s := { s with lbs := { s.lbs with reports := [] } }
    let w (a : Nat) : List Byte := beBytes 2 (s.reg a).toNat
    .next (s.report (s.peers 1) 0x10
      (w Reg.PWR_TEMP_DIE ++ w Reg.BKP_TEMP ++ w Reg.PWR_VIN12 ++ w Reg.PWR_V3P3 ++ w Reg.PWR_PIN
        ++ beBytes 2 s.spnRpmWord ++ beBytes 1 (s.rd F.TSK_STATE_STATE) ++ beBytes 1 (s.rd F.MIR_STAT_RED)
        ++ beBytes 1 (s.flag F.TSK_DISC_LOADED).toNat ++ beBytes 1 (s.reg Reg.BKP_ALARM).toNat))

/-- PAIR_NOTICE: to each controller and partner, at a change of ROLE or RED (R496). -/
def State.pairNotice (s : State) : State :=
  s.report (s.peers 1 ++ s.peers 2) 0x20
    (beBytes 1 (s.rd F.MIR_STAT_ROLE) ++ beBytes 1 (s.rd F.MIR_STAT_RED) ++ beBytes 1 (s.rd F.MIR_STAT_SIDE)
      ++ beBytes 1 (Nat.log2 (s.reg Reg.MIR_REL_CAUSE).toNat))

/-! ## PLCA -/

/-- BEACON_LOSS: a follower's PLCA status becomes inactive (R486). -/
def execBeaconLoss (s : State) : Host.Outcome State Fault Refusal :=
  if s.flag F.LBS_PLCA_CFG_EN && decide (s.rd F.LBS_PLCA_CFG_NODE_ID ≠ 0) && s.flag F.LBS_PLCA_STAT_ACTIVE then
    .next (((s.put F.LBS_PLCA_STAT_ACTIVE false).put F.LBS_PHY_STAT_PLCA false).bump Reg.LBS_BCN_CNT)
  else .next s

/-- BEACON_RETURN: the next BEACON (R486). -/
def execBeaconReturn (s : State) : Host.Outcome State Fault Refusal :=
  if s.flag F.LBS_PLCA_CFG_EN && decide (s.rd F.LBS_PLCA_CFG_NODE_ID ≠ 0) then
    .next ((s.put F.LBS_PLCA_STAT_ACTIVE true).put F.LBS_PHY_STAT_PLCA true)
  else .next s

/-! ## Refused writes (R487, R500) -/

/-- A refused write of the block. -/
def State.lbsCfgErr (s : State) : State := s.put F.LBS_STAT_CFGERR true

/-- What a write of `LBS_PLCA_CFG`, `LBS_AUTH_CFG` or `LBS_HS_CFG` may hold. -/
def plcaOk (v : Word) : Bool :=
  !(v.getLsbD 31 && decide (v.toNat % 256 = 0xFF)) && decide (v.toNat / 256 % 256 ≠ 0) && decide (v.toNat / 2 ^ 16 % 256 ≠ 0)
def authOk (v : Word) : Bool := let b := v.toNat / 2 ^ 16 % 2 ^ 14; 13328 ≤ b && b ≤ 16319
def hsOk (v : Word) : Bool := decide (v.toNat / 2 ^ 16 ≠ 0) && decide (v.toNat % 256 ≠ 0)

end Sys2Proof.Machine
end

