-- ==== Sys2Proof/Machine/Mir.lean ====
section
/-! DEFINITION. MIR (R458 to R474): ownership, the pair supervisor, mirror records sent and applied, takeover and handover; with
its commands. -/

namespace Sys2Proof.Machine

/-- Change MIR's structure. -/
def State.modMir (s : State) (f : Mir → Mir) : State := { s with mir := f s.mir }

/-! ## Role and redundancy -/

/-- A bit of the partner's last STATUS (R464). -/
def State.partner (s : State) (k : Nat) : Bool := (s.reg Reg.MIR_PART_STAT).getLsbD k

/-- The redundancy of R469. -/
def State.redNow (s : State) : Nat :=
  if !s.flag F.MIR_CTRL_PAIR then 0
  else if !s.flag F.MIR_STAT_HBOK || !s.partner 4 || decide ((s.reg Reg.MIR_PART_STAT).toNat % 4 = 3) then 3
  else if s.flag F.MIR_STAT_DEG || s.partner 6 then 2
  else 1

/-- Take a new redundancy into `MIR_STAT.RED` (R469): MIR_STATE, a PAIR_NOTICE, and ATTENTION on entering LOST. -/
def State.redUpdate (s : State) : State :=
  let r := s.redNow
  if r = s.rd F.MIR_STAT_RED then s
  else
    let s := ((s.wr F.MIR_STAT_RED r).event Ev.mirState).pairNotice
    if r = 3 then s.attention 20 else s

/-- Take a new role (R463): a PAIR_NOTICE at a change (R496), and mirroring as the role has it. -/
def State.setRole (s : State) (r : Nat) : State :=
  if s.rd F.MIR_STAT_ROLE = r then s else ((s.modMir (fun m => { m with quiet := false })).wr F.MIR_STAT_ROLE r).pairNotice

/-- The mirror becomes degraded (R468). -/
def State.degrade (s : State) : State :=
  let s := s.modMir (fun m => { m with clean := 0 })
  if s.flag F.MIR_STAT_DEG then s else ((s.put F.MIR_STAT_DEG true).bump Reg.MIR_DEG_CNT).redUpdate

/-! ## Ownership (R460) -/

/-- Ownership is gained: with a valid speed estimate the spindle is in RUN from there (R267), but for a FAULT whose causes are not
cleared, and a stage enable that is off faults it at once (R266). -/
def State.ownGained (s : State) : State :=
  let s := (s.setRole 1).event Ev.ownChange
  if s.flag F.SPN_STAT_SPDVALID && decide (0 < s.int Reg.SPN_SPEED) && decide (s.spnState ≠ 9) then
    if s.stageOn then s.spnRun else s.spnRun.spnFault .enl []
  else s

/-- Ownership is lost: the output stages turn off, and the spindle faults with ENL (R266). In a handover the task goes on and the module
becomes STANDBY; else a running task ends with 0x60 and the module is OUT (R338, R460, R463, R473). -/
def State.ownLost (s : State) : State :=
  let s := s.event Ev.ownChange
  if s.mir.giving then
    let s := (List.finRange 6).foldl State.deenergise s.dropGates
    (if s.spnFaultable .enl && decide (s.spnState ≠ 9) then s.spnFails .enl [] else s).setRole 2
  else ((s.taskError 0x60).stagesOff).setRole 3

/-- OWNERSHIP_CHANGE: a sensed line level changes (R460, R462, R463). DEDUCED (log entry 32). -/
def execOwnershipChange (ownLine partLine : Bool) (s : State) : Host.Outcome State Fault Refusal :=
  let was := s.owned
  let clash := ownLine && partLine && !(s.flag F.MIR_STAT_OWNSELF && s.flag F.MIR_STAT_OWNPART)
  let now := ownLine && !partLine
  let s := (s.put F.MIR_STAT_OWNSELF ownLine).put F.MIR_STAT_OWNPART partLine
  let s := s.put F.MIR_STAT_OWNED now
  let s := if clash then s.bump Reg.MIR_CLASH_CNT else s
  let s := if now && !was then s.ownGained else if was && !now then s.ownLost else s
  let s := if clash && s.flag F.MIR_STAT_SIDE then
      let s := s.modMir (fun m => { m with pulse := false })
      if was || decide (s.rd F.MIR_STAT_ROLE = 3) then s else s.setRole 2
    else s
  .next ((if partLine && !ownLine && decide (s.rd F.MIR_STAT_ROLE = 0) then s.setRole 2 else s).redUpdate)

/-! ## The pair supervisor (R461) -/

/-- The row of R461 a cause names, and whether it can fail in this state. -/
def supBit : SupCause → Nat
  | .copies => 0
  | .outputs => 1
  | .lanes => 2
  | .dfault => 3
  | .release => 4
def State.supFails (s : State) : SupCause → Bool
  | .copies => true
  | .outputs => s.flag F.SRV_CTRL_EN
  | .lanes => decide (s.rd F.SRV_LANES_ACTIVE = 0)
  | .dfault => s.flag F.SEQ_STAT_DFAULT
  | .release => !s.flag F.MIR_CTRL_EN || s.mir.giving

/-- SUPERVISOR_RELEASE: a condition fails; an owner stops its pulses (R461). -/
def execSupervisorRelease (cause : SupCause) (s : State) : Host.Outcome State Fault Refusal :=
  if s.supFails cause then
    let s := s.modMir (fun m => { m with copies := m.copies && decide (cause ≠ .copies), timely := m.timely && decide (cause ≠ .outputs) })
    let s := if cause = .copies then s.bump Reg.MIR_SUPFAIL_CNT else s
    if s.mir.pulse then
      .next (((s.modMir (fun m => { m with pulse := false, quiet := true })).setReg Reg.MIR_REL_CAUSE (BitVec.ofNat 32 (2 ^ supBit cause))).bump Reg.MIR_REL_CNT)
    else .next s
  else .next s

/-! ## Sample records (R465) -/

/-- The first `n` states of a group in a record: 0 where the state is no integrator or the group is OFF. -/
def State.integrators (s : State) (g : Group) (n : Nat) : List Byte :=
  (List.range n).flatMap (fun i =>
    beBytes 4 (if (s.group g).mode ≠ 0 && (s.imask g).testBit i then unsigned 32 ((s.group g).x.getD i 0) else 0))

/-- The velocity of a channel that follows SRV, in whole microsteps/s (R273, R465). -/
def Sld.whole (c : Sld) : Int := c.vel / (256 * 10 ^ 9)

/-- The velocities of the stepper channels (R465), in microsteps/s as 24 bits: 0 at rest, the channel's own in VEL and TRIM; that of a
planned motion, which its profile gives, is free. DESIGN CHOICE (log entry 61). -/
def State.velocities (s : State) : List Nat × State :=
  (List.finRange 6).foldl (fun p (n : Stepper) =>
    let m := p.2.rd (F.SLD_STAT_MODE n)
    if !p.2.flag (F.SLD_STAT_BUSY n) then (p.1 ++ [0], p.2)
    else if m = 5 ∨ m = 6 then (p.1 ++ [unsigned 24 p.2.sld[n].whole], p.2)
    else (p.1 ++ [p.2.draw.1.toNat % 2 ^ 24], p.2.draw.2)) ([], s)

/-- The parts of the primary's sample record after their first eight bytes. -/
def State.samplePart (s : State) (vel : List Nat) : Nat → List Byte
  | 0 =>
    let w (n : Nat) : List Byte := beBytes 4 n
    let flags := s.angValid.toNat * 2 ^ 63 + ((s.reg Reg.ANG_NOW_HI).getLsbD 30).toNat * 2 ^ 62
    let modes := (List.finRange 11).foldl (fun m (g : Group) => m + (s.group g).mode * 4 ^ g.val) 0
    let states := (List.range 4).foldl (fun m h =>
      m + s.rd (F.LSV_H_STAT_STATE h) * 16 ^ h + (s.flag (F.LSV_H_STAT_TRK h)).toNat * 2 ^ (16 + h)) 0
    beBytes 8 (s.ang.now.toNat + flags) ++ w modes ++ w states
      ++ beBytes 8 (s.spnState * 2 ^ 56 + s.rd F.SPN_TARGET_RPM % 2 ^ 16 * 2 ^ 32 + (s.reg Reg.SPN_REF).toNat)
      ++ (List.finRange 6).flatMap (fun (n : Stepper) =>
        w (s.reg (Reg.SLD_POS n)).toNat ++ w (vel.getD n 0 * 256 + s.rd (F.SLD_STAT_MODE n)))
      ++ (List.range 20).map (fun c => BitVec.ofNat 8 ((s.flag (F.LDD_CTRL_EN c)).toNat * 128 + s.rd (F.LDD_CTRL_RLVL c)))
      ++ (List.finRange 4).flatMap (fun (h : Head) => beBytes 2 (s.rd (F.LDD_SCALE_APC (sChan h))))
  | 1 =>
    let w (n : Nat) : List Byte := beBytes 4 n
    let armed (b : Beam) : Nat := (s.ang.entries.toList.filter (fun e => e.armed && decide (e.action.toNat = 1) && decide (e.arg.toNat = b.val))).length
    let homes := (List.finRange 16).flatMap (fun (b : Beam) => ((s.wrp.beams[b].plan.take (armed b)).filter (fun x => decide (x.kind = .home))).map (·.lba))
    let whw := match s.tsk.whw, homes with
      | none, [] => noLba
      | some m, hs => hs.foldl max m
      | none, h :: r => r.foldl max h
    w (s.rd F.TSK_STATE_STATE + s.opcode * 256) ++ w (s.reg Reg.TSK_HTAG).toNat ++ w s.lowLba ++ w whw ++ w (s.reg Reg.TSK_PROG).toNat
      ++ w (s.lowLba / 4 % 20480) ++ w s.tsk.seq ++ w (s.rd F.TSK_DISC_WGEN)
      ++ (List.range 4).flatMap (fun h => w (s.reg (Reg.ANG_HPOS h)).toNat)
  | 2 => (List.range 3).flatMap (fun g => s.integrators (Fin.ofNat 11 g) 8)
  | _ => s.integrators 3 8 ++ (List.range 7).flatMap (fun c => s.integrators (Fin.ofNat 11 (c + 4)) 2)

/-- One part of a sample record is sent. A part whose word of the staging queue is poisoned is not: the record then arrives incomplete,
as R388 asks, for MIRR has no other mark of it. DESIGN CHOICE (log entry 39). -/
def State.sendPart (s : State) (vel : List Nat) (k : Nat) : State :=
  if s.sramBad 15 k then (s.consumeSram 6).clearSram 15 k else s.mirrSend (k + 1) (s.samplePart vel k)

/-- The primary sends the four parts of a sample record after a commit, while the mirror send of SRV is enabled (R214, R218, R465). -/
def State.sendSample (s : State) : State :=
  if s.flag F.SRV_CTRL_EN && s.rd F.MIR_STAT_ROLE = 1 && s.flag F.MIR_CTRL_PAIR && s.flag F.SRV_MIR_CTRL_EN then
    let (vel, s) := s.velocities
    ((List.range 4).foldl (fun s k => s.sendPart vel k) s).bump Reg.MIR_TX_CNT
  else s

/-! ## The standby's side (R467, R468) -/

/-- A field of a mirrored record: `k` bytes from byte `i` of a part. -/
def mirField (parts : List (List Byte)) (p i k : Nat) : Nat := beAt (parts.getD p []) i k

/-- The standby applies a record at its next instant (R467). -/
def State.mirApply (s : State) (parts : List (List Byte)) : State :=
  let modes := mirField parts 0 16 4
  let st := mirField parts 0 20 4
  let s := (List.finRange 11).foldl (fun s (g : Group) => s.writeMode g (modes / 4 ^ g.val % 4)) s
  let s := (List.finRange 4).foldl (fun s (h : Head) =>
    let t := st.testBit (16 + h.val)
    let s := if s.mir.setT.getLsbD h.val = t then s else (s.loadSet h t).commitSet h
    let k := st / 16 ^ h.val % 16
    let s := s.pmcRise (0x510 + h) (decide (s.rd (F.LSV_H_STAT_STATE h) = 6)) (decide (k = 6))
    ((s.modLsv h (fun l => { l with st := k })).wr (F.LSV_H_STAT_STATE h) k).put (F.LSV_H_STAT_TRK h) t) s
  let s := s.modMir (fun m => { m with setT := BitVec.ofNat 4 (st / 2 ^ 16) })
  let s := s.spnTarget (mirField parts 0 26 2)
  (List.finRange 6).foldl (fun s (n : Stepper) => s.setReg (Reg.SLD_POS n) (BitVec.ofNat 32 (mirField parts 0 (32 + 8 * n.val) 4))) s

/-- MIR's part at a servo sample instant: the standby applies the newest record or counts the gap. -/
def State.mirInstant (s : State) : State :=
  let s := s.modMir (fun m => { m with timely := true })
  if s.rd F.MIR_STAT_ROLE = 2 then
    let s := s.bump Reg.MIR_AGE
    if s.mir.fresh then
      let s := s.modMir (fun m => { m with fresh := false, gap := 0 })
      match s.mir.newest with
      | some p => s.mirApply p
      | none => s
    else
      let s := (s.bump Reg.MIR_GAP_CNT).modMir (fun m => { m with gap := m.gap + 1, clean := 0 })
      if s.mir.gap ≥ s.rd F.MIR_CFG_GAPMAX then s.degrade else s
  else s

/-- The angle check of R77 on a complete record: whether it failed. -/
def State.pairCheck (s : State) (parts : List (List Byte)) : Bool × State :=
  let a := mirField parts 0 8 8
  if s.angValid && decide (a ≥ 2 ^ 63) then
    let own := angAdd s.ang.now (-((s.reg Reg.ANG_PAIR_CTRL).toNat : Int))
    let d := angDiff (BitVec.ofNat 44 a) own
    let s := s.setInt Reg.ANG_PAIR_DIFF d
    let s := s.setReg Reg.MIR_AGREE_MAX (BitVec.ofNat 32 (max (s.reg Reg.MIR_AGREE_MAX).toNat d.natAbs))
    if d.natAbs > 256 then (true, (s.bump Reg.ANG_PAIR_CNT).degrade) else (false, s)
  else (false, s)

/-- A sample record is complete (R465, R467, R468). -/
def State.mirComplete (s : State) (seq : Nat) (parts : List (List Byte)) : State :=
  let stale := s.mir.newest.isSome && decide (seq ≤ (s.reg Reg.MIR_RX_SEQ).toNat)
  let p := s.rd ⟨Reg.MIR_RING_PTR, 0, 10⟩
  let at_ := (s.reg Reg.MIR_RING_BASE).toNat * 16 + 512 * p
  let s := s.storeBytes at_ (parts.flatMap (fun p => p.take 120 ++ List.replicate (120 - p.length) 0)) 6
  let s := (s.setReg Reg.MIR_RING_PTR (BitVec.ofNat 32 ((p + 1) % 1024))).bump Reg.MIR_RX_CNT
  let s := (s.setReg Reg.MIR_RX_SEQ (BitVec.ofNat 32 seq)).setReg Reg.MIR_AGE 0
  let s := s.setReg Reg.MIR_DESC_SEQ (BitVec.ofNat 32 (mirField parts 1 32 4))
  let s := s.modMir (fun m => { m with newest := some parts, fresh := true, parts := [], clean := m.clean + 1 })
  let s := (s.pairCheck parts).2
  let s := if stale then s.degrade else s
  if s.flag F.MIR_STAT_DEG && decide (s.mir.clean ≥ s.rd F.MIR_CFG_GOODN * 256) then (s.put F.MIR_STAT_DEG false).redUpdate else s

/-- A part of a sample record arrives. -/
def State.mirPart (s : State) (k seq : Nat) (payload : List Byte) : State :=
  let old := if s.mir.seq = seq then s.mir.parts else []
  let s := s.modMir (fun m => { m with seq := seq, parts := old ++ [payload] })
  if s.mir.parts.map (fun p => beAt p 0 1) = [1, 2, 3, 4] then s.mirComplete seq s.mir.parts
  else if k = 0 ∧ old ≠ [] then s.modMir (fun m => { m with parts := [payload] }) else s

/-- Mirrored replacement entries, next free indices and disc state (R466, R467). -/
def State.mirEntries (s : State) (payload : List Byte) : State :=
  let s := s.bump Reg.MIR_ENTRY_CNT
  (List.range 13).foldl (fun s k =>
    let e := beAt payload (8 + 8 * k) 8
    let g := e / 2 ^ 8 % 2 ^ 16
    if g = 0 ∨ e = 2 ^ 64 - 1 then s
    else
      let r : RplEntry := ⟨e / 2 ^ 39, e / 2 ^ 24 % 2 ^ 15, g, false⟩
      ({ s with disc := { s.disc with table := s.disc.table ++ [r], changed := true } }).putTableEntry r) s
def State.mirNextFree (s : State) (payload : List Byte) : State :=
  let s := s.bump Reg.MIR_NEXTFREE_CNT
  (List.range 26).foldl (fun s k =>
    let zl := beAt payload (8 + 4 * k) 2
    let v := beAt payload (10 + 4 * k) 2
    if v = 0 then s else s.setNextFree zl v) s
def State.mirDiscState (s : State) (payload : List Byte) : State :=
  let bit (i : Nat) : Bool := (beAt payload (12 + 4 * (i / 32)) 4).testBit (i % 32)
  let s := (s.put F.TSK_DISC_LOADED (beAt payload 8 1 ≠ 0)).wr F.TSK_DISC_WGEN (beAt payload 10 2)
  let s := s.setReg Reg.MIR_DISC_STAT (BitVec.ofNat 32 (beAt payload 8 4))
  { s with disc := { s.disc with ready := Vector.ofFn (fun i : Fin 320 => bit i.val) } }

/-- The primary releases (R473 step 3): status RELEASE, then nothing more until the partner has claimed. -/
def State.giveNow (s : State) : State :=
  let s := (s.modMir (fun m => { m with giving := true, wants := false })).mirrSend 0x20 []
  (s.modMir (fun m => { m with pulse := false, quiet := true })).bump Reg.MIR_REL_CNT

/-- The standby reports ARMED = 1 and DEG = 0 (R464, R473). -/
def State.partnerReady (s : State) : Bool := s.partner 5 && !s.partner 6

/-- A PAIR_HANDOVER that waits for the standby goes on with the record that reports it ready (R473 step 1). -/
def State.handoverGo (s : State) : State :=
  if s.mir.wants && s.taskRunning && decide (s.opcode = 0x50) && s.partnerReady then s.giveNow else s

/-- A handover is complete: the partner owns, and PAIR_HANDOVER ends with success (R473 step 7). -/
def State.handoverDone (s : State) : State :=
  if s.mir.giving && s.partner 2 then
    let s := (s.modMir (fun m => { m with giving := false })).bump Reg.MIR_HAND_CNT
    if s.taskRunning ∧ s.opcode = 0x50 then { s with tsk := { s.tsk with work := false } } else s
  else s

/-- A MIRR flit's payload is taken (R464 to R468). DEDUCED (log entry 32). -/
def State.mirrorTake (s : State) (payload : List Byte) : State :=
  let kind := beAt payload 0 1
  let seq := beAt payload 2 4
  let s := (s.setReg Reg.MIR_PART_STAT (BitVec.ofNat 32 (beAt payload 6 2))).setReg Reg.MIR_PART_SEQ (BitVec.ofNat 32 seq)
  let s := (s.modMir (fun m => { m with heard := true })).put F.MIR_STAT_HBOK true
  let s := if 1 ≤ kind ∧ kind ≤ 4 then s.mirPart (kind - 1) seq payload
    else if kind = 0x10 then
      s.modMir (fun m => { m with desc := (List.range 16).map (fun k => BitVec.ofNat 32 (beAt payload (8 + 4 * k) 4)) })
    else if kind = 0x11 then s.mirDiscState payload
    else if kind = 0x12 then s.mirEntries payload
    else if kind = 0x13 then s.mirNextFree payload
    else s
  let s := if s.partner 2 && decide (s.rd F.MIR_STAT_ROLE = 0) && !s.owned then s.setRole 2 else s
  s.handoverGo.handoverDone.redUpdate

/-- HEARTBEAT_SEND (R464). -/
def execHeartbeatSend (s : State) : Host.Outcome State Fault Refusal := .next (s.mirrSend 0x20 [])

/-- The partner's heartbeat is lost (R464, R469). -/
def State.heartbeatLost (s : State) : State :=
  if s.flag F.MIR_STAT_HBOK then ((s.put F.MIR_STAT_HBOK false).bump Reg.MIR_HBLOSS_CNT).redUpdate else s

/-- HEARTBEAT_LOST. -/
def execHeartbeatLost (s : State) : Host.Outcome State Fault Refusal := .next s.heartbeatLost

/-! ## Claims (R462, R470) -/

/-- The module may claim now (R462). -/
def State.mayClaim (s : State) : Bool :=
  s.armed && !s.flag F.MIR_STAT_OWNPART && !s.mir.pulse &&
  (!s.flag F.MIR_CTRL_PAIR || !s.flag F.MIR_STAT_HBOK || (s.mir.heard && !s.partner 2))

/-- The preset of a claim (R470 step 2), or its absence. -/
def State.claimPreset (s : State) : State :=
  match s.mir.newest with
  | some p =>
    if s.flag F.MIR_STAT_DEG || decide ((s.reg Reg.MIR_AGE).toNat > s.rd F.MIR_CFG_AGEMAX) then
      (s.put F.MIR_STAT_NOPRESET true).bump Reg.MIR_NOPRE_CNT
    else
      let modes := mirField p 0 16 4
      let mask := ((List.range 11).filter (fun g => modes / 4 ^ g % 4 ≠ 0)).foldl (fun m g => m + 2 ^ g) 0
      s.orderPreset (BitVec.ofNat 11 mask) false
  | none => (s.put F.MIR_STAT_NOPRESET true).bump Reg.MIR_NOPRE_CNT

/-- Supervisors and steppers continue from the mirrored state (R470 step 3). -/
def State.claimDrives (s : State) (p : List (List Byte)) : State :=
  let s := (List.finRange 4).foldl (fun s (h : Head) =>
    let k := (s.sup h).st
    if k = 6 then (s.put (F.LSV_H_STAT_FOC h) true).put (F.LSV_H_STAT_TRK h) true
    else if k = 0 then s
    else
      let closed := decide (mirField p 0 16 4 / 4 ^ h.val % 4 ≥ 2)
      ((s.lsvGo h 11).wr (F.LSV_H_STAT_ERRCLS h) 0).writeMode (headGroup h) (if closed then 3 else 0)) s
  (List.finRange 6).foldl (fun s (n : Stepper) =>
    let op := mirField p 0 (39 + 8 * n.val) 1 % 16
    if 3 ≤ op ∧ op ≤ 6 then
      let v := signed 24 (mirField p 0 (36 + 8 * n.val) 3)
      let s := s.modSld n (fun c => { c with vel := if 5 ≤ op then v * (256 * 10 ^ 9) else 0, frac := 0 })
      ((s.wr (F.SLD_STAT_MODE n) op).put (F.SLD_STAT_ENERG n) (decide (op ≠ 4))).put (F.SLD_STAT_BUSY n) (decide (5 ≤ op))
    else if op = 0 then s
    else ((s.wr (F.SLD_STAT_MODE n) 3).put (F.SLD_STAT_ENERG n) true).put (F.SLD_STAT_LOST n) true) s

/-- How many of words 10 to 15 of the record R326 lists for a task that is no extent. -/
def resListed (op : Nat) : Nat :=
  if op = 0x10 then 6 else if op = 0x11 ∨ op = 0x21 ∨ op = 0x31 then 2 else if op = 0x20 ∨ op = 0x40 ∨ op = 0x60 then 1 else 0

/-- The task of the former primary, frozen with 0x60 (R337, R470 step 1). When it began, and its own results, are not mirrored: the
record holds free values there. DESIGN CHOICE (log entry 68). -/
def State.claimTask (s : State) (p : List (List Byte)) : State :=
  let w := mirField p 1 8 4
  if w % 256 ≠ 1 then s
  else
    let whw := mirField p 1 20 4
    let s := (s.wr F.TSK_STATE_STATE 1).wr F.TSK_STATE_OPCODE (w / 256 % 256)
    let s := (s.setReg Reg.TSK_HTAG (BitVec.ofNat 32 (mirField p 1 12 4))).setReg Reg.TSK_LOW_LBA (BitVec.ofNat 32 (mirField p 1 16 4))
    let s := (s.setReg Reg.TSK_PROG (BitVec.ofNat 32 (mirField p 1 24 4))).wr F.VFY_WHW_LBA (if whw = noLba then 0 else whw)
    let (a, s) := s.draw
    let (b, s) := s.draw
    let rs := (List.range 6).map (fun k => Config.free (s.free + k))
    let s := { s with free := s.free + 6 }
    let n (k : Nat) : Nat := (rs.getD k 0).toNat
    let d := s.mir.desc
    let s := { s with
      tsk := { s.tsk with
        desc := d, lba := (d.getD 2 0).toNat, count := (d.getD 3 0).toNat, whw := if whw = noLba then none else some whw
        seq := mirField p 1 32 4, started := BitVec.ofNat 64 (a.toNat * 2 ^ 32 + b.toNat), recovered := n 0, fromSpare := n 1
        res := rs.take (resListed (w / 256 % 256)) ++ List.replicate (6 - resListed (w / 256 % 256)) 0, topRung := n 2 % 16, placed := n 3, unplaced := n 4, done := [], bad := [] }
      wrp := { s.wrp with made := n 0, opcs := n 1, failedRpl := n 2 } }
    let s := (List.range 16).foldl (fun s k => s.setReg (Reg.TSK_DESC k) (d.getD k 0)) s
    s.taskError 0x60

/-- CLAIM: an armed module starts its refresher (R462); a STANDBY continues from the mirrored state, and its task is frozen unless
the partner released (R470, R473). -/
def execClaim (s : State) : Host.Outcome State Fault Refusal :=
  if s.mayClaim then
    let standby := decide (s.rd F.MIR_STAT_ROLE = 2)
    let s := (s.modMir (fun m => { m with pulse := true, quiet := false })).clock
    let s := (s.setReg Reg.MIR_TAKE_SEQ (s.reg Reg.MIR_RX_SEQ)).setPair Reg.MIR_TAKE_TIME_LO s.cycles
    let s := s.setReg Reg.MIR_TAKE_GAP (BitVec.ofNat 32 s.mir.gap)
    if standby then
      let p := s.mir.newest.getD []
      let released := s.partner 3
      let s := if released then s.bump Reg.MIR_HAND_CNT else (s.bump Reg.MIR_TAKE_CNT).claimTask p
      .next ((s.claimPreset).claimDrives p)
    else .next s
  else .next s

/-- HANDOVER_TIMEOUT: 10 µs have passed without a standby ready, which ends the task; or without the partner's claim, and the former
primary claims again without a preset (R473). DEDUCED (log entry 32). -/
def execHandoverTimeout (s : State) : Host.Outcome State Fault Refusal :=
  if s.mir.wants then
    let s := s.modMir (fun m => { m with wants := false })
    .next (if s.taskRunning && decide (s.opcode = 0x50) then s.taskError 0x52 else s)
  else if s.mir.giving && !s.partner 2 then
    let s := s.modMir (fun m => { m with giving := false, pulse := true, quiet := false })
    .next (((s.put F.MIR_STAT_NOPRESET true).bump Reg.MIR_NOPRE_CNT).taskError 0x52)
  else .next s

/-- The primary hands over (R469, R473): refused with 0x52 unless the pair is redundant; it waits for a standby that is armed and not
degraded. DEDUCED (log entry 32). -/
def State.handover (s : State) : State :=
  if s.rd F.MIR_STAT_RED ≠ 1 then s.taskError 0x52
  else if s.partnerReady then s.giveNow
  else s.modMir (fun m => { m with wants := true })

/-! ## Refused writes (R481) -/

/-- What `MIR_CFG` may hold beside `MIR_HB`. -/
def State.mirCfgOk (s : State) (v : Word) : Bool :=
  let n := v.toNat
  decide (n / 2 ^ 24 ≠ 0) && decide (n / 2 ^ 16 % 256 ≠ 0) && decide (n / 2 ^ 12 % 16 ≠ 0) && decide (300 ≤ n % 4096) &&
  decide (n % 4096 ≤ 4000) && decide (2 * s.rd F.MIR_HB_PERIOD ≤ n % 4096)

end Sys2Proof.Machine
end

