-- ==== Sys2Proof/Machine/Go.lean ====
section
/-! DEFINITION. GO (R317 to R320, R323, R362): the descriptor is taken, and checked in the order of R318. -/

namespace Sys2Proof.Machine

/-- Word `k` of the task's descriptor. -/
def State.descW (s : State) (k : Nat) : Nat := (s.tsk.desc.getD k 0).toNat

/-- FLAGS and SPEED of the descriptor (R320). -/
def State.tskFlag (s : State) (i : Nat) : Bool := (s.descW 0).testBit (16 + i)
def State.tskSpeed (s : State) : Nat := s.descW 0 % 2 ^ 16

/-- The opcodes of R323. -/
def taskOpcodes : List Nat := [0x01, 0x02, 0x03, 0x10, 0x11, 0x12, 0x13, 0x20, 0x21, 0x30, 0x31, 0x40, 0x41, 0x50, 0x60, 0x7F]

/-- The FLAGS bit an opcode names, as a mask (R323). -/
def taskFlags (op : Nat) : Nat :=
  if op = 0x01 ∨ op = 0x03 then 1 else if op = 0x02 then 2 else if op = 0x10 then 4 else if op = 0x11 then 8 else if op = 0x41 then 16 else 0

/-- The range of SPEED, where the opcode uses it (R323); 0 stands for the default (R320). -/
def speedOk (op v : Nat) : Bool :=
  if op = 0x01 ∨ op = 0x03 then v = 0 || (600 ≤ v && v ≤ 7200)
  else if op = 0x02 then v = 0 || (600 ≤ v && v ≤ 4800)
  else if op = 0x12 then v = 0 || (300 ≤ v && v ≤ 7560)
  else true

/-- The mask of `ARG_B` and of `ARG_C` that a calibration names (R506). -/
def calMask (code : Nat) : Nat × Nat :=
  match code with
  | 0x02 => (0xF, 0)
  | 0x04 => (0xFFFFF, 0)
  | 0x05 => (0xF, 0xFFFFFFFF)
  | 0x06 => (0xFFFF, 0x1FFFFFF)
  | 0x07 => (0xE, 0)
  | 0x08 => (0x3, 0x1FFFFFF)
  | 0x09 => (0xFFFF, 0x1FFFFFF)
  | 0x0A => (0x7FF, 0)
  | _ => (0, 0)

/-- `ARG_A` (word 2) is in range. -/
def State.argAOk (s : State) (op : Nat) : Bool :=
  let a := s.descW 2
  if 1 ≤ op ∧ op ≤ 3 then decide (a < 2 ^ 25)
  else if op = 0x13 then decide (a % 4 ≠ 3)
  else if op = 0x30 then decide (1 ≤ a % 256) && decide (a % 256 ≤ 0x0A)
  else if op = 0x31 then decide (a ≤ 320)
  else if op = 0x40 then decide (a ≤ 4096)
  else if op = 0x41 then s.tskFlag 4 || decide (a < 4096)
  else if op = 0x60 then decide (a < 8)
  else true

/-- `ARG_B` (word 3) is in range, with `ARG_A` where the table joins them. -/
def State.argBOk (s : State) (op : Nat) : Bool :=
  let a := s.descW 2
  let b := s.descW 3
  if 1 ≤ op ∧ op ≤ 3 then decide (1 ≤ b) && decide (b ≤ 2 ^ 20) && decide (a + b ≤ 2 ^ 25)
  else if op = 0x20 then decide (b % 1024 + b / 2 ^ 16 % 1024 ≤ 704)
  else if op = 0x30 then decide (b % 2 ^ 31 &&& (calMask (a % 256)).1 = b % 2 ^ 31)
  else if op = 0x31 then decide (a + b ≤ 320)
  else if op = 0x40 then decide (a + b ≤ 4096)
  else if op = 0x60 then decide (b % 16 = 0) && decide (64 ≤ b) && decide (b ≤ 16384 + 32)
  else true

/-- `ARG_C` (word 6) is in range. -/
def State.argCOk (s : State) (op : Nat) : Bool :=
  if op = 0x30 then
    let code := s.descW 2 % 256
    let c := s.descW 6
    if code = 0x05 then decide (1 ≤ c % 2 ^ 16) && decide (1 ≤ c / 2 ^ 16) else decide (c &&& (calMask code).2 = c)
  else true

/-- The opcode uses a scatter list (R323). -/
def taskLists (op : Nat) : Bool := op = 0x01 || op = 0x02 || op = 0x20 || op = 0x40 || op = 0x60

/-- The first descriptor word out of range (R318 check 3, R320). DEDUCED (log entry 42). -/
def State.badWord (s : State) (op : Nat) : Option Nat :=
  if s.descW 0 / 2 ^ 16 % 256 &&& taskFlags op ≠ s.descW 0 / 2 ^ 16 % 256 || !speedOk op s.tskSpeed then some 0
  else if !s.argAOk op then some 2
  else if !s.argBOk op then some 3
  else if taskLists op && s.descW 5 % 16 ≠ 0 then some 5
  else if !s.argCOk op then some 6
  else if s.descW 9 % 64 ≠ 0 then some 9
  else if (op = 1 ∨ op = 3) ∧ s.descW 11 % 16 ≠ 0 then some 11
  else none

/-- The heads, beams or groups that a mask names. -/
def inMask (m : Nat) (n : Nat) : List Nat := (List.range n).filter (fun i => m.testBit i)

/-- The head's loop supervisor is IDLE (R229). -/
def State.lsvIdle (s : State) (h : Nat) : Bool := decide (s.rd (F.LSV_H_STAT_STATE h) = 0)

/-- The spindle turns at 600 to 7,200 rpm with a valid estimate (R506). -/
def State.turning (s : State) : Bool :=
  s.flag F.SPN_STAT_SPDVALID && decide (600 * 65536 ≤ s.int Reg.SPN_SPEED) && decide (s.int Reg.SPN_SPEED ≤ 7200 * 65536)

/-- Heads a disc calibration works: those of the beams in its mask, or the one head of SAPOS. -/
def State.calHeads (s : State) : List Nat :=
  if s.descW 2 % 256 = 0x08 then [s.descW 3 % 4]
  else (List.range 4).filter (fun h => s.descW 3 % 2 ^ 16 / 16 ^ h % 16 ≠ 0)

/-- The states a calibration needs (R506). -/
def State.calMay (s : State) : Bool :=
  let b := s.descW 3
  let dark (c : Nat) : Bool := !s.chanActive (Fin.ofNat 20 c)
  match s.descW 2 % 256 with
  | 0x01 => s.spnState = 0 && (List.range 4).all s.lsvIdle && (List.range 20).all dark
  | 0x02 => (inMask b 4).all (fun h => s.lsvIdle h && (List.range 5).all (fun e => dark (5 * h + e)))
  | 0x03 => s.spnState = 0 && s.spn.still
  | 0x04 => (inMask b 20).all (fun c => s.lsvIdle (c / 5))
  | 0x05 => (inMask b 4).all (fun h => s.lsvIdle h && decide ((s.group (Fin.ofNat 11 h)).mode = 0))
  | 0x07 => s.turning && decide (s.rd (F.ACQ_PLL_STAT_STATE 0) = 2) &&
    ((List.range 4).filter (fun h => h ≠ 0 && b.testBit h)).all (fun h => decide (s.rd (F.ACQ_PLL_STAT_STATE h) = 2))
  | 0x0A => (inMask b 11).all (fun g => decide ((s.group (Fin.ofNat 11 g)).mode = 2))
  | _ => s.owned && s.flag F.TSK_DISC_LOADED && s.spnState = 4 && s.turning &&
    s.calHeads.all (fun h => decide (headSide h = lbaLayer (s.descW 6) / 8))

/-- The preconditions of R323. -/
def State.taskMay (s : State) (op : Nat) : Bool :=
  let loaded := s.flag F.TSK_DISC_LOADED
  (op = 0x40 || op = 0x7F || s.owned) &&
  (if (1 ≤ op ∧ op ≤ 3) ∨ op = 0x11 ∨ op = 0x12 ∨ op = 0x20 ∨ op = 0x21 ∨ op = 0x31 then loaded
   else if op = 0x10 then !loaded
   else if op = 0x30 then s.calMay
   else if op = 0x41 then s.tskFlag 4 || decide (s.disc.catEntry ≠ some (s.descW 2))
   else if op = 0x50 then decide (s.rd F.MIR_STAT_RED = 1)
   else true)

/-- DETAIL of class 0x52 at a GO (R318). -/
def State.mayDetail (s : State) : Nat :=
  (s.disc.ready.toList.all id).toNat + (s.flag F.TSK_DISC_CATALOGUED).toNat * 2 + (s.flag F.TSK_DISC_LOADED).toNat * 4
    + (!s.owned).toNat * 8

/-- The checks of R318, made by the base microcode (R362): the first that fails ends the task. A stopped start-up ends every task
with 0x42 (R530), and so does SEQ halted by a double fault (R357). -/
def State.goCheck (s : State) (cust : Bool) : State :=
  let op := s.descW 0 / 2 ^ 24
  let s := { s with tsk := { s.tsk with unchecked := false } }
  if s.flag F.PWR_START_STOPPED then s.taskError 0x42 none (s.rd F.PWR_START_STEP * 256 + s.rd F.PWR_START_CAUSE)
  else if s.flag F.SEQ_STAT_DFAULT then s.taskError 0x42
  else if !taskOpcodes.contains op then (s.bump Reg.TSK_ILL_CNT).taskError 0x50
  else if op = 0x60 ∧ !cust then s.taskError 0x54
  else match s.badWord op with
    | some k => s.taskError 0x51 none k
    | none =>
      if op = 0x60 ∧ s.keyless then s.taskError 0x71
      else if !s.taskMay op then s.taskError 0x52 none s.mayDetail
      else if op = 0x30 then
        let s := (s.put F.CAL_STAT_BUSY true).wr F.CAL_STAT_CODE (s.descW 2 % 256)
        s.put F.CAL_STAT_PARTIAL false
      else s

/-- A GO accepted while TASK = 0 is checked when TASK becomes 1 (R362). -/
def State.goPending (s : State) : State :=
  if s.tsk.unchecked && s.taskRunning then s.goCheck s.tsk.cust else s

/-- A write of `TSK_CMD.GO` on port `p` (R317, R318): in RUNNING or FROZEN it is answered NAK; else the descriptor is taken. -/
def State.taskGo (s : State) (p : Port) (cust : Bool) : State :=
  if s.taskRunning || s.taskFrozen then s.bump Reg.TSK_NAK_CNT
  else
    let s := s.clock
    let d := (List.range 16).map (fun k => s.reg (Reg.TSK_DESC k))
    let t := s.tsk
    let a := (d.getD 2 0).toNat
    let ext := decide (1 ≤ (d.getD 0 0).toNat / 2 ^ 24) && decide ((d.getD 0 0).toNat / 2 ^ 24 ≤ 3)
    let s := { s with
      tsk := { desc := d, port := p, lba := a, count := (d.getD 3 0).toNat, work := true, seq := t.seq + 1,
               started := BitVec.ofNat 64 s.cycles, elog := t.elog, unchecked := true, cust := cust }
      wrp := { s.wrp with made := 0, opcs := 0, failedRpl := 0 } }
    let s := ((s.wr F.TSK_STATE_STATE 1).wr F.TSK_STATE_OPCODE ((d.getD 0 0).toNat / 2 ^ 24)).wr F.TSK_STATE_ERRCLS 0
    let s := (s.put F.TSK_STATE_SETTLED false).setReg Reg.TSK_HTAG (d.getD 1 0)
    let s := ((s.setReg Reg.TSK_PROG 0).setReg Reg.TSK_DETAIL 0).setReg Reg.TSK_ERR_LBA 0
    let s := (s.setReg Reg.TSK_LOW_LBA (BitVec.ofNat 32 (if ext then a else noLba))).wr F.VFY_WHW_LBA 0
    let s := (s.event Ev.taskGo).mirrRecord 0x10 (wordsBytes d)
    if s.flag F.SEQ_MODE_TASK || s.flag F.PWR_START_STOPPED || s.flag F.SEQ_STAT_DFAULT then s.goCheck cust else s

/-- GO. -/
def execGo (p : Port) (m : Master) (s : State) : Host.Outcome State Fault Refusal := .next (s.taskGo p (s.custodian m))

/-- A write of `TSK_CMD.RESTART` (R317, R334). -/
def State.taskRestart (s : State) : State :=
  if s.taskFrozen && s.flag F.TSK_STATE_SETTLED then
    ((s.wr F.TSK_STATE_STATE 0).wr F.TSK_STATE_ERRCLS 0).setRes (List.replicate 16 0)
  else s.bump Reg.TSK_NAK_CNT

/-- RESTART. -/
def execRestart (_p : Port) (s : State) : Host.Outcome State Fault Refusal := .next s.taskRestart

/-- The task register set may be written through CREQ: `TSK_DESC` and `TSK_CMD` (R317). -/
def State.tskLocked (s : State) : Bool := s.taskRunning || s.taskFrozen

/-- A write of `TSK_CMD` (R317): answers whether it is accepted. -/
def State.tskCmdWrite (s : State) (p : Port) (cust : Bool) (v : Word) : Bool × State :=
  let go := v.getLsbD 0
  let re := v.getLsbD 1
  if re then
    if !go && s.taskFrozen && s.flag F.TSK_STATE_SETTLED then (true, s.taskRestart) else (false, s.bump Reg.TSK_NAK_CNT)
  else if s.tskLocked then (false, s.bump Reg.TSK_NAK_CNT)
  else if go then (true, s.taskGo p cust)
  else (true, s)

end Sys2Proof.Machine
end

