-- ==== Sys2Proof/Machine/Fec.lean ====
section
/-! DEFINITION. What a port's transmitter makes of its flits (R291 to R293): the 128 bytes of a flit, the stream of bits, RS(544,514)
codewords with a marker in every 16,384th place, and the symbols of each logical lane. How many IDLE flits lie between the flits of a
port, and so how many codewords it has sent, is time's and no command's. -/

namespace Sys2Proof.Machine

/-- The 128 bytes of a flit on the line with sequence number `seq` (R293): header with HCRC, XD, payload. -/
def Flit.wire (f : Flit) (seq : Nat) : List Byte :=
  let h := f.head seq
  let data := f.typ = 5 ∨ f.typ = 6 ∨ f.typ = 7 ∨ f.typ = 13
  h ++ beBytes 2 (crc16 (beNat h * 2 ^ 32) 63 32) ++ (if data then bytesAt f.bytes 120 2 else [0, 0]) ++ bytesAt f.bytes 0 120

/-- The HCRC of a received header word holds (R293, R295). -/
def hcrcGood (w : Dword) : Bool := decide (crc16 w.toNat 63 32 = w.toNat / 2 ^ 16 % 2 ^ 16)

/-! ## GF(2^10) and the code. The field, the generator and the order of bits are those of IEEE 802.3 Clause 119, which the spec names
without repeating them. PRESUMED (log entry 59). -/

/-- Times α, with α^10 = α^3 + 1. -/
def gfTwice (a : Nat) : Nat := if 512 ≤ a then Nat.xor (2 * a % 1024) 9 else 2 * a

/-- Product in GF(2^10). -/
def gfMul (a b : Nat) : Nat :=
  ((List.range 10).foldl (fun (p : Nat × Nat) i => (if b.testBit i then Nat.xor p.1 p.2 else p.1, gfTwice p.2)) (0, a)).1

/-- α^n. -/
def gfPow : Nat → Nat
  | 0 => 1
  | n + 1 => gfTwice (gfPow n)

/-- The generator's coefficients below its leading 1, highest first: the product of x − α^j for j from 0 to 29. -/
def rsGen : List Nat :=
  ((List.range 30).foldl (fun (g : List Nat) j =>
    List.zipWith Nat.xor (g ++ [0]) (0 :: g.map (gfMul (gfPow j)))) [1]).drop 1

/-- The 30 parity symbols of 514 data symbols. -/
def rsParity (data : List Nat) : List Nat :=
  data.foldl (fun (r : List Nat) d =>
    let k := Nat.xor d (r.headD 0)
    List.zipWith Nat.xor (r.drop 1 ++ [0]) (rsGen.map (gfMul k))) (List.replicate 30 0)

/-- Symbols of ten bits, the first bit lowest. -/
def tenBits : Nat → List Bool → List Nat
  | 0, _ => []
  | n + 1, bs => ((List.range 10).foldl (fun v i => if bs.getD i false then v + 2 ^ i else v) 0) :: tenBits n (bs.drop 10)

/-- A codeword of a port's stream: a marker with the identity of each logical lane's physical lane and the codeword count, or 544
symbols of data and parity (R291). -/
inductive Codeword where
  | marker (lanes : List Nat) (count : Nat)
  | data (symbols : List Nat)
  deriving DecidableEq, Repr

/-- `n` codewords of a stream of bits from codeword number `k` on, over the lanes given. -/
def fecCodewords (lanes : List Nat) : Nat → Nat → List Bool → List Codeword
  | 0, _, _ => []
  | n + 1, k, bs =>
    if k % 16384 = 0 then .marker lanes k :: fecCodewords lanes n (k + 1) bs
    else
      let d := tenBits 514 bs
      .data (d ++ rsParity d) :: fecCodewords lanes n (k + 1) (bs.drop 5140)

/-- The bits of flits as one stream, msb first (R291). -/
def streamBits (fs : List (Nat × Flit)) : List Bool :=
  fs.flatMap (fun p => (p.2.wire p.1).flatMap (fun b => (List.range 8).map (fun i => b.getLsbD (7 - i))))

/-- The symbols of a codeword on logical lane `k` of `n` (R291). -/
def laneSymbols (n k : Nat) (c : List Nat) : List Nat := (List.range ((c.length + n - 1 - k) / n)).map (fun i => c.getD (n * i + k) 0)

/-- The wrong symbols of a received codeword; the receiver corrects up to 15 of them (R292). -/
def fecWrong (sent got : List Nat) : Nat := ((sent.zip got).filter (fun p => decide (p.1 ≠ p.2))).length
def fecCorrects (wrong : Nat) : Bool := decide (wrong ≤ 15)

/-- The flits of a stream that data codeword `k` overlaps: these are bad when it cannot be corrected (R292). -/
def flitsIn (k : Nat) : List Nat := (List.range ((5140 * (k + 1) + 1023) / 1024 - 5140 * k / 1024)).map (· + 5140 * k / 1024)

/-- Logical lanes of a port, and the field of `HLK_P_MAP` of logical lane `k` (R286). -/
def logical (p : Fin 3) : Nat := if p = 2 then 1 else 4
def mapField (p : Fin 3) (k : Nat) : RegField := ⟨Reg.HLK_P_MAP p, 4 * k, 4⟩

/-- The codewords that carry what stands on a port's line, from codeword `k` on. -/
def State.lineCodewords (s : State) (p : Fin 3) (k : Nat) : List Codeword :=
  let bs := streamBits (s.port p).line
  fecCodewords ((List.range (logical p)).map (fun i => s.rd (mapField p i))) (bs.length / 5140 + 1 + bs.length / 5140 / 16383 + 1) k bs

end Sys2Proof.Machine
end

