-- ==== Sys2Proof/Machine/Hlk.lean ====
section
/-! DEFINITION. The Zarvel link (R286 to R315) but for control requests: training, lane swaps, acknowledgement, credits and
replay, forwarding, BREAK, ENUM and port-down. -/

namespace Sys2Proof.Machine

/-! ## Ports, lanes and LINK flits -/

/-- The other end's port: A and B; port M forwards nothing. -/
def otherPort : Fin 3 → Option (Fin 3)
  | 0 => some 1
  | 1 => some 0
  | _ => none

/-- Port `p` is up; it is training. -/
def State.portUp (s : State) (p : Fin 3) : Bool := s.flag (F.HLK_P_STAT_UP p)
def State.training (s : State) (p : Fin 3) : Bool := !s.portUp p && decide (1 ≤ s.rd (F.HLK_P_STAT_STEP p))

/-- The port of a physical lane, and its lanes (R286). -/
def lanePort (l : LinkLane) : Fin 3 := if l.val < 5 then 0 else if l.val < 10 then 1 else 2
def portLanes (p : Fin 3) : List Nat := if p = 0 then [0, 1, 2, 3, 4] else if p = 1 then [5, 6, 7, 8, 9] else [10, 11]

/-- The logical lane mapped onto a physical one. -/
def State.laneOf (s : State) (p : Fin 3) (l : Nat) : Option Nat := (List.range (logical p)).find? (fun k => s.rd (mapField p k) = l)

/-- The payload of a LINK flit (R297). -/
def linkPayload (flags ack nak cc cd lane spare cw : Nat) : List Byte :=
  beBytes 1 flags ++ beBytes 1 ack ++ beBytes 1 nak ++ [0] ++ beBytes 2 cc ++ beBytes 2 cd ++ beBytes 1 lane ++ beBytes 1 spare
    ++ [0, 0] ++ beBytes 4 cw

/-- Send a LINK flit. -/
def State.sendLink (s : State) (p : Fin 3) (bytes : List Byte) : State := s.sendFlit p { typ := 1, bytes := bytes }

/-- Send what waits at a port. -/
def State.pumpAll (s : State) (p : Fin 3) : State := s.pump p ((s.port p).qc.length + (s.port p).qd.length)

/-! ## Reception (R293, R295, R301, R302) -/

/-- Header fields. -/
def hTYPE (h : Dword) : Nat := h.toNat / 2 ^ 60
def hHB (h : Dword) : Bool := h.getLsbD 59
def hDST (h : Dword) : Nat := h.toNat / 2 ^ 53 % 64
def hSRC (h : Dword) : Nat := h.toNat / 2 ^ 47 % 64
def hTAG (h : Dword) : Nat := h.toNat / 2 ^ 40 % 128
def hSEQ (h : Dword) : Nat := h.toNat / 2 ^ 32 % 256

/-- The flit is addressed to this module. -/
def State.mine (s : State) (h : Dword) : Bool := !hHB h && s.flag F.HLK_ID_VALID && decide (hDST h = s.hop)

/-- The receiver sends the acknowledgement and the credits due (R301, R302). -/
def State.ackNow (s : State) (p : Fin 3) : State :=
  let q := s.port p
  if q.ackDue = 0 ∧ q.retC = 0 ∧ q.retD = 0 then s
  else
    let s := s.modPort p (fun q => { q with ackDue := 0, retC := 0, retD := 0 })
    s.sendLink p (linkPayload (if q.ackDue = 0 then 0 else 0x80) ((q.rxSeq + 255) % 256) 0 q.retC q.retD 0 0 0)

/-- The acknowledgement goes out after 16 flits (R302). -/
def State.ackFull (s : State) (p : Fin 3) : State := if 16 ≤ (s.port p).ackDue then s.ackNow p else s

/-- The first missing sequence number is NAKed once (R302). -/
def State.nakOnce (s : State) (p : Fin 3) : State :=
  let q := s.port p
  if q.nakSent then s
  else
    let s := (s.modPort p (fun q => { q with nakSent := true })).bump (Reg.HLK_P_NAK_CNT p)
    s.sendLink p (linkPayload 0x40 0 q.rxSeq 0 0 0 0 0)

/-- `n` sequenced flits arrive, the first with header `h` (R295, R302), and whether they are taken: those that come next in order. One
with a bad HCRC, or after a missing one, is discarded and the missing one NAKed; one taken before is discarded and acknowledged. -/
def State.rxTake (s : State) (p : Fin 3) (h : Dword) (n : Nat) : Bool × State :=
  if !hcrcGood h then (false, (s.bump (Reg.HLK_P_HCRC_CNT p)).nakOnce p)
  else
    let gap := (hSEQ h + 256 - (s.port p).rxSeq) % 256
    if gap = 0 then
      let s := s.modPort p (fun q => { q with rxSeq := (q.rxSeq + n) % 256, ackDue := q.ackDue + n, nakSent := false })
      (true, (s.bump64 (Reg.HLK_P_RX_CNT_LO p) n).ackFull p)
    else if gap < 128 then (false, s.nakOnce p)
    else (false, (s.modPort p (fun q => { q with ackDue := q.ackDue + n })).ackFull p)

/-- A flit that the module itself takes, or drops, leaves its buffer at once. -/
def State.credit (s : State) (p : Fin 3) (typ n : Nat) : State :=
  s.modPort p (fun q => if flitClassC typ then { q with retC := q.retC + n } else { q with retD := q.retD + n })

/-- Sequenced flits of type `typ` that the module itself takes or drops. -/
def State.rxOwn (s : State) (p : Fin 3) (h : Dword) (typ n : Nat) : Bool × State :=
  let (ok, s) := s.rxTake p h n
  (ok, if ok then s.credit p typ n else s)

/-- ACK_SEND: the receiver acknowledges and returns credits (R301, R302). -/
def execAckSend (p : Port) (s : State) : Host.Outcome State Fault Refusal :=
  .next (if s.portUp (portIdx p) then s.ackNow (portIdx p) else s)

/-- BAD_FLIT: a flit with a bad HCRC, or one that overlaps a codeword the receiver cannot correct, is dropped, and the first missing
sequence number is NAKed once (R292, R295, R302). -/
def execBadFlit (p : Port) (why : BadFlit) (s : State) : Host.Outcome State Fault Refusal :=
  let p := portIdx p
  if !s.portUp p then .next s
  else match why with
    | .hcrc => .next ((s.bump (Reg.HLK_P_HCRC_CNT p)).nakOnce p)
    | .codeword wrong first =>
      if fecCorrects wrong then .next s
      else .next ((if first then s.bump (Reg.HLK_P_UNC_CNT p) else s).nakOnce p)

/-! ## Training and port-down (R289, R303) -/

/-- The port leaves service to train again (R303); a lane swap in progress ends with it (R311). -/
def State.retrain (s : State) (p : Fin 3) : State :=
  let s := (s.put (F.HLK_P_STAT_UP p) false).wr (F.HLK_P_STAT_STEP p) 0
  (s.modPort p (fun q => { q with swap := none, swapAck := false, nakHeld := none })).put (F.HLK_P_STAT_SWAP p) false

/-- PORT_TRAINING: an enabled port that is not up enters the next of steps 1 to 4. DEDUCED (log entry 70). -/
def execPortTraining (p : Port) (s : State) : Host.Outcome State Fault Refusal :=
  let p := portIdx p
  if s.flag (F.HLK_P_CTRL_EN p) && !s.portUp p && decide (s.rd (F.HLK_P_STAT_STEP p) < 4) then
    .next (s.wr (F.HLK_P_STAT_STEP p) (s.rd (F.HLK_P_STAT_STEP p) + 1))
  else .next s

/-- Map a port's logical lanes onto the lanes given, in ascending order. -/
def State.mapLanes (s : State) (p : Fin 3) (ls : List Nat) : State :=
  (List.range (logical p)).foldl (fun s k => s.wr (mapField p k) (ls.getD k 0)) s

/-- A lane that failed (`HLK_L_HLTH.STATE`). -/
def State.laneFailed (s : State) (l : Nat) : Bool := s.rd (F.HLK_L_HLTH_STATE l) ≠ 0

/-- LANE_TRAINING_TIMEOUT: a lane that has not passed step 3 is reported to AXL, and the port trains on the lanes left. -/
def execLaneTrainingTimeout (l : LinkLane) (s : State) : Host.Outcome State Fault Refusal :=
  let p := lanePort l
  if s.training p && decide (s.rd (F.HLK_P_STAT_STEP p) ≤ 3) && !s.laneFailed l then
    let s := (s.wr (F.HLK_L_HLTH_STATE l) 1).axlAsk 0x03 p.val l.val 0x2
    let left := (portLanes p).filter (fun k => !s.laneFailed k)
    if left.length ≥ logical p then .next ((s.mapLanes p left).put (F.HLK_P_STAT_SPAREUSED p) (decide (left.length = logical p)))
    else .next s
  else .next s

/-- Resend the unacknowledged flits from the one at place `i` (R302). Once one has been resent RMAX times, a LINK flit with RETRAIN asks
the far end to retrain too, and the port retrains (R297, R303). -/
def State.resend (s : State) (p : Fin 3) (i : Nat) : State :=
  let q := s.port p
  let fs := q.unack.drop i
  if fs.isEmpty then s
  else
    let again := fs.map (fun u => (u.1, { u.2 with resent := u.2.resent + 1 }))
    let s := (s.modPort p (fun q => { q with line := q.line ++ fs, unack := q.unack.take i ++ again })).bump (Reg.HLK_P_RPL_CNT p)
    let s := (s.bump64 (Reg.HLK_P_TX_CNT_LO p) fs.length).pmcEdge (0x200 + p.val)
    if again.any (fun u => decide (s.rd F.HLK_RETRY_CFG_RMAX ≤ u.2.resent)) then (s.sendLink p (linkPayload 0x04 0 0 0 0 0 0 0)).retrain p
    else s

/-- The places that waiting flits hold in the buffer of port `p` are told by the full sizes of INIT (R297). -/
def State.owedTold (s : State) (p : Fin 3) : State :=
  let told (f : Flit) : Flit := if f.owes = some p then { f with owes := none } else f
  { s with hlk := { s.hlk with ports := s.hlk.ports.map (fun q => { q with qc := q.qc.map told, qd := q.qd.map told }) } }

/-- PORT_UP: training completes; the LINK flit with INIT carries the full buffer sizes, and the replay buffer is sent again
(R289, R301, R303). -/
def execPortUp (p : Port) (s : State) : Host.Outcome State Fault Refusal :=
  let p := portIdx p
  let lanes := (portLanes p).filter (fun k => !s.laneFailed k)
  if s.training p && decide (s.rd (F.HLK_P_STAT_STEP p) = 4) && decide (logical p ≤ lanes.length) then
    let s := if (List.range (logical p)).any (fun k => s.laneFailed (s.rd (mapField p k)))
      then (s.mapLanes p lanes).put (F.HLK_P_STAT_SPAREUSED p) true else s
    let s := ((s.put (F.HLK_P_STAT_UP p) true).put (F.HLK_P_STAT_DOWN p) false).wr (F.HLK_P_STAT_STEP p) 5
    let s := (s.owedTold p).modPort p (fun q => { q with
      nakSent := false, line := q.line ++ q.unack, unack := q.unack.map (fun u => (u.1, { u.2 with resent := 0 }))
      retC := 0, retD := 0, noSpare := false })
    .next ((s.sendLink p (linkPayload 0x20 0 0 64 512 0 0 0)).pumpAll p)
  else .next s

/-- The port is down (R303): its buffers are dropped, the far end counts as unreachable and BREAK names it; `cause` is that of
R299. The running task ends with 0x42 for a lane condemned without spare, else with 0x31 when it used the port. -/
def State.portFail (s : State) (p : Fin 3) (cause : Nat) : State :=
  let s := ((s.clock.put (F.HLK_P_STAT_UP p) false).put (F.HLK_P_STAT_DOWN p) true).wr (F.HLK_P_STAT_STEP p) 0
  let s := ((s.port p).qc ++ (s.port p).qd).foldl (fun s f => s.creditBack f) s
  let s := s.modPort p (fun q => { q with
    qc := [], qd := [], unack := [], nakHeld := none, ackDue := 0, retC := 0, retD := 0, nakSent := false, swap := none
    txSeq := 0, rxSeq := 0, noSpare := decide (cause = 2) })
  let s := (s.wr (F.HLK_P_STAT_UNACK p) 0).put (F.HLK_P_STAT_SWAP p) false
  let s := { s with hlk := { s.hlk with flush := s.hlk.flush.set p 0, mwrs := s.hlk.mwrs &&& ~~~BitVec.ofNat 3 (2 ^ p.val) } }
  let s := s.event Ev.linkDown
  let used := s.tsk.used.getLsbD p.val
  let s := if cause = 2 then s.taskError 0x42 else if used then s.taskError 0x31 else s
  match otherPort p with
  | none => s.heartbeatLost
  | some o =>
    let s := s.put (if p = 0 then F.HLK_STAT_ENDA else F.HLK_STAT_ENDB) false
    let body := beBytes 1 p.val ++ beBytes 1 (s.hop + (s.flag F.HLK_ID_VALID).toNat * 128) ++ beBytes 1 p.val ++ beBytes 1 cause
      ++ beBytes 8 s.cycles
    if s.portUp o then s.sendFlit o { typ := 0xC, bytes := body } else s

/-- PORT_DOWN: training fails. -/
def execPortDown (p : Port) (s : State) : Host.Outcome State Fault Refusal :=
  .next (if s.training (portIdx p) then s.portFail (portIdx p) 1 else s)

/-! ## LINK flits received (R297) -/

/-- LINK_ACK: the flits up to ACKSEQ are acknowledged. -/
def execLinkAck (p : Port) (ackseq : Byte) (s : State) : Host.Outcome State Fault Refusal :=
  let p := portIdx p
  let q := s.port p
  match q.unack.findIdx? (fun u => u.1 = ackseq.toNat) with
  | none => .next s
  | some i =>
    let s := s.modPort p (fun q => { q with unack := q.unack.drop (i + 1) })
    .next ((s.wr (F.HLK_P_STAT_UNACK p) (q.unack.length - (i + 1))).pumpAll p)

/-- Resend from the flit with sequence number `seq`. -/
def State.resendFrom (s : State) (p : Fin 3) (seq : Nat) : State :=
  match (s.port p).unack.findIdx? (fun u => u.1 = seq) with
  | none => s
  | some i => s.resend p i

/-- LINK_NAK: the sender resends from the NAKed flit; during a lane swap, once flits resume (R311). -/
def execLinkNak (p : Port) (nakseq : Byte) (s : State) : Host.Outcome State Fault Refusal :=
  let p := portIdx p
  if !s.portUp p then .next s
  else if (s.port p).swap.isSome then .next (s.modPort p (fun q => { q with nakHeld := some nakseq.toNat }))
  else .next (s.resendFrom p nakseq.toNat)

/-- REPLAY_TIMEOUT: the sender resends from the oldest unacknowledged flit. -/
def execReplayTimeout (p : Port) (s : State) : Host.Outcome State Fault Refusal :=
  .next (if s.portUp (portIdx p) then s.resend (portIdx p) 0 else s)

/-- LINK_INIT: the far end's full buffer sizes. -/
def execLinkInit (p : Port) (credc credd : BitVec 16) (s : State) : Host.Outcome State Fault Refusal :=
  let p := portIdx p
  .next (((s.wr (F.HLK_P_CRED_C p) credc.toNat).wr (F.HLK_P_CRED_D p) credd.toNat).pumpAll p)

/-- LINK_CREDIT: credits return (R301). -/
def execLinkCredit (p : Port) (credc credd : BitVec 16) (s : State) : Host.Outcome State Fault Refusal :=
  let p := portIdx p
  let s := s.wr (F.HLK_P_CRED_C p) (min 65535 (s.rd (F.HLK_P_CRED_C p) + credc.toNat))
  .next ((s.wr (F.HLK_P_CRED_D p) (min 65535 (s.rd (F.HLK_P_CRED_D p) + credd.toNat))).pumpAll p)

/-- LINK_RETRAIN: the far end asks to retrain. -/
def execLinkRetrain (p : Port) (s : State) : Host.Outcome State Fault Refusal :=
  .next (if s.portUp (portIdx p) then s.retrain (portIdx p) else s)

/-! ## Lane swaps (R290) -/

/-- SPARE_LANE_MOVE: the spare goes on to copy the next logical lane. -/
def execSpareLaneMove (p : Port) (s : State) : Host.Outcome State Fault Refusal :=
  let p := portIdx p
  if s.portUp p && !s.flag (F.HLK_P_STAT_SPAREUSED p) then
    .next (s.modPort p (fun q => { q with copying := (q.copying + 1) % logical p }))
  else .next s

/-- LANE_CONDEMN: a lane that lost signal, or whose corrections exceed `HLK_L_HLTH.THR`, is condemned, and AXL is asked for the spare
where the lane is in use. A spare condemned while unused is no spare any more. -/
def execLaneCondemn (x : LaneCheck) (s : State) : Host.Outcome State Fault Refusal :=
  let l := x.lane
  let p := lanePort l
  let worn := match x.corrections with
    | none => true
    | some n => decide (s.rd (F.HLK_L_HLTH_THR l) < n)
  if s.portUp p && worn && !s.laneFailed l then
    let s := s.wr (F.HLK_L_HLTH_STATE l) 1
    .next (if (s.laneOf p l).isSome then s.axlAsk 0x03 p.val l.val 0x2 else s)
  else .next s

/-- The spare lane of a port, while it is good and not mapped in. -/
def State.spareLane (s : State) (p : Fin 3) : Option Nat :=
  if s.flag (F.HLK_P_STAT_SPAREUSED p) then none
  else (portLanes p).find? (fun l => (s.laneOf p l).isNone && !s.laneFailed l)

/-- AXL grants a swap of lane `l` (R290 step 1): a LINK flit with REMAP names the lane, the spare and a codeword, whose number is
not fixed here. While the port is not up the map of training stands. DESIGN CHOICE (log entry 39). -/
def State.swapStart (s : State) (p : Fin 3) (l : Nat) : State :=
  match s.laneOf p l, s.spareLane p with
  | some k, some sp =>
    if s.portUp p then
      let (cw, s) := s.draw
      let s := (s.modPort p (fun q => { q with swap := some (k, sp, cw), swapAck := false })).put (F.HLK_P_STAT_SWAP p) true
      s.sendLink p (linkPayload 0x10 0 0 0 0 k sp cw.toNat)
    else s
  | _, _ => s

/-- The own lane that a far end's lane number names: the one at the same place within its port (R286). DEDUCED (log entry 70). -/
def laneHere (p : Fin 3) (l : Nat) : Nat :=
  let ls := portLanes p
  ls.getD ((if 10 ≤ l then l - 10 else l % 5) % ls.length) 0

/-- LINK_REMAP: the far end asks for a swap; it is acknowledged with its codeword. -/
def execLinkRemap (p : Port) (rlane rspare : Byte) (rcw : Word) (s : State) : Host.Outcome State Fault Refusal :=
  let p := portIdx p
  if s.portUp p then
    let s := (s.modPort p (fun q => { q with swap := some (rlane.toNat % logical p, laneHere p rspare.toNat, rcw), swapAck := true })).put (F.HLK_P_STAT_SWAP p) true
    .next (s.sendLink p (linkPayload 0x08 0 0 0 0 0 0 rcw.toNat))
  else .next s

/-- LINK_REMAPACK: the far end has taken a swap; both ends await the codeword. -/
def execLinkRemapack (p : Port) (rcw : Word) (s : State) : Host.Outcome State Fault Refusal :=
  match (s.port (portIdx p)).swap with
  | some (_, _, cw) => .next (if cw = rcw then s.modPort (portIdx p) (fun q => { q with swapAck := true }) else s)
  | none => .next s

/-- REMAP_SWITCH: at the named codeword the spare takes the lane's place, and flits resume; a NAK that came in the gap is served
(R311). -/
def execRemapSwitch (p : Port) (cw : Word) (s : State) : Host.Outcome State Fault Refusal :=
  let p := portIdx p
  match (s.port p).swap with
  | some (k, sp, w) =>
    if w = cw ∧ (s.port p).swapAck = true then
      let s := (s.modPort p (fun q => { q with swap := none, swapAck := false })).put (F.HLK_P_STAT_SWAP p) false
      let s := ((s.wr (mapField p k) sp).put (F.HLK_P_STAT_SPAREUSED p) true).bump (Reg.HLK_P_SWAP_CNT p)
      let s := match (s.port p).nakHeld with
        | some n => (s.modPort p (fun q => { q with nakHeld := none })).resendFrom p n
        | none => s
      .next (s.pumpAll p)
    else .next s
  | none => .next s

/-! ## Flits received (R293 to R299) -/

def hXD (h : Dword) : List Byte := beBytes 2 (h.toNat % 2 ^ 16)

/-- A received flit as sent on: its data bytes end with those of XD. -/
def flitOf (h : Dword) (payload : List Byte) : Flit :=
  let data := hTYPE h = 5 ∨ hTYPE h = 6 ∨ hTYPE h = 7
  { typ := hTYPE h, hb := hHB h, dst := hDST h, src := hSRC h, tag := hTAG h, bytes := if data then payload ++ hXD h else payload }

/-- A flit taken off port `p` goes on out of port `o`, whose place in the buffer of `p` it holds until then; with no port to go out of it
is dropped and counted (R294, R301, R305). -/
def State.cutThrough (s : State) (p : Fin 3) (f : Flit) : State :=
  match otherPort p with
  | some o =>
    if s.portUp o then (s.bump64 (Reg.HLK_P_FWD_CNT_LO p) 1).sendFlit o { f with through := true, owes := some p }
    else (s.bump (Reg.HLK_P_DROP_CNT p)).credit p f.typ 1
  | none => (s.bump (Reg.HLK_P_DROP_CNT p)).credit p f.typ 1

/-- FLIT_FORWARD: a flit for elsewhere leaves by the other port, or is dropped and counted where there is none; one of a reserved type,
or an ENUM of a reserved OP, is dropped and counted (R294, R298, R305). -/
def execFlitForward (p : Port) (hdr : Dword) (payload : List Byte) (s : State) : Host.Outcome State Fault Refusal :=
  let p := portIdx p
  let typ := hTYPE hdr
  let op := beAt payload 0 1
  if !s.portUp p then .next s
  else if 14 ≤ typ then
    .next (if hcrcGood hdr then s.bump (Reg.HLK_P_DROP_CNT p) else (s.bump (Reg.HLK_P_HCRC_CNT p)).nakOnce p)
  else if flitSequenced typ && !s.mine hdr && decide (typ ≠ 9 ∨ hHB hdr) && decide (typ ≠ 0xC) then
    let (ok, s) := s.rxTake p hdr 1
    .next (if !ok then s
      else if typ = 9 ∧ op ≠ 1 ∧ op ≠ 2 then (s.bump (Reg.HLK_P_DROP_CNT p)).credit p 9 1
      else s.cutThrough p (flitOf hdr payload))
  else .next s

/-- BREAK: the named end is unreachable; the flit goes on, and a task that used that end ends with 0x31 (R299, R303). -/
def execBreakFlit (p : Port) (hdr : Dword) (payload : List Byte) (s : State) : Host.Outcome State Fault Refusal :=
  let p := portIdx p
  if s.portUp p && decide (hTYPE hdr = 0xC) then
    let (ok, s) := s.rxOwn p hdr 0xC 1
    if !ok then .next s
    else
      let b := decide (beAt payload 0 1 = 1)
      let s := (s.put (if b then F.HLK_STAT_ENDB else F.HLK_STAT_ENDA) false).put (if b then F.HLK_STAT_BRKB else F.HLK_STAT_BRKA) true
      let s := match otherPort p with
        | some o => if s.portUp o then s.sendFlit o { flitOf hdr payload with src := 0, through := true } else s
        | none => s
      let s := s.event Ev.linkDown
      .next (if s.tsk.used.getLsbD b.toNat then s.taskError 0x31 else s)
  else .next s

/-- MIRROR_RECORD: a MIRR flit arrives in order on port M (R464 to R468). -/
def execMirrorRecord (x : MirrIn) (s : State) : Host.Outcome State Fault Refusal :=
  if s.portUp 2 && decide (hTYPE x.hdr = 0xD) then
    let (ok, s) := s.rxOwn 2 x.hdr 0xD 1
    .next (if ok then s.mirrorTake x.payload else s)
  else .next s

/-! ## ENUM (R298, R304) -/

/-- The reply of this module to an ENUM request. -/
def State.enumReply (s : State) (flags count base mm : Nat) : Flit :=
  { typ := 9, hb := true, src := s.hop
    bytes := [2] ++ beBytes 1 flags ++ beBytes 1 count ++ beBytes 1 base ++ beBytes 1 (s.hop + (s.flag F.HLK_ID_VALID).toNat * 128)
      ++ beBytes 1 mm ++ [0, 0] ++ (List.range 3).flatMap (fun k => beBytes 4 (s.reg (Reg.CFG_SERIAL k)).toNat)
      ++ beBytes 4 (s.reg Reg.CFG_ID).toNat }

/-- Take hop ID `n`: a renumbering closes the custodian session (R446); a report owed since a stopped start-up goes out (R530). -/
def State.takeHop (s : State) (n : Nat) : State :=
  let was := s.flag F.HLK_ID_VALID
  let s := (s.wr F.HLK_ID_HOP n).put F.HLK_ID_VALID true
  let s := if was then s.sessionShut else s
  if s.pwr.owed then ({ s with pwr := { s.pwr with owed := false } }).attention 1 else s

/-- The module answers an ENUM request on the port it came by; `HLK_ENUM_STAT` shows the reply. -/
def State.enumAnswer (s : State) (p : Fin 3) (flags count base mm : Nat) : State :=
  let r := s.enumReply flags count base mm
  let s := ((s.wr F.HLK_ENUM_STAT_HOPID (beAt r.bytes 4 1)).wr F.HLK_ENUM_STAT_COUNT count).wr F.HLK_ENUM_STAT_FLAGS flags
  (s.wr F.HLK_ENUM_STAT_BASE base).sendFlit p r

/-- An ENUM request is acted on (R298, R304): it numbers the module and goes on with COUNT + 1, or is answered at the chain's end or on
overflow. DEDUCED (log entry 43). -/
def State.enumRun (s : State) (p o : Fin 3) (payload : List Byte) : State :=
  let s := s.put (if p = 0 then F.HLK_STAT_ENDA else F.HLK_STAT_ENDB) true
  let flags := beAt payload 1 1
  let count := beAt payload 2 1
  let base := beAt payload 3 1
  let mm := beAt payload 5 1
  if count = 64 then s.enumAnswer p (flags % 8 + 8) (count + 1) base mm
  else
    let n := if flags % 2 = 0 then (base + count) % 64 else (base + 64 - count % 64) % 64
    let s := if !s.flag F.HLK_ID_VALID || ((flags / 2 % 2 = 1) && !s.taskRunning && decide (s.hop ≠ n)) then s.takeHop n else s
    let miss := decide (s.hop ≠ n)
    let flags' := if miss then flags ||| 4 else flags
    let mm := if miss && decide (mm < 128) then s.hop + 128 else mm
    if s.portUp o then
      let body := beBytes 1 1 ++ beBytes 1 (flags' % 8) ++ beBytes 1 (count + 1) ++ beBytes 1 base ++ beBytes 1 0 ++ beBytes 1 mm
      s.sendFlit o { typ := 9, bytes := body }
    else s.enumAnswer p (flags' % 8 + 16) (count + 1) base mm

/-- ENUM: a request in order is acted on; on port M, or with a reserved OP, it is dropped and counted. -/
def execEnum (p : Port) (hdr : Dword) (payload : List Byte) (s : State) : Host.Outcome State Fault Refusal :=
  let p := portIdx p
  if s.portUp p && decide (hTYPE hdr = 9) && !hHB hdr then
    let (ok, s) := s.rxOwn p hdr 9 1
    if !ok then .next s
    else match otherPort p with
      | none => .next (s.bump (Reg.HLK_P_DROP_CNT p))
      | some o => .next (if beAt payload 0 1 ≠ 1 then s.bump (Reg.HLK_P_DROP_CNT p) else s.enumRun p o payload)
  else .next s

/-! ## Refused writes (R314) -/

/-- A write of `HLK_ARB`. -/
def State.arbWrite (s : State) (v : Word) : State :=
  if F.HLK_ARB_ROUTE.of v = 3 ∨ F.HLK_ARB_THRU.of v = 0 then s.put F.HLK_STAT_CFGERR true
  else s.setReg Reg.HLK_ARB (v &&& 0x33F)

end Sys2Proof.Machine
end

