-- ==== Sys2Proof/Machine/Dma.lean ====
section
/-! DEFINITION. The module's accesses to host memory (R300, R303, R306, R309, R321): scatter lists, reads and writes of a task's data,
their completions and timeouts, and the flush. -/

namespace Sys2Proof.Machine

/-- Change the task's structure. -/
def State.modTsk (s : State) (f : Tsk → Tsk) : State := { s with tsk := f s.tsk }

/-- Bytes of data the task moves through its scatter list (R321, R323, R326). -/
def State.dataLen (s : State) : Nat :=
  match s.opcode with
  | 0x01 => s.tsk.count * 32768
  | 0x02 => s.tsk.count * 32768
  | 0x20 => s.descW 3 / 2 ^ 16 % 1024 * 32768
  | 0x40 => s.descW 3 * 64
  | 0x60 => s.descW 3
  | _ => 0

/-- Issue a host read (R294, R300): its answer is awaited in request order. -/
def State.sendMRD (s : State) (p : Fin 3) (m : Mrd) : State :=
  let s := s.sendFlit p { typ := 4, hb := true, src := s.hop, bytes := beBytes 8 m.addr ++ beBytes 4 m.len }
  { s with hlk := { s.hlk with mrds := s.hlk.mrds ++ [m] }
           tsk := { s.tsk with used := s.tsk.used ||| BitVec.ofNat 3 (2 ^ p.val) } }

/-- The port of a number. -/
def portOf (p : Fin 3) : Port := if p = 0 then .A else if p = 1 then .B else .M

/-! ## The scatter list (R321) -/

/-- The list is broken: class 0x32, naming the first block not covered. -/
def State.listError (s : State) : State :=
  s.taskError 0x32 (if s.isExtent then some (s.tsk.lba + s.tsk.sgTotal / 32768) else none)

/-- Fetch the next entries of a segment from `a` on: up to 256, as many as a window admits. -/
def State.listFetch (s : State) (a : Nat) : State :=
  let s := s.modTsk (fun t => { t with sgNext := some a })
  match (List.range 256).find? (fun k => s.winOk false a (16 * (256 - k))) with
  | none => s.winViol false a 16
  | some k =>
    let p := s.routePort 0
    s.sendMRD p { port := portOf p, addr := a, len := 16 * (256 - k), lba := 0, live := true, sg := true }

/-- A segment begins at `a` (R321, R340). -/
def State.listSegment (s : State) (a : Nat) : State :=
  ((s.setPair Reg.TSK_SG_ADDR_LO a).modTsk (fun t => { t with sgFrom := t.sgl.length })).listFetch a

/-- A task with data begins its list; with none named there is nothing to cover its data. DEDUCED (log entry 37). -/
def State.listStart (s : State) : State :=
  let a := s.descW 4 * 2 ^ 32 + s.descW 5
  if s.dataLen = 0 then s.modTsk (fun t => { t with sgDone := true })
  else if a = 0 then s.listError
  else s.listSegment a

/-- Read entries of a fetched segment, in order; the fuel bounds their number. `a` is the address of the first.
DEDUCED (log entry 37). -/
def State.listParse : Nat → Nat → List Byte → State → State
  | 0, _, _, s => s
  | fuel + 1, a, bs, s =>
    if bs.length < 16 then s.listFetch a
    else if s.tsk.sgN ≥ 65536 then s.listError
    else
      let addr := beAt bs 0 8
      let len := beAt bs 8 4
      let flags := beAt bs 12 4
      let s := s.modTsk (fun t => { t with sgN := t.sgN + 1 })
      if flags / 4 ≠ 0 then s.listError
      else if flags / 2 % 2 = 1 then (if addr % 16 ≠ 0 then s.listError else s.listSegment addr)
      else if addr % 64 ≠ 0 ∨ len % 4096 ≠ 0 ∨ len = 0 ∨ s.tsk.sgTotal + len > s.dataLen then s.listError
      else
        let s := s.modTsk (fun t => { t with sgl := t.sgl ++ [(addr, len)], sgTotal := t.sgTotal + len })
        if flags % 2 = 1 then
          (if s.tsk.sgTotal = s.dataLen then s.modTsk (fun t => { t with sgDone := true, sgNext := none }) else s.listError)
        else State.listParse fuel (a + 16) (bs.drop 16) s

/-- Where byte `pos` of the task's data lies: its host address, and the bytes left in its buffer. -/
def bufferAt : List (Nat × Nat) → Nat → Option (Nat × Nat)
  | [], _ => none
  | (a, n) :: r, pos => if pos < n then some (a + pos, n - pos) else bufferAt r (pos - n)

/-- Write bytes to the task's buffers from where its data stands; the fuel bounds the accesses. -/
def State.deliver : Nat → List Byte → State → State
  | 0, _, s => s
  | fuel + 1, bs, s =>
    if bs.isEmpty || !s.taskRunning then s
    else
      match bufferAt s.tsk.sgl s.tsk.moved with
      | none => s
      | some (a, left) =>
        let n := min (min left 32768) bs.length
        if s.winOk true a n then
          State.deliver fuel (bs.drop n)
            (((s.sendMWR (s.routePort 0) a (bs.take n)).modTsk (fun t => { t with moved := t.moved + n })).event Ev.dmaDone)
        else s.winViol true a n

/-- Issue reads of the task's whole data, when no block of it has an LBA; the fuel bounds the accesses. -/
def State.collect : Nat → State → State
  | 0, s => s
  | fuel + 1, s =>
    if !s.taskRunning then s
    else
      match bufferAt s.tsk.sgl s.tsk.moved with
      | none => s
      | some (a, left) =>
        let n := min left 32768
        let p := s.routePort 0
        if s.winOk false a n then
          State.collect fuel ((s.sendMRD p { port := portOf p, addr := a, len := n, lba := 0, live := true, sg := false, ofs := s.tsk.moved }).modTsk
            (fun t => { t with moved := t.moved + n }))
        else s.winViol false a n

/-! ## Data of an extent (R300, R306, R321, R388) -/

/-- One block's data goes to the host: it has landed, and every lower block has gone. -/
def State.dmaOut (s : State) (addr len lba : Nat) (b : Beam) : State :=
  let at_ := streamAddr b lba + s.tsk.moved % 32768
  if !s.winOk true addr len then s.winViol true addr len
  else if s.anyPoisoned at_ len then (s.consumePoison at_ 2).taskError 0x40 (some lba)
  else
    let s := (s.touchLines at_ len false 2).sendMWR (s.routePort lba) addr (s.dramBytes at_ len)
    let s := (s.modTsk (fun t => { t with moved := t.moved + len })).event Ev.dmaDone
    if s.tsk.moved % 32768 = 0 then
      let s := s.modTsk (fun t => { t with landed := t.landed.filter (fun l => l.1 ≠ lba) })
      State.advance (s.tsk.done.length + s.tsk.bad.length) s
    else s

/-- One block's data comes from the host. -/
def State.dmaIn (s : State) (addr len lba : Nat) : State :=
  if !s.winOk false addr len then s.winViol false addr len
  else
    let p := s.routePort lba
    let s := s.sendMRD p { port := portOf p, addr := addr, len := len, lba := lba, live := true, sg := false, ofs := s.tsk.moved % 32768 }
    s.modTsk (fun t => { t with moved := t.moved + len })

/-- DMA_ISSUE: the DMA issues the next piece of the running extent task's data, `len` bytes of block `lba` at `addr`. A piece that is
not the next of the list, or not yet in the stream buffers, is not issued. -/
def execDmaIssue (write : Bool) (addr : Dword) (len : Nat) (lba : BitVec 25) (s : State) : Host.Outcome State Fault Refusal :=
  let next := s.tsk.lba + s.tsk.moved / 32768
  if !s.taskRunning || s.tsk.ending || s.tsk.work || decide (next ≠ lba.toNat) || decide (next ≥ s.tsk.lba + s.tsk.count) then .next s
  else
    match bufferAt s.tsk.sgl s.tsk.moved with
    | none => .next s
    | some (a, left) =>
      if a ≠ addr.toNat ∨ len = 0 ∨ len > left ∨ len > 32768 - s.tsk.moved % 32768 then .next s
      else if write then
        if s.opcode ≠ 1 then .next s
        else match s.tsk.landed.find? (·.1 = next) with
          | some (_, b) => .next (s.dmaOut a len next b)
          | none => .next s
      else if s.opcode = 2 then .next (s.dmaIn a len next) else .next s

/-! ## Completions -/

/-- The oldest read of a port that is not answered, and the others. -/
def popMrd (p : Port) : List Mrd → Option (Mrd × List Mrd)
  | [] => none
  | m :: r => if m.port = p then some (m, r) else (popMrd p r).map (fun q => (q.1, m :: q.2))

/-- A read's data is used: entries of the list, a block's bytes in its stream buffer slot, or what a task without blocks reads. -/
def State.mrdData (s : State) (m : Mrd) (data : List Byte) : State :=
  let bs := bytesAt data 0 m.len
  if m.sg then State.listParse 257 m.addr bs s
  else if s.opcode = 2 then
    let s := (s.storeBytes (streamAddr (homeBeam m.lba) m.lba + m.ofs) bs 2).event Ev.dmaDone
    if m.ofs + m.len = 32768 then s.modTsk (fun t => { t with fetched := t.fetched ++ [m.lba] }) else s
  else s.event Ev.dmaDone

/-- Flits of an MCPL of `n` data bytes (R294). -/
def mcplFlits (n : Nat) : Nat := 1 + (n - 106 + 121) / 122

/-- MCPL: a read's completion, with its DATA flits (R294, R300, R303, R309): `body` holds the status, 15 reserved bytes and all the data.
One that nothing awaits is dropped; one of a task that has ended, or of a read that timed out, is dropped and counted.
DEDUCED (log entry 70). -/
def execMcpl (p : Port) (hdr : Dword) (body : List Byte) (s : State) : Host.Outcome State Fault Refusal :=
  let i := portIdx p
  if !(s.portUp i && decide (hTYPE hdr = 6) && s.mine hdr) then .next s
  else
    let (ok, s) := s.rxOwn i hdr 6 (mcplFlits (body.length - 16))
    if !ok then .next s
    else match popMrd p s.hlk.mrds with
      | none => .next s
      | some (m, r) =>
        let s := { s with hlk := { s.hlk with mrds := r } }
        if !m.live then .next (s.bump (Reg.HLK_P_LATE_CNT i))
        else if beAt body 0 1 ≠ 0 then .next (s.taskError 0x32)
        else .next (s.mrdData m (body.drop 16))

/-- MRD_TIMEOUT: the oldest read not yet answered is not answered within CTO, and the task that wants it ends with 0x31 (R303). What
still comes for it is late. -/
def execMrdTimeout (s : State) : Host.Outcome State Fault Refusal :=
  match s.hlk.mrds.findIdx? (fun m => !m.timed) with
  | none => .next s
  | some k =>
    let live := (s.hlk.mrds.getD k { port := .A, addr := 0, len := 0, lba := 0, live := false, sg := false }).live
    let gone := s.hlk.mrds.modify k (fun m => { m with live := false, held := false, timed := true })
    let s := { s with hlk := { s.hlk with mrds := gone } }
    .next (if live then s.taskError 0x31 else s)

/-- FLACK: a FLUSH is answered (R300); the last one a successful task awaits ends it (R329). -/
def execFlack (x : PortHdr) (s : State) : Host.Outcome State Fault Refusal :=
  let i := portIdx x.port
  if !(s.portUp i && decide (hTYPE x.hdr = 0xB) && s.mine x.hdr) then .next s
  else
    let (ok, s) := s.rxOwn i x.hdr 0xB 1
    if !ok then .next s
    else
      let s := { s with hlk := { s.hlk with flush := s.hlk.flush.set i (s.hlk.flush[i] - 1) } }
      .next (if s.tsk.ending && s.taskRunning && s.flushed then s.taskDone else s)

end Sys2Proof.Machine
end

