-- ==== Sys2Proof/Machine/Tsk.lean ====
section
/-! DEFINITION. The tasks of R323: what each does once its GO is accepted and checked, and how it ends (R325 to R329). A task's row
is the base microcode at work on it: it acts while the task of its opcode runs, TASK is 1 and its work is not done. -/

namespace Sys2Proof.Machine

/-- The task of the opcode runs, checked, with work to do. DEDUCED (log entry 35). -/
def State.works (s : State) (op : Nat) : Bool := s.taskRunning && decide (s.opcode = op) && s.tsk.work && !s.tsk.unchecked && !s.tsk.ending

/-- The work of the task is done. -/
def State.workDone (s : State) : State := s.modTsk (fun t => { t with work := false })

/-- Set the stage a task has reached. -/
def State.setPhase (s : State) (k : Nat) : State := s.modTsk (fun t => { t with phase := k })

/-- Set words 10 to 15 of the record (R326). -/
def State.setResults (s : State) (ns : List Nat) : State := s.modTsk (fun t => { t with res := ns.map (BitVec.ofNat 32) })

/-! ## The spindle -/

/-- SPIN to a speed; a refusal that has a class ends the task with it. DEDUCED (log entry 23). -/
def State.taskSpin (s : State) (rpm : Nat) : State :=
  let s := s.spnTarget rpm
  match s.spnRefusal 1 with
  | some (_, some c) => (s.spnCommand 1 State.spinRun).taskError c
  | _ => s.spnCommand 1 State.spinRun

/-- A spindle command of the task, likewise. -/
def State.taskSpindle (s : State) (op : Nat) (run : State → State) : State :=
  match s.spnRefusal op with
  | some (_, some c) => (s.spnCommand op run).taskError c
  | _ => s.spnCommand op run

/-- The speed of the descriptor, or a default of the configuration (R320, R430). -/
def State.speedOr (s : State) (k : Nat) : Nat := if s.tskSpeed = 0 then (s.reg (Reg.CFG_PARAM k)).toNat else s.tskSpeed

/-- An extent ramps the spindle to its speed when needed (R325). -/
def State.extentSpin (s : State) (rpm : Nat) : State :=
  if s.spnState = 4 ∧ s.rd F.SPN_TARGET_RPM = rpm then s else s.taskSpin rpm

/-! ## Extents -/

/-- Heads on whose side the extent has blocks. -/
def State.extentHeads (s : State) : List Head :=
  (List.finRange 4).filter (fun h => if headSide h = 0 then decide (s.tsk.lba < 2 ^ 24) else decide (2 ^ 24 < s.tsk.lba + s.tsk.count))

/-- An extent brings the beams it works with to READ, or, for a write, to VERIFY, and enables the units that serve it (R16, R108).
DESIGN CHOICE (log entry 50). -/
def State.extentModes (s : State) (write : Bool) : State :=
  let s := s.put F.DET_GCTRL_EN true
  let s := if write then s.put F.VFY_CTRL_EN true else s.put F.DEC_CTRL_EN true
  forEach s.extentHeads (fun h s => forEach (List.range 4) (fun d s =>
    s.wr (F.DET_CTRL_MODE (headBeam h d)) (if write then 2 else 1)) s) s

/-- READ_EXTENT: the spindle ramps, and the list is fetched; blocks then come by capture, decode and DMA. -/
def execReadExtent (s : State) : Host.Outcome State Fault Refusal :=
  if s.works 1 then .next (((s.workDone.extentModes false).extentSpin (s.speedOr 0)).listStart) else .next s

/-- VERIFY_EXTENT: as a read, without delivery. -/
def execVerifyExtent (s : State) : Host.Outcome State Fault Refusal :=
  if s.works 3 then .next (((s.workDone.extentModes false).extentSpin (s.speedOr 0)).listStart) else .next s

/-- The LBAs of the task. -/
def State.taskLbas (s : State) : List Nat := (List.range s.tsk.count).map (· + s.tsk.lba)

/-- WRITE_EXTENT: each block is planned for its home slot on the beam of its track (R34, R36, R179). -/
def execWriteExtent (s : State) : Host.Outcome State Fault Refusal :=
  if s.works 2 && !s.tskFlag 1 then
    let s := ((s.workDone.extentModes true).extentSpin (s.speedOr 1)).listStart
    .next (if s.taskRunning then
      forEach s.taskLbas (fun l s => s.modW (homeBeam l) (fun x => { x with plan := x.plan ++ [⟨l, .home, 0, lbaZL l, 0, []⟩] })) s else s)
  else .next s

/-- WRITE_EXTENT with SPARE = 1: each block joins its replacement queue as if its home write had failed (R336). -/
def execWriteExtentSpare (s : State) : Host.Outcome State Fault Refusal :=
  if s.works 2 && s.tskFlag 1 then
    let s := ((s.workDone.extentModes true).extentSpin (s.speedOr 1)).listStart
    .next (if s.taskRunning then forEach s.taskLbas (fun l s => s.queueJoin l) s else s)
  else .next s

/-! ## The catalogue (R23 to R25, R414, R415) -/

/-- First byte of a catalogue entry. -/
def catBase (n : Nat) : Nat := n * 2 ^ 20

/-- Entries with a disc identity, in rising order (R25). -/
def State.catUsed (s : State) : List Nat :=
  ((s.dram.filter (fun c => decide (c.1 < 2 ^ 32) && decide (c.1 % 2 ^ 20 < 16))).map (fun c => c.1 / 2 ^ 20)).dedup

/-- A number in a catalogue entry, and the same put there. -/
def State.catNat (s : State) (n ofs k : Nat) : Nat := beNat (s.dramBytes (catBase n + ofs) k)
def State.catPut (s : State) (n ofs k v : Nat) : State := s.storeBytes (catBase n + ofs) (beBytes k v) 2

/-- Empty a catalogue entry. -/
def State.catClear (s : State) (n : Nat) : State :=
  { s with dram := s.dram.filter (fun c => decide (c.1 < catBase n) || decide (catBase (n + 1) ≤ c.1)) }

/-- The first sector of an entry's flash slot, and its first word (R414). -/
def catSector (n : Nat) : Nat := 1040 + 3 * n
def catWord (n : Nat) : Nat := catSector n * 1024

/-- Erase an entry's flash slot. -/
def State.slotErase (s : State) (n : Nat) : State :=
  ((s.engineErase 2 (s.physSec (catSector n))).engineErase 2 (s.physSec (catSector n + 1))).engineErase 2 (s.physSec (catSector n + 2))

/-- Program a word of an entry's flash slot. -/
def State.slotPut (s : State) (n k : Nat) (v : Word) : State := s.engineProgram 2 (s.physWord (catWord n + k)) v

/-- Read a replacement entry (R50): none when it is unused. -/
def entryOf (bs : List Byte) : Option RplEntry :=
  let w := beNat bs
  if w = 2 ^ 64 - 1 then none else some ⟨w / 2 ^ 39, w / 2 ^ 24 % 2 ^ 15, w / 2 ^ 8 % 2 ^ 16, true⟩

/-- The entry of the disc with an identity. -/
def State.catFind (s : State) (identity : List Byte) : Option Nat := s.catUsed.find? (fun n => s.dramBytes (catBase n) 16 = identity)

/-- The entry a new disc takes: the first empty one, or in a full catalogue the least recently loaded (R325). -/
def State.catTake (s : State) : Nat :=
  let used := s.catUsed
  match (List.range 4096).find? (fun n => !used.contains n) with
  | some n => n
  | none => (used.foldl (fun best n => match best with
      | none => some n
      | some b => if s.catNat n 28 4 < s.catNat b 28 4 then some n else some b) none).getD 0

/-! ## LOAD_DISC -/

/-- A disc record (R51) in a management block, when its signature and CRC-32 are right. -/
def validRecord (bs : List Byte) : Bool :=
  decide (bs.length = 32768) && decide (beAt bs 0 8 = 0x534C584D47524543) && decide (crc32 (bs.take 32764) = beAt bs 32764 4)

/-- The block carries a record's signature. -/
def isRecord (bs : List Byte) : Bool := decide (beAt bs 0 8 = 0x534C584D47524543)

/-- The last valid disc record: that of layer 0 with the highest sequence number, else that of layer 8 (R53 step 1). -/
def lastRecord (blocks : List MgmtBlock) : Option (List Byte) :=
  let pick (l : Nat) : Option (List Byte) :=
    ((blocks.filter (fun b => decide (b.layer.val = l) && validRecord b.bytes)).map (·.bytes)).foldl (fun best r => match best with
      | none => some r
      | some q => if beAt q 12 4 < beAt r 12 4 then some r else some q) none
  match pick 0 with
  | some r => some r
  | none => pick 8

/-- Insert a block by rising slot. -/
def insSlot (b : MgmtBlock) : List MgmtBlock → List MgmtBlock
  | [] => [b]
  | c :: r => if b.slot < c.slot then b :: c :: r else c :: insSlot b r

/-- The entry blocks of a layer, in rising slot order. DEDUCED (log entry 41). -/
def entryBlocks (blocks : List MgmtBlock) (layer : Nat) : List MgmtBlock :=
  (blocks.filter (fun b => decide (b.layer.val = layer) && decide (b.bytes.length = 32768) && !isRecord b.bytes)).foldl (fun l b => insSlot b l) []

/-- The entries of a block that are not skipped (R53 step 2). -/
def blockEntries (layer : Nat) (bs : List Byte) : List RplEntry :=
  (List.range 4096).filterMap (fun i => match entryOf (bytesAt bs (8 * i) 8) with
    | some e => if lbaLayer e.lba = layer ∧ e.spare < spares (lbaZL e.lba) then some e else none
    | none => none)

/-- Apply an entry: a later one replaces an earlier one for its LBA. -/
def applyEntry (t : List RplEntry) (e : RplEntry) : List RplEntry := t.filter (·.lba ≠ e.lba) ++ [e]

/-- The entries a catalogue entry holds. -/
def State.catTable (s : State) (n : Nat) : List RplEntry :=
  (List.range (s.catNat n 24 4)).filterMap (fun i => entryOf (s.dramBytes (catBase n + 8192 + 8 * i) 8))

/-- The catalogue entry is current for the record (R24), and no line of it that is read is poisoned (R388). -/
def State.catCurrent (s : State) (n : Nat) (rec_ : List Byte) : Bool :=
  decide (s.dramBytes (catBase n) 16 = bytesAt rec_ 16 16) && decide (s.catNat n 16 4 = beAt rec_ 12 4) &&
  decide (s.catNat n 20 2 = beAt rec_ 32 2) && !(s.catNat n 22 2).testBit 2 &&
  !s.anyPoisoned (catBase n) (8192 + 8 * s.catNat n 24 4)

/-- The flash slot of an entry is valid, and holds a table whose word 9 does not check (R415). -/
def State.slotBadTable (s : State) (n : Nat) : Bool × Bool × State :=
  let (st, s) := s.flashGet (catWord n)
  if st ≠ 0x5A5A0001 then (false, false, s)
  else
    let (fl, s) := s.flashGet (catWord n + 8)
    let (k, s) := s.flashGet (catWord n + 6)
    let (c, s) := s.flashGet (catWord n + 9)
    let (ws, s) := State.flashWords (catWord n + 32) (2 * min 1520 k.toNat) s
    (true, fl.getLsbD 0 && decide (crc32 (wordsBytes ws) ≠ c.toNat), s)

/-- OPC factors held in a catalogue entry (R25): one set of each head of each zone-layer that was measured, none where all four are 0. -/
def State.catOpc (s : State) (n : Nat) : List OpcFactors :=
  ((List.range 320).flatMap (fun k => (List.range 2).map (fun j =>
    (⟨Fin.ofNat 320 k, Fin.ofNat 4 (2 * j + k / 160), (List.range 4).map (fun d => s.catNat n (1024 + 16 * k + 8 * j + 2 * d) 2),
      false, true⟩ : OpcFactors)))).filter
    (fun o => o.f.any (fun v => decide (v ≠ 0)))

/-- The load count that a load shows: the value of counter 1 (R409). -/
def State.loadCount (s : State) : Nat := (s.reg (Reg.FLC_MC_VAL 1)).toNat

/-- Increments of a counter, one at a time; a bad counter takes none (R412, R413). -/
def State.mcRaise (c : Fin 2) : Nat → State → State
  | 0, s => s
  | n + 1, s => State.mcRaise c n (if s.flag (F.FLC_MC_STAT_BAD c) then s else s.mcStep c)

/-- The records are applied (R52, R53 steps 1, 2 and 4). A layer's next management slot is the one behind the last that did not read
BLANK, a disc without a record shows an identity of zeros, and the entries recorded in a layer are counted anew from those applied.
DESIGN CHOICE (log entry 56). -/
def State.loadRecords (s : State) (blocks : List MgmtBlock) : State :=
  let rec_ := lastRecord blocks
  let r := rec_.getD []
  let es := (List.range 16).flatMap (fun l => (entryBlocks blocks l).flatMap (fun b => blockEntries l b.bytes))
  let wgen := if rec_.isSome then nextWGEN (beAt r 32 2) else 1
  let slots (l : Nat) : Nat := ((blocks.filter (fun b => b.layer.val = l)).map (fun b => b.slot + 1)).foldl max 0
  let d : Disc :=
    { identity := if rec_.isSome then bytesAt r 16 16 else List.replicate 16 0
      recSeq := if rec_.isSome then beAt r 12 4 else 0
      hasRecord := rec_.isSome
      recWgen := if rec_.isSome then beAt r 32 2 else 0
      nextFree := Vector.ofFn (fun i : Fin 320 => if rec_.isSome then beAt r (40 + 2 * i.val) 2 else 0)
      mgmtNext := Vector.ofFn (fun l : Fin 16 => slots l.val)
      recorded := Vector.ofFn (fun l : Fin 16 => (es.filter (fun e => decide (lbaLayer e.lba = l.val))).length)
      rebuild := List.range 320
      loads := s.loadCount }
  let s := State.withTable { s with disc := d } (es.foldl applyEntry [])
  let s := forEach (List.range 16) (fun b s => s.wr (F.LDD_SCALE_OPC (5 * (b / 4) + 1 + b % 4)) 256) s
  ((s.put F.TSK_DISC_LOADED true).put F.TSK_DISC_CATALOGUED false).wr F.TSK_DISC_WGEN wgen

/-- The catalogue's part of a load (R23 to R25, R325, R415): a current entry gives the table and the factors; the entry's load count is
brought up to date, or a new disc takes an entry; a valid flash slot is consumed. DEDUCED (log entry 42). -/
def State.loadCatalogue (s : State) (rec_ : List Byte) (nocat : Bool) : State :=
  let d := s.disc
  let found := s.catFind d.identity
  let n := found.getD s.catTake
  let (valid, bad, s) := s.slotBadTable n
  let held := found.isSome && !nocat && s.catCurrent n rec_ && !bad
  let flags := s.catNat n 22 2
  let s := if held then s.touchLines (catBase n) (if flags.testBit 0 then 8192 + 8 * s.catNat n 24 4 else 8192) false 2 else s
  let s := if held && flags.testBit 0 then
      (State.withTable { s with disc := { s.disc with ready := Vector.replicate 320 true, rebuild := [] } } (s.catTable n)).put F.TSK_DISC_CATALOGUED true
    else s
  let s := if held && flags.testBit 1 then { s with disc := { s.disc with opc := s.catOpc n } } else s
  let s := if found.isSome then s
    else (((s.catClear n).storeBytes (catBase n) d.identity 2).catPut n 16 4 d.recSeq).catPut n 20 2 (beAt rec_ 32 2)
  let s := s.catPut n 28 4 d.loads
  let s := if valid then s.slotPut n 0 0 else s
  { s with disc := { s.disc with catEntry := some n } }

/-- The disc is loaded: its records and its catalogue entry are applied, and what the task reports is set (R325, R326). -/
def State.loadApply (s : State) (blocks : List MgmtBlock) : State :=
  let s := s.loadRecords blocks
  let s := match lastRecord blocks with
    | some r => s.loadCatalogue r (s.tskFlag 2)
    | none => s
  let s := s.mirrDisc
  let d := s.disc
  let all := d.ready.toList.all id
  let s := s.setResults ([s.rd F.TSK_DISC_WGEN + (s.flag F.TSK_DISC_CATALOGUED).toNat * 2 ^ 31, d.table.length, if all then 320 else 0]
    ++ (List.range 3).map (fun k => beAt d.identity (4 * k) 4))
  (if all then s.discReadyEvent else s).workDone

/-- Release a head that is not IDLE (R225, R325). -/
def State.headRelease (s : State) (h : Head) : State := if s.lsvIdle h then s else s.lsvCommand h 5 0 (·.releaseRun h)

/-- The spindle is STOPPED and every head IDLE, as a load handshake needs them (R495). -/
def State.driveRests (s : State) : Bool := decide (s.spnState = 0) && (List.finRange 4).all (fun h => s.lsvIdle h)

/-- The heads are released and the spindle stopped, for a load handshake (R495). -/
def State.driveRest (s : State) : State :=
  let s := (List.finRange 4).foldl State.headRelease s
  if s.spn.cmd = 0 ∧ s.spnState ≠ 0 then s.taskSpindle 2 State.stopRun else s

/-- LOAD_DISC (R325): with the spindle stopped and the heads idle, the load count rises and the robot handshake begins; the robot's LOAD_DONE spins the disc to the default read
speed; at speed, what the management slots read as (`blocks`) is applied. DEDUCED (log entry 36). -/
def execLoadDisc (blocks : List MgmtBlock) (s : State) : Host.Outcome State Fault Refusal :=
  if s.works 0x10 then
    match s.tsk.phase with
    | 0 => .next (if s.driveRests then (State.mcRaise 1 1 s).mgmtFresh.hsStart 1 |>.setPhase 1 else s.driveRest)
    | 1 => .next (if s.lbs.hs = 5 then (s.setPhase 2).taskSpin (s.reg (Reg.CFG_PARAM 0)).toNat else s)
    | _ => .next (if s.flag F.SPN_STAT_ATSPEED then s.loadApply (s.mgmtBlocks blocks) else s)
  else .next s

/-! ## UNLOAD_DISC -/

/-- The table of the loaded disc may be kept with at most `n` entries (R23, R414): after a failed record event, or with a zone-layer not
ready, it is not held. DEDUCED (log entry 42). -/
def State.tableHeld (s : State) (n : Nat) (failed : Bool) : Bool :=
  !failed && decide (s.disc.table.length ≤ n) && s.disc.ready.toList.all id

/-- Write the disc's catalogue entry (R24, R25): after a failed record event without its table and with flag bit 2 set; OPC factors are
kept when they came from it or were measured with `VFY_OPC_CFG.MODE` = 1, the measured ones over the others (R175, R189).
DESIGN CHOICE (log entry 51). -/
def State.catWrite (s : State) (n : Nat) (failed : Bool) : State :=
  let d := s.disc
  let held := s.tableHeld 130048 failed
  let es := if held then d.table else []
  let fs := d.opc.filter (·.keep)
  let opc := !fs.isEmpty
  let s := (s.catClear n).storeBytes (catBase n) d.identity 2
  let s := ((s.catPut n 16 4 d.recSeq).catPut n 20 2 d.recWgen).catPut n 22 2 (held.toNat + opc.toNat * 2 + failed.toNat * 4)
  let s := (s.catPut n 24 4 es.length).catPut n 28 4 d.loads
  let s := forEach fs (fun o s => forEach (List.range 4) (fun k s =>
    s.catPut n (1024 + 16 * o.zl.val + 8 * (o.head.val / 2) + 2 * k) 2 (o.f.getD k 256)) s) s
  (List.range es.length).foldl (fun s i => s.catPut n (8192 + 8 * i) 8 (entryDword (es.getD i ⟨0, 0, 0, true⟩))) s

/-- Write the disc's flash slot (R414, R415): the entries and words 1 to 31, word 0 last. -/
def State.slotWrite (s : State) (n : Nat) (failed : Bool) : State :=
  let d := s.disc
  let held := s.tableHeld 1520 failed
  let es := if held then d.table else []
  let ews := es.flatMap (fun e => beBytes 8 (entryDword e))
  let w (k : Nat) : Word := BitVec.ofNat 32 (beAt ews (4 * k) 4)
  let head : List Nat := (List.range 4).map (fun k => beAt d.identity (4 * k) 4) ++
    [d.recWgen, es.length, d.loads, held.toNat + failed.toNat * 4, crc32 ews, d.recSeq] ++ List.replicate 20 0
  let s := s.slotErase n
  let s := (List.range (2 * es.length)).foldl (fun s k => s.slotPut n (32 + k) (w k)) s
  let s := (List.range 30).foldl (fun s k => s.slotPut n (1 + k) (BitVec.ofNat 32 (head.getD k 0))) s
  (s.slotPut n 31 (BitVec.ofNat 32 (crc32 (head.flatMap (beBytes 4))))).slotPut n 0 0x5A5A0001

/-- What the record event of R24 leaves: the catalogue entry and the flash slot, for a disc that has a record. -/
def State.catalogueDisc (s : State) (failed : Bool) : State :=
  if s.disc.hasRecord then
    let n := s.disc.catEntry.getD ((s.catFind s.disc.identity).getD s.catTake)
    (s.catWrite n failed).slotWrite n failed
  else s

/-- The spindle is brought to the gripper angle (R262, R325, R430) by a PARK from RUN or STOPPING. PARK latches its offset on the way
down, so from HELD and DRIVEN the spindle stops first, and from STOPPED it runs up to the default read speed.
DEDUCED (log entry 42). -/
def State.gripperPark (s : State) : State :=
  if s.spn.cmd ≠ 0 then s
  else if s.spnLoops then
    let s := (s.wr F.SPN_PARK_ANGLE (s.reg (Reg.CFG_PARAM 2)).toNat).taskSpindle 5 State.parkRun
    if s.spn.cmd = 5 then s.setPhase 2 else s
  else if s.spnState = 7 ∨ s.spnState = 8 then s.taskSpindle 2 State.stopRun
  else if s.spnState = 0 ∨ s.spnState = 9 then s.taskSpin (s.reg (Reg.CFG_PARAM 0)).toNat
  else s

/-- Entries a record event of the disc would write. -/
def State.toRecord (s : State) : Nat := (s.disc.table.filter (fun e => !e.recorded)).length

/-- UNLOAD_DISC (R325): the record event when it is due, and the catalogue entry, which
is written after a failed event too (R24); the heads and the spindle; then the robot handshake, once PARK has ended in HELD; then the end, with 0x13 when the
record event had failed under FORCE. DEDUCED (log entry 42). -/
def execUnloadDisc (s : State) : Host.Outcome State Fault Refusal :=
  if s.works 0x11 then
    match s.tsk.phase with
    | 0 =>
      let n := s.toRecord
      let due := s.disc.changed || decide (0 < s.disc.added)
      let (ok, s) := if due then s.taskRecord false else (true, s)
      let s := s.catalogueDisc (!ok)
      if !ok && !s.tskFlag 3 then .next (s.taskError 0x13)
      else
        let s := s.setResults [s.disc.recSeq, if due && ok then n else 0, 0, 0, 0, 0]
        let s := s.modTsk (fun t => { t with failed := !ok, phase := 1 })
        .next ((List.finRange 4).foldl State.headRelease s).gripperPark
    | 1 => .next s.gripperPark
    | 2 => .next (if s.spn.cmd ≠ 0 then s
        else if s.spnState = 8 ∧ s.flag F.SPN_STAT_PARKED = true then (s.hsStart 2).setPhase 3 else s.taskError 0x52)
    | _ => .next (if s.lbs.hs = 6 then (if s.tsk.failed then s.taskError 0x13 else s.workDone) else s)
  else .next s

/-! ## Spindle tasks -/

/-- SPIN_UP. -/
def execSpinUp (s : State) : Host.Outcome State Fault Refusal :=
  if s.works 0x12 then .next (s.workDone.taskSpin (s.speedOr 0)) else .next s

/-- SPIN_DOWN with STOP, BRAKE or PARK (R323). -/
def State.spinDown (s : State) (k op : Nat) (run : State → State) : State :=
  if s.works 0x13 && decide (s.descW 2 % 4 = k) then
    let s := s.workDone
    if s.spnState = 0 ∧ k ≠ 2 then s else s.taskSpindle op run
  else s

def execSpinDownStop (s : State) : Host.Outcome State Fault Refusal := .next (s.spinDown 0 2 State.stopRun)
def execSpinDownBrake (s : State) : Host.Outcome State Fault Refusal := .next (s.spinDown 1 3 State.brakeRun)
def execSpinDownPark (s : State) : Host.Outcome State Fault Refusal :=
  .next ((if s.works 0x13 && decide (s.descW 2 % 4 = 2) then s.wr F.SPN_PARK_ANGLE (s.descW 3) else s).spinDown 2 5 State.parkRun)

/-! ## Management area, record event, spare scan -/

/-- READ_MGMT (R325): the list is fetched; then blocks are delivered in slot order, to the first that is not there.
DEDUCED (log entry 42). -/
def State.readBlocks (blocks : List MgmtBlock) (layer : Nat) : Nat → Nat → State → State
  | 0, _, s => s.workDone
  | n + 1, j, s =>
    if !s.taskRunning then s
    else
      match blocks.find? (fun b => decide (b.layer.val = layer) && decide (b.slot = j)) with
      | none => s.workDone
      | some b =>
        if b.bytes.length ≠ 32768 then s.taskError 0x10
        else
          let s := State.deliver 32768 b.bytes s
          if s.taskRunning then
            let k := s.doneCount
            State.readBlocks blocks layer n (j + 1) ((s.setReg Reg.TSK_PROG (BitVec.ofNat 32 (k + 1))).setResults [k + 1, 0, 0, 0, 0, 0])
          else s

def execReadMgmt (blocks : List MgmtBlock) (s : State) : Host.Outcome State Fault Refusal :=
  if s.works 0x20 then
    if s.tsk.phase = 0 then .next (s.mgmtFresh.listStart.setPhase 1)
    else if s.tsk.sgDone then
      .next (State.readBlocks (s.mgmtBlocks blocks) (s.descW 2 % 16) (s.descW 3 / 2 ^ 16 % 1024) (s.descW 3 % 1024) s)
    else .next s
  else .next s

/-- CLOSE_SESSION: one record event (R325). -/
def execCloseSession (s : State) : Host.Outcome State Fault Refusal :=
  if s.works 0x21 then
    let n := s.toRecord
    match s.taskRecord true with
    | (true, s) => .next ((s.setResults [s.disc.recSeq, n, 0, 0, 0, 0]).workDone)
    | (false, s) => .next (s.taskError 0x13)
  else .next s

/-- SCAN_SPARE: the named zone-layers enter the rebuild's order, ready ones too (R325). -/
def execScanSpare (s : State) : Host.Outcome State Fault Refusal :=
  if s.works 0x31 && decide (s.tsk.phase = 0) then
    let zls := (List.range (s.descW 3)).map (· + s.descW 2)
    let s := s.setPhase 1
    let s := { s with disc := { s.disc with rebuild := zls ++ s.disc.rebuild.filter (fun z => !zls.contains z) } }
    let s := s.modTsk (fun t => { t with scans := zls })
    .next (if zls.isEmpty then s.workDone else s)
  else .next s

/-! ## Catalogue tasks -/

/-- A directory entry of CATALOG_READ (R326). -/
def State.directory (s : State) (n : Nat) : List Byte :=
  s.dramBytes (catBase n) 16 ++ s.dramBytes (catBase n + 24) 4 ++ [0, 0] ++ s.dramBytes (catBase n + 22) 2
    ++ s.dramBytes (catBase n + 28) 4 ++ List.replicate 36 0

/-- CATALOG_READ: the list is fetched; then one 64-byte entry is written per catalogue entry. -/
def execCatalogRead (s : State) : Host.Outcome State Fault Refusal :=
  if s.works 0x40 then
    if s.tsk.phase = 0 then .next (s.listStart.setPhase 1)
    else if s.tsk.sgDone then
      let n := s.descW 3
      let bs := (List.range n).flatMap (fun k => s.directory (s.descW 2 + k))
      let s := forEach (List.range n) (fun k s => s.touchLines (catBase (s.descW 2 + k)) 32 false 2) s
      let s := State.deliver (64 * n + 1) bs s
      let count (k : Nat) (s : State) : State := (s.setReg Reg.TSK_PROG (BitVec.ofNat 32 (k + 1))).progressEvent k
      .next (if s.taskRunning then ((forEach (List.range n) count s).setResults [n, 0, 0, 0, 0, 0]).workDone else s)
    else .next s
  else .next s

/-- CATALOG_EVICT: the entry is emptied and its flash slot erased (R325, R415). -/
def State.evict (s : State) (n : Nat) : State := (s.catClear n).slotErase n

def execCatalogEvict (s : State) : Host.Outcome State Fault Refusal :=
  if s.works 0x41 && !s.tskFlag 4 then .next (s.evict (s.descW 2)).workDone else .next s

/-- CATALOG_EVICT with ALL = 1: every entry but the loaded disc's. -/
def execCatalogEvictAll (s : State) : Host.Outcome State Fault Refusal :=
  if s.works 0x41 && s.tskFlag 4 then
    .next (forEach ((List.range 4096).filter (fun n => decide (s.disc.catEntry ≠ some n))) (fun n s => s.evict n) s).workDone
  else .next s

/-! ## PAIR_HANDOVER, PATCH_LOAD, NOP -/

/-- PAIR_HANDOVER: ownership is released to the armed standby (R473). Its end is the partner's claim. -/
def execPairHandover (s : State) : Host.Outcome State Fault Refusal :=
  if s.works 0x50 && decide (s.tsk.phase = 0) then .next ((s.setPhase 1).handover) else .next s

/-- The value of the anti-rollback counter. -/
def State.antiRollback (s : State) : Nat := (s.reg (Reg.FLC_MC_VAL 0)).toNat

/-- Record `i` of a patch (R364): its type, its address and its 16 bytes. -/
def patchRecord (p : List Byte) (i : Nat) : Nat × Nat × Nat := (beAt p (32 + 32 * i) 2, beAt p (34 + 32 * i) 2, beAt p (48 + 32 * i) 16)

/-- A patch that R365 refuses with 0x51, DETAIL 3. -/
def State.patchBad (s : State) (p : List Byte) : Bool :=
  let n := beAt p 12 2
  decide (beAt p 0 8 ≠ 0x4C47445041544348) || decide (beAt p 16 4 ≠ (s.reg Reg.SEQ_UCODE_VER).toNat) || decide (n > 511) ||
  decide (beAt p 10 2 > beAt p 8 2) || decide (beAt p 10 2 > s.antiRollback + 64) ||
  (List.range n).any (fun i => let (t, a, _) := patchRecord p i; (t ≠ 1 && t ≠ 2) || (t = 1 && a ≤ 0x3FF))

/-- Write one record: a control-store word or a dispatch entry. -/
def State.patchWrite (s : State) (r : Nat × Nat × Nat) : State :=
  let (t, a, v) := r
  if t = 1 then
    (if a < 2 ^ 14 then s.modSeq (fun q => { q with cs := Sparse.set (BitVec.allOnes 128) q.cs a (BitVec.ofNat 128 v), csBad := q.csBad.filter (· ≠ a) })
     else s)
  else s.modSeq (fun q => { q with disp := if h : a < 256 then q.disp.set a (BitVec.ofNat 14 v) else q.disp })

/-- The checks and effects of R365 on a payload whose tag is right. -/
def State.patchApply (s : State) (p : List Byte) : State :=
  let version := beAt p 8 2
  let minver := beAt p 10 2
  if s.patchBad p then s.taskError 0x51 none 3
  else if version < s.antiRollback then s.taskError 0x51 none 1
  else
    let s := (List.range (beAt p 12 2)).foldl (fun s i => s.patchWrite (patchRecord p i)) s
    let s := (s.wr F.SEQ_PATCH_VER_MINVER minver).wr F.SEQ_PATCH_VER_VERSION version
    ((State.mcRaise 0 (minver - s.antiRollback) s).setResults [version, 0, 0, 0, 0, 0]).workDone

/-- CTR decryption of R442: block i under the counter block IV + i. -/
def ctrDecrypt (key : List Nat) (iv : Nat) (c : List Nat) : List Nat :=
  let pad (i : Nat) : List Nat := Aes.encrypt key (Aes.ofNum 16 ((iv + i) % 2 ^ 128))
  (List.range c.length).map (fun i => Nat.xor (c.getD i 0) ((pad (i / 16)).getD (i % 16) 0))

/-- What deciphering leaves in CPH (R439, R440, R442): the payload in the sealed buffer, its tag in the tag register and the blob's in
`CPH_TAG_EXP`, and the comparison. DEDUCED (log entry 36). -/
def State.patchSealed (s : State) (payload tag expected : List Byte) : State :=
  let s := s.sealNow
  let b := (List.range payload.length).foldl (fun (m : List Host.Cell) i => Sparse.set 0 m i (payload.getD i 0)) []
  let s := { s with cph := { s.cph with buf := b, tag := some tag } }
  let s := s.setReg Reg.CPH_SB_PTR (BitVec.ofNat 32 payload.length)
  (s.setRegBytes (Reg.CPH_TAG_EXP 0) 4 expected).tagResult false

/-- A blob as it came from the host (R442). SEQ takes the lock of CPH for it, and keeps it; while another master holds the lock the
task waits. DEDUCED (log entry 36). -/
def State.patchBlob (s : State) (blob : List Byte) : State :=
  match s.cph.slots[(Fin.ofNat 8 (s.descW 2) : Fin 8)] with
  | none => s.taskError 0x71
  | some k =>
    if k.usage ≠ 2 then s.taskError 0x51 none 2
    else
      let s := s.lockTake .seq
      if !s.cphOwner .seq || s.flag F.CPH_STAT_BUSY then s
      else
        let n := blob.length - 16
        let ct := toNats (blob.take n)
        let tag := toBytes (Aes.cmac (toNats (subkey k.key 2)) ct)
        let p := toBytes (ctrDecrypt (toNats (subkey k.key 1)) (Aes.toNum (ct.take 16)) (ct.drop 16))
        let s := s.patchSealed p tag (blob.drop n)
        if tag ≠ blob.drop n then s.taskError 0x70 else s.patchApply p

/-- PATCH_LOAD (R365, R442): the list, then the blob's bytes are read from the host; `blob` is what the reads brought.
DEDUCED (log entry 36). -/
def execPatchLoad (blob : List Byte) (s : State) : Host.Outcome State Fault Refusal :=
  if s.works 0x60 then
    match s.tsk.phase with
    | 0 => .next (s.listStart.setPhase 1)
    | 1 => .next (if s.tsk.sgDone then (State.collect (s.descW 3) s).setPhase 2 else s)
    | _ => .next (if s.hlk.mrds.any (·.live) || decide (blob.length ≠ s.descW 3) then s else s.patchBlob blob)
  else .next s

/-- NOP. -/
def execNop (s : State) : Host.Outcome State Fault Refusal := .next (if s.works 0x7F then s.workDone else s)

/-! ## The end -/

/-- What beside the work a task awaits before it succeeds (R325, R329). -/
def State.taskReady (s : State) : Bool :=
  match s.opcode with
  | 0x01 => s.extentDone && decide (s.tsk.moved = s.dataLen)
  | 0x02 => s.extentDone
  | 0x03 => s.extentDone
  | 0x12 => decide (s.spn.cmd = 0) && s.flag F.SPN_STAT_ATSPEED
  | 0x13 => decide (s.spn.cmd = 0)
  | _ => true

/-- TASK_SUCCESS: the work is done; the record goes out, and with every write flushed TASK_END and DONE follow (R329). -/
def execTaskSuccess (s : State) : Host.Outcome State Fault Refusal :=
  .next (if s.taskRunning && !s.tsk.work && !s.tsk.unchecked && !s.tsk.ending && s.taskReady then s.taskFinish else s)

/-- FREEZE_SETTLED: every access of the frozen task is answered or timed out (R332 steps 5 and 6). -/
def execFreezeSettled (s : State) : Host.Outcome State Fault Refusal :=
  .next (if s.taskFrozen && !s.flag F.TSK_STATE_SETTLED && s.hlk.mrds.all (fun m => m.live || m.timed) && s.flushed then
    (s.put F.TSK_STATE_SETTLED true).taskEndEvent else s)

end Sys2Proof.Machine
end

