-- ==== Sys2Proof/Machine/Image.lean ====
section
/-! DEFINITION. The configuration image (R416 to R421): its bytes, its records, the checks of pass 1, and pass 3 with what the base
microcode does after it (R415). -/

namespace Sys2Proof.Machine

/-- A record of the image (R417). -/
structure CfgRec where
  typ  : Nat
  req  : Bool
  data : List Byte
  deriving DecidableEq, Repr

/-- The cause of a header that fails its checks (R416, R429). -/
def headerCause (h : List Byte) : Option Nat :=
  let l := beAt h 12 4
  if beAt h 0 8 ≠ 0x4C4744434647494D ∨ beAt h 8 2 ≠ 1 ∨ beAt h 10 2 ≠ 64 then some 1
  else if l % 16 ≠ 0 ∨ l < 64 ∨ 4194288 < l then some 2
  else none

/-- One reading of the image: its header and, when that is sound, the rest of its L bytes and its tag. -/
def State.readImage (s : State) : List Byte × State :=
  let (h, s) := State.flashWords 0 16 s
  let h := wordsBytes h
  if (headerCause h).isSome then (h, s)
  else
    let (r, s) := State.flashWords 16 ((beAt h 12 4 - 48) / 4) s
    (h ++ wordsBytes r, s)

/-- The bytes the tag covers, and whether the tag is theirs under the configuration key, or 32 zero bytes (R416, R420). -/
def imageBody (img : List Byte) : List Byte := img.take (beAt img 12 4)
def State.imageTagOk (s : State) (img : List Byte) : Bool :=
  let key := s.cph.cfgKey.getD (List.replicate 32 0)
  decide (toBytes (Aes.cmac (toNats key) (toNats (imageBody img))) = bytesAt img (beAt img 12 4) 16)

/-- Take `n` records off: the records and the bytes behind them, when every record lies within the bytes (R417). -/
def takeRecords : Nat → List Byte → Option (List CfgRec × List Byte)
  | 0, bs => some ([], bs)
  | n + 1, bs =>
    let len := beAt bs 4 4
    if bs.length < 8 + len ∨ len % 4 ≠ 0 then none
    else (takeRecords n (bs.drop (8 + len))).map (fun p => (⟨beAt bs 0 2, decide (beAt bs 2 2 / 2 ^ 15 = 1), bytesAt bs 8 len⟩ :: p.1, p.2))

/-- The records of an image (R417): at most 12 bytes of zero padding follow the last. -/
def imageRecords (img : List Byte) : Option (List CfgRec) :=
  let body := (imageBody img).drop 64
  let n := beAt img 20 4
  if body.length / 8 < n then none
  else
    match takeRecords n body with
    | some (rs, pad) => if pad.length ≤ 12 ∧ pad.all (fun b => decide (b = 0)) then some rs else none
    | none => none

/-- The sequencer data region (R26). -/
def inSeqData (a n : Nat) : Bool := decide (0x380000000 ≤ a) && decide (a + n ≤ 0x3C0000000)

/-- The fault of one record (R418, R429): 4 = its structure or range, 6 = an unknown type with REQ, 9 = a DRAMLOAD elsewhere. -/
def CfgRec.fault (r : CfgRec) : Option Nat :=
  let n := r.data.length
  let a := beAt r.data 0 4
  let bad (c : Bool) : Option Nat := if c then some 4 else none
  match r.typ with
  | 0x0001 => bad (decide (n ≠ 16))
  | 0x0002 => bad (decide (n < 4 ∨ 16 < a + (n - 4) / 4))
  | 0x0010 => bad (decide (n < 16 ∨ n % 16 ≠ 0 ∨ 0x4000 < a + (n - 16) / 16))
  | 0x0011 => bad (decide (n ≠ 512))
  | 0x0012 => bad (decide (n ≠ 8))
  | 0x0020 => bad (decide (n % 8 ≠ 0))
  | 0x0021 => bad (decide (n < 4))
  | 0x0030 =>
    if n < 8 ∨ beAt r.data 0 8 % 4 ≠ 0 then some 4
    else if inSeqData (beAt r.data 0 8) (n - 8) then none
    else some 9
  | _ => if r.req then some 6 else none

/-- A type of R418. -/
def CfgRec.known (r : CfgRec) : Bool := [0x0001, 0x0002, 0x0010, 0x0011, 0x0012, 0x0020, 0x0021, 0x0030].contains r.typ

/-- The records required once are there once, and a CSTORE is there (R418). -/
def requiredOk (rs : List CfgRec) : Bool :=
  let n (t : Nat) : Nat := (rs.filter (fun r => decide (r.typ = t))).length
  decide (n 1 = 1) && decide (n 0x11 = 1) && decide (n 0x12 = 1) && decide (1 ≤ n 0x10)

/-- The fault that pass 1 finds, with the type of the record at fault (R420, R421, R429). -/
def State.imageFault (s : State) (img : List Byte) : Option (Nat × Nat) :=
  match headerCause (img.take 64) with
  | some c => some (c, 0)
  | none =>
    match imageRecords img with
    | none => some (4, 0)
    | some rs =>
      match rs.findSome? (fun r => r.fault.map (fun c => (c, r.typ))) with
      | some p => some p
      | none => if !requiredOk rs then some (5, 0) else if s.imageTagOk img then none else some (3, 0)

/-- A configuration fault (R421, R530). -/
def State.cfgFault (s : State) (cause typ : Nat) : State :=
  (((s.put F.CFG_STAT_FAULT true).wr F.CFG_STAT_FCAUSE cause).setReg Reg.CFG_BAD_TYPE (BitVec.ofNat 32 typ)).startStop 1

/-! ## Pass 3 and the catalogue -/

/-- Restore catalogue entry `n` from its flash slot (R415): a valid slot with its table when that is held, a consumed one without;
both only when word 31 checks. DEDUCED (log entry 35). -/
def State.slotRestore (s : State) (n : Nat) : State :=
  let (st, s) := s.flashGet (catWord n)
  if st ≠ 0x5A5A0001 ∧ st ≠ 0 then s
  else
    let (ws, s) := State.flashWords (catWord n + 1) 31 s
    let w (k : Nat) : Nat := (ws.getD (k - 1) 0).toNat
    if crc32 (wordsBytes (ws.take 30)) ≠ w 31 then s
    else
      let held := decide (st = 0x5A5A0001) && (w 8).testBit 0
      let cnt := if held then min 1520 (w 6) else 0
      let s := (s.catClear n).storeBytes (catBase n) ((List.range 4).flatMap (fun k => beBytes 4 (w (1 + k)))) 2
      let s := ((s.catPut n 16 4 (w 10)).catPut n 20 2 (w 5)).catPut n 22 2 (held.toNat + (w 8 / 4 % 2) * 4)
      let s := (s.catPut n 24 4 cnt).catPut n 28 4 (w 7)
      let (es, s) := State.flashWords (catWord n + 32) (2 * cnt) s
      (s.storeBytes (catBase n + 8192) (wordsBytes es) 2).wr F.FLC_CAT_STAT_RESTORED (s.rd F.FLC_CAT_STAT_RESTORED + 1)

/-- DLOAD: pass 3, after DFILL (R420). In start-up the base microcode then restores the catalogue, and step 11 follows. -/
def State.dload (s : State) : State :=
  if s.flag F.SEQ_STAT_DFILL then
    let (img, s) := (s.wr F.CFG_STAT_PASS 3).readImage
    match imageRecords img with
    | none => s.cfgFault 8 0
    | some rs =>
      let ds := rs.filter (fun r => decide (r.typ = 0x0030) && r.fault.isNone)
      let s := ds.foldl (fun s r => s.storeBytes (beAt r.data 0 8) (r.data.drop 8) 0xE) s
      if s.imageTagOk img then
        let s := s.put F.CFG_STAT_DLDONE true
        if s.rd F.PWR_START_STEP = 10 then (forEach (List.range 4096) (fun n s => s.slotRestore n) s).wr F.PWR_START_STEP 11 else s
      else s.cfgFault 8 0
  else s

end Sys2Proof.Machine
end

