-- ==== Sys2Proof/Machine/Dec.lean ====
section
/-! DEFINITION. DEC (R128 to R138): lanes, queues and the completion collector, with their commands; and the known-answer
test of a lane (R477). -/

namespace Sys2Proof.Machine

/-! ## Lanes -/

/-- Change a lane. -/
def State.modLane (s : State) (l : DecLane) (f : Lane → Lane) : State :=
  { s with dec := { s.dec with lanes := s.dec.lanes.set l (f s.dec.lanes[l]) } }

/-- The lane is in the pool (R132). -/
def State.laneIn (s : State) (l : DecLane) : Bool := (s.reg Reg.DEC_LANE_EN).getLsbD l

/-- The lane is idle: no block in progress and no result held. -/
def State.laneIdle (s : State) (l : DecLane) : Bool := (s.dec.lanes[l]).cur.isNone && (s.dec.lanes[l]).held.isNone

/-- A block's stream buffer slot is allocated (R132 rule 4): for a delivered extent, within 20,480 slots of the first block
of its beam not yet delivered (R26). DEDUCED (log entry 19). -/
def State.slotAllocated (s : State) (lba : Nat) : Bool :=
  !(s.inTask lba && s.opcode = 1) || decide (lba / 4 < (s.tsk.lba + s.tsk.moved / 32768) / 4 + 20480)

/-- A queued block that lane `l` may take. DEDUCED (log entry 22). -/
def State.takes (s : State) (l : DecLane) (e : DecBlk) : Bool :=
  match e.kat with
  | some k => k = l
  | none => s.slotAllocated e.lba

/-- The block lane `l` takes next, whether from the recovery queue (R132); `waitedUs` is how long the oldest recovery block
has waited. -/
def State.nextBlk (s : State) (l : DecLane) (waitedUs : Nat) : Option (DecBlk × Bool) :=
  let r := (s.dec.rq.find? (s.takes l)).map (fun e => (e, true))
  let f := (s.dec.fpq.find? (s.takes l)).map (fun e => (e, false))
  if waitedUs > s.rd F.DEC_SCHED_CFG_RQ_AGE then r.or f else f.or r

/-- The lane may take a block: DEC is enabled (R141), and the lane is in the pool, idle and not condemned (R132, R133).
DESIGN CHOICE (log entry 50). -/
def State.laneFree (s : State) (l : DecLane) : Bool :=
  s.flag F.DEC_CTRL_EN && s.laneIn l && s.laneIdle l && !(s.dec.lanes[l]).sick

/-- A lower-numbered free lane would take a block first (R132). -/
def State.laneBefore (s : State) (l : DecLane) (waitedUs : Nat) : Bool :=
  (List.finRange 18).any (fun k => decide (k.val < l.val) && s.laneFree k && (s.nextBlk k waitedUs).isSome)

/-- LANE_TAKE: a free lane of the pool takes a block, with its iteration limit (R129, R132). -/
def execLaneTake (l : DecLane) (waitedUs : Nat) (s : State) : Host.Outcome State Fault Refusal :=
  if s.laneFree l && !s.laneBefore l waitedUs then
    match s.nextBlk l waitedUs with
    | some (e, fromR) =>
      let d := s.dec
      let d := if fromR then { d with rq := d.rq.erase e } else { d with fpq := d.fpq.erase e }
      .next (({ s with dec := d }).modLane l (fun x => { x with cur := some e, fromR := fromR, limit := s.rungIter e.rung }))
    | none => .next s
  else .next s

/-! ## A decode -/

/-- Iterations a codeword runs and whether it converges (R128): `unsat` gives the unsatisfied checks after each iteration,
`left` the iterations still allowed, `flat` those in a row without a fall, `prev` the last count. -/
def cwRun (stall : Nat) : Nat → Nat → Option Nat → List Nat → Nat × Bool
  | 0, _, _, _ => (0, false)
  | _ + 1, _, _, [] => (0, false)
  | left + 1, flat, prev, u :: r =>
    if u = 0 then (1, true)
    else
      let flat := match prev with
        | some p => if u < p then 0 else flat + 1
        | none => 0
      if stall ≠ 0 ∧ flat ≥ stall then (1, false)
      else let (n, ok) := cwRun stall left flat (some u) r; (n + 1, ok)

/-- The unsatisfied checks of a codeword's hard decisions (R42, R128). -/
def unsatOf (hard : List Byte) : Nat := unsatChecks (blocksOf 72 hard)

/-- Bits of 16 soft values that differ from two bytes of decisions; a value of 0 has no sign to differ from. DEDUCED (log entry 48). -/
def flips16 (vs : List Int) (w : Nat) : Nat :=
  ((vs.take 16).zip (msbBits 16 w)).countP (fun p => decide (p.1 ≠ 0) && (decide (0 < p.1) != p.2))

/-- Decisions that differ from the sign of their input, over `n` groups of one codeword; the soft values start at its first group, and
its groups lie 128 values apart (R43, R136). -/
def flipsOf : Nat → List Int → List Byte → Nat
  | 0, _, _ => 0
  | n + 1, vs, hard => flips16 vs (beAt hard 0 2) + flipsOf n (vs.drop 128) (hard.drop 2)

/-- Information bits of codeword `c` whose decoded value differs from the sign of its input value in the sample buffer (R136). -/
def State.flipsIn (s : State) (e : DecBlk) (c : Nat) (hard : List Byte) : Nat :=
  match s.det[e.cap].bufs[e.buf] with
  | some t => flipsOf 2048 (t.values.drop (16 * c)) hard
  | none => 0

/-- Write one converged codeword, descrambled, into the block's stream buffer slot (R41, R130). -/
def State.putCodeword (s : State) (e : DecBlk) (c : Nat) (bytes : List Byte) : State :=
  let st := scramSkip (scramSeed (e.lba % 2 ^ 25)) (4096 * c)
  s.storeBytes (streamAddr e.home e.lba + 4096 * c) (scramble st (bytes.take 4096)) 3

/-- A lane is condemned by a wrong known-answer test or a parity failure (R133, R477): its block in progress is abandoned to the head of
its queue, and so is a result it holds (R135), to be decoded afresh; it takes no block until it is mapped out, which AXL is asked for.
The cycles spent are wasted (R138). DESIGN CHOICE (log entry 29). -/
def State.condemnLane (s : State) (l : DecLane) : State :=
  let x := s.dec.lanes[l]
  let back (e : DecBlk) (d : Dec) : Dec := if x.fromR then { d with rq := e :: d.rq } else { d with fpq := e :: d.fpq }
  let s := s.modLane l (fun x => { x with cur := none, held := none, sick := true })
  let s := match x.held with
    | some r => ({ s with dec := back { r.blk with conv := r.was } s.dec }).waste l (r.kept + r.wasted)
    | none => s
  let s := match x.cur with
    | some e => State.wasteRunning { s with dec := back e s.dec } l
    | none => s
  s.axlAsk 0x01 0 l.val 0x2

/-- A lane leaves the pool between blocks (R133). -/
def State.laneOut (s : State) (l : DecLane) : State :=
  let s := s.setReg Reg.DEC_LANE_EN (s.reg Reg.DEC_LANE_EN &&& ~~~BitVec.ofNat 32 (2 ^ l.val))
  let s := (s.bump Reg.DEC_SWAP_CNT).bump (Reg.DEC_L_SWAP_CNT l)
  s.modLane l (fun x => { x with outReq := false, sick := false })

/-- A lane's result enters its collector entry, or is held while that is occupied (R134). -/
def State.post (s : State) (l : DecLane) (r : DecRes) : State :=
  let s := s.modLane l (fun x => { x with cur := none })
  if s.dec.clt[l].isNone then { s with dec := { s.dec with clt := s.dec.clt.set l (some r) } }
  else s.modLane l (fun x => { x with held := some r })

/-- DECODE_END: the lane has run the codewords not yet converged; `cws` holds each codeword's evidence, by its number
(R128 to R130). A decode that read a poisoned sample buffer is discarded and has failed (R388). -/
def execDecodeEnd (l : DecLane) (cws : List CwIn) (s : State) : Host.Outcome State Fault Refusal :=
  match (s.dec.lanes[l]).cur with
  | none => .next s
  | some e =>
    let lim := (s.dec.lanes[l]).limit
    let stall := s.rd F.DEC_ITER_CFG_STALL
    let todo := (List.range 8).filter (fun c => !e.conv.getLsbD c)
    let hard (c : Nat) : List (List Byte) := (cws[c]?.map (·.hard)).getD []
    let bad := e.kat.isNone && s.sramBad 5 (6 * e.cap.val + e.buf.val)
    let run (c : Nat) : Nat × Bool := let (n, ok) := cwRun stall lim 0 none ((hard c).map unsatOf); (n, ok && !bad)
    let last (c : Nat) : List Byte := (hard c).getD ((run c).1 - 1) []
    let rs := todo.map (fun c => (c, run c))
    let ok := (rs.filter (fun r => r.2.2)).map (·.1)
    let open_ := (rs.filter (fun r => !r.2.2)).map (·.1)
    let conv : Byte := e.conv ||| BitVec.ofNat 8 ((ok.map (2 ^ ·)).sum)
    let iters := (rs.map (fun r => r.2.1)).sum
    let wasted := ((rs.filter (fun r => !r.2.2)).map (fun r => r.2.1)).sum * iterCycles
    let s := if bad then s.consumeSram 3 else s
    let s := if e.kat.isSome then s
      else forEach ok (fun c s => s.putCodeword e c (last c)) s
    let s := s.bump64 (Reg.DEC_L_ITER_LO l) iters
    let r : DecRes :=
      { blk := { e with conv := conv }, was := e.conv, good := open_.isEmpty, failmap := ~~~conv
        iter := (rs.map (fun r => r.2.1)).foldl max 0
        flips := min 0xFFFF ((todo.map (fun c => s.flipsIn e c (last c))).sum)
        kept := loadCycles + iters * iterCycles - wasted, wasted := wasted }
    let s := s.post l r
    .next (if (s.dec.lanes[l]).outReq then s.laneOut l else s)

/-! ## The collector -/

/-- The word of a result in `DEC_B_RES` (R136). -/
def DecRes.word (r : DecRes) : Word :=
  BitVec.ofNat 32 (r.flips % 2 ^ 16 + r.iter % 64 * 2 ^ 16 + r.failmap.toNat * 2 ^ 22 + r.good.toNat * 2 ^ 30 + 2 ^ 31)

/-- Lane cycles retired (R138, R511). -/
def State.retire (s : State) (l : DecLane) (n : Nat) : State := (s.bump64 (Reg.DEC_L_RET_LO l) n).pmcLane 0x10 l n

/-- What every drain counts: the lane is free, its block counters and its last result move. -/
def State.drainCount (s : State) (l : DecLane) (r : DecRes) : State :=
  let s := { s with dec := { s.dec with clt := s.dec.clt.set l (s.dec.lanes[l]).held } }
  let s := s.modLane l (fun x => { x with held := none })
  let s := (s.bump (Reg.DEC_L_BLK_CNT l)).setReg (Reg.DEC_L_LAST l) r.word
  if r.good then s else s.bump (Reg.DEC_L_FAIL_CNT l)

/-- The recovery logic hears of a drained block it tracks; the sample buffer slot of any other is free (R124). -/
def State.drainRecover (s : State) (r : DecRes) : State :=
  match (s.rblk r.blk.lba).filter (fun k => k.buf = some (r.blk.cap, r.blk.buf)) with
  | none => s.freeBuf (some (r.blk.cap, r.blk.buf))
  | some k => s.decoded { k with conv := r.blk.conv, fig := { k.fig with iter := r.iter, flips := r.flips } } r.good

/-- A drained block of the disc: the beam's result, then the recovery logic. DEDUCED (log entry 22). -/
def State.drainBlock (s : State) (l : DecLane) (r : DecRes) : State :=
  let s := (s.retire l r.kept).waste l r.wasted
  let b := r.blk.home
  let s := (s.setReg (Reg.DEC_B_RES b) r.word).setReg (Reg.DEC_B_LBA b) (BitVec.ofNat 32 (r.blk.lba % 2 ^ 25))
  (s.bumpF (if r.good then F.DEC_B_CNT_GOOD b else F.DEC_B_CNT_FAILED b)).drainRecover r

/-- Drain lane `l`'s entry (R134, R136, R138): counts, the beam's result, the recovery logic; a held result takes the entry, unless a
failed known-answer test condemns the lane in the same cycle (R135, R477). -/
def State.drain (s : State) (l : DecLane) (r : DecRes) : State :=
  match r.blk.kat with
  | some _ =>
    let s := if r.good then s else (s.bump Reg.AXL_KATFAIL_CNT).condemnLane l
    ((s.drainCount l r).retire l (r.kept + r.wasted)).bump Reg.AXL_KAT_CNT
  | none => (s.drainCount l r).drainBlock l r

/-- An idle lane is starved from behind: blocks of the disc are queued, and every one lacks its stream buffer slot (R138). -/
def State.slotStarved (s : State) : Bool :=
  let q := (s.dec.fpq ++ s.dec.rq).filter ofDisc
  !q.isEmpty && q.all (fun e => !s.slotAllocated e.lba)

/-- The class of a lane's cycle outside its blocks (R138, R511): back-starved while it holds a result or every queued block lacks a
stream buffer slot, else front-starved. An idle lane that a queued block still awaits counts as front-starved.
DESIGN CHOICE (log entry 51). -/
def State.countIdle (s : State) (l : DecLane) : State :=
  if !s.laneIn l || (s.dec.lanes[l]).cur.isSome then s
  else if (s.dec.lanes[l]).held.isSome || s.slotStarved then (s.bump64 (Reg.DEC_L_BST_LO l) 1).pmcLane 0x13 l 1
  else (s.bump64 (Reg.DEC_L_FST_LO l) 1).pmcLane 0x12 l 1

/-- COLLECTOR_DRAIN: one DEC cycle of the collector: the first occupied entry at or after the pointer drains, and the pointer
advances by one (R134). -/
def execCollectorDrain (s : State) : Host.Outcome State Fault Refusal :=
  let p := (s.reg Reg.DEC_CLT_PTR).toNat
  let s := (List.finRange 18).foldl State.countIdle s
  let order := (List.finRange 18).map (fun i => (Fin.ofNat 18 (p + i.val) : DecLane))
  let s := s.setReg Reg.DEC_CLT_PTR (BitVec.ofNat 32 ((p + 1) % 18))
  match order.find? (fun l => s.dec.clt[l].isSome) with
  | some l =>
    match s.dec.clt[l] with
    | some r => .next (s.drain l r)
    | none => .next s
  | none => .next s

/-! ## Known-answer tests and parity -/

/-- KNOWN_ANSWER_TEST: AXL places the stored test block in the recovery queue for the next lane of the pool in turn (R477).
DEDUCED (log entry 22). -/
def execKnownAnswerTest (s : State) : Host.Outcome State Fault Refusal :=
  let p := (s.reg Reg.AXL_KAT_STAT).toNat
  let order := (List.finRange 18).map (fun i => (Fin.ofNat 18 (p + 1 + i.val) : DecLane))
  match order.find? s.laneIn with
  | some l =>
    let e : DecBlk := ⟨0, 0, 0, 0, 0, false, 0, some l⟩
    .next (({ s with dec := { s.dec with rq := s.dec.rq ++ [e] } }).setReg Reg.AXL_KAT_STAT (BitVec.ofNat 32 l.val))
  | none => .next s

/-- MESSAGE_MEMORY_PARITY: the lane that decodes is condemned, and its block is decoded afresh on another (R133, R477). -/
def execMessageMemoryParity (l : DecLane) (s : State) : Host.Outcome State Fault Refusal :=
  .next (if (s.dec.lanes[l]).cur.isNone then s else (s.bump (Reg.DEC_L_PAR_CNT l)).condemnLane l)

end Sys2Proof.Machine
end

