-- ==== Sys2Proof/Machine/Mem.lean ====
section
/-! DEFINITION. DRAM and memory integrity (R376 to R399): training, the DRAM fill, the Skink scrubber with its laps and row
table, row remaps, and the closing of rows. -/

namespace Sys2Proof.Machine

/-- Change the structure of DMC and MIC. -/
def State.modMem (s : State) (f : Mem → Mem) : State := { s with mem := f s.mem }

/-! ## Training (R381) -/

/-- Start a training helper on a channel in training, 1 = START and 2 = SWEEP, unless one runs. -/
def State.trainGo (s : State) (c : DramChan) (k : Nat) : State :=
  if s.flag (F.DMC_TRN_CTRL_TRAIN c) && decide (s.mem.helper[c] = 0) then
    ((s.modMem (fun m => { m with helper := m.helper.set c k })).put (F.DMC_TRN_STAT_BUSY c) true).put (F.DMC_TRN_STAT_DONE c) false
  else s

/-- TRAIN_START and TRAIN_SWEEP: writes of `DMC_TRN_CTRL.START` and `SWEEP`. -/
def execTrainStart (c : DramChan) (s : State) : Host.Outcome State Fault Refusal := .next (s.trainGo c 1)
def execTrainSweep (c : DramChan) (s : State) : Host.Outcome State Fault Refusal := .next (s.trainGo c 2)

/-- A helper ends. -/
def State.trainEnd (s : State) (c : DramChan) : State :=
  ((s.modMem (fun m => { m with helper := m.helper.set c 0 })).put (F.DMC_TRN_STAT_BUSY c) false).put (F.DMC_TRN_STAT_DONE c) true

/-- TRAINING_DONE: the helper reports. A window narrower than 24 makes the channel fail; step 2 measures no window (R381). -/
def execTrainingDone (c : DramChan) (r : TrainResult) (s : State) : Host.Outcome State Fault Refusal :=
  match r, s.mem.helper[c] with
  | .start map cnt, 1 =>
    .next (((s.trainEnd c).setReg (Reg.DMC_TRN_ERRMAP c) (map.setWidth 32)).setPair (Reg.DMC_TRN_ERRCNT_LO c) cnt.toNat)
  | .sweep a z n, 2 =>
    let s := (s.trainEnd c).setReg (Reg.DMC_TRN_SWEEP_RES c 0) (BitVec.ofNat 32 a)
    let s := (s.setReg (Reg.DMC_TRN_SWEEP_RES c 1) (BitVec.ofNat 32 z)).setReg (Reg.DMC_TRN_SWEEP_RES c 2) (BitVec.ofNat 32 n)
    .next (if s.rd (F.DMC_TRN_CTRL_STEP c) ≠ 2 ∧ z < a + 24 then (s.put (F.DMC_CH_STAT_TRNFAIL c) true).startStop 2 else s)
  | _, _ => .next s

/-- A write of `DMC_TRN_CTRL` (R381): STEP above 6, PAT above 3 and BURSTS 0 are refused. -/
def State.trnCtrlWrite (s : State) (c : DramChan) (v : Word) : State :=
  if (F.DMC_TRN_CTRL_STEP c).of v > 6 ∨ (F.DMC_TRN_CTRL_PAT c).of v > 3 ∨ (F.DMC_TRN_CTRL_BURSTS c).of v = 0 then s.put F.DMC_STAT_CFGERR true
  else
    let s := s.setReg (Reg.DMC_TRN_CTRL c) (v &&& 0xFFFF0001)
    let s := if v.getLsbD 1 then s.trainGo c 1 else s
    if v.getLsbD 2 then s.trainGo c 2 else s

/-- A write of a delay or reference register: refused while its channel is not in training (R381); a delay has nine bits. -/
def State.delayWrite (s : State) (c : DramChan) (a : Nat) (v : Word) : State :=
  if s.flag (F.DMC_TRN_CTRL_TRAIN c) then s.setReg a (if a = Reg.DMC_VREF c then v else v &&& 0x1FF) else s.put F.DMC_STAT_CFGERR true

/-- A write of `DMC_ILV`: GRAIN above 8, and any write once the fill has started, is refused (R378). -/
def State.ilvWrite (s : State) (v : Word) : State :=
  if F.DMC_ILV_GRAIN.of v > 8 ∨ s.mem.started = true then s.put F.DMC_STAT_CFGERR true
  else s.wr F.DMC_ILV_GRAIN (F.DMC_ILV_GRAIN.of v)

/-- A write of `DMC_PGTO`: 0 is refused (R379). -/
def State.pgtoWrite (s : State) (v : Word) : State :=
  if F.DMC_PGTO_TO.of v = 0 then s.put F.DMC_STAT_CFGERR true else s.wr F.DMC_PGTO_TO (F.DMC_PGTO_TO.of v)

/-! ## Fill (R389) -/

/-- A write of `MIC_FILL_CTRL.START`: refused while a channel is in training or has failed it. -/
def State.fillStart (s : State) : State :=
  if (List.finRange 4).any (fun (c : DramChan) => s.flag (F.DMC_TRN_CTRL_TRAIN c) || s.flag (F.DMC_CH_STAT_TRNFAIL c)) then
    s.put F.MIC_STAT_CFGERR true
  else
    let s := s.modMem (fun m => { m with started := true, filling := true })
    if s.rd F.PWR_START_STEP = 8 then s.wr F.PWR_START_STEP 9 else s

/-- DRAM_FILL_START. -/
def execDramFillStart (s : State) : Host.Outcome State Fault Refusal := .next s.fillStart

/-- DRAM_FILL_DONE: DRAM holds 0 everywhere; DDONE and `SEQ_STAT.DFILL` set. In start-up the boot microcode then sets
`SEQ_MODE.DRAM` (R529 step 9). -/
def execDramFillDone (s : State) : Host.Outcome State Fault Refusal :=
  if s.mem.filling then
    let s := s.clock
    let s := (({ s.modMem (fun m => { m with filling := false, lapAt := s.cycles }) with dram := [], psn := [] }).put
      F.MIC_FILL_STAT_DDONE true).put F.SEQ_STAT_DFILL true
    .next (if s.rd F.PWR_START_STEP = 9 then
      (s.wr F.PWR_START_STEP 10).setReg Reg.SEQ_MODE (s.reg Reg.SEQ_MODE ||| 1) else s)
  else .next s

/-! ## Skink -/

/-- A corrected error in a row that is no pin error (R394): a full table gives up the entry with the lowest count; a row that
reaches ROWN is reported to AXL. -/
def State.rowError (s : State) (r : DRow) : State :=
  let t := s.mem.rows
  let n := ((t.find? (fun p => p.1 = r)).map (·.2)).getD 0 + 1
  let rest := t.filter (fun p => p.1 ≠ r)
  let least := (rest.map (·.2)).foldl min 0xFFFFFFFF
  let rest := if n = 1 ∧ rest.length ≥ 64 then
      match rest.find? (fun p => p.2 = least) with
      | some p => rest.erase p
      | none => rest
    else rest
  let s := s.modMem (fun m => { m with rows := rest ++ [(r, n)] })
  if n = s.rd F.MIC_D_CFG_ROWN then s.axlAsk 0x06 (r.ch.val * 32 + r.check.toNat * 16 + r.bank.val) r.row 0x2 else s

/-- A pin error of a channel (R385): it is counted, and the PINN-th of a lap sets PINDEG and reports the channel. -/
def State.pinError (s : State) (c : Fin 4) : State :=
  let f : RegField := ⟨Reg.MIC_D_PIN_CNT, 8 * c.val, 8⟩
  let n := s.mem.pins[c] + 1
  let s := (s.bumpF f).modMem (fun m => { m with pins := m.pins.set c n })
  if n = s.rd F.MIC_D_CFG_PINN then
    ((s.wr F.MIC_STAT_PINDEG (s.rd F.MIC_STAT_PINDEG ||| 2 ^ c.val)).axlAsk 0x3F 0 c.val 0x2).attention 7
  else s

/-- What a check of the line at `a` finds, and what MIC does with it (R385, R386, R390): a line that is corrected or newly poisoned is
written back, by master 8 (R9). -/
def State.lineChecked (s : State) (a : Nat) (r : EccResult) (master : Nat) : State :=
  if s.linePoisoned a then s.bump Reg.MIC_D_PSN_CNT
  else
    match r with
    | .ok => s
    | .correctable pin =>
      let s := ((s.bump Reg.MIC_D_CE_CNT).pmcEvent 6 master none (some (true, a))).touch a true 8
      if pin then s.pinError (s.dramCh a) else s.rowError (s.dataRow a)
    | .uncorrectable => ((((s.bump Reg.MIC_D_UE_CNT).setPair Reg.MIC_D_ERR_ADDR_LO a)).poisonLine a).touch a true 8
    | .poisoned => s.poisonLine a

/-- A lap of the DRAM walker ends (R392). -/
def State.lapEnd (s : State) : State :=
  let s := s.clock
  let ms := (s.cycles - s.mem.lapAt) / 800000
  let s := (s.setReg Reg.MIC_SKINK_LAP (BitVec.ofNat 32 ms)).bump Reg.MIC_SKINK_LAPS
  let s := s.setReg Reg.MIC_SKINK_LAPMAX (BitVec.ofNat 32 (max (s.reg Reg.MIC_SKINK_LAPMAX).toNat ms))
  s.modMem (fun m => { m with rows := [], pins := Vector.replicate 4 0, lapAt := s.cycles })

/-- SKINK_DRAM_STEP: the walker checks the line at its address, takes one from the debt and goes on (R390 to R392).
DESIGN CHOICE (log entry 39). -/
def execSkinkDramStep (r : EccResult) (s : State) : Host.Outcome State Fault Refusal :=
  let a := s.pair Reg.MIC_SKINK_POS_LO
  if s.flag F.MIC_FILL_STAT_DDONE && s.flag F.MIC_SKINK_CFG_EN && !s.flag (F.DMC_TRN_CTRL_TRAIN (s.dramCh a)) then
    let s := (s.touch a false 8).lineChecked a r 8
    let s := s.setReg Reg.MIC_SKINK_DEBT (BitVec.ofNat 32 ((s.reg Reg.MIC_SKINK_DEBT).toNat - 1))
    let n := (a + 64) % 2 ^ 34
    let s := s.setPair Reg.MIC_SKINK_POS_LO n
    .next (if n = 0 then s.lapEnd else s)
  else .next s

/-- A corrected error of an SRAM word: the CEN-th of a lap is reported to AXL (R396). -/
def State.wordError (s : State) (macro_ word : Nat) : State :=
  let hit (p : Nat × Nat × Nat) : Bool := decide (p.1 = macro_) && decide (p.2.1 = word)
  let n := ((s.mem.words.find? hit).map (·.2.2)).getD 0 + 1
  let s := s.modMem (fun m => { m with words := m.words.filter (fun p => !hit p) ++ [(macro_, word, n)] })
  if n = s.rd F.MIC_S_CFG_CEN then s.axlAsk 0x05 macro_ word 0x2 else s

/-- `MIC_S_ERR_LOC` and `MIC_S_ERR_SYND` of an error; which syndrome it has is not fixed here. -/
def State.wordErrLoc (s : State) (macro_ word : Nat) : State :=
  let s := (s.wr F.MIC_S_ERR_LOC_WORD word).wr F.MIC_S_ERR_LOC_MACRO macro_
  let (v, s) := s.draw
  s.setReg Reg.MIC_S_ERR_SYND (v &&& 0xFF)

/-- A lap of the SRAM walker ends after the last word of the largest macro (R393). -/
def State.sramLap (s : State) (word : Nat) : State :=
  if word = 65535 then
    let s := s.clock
    let s := s.setReg Reg.MIC_SKINK_SRAM_LAP (BitVec.ofNat 32 ((s.cycles - s.mem.sramAt) / 800))
    s.modMem (fun m => { m with words := [], sramAt := s.cycles })
  else s

/-- A write of `MIC_SKINK_CFG`: GAP 0 is refused (R393). -/
def State.skinkCfgWrite (s : State) (v : Word) : State :=
  if F.MIC_SKINK_CFG_GAP.of v = 0 then s.put F.MIC_STAT_CFGERR true else s.setReg Reg.MIC_SKINK_CFG (v &&& 0xC0FFFFFF)

/-! ## Remaps and rows -/

/-- The DRAM address of byte `col` of a data-die row: R377 read backward. -/
def State.rowAddr (s : State) (r : DRow) (col : Nat) : Nat :=
  let g := 8 + s.rd F.DMC_ILV_GRAIN
  let c := r.row * 2 ^ 15 + r.bank.val * 2 ^ 11 + col
  c / 2 ^ g * 2 ^ (g + 2) + r.ch.val * 2 ^ g + c % 2 ^ g

/-- The copy of a data row's 32 lines to its target row 131,008 + e, by AXL (R9, R394, R395). A check row's bursts are no lines of
DRAM. -/
def State.rowCopy (s : State) (r : DRow) (e : Fin 64) : State :=
  if r.check then s
  else forEach (List.range 32) (fun k s =>
    (s.touch (s.rowAddr r (64 * k)) false 7).touch (s.rowAddr { r with row := 131008 + e.val } (64 * k)) true 7) s

/-- ROW_REMAP: the copy of a granted remap is made, and its CAM entry becomes valid (R395). -/
def execRowRemap (c : DramChan) (check : Bool) (bank : Fin 16) (row : Fin 131072) (s : State) : Host.Outcome State Fault Refusal :=
  let r : DRow := { ch := c, check := check, bank := bank, row := row.val }
  match s.mem.granted.find? (fun p => p.2 = r) with
  | none => .next s
  | some (e, _) =>
    let w := 2 ^ 31 + check.toNat * 2 ^ 30 + c.val * 2 ^ 28 + bank.val * 2 ^ 24 + row.val
    .next (((s.rowCopy r e).modMem (fun m => { m with granted := m.granted.filter (fun p => p.2 ≠ r) })).setReg (Reg.MIC_DRM e)
      (BitVec.ofNat 32 w))

/-- Close a bank's row when one is open; the close is counted. -/
def State.closeRow (s : State) (c : DramChan) (bank : Fin 16) : State :=
  let i := bankNo c bank
  if (s.mem.banks[i]).opened then
    (s.modMem (fun m => { m with banks := m.banks.set i { m.banks[i] with opened := false } })).bump (Reg.DMC_PG_CLOSE_CNT c)
  else s

/-- ROW_CLOSE: a kept row closes after the idle time, or for a refresh (R379). -/
def execRowClose (c : DramChan) (bank : Fin 16) (s : State) : Host.Outcome State Fault Refusal := .next (s.closeRow c bank)

/-- REFRESH of a bank of a die: an open row of a data die closes first (R376, R379). A check die keeps no access history. -/
def execRefresh (c : DramChan) (x : DieBank) (s : State) : Host.Outcome State Fault Refusal :=
  .next ((if x.check then s else s.closeRow c x.bank).bump (Reg.DMC_CH_REF_CNT c))

end Sys2Proof.Machine
end

