-- ==== Sys2Proof/Machine/Axl.lean ====
section
/-! DEFINITION. AXL (R475 to R483): the spares of each resource, grants and denials with what they bring about, the map entries in
flash, the log, and the map loader. -/

namespace Sys2Proof.Machine

/-- Change AXL's structure. -/
def State.modAxl (s : State) (f : Axl → Axl) : State := { s with axl := f s.axl }

/-! ## Map entries (R478) -/

/-- The CHK of an entry: XOR of bytes 1 to 7 with STATE taken as 7. -/
def entryChk (w : Nat) : Nat :=
  let w := w % 2 ^ 60 + 7 * 2 ^ 60
  ((List.range 7).map (fun i => w / 256 ^ (i + 1) % 256)).foldl Nat.xor 0

/-- The entry of a repair: STATE 7 with its CHK. -/
def mapEntry (r : AxlReq) (spare : Nat) : Dword :=
  let w := 7 * 2 ^ 60 + r.kind.val * 2 ^ 54 + r.unit.val * 2 ^ 44 + r.element.val % 2 ^ 24 * 2 ^ 20 + spare % 256 * 2 ^ 12 + r.cause.val * 256
  BitVec.ofNat 64 (w + entryChk w)

/-- Fields of an entry. -/
def eSTATE (e : Dword) : Nat := e.toNat / 2 ^ 60
def eKIND (e : Dword) : Nat := e.toNat / 2 ^ 54 % 2 ^ 6
def eUNIT (e : Dword) : Nat := e.toNat / 2 ^ 44 % 2 ^ 10
def eELEMENT (e : Dword) : Nat := e.toNat / 2 ^ 20 % 2 ^ 24
def eSPARE (e : Dword) : Nat := e.toNat / 2 ^ 12 % 2 ^ 8

/-- An entry in force: STATE 7 and CHK right. -/
def inForce (e : Dword) : Bool := decide (eSTATE e = 7) && decide (entryChk e.toNat = e.toNat % 256)

/-! ## Spares (R477) -/

/-- Entries in force of a kind and unit, in both maps. DEDUCED (log entry 33). -/
def State.axlUsed (s : State) (kind : Nat) (unit : Option Nat) : Nat :=
  ((s.axl.factory ++ s.axl.field).filter (fun e => inForce e && decide (eKIND e = kind) && (unit.all (fun u => decide (eUNIT e = u))))).length

/-- A CAM entry of R394 is free. -/
def State.drmFree (s : State) (e : Fin 64) : Bool := !s.flag (F.MIC_DRM_VALID e) && !s.mem.granted.any (fun p => decide (p.1 = e))

/-- The spare a request would get: none when there is none left. -/
def State.axlSpare (s : State) (r : AxlReq) : Option Nat :=
  match r.kind.val with
  | 0x01 => if s.axlUsed 0x01 none < 2 then some 0 else none
  | 0x02 =>
    let sp := s.rd F.SRV_LANES_SPARE
    if sp < 5 ∧ s.flag F.SRV_SPARE_STAT_BAD = false ∧ r.element.val ≠ sp ∧ s.srv.retire = none then some sp else none
  | 0x03 =>
    let p : Fin 3 := Fin.ofNat 3 r.unit.val
    if s.portUp p then s.spareLane p
    else
      let left := (portLanes p).filter (fun k => !s.laneFailed k)
      if left.length ≥ logical p then left.getLast? else none
  | 0x04 =>
    let a : Fin 36 := Fin.ofNat 36 r.unit.val
    if s.flag (F.ACQ_ADC_MAP_SPARE a) || (s.acq.adcs[a]).granted.isSome then none else some 8
  | 0x05 =>
    let n := (s.mem.remaps.filter (fun p => p.1 = r.unit.val)).length
    if n < 8 then some n else none
  | 0x06 => ((List.finRange 64).find? s.drmFree).map (·.val)
  | 0x07 => ((List.finRange 64).find? (fun (e : Fin 64) => !s.flag (F.FLC_SMAP_VALID e) && decide (s.flc.spare ≠ some e))).map (·.val)
  | _ => none

/-! ## What a grant and a denial bring about -/

/-- The row a request of kind 0x06 names (R478). -/
def reqRow (r : AxlReq) : DRow :=
  { ch := Fin.ofNat 4 (r.unit.val / 32), check := decide (r.unit.val / 16 % 2 = 1), bank := Fin.ofNat 16 r.unit.val, row := r.element.val }

/-- A condemned DEC lane leaves the pool at once when it is idle, else at its block's end (R133). -/
def State.decMapOut (s : State) (l : DecLane) : State :=
  if (s.dec.lanes[l]).cur.isNone then s.laneOut l else s.modLane l (fun x => { x with outReq := true })

/-- A granted spare takes effect as its row of R477 says. -/
def State.axlEffect (s : State) (r : AxlReq) (spare : Nat) : State :=
  match r.kind.val with
  | 0x01 => s.decMapOut (Fin.ofNat 18 r.element.val)
  | 0x02 => { s with srv := { s.srv with retire := some (Fin.ofNat 5 r.element.val) } }
  | 0x03 => s.swapStart (Fin.ofNat 3 r.unit.val) r.element.val
  | 0x04 => s.modAdc (Fin.ofNat 36 r.unit.val) (fun c => { c with granted := some (Fin.ofNat 8 r.element.val) })
  | 0x05 =>
    let cls := ((s.mem.classes.find? (fun p => p.1 = r.unit.val)).map (·.2)).getD 0
    s.modMem (fun m => { m with remaps := m.remaps ++ [(r.unit.val, r.element.val, cls)] })
  | 0x06 => s.modMem (fun m => { m with granted := m.granted ++ [(Fin.ofNat 64 spare, reqRow r)] })
  | 0x07 => s.modFlc (fun f => { f with spare := if f.failed then some (Fin.ofNat 64 spare) else f.spare })
  | _ => s

/-- What happens when no spare is left (R477). -/
def State.axlNone (s : State) (r : AxlReq) : State :=
  match r.kind.val with
  | 0x01 => s.decMapOut (Fin.ofNat 18 r.element.val)
  | 0x03 => if s.portUp (Fin.ofNat 3 r.unit.val) then s.portFail (Fin.ofNat 3 r.unit.val) 2 else s
  | 0x04 => s.taskError 0x42
  | 0x07 => s.flcNoSpare
  | _ => s

/-! ## The field map in flash (R478) -/

/-- The first word of a copy, and of an entry in it. -/
def copyBase (c : Fin 2) : Nat := (1028 + 2 * c.val) * 1024
def entryWord (c : Fin 2) (i : Nat) : Nat := copyBase c + 4 + 2 * i

/-- Program a copy's header with a generation. -/
def State.copyHeader (s : State) (c : Fin 2) (gen : Nat) : State :=
  let w := copyBase c
  let g := BitVec.ofNat 32 gen
  (((s.engineProgram 7 (s.physWord w) 0x41584C4D).engineProgram 7 (s.physWord (w + 1)) g).engineProgram 7 (s.physWord (w + 2)) (~~~g)).engineProgram 7
    (s.physWord (w + 3)) 0

/-- Program entry `i` of a copy. -/
def State.putEntry (s : State) (c : Fin 2) (i : Nat) (e : Dword) : State :=
  let w := entryWord c i
  (s.engineProgram 7 (s.physWord w) (BitVec.ofNat 32 (e.toNat / 2 ^ 32))).engineProgram 7 (s.physWord (w + 1)) (e.setWidth 32)

/-- Erase both sectors of a copy. -/
def State.copyErase (s : State) (c : Fin 2) : State :=
  (s.engineErase 7 (s.physSec (1028 + 2 * c.val))).engineErase 7 (s.physSec (1029 + 2 * c.val))

/-- A fresh copy with the entries in force: the other copy is erased before it is written, the old one after (R478). -/
def State.copyMigrate (s : State) (c : Fin 2) (gen : Nat) (old : Option (Fin 2)) : State :=
  let es := s.axl.field.filter inForce
  let s := (s.copyErase c).copyHeader c gen
  let s := (List.range es.length).foldl (fun s i => s.putEntry c i (es.getD i 0)) s
  let s := match old with
    | some o => s.copyErase o
    | none => s
  s.modAxl (fun a => { a with copy := some (c, gen), field := es })

/-- Add a repair to the field map: entries of the same element are superseded, and the new one is programmed in the newest copy. -/
def State.addRepair (s : State) (e : Dword) : State :=
  let same (x : Dword) : Bool := inForce x && decide (x.toNat / 2 ^ 20 = e.toNat / 2 ^ 20)
  let s := match s.axl.copy with
    | none => s.copyMigrate 0 1 none
    | some (c, g) => if s.axl.field.length ≥ 1022 then s.copyMigrate (Fin.ofNat 2 (c.val + 1)) (g + 1) (some c) else s
  let c := (s.axl.copy.map (·.1)).getD 0
  let fs := s.axl.field
  let s := (List.range fs.length).foldl (fun s i =>
    let x := fs.getD i 0
    if same x then s.engineProgram 7 (s.physWord (entryWord c i)) (BitVec.ofNat 32 (x.toNat / 2 ^ 32 % 2 ^ 28 + 3 * 2 ^ 28)) else s) s
  let fs := fs.map (fun x => if same x then BitVec.ofNat 64 (x.toNat % 2 ^ 60 + 3 * 2 ^ 60) else x)
  let s := s.putEntry c fs.length e
  (s.modAxl (fun a => { a with field := fs ++ [e] })).bump Reg.AXL_REC_WR_CNT

/-! ## The engine (R475 to R479) -/

/-- Write the log: an entry and the cycle counter (R482). -/
def State.axlLog (s : State) (e : Dword) : State :=
  let s := s.clock
  let k := (s.reg Reg.AXL_LOG_HEAD).toNat % 32
  let w : List Word := [e.setWidth 32, BitVec.ofNat 32 (e.toNat / 2 ^ 32), BitVec.ofNat 32 s.cycles, BitVec.ofNat 32 (s.cycles / 2 ^ 32)]
  let l := s.axl.log
  (s.modAxl (fun a => { a with log := if k < l.length then l.set k w else l ++ [w] })).setReg Reg.AXL_LOG_HEAD (BitVec.ofNat 32 ((k + 1) % 32))

/-- The engine takes a request off the list and shows it. -/
def State.axlTake (s : State) (r : AxlReq) : State :=
  let s := { s with axlReq := s.axlReq.erase r }
  (s.setPair Reg.AXL_LAST_REQ_LO (mapEntry r 0).toNat).wr F.AXL_STAT_LASTKIND r.kind.val

/-- A denial: it is counted, and logged with CAUSE 4 when the spares are exhausted (R478); while the repair is frozen ATTENTION is sent
again (R476). DEDUCED (log entry 33). -/
def State.axlDeny (s : State) (r : AxlReq) : State :=
  let s := (s.bump Reg.AXL_DENY_CNT).axlLog (mapEntry (if s.flag F.AXL_STAT_FROZEN then r else { r with cause := 4 }) 0)
  let s := if s.flag F.AXL_STAT_FROZEN then s.attention 21
    else ((s.put F.AXL_STAT_EXH true).bump Reg.AXL_EXH_CNT).event Ev.axlFault
  s.axlNone r

/-- AXL_GRANT: AXL decides a request that a monitor made (R476 to R478). -/
def execAxlGrant (r : AxlReq) (s : State) : Host.Outcome State Fault Refusal :=
  if s.axlReq.contains r then
    let s := s.axlTake r
    if r.kind.val = 0x3F then
      .next ((((s.put F.AXL_STAT_UNREP true).bump Reg.AXL_UNREP_CNT).axlLog (mapEntry r 0)).event Ev.axlFault)
    else if s.flag F.AXL_STAT_FROZEN then .next (s.axlDeny r)
    else
      match s.axlSpare r with
      | some sp =>
        let e := mapEntry r sp
        .next (((((s.axlEffect r sp).addRepair e).axlLog e).bump Reg.AXL_GRANT_CNT).event Ev.axlRepair)
      | none => .next (s.axlDeny r)
  else .next s

/-- AXL_FROZEN: the two copies of the engine disagree (R476). -/
def execAxlFrozen (s : State) : Host.Outcome State Fault Refusal :=
  if s.flag F.AXL_STAT_FROZEN then .next s
  else
    let s := (s.put F.AXL_STAT_FROZEN true).event Ev.axlFault
    .next (if s.flag F.SEQ_MODE_TASK then s.attention 21 else s)

/-! ## The map loader (R475, R478) -/

/-- A map entry takes effect at power-up. -/
def State.applyEntry (s : State) (e : Dword) : State :=
  let u := eUNIT e
  let el := eELEMENT e
  let sp := eSPARE e
  match eKIND e with
  | 0x01 => s.setReg Reg.DEC_LANE_EN (s.reg Reg.DEC_LANE_EN &&& ~~~BitVec.ofNat 32 (2 ^ (el % 18)))
  | 0x02 => ({ s with srv := { s.srv with retire := some (Fin.ofNat 5 el) } }).swapLaneNow
  | 0x03 =>
    let p : Fin 3 := Fin.ofNat 3 u
    (s.mapLanes p ((portLanes p).filter (fun l => l ≠ el))).put (F.HLK_P_STAT_SPAREUSED p) true
  | 0x04 => (s.wr (F.ACQ_ADC_MAP_MAP (u % 36)) (s.rd (F.ACQ_ADC_MAP_MAP (u % 36)) ||| 2 ^ (el % 8))).put (F.ACQ_ADC_MAP_SPARE (u % 36)) true
  | 0x05 => s.modMem (fun m => { m with remaps := m.remaps ++ [(u, el, 0)] })
  | 0x06 => s.setReg (Reg.MIC_DRM (sp % 64)) (BitVec.ofNat 32 (2 ^ 31 + u / 16 % 2 * 2 ^ 30 + u / 32 % 4 * 2 ^ 28 + u % 16 * 2 ^ 24 + el % 2 ^ 17))
  | 0x07 => s.setReg (Reg.FLC_SMAP (sp % 64)) (BitVec.ofNat 32 (2 ^ 31 + el % 2 ^ 14))
  | _ => s

/-- The generation of a copy of the field map, when its header is whole. -/
def State.copyGen (s : State) (c : Fin 2) : Option Nat × State :=
  let (ws, s) := State.flashWords (copyBase c) 4 s
  match ws with
  | [m, g, n, _] => (if m = 0x41584C4D ∧ g ^^^ n = 0xFFFFFFFF then some g.toNat else none, s)
  | _ => (none, s)

/-- The entries of a copy, up to the first that is erased. One that reads unstably is ignored: its place holds no entry in force
(R478). -/
def State.copyEntries (c : Fin 2) : Nat → Nat → State → List Dword × State
  | 0, _, s => ([], s)
  | n + 1, i, s =>
    let (hi, same, s) := s.read3 (entryWord c i)
    let (lo, same', s) := s.read3 (entryWord c i + 1)
    if hi = erasedWord ∧ lo = erasedWord then ([], s)
    else
      let (r, s) := State.copyEntries c n (i + 1) s
      ((if same && same' then BitVec.ofNat 64 (hi.toNat * 2 ^ 32 + lo.toNat) else 0) :: r, s)

/-- The loader reads the field map from the valid copy with the higher generation (R478). -/
def State.axlRead (s : State) (ok : Bool) : State :=
  let (g0, s) := s.copyGen 0
  let (g1, s) := s.copyGen 1
  let best : Option (Fin 2 × Nat) := match g0, g1 with
    | some a, some b => if a ≥ b then some (0, a) else some (1, b)
    | some a, none => some (0, a)
    | none, some b => some (1, b)
    | none, none => none
  match best, ok with
  | some (c, g), true =>
    let (es, s) := State.copyEntries c 1022 0 s
    s.modAxl (fun a => { a with field := es, copy := some (c, g) })
  | _, _ => (s.modAxl (fun a => { a with field := [], copy := none })).put F.AXL_STAT_RECERR true

/-- The maps in force take effect. -/
def State.axlApply (s : State) : State := (s.axl.factory ++ s.axl.field).foldl (fun s e => if inForce e then s.applyEntry e else s) s

end Sys2Proof.Machine
end

