-- ==== Sys2Proof/Machine/Cal.lean ====
section
/-! DEFINITION. The calibrations (R501 to R508): each takes what its converters measured, reports its quality figures, and with
APPLY = 1 writes its targets. No measured value ends the task (R504). -/

namespace Sys2Proof.Machine

/-- The running calibration's code, and APPLY (R506). -/
def State.calCode (s : State) : Nat := s.descW 2 % 256
def State.calApply (s : State) : Bool := (s.descW 3).testBit 31

/-- The calibration of the code runs. -/
def State.calibrates (s : State) (code : Nat) : Bool := s.works 0x30 && decide (s.calCode = code)

/-- A calibration ends. -/
def State.calDone (s : State) : State := (s.put F.CAL_STAT_BUSY false).workDone

/-- Measure, once the states of R506 hold; a state that was left ends the task with 0x52. -/
def State.calMeasure (s : State) (code : Nat) (run : State → State) : State :=
  if s.calibrates code then (if s.calMay then (run s).calDone else s.taskError 0x52) else s

/-- Clamp a result to a range; a clamp sets CLAMP (R504). -/
def State.calClamp (s : State) (lo hi v : Int) : Int × State :=
  let c := max lo (min hi v)
  (c, if c = v then s else s.put F.CAL_STAT_CLAMP true)

/-- Report a result in a field, clamped. -/
def State.calField (s : State) (f : RegField) (v : Nat) : State :=
  let (c, s) := s.calClamp 0 (2 ^ f.width - 1) v
  s.wr f c.toNat

/-- The same for a field read as a signed number. -/
def State.calSigned (s : State) (f : RegField) (v : Int) : State :=
  let (c, s) := s.calClamp (-2 ^ (f.width - 1)) (2 ^ (f.width - 1) - 1) v
  s.wr f (unsigned f.width c)

/-- Write a target under APPLY. -/
def State.calTarget (s : State) (f : State → State) : State := if s.calApply then f s else s

/-- The mean of readings, to the nearest. DESIGN CHOICE (log entry 60). -/
def meanInt (l : List Int) : Int := divNear l.sum l.length

/-- CALIBRATE_REF: `meas` is the raw reading in 10 µV, `readings` the 64 ratios in ppm, `q` their spread (R501, R507). -/
def execCalibrateRef (meas : Nat) (readings : List Int) (q : Nat) (s : State) : Host.Outcome State Fault Refusal :=
  .next (s.calMeasure 0x01 (fun s =>
    let s := (s.setReg Reg.CAL_REFMEAS (BitVec.ofNat 32 meas)).setReg Reg.CAL_REFQ (BitVec.ofNat 32 q)
    s.calTarget (fun s =>
      let (c, s) := s.calClamp (-20000) 20000 (meanInt readings)
      s.setInt Reg.CAL_REFCOR c)))

/-- CALIBRATE_INOFS: the dark mean of each input, and its residue with the new trim (R507). -/
def execCalibrateInofs (means residues : List Int) (s : State) : Host.Outcome State Fault Refusal :=
  .next (s.calMeasure 0x02 (fun s =>
    forEach (inMask (s.descW 3) 4) (fun h s => forEach (List.range 13) (fun k s =>
      let i := 13 * h + k
      let s := s.calTarget (fun s =>
        let (c, s) := s.calClamp (-2 ^ 31) (2 ^ 31 - 1) (means.getD i 0)
        s.setInt (Reg.ACQ_IN_OFS i) c)
      let (c, s) := s.calClamp (-32767) 32767 (residues.getD i 0)
      s.wr ⟨Reg.CAL_IN_RES (i / 2), 16 * (i % 2), 16⟩ (unsigned 16 c)) s) s))

/-- CALIBRATE_SHUNT: offset, gain and residue of each phase (R507). -/
def execCalibrateShunt (ofs gain : List Word) (residues : List Int) (s : State) : Host.Outcome State Fault Refusal :=
  .next (s.calMeasure 0x03 (fun s =>
    forEach (List.range 3) (fun p s =>
      let s := s.calTarget (fun s => (s.setReg (Reg.SPN_SHUNT_OFS p) (ofs.getD p 0)).setReg (Reg.SPN_SHUNT_GAIN p) (gain.getD p 0))
      s.calSigned ⟨Reg.CAL_SHUNT_Q, 10 * p, 10⟩ (residues.getD p 0)) s))

/-- CALIBRATE_LDCUR: the fitted trims of each named channel, and the residue of the fit (R507). -/
def execCalibrateLdcur (trims : List Word) (ires : List Nat) (s : State) : Host.Outcome State Fault Refusal :=
  .next (s.calMeasure 0x04 (fun s =>
    forEach (List.finRange 20) (fun (c : Chan) s =>
      if (s.descW 3).testBit c.val then
        let s := s.calTarget (fun s => { s with wrp := { s.wrp with trims := s.wrp.trims.set c (trims.getD c.val 0) } })
        s.calField (F.CAL_LD_Q_IRES c) (ires.getD c.val 0)
      else s) s))

/-- The read current for a power, in 0.1 mA: threshold plus power by responsivity over slope (R507); over a slope of 0 it fits no field.
DEDUCED (log entry 63). -/
def readFor (fit : LdFit) (power resp : Nat) : Nat :=
  if fit.slope = 0 then 2 ^ 32 else fit.thr + (divNear (power * resp * 100 : Nat) (65536 * fit.slope)).toNat

/-- CALIBRATE_LDPWR: the fits of the five channels of each named head; the read currents and the APC target that the requested powers
need (R503, R507). -/
def execCalibrateLdpwr (fits : List LdFit) (s : State) : Host.Outcome State Fault Refusal :=
  .next (s.calMeasure 0x05 (fun s =>
    forEach (inMask (s.descW 3) 4) (fun h s =>
      let resp := (s.reg (Reg.CFG_PARAM (4 + h))).toNat
      let fit (e : Nat) : LdFit := fits.getD (5 * h + e) ⟨0, 0, 0⟩
      let power (e : Nat) : Nat := if e = 0 then s.descW 6 % 2 ^ 16 else s.descW 6 / 2 ^ 16
      let s := forEach (List.range 5) (fun e s =>
        let c := 5 * h + e
        ((s.calField (F.CAL_LD_Q_THR c) (fit e).thr).calField (F.CAL_LD_Q_SLOPE c) (fit e).slope).calField (F.CAL_LD_Q_PRES c) (fit e).pres) s
      let s := if resp = 0 then s.put F.CAL_STAT_NORESP true
        else s.calTarget (fun s =>
          let s := forEach (List.range 5) (fun e s =>
            let (c, s) := s.calClamp 0 1500 (readFor (fit e) (power e) resp)
            s.wr (F.LDD_READ_DC (5 * h + e)) c.toNat) s
          let sum : Int := ((List.range 5).map (fun e => (fit e).slope * ((s.rd (F.LDD_READ_DC (5 * h + e)) : Int) - (fit e).thr))).sum
          let (t, s) := s.calClamp 0 (2 ^ 32 - 1) (divNear sum 10)
          s.wr (F.LDD_APC_TARGET (5 * h)) t.toNat)
      forEach (List.range 5) (fun e s => s.wr (F.LDD_SCALE_APC (5 * h + e)) 256) s) s))

/-! ## Calibrations on the disc: SKEW, SAPOS, EYE -/

/-- The LBA whose band a disc calibration works on. -/
def State.calLba (s : State) : Nat := s.descW 6 % 2 ^ 25

/-- The head is in FOLLOW on the LBA's band. -/
def State.onLba (s : State) (h : Head) (lba : Nat) : Bool :=
  decide (s.rd (F.LSV_H_STAT_STATE h) = 6) && !s.flag (F.LSV_H_STAT_BUSY h) && decide (s.rd (F.ANG_HPOS_LAYER h) = lbaLayer lba) &&
  decide (s.headBand h = lbaBand lba)

/-- Each named head is sent to the LBA's band by SEEK (R506). -/
def State.calSeek (s : State) : State :=
  let lba := s.calLba
  forEach s.calHeads (fun k s =>
    let h : Head := Fin.ofNat 4 k
    if s.onLba h lba then s
    else
      let s := (s.wr (F.LSV_H_TGT_LAYER h) (lbaLayer lba)).wr (F.LSV_H_TGT_BAND h) (lbaBand lba)
      s.lsvCommand h 4 0 (fun s => (s.lsvBegin h .seek).seekRun h)) s

/-- A disc calibration first seeks; with every named head on the band it measures; a head that stopped elsewhere ends it. -/
def State.calOnDisc (s : State) (code : Nat) (run : State → State) : State :=
  if s.calibrates code && decide (s.tsk.phase = 0) then (s.setPhase 1).calSeek
  else if s.calibrates code && !s.calHeads.all (fun k => s.onLba (Fin.ofNat 4 k) s.calLba) then
    (if s.calHeads.any (fun k => s.flag (F.LSV_H_STAT_BUSY k)) then s else s.taskError 0x52)
  else s.calMeasure code run

/-- A number of channel bits in nm at a band (R100), to the nearest: `sum` over `n` readings. -/
def bitsNm (sum : Int) (n : Nat) (band : Nat) (zratio : Nat) : Int :=
  divNear (sum * (128 * 128 * piNum * (44000000 + (2 * band + 1) * 1200) : Nat)) (n * 2 ^ 20 * zratio * piDen)

/-- CALIBRATE_SKEW: per beam, the sync offsets of its captures and the best verify offsets, in channel bits, and the spreads DSPR and
VSPR in nm; a beam without captures is not written (R507). -/
def execCalibrateSkew (syncofs vofs : List (List Int)) (spr : List (Nat × Nat)) (s : State) : Host.Outcome State Fault Refusal :=
  .next (s.calOnDisc 0x06 (fun s =>
    let band := lbaBand s.calLba
    let zr := (s.reg (Reg.ACQ_ZRATIO (lbaZone s.calLba))).toNat
    forEach (inMask (s.descW 3) 16) (fun b s =>
      let d := syncofs.getD b []
      let v := vofs.getD b []
      if d.isEmpty then (s.wr (F.CAL_B_Q_DSPR b) 255).wr (F.CAL_B_Q_VSPR b) 255
      else
        let s := s.calTarget (fun s =>
          let (x, s) := s.calClamp (-40000) 40000 (signed 17 (s.rd (F.ACQ_SKEW_D_OFS b)) + bitsNm d.sum d.length band zr)
          let (y, s) := s.calClamp (-40000) 60000 (signed 17 (s.rd (F.ACQ_SKEW_V_OFS b)) + bitsNm v.sum (max 1 v.length) band zr)
          (s.wr (F.ACQ_SKEW_D_OFS b) (unsigned 17 x)).wr (F.ACQ_SKEW_V_OFS b) (unsigned 17 y))
        (s.calField (F.CAL_B_Q_DSPR b) (spr.getD b (0, 0)).1).calField (F.CAL_B_Q_VSPR b) (spr.getD b (0, 0)).2) s))

/-- CALIBRATE_HOFS: per head, the mean phase difference to H0 in ticks, and its spread in 1/16 tick (R507). -/
def execCalibrateHofs (means : List Int) (spread : List Nat) (s : State) : Host.Outcome State Fault Refusal :=
  .next (s.calMeasure 0x07 (fun s =>
    forEach ((inMask (s.descW 3) 4).filter (· ≠ 0)) (fun h s =>
      let s := s.calTarget (fun s =>
        let (c, s) := s.calClamp (-2 ^ 31) (2 ^ 31 - 1) (means.getD h 0)
        s.setInt (Reg.ANG_HOFS h) c)
      s.calField ⟨Reg.CAL_HOFS_Q, 8 * h, 8⟩ (spread.getD h 0)) s))

/-- The first of the positions with the least jitter over the beams. -/
def bestPosition (jitter : List (List Nat)) : Nat :=
  let tot (i : Nat) : Nat := (jitter.getD i []).sum
  (List.range jitter.length).foldl (fun best i => if tot i < tot best then i else best) 0

/-- CALIBRATE_SAPOS: the jitter of the four beams at each of the 17 positions, and at the position taken (R507). -/
def execCalibrateSapos (jitter : List (List Nat)) (q : List Nat) (s : State) : Host.Outcome State Fault Refusal :=
  .next (s.calOnDisc 0x08 (fun s =>
    let h := s.descW 3 % 4
    let k := lbaLayer s.calLba % 8
    let s := s.calTarget (fun s =>
      let p : Int := s.int (Reg.SLD_POS (h + 2)) + 16 * ((bestPosition jitter : Int) - 8)
      s.calSigned (F.LSV_SA_POS_POS h k) p)
    forEach (List.range 4) (fun d s => s.calField (F.CAL_B_Q_JIT (4 * h + d)) (q.getD d 511)) s))

/-- The longest run of offsets at which fewer than 1 bit in 10^4 is wrong, after a run of `run` (R507); each offset has its wrong bits
and the bits compared. -/
def eyeRun : Nat → List (Nat × Nat) → Nat
  | run, [] => run
  | run, (w, n) :: l => if w * 10000 < n then eyeRun (run + 1) l else max run (eyeRun 0 l)

/-- The width of the eye in 1/64 channel bit: the distance between the first and the last offset of that run. DEDUCED (log entry 63). -/
def eyeWidth (offs : List (Nat × Nat)) : Nat := eyeRun 0 offs - 1

/-- CALIBRATE_EYE: per beam, the eye width from the captures at its 65 offsets, and the jitter; a beam without captures reports all ones
(R507). -/
def execCalibrateEye (offs : List (List (Nat × Nat))) (jit : List Nat) (s : State) : Host.Outcome State Fault Refusal :=
  .next (s.calOnDisc 0x09 (fun s =>
    forEach (inMask (s.descW 3) 16) (fun b s =>
      let o := offs.getD b []
      if o.isEmpty then (s.wr (F.CAL_B_Q_EYEW b) 127).wr (F.CAL_B_Q_JIT b) 511
      else (s.calField (F.CAL_B_Q_EYEW b) (eyeWidth o)).calField (F.CAL_B_Q_JIT b) (jit.getD b 511)) s))

/-- The results of a group: three measurements of a head group, one of a small channel (R516). -/
def loopResults (g : Nat) : List Nat := if g < 4 then [3 * g, 3 * g + 1, 3 * g + 2] else [8 + g]

/-- CALIBRATE_LOOP: the RMS errors of the named groups; a group that left CLOSED reports all ones (R507), and does not end the task.
DEDUCED (log entry 63). -/
def execCalibrateLoop (rms : List Word) (s : State) : Host.Outcome State Fault Refusal :=
  .next (if s.calibrates 0x0A then
    (forEach (inMask (s.descW 3) 11) (fun g s =>
      let closed := decide ((s.group (Fin.ofNat 11 g)).mode = 2)
      forEach (loopResults g) (fun k s => s.setReg (Reg.CAL_LOOP_RES k) (if closed then rms.getD k 0 else 0xFFFFFFFF)) s) s).calDone
  else s)

end Sys2Proof.Machine
end

