-- ==== Sys2Proof/Machine/Flags.lean ====
section
/-! DEFINITION. The flags Z, N, C and V of SEQ (R343, R345): how an execution operation with SETF sets them. Z says that the result
is 0 and N is its bit 63; C of an addition is its carry and V of an addition or subtraction its signed overflow. What C is after
a subtraction, and C and V after every other operation, no rule says: they come from a free value. -/

namespace Sys2Proof.Machine

/-- The four flags. -/
structure Flags where
  z : Bool
  n : Bool
  c : Bool
  v : Bool
  deriving DecidableEq, Repr

/-- Signed overflow of `a + b = r`, and of `a − b = r`. -/
def addOverflow (a b r : Dword) : Bool := (a.msb == b.msb) && (r.msb != a.msb)
def subOverflow (a b r : Dword) : Bool := (a.msb != b.msb) && (r.msb != a.msb)

/-- Flags of an addition. -/
def addFlags (a b : Dword) : Flags :=
  let r := a + b
  ⟨r == 0, r.msb, decide (2 ^ 64 ≤ a.toNat + b.toNat), addOverflow a b r⟩

/-- Flags of a subtraction or compare; bit 0 of `open_` is C. -/
def subFlags (a b : Dword) (open_ : Word) : Flags :=
  let r := a - b
  ⟨r == 0, r.msb, open_.getLsbD 0, subOverflow a b r⟩

/-- Flags of any other operation with a result; bits 0 and 1 of `open_` are C and V. -/
def resultFlags (r : Dword) (open_ : Word) : Flags := ⟨r == 0, r.msb, open_.getLsbD 0, open_.getLsbD 1⟩

/-- Flags of an operation without a result. -/
def openFlags (open_ : Word) : Flags := ⟨open_.getLsbD 3, open_.getLsbD 2, open_.getLsbD 0, open_.getLsbD 1⟩

end Sys2Proof.Machine
end

