-- ==== Sys2Proof/Machine/Operands.lean ====
section
/-! DEFINITION. The micro-word of SEQ (R343 to R346): its fields, which words are illegal, the general registers, the operands of
the execution operations and their results. -/

namespace Sys2Proof.Machine

/-- The fields of a micro-word (R343). -/
structure Micro where
  ctl    : Nat
  cond   : Nat
  target : BitVec 14
  carg   : Nat
  xop    : Nat
  dst    : Fin 32
  sa     : Fin 32
  sb     : Fin 32
  bimm   : Bool
  size   : Nat
  setf   : Bool
  imm    : Dword
  /-- the reserved fields -/
  resv   : Nat
  deriving DecidableEq, Repr

/-- Take a micro-word apart. -/
def microOf (w : MicroWord) : Micro :=
  let f (lo n : Nat) : Nat := w.toNat / 2 ^ lo % 2 ^ n
  { ctl := f 124 4, cond := f 120 4, target := BitVec.ofNat 14 (f 106 14), carg := f 96 8, xop := f 90 6
    dst := Fin.ofNat 32 (f 85 5), sa := Fin.ofNat 32 (f 80 5), sb := Fin.ofNat 32 (f 75 5), bimm := decide (f 74 1 = 1)
    size := f 72 2, setf := decide (f 71 1 = 1), imm := BitVec.ofNat 64 (f 0 64), resv := f 104 2 + f 64 7 }

/-- The execution operations of R346. -/
def xopKnown (x : Nat) : Bool := x ≤ 0x0D || (0x10 ≤ x && x ≤ 0x14) || x = 0x18 || x = 0x19

/-- A word is ILLOP (R343 to R346). -/
def Micro.illegal (m : Micro) : Bool :=
  decide (m.resv ≠ 0) || decide (10 ≤ m.ctl) || (if m.ctl = 1 then decide (14 ≤ m.cond) else decide (m.cond ≠ 0)) ||
  !xopKnown m.xop || (decide (m.ctl = 4 ∨ m.ctl = 7) && decide (m.xop ≠ 0)) || (decide (m.xop = 0x12) && m.bimm) ||
  (decide (m.xop = 0x14) && decide (6 ≤ m.sb.val))

/-- A general register: G0 reads 0 (R343). -/
def State.g (s : State) (i : Fin 32) : Dword := if i = 0 then 0 else s.seq.g[i]

/-- Write a general register: G0 ignores writes (R343). -/
def State.setG (s : State) (i : Fin 32) (v : Dword) : State :=
  if i = 0 then s else { s with seq := { s.seq with g := s.seq.g.set i v } }

/-- The second operand (R346). -/
def State.opB (s : State) (m : Micro) : Dword := if m.bimm then m.imm else s.g m.sb

/-- The address of a memory or register access (R346). -/
def State.opAddr (s : State) (m : Micro) : Nat := (s.g m.sa + m.imm).toNat

/-- Position and width of a bit field in the second operand (R346). -/
def fieldPos (b : Dword) : Nat := b.toNat % 64
def fieldWidth (b : Dword) : Nat := b.toNat / 256 % 64

/-- The result of an operation on registers (R346), none for one that has no result. `old` is G[DST]. -/
def aluResult (x : Nat) (old a b : Dword) : Option Dword :=
  match x with
  | 0x01 => some b
  | 0x02 => some (a + b)
  | 0x03 => some (a - b)
  | 0x04 => some (a &&& b)
  | 0x05 => some (a ||| b)
  | 0x06 => some (a ^^^ b)
  | 0x07 => some (a <<< (b.toNat % 64))
  | 0x08 => some (a >>> (b.toNat % 64))
  | 0x09 => some (a.sshiftRight (b.toNat % 64))
  | 0x0A => some (a * b)
  | 0x0B => some (a - b)
  | 0x0C => some (BitVec.ofNat 64 (a.toNat / 2 ^ fieldPos b % 2 ^ fieldWidth b))
  | 0x0D =>
    let mask : Dword := BitVec.ofNat 64 ((2 ^ fieldWidth b - 1) * 2 ^ fieldPos b)
    some ((old &&& ~~~mask) ||| (a <<< fieldPos b &&& mask))
  | _ => none

/-- Sign-extend the value of `n` bytes (R346). -/
def signExtend (n v : Nat) : Dword := BitVec.ofInt 64 (signed (8 * n) v)

/-- The condition of a BR (R345). -/
def State.condHolds (s : State) (m : Micro) (eventPending : Bool) : Bool :=
  let q := s.seq
  match m.cond with
  | 0x0 => true
  | 0x1 => q.z
  | 0x2 => !q.z
  | 0x3 => q.n
  | 0x4 => !q.n
  | 0x5 => q.c
  | 0x6 => !q.c
  | 0x7 => q.v
  | 0x8 => !q.z && q.n == q.v
  | 0x9 => q.z || q.n != q.v
  | 0xA => eventPending
  | 0xB => !eventPending
  | 0xC => (s.g m.sa).getLsbD (m.imm.toNat % 64)
  | 0xD => !(s.g m.sa).getLsbD (m.imm.toNat % 64)
  | _ => false

end Sys2Proof.Machine
end

