-- ==== Sys2Proof/Machine/Seq.lean ====
section
/-! DEFINITION. SEQ (R342 to R363, R366): taking an exception, one instruction with its delay slot, loops and mode shadow, events,
WAIT, the watchdog, timers, and host control. The register access of RDREG and WRREG is a parameter: the bus supplies it. -/

namespace Sys2Proof.Machine

/-- The answer to a register access (R296, R536, R541); `poison` is a read that consumed poisoned data (R354). -/
inductive RegAns where
  | ok (v : Word) | ur | priv | busy | poison
  deriving DecidableEq, Repr

/-- How SEQ reaches the register space: read and write of an offset. -/
structure RegIO where
  read  : State → Nat → RegAns × State
  write : State → Nat → Word → RegAns × State

/-! ## Small parts -/

/-- The program counter. -/
def State.pc (s : State) : BitVec 14 := (s.reg Reg.SEQ_PC).setWidth 14
def State.setPc (s : State) (a : BitVec 14) : State := s.setReg Reg.SEQ_PC (a.setWidth 32)

/-- The mode bits [3:0]: TASK, EVEN, PRIV, DRAM (R352). -/
def State.modeBits (s : State) : BitVec 4 := (s.reg Reg.SEQ_MODE).setWidth 4

/-- Set mode bits [3:0]; the first TASK sets the configuration lock (R423). -/
def State.setMode (s : State) (m : BitVec 4) : State :=
  let s := s.setReg Reg.SEQ_MODE ((s.reg Reg.SEQ_MODE &&& ~~~0xF) ||| m.setWidth 32)
  if m.getLsbD 3 then (s.put F.CFG_LOCK_LOCK true).goPending else s

/-- The control-store word at an address: the fill is all ones (R342). DESIGN CHOICE (log entry 10). -/
def State.csWord (s : State) (a : BitVec 14) : MicroWord := Sparse.get (BitVec.allOnes 128) s.seq.cs a.toNat

/-- SEQ runs instructions. -/
def State.seqRuns (s : State) : Bool := !s.flag F.SEQ_STAT_HALTED && !s.seq.waiting

/-- Nothing keeps an event off this boundary: no slot and no shadow lies ahead, and no ERET just behind (R360). -/
def State.freeBoundary (s : State) : Bool := s.seq.branch.isNone && s.seq.shadow.isNone && !s.seq.afterEret

/-- The instruction at the program counter is the end of the innermost loop (R350). -/
def State.atLoopEnd (s : State) : Bool := match s.seq.loops with
  | l :: _ => decide (l.stop = s.pc)
  | [] => false

/-! ## Exceptions (R354 to R357) -/

/-- SEQ halts for cause `k`: 1 to 4 = breakpoint 0 to 3, 5 = the HALT operation, 6 = the host, 7 = a double fault (R373).
DESIGN CHOICE (log entry 69). -/
def State.haltNow (s : State) (k : Nat) : State := (s.put F.SEQ_STAT_HALTED true).setReg Reg.SEQ_DBG_STAT (BitVec.ofNat 32 k)

/-- SEQ stops for good (R357): the running task ends with 0x42, and a start-up not finished stops (R530). -/
def State.doubleFault (s : State) : State :=
  let s := ((s.modSeq (fun q => { q with waiting := false })).haltNow 7).put F.SEQ_STAT_DFAULT true
  ((s.taskError 0x42).attention 4).startStop 3

/-- Exception `code` is raised by the instruction at the program counter, with the faulting address when there is one. -/
def State.raise (s : State) (code : Nat) (addr : Option Nat) : State :=
  let q := s.seq
  let s := s.bump (Reg.SEQ_XC_CNT code)
  if s.flag F.SEQ_MODE_XM then s.doubleFault
  else
    let ds := q.branch.isSome
    let epc := match q.branch with
      | some b => b.at_
      | none => s.pc
    let cause := 2 ^ 31 + ds.toNat * 2 ^ 30 + q.shadow.isSome.toNat * 2 ^ 29 + s.atLoopEnd.toNat * 2 ^ 28 + code * 2 ^ 20
    let mode := s.modeBits
    let s := (s.setReg Reg.SEQ_EPC (epc.setWidth 32)).setReg Reg.SEQ_ECAUSE (BitVec.ofNat 32 cause)
    let s := match addr with
      | some a => s.setPair Reg.SEQ_EADDR_LO a
      | none => s
    let s := s.setReg Reg.SEQ_EMODE ((q.shadow.getD mode).setWidth 32)
    let s := (s.setMode ((mode &&& 0xB) ||| 2)).put F.SEQ_MODE_XM true
    let s := s.modSeq (fun q => { q with branch := none, shadow := none, afterEret := false, waiting := false })
    (s.setPc (BitVec.ofNat 14 (16 * code))).pmcEdge 0x302

/-- Take an expired watchdog at a free boundary, before any event (R354, R360). -/
def State.takeWdog (s : State) : State :=
  if s.seq.wdog && s.freeBoundary && s.seqRuns then (s.modSeq (fun q => { q with wdog := false })).raise 11 none else s

/-! ## Execution operations (R346) -/

/-- What an operation answers: an exception with its address, or a result. -/
inductive XRes where
  | exc (code : Nat) (addr : Option Nat) | res (v : Option Dword)
  deriving DecidableEq, Repr

/-- Poison at a data address is consumed (R354, R387). -/
def State.loadPoison (s : State) (a : Nat) : State :=
  if a < 2 ^ 34 then (s.bump Reg.CCH_POISON_CNT).consumePoison a 2 (some s.seqCust) else s.consumeSram 2 (some s.seqCust)

/-- A load of `n` bytes. -/
def State.xLoad (s : State) (a n : Nat) (sext : Bool) : XRes × State :=
  let val (bs : List Byte) : Dword := if sext then signExtend n (beNat bs) else BitVec.ofNat 64 (beNat bs)
  match s.seqSpace a n false with
  | some 0 =>
    let (bs, bad, s) := s.dramLoad a n
    if bad then (.exc 5 (some a), s.loadPoison a) else (.res (some (val bs)), s)
  | some 1 =>
    if s.sramBad 1 ((a - sramBase) / 8) then (.exc 5 (some a), s.loadPoison a)
    else (.res (some (val (s.sramBytes (a - sramBase) n))), s)
  | some _ =>
    if s.sramBad 16 ((a - sealBase) / 8) then (.exc 5 (some a), s.loadPoison a)
    else (.res (some (val (s.sealBytes (a - sealBase) n))), s)
  | none => (.exc 2 (some a), s)

/-- A store of the low `n` bytes of a value. -/
def State.xStore (s : State) (a n : Nat) (v : Dword) : XRes × State :=
  let bs := beBytes n v.toNat
  match s.seqSpace a n true with
  | some 0 => (.res none, s.dramStore a bs)
  | some _ => (.res none, (if n = 8 then s.clearSram 1 ((a - sramBase) / 8) else s).setSram (a - sramBase) bs)
  | none => (.exc 2 (some a), s)

/-- The exception of a refused register access (R354). -/
def ansExc (a : Nat) : RegAns → XRes
  | .ok v => .res (some (v.setWidth 64))
  | .busy => .exc 4 (some a)
  | .poison => .exc 5 (some a)
  | _ => .exc 3 (some a)

/-- Run a word's execution operation. -/
def State.xRun (io : RegIO) (s : State) (m : Micro) : XRes × State :=
  let a := s.opAddr m
  let n := 2 ^ m.size
  match m.xop with
  | 0x10 => s.xLoad a n false
  | 0x11 => s.xLoad a n true
  | 0x12 => s.xStore a n (s.g m.sb)
  | 0x13 => (.res none, s.drainStores)
  | 0x14 =>
    if m.sb.val ≤ 2 ∧ s.seqSpace a 1 false ≠ some 0 then (.exc 2 (some a), s) else (.res none, s.cchOp m.sb.val a)
  | 0x18 => let (r, s) := io.read s (a % 2 ^ 24); (ansExc (a % 2 ^ 24) r, s)
  | 0x19 =>
    match io.write s (a % 2 ^ 24) ((s.opB m).setWidth 32) with
    | (.ok _, s) => (.res none, s)
    | (r, s) => (ansExc (a % 2 ^ 24) r, s)
  | x => (.res (aluResult x (s.g m.dst) (s.g m.sa) (s.opB m)), s)

/-- The flags SETF sets (R343). -/
def State.xFlags (m : Micro) (a b : Dword) (r : Option Dword) (s : State) : State :=
  if m.setf then
    let (o, s) := s.draw
    let f := match m.xop, r with
      | 0x02, _ => addFlags a b
      | 0x03, _ => subFlags a b o
      | 0x0B, _ => subFlags a b o
      | _, some v => resultFlags v o
      | _, none => openFlags o
    s.modSeq (fun q => { q with z := f.z, n := f.n, c := f.c, v := f.v })
  else s

/-- What a word's execution operation writes, on `s'` as the operation left it: the flags and G[DST]. -/
def State.xWrite (s s' : State) (m : Micro) (r : Option Dword) : State :=
  let s' := State.xFlags m (s.g m.sa) (s.opB m) r s'
  match r with
  | some v => if m.xop = 0x0B then s' else s'.setG m.dst v
  | none => s'

/-! ## Control operations (R344) -/

/-- The mode a MODE asks for. -/
def Micro.newMode (m : Micro) (old : BitVec 4) : BitVec 4 :=
  let mask := BitVec.ofNat 4 (m.carg / 16)
  (old &&& ~~~mask) ||| (BitVec.ofNat 4 m.carg &&& mask)

/-- The refusal of a MODE or ERET (R353, R354). -/
def State.modeError (s : State) (m : Micro) : Bool :=
  if m.ctl = 6 then
    let old := s.modeBits
    let new := m.newMode old
    let set (i : Nat) : Bool := (BitVec.ofNat 4 (m.carg / 16)).getLsbD i && (BitVec.ofNat 4 m.carg).getLsbD i
    (set 0 && !s.flag F.SEQ_STAT_DFILL) || (new.getLsbD 3 && !new.getLsbD 0) ||
      (set 1 && !old.getLsbD 1 && !s.flag F.SEQ_MODE_XM)
  else decide (m.ctl = 8) && !s.flag F.SEQ_MODE_XM && !s.flag F.SEQ_MODE_EM

/-- A LOOP's count (R343, R350). -/
def State.loopCount (s : State) (m : Micro) : Word :=
  if m.carg.testBit 7 then m.imm.setWidth 32 else (s.g (Fin.ofNat 32 m.carg)).setWidth 32

/-- The first exception an instruction raises before its operation runs (R354), in the table's order. DEDUCED (log entry 31). -/
def State.staticExc (s : State) (m : Micro) : Option Nat :=
  if s.seq.csBad.contains s.pc.toNat then some 6
  else if m.illegal then some 0
  else if m.ctl ≠ 0 ∧ (s.seq.branch.isSome ∨ s.seq.shadow.isSome) then some 1
  else if s.atLoopEnd ∧ (m.ctl ≠ 0 ∨ s.seq.branch.isSome) then some 1
  else if s.modeError m then some 9
  else none

/-- The stack exceptions, which come after ACCESS (R354). -/
def State.stackExc (s : State) (m : Micro) : Option Nat :=
  if (m.ctl = 2 ∧ s.seq.calls.length ≥ 16) ∨ (m.ctl = 3 ∧ s.seq.calls = []) then some 7
  else if m.ctl = 5 ∧ s.loopCount m ≠ 0 ∧ s.seq.loops.length ≥ 8 then some 8
  else none

/-- A load or store whose address is refused (R354, R367). -/
def State.accessExc (s : State) (m : Micro) : Bool :=
  let a := s.opAddr m
  if m.xop = 0x10 ∨ m.xop = 0x11 then (s.seqSpace a (2 ^ m.size) false).isNone
  else if m.xop = 0x12 then (s.seqSpace a (2 ^ m.size) true).isNone
  else decide (m.xop = 0x14 ∧ m.sb.val ≤ 2) && decide (s.seqSpace a 1 false ≠ some 0)

/-- An event enabled for SEQ is pending (R345). -/
def State.anyEvent (s : State) : Bool :=
  (List.range 64).any (fun n => s.evPending n && (s.reg (Reg.SEQ_EVT_EN (n / 32))).getLsbD (n % 32))

/-- The dispatch entry of an opcode (R362). -/
def State.dispatchEntry (s : State) (op : Nat) : BitVec 14 :=
  if op ∈ [0x01, 0x02, 0x03, 0x10, 0x11, 0x12, 0x13, 0x20, 0x21, 0x30, 0x31, 0x40, 0x41, 0x50, 0x60, 0x7F] then
    s.seq.disp.toList.getD (op % 256) 0
  else (s.reg Reg.SEQ_ILLVEC).setWidth 14

/-- A branch's slot has completed (R347, R351): the jump, the push or pop, and the level a jump leaves. -/
def State.commitBranch (s : State) (b : Branch) : State :=
  let s := s.modSeq (fun q => { q with
    branch := none
    calls := match b.call with
      | some a => a :: q.calls
      | none => if b.pop then q.calls.drop 1 else q.calls })
  match b.target with
  | none => s.setPc (b.at_ + 2)
  | some t =>
    let leaves := match s.seq.loops with
      | l :: _ => decide (t.toNat < l.start.toNat ∨ l.stop.toNat < t.toNat)
      | [] => false
    (if leaves then s.modSeq (fun q => { q with loops := q.loops.drop 1 }) else s).setPc t

/-- Step past an instruction that is no branch: after the end of the innermost loop the loop goes round or is left (R350). -/
def State.passOn (s : State) : State :=
  match s.seq.loops with
  | l :: r =>
    if l.stop = s.pc then
      if l.count.toNat > 1 then
        (s.modSeq (fun q => { q with loops := { l with count := l.count - 1 } :: r })).setPc l.start
      else (s.modSeq (fun q => { q with loops := r })).setPc (s.pc + 1)
    else s.setPc (s.pc + 1)
  | [] => s.setPc (s.pc + 1)

/-- Return from an exception or event (R355). -/
def State.eret (s : State) : State :=
  let s := s.modSeq (fun q => { q with afterEret := true })
  if s.flag F.SEQ_MODE_XM then
    (((s.put F.SEQ_MODE_XM false).setMode ((s.reg Reg.SEQ_EMODE).setWidth 4))).setPc ((s.reg Reg.SEQ_EPC).setWidth 14)
  else
    (((s.put F.SEQ_MODE_EM false).setMode ((s.reg Reg.SEQ_EVMODE).setWidth 4))).setPc ((s.reg Reg.SEQ_EVPC).setWidth 14)

/-- The effect of a control operation; `taken` is the branch condition as decode found it. -/
def State.ctlRun (s : State) (m : Micro) (taken : Bool) : State :=
  let here := s.pc
  let slot (b : Branch) (s : State) : State := (s.modSeq (fun q => { q with branch := some b })).setPc (here + 1)
  match m.ctl with
  | 1 => slot { at_ := here, target := if taken then some m.target else none } s
  | 2 => slot { at_ := here, target := some m.target, call := some (here + 2) } s
  | 3 => slot { at_ := here, target := s.seq.calls.head?, pop := true } s
  | 4 =>
    let op := (s.g m.sa).toNat % 256
    slot { at_ := here, target := some (s.dispatchEntry op) } (if s.sramBad 3 (op / 4) then s.poisonUsed 2 else s)
  | 5 =>
    let n := s.loopCount m
    if n = 0 then s.setPc (m.target + 1)
    else (s.modSeq (fun q => { q with loops := ⟨here + 1, m.target, n⟩ :: q.loops })).setPc (here + 1)
  | 6 => (s.modSeq (fun q => { q with shadow := some (m.newMode s.modeBits) })).setPc (here + 1)
  | 7 => s.modSeq (fun q => { q with waiting := true })
  | 8 => s.eret
  | 9 => (s.haltNow 5).setPc (here + 1)
  | _ => s.passOn

/-- What completing an instruction brings about beside its control operation: a slot commits its branch, a shadow its mode. -/
def State.complete (s : State) (m : Micro) (taken : Bool) : State :=
  let q := s.seq
  let s := s.modSeq (fun q => { q with afterEret := false })
  let s := match q.branch with
    | some b => s.commitBranch b
    | none => s.ctlRun m taken
  match q.shadow with
  | some k => (s.modSeq (fun q => { q with shadow := none })).setMode k
  | none => s

/-- A branch waits for its slot, and commits with it (R347): `after` is SEQ as the whole word would leave it, of which only the pending
branch is taken here. A poisoned dispatch entry is consumed. DEDUCED (log entry 48). -/
def State.branchHeld (s after : State) (m : Micro) : State :=
  let s := (s.modSeq (fun q => { q with branch := after.seq.branch, afterEret := false })).setPc (s.pc + 1)
  if m.ctl = 4 ∧ s.sramBad 3 ((after.g m.sa).toNat % 256 / 4) = true then s.poisonUsed 2 else s

/-- Poison that an operation consumes as it raises POISON_D. -/
def State.poisonSeen (s : State) (m : Micro) (k : Nat) (a : Option Nat) : State :=
  match a with
  | some a => if k ≠ 5 then s else if m.xop = 0x18 then s.consumeSram 2 (some s.seqCust) else s.loadPoison a
  | none => s

/-- SEQ executes the instruction at its program counter on `s`; an exception is entered from `base`, which is `s` but in a delay slot, where
it stands before the branch's own operation (R343 to R356). -/
def State.instrOn (io : RegIO) (base s : State) : State :=
  let m := microOf (s.csWord s.pc)
  match s.staticExc m with
  | some k => base.raise k none
  | none =>
    if s.accessExc m then base.raise 2 (some (s.opAddr m))
    else
      let taken := s.condHolds m s.anyEvent
      let (x, s') := s.xRun io m
      let after := match x with
        | .res r => s.xWrite s' m r
        | .exc _ _ => s
      match after.stackExc m with
      | some k => base.raise k none
      | none =>
        match x with
        | .exc k a => (if s.seq.branch.isSome then base.poisonSeen m k a else s').raise k a
        | .res _ =>
          if 1 ≤ m.ctl ∧ m.ctl ≤ 4 then s.branchHeld (after.ctlRun m taken) m
          else (after.complete m taken).bump64 Reg.SEQ_INSTR_CNT_LO (if s.seq.branch.isSome then 2 else 1)

/-- SEQ executes one instruction. In a delay slot the branch's own execution operation, which commits with the slot, comes first
(R347). -/
def State.seqInstr (io : RegIO) (s : State) : State :=
  match s.seq.branch with
  | none => s.instrOn io s
  | some b =>
    let m := microOf (s.csWord b.at_)
    match s.xRun io m with
    | (.exc k a, s') => ((s'.modSeq (fun q => { q with branch := none })).setPc b.at_).raise k a
    | (.res r, s') => s.instrOn io (s.xWrite s' m r)

/-- A breakpoint names the program counter (R373). -/
def State.breakpoint (s : State) : Option Nat :=
  (List.range 4).find? (fun k => (s.rd F.SEQ_DBG_CTRL_EN).testBit k && decide ((s.reg (Reg.SEQ_BKPT k)).setWidth 14 = s.pc))

/-- The command of one control or execution operation: SEQ runs, and the word at its program counter is one that `sel` names.
DEDUCED (log entry 31). -/
def State.seqRow (io : RegIO) (s : State) (sel : Micro → Bool) : State :=
  if s.seqRuns && sel (microOf (s.csWord s.pc)) then
    match s.breakpoint with
    | some k => s.haltNow (k + 1)
    | none => (s.seqInstr io).takeWdog
  else s

/-! ## WAIT, events, watchdog, timers (R358 to R361) -/

/-- The lowest pending event of a mask. -/
def State.lowestIn (s : State) (mask : Dword) : Option Nat := (List.range 64).find? (fun n => mask.getLsbD n && s.evPending n)

/-- An event is taken off: its pending bit, or for event 32 the oldest firing, whose ARG goes to `SEQ_EVT_LAST` (R359). -/
def State.takeEvent (s : State) (n : Nat) : State :=
  if n = 32 then
    match s.seq.queue with
    | a :: r => (s.modSeq (fun q => { q with queue := r })).wr F.SEQ_EVT_LAST_ARG a.toNat
    | [] => s
  else s.evClear n

/-- A halt ordered while a WAIT was stalled comes at the next boundary (R366, R374). -/
def State.haltDue (s : State) : State :=
  if s.flag F.SEQ_CTRL_HALT && !s.flag F.SEQ_STAT_HALTED && !s.seq.waiting then s.haltNow 6 else s

/-- WAIT_WAKE: an event of the mask is pending, and the WAIT completes, also one that was stepped (R361, R374). -/
def execWaitWake (s : State) : Host.Outcome State Fault Refusal :=
  if s.seq.waiting then
    let m := microOf (s.csWord s.pc)
    match s.lowestIn (s.g (Fin.ofNat 32 m.carg)) with
    | some n => .next ((((s.modSeq (fun q => { q with waiting := false })).takeEvent n).setG m.dst (BitVec.ofNat 64 n)).passOn).takeWdog.haltDue
    | none => .next s
  else .next s

/-- EVENT_ENTRY: the lowest eligible event is taken at a boundary at which no exception is (R360, R366). -/
def execEventEntry (s : State) : Host.Outcome State Fault Refusal :=
  let ok (n : Nat) : Bool := s.evPending n && (s.reg (Reg.SEQ_EVT_EN (n / 32))).getLsbD (n % 32) &&
    (decide (n ≠ 0) || s.flag F.SEQ_MODE_TASK)
  if s.seqRuns && s.freeBoundary && s.flag F.SEQ_MODE_EVEN && !s.seq.wdog then
    match (List.range 64).find? ok with
    | some n =>
      let mode := s.modeBits
      let s := (s.takeEvent n).wr F.SEQ_EVT_LAST_NUM n
      let s := (s.setReg Reg.SEQ_EVPC (s.pc.setWidth 32)).setReg Reg.SEQ_EVMODE (mode.setWidth 32)
      let s := ((s.setMode ((mode &&& 0xB) ||| 2)).put F.SEQ_MODE_EM true).setPc 0x100
      .next ((s.bump Reg.SEQ_EVT_TAKEN_CNT).pmcEdge 0x301)
    | none => .next s
  else .next s

/-- WDOG: `SEQ_WDOG` expires; a stalled WAIT ends with the exception, otherwise it is taken at the next boundary (R354, R361). -/
def execWdog (s : State) : Host.Outcome State Fault Refusal :=
  if s.flag F.SEQ_WDOG_EN && (s.seq.waiting || !s.flag F.SEQ_STAT_HALTED) then
    if s.seq.waiting then .next (s.raise 11 none).haltDue
    else .next (s.modSeq (fun q => { q with wdog := true })).takeWdog
  else .next s

/-- TIMER: a running timer reaches 0 and reloads (R358, R373). DEDUCED (log entry 31). -/
def execTimer (k : Fin 4) (s : State) : Host.Outcome State Fault Refusal :=
  if s.reg (Reg.SEQ_TMR_RLD k) ≠ 0 then .next ((s.setReg (Reg.SEQ_TMR_CNT k) (s.reg (Reg.SEQ_TMR_RLD k))).event Ev.timer) else .next s

/-! ## Host control (R366, R373, R374) -/

/-- A write of `SEQ_CTRL.HALT`: 1 halts at the next boundary, which a stalled WAIT has not reached; 0 runs, unless the store is not
loaded, and is ignored after a double fault (R374). An expired watchdog is taken as soon as SEQ runs (R360). -/
def State.seqHaltWrite (s : State) (halt : Bool) : State :=
  if !halt && s.flag F.SEQ_STAT_DFAULT then s
  else
    let s := s.put F.SEQ_CTRL_HALT halt
    if halt then s.haltDue
    else if !s.flag F.SEQ_STAT_CSLOAD then s
    else (s.put F.SEQ_STAT_HALTED false).takeWdog

/-- One instruction while halted. -/
def State.seqStepWrite (io : RegIO) (s : State) : State :=
  if s.flag F.SEQ_STAT_HALTED && !s.flag F.SEQ_STAT_DFAULT && !s.seq.waiting then
    let s' := (s.put F.SEQ_STAT_HALTED false).seqInstr io
    s'.put F.SEQ_STAT_HALTED true
  else s

/-- SEQ_HALT; every field of the register is RWK, so an operator's write is refused (R542). -/
def execSeqHalt (m : Master) (haltBit : Bool) (s : State) : Host.Outcome State Fault Refusal :=
  .next (if s.custodian m then s.seqHaltWrite haltBit else s)

/-- A write of `SEQ_EVT_FORCE`: the pending bit of the event it names (R373). -/
def State.evtForce (s : State) (n : Nat) : State := if n = 32 then s else s.event n

/-- SEQ_EVT_FORCE. -/
def execSeqEvtForce (m : Master) (n : Fin 64) (s : State) : Host.Outcome State Fault Refusal :=
  .next (if s.custodian m then s.evtForce n else s)

end Sys2Proof.Machine
end

