-- ==== Sys2Proof/Machine/Pwr.lean ====
section
/-! DEFINITION. PWR (R520 to R535): resets and what they leave, the start-up sequence, the die temperature. -/

namespace Sys2Proof.Machine

/-! ## What a reset leaves (R527, R545) -/

/-- Registers a module reset keeps: BKP with its log, the AXL block, the reset causes and counts, the times of steps 1 to 5, and
the rails. -/
def keptReg (a : Nat) : Bool :=
  (decide (0x18000 ≤ a) && decide (a < 0x18080)) || decide (a / 0x10000 = 0x15) || decide (a = Reg.PWR_RST_CAUSE) ||
  (decide (Reg.PWR_POR_CNT ≤ a) && decide (a ≤ Reg.PWR_WARN_CNT)) || (decide (Reg.PWR_STEP_T 0 ≤ a) && decide (a ≤ Reg.PWR_STEP_T 4)) ||
  (decide (Reg.PWR_RAIL 0 ≤ a) && decide (a ≤ Reg.PWR_RAIL 13))

/-- The registers of the AXL block, and what a power-on reset clears beside them. -/
def porReg (a : Nat) : Bool := decide (a / 0x10000 = 1) && !(decide (0x18000 ≤ a)) || decide (a / 0x10000 = 0x15)

/-- Every part that a module reset resets is fresh; the rest stands (R527): BKP with its key store and loops, the failure count of
sessions (R447), AXL, fuses, flash, whether the disc is at rest, and the flits already put on the line. A flash operation in
progress leaves its unit undefined (R408, R523). -/
def State.freshen (s : State) : State :=
  let s := s.flcLost
  let c := s.cph
  let fails := s.rd F.CPH_SESS_STAT_FAILS
  let lockout := s.flag F.CPH_SESS_STAT_LOCKOUT
  let side := s.rd F.MIR_STAT_SIDE
  let cph : Cph := { kek := c.kek, cak := c.cak, cfgKey := c.cfgKey, loops := c.loops, excHi := c.excHi, excLo := c.excLo }
  let flc : Flc := { words := s.flc.words, progs := s.flc.progs, undef := s.flc.undef }
  let hlk : Hlk := { ports := s.hlk.ports.map (fun p => { line := p.line }) }
  let pwr : Pwr := { held := true, por := false, therm := s.pwr.therm }
  let t : State := { regs := s.regs.filter (fun p => keptReg p.1), axl := s.axl, axlReq := s.axlReq, cph := cph, flc := flc, hlk := hlk
                     pwr := pwr, spn := { still := s.spn.still }, free := s.free, pending := s.pending }
  let t := (t.wr F.CPH_SESS_STAT_FAILS fails).put F.CPH_SESS_STAT_LOCKOUT lockout
  (t.wr F.MIR_STAT_SIDE side).storeStat

/-- A module reset by source: PIN, SOFT or THERM, with its bit of `PWR_RST_CAUSE` and its count. During a power-on reset nothing of
it shows (R533). -/
def State.moduleReset (s : State) (cause : RegField) (cnt : Nat) : State :=
  if s.pwr.held && s.pwr.por then s else (s.freshen.put cause true).bump cnt

/-- POWER_ON_RESET: also AXL, the causes and the counts (R523, R526, R527, R533). -/
def execPowerOnReset (s : State) : Host.Outcome State Fault Refusal :=
  let s := s.freshen
  .next { s with regs := s.regs.filter (fun p => !porReg p.1), axl := { factory := s.axl.factory }, axlReq := [], pwr := { therm := s.pwr.therm } }

/-- PIN_RESET: RST_N low for `lowNs` (R526): at least 1 µs resets, under 200 ns nothing; between, the spec says neither.
DESIGN CHOICE (log entry 30). -/
def execPinReset (lowNs : Nat) (s : State) : Host.Outcome State Fault Refusal :=
  if lowNs < 200 then .next s
  else if 1000 ≤ lowNs then .next (s.moduleReset F.PWR_RST_CAUSE_PIN Reg.PWR_PIN_CNT)
  else
    let (v, s) := s.draw
    .next (if v.getLsbD 0 then s.moduleReset F.PWR_RST_CAUSE_PIN Reg.PWR_PIN_CNT else s)

/-- A write of `PWR_RST_CMD` that acts (R528, R535): KEY, GO and custodian rights. -/
def State.softActs (s : State) (m : Master) (v : Word) : Bool :=
  s.custodian m && decide (F.PWR_RST_CMD_KEY.of v = 0xA5C3) && decide (F.PWR_RST_CMD_GO.of v = 1)

/-- The reset that a SOFT write ordered, once its CCPL has gone (R528). DEDUCED (log entry 46). -/
def State.softNow (s : State) : State := if s.pwr.soft then s.moduleReset F.PWR_RST_CAUSE_SOFT Reg.PWR_SOFT_CNT else s

/-- SOFT_RESET. -/
def execSoftReset (m : Master) (v : Word) (s : State) : Host.Outcome State Fault Refusal :=
  .next (if s.softActs m v then s.moduleReset F.PWR_RST_CAUSE_SOFT Reg.PWR_SOFT_CNT else s)

/-- THERMAL_RESET: above 125 °C, held until the die is below 105 °C (R525). -/
def execThermalReset (temp : Int) (s : State) : Host.Outcome State Fault Refusal :=
  if 125 < temp ∧ s.pwr.therm = false then
    let s := s.moduleReset F.PWR_RST_CAUSE_THERM Reg.PWR_THERM_CNT
    .next { s with pwr := { s.pwr with therm := true } }
  else .next s

/-- TAP_RESET: boundary-scan logic only, of which the register space shows nothing (R526). DEDUCED (log entry 47). -/
def execTapReset (s : State) : Host.Outcome State Fault Refusal := .next s

/-- DIE_TEMPERATURE_SAMPLE (R525, R534): the figures, the warning with its ATTENTION at most once a minute, the end of a thermal
reset. -/
def execDieTemperatureSample (temp : Int) (s : State) : Host.Outcome State Fault Refusal :=
  let s := if temp < 105 then { s with pwr := { s.pwr with therm := false } } else s
  if s.pwr.held then .next s
  else
    let s := (s.setInt Reg.PWR_TEMP_DIE temp).setInt Reg.PWR_PEAK_TEMP (max temp (s.int Reg.PWR_PEAK_TEMP))
    if s.rd F.PWR_TEMP_CFG_WARN < temp then
      let s := if s.flag F.PWR_STAT_WARN then s else (s.put F.PWR_STAT_WARN true).bump Reg.PWR_WARN_CNT
      let s := s.clock
      let quiet := match s.pwr.warned with
        | some t => decide (s.cycles < t + 48000000000)
        | none => false
      if quiet then .next s
      else .next (({ s with pwr := { s.pwr with warned := some s.cycles } }).attention 1)
    else .next s

/-! ## Start-up (R529) -/

/-- The duration of step k. -/
def State.stepTime (s : State) (x : StartIn) (k : Nat) : State :=
  s.setReg (Reg.PWR_STEP_T (k - 1)) (BitVec.ofNat 32 (x.stepUs.getD (k - 1) 0))

/-- A cold start of BKP (R449): the key store is empty, every BKP register at its reset value, and BKPLOST and the log say so. -/
def State.bkpCold (s : State) : State :=
  let s := { s with regs := s.regs.filter (fun p => !(decide (0x18000 ≤ p.1) && decide (p.1 < 0x18080)))
                    cph := { s.cph with kek := none, cak := none, loops := 0, excHi := false, excLo := false } }
  let s := (s.wr F.CPH_SESS_STAT_FAILS 0).put F.CPH_SESS_STAT_LOCKOUT false
  ((s.storeStat).put F.BKP_ALARM_BKPLOST true).bkpLog 5

/-- Steps 1 to 5, after a power-on reset: BKP, rails, PLLs, the strap PAIR_SIDE (R559), and AXL's self-check with its maps (R475, R476). -/
def State.powerUp (s : State) (x : StartIn) : State :=
  let s := if x.bkpCold then s.bkpCold else s
  let s := forEach (List.range 10) (fun r s => s.put (F.PWR_RAIL_GOOD r) true) s
  let s := ((s.put F.PWR_STAT_VIN12OK true).put F.PWR_STAT_V3P3OK true).put F.MIR_STAT_SIDE x.side
  let s := if x.axlOk then s else (s.put F.AXL_STAT_FROZEN true).event Ev.axlFault
  let s := (s.axlRead x.fieldMapOk).put F.AXL_STAT_LOADED true
  forEach [1, 2, 3, 4, 5] (fun k s => s.stepTime x k) s

/-- Start-up from the release of reset to CFG (steps 1 to 6): the maps in force, the SRAM fill and the library bus's
counter (R389, R475, R493). `PMC_CYC` starts from 0 at step 6. -/
def State.startRelease (s : State) (x : StartIn) : State :=
  let s := if s.pwr.por then s.powerUp x else s
  let s := { s with pwr := { s.pwr with held := false, por := false } }
  let s := s.axlApply.put F.MIC_FILL_STAT_SDONE true
  let s := s.tick
  let s := (s.setPair Reg.LBS_TX_CTR_LO (s.pair Reg.BKP_TICK_LO * 2 ^ 16)).setPair Reg.PMC_CYC_LO 0
  (s.stepTime x 6).wr F.PWR_START_STEP 7

/-- Step 11: BIST and repairs (R477): DEC and MAC lanes, ADC slices, and mixers, which have no spare (R208). A link lane is replaced in
training (R289). -/
def State.bist (s : State) (x : StartIn) : State :=
  let bad (w : Nat) (v : Nat) : List Nat := (List.range w).filter (fun l => v.testBit l)
  let dec := bad 18 x.bistDec.toNat
  let mac := bad 5 x.bistMac.toNat
  let s := (s.setReg Reg.AXL_BIST_DEC (x.bistDec.setWidth 32)).setReg Reg.AXL_BIST_MAC (x.bistMac.setWidth 32)
  let s := s.bumpBy Reg.AXL_BIST_FAIL_CNT (dec.length + mac.length)
  let s := (s.setReg Reg.AXL_BIST_MIX (x.bistMix.setWidth 32)).setReg Reg.AXL_BIST_HLK (x.bistHlk.setWidth 32)
  let adc (a : Nat) : Nat := (x.bistAdc.getD a 0).toNat
  let s := forEach (List.range 12) (fun w s =>
    s.setReg (Reg.AXL_BIST_ADC w) (BitVec.ofNat 32 (adc (3 * w) + adc (3 * w + 1) * 2 ^ 9 + adc (3 * w + 2) * 2 ^ 18))) s
  let slices := (List.range 36).flatMap (fun a => (bad 9 (adc a)).map (fun k => (a, k)))
  let s := s.bumpBy Reg.AXL_BIST_FAIL_CNT ((bad 4 x.bistMix.toNat).length + slices.length)
  let s := forEach dec (fun l s => s.axlAsk 0x01 0 l 0x1) s
  let s := forEach mac (fun l s => s.axlAsk 0x02 0 l 0x1) s
  let s := forEach slices (fun p s => s.axlAsk 0x04 p.1 p.2 0x1) s
  (forEach (bad 4 x.bistMix.toNat) (fun g s => s.axlAsk 0x3F 0 g 0x1) s).put F.AXL_STAT_BISTDONE true

/-- Step 12: the blocks of the optical and servo path are enabled, and the slice trims converge, to values that are free (R89).
DESIGN CHOICE (log entry 54). -/
def State.enableBlocks (s : State) : State :=
  let s := { s with acq := { s.acq with refined := true, trims := [] } }
  let s := ((s.put F.ACQ_CTRL_EN true).put F.SPN_CTRL_EN true).put F.SRV_CTRL_EN true
  (s.put (F.SLD_G_CTRL_EN 0) true).put (F.SLD_G_CTRL_EN 1) true

/-- Step 13: ports A and B, and M of a pair, train. -/
def State.enablePorts (s : State) : State :=
  let s := (s.put (F.HLK_P_CTRL_EN 0) true).put (F.HLK_P_CTRL_EN 1) true
  if s.flag F.MIR_CTRL_PAIR then s.put (F.HLK_P_CTRL_EN 2) true else s

/-- The base microcode loads the library key blob from the flash sector that `LBS_AUTH_CFG.BLOBSEC` names (R490). -/
def State.libraryKey (s : State) : State :=
  let sec := s.rd F.LBS_AUTH_CFG_BLOBSEC
  if 13328 ≤ sec then
    let (ws, s) := State.flashWords (1024 * sec) 14 s
    let s := forEach (List.range 14) (fun k s => s.setReg (Reg.CPH_BLOB k) (ws.getD k 0)) s
    let s := s.loadStart.cphFinish
    forEach (List.range 14) (fun k s => s.setReg (Reg.CPH_BLOB k) 0) s
  else s

/-- Step 14: TASK and EVEN, the lock, DONE, and the ATTENTIONs owed (R423, R452, R476). -/
def State.startEnd (s : State) : State :=
  let s := s.setMode (s.modeBits ||| 0xC)
  let s := (s.put F.PWR_START_DONE true).wr F.PWR_START_STEP 14
  let s := if (s.reg Reg.BKP_ALARM).toNat = 0 then s else s.attention 1
  if s.flag F.AXL_STAT_FROZEN then s.attention 21 else s

/-- START_UP: from the release of reset up to where CFG reads the image, and from the end of step 10 to the end. What lies between
is the work of CONFIG_IMAGE_READ, of the training and fill rows, and of DLOAD. DEDUCED (log entry 35). -/
def execStartUp (x : StartIn) (s : State) : Host.Outcome State Fault Refusal :=
  if s.pwr.held then
    if s.pwr.therm then .next s else .next (s.startRelease x)
  else if s.rd F.PWR_START_STEP = 11 ∧ s.flag F.PWR_START_STOPPED = false then
    let s := forEach [7, 8, 9, 10, 11, 12, 13, 14] (fun k s => s.stepTime x k) s
    .next (((s.bist x).enableBlocks.libraryKey.enablePorts).startEnd)
  else .next s

/-- START_UP_TIMEOUT: step 14 not reached within 3.0 s (R530). -/
def execStartUpTimeout (s : State) : Host.Outcome State Fault Refusal := .next (if s.pwr.held then s else s.startStop 4)

end Sys2Proof.Machine
end

