-- ==== Sys2Proof/Machine/Views.lean ====
section
/-! DEFINITION. What a register shows when it is read: the stored word, or the state it stands for where that state has a
structure of its own; and the bits of a read that nothing in the model fixes. -/

namespace Sys2Proof.Machine

/-- `f k` when `a` is element `k` of an array of `n` registers at `base`. -/
def arr (a base stride n : Nat) (f : Nat → Nat) : Option Nat :=
  if base ≤ a ∧ (a - base) % stride = 0 ∧ (a - base) / stride < n then some (f ((a - base) / stride)) else none

/-- `v` when `a` is the register `r`. -/
def one (a r : Nat) (v : Unit → Nat) : Option Nat := if a = r then some (v ()) else none

/-- The first answer of a list. -/
def firstOf (l : List (Option Nat)) : Option Nat := l.findSome? id

/-- The stored word with a field shown as `v`. -/
def State.shows (s : State) (f : RegField) (v : Nat) : Nat := (f.put (s.reg f.reg) v).toNat

/-- A list of truth values as bits, the first lowest. -/
def bits (l : List Bool) : Nat := l.foldr (fun b n => b.toNat + 2 * n) 0

/-! ## Disc side -/

def State.angEntry (s : State) (i : Nat) : AngEntry := s.ang.entries.toList.getD i {}

/-- ANG: lock map, angle, entries, filtered encoder lines (R57, R67, R68, R78, R84). -/
def State.angView (s : State) (a : Nat) : Option Nat :=
  let now := s.ang.now.toNat
  let hwm := s.ang.hwm.toNat
  let map (k : Nat) (f : AngEntry → Bool) : Nat := bits ((List.range 32).map (fun i => f (s.angEntry (32 * k + i))))
  firstOf [
    one a Reg.ANG_STAT (fun _ => s.shows F.ANG_STAT_LOCKMAP (bits ((List.finRange 4).map s.locked))),
    one a Reg.ANG_NOW_LO (fun _ => now % 2 ^ 32),
    one a Reg.ANG_NOW_HI (fun _ => (s.reg a).toNat / 2 ^ 12 * 2 ^ 12 + now / 2 ^ 32),
    one a Reg.ANG_HWM_LO (fun _ => hwm % 2 ^ 32), one a Reg.ANG_HWM_HI (fun _ => hwm / 2 ^ 32),
    arr a (Reg.ANG_EVT_ARMED 0) 4 2 (fun k => map k (·.armed)), arr a (Reg.ANG_EVT_FIRED 0) 4 2 (fun k => map k (·.fired)),
    arr a (Reg.ANG_ENC_FILTSTAT 0) 0x20 2 (fun k =>
      if s.flag (F.ANG_ENC_CTRL_EN k) then (s.ang.encAB.toList.getD k 0).toNat else 0),
    arr a (Reg.ANG_EVT_STAT 0) 4 64 (fun i =>
      let e := s.angEntry i
      e.head.val * 2 ^ 18 + e.action.toNat * 2 ^ 20 + bits [e.cancelled, e.late, e.fired, e.armed] * 2 ^ 28)]

/-- ACQ: the slice trim that `ACQ_SLICE_SEL` names (R89). -/
def State.acqView (s : State) (a : Nat) : Option Nat :=
  one a Reg.ACQ_SLICE_DATA (fun _ => (Sparse.get 0 s.acq.trims (s.reg Reg.ACQ_SLICE_SEL).toNat).toNat)

/-- The sample buffer slot that `DET_SBUF_SEL` names (R139). -/
def State.sbufSel (s : State) : Option SBuf :=
  let b := s.rd F.DET_SBUF_SEL_BEAM
  ((s.det.toList.getD b {}).bufs.toList.getD (s.rd F.DET_SBUF_SEL_SLOT) none)

/-- Codeword value `v` of a slot in de-interleaved order (R43), as 6 bits. -/
def SBuf.value (t : SBuf) (v : Nat) : Nat :=
  let m := v % 36864 / 16 * 8 + v / 36864
  if v < 294912 then unsigned 6 (t.values.getD (m / 4 * 64 + m % 4 * 16 + v % 16) 0) else 0

/-- DET: runs, buffer use, and the window into a sample buffer slot (R139, R564). -/
def State.detView (s : State) (a : Nat) : Option Nat :=
  let det (b : Nat) : Det := s.det.toList.getD b {}
  let sel (f : SBuf → Nat) : Nat := (s.sbufSel.map f).getD 0
  let w := s.rd F.DET_SBUF_SEL_W
  firstOf [
    arr a (Reg.DET_STAT 0) 0x100 16 (fun b =>
      let r := (det b).run
      (s.reg a).toNat % 2 ^ 3 / 2 * 2 + r.isSome.toNat + (r.map (·.left)).getD 0 % 2 ^ 16 * 2 ^ 16),
    arr a (Reg.DET_SBUF_STAT 0) 0x100 16 (fun b => bits ((det b).bufs.toList.map (·.isSome))),
    one a Reg.DET_SBUF_INFO (fun _ => sel (fun t => t.lba % 2 ^ 25 + t.outcome % 8 * 2 ^ 29)),
    arr a (Reg.DET_SBUF_ERC 0) 4 4 (fun k => sel (fun t =>
      let c := erasedCounts t.erased
      c.getD (2 * k) 0 % 2 ^ 16 + c.getD (2 * k + 1) 0 % 2 ^ 16 * 2 ^ 16)),
    arr a (Reg.DET_SBUF_DATA 0) 4 16 (fun k => sel (fun t =>
      (List.range 5).foldr (fun i n => t.value (80 * w + 5 * k + i) + 64 * n) 0)),
    arr a (Reg.DET_SBUF_FLAGS 0) 4 2 (fun k => sel (fun t =>
      bits ((List.range 32).map (fun i => (if k = 0 then t.flags else t.amb).getD (32 * w + i) false))))]

/-- DEC: queues, collector, lanes (R132 to R136, R564). -/
def State.decView (s : State) (a : Nat) : Option Nat :=
  let lane (l : Nat) : Lane := s.dec.lanes.toList.getD l {}
  let clt (l : Nat) : Option DecRes := s.dec.clt.toList.getD l none
  firstOf [
    one a Reg.DEC_QSTAT (fun _ => s.dec.fpq.length % 2 ^ 16 + s.dec.rq.length % 2 ^ 16 * 2 ^ 16),
    one a Reg.DEC_CLT_OCC (fun _ => bits (s.dec.clt.toList.map (·.isSome))),
    arr a (Reg.DEC_L_STAT 0) 0x80 18 (fun l =>
      if !(s.reg Reg.DEC_LANE_EN).getLsbD l then 3 else if (lane l).held.isSome then 2 else if (lane l).cur.isSome then 1 else 0),
    arr a (Reg.DEC_L_CUR 0) 0x80 18 (fun l => match (lane l).cur with
      | some e => e.lba % 2 ^ 25 + e.home.val * 2 ^ 25 + 2 ^ 31
      | none => 0),
    arr a (Reg.DEC_L_CLT 0) 0x80 18 (fun l => ((clt l).map (fun r => r.word.toNat)).getD 0)]

/-- Recovery: rung 0 (R147), the heads and beams (R158, R564). -/
def State.rcvView (s : State) (a : Nat) : Option Nat :=
  let n (sel : RBlk → Bool) : Nat := (s.rcv.blks.filter sel).length
  let deferred (k : RBlk) : Bool := decide (k.phase = .deferred) || decide (k.phase = .beside)
  let waiting (k : RBlk) : Bool := decide (k.phase = .waiting) || decide (k.phase = .outside)
  firstOf [
    one a (Reg.RCV_RUNG 0) (fun _ => 2 ^ 31 + s.rd F.DEC_ITER_CFG_DFLT * 2 ^ 24 + s.rd (F.DET_DEF_CFG_LEVEL 0) * 2 ^ 14),
    arr a (Reg.RCV_H_STAT 0) 4 4 (fun h =>
      (s.reg a).toNat / 2 ^ 24 * 2 ^ 24 + ((s.rcv.retry.toList.getD h none).isSome).toNat * 2 ^ 18
        + min 511 (n (fun k => decide (k.head.val = h) && waiting k)) * 2 ^ 9 + min 511 (n (fun k => decide (k.head.val = h) && deferred k))),
    arr a (Reg.RCV_B_STAT 0) 0x10 16 (fun b =>
      let m (sel : RBlk → Bool) : Nat := min 1023 (n (fun k => decide (k.beam.val = b) && sel k))
      let planned : Nat := match (s.det[(Fin.ofNat 16 b : Beam)]).run with
        | some r => if r.any then 0 else ((List.range r.left).filter (fun i => (s.rblk (r.lba + 4 * i)).isNone)).length
        | none => 0
      min 1023 (m (fun _ => true) + planned) + m (fun k => decide (0 < k.rung) && !deferred k) * 2 ^ 10
        + m (fun k => deferred k || waiting k) * 2 ^ 20)]

/-- WRP, LDD: the live bits of `LDD_STAT` (R184). -/
def State.wrpView (s : State) (a : Nat) : Option Nat :=
  arr a (Reg.LDD_STAT 0) 0x80 20 (fun k =>
    let c : Chan := Fin.ofNat 20 k
    let gate := decide (k % 5 ≠ 0) && (s.wrp.beams[chanBeam c]).gate.isSome
    (s.reg a).toNat % 2 ^ 8 / 2 * 2 + (s.lddFault c).toNat
      + bits [gate, s.chanActive c, s.wrp.vld.toList.getD (k / 5) false, s.stageOn, s.owned] * 2 ^ 27)

/-- The zone-layer of the replacement pass or OPC in progress, that of the lowest head where several are; 0x1FF for none (R564).
DESIGN CHOICE (log entry 51). -/
def State.passZL (s : State) : Nat :=
  ((List.finRange 4).findSome? (fun (h : Head) =>
    (s.wrp.pass[h]).or (if s.wrp.opcRun[h].isSome then some (s.headZL h) else none))).getD 0x1FF

/-- VFY: replacement queues and WGEN (R176, R188, R564). -/
def State.vfyView (s : State) (a : Nat) : Option Nat :=
  firstOf [
    one a Reg.VFY_RPL_STAT (fun _ => min 511 s.queued + s.passZL * 2 ^ 16),
    one a Reg.VFY_OPC_STAT (fun _ => (s.wrp.opcRun.toList.any (·.isSome)).toNat),
    one a Reg.VFY_WGEN (fun _ => s.rd F.TSK_DISC_WGEN)]

/-! ## Servo and drives -/

/-- SRV: latency, the modes in force, the selected state (R200, R215, R218, R224). -/
def State.srvView (s : State) (a : Nat) : Option Nat :=
  let g (k : Nat) : SrvGroup := s.srv.groups.toList.getD k {}
  firstOf [
    one a Reg.SRV_LAT (fun _ => s.nU + 6),
    arr a (Reg.SRV_G_STAT 0) 0x80 4 (fun k =>
      (s.reg a).toNat % 2 ^ 31 / 2 ^ 24 * 2 ^ 24 + (g k).mode * 2 ^ 22 + s.owned.toNat * 2 ^ 31),
    arr a (Reg.SRV_G_XVAL 0) 0x80 4 (fun k => (BitVec.ofInt 32 ((g k).x.getD (s.rd (F.SRV_G_XSEL_IDX k)) 0)).toNat)]

/-- SPN: ownership and the stage enable (R280), and the q reference, in the unit of group 4's output (R252, R258).
DESIGN CHOICE (log entry 67). -/
def State.spnView (s : State) (a : Nat) : Option Nat :=
  firstOf [
    one a Reg.SPN_STAT (fun _ => (s.reg a).toNat / 2 ^ 14 * 2 ^ 14 + (s.reg a).toNat % 2 ^ 12 + s.owned.toNat * 2 ^ 12 + s.stageOn.toNat * 2 ^ 13),
    one a Reg.SPN_IQ_REF (fun _ => (BitVec.ofInt 32 s.spn.iq).toNat)]

/-! ## Link, tasks, sequencer -/

/-- HLK: writes that await the drain (R308, R312). -/
def State.hlkView (s : State) (a : Nat) : Option Nat :=
  one a Reg.HLK_DRAIN_STAT (fun _ => s.hlk.drain.isSome.toNat + s.hlk.waiting.length)

/-- Ready zone-layers of the loaded disc. -/
def State.readyCount (s : State) : Nat := (s.disc.ready.toList.filter id).length

/-- Buffers of a list, but the first `skip`, that the first `moved` bytes of the data do not use up: the entries left of the current
segment (R340). -/
def buffersLeft : List (Nat × Nat) → Nat → Nat → Nat
  | [], _, _ => 0
  | (_, n) :: r, skip, moved => (if skip = 0 ∧ moved < n then 1 else 0) + buffersLeft r (skip - 1) (moved - n)

/-- TSK: standby, disc state, ready bits, scatter list, catalogue use, error log (R321, R333, R340, R341). -/
def State.tskView (s : State) (a : Nat) : Option Nat :=
  let n := s.readyCount
  firstOf [
    one a Reg.TSK_STATE (fun _ => s.shows F.TSK_STATE_STANDBY (!s.owned).toNat),
    one a Reg.TSK_DISC (fun _ =>
      (F.TSK_DISC_ALLREADY.put (BitVec.ofNat 32 (s.shows F.TSK_DISC_READYN n)) (decide (n = 320)).toNat).toNat),
    arr a (Reg.TSK_READY 0) 4 10 s.readyWord,
    one a Reg.TSK_SG_STAT (fun _ => s.tsk.sgN % 2 ^ 16 + buffersLeft s.tsk.sgl s.tsk.sgFrom s.tsk.moved * 2 ^ 16),
    one a Reg.TSK_CAT_STAT (fun _ => s.catUsed.length),
    arr a (Reg.TSK_ELOG_DATA 0) 4 8 (fun k => ((s.tsk.elog.toList.getD (s.rd F.TSK_ELOG_IDX_IDX) []).getD k 0).toNat)]

/-- The halves of a list of double words, low first. -/
def halves (v k : Nat) : Nat := if k % 2 = 0 then v % 2 ^ 32 else v / 2 ^ 32

/-- SEQ: depths, stacks, general registers, windows, the queued event (R350, R359, R373). -/
def State.seqView (s : State) (a : Nat) : Option Nat :=
  let q := s.seq
  let lv (k : Nat) : Option LoopLevel := q.loops.reverse[k]?
  firstOf [
    one a Reg.SEQ_STAT (fun _ =>
      (F.SEQ_STAT_LDEPTH.put (BitVec.ofNat 32 (s.shows F.SEQ_STAT_CDEPTH q.calls.length)) q.loops.length).toNat),
    arr a (Reg.SEQ_CS_DATA 0) 4 4 (fun k =>
      (s.csWord (BitVec.ofNat 14 (s.reg Reg.SEQ_CS_ADDR).toNat)).toNat / 2 ^ (32 * (3 - k)) % 2 ^ 32),
    one a Reg.SEQ_DISP_DATA (fun _ => (s.dispatchEntry (s.rd F.SEQ_DISP_SEL_SEL)).toNat),
    one a (Reg.SEQ_EVT_PEND 1) (fun _ => (s.reg a).toNat / 2 * 2 + (!q.queue.isEmpty).toNat),
    one a Reg.SEQ_LSTK_PTR (fun _ => q.loops.length), one a Reg.SEQ_CSTK_PTR (fun _ => q.calls.length),
    arr a (Reg.SEQ_LSTK_START 0) 4 8 (fun k => ((lv k).map (fun l => l.start.toNat)).getD 0),
    arr a (Reg.SEQ_LSTK_END 0) 4 8 (fun k => ((lv k).map (fun l => l.stop.toNat)).getD 0),
    arr a (Reg.SEQ_LSTK_CNT 0) 4 8 (fun k => ((lv k).map (fun l => l.count.toNat)).getD 0),
    arr a (Reg.SEQ_CSTK 0) 4 16 (fun k => (q.calls.reverse.getD k 0).toNat),
    arr a (Reg.SEQ_G_LO 0) 4 64 (fun k => halves (s.seq.g.toList.getD (k / 2) 0).toNat k)]

/-- A line as bytes, big-endian words. -/
def CLine.word (l : CLine) (k : Nat) : Nat := beAt l.data (4 * k) 4

/-- CCH: the fill in progress, the selected line, the victims (R372, R375). -/
def State.cchView (s : State) (a : Nat) : Option Nat :=
  let q := s.seq
  let sel := s.rd F.CCH_TAG_SEL_SEL
  let line : Option CLine := if sel < 48 then q.lines[sel]? else q.victims[sel - 48]?
  firstOf [
    one a Reg.CCH_STAT (fun _ => q.fill.isSome.toNat),
    one a Reg.CCH_FILL_STAT (fun _ => match q.fill with
      | some f => 2 ^ 31 + f / 64 % 2 ^ 31
      | none => 0),
    one a Reg.CCH_REMAP_STAT (fun _ => (s.mem.remaps.filter (fun r => decide (r.2.2 = 2))).length),
    arr a (Reg.CCH_LINE_DATA 0) 4 16 (fun k => (line.map (fun l => l.word k)).getD 0),
    arr a (Reg.CCH_VIC_TAG 0) 4 8 (fun k => match q.victims[k]? with
      | some l => l.addr / 64 % 2 ^ 28 + l.dirty.toNat * 2 ^ 28
      | none => 0)]

/-! ## Memory, flash, configuration, security -/

/-- DMC: the bank histories (R379). -/
def State.dmcView (s : State) (a : Nat) : Option Nat :=
  (List.range 4).findSome? (fun c => arr a (Reg.DMC_BANK_HIST c 0) 4 2 (fun w =>
    (List.range 8).foldr (fun i n => ((s.mem.banks.toList.getD (16 * c + 8 * w + i) {}).hist).toNat + 16 * n) 0))

/-- MIC: remap words in use (R396, R399). -/
def State.micView (s : State) (a : Nat) : Option Nat :=
  let full := ((s.mem.remaps.map (·.1)).dedup.filter (fun m => decide (8 ≤ (s.mem.remaps.filter (fun r => decide (r.1 = m))).length))).length
  firstOf [
    one a Reg.MIC_S_RMP_FREE (fun _ => full),
    arr a (Reg.MIC_SCLS_RMP 0) 8 20 (fun k =>
      let u := s.mem.remaps.filter (fun r => decide (r.2.2 = k))
      u.length % 2 ^ 16 + (u.map (·.1)).dedup.length % 2 ^ 16 * 2 ^ 16)]

/-- FLC: spare sectors left (R410). -/
def State.flcView (s : State) (a : Nat) : Option Nat :=
  one a Reg.FLC_SMAP_FREE (fun _ => ((List.range 64).filter (fun e => !s.flag (F.FLC_SMAP_VALID e))).length)

/-- CFG: the configuration key (R428). -/
def State.cfgView (s : State) (a : Nat) : Option Nat :=
  one a Reg.CFG_KEY_STAT (fun _ => s.cph.cfgKey.isSome.toNat)

/-- CPH: the device transport key is always present (R431, R454). -/
def State.cphView (s : State) (a : Nat) : Option Nat :=
  one a Reg.CPH_FUSE_STAT (fun _ => (s.reg a).toNat / 4 * 4 + s.cph.cfgKey.isSome.toNat * 2 + 1)

/-! ## Pair, repair, library bus -/

/-- The address of the staged record and part that `MIR_STG_SEL` names. -/
def State.stgAddr (s : State) : Nat :=
  let rec_ := ((s.reg Reg.MIR_RING_PTR).toNat + 1023 - s.rd F.MIR_STG_SEL_BACK) % 1024
  (s.reg Reg.MIR_RING_BASE).toNat * 16 + 512 * rec_ + 128 * s.rd F.MIR_STG_SEL_PART

/-- MIR: the live conditions (R461, R462, R481), the staged record (R467). -/
def State.mirView (s : State) (a : Nat) : Option Nat :=
  let live := [s.mir.copies, s.mir.timely, decide (1 ≤ s.rd F.SRV_LANES_ACTIVE), !s.flag F.SEQ_STAT_DFAULT,
    s.flag F.MIR_CTRL_EN && !s.mir.giving]
  let claim := [s.flag F.MIR_CTRL_TAKE_EN, s.supOk, s.flag F.SEQ_MODE_TASK, s.spn.still || s.angValid, decide (s.rd F.MIR_STAT_ROLE ≠ 3)]
  firstOf [
    one a Reg.MIR_STAT (fun _ =>
      (F.MIR_STAT_ARMED.put (BitVec.ofNat 32 (s.shows F.MIR_STAT_SUPOK s.supOk.toNat)) s.armed.toNat).toNat),
    one a Reg.MIR_LIVE_STAT (fun _ => bits live), one a Reg.MIR_CLAIM_STAT (fun _ => bits claim),
    arr a (Reg.MIR_STG_DATA 0) 4 30 (fun k => beNat (s.dramBytes (s.stgAddr + 4 * k) 4))]

/-- The spares of each row of R477. -/
def axlTotals : List Nat := [2, 1, 3, 36, 8192, 64, 64, 0]
def axlKinds : List Nat := [1, 2, 3, 4, 5, 6, 7, 0x3F]

/-- AXL: maps, inventory, log (R478, R482). -/
def State.axlView (s : State) (a : Nat) : Option Nat :=
  let x := s.axl
  let sel := s.rd F.AXL_MAP_SEL_ENTRY
  let entry := ((if s.flag F.AXL_MAP_SEL_MAP then x.field else x.factory).getD sel (BitVec.allOnes 64)).toNat
  firstOf [
    one a Reg.AXL_REQ_STAT (fun _ => s.axlReq.length),
    one a Reg.AXL_FMAP_CNT (fun _ => x.factory.length),
    one a Reg.AXL_FLD_CNT (fun _ => (x.field.filter inForce).length),
    one a Reg.AXL_FLD_FREE (fun _ => 1022 - x.field.length),
    one a Reg.AXL_MAP_DATA_LO (fun _ => entry % 2 ^ 32), one a Reg.AXL_MAP_DATA_HI (fun _ => entry / 2 ^ 32),
    arr a (Reg.AXL_INV 0) 4 8 (fun k =>
      let t := axlTotals.getD k 0
      t + (t - s.axlUsed (axlKinds.getD k 0) none) * 2 ^ 16),
    arr a (Reg.AXL_LOG_DATA 0) 4 4 (fun k => ((x.log.getD (s.rd F.AXL_LOG_SEL_SEL) []).getD k 0).toNat),
    one a Reg.AXL_REC_STAT (fun _ => match x.copy with
      | some (c, g) => c.val + g * 2 % 2 ^ 32
      | none => 0)]

/-- LBS: the ring and the windows (R491, R499). -/
def State.lbsView (s : State) (a : Nat) : Option Nat :=
  let e (k : Nat) : RxEntry := s.lbs.ring.toList.getD k {}
  firstOf [
    arr a (Reg.LBS_RX_DESC 0) 4 8 (fun k => (e k).bytes.length % 2 ^ 9 + (e k).peer.val * 2 ^ 12 + (e k).state % 4 * 2 ^ 30),
    arr a (Reg.LBS_RX_WIN 0) 4 16 (fun k => beAt (e (s.rd F.LBS_RX_WIN_SEL_ENTRY)).bytes (64 * s.rd F.LBS_RX_WIN_SEL_PART + 4 * k) 4),
    arr a (Reg.LBS_TX_WIN 0) 4 16 (fun k =>
      beNat ((List.range 4).map (fun i => Sparse.get 0 s.lbs.win (64 * s.rd F.LBS_TX_WIN_SEL_PART + 4 * k + i))))]

/-- What the register at `a` shows, where it stands for state of its own. DEDUCED (log entry 40). -/
def State.viewOf (s : State) (a : Nat) : Option Nat :=
  match a / 0x10000 with
  | 0 => s.cfgView a
  | 2 => s.hlkView a
  | 3 => s.tskView a
  | 4 => if a < 0x48000 then s.seqView a else s.rcvView a
  | 5 => s.cchView a
  | 6 => s.dmcView a
  | 7 => s.micView a
  | 8 => s.flcView a
  | 9 => s.cphView a
  | 10 => s.angView a
  | 11 => s.acqView a
  | 12 => s.detView a
  | 13 => s.decView a
  | 14 => s.wrpView a
  | 15 => s.vfyView a
  | 16 => s.srvView a
  | 17 => s.spnView a
  | 19 => s.lbsView a
  | 20 => s.mirView a
  | 21 => s.axlView a
  | _ => none

/-- The word the register at `a` shows. -/
def State.view (s : State) (a : Nat) : Word := ((s.viewOf a).map (BitVec.ofNat 32)).getD (s.reg a)

/-! ## What a read shows that nothing in the model fixes -/

/-- Registers that show a figure of the world outside the commands (a voltage, a current, a temperature, an eye, an elapsed
time, a count of codewords or cycles), or whose content the spec names without placing it: (offset, stride, count, mask).
DESIGN CHOICE (log entry 28). -/
def openRegs : List (Nat × Nat × Nat × Nat) := [
  (Reg.ANG_HSTAT 0, 0x10, 4, 0xFFFFFFFF),
  (Reg.ACQ_IN_PEAK 0, 0x10, 52, 0xFFFFFFFF), (Reg.ACQ_ADC_AGC 0, 0x10, 36, 0xFFFFFFFF),
  (Reg.DEC_L_HLTH 0, 0x80, 18, 0xFFFFFFFF), (Reg.DEC_L_BIST 0, 0x80, 18, 0xFFFFFFFF),
  (Reg.LDD_MONI 0, 0x280, 4, 0xFFFFFFFF), (Reg.LDD_TEMP 0, 0x80, 20, 0xFFFFFFFF),
  (Reg.SPN_IQ, 4, 4, 0xFFFFFFFF), (Reg.SPN_PIN, 4, 1, 0xFFFFFFFF), (Reg.SPN_VPH 0, 4, 3, 0xFFFFFFFF),
  (Reg.SPN_EST_STAT, 4, 1, 0xFFFFFFFF), (Reg.SPN_TEMP, 4, 1, 0xFFFFFFFF),
  (0x12003C, 0x30, 3, 0xFFFFFFFF), (0x12013C, 0x30, 3, 0xFFFFFFFF),
  (Reg.HLK_P_TRAIN 0, 0x100, 3, 0xFFFFFFFF), (Reg.HLK_P_LAT 0, 0x100, 3, 0xFFFFFFFF),
  (Reg.HLK_P_CW_CNT_LO 0, 0x100, 3, 0xFFFFFFFF), (Reg.HLK_P_CW_CNT_HI 0, 0x100, 3, 0xFFFFFFFF),
  (Reg.HLK_P_COR_CNT_LO 0, 0x100, 3, 0xFFFFFFFF), (Reg.HLK_P_COR_CNT_HI 0, 0x100, 3, 0xFFFFFFFF),
  (Reg.HLK_L_RXEQ 0, 0x20, 12, 0xFFFFFFFF), (Reg.HLK_L_EYE 0, 0x20, 12, 0xFFFFFFFF), (Reg.HLK_L_SER_CNT 0, 0x20, 12, 0xFFFFFFFF),
  (Reg.SEQ_TMR_CNT 0, 8, 4, 0xFFFFFFFF), (Reg.SEQ_STALL_CNT_LO, 4, 2, 0xFFFFFFFF),
  (Reg.CCH_STALL_LO, 4, 2, 0xFFFFFFFF), (Reg.CCH_TAG_DATA, 4, 1, 0xFFFFFFFF),
  (Reg.CCH_LRU_STAT, 4, 2, 0xFFFFFFFF),
  (Reg.DMC_LAT_STAT, 4, 2, 0xFFFFFFFF), (Reg.DMC_CH_TEMP 0, 0x400, 4, 0xFFFFFFFF),
  (Reg.MIC_SKINK_SKIP_CNT, 4, 1, 0xFFFFFFFF), (Reg.MIC_S_RMP_DATA, 4, 1, 0xFFFFFFFF),
  (Reg.FLC_RUNTIME, 4, 1, 0xFFFFFFFF), (Reg.FLC_DIE_ID, 4, 1, 0xFFFFFFFF),
  (Reg.CFG_TIME 0, 4, 3, 0xFFFFFFFF), (Reg.CFG_DLOAD_STAT, 4, 1, 0xFFFFFFFF), (Reg.CPH_DRBG_STAT, 4, 1, 0xFFFFFFFF), (Reg.BKP_VBAK, 4, 1, 0xFFFFFFFF),
  (Reg.MIR_OWN_STAT, 4, 1, 0xFFFFFFFF), (Reg.MIR_LAT, 4, 1, 0xFFFFFFFF), (Reg.MIR_HB_AGE, 4, 1, 0xFFFFFFFF),
  (Reg.AXL_ISLAND_STAT, 4, 2, 0xFFFFFFFF), (Reg.AXL_FUSE_STAT, 4, 1, 0xFFFFFFFF),
  (Reg.AXL_TIME_LO, 4, 2, 0xFFFFFFFF), (Reg.LBS_PLCA_STAT, 4, 1, 0x1FF),
  (Reg.PWR_START_TO, 4, 1, 0xFFFFFFFF), (Reg.PWR_RAIL 0, 4, 14, 0xFFFF), (Reg.PWR_VIN12, 4, 5, 0xFFFFFFFF),
  (Reg.PWR_PEAK_PIN, 8, 2, 0xFFFFFFFF)]

/-- The interrupt status registers whose bits the spec does not place. DESIGN CHOICE (log entry 28). -/
def openInts : List Nat := [
  Reg.PWR_INT_STAT, Reg.HLK_INT_STAT, Reg.SEQ_INT_STAT, Reg.CCH_INT_STAT, Reg.DMC_INT_STAT, Reg.MIC_INT_STAT, Reg.FLC_INT_STAT,
  Reg.CPH_INT_STAT, Reg.DET_INT_STAT, Reg.DEC_INT_STAT, Reg.VFY_INT_STAT, Reg.SRV_INT_STAT, Reg.SPN_INT_STAT, Reg.LBS_INT_STAT,
  Reg.MIR_INT_STAT, Reg.AXL_INT_STAT, Reg.CAL_INT_STAT]

/-- The start-up step that enables block `n` (R529); registers of PWR, and what the link and CFG need, are there at once. -/
def enableStep (n : Nat) : Nat :=
  match n with
  | 6 | 7 => 8
  | 8 | 9 => 6
  | 21 => 5
  | 2 => 13
  | 11 | 14 | 16 | 17 | 18 | 19 | 20 => 12
  | 4 | 5 => 7
  | _ => 0

/-- Start-up has gone past the step that enables the block of `a`; before that its registers read their reset values (R547). -/
def State.enabled (s : State) (a : Nat) : Bool := decide (enableStep (a / 0x10000) ≤ s.rd F.PWR_START_STEP)

/-- A counter counts what only time decides: fabric cycles in level mode, or the stalls of SEQ's pipeline (R512). No command says how many
there were: all of it is free. -/
def State.pmcTimed (s : State) (k : Nat) : Bool :=
  decide (s.rd (F.PMC_SEL_MODE k) = 3) || (decide (s.rd (F.PMC_SEL_MODE k) = 2) && decide (s.rd (F.PMC_SEL_SIGNAL k) = 0x300))

def State.levelBits (s : State) (a : Nat) : Option Nat :=
  let open_ (m k : Nat) : Nat := if s.pmcTimed k then m else 0
  (if a = Reg.PMC_OVF then some (bits ((List.range 8).map s.pmcTimed)) else none) <|>
  arr a (Reg.PMC_CNT_LO 0) 0x10 8 (open_ 0xFFFFFFFF) <|> arr a (Reg.PMC_CNT_HI 0) 0x10 8 (open_ 0xFFFF)

/-- The bits of a read of `a` that are free. While a lane decodes, its codeword and iteration are (R564); a slice trim is, once the
background refinement has run and until it is written (R89, R90), and the d reference while zero-vector braking uses its axis (R252, R261).
DESIGN CHOICE (log entries 28, 54). -/
def State.openBits (s : State) (a : Nat) : Nat :=
  let lane := arr a (Reg.DEC_L_STAT 0) 0x80 18 (fun l => if (s.dec.lanes.toList.getD l {}).cur.isSome then 0x3F70 else 0)
  let trim := if a = Reg.ACQ_SLICE_DATA ∧ s.acq.refined = true ∧ s.acq.trims.all (fun p => decide (p.1 ≠ (s.reg Reg.ACQ_SLICE_SEL).toNat))
    then some 0xFFFFFFFF else none
  let reg := openRegs.findSome? (fun r => arr a r.1 r.2.1 r.2.2.1 (fun _ => r.2.2.2))
  let int := if openInts.contains a || (decide (a = Reg.SPN_ID_REF) && s.flag F.SPN_STAT_ZVB) then some 0xFFFFFFFF else none
  if s.enabled a then (lane <|> trim <|> s.levelBits a <|> int <|> reg).getD 0 else 0

/-- The current of phase `p` in the last PWM period (R251): the shunt's reading, which is free, corrected by its offset and gain; that of a
phase not measured is minus the sum of the other two. The format of the correction is free. DESIGN CHOICE (log entry 67). -/
def State.phaseCurrent (s : State) (p : Nat) : Word × State :=
  let (m, s) := s.draw
  let k (q : Nat) : Word := Config.shuntCorrect (s.reg (Reg.SPN_SHUNT_OFS q)) (s.reg (Reg.SPN_SHUNT_GAIN q)) (Config.free (s.free + q))
  (if m.toNat % 4 = p then -(k ((p + 1) % 3) + k ((p + 2) % 3)) else k p, { s with free := s.free + 3 })

/-- The word a read of `a` finds, with the free bits drawn; the counters of time go on first (R509, R447).
DESIGN CHOICE (log entry 28). -/
def State.look (s : State) (a : Nat) : Word × State :=
  let s := if a = Reg.PMC_CYC_LO then s.clock else if a = Reg.BKP_TICK_LO then s.tick else s
  let m := s.openBits a
  if Reg.SPN_IPH 0 ≤ a ∧ a ≤ Reg.SPN_IPH 2 ∧ s.enabled a = true ∧ a % 4 = 0 then s.phaseCurrent ((a - Reg.SPN_IPH 0) / 4)
  else if m = 0 then (s.view a, s)
  else
    let (v, s) := s.draw
    ((s.view a &&& ~~~BitVec.ofNat 32 m) ||| (v &&& BitVec.ofNat 32 m), s)

end Sys2Proof.Machine
end

