-- ==== Sys2Proof/Machine/Bus.lean ====
section
/-! DEFINITION. The register bus (R536 to R548): the checks of an access, what a read answers and brings about, what a write does
by the access codes (R542), by a register's ranges, and where the register is a command. -/

namespace Sys2Proof.Machine

/-! ## Refused values -/

/-- Bits of a word: `n` from bit `lo`. -/
def fld (w : Word) (lo n : Nat) : Nat := w.toNat / 2 ^ lo % 2 ^ n

/-- `v` lies from `lo` to `hi`. -/
def within (lo hi v : Nat) : Bool := decide (lo ≤ v) && decide (v ≤ hi)

/-- The values a register refuses: element 0, the (count, stride) of each index, the error flag by flat index (none: the write is
refused in silence), and the words it takes. DEDUCED (log entry 45). -/
structure Guard where
  base : Nat
  dims : List (Nat × Nat)
  err  : Nat → Option RegField
  ok   : Word → Bool

/-- The signals of R512. -/
def pmcSignal (n : Nat) : Bool :=
  within 0x100 0x103 n || within 0x110 0x11F n || within 0x140 0x14A n || within 0x200 0x202 n || within 0x300 0x302 n ||
  within 0x400 0x405 n || decide (n = 0x410) || decide (n = 0x500) || within 0x510 0x513 n

/-- The inputs of a small channel (R221). -/
def insel (n : Nat) : Bool := n ≤ 1 || within 0x10 0x1B n || within 0x20 0x25 n || within 0x30 0x33 n

/-- A code of RLVL (R164). -/
def rlvlOk (k : Nat) : Bool := k ≤ 3 || within 5 7 k || decide (k = 15)

/-- Guards of the disc side: R90, R115, R116, R122, R123, R131, R140, R147, R159. -/
def guardsDisc : List Guard := [
  ⟨Reg.ACQ_SLICE_CTRL, [], fun _ => none, fun w => fld w 0 5 ≠ 0⟩,
  ⟨Reg.DET_BLANK_CFG 0, [(16, 0x100)], fun _ => some F.DET_GSTAT_CFGERR, fun w => within 4 400 (fld w 0 9)⟩,
  ⟨Reg.DET_ERASE_MAX, [], fun _ => some F.DET_GSTAT_CFGERR, fun w => fld w 0 12 ≤ 2304⟩,
  ⟨Reg.DET_SYNC_CFG 0, [(16, 0x100)], fun _ => some F.DET_GSTAT_CFGERR, fun w => fld w 8 5 ≤ 16 && fld w 0 7 ≤ 96⟩,
  ⟨Reg.DET_DEF_PROFILE 0, [(4, 4)], fun _ => some F.DET_GSTAT_CFGERR, fun w =>
    fld w 16 8 ≠ 0 && (fld w 8 8 = 0 || 100 ≤ fld w 8 8) && fld w 0 8 ≤ 99⟩,
  ⟨Reg.DET_RUN_CFG 0, [(16, 0x100)], fun _ => some F.DET_GSTAT_CFGERR, fun w => fld w 0 16 ≠ 0⟩,
  ⟨Reg.DEC_ITER_CFG, [], fun _ => some F.DEC_STAT_CFGERR, fun w => within 1 48 (fld w 8 6) && within 1 (fld w 8 6) (fld w 0 6)⟩,
  ⟨Reg.RCV_CFG, [], fun _ => some F.RCV_STAT_CFGERR, fun w =>
    fld w 20 12 ≠ 0 && within 1 256 (fld w 11 9) && fld w 6 5 ≠ 0 && fld w 3 3 ≠ 0 && fld w 1 2 ≠ 0⟩,
  ⟨Reg.RCV_RUNG 1, [(15, 4)], fun _ => some F.RCV_STAT_CFGERR, fun w =>
    within 1 48 (fld w 24 6) && fld w 19 3 ≠ 4 && fld w 16 3 ≠ 4 && fld w 12 2 ≠ 3⟩]

/-- Guards of WRP, LDD and VFY: R164, R167, R182, R186, R188, R189. -/
def guardsWrite : List Guard := [
  ⟨Reg.LDD_CTRL 0, [(20, 0x80)], fun c => some (F.LDD_STAT_CFGERR c), fun w => rlvlOk (fld w 8 4)⟩,
  ⟨Reg.LDD_READ 0, [(20, 0x80)], fun c => some (F.LDD_STAT_CFGERR c), fun w => fld w 0 11 ≤ 1500⟩,
  ⟨Reg.LDD_WLVL 0 0, [(20, 0x80), (8, 4)], fun i => some (F.LDD_STAT_CFGERR (i / 8)), fun w => fld w 0 12 ≤ 3500⟩,
  ⟨Reg.WRP_STRAT 0 0, [(4, 0x200), (128, 4)], fun i => some (F.LDD_STAT_CFGERR (5 * (i / 128))), fun w =>
    fld w 28 4 ≤ 8 && fld w 24 4 ≤ 8 && fld w 20 4 ≤ 8⟩,
  ⟨Reg.VFY_B_THR 0, [(16, 0x20)], fun _ => some F.VFY_STAT_CFGERR, fun w => fld w 0 6 ≠ 0 && fld w 6 10 ≠ 0 && fld w 16 16 ≠ 0⟩,
  ⟨Reg.VFY_RPL_CFG, [], fun _ => some F.VFY_STAT_CFGERR, fun w => fld w 24 4 ≠ 0 && within 1 256 (fld w 15 9)⟩,
  ⟨Reg.VFY_OPC_CFG, [], fun _ => some F.VFY_STAT_CFGERR, fun w => fld w 16 16 ≠ 0⟩]

/-- Guards of the servo and its supervisors: R221, R223, R224, R247. -/
def guardsServo : List Guard := [
  ⟨Reg.SRV_HDIM, [], fun _ => some F.SRV_STAT_CFGERR, fun w => within 2 8 (fld w 8 4) && fld w 4 2 ≠ 0 && fld w 0 2 ≠ 0⟩,
  ⟨Reg.SRV_RES_CFG, [], fun _ => some F.SRV_STAT_CFGERR, fun w => fld w 16 16 ≠ 0 && fld w 4 4 ≠ 0 && fld w 0 4 ≠ 0⟩,
  ⟨Reg.SRV_S_MEM 0 0, [(3, 0x100), (4, 0x40)], fun _ => some F.SRV_STAT_CFGERR, fun w => insel (fld w 0 8) && within 1 2 (fld w 8 2)⟩,
  ⟨Reg.LSV_H_FSRCH 0, [(4, 0x40)], fun _ => some F.LSV_STAT_CFGERR, fun w =>
    within 1 600 (fld w 22 10) && fld w 12 10 ≠ 0 && fld w 4 8 ≠ 0 && fld w 0 3 ≠ 0⟩,
  ⟨Reg.LSV_H_LOSS 0, [(4, 0x40)], fun _ => some F.LSV_STAT_CFGERR, fun w =>
    fld w 24 8 ≠ 0 && fld w 16 8 ≠ 0 && fld w 8 8 ≠ 0 && fld w 4 4 ≠ 0⟩,
  ⟨Reg.LSV_H_KICK 0, [(4, 0x40)], fun _ => some F.LSV_STAT_CFGERR, fun w =>
    fld w 24 8 ≠ 0 && fld w 16 8 ≠ 0 && fld w 8 8 ≠ 0 && fld w 0 8 ≠ 0⟩,
  ⟨Reg.LSV_H_TKICK 0, [(4, 0x40)], fun _ => some F.LSV_STAT_CFGERR, fun w =>
    fld w 24 8 ≠ 0 && fld w 16 8 ≠ 0 && fld w 8 8 ≠ 0 && fld w 0 8 ≠ 0⟩,
  ⟨Reg.LSV_S_SEEKCFG 0, [(2, 0x20)], fun _ => some F.LSV_STAT_CFGERR, fun w => fld w 24 8 ≠ 0 && fld w 20 4 ≠ 0⟩]

/-- Guards of the drives: R258, R281, R284. -/
def guardsDrive : List Guard := [
  ⟨Reg.SPN_RAMP, [], fun _ => some F.SPN_STAT_CFGERR, fun w => fld w 0 16 ≠ 0 && fld w 16 16 ≠ 0⟩,
  ⟨Reg.SPN_IF, [], fun _ => some F.SPN_STAT_CFGERR, fun w => fld w 16 16 ≠ 0⟩,
  ⟨Reg.SPN_VWATCH, [], fun _ => some F.SPN_STAT_CFGERR, fun w =>
    within 126 140 (fld w 24 8) && within 126 140 (fld w 16 8) && fld w 16 8 < fld w 24 8 && within 100 4000 (fld w 0 12)⟩,
  ⟨0x120038, [(2, 0x100), (3, 0x30)], fun i => some (F.SLD_G_STAT_CFGERR (i / 3)), fun w =>
    within 10 179 (fld w 16 8) && fld w 12 4 ≠ 0 && fld w 8 4 ≠ 0⟩]

/-- Guards of the host side: R314, R430, R446, R487, R500, R501, R512, R513, R519, R534. -/
def guardsHost : List Guard := [
  ⟨Reg.MIR_HB, [], fun _ => some F.MIR_STAT_CFGERR, fun w => within 100 1000 w.toNat⟩,
  ⟨Reg.CPH_SESS_TO, [], fun _ => some F.CPH_STAT_CFGERR, fun w => within 1 65535 w.toNat⟩,
  ⟨Reg.CFG_PARAM 0, [], fun _ => none, fun w => within 600 7200 w.toNat⟩,
  ⟨Reg.CFG_PARAM 1, [], fun _ => none, fun w => within 600 4800 w.toNat⟩,
  ⟨Reg.LBS_PLCA_CFG, [], fun _ => some F.LBS_STAT_CFGERR, plcaOk⟩,
  ⟨Reg.LBS_AUTH_CFG, [], fun _ => some F.LBS_STAT_CFGERR, authOk⟩,
  ⟨Reg.LBS_HS_CFG, [], fun _ => some F.LBS_STAT_CFGERR, hsOk⟩,
  ⟨Reg.PWR_TEMP_CFG, [], fun _ => none, fun w => within 60 120 (fld w 0 8)⟩,
  ⟨Reg.CAL_REFCOR, [], fun _ => none, fun w => decide (-20000 ≤ w.toInt) && decide (w.toInt ≤ 20000)⟩,
  ⟨Reg.PMC_SEL 0, [], fun _ => some F.PMC_STAT_CFGERR, fun w => fld w 29 1 = 0 && (fld w 30 2 < 2 || pmcSignal (fld w 0 16))⟩,
  ⟨Reg.PMC_SEL 1, [(7, 0x10)], fun _ => some F.PMC_STAT_CFGERR, fun w => fld w 30 2 < 2 || pmcSignal (fld w 0 16)⟩,
  ⟨Reg.PMC_FILT 0, [(8, 0x10)], fun _ => some F.PMC_STAT_CFGERR, fun w => fld w 25 2 ≠ 3⟩]

/-- The guard of a register, with the flat index. -/
def guardOf (a : Nat) : Option (Guard × Nat) :=
  (guardsDisc ++ guardsWrite ++ guardsServo ++ guardsDrive ++ guardsHost).findSome? (fun g =>
    if g.base ≤ a then (RegRow.index g.dims (a - g.base)).map (fun i => (g, i)) else none)

/-- The sled channel and correctors that use a microstep table, and their motions (R270). -/
def State.tableBusy (s : State) (t : Nat) : Bool :=
  (List.finRange 6).any (fun (n : Stepper) => decide (s.rd (F.SLD_CTRL_TBL n) = t) && s.flag (F.SLD_STAT_BUSY n) &&
    [1, 5, 6, 7].contains (s.rd (F.SLD_STAT_MODE n)))

/-- Lanes that can carry work: neither retired nor bad nor serving as the spare (R206, R207, R223). -/
def State.usableLanes (s : State) : List Nat :=
  (List.range 5).filter (fun l => !s.flag (F.SRV_LANE_STAT_RETIRED l) && !s.flag (F.SRV_LANE_STAT_BAD l) && decide (s.rd F.SRV_LANES_SPARE ≠ l))

/-- What the state refuses, with the flag: a run's settings while it is in progress (R140), rungs while a block is deferred (R147),
dimensions while a head group is not OFF (R213), lanes beyond those available (R223), a table in use (R270), a heartbeat timeout
below twice the period (R481). -/
def State.stateGuard (s : State) (a : Nat) (w : Word) : Option RegField :=
  let when_ (c : Bool) (f : RegField) : Option RegField := if c then some f else none
  (List.finRange 16).findSome? (fun (b : Beam) => when_ (decide (a = Reg.DET_RUN_CFG b) && ((s.det.get b).run).isSome) F.DET_GSTAT_CFGERR)
  <|> when_ (decide (Reg.RCV_RUNG 1 ≤ a) && decide (a ≤ Reg.RCV_RUNG 15) &&
      s.rcv.blks.any (fun k => decide (k.phase = .deferred) || decide (k.phase = .beside))) F.RCV_STAT_CFGERR
  <|> when_ (decide (a = Reg.SRV_HDIM) && (List.finRange 4).any (fun (h : Head) => decide ((s.srv.groups.get (headGroup h)).mode ≠ 0))) F.SRV_STAT_CFGERR
  <|> when_ (decide (a = Reg.SRV_LANES) && !within 1 s.usableLanes.length (fld w 0 3)) F.SRV_STAT_CFGERR
  <|> (List.range 2).findSome? (fun t => when_ (decide (Reg.SLD_TBL t 0 ≤ a) && decide (a ≤ Reg.SLD_TBL t 255) && s.tableBusy t) (F.SLD_G_STAT_CFGERR t))
  <|> when_ (decide (a = Reg.MIR_CFG) && !s.mirCfgOk w) F.MIR_STAT_CFGERR

/-- A write of `w` at `a` is refused: the flag it sets, if it sets one. -/
def State.refusal (s : State) (a : Nat) (w : Word) : Option (Option RegField) :=
  match guardOf a with
  | some (g, i) => if g.ok w then (s.stateGuard a w).map some else some (g.err i)
  | none => (s.stateGuard a w).map some

/-! ## What a plain write leaves (R542) -/

/-- The bits of a register that a write by the master reaches: RWL until the lock, RWK for a custodian. -/
def State.reach (s : State) (m : Master) (r : RegRow) : Nat :=
  r.rw ||| r.wo ||| (if s.flag F.CFG_LOCK_LOCK then 0 else r.rwl) ||| (if s.custodian m then r.rwk else 0)

/-- The word after a write. -/
def State.newWord (s : State) (m : Master) (r : RegRow) (a : Nat) (v : Word) : Word :=
  let mask := BitVec.ofNat 32 (s.reach m r)
  ((s.reg a &&& ~~~mask) ||| (v &&& mask)) &&& ~~~(v &&& BitVec.ofNat 32 r.w1c)

/-- A write by the access codes; a refused value leaves the register and sets the flag. Where no bit is reached the write is
ignored. DEDUCED (log entry 45). -/
def State.plainWrite (s : State) (m : Master) (r : RegRow) (a : Nat) (v : Word) : Bool × State :=
  let w := s.newWord m r a v
  if s.reach m r = 0 ∧ r.w1c = 0 then (true, s)
  else
    match s.refusal a w with
    | some (some f) => (false, s.put f true)
    | some none => (false, s)
    | none => (true, s.setReg a w)

/-! ## Registers that are commands -/

/-- `f ()` when `a` is the register `r`; `f k` when it is element `k` of an array. -/
def onReg (a r : Nat) (f : Unit → State) : Option State := if a = r then some (f ()) else none
def onArr (a base stride n : Nat) (f : Nat → State) : Option State :=
  if base ≤ a ∧ (a - base) % stride = 0 ∧ (a - base) / stride < n then some (f ((a - base) / stride)) else none

/-- The drain of R308 begins: MRDs in flight are marked, and a FLUSH follows the MWRs of each port. -/
def State.drainBegin (s : State) (ccpl : Option (Port × Flit)) : State :=
  let s := { s with hlk := { s.hlk with mrds := s.hlk.mrds.map (fun (r : Mrd) => { r with held := true }) } }
  let s := s.flushAll
  { s with hlk := { s.hlk with drain := some ccpl } }

/-- A register of R308. -/
def isWindow (a : Nat) : Bool :=
  (decide (Reg.HLK_PRIV 0 ≤ a) && decide (a ≤ Reg.HLK_PRIV 23)) || (decide (Reg.HLK_WIN_BASE_LO 0 ≤ a) && decide (a < Reg.HLK_WIN_BASE_LO 8))

/-- SEQ_CS_DATA word `k` is written while SEQ is halted (R373): that part of the control-store word changes. A write of a part leaves a
poisoned word poisoned (R387). -/
def State.csDataWrite (s : State) (k : Nat) (v : Word) : State :=
  if s.flag F.SEQ_STAT_HALTED then
    let n := (s.reg Reg.SEQ_CS_ADDR).toNat % 2 ^ 14
    let old := (s.csWord (BitVec.ofNat 14 n)).toNat
    let sh := 2 ^ (32 * (3 - k))
    let w : MicroWord := BitVec.ofNat 128 (old - old / sh % 2 ^ 32 * sh + v.toNat * sh)
    s.modSeq (fun q => { q with cs := Sparse.set (BitVec.allOnes 128) q.cs n w })
  else s

/-- A word of the transmit window is written. -/
def State.txWinWrite (s : State) (k : Nat) (v : Word) : State :=
  let o := 64 * s.rd F.LBS_TX_WIN_SEL_PART + 4 * k
  let bs := beBytes 4 v.toNat
  { s with lbs := { s.lbs with win := (List.range 4).foldl (fun w i => Sparse.set 0 w (o + i) (bs.getD i 0)) s.lbs.win } }

/-- Blocks 0 to 4: DLOAD, the lock, software reset, alarms, arbitration, tasks, SEQ control and the loop supervisors. The word of a
control-store window has its most significant 32 bits in DATA[0]; it is written only while SEQ is halted (R373). -/
def State.cmdLow (s : State) (m : Master) (p : Port) (a : Nat) (v : Word) : Option State :=
  let cust := s.custodian m
  (onReg a Reg.CFG_CMD fun _ => if v.getLsbD 0 then s.dload else s)
  <|> (onReg a Reg.CFG_LOCK fun _ => if v.getLsbD 0 then s.put F.CFG_LOCK_LOCK true else s)
  <|> (onReg a Reg.PWR_RST_CMD fun _ => if s.softActs m v then { s with pwr := { s.pwr with soft := true } } else s)
  <|> (onReg a Reg.BKP_ALARM fun _ => if cust then s.setReg a (s.reg a &&& ~~~v) else s)
  <|> (onReg a Reg.BKP_LOG_CLR fun _ => if cust then s.bkpLogClr m else s)
  <|> (onReg a Reg.HLK_ARB fun _ => s.arbWrite v)
  <|> (onReg a Reg.TSK_CMD fun _ => (s.tskCmdWrite p cust v).2)
  <|> (onReg a Reg.SEQ_CTRL fun _ => if cust then s.seqHaltWrite (v.getLsbD 1) else s)
  <|> (onArr a (Reg.SEQ_CS_DATA 0) 4 4 fun k => if cust then s.csDataWrite k v else s)
  <|> (onReg a Reg.SEQ_EVT_FORCE fun _ => if cust then s.evtForce (v.toNat % 64) else s)
  <|> (onReg a (Reg.RCV_RUNG 0) fun _ => s)
  <|> (onArr a (Reg.LSV_H_CMD 0) 0x40 4 fun h => s.lsvCmdWrite (Fin.ofNat 4 h) v)

/-- The delay and reference registers of a DRAM channel (R381), by their place within the channel's group. -/
def isDelay (o : Nat) : Bool :=
  within (Reg.DMC_DQ_RDLY 0 0) (Reg.DMC_RDQS_DLY 0) o || decide (o = Reg.DMC_VREF 0)

/-- Blocks 5 to 9: cache, memory, flash and security. A SUSPEND's run time is free. -/
def State.cmdMid (s : State) (m : Master) (a : Nat) (v : Word) : Option State :=
  (onReg a Reg.CCH_OP fun _ => s.cchOp (F.CCH_OP_OP.of v) (s.pair Reg.CCH_OP_ADDR_LO))
  <|> (if isRegion a then some (if s.custodian m then s.regionSet a v else s) else none)
  <|> (onReg a Reg.DMC_ILV fun _ => if s.flag F.CFG_LOCK_LOCK then s else s.ilvWrite v)
  <|> (onReg a Reg.DMC_PGTO fun _ => s.pgtoWrite v)
  <|> (if a / 0x10000 = 6 ∧ Reg.DMC_DQ_RDLY 0 0 ≤ a ∧ isDelay (Reg.DMC_DQ_RDLY 0 0 + (a - Reg.DMC_DQ_RDLY 0 0) % 0x400)
      then some (s.delayWrite (Fin.ofNat 4 ((a - Reg.DMC_DQ_RDLY 0 0) / 0x400)) a v) else none)
  <|> (onArr a (Reg.DMC_TRN_CTRL 0) 0x400 4 fun c => s.trnCtrlWrite (Fin.ofNat 4 c) v)
  <|> (onReg a Reg.MIC_FILL_CTRL fun _ => if v.getLsbD 0 then s.fillStart else s)
  <|> (onReg a Reg.MIC_SKINK_CFG fun _ => s.skinkCfgWrite v)
  <|> (onReg a Reg.FLC_CMD fun _ => let (us, s) := s.draw; s.flcCmdWrite m v us.toNat)
  <|> (onReg a Reg.FLC_MC_CMD fun _ => s.mcCmd m (v.toNat % 4))
  <|> (onReg a Reg.CPH_LOCK fun _ => s.lockWrite m v)
  <|> (onReg a Reg.CPH_CMD fun _ => s.cphCommand m v)
  <|> (onReg a Reg.CPH_SESS_CTRL fun _ => if v.getLsbD 0 then s.sessionClose m else s)
  <|> (onReg a (Reg.CPH_SESS_RESP 3) fun _ => s.sessionResponse v)

/-- A write of `ANG_EVT_CMD` (R73). -/
def State.evtCmd (s : State) (v : Word) : State :=
  match F.ANG_EVT_CMD_OP.of v with
  | 1 => s.evtArm
  | 2 => s.evtDisarm
  | 3 => s.evtDisarmAll
  | _ => s

/-- A write of `LDD_CTRL`: a read level it selects is clipped and holds the APC factor as one of LPOWER does (R164, R166), and with a
condition of R161 gone the open gate closes. -/
def State.lddCtrlWrite (s : State) (m : Master) (r : RegRow) (c : Chan) (v : Word) : State :=
  let (ok, s) := s.plainWrite m r (Reg.LDD_CTRL c) v
  let s := if ok then s.setRlvl c (s.rd (F.LDD_CTRL_RLVL c)) else s
  if s.chanOn c || c.val % 5 = 0 then s else s.gateEarly (chanBeam c)

/-- Blocks 10 to 14: angle, acquisition, detection, laser drive. -/
def State.cmdDisc (s : State) (m : Master) (r : RegRow) (a : Nat) (v : Word) : Option State :=
  (onReg a Reg.ANG_CTRL fun _ => s.angCtrlWrite v)
  <|> (onReg a Reg.ANG_SRV_SPR fun _ => s.sprWrite v)
  <|> (onReg a Reg.ANG_EVT_CMD fun _ => s.evtCmd v)
  <|> (onReg a Reg.ACQ_SLICE_DATA fun _ => s.sliceWrite v)
  <|> (onArr a (Reg.ACQ_PLL_CTRL 0) 0x40 4 fun h => s.pllCtrlWrite (Fin.ofNat 4 h) v)
  <|> (onArr a (Reg.ACQ_SKEW_D 0) 0x20 16 fun _ => s.skewWrite a 40000 v)
  <|> (onArr a (Reg.ACQ_SKEW_V 0) 0x20 16 fun _ => s.skewWrite a 60000 v)
  <|> (onArr a (Reg.ACQ_IN_CTRL 0) 0x10 52 fun i => s.inCtrlWrite (Fin.ofNat 52 i) v)
  <|> (onArr a (Reg.DET_CTRL 0) 0x100 16 fun b =>
    let s := s.wr (F.DET_CTRL_MODE b) (F.DET_CTRL_MODE b |>.of v)
    if v.getLsbD 2 then s.runAbort (Fin.ofNat 16 b) false else s)
  <|> (onArr a (Reg.LDD_STAT 0) 0x80 20 fun c => s.lddStatWrite (Fin.ofNat 20 c) v)
  <|> (onArr a (Reg.LDD_CTRL 0) 0x80 20 fun c => s.lddCtrlWrite m r (Fin.ofNat 20 c) v)

/-- A write of `SRV_LANES.ACTIVE`: the lowest usable lanes carry the work (R223). -/
def State.lanesWrite (s : State) (v : Word) : State :=
  let n := fld v 0 3
  if within 1 s.usableLanes.length n then
    let ls := s.usableLanes.take n
    let s := (s.wr F.SRV_LANES_ACTIVE n).wr F.SRV_LANES_INUSE (bits ((List.range 5).map (fun l => ls.contains l)))
    forEach (List.range 5) (fun l s => s.put (F.SRV_LANE_STAT_INUSE l) (ls.contains l)) s
  else s.put F.SRV_STAT_CFGERR true

/-- A write of coefficient memory clears the word's poison (R209); reserved words, channels and bits stay 0 (R7, R219 to R221). -/
def State.memWrite (s : State) (m : Master) (r : RegRow) (a : Nat) (v : Word) : State :=
  let (ok, s) := if memMask a = 0 then (false, s) else s.plainWrite m r a (v &&& memMask a)
  if ok then { s with srv := { s.srv with poison := s.srv.poison.filter (fun x => decide (x ≠ a)) } } else s

/-- A write of `SPN_CMD` (R256, R279). -/
def State.spnCmdWrite (s : State) (v : Word) : State :=
  match F.SPN_CMD_OP.of v with
  | 0 => s
  | 1 => s.spnCommand 1 State.spinRun
  | 2 => s.spnCommand 2 State.stopRun
  | 3 => s.spnCommand 3 State.brakeRun
  | 4 => s.spnCommand 4 State.coastRun
  | 5 => s.spnCommand 5 State.parkRun
  | 6 => s.spnCommand 6 State.rotateRun
  | n => s.spnCommand n id

/-- A write of `SLD_CMD` (R271); where a stopped channel comes to rest is free (R274). -/
def State.sldCmdWrite (s : State) (n : Stepper) (v : Word) : State :=
  let op := (F.SLD_CMD_OP n).of v
  let arm := decide ((F.SLD_CMD_ARM n).of v = 1)
  if op = 2 then
    let (rest, s) := s.draw
    s.sldStopRun n arm rest
  else s.sldCommand n op arm

/-- The channel of slot `j` of control group `g` (R282). -/
def slotChan (g j : Nat) : Stepper := Fin.ofNat 6 (if j = 0 then g else 2 + 2 * g + (j - 1))

/-- Element of an SLD control array: `base`, by group and slot. -/
def onSlot (a base : Nat) (f : Stepper → State) : Option State :=
  if base ≤ a then (RegRow.index [(2, 0x100), (3, 0x30)] (a - base)).map (fun i => f (slotChan (i / 3) (i % 3))) else none

/-- A write of `PMC_SEL`: what a counter of time has reached stays free when it stops being one (R512). -/
def State.pmcSelWrite (s : State) (m : Master) (r : RegRow) (k : Nat) (v : Word) : State :=
  let s' := (s.plainWrite m r (Reg.PMC_SEL k) v).2
  if s.pmcTimed k then
    let (x, s) := s'.draw
    let (y, s) := s.draw
    (s.setReg (Reg.PMC_CNT_LO k) x).setReg (Reg.PMC_CNT_HI k) (y &&& 0xFFFF)
  else s'

/-- Blocks 16 to 19 and 23: servo, drives, library bus, counters. -/
def State.cmdHigh (s : State) (m : Master) (r : RegRow) (a : Nat) (v : Word) : Option State :=
  (onReg a Reg.SRV_CTRL fun _ =>
    let s := s.put F.SRV_CTRL_EN (v.getLsbD 0)
    { s with srv := { s.srv with commit := s.srv.commit ||| BitVec.ofNat 11 (F.SRV_CTRL_COMMIT.of v) } })
  <|> (onReg a Reg.SRV_LANES fun _ => s.lanesWrite v)
  <|> (onReg a Reg.SRV_PRESET fun _ => s.orderPreset (v.extractLsb' 0 11) (v.getLsbD 11))
  <|> (onArr a (Reg.SRV_G_XVAL 0) 0x80 4 fun g =>
    let i := s.rd (F.SRV_G_XSEL_IDX g)
    let k : Group := ⟨g % 4, by omega⟩
    let q := s.srv.groups[k]
    let q := { q with staged := q.staged.filter (fun p => decide (p.1 ≠ i)) ++ [(i, v.toInt)] }
    { s with srv := { s.srv with groups := s.srv.groups.set k q } })
  <|> (if a / 0x10000 = 16 ∧ Reg.SRV_G_MEM 0 0 ≤ a then some (s.memWrite m r a v) else none)
  <|> (onReg a Reg.SPN_STAT fun _ => s.spnStatWrite v)
  <|> (onReg a Reg.SPN_CMD fun _ => s.spnCmdWrite v)
  <|> (onReg a Reg.SPN_TARGET fun _ =>
    let s' := (s.plainWrite m r a v).2
    if s'.reg a = s.reg a then s' else s'.put F.SPN_STAT_ATSPEED false)
  <|> onSlot a 0x120018 (fun n => s.sldCmdWrite n v)
  <|> onSlot a 0x120020 (fun n => s.sldPosWrite n v)
  <|> (onReg a Reg.LBS_RX_VERDICT fun _ => s.rxVerdict m v)
  <|> (onReg a Reg.LBS_TX_CMD fun _ => s.lbsSendCmd m v)
  <|> (onArr a (Reg.LBS_TX_WIN 0) 4 16 fun k => s.txWinWrite k v)
  <|> (onArr a (Reg.PMC_SEL 0) 0x10 8 fun k => s.pmcSelWrite m r k v)

/-- What a write of a register that is a command does; `p` is the port its CREQ came by. -/
def State.command (s : State) (m : Master) (p : Port) (r : RegRow) (a : Nat) (v : Word) : Option State :=
  match a / 0x10000 with
  | 0 | 1 | 2 | 3 | 4 => s.cmdLow m p a v
  | 5 | 6 | 7 | 8 | 9 => s.cmdMid m a v
  | 10 | 11 | 12 | 13 | 14 => s.cmdDisc m r a v
  | _ => s.cmdHigh m r a v

/-- An accepted write: whether the register took it, and the state. A window or privilege register also begins the drain (R308). -/
def State.regWrite (s : State) (m : Master) (p : Port) (a : Nat) (v : Word) : Bool × State :=
  match regAt a with
  | none => (false, s)
  | some (r, _) =>
    match s.command m p r a v with
    | some t => (decide (s.refusal a v = none), t)
    | none =>
      let (ok, s) := s.plainWrite m r a v
      (ok, if isWindow a then s.drainBegin none else s)

/-! ## Reads (R540, R542) -/

/-- The reader's latch: the host, SEQ, the test connector. -/
def readerOf : Master → Nat
  | .seq => 1
  | .tap => 2
  | _ => 0

/-- The latch of reader `m` for the pair whose high word is at `hi`. DEDUCED (log entry 44). -/
def State.latched (s : State) (m : Master) (hi : Nat) : Word := Sparse.get 0 s.latch (readerOf m * 2 ^ 24 + hi)
def State.latchHi (s : State) (m : Master) (hi : Nat) (w : Word) : State :=
  { s with latch := Sparse.set 0 s.latch (readerOf m * 2 ^ 24 + hi) w }

/-- A counter of PMC reads 0 to an operator when its filter admits custodian events (R514). -/
def State.pmcHidden (s : State) (m : Master) (a : Nat) : Bool :=
  !s.custodian m && ((arr a (Reg.PMC_CNT_LO 0) 0x10 8 id <|> arr a (Reg.PMC_CNT_HI 0) 0x10 8 id).any (fun k =>
    let f := s.rd (F.PMC_FILT_MMASK k)
    s.rd (F.PMC_FILT_PRIV k) % 2 = 0 && (f.testBit 1 || f.testBit 2)))

/-- A read of a count that it clears (R542). -/
def State.readRC (s : State) (a : Nat) : Word × State :=
  let (v, s) := s.look a
  (v, s.setReg a 0)

/-- A read of a low word: the high word goes into the reader's latch, and a read-clear pair is cleared whole (R540).
DEDUCED (log entry 44). -/
def State.readLo (s : State) (m : Master) (a : Nat) (clear : Bool) : Word × State :=
  let (lo, s) := s.look a
  let (hi, s) := s.look (a + 4)
  let s := s.latchHi m (a + 4) hi
  (lo, if clear then s.setPair a 0 else s)

/-- An accepted read: the word and what it brings about. Registers of a block that start-up has not enabled read their reset values
(R547); WO bits read 0. -/
def State.regRead (s : State) (m : Master) (a : Nat) : Word × State :=
  match regAt a with
  | none => (0, s)
  | some (r, _) =>
    let (v, t) :=
      if !s.enabled a then (resetWord a, s)
      else if a = Reg.FLC_RDATA then s.rdata
      else if Reg.CPH_SESS_CHAL 0 ≤ a ∧ a ≤ Reg.CPH_SESS_CHAL 3 ∧ (a = Reg.CPH_SESS_CHAL 0 ∨ s.keyless = true ∨ s.flag F.CPH_SESS_STAT_LOCKOUT = true) then
        (s.sessionChallenge.reg a, s.sessionChallenge)
      else
        match r.kind with
        | .plain => s.look a
        | .rc => s.readRC a
        | .rc16 => s.readRC a
        | .lo => s.readLo m a false
        | .rcLo => s.readLo m a true
        | .hi => (s.latched m a, s)
    let t := if (arr a (Reg.MIR_STG_DATA 0) 4 30 id).isSome then t.touch (s.stgAddr + (a - Reg.MIR_STG_DATA 0)) false 6 else t
    (if s.pmcHidden m a then 0 else v &&& ~~~BitVec.ofNat 32 r.wo, t)

/-! ## The checks of an access (R307, R317, R403, R434, R541) -/

/-- Masters that reach the register space (R537). -/
def reaches : Master → Bool
  | .hostOp => true
  | .hostCust => true
  | .seq => true
  | .tap => true
  | .cfg => true
  | _ => false

/-- Every writable field of the register is RWK. -/
def RegRow.allRwk (r : RegRow) : Bool := decide (r.rwk ≠ 0) && decide (r.rw = 0) && decide (r.w1c = 0) && decide (r.rwl = 0) && decide (r.wo = 0)

/-- Registers that only SEQ may write (R491). -/
def seqOnly (a : Nat) : Bool :=
  decide (a = Reg.LBS_RX_VERDICT) || decide (a = Reg.LBS_TX_CMD) || (decide (Reg.LBS_TX_WIN 0 ≤ a) && decide (a ≤ Reg.LBS_TX_WIN 15))

/-- The session registers (R445). -/
def sessionReg (a : Nat) : Bool :=
  decide (a = Reg.CPH_SESS_CTRL) || (decide (Reg.CPH_SESS_CHAL 0 ≤ a) && decide (a ≤ Reg.CPH_SESS_RESP 3))

/-- The access is answered PRIV (R307, R491, R514, R542). -/
def State.privRefused (s : State) (m : Master) (write : Bool) (a : Nat) : Bool :=
  let n := a / 0x10000
  if write && seqOnly a && decide (m ≠ .seq) then true
  else if s.custodian m then false
  else if write && ((regAt a).any (fun p => p.1.allRwk)) then true
  else if sessionReg a then false
  else if n = 23 then
    if write then !(s.flag F.PMC_ACCESS_OPREAD && s.flag (F.HLK_PRIV_OPW n))
    else !(s.flag F.PMC_ACCESS_OPREAD || decide (a = Reg.PMC_CYC_LO) || decide (a = Reg.PMC_CYC_HI))
  else if write then !s.flag (F.HLK_PRIV_OPW n)
  else !s.flag (F.HLK_PRIV_OPR n)

/-- A register of CPH that only the holder of the lock may use (R434). -/
def lockedReg (a : Nat) : Bool :=
  decide (a = Reg.CPH_CMD) || decide (a = Reg.CPH_SB_PTR) || (decide (Reg.CPH_IN 0 ≤ a) && decide (a ≤ Reg.CPH_DATA 3)) ||
  (decide (Reg.CPH_TAG_EXP 0 ≤ a) && decide (a ≤ Reg.CPH_BLOB 13))

/-- A write of `FLC_CMD` is answered busy (R403, R407, R425). -/
def State.flcCmdBusy (s : State) (v : Word) : Bool :=
  match F.FLC_CMD_OP.of v with
  | 1 => s.programBusy
  | 2 => s.eraseBusy
  | 3 =>
    match s.flc.op with
    | some (.inc _) => s.flc.susp.isNone
    | some _ => s.flc.susp.isNone && (decide (s.draw.1.toNat < 200) || s.flc.failed)
    | none => false
  | 4 => s.flc.op.isSome && s.flc.susp.isSome
  | _ => false

/-- The write of a task register is refused to a host (R317): what `tskCmdWrite` would accept is not. -/
def State.tskBusy (s : State) (a : Nat) (v : Word) : Bool :=
  if a = Reg.TSK_CMD then !(s.tskCmdWrite .A false v).1 else s.tskLocked

/-- The access is answered busy: NAK to the host, REGBUSY to SEQ. -/
def State.busyRefused (s : State) (m : Master) (write : Bool) (a : Nat) (v : Word) : Bool :=
  let host := decide (m = .hostOp) || decide (m = .hostCust)
  if lockedReg a then !s.cphOwner m || (write && decide (a = Reg.CPH_CMD) && s.flag F.CPH_STAT_BUSY)
  else if write then
    if a = Reg.FLC_CMD then s.flcCmdBusy v
    else if a = Reg.FLC_MC_CMD then s.eraseBusy && (List.finRange 2).any (fun (c : Fin 2) => v.getLsbD c.val && s.mcTakes m c)
    else if host && (decide (a = Reg.TSK_CMD) || (decide (Reg.TSK_DESC 0 ≤ a) && decide (a ≤ Reg.TSK_DESC 15))) then s.tskBusy a v
    else false
  else decide (a = Reg.FLC_RDATA) && s.rdataBusy

/-- What a busy answer counts. -/
def State.busyMark (s : State) (m : Master) (a : Nat) : State :=
  if lockedReg a then (if s.cphOwner m then s.bump Reg.CPH_BUSY_CNT else s.lockErr)
  else if a / 0x10000 = 8 then s.flcBusyAnswer
  else s.bump Reg.TSK_NAK_CNT

/-- An access event of PMC (R511): class 1 = read, 2 = write completed, 3 = refused. -/
def State.accessEvent (s : State) (cls : Nat) (m : Master) (a : Nat) : State :=
  s.pmcEvent cls (masterId m) (some (s.custodian m)) (some (false, a))

/-- The check of R541 that fails first, for one access. -/
def State.check (s : State) (m : Master) (write : Bool) (a : Nat) (v : Word) : Option RegAns :=
  if (regAt a).isNone then some .ur
  else if s.privRefused m write a then some .priv
  else if s.busyRefused m write a v then some .busy
  else none

/-- A refused access is counted. -/
def State.refused (s : State) (m : Master) (a : Nat) (r : RegAns) : State :=
  let s := s.accessEvent 3 m a
  if r = .busy then s.busyMark m a else s

/-- An accepted write of one word. While a drain is in progress a further window or privilege write waits behind it (R308). -/
def State.doWrite (s : State) (m : Master) (p : Port) (a : Nat) (v : Word) : State :=
  if isWindow a && s.hlk.drain.isSome then { s with hlk := { s.hlk with waiting := s.hlk.waiting ++ [.write m a v] } }
  else (s.regWrite m p a v).2.accessEvent 2 m a

/-- A window register shows a poisoned unit of SRAM: a dispatch entry, a control-store word, a sample buffer slot, or a word of a line of
CCH (R139, R373, R375). -/
def State.windowPoison (s : State) (a : Nat) : Bool :=
  let q := s.seq
  let sel := s.rd F.CCH_TAG_SEL_SEL
  let line : Option CLine := if sel < 48 then q.lines[sel]? else q.victims[sel - 48]?
  (decide (a = Reg.SEQ_DISP_DATA) && s.sramBad 3 (s.rd F.SEQ_DISP_SEL_SEL / 4)) ||
  (arr a (Reg.SEQ_CS_DATA 0) 4 4 id).any (fun _ => q.csBad.contains ((s.reg Reg.SEQ_CS_ADDR).toNat % 2 ^ 14)) ||
  (arr a (Reg.DET_SBUF_DATA 0) 4 16 id).any (fun _ => s.sramBad 5 (6 * s.rd F.DET_SBUF_SEL_BEAM + s.rd F.DET_SBUF_SEL_SLOT)) ||
  (arr a (Reg.CCH_LINE_DATA 0) 4 16 id).any (fun k => (line.map (fun l => l.poison.getLsbD (k / 2))).getD false)

/-- A register shows memory that is poisoned: a coefficient (R209), a mirrored record in staging (R388), or a window's unit. -/
def State.readPoisoned (s : State) (a : Nat) : Bool :=
  s.srv.poison.contains a || s.windowPoison a || ((arr a (Reg.MIR_STG_DATA 0) 4 30 id).any (fun k => s.linePoisoned (s.stgAddr + 4 * k)))

/-- Its poison is consumed (R387). -/
def State.consumeRead (s : State) (m : Master) (a : Nat) : State :=
  if s.srv.poison.contains a || s.windowPoison a then s.consumeSram (masterId m) (some (s.custodian m))
  else s.consumePoison (s.stgAddr + (a - Reg.MIR_STG_DATA 0)) (masterId m) (some (s.custodian m))

/-- An accepted read of one word. A host that reads poison is a consumer that R388 does not list. -/
def State.doRead (s : State) (m : Master) (a : Nat) : Word × State :=
  let bad := s.readPoisoned a && decide (m ≠ .seq)
  let (v, s) := s.regRead m a
  (v, (if bad then (s.consumeRead m a).poisonEnd else s).accessEvent 1 m a)

/-- One access of one word by a master that is not a CREQ. -/
def State.access (s : State) (m : Master) (write : Bool) (a : Nat) (v : Word) : RegAns × State :=
  match s.check m write a v with
  | some r => (r, s.refused m a r)
  | none =>
    if write then (.ok 0, s.doWrite m (portOf (s.routePort 0)) a v)
    else
      let (w, s) := s.doRead m a
      (.ok w, s)

/-- RDREG: a register that shows poisoned memory raises POISON_D (R354, R388). -/
def State.seqRead (s : State) (a : Nat) : RegAns × State :=
  let bad := s.readPoisoned a
  match s.access .seq false a 0 with
  | (.ok v, s) => if bad then (.poison, s.consumeRead .seq a) else (.ok v, s)
  | r => r

/-- The register space as SEQ reaches it. -/
def seqIO : RegIO := { read := State.seqRead, write := fun s a v => s.access .seq true a v }

/-- A full access: a write of `SEQ_CTRL` with STEP then runs one instruction (R374). -/
def State.busAccess (s : State) (m : Master) (write : Bool) (a : Nat) (v : Word) : RegAns × State :=
  match s.access m write a v with
  | (.ok w, s) => (.ok w, if write && decide (a = Reg.SEQ_CTRL) && v.getLsbD 2 && s.custodian m then s.seqStepWrite seqIO else s)
  | r => r

end Sys2Proof.Machine
end

