-- ==== Sys2Proof/Machine/Access.lean ====
section
/-! DEFINITION. The commands of the register space: CREQ with its CCPL (R295, R296, R307, R541), the drain of R308, the test connector
(R544), and the reads and writes of one register. -/

namespace Sys2Proof.Machine

/-! ## CREQ -/

/-- A control request: write or read, the number of registers and the first offset (R296). -/
structure Creq where
  wr    : Bool
  count : Nat
  ofs   : Nat
  deriving DecidableEq, Repr

/-- Take a request's first word apart. -/
def creqOf (payload : List Byte) : Creq :=
  let w := beAt payload 0 4
  { wr := decide (w / 2 ^ 31 = 1), count := w / 2 ^ 24 % 64 + 1, ofs := w % 2 ^ 24 }

/-- The offsets of a run (R541), with the data word of each. -/
def Creq.run (c : Creq) (payload : List Byte) : List (Nat × Word) :=
  (List.range c.count).map (fun i => (c.ofs + 4 * i, BitVec.ofNat 32 (beAt payload (8 + 4 * i) 4)))

/-- The CRC-32 of a request holds (R295). -/
def creqCrcOk (hdr : Dword) (payload : List Byte) : Bool :=
  decide (crc32 (beBytes 4 (hdr.toNat / 2 ^ 32) ++ bytesAt payload 0 116) = beAt payload 116 4)

/-- The CCPL that answers a request: status and read data (R296). -/
def State.ccpl (s : State) (hdr : Dword) (payload : List Byte) (status : Nat) (data : List Word) : Flit :=
  { typ := 3, hb := true, src := s.hop, tag := hTAG hdr
    bytes := bytesAt payload 0 4 ++ beBytes 1 status ++ bytesAt payload 5 1 ++ [0, 0]
      ++ bytesAt (data.flatMap (fun w => beBytes 4 w.toNat)) 0 64 ++ List.replicate 44 0 }

/-- The master of a request (R307): byte 4 names the privilege. -/
def creqMaster (payload : List Byte) : Master := if beAt payload 4 1 = 0 then .hostOp else .hostCust

/-- A custodian request names the open session (R307). -/
def State.sessionNamed (s : State) (payload : List Byte) : Bool :=
  s.flag F.CPH_SESS_STAT_OPEN && decide (beAt payload 5 1 = s.rd F.CPH_SESS_STAT_NUM)

/-- The first check of R541 that the run fails, with the offset that fails it. A run of more than 16 registers names none. -/
def State.runCheck (s : State) (m : Master) (named : Bool) (c : Creq) (ws : List (Nat × Word)) : Option (RegAns × Nat) :=
  let find (sel : Nat × Word → Bool) (r : RegAns) : Option (RegAns × Nat) := (ws.find? sel).map (fun p => (r, p.1))
  if 16 < c.count then some (.ur, c.ofs)
  else
    find (fun p => (regAt p.1).isNone) .ur
    <|> (if m = .hostCust ∧ named = false then some (.priv, c.ofs) else none)
    <|> find (fun p => s.privRefused m c.wr p.1) .priv
    <|> find (fun p => s.busyRefused m c.wr p.1 p.2) .busy

/-- The status of an answer (R296). -/
def RegAns.status : RegAns → Nat
  | .ok _ => 0
  | .busy => 1
  | .priv => 2
  | .ur => 3
  | .poison => 0

/-- The registers of an accepted run are read, or written, in ascending order (R541). -/
def State.runReads (s : State) (m : Master) : List (Nat × Word) → List Word × State
  | [] => ([], s)
  | (a, _) :: r =>
    let (v, s) := s.doRead m a
    let (vs, s) := State.runReads s m r
    (v :: vs, s)
def State.runWrites (s : State) (m : Master) (p : Port) (ws : List (Nat × Word)) : State :=
  ws.foldl (fun s w =>
    let s := (s.regWrite m p w.1 w.2).2.accessEvent 2 m w.1
    if decide (w.1 = Reg.SEQ_CTRL) && w.2.getLsbD 2 && s.custodian m then s.seqStepWrite seqIO else s) s

/-- A request is checked as a whole and executed; the CCPL of one that wrote a window or privilege register is withheld (R308). -/
def State.creqRun (s : State) (p : Port) (hdr : Dword) (payload : List Byte) : State :=
  let c := creqOf payload
  let m := creqMaster payload
  let ws := c.run payload
  match s.runCheck m (s.sessionNamed payload) c ws with
  | some (r, a) =>
    let s := s.refused m a r
    s.sendFlit (portIdx p) (s.ccpl hdr payload r.status [])
  | none =>
    if c.wr then
      let s := s.runWrites m p ws
      let f := s.ccpl hdr payload 0 []
      if ws.any (fun w => isWindow w.1) then { s with hlk := { s.hlk with drain := some (some (p, f)) } } else s.sendFlit (portIdx p) f
    else
      let (vs, s) := s.runReads m ws
      s.sendFlit (portIdx p) (s.ccpl hdr payload 0 vs)

/-! ## The drain (R308) -/

/-- Nothing is left to wait for. -/
def State.drained (s : State) : Bool := s.flushed && s.hlk.mrds.all (fun r => !r.held)

/-- What waits behind a drain runs until a new drain begins. -/
def State.runWaiting : Nat → State → State
  | 0, s => s
  | fuel + 1, s =>
    match s.hlk.drain, s.hlk.waiting with
    | none, w :: r =>
      let s := { s with hlk := { s.hlk with waiting := r } }
      State.runWaiting fuel (match w with
        | .write m a v => (s.regWrite m (portOf (s.routePort 0)) a v).2.accessEvent 2 m a
        | .creq p hdr payload => s.creqRun p hdr payload)
    | _, _ => s

/-- A drain with nothing left to wait for ends: its CCPL is sent, and what waited runs. The fuel is the number that wait, and one. -/
def State.drainEnd : Nat → State → State
  | 0, s => s
  | fuel + 1, s =>
    match s.hlk.drain with
    | none => s
    | some c =>
      if s.drained then
        let s := { s with hlk := { s.hlk with drain := none } }
        let s := match c with
          | some (p, f) => s.sendFlit (portIdx p) f
          | none => s
        State.drainEnd fuel (State.runWaiting s.hlk.waiting.length s)
      else s
def State.drainNow (s : State) : State := State.drainEnd (s.hlk.waiting.length + 1) s

/-- What follows an access: a drain that has nothing to wait for ends, and an ordered software reset comes (R308, R528). -/
def State.settled (s : State) : State := s.drainNow.softNow

/-- DRAIN_COMPLETE. -/
def execDrainComplete (s : State) : Host.Outcome State Fault Refusal := .next s.settled

/-- CREQ: a request in order is taken once (R296, R302). One with a wrong CRC-32 is answered CRCERR; one that writes a window or privilege register waits behind a drain in
progress. -/
def execCreq (p : Port) (hdr : Dword) (payload : List Byte) (s : State) : Host.Outcome State Fault Refusal :=
  let i := portIdx p
  if s.portUp i && decide (hTYPE hdr = 2) && s.mine hdr then
    let (ok, s) := s.rxOwn i hdr 2 1
    if !ok then .next s
    else if !creqCrcOk hdr payload then .next ((s.bump (Reg.HLK_P_CRC32_CNT i)).sendFlit i (s.ccpl hdr payload 4 []))
    else if s.hlk.drain.isSome && (creqOf payload).wr && ((creqOf payload).run payload).any (fun w => isWindow w.1) then
      .next { s with hlk := { s.hlk with waiting := s.hlk.waiting ++ [.creq p hdr payload] } }
    else .next (s.creqRun p hdr payload).settled
  else .next s

/-! ## Accesses of one word -/

/-- TEST_CONNECTOR_ACCESS: with custodian rights and master ID 1 (R544); the answer stands in the connector's word.
DEDUCED (log entry 46). -/
def execTestConnectorAccess (write : Bool) (ofs : BitVec 24) (v : Word) (s : State) : Host.Outcome State Fault Refusal :=
  let (r, s) := s.busAccess .tap write ofs.toNat v
  let w := match r with
    | .ok w => w
    | _ => 0
  .next { s with tap := some (r.status, w) }.settled

/-- The kind of the register at an offset. -/
def kindAt (a : Nat) : Option RegKind := (regAt a).map (fun p => p.1.kind)

/-- RC_READ: a read of a read-clear count returns it and clears it (R542). -/
def execRcRead (m : Master) (ofs : BitVec 24) (s : State) : Host.Outcome State Fault Refusal :=
  let k := kindAt ofs.toNat
  if reaches m && (decide (k = some .rc) || decide (k = some .rc16)) then .next (s.busAccess m false ofs.toNat 0).2 else .next s

/-- LO_WORD_READ: a read of a low word latches the high word for the reader (R540). -/
def execLoWordRead (m : Master) (ofs : BitVec 24) (s : State) : Host.Outcome State Fault Refusal :=
  let k := kindAt ofs.toNat
  if reaches m && (decide (k = some .lo) || decide (k = some .rcLo)) then .next (s.busAccess m false ofs.toNat 0).2 else .next s

/-- REGISTER_WRITE: one word, by a master that reaches the space (R537, R542). -/
def execRegisterWrite (m : Master) (ofs : BitVec 24) (v : Word) (s : State) : Host.Outcome State Fault Refusal :=
  .next (if reaches m then (s.busAccess m true ofs.toNat v).2.settled else s)

/-- WINDOW_WRITE: a write of `HLK_WIN` or `HLK_PRIV` (R308). -/
def execWindowWrite (m : Master) (ofs : BitVec 24) (v : Word) (s : State) : Host.Outcome State Fault Refusal :=
  .next (if reaches m && isWindow ofs.toNat then (s.access m true ofs.toNat v).2.settled else s)

end Sys2Proof.Machine
end

