-- ==== Sys2Proof/Machine/Cfg.lean ====
section
/-! DEFINITION. CFG at start (R413, R418 to R423): passes 1 and 2 over the image with the counters between them; DLOAD; the
configuration lock. -/

namespace Sys2Proof.Machine

/-! ## The records of pass 2 -/

/-- A write that the image makes is refused (R419): counted, and the first offset kept. -/
def State.imageReject (s : State) (a : Nat) : State :=
  let s := if s.reg Reg.CFG_REJ_CNT = 0 then s.setReg Reg.CFG_BAD_OFS (BitVec.ofNat 32 a) else s
  s.bump Reg.CFG_REJ_CNT

/-- A WO register. -/
def RegRow.allWo (r : RegRow) : Bool := decide (r.wo ≠ 0) && decide (r.rw = 0) && decide (r.w1c = 0) && decide (r.rwl = 0) && decide (r.rwk = 0)

/-- One write of a REGWRITE or REGBLOCK record (R419, R546). The image does not change `ACQ_ZRATIO` (R98): such a write is rejected.
DEDUCED (log entry 53). -/
def State.imageWrite (s : State) (a : Nat) (v : Word) : State :=
  let n := a / 0x10000
  if n = 0 ∨ n = 8 ∨ (Reg.ACQ_ZRATIO 0 ≤ a ∧ a ≤ Reg.ACQ_ZRATIO 19) ∨ (regAt a).any (fun p => p.1.allWo) = true then s.imageReject a
  else if (s.check .cfg true a v).isSome then s.imageReject a
  else
    let (ok, s) := s.regWrite .cfg .A a v
    if ok then (s.accessEvent 2 .cfg a).drainNow else s.imageReject a

/-- Word `k` of a payload. -/
def CfgRec.word (r : CfgRec) (k : Nat) : Word := BitVec.ofNat 32 (beAt r.data (4 * k) 4)

/-- Apply one record (R418). DRAMLOAD waits for pass 3; an unknown type is skipped and counted. -/
def State.applyRecord (s : State) (r : CfgRec) : State :=
  let n := r.data.length
  if r.typ = 0x0030 then s
  else if !r.known then s.bump Reg.CFG_SKIP_CNT
  else
    let s := s.bump Reg.CFG_REC_CNT
    if r.typ = 0x0001 then forEach (List.range 3) (fun k s => s.setReg (Reg.CFG_SERIAL k) (r.word k)) s
    else if r.typ = 0x0002 then
      forEach (List.range ((n - 4) / 4)) (fun k s =>
        let a := Reg.CFG_PARAM ((r.word 0).toNat + k)
        match regAt a with
        | some (row, _) =>
          let (ok, s) := s.plainWrite .cfg row a (r.word (1 + k))
          if ok then s else s.imageReject a
        | none => s) s
    else if r.typ = 0x0010 then
      forEach (List.range ((n - 16) / 16)) (fun k s => s.modSeq (fun q => { q with
        cs := Sparse.set (BitVec.allOnes 128) q.cs ((r.word 0).toNat + k) (BitVec.ofNat 128 (beAt r.data (16 + 16 * k) 16))
        csBad := q.csBad.filter (· ≠ (r.word 0).toNat + k) })) s
    else if r.typ = 0x0011 then
      (forEach (List.range 64) (fun u s => s.clearSram 3 u) s).modSeq (fun q => { q with disp := Vector.ofFn (fun i : Fin 256 => BitVec.ofNat 14 (beAt r.data (2 * i.val) 2)) })
    else if r.typ = 0x0012 then (s.setReg Reg.SEQ_UCODE_VER (r.word 0)).setReg Reg.SEQ_ILLVEC (r.word 1 &&& 0x3FFF)
    else if r.typ = 0x0020 then
      forEach (List.range (n / 8)) (fun k s => s.imageWrite ((r.word (2 * k)).toNat % 2 ^ 24) (r.word (2 * k + 1))) s
    else forEach (List.range ((n - 4) / 4)) (fun k s => s.imageWrite (((r.word 0).toNat + 4 * k) % 2 ^ 24) (r.word (1 + k))) s

/-- Dispatch entries of opcodes that the list of R323 does not name hold `SEQ_ILLVEC` (R362). -/
def State.dispatchRest (s : State) : State :=
  let ill : BitVec 14 := (s.reg Reg.SEQ_ILLVEC).setWidth 14
  s.modSeq (fun q => { q with disp := Vector.ofFn (fun i : Fin 256 => if taskOpcodes.contains i.val then q.disp[i] else ill) })

/-! ## The passes -/

/-- The end of pass 2 with its tag right (R363, R419, R420, R424): coefficients in force, the tag shown, SEQ at 0x0200 in boot mode. -/
def State.imageEnd (s : State) (img : List Byte) : State :=
  let s := s.dispatchRest
  let s := if s.flag F.SRV_CTRL_EN then s else forEach (List.range 11) (fun g s => s.commitGroup g) s
  let s := s.setRegBytes (Reg.CFG_TAG 0) 4 (bytesAt img (beAt img 12 4) 16)
  let s := ((s.put F.CFG_STAT_APPLIED true).put F.SEQ_STAT_CSLOAD true).setReg Reg.SEQ_PC 0x200
  (s.put F.SEQ_STAT_HALTED (s.flag F.SEQ_CTRL_HALT)).wr F.PWR_START_STEP 8

/-- Pass 2 over a parsed image: every record in its order under the configuration lock, then the tag. -/
def State.pass2Run (s : State) (img : List Byte) : State :=
  match imageRecords img with
  | none => (s.lockGive .cfg).cfgFault 7 0
  | some rs =>
    let s := (rs.foldl State.applyRecord s).lockGive .cfg
    if s.imageTagOk img then s.imageEnd img else s.cfgFault 7 0

/-- Pass 2 (R420): the image is read again, applied, and its tag compared again. CFG holds the CPH lock. -/
def State.pass2 (s : State) : State :=
  let r := ((s.wr F.CFG_STAT_PASS 2).lockTake .cfg).readImage
  r.2.pass2Run r.1

/-- CONFIG_IMAGE_READ: pass 1, the monotone counters, pass 2 (R413, R420). -/
def execConfigImageRead (s : State) : Host.Outcome State Fault Refusal :=
  if s.pwr.held = false ∧ s.rd F.PWR_START_STEP = 7 ∧ s.flag F.PWR_START_STOPPED = false then
    let (img, s) := (s.wr F.CFG_STAT_PASS 1).readImage
    let s := (s.setReg Reg.CFG_IMG_VER (BitVec.ofNat 32 (beAt img 16 4))).setReg Reg.CFG_IMG_LEN (BitVec.ofNat 32 (beAt img 12 4))
    match s.imageFault img with
    | some (c, t) => .next (s.cfgFault c t)
    | none => .next ((s.mcSettle 0).mcSettle 1).pass2
  else .next s

/-- DLOAD: a write of `CFG_CMD` with DLOAD, by a master that may write the block (R307, R420). -/
def execDload (m : Master) (s : State) : Host.Outcome State Fault Refusal :=
  .next (if reaches m && !s.privRefused m true Reg.CFG_CMD then s.dload else s)

/-- CONFIGURATION_LOCK (R423). -/
def execConfigurationLock (s : State) : Host.Outcome State Fault Refusal := .next (s.put F.CFG_LOCK_LOCK true)

end Sys2Proof.Machine
end

