-- ==== Sys2Proof/Machine/Sample.lean ====
section
/-! DEFINITION. A servo sample instant as a whole (R74 to R76, R88, R194 to R217, R231 to R239, R258, R465, R467): ANG's interval, the
quadrants, what MIR has to apply, the spindle, SRV, the loop supervisors, and the primary's sample record. -/

namespace Sys2Proof.Machine

/-- `ANG_SRV_INT`: the interval to the next instant in fabric cycles of 1.25 ns; `PMC_CYC` counts them (R509).
DESIGN CHOICE (log entry 7). -/
def State.intervalCount (s : State) (ns : Nat) : State :=
  (s.setReg Reg.ANG_SRV_INT (BitVec.ofNat 32 (ns * 4 / 5))).bump64 Reg.PMC_CYC_LO (ns * 4 / 5)

/-- The rate of the instants is measured while a head is locked (R14 step 5): that of the floor, or the nominal one. -/
def State.measuredNs (s : State) : Nat :=
  if s.headsLost then s.ang.rate else if s.floorOn then 1667 else s.nominalNs.getD s.ang.rate

/-- The interval to the next instant is settled (R14, R75, R76). -/
def State.sampleInterval (s : State) (ns : Nat) : State :=
  { s.intervalCount ns with ang := { s.ang with timed := s.headsLost || s.floorOn, rate := s.measuredNs } }

/-- The loop supervisors' part, head by head. -/
def State.supSamples (s : State) (y : Quads) : State := (List.finRange 4).foldl (fun s (h : Head) => s.lsvSample y h) s

/-- A servo sample with its interval settled. -/
def State.sampleRun (s : State) (x : SampleIn) : State :=
  let y := s.quadsOf x
  let s := (((((s.sampleInterval x.interval).quadKeep x y).mirInstant).sldSample x.pos x.interval).spnSample x).rateCheck
  ((s.srvSample x y).supSamples y).sendSample

/-- SERVO_SAMPLE. -/
def execServoSample (x : SampleIn) (s : State) : Host.Outcome State Fault Refusal :=
  .next (s.sampleRun { x with interval := s.instantNs x.interval })

end Sys2Proof.Machine
end

