-- ==== Sys2Proof/Machine/SeqRows.lean ====
section
/-! DEFINITION. The rows of SEQ's instruction set (R343 to R346). A micro-word holds one control operation and one execution
operation; the command of either runs the whole word at the program counter when it holds that operation, and nothing otherwise. -/

namespace Sys2Proof.Machine

/-- SEQ runs the word at its program counter when its control operation is `c`. A reserved code runs, and raises ILLOP, under
NEXT. DEDUCED (log entry 31). -/
def State.runCtl (s : State) (c : Nat) : State :=
  (s.seqRow seqIO (fun m => decide (m.ctl = c) || (decide (c = 0) && decide (10 ≤ m.ctl)))).settled

/-- The same by its execution operation. -/
def State.runXop (s : State) (x : Nat) : State := (s.seqRow seqIO (fun m => decide (m.xop = x))).settled

/-! ## Control operations (R344) -/

def execNext (s : State) : Host.Outcome State Fault Refusal := .next (s.runCtl 0)
def execBr (s : State) : Host.Outcome State Fault Refusal := .next (s.runCtl 1)
def execCall (s : State) : Host.Outcome State Fault Refusal := .next (s.runCtl 2)
def execRet (s : State) : Host.Outcome State Fault Refusal := .next (s.runCtl 3)
def execDispatch (s : State) : Host.Outcome State Fault Refusal := .next (s.runCtl 4)
def execLoop (s : State) : Host.Outcome State Fault Refusal := .next (s.runCtl 5)
def execMode (s : State) : Host.Outcome State Fault Refusal := .next (s.runCtl 6)
def execWait (s : State) : Host.Outcome State Fault Refusal := .next (s.runCtl 7)
def execEret (s : State) : Host.Outcome State Fault Refusal := .next (s.runCtl 8)
def execHalt (s : State) : Host.Outcome State Fault Refusal := .next (s.runCtl 9)

/-! ## Execution operations (R346) -/

def execXopNop (s : State) : Host.Outcome State Fault Refusal := .next (s.runXop 0)
def execMov (s : State) : Host.Outcome State Fault Refusal := .next (s.runXop 1)
def execAdd (s : State) : Host.Outcome State Fault Refusal := .next (s.runXop 2)
def execSub (s : State) : Host.Outcome State Fault Refusal := .next (s.runXop 3)
def execXAnd (s : State) : Host.Outcome State Fault Refusal := .next (s.runXop 4)
def execXOr (s : State) : Host.Outcome State Fault Refusal := .next (s.runXop 5)
def execXXor (s : State) : Host.Outcome State Fault Refusal := .next (s.runXop 6)
def execShl (s : State) : Host.Outcome State Fault Refusal := .next (s.runXop 7)
def execShr (s : State) : Host.Outcome State Fault Refusal := .next (s.runXop 8)
def execSar (s : State) : Host.Outcome State Fault Refusal := .next (s.runXop 9)
def execMul (s : State) : Host.Outcome State Fault Refusal := .next (s.runXop 0xa)
def execCmp (s : State) : Host.Outcome State Fault Refusal := .next (s.runXop 0xb)
def execBfx (s : State) : Host.Outcome State Fault Refusal := .next (s.runXop 0xc)
def execBfi (s : State) : Host.Outcome State Fault Refusal := .next (s.runXop 0xd)
def execLd (s : State) : Host.Outcome State Fault Refusal := .next (s.runXop 0x10)
def execLds (s : State) : Host.Outcome State Fault Refusal := .next (s.runXop 0x11)
def execSt (s : State) : Host.Outcome State Fault Refusal := .next (s.runXop 0x12)
def execSync (s : State) : Host.Outcome State Fault Refusal := .next (s.runXop 0x13)
def execRdreg (s : State) : Host.Outcome State Fault Refusal := .next (s.runXop 0x18)
def execWrreg (s : State) : Host.Outcome State Fault Refusal := .next (s.runXop 0x19)

/-- SEQ_STEP: a write of `SEQ_CTRL` with STEP while SEQ is halted; its HALT bit is 1 in that write (R374). -/
def execSeqStep (m : Master) (s : State) : Host.Outcome State Fault Refusal :=
  .next (if s.custodian m then (s.seqStepWrite seqIO).settled else s)

end Sys2Proof.Machine
end

