-- ==== Sys2Proof/Machine/Sram.lean ====
section
/-! DEFINITION. The SRAM walker of Skink (R393, R396): what an error of a word brings about in the memory that the word belongs to,
and its command. -/

namespace Sys2Proof.Machine

/-- The offset of coefficient word `k` of 960: four head groups, then three sets of small channels (R219, R220). -/
def coefOfs (k : Nat) : Nat :=
  if k < 768 then Reg.SRV_G_MEM 0 0 + 0x400 * (k / 192) + 4 * (k % 192) else Reg.SRV_S_MEM 0 0 + 0x100 * ((k - 768) / 64) + 4 * ((k - 768) % 64)

/-- The units of each class whose poison has a consumer here: 16,384 control-store words; 32,768 words of data SRAM; 8 words of each of 48
lines and 8 victims; 64 words of four dispatch entries; 960 coefficients; 6 slots of each of 16 beams; the 4 parts of a sample in the staging queue; 2,048 words of the sealed
buffer. The spec does not say what a word of the other classes holds, and no use of theirs is told. DESIGN CHOICE (log entry 39). -/
def sramUnits : Nat → Nat
  | 0 => 16384
  | 1 => 32768
  | 2 => 448
  | 3 => 64
  | 4 => 960
  | 5 => 96
  | 15 => 4
  | 16 => 2048
  | _ => 1

/-- The line or victim that a unit of class 2 belongs to. -/
def State.unitLine (s : State) (u : Nat) : Option CLine := if u / 8 < 48 then s.seq.lines[u / 8]? else s.seq.victims[u / 8 - 48]?

/-- `CCH_ECC_ADDR` takes the number of the line in error, its address divided by 64 (R375). DESIGN CHOICE (log entry 69). -/
def State.lineErrAt (s : State) (u : Nat) : State :=
  match s.unitLine u with
  | some l => s.setReg Reg.CCH_ECC_ADDR (BitVec.ofNat 32 (l.addr / 64))
  | none => s

/-- An uncorrectable error in a line of CCH or a victim: a clean line is invalidated and fetched again, in a dirty one the word is marked
poisoned (R372). -/
def State.lineBad (s : State) (u : Nat) : State :=
  let n := u / 8
  let put (l : CLine) (q : Seq) : Seq := if n < 48 then { q with lines := q.lines.set n l } else { q with victims := q.victims.set (n - 48) l }
  let s := s.lineErrAt u
  match s.unitLine u with
  | none => s
  | some l =>
    if l.dirty then s.modSeq (put { l with poison := l.poison ||| BitVec.ofNat 8 (2 ^ (u % 8)) })
    else let (l, s) := s.fetchLine l.addr; s.modSeq (put l)

/-- An uncorrectable error poisons unit `u` of a class (R386, R388): a control-store word (R354), a coefficient (R209), a word of a line,
or a unit of the list. -/
def State.unitBad (s : State) (cls u : Nat) : State :=
  match cls with
  | 0 => s.modSeq (fun q => { q with csBad := if q.csBad.contains u then q.csBad else q.csBad ++ [u] })
  | 2 => s.lineBad u
  | 4 =>
    let a := coefOfs u
    { s with srv := { s.srv with poison := if s.srv.poison.contains a then s.srv.poison else s.srv.poison ++ [a] } }
  | _ => s.markSram cls u

/-- The unit is poisoned already. -/
def State.unitIsBad (s : State) (cls u : Nat) : Bool :=
  match cls with
  | 0 => s.seq.csBad.contains u
  | 4 => s.srv.poison.contains (coefOfs u)
  | _ => s.sramBad cls u

/-- What the check of a word finds, and what MIC does with it (R386, R390, R393, R396); a corrected error of a line is also CCH's
(R372). A word that reads as poisoned is left as it is and counted. -/
def State.wordChecked (s : State) (macro_ : Fin 1024) (word : Fin 65536) (cls : Fin 20) (r : EccResult) : State :=
  let u := Config.sramUnit cls macro_ word % sramUnits cls
  if s.unitIsBad cls u then s.bump Reg.MIC_S_PSN_CNT
  else
    match r with
    | .ok => s
    | .correctable _ =>
      let s := (((s.bump Reg.MIC_S_CE_CNT).bumpF (F.MIC_SCLS_CNT_CE cls)).wordErrLoc macro_ word).wordError macro_ word
      if cls.val = 2 then (s.lineErrAt u).bump Reg.CCH_ECC_CNT else s
    | .uncorrectable =>
      let s := ((s.bump Reg.MIC_S_UE_CNT).bumpF (F.MIC_SCLS_CNT_UE cls)).wordErrLoc macro_ word
      ((s.bump Reg.MIC_S_PSN_CNT).axlAsk 0x05 macro_ word 0x2).unitBad cls u
    | .poisoned => (s.bump Reg.MIC_S_PSN_CNT).unitBad cls u

/-- SKINK_SRAM_STEP: the walker checks one word of a macro, which belongs to class `cls` (R393, R396).
DESIGN CHOICE (log entry 39). -/
def execSkinkSramStep (macro_ : Fin 1024) (word : Fin 65536) (cls : Fin 20) (r : EccResult) (s : State) :
    Host.Outcome State Fault Refusal :=
  if s.flag F.MIC_FILL_STAT_SDONE && s.flag F.MIC_SKINK_CFG_SEN then
    let s := s.wordChecked macro_ word cls r
    let s := if r = .ok then s else s.modMem (fun m => { m with classes := m.classes.filter (fun p => p.1 ≠ macro_.val) ++ [(macro_.val, cls.val)] })
    .next (s.sramLap word)
  else .next s

end Sys2Proof.Machine
end

