-- ==== Sys2Proof/Machine/Dispatch.lean ====
section
/-! DEFINITION. One arm per command: each is one call of its meaning. -/

namespace Sys2Proof.Machine

def exec (i : Instr) (s : State) : Host.Outcome State Fault Refusal :=
  match i with
  | .frameMarkGood h ofs16 run16 => Sys2Proof.Machine.execFrameMarkGood h ofs16 run16 s
  | .frameMarkMissing h => Sys2Proof.Machine.execFrameMarkMissing h s
  | .headUnlocked h => Sys2Proof.Machine.execHeadUnlocked h s
  | .angleInvalid => Sys2Proof.Machine.execAngleInvalid s
  | .addressWord h w now lag => Sys2Proof.Machine.execAddressWord h w now lag s
  | .frameZero h monitor => Sys2Proof.Machine.execFrameZero h monitor s
  | .holdEnd now => Sys2Proof.Machine.execHoldEnd now s
  | .wgateOpen en now lead20us => Sys2Proof.Machine.execWgateOpen en now lead20us s
  | .wgateClose en now => Sys2Proof.Machine.execWgateClose en now s
  | .lpower en now => Sys2Proof.Machine.execLpower en now s
  | .capture en now => Sys2Proof.Machine.execCapture en now s
  | .srvTarget en now => Sys2Proof.Machine.execSrvTarget en now s
  | .sldStart en now => Sys2Proof.Machine.execSldStart en now s
  | .seqEvent en now => Sys2Proof.Machine.execSeqEvent en now s
  | .scrubTick en now => Sys2Proof.Machine.execScrubTick en now s
  | .zoneSwitch en now => Sys2Proof.Machine.execZoneSwitch en now s
  | .angEvtArm => Sys2Proof.Machine.execAngEvtArm s
  | .angEvtDisarm => Sys2Proof.Machine.execAngEvtDisarm s
  | .angEvtDisarmAll => Sys2Proof.Machine.execAngEvtDisarmAll s
  | .servoSample x => Sys2Proof.Machine.execServoSample x s
  | .encoderTransition sl ab => Sys2Proof.Machine.execEncoderTransition sl ab s
  | .indexEdge sl => Sys2Proof.Machine.execIndexEdge sl s
  | .sliceShadowEnd a mad => Sys2Proof.Machine.execSliceShadowEnd a mad s
  | .sliceSwap a => Sys2Proof.Machine.execSliceSwap a s
  | .agcStep en p2p => Sys2Proof.Machine.execAgcStep en p2p s
  | .pllEnable h v => Sys2Proof.Machine.execPllEnable h v s
  | .slotStart b => Sys2Proof.Machine.execSlotStart b s
  | .syncDecision b cands envMv => Sys2Proof.Machine.execSyncDecision b cands envMv s
  | .headerDecision b cells => Sys2Proof.Machine.execHeaderDecision b cells s
  | .captureEnd b x => Sys2Proof.Machine.execCaptureEnd b x s
  | .defectRegion b first env => Sys2Proof.Machine.execDefectRegion b first env s
  | .detMode b mode => Sys2Proof.Machine.execDetMode b mode s
  | .detStop b => Sys2Proof.Machine.execDetStop b s
  | .laneTake l waitedUs => Sys2Proof.Machine.execLaneTake l waitedUs s
  | .decodeEnd l cws => Sys2Proof.Machine.execDecodeEnd l cws s
  | .collectorDrain => Sys2Proof.Machine.execCollectorDrain s
  | .knownAnswerTest => Sys2Proof.Machine.execKnownAnswerTest s
  | .rebuildScan h slots => Sys2Proof.Machine.execRebuildScan h slots s
  | .zoneLayerReady zl => Sys2Proof.Machine.execZoneLayerReady zl s
  | .verifyDecision b sync body => Sys2Proof.Machine.execVerifyDecision b sync body s
  | .replacementPass h => Sys2Proof.Machine.execReplacementPass h s
  | .opc h totals => Sys2Proof.Machine.execOpc h totals s
  | .recordEvent verify => Sys2Proof.Machine.execRecordEvent verify s
  | .lddFault c cause => Sys2Proof.Machine.execLddFault c cause s
  | .enableConditionLoss c => Sys2Proof.Machine.execEnableConditionLoss c s
  | .vldMonitor h mv => Sys2Proof.Machine.execVldMonitor h mv s
  | .hfIntervalEnd c => Sys2Proof.Machine.execHfIntervalEnd c s
  | .spareShadowMove => Sys2Proof.Machine.execSpareShadowMove s
  | .commit groups => Sys2Proof.Machine.execCommit groups s
  | .srvPreset v => Sys2Proof.Machine.execSrvPreset v s
  | .srvMode g v => Sys2Proof.Machine.execSrvMode g v s
  | .acquire h => Sys2Proof.Machine.execAcquire h s
  | .layer h => Sys2Proof.Machine.execLayer h s
  | .jump h delta => Sys2Proof.Machine.execJump h delta s
  | .seek h => Sys2Proof.Machine.execSeek h s
  | .release h => Sys2Proof.Machine.execRelease h s
  | .lsvStop h => Sys2Proof.Machine.execLsvStop h s
  | .jumpLaunch h frame => Sys2Proof.Machine.execJumpLaunch h frame s
  | .kickEnd h => Sys2Proof.Machine.execKickEnd h s
  | .trackingKickEnd h => Sys2Proof.Machine.execTrackingKickEnd h s
  | .fsettleEnd h => Sys2Proof.Machine.execFsettleEnd h s
  | .tpullTimeout h => Sys2Proof.Machine.execTpullTimeout h s
  | .singleJumpTimeout h => Sys2Proof.Machine.execSingleJumpTimeout h s
  | .seekSettleEnd h => Sys2Proof.Machine.execSeekSettleEnd h s
  | .focusLost h => Sys2Proof.Machine.execFocusLost h s
  | .trackLost h => Sys2Proof.Machine.execTrackLost h s
  | .spin => Sys2Proof.Machine.execSpin s
  | .spnStop => Sys2Proof.Machine.execSpnStop s
  | .brake => Sys2Proof.Machine.execBrake s
  | .coast => Sys2Proof.Machine.execCoast s
  | .park => Sys2Proof.Machine.execPark s
  | .rotate => Sys2Proof.Machine.execRotate s
  | .alignEnd => Sys2Proof.Machine.execAlignEnd s
  | .handoff => Sys2Proof.Machine.execHandoff s
  | .handoffTimeout => Sys2Proof.Machine.execHandoffTimeout s
  | .atspeed => Sys2Proof.Machine.execAtspeed s
  | .standstill => Sys2Proof.Machine.execStandstill s
  | .stopHoldEnd => Sys2Proof.Machine.execStopHoldEnd s
  | .vwatchOn mv => Sys2Proof.Machine.execVwatchOn mv s
  | .vwatchOff mv => Sys2Proof.Machine.execVwatchOff mv s
  | .spnFault cause trace => Sys2Proof.Machine.execSpnFault cause trace s
  | .stageEnableOn mv => Sys2Proof.Machine.execStageEnableOn mv s
  | .stageEnableOff mv => Sys2Proof.Machine.execStageEnableOff mv s
  | .move n arm => Sys2Proof.Machine.execMove n arm s
  | .sldStop n arm rest => Sys2Proof.Machine.execSldStop n arm rest s
  | .hold n arm => Sys2Proof.Machine.execHold n arm s
  | .off n arm => Sys2Proof.Machine.execOff n arm s
  | .vel n arm => Sys2Proof.Machine.execVel n arm s
  | .trim n arm => Sys2Proof.Machine.execTrim n arm s
  | .home n arm => Sys2Proof.Machine.execHome n arm s
  | .moveEnd n => Sys2Proof.Machine.execMoveEnd n s
  | .stall n x => Sys2Proof.Machine.execStall n x s
  | .holdCurrent n => Sys2Proof.Machine.execHoldCurrent n s
  | .portTraining p => Sys2Proof.Machine.execPortTraining p s
  | .laneTrainingTimeout l => Sys2Proof.Machine.execLaneTrainingTimeout l s
  | .portUp p => Sys2Proof.Machine.execPortUp p s
  | .spareLaneMove p => Sys2Proof.Machine.execSpareLaneMove p s
  | .laneCondemn x => Sys2Proof.Machine.execLaneCondemn x s
  | .remapSwitch p cw => Sys2Proof.Machine.execRemapSwitch p cw s
  | .badFlit p why => Sys2Proof.Machine.execBadFlit p why s
  | .linkAck p ackseq => Sys2Proof.Machine.execLinkAck p ackseq s
  | .linkNak p nakseq => Sys2Proof.Machine.execLinkNak p nakseq s
  | .linkInit p credc credd => Sys2Proof.Machine.execLinkInit p credc credd s
  | .linkCredit p credc credd => Sys2Proof.Machine.execLinkCredit p credc credd s
  | .linkRemap p rlane rspare rcw => Sys2Proof.Machine.execLinkRemap p rlane rspare rcw s
  | .linkRemapack p rcw => Sys2Proof.Machine.execLinkRemapack p rcw s
  | .linkRetrain p => Sys2Proof.Machine.execLinkRetrain p s
  | .ackSend p => Sys2Proof.Machine.execAckSend p s
  | .replayTimeout p => Sys2Proof.Machine.execReplayTimeout p s
  | .portDown p => Sys2Proof.Machine.execPortDown p s
  | .breakFlit p hdr payload => Sys2Proof.Machine.execBreakFlit p hdr payload s
  | .flitForward p hdr payload => Sys2Proof.Machine.execFlitForward p hdr payload s
  | .creq p hdr payload => Sys2Proof.Machine.execCreq p hdr payload s
  | .mcpl p hdr body => Sys2Proof.Machine.execMcpl p hdr body s
  | .flack x => Sys2Proof.Machine.execFlack x s
  | .enum p hdr payload => Sys2Proof.Machine.execEnum p hdr payload s
  | .mrdTimeout => Sys2Proof.Machine.execMrdTimeout s
  | .dmaIssue write addr len lba => Sys2Proof.Machine.execDmaIssue write addr len lba s
  | .windowWrite m ofs v => Sys2Proof.Machine.execWindowWrite m ofs v s
  | .drainComplete => Sys2Proof.Machine.execDrainComplete s
  | .go p m => Sys2Proof.Machine.execGo p m s
  | .restart p => Sys2Proof.Machine.execRestart p s
  | .readExtent => Sys2Proof.Machine.execReadExtent s
  | .writeExtent => Sys2Proof.Machine.execWriteExtent s
  | .writeExtentSpare => Sys2Proof.Machine.execWriteExtentSpare s
  | .verifyExtent => Sys2Proof.Machine.execVerifyExtent s
  | .loadDisc blocks => Sys2Proof.Machine.execLoadDisc blocks s
  | .unloadDisc => Sys2Proof.Machine.execUnloadDisc s
  | .spinUp => Sys2Proof.Machine.execSpinUp s
  | .spinDownStop => Sys2Proof.Machine.execSpinDownStop s
  | .spinDownBrake => Sys2Proof.Machine.execSpinDownBrake s
  | .spinDownPark => Sys2Proof.Machine.execSpinDownPark s
  | .readMgmt blocks => Sys2Proof.Machine.execReadMgmt blocks s
  | .closeSession => Sys2Proof.Machine.execCloseSession s
  | .scanSpare => Sys2Proof.Machine.execScanSpare s
  | .catalogRead => Sys2Proof.Machine.execCatalogRead s
  | .catalogEvict => Sys2Proof.Machine.execCatalogEvict s
  | .catalogEvictAll => Sys2Proof.Machine.execCatalogEvictAll s
  | .pairHandover => Sys2Proof.Machine.execPairHandover s
  | .patchLoad blob => Sys2Proof.Machine.execPatchLoad blob s
  | .nop => Sys2Proof.Machine.execNop s
  | .calibrateRef meas readings q => Sys2Proof.Machine.execCalibrateRef meas readings q s
  | .calibrateInofs means residues => Sys2Proof.Machine.execCalibrateInofs means residues s
  | .calibrateShunt ofs gain residues => Sys2Proof.Machine.execCalibrateShunt ofs gain residues s
  | .calibrateLdcur trims ires => Sys2Proof.Machine.execCalibrateLdcur trims ires s
  | .calibrateLdpwr fits => Sys2Proof.Machine.execCalibrateLdpwr fits s
  | .calibrateSkew syncofs vofs spr => Sys2Proof.Machine.execCalibrateSkew syncofs vofs spr s
  | .calibrateHofs means spread => Sys2Proof.Machine.execCalibrateHofs means spread s
  | .calibrateSapos jitter q => Sys2Proof.Machine.execCalibrateSapos jitter q s
  | .calibrateEye offs jit => Sys2Proof.Machine.execCalibrateEye offs jit s
  | .calibrateLoop rms => Sys2Proof.Machine.execCalibrateLoop rms s
  | .taskSuccess => Sys2Proof.Machine.execTaskSuccess s
  | .freezeSettled => Sys2Proof.Machine.execFreezeSettled s
  | .next => Sys2Proof.Machine.execNext s
  | .br => Sys2Proof.Machine.execBr s
  | .call => Sys2Proof.Machine.execCall s
  | .ret => Sys2Proof.Machine.execRet s
  | .dispatch => Sys2Proof.Machine.execDispatch s
  | .loop => Sys2Proof.Machine.execLoop s
  | .mode => Sys2Proof.Machine.execMode s
  | .wait => Sys2Proof.Machine.execWait s
  | .waitWake => Sys2Proof.Machine.execWaitWake s
  | .eret => Sys2Proof.Machine.execEret s
  | .halt => Sys2Proof.Machine.execHalt s
  | .xopNop => Sys2Proof.Machine.execXopNop s
  | .mov => Sys2Proof.Machine.execMov s
  | .add => Sys2Proof.Machine.execAdd s
  | .sub => Sys2Proof.Machine.execSub s
  | .xAnd => Sys2Proof.Machine.execXAnd s
  | .xOr => Sys2Proof.Machine.execXOr s
  | .xXor => Sys2Proof.Machine.execXXor s
  | .shl => Sys2Proof.Machine.execShl s
  | .shr => Sys2Proof.Machine.execShr s
  | .sar => Sys2Proof.Machine.execSar s
  | .mul => Sys2Proof.Machine.execMul s
  | .cmp => Sys2Proof.Machine.execCmp s
  | .bfx => Sys2Proof.Machine.execBfx s
  | .bfi => Sys2Proof.Machine.execBfi s
  | .ld => Sys2Proof.Machine.execLd s
  | .lds => Sys2Proof.Machine.execLds s
  | .st => Sys2Proof.Machine.execSt s
  | .sync => Sys2Proof.Machine.execSync s
  | .rdreg => Sys2Proof.Machine.execRdreg s
  | .wrreg => Sys2Proof.Machine.execWrreg s
  | .invalidateLine a => Sys2Proof.Machine.execInvalidateLine a s
  | .cleanLine a => Sys2Proof.Machine.execCleanLine a s
  | .cleanAndInvalidateLine a => Sys2Proof.Machine.execCleanAndInvalidateLine a s
  | .invalidateAll => Sys2Proof.Machine.execInvalidateAll s
  | .cleanAll => Sys2Proof.Machine.execCleanAll s
  | .cleanAndInvalidateAll => Sys2Proof.Machine.execCleanAndInvalidateAll s
  | .wdog => Sys2Proof.Machine.execWdog s
  | .eventEntry => Sys2Proof.Machine.execEventEntry s
  | .timer k => Sys2Proof.Machine.execTimer k s
  | .seqHalt m haltBit => Sys2Proof.Machine.execSeqHalt m haltBit s
  | .seqStep m => Sys2Proof.Machine.execSeqStep m s
  | .seqEvtForce m n => Sys2Proof.Machine.execSeqEvtForce m n s
  | .lineFill => Sys2Proof.Machine.execLineFill s
  | .regionWrite m ofs v => Sys2Proof.Machine.execRegionWrite m ofs v s
  | .trainStart c => Sys2Proof.Machine.execTrainStart c s
  | .trainSweep c => Sys2Proof.Machine.execTrainSweep c s
  | .trainingDone c r => Sys2Proof.Machine.execTrainingDone c r s
  | .dramFillStart => Sys2Proof.Machine.execDramFillStart s
  | .dramFillDone => Sys2Proof.Machine.execDramFillDone s
  | .skinkDramStep r => Sys2Proof.Machine.execSkinkDramStep r s
  | .skinkSramStep macro_ word cls r => Sys2Proof.Machine.execSkinkSramStep macro_ word cls r s
  | .rowRemap c check bank row => Sys2Proof.Machine.execRowRemap c check bank row s
  | .rowClose c bank => Sys2Proof.Machine.execRowClose c bank s
  | .refresh c x => Sys2Proof.Machine.execRefresh c x s
  | .program m => Sys2Proof.Machine.execProgram m s
  | .erase m => Sys2Proof.Machine.execErase m s
  | .suspend m runUs => Sys2Proof.Machine.execSuspend m runUs s
  | .resume m => Sys2Proof.Machine.execResume m s
  | .flcDone verified => Sys2Proof.Machine.execFlcDone verified s
  | .sectorRemap spareBlank => Sys2Proof.Machine.execSectorRemap spareBlank s
  | .inc m c => Sys2Proof.Machine.execInc m c s
  | .configImageRead => Sys2Proof.Machine.execConfigImageRead s
  | .dload m => Sys2Proof.Machine.execDload m s
  | .configurationLock => Sys2Proof.Machine.execConfigurationLock s
  | .lockAcquire m => Sys2Proof.Machine.execLockAcquire m s
  | .lockRelease m => Sys2Proof.Machine.execLockRelease m s
  | .enc m v => Sys2Proof.Machine.execEnc m v s
  | .cphDec m v => Sys2Proof.Machine.execCphDec m v s
  | .tagcmp m v => Sys2Proof.Machine.execTagcmp m v s
  | .seal m => Sys2Proof.Machine.execSeal m s
  | .cphLoad m => Sys2Proof.Machine.execCphLoad m s
  | .provision m => Sys2Proof.Machine.execProvision m s
  | .clear m slot => Sys2Proof.Machine.execClear m slot s
  | .cphDone => Sys2Proof.Machine.execCphDone s
  | .sessionChallenge m => Sys2Proof.Machine.execSessionChallenge m s
  | .sessionResponse w3 => Sys2Proof.Machine.execSessionResponse w3 s
  | .sessionClose m => Sys2Proof.Machine.execSessionClose m s
  | .sessionTimeout => Sys2Proof.Machine.execSessionTimeout s
  | .lockoutEnd => Sys2Proof.Machine.execLockoutEnd s
  | .tamperAlarm n => Sys2Proof.Machine.execTamperAlarm n s
  | .bkpTemperatureSample t => Sys2Proof.Machine.execBkpTemperatureSample t s
  | .bkpLogClr m => Sys2Proof.Machine.execBkpLogClr m s
  | .ownershipChange ownLine partLine => Sys2Proof.Machine.execOwnershipChange ownLine partLine s
  | .supervisorRelease cause => Sys2Proof.Machine.execSupervisorRelease cause s
  | .claim => Sys2Proof.Machine.execClaim s
  | .heartbeatSend => Sys2Proof.Machine.execHeartbeatSend s
  | .heartbeatLost => Sys2Proof.Machine.execHeartbeatLost s
  | .mirrorRecord x => Sys2Proof.Machine.execMirrorRecord x s
  | .handoverTimeout => Sys2Proof.Machine.execHandoverTimeout s
  | .axlGrant r => Sys2Proof.Machine.execAxlGrant r s
  | .axlFrozen => Sys2Proof.Machine.execAxlFrozen s
  | .frameReceive bytes => Sys2Proof.Machine.execFrameReceive bytes s
  | .lbsRxVerdict m v => Sys2Proof.Machine.execLbsRxVerdict m v s
  | .lbsSend m v => Sys2Proof.Machine.execLbsSend m v s
  | .collision => Sys2Proof.Machine.execCollision s
  | .loadDone e => Sys2Proof.Machine.execLoadDone e s
  | .unloadDone e => Sys2Proof.Machine.execUnloadDone e s
  | .lbsAck e => Sys2Proof.Machine.execLbsAck e s
  | .lbsAbort e => Sys2Proof.Machine.execLbsAbort e s
  | .acktoExpiry => Sys2Proof.Machine.execAcktoExpiry s
  | .donetoExpiry => Sys2Proof.Machine.execDonetoExpiry s
  | .envReport => Sys2Proof.Machine.execEnvReport s
  | .beaconLoss => Sys2Proof.Machine.execBeaconLoss s
  | .powerOnReset => Sys2Proof.Machine.execPowerOnReset s
  | .startUp x => Sys2Proof.Machine.execStartUp x s
  | .startUpTimeout => Sys2Proof.Machine.execStartUpTimeout s
  | .pinReset lowNs => Sys2Proof.Machine.execPinReset lowNs s
  | .softReset m v => Sys2Proof.Machine.execSoftReset m v s
  | .thermalReset temp => Sys2Proof.Machine.execThermalReset temp s
  | .tapReset => Sys2Proof.Machine.execTapReset s
  | .dieTemperatureSample temp => Sys2Proof.Machine.execDieTemperatureSample temp s
  | .testConnectorAccess write ofs v => Sys2Proof.Machine.execTestConnectorAccess write ofs v s
  | .rcRead m ofs => Sys2Proof.Machine.execRcRead m ofs s
  | .loWordRead m ofs => Sys2Proof.Machine.execLoWordRead m ofs s
  | .registerWrite m ofs v => Sys2Proof.Machine.execRegisterWrite m ofs v s
  | .refselWrite v => Sys2Proof.Machine.execRefselWrite v s
  | .messageMemoryParity l => Sys2Proof.Machine.execMessageMemoryParity l s
  | .lddFaultClear c v => Sys2Proof.Machine.execLddFaultClear c v s
  | .spnCauseClear v => Sys2Proof.Machine.execSpnCauseClear v s
  | .sldPosWrite n v => Sys2Proof.Machine.execSldPosWrite n v s
  | .tamperLoopGood n => Sys2Proof.Machine.execTamperLoopGood n s
  | .beaconReturn => Sys2Proof.Machine.execBeaconReturn s

end Sys2Proof.Machine
end

