-- ==== Sys2Proof/WellFormed.lean ====
section
/-! DEFINITION. When a command is well formed: its evidence has the shape the spec gives it (so many converters, codewords, payload
bytes, readings). What the shape lets through, the meanings judge. -/

namespace Sys2Proof

/-- A list of `n` lists of `m` entries. -/
def lens {α : Type} (n m : Nat) (l : List (List α)) : Bool := decide (l.length = n) && l.all (fun r => decide (r.length = m))

/-- A flit carries 120 payload bytes (R293). -/
def wfFlit (payload : List Byte) : Bool := decide (payload.length = 120)

/-- A servo sample brings at least two conversions of four codes of 14 bits and four hold flags from each head (R88, R508). -/
def wfSample (x : SampleIn) : Bool :=
  decide (x.conv.length = 4) &&
  x.conv.all (fun l => decide (2 ≤ l.length) && l.all (fun q => decide (q.length = 4) && q.all (fun v => decide (-8192 ≤ v) && decide (v ≤ 8191)))) &&
  decide (x.at40 < 40) && lens 4 13 x.stale

/-- A codeword has 4,608 bytes (R42), and at most 48 iterations (R131). -/
def wfCw (c : CwIn) : Bool := decide (c.hard.length ≤ 48) && c.hard.all (fun h => decide (h.length = 4608))

/-- A slot the scan of R53 read: any word. -/
def wfScan : ScanSlot → Bool
  | .blank | .noSync | .syncOnly | .header _ => true

/-- The verify spot reads channel bits 508 to 300,227 (R172). -/
def wfRead (read : List Bool) : Bool := decide (read.length = 299720)

/-- A management block's verify reads as any other. -/
def wfMgmtVerify (v : MgmtVerify) : Bool := wfRead v.read

/-- A layer has 704 management slots (R48). -/
def wfMgmt (b : MgmtBlock) : Bool := decide (b.slot < 704)

/-- A helper's figures fit their registers (R381). -/
def wfTrain : TrainResult → Bool
  | .start _ _ => true
  | .sweep a z n => decide (a < 2 ^ 32) && decide (z < 2 ^ 32) && decide (n < 2 ^ 32)

/-- The well-formed commands. DEDUCED (log entry 1). -/
def Instr.wf : Instr → Bool
  | .frameMarkGood _ ofs16 run16 => decide (-2 ^ 15 ≤ ofs16) && decide (ofs16 < 2 ^ 15) && decide (run16 < 2 ^ 16)
  | .frameZero _ monitor => decide (monitor < 2 ^ 16)
  | .servoSample x => wfSample x
  | .sliceShadowEnd _ mad => decide (mad < 2 ^ 14)
  | .agcStep _ p2p => decide (p2p ≤ 256)
  | .syncDecision _ cands _ => cands.all (fun c => decide (c.dist ≤ 64))
  | .headerDecision _ cells => decide (cells.length = 64)
  | .captureEnd _ x => decide (x.llr.length = 4608 * 65) && x.llr.all (fun v => decide (v.natAbs ≤ 31)) && x.lms.all (fun b => decide (b.x.length = 15))
  | .defectRegion _ first env => decide (first + env.length ≤ 300224)
  | .decodeEnd _ cws => decide (cws.length = 8) && cws.all wfCw
  | .rebuildScan _ slots => slots.all wfScan
  | .verifyDecision _ mark body => decide (mark.length = 72) && decide (body.length = 299648)
  | .opc _ totals => lens 4 8 totals && totals.all (fun l => l.all (fun r => r.all wfRead))
  | .recordEvent verify => verify.all wfMgmtVerify
  | .spnFault _ trace => decide (trace.length = 32)
  | .breakFlit _ _ payload => wfFlit payload
  | .flitForward _ _ payload => wfFlit payload
  | .creq _ _ payload => wfFlit payload
  | .enum _ _ payload => wfFlit payload
  | .dmaIssue _ _ len _ => decide (0 < len) && decide (len ≤ 32768)
  | .loadDisc blocks => blocks.all wfMgmt
  | .readMgmt blocks => blocks.all wfMgmt
  | .calibrateRef _ readings _ => decide (readings.length = 64)
  | .calibrateInofs means residues => decide (means.length = 52) && decide (residues.length = 52)
  | .calibrateShunt ofs gain residues => decide (ofs.length = 3) && decide (gain.length = 3) && decide (residues.length = 3)
  | .calibrateLdcur trims ires => decide (trims.length = 20) && decide (ires.length = 20)
  | .calibrateLdpwr fits => decide (fits.length = 20)
  | .calibrateSkew syncofs vofs spr => decide (syncofs.length = 16) && decide (vofs.length = 16) && decide (spr.length = 16)
  | .calibrateHofs means spread => decide (means.length = 4) && decide (spread.length = 4)
  | .calibrateSapos jitter q => lens 17 4 jitter && decide (q.length = 4)
  | .calibrateEye offs jit => decide (offs.length = 16) && offs.all (fun o => o.isEmpty || decide (o.length = 65)) && decide (jit.length = 16)
  | .calibrateLoop rms => decide (rms.length = 19)
  | .trainingDone _ r => wfTrain r
  | .mirrorRecord x => wfFlit x.payload
  | .startUp x => decide (x.stepUs.length = 14)
  | .frameMarkMissing .. | .headUnlocked .. | .angleInvalid | .addressWord .. | .holdEnd .. | .wgateOpen .. | .wgateClose ..
  | .lpower .. | .capture .. | .srvTarget .. | .sldStart .. | .seqEvent .. | .scrubTick .. | .zoneSwitch .. | .angEvtArm
  | .angEvtDisarm | .angEvtDisarmAll | .encoderTransition .. | .indexEdge .. | .sliceSwap .. | .pllEnable .. | .slotStart ..
  | .detMode .. | .detStop .. | .laneTake .. | .collectorDrain | .knownAnswerTest | .zoneLayerReady .. | .replacementPass ..
  | .lddFault .. | .enableConditionLoss .. | .vldMonitor .. | .hfIntervalEnd .. | .spareShadowMove
  | .commit .. | .srvPreset .. | .srvMode .. | .acquire .. | .layer .. | .jump .. | .seek .. | .release .. | .lsvStop ..
  | .jumpLaunch .. | .kickEnd .. | .trackingKickEnd .. | .fsettleEnd .. | .tpullTimeout .. | .singleJumpTimeout ..
  | .seekSettleEnd .. | .focusLost .. | .trackLost .. | .spin | .spnStop | .brake | .coast | .park | .rotate | .alignEnd
  | .handoff | .handoffTimeout | .atspeed | .standstill | .stopHoldEnd | .vwatchOn .. | .vwatchOff .. | .stageEnableOn ..
  | .stageEnableOff .. | .move .. | .sldStop .. | .hold .. | .off .. | .vel .. | .trim .. | .home .. | .moveEnd ..
  | .stall .. | .holdCurrent .. | .portTraining .. | .laneTrainingTimeout .. | .portUp .. | .spareLaneMove ..
  | .laneCondemn .. | .remapSwitch .. | .badFlit .. | .linkAck .. | .linkNak .. | .linkInit .. | .linkCredit ..
  | .linkRemap .. | .linkRemapack .. | .linkRetrain .. | .ackSend .. | .replayTimeout .. | .portDown .. | .mcpl ..
  | .flack .. | .mrdTimeout | .windowWrite .. | .drainComplete | .go .. | .restart .. | .readExtent | .writeExtent
  | .writeExtentSpare | .verifyExtent | .unloadDisc | .closeSession | .spinUp | .spinDownStop | .spinDownBrake | .spinDownPark
  | .scanSpare | .catalogRead | .catalogEvict | .catalogEvictAll | .pairHandover | .patchLoad .. | .nop
  | .taskSuccess | .freezeSettled | .next | .br | .call | .ret | .dispatch | .loop | .mode | .wait | .waitWake | .eret
  | .halt | .xopNop | .mov | .add | .sub | .xAnd | .xOr | .xXor | .shl | .shr | .sar | .mul | .cmp | .bfx | .bfi | .ld
  | .lds | .st | .sync | .rdreg | .wrreg | .invalidateLine .. | .cleanLine .. | .cleanAndInvalidateLine .. | .invalidateAll
  | .cleanAll | .cleanAndInvalidateAll | .wdog | .eventEntry | .timer .. | .seqHalt .. | .seqStep .. | .seqEvtForce ..
  | .lineFill | .regionWrite .. | .trainStart .. | .trainSweep .. | .dramFillStart | .dramFillDone | .skinkDramStep ..
  | .skinkSramStep .. | .rowRemap .. | .rowClose .. | .refresh .. | .program .. | .erase .. | .suspend .. | .resume ..
  | .flcDone .. | .sectorRemap .. | .inc .. | .configImageRead | .dload .. | .configurationLock | .lockAcquire ..
  | .lockRelease .. | .enc .. | .cphDec .. | .tagcmp .. | .seal .. | .cphLoad .. | .provision .. | .clear .. | .cphDone
  | .sessionChallenge .. | .sessionResponse .. | .sessionClose .. | .sessionTimeout | .lockoutEnd | .tamperAlarm ..
  | .bkpTemperatureSample .. | .bkpLogClr .. | .ownershipChange .. | .supervisorRelease .. | .claim | .heartbeatSend
  | .heartbeatLost | .handoverTimeout | .axlGrant .. | .axlFrozen | .frameReceive .. | .lbsRxVerdict .. | .lbsSend ..
  | .collision | .loadDone .. | .unloadDone .. | .lbsAck .. | .lbsAbort .. | .acktoExpiry | .donetoExpiry | .envReport
  | .beaconLoss | .powerOnReset | .startUpTimeout | .pinReset .. | .softReset .. | .thermalReset .. | .tapReset
  | .dieTemperatureSample .. | .testConnectorAccess .. | .rcRead .. | .loWordRead .. | .registerWrite .. | .refselWrite ..
  | .messageMemoryParity .. | .lddFaultClear .. | .spnCauseClear .. | .sldPosWrite .. | .tamperLoopGood .. | .beaconReturn => true

end Sys2Proof
end

