-- ==== Sys2Proof/Safety.lean ====
section
/-! DEFINITION. What the statements speak in: what a command leaves alone, and the properties of a state that every command
keeps. -/

namespace Sys2Proof.Machine

/-- The command `c` runs in state `s` to the next state `t`. -/
abbrev Gives (c : Instr) (s t : State) : Prop := Machine.exec c s = .next t

/-! ## Frames -/

/-- Only registers changed from `s` to `t`, and of those only the ones whose offsets are listed. -/
def OnlyRegs (as : List Nat) (s t : State) : Prop := t = { s with regs := t.regs } ∧ ∀ a, a ∉ as → t.reg a = s.reg a

/-- Every register but those listed holds what it held. -/
def RegsBut (as : List Nat) (s t : State) : Prop := ∀ a, a ∉ as → t.reg a = s.reg a

/-- Every byte of DRAM reads as before. -/
def DramKept (s t : State) : Prop := ∀ a, t.dramByte a = s.dramByte a

/-- Every byte of DRAM outside the `n` bytes from `a` reads as before. -/
def DramBut (a n : Nat) (s t : State) : Prop := ∀ x, x < a ∨ a + n ≤ x → t.dramByte x = s.dramByte x

/-- The count in register `a` rose by one, or stands at its largest value (R543). -/
def Counts (s t : State) (a : Nat) : Prop := t.reg a = BitVec.ofNat 32 (min (2 ^ 32 - 1) ((s.reg a).toNat + 1))

/-- The registers of each port that sending a flit moves, and of each counter that counting moves. -/
def sendRegs (p : Fin 3) : List Nat :=
  [Reg.HLK_P_CRED p, Reg.HLK_P_STAT p, Reg.HLK_P_TX_CNT_LO p, Reg.HLK_P_TX_CNT_LO p + 4]
def counterRegs (k : Nat) : List Nat := [Reg.PMC_CNT_LO k, Reg.PMC_CNT_HI k]

/-- The registers that telling another agent of an event moves: those of the performance counters, of the event sequence and of the
ports (R301, R330, R464, R511). -/
def noteRegs : List Nat :=
  [Reg.TSK_EVT_SEQ, Reg.PMC_OVF, Reg.MIR_TX_SEQ, Reg.MIR_TX_CNT] ++ sendRegs 0 ++ sendRegs 1 ++ sendRegs 2
    ++ counterRegs 0 ++ counterRegs 1 ++ counterRegs 2 ++ counterRegs 3 ++ counterRegs 4 ++ counterRegs 5 ++ counterRegs 6
    ++ counterRegs 7

/-- Only the registers listed changed from `s` to `t`, and what telling of an event moves: its registers and the ports. -/
def Noted (as : List Nat) (s t : State) : Prop :=
  t = { s with regs := t.regs, hlk := t.hlk } ∧ ∀ a, a ∉ as → a ∉ noteRegs → t.reg a = s.reg a

/-- The registers that an access to DRAM moves beside those (R398): the counts of each channel and of all reads and writes. -/
def accessRegs : List Nat :=
  [Reg.DMC_WR_CNT_LO, Reg.DMC_WR_CNT_LO + 4, Reg.DMC_RD_CNT_LO, Reg.DMC_RD_CNT_LO + 4] ++
  (List.range 4).flatMap (fun c => [Reg.DMC_CH_HIT_CNT c, Reg.DMC_CH_ACT_CNT c, Reg.DMC_PG_KEEP_CNT c, Reg.DMC_PG_CLOSE_CNT c])

/-- The registers that raising event `n` moves (R358). -/
def eventRegs (n : Nat) : List Nat := [Reg.SEQ_EVT_PEND (n / 32), Reg.SEQ_EVT_MERGE_CNT]

/-! ## The scheduler of ANG -/

/-- Entry `i` with action `n` fires at `now` (R62, R67, R68): no hold, a valid angle, the entry armed and its target reached. -/
structure State.Fires (s : State) (i : Entry) (now : Angle) (n : Nat) : Prop where
  may    : s.mayFire = true
  armed  : (s.ang.entries[i]).armed = true
  action : (s.ang.entries[i]).action.toNat = n
  due    : (s.ang.entries[i]).due (s.flow now).ang.now = true

/-- The entry has fired: the angle has flowed to `now`, and the entry is disarmed and marked fired (R62, R68). -/
def State.fired (s : State) (i : Entry) (now : Angle) : State :=
  (s.flow now).modEntry i (fun e => { e with armed := false, fired := true, late := false })

/-! ## Sending on a port -/

/-- Port `p` sends at once (R301, R302): it is up, no lane swap runs, nothing waits, fewer than 128 flits are unacknowledged, and
credits of both classes are at hand. -/
structure State.PortFree (s : State) (p : Fin 3) : Prop where
  up    : s.portUp p = true
  swap  : (s.port p).swap = none
  qc    : (s.port p).qc = []
  qd    : (s.port p).qd = []
  unack : (s.port p).unack.length < 128
  cc    : 0 < s.rd (F.HLK_P_CRED_C p)
  cd    : 0 < s.rd (F.HLK_P_CRED_D p)

/-- The sequenced flit `f` went on the line of port `p` with the port's next sequence number, and stays in the replay buffer. -/
def State.Sent (s t : State) (p : Fin 3) (f : Flit) : Prop :=
  let n := (s.port p).txSeq
  (t.port p).line = (s.port p).line ++ [(n, f.sealed n)] ∧ (t.port p).unack = (s.port p).unack ++ [(n, f.sealed n)] ∧
    (t.port p).txSeq = (n + 1) % 256

/-- The registers that sending and receiving on port `p` move. -/
def portRegs (p : Fin 3) : List Nat :=
  [Reg.HLK_P_CRED p, Reg.HLK_P_STAT p, Reg.HLK_P_TX_CNT_LO p, Reg.HLK_P_TX_CNT_LO p + 4,
   Reg.HLK_P_RX_CNT_LO p, Reg.HLK_P_RX_CNT_LO p + 4]

/-! ## SEQ -/

/-- SEQ runs the word `m` at its program counter (R342 to R344): the word is legal and free of an uncorrectable error, no breakpoint
is enabled, no watchdog waits, and no drain holds the register space. -/
structure State.Runs (s : State) (m : Micro) : Prop where
  runs  : s.seqRuns = true
  word  : microOf (s.csWord s.pc) = m
  good  : s.seq.csBad.contains s.pc.toNat = false
  legal : m.illegal = false
  brk   : s.rd F.SEQ_DBG_CTRL_EN = 0
  wdog  : s.seq.wdog = false
  drain : s.hlk.drain = none
  soft  : s.pwr.soft = false

/-- Neither a delay slot, nor a mode shadow, nor a loop is on (R347, R350, R353). -/
structure State.Straight (s : State) : Prop where
  slot   : s.seq.branch = none
  shadow : s.seq.shadow = none
  loops  : s.seq.loops = []

/-- The registers that every completed instruction moves: the program counter and the count. -/
def seqRegs : List Nat := [Reg.SEQ_PC, Reg.SEQ_INSTR_CNT_LO, Reg.SEQ_INSTR_CNT_LO + 4]

/-! ## Canonical form -/

/-- Every memory of the module is in its one canonical form: keys strictly rising, and nothing listed that an unlisted key reads as.
Equal contents are then equal data. -/
structure State.Canonical (s : State) : Prop where
  regs  : Sparse.wf resetWord s.regs = true
  latch : Sparse.wf (fun _ => (0 : Word)) s.latch = true
  dram  : Sparse.wf (fun _ => (0 : Byte)) s.dram = true
  sram  : Sparse.wf (fun _ => (0 : Byte)) s.seq.sram = true
  cs    : Sparse.wf (fun _ => BitVec.allOnes 128) s.seq.cs = true
  buf   : Sparse.wf (fun _ => (0 : Byte)) s.cph.buf = true
  win   : Sparse.wf (fun _ => (0 : Byte)) s.lbs.win = true
  flash : Sparse.wf (fun _ => erasedWord) s.flc.words = true
  progs : Sparse.wf (fun _ => (0 : Nat)) s.flc.progs = true

/-! ## The fuses -/

/-- The configuration key is fused as `key`, and no provision of another is on its way (R431, R444). -/
structure State.Fused (key : List Byte) (s : State) : Prop where
  key  : s.cph.cfgKey = some key
  idle : ∀ k id, s.cph.op ≠ some (.store 0x12 k id)

/-! ## ANG and the front end -/

/-- The entry that a write of `ANG_EVT_CMD` acts on. -/
def selectedEntry (s : State) : Entry := Fin.ofNat 64 (s.reg Reg.ANG_EVT_SEL).toNat

/-- Entry `j` is a SEQ_EVENT entry armed for the same target as entry `i`: the two fire together (R70). -/
def State.firesWith (s : State) (i j : Entry) : Bool :=
  (s.ang.entries[j]).armed && decide ((s.ang.entries[j]).action.toNat = 7) && decide ((s.ang.entries[j]).target = (s.ang.entries[i]).target)

/-- The deferred blocks of a head a crossing older (R152). -/
def State.aged (s : State) (h : Head) : State :=
  { s with rcv := { s.rcv with blks := s.rcv.blks.map (fun (k : RBlk) =>
    if k.head = h ∧ k.phase ≠ RPhase.reading then { k with age := k.age + 1 } else k) } }

/-- The registers that a head's frame 0 moves. -/
def frameZeroRegs (h : Head) : List Nat :=
  [Reg.ANG_HPOS h, Reg.ACQ_PLL_STAT h, Reg.ACQ_HZONE h, Reg.ACQ_SKEW_STAT, Reg.ACQ_STAT, Reg.LDD_STAT (sChan h),
   Reg.RCV_H_RP_CNT h, Reg.RCV_H_STAT h] ++
  (List.range 4).flatMap (fun d =>
    [Reg.ACQ_PHOFS_D (headBeam h d), Reg.ACQ_PHOFS_V (headBeam h d), Reg.ACQ_VDLY (headBeam h d)]) ++
  (List.finRange 5).map (fun e => Reg.LDD_SCALE (headChan h e))

/-! ## Write and read path -/

/-- A WGATE_OPEN entry of beam `b` names the home slot of the planned block `w`, outside a replacement pass, and no DET mode waits (R108,
R169). -/
structure State.GateOn (s : State) (i : Entry) (b : Beam) (w : WBlk) : Prop where
  beam : (s.ang.entries[i]).arg.toNat = b.val
  mode : s.rd (F.DET_CTRL_MODE b) = s.rd (F.DET_STAT_MODE b)
  pass : s.wrp.pass[beamHead b] = none
  plan : (s.wrp.beams[b]).plan.find? (fun x => decide (lbaSlot x.lba =
    slotNamed (x.zl % 20) (s.ang.entries[i]).target.toNat (s.ang.entries[i]).frac.toNat)) = some w

/-- What was read of a written block mismatches in fewer places than each threshold of R173 allows. -/
structure State.ReadsGood (s : State) (b : Beam) (w : WBlk) (read : List Bool) : Prop where
  hdr   : ((mismatches w.bits read).filter (fun n => n < 704)).length < s.rd (F.VFY_B_THR_HDR b)
  total : (mismatches w.bits read).length < s.rd (F.VFY_B_THR_TOTAL b)
  cw    : ∀ c, c < 8 → misCount (mismatches w.bits read) c < s.rd (F.VFY_B_THR_CW b)

/-- The registers of verify decisions (R187). -/
def verifyRegs : List Nat :=
  (List.finRange 16).flatMap (fun b => [Reg.VFY_B_LAST b, Reg.VFY_B_LBA b, Reg.VFY_B_PASS_CNT b, Reg.VFY_B_FAIL_CNT b, Reg.VFY_B_MIS_LO b,
    Reg.VFY_B_MIS_LO b + 4])

/-- An envelope of `e` lies below the drop-out limit of the profile that the slot uses (R120, R123). -/
def State.DipsBelow (s : State) (b : Beam) (c : Capture) (e : Nat) : Prop :=
  100 * e < s.rd (F.DET_DEF_PROFILE_DO_THR c.elvl) * (s.reg (Reg.DET_ENV b)).toNat

/-- An envelope of `e` lies inside both limits, of which 0 is none (R120, R123). -/
def State.WithinLimits (s : State) (b : Beam) (c : Capture) (e : Nat) : Prop :=
  s.rd (F.DET_DEF_PROFILE_DO_THR c.elvl) * (s.reg (Reg.DET_ENV b)).toNat ≤ 100 * e ∧
    (s.rd (F.DET_DEF_PROFILE_DI_THR c.elvl) = 0 ∨ 100 * e ≤ s.rd (F.DET_DEF_PROFILE_DI_THR c.elvl) * (s.reg (Reg.DET_ENV b)).toNat)

/-- The registers that the end of a good capture moves. -/
def captureRegs (b : Beam) : List Nat :=
  [Reg.DET_EQ_MSE b, Reg.DET_ENV b, Reg.DET_RUNLONG_CNT b, Reg.DET_FLAGAMB_CNT b, Reg.DET_ERAS_CNT b, Reg.DET_LAST_RES b,
   Reg.DET_BLK_CNT b] ++ (List.range 8).map (fun j => Reg.DET_EQ_TAP b j)

/-- The codewords of a block that a decode still has to run, and whether each of them converges on the evidence given (R128). -/
def decodesAll (s : State) (l : DecLane) (e : DecBlk) (cws : List CwIn) : Bool :=
  ((List.range 8).filter (fun c => !e.conv.getLsbD c)).all (fun c =>
    (cwRun (s.rd F.DEC_ITER_CFG_STALL) (s.dec.lanes[l]).limit 0 none (((cws[c]?.map (·.hard)).getD []).map unsatOf)).2)

/-! ## Loops and motors -/

/-- No write gate of the head is open, and none of its beams captures: leaving FOLLOW ends nothing (R230). -/
def State.quiet (s : State) (h : Head) : Prop :=
  ∀ d : Fin 4, (s.wrp.beams[headBeam h d]).gate = none ∧ (s.det[headBeam h d]).run = none

/-- The registers of SPN that its commands and ends move, with those of its event. -/
def spnRegs : List Nat := [Reg.SPN_STAT, Reg.SPN_TARGET, Reg.SPN_START_CNT, Reg.SRV_S_CTRL 0] ++ eventRegs Ev.spnDone

/-- Channel `n` runs the command `op` from where it stood (R271, R272). -/
def State.Started (s t : State) (n : Stepper) (op : Nat) : Prop :=
  t.rd (F.SLD_STAT_MODE n) = op ∧ t.flag (F.SLD_STAT_BUSY n) = true ∧ t.flag (F.SLD_STAT_ENERG n) = true ∧
    t.flag (F.SLD_STAT_ARMED n) = false ∧ t.flag (F.SLD_STAT_STOPPED n) = false ∧ (t.sld[n]).from_ = s.reg (Reg.SLD_POS n) ∧
    (t.sld[n]).owner = none ∧ t.reg (Reg.SLD_POS n) = s.reg (Reg.SLD_POS n)

/-- Channel `n` has ended its command without error (R271). -/
def State.Ended (t : State) (n : Stepper) : Prop :=
  t.flag (F.SLD_STAT_BUSY n) = false ∧ t.flag (F.SLD_STAT_DONE n) = true ∧ t.rd (F.SLD_STAT_ERRCLS n) = 0 ∧
    t.evPending (Ev.sldDone n) = true

/-- The registers of a stepper channel's command, with those of its event. -/
def sldRegs (n : Stepper) : List Nat :=
  [Reg.SLD_CMD n, Reg.SLD_STAT n, Reg.SLD_G_MOVE_CNT (sldGroup n)] ++ eventRegs (Ev.sldDone n)

/-! ## The chain -/

/-- The registers that a retransmission or a LINK flit of port `p` moves. -/
def linkRegs (p : Fin 3) : List Nat :=
  [Reg.HLK_P_STAT p, Reg.HLK_P_CRED p, Reg.HLK_P_TX_CNT_LO p, Reg.HLK_P_TX_CNT_LO p + 4, Reg.HLK_P_RX_CNT_LO p, Reg.HLK_P_RX_CNT_LO p + 4]

/-- A flit with header `h` comes next in order at port `p`, which is up, and its HCRC holds (R295, R302). -/
def State.NextIn (s : State) (p : Fin 3) (h : Dword) : Prop :=
  s.portUp p = true ∧ hcrcGood h = true ∧ hSEQ h = (s.port p).rxSeq

/-- A read that was not answered in time (R303, R309). -/
def Mrd.late (m : Mrd) : Mrd := { m with live := false, held := false, timed := true }

/-- A flit of the replay buffer, sent once more (R303). -/
def sentAgain (u : Nat × Flit) : Nat × Flit := (u.1, { u.2 with resent := u.2.resent + 1 })

/-- A LINK flit of these bytes. -/
def linkFlit (bytes : List Byte) : Nat × Flit := (0, { typ := 1, bytes := bytes })

/-- Nothing waits behind a drain, and no software reset has been ordered: what follows an access changes nothing. -/
def State.noneWaits (s : State) : Prop := s.hlk.drain = none ∧ s.hlk.waiting = [] ∧ s.pwr.soft = false

/-- An ENUM request that goes on with this count, base and first module that does not match (R298). -/
def enumOn (count base mm : Nat) : Flit :=
  let bytes := beBytes 1 1 ++ beBytes 1 0 ++ beBytes 1 count ++ beBytes 1 base ++ beBytes 1 0 ++ beBytes 1 mm
  { typ := 9, bytes := bytes }

/-- The BREAK that names the far end of port `p` after failed training, at a cycle count (R299). -/
def State.breakOf (s : State) (p : Fin 3) (cycles : Nat) : Flit :=
  let bytes := beBytes 1 p.val ++ beBytes 1 (s.hop + (s.flag F.HLK_ID_VALID).toNat * 128) ++ beBytes 1 p.val ++ beBytes 1 1
    ++ beBytes 8 cycles
  { typ := 0xC, bytes := bytes }

/-! ## Tasks -/

/-- The descriptor that a GO takes. -/
def State.descOf (s : State) : List Word := (List.range 16).map (fun k => s.reg (Reg.TSK_DESC k))

/-- `s` with the descriptor that a GO takes. -/
def State.withDesc (s : State) : State := { s with tsk := { s.tsk with desc := s.descOf } }

/-- The task's scatter list begins at `a`, a window admits its first 256 entries, and the port they are read by sends at once. -/
def State.ListOpens (s : State) (a : Nat) : Prop :=
  s.descW 4 * 2 ^ 32 + s.descW 5 = a ∧ a ≠ 0 ∧ s.dataLen ≠ 0 ∧ s.winOk false a 4096 = true ∧ s.PortFree (s.routePort 0)

/-- The first 256 entries of the list at `a` have been asked for. -/
def State.Listed (s t : State) (a : Nat) : Prop :=
  t.hlk.mrds = s.hlk.mrds ++ [{ port := portOf (s.routePort 0), addr := a, len := 4096, lba := 0, live := true, sg := true }] ∧
  s.Sent t (s.routePort 0) { typ := 4, hb := true, src := s.hop, bytes := beBytes 8 a ++ beBytes 4 4096 } ∧
  t.pair Reg.TSK_SG_ADDR_LO = a ∧ t.tsk.sgNext = some a

/-- The registers by which an extent task sets what its heads read for. -/
def modeRegs : List Nat :=
  [Reg.DET_GCTRL, Reg.DEC_CTRL, Reg.VFY_CTRL] ++ (List.finRange 16).map (fun b => Reg.DET_CTRL b)

/-- DET is enabled, and the beams of every head the extent has blocks for are commanded to mode `m` (R16, R108). -/
def State.ModesSet (s t : State) (m : Nat) : Prop :=
  t.flag F.DET_GCTRL_EN = true ∧ t.flag (if m = 2 then F.VFY_CTRL_EN else F.DEC_CTRL_EN) = true ∧
    ∀ h ∈ s.extentHeads, ∀ d : Fin 4, t.rd (F.DET_CTRL_MODE (headBeam h d)) = m

/-- The registers that a list's first fetch moves. -/
def listRegs (s : State) : List Nat := [Reg.TSK_SG_ADDR_LO, Reg.TSK_SG_ADDR_LO + 4] ++ linkRegs (s.routePort 0)

/-- The next `n` bytes of the task's data go to host address `a`, which a window admits, by a port that is not up, where they wait. -/
def State.Takes (s : State) (a n : Nat) : Prop :=
  (∃ r, bufferAt s.tsk.sgl s.tsk.moved = some r ∧ r.1 = a ∧ n ≤ r.2) ∧ n ≤ 32768 ∧ 0 < n ∧ s.winOk true a n = true ∧
  s.portUp (s.routePort 0) = false

/-! ## Calibration -/

/-- A calibration has ended: no longer busy, its work done. -/
def State.Calibrated (s t : State) : Prop :=
  t.flag F.CAL_STAT_BUSY = false ∧ t.tsk.work = false ∧ t = { s with regs := t.regs, tsk := t.tsk }

/-- A value clamped to a range. -/
def clampTo (lo hi v : Int) : Int := max lo (min hi v)

/-! ## SEQ, at work -/

/-- The word `m` at the program counter has run, with the result `v` in its destination, and SEQ goes on with the next word. -/
def State.Ran (s t : State) (m : Micro) (v : Dword) : Prop :=
  (∀ i, t.g i = (if i = m.dst ∧ i ≠ 0 then v else s.g i)) ∧ t.pc = s.pc + 1 ∧
  t.pair Reg.SEQ_INSTR_CNT_LO = (s.pair Reg.SEQ_INSTR_CNT_LO + 1) % 2 ^ 64 ∧
  (m.setf = true → t.seq.z = (v == 0) ∧ t.seq.n = v.msb) ∧
  (m.setf = false → t.seq.z = s.seq.z ∧ t.seq.n = s.seq.n ∧ t.seq.c = s.seq.c ∧ t.seq.v = s.seq.v) ∧
  t = { s with regs := t.regs, free := t.free, seq := { s.seq with g := t.seq.g, z := t.seq.z, n := t.seq.n, c := t.seq.c, v := t.seq.v, afterEret := false } } ∧
  RegsBut seqRegs s t

/-- The unit of class `k` that a word of a macro belongs to: an open value of the spec (log entry 39). -/
def unitOf (k : Fin 20) (m : Fin 1024) (w : Fin 65536) : Nat := Config.sramUnit k m w % sramUnits k

/-- SEQ is at another program counter, with its own structure as given; nothing else changed but the count of instructions. -/
def State.SeqTo (s t : State) (pc : BitVec 14) (q : Seq) : Prop :=
  t.pc = pc ∧ t.pair Reg.SEQ_INSTR_CNT_LO = (s.pair Reg.SEQ_INSTR_CNT_LO + 1) % 2 ^ 64 ∧
  t = { s with regs := t.regs, seq := { q with afterEret := false } }

/-- A branch word has run: its branch waits for the slot, which comes next, and nothing of the word has committed (R347). -/
def State.Branches (s t : State) (b : Branch) : Prop :=
  t.pc = s.pc + 1 ∧ t = { s with regs := t.regs, seq := { s.seq with branch := some b, afterEret := false } } ∧ RegsBut [Reg.SEQ_PC] s t

/-- SEQ has taken exception `code` at its program counter (R354, R355). -/
def State.Excepted (s t : State) (code : Nat) : Prop :=
  t.pc = BitVec.ofNat 14 (16 * code) ∧ t.reg Reg.SEQ_EPC = s.pc.setWidth 32 ∧
  (t.reg Reg.SEQ_EMODE).setWidth 4 = s.modeBits ∧ t.modeBits = (s.modeBits &&& 0xB ||| 2) ∧ t.flag F.SEQ_MODE_XM = true ∧
  (t.reg Reg.SEQ_ECAUSE).toNat / 2 ^ 20 % 2 ^ 8 = code ∧ Counts s t (Reg.SEQ_XC_CNT code)

/-! ## Memory -/

/-- The DRAM walker may step (R389, R390, R393): DRAM is filled, the walker is on, the line's channel is not in training. -/
def State.SkinkMay (s : State) : Prop :=
  s.flag F.MIC_FILL_STAT_DDONE = true ∧ s.flag F.MIC_SKINK_CFG_EN = true ∧
    s.flag (F.DMC_TRN_CTRL_TRAIN (s.dramCh (s.pair Reg.MIC_SKINK_POS_LO))) = false

/-- The DRAM walker has stepped to the next line (R390, R391). -/
def State.SkinkMoved (s t : State) : Prop :=
  t.pair Reg.MIC_SKINK_POS_LO = s.pair Reg.MIC_SKINK_POS_LO + 64 ∧
    (t.reg Reg.MIC_SKINK_DEBT).toNat = (s.reg Reg.MIC_SKINK_DEBT).toNat - 1 ∧ DramKept s t

/-- The registers that a step of the DRAM walker moves. -/
def skinkRegs : List Nat := [Reg.MIC_SKINK_POS_LO, Reg.MIC_SKINK_POS_LO + 4, Reg.MIC_SKINK_DEBT]

/-- The SRAM walker may step (R389, R393): SRAM is filled and the walker is on. -/
def State.SramSkinkMay (s : State) : Prop := s.flag F.MIC_FILL_STAT_SDONE = true ∧ s.flag F.MIC_SKINK_CFG_SEN = true

/-! ## Flash and configuration -/

/-- The image stands to be read at start (R420, R529): reset has ended, start-up has come to its step, no unit of the flash is undefined,
and CFG reads `img`. -/
def State.ImageDue (s : State) (img : List Byte) : Prop :=
  s.pwr.held = false ∧ s.rd F.PWR_START_STEP = 7 ∧ s.flag F.PWR_START_STOPPED = false ∧ s.flc.undef = [] ∧ s.readImage.1 = img

/-! ## CPH -/

/-- Master `m` holds the lock of CPH, and no operation runs (R434). -/
def State.CphReady (s : State) (m : Master) : Prop := s.cphOwner m = true ∧ s.flag F.CPH_STAT_BUSY = false

/-- The same, for a master that may give every command: an operator only provisions (R436). -/
def State.CphMay (s : State) (m : Master) : Prop := s.CphReady m ∧ m ≠ .hostOp

/-- The destination takes a block (R437, R439): the sealed buffer, while it is not released and has room; nothing is written to 3. -/
def State.DstTakes (s : State) (dst : Nat) : Prop :=
  dst ≠ 3 ∧ (dst = 2 → s.flag F.CPH_STAT_RELEASED = false ∧ (s.reg Reg.CPH_SB_PTR).toNat + 16 ≤ 16384)

/-- What a block operation writes: the AES result, XORed with `CPH_DATA` when XD is 1 (R437). -/
def State.blockOut (s : State) (v : Word) (y : List Nat) : List Byte :=
  toBytes (if F.CPH_CMD_XD.of v = 1 then Aes.xorL y (toNats (s.regBytes (Reg.CPH_DATA 0) 4)) else y)

/-- From `s`, operation `o` of CPH has started, and nothing else happened (R437). -/
def State.OpStarted (t s : State) (o : CphOp) : Prop :=
  t.cph = { s.cph with op := some o } ∧ t.flag F.CPH_STAT_BUSY = true ∧ t = { s with regs := t.regs, cph := t.cph } ∧
    RegsBut [Reg.CPH_STAT] s t

/-- The registers that the end of an operation of CPH moves, and the end itself (R437). -/
def opRegs : List Nat := [Reg.CPH_STAT, Reg.CPH_OP_CNT] ++ eventRegs Ev.cphDone

/-- The operation of CPH has ended: BUSY 0, DONE set, counted, its event raised (R437, R454). -/
def State.OpEnded (s t : State) : Prop :=
  t.flag F.CPH_STAT_BUSY = false ∧ t.flag F.CPH_STAT_DONE = true ∧ Counts s t Reg.CPH_OP_CNT ∧ t.evPending Ev.cphDone = true

/-- The buffer is sealed (R441). -/
def State.BufferSealed (t : State) : Prop :=
  t.cph.buf = [] ∧ t.cph.tag = none ∧ t.flag F.CPH_STAT_RELEASED = false ∧ t.flag F.CPH_STAT_TAGOK = false ∧ t.reg Reg.CPH_SB_PTR = 0

/-! ## The pair -/

/-- The payload of a keep-alive (R464): KIND, a zero byte, the sample count, STATUS, and zeros. -/
def State.heartbeatBytes (s : State) : List Byte :=
  beBytes 1 0x20 ++ [0] ++ beBytes 4 (s.reg Reg.SRV_SAMPLE_CNT_LO).toNat ++ beBytes 2 s.mirStatus ++ List.replicate 112 0

/-- The angle gives the speed estimate: the revolution rate is selected and the angle is valid (R253). -/
def State.byAngle (s : State) : Bool := s.flag F.SPN_EST_CFG_ANGSPD && s.angValid

/-- The speed estimate that a sample brings, and whether it is valid: above 240 rpm (R253). -/
def State.speedOf (s : State) (x : SampleIn) : Word := if s.byAngle then x.revRate else x.speed
def State.speedGood (s : State) (x : SampleIn) : Bool :=
  (s.byAngle || x.speedOk) && decide (240 * 65536 < (s.speedOf x).toInt.natAbs)

/-- What a record's STATUS leads to beside the record (R463, R469, R473) does not happen: the module is not paired, has its role, and gives
nothing over and wants to give nothing over. -/
def State.MirrorQuiet (s : State) : Prop :=
  s.flag F.MIR_CTRL_PAIR = false ∧ s.rd F.MIR_STAT_RED = 0 ∧ s.rd F.MIR_STAT_ROLE ≠ 0 ∧ s.mir.giving = false ∧ s.mir.wants = false

/-- A flit with header `h` is a mirror record and comes next in order at port M (R294, R302). -/
def State.MirrorIn (s : State) (h : Dword) : Prop := s.NextIn 2 h ∧ hTYPE h = 0xD

/-- A record of the partner has come: its SEQ and STATUS stand in their registers, and the heartbeat is present (R464). -/
def State.Mirrored (t : State) (x : List Byte) : Prop :=
  (t.reg Reg.MIR_PART_STAT).toNat = beAt x 6 2 ∧ (t.reg Reg.MIR_PART_SEQ).toNat = beAt x 2 4 ∧ t.flag F.MIR_STAT_HBOK = true

/-- The registers that every record of the partner moves, with those of its flit at port M. -/
def mirrorRegs : List Nat := [Reg.MIR_PART_STAT, Reg.MIR_PART_SEQ, Reg.MIR_STAT] ++ linkRegs 2

/-! ## The library bus -/

/-- The frame's check sequence is right and it is long enough (R484). -/
def FcsGood (x : List Byte) : Prop := 64 ≤ x.length ∧ x.drop (x.length - 4) = fcs (x.take (x.length - 4))

/-- A sound frame that the MAC passes on (R488). -/
def State.FrameGood (s : State) (x : List Byte) : Prop :=
  FcsGood x ∧ beAt x 0 6 = s.lbsMac ∧ beAt x 12 2 = s.rd F.LBS_ETYPE_ETYPE

/-- The frame in the transmit window, as a SEND word names it, padded to 64 bytes with its check sequence (R489, R499). -/
def State.windowFrame (s : State) (v : Word) : List Byte :=
  let b := (List.range (F.LBS_TX_CMD_LEN.of v)).map (fun i => Sparse.get 0 s.lbs.win i)
  let p := b ++ List.replicate (60 - b.length) 0
  p ++ fcs p

/-- The handshake has failed: it is over and counted, and a running task is frozen with 0x52 and this DETAIL (R495). -/
def State.HandshakeFailed (s t : State) (detail : Nat) : Prop :=
  t.lbs.hs = 0 ∧ Counts s t Reg.LBS_HS_FAIL_CNT ∧ t.flag F.TSK_DISC_LOADED = s.flag F.TSK_DISC_LOADED ∧
    (s.taskRunning = true → t.taskFrozen = true ∧ t.rd F.TSK_STATE_ERRCLS = 0x52 ∧ t.reg Reg.TSK_DETAIL = BitVec.ofNat 32 detail)

/-! ## Reset -/

/-- Registers outside BKP that a reset leaves at another value than their reset word: what BKP and the strap show there (R447, R455, R481). -/
def freshRegs : List Nat := [Reg.CPH_SESS_STAT, Reg.CPH_STAT, Reg.MIR_STAT]

/-- What every reset leaves (R408, R523, R527): key store, fuses and flash stand, everything else but AXL is as after power-up. -/
def State.Reset (s t : State) : Prop :=
  t = { regs := t.regs, axl := t.axl, axlReq := t.axlReq, cph := t.cph, flc := t.flc, hlk := t.hlk, pwr := t.pwr, spn := t.spn,
        free := t.free, pending := s.pending } ∧
  t.cph.kek = s.cph.kek ∧ t.cph.cak = s.cph.cak ∧ t.cph.cfgKey = s.cph.cfgKey ∧ t.cph.slots = Vector.replicate 8 none ∧
  t.flc.words = s.flc.words ∧ t.flc.op = none ∧ t.flc.susp = none ∧ t.pwr.held = true ∧
  (∀ a, 0x18000 ≤ a → a < 0x18080 → a ≠ Reg.BKP_KSTAT → t.reg a = s.reg a)

/-- What a module reset leaves beside that (R527): AXL stands, the causes and counts are kept, every other register is at its reset word. -/
def State.ModuleReset (s t : State) : Prop :=
  t.axl = s.axl ∧ t.axlReq = s.axlReq ∧ t.pwr.por = false ∧
    ∀ a, keptReg a = false → a ∉ freshRegs → t.reg a = resetWord a

end Sys2Proof.Machine
end

