-- ==== Sys2Proof/Certificates/Slice0/Obligations.lean ====
section
/-! DEFINITION. The statements for the provers, by the parts of the module. A statement of a command's effect concludes that the command
answers a next state, and says what changed and what did not. -/

section

open Sys2Proof Sys2Proof.Machine

/-! ## Angle and acquisition -/

/-- R57: a write of `ANG_CTRL` with REFSEL 5 to 7 is refused; any other puts the register, and the locked head it asks for is the
reference. With the angle invalid, or the reference unchanged, no step follows. R67, R93, R95, R97, R105: what a good mark, a missing mark
and 64 missing marks do to the PLL of a head whose loss does not move the reference (the reference is a fixed other head, and locked); how
SEARCH counts its run and locks; the angle turning invalid; and that no mark is accepted of a disc outside the speed range, nor of a clock
input that is not converted. By how much a change of reference steps the angle is the model's reading (log entry 12), and the statement
speaks of none. -/
def Obligations.ClockTrackAndReference : Prop :=
  (∀ (s : State) (v : Word), 4 < F.ANG_CTRL_REFSEL.of v →
    ∃ t, Gives (.refselWrite v) s t ∧ t.flag F.ANG_STAT_CFGERR = true ∧ OnlyRegs [Reg.ANG_STAT] s t) ∧
  (∀ (s : State) (v : Word) (h : Head), F.ANG_CTRL_REFSEL.of v ≤ 4 → (s.setReg Reg.ANG_CTRL (v &&& 0x1F)).refWanted = some h →
    h = s.refHead ∨ s.angValid = false →
    ∃ t, Gives (.refselWrite v) s t ∧ t.reg Reg.ANG_CTRL = v &&& 0x1F ∧ t.refHead = h ∧ t.ang.entries = s.ang.entries ∧
      t.ang.now = s.ang.now ∧ t.ang.hwm = s.ang.hwm ∧ t = { s with regs := t.regs, ang := t.ang } ∧
      RegsBut [Reg.ANG_CTRL, Reg.ANG_STAT, Reg.ANG_NOW_HI] s t) ∧
  (∀ (s : State) (h : Head) (ofs : Int) (run : Nat), s.clockOn h = true → s.pllOut = false → s.pll h = 2 → ofs.natAbs ≤ 128 → 64 ≤ run →
    ∃ t, Gives (.frameMarkGood h ofs run) s t ∧ t.rd (F.ACQ_PLL_STAT_GOODRUN h) = min 15 (s.rd (F.ACQ_PLL_STAT_GOODRUN h) + 1) ∧
      t.rd (F.ACQ_PLL_STAT_MISSRUN h) = 0 ∧ t.pll h = 2 ∧ OnlyRegs [Reg.ACQ_PLL_STAT h] s t) ∧
  (∀ (s : State) (h : Head) (ofs : Int) (run : Nat), s.clockOn h = true → s.pllOut = false → s.pll h = 2 → 128 < ofs.natAbs →
    ∃ t, Gives (.frameMarkGood h ofs run) s t ∧ Counts s t (Reg.ACQ_MARK_OUT_CNT h) ∧ OnlyRegs [Reg.ACQ_MARK_OUT_CNT h] s t) ∧
  (∀ (s : State) (h : Head), s.pll h = 3 →
    ∃ t, Gives (.frameMarkMissing h) s t ∧ Counts s t (Reg.ACQ_MISS_CNT h) ∧ t.rd (F.ACQ_PLL_STAT_GOODRUN h) = 0 ∧
      t.rd (F.ACQ_PLL_STAT_MISSRUN h) = min 64 (s.rd (F.ACQ_PLL_STAT_MISSRUN h) + 1) ∧ t.pll h = 3 ∧
      OnlyRegs [Reg.ACQ_MISS_CNT h, Reg.ACQ_PLL_STAT h] (s.setSeek h 0) t) ∧
  (∀ (s : State) (h : Head), s.pll h = 1 →
    ∃ t, Gives (.frameMarkMissing h) s t ∧ Counts s t (Reg.ACQ_MISS_CNT h) ∧ t.acq.seek[h] = 0 ∧ t.pll h = 1 ∧
      OnlyRegs [Reg.ACQ_MISS_CNT h, Reg.ACQ_PLL_STAT h] (s.setSeek h 0) t) ∧
  (∀ (s : State) (h : Head) (ofs : Int) (run : Nat), s.clockOn h = true → s.pll h = 1 → 288 ≤ run → run ≤ 352 → s.pllSpeed = true → ofs.natAbs ≤ 64 →
    s.acq.seek[h] + 1 < s.rd (F.ACQ_PLL_CTRL_LOCKN h) →
    ∃ t, Gives (.frameMarkGood h ofs run) s t ∧ t.acq.seek[h] = s.acq.seek[h] + 1 ∧ t.pll h = 1 ∧
      OnlyRegs [Reg.ACQ_PLL_STAT h] (s.setSeek h (s.acq.seek[h] + 1)) t) ∧
  (∀ (s : State) (h r : Head) (ofs : Int) (run : Nat), r ≠ h → s.rd F.ANG_CTRL_REFSEL = r.val → s.refHead = r → s.locked r = true →
    s.clockOn h = true → s.pll h = 1 → 288 ≤ run → run ≤ 352 → s.pllSpeed = true → ofs.natAbs ≤ 64 →
    s.rd (F.ACQ_PLL_CTRL_LOCKN h) ≤ s.acq.seek[h] + 1 →
    ∃ t, Gives (.frameMarkGood h ofs run) s t ∧ t.pll h = 2 ∧ (t.ang.heads[h]).last = none ∧ (t.ang.heads[h]).relock = true ∧
      t = { s with regs := t.regs, acq := t.acq, ang := t.ang } ∧ RegsBut [Reg.ACQ_PLL_STAT h, Reg.ANG_NOW_HI] s t) ∧
  (∀ (s : State) (h r : Head), r ≠ h → s.rd F.ANG_CTRL_REFSEL = r.val → s.refHead = r → s.locked r = true →
    s.pll h = 2 → (∀ d, d < 4 → (s.wrp.beams[headBeam h d]).gate = none) →
    ∃ t, Gives (.frameMarkMissing h) s t ∧ t.pll h = 3 ∧ Counts s t (Reg.ACQ_MISS_CNT h) ∧ Counts s t (Reg.ACQ_HOLD_CNT h) ∧
      Noted [Reg.ACQ_MISS_CNT h, Reg.ACQ_PLL_STAT h, Reg.ACQ_HOLD_CNT h, Reg.ANG_NOW_HI] (s.setSeek h 0) t) ∧
  (∀ (s : State) (h r : Head), r ≠ h → s.rd F.ANG_CTRL_REFSEL = r.val → s.refHead = r → s.locked r = true →
    s.pll h = 3 → s.rd (F.ACQ_PLL_STAT_MISSRUN h) = 64 → (∀ d, d < 4 → (s.det[headBeam h d]).run = none) →
    s.rd (F.LSV_H_STAT_STATE h) ≠ 6 →
    ∃ t, Gives (.headUnlocked h) s t ∧ t.pll h = 1 ∧ Counts s t (Reg.ACQ_UNLOCK_CNT h) ∧
      t = { s with regs := t.regs, acq := t.acq } ∧ RegsBut [Reg.ACQ_PLL_STAT h, Reg.ACQ_UNLOCK_CNT h, Reg.ANG_NOW_HI] s t) ∧
  (∀ s : State, s.angValid = true → (∀ h : Head, s.locked h = false) →
    ∃ t, Gives .angleInvalid s t ∧ t.angValid = false ∧ t.ang = s.ang ∧
      OnlyRegs [Reg.ANG_NOW_HI, Reg.SPN_SPEED, Reg.SPN_STAT] s t) ∧
  (∀ (s : State) (h : Head) (v : Word), v.getLsbD 0 = true → 2 ≤ (F.ACQ_PLL_CTRL_LOCKN h).of v → (F.ACQ_PLL_CTRL_LOCKN h).of v ≤ 8 →
    16 ≤ (F.ACQ_PLL_CTRL_HOWIN h).of v → (F.ACQ_PLL_CTRL_HOWIN h).of v ≤ 64 → s.pll h = 0 →
    ∃ t, Gives (.pllEnable h v) s t ∧ t.pll h = 1 ∧ t.rd (F.ACQ_PLL_STAT_GOODRUN h) = 0 ∧ t.reg (Reg.ACQ_PLL_CTRL h) = v &&& 0xFFF3 ∧
      t.acq.seek[h] = 0 ∧ t = { s with regs := t.regs, acq := t.acq } ∧ RegsBut [Reg.ACQ_PLL_CTRL h, Reg.ACQ_PLL_STAT h] s t) ∧
  (∀ (s : State) (h : Head) (ofs : Int) (run : Nat), s.pllOut = true ∨ s.clockOn h = false → Gives (.frameMarkGood h ofs run) s s)

/-- R62, R68, R70, R72: an armed entry whose target the angle reaches fires once, and its action reaches its block. The four actions that
reach SRV, SEQ, MIC and ACQ; SEQ_EVENT entries of one target fire together, in ascending index. An ARG outside its action's range is the
model's reading (log entry 18), and the statement keeps to the range. -/
def Obligations.EntriesFire : Prop :=
  (∀ (s : State) (i : Entry) (now : Angle) (g : Group), s.Fires i now 5 → (s.ang.entries[i]).arg.toNat = g.val →
    ∃ t, Gives (.srvTarget i now) s t ∧ (t.group g).target = true ∧ (∀ k, k ≠ g → t.group k = s.group k) ∧
      t = { s.fired i now with srv := t.srv }) ∧
  (∀ (s : State) (i : Entry) (now : Angle), s.Fires i now 7 → s.seq.queue.length < 64 → (∀ j, j ≠ i → s.firesWith i j = false) →
    ∃ t, Gives (.seqEvent i now) s t ∧ t.seq.queue = s.seq.queue ++ [(s.ang.entries[i]).arg] ∧
      t = { s.fired i now with seq := { s.seq with queue := t.seq.queue } }) ∧
  (∀ (s : State) (i : Entry) (now : Angle), s.Fires i now 7 →
    s.seq.queue.length + ((List.finRange 64).filter (s.firesWith i)).length ≤ 64 →
    ∃ t, Gives (.seqEvent i now) s t ∧
      t.seq.queue = s.seq.queue ++ ((List.finRange 64).filter (s.firesWith i)).map (fun j => (s.ang.entries[j]).arg) ∧
      (∀ j, s.firesWith i j = true → (t.ang.entries[j]).armed = false ∧ (t.ang.entries[j]).fired = true) ∧
      (∀ j, s.firesWith i j = false → t.ang.entries[j] = s.ang.entries[j]) ∧
      t = { s.flow now with ang := { (s.flow now).ang with entries := t.ang.entries }, seq := { s.seq with queue := t.seq.queue } }) ∧
  (∀ (s : State) (i : Entry) (now : Angle), s.Fires i now 8 →
    ∃ t, Gives (.scrubTick i now) s t ∧ (t.reg Reg.MIC_SKINK_DEBT).toNat =
        min (2 ^ 24 - 1) ((s.reg Reg.MIC_SKINK_DEBT).toNat + s.rd F.MIC_SKINK_CFG_QUOTA * 1024) ∧
      Noted [Reg.MIC_SKINK_DEBT] (s.fired i now) t) ∧
  (∀ (s : State) (i : Entry) (now : Angle) (h : Head) (z : Nat), s.Fires i now 9 → (s.ang.entries[i]).arg.toNat = h.val →
    bandZone (s.headBand h + 1) = some z → z ≠ (s.reg (Reg.ACQ_HZONE h)).toNat →
    ∃ t, Gives (.zoneSwitch i now) s t ∧ t.flag (F.ACQ_PLL_STAT_ZPEND h) = true ∧ t.acq.zpend[h] = z ∧
      t = { s.fired i now with regs := t.regs, acq := t.acq } ∧ RegsBut [Reg.ACQ_PLL_STAT h] s t)

/-- R71, R73: arming, disarming one entry, disarming all. R61 to R65: while a hold stands no entry fires; the hold ends when the angle
exceeds the high-water mark. That a target equal to the present angle counts as passed is the model's reading (log entry 53). -/
def Obligations.EntriesAreArmedHeldAndDisarmed : Prop :=
  (∀ s : State, (s.ang.entries[selectedEntry s]).armed = true ∨ s.rd F.ANG_EVT_ACTW_ACTION = 0 ∨ 9 < s.rd F.ANG_EVT_ACTW_ACTION →
    ∃ t, Gives .angEvtArm s t ∧ t.flag F.ANG_STAT_ARMERR = true ∧ OnlyRegs [Reg.ANG_STAT] s t) ∧
  (∀ s : State, (s.ang.entries[selectedEntry s]).armed = false → s.rd F.ANG_EVT_ACTW_ACTION ≠ 0 → s.rd F.ANG_EVT_ACTW_ACTION ≤ 9 →
    (2 ^ 31 ≤ (s.ang.now.toNat + 2 ^ 44 - (s.reg Reg.ANG_EVT_TGT).toNat) % 2 ^ 32 ∨ s.mayFire = false) →
    ∃ t, Gives .angEvtArm s t ∧
      (let e := t.ang.entries[selectedEntry s]
       e.armed = true ∧ e.fired = false ∧ e.late = false ∧ e.cancelled = false ∧ e.target = s.reg Reg.ANG_EVT_TGT ∧
       e.action.toNat = s.rd F.ANG_EVT_ACTW_ACTION ∧ e.arg.toNat = s.rd F.ANG_EVT_ACTW_ARG ∧
       e.head.val = s.rd F.ANG_EVT_ACTW_HEAD ∧ e.htag = s.flag F.ANG_EVT_ACTW_HTAG ∧ e.frac.toNat = s.rd F.ANG_EVT_ACTW_FRAC) ∧
      (∀ i, i ≠ selectedEntry s → t.ang.entries[i] = s.ang.entries[i]) ∧
      t = { s with ang := { s.ang with entries := t.ang.entries } }) ∧
  (∀ s : State, ∃ t, Gives .angEvtDisarm s t ∧
    t.ang.entries[selectedEntry s] = { s.ang.entries[selectedEntry s] with armed := false } ∧
    (∀ i, i ≠ selectedEntry s → t.ang.entries[i] = s.ang.entries[i]) ∧ t = { s with ang := { s.ang with entries := t.ang.entries } }) ∧
  (∀ s : State, ∃ t, Gives .angEvtDisarmAll s t ∧ (∀ i : Entry, t.ang.entries[i] = { s.ang.entries[i] with armed := false }) ∧
    t = { s with ang := { s.ang with entries := t.ang.entries } }) ∧
  (∀ (s : State) (i : Entry) (now : Angle) (lead : Bool), s.holding = true →
    Gives (.wgateOpen i now lead) s s ∧ Gives (.wgateClose i now) s s ∧ Gives (.lpower i now) s s ∧ Gives (.capture i now) s s ∧
    Gives (.srvTarget i now) s s ∧ Gives (.sldStart i now) s s ∧ Gives (.seqEvent i now) s s ∧ Gives (.scrubTick i now) s s ∧
    Gives (.zoneSwitch i now) s s) ∧
  (∀ (s : State) (now : Angle), s.holding = true → 0 < angDiff now s.ang.hwm →
    (∀ i : Entry, (s.ang.entries[i]).armed = true → (s.ang.entries[i]).due s.ang.hwm = false) →
    ∃ t, Gives (.holdEnd now) s t ∧ t.holding = false ∧ t.ang.now = now ∧ t.ang.hwm = now ∧ t.ang.entries = s.ang.entries ∧
      t = { s with regs := t.regs, ang := t.ang } ∧ RegsBut [Reg.ANG_STAT] s t)

/-- R58, R61, R67, R92: an address word is held; a wrong ACRC is counted; of a head that is not locked a correct word goes no further; a
first correct word of a locked head only waits for the second; and the word that confirms makes an invalid angle valid, takes its FRAME,
cancels every armed entry and sets INVALID. R59, R99, R107, R152, R153: at a head's frame 0 its expected band advances, a pending zone is
applied, the skews written come into force; without a block of the head in recovery nothing else happens, deferred blocks age by a
crossing, and a retry point that is due begins. Which REV an accepted word takes, and which head's words count, are the model's readings
(log entries 13, 53). -/
def Obligations.AddressWordsAndFrameZero : Prop :=
  (∀ (s : State) (h : Head) (w : Dword) (now : Angle) (lag : Nat), s.clockOn h = true → crcGood w = false →
    ∃ t, Gives (.addressWord h w now lag) s t ∧ t.pair (Reg.ACQ_ADDR_LO h) = w.toNat ∧ Counts s t (Reg.ACQ_ACRC_CNT h) ∧
      OnlyRegs [Reg.ACQ_ADDR_LO h, Reg.ACQ_ADDR_LO h + 4, Reg.ACQ_ACRC_CNT h] s t) ∧
  (∀ (s : State) (h : Head) (w : Dword) (now : Angle) (lag : Nat), s.clockOn h = true → crcGood w = true → s.locked h = false →
    ∃ t, Gives (.addressWord h w now lag) s t ∧ t.pair (Reg.ACQ_ADDR_LO h) = w.toNat ∧
      OnlyRegs [Reg.ACQ_ADDR_LO h, Reg.ACQ_ADDR_LO h + 4] s t) ∧
  (∀ (s : State) (h : Head) (w : Dword) (now : Angle) (lag : Nat), s.clockOn h = true → s.locked h = true → crcGood w = true →
    ((s.ang.heads[h]).last.any (agrees · w) = false ∨ zoneLegal w = false) →
    ∃ t, Gives (.addressWord h w now lag) s t ∧ t.pair (Reg.ACQ_ADDR_LO h) = w.toNat ∧ (t.ang.heads[h]).last = some w ∧
      t.ang.now = (s.flow now).ang.now ∧ t.ang.entries = s.ang.entries ∧ t = { s with regs := t.regs, ang := t.ang } ∧
      RegsBut [Reg.ACQ_ADDR_LO h, Reg.ACQ_ADDR_LO h + 4] s t) ∧
  (∀ (s : State) (h : Head) (p w : Dword) (now : Angle) (lag : Nat), s.clockOn h = true → s.locked h = true → crcGood w = true →
    (s.ang.heads[h]).last = some p → agrees p w = true → zoneLegal w = true → s.angValid = false → s.owned = false →
    adrLAYER w = s.rd (F.ANG_HPOS_LAYER h) → adrBAND w = s.headBand h → (∀ b : Beam, (s.wrp.beams[b]).gate = none) →
    (∀ i : Entry, (s.ang.entries[i]).armed = true → (s.ang.entries[i]).action ≠ 1) →
    ∃ t, Gives (.addressWord h w now lag) s t ∧ t.angValid = true ∧ t.flag F.ANG_CANCEL_INVALID = true ∧ t.holding = false ∧
      t.ang.now.toNat % 2 ^ 20 = s.wordAngle h w lag ∧ t.ang.hwm = t.ang.now ∧
      (∀ i : Entry, (t.ang.entries[i]).armed = false) ∧
      (∀ i : Entry, (s.ang.entries[i]).armed = true → (t.ang.entries[i]).cancelled = true) ∧
      t = { s with regs := t.regs, ang := t.ang, acq := t.acq } ∧
      RegsBut [Reg.ACQ_ADDR_LO h, Reg.ACQ_ADDR_LO h + 4, Reg.ANG_NOW_HI, Reg.ANG_CORR, Reg.ANG_CANCEL, Reg.ANG_CANCEL_CNT,
        Reg.SEQ_EVT_PEND 0, Reg.SEQ_EVT_MERGE_CNT, Reg.ANG_SLIP_CNT, Reg.ANG_STAT, Reg.ANG_ENC_CNT (headSled h),
        Reg.ANG_ENC_STAT (headSled h), Reg.ACQ_ZMIS_CNT h, Reg.ACQ_PLL_STAT h, Reg.LSV_H_STAT h] s t) ∧
  (∀ (s : State) (h : Head) (monitor : Nat), s.rcv.retry[h] = none → (∀ k ∈ s.rcv.blks, k.head ≠ h) →
    ∃ t, Gives (.frameZero h monitor) s t ∧
    t.rd (F.ANG_HPOS_BAND h) = unsigned 16 (s.headBand h + 1) ∧ t.rd (F.ANG_HPOS_LAYER h) = s.rd (F.ANG_HPOS_LAYER h) ∧
    (s.flag (F.ACQ_PLL_STAT_ZPEND h) = true → t.reg (Reg.ACQ_HZONE h) = BitVec.ofNat 32 s.acq.zpend[h] ∧
      t.flag (F.ACQ_PLL_STAT_ZPEND h) = false) ∧
    (s.flag (F.ACQ_PLL_STAT_ZPEND h) = false → t.reg (Reg.ACQ_HZONE h) = s.reg (Reg.ACQ_HZONE h)) ∧
    (s.refHead = h → t.ang.spr = (s.reg Reg.ANG_SRV_SPR).toNat) ∧
    (∀ d : Fin 4, t.acq.skewD[headBeam h d] = s.reg (Reg.ACQ_SKEW_D (headBeam h d)) ∧
      t.acq.skewV[headBeam h d] = s.reg (Reg.ACQ_SKEW_V (headBeam h d))) ∧
    t.ang = { s.ang with spr := t.ang.spr } ∧
    t = { s with regs := t.regs, ang := t.ang, acq := t.acq, wrp := t.wrp, lsv := t.lsv } ∧
    RegsBut (frameZeroRegs h) s t) ∧
  (∀ (s : State) (h : Head) (monitor : Nat), s.rcv.retry[h] = none → s.taskRunning = false → (s.aged h).retryDue h = false →
    (∀ k ∈ s.rcv.blks, k.phase ≠ .beside ∧ k.phase ≠ .outside) →
    ∃ t, Gives (.frameZero h monitor) s t ∧ t.rd (F.ANG_HPOS_BAND h) = unsigned 16 (s.headBand h + 1) ∧ t.rcv = (s.aged h).rcv ∧
      t = { s with regs := t.regs, ang := t.ang, acq := t.acq, wrp := t.wrp, lsv := t.lsv, rcv := t.rcv } ∧
      RegsBut (frameZeroRegs h) s t) ∧
  (∀ (s : State) (h : Head) (monitor : Nat), s.rcv.retry[h] = none → s.taskRunning = false → (s.aged h).retryDue h = true →
    s.flag (F.LSV_H_STAT_BUSY h) = true →
    ∃ t, Gives (.frameZero h monitor) s t ∧ Counts s t (Reg.RCV_H_RP_CNT h) ∧
      (∃ r, t.rcv.retry[h] = some r ∧ r.revs = 0 ∧ r.back = false ∧ r.resLayer = s.rd (F.ANG_HPOS_LAYER h) ∧
        r.resBand = signed 16 (t.rd (F.ANG_HPOS_BAND h))) ∧ t.rcv.blks = (s.aged h).rcv.blks ∧
      t = { s with regs := t.regs, ang := t.ang, acq := t.acq, wrp := t.wrp, lsv := t.lsv, rcv := t.rcv } ∧
      RegsBut (frameZeroRegs h) s t)

/-- R78 to R80: the quadrature count of an enabled encoder, outward positive with DIR = 0; an illegal transition leaves the count and sets
UNCERTAIN; an index edge loads it. That an index edge loads the count whether or not UNCERTAIN is set is the model's reading (log entry
53). -/
def Obligations.SledEncoders : Prop :=
  (∀ (s : State) (sl : Sled) (ab : BitVec 2) (d : Int), s.flag (F.ANG_ENC_CTRL_EN sl) = true → quadStep s.ang.encAB[sl] ab = some d →
    ∃ t, Gives (.encoderTransition sl ab) s t ∧ t.ang.encAB[sl] = ab ∧
      t.reg (Reg.ANG_ENC_CNT sl) = s.reg (Reg.ANG_ENC_CNT sl) + BitVec.ofInt 32 (if s.flag (F.ANG_ENC_CTRL_DIR sl) then -d else d) ∧
      t = { s with regs := t.regs, ang := { s.ang with encAB := t.ang.encAB } } ∧ RegsBut [Reg.ANG_ENC_CNT sl] s t) ∧
  (∀ (s : State) (sl : Sled) (ab : BitVec 2), s.flag (F.ANG_ENC_CTRL_EN sl) = true → quadStep s.ang.encAB[sl] ab = none →
    ∃ t, Gives (.encoderTransition sl ab) s t ∧ t.flag (F.ANG_ENC_STAT_UNCERTAIN sl) = true ∧
      (t.reg (Reg.ANG_ENC_ERR sl)).toNat = min 0xFFFF ((s.reg (Reg.ANG_ENC_ERR sl)).toNat + 1) ∧
      t = { s with regs := t.regs, ang := { s.ang with encAB := t.ang.encAB } } ∧
      RegsBut [Reg.ANG_ENC_ERR sl, Reg.ANG_ENC_STAT sl] s t) ∧
  (∀ (s : State) (sl : Sled), s.flag (F.ANG_ENC_CTRL_EN sl) = true →
    ∃ t, Gives (.indexEdge sl) s t ∧ t.reg (Reg.ANG_ENC_CNT sl) = s.reg (Reg.ANG_ENC_IDX sl) ∧
      t.flag (F.ANG_ENC_STAT_UNCERTAIN sl) = false ∧ OnlyRegs [Reg.ANG_ENC_CNT sl, Reg.ANG_ENC_STAT sl] s t)

/-- R16, R87, R90, R91, R106: the spare of a converter that samples compares with the slice it shadows and moves on, a second suspect
comparison asks AXL, a granted swap takes effect at its boundary, and a gain loop moves its gain by one code within its limits, but while
DET flags a defect on its beam. The unit of the envelope and its target of 192, and what the refinement and a further fault leave, are the
model's choice (log entries 21, 54). -/
def Obligations.ConverterSlices : Prop :=
  (∀ (s : State) (a : Fin 36) (mad : Nat), s.fastRuns a = true → s.flag (F.ACQ_ADC_MAP_SPARE a) = false →
    ∃ t, Gives (.sliceShadowEnd a mad) s t ∧ (t.acq.adcs[a]).shadow.val = ((s.acq.adcs[a]).shadow.val + 1) % 8 ∧
      (t.acq.adcs[a]).suspect.getLsbD (s.acq.adcs[a]).shadow.val = decide (s.rd F.ACQ_SLICE_CTRL_THR < mad) ∧
      t.axlReq = (if s.rd F.ACQ_SLICE_CTRL_THR < mad ∧ (s.acq.adcs[a]).suspect.getLsbD (s.acq.adcs[a]).shadow.val = true then
          s.axlReq ++ [⟨4, Fin.ofNat 1024 a.val, Fin.ofNat 16777216 (s.acq.adcs[a]).shadow.val, 2⟩] else s.axlReq) ∧
      t = { s with regs := t.regs, acq := t.acq, axlReq := t.axlReq } ∧ RegsBut [Reg.ACQ_ADC_HLTH a] s t) ∧
  (∀ (s : State) (a : Fin 36) (mad : Nat), s.flag (F.ACQ_ADC_MAP_SPARE a) = true → mad ≤ s.rd F.ACQ_SLICE_CTRL_THR →
    Gives (.sliceShadowEnd a mad) s s) ∧
  (∀ (s : State) (a : Fin 36) (mad : Nat), s.fastRuns a = false → Gives (.sliceShadowEnd a mad) s s) ∧
  (∀ (s : State) (a : Fin 36) (k : Fin 8), (s.acq.adcs[a]).granted = some k →
    ∃ t, Gives (.sliceSwap a) s t ∧ (t.acq.adcs[a]).granted = none ∧ t.flag (F.ACQ_ADC_MAP_SPARE a) = true ∧
      (t.rd (F.ACQ_ADC_MAP_MAP a)).testBit k.val = true ∧ Counts s t Reg.ACQ_SWAP_CNT ∧
      t = { s with regs := t.regs, acq := t.acq } ∧ RegsBut [Reg.ACQ_ADC_MAP a, Reg.ACQ_SWAP_CNT] s t) ∧
  (∀ (s : State) (i : Fin 52) (p2p : Nat), s.flag (F.ACQ_IN_CTRL_AGC i) = true → s.flag (F.ACQ_IN_CTRL_EN i) = true → 4 ≤ i.val % 13 →
    s.agcFrozen i = false → s.adcRuns i = true →
    ∃ t, Gives (.agcStep i p2p) s t ∧
      (192 < p2p → t.rd (F.ACQ_IN_CTRL_GAIN i) = s.rd (F.ACQ_IN_CTRL_GAIN i) - 1) ∧
      (p2p < 192 → t.rd (F.ACQ_IN_CTRL_GAIN i) = min (gainMax i) (s.rd (F.ACQ_IN_CTRL_GAIN i) + 1)) ∧
      OnlyRegs [Reg.ACQ_IN_CTRL i] s t) ∧
  (∀ (s : State) (i : Fin 52) (p2p : Nat), s.agcFrozen i = true → Gives (.agcStep i p2p) s s)

/-! ## Write path -/

/-- R15, R63, R164, R165, R169 to R171: a write gate opens on the planned block whose home slot its event names, with the block's header
and bytes, and closes at its end; the block then awaits its verify decision, in the order written. A gate whose block was not complete in
time stays shut, and the block fails. The LPOWER action takes a read level into force, with CLIP past the ceiling, or is held while
superposition is off. Which slot an event names, the buffer slot of a block and the head that writes it are the model's (log entries 16,
17, 48). -/
def Obligations.WriteGates : Prop :=
  (∀ (s : State) (i : Entry) (now : Angle) (b : Beam) (w : WBlk), s.Fires i now 1 → s.GateOn i b w → s.opcDue w.zl (beamHead b) = false →
    w.lba ∈ s.tsk.fetched → s.gateOk b = true → s.slotShut b w.zl s.ang.entries[i] = false → s.anyPoisoned (slotOf w) 32768 = false →
    ∃ t, Gives (.wgateOpen i now true) s t ∧
      (t.wrp.beams[b]).gate = some { w with hdr := s.headerOf w, data := s.dramBytes (slotOf w) 32768 } ∧
      (t.wrp.beams[b]).plan = (s.wrp.beams[b]).plan.erase w ∧ (t.wrp.beams[b]).gateAt = (s.ang.entries[i]).target ∧
      (t.wrp.beams[b]).gateFrac = (s.ang.entries[i]).frac ∧
      (t.wrp.beams[b]).vfy = (s.wrp.beams[b]).vfy ++ (s.wrp.beams[b]).gate.toList ∧ t.wrp.hfOff[beamChan b] = true ∧
      (∀ c : Beam, c ≠ b → t.wrp.beams[c] = s.wrp.beams[c]) ∧ t.ang = (s.fired i now).ang ∧
      t.rd (F.LDD_SCALE_OPC (beamChan b)) = s.opcFactor w.zl b % 2 ^ (F.LDD_SCALE_OPC (beamChan b)).width ∧
      (w.kind = .home → t.tsk.whw = some (max w.lba (s.tsk.whw.getD 0))) ∧
      t = { s with regs := t.regs, hlk := t.hlk, mem := t.mem, wrp := t.wrp, tsk := t.tsk, ang := t.ang } ∧
      RegsBut ([Reg.LDD_SCALE (beamChan b), Reg.VFY_WHW, Reg.WRP_BLK_CNT (beamChan b)] ++ accessRegs ++ noteRegs) s t) ∧
  (∀ (s : State) (i : Entry) (now : Angle) (b : Beam) (w : WBlk), s.Fires i now 1 → s.GateOn i b w → s.opcDue w.zl (beamHead b) = false →
    w.kind = .home → (s.wrp.beams[b]).gate = none →
    ∃ t, Gives (.wgateOpen i now false) s t ∧ (t.wrp.beams[b]).gate = none ∧ (t.wrp.beams[b]).plan = (s.wrp.beams[b]).plan.erase w ∧
      t.queue (lbaZL w.lba) = s.queue (lbaZL w.lba) ++ [⟨w.lba, 0⟩] ∧ Counts s t (Reg.WRP_URUN_CNT (beamChan b)) ∧
      Counts s t Reg.VFY_URUN_CNT ∧ Counts s t (Reg.VFY_B_FAIL_CNT b) ∧ t.flag (F.VFY_B_LAST_EARLY b) = true ∧
      t = { s.fired i now with regs := t.regs, wrp := t.wrp } ∧
      RegsBut ([Reg.WRP_URUN_CNT (beamChan b), Reg.VFY_URUN_CNT, Reg.VFY_B_FAIL_CNT b, Reg.VFY_B_LAST b, Reg.VFY_B_LBA b] ++
        eventRegs Ev.vfyFail) s t) ∧
  (∀ (s : State) (i : Entry) (now : Angle) (b : Beam) (w : WBlk), s.Fires i now 2 → (s.ang.entries[i]).arg.toNat = b.val →
    (s.wrp.beams[b]).gate = some w → (s.wrp.beams[b]).gateAt ≠ (s.ang.entries[i]).target →
    ∃ t, Gives (.wgateClose i now) s t ∧ (t.wrp.beams[b]).gate = none ∧ (t.wrp.beams[b]).vfy = (s.wrp.beams[b]).vfy ++ [w] ∧
      (∀ c : Beam, c ≠ b → t.wrp.beams[c] = s.wrp.beams[c]) ∧ Counts s t (Reg.WRP_BLK_CNT (beamChan b)) ∧
      t = { s.fired i now with regs := t.regs, wrp := t.wrp } ∧ RegsBut [Reg.WRP_BLK_CNT (beamChan b)] s t) ∧
  (∀ (s : State) (i : Entry) (now : Angle) (b : Beam) (w : WBlk), s.Fires i now 2 → (s.ang.entries[i]).arg.toNat = b.val →
    (s.wrp.beams[b]).gate = some w → (s.wrp.beams[b]).gateAt = (s.ang.entries[i]).target → Gives (.wgateClose i now) s (s.fired i now)) ∧
  (∀ (s : State) (i : Entry) (now : Angle) (c : Chan) (k : BitVec 4), s.Fires i now 3 →
    (s.ang.entries[i]).arg.toNat / 256 = c.val → (s.ang.entries[i]).arg.toNat % 16 = k.toNat → (k < 8 ∧ k ≠ 4) ∨ k = 15 →
    (s.fired i now).hfDark c = false →
    ∃ t, Gives (.lpower i now) s t ∧ t.rd (F.LDD_CTRL_RLVL c) = k.toNat ∧ t.wrp.beams = s.wrp.beams ∧
      (k ≠ 0 → k < 8 → (s.rd (F.LDD_LIMIT_RCEIL c) : Int) < s.readLevel c k.toNat → t.flag (F.LDD_STAT_CLIP c) = true) ∧
      t = { s.fired i now with regs := t.regs, wrp := t.wrp } ∧ RegsBut [Reg.LDD_CTRL c, Reg.LDD_STAT c] s t) ∧
  (∀ (s : State) (i : Entry) (now : Angle) (c : Chan) (k : BitVec 4), s.Fires i now 3 →
    (s.ang.entries[i]).arg.toNat / 256 = c.val → (s.ang.entries[i]).arg.toNat % 16 = k.toNat → (k < 8 ∧ k ≠ 4) ∨ k = 15 →
    (s.fired i now).hfDark c = true →
    ∃ t, Gives (.lpower i now) s t ∧ t.wrp.lpower[c] = some k ∧ t = { s.fired i now with wrp := t.wrp }) ∧
  (∀ (s : State) (c : Chan) (k : BitVec 4),
    c.val % 5 = 0 ∨ ((s.wrp.beams[chanBeam c]).gate = none ∧ s.gateNear (chanBeam c) = false) → s.wrp.lpower[c] = some k →
    ∃ t, Gives (.hfIntervalEnd c) s t ∧ t.wrp.hfOff[c] = false ∧ t.wrp.lpower[c] = none ∧ t.rd (F.LDD_CTRL_RLVL c) = k.toNat ∧
      t = { s with regs := t.regs, wrp := t.wrp } ∧ RegsBut [Reg.LDD_CTRL c, Reg.LDD_STAT c] s t)

/-- R161 to R163, R241: the conditions of a laser channel. The VLD monitor enables only on a rising crossing of UP and disables below DN;
a channel that lost a condition closes its gate, and its block fails verify; a fault sets its cause, is counted and reported to AXL; a
cause clears by a write of 1. The units of LDD_COMPL are the model's choice (log entry 51). -/
def Obligations.LaserChannels : Prop :=
  (∀ (s : State) (h : Head) (mv : Nat), s.rd (F.LDD_COMPL_VLD (sChan h)) < s.rd (F.LDD_COMPL_UP (sChan h)) →
    s.rd (F.LDD_COMPL_UP (sChan h)) * 100 ≤ mv → s.rd (F.LDD_COMPL_DN (sChan h)) * 100 ≤ mv →
    ∃ t, Gives (.vldMonitor h mv) s t ∧ t.wrp.vld[h] = true ∧ t.rd (F.LDD_COMPL_VLD (sChan h)) = min 255 (mv / 100) ∧
      t = { s with regs := t.regs, wrp := { s.wrp with vld := t.wrp.vld } } ∧ RegsBut [Reg.LDD_COMPL (sChan h)] s t) ∧
  (∀ (s : State) (h : Head) (mv : Nat), mv < s.rd (F.LDD_COMPL_DN (sChan h)) * 100 → (∀ b : Beam, (s.wrp.beams[b]).gate = none) →
    ∃ t, Gives (.vldMonitor h mv) s t ∧ t.wrp.vld[h] = false ∧ t = { s with regs := t.regs, wrp := { s.wrp with vld := t.wrp.vld } } ∧
      RegsBut [Reg.LDD_COMPL (sChan h)] s t) ∧
  (∀ (s : State) (c : Chan) (w : WBlk), s.chanOn c = false → c.val % 5 ≠ 0 → (s.wrp.beams[chanBeam c]).gate = some w → w.kind = .home →
    ∃ t, Gives (.enableConditionLoss c) s t ∧ (t.wrp.beams[chanBeam c]).gate = none ∧
      t.queue (lbaZL w.lba) = s.queue (lbaZL w.lba) ++ [⟨w.lba, 0⟩] ∧ t.evPending Ev.vfyFail = true ∧
      Counts s t Reg.VFY_EARLY_CNT ∧ Counts s t (Reg.VFY_B_FAIL_CNT (chanBeam c)) ∧
      t.flag (F.VFY_B_LAST_EARLY (chanBeam c)) = true ∧ t.flag (F.VFY_B_LAST_PASS (chanBeam c)) = false ∧
      t = { s with regs := t.regs, wrp := t.wrp } ∧
      RegsBut ([Reg.VFY_EARLY_CNT, Reg.VFY_B_FAIL_CNT (chanBeam c), Reg.VFY_B_LAST (chanBeam c), Reg.VFY_B_LBA (chanBeam c)] ++
        eventRegs Ev.vfyFail) s t) ∧
  (∀ (s : State) (c : Chan) (cause : LddCause), c.val % 5 ≠ 0 → (s.wrp.beams[chanBeam c]).gate = none → s.worksOn (chanHead c) = false →
    ∃ t, Gives (.lddFault c cause) s t ∧ t.flag (lddField c cause) = true ∧ Counts s t (Reg.LDD_FAULT_CNT c) ∧
      t.axlReq = s.axlReq ++ [⟨0x3F, 0, Fin.ofNat 16777216 c.val, 2⟩] ∧ t.chanOn c = false ∧
      t = { s with regs := t.regs, axlReq := t.axlReq } ∧ RegsBut [Reg.LDD_STAT c, Reg.LDD_FAULT_CNT c] s t) ∧
  (∀ (s : State) (c : Chan) (v : Word),
    ∃ t, Gives (.lddFaultClear c v) s t ∧ t.reg (Reg.LDD_STAT c) = s.reg (Reg.LDD_STAT c) &&& ~~~(v &&& 0xEE) ∧
      OnlyRegs [Reg.LDD_STAT c] s t) ∧
  (∀ (s : State) (h : Head) (cause : LddCause), s.owned = false →
    ∃ t, Gives (.lddFault (sChan h) cause) s t ∧ t.flag (lddField (sChan h) cause) = true ∧ Counts s t (Reg.LDD_FAULT_CNT (sChan h)) ∧
      t.axlReq = s.axlReq ++ [⟨0x3F, 0, Fin.ofNat 16777216 (sChan h).val, 2⟩] ∧
      t = { s with regs := t.regs, axlReq := t.axlReq } ∧ RegsBut [Reg.LDD_STAT (sChan h), Reg.LDD_FAULT_CNT (sChan h)] s t) ∧
  (∀ (s : State) (h : Head) (v : Word), s.reg (Reg.LDD_STAT (sChan h)) &&& ~~~v &&& 0xE = 0 →
    ∃ t, Gives (.lddFaultClear (sChan h) v) s t ∧ t.lddFault (sChan h) = false ∧ OnlyRegs [Reg.LDD_STAT (sChan h)] s t)

/-- R172 to R178, R185: the verify decision on the oldest written block of a beam, by the places at which what the verify spot read
differs from the block's channel bits. Below every threshold it passes: a home block is complete, a replacement enters the live table; a
failed home block joins its zone-layer's queue, and so does one of a beam whose verify spot is not sampled. Outside VERIFY mode nothing is
decided. Where a table entry lies in DRAM, and that VFY decides only while it is enabled, are the model's choice (log entries 49, 50). -/
def Obligations.VerifyDecisions : Prop :=
  (∀ (s : State) (b : Beam) (sync body : List Bool) (w : WBlk) (r : List WBlk), (s.wrp.beams[b]).vfy = w :: r → s.vfyOn b = true →
    s.vfySampled b = true → w.kind = .home → s.ReadsGood b w (sync ++ body) → s.inTask w.lba = false →
    ∃ t, Gives (.verifyDecision b sync body) s t ∧ (t.wrp.beams[b]).vfy = r ∧ Counts s t (Reg.VFY_B_PASS_CNT b) ∧
      t.flag (F.VFY_B_LAST_PASS b) = true ∧ t.rd (F.VFY_B_LBA_LBA b) = w.lba % 2 ^ 25 ∧
      t.pair (Reg.VFY_B_MIS_LO b) = (s.pair (Reg.VFY_B_MIS_LO b) + (mismatches w.bits (sync ++ body)).length) % 2 ^ 64 ∧
      t = { s with regs := t.regs, wrp := t.wrp } ∧
      RegsBut [Reg.VFY_B_LAST b, Reg.VFY_B_LBA b, Reg.VFY_B_PASS_CNT b, Reg.VFY_B_MIS_LO b, Reg.VFY_B_MIS_LO b + 4] s t) ∧
  (∀ (s : State) (b : Beam) (sync body : List Bool) (w : WBlk) (r : List WBlk) (i : Nat), (s.wrp.beams[b]).vfy = w :: r →
    s.vfyOn b = true → s.vfySampled b = true → w.kind = .repl i → s.ReadsGood b w (sync ++ body) → s.inTask w.lba = false →
    (∀ h : Head, s.wrp.pass[h] ≠ some w.zl) →
    ∃ t, Gives (.verifyDecision b sync body) s t ∧ (t.wrp.beams[b]).vfy = r ∧
      t.disc.table = s.disc.table ++ [⟨w.lba, i, s.rd F.TSK_DISC_WGEN, false⟩] ∧ t.disc.added = s.disc.added + 1 ∧
      t.spareOf w.lba = some i ∧ t.evPending Ev.rplDone = true ∧ Counts s t Reg.VFY_RPL_CNT ∧
      DramBut (tableAddr (lbaZL w.lba) i) 8 s t ∧
      t = { s with regs := t.regs, hlk := t.hlk, mem := t.mem, dram := t.dram, psn := t.psn, wrp := t.wrp, disc := t.disc } ∧
      RegsBut ([Reg.VFY_B_LAST b, Reg.VFY_B_LBA b, Reg.VFY_B_PASS_CNT b, Reg.VFY_B_MIS_LO b, Reg.VFY_B_MIS_LO b + 4,
        Reg.VFY_RPL_CNT] ++ eventRegs Ev.rplDone ++ accessRegs ++ noteRegs) s t) ∧
  (∀ (s : State) (b : Beam) (sync body : List Bool) (w : WBlk) (r : List WBlk), (s.wrp.beams[b]).vfy = w :: r → s.vfyOn b = true →
    s.vfySampled b = true → w.kind = .home → s.rd (F.VFY_B_THR_TOTAL b) ≤ (mismatches w.bits (sync ++ body)).length →
    ∃ t, Gives (.verifyDecision b sync body) s t ∧ (t.wrp.beams[b]).vfy = r ∧ Counts s t (Reg.VFY_B_FAIL_CNT b) ∧
      t.flag (F.VFY_B_LAST_PASS b) = false ∧ t.queue (lbaZL w.lba) = s.queue (lbaZL w.lba) ++ [⟨w.lba, 0⟩] ∧
      t.evPending Ev.vfyFail = true ∧ t = { s with regs := t.regs, wrp := t.wrp } ∧
      RegsBut ([Reg.VFY_B_LAST b, Reg.VFY_B_LBA b, Reg.VFY_B_FAIL_CNT b, Reg.VFY_B_MIS_LO b, Reg.VFY_B_MIS_LO b + 4] ++
        eventRegs Ev.vfyFail) s t) ∧
  (∀ (s : State) (b : Beam) (sync body : List Bool) (w : WBlk) (r : List WBlk), (s.wrp.beams[b]).vfy = w :: r → s.vfyOn b = true →
    s.vfySampled b = false → w.kind = .home →
    ∃ t, Gives (.verifyDecision b sync body) s t ∧ (t.wrp.beams[b]).vfy = r ∧ Counts s t (Reg.VFY_B_FAIL_CNT b) ∧
      t.flag (F.VFY_B_LAST_PASS b) = false ∧ t.flag (F.VFY_B_LAST_EARLY b) = true ∧
      t.queue (lbaZL w.lba) = s.queue (lbaZL w.lba) ++ [⟨w.lba, 0⟩] ∧ t = { s with regs := t.regs, wrp := t.wrp } ∧
      RegsBut ([Reg.VFY_B_LAST b, Reg.VFY_B_LBA b, Reg.VFY_B_FAIL_CNT b] ++ eventRegs Ev.vfyFail) s t) ∧
  (∀ (s : State) (b : Beam) (sync body : List Bool), s.vfyOn b = false → Gives (.verifyDecision b sync body) s s)

/-- R22, R175 to R177: a head takes a replacement pass on the zone-layer it works, once ready, and before that brings its scan to the
front of the rebuild; a gate in the pass takes the oldest queued block and the spare index its event names. OPC keeps the factor each
beam's window gives, and uses up 32 spare slots. R19, R49, R51, R54: a record event after 4,096 entries that finds its management slots
leaves no entry of the disc unrecorded, the next sequence number, and the disc record in layers 0 and 8; one that finds none is an error
of class 0x13 and leaves the sequence as it was. R20 to R22, R53: the rebuild scans the zone-layer at the front of its order, every spare
header it accepts has an entry at that spare index or a higher one, the next free index never falls, and a zone-layer whose scan is done
becomes ready. The beam that holds a planned block, evidence of management blocks, a record without its copy, and blocks read as the spec
has them in cases it leaves open, are the model's (log entries 17, 26, 41, 51). -/
def Obligations.SparesRecordsAndRebuild : Prop :=
  (∀ (s : State) (h : Head), s.wrp.pass[h] = none → s.passDue h (s.headZL h) = true → s.zlReady (s.headZL h) = true →
    s.nextFree (s.headZL h) < spares (s.headZL h) →
    ∃ t, Gives (.replacementPass h) s t ∧ t.wrp.pass[h] = some (s.headZL h) ∧ (∀ k : Head, k ≠ h → t.wrp.pass[k] = s.wrp.pass[k]) ∧
      t = { s with wrp := { s.wrp with pass := t.wrp.pass } }) ∧
  (∀ (s : State) (h : Head), s.wrp.pass[h] = none → s.passDue h (s.headZL h) = true → s.zlReady (s.headZL h) = false →
    s.headZL h ∈ s.disc.rebuild →
    ∃ t, Gives (.replacementPass h) s t ∧ t.disc.rebuild = s.headZL h :: s.disc.rebuild.erase (s.headZL h) ∧
      t = { s with disc := { s.disc with rebuild := t.disc.rebuild } }) ∧
  (∀ (s : State) (i : Entry) (now : Angle) (b : Beam) (q : RqBlk) (r : List RqBlk) (zl k : Nat), s.Fires i now 1 →
    (s.ang.entries[i]).arg.toNat = b.val → s.rd (F.DET_CTRL_MODE b) = s.rd (F.DET_STAT_MODE b) → zl < 320 →
    s.wrp.pass[beamHead b] = some zl → s.opcDue zl (beamHead b) = false → s.queue zl = q :: r →
    spareNamed zl (s.nextFree zl) b (slotNamed (zl % 20) (s.ang.entries[i]).target.toNat (s.ang.entries[i]).frac.toNat) = some k →
    k + 1 < spares zl → q.lba ∈ s.tsk.fetched → s.gateOk b = true → s.slotShut b zl s.ang.entries[i] = false →
    s.anyPoisoned (streamAddr (homeBeam q.lba) q.lba) 32768 = false →
    ∃ t, Gives (.wgateOpen i now true) s t ∧ t.queue zl = r ∧ t.nextFree zl = k + 1 ∧ t.wrp.pass[beamHead b] = some zl ∧
      (t.wrp.beams[b]).gate = some ⟨q.lba, .repl k, q.tries, zl, mkHeader 1 true false q.lba (s.rd F.TSK_DISC_WGEN),
        s.dramBytes (streamAddr (homeBeam q.lba) q.lba) 32768⟩ ∧ t.disc.table = s.disc.table ∧
      t = { s with regs := t.regs, hlk := t.hlk, mem := t.mem, wrp := t.wrp, disc := t.disc, ang := t.ang } ∧
      RegsBut ([Reg.LDD_SCALE (beamChan b), Reg.WRP_BLK_CNT (beamChan b)] ++ accessRegs ++ noteRegs) s t) ∧
  (∀ (s : State) (h : Head) (reads : List (List (Option (List Bool)))), s.opcDue (s.headZL h) h = true → s.zlReady (s.headZL h) = true →
    (s.nextFree (s.headZL h) + 3) / 4 * 4 + 32 ≤ spares (s.headZL h) →
    ∃ t, Gives (.opc h reads) s t ∧ Counts s t Reg.VFY_OPC_CNT ∧
      t.nextFree (s.headZL h) = (s.nextFree (s.headZL h) + 3) / 4 * 4 + 32 ∧
      t.opcFactors (s.headZL h) h = some ((List.range 4).map (fun d =>
        (opcResult (F.VFY_OPC_CFG_THR.of (s.opcCfg h)) (s.testTotals h reads d)).1)) ∧
      t.opcDue (s.headZL h) h = false ∧ t.wrp.opcRun[h] = none ∧
      t.wrp = { s.wrp with opcs := s.wrp.opcs + 1, opcRun := t.wrp.opcRun } ∧
      t = { s with regs := t.regs, hlk := t.hlk, wrp := t.wrp, disc := t.disc } ∧
      RegsBut ([Reg.VFY_OPC_CNT] ++ (List.range 4).flatMap (fun d => [Reg.WRP_OPC_RES (beamChan (headBeam h d)),
        Reg.WRP_OPC_MIS (beamChan (headBeam h d)), Reg.LDD_SCALE (beamChan (headBeam h d))]) ++ noteRegs) s t) ∧
  (∀ (s : State) (h : Head) (reads : List (List (Option (List Bool)))), s.opcDue (s.headZL h) h = true → s.zlReady (s.headZL h) = false →
    Gives (.opc h reads) s (s.zlFront (s.headZL h))) ∧
  (∀ (s : State) (verify : List MgmtVerify), s.flag F.TSK_DISC_LOADED = true → 4096 ≤ s.disc.added → (s.recordEvent false verify).1 = true →
    ∃ t, Gives (.recordEvent verify) s t ∧ (∀ e ∈ t.disc.table, lbaLayer e.lba < 16 → e.recorded = true) ∧
      t.disc.table.map (fun e => (e.lba, e.spare, e.wgen)) = s.disc.table.map (fun e => (e.lba, e.spare, e.wgen)) ∧
      t.disc.added = 0 ∧ t.disc.changed = false ∧ t.disc.recSeq = s.disc.recSeq + 1 ∧ t.disc.hasRecord = true ∧
      (t.disc.written.drop (t.disc.written.length - 2)).map (fun m => (m.layer.val, m.bytes)) =
        [0, 8].map (fun l => (l, discRecord (s.disc.recSeq + 1) s.discIdentity (s.rd F.TSK_DISC_WGEN) false s.disc.table.length
          s.disc.nextFree.toList t.disc.recorded.toList)) ∧
      t = { s with regs := t.regs, disc := t.disc } ∧ RegsBut verifyRegs s t) ∧
  (∀ (s : State) (verify : List MgmtVerify), s.flag F.TSK_DISC_LOADED = true → 4096 ≤ s.disc.added →
    (s.recordEvent false verify).1 = false → s.taskRunning = false →
    ∃ t, Gives (.recordEvent verify) s t ∧ Counts s t (Reg.TSK_EC_CNT 3) ∧ t.disc.recSeq = s.disc.recSeq ∧
      t.disc.hasRecord = s.disc.hasRecord ∧ t.disc.added = s.disc.added ∧
      t = { s with regs := t.regs, disc := t.disc } ∧ RegsBut (Reg.TSK_EC_CNT 3 :: verifyRegs) s t) ∧
  (∀ (s : State) (h : Head) (slots : List ScanSlot) (zl : Nat), s.rebuildNext h = some zl →
    ∃ t, Gives (.rebuildScan h slots) s t ∧ t.disc.rebuild = s.disc.rebuild.erase zl ∧ s.nextFree zl ≤ t.nextFree zl ∧
      (∀ i, i < min slots.length (scanExtent zl slots) → (scanEntry zl i (slots.getD i .blank)).all (fun e =>
        t.disc.table.any (fun f => f.lba == e.lba && decide (i ≤ f.spare))) = true) ∧
      t.disc.ready = s.disc.ready ∧
      t = { s with regs := t.regs, hlk := t.hlk, dram := t.dram, psn := t.psn, mem := t.mem, disc := t.disc, tsk := t.tsk }) ∧
  (∀ (s : State) (zl : ZoneLayer), s.flag F.TSK_DISC_LOADED = true → zl.val ∉ s.disc.rebuild → s.zlReady zl.val = false →
    (∀ k ∈ s.rcv.blks, k.phase ≠ .waiting ∧ k.phase ≠ .outside) →
    ∃ t, Gives (.zoneLayerReady zl) s t ∧ t.zlReady zl.val = true ∧ (∀ k : ZoneLayer, k ≠ zl → t.zlReady k.val = s.zlReady k.val) ∧
      t.evPending Ev.zlReady = true ∧ t.disc.table = s.disc.table ∧ t = { s with regs := t.regs, hlk := t.hlk, disc := t.disc })

/-! ## Read path -/

/-- R108, R109, R124, R125, R144: a capture run starts at a CAPTURE of a beam in a reading mode whose head samples, and is ignored with
CAPERR otherwise; DET_STOP ends it, and a slot in capture with it; a slot start takes a free sample buffer slot, with the settings of the
block's rung, serves no block where none is read there now, or ends OVERRUN. That a capture is ignored in these cases with CAPERR, by
enable and state, is the model's choice where no rule says it (log entry 50). -/
def Obligations.CaptureRuns : Prop :=
  (∀ (s : State) (i : Entry) (now : Angle) (b : Beam), s.Fires i now 4 → (s.ang.entries[i]).arg.toNat = b.val →
    (s.det[b]).run = none → s.rd (F.DET_CTRL_MODE b) % 2 = 1 → s.flag F.DET_GCTRL_EN = true → s.sampling b = true →
    ∃ t, Gives (.capture i now) s t ∧
      (∃ r, (t.det[b]).run = some r ∧ r.left = s.rd (F.DET_RUN_CFG_COUNT b) ∧ r.lba % 2 ^ 25 = s.rd (F.DET_RUN_LBA_LBA b) ∧
          r.spare = s.flag (F.DET_RUN_CFG_SPARE b) ∧ r.any = s.flag (F.DET_RUN_CFG_ANY b) ∧ r.band = s.headBand (beamHead b)) ∧
      t.rd (F.DET_STAT_MODE b) = s.rd (F.DET_CTRL_MODE b) ∧ (∀ c : Beam, c ≠ b → t.det[c] = s.det[c]) ∧
      (t.det[b]).cap = (s.det[b]).cap ∧ (t.det[b]).bufs = (s.det[b]).bufs ∧
      t = { s.fired i now with regs := t.regs, det := t.det } ∧ RegsBut [Reg.DET_STAT b] s t) ∧
  (∀ (s : State) (i : Entry) (now : Angle) (b : Beam), s.Fires i now 4 → (s.ang.entries[i]).arg.toNat = b.val →
    s.rd (F.DET_CTRL_MODE b) = s.rd (F.DET_STAT_MODE b) →
    (s.det[b]).run.isSome = true ∨ s.flag F.DET_GCTRL_EN = false ∨ s.sampling b = false →
    ∃ t, Gives (.capture i now) s t ∧ t.flag F.DET_GSTAT_CAPERR = true ∧ t = { s.fired i now with regs := t.regs } ∧
      RegsBut [Reg.DET_GSTAT] s t) ∧
  (∀ (s : State) (b : Beam) (mode : BitVec 2),
    ∃ t, Gives (.detMode b mode) s t ∧ t.rd (F.DET_CTRL_MODE b) = mode.toNat ∧ OnlyRegs [Reg.DET_CTRL b] s t) ∧
  (∀ (s : State) (b : Beam), (s.det[b]).run = none → Gives (.detStop b) s s) ∧
  (∀ (s : State) (b : Beam) (r : DetRun), (s.det[b]).run = some r → (s.det[b]).cap = none →
    ∃ t, Gives (.detStop b) s t ∧ t.det[b] = { s.det[b] with run := none } ∧ (∀ c : Beam, c ≠ b → t.det[c] = s.det[c]) ∧
      t = { s with det := t.det }) ∧
  (∀ (s : State) (b : Beam) (r : DetRun) (c : Capture), (s.det[b]).run = some r → (s.det[b]).cap = some c →
    s.rd (F.DET_STAT_MODE b) = 3 → c.eqset ≠ 0 → c.rlvl = none →
    ∃ t, Gives (.detStop b) s t ∧ (t.det[b]).run = none ∧ (t.det[b]).cap = none ∧ (t.det[b]).bufs[c.buf] = none ∧
      (t.reg (Reg.DET_LAST_RES b)).toNat / 2 ^ 29 = 7 ∧ Counts s t (Reg.DET_ABORT_CNT b) ∧ Counts s t (Reg.DET_BLK_CNT b) ∧
      (∀ d : Beam, d ≠ b → t.det[d] = s.det[d]) ∧ t = { s with regs := t.regs, det := t.det, acq := t.acq } ∧
      RegsBut [Reg.DET_LAST_RES b, Reg.DET_ABORT_CNT b, Reg.DET_BLK_CNT b] s t) ∧
  (∀ (s : State) (b : Beam), s.rd (F.DET_CTRL_MODE b) = s.rd (F.DET_STAT_MODE b) → (s.det[b]).run = none → Gives (.slotStart b) s s) ∧
  (∀ (s : State) (b : Beam) (r : DetRun) (k : RBlk) (i : Fin 6), (s.det[b]).run = some r → (s.det[b]).cap = none →
    (s.det[b]).bufs[i] = none → s.rd (F.DET_CTRL_MODE b) = s.rd (F.DET_STAT_MODE b) → s.slotBlk b r = some k →
    ∃ t, Gives (.slotStart b) s t ∧
      (∃ c, (t.det[b]).cap = some c ∧ c = s.capOf b r k c.buf ∧ c.serves = true ∧
          (s.det[b]).bufs[c.buf] = none ∧ (t.det[b]).bufs[c.buf] = some { lba := r.lba }) ∧ (t.det[b]).run = some r ∧
      (∀ d : Beam, d ≠ b → t.det[d] = s.det[d]) ∧ t = { s with regs := t.regs, det := t.det, wrp := t.wrp, mem := t.mem } ∧
      RegsBut [Reg.LDD_CTRL (beamChan b), Reg.LDD_STAT (beamChan b)] s t) ∧
  (∀ (s : State) (b : Beam) (r : DetRun), (s.det[b]).run = some r → (s.det[b]).cap = none →
    s.rd (F.DET_CTRL_MODE b) = s.rd (F.DET_STAT_MODE b) → s.slotBlk b r = none → (∃ i : Fin 6, (s.det[b]).bufs[i] = none) →
    ∃ t, Gives (.slotStart b) s t ∧
      (∃ c, (t.det[b]).cap = some c ∧ c = { s.capOf b r { lba := r.lba, beam := slotHome b r } c.buf with serves := false } ∧
          (s.det[b]).bufs[c.buf] = none ∧ (t.det[b]).bufs[c.buf] = some { lba := r.lba }) ∧ (t.det[b]).run = some r ∧
      (∀ d : Beam, d ≠ b → t.det[d] = s.det[d]) ∧ t = { s with det := t.det, mem := t.mem }) ∧
  (∀ (s : State) (b : Beam) (r : DetRun), (s.det[b]).run = some r → (s.det[b]).cap = none → s.rd (F.DET_CTRL_MODE b) = 3 →
    s.rd (F.DET_STAT_MODE b) = 3 → (∀ i : Fin 6, ((s.det[b]).bufs[i]).isSome = true) →
    ∃ t, Gives (.slotStart b) s t ∧ t.det[b] = { s.det[b] with run := r.next } ∧ (t.reg (Reg.DET_LAST_RES b)).toNat / 2 ^ 29 = 6 ∧
      Counts s t (Reg.DET_OVR_CNT b) ∧ (∀ d : Beam, d ≠ b → t.det[d] = s.det[d]) ∧ t = { s with regs := t.regs, det := t.det } ∧
      RegsBut [Reg.DET_LAST_RES b, Reg.DET_OVR_CNT b, Reg.DET_BLK_CNT b] s t)

/-- R114, R117, R118, R120, R125: the decisions of a slot in capture. The sync mark and the header accepted are kept for the slot, marked
regions gather, and a slot that ends good hands its samples to DEC's queue of first passes. How the updates of the live taps are rounded
is the model's choice (log entry 66). -/
def Obligations.SlotDecisions : Prop :=
  (∀ (s : State) (b : Beam) (cands : List SyncCand) (env : Nat) (r : DetRun) (c : Capture) (q : SyncCand), (s.det[b]).run = some r →
    (s.det[b]).cap = some c → c.sync = none → bestSync c.win (s.rd (F.DET_SYNC_CFG_MAXD b)) cands = some q →
    ∃ t, Gives (.syncDecision b cands env) s t ∧ (t.det[b]).cap = some { c with sync := some (q.ofs, q.dist) } ∧
      (t.det[b]).run = some r ∧ (t.det[b]).bufs = (s.det[b]).bufs ∧ (∀ d : Beam, d ≠ b → t.det[d] = s.det[d]) ∧
      t = { s with det := t.det }) ∧
  (∀ (s : State) (b : Beam) (cells : List Int) (r : DetRun) (c : Capture) (w : Dword), (s.det[b]).run = some r →
    (s.det[b]).cap = some c → c.sync.isSome = true → c.header = none → headerDecode (s.rd (F.DET_HDR_CFG_AMB b)) cells = some w →
    headerAccept (s.detScans b r) r.spare r.lba r.zl w = true →
    ∃ t, Gives (.headerDecision b cells) s t ∧ (t.det[b]).cap = some { c with header := some w } ∧
      t.pair (Reg.DET_LAST_HDR_LO b) = w.toNat ∧ (t.det[b]).run = some r ∧ (t.det[b]).bufs = (s.det[b]).bufs ∧
      (∀ d : Beam, d ≠ b → t.det[d] = s.det[d]) ∧ t = { s with regs := t.regs, det := t.det } ∧
      RegsBut [Reg.DET_LAST_HDR_LO b, Reg.DET_LAST_HDR_LO b + 4] s t) ∧
  (∀ (s : State) (b : Beam) (first low back e f : Nat) (c : Capture), (s.det[b]).cap = some c → s.DipsBelow b c e →
    s.WithinLimits b c f → 0 < s.rd (F.DET_DEF_PROFILE_PERS c.elvl) → s.rd (F.DET_DEF_PROFILE_PERS c.elvl) ≤ low →
    s.rd (F.DET_DEF_PROFILE_PERS c.elvl) ≤ back →
    ∃ t, Gives (.defectRegion b first (List.replicate low e ++ List.replicate back f)) s t ∧
      (t.det[b]).cap = some { c with marks := c.marks ++
        [(first - 4 * s.rd (F.DET_DEF_PROFILE_EXT c.elvl), first + low - 1 + 4 * s.rd (F.DET_DEF_PROFILE_EXT c.elvl))] } ∧
      t.acq = { s.acq with defect := s.acq.defect.set b false } ∧
      Counts s t (Reg.DET_DEF_CNT b) ∧ (∀ d : Beam, d ≠ b → t.det[d] = s.det[d]) ∧
      t = { s with regs := t.regs, det := t.det, acq := t.acq } ∧ RegsBut [Reg.DET_DEF_CNT b] s t) ∧
  (∀ (s : State) (b : Beam) (first n f : Nat) (c : Capture), (s.det[b]).cap = some c → s.WithinLimits b c f →
    Gives (.defectRegion b first (List.replicate n f)) s { s with acq := { s.acq with defect := s.acq.defect.set b false } }) ∧
  (∀ (s : State) (b : Beam) (x : CaptureIn) (r : DetRun) (c : Capture) (k : RBlk), (s.det[b]).run = some r → (s.det[b]).cap = some c →
    c.header.isSome = true → c.serves = true → (erasedCounts (erasedGroups c.marks)).foldl max 0 ≤ s.rd F.DET_ERASE_MAX_MAX →
    s.detScans b r = false → c.repass = false → c.rlvl = none → s.expectBlk b r = some k →
    ∃ t, Gives (.captureEnd b x) s t ∧ (t.det[b]).cap = none ∧ (t.det[b]).run = r.next ∧
      ((t.det[b]).bufs[c.buf]).map (·.lba) = some r.lba ∧
      t.dec.fpq = s.dec.fpq ++ [⟨k.lba, k.beam, b, c.buf, k.rung, false, k.conv, none⟩] ∧ t.dec.rq = s.dec.rq ∧
      t.dec.lanes = s.dec.lanes ∧ Counts s t (Reg.DET_BLK_CNT b) ∧ (∀ d : Beam, d ≠ b → t.det[d] = s.det[d]) ∧
      t = { s with regs := t.regs, det := t.det, dec := t.dec, rcv := t.rcv, acq := t.acq } ∧ RegsBut (captureRegs b) s t)

/-- R128 to R134, R388, R477: a free lane of the pool takes the next block; the end of its decode enters the collector and stores nothing
outside the block's stream buffer slot, and a poisoned sample buffer fails it; the collector frees the lane; a known-answer test goes to
the next lane of the pool in turn; a parity failure returns the block to the head of its queue and condemns the lane. The slot of the
stream buffer, when it is allocated, the lane a test goes to and DEC's enable are the model's (log entries 16, 19, 22, 50). -/
def Obligations.DecoderLanes : Prop :=
  (∀ (s : State) (l : DecLane) (us : Nat) (e : DecBlk) (fromR : Bool), s.laneFree l = true → s.laneBefore l us = false →
    s.nextBlk l us = some (e, fromR) →
    ∃ t, Gives (.laneTake l us) s t ∧ (t.dec.lanes[l]).cur = some e ∧ (t.dec.lanes[l]).fromR = fromR ∧
      (t.dec.lanes[l]).limit = s.rungIter e.rung ∧ (∀ k : DecLane, k ≠ l → t.dec.lanes[k] = s.dec.lanes[k]) ∧
      t.dec.fpq = (if fromR then s.dec.fpq else s.dec.fpq.erase e) ∧ t.dec.rq = (if fromR then s.dec.rq.erase e else s.dec.rq) ∧
      t = { s with dec := t.dec }) ∧
  (∀ (s : State) (l : DecLane) (cws : List CwIn) (e : DecBlk), (s.dec.lanes[l]).cur = some e → (s.dec.lanes[l]).outReq = false →
    s.dec.clt[l] = none → e.kat.isSome = true ∨ s.sramBad 5 (6 * e.cap.val + e.buf.val) = false →
    ∃ t, Gives (.decodeEnd l cws) s t ∧ (t.dec.lanes[l]).cur = none ∧
      (∃ r, t.dec.clt[l] = some r ∧ r.blk.lba = e.lba ∧ r.good = decodesAll s l e cws ∧ (r.good = true ↔ r.failmap = 0)) ∧
      t.dec.fpq = s.dec.fpq ∧ t.dec.rq = s.dec.rq ∧ DramBut (streamAddr e.home e.lba) 32768 s t ∧
      (e.kat.isSome = true → DramKept s t)) ∧
  (∀ (s : State) (l : DecLane) (cws : List CwIn) (e : DecBlk), (s.dec.lanes[l]).cur = some e → (s.dec.lanes[l]).outReq = false →
    s.dec.clt[l] = none → e.kat = none → s.sramBad 5 (6 * e.cap.val + e.buf.val) = true → e.conv ≠ 0xFF →
    ∃ t, Gives (.decodeEnd l cws) s t ∧ (t.dec.lanes[l]).cur = none ∧ (∃ r, t.dec.clt[l] = some r ∧ r.good = false) ∧
      Counts s t Reg.MIC_S_CONS_CNT ∧ DramKept s t) ∧
  (∀ (s : State) (l : DecLane) (r : DecRes), (s.reg Reg.DEC_CLT_PTR).toNat = l.val → s.dec.clt[l] = some r → r.blk.kat = none →
    s.rblk r.blk.lba = none →
    ∃ t, Gives .collectorDrain s t ∧ t.reg Reg.DEC_CLT_PTR = BitVec.ofNat 32 ((l.val + 1) % 18) ∧
      t.dec.clt[l] = (s.dec.lanes[l]).held ∧ (t.dec.lanes[l]).held = none ∧ t.reg (Reg.DEC_L_LAST l) = r.word ∧
      t.reg (Reg.DEC_B_RES r.blk.home) = r.word ∧ Counts s t (Reg.DEC_L_BLK_CNT l) ∧ DramKept s t) ∧
  (∀ (s : State) (l : DecLane), s.laneIn l = true →
    ∃ t, Gives .knownAnswerTest s t ∧ (∃ k, s.laneIn k = true ∧ t.reg Reg.AXL_KAT_STAT = BitVec.ofNat 32 k.val ∧
      (t.dec.rq.map (·.kat)) = s.dec.rq.map (·.kat) ++ [some k]) ∧ t = { s with regs := t.regs, dec := { s.dec with rq := t.dec.rq } } ∧
      RegsBut [Reg.AXL_KAT_STAT] s t) ∧
  (∀ (s : State) (l : DecLane) (e : DecBlk), (s.dec.lanes[l]).cur = some e → (s.dec.lanes[l]).held = none →
    ∃ t, Gives (.messageMemoryParity l) s t ∧ (t.dec.lanes[l]).cur = none ∧ (t.dec.lanes[l]).sick = true ∧
      t.dec.fpq = (if (s.dec.lanes[l]).fromR then s.dec.fpq else e :: s.dec.fpq) ∧
      t.dec.rq = (if (s.dec.lanes[l]).fromR then e :: s.dec.rq else s.dec.rq) ∧ Counts s t (Reg.DEC_L_PAR_CNT l) ∧
      t.axlReq = s.axlReq ++ [⟨1, 0, Fin.ofNat 16777216 l.val, 2⟩] ∧ DramKept s t)

/-! ## Servo, loop supervisors, motors -/

/-- R206, R210, R212, R215: SRV's own commands. Commits and presets are ordered for the next sample instant, every preset after those
ordered before it, a mode is written to the group's control register, and the spare moves its shadow to a lane in use once 65,536 samples
have passed. -/
def Obligations.ServoCommands : Prop :=
  (∀ (s : State) (g : BitVec 11), ∃ t, Gives (.commit g) s t ∧ t.srv.commit = s.srv.commit ||| g ∧
    t = { s with srv := { s.srv with commit := t.srv.commit } }) ∧
  (∀ (s : State) (v : Word), ∃ t, Gives (.srvPreset v) s t ∧ t.srv.presets = s.srv.presets ++ [(v.extractLsb' 0 11, v.getLsbD 11)] ∧
    t = { s with srv := { s.srv with presets := t.srv.presets } }) ∧
  (∀ (s : State) (g : Group) (v : Word), ∃ t, Gives (.srvMode g v) s t ∧ t.rd (modeField g) = v.toNat % 4 ∧
    t.rd (nextModeField g) = v.toNat / 16 % 4 ∧ t.flag (nmenField g) = v.getLsbD 7 ∧ OnlyRegs [(modeField g).reg] s t) ∧
  (∀ (s : State) (l : Fin 5), s.spareGood = true → s.flag F.SRV_SPARE_CFG_EN = true → (s.reg Reg.SRV_LANES).getLsbD (8 + l.val) = true →
    65536 ≤ s.srv.shadowN →
    ∃ t, Gives .spareShadowMove s t ∧ (s.reg Reg.SRV_LANES).getLsbD (8 + t.srv.shadow.val) = true ∧
      t = { s with srv := { s.srv with shadow := t.srv.shadow, shadowN := 0 } }) ∧
  (∀ s : State, s.srv.shadowN < 65536 → Gives .spareShadowMove s s)

/-- R195: an output that a mode OPEN or CLOSED selects never passes its limit, in OFF it is 0, and in HOLD or while its group is held it
keeps its value. That the cap of a head's limit does not bound a small channel's is the model's choice (log entry 51). -/
def Obligations.ServoOutputsAreLimited : Prop :=
  ∀ (s : State) (g : Head) (held : Bool) (comp : Nat → Int) (j : Nat),
    (s.selectU g 0 held comp j).1 = 0 ∧
    (∀ m, m = 1 ∨ m = 2 → (s.selectU g m false comp j).1 ≤ s.ulim (Fin.ofNat 11 g.val) j ∧
      -s.ulim (Fin.ofNat 11 g.val) j ≤ (s.selectU g m false comp j).1) ∧
    (∀ m, m ≠ 0 → (s.selectU g m true comp j).1 = s.int (Reg.SRV_G_U g j)) ∧
    (j < s.nout → (s.selectU g 3 held comp j).1 = s.int (Reg.SRV_G_U g j))

/-- R225, R229 to R237: what the commands of a loop supervisor begin. ACQUIRE and LAYER move the corrector, with the corrector loop in
HOLD; a JUMP waits for its frame unless NOW is set; RELEASE and STOP end at once. That a refused MOVE of SLD ends the command as a stall
does is the model's choice (log entry 67). -/
def Obligations.LoopCommands : Prop :=
  (∀ (s : State) (h : Head), s.lsvRefusal h 1 0 = none → (s.sup h).st ≠ 6 → s.sldRefusal (corrector h) 1 (s.flag (F.SLD_STAT_BUSY (corrector h))) = none → s.bridges = true →
    ∃ t, Gives (.acquire h) s t ∧ (t.sup h).op = .acquire ∧ (t.sup h).inner = .acquire ∧ (t.sup h).st = 1 ∧
      (t.sup h).aim = s.rd (F.LSV_H_TGT_LAYER h) ∧ t.rd (F.LSV_H_STAT_STATE h) = 1 ∧ t.flag (F.LSV_H_STAT_BUSY h) = true ∧
      t.rd (modeField (corrGroup h)) = 3 ∧
      t.reg (Reg.SLD_TGT (corrector h)) = BitVec.ofInt 32 (s.saPos h (s.rd (F.LSV_H_TGT_LAYER h))) ∧
      t.flag (F.SLD_STAT_BUSY (corrector h)) = true ∧ (t.sld[corrector h]).owner = some h ∧
      t = { s with regs := t.regs, hlk := t.hlk, lsv := t.lsv, sld := t.sld }) ∧
  (∀ (s : State) (h : Head), s.lsvRefusal h 2 0 = none → s.rd (F.LSV_H_TGT_LAYER h) ≠ s.rd (F.ANG_HPOS_LAYER h) → s.quiet h →
    s.sldRefusal (corrector h) 1 (s.flag (F.SLD_STAT_BUSY (corrector h))) = none → s.bridges = true →
    ∃ t, Gives (.layer h) s t ∧ (t.sup h).op = .layer ∧ (t.sup h).inner = .layer ∧ (t.sup h).ph = .toMid ∧ (t.sup h).st = 1 ∧
      (t.sup h).aim = (if s.rd (F.ANG_HPOS_LAYER h) < s.rd (F.LSV_H_TGT_LAYER h) then s.rd (F.ANG_HPOS_LAYER h) + 1
        else s.rd (F.ANG_HPOS_LAYER h) - 1) ∧
      t.flag (F.LSV_H_STAT_BUSY h) = true ∧ (t.sld[corrector h]).owner = some h ∧
      t = { s with regs := t.regs, hlk := t.hlk, lsv := t.lsv, sld := t.sld }) ∧
  (∀ (s : State) (h : Head) (d : BitVec 16), s.lsvRefusal h 3 d.toInt = none → s.flag (F.LSV_H_JANG_NOW h) = false →
    ∃ t, Gives (.jump h d) s t ∧ (t.sup h).op = .jump ∧ (t.sup h).delta = d.toInt ∧ (t.sup h).launch = true ∧
      (t.sup h).st = (s.sup h).st ∧ t.flag (F.LSV_H_STAT_BUSY h) = true ∧ t = { s with regs := t.regs, lsv := t.lsv } ∧
      RegsBut [Reg.LSV_H_STAT h] s t) ∧
  (∀ (s : State) (h : Head), s.lsvRefusal h 4 0 = none → s.rd (F.ANG_HPOS_LAYER h) = s.rd (F.LSV_H_TGT_LAYER h) →
    s.isJump h (s.rd (F.LSV_H_TGT_BAND h) - s.headBand h) = true → s.flag (F.LSV_H_JANG_NOW h) = false →
    ∃ t, Gives (.seek h) s t ∧ (t.sup h).op = .seek ∧ (t.sup h).inner = .jump ∧
      (t.sup h).delta = s.rd (F.LSV_H_TGT_BAND h) - s.headBand h ∧ (t.sup h).launch = true ∧
      t.flag (F.LSV_H_STAT_BUSY h) = true ∧ t = { s with regs := t.regs, lsv := t.lsv } ∧ RegsBut [Reg.LSV_H_STAT h] s t) ∧
  (∀ (s : State) (h : Head), s.lsvRefusal h 5 0 = none → s.quiet h →
    ∃ t, Gives (.release h) s t ∧ (t.sup h).op = .none ∧ (t.sup h).st = 0 ∧ t.rd (F.LSV_H_STAT_STATE h) = 0 ∧
      t.rd (modeField (headGroup h)) = 0 ∧ t.rd (modeField (corrGroup h)) = 3 ∧ t.rd (modeField (sledGroup h)) = 0 ∧
      t.flag (F.LSV_H_STAT_FOC h) = false ∧ t.flag (F.LSV_H_STAT_TRK h) = false ∧ t.flag (F.LSV_H_STAT_DONE h) = true ∧
      t.flag (F.LSV_H_STAT_BUSY h) = false ∧ t.rd (F.LSV_H_STAT_ERRCLS h) = 0 ∧ t.evPending (Ev.loopDone h) = true ∧
      t = { s with regs := t.regs, hlk := t.hlk, lsv := t.lsv }) ∧
  (∀ (s : State) (h : Head), s.lsvRefusal h 6 0 = none →
    ∃ t, Gives (.lsvStop h) s t ∧ (t.sup h).op = .none ∧ (t.sup h).st = (s.sup h).st ∧ t.flag (F.LSV_H_STAT_DONE h) = true ∧
      t.flag (F.LSV_H_STAT_BUSY h) = false ∧ t.rd (F.LSV_H_STAT_ERRCLS h) = 0 ∧ t.evPending (Ev.loopDone h) = true ∧
      t = { s with regs := t.regs, lsv := t.lsv, sld := t.sld })

/-- R231 to R237: the stages of a supervisor: the launch of a waiting jump, the ends of the two kicks and of the two brakes after their
samples, of FSETTLE after 1,024 of them and of a Gazelle's wait, and a single jump or a pull-in that took too long; the samples of a stage
not yet over, such a command changes nothing, and none does without ownership (R242). How far a Gazelle and a jump have come is counted
from samples; where the layer jump's middle lies, and what a stall of a channel does, are the model's reading (log entries 23, 67). -/
def Obligations.LoopStages : Prop :=
  (∀ (s : State) (h : Head) (f : Fin 8192), s.owned = true → (s.sup h).st = 6 → (s.sup h).launch = true → f.val = s.rd (F.LSV_H_JANG_FRAME h) → s.quiet h →
    ∃ t, Gives (.jumpLaunch h f) s t ∧ (t.sup h).launch = false ∧ (t.sup h).ph = .kick ∧ (t.sup h).st = 8 ∧ (t.sup h).cross = 0 ∧
      (t.sup h).origin = s.headBand h ∧ (t.sup h).held = s.outputs h ∧ t.flag (F.LSV_H_STAT_TRK h) = false ∧
      Counts s t (Reg.LSV_H_JMP_CNT h) ∧ t.srv.commit.getLsbD h.val = true ∧
      t = { s with regs := t.regs, hlk := t.hlk, lsv := t.lsv, srv := t.srv, mem := t.mem }) ∧
  (∀ (s : State) (h : Head), s.owned = true → (s.sup h).st = 7 →
    ((s.sup h).ph = .kick ∧ s.rd (F.LSV_H_KICK_KN h) ≤ (s.sup h).kn) ∨ ((s.sup h).ph = .brake ∧ s.rd (F.LSV_H_KICK_BN h) ≤ (s.sup h).kn) →
    ∃ t, Gives (.kickEnd h) s t ∧ (t.sup h).ph = (if (s.sup h).ph = .kick then .wait else .land) ∧
      t.reg (Reg.SRV_G_UOPEN h 0) = BitVec.ofInt 32 ((s.sup h).held.getD 0 0) ∧ t = { s with regs := t.regs, lsv := t.lsv } ∧
      RegsBut [Reg.SRV_G_UOPEN h 0] s t) ∧
  (∀ (s : State) (h : Head), s.owned = true → (s.sup h).st = 8 →
    ((s.sup h).ph = .kick ∧ s.rd (F.LSV_H_TKICK_TN h) ≤ (s.sup h).kn) ∨ ((s.sup h).ph = .brake ∧ s.rd (F.LSV_H_TKICK_TBN h) ≤ (s.sup h).kn) →
    ∃ t, Gives (.trackingKickEnd h) s t ∧ (t.sup h).ph = (if (s.sup h).ph = .kick then .wait else .land) ∧
      t.reg (Reg.SRV_G_TGT h 1) = BitVec.ofInt 32 (s.int (Reg.SRV_G_MEM h 17) - (s.sup h).held.getD 1 0) ∧
      t = { s with regs := t.regs, lsv := t.lsv } ∧ RegsBut [Reg.SRV_G_TGT h 1] s t) ∧
  (∀ (s : State) (h : Head), s.owned = true → (s.sup h).st = 3 → (s.sup h).n = 1024 → (s.sup h).op ≠ .none →
    ∃ t, Gives (.fsettleEnd h) s t ∧ (t.sup h).st = 4 ∧
      t.reg (Reg.LSV_H_SUMREF h) = BitVec.ofInt 32 ((s.sup h).acc / 1024) ∧
      t = { s with regs := t.regs, hlk := t.hlk, lsv := t.lsv } ∧
      RegsBut ([Reg.LSV_H_SUMREF h, Reg.SRV_G_TGT h 1, Reg.LSV_H_STAT h] ++ noteRegs) s t) ∧
  (∀ (s : State) (h : Head), s.owned = true → (s.sup h).st = 4 → 16384 ≤ (s.sup h).smp → (s.sup h).op ≠ .none →
    (s.sup h).inner = .acquire → (s.sup h).tries + 1 < s.rd (F.LSV_H_FSRCH_TRIES h) →
    ∃ t, Gives (.tpullTimeout h) s t ∧ (t.sup h).st = 2 ∧ (t.sup h).tries = (s.sup h).tries + 1 ∧
      t.flag (F.LSV_H_STAT_FOC h) = false ∧ t.flag (F.LSV_H_STAT_TRK h) = false ∧ t.rd (modeField (headGroup h)) = 1 ∧
      t = { s with regs := t.regs, hlk := t.hlk, lsv := t.lsv, srv := t.srv, mem := t.mem }) ∧
  (∀ (s : State) (h : Head), s.owned = true → (s.sup h).st = 7 → 64 * s.rd (F.LSV_H_KICK_TO h) ≤ (s.sup h).smp → (s.sup h).op ≠ .none →
    (s.sup h).search = false →
    ∃ t, Gives (.singleJumpTimeout h) s t ∧ (t.sup h).st = 2 ∧ (t.sup h).search = true ∧ t.rd (modeField (headGroup h)) = 1 ∧
      t = { s with regs := t.regs, hlk := t.hlk, lsv := t.lsv, srv := t.srv, mem := t.mem }) ∧
  (∀ (s : State) (h : Head), s.owned = true → s.seeks h = true → s.flag (F.SLD_STAT_BUSY (headSled h)) = false →
    64 * s.rd (F.LSV_S_SEEKCFG_SETTLE (headSled h)) ≤ (s.sup h).smp →
    ∃ t, Gives (.seekSettleEnd h) s t ∧ (t.sup h).st = 4 ∧ t.rd (modeField (sledGroup h)) = 2 ∧
      (t.reg (Reg.SRV_S_MEM 1 (16 * (headSled h).val))).toNat % 256 =
        0x14 + (sledHead (headSled h) (s.rd (F.LSV_S_LEAD_LEAD (headSled h)))).val ∧
      t.srv.commit.getLsbD (sledGroup h).val = true ∧
      (s.seeks (otherHead h) = true → (t.sup (otherHead h)).st = 4) ∧
      t = { s with regs := t.regs, hlk := t.hlk, lsv := t.lsv, srv := t.srv }) ∧
  (∀ (s : State) (h : Head), (s.sup h).st = 7 → (s.sup h).ph = .kick → (s.sup h).kn < s.rd (F.LSV_H_KICK_KN h) → Gives (.kickEnd h) s s) ∧
  (∀ (s : State) (h : Head), (s.sup h).n < 1024 → Gives (.fsettleEnd h) s s) ∧
  (∀ (s : State) (h : Head), (s.sup h).smp < 16384 → Gives (.tpullTimeout h) s s) ∧
  (∀ (s : State) (h : Head), (s.sup h).smp < 64 * s.rd (F.LSV_H_KICK_TO h) → Gives (.singleJumpTimeout h) s s) ∧
  (∀ (s : State) (h : Head), s.owned = false → (∀ f, Gives (.jumpLaunch h f) s s) ∧ Gives (.kickEnd h) s s ∧ Gives (.trackingKickEnd h) s s ∧
    Gives (.fsettleEnd h) s s ∧ Gives (.tpullTimeout h) s s ∧ Gives (.singleJumpTimeout h) s s ∧ Gives (.seekSettleEnd h) s s)

/-- R239, R240: a loss is declared after the samples that its limit gives; in FOLLOW it is counted, and with FRETRY left the head
recovers: STATE reads RECOVER, and ACQUIRE runs for the layer it followed. Without ownership a loss is counted and nothing is launched
(R242); with focus and track lost in one sample focus is lost (R243). -/
def Obligations.LossesAreRecovered : Prop :=
  (∀ (s : State) (h : Head), s.owned = true → s.flag (F.LSV_H_STAT_FOC h) = true → s.rd (F.LSV_H_LOSS_FLN h) ≤ (s.sup h).low →
    (s.sup h).st = 6 → s.quiet h → s.rd (F.LSV_H_LOSS_FRETRY h) ≠ 0 →
    s.sldRefusal (corrector h) 1 (s.flag (F.SLD_STAT_BUSY (corrector h))) = none → s.bridges = true →
    ∃ t, Gives (.focusLost h) s t ∧ (t.sup h).op = .recover 0x20 ∧ (t.sup h).inner = .acquire ∧ (t.sup h).st = 1 ∧
      (t.sup h).left = s.rd (F.LSV_H_LOSS_FRETRY h) ∧ (t.sup h).layer = s.rd (F.ANG_HPOS_LAYER h) ∧
      t.rd (F.LSV_H_STAT_STATE h) = 10 ∧ t.flag (F.LSV_H_STAT_FOC h) = false ∧ t.flag (F.LSV_H_STAT_BUSY h) = true ∧
      Counts s t (Reg.LSV_H_FL_CNT h) ∧ Counts s t (Reg.LSV_H_RCV_CNT h) ∧
      t = { s with regs := t.regs, hlk := t.hlk, lsv := t.lsv, sld := t.sld }) ∧
  (∀ (s : State) (h : Head), s.owned = true → s.flag (F.LSV_H_STAT_TRK h) = true → 16 * s.rd (F.LSV_H_LOSS_TLN h) ≤ (s.sup h).clip →
    s.flag (F.LSV_H_STAT_FOC h) = false ∨ (s.sup h).low < s.rd (F.LSV_H_LOSS_FLN h) → (s.sup h).st = 6 → s.quiet h → s.rd (F.LSV_H_LOSS_FRETRY h) ≠ 0 →
    s.sldRefusal (corrector h) 1 (s.flag (F.SLD_STAT_BUSY (corrector h))) = none → s.bridges = true →
    ∃ t, Gives (.trackLost h) s t ∧ (t.sup h).op = .recover 0x21 ∧ (t.sup h).inner = .acquire ∧ (t.sup h).st = 1 ∧
      (t.sup h).left = s.rd (F.LSV_H_LOSS_FRETRY h) ∧ (t.sup h).layer = s.rd (F.ANG_HPOS_LAYER h) ∧
      t.rd (F.LSV_H_STAT_STATE h) = 10 ∧ t.flag (F.LSV_H_STAT_FOC h) = s.flag (F.LSV_H_STAT_FOC h) ∧
      t.flag (F.LSV_H_STAT_BUSY h) = true ∧ Counts s t (Reg.LSV_H_TL_CNT h) ∧ Counts s t (Reg.LSV_H_RCV_CNT h) ∧
      t = { s with regs := t.regs, hlk := t.hlk, lsv := t.lsv, sld := t.sld }) ∧
  (∀ (s : State) (h : Head), s.flag (F.LSV_H_STAT_FOC h) = true → s.rd (F.LSV_H_LOSS_FLN h) ≤ (s.sup h).low →
    s.flag (F.LSV_H_STAT_TRK h) = true → 16 * s.rd (F.LSV_H_LOSS_TLN h) ≤ (s.sup h).clip →
    ∃ t, Gives (.trackLost h) s t ∧ Gives (.focusLost h) s t) ∧
  (∀ (s : State) (h : Head), s.owned = false → s.flag (F.LSV_H_STAT_FOC h) = true → s.rd (F.LSV_H_LOSS_FLN h) ≤ (s.sup h).low →
    ∃ t, Gives (.focusLost h) s t ∧ Counts s t (Reg.LSV_H_FL_CNT h) ∧ t.sup h = { s.sup h with low := 0, clip := 0, slips := [] } ∧
      t = { s with regs := t.regs, lsv := t.lsv } ∧ RegsBut [Reg.LSV_H_FL_CNT h] s t) ∧
  (∀ (s : State) (h : Head), s.owned = false → s.flag (F.LSV_H_STAT_TRK h) = true → 16 * s.rd (F.LSV_H_LOSS_TLN h) ≤ (s.sup h).clip →
    s.flag (F.LSV_H_STAT_FOC h) = false ∨ (s.sup h).low < s.rd (F.LSV_H_LOSS_FLN h) →
    ∃ t, Gives (.trackLost h) s t ∧ Counts s t (Reg.LSV_H_TL_CNT h) ∧ t.sup h = { s.sup h with low := 0, clip := 0, slips := [] } ∧
      t = { s with regs := t.regs, lsv := t.lsv } ∧ RegsBut [Reg.LSV_H_TL_CNT h] s t) ∧
  (∀ (s : State) (h : Head), s.flag (F.LSV_H_STAT_FOC h) = false ∨ (s.sup h).low < s.rd (F.LSV_H_LOSS_FLN h) → Gives (.focusLost h) s s) ∧
  (∀ (s : State) (h : Head), s.flag (F.LSV_H_STAT_TRK h) = false ∨ (s.sup h).clip < 16 * s.rd (F.LSV_H_LOSS_TLN h) → Gives (.trackLost h) s s)

/-- R255 to R263: what an accepted spindle command does at once. Which command is accepted in progress of another, and the unit of the q
reference, are the model's (log entries 38, 67). -/
def Obligations.SpindleCommands : Prop :=
  (∀ s : State, s.spnRefusal 1 = none → s.spnState = 0 →
    ∃ t, Gives .spin s t ∧ t.spnState = 2 ∧ t.spn.cmd = 1 ∧ t.spn.starts = 1 ∧ t.flag F.SPN_STAT_BUSY = true ∧
      Counts s t Reg.SPN_START_CNT ∧ t = { s with regs := t.regs, spn := t.spn } ∧ RegsBut spnRegs s t) ∧
  (∀ s : State, s.spnRefusal 1 = none → s.spnState ≠ 0 →
    ∃ t, Gives .spin s t ∧ t.spnState = 4 ∧ t.spn.cmd = 1 ∧ t.flag F.SPN_STAT_BUSY = true ∧
      t = { s with regs := t.regs, spn := t.spn } ∧ RegsBut spnRegs s t) ∧
  (∀ s : State, s.spnRefusal 2 = none → s.spnLoops = true →
    ∃ t, Gives .spnStop s t ∧ t.spnState = 5 ∧ t.spn.cmd = 2 ∧ t.spn.drive = 1 ∧ t.rd F.SPN_TARGET_RPM = 0 ∧
      t.flag F.SPN_STAT_ATSPEED = false ∧ t.flag F.SPN_STAT_BUSY = true ∧ t = { s with regs := t.regs, spn := t.spn } ∧
      RegsBut spnRegs s t) ∧
  (∀ s : State, s.spnRefusal 3 = none →
    ∃ t, Gives .brake s t ∧ t.spnState = 6 ∧ t.spn.cmd = 3 ∧ t.rd (modeField 4) = 0 ∧ t.flag F.SPN_STAT_BUSY = true ∧
      t = { s with regs := t.regs, spn := t.spn } ∧ RegsBut spnRegs s t) ∧
  (∀ s : State, s.spnRefusal 4 = none → s.spnState ≠ 0 → s.spnState ≠ 9 →
    ∃ t, Gives .coast s t ∧ t.spnState = 1 ∧ t.spn.cmd = 0 ∧ t.flag F.SPN_STAT_BUSY = false ∧ t.flag F.SPN_STAT_DONE = true ∧
      t.rd F.SPN_STAT_ERRCLS = 0 ∧ t.evPending Ev.spnDone = true ∧ t = { s with regs := t.regs, spn := t.spn } ∧ RegsBut spnRegs s t) ∧
  (∀ s : State, s.spnRefusal 5 = none →
    ∃ t, Gives .park s t ∧ t.spnState = 5 ∧ t.spn.cmd = 5 ∧ t.spn.drive = 2 ∧ t.rd F.SPN_TARGET_RPM = 0 ∧
      t.flag F.SPN_STAT_PARKED = false ∧ t.flag F.SPN_STAT_BUSY = true ∧ t = { s with regs := t.regs, spn := t.spn } ∧
      RegsBut spnRegs s t) ∧
  (∀ s : State, s.spnRefusal 6 = none →
    ∃ t, Gives .rotate s t ∧ t.spnState = 7 ∧ t.spn.cmd = 6 ∧ t.spn.drive = 3 ∧ t.flag F.SPN_STAT_BUSY = true ∧
      t = { s with regs := t.regs, spn := t.spn } ∧ RegsBut spnRegs s t)

/-- R254 to R261: what time and the bus voltage bring to the spindle. The unit of the q reference, the steps of a driven motion and a
standstill declared in FAULT are the model's (log entries 38, 67). -/
def Obligations.SpindleProgress : Prop :=
  (∀ s : State, s.spnState = 2 → ∃ t, Gives .alignEnd s t ∧ t.spnState = 3 ∧ OnlyRegs [Reg.SPN_STAT] s t) ∧
  (∀ s : State, s.spnState = 3 → ∃ t, Gives .handoff s t ∧ t.spnState = 4 ∧ t.rd (modeField 4) = 2 ∧
    t.reg Reg.SPN_REF = s.reg Reg.SPN_SPEED ∧ t.spn.iq = s.rd F.SPN_IF_IFI * 65536 ∧
    t = { s with regs := t.regs, spn := t.spn } ∧ RegsBut [Reg.SPN_STAT, Reg.SRV_S_CTRL 0, Reg.SPN_REF] s t) ∧
  (∀ s : State, s.spnState = 3 → s.spn.starts < 3 → ∃ t, Gives .handoffTimeout s t ∧ t.spnState = 1 ∧
    t.spn.again = decide (s.spn.cmd = 1) ∧ t = { s with regs := t.regs, spn := t.spn } ∧ RegsBut [Reg.SPN_STAT] s t) ∧
  (∀ s : State, s.spnState = 3 → 3 ≤ s.spn.starts → s.taskRunning = false → ∃ t, Gives .handoffTimeout s t ∧ t.spnState = 9 ∧
    t.flag F.SPN_STAT_STARTF = true ∧ t = { s with regs := t.regs, spn := t.spn, free := t.free }) ∧
  (∀ s : State, s.spnState = 4 → s.spn.cmd = 1 → ∃ t, Gives .atspeed s t ∧ t.flag F.SPN_STAT_ATSPEED = true ∧ t.spn.cmd = 0 ∧
    t.flag F.SPN_STAT_DONE = true ∧ t.rd F.SPN_STAT_ERRCLS = 0 ∧ t.spnState = 4 ∧ t.evPending Ev.spnDone = true ∧
    t = { s with regs := t.regs, hlk := t.hlk, spn := t.spn } ∧ RegsBut (spnRegs ++ noteRegs) s t) ∧
  (∀ s : State, s.spnState = 1 → s.spn.again = false → ∃ t, Gives .standstill s t ∧ t.spnState = 0 ∧ t.spn.still = true ∧
    t = { s with regs := t.regs, spn := t.spn } ∧ RegsBut spnRegs s t) ∧
  (∀ s : State, s.spnState = 7 → s.spn.drive ≤ 1 → s.spn.driven = 0 → s.spn.zvBrake = false → s.spnCauses = 0 → ∃ t, Gives .stopHoldEnd s t ∧
    t.spnState = 0 ∧ t.spn.still = true ∧ t.spn.cmd = 0 ∧ t = { s with regs := t.regs, spn := t.spn } ∧ RegsBut spnRegs s t) ∧
  (∀ s : State, s.spnState = 7 → s.spn.driven ≠ 0 → Gives .stopHoldEnd s s) ∧
  (∀ (s : State) (mv : Nat), s.spnState = 7 → s.rd F.SPN_VWATCH_ON * 100 < mv → s.flag F.SPN_STAT_WATCH = false →
    ∃ t, Gives (.vwatchOn mv) s t ∧ t.flag F.SPN_STAT_WATCH = true ∧ t.flag F.SPN_STAT_ZVB = true ∧
      t.reg Reg.SPN_VIN = BitVec.ofNat 32 mv ∧ Counts s t Reg.SPN_WATCH_CNT ∧
      OnlyRegs [Reg.SPN_VIN, Reg.SPN_STAT, Reg.SPN_WATCH_CNT] s t) ∧
  (∀ (s : State) (mv : Nat), mv < s.rd F.SPN_VWATCH_OFF * 100 →
    ∃ t, Gives (.vwatchOff mv) s t ∧ t.flag F.SPN_STAT_WATCH = false ∧ t.flag F.SPN_STAT_ZVB = s.spn.zvBrake ∧
      t.reg Reg.SPN_VIN = BitVec.ofNat 32 mv ∧ OnlyRegs [Reg.SPN_VIN, Reg.SPN_STAT] s t)

/-- R248, R249, R266, R524: spindle faults and the stage enable. A fault sets its cause, ends the command with 0x23 and opens the bridge;
clearing the last cause leaves FAULT; and the stages go off below 9.6 V, which de-energises every stepper. Trace entries that no evidence
brings are free (log entry 58). -/
def Obligations.SpindleFaults : Prop :=
  (∀ (s : State) (cause : SpnCause) (tr : List Word), s.taskRunning = false → s.spn.cmd ≠ 0 → cause ≠ .estl → cause ≠ .spde →
    s.spnFaultable cause = true → tr.length = 32 →
    ∃ t, Gives (.spnFault cause tr) s t ∧ (∀ k, k < 32 → t.reg (Reg.SPN_TRACE k) = tr.getD k 0) ∧ t.spnState = 9 ∧ t.flag (causeField cause) = true ∧ t.spn.cmd = 0 ∧
      t.flag F.SPN_STAT_DONE = true ∧ t.rd F.SPN_STAT_ERRCLS = 0x23 ∧ Counts s t Reg.SPN_FLT_CNT ∧
      t = { s with regs := t.regs, spn := t.spn }) ∧
  (∀ (s : State) (v : Word), s.spnState = 9 → (s.reg Reg.SPN_STAT &&& ~~~v).toNat % 128 = 0 →
    ∃ t, Gives (.spnCauseClear v) s t ∧ t.spnState = (if s.spn.still then 0 else 1) ∧ t.spnCauses = 0 ∧ OnlyRegs [Reg.SPN_STAT] s t) ∧
  (∀ (s : State) (mv : Nat), 10200 ≤ mv →
    ∃ t, Gives (.stageEnableOn mv) s t ∧ t.stageOn = true ∧ t.reg Reg.SPN_VIN = BitVec.ofNat 32 mv ∧
      OnlyRegs [Reg.SPN_VIN, Reg.PWR_STAT] s t) ∧
  (∀ (s : State) (mv : Nat), mv < 9600 → s.stageOn = true → (∀ b : Beam, (s.wrp.beams[b]).gate = none) →
    (∀ n : Stepper, s.flag (F.SLD_STAT_BUSY n) = false) → s.taskRunning = false → s.spnState = 4 →
    ∃ t, Gives (.stageEnableOff mv) s t ∧ t.stageOn = false ∧ t.spnState = 9 ∧ t.flag F.SPN_STAT_ENL = true ∧
      Counts s t Reg.PWR_STGOFF_CNT ∧ (∀ n : Stepper, t.flag (F.SLD_STAT_ENERG n) = false ∧
        (s.flag (F.SLD_STAT_ENERG n) = true → t.flag (F.SLD_STAT_DEEN n) = true) ∧ t.reg (Reg.SLD_POS n) = s.reg (Reg.SLD_POS n)) ∧
      t = { s with regs := t.regs, hlk := t.hlk, spn := t.spn, free := t.free })

/-- R271 to R275, R285: what a command of a stepper channel that is not refused does: motion commands start, HOLD and OFF end at once, ARM
only arms, and the SLD_START action starts what is armed. Where an armed stop comes to rest is free (log entry 61). -/
def Obligations.StepperCommands : Prop :=
  (∀ (s : State) (n : Stepper), s.bridges = true → s.sldRefusal n 1 (s.flag (F.SLD_STAT_BUSY n)) = none →
    ∃ t, Gives (.move n false) s t ∧ s.Started t n 1 ∧ Counts s t (Reg.SLD_G_MOVE_CNT (sldGroup n)) ∧
      t = { s with regs := t.regs, hlk := t.hlk, sld := t.sld } ∧ RegsBut (sldRegs n ++ noteRegs) s t) ∧
  (∀ (s : State) (n : Stepper), s.bridges = true → s.sldRefusal n 5 (s.flag (F.SLD_STAT_BUSY n)) = none →
    ∃ t, Gives (.vel n false) s t ∧ s.Started t n 5 ∧ t = { s with regs := t.regs, hlk := t.hlk, sld := t.sld } ∧
      RegsBut (sldRegs n ++ noteRegs) s t) ∧
  (∀ (s : State) (n : Stepper), s.bridges = true → s.sldRefusal n 6 (s.flag (F.SLD_STAT_BUSY n)) = none →
    ∃ t, Gives (.trim n false) s t ∧ s.Started t n 6 ∧ t = { s with regs := t.regs, hlk := t.hlk, sld := t.sld } ∧
      RegsBut (sldRegs n ++ noteRegs) s t) ∧
  (∀ (s : State) (n : Stepper), s.bridges = true → s.sldRefusal n 7 (s.flag (F.SLD_STAT_BUSY n)) = none →
    ∃ t, Gives (.home n false) s t ∧ s.Started t n 7 ∧ t = { s with regs := t.regs, hlk := t.hlk, sld := t.sld } ∧
      RegsBut (sldRegs n ++ noteRegs) s t) ∧
  (∀ (s : State) (n : Stepper), s.bridges = true →
    ∃ t, Gives (.hold n false) s t ∧ t.Ended n ∧ t.rd (F.SLD_STAT_MODE n) = 3 ∧ t.flag (F.SLD_STAT_ENERG n) = true ∧
      t = { s with regs := t.regs, sld := t.sld } ∧ RegsBut (sldRegs n) s t) ∧
  (∀ (s : State) (n : Stepper), s.bridges = true →
    ∃ t, Gives (.off n false) s t ∧ t.Ended n ∧ t.rd (F.SLD_STAT_MODE n) = 4 ∧ t.flag (F.SLD_STAT_ENERG n) = false ∧
      t = { s with regs := t.regs, sld := t.sld } ∧ RegsBut (sldRegs n) s t) ∧
  (∀ (s : State) (n : Stepper) (rest : Word), s.flag (F.SLD_STAT_BUSY n) = true →
    ∃ t, Gives (.sldStop n false rest) s t ∧ t.Ended n ∧ t.rd (F.SLD_STAT_MODE n) = 3 ∧ t.flag (F.SLD_STAT_STOPPED n) = true ∧
      t.reg (Reg.SLD_POS n) = rest ∧ t = { s with regs := t.regs, sld := t.sld } ∧ RegsBut (Reg.SLD_POS n :: sldRegs n) s t) ∧
  (∀ (s : State) (n : Stepper), s.sldRefusal n 1 (s.flag (F.SLD_STAT_BUSY n)) = none →
    ∃ t, Gives (.move n true) s t ∧ t.flag (F.SLD_STAT_ARMED n) = true ∧ t.rd (F.SLD_CMD_OP n) = 1 ∧
      OnlyRegs [Reg.SLD_CMD n, Reg.SLD_STAT n] s t) ∧
  (∀ (s : State) (i : Entry) (now : Angle) (n : Stepper), s.Fires i now 6 → (s.ang.entries[i]).arg.toNat = n.val →
    s.flag (F.SLD_STAT_ARMED n) = true → s.rd (F.SLD_CMD_OP n) = 1 → s.bridges = true →
    s.sldRefusal n 1 (s.flag (F.SLD_STAT_BUSY n)) = none →
    ∃ t, Gives (.sldStart i now) s t ∧ s.Started t n 1 ∧
      t = { s.fired i now with regs := t.regs, hlk := t.hlk, sld := t.sld, free := t.free } ∧
      RegsBut (sldRegs n ++ noteRegs) s t)

/-- R269, R272, R276, R277, R282: the ends of a stepper's command at rest: at the target, at a stall (the expected end of HOME; anywhere
else the channel is LOST and the command ends with its class; VSTALL of 0 switches the judgement off), and what software writes as its
position. How far a profile has come, and what a stall is judged on, are operands (log entry 20); the units of VEL and TRIM are the
model's choice (log entry 67). -/
def Obligations.StepperEnds : Prop :=
  (∀ (s : State) (n : Stepper), s.rd (F.SLD_STAT_MODE n) = 1 → s.flag (F.SLD_STAT_BUSY n) = true → (s.sld[n]).owner = none →
    s.rd (F.SLD_MOTOR_ENCPM n) = 0 →
    ∃ t, Gives (.moveEnd n) s t ∧ t.Ended n ∧ t.rd (F.SLD_STAT_MODE n) = 3 ∧ t.reg (Reg.SLD_POS n) = (s.sld[n]).goal ∧
      t = { s with regs := t.regs, sld := t.sld } ∧ RegsBut (Reg.SLD_POS n :: sldRegs n) s t) ∧
  (∀ (s : State) (n : Stepper) (x : StallIn), s.rd (F.SLD_STAT_MODE n) = 7 → s.stallJudged n x = true → s.flag (F.SLD_STAT_BUSY n) = true → (s.sld[n]).owner = none →
    ∃ t, Gives (.stall n x) s t ∧ t.Ended n ∧ t.flag (F.SLD_STAT_LOST n) = false ∧ t.reg (Reg.SLD_POS n) = s.reg (Reg.SLD_TGT n) ∧
      t = { s with regs := t.regs, sld := t.sld } ∧ RegsBut (Reg.SLD_POS n :: sldRegs n) s t) ∧
  (∀ (s : State) (n : Stepper) (x : StallIn), s.stallMode n ≠ 0 → s.stallMode n ≠ 7 → s.stallJudged n x = true →
    (s.sld[n]).owner = none → s.taskRunning = false →
    ∃ t, Gives (.stall n x) s t ∧ t.flag (F.SLD_STAT_LOST n) = true ∧ t.rd (F.SLD_STAT_MODE n) = 3 ∧
      t.rd (F.SLD_STAT_ERRCLS n) = (if n.val < 2 then 0x24 else 0x25) ∧ t.flag (F.SLD_STAT_BUSY n) = false ∧
      t.flag (F.SLD_STAT_STOPPED n) = false ∧ t.reg (Reg.SLD_POS n) = x.pos ∧ t = { s with regs := t.regs, sld := t.sld }) ∧
  (∀ (s : State) (n : Stepper) (x : StallIn), s.rd (F.SLD_STALL_VSTALL n) = 0 ∨ x.vel < 4096 * s.rd (F.SLD_STALL_VSTALL n) →
    Gives (.stall n x) s s) ∧
  (∀ (s : State) (n : Stepper), s.flag (F.SLD_STAT_ENERG n) = true → s.flag (F.SLD_STAT_BUSY n) = false →
    ∃ t, Gives (.holdCurrent n) s t ∧ (t.sld[n]).ihold = true ∧ (∀ k, k ≠ n → t.sld[k] = s.sld[k]) ∧ t = { s with sld := t.sld }) ∧
  (∀ (s : State) (n : Stepper) (v : Word), s.rd (F.SLD_STAT_MODE n) = 3 ∨ s.rd (F.SLD_STAT_MODE n) = 4 →
    s.flag (F.SLD_STAT_BUSY n) = false →
    ∃ t, Gives (.sldPosWrite n v) s t ∧ t.reg (Reg.SLD_POS n) = v ∧ t.flag (F.SLD_STAT_LOST n) = false ∧
      OnlyRegs [Reg.SLD_POS n, Reg.SLD_STAT n] s t) ∧
  (∀ (s : State) (n : Stepper) (v : Word), s.flag (F.SLD_STAT_BUSY n) = true →
    ∃ t, Gives (.sldPosWrite n v) s t ∧ t.flag (F.SLD_G_STAT_CFGERR (sldGroup n)) = true ∧
      OnlyRegs [Reg.SLD_G_STAT (sldGroup n)] s t)

/-! ## The Zarvel link -/

/-- R289, R303: training. An enabled port goes through steps 1 to 4, one at each command (log entry 70); a lane that stays behind fails
and is reported; at the end the port is up and a LINK flit with INIT follows what is sent again; failed training puts the port down, its
queues empty, and a retrain takes it out of service. -/
def Obligations.LinkTraining : Prop :=
  (∀ (s : State) (p : Port), s.flag (F.HLK_P_CTRL_EN (portIdx p)) = true → s.portUp (portIdx p) = false →
    s.rd (F.HLK_P_STAT_STEP (portIdx p)) < 4 →
    ∃ t, Gives (.portTraining p) s t ∧ t.rd (F.HLK_P_STAT_STEP (portIdx p)) = s.rd (F.HLK_P_STAT_STEP (portIdx p)) + 1 ∧
      OnlyRegs [Reg.HLK_P_STAT (portIdx p)] s t) ∧
  (∀ (s : State) (p : Port), s.flag (F.HLK_P_CTRL_EN (portIdx p)) = false ∨ s.portUp (portIdx p) = true → Gives (.portTraining p) s s) ∧
  (∀ (s : State) (l : LinkLane), s.training (lanePort l) = true → s.rd (F.HLK_P_STAT_STEP (lanePort l)) ≤ 3 → s.laneFailed l.val = false →
    ∃ t, Gives (.laneTrainingTimeout l) s t ∧ t.rd (F.HLK_L_HLTH_STATE l) = 1 ∧
      t.axlReq = s.axlReq ++ [⟨3, Fin.ofNat 1024 (lanePort l).val, Fin.ofNat 16777216 l.val, 2⟩] ∧
      t = { s with regs := t.regs, axlReq := t.axlReq } ∧
      RegsBut [Reg.HLK_L_HLTH l, Reg.HLK_P_MAP (lanePort l), Reg.HLK_P_STAT (lanePort l)] s t) ∧
  (∀ (s : State) (p : Port), s.training (portIdx p) = true → s.rd (F.HLK_P_STAT_STEP (portIdx p)) = 4 →
    logical (portIdx p) ≤ ((portLanes (portIdx p)).filter (fun k => !s.laneFailed k)).length →
    (s.port (portIdx p)).qc = [] → (s.port (portIdx p)).qd = [] →
    ∃ t, Gives (.portUp p) s t ∧ t.portUp (portIdx p) = true ∧ t.flag (F.HLK_P_STAT_DOWN (portIdx p)) = false ∧
      t.rd (F.HLK_P_STAT_STEP (portIdx p)) = 5 ∧
      (t.port (portIdx p)).line = (s.port (portIdx p)).line ++ (s.port (portIdx p)).unack
        ++ [linkFlit (linkPayload 0x20 0 0 64 512 0 0 0)] ∧
      t = { s with regs := t.regs, hlk := t.hlk } ∧ RegsBut (Reg.HLK_P_MAP (portIdx p) :: linkRegs (portIdx p)) s t) ∧
  (∀ (s : State) (p : Port), s.training (portIdx p) = true → s.taskRunning = false →
    ∃ t, Gives (.portDown p) s t ∧ t.portUp (portIdx p) = false ∧ t.flag (F.HLK_P_STAT_DOWN (portIdx p)) = true ∧
      (t.port (portIdx p)).qc = [] ∧ (t.port (portIdx p)).qd = [] ∧ (t.port (portIdx p)).unack = [] ∧
      t.evPending Ev.linkDown = true ∧ (p = .A → t.flag F.HLK_STAT_ENDA = false) ∧ (p = .B → t.flag F.HLK_STAT_ENDB = false) ∧
      (∀ o, otherPort (portIdx p) = some o → s.PortFree o → s.Sent t o (s.breakOf (portIdx p) t.cycles)) ∧
      t = { s with regs := t.regs, hlk := t.hlk, free := t.free }) ∧
  (∀ (s : State) (p : Port), s.portUp (portIdx p) = true →
    ∃ t, Gives (.linkRetrain p) s t ∧ t.portUp (portIdx p) = false ∧ t.rd (F.HLK_P_STAT_STEP (portIdx p)) = 0 ∧
      (t.port (portIdx p)).swap = none ∧ (t.port (portIdx p)).unack = (s.port (portIdx p)).unack ∧ t = { s with regs := t.regs, hlk := t.hlk } ∧
      RegsBut [Reg.HLK_P_STAT (portIdx p)] s t)

/-- R292, R295, R297, R301 to R303, R311: acknowledgement, credits and replay. A flit with a bad HCRC, in a codeword past correction, or
after a missing one is discarded and the missing one NAKed once, and one taken before is only acknowledged; an acknowledgement drops what
it covers; a NAK or a timeout sends again from its flit, and the RMAX-th time of one flit the port asks for a retrain and retrains; during
a lane swap a NAK waits. -/
def Obligations.LinkReplay : Prop :=
  (∀ (s : State) (p : Port), s.portUp (portIdx p) = true → (s.port (portIdx p)).nakSent = false →
    ∃ t, Gives (.badFlit p .hcrc) s t ∧ (t.port (portIdx p)).nakSent = true ∧ Counts s t (Reg.HLK_P_HCRC_CNT (portIdx p)) ∧
      Counts s t (Reg.HLK_P_NAK_CNT (portIdx p)) ∧
      (t.port (portIdx p)).line = (s.port (portIdx p)).line ++ [linkFlit (linkPayload 0x40 0 (s.port (portIdx p)).rxSeq 0 0 0 0 0)] ∧
      t = { s with regs := t.regs, hlk := t.hlk } ∧
      RegsBut ([Reg.HLK_P_HCRC_CNT (portIdx p), Reg.HLK_P_NAK_CNT (portIdx p)] ++ linkRegs (portIdx p)) s t) ∧
  (∀ (s : State) (p : Port) (wrong : Nat), s.portUp (portIdx p) = true → (s.port (portIdx p)).nakSent = true → 15 < wrong →
    (∃ t, Gives (.badFlit p (.codeword wrong true)) s t ∧ Counts s t (Reg.HLK_P_UNC_CNT (portIdx p)) ∧
      OnlyRegs [Reg.HLK_P_UNC_CNT (portIdx p)] s t) ∧ Gives (.badFlit p (.codeword wrong false)) s s) ∧
  (∀ (s : State) (p : Port) (wrong : Nat) (first : Bool), wrong ≤ 15 → Gives (.badFlit p (.codeword wrong first)) s s) ∧
  (∀ (s : State) (p : Port) (h : Dword) (pl : List Byte), s.portUp (portIdx p) = true → flitSequenced (hTYPE h) = true → s.mine h = false →
    hTYPE h ≠ 9 → hTYPE h ≠ 0xC → hcrcGood h = true → (hSEQ h + 256 - (s.port (portIdx p)).rxSeq) % 256 ≠ 0 →
    (hSEQ h + 256 - (s.port (portIdx p)).rxSeq) % 256 < 128 → (s.port (portIdx p)).nakSent = false →
    ∃ t, Gives (.flitForward p h pl) s t ∧ (t.port (portIdx p)).rxSeq = (s.port (portIdx p)).rxSeq ∧
      (t.port (portIdx p)).line = (s.port (portIdx p)).line ++ [linkFlit (linkPayload 0x40 0 (s.port (portIdx p)).rxSeq 0 0 0 0 0)] ∧
      Counts s t (Reg.HLK_P_NAK_CNT (portIdx p)) ∧ t = { s with regs := t.regs, hlk := t.hlk } ∧
      RegsBut (Reg.HLK_P_NAK_CNT (portIdx p) :: linkRegs (portIdx p)) s t) ∧
  (∀ (s : State) (p : Port) (h : Dword) (pl : List Byte), s.portUp (portIdx p) = true → flitSequenced (hTYPE h) = true → s.mine h = false →
    hTYPE h ≠ 9 → hTYPE h ≠ 0xC → hcrcGood h = true → 128 ≤ (hSEQ h + 256 - (s.port (portIdx p)).rxSeq) % 256 →
    (s.port (portIdx p)).ackDue < 15 →
    ∃ t, Gives (.flitForward p h pl) s t ∧ (t.port (portIdx p)).ackDue = (s.port (portIdx p)).ackDue + 1 ∧
      (t.port (portIdx p)).rxSeq = (s.port (portIdx p)).rxSeq ∧ t = { s with hlk := t.hlk }) ∧
  (∀ (s : State) (p : Port) (a : Byte) (i : Nat), (s.port (portIdx p)).unack.findIdx? (fun u => u.1 = a.toNat) = some i →
    (s.port (portIdx p)).qc = [] → (s.port (portIdx p)).qd = [] →
    ∃ t, Gives (.linkAck p a) s t ∧ (t.port (portIdx p)).unack = (s.port (portIdx p)).unack.drop (i + 1) ∧
      t = { s with regs := t.regs, hlk := t.hlk } ∧ RegsBut [Reg.HLK_P_STAT (portIdx p)] s t) ∧
  (∀ (s : State) (p : Port) (a : Byte) (i : Nat), s.portUp (portIdx p) = true → (s.port (portIdx p)).swap = none →
    (s.port (portIdx p)).unack.findIdx? (fun u => u.1 = a.toNat) = some i →
    (∀ u ∈ (s.port (portIdx p)).unack.drop i, u.2.resent + 1 < s.rd F.HLK_RETRY_CFG_RMAX) →
    ∃ t, Gives (.linkNak p a) s t ∧ t.portUp (portIdx p) = true ∧ Counts s t (Reg.HLK_P_RPL_CNT (portIdx p)) ∧
      ((s.port (portIdx p)).line ++ (s.port (portIdx p)).unack.drop i) <+: (t.port (portIdx p)).line ∧
      ((s.port (portIdx p)).unack.take i ++ ((s.port (portIdx p)).unack.drop i).map sentAgain) <+: (t.port (portIdx p)).unack ∧
      Noted [Reg.HLK_P_RPL_CNT (portIdx p)] s t) ∧
  (∀ (s : State) (p : Port) (a : Byte), s.portUp (portIdx p) = true → (s.port (portIdx p)).swap ≠ none →
    ∃ t, Gives (.linkNak p a) s t ∧ (t.port (portIdx p)).nakHeld = some a.toNat ∧ t = { s with hlk := t.hlk }) ∧
  (∀ (s : State) (p : Port), s.portUp (portIdx p) = true → (s.port (portIdx p)).unack ≠ [] →
    (∀ u ∈ (s.port (portIdx p)).unack, u.2.resent + 1 < s.rd F.HLK_RETRY_CFG_RMAX) →
    ∃ t, Gives (.replayTimeout p) s t ∧ t.portUp (portIdx p) = true ∧ Counts s t (Reg.HLK_P_RPL_CNT (portIdx p)) ∧
      ((s.port (portIdx p)).line ++ (s.port (portIdx p)).unack) <+: (t.port (portIdx p)).line ∧
      (s.port (portIdx p)).unack.map sentAgain <+: (t.port (portIdx p)).unack ∧ Noted [Reg.HLK_P_RPL_CNT (portIdx p)] s t) ∧
  (∀ (s : State) (p : Port), s.portUp (portIdx p) = true →
    (s.port (portIdx p)).unack.any (fun u => decide (s.rd F.HLK_RETRY_CFG_RMAX ≤ u.2.resent + 1)) = true →
    ∃ t, Gives (.replayTimeout p) s t ∧ t.portUp (portIdx p) = false ∧ t.rd (F.HLK_P_STAT_STEP (portIdx p)) = 0 ∧
      linkFlit (linkPayload 0x04 0 0 0 0 0 0 0) ∈ (t.port (portIdx p)).line ∧ Noted [Reg.HLK_P_RPL_CNT (portIdx p)] s t) ∧
  (∀ (s : State) (p : Port), s.portUp (portIdx p) = true → 0 < (s.port (portIdx p)).ackDue →
    ∃ t, Gives (.ackSend p) s t ∧ (t.port (portIdx p)).ackDue = 0 ∧ (t.port (portIdx p)).retC = 0 ∧ (t.port (portIdx p)).retD = 0 ∧
      (t.port (portIdx p)).line = (s.port (portIdx p)).line ++ [linkFlit (linkPayload 0x80 (((s.port (portIdx p)).rxSeq + 255) % 256) 0
        (s.port (portIdx p)).retC (s.port (portIdx p)).retD 0 0 0)] ∧
      t = { s with regs := t.regs, hlk := t.hlk } ∧ RegsBut (linkRegs (portIdx p)) s t) ∧
  (∀ (s : State) (p : Port) (c d : BitVec 16), (s.port (portIdx p)).qc = [] → (s.port (portIdx p)).qd = [] →
    ∃ t, Gives (.linkInit p c d) s t ∧ t.rd (F.HLK_P_CRED_C (portIdx p)) = c.toNat ∧ t.rd (F.HLK_P_CRED_D (portIdx p)) = d.toNat ∧
      OnlyRegs [Reg.HLK_P_CRED (portIdx p)] s t) ∧
  (∀ (s : State) (p : Port) (c d : BitVec 16), (s.port (portIdx p)).qc = [] → (s.port (portIdx p)).qd = [] →
    ∃ t, Gives (.linkCredit p c d) s t ∧
      t.rd (F.HLK_P_CRED_C (portIdx p)) = min 65535 (s.rd (F.HLK_P_CRED_C (portIdx p)) + c.toNat) ∧
      t.rd (F.HLK_P_CRED_D (portIdx p)) = min 65535 (s.rd (F.HLK_P_CRED_D (portIdx p)) + d.toNat) ∧
      OnlyRegs [Reg.HLK_P_CRED (portIdx p)] s t)

/-- R290, R311: the lane swap. The spare copies one logical lane after another; a lane in use that lost signal, or whose corrections
exceed its threshold, is condemned and asks AXL for the spare; a REMAP is acknowledged with its codeword, and at that codeword the spare
takes the lane's place, and a NAK that waited is served. The codeword at which a swap takes effect is drawn (log entry 39); which lane the
far end's number names is the model's reading (log entry 70). -/
def Obligations.LaneSwap : Prop :=
  (∀ (s : State) (p : Port), s.portUp (portIdx p) = true → s.flag (F.HLK_P_STAT_SPAREUSED (portIdx p)) = false →
    ∃ t, Gives (.spareLaneMove p) s t ∧
      (t.port (portIdx p)).copying = ((s.port (portIdx p)).copying + 1) % logical (portIdx p) ∧ t = { s with hlk := t.hlk }) ∧
  (∀ (s : State) (l : LinkLane) (n : Option Nat), s.portUp (lanePort l) = true → s.laneFailed l.val = false →
    (s.laneOf (lanePort l) l.val).isSome = true → n.all (fun k => decide (s.rd (F.HLK_L_HLTH_THR l) < k)) = true →
    ∃ t, Gives (.laneCondemn ⟨l, n⟩) s t ∧ t.rd (F.HLK_L_HLTH_STATE l) = 1 ∧
      t.axlReq = s.axlReq ++ [⟨3, Fin.ofNat 1024 (lanePort l).val, Fin.ofNat 16777216 l.val, 2⟩] ∧
      t = { s with regs := t.regs, axlReq := t.axlReq } ∧ RegsBut [Reg.HLK_L_HLTH l] s t) ∧
  (∀ (s : State) (l : LinkLane) (n : Nat), n ≤ s.rd (F.HLK_L_HLTH_THR l) → Gives (.laneCondemn ⟨l, some n⟩) s s) ∧
  (∀ (s : State) (p : Port) (l sp : Byte) (cw : Word), s.portUp (portIdx p) = true →
    ∃ t, Gives (.linkRemap p l sp cw) s t ∧
      (t.port (portIdx p)).swap = some (l.toNat % logical (portIdx p), laneHere (portIdx p) sp.toNat, cw) ∧ (t.port (portIdx p)).swapAck = true ∧
      t.flag (F.HLK_P_STAT_SWAP (portIdx p)) = true ∧
      (t.port (portIdx p)).line = (s.port (portIdx p)).line ++ [linkFlit (linkPayload 0x08 0 0 0 0 0 0 cw.toNat)] ∧
      t = { s with regs := t.regs, hlk := t.hlk } ∧ RegsBut (linkRegs (portIdx p)) s t) ∧
  (∀ (s : State) (p : Port) (k sp : Nat) (cw : Word), (s.port (portIdx p)).swap = some (k, sp, cw) →
    ∃ t, Gives (.linkRemapack p cw) s t ∧ (t.port (portIdx p)).swapAck = true ∧ t = { s with hlk := t.hlk }) ∧
  (∀ (s : State) (p : Port) (k sp : Nat) (cw : Word), (s.port (portIdx p)).swap = some (k, sp, cw) →
    k < logical (portIdx p) → (s.port (portIdx p)).swapAck = true → (s.port (portIdx p)).qc = [] → (s.port (portIdx p)).qd = [] →
    (s.port (portIdx p)).nakHeld = none →
    ∃ t, Gives (.remapSwitch p cw) s t ∧ (t.port (portIdx p)).swap = none ∧ t.flag (F.HLK_P_STAT_SWAP (portIdx p)) = false ∧
      t.rd (mapField (portIdx p) k) = sp % 16 ∧ t.flag (F.HLK_P_STAT_SPAREUSED (portIdx p)) = true ∧
      Counts s t (Reg.HLK_P_SWAP_CNT (portIdx p)) ∧ t = { s with regs := t.regs, hlk := t.hlk } ∧
      RegsBut [Reg.HLK_P_STAT (portIdx p), Reg.HLK_P_MAP (portIdx p), Reg.HLK_P_SWAP_CNT (portIdx p)] s t) ∧
  (∀ (s : State) (p : Port) (k sp : Nat) (cw : Word) (n i : Nat), (s.port (portIdx p)).swap = some (k, sp, cw) →
    (s.port (portIdx p)).swapAck = true → (s.port (portIdx p)).nakHeld = some n →
    (s.port (portIdx p)).unack.findIdx? (fun u => u.1 = n) = some i →
    ∃ t, Gives (.remapSwitch p cw) s t ∧ (t.port (portIdx p)).swap = none ∧ (t.port (portIdx p)).nakHeld = none ∧
      Counts s t (Reg.HLK_P_RPL_CNT (portIdx p)) ∧
      ((s.port (portIdx p)).line ++ (s.port (portIdx p)).unack.drop i) <+: (t.port (portIdx p)).line ∧
      t = { s with regs := t.regs, hlk := t.hlk })

/-- R294, R298, R299, R303 to R305: the chain. A flit for elsewhere leaves by the other port, or is dropped and counted; BREAK marks its
end unreachable and goes on; an ENUM request numbers an unnumbered module and goes on with the count one higher, and is answered as an
overflow past 64 modules. The COUNT of a reply takes in the replier, as the model reads it (log entry 43). -/
def Obligations.ChainForwarding : Prop :=
  (∀ (s : State) (p : Port) (h : Dword) (pl : List Byte) (o : Fin 3), s.NextIn (portIdx p) h →
    flitSequenced (hTYPE h) = true → s.mine h = false → (hTYPE h = 9 → hHB h = true ∧ (beAt pl 0 1 = 1 ∨ beAt pl 0 1 = 2)) → hTYPE h ≠ 0xC →
    otherPort (portIdx p) = some o → s.PortFree o →
    ∃ t, Gives (.flitForward p h pl) s t ∧ s.Sent t o (flitOf h pl) ∧ t.pair (Reg.HLK_P_FWD_CNT_LO (portIdx p)) =
        (s.pair (Reg.HLK_P_FWD_CNT_LO (portIdx p)) + 1) % 2 ^ 64 ∧
      t = { s with regs := t.regs, hlk := t.hlk } ∧
      RegsBut ([Reg.HLK_P_FWD_CNT_LO (portIdx p), Reg.HLK_P_FWD_CNT_LO (portIdx p) + 4] ++ linkRegs (portIdx p) ++ linkRegs o) s t) ∧
  (∀ (s : State) (p : Port) (h : Dword) (pl : List Byte), s.NextIn (portIdx p) h →
    flitSequenced (hTYPE h) = true → s.mine h = false → (hTYPE h = 9 → hHB h = true ∧ (beAt pl 0 1 = 1 ∨ beAt pl 0 1 = 2)) → hTYPE h ≠ 0xC →
    (otherPort (portIdx p)).all (fun o => !s.portUp o) = true →
    ∃ t, Gives (.flitForward p h pl) s t ∧ Counts s t (Reg.HLK_P_DROP_CNT (portIdx p)) ∧
      t = { s with regs := t.regs, hlk := t.hlk } ∧ RegsBut (Reg.HLK_P_DROP_CNT (portIdx p) :: linkRegs (portIdx p)) s t) ∧
  (∀ (s : State) (p : Port) (h : Dword) (pl : List Byte), s.NextIn (portIdx p) h → hTYPE h = 0xC → s.taskRunning = false →
    ∃ t, Gives (.breakFlit p h pl) s t ∧
      t.flag (if beAt pl 0 1 = 1 then F.HLK_STAT_ENDB else F.HLK_STAT_ENDA) = false ∧
      t.flag (if beAt pl 0 1 = 1 then F.HLK_STAT_BRKB else F.HLK_STAT_BRKA) = true ∧ t.evPending Ev.linkDown = true ∧
      (∀ o, otherPort (portIdx p) = some o → s.PortFree o → s.Sent t o { flitOf h pl with src := 0 }) ∧
      t = { s with regs := t.regs, hlk := t.hlk }) ∧
  (∀ (s : State) (p : Port) (h : Dword) (pl : List Byte) (o : Fin 3), s.NextIn (portIdx p) h → hTYPE h = 9 → hHB h = false →
    otherPort (portIdx p) = some o → s.PortFree o → beAt pl 0 1 = 1 → beAt pl 1 1 = 0 → beAt pl 2 1 < 64 →
    s.flag F.HLK_ID_VALID = false → s.pwr.owed = false →
    ∃ t, Gives (.enum p h pl) s t ∧ t.flag F.HLK_ID_VALID = true ∧ t.hop = (beAt pl 3 1 + beAt pl 2 1) % 64 ∧
      s.Sent t o (enumOn (beAt pl 2 1 + 1) (beAt pl 3 1) (beAt pl 5 1)) ∧
      t.flag (if portIdx p = 0 then F.HLK_STAT_ENDA else F.HLK_STAT_ENDB) = true ∧
      t = { s with regs := t.regs, hlk := t.hlk } ∧
      RegsBut ([Reg.HLK_ID, Reg.HLK_STAT] ++ linkRegs (portIdx p) ++ linkRegs o) s t) ∧
  (∀ (s : State) (p : Port) (h : Dword) (pl : List Byte), s.NextIn (portIdx p) h → (s.port (portIdx p)).ackDue < 15 → hTYPE h = 9 →
    hHB h = false → (otherPort (portIdx p)).isSome = true → s.PortFree (portIdx p) → beAt pl 0 1 = 1 → beAt pl 2 1 = 64 →
    ∃ t, Gives (.enum p h pl) s t ∧ s.Sent t (portIdx p) (s.enumReply (beAt pl 1 1 % 8 + 8) 65 (beAt pl 3 1) (beAt pl 5 1)) ∧
      t.hop = s.hop ∧ t.rd F.HLK_ENUM_STAT_COUNT = 65 ∧ t.rd F.HLK_ENUM_STAT_FLAGS = beAt pl 1 1 % 8 + 8 ∧
      t = { s with regs := t.regs, hlk := t.hlk } ∧ RegsBut ([Reg.HLK_STAT, Reg.HLK_ENUM_STAT] ++ linkRegs (portIdx p)) s t)

/-- R300, R303, R306, R309, R329: the accesses to host memory. The next piece of a read goes out as a write to the host, that of a write
asks for its data; an answer lands in the stream buffer, or is dropped and counted when no task wants it; an answer that never comes
freezes the task with 0x31; and the last FLACK ends a task that awaits it. The address in the stream buffer and the length of a list's
reads are the model's (log entries 16, 37), and so is where a window ends (log entry 70). -/
def Obligations.HostAccesses : Prop :=
  (∀ (s : State) (addr : Dword) (len : Nat) (lba : BitVec 25) (left : Nat) (b : Beam), s.taskRunning = true → s.tsk.ending = false →
    s.tsk.work = false → s.opcode = 1 → lba.toNat = s.tsk.lba + s.tsk.moved / 32768 → lba.toNat < s.tsk.lba + s.tsk.count →
    bufferAt s.tsk.sgl s.tsk.moved = some (addr.toNat, left) → 0 < len → len ≤ left → len ≤ 32768 - s.tsk.moved % 32768 →
    s.tsk.landed.find? (fun l => l.1 = lba.toNat) = some (lba.toNat, b) → s.winOk true addr.toNat len = true →
    s.anyPoisoned (streamAddr b lba.toNat + s.tsk.moved % 32768) len = false → s.portUp (s.routePort lba.toNat) = false →
    ∃ t, Gives (.dmaIssue true addr len lba) s t ∧ t.tsk.moved = s.tsk.moved + len ∧
      (t.port (s.routePort lba.toNat)).qd = (s.port (s.routePort lba.toNat)).qd
        ++ mwrFlits s.hop addr.toNat (s.dramBytes (streamAddr b lba.toNat + s.tsk.moved % 32768) len) ∧
      t.hlk.mwrs.getLsbD (s.routePort lba.toNat) = true ∧ DramKept s t ∧
      t = { s with regs := t.regs, hlk := t.hlk, tsk := t.tsk, mem := t.mem }) ∧
  (∀ (s : State) (addr : Dword) (len : Nat) (lba : BitVec 25) (left : Nat), s.taskRunning = true → s.tsk.ending = false →
    s.tsk.work = false → s.opcode = 2 → lba.toNat = s.tsk.lba + s.tsk.moved / 32768 → lba.toNat < s.tsk.lba + s.tsk.count →
    bufferAt s.tsk.sgl s.tsk.moved = some (addr.toNat, left) → 0 < len → len ≤ left → len ≤ 32768 - s.tsk.moved % 32768 →
    s.winOk false addr.toNat len = true → s.PortFree (s.routePort lba.toNat) →
    ∃ t, Gives (.dmaIssue false addr len lba) s t ∧ t.tsk.moved = s.tsk.moved + len ∧
      t.hlk.mrds = s.hlk.mrds ++ [{ port := portOf (s.routePort lba.toNat), addr := addr.toNat, len := len, lba := lba.toNat, live := true,
                                    sg := false, ofs := s.tsk.moved % 32768 }] ∧
      s.Sent t (s.routePort lba.toNat) { typ := 4, hb := true, src := s.hop, bytes := beBytes 8 addr.toNat ++ beBytes 4 len } ∧
      t = { s with regs := t.regs, hlk := t.hlk, tsk := t.tsk } ∧ RegsBut (linkRegs (s.routePort lba.toNat)) s t) ∧
  (∀ (s : State) (p : Port) (h : Dword) (body : List Byte) (m : Mrd) (r : List Mrd), s.NextIn (portIdx p) h → hTYPE h = 6 → s.mine h = true →
    beAt body 0 1 = 0 → popMrd p s.hlk.mrds = some (m, r) → m.live = true →
    m.sg = false → s.opcode = 2 → streamAddr (homeBeam m.lba) m.lba + m.ofs + m.len ≤ 2 ^ 34 →
    ∃ t, Gives (.mcpl p h body) s t ∧ t.hlk.mrds = r ∧
      t.dramBytes (streamAddr (homeBeam m.lba) m.lba + m.ofs) m.len = bytesAt (body.drop 16) 0 m.len ∧
      DramBut (streamAddr (homeBeam m.lba) m.lba + m.ofs) m.len s t ∧
      t.tsk.fetched = (if m.ofs + m.len = 32768 then s.tsk.fetched ++ [m.lba] else s.tsk.fetched) ∧
      t = { s with regs := t.regs, hlk := t.hlk, tsk := t.tsk, mem := t.mem, dram := t.dram, psn := t.psn }) ∧
  (∀ (s : State) (p : Port) (h : Dword) (body : List Byte) (m : Mrd) (r : List Mrd), s.NextIn (portIdx p) h → hTYPE h = 6 →
    s.mine h = true → popMrd p s.hlk.mrds = some (m, r) → m.live = false →
    ∃ t, Gives (.mcpl p h body) s t ∧ t.hlk.mrds = r ∧ Counts s t (Reg.HLK_P_LATE_CNT (portIdx p)) ∧
      t = { s with regs := t.regs, hlk := t.hlk } ∧ RegsBut (Reg.HLK_P_LATE_CNT (portIdx p) :: linkRegs (portIdx p)) s t) ∧
  (∀ (s : State) (m : Mrd) (r : List Mrd), s.hlk.mrds = m :: r → m.timed = false → m.live = true → s.taskRunning = true →
    ∃ t, Gives .mrdTimeout s t ∧ t.rd F.TSK_STATE_STATE = 3 ∧ t.rd F.TSK_STATE_ERRCLS = 0x31 ∧ t.flag F.TSK_INT_STAT_FROZEN = true ∧
      t.hlk.mrds = m.late :: r.map (fun x => { x with live := false }) ∧ Counts s t (Reg.TSK_EC_CNT 11) ∧ Counts s t Reg.TSK_FRZ_CNT ∧
      DramKept s t) ∧
  (∀ (s : State) (m : Mrd) (r : List Mrd), s.hlk.mrds = m :: r → m.timed = false → m.live = false →
    ∃ t, Gives .mrdTimeout s t ∧ t = { s with hlk := { s.hlk with mrds := m.late :: r } }) ∧
  (∀ (s : State) (p : Port) (h : Dword), s.NextIn (portIdx p) h → hTYPE h = 0xB → s.mine h = true → s.tsk.ending = false →
    ∃ t, Gives (.flack ⟨p, h⟩) s t ∧ t.hlk.flush[portIdx p] = s.hlk.flush[portIdx p] - 1 ∧ t = { s with regs := t.regs, hlk := t.hlk } ∧
      RegsBut (linkRegs (portIdx p)) s t) ∧
  (∀ (s : State) (p : Port) (h : Dword), s.NextIn (portIdx p) h → hTYPE h = 0xB → s.mine h = true → s.tsk.ending = true → s.taskRunning = true → s.hlk.flush[portIdx p] ≤ 1 →
    (∀ q : Fin 3, q ≠ portIdx p → s.hlk.flush[q] = 0) →
    ∃ t, Gives (.flack ⟨p, h⟩) s t ∧ t.rd F.TSK_STATE_STATE = 2 ∧ t.flag F.TSK_STATE_SETTLED = true ∧ t.tsk.ending = false ∧
      t.flag F.TSK_INT_STAT_END = true ∧ Counts s t Reg.TSK_DONE_CNT ∧ t = { s with regs := t.regs, hlk := t.hlk, tsk := t.tsk })

/-! ## The register space -/

/-- R540, R542, R544: one word. A plain register takes the bits that the master's write reaches; a read-clear count is cleared by its
read; a read of a low word latches its high word for the reader; and the test connector writes as a custodian. -/
def Obligations.RegisterAccesses : Prop :=
  (∀ (s : State) (m : Master) (a : BitVec 24) (v : Word) (r : RegRow) (i : Nat), reaches m = true → regAt a.toNat = some (r, i) →
    s.check m true a.toNat v = none → s.command m (portOf (s.routePort 0)) r a.toNat v = none → isWindow a.toNat = false →
    s.refusal a.toNat (s.newWord m r a.toNat v) = none → a.toNat ∉ noteRegs → a.toNat ≠ Reg.SEQ_CTRL → s.noneWaits →
    ∃ t, Gives (.registerWrite m a v) s t ∧
      t.reg a.toNat = (if s.reach m r = 0 ∧ r.w1c = 0 then s.reg a.toNat else s.newWord m r a.toNat v) ∧ Noted [a.toNat] s t) ∧
  (∀ (s : State) (m : Master) (a : BitVec 24) (v : Word) (r : RegAns), reaches m = true → s.check m true a.toNat v = some r →
    r ≠ .busy → s.noneWaits →
    ∃ t, Gives (.registerWrite m a v) s t ∧ Noted [] s t) ∧
  (∀ (s : State) (m : Master) (a : BitVec 24) (r : RegRow) (i : Nat), reaches m = true → regAt a.toNat = some (r, i) →
    r.kind = .rc → s.check m false a.toNat 0 = none → s.enabled a.toNat = true → a.toNat ∉ noteRegs →
    s.openBits a.toNat = 0 →
    ∃ t, Gives (.rcRead m a) s t ∧ t.reg a.toNat = 0 ∧ Noted [a.toNat] s t) ∧
  (∀ (s : State) (m : Master) (a : BitVec 24) (r : RegRow) (i : Nat), reaches m = true → regAt a.toNat = some (r, i) →
    r.kind = .lo → s.check m false a.toNat 0 = none → s.enabled a.toNat = true → a.toNat ≠ Reg.PMC_CYC_LO →
    a.toNat ≠ Reg.BKP_TICK_LO → s.openBits a.toNat = 0 → s.openBits (a.toNat + 4) = 0 →
    ∃ t, Gives (.loWordRead m a) s t ∧ t.latched m (a.toNat + 4) = s.view (a.toNat + 4) ∧
      t = { s with regs := t.regs, hlk := t.hlk, latch := t.latch } ∧ RegsBut noteRegs s t) ∧
  (∀ (s : State) (a : BitVec 24) (v : Word) (r : RegRow) (i : Nat), regAt a.toNat = some (r, i) →
    s.check .tap true a.toNat v = none → s.command .tap (portOf (s.routePort 0)) r a.toNat v = none → isWindow a.toNat = false →
    s.refusal a.toNat (s.newWord .tap r a.toNat v) = none → a.toNat ∉ noteRegs → a.toNat ≠ Reg.SEQ_CTRL → s.noneWaits →
    s.reach .tap r ≠ 0 →
    ∃ t, Gives (.testConnectorAccess true a v) s t ∧ t.reg a.toNat = s.newWord .tap r a.toNat v ∧ t.tap = some (0, 0) ∧
      Noted [a.toNat] { s with tap := t.tap } t)

/-- R296, R307, R541: a control request that reads one register which nothing hides is answered by a CCPL with status 0 and its word; one
whose CRC-32 fails is answered CRCERR and counted, and one that the link repeats is not executed again. R308: a write of a window or
privilege register takes effect, and the drain of the host accesses in flight begins; when none is left it ends, and the CCPL withheld for
it goes out. -/
def Obligations.ControlRequestsAndDrain : Prop :=
  (∀ (s : State) (p : Port) (h : Dword) (pl : List Byte) (v : Word), s.NextIn (portIdx p) h → (s.port (portIdx p)).ackDue < 15 → hTYPE h = 2 → s.mine h = true →
    creqCrcOk h pl = true → (creqOf pl).wr = false → (creqOf pl).count = 1 → s.flag F.PMC_CTRL_EN = false →
    (s.rxOwn (portIdx p) h 2 1).2.runCheck (creqMaster pl) (s.sessionNamed pl) (creqOf pl) ((creqOf pl).run pl) = none →
    (s.rxOwn (portIdx p) h 2 1).2.regRead (creqMaster pl) (creqOf pl).ofs = (v, (s.rxOwn (portIdx p) h 2 1).2) →
    s.noneWaits → s.PortFree (portIdx p) →
    ∃ t, Gives (.creq p h pl) s t ∧ s.Sent t (portIdx p) (s.ccpl h pl 0 [v]) ∧
      t = { s with regs := t.regs, hlk := t.hlk } ∧ RegsBut (linkRegs (portIdx p)) s t) ∧
  (∀ (s : State) (p : Port) (h : Dword) (pl : List Byte), s.NextIn (portIdx p) h → (s.port (portIdx p)).ackDue < 15 → hTYPE h = 2 → s.mine h = true →
    creqCrcOk h pl = false → s.PortFree (portIdx p) →
    ∃ t, Gives (.creq p h pl) s t ∧ s.Sent t (portIdx p) (s.ccpl h pl 4 []) ∧ Counts s t (Reg.HLK_P_CRC32_CNT (portIdx p)) ∧
      t = { s with regs := t.regs, hlk := t.hlk } ∧ RegsBut (Reg.HLK_P_CRC32_CNT (portIdx p) :: linkRegs (portIdx p)) s t) ∧
  (∀ (s : State) (p : Port) (h : Dword) (pl : List Byte), s.portUp (portIdx p) = true → hTYPE h = 2 → s.mine h = true → hcrcGood h = true →
    128 ≤ (hSEQ h + 256 - (s.port (portIdx p)).rxSeq) % 256 →
    ∃ t, Gives (.creq p h pl) s t ∧ t = { s with regs := t.regs, hlk := t.hlk } ∧ RegsBut (linkRegs (portIdx p)) s t) ∧
  (∀ (s : State) (m : Master) (a : BitVec 24) (v : Word) (r : RegRow) (i : Nat), reaches m = true → isWindow a.toNat = true →
    regAt a.toNat = some (r, i) → s.check m true a.toNat v = none → s.refusal a.toNat (s.newWord m r a.toNat v) = none →
    s.reach m r ≠ 0 → s.noneWaits → s.hlk.mrds ≠ [] →
    ∃ t, Gives (.windowWrite m a v) s t ∧ t.reg a.toNat = s.newWord m r a.toNat v ∧ t.hlk.drain = some none ∧
      t.hlk.mrds = s.hlk.mrds.map (fun x => { x with held := true }) ∧ t.hlk.mwrs = 0 ∧ Noted [a.toNat] s t) ∧
  (∀ s : State, s.hlk.drain = some none → s.drained = true → s.hlk.waiting = [] → s.pwr.soft = false →
    ∃ t, Gives .drainComplete s t ∧ t = { s with hlk := { s.hlk with drain := none } }) ∧
  (∀ (s : State) (p : Port) (f : Flit), s.hlk.drain = some (some (p, f)) → s.drained = true → s.hlk.waiting = [] →
    s.pwr.soft = false → flitSequenced f.typ = true → s.PortFree (portIdx p) →
    ∃ t, Gives .drainComplete s t ∧ t.hlk.drain = none ∧ s.Sent t (portIdx p) f ∧ t = { s with regs := t.regs, hlk := t.hlk } ∧
      RegsBut (linkRegs (portIdx p)) s t)

/-! ## Tasks -/

/-- R317, R318, R329, R332, R334: a GO takes the descriptor, in RUNNING or FROZEN it is answered NAK, and the checks follow once TASK is
1; RESTART leaves a settled freeze; a task whose work is done ends, at once when no write awaits its flush; a frozen one settles. -/
def Obligations.TaskControl : Prop :=
  (∀ (s : State) (p : Port) (m : Master), s.taskRunning = false → s.taskFrozen = false → s.flag F.SEQ_MODE_TASK = false →
    s.flag F.PWR_START_STOPPED = false → s.flag F.SEQ_STAT_DFAULT = false →
    ∃ t, Gives (.go p m) s t ∧ t.taskRunning = true ∧ t.opcode = (s.reg (Reg.TSK_DESC 0)).toNat / 2 ^ 24 ∧ t.tsk.desc = s.descOf ∧
      t.tsk.port = p ∧ t.tsk.work = true ∧ t.tsk.unchecked = true ∧ t.rd F.TSK_STATE_ERRCLS = 0 ∧ t.flag F.TSK_STATE_SETTLED = false ∧
      t.reg Reg.TSK_HTAG = s.reg (Reg.TSK_DESC 1) ∧ t.reg Reg.TSK_PROG = 0 ∧ t.evPending Ev.taskGo = true ∧
      t = { s with regs := t.regs, hlk := t.hlk, tsk := t.tsk, wrp := t.wrp, free := t.free }) ∧
  (∀ (s : State) (p : Port) (m : Master), s.taskRunning = false → s.taskFrozen = false → s.flag F.SEQ_MODE_TASK = true →
    s.flag F.PWR_START_STOPPED = false → s.flag F.SEQ_STAT_DFAULT = false → s.withDesc.descW 0 = 0x7F000000 →
    s.withDesc.descW 9 % 64 = 0 →
    ∃ t, Gives (.go p m) s t ∧ t.taskRunning = true ∧ t.opcode = 0x7F ∧ t.tsk.desc = s.descOf ∧ t.tsk.unchecked = false ∧
      t.tsk.work = true ∧ t = { s with regs := t.regs, hlk := t.hlk, tsk := t.tsk, wrp := t.wrp, free := t.free }) ∧
  (∀ (s : State) (p : Port) (m : Master), s.taskRunning = false → s.taskFrozen = false → s.flag F.SEQ_MODE_TASK = true →
    s.flag F.PWR_START_STOPPED = false → s.flag F.SEQ_STAT_DFAULT = false →
    taskOpcodes.contains (s.withDesc.descW 0 / 2 ^ 24) = false →
    ∃ t, Gives (.go p m) s t ∧ t.taskFrozen = true ∧ t.rd F.TSK_STATE_ERRCLS = 0x50 ∧ Counts s t Reg.TSK_ILL_CNT ∧
      t.flag F.TSK_INT_STAT_FROZEN = true) ∧
  (∀ (s : State) (p : Port) (m : Master), s.taskRunning = true ∨ s.taskFrozen = true →
    ∃ t, Gives (.go p m) s t ∧ Counts s t Reg.TSK_NAK_CNT ∧ OnlyRegs [Reg.TSK_NAK_CNT] s t) ∧
  (∀ (s : State) (p : Port), s.taskFrozen = true → s.flag F.TSK_STATE_SETTLED = true →
    ∃ t, Gives (.restart p) s t ∧ t.rd F.TSK_STATE_STATE = 0 ∧ t.rd F.TSK_STATE_ERRCLS = 0 ∧
      (∀ k, k < 16 → t.reg (Reg.TSK_RES k) = 0) ∧ OnlyRegs (Reg.TSK_STATE :: (List.range 16).map (fun k => Reg.TSK_RES k)) s t) ∧
  (∀ (s : State) (p : Port), s.taskFrozen = false ∨ s.flag F.TSK_STATE_SETTLED = false →
    ∃ t, Gives (.restart p) s t ∧ Counts s t Reg.TSK_NAK_CNT ∧ OnlyRegs [Reg.TSK_NAK_CNT] s t) ∧
  (∀ s : State, s.taskRunning = true → s.tsk.work = false → s.tsk.unchecked = false → s.tsk.ending = false → s.taskReady = true →
    s.cplAddr = 0 → s.hlk.mwrs = 0 → s.flushed = true →
    ∃ t, Gives .taskSuccess s t ∧ t.rd F.TSK_STATE_STATE = 2 ∧ t.flag F.TSK_STATE_SETTLED = true ∧ t.flag F.TSK_INT_STAT_END = true ∧
      t.reg (Reg.TSK_RES 1) = s.reg Reg.TSK_HTAG ∧ t.reg (Reg.TSK_RES 5) = s.reg Reg.TSK_PROG ∧ Counts s t Reg.TSK_DONE_CNT ∧
      t = { s with regs := t.regs, hlk := t.hlk, tsk := t.tsk, free := t.free }) ∧
  (∀ s : State, s.taskRunning = true → s.tsk.work = false → s.tsk.unchecked = false → s.tsk.ending = false → s.taskReady = true →
    s.cplAddr = 0 → s.hlk.mwrs.getLsbD 0 = true →
    ∃ t, Gives .taskSuccess s t ∧ t.taskRunning = true ∧ t.tsk.ending = true ∧ t.hlk.mwrs = 0 ∧
      t.hlk.flush[(0 : Fin 3)] = s.hlk.flush[(0 : Fin 3)] + 1 ∧ t = { s with regs := t.regs, hlk := t.hlk, tsk := t.tsk, free := t.free }) ∧
  (∀ s : State, s.taskFrozen = true → s.flag F.TSK_STATE_SETTLED = false → s.hlk.mrds.all (fun m => m.live) = true → s.flushed = true →
    ∃ t, Gives .freezeSettled s t ∧ t.flag F.TSK_STATE_SETTLED = true ∧ t.taskFrozen = true ∧ Noted [Reg.TSK_STATE] s t)

/-- R325, R336: what an extent task begins with: the DET of its heads in READ, or in VERIFY for a write (R16; that the task sets these
modes is the model's choice, log entry 50), the spindle at its speed, the scatter list where data moves, and for a write the plan of its
home blocks, or with SPARE the replacement queues. The beam of a planned block is the model's choice (log entry 17). -/
def Obligations.ExtentTasks : Prop :=
  (∀ (s : State) (a : Nat), s.works 1 = true → s.spnState = 4 → s.rd F.SPN_TARGET_RPM = s.speedOr 0 → s.ListOpens a →
    ∃ t, Gives .readExtent s t ∧ t.tsk.work = false ∧ s.Listed t a ∧ s.ModesSet t 1 ∧
      t = { s with regs := t.regs, hlk := t.hlk, tsk := t.tsk } ∧ RegsBut (modeRegs ++ listRegs s) s t) ∧
  (∀ s : State, s.works 3 = true → s.spnState = 4 → s.rd F.SPN_TARGET_RPM = s.speedOr 0 →
    ∃ t, Gives .verifyExtent s t ∧ t.tsk.work = false ∧ t.tsk.sgDone = true ∧ s.ModesSet t 1 ∧ t = { s with regs := t.regs, tsk := t.tsk } ∧
      RegsBut modeRegs s t) ∧
  (∀ s : State, s.works 3 = true → s.spnState = 0 → (s.wr F.SPN_TARGET_RPM (s.speedOr 0)).spnRefusal 1 = none →
    ∃ t, Gives .verifyExtent s t ∧ t.tsk.work = false ∧ t.rd F.SPN_TARGET_RPM = s.speedOr 0 % 2 ^ 13 ∧ t.spnState = 2 ∧ t.spn.cmd = 1 ∧
      s.ModesSet t 1 ∧ t = { s with regs := t.regs, spn := t.spn, tsk := t.tsk } ∧ RegsBut (modeRegs ++ spnRegs) s t) ∧
  (∀ (s : State) (a : Nat), s.works 2 = true → s.tskFlag 1 = false → s.spnState = 4 → s.rd F.SPN_TARGET_RPM = s.speedOr 1 →
    s.ListOpens a →
    ∃ t, Gives .writeExtent s t ∧ t.tsk.work = false ∧ s.Listed t a ∧
      (∀ b : Beam, (t.wrp.beams[b]).plan = (s.wrp.beams[b]).plan ++
        (s.taskLbas.filter (fun l => decide (homeBeam l = b))).map (fun l => ⟨l, .home, 0, lbaZL l, 0, []⟩)) ∧ s.ModesSet t 2 ∧
      t = { s with regs := t.regs, hlk := t.hlk, tsk := t.tsk, wrp := t.wrp } ∧
      RegsBut (modeRegs ++ listRegs s) s t) ∧
  (∀ (s : State) (a : Nat), s.works 2 = true → s.tskFlag 1 = true → s.spnState = 4 → s.rd F.SPN_TARGET_RPM = s.speedOr 1 →
    s.ListOpens a →
    ∃ t, Gives .writeExtentSpare s t ∧ t.tsk.work = false ∧ s.Listed t a ∧
      (∀ z, z < 320 → t.queue z = s.queue z ++ (s.taskLbas.filter (fun l => decide (lbaZL l = z))).map (fun l => ⟨l, 0⟩)) ∧
      t.wrp.beams = s.wrp.beams ∧ s.ModesSet t 2 ∧ t = { s with regs := t.regs, hlk := t.hlk, tsk := t.tsk, wrp := t.wrp } ∧
      RegsBut (modeRegs ++ listRegs s) s t)

/-- R23 to R25, R52, R53, R325, R326, R415: the tasks of a disc: its load in three stages, its unload in three, its management blocks, its
record event, the scan of its spare slots, and the catalogue. Where a table entry lies, what a disc without a record shows, and which
table counts as held are the model's (log entries 42, 49, 56); blocks the read path has not read are operands (log entry 36). -/
def Obligations.DiscTasks : Prop :=
  (∀ (s : State) (bs : List MgmtBlock), s.works 0x10 = true → s.tsk.phase = 0 → s.driveRests = true →
    ∃ t, Gives (.loadDisc bs) s t ∧ t.lbs.hs = 1 ∧ t.lbs.sent = 1 ∧ t.rd F.LBS_STAT_HS = 1 ∧ t.tsk.phase = 1 ∧ DramKept s t ∧
      t = { s with regs := t.regs, lbs := t.lbs, tsk := t.tsk, flc := t.flc, free := t.free }) ∧
  (∀ (s : State) (bs : List MgmtBlock), s.works 0x10 = true → s.tsk.phase = 0 → s.spnState = 4 → s.spnRefusal 2 = none → s.spn.cmd = 0 →
    (∀ h : Fin 4, s.lsvIdle h = true) →
    ∃ t, Gives (.loadDisc bs) s t ∧ t.tsk.phase = 0 ∧ t.spnState = 5 ∧ t.spn.cmd = 2 ∧ t = { s with regs := t.regs, spn := t.spn } ∧
      RegsBut spnRegs s t) ∧
  (∀ (s : State) (bs : List MgmtBlock), s.works 0x10 = true → s.tsk.phase = 1 → s.lbs.hs = 5 → s.spnState = 0 →
    (s.wr F.SPN_TARGET_RPM (s.reg (Reg.CFG_PARAM 0)).toNat).spnRefusal 1 = none →
    ∃ t, Gives (.loadDisc bs) s t ∧ t.tsk.phase = 2 ∧ t.spn.cmd = 1 ∧ t.spnState = 2 ∧
      t.rd F.SPN_TARGET_RPM = (s.reg (Reg.CFG_PARAM 0)).toNat % 2 ^ 13 ∧
      t = { s with regs := t.regs, spn := t.spn, tsk := t.tsk } ∧ RegsBut spnRegs s t) ∧
  (∀ (s : State) (bs : List MgmtBlock), s.works 0x10 = true → s.tsk.phase = 2 → s.flag F.SPN_STAT_ATSPEED = true →
    lastRecord bs = none → (∀ l, l < 16 → entryBlocks bs l = []) →
    ∃ t, Gives (.loadDisc bs) s t ∧ t.flag F.TSK_DISC_LOADED = true ∧ t.flag F.TSK_DISC_CATALOGUED = false ∧ t.rd F.TSK_DISC_WGEN = 1 ∧
      t.disc.hasRecord = false ∧ t.disc.identity = List.replicate 16 0 ∧ t.tsk.work = false ∧
      (∀ z : Fin 320, t.disc.nextFree[z] = 0) ∧ t.disc.table = [] ∧ t.disc.rebuild = List.range 320 ∧
      DramBut 0x3E0000000 (tableEnd - 0x3E0000000) s t ∧
      t = { s with regs := t.regs, hlk := t.hlk, disc := t.disc, tsk := t.tsk, dram := t.dram, psn := t.psn }) ∧
  (∀ (s : State) (bs : List MgmtBlock) (r : List Byte), s.works 0x10 = true → s.tsk.phase = 2 → s.flag F.SPN_STAT_ATSPEED = true →
    lastRecord bs = some r →
    ∃ t, Gives (.loadDisc bs) s t ∧ t.flag F.TSK_DISC_LOADED = true ∧ t.rd F.TSK_DISC_WGEN = nextWGEN (beAt r 32 2) ∧
      t.disc.hasRecord = true ∧ t.disc.identity = bytesAt r 16 16 ∧ t.disc.recSeq = beAt r 12 4 ∧ t.disc.recWgen = beAt r 32 2 ∧
      (∀ z : Fin 320, t.disc.nextFree[z] = beAt r (40 + 2 * z.val) 2) ∧ t.disc.catEntry.isSome = true ∧ t.tsk.work = false) ∧
  (∀ s : State, s.works 0x11 = true → s.tsk.phase = 0 → s.disc.changed = false → s.disc.added = 0 → s.disc.hasRecord = false →
    (∀ h, h < 4 → s.lsvIdle h = true) → s.spnLoops = true → s.spn.cmd = 0 → s.spnRefusal 5 = none →
    ∃ t, Gives .unloadDisc s t ∧ t.tsk.phase = 2 ∧ t.rd F.SPN_PARK_ANGLE = (s.reg (Reg.CFG_PARAM 2)).toNat % 2 ^ 16 ∧ t.spnState = 5 ∧
      t.spn.cmd = 5 ∧ t.rd F.SPN_TARGET_RPM = 0 ∧ t = { s with regs := t.regs, spn := t.spn, tsk := t.tsk } ∧
      RegsBut (Reg.SPN_PARK :: spnRegs) s t) ∧
  (∀ s : State, s.works 0x11 = true → s.tsk.phase = 1 → s.spn.cmd = 0 → s.spnState = 7 ∨ s.spnState = 8 → s.spnRefusal 2 = none →
    ∃ t, Gives .unloadDisc s t ∧ t.tsk.phase = 1 ∧ t.spn.cmd = 2 ∧ t = { s with regs := t.regs, spn := t.spn } ∧ RegsBut spnRegs s t) ∧
  (∀ s : State, s.works 0x11 = true → s.tsk.phase = 1 → s.spn.cmd = 0 → s.spnState = 0 →
    (s.wr F.SPN_TARGET_RPM (s.reg (Reg.CFG_PARAM 0)).toNat).spnRefusal 1 = none →
    ∃ t, Gives .unloadDisc s t ∧ t.tsk.phase = 1 ∧ t.spn.cmd = 1 ∧ t.spnState = 2 ∧ t = { s with regs := t.regs, spn := t.spn } ∧
      RegsBut spnRegs s t) ∧
  (∀ s : State, s.works 0x11 = true → s.tsk.phase = 2 → s.spn.cmd = 0 → s.spnState = 8 → s.flag F.SPN_STAT_PARKED = true →
    ∃ t, Gives .unloadDisc s t ∧ t.lbs.hs = 2 ∧ t.lbs.sent = 1 ∧ t.rd F.LBS_STAT_HS = 2 ∧ t.tsk.phase = 3 ∧
      t = { s with regs := t.regs, lbs := t.lbs, tsk := t.tsk }) ∧
  (∀ s : State, s.works 0x11 = true → s.tsk.phase = 2 → s.spn.cmd ≠ 0 → Gives .unloadDisc s s) ∧
  (∀ s : State, s.works 0x11 = true → s.tsk.phase = 2 → s.spn.cmd = 0 → s.spnState ≠ 8 ∨ s.flag F.SPN_STAT_PARKED = false →
    ∃ t, Gives .unloadDisc s t ∧ t.taskFrozen = true ∧ t.rd F.TSK_STATE_ERRCLS = 0x52 ∧ t.lbs.frame = s.lbs.frame) ∧
  (∀ s : State, s.works 0x11 = true → s.tsk.phase = 3 → s.lbs.hs = 6 → s.tsk.failed = false →
    ∃ t, Gives .unloadDisc s t ∧ t = { s with tsk := { s.tsk with work := false } }) ∧
  (∀ (s : State) (bs : List MgmtBlock) (b : MgmtBlock) (a : Nat), s.works 0x20 = true → s.tsk.phase ≠ 0 → s.tsk.sgDone = true →
    s.descW 3 / 2 ^ 16 % 1024 = 1 →
    bs.find? (fun b => decide (b.layer.val = s.descW 2 % 16) && decide (b.slot = s.descW 3 % 1024)) = some b →
    b.bytes.length = 32768 → s.Takes a 32768 →
    ∃ t, Gives (.readMgmt bs) s t ∧ t.reg Reg.TSK_PROG = BitVec.ofNat 32 (s.doneCount + 1) ∧ t.tsk.work = false ∧
      t.tsk.moved = s.tsk.moved + 32768 ∧ (t.port (s.routePort 0)).qd = (s.port (s.routePort 0)).qd ++ mwrFlits s.hop a b.bytes ∧
      t.evPending Ev.dmaDone = true ∧ t = { s with regs := t.regs, hlk := t.hlk, tsk := t.tsk } ∧
      RegsBut (Reg.TSK_PROG :: eventRegs Ev.dmaDone) s t) ∧
  (∀ s : State, s.works 0x21 = true →
    ∃ t, Gives .closeSession s t ∧
      ((s.taskRecord true).1 = true → t.tsk.work = false ∧
        t.tsk.res = [BitVec.ofNat 32 (s.taskRecord true).2.disc.recSeq, BitVec.ofNat 32 s.toRecord, 0, 0, 0, 0] ∧
        t = { (s.taskRecord true).2 with tsk := t.tsk }) ∧
      ((s.taskRecord true).1 = false → t.taskFrozen = true ∧ t.rd F.TSK_STATE_ERRCLS = 0x13)) ∧
  (∀ s : State, s.works 0x21 = true → s.disc.table = [] → 704 ≤ s.disc.mgmtNext[0] →
    ∃ t, Gives .closeSession s t ∧ t.taskFrozen = true ∧ t.rd F.TSK_STATE_ERRCLS = 0x13 ∧ t.disc = s.disc) ∧
  (∀ s : State, s.works 0x31 = true → s.tsk.phase = 0 → s.descW 3 ≠ 0 →
    ∃ t, Gives .scanSpare s t ∧ t.tsk.phase = 1 ∧ t.tsk.work = true ∧
      t.disc.rebuild = (List.range (s.descW 3)).map (· + s.descW 2) ++
        s.disc.rebuild.filter (fun z => !((List.range (s.descW 3)).map (· + s.descW 2)).contains z) ∧
      t = { s with disc := { s.disc with rebuild := t.disc.rebuild }, tsk := t.tsk }) ∧
  (∀ (s : State) (a : Nat), s.works 0x40 = true → s.tsk.phase ≠ 0 → s.tsk.sgDone = true → s.Takes a (64 * s.descW 3) →
    ∃ t, Gives .catalogRead s t ∧ t.reg Reg.TSK_PROG = BitVec.ofNat 32 (s.descW 3) ∧ t.tsk.work = false ∧
      (t.port (s.routePort 0)).qd = (s.port (s.routePort 0)).qd ++
        mwrFlits s.hop a ((List.range (s.descW 3)).flatMap (fun k => s.directory (s.descW 2 + k))) ∧ DramKept s t ∧
      t.evPending Ev.dmaDone = true ∧ t = { s with regs := t.regs, hlk := t.hlk, tsk := t.tsk, mem := t.mem } ∧
      RegsBut (Reg.TSK_PROG :: eventRegs Ev.dmaDone ++ accessRegs ++ noteRegs) s t) ∧
  (∀ s : State, s.works 0x41 = true → s.tskFlag 4 = false →
    ∃ t, Gives .catalogEvict s t ∧ t.tsk.work = false ∧ DramBut (catBase (s.descW 2)) (2 ^ 20) s t ∧
      (∀ a, catBase (s.descW 2) ≤ a → a < catBase (s.descW 2 + 1) → t.dramByte a = 0) ∧
      (∀ k, k < 3 → ∀ w, w / 1024 = s.physSec (catSector (s.descW 2) + k) → t.flashWord w = erasedWord) ∧
      t = { s with regs := t.regs, hlk := t.hlk, dram := t.dram, flc := t.flc, tsk := t.tsk } ∧ RegsBut (Reg.FLC_ERASE_CNT :: noteRegs) s t) ∧
  (∀ s : State, s.works 0x41 = true → s.tskFlag 4 = true →
    ∃ t, Gives .catalogEvictAll s t ∧ t.tsk.work = false ∧
      (∀ n, n < 4096 → s.disc.catEntry ≠ some n → ∀ a, catBase n ≤ a → a < catBase (n + 1) → t.dramByte a = 0) ∧
      (∀ n, s.disc.catEntry = some n → ∀ a, catBase n ≤ a → a < catBase (n + 1) → t.dramByte a = s.dramByte a) ∧
      t = { s with regs := t.regs, hlk := t.hlk, dram := t.dram, flc := t.flc, tsk := t.tsk } ∧ RegsBut (Reg.FLC_ERASE_CNT :: noteRegs) s t)

/-- R323, R325, R365, R442, R473: the tasks of the spindle, of the pair, of a patch, and NOP. What a patch's reads bring is an operand,
and how SEQ holds the lock of CPH is the model's reading (log entry 36). -/
def Obligations.OtherTasks : Prop :=
  (∀ s : State, s.works 0x12 = true → s.spnState = 0 → (s.wr F.SPN_TARGET_RPM (s.speedOr 0)).spnRefusal 1 = none →
    ∃ t, Gives .spinUp s t ∧ t.tsk.work = false ∧ t.rd F.SPN_TARGET_RPM = s.speedOr 0 % 2 ^ 13 ∧ t.spnState = 2 ∧ t.spn.cmd = 1 ∧
      t = { s with regs := t.regs, spn := t.spn, tsk := t.tsk } ∧ RegsBut spnRegs s t) ∧
  (∀ s : State, s.works 0x13 = true → s.descW 2 % 4 = 0 → s.spnState = 4 → s.spnRefusal 2 = none →
    ∃ t, Gives .spinDownStop s t ∧ t.tsk.work = false ∧ t.spnState = 5 ∧ t.spn.cmd = 2 ∧ t.rd F.SPN_TARGET_RPM = 0 ∧
      t = { s with regs := t.regs, spn := t.spn, tsk := t.tsk } ∧ RegsBut spnRegs s t) ∧
  (∀ s : State, s.works 0x13 = true → s.descW 2 % 4 = 1 → s.spnState ≠ 0 → s.spnRefusal 3 = none →
    ∃ t, Gives .spinDownBrake s t ∧ t.tsk.work = false ∧ t.spnState = 6 ∧ t.spn.cmd = 3 ∧
      t = { s with regs := t.regs, spn := t.spn, tsk := t.tsk } ∧ RegsBut spnRegs s t) ∧
  (∀ s : State, s.works 0x13 = true → s.descW 2 % 4 = 2 → s.spnRefusal 5 = none →
    ∃ t, Gives .spinDownPark s t ∧ t.tsk.work = false ∧ t.spnState = 5 ∧ t.spn.cmd = 5 ∧ t.rd F.SPN_PARK_ANGLE = s.descW 3 % 2 ^ 16 ∧
      t = { s with regs := t.regs, spn := t.spn, tsk := t.tsk } ∧ RegsBut (Reg.SPN_PARK :: spnRegs) s t) ∧
  (∀ s : State, s.works 0x50 = true → s.tsk.phase = 0 → s.rd F.MIR_STAT_RED = 1 → s.partner 5 = true → s.partner 6 = false →
    ∃ t, Gives .pairHandover s t ∧ t.tsk.phase = 1 ∧ t.mir.giving = true ∧ t.mir.pulse = false ∧ Counts s t Reg.MIR_REL_CNT ∧
      t = { s with regs := t.regs, hlk := t.hlk, tsk := t.tsk, mir := t.mir }) ∧
  (∀ (s : State) (blob : List Byte) (a : Nat), s.works 0x60 = true → s.tsk.phase = 0 → s.ListOpens a →
    ∃ t, Gives (.patchLoad blob) s t ∧ t.tsk.phase = 1 ∧ s.Listed t a ∧ t = { s with regs := t.regs, hlk := t.hlk, tsk := t.tsk } ∧
      RegsBut (listRegs s) s t) ∧
  (∀ (s : State) (blob p : List Byte) (k : Slot), s.works 0x60 = true → s.tsk.phase = 2 → s.hlk.mrds = [] → blob.length = s.descW 3 →
    s.cph.slots[(Fin.ofNat 8 (s.descW 2) : Fin 8)] = some k → k.usage = 2 →
    toBytes (Aes.cmac (toNats (subkey k.key 2)) (toNats (blob.take (blob.length - 16)))) = blob.drop (blob.length - 16) →
    toBytes (ctrDecrypt (toNats (subkey k.key 1)) (Aes.toNum ((toNats (blob.take (blob.length - 16))).take 16))
      ((toNats (blob.take (blob.length - 16))).drop 16)) = p →
    s.flag F.CPH_LOCK_HELD = false ∨ s.cphOwner .seq = true → s.flag F.CPH_STAT_BUSY = false →
    s.patchBad p = false → s.antiRollback ≤ beAt p 8 2 → beAt p 10 2 ≤ s.antiRollback → beAt p 12 2 ≠ 0 →
    (patchRecord p (beAt p 12 2 - 1)).1 = 1 → (patchRecord p (beAt p 12 2 - 1)).2.1 < 2 ^ 14 →
    ∃ t, Gives (.patchLoad blob) s t ∧ t.tsk.work = false ∧ t.rd F.SEQ_PATCH_VER_VERSION = beAt p 8 2 ∧
      t.rd F.SEQ_PATCH_VER_MINVER = beAt p 10 2 ∧
      t.csWord (BitVec.ofNat 14 (patchRecord p (beAt p 12 2 - 1)).2.1) = BitVec.ofNat 128 (patchRecord p (beAt p 12 2 - 1)).2.2 ∧
      t.cphOwner .seq = true ∧ t.cph.tag = some (blob.drop (blob.length - 16)) ∧ t.flag F.CPH_STAT_RELEASED = true ∧
      t = { s with regs := t.regs, tsk := t.tsk, seq := t.seq, cph := { s.cph with buf := t.cph.buf, tag := t.cph.tag } } ∧
      RegsBut ([Reg.SEQ_PATCH_VER, Reg.CPH_LOCK, Reg.CPH_STAT, Reg.CPH_SB_PTR, Reg.CPH_SB_LEN] ++ (List.range 4).map (fun k => Reg.CPH_TAG_EXP k)) s t) ∧
  (∀ (s : State) (blob : List Byte) (k : Slot), s.works 0x60 = true → s.tsk.phase = 2 → s.hlk.mrds = [] → blob.length = s.descW 3 →
    s.cph.slots[(Fin.ofNat 8 (s.descW 2) : Fin 8)] = some k → k.usage = 2 → s.flag F.CPH_LOCK_HELD = true → s.cphOwner .seq = false →
    Gives (.patchLoad blob) s s) ∧
  (∀ (s : State) (blob : List Byte) (k : Slot), s.works 0x60 = true → s.tsk.phase = 2 → s.hlk.mrds = [] → blob.length = s.descW 3 →
    s.cph.slots[(Fin.ofNat 8 (s.descW 2) : Fin 8)] = some k → k.usage ≠ 2 →
    ∃ t, Gives (.patchLoad blob) s t ∧ t.taskFrozen = true ∧ t.rd F.TSK_STATE_ERRCLS = 0x51 ∧ t.seq.cs = s.seq.cs) ∧
  (∀ s : State, s.works 0x7F = true → ∃ t, Gives .nop s t ∧ t = { s with tsk := { s.tsk with work := false } })

/-! ## Calibration -/

/-- R501 to R508, R515: what each calibration reports, and what it writes under APPLY. A result beyond its field is clamped. Means are
rounded to the nearest by the model's choice, and spreads and fits come as evidence (log entries 8, 60, 63). -/
def Obligations.Calibrations : Prop :=
  (∀ (s : State) (meas : Nat) (rs : List Int) (q : Nat), s.calibrates 1 = true → s.calMay = true →
    ∃ t, Gives (.calibrateRef meas rs q) s t ∧ s.Calibrated t ∧ t.reg Reg.CAL_REFMEAS = BitVec.ofNat 32 meas ∧
      t.reg Reg.CAL_REFQ = BitVec.ofNat 32 q ∧
      t.int Reg.CAL_REFCOR = (if s.calApply then clampTo (-20000) 20000 (meanInt rs) else s.int Reg.CAL_REFCOR) ∧
      RegsBut [Reg.CAL_STAT, Reg.CAL_REFMEAS, Reg.CAL_REFQ, Reg.CAL_REFCOR] s t) ∧
  (∀ (s : State) (ms rs : List Int), s.calibrates 2 = true → s.calMay = true →
    ∃ t, Gives (.calibrateInofs ms rs) s t ∧ s.Calibrated t ∧
      (∀ i : Fin 52, (s.descW 3).testBit (i.val / 13) = true →
        t.int (Reg.ACQ_IN_OFS i) = (if s.calApply then clampTo (-2 ^ 31) (2 ^ 31 - 1) (ms.getD i 0) else s.int (Reg.ACQ_IN_OFS i)) ∧
        t.rd ⟨Reg.CAL_IN_RES (i.val / 2), 16 * (i.val % 2), 16⟩ = unsigned 16 (clampTo (-32767) 32767 (rs.getD i 0))) ∧
      RegsBut (Reg.CAL_STAT :: (List.range 52).map (fun i => Reg.ACQ_IN_OFS i) ++ (List.range 26).map (fun w => Reg.CAL_IN_RES w)) s t) ∧
  (∀ (s : State) (os gs : List Word) (rs : List Int), s.calibrates 3 = true → s.calMay = true →
    ∃ t, Gives (.calibrateShunt os gs rs) s t ∧ s.Calibrated t ∧
      (∀ p, p < 3 → t.reg (Reg.SPN_SHUNT_OFS p) = (if s.calApply then os.getD p 0 else s.reg (Reg.SPN_SHUNT_OFS p)) ∧
        t.reg (Reg.SPN_SHUNT_GAIN p) = (if s.calApply then gs.getD p 0 else s.reg (Reg.SPN_SHUNT_GAIN p)) ∧
        t.rd ⟨Reg.CAL_SHUNT_Q, 10 * p, 10⟩ = unsigned 10 (clampTo (-512) 511 (rs.getD p 0)))) ∧
  (∀ (s : State) (ts : List Word) (is : List Nat), s.calibrates 4 = true → s.calMay = true →
    ∃ t, Gives (.calibrateLdcur ts is) s t ∧ t.tsk.work = false ∧
      (∀ c : Chan, (s.descW 3).testBit c.val = true → t.rd (F.CAL_LD_Q_IRES c) = min 15 (is.getD c.val 0) ∧
        t.wrp.trims[c] = (if s.calApply then ts.getD c.val 0 else s.wrp.trims[c])) ∧
      (∀ c : Chan, (s.descW 3).testBit c.val = false → t.wrp.trims[c] = s.wrp.trims[c]) ∧
      t = { s with regs := t.regs, tsk := t.tsk, wrp := { s.wrp with trims := t.wrp.trims } } ∧
      RegsBut (Reg.CAL_STAT :: (List.range 20).map (fun c => Reg.CAL_LD_Q c)) s t) ∧
  (∀ (s : State) (fs : List LdFit), s.calibrates 5 = true → s.calMay = true →
    ∃ t, Gives (.calibrateLdpwr fs) s t ∧ s.Calibrated t ∧
      (∀ (h : Head) (e : Fin 5), (s.descW 3).testBit h.val = true →
        t.rd (F.CAL_LD_Q_THR (5 * h.val + e.val)) = min 4095 (fs.getD (5 * h.val + e.val) ⟨0, 0, 0⟩).thr ∧
        t.rd (F.CAL_LD_Q_SLOPE (5 * h.val + e.val)) = min 4095 (fs.getD (5 * h.val + e.val) ⟨0, 0, 0⟩).slope ∧
        t.rd (F.CAL_LD_Q_PRES (5 * h.val + e.val)) = min 15 (fs.getD (5 * h.val + e.val) ⟨0, 0, 0⟩).pres ∧
        t.rd (F.LDD_SCALE_APC (5 * h.val + e.val)) = 256) ∧
      (∀ h : Head, (s.descW 3).testBit h.val = true → s.reg (Reg.CFG_PARAM (4 + h.val)) = 0 → t.flag F.CAL_STAT_NORESP = true)) ∧
  (∀ (s : State) (d v : List (List Int)) (spr : List (Nat × Nat)), s.calibrates 6 = true → s.tsk.phase = 0 →
    s.calHeads.all (fun k => s.onLba (Fin.ofNat 4 k) s.calLba) = true →
    ∃ t, Gives (.calibrateSkew d v spr) s t ∧ t = { s with tsk := { s.tsk with phase := 1 } }) ∧
  (∀ (s : State) (d v : List (List Int)) (spr : List (Nat × Nat)), s.calibrates 6 = true → s.tsk.phase ≠ 0 → s.calMay = true →
    s.calHeads.all (fun k => s.onLba (Fin.ofNat 4 k) s.calLba) = true →
    ∃ t, Gives (.calibrateSkew d v spr) s t ∧ s.Calibrated t ∧
      (∀ b : Beam, (s.descW 3).testBit b.val = true → d.getD b.val [] = [] →
        t.rd (F.CAL_B_Q_DSPR b) = 255 ∧ t.rd (F.CAL_B_Q_VSPR b) = 255 ∧ t.reg (Reg.ACQ_SKEW_D b) = s.reg (Reg.ACQ_SKEW_D b) ∧
        t.reg (Reg.ACQ_SKEW_V b) = s.reg (Reg.ACQ_SKEW_V b)) ∧
      (∀ b : Beam, (s.descW 3).testBit b.val = true → d.getD b.val [] ≠ [] →
        t.rd (F.CAL_B_Q_DSPR b) = min 255 (spr.getD b.val (0, 0)).1 ∧ t.rd (F.CAL_B_Q_VSPR b) = min 255 (spr.getD b.val (0, 0)).2 ∧
        t.rd (F.ACQ_SKEW_D_OFS b) = (if s.calApply then unsigned 17 (clampTo (-40000) 40000 (signed 17 (s.rd (F.ACQ_SKEW_D_OFS b)) +
            bitsNm (d.getD b.val []).sum (d.getD b.val []).length (lbaBand s.calLba) (s.reg (Reg.ACQ_ZRATIO (lbaZone s.calLba))).toNat))
          else s.rd (F.ACQ_SKEW_D_OFS b)))) ∧
  (∀ (s : State) (ms : List Int) (sp : List Nat), s.calibrates 7 = true → s.calMay = true →
    ∃ t, Gives (.calibrateHofs ms sp) s t ∧ s.Calibrated t ∧
      (∀ h : Head, h ≠ 0 → (s.descW 3).testBit h.val = true → t.rd ⟨Reg.CAL_HOFS_Q, 8 * h.val, 8⟩ = min 255 (sp.getD h.val 0) ∧
        t.int (Reg.ANG_HOFS h) = (if s.calApply then clampTo (-2 ^ 31) (2 ^ 31 - 1) (ms.getD h.val 0) else s.int (Reg.ANG_HOFS h))) ∧
      RegsBut ([Reg.CAL_STAT, Reg.CAL_HOFS_Q] ++ [1, 2, 3].map (fun h => Reg.ANG_HOFS h)) s t) ∧
  (∀ (s : State) (j : List (List Nat)) (q : List Nat), s.calibrates 8 = true → s.tsk.phase ≠ 0 → s.calMay = true →
    s.calHeads.all (fun k => s.onLba (Fin.ofNat 4 k) s.calLba) = true →
    ∃ t, Gives (.calibrateSapos j q) s t ∧ s.Calibrated t ∧
      (∀ d, d < 4 → t.rd (F.CAL_B_Q_JIT (4 * (s.descW 3 % 4) + d)) = min 511 (q.getD d 511)) ∧
      (s.calApply = true → t.rd (F.LSV_SA_POS_POS (s.descW 3 % 4) (lbaLayer s.calLba % 8)) = unsigned 16 (clampTo (-32768) 32767
        (s.int (Reg.SLD_POS (s.descW 3 % 4 + 2)) + 16 * ((bestPosition j : Int) - 8))))) ∧
  (∀ (s : State) (e : List (List (Nat × Nat))) (j : List Nat), s.calibrates 9 = true → s.tsk.phase ≠ 0 → s.calMay = true →
    s.calHeads.all (fun k => s.onLba (Fin.ofNat 4 k) s.calLba) = true →
    ∃ t, Gives (.calibrateEye e j) s t ∧ s.Calibrated t ∧
      (∀ b : Beam, (s.descW 3).testBit b.val = true →
        t.rd (F.CAL_B_Q_EYEW b) = (if e.getD b.val [] = [] then 127 else min 127 (eyeWidth (e.getD b.val []))) ∧
        t.rd (F.CAL_B_Q_JIT b) = (if e.getD b.val [] = [] then 511 else min 511 (j.getD b.val 511))) ∧
      RegsBut (Reg.CAL_STAT :: (List.range 16).map (fun b => Reg.CAL_B_Q b)) s t) ∧
  (∀ (s : State) (rms : List Word), s.calibrates 10 = true →
    ∃ t, Gives (.calibrateLoop rms) s t ∧ s.Calibrated t ∧
      (∀ g : Group, (s.descW 3).testBit g.val = true → ∀ k ∈ loopResults g.val,
        t.reg (Reg.CAL_LOOP_RES k) = (if (s.group g).mode = 2 then rms.getD k 0 else 0xFFFFFFFF)) ∧
      RegsBut (Reg.CAL_STAT :: (List.range 19).map (fun k => Reg.CAL_LOOP_RES k)) s t)

/-! ## SEQ -/

/-- R343 to R346: the execution operations on registers, each in a word with NEXT: the result, Z and N with SETF, and for an addition C
and V, for a subtraction or compare V. C and V after other operations are free (log entry 31). -/
def Obligations.SeqArithmetic : Prop :=
  (∀ (s : State) (m : Micro), s.Runs m → s.Straight → m.ctl = 0 → m.xop = 0x01 →
    ∃ t, Gives .mov s t ∧ s.Ran t m (s.opB m)) ∧
  (∀ (s : State) (m : Micro), s.Runs m → s.Straight → m.ctl = 0 → m.xop = 0x02 →
    ∃ t, Gives .add s t ∧ s.Ran t m (s.g m.sa + s.opB m) ∧
      (m.setf = true → t.seq.c = decide (2 ^ 64 ≤ (s.g m.sa).toNat + (s.opB m).toNat) ∧
        t.seq.v = addOverflow (s.g m.sa) (s.opB m) (s.g m.sa + s.opB m))) ∧
  (∀ (s : State) (m : Micro), s.Runs m → s.Straight → m.ctl = 0 → m.xop = 0x03 →
    ∃ t, Gives .sub s t ∧ s.Ran t m (s.g m.sa - s.opB m) ∧
      (m.setf = true → t.seq.v = subOverflow (s.g m.sa) (s.opB m) (s.g m.sa - s.opB m))) ∧
  (∀ (s : State) (m : Micro), s.Runs m → s.Straight → m.ctl = 0 → m.xop = 0x04 →
    ∃ t, Gives .xAnd s t ∧ s.Ran t m (s.g m.sa &&& s.opB m)) ∧
  (∀ (s : State) (m : Micro), s.Runs m → s.Straight → m.ctl = 0 → m.xop = 0x05 →
    ∃ t, Gives .xOr s t ∧ s.Ran t m (s.g m.sa ||| s.opB m)) ∧
  (∀ (s : State) (m : Micro), s.Runs m → s.Straight → m.ctl = 0 → m.xop = 0x06 →
    ∃ t, Gives .xXor s t ∧ s.Ran t m (s.g m.sa ^^^ s.opB m)) ∧
  (∀ (s : State) (m : Micro), s.Runs m → s.Straight → m.ctl = 0 → m.xop = 0x07 →
    ∃ t, Gives .shl s t ∧ s.Ran t m (s.g m.sa <<< ((s.opB m).toNat % 64))) ∧
  (∀ (s : State) (m : Micro), s.Runs m → s.Straight → m.ctl = 0 → m.xop = 0x08 →
    ∃ t, Gives .shr s t ∧ s.Ran t m (s.g m.sa >>> ((s.opB m).toNat % 64))) ∧
  (∀ (s : State) (m : Micro), s.Runs m → s.Straight → m.ctl = 0 → m.xop = 0x09 →
    ∃ t, Gives .sar s t ∧ s.Ran t m ((s.g m.sa).sshiftRight ((s.opB m).toNat % 64))) ∧
  (∀ (s : State) (m : Micro), s.Runs m → s.Straight → m.ctl = 0 → m.xop = 0x0A →
    ∃ t, Gives .mul s t ∧ s.Ran t m (s.g m.sa * s.opB m)) ∧
  (∀ (s : State) (m : Micro), s.Runs m → s.Straight → m.ctl = 0 → m.xop = 0x0B → m.setf = true →
    ∃ t, Gives .cmp s t ∧ (∀ i, t.g i = s.g i) ∧ t.pc = s.pc + 1 ∧ t.seq.z = (s.g m.sa - s.opB m == 0) ∧
      t.seq.n = (s.g m.sa - s.opB m).msb ∧ t.seq.v = subOverflow (s.g m.sa) (s.opB m) (s.g m.sa - s.opB m) ∧
      t = { s with regs := t.regs, free := t.free, seq := { s.seq with z := t.seq.z, n := t.seq.n, c := t.seq.c, v := t.seq.v, afterEret := false } } ∧
      RegsBut seqRegs s t) ∧
  (∀ (s : State) (m : Micro), s.Runs m → s.Straight → m.ctl = 0 → m.xop = 0x0C →
    ∃ t, Gives .bfx s t ∧ s.Ran t m (BitVec.ofNat 64 ((s.g m.sa).toNat / 2 ^ fieldPos (s.opB m) % 2 ^ fieldWidth (s.opB m)))) ∧
  (∀ (s : State) (m : Micro) (v : Dword), s.Runs m → s.Straight → m.ctl = 0 → m.xop = 0x0D →
    aluResult 0x0D (s.g m.dst) (s.g m.sa) (s.opB m) = some v →
    ∃ t, Gives .bfi s t ∧ s.Ran t m v ∧ (m.dst ≠ 0 → ∀ i : Fin 64, (t.g m.dst).getLsbD i =
      (if fieldPos (s.opB m) ≤ i.val ∧ i.val < fieldPos (s.opB m) + fieldWidth (s.opB m) then (s.g m.sa).getLsbD (i.val - fieldPos (s.opB m))
        else (s.g m.dst).getLsbD i)))

/-- R344, R347, R350, R351, R353, R355, R361: the control operations, each in a word without an execution operation: the branch and its
delay slot, calls, dispatch, loops and their end, the mode and its shadow, WAIT and its wake-up, ERET and HALT. That a branch's word
commits with its slot is the model's reading (log entry 48); the codes of a halt's cause are its choice (log entry 69). -/
def Obligations.SeqControl : Prop :=
  (∀ (s : State) (m : Micro), s.Runs m → s.Straight → m.ctl = 0 → m.xop = 0 → m.setf = false →
    ∃ t, Gives .next s t ∧ s.SeqTo t (s.pc + 1) s.seq ∧ RegsBut seqRegs s t) ∧
  (∀ (s : State) (m : Micro), s.Runs m → s.Straight → m.ctl = 0 → m.xop = 0 → m.setf = false →
    ∃ t, Gives .xopNop s t ∧ s.SeqTo t (s.pc + 1) s.seq ∧ RegsBut seqRegs s t) ∧
  (∀ (s : State) (m : Micro) (b : Branch), s.Runs m → s.seq.branch = some b → s.seq.shadow = none → s.seq.loops = [] → m.ctl = 0 →
    m.xop = 0 → m.setf = false → b.call = none → b.pop = false → (microOf (s.csWord b.at_)).xop = 0x01 →
    (microOf (s.csWord b.at_)).setf = false →
    ∃ t, Gives .next s t ∧ t.pc = b.target.getD (b.at_ + 2) ∧
      (∀ i, t.g i = (if i = (microOf (s.csWord b.at_)).dst ∧ i ≠ 0 then s.opB (microOf (s.csWord b.at_)) else s.g i)) ∧
      t.pair Reg.SEQ_INSTR_CNT_LO = (s.pair Reg.SEQ_INSTR_CNT_LO + 2) % 2 ^ 64 ∧
      t = { s with regs := t.regs, seq := { s.seq with g := t.seq.g, branch := none, afterEret := false } } ∧ RegsBut seqRegs s t) ∧
  (∀ (s : State) (m : Micro) (l : LoopLevel) (r : List LoopLevel), s.Runs m → s.seq.branch = none → s.seq.shadow = none →
    s.seq.loops = l :: r → l.stop = s.pc → m.ctl = 0 → m.xop = 0 → m.setf = false → 1 < l.count.toNat →
    ∃ t, Gives .next s t ∧ s.SeqTo t l.start { s.seq with loops := { l with count := l.count - 1 } :: r } ∧ RegsBut seqRegs s t) ∧
  (∀ (s : State) (m : Micro) (l : LoopLevel) (r : List LoopLevel), s.Runs m → s.seq.branch = none → s.seq.shadow = none →
    s.seq.loops = l :: r → l.stop = s.pc → m.ctl = 0 → m.xop = 0 → m.setf = false → l.count.toNat ≤ 1 →
    ∃ t, Gives .next s t ∧ s.SeqTo t (s.pc + 1) { s.seq with loops := r } ∧ RegsBut seqRegs s t) ∧
  (∀ (s : State) (m : Micro) (k : BitVec 4), s.Runs m → s.seq.branch = none → s.seq.shadow = some k → s.seq.loops = [] → m.ctl = 0 →
    m.xop = 0 → m.setf = false → k.getLsbD 3 = false →
    ∃ t, Gives .next s t ∧ s.SeqTo t (s.pc + 1) { s.seq with shadow := none } ∧ t.modeBits = k ∧ RegsBut (Reg.SEQ_MODE :: seqRegs) s t) ∧
  (∀ (s : State) (m : Micro), s.Runs m → s.Straight → m.ctl = 1 → m.xop < 0x10 →
    ∃ t, Gives .br s t ∧ s.Branches t { at_ := s.pc, target := if s.condHolds m s.anyEvent then some m.target else none }) ∧
  (∀ (s : State) (m : Micro), s.Runs m → s.Straight → m.ctl = 2 → m.xop < 0x10 → s.seq.calls.length < 16 →
    ∃ t, Gives .call s t ∧ s.Branches t { at_ := s.pc, target := some m.target, call := some (s.pc + 2) }) ∧
  (∀ (s : State) (m : Micro) (a : BitVec 14) (r : List (BitVec 14)), s.Runs m → s.Straight → m.ctl = 3 → m.xop = 0 → m.setf = false →
    s.seq.calls = a :: r →
    ∃ t, Gives .ret s t ∧ s.Branches t { at_ := s.pc, target := some a, pop := true }) ∧
  (∀ (s : State) (m : Micro), s.Runs m → s.Straight → m.ctl = 4 → m.xop = 0 → m.setf = false →
    s.sramBad 3 ((s.g m.sa).toNat % 256 / 4) = false →
    ∃ t, Gives .dispatch s t ∧
      s.Branches t { at_ := s.pc, target := some (s.dispatchEntry ((s.g m.sa).toNat % 256)) }) ∧
  (∀ (s : State) (m : Micro), s.Runs m → s.Straight → m.ctl = 5 → m.xop = 0 → m.setf = false → s.loopCount m ≠ 0 →
    ∃ t, Gives .loop s t ∧ s.SeqTo t (s.pc + 1) { s.seq with loops := [⟨s.pc + 1, m.target, s.loopCount m⟩] } ∧ RegsBut seqRegs s t) ∧
  (∀ (s : State) (m : Micro), s.Runs m → s.Straight → m.ctl = 5 → m.xop = 0 → m.setf = false → s.loopCount m = 0 →
    ∃ t, Gives .loop s t ∧ s.SeqTo t (m.target + 1) s.seq ∧ RegsBut seqRegs s t) ∧
  (∀ (s : State) (m : Micro), s.Runs m → s.Straight → m.ctl = 6 → m.xop = 0 → m.setf = false → s.modeError m = false →
    ∃ t, Gives .mode s t ∧ s.SeqTo t (s.pc + 1) { s.seq with shadow := some (m.newMode s.modeBits) } ∧ t.modeBits = s.modeBits ∧
      RegsBut seqRegs s t) ∧
  (∀ (s : State) (m : Micro), s.Runs m → s.Straight → m.ctl = 7 → m.setf = false →
    ∃ t, Gives .wait s t ∧ s.SeqTo t s.pc { s.seq with waiting := true } ∧ RegsBut seqRegs s t) ∧
  (∀ (s : State) (n : Nat), s.seq.waiting = true → (s.flag F.SEQ_CTRL_HALT = true → s.flag F.SEQ_STAT_HALTED = true) → s.seq.wdog = false → s.seq.loops = [] → n ≠ 32 →
    s.lowestIn (s.g (Fin.ofNat 32 (microOf (s.csWord s.pc)).carg)) = some n →
    ∃ t, Gives .waitWake s t ∧ t.seq.waiting = false ∧ t.evPending n = false ∧ t.pc = s.pc + 1 ∧
      (∀ i, t.g i = (if i = (microOf (s.csWord s.pc)).dst ∧ i ≠ 0 then BitVec.ofNat 64 n else s.g i)) ∧
      t = { s with regs := t.regs, seq := { s.seq with waiting := false, g := t.seq.g } } ∧ RegsBut [Reg.SEQ_PC, Reg.SEQ_EVT_PEND (n / 32)] s t) ∧
  (∀ (s : State) (m : Micro), s.Runs m → s.Straight → m.ctl = 8 → m.xop = 0 → m.setf = false → s.flag F.SEQ_MODE_XM = true →
    (s.reg Reg.SEQ_EMODE).getLsbD 3 = false →
    ∃ t, Gives .eret s t ∧ t.pc = (s.reg Reg.SEQ_EPC).setWidth 14 ∧ t.flag F.SEQ_MODE_XM = false ∧
      t.modeBits = (s.reg Reg.SEQ_EMODE).setWidth 4 ∧ t.seq = { s.seq with afterEret := true } ∧
      t = { s with regs := t.regs, seq := t.seq } ∧ RegsBut (Reg.SEQ_MODE :: seqRegs) s t) ∧
  (∀ (s : State) (m : Micro), s.Runs m → s.Straight → m.ctl = 8 → m.xop = 0 → m.setf = false → s.flag F.SEQ_MODE_XM = false →
    s.flag F.SEQ_MODE_EM = true → (s.reg Reg.SEQ_EVMODE).getLsbD 3 = false →
    ∃ t, Gives .eret s t ∧ t.pc = (s.reg Reg.SEQ_EVPC).setWidth 14 ∧ t.flag F.SEQ_MODE_EM = false ∧
      t.modeBits = (s.reg Reg.SEQ_EVMODE).setWidth 4 ∧ t.seq = { s.seq with afterEret := true } ∧
      t = { s with regs := t.regs, seq := t.seq } ∧ RegsBut (Reg.SEQ_MODE :: seqRegs) s t) ∧
  (∀ (s : State) (m : Micro), s.Runs m → s.Straight → m.ctl = 9 → m.xop = 0 → m.setf = false →
    ∃ t, Gives .halt s t ∧ s.SeqTo t (s.pc + 1) s.seq ∧ t.flag F.SEQ_STAT_HALTED = true ∧
      t.reg Reg.SEQ_DBG_STAT = 5 ∧ RegsBut ([Reg.SEQ_STAT, Reg.SEQ_DBG_STAT] ++ seqRegs) s t)

/-- R346, R348, R354, R357, R367: SEQ's memory and register accesses, the exception of an address that it may not use, that of an illegal
word, and the double fault. An exception in a delay slot returns to the branch, and nothing of the pair commits (R347). -/
def Obligations.SeqAccesses : Prop :=
  (∀ (s : State) (m : Micro), s.Runs m → s.Straight → m.ctl = 0 → m.xop = 0x10 → s.seqSpace (s.opAddr m) (2 ^ m.size) false = some 1 →
    s.sramBad 1 ((s.opAddr m - sramBase) / 8) = false →
    ∃ t, Gives .ld s t ∧ s.Ran t m (BitVec.ofNat 64 (beNat (s.sramBytes (s.opAddr m - sramBase) (2 ^ m.size))))) ∧
  (∀ (s : State) (m : Micro), s.Runs m → s.Straight → m.ctl = 0 → m.xop = 0x11 → s.seqSpace (s.opAddr m) (2 ^ m.size) false = some 1 →
    s.sramBad 1 ((s.opAddr m - sramBase) / 8) = false →
    ∃ t, Gives .lds s t ∧ s.Ran t m (signExtend (2 ^ m.size) (beNat (s.sramBytes (s.opAddr m - sramBase) (2 ^ m.size))))) ∧
  (∀ (s : State) (m : Micro), s.Runs m → s.Straight → m.ctl = 0 → m.xop = 0x10 → m.setf = false →
    s.seqSpace (s.opAddr m) (2 ^ m.size) false = some 0 → s.policy (s.opAddr m) = 0 → s.seq.stores = [] →
    s.linePoisoned (s.opAddr m / 64 * 64) = false →
    ∃ t, Gives .ld s t ∧ t.pc = s.pc + 1 ∧ DramKept s t ∧
      (∀ i, t.g i = (if i = m.dst ∧ i ≠ 0 then BitVec.ofNat 64 (beNat (s.dramBytes (s.opAddr m) (2 ^ m.size))) else s.g i))) ∧
  (∀ (s : State) (m : Micro), s.Runs m → s.Straight → m.ctl = 0 → m.xop = 0x12 → m.setf = false →
    s.seqSpace (s.opAddr m) (2 ^ m.size) true = some 1 →
    ∃ t, Gives .st s t ∧ t.pc = s.pc + 1 ∧
      t.sramBytes (s.opAddr m - sramBase) (2 ^ m.size) = beBytes (2 ^ m.size) (s.g m.sb).toNat ∧
      (∀ i, i < s.opAddr m - sramBase ∨ s.opAddr m - sramBase + 2 ^ m.size ≤ i → t.sramBytes i 1 = s.sramBytes i 1) ∧
      t = { s with regs := t.regs, mem := t.mem, seq := { s.seq with sram := t.seq.sram, afterEret := false } } ∧ RegsBut seqRegs s t ∧
      (m.size = 3 → t.sramBad 1 ((s.opAddr m - sramBase) / 8) = false) ∧ (m.size ≠ 3 → t.mem = s.mem)) ∧
  (∀ (s : State) (m : Micro), s.Runs m → s.Straight → m.ctl = 0 → m.xop = 0x12 → m.setf = false →
    s.seqSpace (s.opAddr m) (2 ^ m.size) true = some 0 → s.policy (s.opAddr m) = 0 → s.seq.stores.length < 8 →
    ∃ t, Gives .st s t ∧ t.pc = s.pc + 1 ∧
      t.seq.stores = s.seq.stores ++ [(s.opAddr m, beBytes (2 ^ m.size) (s.g m.sb).toNat)] ∧ DramKept s t) ∧
  (∀ (s : State) (m : Micro) (a : Nat) (bs : List Byte), s.Runs m → s.Straight → m.ctl = 0 → m.xop = 0x13 → m.setf = false →
    s.seq.stores = [(a, bs)] → a + bs.length ≤ 2 ^ 34 →
    ∃ t, Gives .sync s t ∧ t.pc = s.pc + 1 ∧ t.seq.stores = [] ∧ t.dramBytes a bs.length = bs ∧ DramBut a bs.length s t) ∧
  (∀ (s u : State) (m : Micro) (v : Word), s.Runs m → s.Straight → m.ctl = 0 → m.xop = 0x18 → m.setf = false →
    s.access .seq false (s.opAddr m % 2 ^ 24) 0 = (.ok v, u) → u.seq = s.seq → u.pc = s.pc → u.hlk.drain = none → u.pwr.soft = false →
    ∃ t, Gives .rdreg s t ∧ t.pc = s.pc + 1 ∧ (∀ i, t.g i = (if i = m.dst ∧ i ≠ 0 then v.setWidth 64 else s.g i)) ∧
      t = { u with regs := t.regs, seq := { s.seq with g := t.seq.g, afterEret := false } } ∧ RegsBut seqRegs u t) ∧
  (∀ (s u : State) (m : Micro) (v : Word), s.Runs m → s.Straight → m.ctl = 0 → m.xop = 0x19 → m.setf = false →
    s.access .seq true (s.opAddr m % 2 ^ 24) ((s.opB m).setWidth 32) = (.ok v, u) → u.seq = s.seq → u.pc = s.pc → u.hlk.drain = none →
    u.pwr.soft = false →
    ∃ t, Gives .wrreg s t ∧ t.pc = s.pc + 1 ∧ t = { u with regs := t.regs, seq := { s.seq with afterEret := false } } ∧ RegsBut seqRegs u t) ∧
  (∀ (s : State) (m : Micro), s.Runs m → s.Straight → m.ctl = 0 → m.xop = 0x10 → s.seqSpace (s.opAddr m) (2 ^ m.size) false = none →
    s.flag F.SEQ_MODE_XM = false →
    ∃ t, Gives .ld s t ∧ s.Excepted t 2 ∧ t.pair Reg.SEQ_EADDR_LO = s.opAddr m) ∧
  (∀ s : State, s.seqRuns = true → s.seq.csBad.contains s.pc.toNat = false → 10 ≤ (microOf (s.csWord s.pc)).ctl →
    s.rd F.SEQ_DBG_CTRL_EN = 0 → s.seq.wdog = false → s.hlk.drain = none → s.pwr.soft = false → s.Straight →
    s.flag F.SEQ_MODE_XM = false →
    ∃ t, Gives .next s t ∧ s.Excepted t 0) ∧
  (∀ (s : State) (b : Branch), s.seqRuns = true → s.seq.csBad.contains s.pc.toNat = false → 10 ≤ (microOf (s.csWord s.pc)).ctl →
    s.rd F.SEQ_DBG_CTRL_EN = 0 → s.seq.wdog = false → s.hlk.drain = none → s.pwr.soft = false → s.seq.branch = some b →
    s.flag F.SEQ_MODE_XM = false → (microOf (s.csWord b.at_)).xop < 0x10 →
    ∃ t, Gives .next s t ∧ t.pc = 0 ∧ t.reg Reg.SEQ_EPC = b.at_.setWidth 32 ∧ t.flag F.SEQ_MODE_XM = true ∧
      (t.reg Reg.SEQ_ECAUSE).getLsbD 30 = true ∧ Counts s t (Reg.SEQ_XC_CNT 0) ∧
      t = { s with regs := t.regs, hlk := t.hlk, seq := { s.seq with branch := none, shadow := none, afterEret := false, waiting := false } }) ∧
  (∀ s : State, s.seqRuns = true → s.seq.csBad.contains s.pc.toNat = false → 10 ≤ (microOf (s.csWord s.pc)).ctl →
    s.rd F.SEQ_DBG_CTRL_EN = 0 → s.hlk.drain = none → s.pwr.soft = false → s.flag F.SEQ_MODE_XM = true → s.taskRunning = true →
    ∃ t, Gives .next s t ∧ t.flag F.SEQ_STAT_HALTED = true ∧ t.flag F.SEQ_STAT_DFAULT = true ∧ t.rd F.TSK_STATE_ERRCLS = 0x42 ∧
      t.taskFrozen = true)

/-- R358 to R361, R373, R374: events, the watchdog, the timers and the host's control of SEQ. The codes of a halt's cause are the model's
choice (log entry 69), and when a late expiry or a HALT takes effect is its reading (log entry 31). -/
def Obligations.SeqEvents : Prop :=
  (∀ (s : State) (n : Nat), s.seqRuns = true → s.freeBoundary = true → s.flag F.SEQ_MODE_EVEN = true → s.flag F.SEQ_MODE_TASK = true →
    n < 64 → n ≠ 32 → s.evPending n = true → (s.reg (Reg.SEQ_EVT_EN (n / 32))).getLsbD (n % 32) = true →
    (∀ k, k < n → s.evPending k = false ∨ (s.reg (Reg.SEQ_EVT_EN (k / 32))).getLsbD (k % 32) = false) → s.tsk.unchecked = false → s.seq.wdog = false →
    ∃ t, Gives .eventEntry s t ∧ t.pc = 0x100 ∧ t.evPending n = false ∧ t.rd F.SEQ_EVT_LAST_NUM = n ∧
      t.reg Reg.SEQ_EVPC = s.pc.setWidth 32 ∧ t.reg Reg.SEQ_EVMODE = s.modeBits.setWidth 32 ∧ t.flag F.SEQ_MODE_EM = true ∧
      t.flag F.SEQ_MODE_EVEN = false) ∧
  (∀ s : State, s.flag F.SEQ_WDOG_EN = true → s.flag F.SEQ_STAT_HALTED = false → s.seq.waiting = false → s.freeBoundary = true →
    s.flag F.SEQ_MODE_XM = false → s.seq.loops = [] →
    ∃ t, Gives .wdog s t ∧ s.Excepted t 11 ∧ t.seq.wdog = false) ∧
  (∀ (s : State) (k : Fin 4), s.reg (Reg.SEQ_TMR_RLD k) ≠ 0 →
    ∃ t, Gives (.timer k) s t ∧ t.reg (Reg.SEQ_TMR_CNT k) = s.reg (Reg.SEQ_TMR_RLD k) ∧ t.evPending Ev.timer = true ∧
      OnlyRegs (Reg.SEQ_TMR_CNT k :: eventRegs Ev.timer) s t) ∧
  (∀ (s : State) (m : Master), s.custodian m = true →
    ∃ t, Gives (.seqHalt m true) s t ∧ t.flag F.SEQ_STAT_HALTED = (s.flag F.SEQ_STAT_HALTED || !s.seq.waiting) ∧
      t.flag F.SEQ_CTRL_HALT = true ∧ OnlyRegs [Reg.SEQ_CTRL, Reg.SEQ_STAT, Reg.SEQ_DBG_STAT] s t) ∧
  (∀ (s : State) (m : Master), s.custodian m = true → s.flag F.SEQ_STAT_DFAULT = false → s.flag F.SEQ_STAT_CSLOAD = true → s.seq.wdog = false →
    ∃ t, Gives (.seqHalt m false) s t ∧ t.flag F.SEQ_STAT_HALTED = false ∧ t.flag F.SEQ_CTRL_HALT = false ∧
      OnlyRegs [Reg.SEQ_CTRL, Reg.SEQ_STAT] s t) ∧
  (∀ (s : State) (m : Master) (w : Micro), s.custodian m = true → s.flag F.SEQ_STAT_HALTED = true → s.flag F.SEQ_STAT_DFAULT = false →
    s.seq.waiting = false → (s.put F.SEQ_STAT_HALTED false).Runs w → s.Straight → w.ctl = 0 → w.xop = 0 → w.setf = false →
    ∃ t, Gives (.seqStep m) s t ∧ s.SeqTo t (s.pc + 1) s.seq ∧ t.flag F.SEQ_STAT_HALTED = true ∧ RegsBut seqRegs s t) ∧
  (∀ (s : State) (m : Master) (n : Fin 64), s.custodian m = true → n.val ≠ 32 →
    ∃ t, Gives (.seqEvtForce m n) s t ∧ t.evPending n = true ∧ OnlyRegs (eventRegs n) s t)

/-- R369 to R371: maintenance of the cache: what is dropped, what is written back to DRAM, and a new region's lines. -/
def Obligations.CacheMaintenance : Prop :=
  (∀ (s : State) (a : BitVec 34), ∃ t, Gives (.invalidateLine a) s t ∧
    t.seq.lines = s.seq.lines.filter (fun l => decide (l.addr ≠ a.toNat / 64 * 64)) ∧
    t.seq.victims = s.seq.victims.filter (fun l => decide (l.addr ≠ a.toNat / 64 * 64)) ∧ DramKept s t ∧
    (∀ l ∈ s.seq.lines, l.addr = a.toNat / 64 * 64 → t.seq.fill ≠ some l.addr) ∧
    (s.seq.fill ≠ some (a.toNat / 64 * 64) → t.seq.fill = s.seq.fill) ∧
    t = { s with regs := t.regs, seq := { s.seq with lines := t.seq.lines, victims := t.seq.victims, fill := t.seq.fill } } ∧
    RegsBut [Reg.CCH_MAINT_LO, Reg.CCH_MAINT_LO + 4] s t) ∧
  (∀ (s : State) (a : BitVec 34) (l : CLine), (s.seq.lines ++ s.seq.victims).filter (fun x => decide (x.addr = a.toNat / 64 * 64)) = [l] →
    l.dirty = true → l.poison = 0 → l.data.length = 64 →
    ∃ t, Gives (.cleanLine a) s t ∧ t.dramBytes l.addr 64 = l.data ∧ DramBut l.addr 64 s t ∧
      t.seq.lines = s.seq.lines.map (fun x => if x.addr = a.toNat / 64 * 64 then { x with dirty := false } else x) ∧
      t = { s with regs := t.regs, hlk := t.hlk, seq := t.seq, mem := t.mem, dram := t.dram, psn := t.psn }) ∧
  (∀ (s : State) (a : BitVec 34) (l : CLine), (s.seq.lines ++ s.seq.victims).filter (fun x => decide (x.addr = a.toNat / 64 * 64)) = [l] →
    l.dirty = true → l.poison = 0 → l.data.length = 64 →
    ∃ t, Gives (.cleanAndInvalidateLine a) s t ∧ t.dramBytes l.addr 64 = l.data ∧ DramBut l.addr 64 s t ∧
      t.seq.lines = s.seq.lines.filter (fun x => decide (x.addr ≠ a.toNat / 64 * 64)) ∧
      t = { s with regs := t.regs, hlk := t.hlk, seq := t.seq, mem := t.mem, dram := t.dram, psn := t.psn }) ∧
  (∀ s : State, ∃ t, Gives .invalidateAll s t ∧ t.seq.lines = [] ∧ t.seq.victims = [] ∧ DramKept s t ∧
    (∀ l ∈ s.seq.lines, t.seq.fill ≠ some l.addr) ∧
    t = { s with regs := t.regs, seq := { s.seq with lines := [], victims := [], fill := t.seq.fill } } ∧
    RegsBut [Reg.CCH_MAINT_LO, Reg.CCH_MAINT_LO + 4] s t) ∧
  (∀ (s : State) (l : CLine), (s.seq.lines ++ s.seq.victims).filter (fun x => x.dirty) = [l] → l.poison = 0 → l.data.length = 64 →
    l.addr + 64 ≤ 2 ^ 34 →
    ∃ t, Gives .cleanAll s t ∧ t.dramBytes l.addr 64 = l.data ∧ DramBut l.addr 64 s t ∧
      t.seq.lines = s.seq.lines.map (fun x => { x with dirty := false }) ∧
      t.seq.victims = s.seq.victims.map (fun x => { x with dirty := false })) ∧
  (∀ (s : State) (l : CLine), (s.seq.lines ++ s.seq.victims).filter (fun x => x.dirty) = [l] → l.poison = 0 → l.data.length = 64 →
    l.addr + 64 ≤ 2 ^ 34 →
    ∃ t, Gives .cleanAndInvalidateAll s t ∧ t.dramBytes l.addr 64 = l.data ∧ DramBut l.addr 64 s t ∧ t.seq.lines = [] ∧
      t.seq.victims = []) ∧
  (∀ s : State, ∃ t, Gives .lineFill s t ∧ t = { s with seq := { s.seq with fill := none } }) ∧
  (∀ (s : State) (m : Master) (a : BitVec 24) (v : Word), isRegion a.toNat = true → s.custodian m = true →
    (s.seq.lines ++ s.seq.victims).all (fun l => !l.dirty) = true →
    ∃ t, Gives (.regionWrite m a v) s t ∧ t.reg a.toNat = v &&& regionMask a.toNat ∧
      (∀ l ∈ t.seq.lines, l ∈ s.seq.lines ∧ s.inRegion ((a.toNat - Reg.CCH_REG_BASE 0) / 16) (l.addr / 4096) = false ∧
        t.inRegion ((a.toNat - Reg.CCH_REG_BASE 0) / 16) (l.addr / 4096) = false) ∧
      t = { s with regs := t.regs, seq := { s.seq with lines := t.seq.lines, victims := t.seq.victims, fill := none } } ∧
      RegsBut [a.toNat] s t)

/-! ## Memory integrity -/

/-- R381, R382, R389: training and the fill. A helper runs on a channel in training and reports; a delay window narrower than 24 fails the
channel; the fill writes 0 to all of DRAM, and is refused while a channel trains or has failed. -/
def Obligations.MemoryTraining : Prop :=
  (∀ (s : State) (c : DramChan), s.flag (F.DMC_TRN_CTRL_TRAIN c) = true → s.mem.helper[c] = 0 →
    ∃ t, Gives (.trainStart c) s t ∧ t.mem = { s.mem with helper := s.mem.helper.set c 1 } ∧
      t.flag (F.DMC_TRN_STAT_BUSY c) = true ∧ t.flag (F.DMC_TRN_STAT_DONE c) = false ∧
      t = { s with regs := t.regs, mem := t.mem } ∧ RegsBut [Reg.DMC_TRN_STAT c] s t) ∧
  (∀ (s : State) (c : DramChan), s.flag (F.DMC_TRN_CTRL_TRAIN c) = true → s.mem.helper[c] = 0 →
    ∃ t, Gives (.trainSweep c) s t ∧ t.mem = { s.mem with helper := s.mem.helper.set c 2 } ∧
      t.flag (F.DMC_TRN_STAT_BUSY c) = true ∧ t.flag (F.DMC_TRN_STAT_DONE c) = false ∧
      t = { s with regs := t.regs, mem := t.mem } ∧ RegsBut [Reg.DMC_TRN_STAT c] s t) ∧
  (∀ (s : State) (c : DramChan), s.flag (F.DMC_TRN_CTRL_TRAIN c) = false →
    Gives (.trainStart c) s s ∧ Gives (.trainSweep c) s s) ∧
  (∀ (s : State) (c : DramChan) (map : BitVec 16) (n : Dword), s.mem.helper[c] = 1 →
    ∃ t, Gives (.trainingDone c (.start map n)) s t ∧ t.reg (Reg.DMC_TRN_ERRMAP c) = map.setWidth 32 ∧
      t.pair (Reg.DMC_TRN_ERRCNT_LO c) = n.toNat ∧ t.flag (F.DMC_TRN_STAT_BUSY c) = false ∧
      t.flag (F.DMC_TRN_STAT_DONE c) = true ∧ t.mem = { s.mem with helper := s.mem.helper.set c 0 } ∧
      t = { s with regs := t.regs, mem := t.mem } ∧
      RegsBut [Reg.DMC_TRN_STAT c, Reg.DMC_TRN_ERRMAP c, Reg.DMC_TRN_ERRCNT_LO c, Reg.DMC_TRN_ERRCNT_LO c + 4] s t) ∧
  (∀ (s : State) (c : DramChan) (a z n : Nat), s.mem.helper[c] = 2 → a + 24 ≤ z →
    ∃ t, Gives (.trainingDone c (.sweep a z n)) s t ∧ t.reg (Reg.DMC_TRN_SWEEP_RES c 0) = BitVec.ofNat 32 a ∧
      t.reg (Reg.DMC_TRN_SWEEP_RES c 1) = BitVec.ofNat 32 z ∧ t.reg (Reg.DMC_TRN_SWEEP_RES c 2) = BitVec.ofNat 32 n ∧
      t.flag (F.DMC_TRN_STAT_DONE c) = true ∧ t = { s with regs := t.regs, mem := t.mem } ∧
      RegsBut [Reg.DMC_TRN_STAT c, Reg.DMC_TRN_SWEEP_RES c 0, Reg.DMC_TRN_SWEEP_RES c 1, Reg.DMC_TRN_SWEEP_RES c 2] s t) ∧
  (∀ (s : State) (c : DramChan) (a z n : Nat), s.mem.helper[c] = 2 → z < a + 24 → s.rd (F.DMC_TRN_CTRL_STEP c) ≠ 2 →
    s.flag F.PWR_START_DONE = false → s.flag F.PWR_START_STOPPED = false →
    ∃ t, Gives (.trainingDone c (.sweep a z n)) s t ∧ t.flag (F.DMC_CH_STAT_TRNFAIL c) = true ∧
      t.flag F.PWR_START_STOPPED = true ∧ t.rd F.PWR_START_CAUSE = 2) ∧
  (∀ s : State, (∀ c : DramChan, s.flag (F.DMC_TRN_CTRL_TRAIN c) = false ∧ s.flag (F.DMC_CH_STAT_TRNFAIL c) = false) →
    ∃ t, Gives .dramFillStart s t ∧ t.mem = { s.mem with started := true, filling := true } ∧
      (s.rd F.PWR_START_STEP = 8 → t.rd F.PWR_START_STEP = 9) ∧
      t = { s with regs := t.regs, mem := t.mem } ∧ RegsBut [Reg.PWR_START] s t) ∧
  (∀ (s : State) (c : DramChan), s.flag (F.DMC_TRN_CTRL_TRAIN c) = true ∨ s.flag (F.DMC_CH_STAT_TRNFAIL c) = true →
    ∃ t, Gives .dramFillStart s t ∧ t.flag F.MIC_STAT_CFGERR = true ∧ OnlyRegs [Reg.MIC_STAT] s t) ∧
  (∀ s : State, s.mem.filling = true →
    ∃ t, Gives .dramFillDone s t ∧ (∀ a, t.dramByte a = 0) ∧ t.psn = [] ∧ t.flag F.MIC_FILL_STAT_DDONE = true ∧
      t.flag F.SEQ_STAT_DFILL = true ∧ t.mem.filling = false ∧
      t = { s with regs := t.regs, mem := t.mem, dram := t.dram, psn := t.psn, free := t.free } ∧
      RegsBut [Reg.MIC_FILL_STAT, Reg.SEQ_STAT, Reg.SEQ_MODE, Reg.PWR_START, Reg.PMC_CYC_LO, Reg.PMC_CYC_LO + 4] s t)

/-- R386, R390 to R392: Skink in DRAM. A step reads one line, takes one from the debt and goes on to the next, and leaves every byte as it
was; an uncorrectable line is poisoned; a corrected one is counted; the lap's end counts the lap and empties the row table. -/
def Obligations.SkinkInDram : Prop :=
  (∀ s : State, s.SkinkMay → s.linePoisoned (s.pair Reg.MIC_SKINK_POS_LO) = false → s.pair Reg.MIC_SKINK_POS_LO + 64 < 2 ^ 34 →
    ∃ t, Gives (.skinkDramStep .ok) s t ∧ s.SkinkMoved t ∧ t.psn = s.psn ∧
      t = { s with regs := t.regs, hlk := t.hlk, mem := t.mem } ∧
      RegsBut (skinkRegs ++ accessRegs ++ noteRegs) s t) ∧
  (∀ s : State, s.SkinkMay → s.linePoisoned (s.pair Reg.MIC_SKINK_POS_LO) = false → s.pair Reg.MIC_SKINK_POS_LO + 64 < 2 ^ 34 →
    ∃ t, Gives (.skinkDramStep .uncorrectable) s t ∧ s.SkinkMoved t ∧ t.linePoisoned (s.pair Reg.MIC_SKINK_POS_LO) = true ∧
      t.psn.filter (fun l => decide (l ≠ s.pair Reg.MIC_SKINK_POS_LO / 64)) = s.psn ∧
      t.pair Reg.MIC_D_ERR_ADDR_LO = s.pair Reg.MIC_SKINK_POS_LO ∧ Counts s t Reg.MIC_D_UE_CNT ∧ Counts s t Reg.MIC_D_PSN_CNT ∧
      t = { s with regs := t.regs, hlk := t.hlk, mem := t.mem, psn := t.psn } ∧
      RegsBut ([Reg.MIC_D_UE_CNT, Reg.MIC_D_PSN_CNT, Reg.MIC_D_ERR_ADDR_LO, Reg.MIC_D_ERR_ADDR_LO + 4] ++ skinkRegs ++ accessRegs
        ++ noteRegs) s t) ∧
  (∀ s : State, s.SkinkMay → s.linePoisoned (s.pair Reg.MIC_SKINK_POS_LO) = false → s.pair Reg.MIC_SKINK_POS_LO + 64 < 2 ^ 34 →
    s.mem.rows = [] → s.rd F.MIC_D_CFG_ROWN ≠ 1 →
    ∃ t, Gives (.skinkDramStep (.correctable false)) s t ∧ s.SkinkMoved t ∧ Counts s t Reg.MIC_D_CE_CNT ∧
      t.mem.rows = [(s.dataRow (s.pair Reg.MIC_SKINK_POS_LO), 1)] ∧ t.psn = s.psn ∧
      t = { s with regs := t.regs, hlk := t.hlk, mem := t.mem } ∧
      RegsBut (Reg.MIC_D_CE_CNT :: skinkRegs ++ accessRegs ++ noteRegs) s t) ∧
  (∀ s : State, s.SkinkMay → s.linePoisoned (s.pair Reg.MIC_SKINK_POS_LO) = false → s.pair Reg.MIC_SKINK_POS_LO + 64 < 2 ^ 34 →
    s.rd F.MIC_D_CFG_PINN ≠ s.mem.pins[s.dramCh (s.pair Reg.MIC_SKINK_POS_LO)] + 1 →
    ∃ t, Gives (.skinkDramStep (.correctable true)) s t ∧ s.SkinkMoved t ∧ Counts s t Reg.MIC_D_CE_CNT ∧
      t.mem.pins[s.dramCh (s.pair Reg.MIC_SKINK_POS_LO)] = s.mem.pins[s.dramCh (s.pair Reg.MIC_SKINK_POS_LO)] + 1 ∧
      t.mem.rows = s.mem.rows ∧ t.psn = s.psn) ∧
  (∀ (s : State) (r : EccResult), s.SkinkMay → s.pair Reg.MIC_SKINK_POS_LO = 2 ^ 34 - 64 →
    ∃ t, Gives (.skinkDramStep r) s t ∧ t.pair Reg.MIC_SKINK_POS_LO = 0 ∧ Counts s t Reg.MIC_SKINK_LAPS ∧ t.mem.rows = [] ∧
      t.mem.pins = Vector.replicate 4 0 ∧ (t.reg Reg.MIC_SKINK_LAPMAX = s.reg Reg.MIC_SKINK_LAPMAX ∨ t.reg Reg.MIC_SKINK_LAPMAX = t.reg Reg.MIC_SKINK_LAP) ∧
      (t.reg Reg.MIC_SKINK_LAP).toNat ≤ (t.reg Reg.MIC_SKINK_LAPMAX).toNat ∧ DramKept s t) ∧
  (∀ (s : State) (r : EccResult), s.flag F.MIC_SKINK_CFG_EN = false → ∃ t, Gives (.skinkDramStep r) s t ∧ t = s)

/-- R372, R379, R386, R393, R395, R396: Skink in SRAM, row remaps and kept rows. An SRAM error is counted by its class, located, and
reported to AXL when it is uncorrectable, which poisons the unit that the word belongs to (which one is open: log entry 39); a word that
reads as poisoned is counted and left as it is; a granted remap enters the CAM; a row that closes is counted, and so is a refresh. -/
def Obligations.SramRowsAndRefresh : Prop :=
  (∀ (s : State) (m : Fin 1024) (w : Fin 65536) (k : Fin 20), s.SramSkinkMay → w.val ≠ 65535 → s.unitIsBad k.val (unitOf k m w) = false →
    ∃ t, Gives (.skinkSramStep m w k .ok) s t ∧ t = s) ∧
  (∀ (s : State) (m : Fin 1024) (w : Fin 65536) (k : Fin 20), s.SramSkinkMay → w.val ≠ 65535 → s.unitIsBad k.val (unitOf k m w) = false →
    s.mem.words = [] → s.rd F.MIC_S_CFG_CEN ≠ 1 →
    ∃ t, Gives (.skinkSramStep m w k (.correctable false)) s t ∧ Counts s t Reg.MIC_S_CE_CNT ∧
      t.rd (F.MIC_SCLS_CNT_CE k) = min 65535 (s.rd (F.MIC_SCLS_CNT_CE k) + 1) ∧ t.rd F.MIC_S_ERR_LOC_WORD = w.val ∧
      t.rd F.MIC_S_ERR_LOC_MACRO = m.val ∧ t.mem.words = [(m.val, w.val, 1)] ∧ t.axlReq = s.axlReq ∧
      (k.val = 2 → Counts s t Reg.CCH_ECC_CNT) ∧ (k.val ≠ 2 → t.reg Reg.CCH_ECC_CNT = s.reg Reg.CCH_ECC_CNT) ∧
      t = { s with regs := t.regs, mem := t.mem, free := t.free } ∧
      RegsBut [Reg.MIC_S_CE_CNT, Reg.MIC_SCLS_CNT k, Reg.MIC_S_ERR_LOC, Reg.MIC_S_ERR_SYND, Reg.CCH_ECC_CNT] s t) ∧
  (∀ (s : State) (m : Fin 1024) (w : Fin 65536) (k : Fin 20), s.SramSkinkMay → w.val ≠ 65535 → s.unitIsBad k.val (unitOf k m w) = false → k.val ≠ 2 →
    ∃ t, Gives (.skinkSramStep m w k .uncorrectable) s t ∧ Counts s t Reg.MIC_S_UE_CNT ∧ Counts s t Reg.MIC_S_PSN_CNT ∧
      t.rd (F.MIC_SCLS_CNT_UE k) = min 65535 (s.rd (F.MIC_SCLS_CNT_UE k) + 1) ∧
      t.axlReq = s.axlReq ++ [⟨5, Fin.ofNat 1024 m.val, Fin.ofNat 16777216 w.val, 2⟩] ∧ t.unitIsBad k.val (unitOf k m w) = true ∧
      t = { s with regs := t.regs, mem := t.mem, free := t.free, axlReq := t.axlReq, seq := { s.seq with csBad := t.seq.csBad },
                   srv := { s.srv with poison := t.srv.poison } } ∧
      RegsBut [Reg.MIC_S_UE_CNT, Reg.MIC_S_PSN_CNT, Reg.MIC_SCLS_CNT k, Reg.MIC_S_ERR_LOC, Reg.MIC_S_ERR_SYND] s t) ∧
  (∀ (s : State) (m : Fin 1024) (w : Fin 65536), s.SramSkinkMay → w.val ≠ 65535 → s.sramBad 2 (unitOf 2 m w) = false →
    ∃ t, Gives (.skinkSramStep m w 2 .uncorrectable) s t ∧ Counts s t Reg.MIC_S_UE_CNT ∧
      (∀ l ∈ s.seq.lines[unitOf 2 m w / 8]?, unitOf 2 m w < 384 → l.dirty = true →
        (t.seq.lines[unitOf 2 m w / 8]?).map (·.poison) = some (l.poison ||| BitVec.ofNat 8 (2 ^ (unitOf 2 m w % 8))) ∧
        (∀ i, i ≠ unitOf 2 m w / 8 → t.seq.lines[i]? = s.seq.lines[i]?) ∧ t.seq = { s.seq with lines := t.seq.lines })) ∧
  (∀ (s : State) (m : Fin 1024) (w : Fin 65536) (k : Fin 20) (r : EccResult), s.SramSkinkMay → w.val ≠ 65535 →
    s.unitIsBad k.val (unitOf k m w) = true →
    ∃ t, Gives (.skinkSramStep m w k r) s t ∧ Counts s t Reg.MIC_S_PSN_CNT ∧ t.mem.bad = s.mem.bad ∧ t.axlReq = s.axlReq ∧
      t = { s with regs := t.regs, mem := { s.mem with classes := t.mem.classes } } ∧ RegsBut [Reg.MIC_S_PSN_CNT] s t) ∧
  (∀ (s : State) (m : Fin 1024) (k : Fin 20), s.SramSkinkMay → s.unitIsBad k.val (unitOf k m 65535) = false →
    ∃ t, Gives (.skinkSramStep m 65535 k .ok) s t ∧ t.mem.words = [] ∧
      t = { s with regs := t.regs, mem := t.mem, free := t.free } ∧
      RegsBut [Reg.MIC_SKINK_SRAM_LAP, Reg.PMC_CYC_LO, Reg.PMC_CYC_LO + 4] s t) ∧
  (∀ (s : State) (c : DramChan) (k : Bool) (b : Fin 16) (row : Fin 131072) (e : Fin 64),
    s.mem.granted = [(e, { ch := c, check := k, bank := b, row := row.val })] →
    ∃ t, Gives (.rowRemap c k b row) s t ∧ t.mem = { s.mem with granted := [] } ∧
      (t.reg (Reg.MIC_DRM e)).toNat = 2 ^ 31 + k.toNat * 2 ^ 30 + c.val * 2 ^ 28 + b.val * 2 ^ 24 + row.val ∧
      t = { s with regs := t.regs, mem := t.mem } ∧ RegsBut [Reg.MIC_DRM e] s t) ∧
  (∀ (s : State) (c : DramChan) (b : Fin 16), (s.mem.banks[bankNo c b]).opened = true →
    ∃ t, Gives (.rowClose c b) s t ∧ (t.mem.banks[bankNo c b]).opened = false ∧ Counts s t (Reg.DMC_PG_CLOSE_CNT c) ∧
      (∀ i, i ≠ bankNo c b → t.mem.banks[i] = s.mem.banks[i]) ∧
      t = { s with regs := t.regs, mem := { s.mem with banks := t.mem.banks } } ∧ RegsBut [Reg.DMC_PG_CLOSE_CNT c] s t) ∧
  (∀ (s : State) (c : DramChan) (b : Fin 16), (s.mem.banks[bankNo c b]).opened = false →
    ∃ t, Gives (.rowClose c b) s t ∧ t = s) ∧
  (∀ (s : State) (c : DramChan) (b : Fin 16),
    ∃ t, Gives (.refresh c ⟨false, b⟩) s t ∧ (t.mem.banks[bankNo c b]).opened = false ∧ Counts s t (Reg.DMC_CH_REF_CNT c) ∧
      ((s.mem.banks[bankNo c b]).opened = true → Counts s t (Reg.DMC_PG_CLOSE_CNT c)) ∧
      t = { s with regs := t.regs, mem := { s.mem with banks := t.mem.banks } } ∧
      RegsBut [Reg.DMC_PG_CLOSE_CNT c, Reg.DMC_CH_REF_CNT c] s t) ∧
  (∀ (s : State) (c : DramChan) (b : Fin 16),
    ∃ t, Gives (.refresh c ⟨true, b⟩) s t ∧ Counts s t (Reg.DMC_CH_REF_CNT c) ∧ OnlyRegs [Reg.DMC_CH_REF_CNT c] s t)

/-! ## Flash and configuration -/

/-- R403 to R407, R410, R412: operations of the flash. A permitted PROGRAM or ERASE starts, a forbidden one sets PROTERR, and one that
finds FLC busy is counted; at the end a word holds the AND, a sector is erased, a counter has one more; a failure asks AXL, whose spare
takes the sector's place. -/
def Obligations.FlashOperations : Prop :=
  (∀ (s : State) (m : Master), s.programBusy = false → flashMay m (s.flcWord / 1024) = true →
    ∃ t, Gives (.program m) s t ∧ t.flc.op = some (.program s.flcWord (s.reg Reg.FLC_WDATA)) ∧ t.flag F.FLC_STAT_BUSY = true ∧
      Counts s t Reg.FLC_PROG_CNT ∧ t.reg Reg.FLC_LAST_MID = BitVec.ofNat 32 (masterId m) ∧ t.flc.words = s.flc.words ∧
      t = { s with regs := t.regs, hlk := t.hlk, flc := t.flc } ∧
      RegsBut ([Reg.FLC_STAT, Reg.FLC_RUNTIME, Reg.FLC_LAST_MID, Reg.FLC_PROG_CNT, Reg.FLC_ADDR] ++ noteRegs) s t) ∧
  (∀ (s : State) (m : Master), s.eraseBusy = false → flashMay m (s.flcWord / 1024) = true →
    ∃ t, Gives (.erase m) s t ∧ t.flc.op = some (.erase (s.flcWord / 1024)) ∧ t.flag F.FLC_STAT_BUSY = true ∧
      Counts s t Reg.FLC_ERASE_CNT ∧ t.reg Reg.FLC_LAST_MID = BitVec.ofNat 32 (masterId m) ∧ t.flc.words = s.flc.words ∧
      t = { s with regs := t.regs, hlk := t.hlk, flc := t.flc } ∧
      RegsBut ([Reg.FLC_STAT, Reg.FLC_RUNTIME, Reg.FLC_LAST_MID, Reg.FLC_ERASE_CNT] ++ noteRegs) s t) ∧
  (∀ (s : State) (m : Master), s.flc.op = none → s.flc.susp = none → flashMay m (s.flcWord / 1024) = false →
    ∃ t, Gives (.program m) s t ∧ Gives (.erase m) s t ∧ t.flag F.FLC_STAT_PROTERR = true ∧ OnlyRegs [Reg.FLC_STAT] s t) ∧
  (∀ (s : State) (m : Master), s.programBusy = true →
    ∃ t, Gives (.program m) s t ∧ Gives (.erase m) s t ∧ Counts s t Reg.FLC_BUSY_CNT ∧ OnlyRegs [Reg.FLC_BUSY_CNT] s t) ∧
  (∀ (s : State) (m : Master) (us sec : Nat), s.flc.op = some (.erase sec) → s.flc.susp = none → s.flc.failed = false → 200 ≤ us →
    ∃ t, Gives (.suspend m us) s t ∧ t.flc = { s.flc with op := none, susp := some (.erase sec) } ∧ t.flag F.FLC_STAT_SUSP = true ∧
      Counts s t Reg.FLC_SUSP_CNT ∧ t.reg Reg.FLC_SUSP_ADDR = BitVec.ofNat 32 (4096 * sec) ∧
      t = { s with regs := t.regs, flc := t.flc } ∧
      RegsBut [Reg.FLC_STAT, Reg.FLC_RUNTIME, Reg.FLC_SUSP_CNT, Reg.FLC_SUSP_ADDR] s t) ∧
  (∀ (s : State) (m : Master) (us w : Nat) (v : Word), s.flc.op = some (.program w v) → s.flc.susp = none → s.flc.failed = false →
    200 ≤ us →
    ∃ t, Gives (.suspend m us) s t ∧ t.flc = { s.flc with op := none, susp := some (.program w v) } ∧
      t.flag F.FLC_STAT_SUSP = true ∧ Counts s t Reg.FLC_SUSP_CNT ∧ t.reg Reg.FLC_SUSP_ADDR = BitVec.ofNat 32 (4 * w) ∧
      t = { s with regs := t.regs, flc := t.flc } ∧
      RegsBut [Reg.FLC_STAT, Reg.FLC_RUNTIME, Reg.FLC_SUSP_CNT, Reg.FLC_SUSP_ADDR] s t) ∧
  (∀ (s : State) (m : Master) (o : FlcOp) (us : Nat), s.flc.op = some o → s.flc.susp = none → us < 200 →
    ∃ t, Gives (.suspend m us) s t ∧ Counts s t Reg.FLC_BUSY_CNT ∧ OnlyRegs [Reg.FLC_BUSY_CNT] s t) ∧
  (∀ (s : State) (m : Master) (o : FlcOp), s.flc.op = none → s.flc.susp = some o →
    ∃ t, Gives (.resume m) s t ∧ t.flc = { s.flc with op := some o, susp := none } ∧ t.flag F.FLC_STAT_SUSP = false ∧
      t = { s with regs := t.regs, flc := t.flc } ∧ RegsBut [Reg.FLC_STAT, Reg.FLC_RUNTIME] s t) ∧
  (∀ (s : State) (c : Fin 2), s.flag (F.FLC_MC_STAT_BAD c) = false → s.flc.op = none → s.flc.susp = none →
    ∃ t, Gives (.inc .seq c) s t ∧ t.flc.op = some (.inc c) ∧ t.flag F.FLC_STAT_BUSY = true ∧
      t = { s with regs := t.regs, flc := t.flc } ∧ RegsBut [Reg.FLC_STAT, Reg.FLC_RUNTIME, Reg.FLC_LAST_MID] s t) ∧
  (∀ (s : State) (m : Master) (c : Fin 2), m ≠ .seq → ∃ t, Gives (.inc m c) s t ∧ t = s) ∧
  (∀ (s : State) (w : Nat) (v : Word), s.flc.op = some (.program w v) → s.flc.failed = false → s.flc.incs = [] →
    ∃ t, Gives (.flcDone true) s t ∧ t.flashWord (s.physWord w) = (s.flashWord (s.physWord w) &&& v) ∧
      (∀ x, x ≠ s.physWord w → t.flashWord x = s.flashWord x) ∧ t.flc.op = none ∧ t.flag F.FLC_STAT_DONE = true ∧
      t.evPending Ev.flcDone = true ∧ t = { s with regs := t.regs, flc := t.flc } ∧
      RegsBut (Reg.FLC_STAT :: eventRegs Ev.flcDone) s t) ∧
  (∀ (s : State) (sec : Nat), s.flc.op = some (.erase sec) → s.flc.failed = false → s.flc.incs = [] →
    ∃ t, Gives (.flcDone true) s t ∧ (∀ x, t.flashWord x = if x / 1024 = s.physSec sec then erasedWord else s.flashWord x) ∧
      t.flc.op = none ∧ t.flag F.FLC_STAT_DONE = true ∧ t.evPending Ev.flcDone = true ∧ t = { s with regs := t.regs, flc := t.flc } ∧
      RegsBut (Reg.FLC_STAT :: eventRegs Ev.flcDone) s t) ∧
  (∀ (s : State) (c : Fin 2) (a b : Nat) (both : Bool) (base n k : Nat), s.flc.op = some (.inc c) → s.flc.failed = false →
    s.flc.incs = [] → s.flc.undef = [] → (s.mcWinner c false).1 = some (a, b, both, base, n, k) → n < 1020 →
    ∃ t, Gives (.flcDone true) s t ∧ t.flashWord (s.physWord (1024 * a + 4 + n)) = 0 ∧
      (∀ x, x ≠ s.physWord (1024 * a + 4 + n) → t.flashWord x = s.flashWord x) ∧
      t.reg (Reg.FLC_MC_VAL c) = BitVec.ofNat 32 (base + n + 1) ∧ t.flc.op = none ∧ t.evPending Ev.flcDone = true ∧
      Counts s t Reg.FLC_PROG_CNT ∧ t = { s with regs := t.regs, hlk := t.hlk, flc := t.flc } ∧
      RegsBut ([Reg.FLC_STAT, Reg.FLC_MC_VAL c, Reg.FLC_PROG_CNT] ++ eventRegs Ev.flcDone ++ noteRegs) s t) ∧
  (∀ (s : State) (w : Nat) (v : Word), s.flc.op = some (.program w v) → s.flc.failed = false →
    ∃ t, Gives (.flcDone false) s t ∧ Counts s t Reg.FLC_PFAIL_CNT ∧ t.reg Reg.FLC_ERR_ADDR = BitVec.ofNat 32 (4 * w) ∧
      t.flc = { s.flc with failed := true } ∧ t.axlReq = s.axlReq ++ [⟨7, 0, Fin.ofNat 16777216 (w / 1024), 2⟩] ∧
      t = { s with regs := t.regs, flc := t.flc, axlReq := t.axlReq } ∧ RegsBut [Reg.FLC_PFAIL_CNT, Reg.FLC_ERR_ADDR] s t) ∧
  (∀ (s : State) (sec : Nat), s.flc.op = some (.erase sec) → s.flc.failed = false →
    ∃ t, Gives (.flcDone false) s t ∧ Counts s t Reg.FLC_EFAIL_CNT ∧ t.reg Reg.FLC_ERR_ADDR = BitVec.ofNat 32 (4096 * sec) ∧
      t.flc = { s.flc with failed := true } ∧ t.axlReq = s.axlReq ++ [⟨7, 0, Fin.ofNat 16777216 sec, 2⟩] ∧
      t = { s with regs := t.regs, flc := t.flc, axlReq := t.axlReq } ∧ RegsBut [Reg.FLC_EFAIL_CNT, Reg.FLC_ERR_ADDR] s t) ∧
  (∀ (s : State) (w : Nat) (v : Word) (e : Fin 64), s.flc.op = some (.program w v) → s.flc.spare = some e →
    s.physSec (w / 1024) = w / 1024 → w / 1024 < 16320 → s.flc.undef = [] →
    (∀ j, j < 1024 → s.flashWord (1024 * (16320 + e.val) + j) = erasedWord) →
    ∃ t, Gives (.sectorRemap true) s t ∧ t.reg (Reg.FLC_SMAP e) = BitVec.ofNat 32 (2 ^ 31 + w / 1024) ∧
      (∀ j, j < 1024 → t.flashWord (1024 * (16320 + e.val) + j) = s.flashWord (1024 * (w / 1024) + j)) ∧
      (∀ x, x / 1024 ≠ 16320 + e.val → t.flashWord x = s.flashWord x) ∧ t.flc.op = some (.program w v) ∧ t.flc.failed = false ∧
      t = { s with regs := t.regs, hlk := t.hlk, flc := t.flc } ∧ RegsBut ([Reg.FLC_SMAP e, Reg.FLC_PROG_CNT] ++ noteRegs) s t) ∧
  (∀ (s : State) (sec : Nat) (e : Fin 64), s.flc.op = some (.erase sec) → s.flc.spare = some e → s.physSec sec = sec → sec < 16320 →
    ∃ t, Gives (.sectorRemap true) s t ∧ t.reg (Reg.FLC_SMAP e) = BitVec.ofNat 32 (2 ^ 31 + sec) ∧ t.flc.words = s.flc.words ∧
      t.flc.op = some (.erase sec) ∧ t.flc.failed = false ∧ t = { s with regs := t.regs, flc := t.flc } ∧
      RegsBut [Reg.FLC_SMAP e] s t)

/-- R417 to R421, R423, R429: the configuration image. A fault of pass 1 stops start-up and is shown; a sound image is applied, shown by
its tag, and starts SEQ at 0x200; DLOAD brings its DRAM records; the configuration lock sets. -/
def Obligations.ConfigurationImage : Prop :=
  (∀ (s : State) (img : List Byte) (c typ : Nat), s.ImageDue img → s.imageFault img = some (c, typ) → s.flag F.HLK_ID_VALID = false →
    s.flag F.PWR_START_DONE = false →
    ∃ t, Gives .configImageRead s t ∧ t.flag F.CFG_STAT_FAULT = true ∧ t.rd F.CFG_STAT_FCAUSE = c % 16 ∧
      t.reg Reg.CFG_BAD_TYPE = BitVec.ofNat 32 typ ∧ t.flag F.PWR_START_STOPPED = true ∧ t.rd F.PWR_START_CAUSE = 1 ∧
      t.flag F.SEQ_STAT_CSLOAD = s.flag F.SEQ_STAT_CSLOAD ∧ t = { s with regs := t.regs, pwr := t.pwr } ∧
      RegsBut [Reg.CFG_STAT, Reg.CFG_IMG_VER, Reg.CFG_IMG_LEN, Reg.CFG_BAD_TYPE, Reg.PWR_START, Reg.HLK_P_CTRL 0, Reg.HLK_P_CTRL 1,
        Reg.HLK_P_CTRL 2] s t) ∧
  (∀ (s : State) (img : List Byte), s.ImageDue img → s.imageFault img = none →
    ∃ t, Gives .configImageRead s t ∧ t.flag F.CFG_STAT_APPLIED = true ∧ t.flag F.SEQ_STAT_CSLOAD = true ∧ t.pc = 0x200 ∧
      t.rd F.PWR_START_STEP = 8 ∧ (t.flag F.SEQ_STAT_HALTED = t.flag F.SEQ_CTRL_HALT) ∧
      (∀ k : Fin 4, (t.reg (Reg.CFG_TAG k)).toNat = beAt img (beAt img 12 4 + 4 * k.val) 4)) ∧
  (∀ (s : State) (img ser cs dis ver : List Byte) (p q r z : Bool), s.ImageDue img → s.imageFault img = none → s.flag F.SRV_CTRL_EN = false →
    imageRecords img = some [⟨1, p, ser⟩, ⟨0x10, q, cs⟩, ⟨0x11, r, dis⟩, ⟨0x12, z, ver⟩] →
    ∃ t, Gives .configImageRead s t ∧ (∀ k : Fin 3, (t.reg (Reg.CFG_SERIAL k)).toNat = beAt ser (4 * k.val) 4) ∧
      (∀ k, k < (cs.length - 16) / 16 → (t.csWord (BitVec.ofNat 14 (beAt cs 0 4 + k))).toNat = beAt cs (16 + 16 * k) 16) ∧
      (∀ i : Fin 256, t.seq.disp[i] = if taskOpcodes.contains i.val then BitVec.ofNat 14 (beAt dis (2 * i.val) 2)
        else BitVec.ofNat 14 (beAt ver 4 4)) ∧
      (t.reg Reg.SEQ_UCODE_VER).toNat = beAt ver 0 4 ∧ (t.reg Reg.SEQ_ILLVEC).toNat = beAt ver 4 4 % 2 ^ 14 ∧
      t.dram = s.dram) ∧
  (∀ (s : State) (m : Master) (d img : List Byte) (q : Bool), reaches m = true → s.privRefused m true Reg.CFG_CMD = false →
    s.flag F.SEQ_STAT_DFILL = true → s.flc.undef = [] → (s.wr F.CFG_STAT_PASS 3).readImage.1 = img → s.imageTagOk img = true →
    (imageRecords img).map (fun rs => rs.filter (fun r => decide (r.typ = 0x0030) && r.fault.isNone)) = some [⟨0x30, q, d⟩] →
    s.rd F.PWR_START_STEP ≠ 10 →
    ∃ t, Gives (.dload m) s t ∧ t.flag F.CFG_STAT_DLDONE = true ∧ t.dramBytes (beAt d 0 8) (d.length - 8) = d.drop 8 ∧
      DramBut (beAt d 0 8) (d.length - 8) s t ∧
      t = { s with regs := t.regs, hlk := t.hlk, mem := t.mem, dram := t.dram, psn := t.psn } ∧
      RegsBut (Reg.CFG_STAT :: accessRegs ++ noteRegs) s t) ∧
  (∀ (s : State) (m : Master), s.flag F.SEQ_STAT_DFILL = false → ∃ t, Gives (.dload m) s t ∧ t = s) ∧
  (∀ s : State, ∃ t, Gives .configurationLock s t ∧ t.flag F.CFG_LOCK_LOCK = true ∧ OnlyRegs [Reg.CFG_LOCK] s t)

/-! ## Security -/

/-- R434 to R441, R444: the cipher engine. The lock is taken when free and given by its owner, which seals; a command without the lock is
counted; ENC and DEC work on a slot's key as its usage permits; TAGCMP, SEAL, LOAD, PROVISION and CLEAR start. An operator, who holds the
lock only to PROVISION (R436), has the others refused: that they set CFGERR is the model's reading (log entry 48). How a subkey block
becomes a key is a constant without a body (log entry 6). -/
def Obligations.CipherCommands : Prop :=
  (∀ (s : State) (m : Master), s.flag F.CPH_LOCK_HELD = false → (m = .hostOp → s.keyless = true) →
    ∃ t, Gives (.lockAcquire m) s t ∧ t.flag F.CPH_LOCK_HELD = true ∧ t.rd F.CPH_LOCK_OWNER = masterId m ∧
      OnlyRegs [Reg.CPH_LOCK] s t) ∧
  (∀ (s : State) (m : Master), s.flag F.CPH_LOCK_HELD = true ∨ (m = .hostOp ∧ s.keyless = false) →
    ∃ t, Gives (.lockAcquire m) s t ∧ t = s) ∧
  (∀ (s : State) (m : Master), s.cphOwner m = true →
    ∃ t, Gives (.lockRelease m) s t ∧ t.flag F.CPH_LOCK_HELD = false ∧ t.BufferSealed ∧
      t.cph.op = (if s.cph.op.isSome then some .void else none) ∧
      t = { s with regs := t.regs, cph := { s.cph with op := t.cph.op, buf := [], tag := none } } ∧
      RegsBut [Reg.CPH_LOCK, Reg.CPH_STAT, Reg.CPH_SB_PTR, Reg.CPH_SB_LEN] s t) ∧
  (∀ (s : State) (m : Master), s.cphOwner m = false → ∃ t, Gives (.lockRelease m) s t ∧ t = s) ∧
  (∀ (s : State) (m : Master) (v : Word) (k : Fin 8), s.cphOwner m = false →
    ∃ t, Gives (.enc m v) s t ∧ Gives (.cphDec m v) s t ∧ Gives (.tagcmp m v) s t ∧ Gives (.seal m) s t ∧ Gives (.cphLoad m) s t ∧
      Gives (.provision m) s t ∧ Gives (.clear m k) s t ∧ t.flag F.CPH_STAT_LOCKERR = true ∧ Counts s t Reg.CPH_BUSY_CNT ∧
      OnlyRegs [Reg.CPH_STAT, Reg.CPH_BUSY_CNT] s t) ∧
  (∀ (s : State) (m : Master) (v : Word) (k : Fin 8), s.cphOwner m = true → s.flag F.CPH_STAT_BUSY = true →
    ∃ t, Gives (.enc m v) s t ∧ Gives (.cphDec m v) s t ∧ Gives (.tagcmp m v) s t ∧ Gives (.seal m) s t ∧ Gives (.cphLoad m) s t ∧
      Gives (.provision m) s t ∧ Gives (.clear m k) s t ∧ Counts s t Reg.CPH_BUSY_CNT ∧ OnlyRegs [Reg.CPH_BUSY_CNT] s t) ∧
  (∀ (s : State) (m : Master) (v : Word) (k : Slot), s.CphMay m → s.cph.slots[(Fin.ofNat 8 (F.CPH_CMD_SLOT.of v) : Fin 8)] = some k →
    usageOk k.usage (F.CPH_CMD_KV.of v) 1 (F.CPH_CMD_DST.of v) = true → s.DstTakes (F.CPH_CMD_DST.of v) →
    ∃ t, Gives (.enc m v) s t ∧ t.OpStarted s (.block (F.CPH_CMD_DST.of v) (s.blockOut v
      (Aes.encrypt (toNats (subkey k.key (F.CPH_CMD_KV.of v))) (toNats (s.regBytes (Reg.CPH_IN 0) 4)))))) ∧
  (∀ (s : State) (m : Master) (v : Word) (k : Slot), s.CphMay m → s.cph.slots[(Fin.ofNat 8 (F.CPH_CMD_SLOT.of v) : Fin 8)] = some k →
    usageOk k.usage (F.CPH_CMD_KV.of v) 2 (F.CPH_CMD_DST.of v) = true → s.DstTakes (F.CPH_CMD_DST.of v) →
    ∃ t, Gives (.cphDec m v) s t ∧ t.OpStarted s (.block (F.CPH_CMD_DST.of v) (s.blockOut v
      (Aes.decrypt (toNats (subkey k.key (F.CPH_CMD_KV.of v))) (toNats (s.regBytes (Reg.CPH_IN 0) 4)))))) ∧
  (∀ (s : State) (m : Master) (v : Word), s.CphMay m → s.cph.slots[(Fin.ofNat 8 (F.CPH_CMD_SLOT.of v) : Fin 8)] = none →
    ∃ t, Gives (.enc m v) s t ∧ Gives (.cphDec m v) s t ∧ t.flag F.CPH_STAT_NOKEY = true ∧ OnlyRegs [Reg.CPH_STAT] s t) ∧
  (∀ (s : State) (m : Master) (v : Word) (k : Slot), s.CphMay m → s.cph.slots[(Fin.ofNat 8 (F.CPH_CMD_SLOT.of v) : Fin 8)] = some k →
    F.CPH_CMD_DST.of v ≠ 3 → usageOk k.usage (F.CPH_CMD_KV.of v) 1 (F.CPH_CMD_DST.of v) = false →
    ∃ t, Gives (.enc m v) s t ∧ t.flag F.CPH_STAT_USAGEERR = true ∧ OnlyRegs [Reg.CPH_STAT] s t) ∧
  (∀ (s : State) (m : Master) (v : Word) (k : Slot), s.CphMay m → s.cph.slots[(Fin.ofNat 8 (F.CPH_CMD_SLOT.of v) : Fin 8)] = some k →
    k.usage = 1 → F.CPH_CMD_DST.of v = 2 → s.flag F.CPH_STAT_RELEASED = true ∨ 16384 < (s.reg Reg.CPH_SB_PTR).toNat + 16 →
    ∃ t, Gives (.enc m v) s t ∧ Gives (.cphDec m v) s t ∧ t.flag F.CPH_STAT_SBFULL = true ∧ OnlyRegs [Reg.CPH_STAT] s t) ∧
  (∀ (s : State) (m : Master) (v : Word), s.CphMay m → s.flag F.CPH_STAT_RELEASED = false →
    ∃ t, Gives (.tagcmp m v) s t ∧ t.OpStarted s (.tagcmp (decide (F.CPH_CMD_TL.of v = 1)))) ∧
  (∀ (s : State) (m : Master) (v : Word), s.CphMay m → s.flag F.CPH_STAT_RELEASED = true →
    ∃ t, Gives (.tagcmp m v) s t ∧ t.flag F.CPH_STAT_CFGERR = true ∧ OnlyRegs [Reg.CPH_STAT] s t) ∧
  (∀ (s : State) (m : Master), s.CphMay m → ∃ t, Gives (.seal m) s t ∧ t.OpStarted s .seal) ∧
  (∀ (s : State) (m : Master) (u id : Nat) (i : Fin 8) (key kek : List Byte), s.CphMay m → s.keyless = false → s.cph.kek = some kek →
    s.unwrapBlob kek = some (u, i.val, id, key) → u = 1 ∨ u = 2 →
    ∃ t, Gives (.cphLoad m) s t ∧ t.OpStarted s (.load i ⟨u, key, id⟩)) ∧
  (∀ (s : State) (m : Master) (kek : List Byte), s.CphMay m → s.keyless = false → s.cph.kek = some kek → s.unwrapBlob kek = none →
    ∃ t, Gives (.cphLoad m) s t ∧ t.flag F.CPH_STAT_UNWRAPF = true ∧ Counts s t Reg.CPH_UNWRAP_CNT ∧
      OnlyRegs [Reg.CPH_STAT, Reg.CPH_UNWRAP_CNT] s t) ∧
  (∀ (s : State) (m : Master), s.CphMay m → s.keyless = true →
    ∃ t, Gives (.cphLoad m) s t ∧ t.flag F.CPH_STAT_NOKEY = true ∧ OnlyRegs [Reg.CPH_STAT] s t) ∧
  (∀ (s : State) (m : Master), s.CphReady m → s.keyless = true ∨ s.custodian m = true →
    ∃ t, Gives (.provision m) s t ∧ t = { s with regs := t.regs, cph := t.cph } ∧ RegsBut [Reg.CPH_STAT, Reg.CPH_UNWRAP_CNT] s t ∧
      (s.unwrapBlob Config.dtk.toList = none → t.flag F.CPH_STAT_UNWRAPF = true ∧ Counts s t Reg.CPH_UNWRAP_CNT ∧ t.cph = s.cph) ∧
      (∀ p, s.unwrapBlob Config.dtk.toList = some p → p.1 = 0x10 ∨ p.1 = 0x11 → t.OpStarted s (.store p.1 p.2.2.2 p.2.2.1))) ∧
  (∀ (s : State) (m : Master), s.CphReady m → s.keyless = false → s.custodian m = false →
    ∃ t, Gives (.provision m) s t ∧ t.flag F.CPH_STAT_CFGERR = true ∧ OnlyRegs [Reg.CPH_STAT] s t) ∧
  (∀ (s : State) (m : Master) (i : Fin 8), s.CphMay m → ∃ t, Gives (.clear m i) s t ∧ t.OpStarted s (.clear i)) ∧
  (∀ (s : State) (v : Word) (i : Fin 8), s.CphReady .hostOp →
    ∃ t, Gives (.enc .hostOp v) s t ∧ Gives (.cphDec .hostOp v) s t ∧ Gives (.tagcmp .hostOp v) s t ∧ Gives (.seal .hostOp) s t ∧
      Gives (.cphLoad .hostOp) s t ∧ Gives (.clear .hostOp i) s t ∧ t.flag F.CPH_STAT_CFGERR = true ∧ OnlyRegs [Reg.CPH_STAT] s t)

/-- R437, R439 to R441, R444: what an operation of CPH leaves at its end, with DONE, its count and its event. -/
def Obligations.CipherResults : Prop :=
  (∀ (s : State) (out : List Byte), s.cph.op = some (.block 0 out) →
    ∃ t, Gives .cphDone s t ∧ s.OpEnded t ∧ (∀ k : Fin 4, (t.reg (Reg.CPH_OUT k)).toNat = beAt out (4 * k.val) 4) ∧
      t = { s with regs := t.regs, cph := { s.cph with op := none } } ∧
      RegsBut ([Reg.CPH_OUT 0, Reg.CPH_OUT 1, Reg.CPH_OUT 2, Reg.CPH_OUT 3] ++ opRegs) s t) ∧
  (∀ (s : State) (out : List Byte), s.cph.op = some (.block 1 out) →
    ∃ t, Gives .cphDone s t ∧ s.OpEnded t ∧ t = { s with regs := t.regs, cph := { s.cph with op := none, tag := some out } } ∧
      RegsBut opRegs s t) ∧
  (∀ (s : State) (out : List Byte), s.cph.op = some (.block 2 out) → (s.reg Reg.CPH_SB_PTR).toNat + 16 ≤ 16384 →
    ∃ t, Gives .cphDone s t ∧ s.OpEnded t ∧ (t.reg Reg.CPH_SB_PTR).toNat = (s.reg Reg.CPH_SB_PTR).toNat + 16 ∧
      (∀ i, Sparse.get 0 t.cph.buf i = if (s.reg Reg.CPH_SB_PTR).toNat ≤ i ∧ i < (s.reg Reg.CPH_SB_PTR).toNat + 16
        then out.getD (i - (s.reg Reg.CPH_SB_PTR).toNat) 0 else Sparse.get 0 s.cph.buf i) ∧
      t = { s with regs := t.regs, cph := { s.cph with op := none, buf := t.cph.buf } } ∧
      RegsBut (Reg.CPH_SB_PTR :: opRegs) s t) ∧
  (∀ (s : State) (short : Bool) (tag : List Byte), s.cph.op = some (.tagcmp short) → s.cph.tag = some tag →
    tag.take (if short then 8 else 16) = (s.regBytes (Reg.CPH_TAG_EXP 0) 4).take (if short then 8 else 16) →
    ∃ t, Gives .cphDone s t ∧ s.OpEnded t ∧ t.flag F.CPH_STAT_TAGOK = true ∧ t.flag F.CPH_STAT_RELEASED = true ∧
      t.reg Reg.CPH_SB_LEN = s.reg Reg.CPH_SB_PTR ∧ t = { s with regs := t.regs, cph := { s.cph with op := none } } ∧
      RegsBut (Reg.CPH_SB_LEN :: opRegs) s t) ∧
  (∀ (s : State) (short : Bool), s.cph.op = some (.tagcmp short) →
    s.cph.tag.map (·.take (if short then 8 else 16)) ≠ some ((s.regBytes (Reg.CPH_TAG_EXP 0) 4).take (if short then 8 else 16)) →
    ∃ t, Gives .cphDone s t ∧ s.OpEnded t ∧ t.flag F.CPH_STAT_TAGFAIL = true ∧ Counts s t Reg.CPH_TAGFAIL_CNT ∧
      t.flag F.CPH_STAT_RELEASED = s.flag F.CPH_STAT_RELEASED ∧ t.reg Reg.CPH_SB_PTR = 0 ∧
      t = { s with regs := t.regs, cph := { s.cph with op := none, buf := [] } } ∧
      RegsBut ([Reg.CPH_TAGFAIL_CNT, Reg.CPH_SB_PTR] ++ opRegs) s t) ∧
  (∀ s : State, s.cph.op = some .seal →
    ∃ t, Gives .cphDone s t ∧ s.OpEnded t ∧ t.BufferSealed ∧
      t = { s with regs := t.regs, cph := { s.cph with op := none, buf := [], tag := none } } ∧
      RegsBut ([Reg.CPH_SB_PTR, Reg.CPH_SB_LEN] ++ opRegs) s t) ∧
  (∀ (s : State) (i : Fin 8) (k : Slot), s.cph.op = some (.load i k) → k.usage < 16 →
    (∀ j : Fin 8, ((s.cph.slots[j].map (·.usage)).getD 0) < 16) →
    ∃ t, Gives .cphDone s t ∧ s.OpEnded t ∧ (t.rd F.CPH_STAT_SLOTV).testBit i.val = true ∧
      (t.reg Reg.CPH_KEYSTAT).toNat / 16 ^ i.val % 16 = k.usage ∧
      t = { s with regs := t.regs, cph := { s.cph with op := none, slots := s.cph.slots.set i (some k) } } ∧
      RegsBut (Reg.CPH_KEYSTAT :: opRegs) s t) ∧
  (∀ (s : State) (i : Fin 8), s.cph.op = some (.clear i) →
    ∃ t, Gives .cphDone s t ∧ s.OpEnded t ∧ (t.rd F.CPH_STAT_SLOTV).testBit i.val = false ∧
      t = { s with regs := t.regs, cph := { s.cph with op := none, slots := s.cph.slots.set i none } } ∧
      RegsBut (Reg.CPH_KEYSTAT :: opRegs) s t) ∧
  (∀ (s : State) (key cak : List Byte) (id : Nat), s.cph.op = some (.store 0x10 key id) → s.cph.cak = some cak →
    ∃ t, Gives .cphDone s t ∧ s.OpEnded t ∧ t.cph = { s.cph with op := none, kek := some key } ∧ Counts s t Reg.CPH_PROV_CNT ∧
      t.flag F.CPH_STAT_KEYLESS = false ∧ t.flag F.BKP_ALARM_ZEROISED = false ∧ t.flag F.BKP_ALARM_BKPLOST = false ∧
      t = { s with regs := t.regs, cph := t.cph, hlk := t.hlk } ∧
      RegsBut ([Reg.CPH_PROV_CNT, Reg.BKP_KSTAT, Reg.BKP_ALARM] ++ opRegs ++ noteRegs) s t) ∧
  (∀ (s : State) (key : List Byte) (id : Nat), s.cph.op = some (.store 0x11 key id) → s.cph.kek = none →
    ∃ t, Gives .cphDone s t ∧ s.OpEnded t ∧ t.cph = { s.cph with op := none, cak := some key } ∧ Counts s t Reg.CPH_PROV_CNT ∧
      t.rd F.BKP_KSTAT_KEYID = id % 65536 ∧ t.flag F.CPH_STAT_KEYLESS = true ∧ t = { s with regs := t.regs, cph := t.cph } ∧
      RegsBut ([Reg.CPH_PROV_CNT, Reg.BKP_KSTAT] ++ opRegs) s t) ∧
  (∀ (s : State) (key : List Byte) (id : Nat), s.cph.op = some (.store 0x12 key id) →
    ∃ t, Gives .cphDone s t ∧ s.OpEnded t ∧ t.cph = { s.cph with op := none, cfgKey := some key } ∧
      t.flag F.CPH_FUSE_STAT_CFGKEY = true ∧ Counts s t Reg.CPH_PROV_CNT ∧ t = { s with regs := t.regs, cph := t.cph } ∧
      RegsBut ([Reg.CPH_PROV_CNT, Reg.CPH_FUSE_STAT] ++ opRegs) s t)

/-- R445 to R451: custodian sessions and the backup domain. A challenge is drawn and serves one response; the right one opens the session,
a wrong one is counted, and the eighth locks out; a tamper alarm takes the keys, the slots, the session and the lock, and is logged; a
temperature alarm is only logged. -/
def Obligations.SessionsAndBackup : Prop :=
  (∀ (s : State) (m : Master), s.flag F.CPH_SESS_STAT_OPEN = false → s.keyless = false → s.flag F.CPH_SESS_STAT_LOCKOUT = false →
    ∃ t, Gives (.sessionChallenge m) s t ∧ t.cph = { s.cph with chal := some (t.regBytes (Reg.CPH_SESS_CHAL 0) 4) } ∧
      t.flag F.CPH_SESS_STAT_REFUSED = false ∧ t = { s with regs := t.regs, cph := t.cph, free := s.free + 4 } ∧
      RegsBut [Reg.CPH_SESS_STAT, Reg.CPH_SESS_CHAL 0, Reg.CPH_SESS_CHAL 1, Reg.CPH_SESS_CHAL 2, Reg.CPH_SESS_CHAL 3] s t) ∧
  (∀ (s : State) (m : Master), s.flag F.CPH_SESS_STAT_OPEN = false → s.keyless = true ∨ s.flag F.CPH_SESS_STAT_LOCKOUT = true →
    ∃ t, Gives (.sessionChallenge m) s t ∧ t.flag F.CPH_SESS_STAT_REFUSED = true ∧ (∀ k : Fin 4, t.reg (Reg.CPH_SESS_CHAL k) = 0) ∧
      OnlyRegs [Reg.CPH_SESS_STAT, Reg.CPH_SESS_CHAL 0, Reg.CPH_SESS_CHAL 1, Reg.CPH_SESS_CHAL 2, Reg.CPH_SESS_CHAL 3] s t) ∧
  (∀ (s : State) (w : Word) (chal cak : List Byte), s.cph.chal = some chal → s.cph.cak = some cak →
    (s.setReg (Reg.CPH_SESS_RESP 3) w).regBytes (Reg.CPH_SESS_RESP 0) 4 = s.sessionTag cak chal →
    ∃ t, Gives (.sessionResponse w) s t ∧ t.flag F.CPH_SESS_STAT_OPEN = true ∧
      t.rd F.CPH_SESS_STAT_NUM = nextSession (s.rd F.CPH_SESS_STAT_NUM) ∧ t.rd F.CPH_SESS_STAT_FAILS = 0 ∧
      Counts s t Reg.CPH_SESS_OK_CNT ∧ (∀ k : Fin 4, t.reg (Reg.CPH_SESS_CHAL k) = 0) ∧
      t = { s with regs := t.regs, cph := { s.cph with chal := none } } ∧
      RegsBut [Reg.CPH_SESS_STAT, Reg.CPH_SESS_RESP 3, Reg.CPH_SESS_OK_CNT, Reg.CPH_SESS_CHAL 0, Reg.CPH_SESS_CHAL 1,
        Reg.CPH_SESS_CHAL 2, Reg.CPH_SESS_CHAL 3] s t) ∧
  (∀ (s : State) (w : Word), (∀ chal cak, s.cph.chal = some chal → s.cph.cak = some cak →
      (s.setReg (Reg.CPH_SESS_RESP 3) w).regBytes (Reg.CPH_SESS_RESP 0) 4 ≠ s.sessionTag cak chal) →
    ∃ t, Gives (.sessionResponse w) s t ∧ t.rd F.CPH_SESS_STAT_FAILS = min 8 (s.rd F.CPH_SESS_STAT_FAILS + 1) ∧
      Counts s t Reg.CPH_SESS_FAIL_CNT ∧ (7 ≤ s.rd F.CPH_SESS_STAT_FAILS → t.flag F.CPH_SESS_STAT_LOCKOUT = true) ∧
      t.flag F.CPH_SESS_STAT_OPEN = s.flag F.CPH_SESS_STAT_OPEN ∧ t = { s with regs := t.regs, cph := { s.cph with chal := none } } ∧
      RegsBut [Reg.CPH_SESS_STAT, Reg.CPH_SESS_RESP 3, Reg.CPH_SESS_FAIL_CNT] s t) ∧
  (∀ (s : State) (m : Master), s.custodian m = true → s.flag F.CPH_SESS_STAT_OPEN = true → s.cphOwner .hostCust = false →
    ∃ t, Gives (.sessionClose m) s t ∧ Gives .sessionTimeout s t ∧ t.flag F.CPH_SESS_STAT_OPEN = false ∧
      OnlyRegs [Reg.CPH_SESS_STAT] s t) ∧
  (∀ (s : State) (m : Master), s.custodian m = true → s.flag F.CPH_SESS_STAT_OPEN = true → s.cphOwner .hostCust = true →
    ∃ t, Gives (.sessionClose m) s t ∧ Gives .sessionTimeout s t ∧ t.flag F.CPH_SESS_STAT_OPEN = false ∧
      t.flag F.CPH_LOCK_HELD = false ∧ t.BufferSealed ∧ t = { s with regs := t.regs, cph := t.cph }) ∧
  (∀ s : State, s.flag F.CPH_SESS_STAT_LOCKOUT = true →
    ∃ t, Gives .lockoutEnd s t ∧ t.flag F.CPH_SESS_STAT_LOCKOUT = false ∧ t.rd F.CPH_SESS_STAT_FAILS = 0 ∧
      OnlyRegs [Reg.CPH_SESS_STAT] s t) ∧
  (∀ (s : State) (n : Fin 2), s.flag (tampEn n) = true → s.cph.loops.getLsbD n.val = false → s.taskRunning = false →
    ∃ t, Gives (.tamperAlarm n) s t ∧ t.cph.kek = none ∧ t.cph.cak = none ∧ t.cph.slots = Vector.replicate 8 none ∧
      t.cph.cfgKey = s.cph.cfgKey ∧ t.flag F.CPH_SESS_STAT_OPEN = false ∧ t.flag F.CPH_LOCK_HELD = false ∧ t.BufferSealed ∧
      t.flag (tampFlag n) = true ∧ t.flag F.BKP_ALARM_ZEROISED = true ∧ t.flag F.CPH_STAT_KEYLESS = true ∧
      (t.reg (Reg.BKP_LOG (min (s.rd F.BKP_LOG_HEAD_COUNT) 7) 0)).toNat / 2 ^ 28 = n.val + 1 ∧
      t.rd F.BKP_LOG_HEAD_COUNT = (if s.rd F.BKP_LOG_HEAD_COUNT < 8 then s.rd F.BKP_LOG_HEAD_COUNT + 1 else s.rd F.BKP_LOG_HEAD_COUNT) ∧
      t = { s with regs := t.regs, cph := t.cph, hlk := t.hlk, free := t.free }) ∧
  (∀ (s : State) (n : Fin 2), s.flag (tampEn n) = false ∨ s.cph.loops.getLsbD n.val = true →
    ∃ t, Gives (.tamperAlarm n) s t ∧ t = s) ∧
  (∀ (s : State) (n : Fin 2), ∃ t, Gives (.tamperLoopGood n) s t ∧ t.cph.loops.getLsbD n.val = false ∧ t.flag (loopFlag n) = false ∧
    t = { s with regs := t.regs, cph := { s.cph with loops := t.cph.loops } } ∧ RegsBut [Reg.BKP_STAT] s t) ∧
  (∀ (s : State) (d : Int), signed 8 (s.rd F.BKP_TEMP_CFG_HI) < d → s.cph.excHi = false → signed 8 (s.rd F.BKP_TEMP_CFG_LO) ≤ d →
    s.rd F.BKP_LOG_HEAD_COUNT < 8 →
    ∃ t, Gives (.bkpTemperatureSample d) s t ∧ t.flag F.BKP_ALARM_TEMPHI = true ∧ t.cph.excHi = true ∧
      (t.reg (Reg.BKP_LOG (min (s.rd F.BKP_LOG_HEAD_COUNT) 7) 0)).toNat / 2 ^ 28 = 3 ∧
      t.rd F.BKP_LOG_HEAD_COUNT = s.rd F.BKP_LOG_HEAD_COUNT + 1 ∧ t.cph.kek = s.cph.kek ∧ t.cph.cak = s.cph.cak ∧
      t = { s with regs := t.regs, cph := { s.cph with excHi := t.cph.excHi, excLo := t.cph.excLo }, free := t.free }) ∧
  (∀ (s : State) (d : Int), d ≤ signed 8 (s.rd F.BKP_TEMP_CFG_HI) - 2 → signed 8 (s.rd F.BKP_TEMP_CFG_LO) + 2 ≤ d →
    ∃ t, Gives (.bkpTemperatureSample d) s t ∧ t.int Reg.BKP_TEMP = BitVec.toInt (BitVec.ofInt 32 d) ∧ t.cph.excHi = false ∧
      t.cph.excLo = false ∧ t = { s with regs := t.regs, cph := { s.cph with excHi := false, excLo := false } } ∧
      RegsBut [Reg.BKP_TEMP] s t) ∧
  (∀ (s : State) (m : Master), s.custodian m = true →
    ∃ t, Gives (.bkpLogClr m) s t ∧ t.rd F.BKP_LOG_HEAD_COUNT = 0 ∧ t.rd F.BKP_LOG_HEAD_LOST = 0 ∧
      (∀ e : Fin 8, t.reg (Reg.BKP_LOG e 0) = 0 ∧ t.reg (Reg.BKP_LOG e 1) = 0) ∧
      OnlyRegs (Reg.BKP_LOG_HEAD :: (List.range 16).map (fun k => Reg.BKP_LOG 0 0 + 4 * k)) s t) ∧
  (∀ (s : State) (m : Master), s.custodian m = false → ∃ t, Gives (.bkpLogClr m) s t ∧ t = s)

/-! ## The pair and repair -/

/-- R460 to R470, R473: the pair. Ownership follows the two lines; losing it stops a running task with 0x60 and puts the module OUT, or in
a handover makes it STANDBY; a failed condition stops the refresher of an owner; an armed module claims, and a standby presets its loops
from the newest record or says that it could not. A handover waits for a standby that is armed and not degraded, and ends with 0x52 if
none comes or if it does not claim. How the lines, the release and the claim follow each other is the model's reading (log entry 32); what
the mirror does not carry of a claimed task is free (log entry 68). -/
def Obligations.PairOwnership : Prop :=
  (∀ s : State, s.owned = false →
    ∃ t, Gives (.ownershipChange true false) s t ∧ t.owned = true ∧ t.flag F.MIR_STAT_OWNSELF = true ∧
      t.flag F.MIR_STAT_OWNPART = false ∧ t.rd F.MIR_STAT_ROLE = 1 ∧ t.evPending Ev.ownChange = true) ∧
  (∀ s : State, s.owned = false → s.flag F.MIR_STAT_OWNSELF = false →
    ∃ t, Gives (.ownershipChange true true) s t ∧ t.owned = false ∧ Counts s t Reg.MIR_CLASH_CNT ∧
      (s.flag F.MIR_STAT_SIDE = true → t.mir.pulse = false ∧ (s.rd F.MIR_STAT_ROLE ≠ 3 → t.rd F.MIR_STAT_ROLE = 2))) ∧
  (∀ (s : State) (p : Bool), s.owned = true → s.mir.giving = false →
    ∃ t, Gives (.ownershipChange false p) s t ∧ t.owned = false ∧ t.rd F.MIR_STAT_ROLE = 3 ∧ t.evPending Ev.ownChange = true ∧
      (s.taskRunning = true → t.taskFrozen = true ∧ t.rd F.TSK_STATE_ERRCLS = 0x60) ∧
      ∀ n : Stepper, t.flag (F.SLD_STAT_ENERG n) = false) ∧
  (∀ (s : State) (p : Bool), s.owned = true → s.mir.giving = true →
    ∃ t, Gives (.ownershipChange false p) s t ∧ t.owned = false ∧ t.rd F.MIR_STAT_ROLE = 2 ∧ t.evPending Ev.ownChange = true ∧
      (s.taskRunning = false → t.rd F.TSK_STATE_STATE = s.rd F.TSK_STATE_STATE) ∧ ∀ n : Stepper, t.flag (F.SLD_STAT_ENERG n) = false) ∧
  (∀ (s : State) (c : SupCause), s.supFails c = true → s.mir.pulse = true →
    ∃ t, Gives (.supervisorRelease c) s t ∧ t.mir.pulse = false ∧ t.mir.quiet = true ∧ (t.reg Reg.MIR_REL_CAUSE).toNat = 2 ^ supBit c ∧
      Counts s t Reg.MIR_REL_CNT ∧ (c = .copies → Counts s t Reg.MIR_SUPFAIL_CNT) ∧ t = { s with regs := t.regs, mir := t.mir } ∧
      RegsBut [Reg.MIR_SUPFAIL_CNT, Reg.MIR_REL_CAUSE, Reg.MIR_REL_CNT] s t) ∧
  (∀ (s : State) (c : SupCause), s.supFails c = false → ∃ t, Gives (.supervisorRelease c) s t ∧ t = s) ∧
  (∀ s : State, s.mayClaim = true → s.rd F.MIR_STAT_ROLE ≠ 2 →
    ∃ t, Gives .claim s t ∧ t.mir = { s.mir with pulse := true, quiet := false } ∧ t.reg Reg.MIR_TAKE_SEQ = s.reg Reg.MIR_RX_SEQ ∧
      t = { s with regs := t.regs, mir := t.mir, free := t.free } ∧
      RegsBut [Reg.PMC_CYC_LO, Reg.PMC_CYC_LO + 4, Reg.MIR_TAKE_SEQ, Reg.MIR_TAKE_TIME_LO, Reg.MIR_TAKE_TIME_LO + 4,
        Reg.MIR_TAKE_GAP] s t) ∧
  (∀ (s : State) (p : List (List Byte)), s.mayClaim = true → s.rd F.MIR_STAT_ROLE = 2 → s.partner 3 = false → s.mir.newest = some p →
    s.flag F.MIR_STAT_DEG = false → (s.reg Reg.MIR_AGE).toNat ≤ s.rd F.MIR_CFG_AGEMAX →
    ∃ t, Gives .claim s t ∧ t.mir.pulse = true ∧ Counts s t Reg.MIR_TAKE_CNT ∧
      (∃ r, t.srv.presets = s.srv.presets ++ [(r, false)] ∧ ∀ g : Group, r.getLsbD g.val = decide (mirField p 0 16 4 / 4 ^ g.val % 4 ≠ 0)) ∧
      (mirField p 1 8 4 % 256 = 1 → t.taskFrozen = true ∧ t.rd F.TSK_STATE_ERRCLS = 0x60 ∧ t.tsk.desc = s.mir.desc)) ∧
  (∀ s : State, s.mayClaim = true → s.rd F.MIR_STAT_ROLE = 2 → s.mir.newest = none ∨ s.flag F.MIR_STAT_DEG = true →
    ∃ t, Gives .claim s t ∧ t.mir.pulse = true ∧ t.flag F.MIR_STAT_NOPRESET = true ∧ Counts s t Reg.MIR_NOPRE_CNT ∧
      t.srv.presets = s.srv.presets ∧ (s.partner 3 = true → Counts s t Reg.MIR_HAND_CNT)) ∧
  (∀ s : State, s.mayClaim = false → ∃ t, Gives .claim s t ∧ t = s) ∧
  (∀ s : State, s.mir.wants = false → s.mir.giving = true → s.partner 2 = false → s.taskRunning = true →
    ∃ t, Gives .handoverTimeout s t ∧ t.mir = { s.mir with giving := false, pulse := true, quiet := false } ∧ t.flag F.MIR_STAT_NOPRESET = true ∧
      Counts s t Reg.MIR_NOPRE_CNT ∧ t.taskFrozen = true ∧ t.rd F.TSK_STATE_ERRCLS = 0x52) ∧
  (∀ s : State, s.mir.wants = true → s.taskRunning = true → s.opcode = 0x50 →
    ∃ t, Gives .handoverTimeout s t ∧ t.mir = { s.mir with wants := false } ∧ t.taskFrozen = true ∧
      t.rd F.TSK_STATE_ERRCLS = 0x52) ∧
  (∀ s : State, s.mir.wants = false → s.mir.giving = false ∨ s.partner 2 = true →
    ∃ t, Gives .handoverTimeout s t ∧ t = s) ∧
  (∀ (s : State) (h : Dword) (x : List Byte), s.MirrorIn h → beAt x 0 1 = 0x20 → beAt x 6 2 = 0x32 → s.flag F.MIR_CTRL_PAIR = true → s.rd F.MIR_STAT_RED = 1 →
    s.flag F.MIR_STAT_DEG = false → s.rd F.MIR_STAT_ROLE = 1 → s.mir.wants = true → s.mir.giving = false → s.taskRunning = true →
    s.opcode = 0x50 →
    ∃ t, Gives (.mirrorRecord ⟨h, x⟩) s t ∧ t.mir.giving = true ∧ t.mir.wants = false ∧ t.mir.pulse = false ∧ t.mir.quiet = true ∧
      Counts s t Reg.MIR_REL_CNT ∧ t.rd F.MIR_STAT_RED = 1)

/-- R464 to R469: mirroring. A keep-alive goes out with the sample count and the status; a lost heartbeat is counted and loses the
redundancy; records are taken as their kinds say, and the standby applies the newest sample record at its next instant. Where a mirrored
entry lies in DRAM is the model's choice (log entry 49), and readings of the records are log entry 32. -/
def Obligations.Mirroring : Prop :=
  (∀ s : State, s.flag F.MIR_CTRL_EN = true → s.PortFree 2 →
    ∃ t, Gives .heartbeatSend s t ∧ t.reg Reg.MIR_TX_SEQ = s.reg Reg.SRV_SAMPLE_CNT_LO ∧
      s.Sent t 2 { typ := 0xD, hb := true, src := s.hop, bytes := s.heartbeatBytes } ∧ t = { s with regs := t.regs, hlk := t.hlk } ∧
      RegsBut (Reg.MIR_TX_SEQ :: sendRegs 2) s t) ∧
  (∀ s : State, s.flag F.MIR_STAT_HBOK = true → s.flag F.MIR_CTRL_PAIR = true →
    ∃ t, Gives .heartbeatLost s t ∧ t.flag F.MIR_STAT_HBOK = false ∧ Counts s t Reg.MIR_HBLOSS_CNT ∧ t.rd F.MIR_STAT_RED = 3 ∧
      (s.rd F.MIR_STAT_RED ≠ 3 → t.evPending Ev.mirState = true)) ∧
  (∀ (s : State) (h : Dword) (x : List Byte), s.MirrorIn h → beAt x 0 1 = 0x10 → s.MirrorQuiet →
    ∃ t, Gives (.mirrorRecord ⟨h, x⟩) s t ∧ t.Mirrored x ∧
      t.mir = { s.mir with heard := true, desc := (List.range 16).map (fun k => BitVec.ofNat 32 (beAt x (8 + 4 * k) 4)) } ∧
      t = { s with regs := t.regs, hlk := t.hlk, mir := t.mir } ∧ RegsBut mirrorRegs s t) ∧
  (∀ (s : State) (h : Dword) (x : List Byte), s.MirrorIn h → beAt x 0 1 = 0x11 → s.MirrorQuiet →
    ∃ t, Gives (.mirrorRecord ⟨h, x⟩) s t ∧ t.Mirrored x ∧ t.flag F.TSK_DISC_LOADED = decide (beAt x 8 1 ≠ 0) ∧
      t.rd F.TSK_DISC_WGEN = beAt x 10 2 ∧
      (∀ i : Fin 320, t.disc.ready[i] = (beAt x (12 + 4 * (i.val / 32)) 4).testBit (i.val % 32)) ∧
      t = { s with regs := t.regs, hlk := t.hlk, mir := t.mir, disc := { s.disc with ready := t.disc.ready } } ∧
      RegsBut (Reg.TSK_DISC :: Reg.MIR_DISC_STAT :: mirrorRegs) s t) ∧
  (∀ (s : State) (h : Dword) (x : List Byte) (e : Nat), s.MirrorIn h → beAt x 0 1 = 0x12 → s.MirrorQuiet → beAt x 8 8 = e → e ≠ 2 ^ 64 - 1 → e / 2 ^ 8 % 2 ^ 16 ≠ 0 →
    (∀ k : Fin 12, beAt x (16 + 8 * k.val) 8 = 0) →
    ∃ t, Gives (.mirrorRecord ⟨h, x⟩) s t ∧ t.Mirrored x ∧ Counts s t Reg.MIR_ENTRY_CNT ∧
      t.disc.table = s.disc.table ++ [⟨e / 2 ^ 39, e / 2 ^ 24 % 2 ^ 15, e / 2 ^ 8 % 2 ^ 16, false⟩] ∧
      DramBut (tableAddr (lbaZL (e / 2 ^ 39)) (e / 2 ^ 24 % 2 ^ 15)) 8 s t ∧
      t.dramBytes (tableAddr (lbaZL (e / 2 ^ 39)) (e / 2 ^ 24 % 2 ^ 15)) 8
        = beBytes 8 (entryDword ⟨e / 2 ^ 39, e / 2 ^ 24 % 2 ^ 15, e / 2 ^ 8 % 2 ^ 16, false⟩) ∧
      t = { s with regs := t.regs, hlk := t.hlk, mem := t.mem, psn := t.psn, dram := t.dram, mir := t.mir,
                   disc := { s.disc with table := t.disc.table, changed := true } } ∧
      RegsBut (Reg.MIR_ENTRY_CNT :: mirrorRegs ++ accessRegs ++ noteRegs) s t) ∧
  (∀ (s : State) (h : Dword) (x : List Byte), s.MirrorIn h → beAt x 0 1 = 0x13 → s.MirrorQuiet → beAt x 10 2 ≠ 0 → beAt x 8 2 < 320 →
    (∀ k : Fin 25, beAt x (14 + 4 * k.val) 2 = 0) →
    ∃ t, Gives (.mirrorRecord ⟨h, x⟩) s t ∧ t.Mirrored x ∧ Counts s t Reg.MIR_NEXTFREE_CNT ∧
      t.disc.nextFree.toList = s.disc.nextFree.toList.set (beAt x 8 2) (beAt x 10 2)) ∧
  (∀ (s : State) (h : Dword) (x : List Byte), s.MirrorIn h → beAt x 0 1 = 0x20 → s.MirrorQuiet →
    ∃ t, Gives (.mirrorRecord ⟨h, x⟩) s t ∧ t.Mirrored x ∧ t.mir = { s.mir with heard := true } ∧
      t = { s with regs := t.regs, hlk := t.hlk, mir := t.mir } ∧ RegsBut mirrorRegs s t) ∧
  (∀ (s : State) (h : Dword) (x a b c : List Byte), s.MirrorIn h → beAt x 0 1 = 4 → s.MirrorQuiet → s.mir.seq = beAt x 2 4 → s.mir.parts = [a, b, c] →
    beAt a 0 1 = 1 → beAt b 0 1 = 2 → beAt c 0 1 = 3 →
    ∃ t, Gives (.mirrorRecord ⟨h, x⟩) s t ∧ t.mir.newest = some [a, b, c, x] ∧ t.mir.fresh = true ∧ t.mir.parts = [] ∧
      Counts s t Reg.MIR_RX_CNT ∧ (t.reg Reg.MIR_RX_SEQ).toNat = beAt x 2 4 ∧ t.reg Reg.MIR_AGE = 0) ∧
  (∀ (s : State) (x : SampleIn) (p : List (List Byte)), s.rd F.MIR_STAT_ROLE = 2 → s.mir.fresh = true → s.mir.newest = some p →
    s.owned = false → s.taskRunning = false →
    ∃ t, Gives (.servoSample x) s t ∧ t.mir.fresh = false ∧ t.mir.gap = 0 ∧
      (∀ n : Stepper, t.reg (Reg.SLD_POS n) = BitVec.ofNat 32 (mirField p 0 (32 + 8 * n.val) 4)) ∧
      t.rd F.SPN_TARGET_RPM = mirField p 0 26 2 ∧
      (∀ h : Head, t.rd (F.LSV_H_STAT_STATE h) = mirField p 0 20 4 / 16 ^ h.val % 16)) ∧
  (∀ (s : State) (x : SampleIn), s.rd F.MIR_STAT_ROLE = 2 → s.mir.fresh = false → s.owned = false → s.taskRunning = false →
    ∃ t, Gives (.servoSample x) s t ∧ t.mir.gap = s.mir.gap + 1 ∧ Counts s t Reg.MIR_GAP_CNT ∧
      (s.rd F.MIR_CFG_GAPMAX ≤ s.mir.gap + 1 → t.flag F.MIR_STAT_DEG = true))

/-- R14, R74 to R76, R214, R222, R253, R509: a sample instant. The interval is shown in fabric cycles, held to its bounds, to 600 kHz by
time, or with every head's lock lost to the last measured one (R14), and the speed estimate is taken; an SRV that is off outputs 0 on
every group, and one that is on counts the sample. How the bounds meet the interval that the angle gives is the model's reading (log entry
53). -/
def Obligations.SampleInstant : Prop :=
  (∀ (s : State) (x : SampleIn), s.owned = false → s.flag F.SRV_CTRL_EN = false →
    ∃ t, Gives (.servoSample x) s t ∧ t.reg Reg.ANG_SRV_INT = BitVec.ofNat 32 (s.instantNs x.interval * 4 / 5) ∧
      t.reg Reg.SPN_SPEED = s.speedOf x ∧ t.flag F.SPN_STAT_SPDVALID = s.speedGood x ∧
      (∀ (g : Fin 4) (j : Fin 3), t.reg (Reg.SRV_G_U g j) = 0) ∧
      (∀ c : Fin 7, t.reg (Reg.SRV_S_U c) = 0) ∧ t.pair Reg.SRV_SAMPLE_CNT_LO = s.pair Reg.SRV_SAMPLE_CNT_LO) ∧
  (∀ (s : State) (x : SampleIn), s.flag F.SRV_CTRL_EN = true →
    ∃ t, Gives (.servoSample x) s t ∧ t.pair Reg.SRV_SAMPLE_CNT_LO = (s.pair Reg.SRV_SAMPLE_CNT_LO + 1) % 2 ^ 64 ∧
      t.reg Reg.ANG_SRV_INT = BitVec.ofNat 32 (s.instantNs x.interval * 4 / 5) ∧ t.reg Reg.SPN_SPEED = s.speedOf x) ∧
  (∀ (s : State) (x : SampleIn) (n : Nat), s.headsLost = false → s.floorOn = false → s.ang.timed = false → s.nominalNs = some n → n < 2 ^ 30 →
    ∃ t, Gives (.servoSample x) s t ∧ max 360 (n / 2) * 4 / 5 ≤ (t.reg Reg.ANG_SRV_INT).toNat ∧
      (t.reg Reg.ANG_SRV_INT).toNat ≤ max 360 (3 * n / 2) * 4 / 5 ∧ t.ang.timed = false) ∧
  (∀ (s : State) (x : SampleIn), s.headsLost = false → s.floorOn = true →
    ∃ t, Gives (.servoSample x) s t ∧ t.reg Reg.ANG_SRV_INT = 1333 ∧ t.ang.timed = true) ∧
  (∀ (s : State) (x : SampleIn), s.headsLost = true →
    ∃ t, Gives (.servoSample x) s t ∧ t.reg Reg.ANG_SRV_INT = BitVec.ofNat 32 (s.ang.rate * 4 / 5) ∧ t.ang.timed = true)

/-- R476 to R478: repair. A request for which a spare is at hand is granted: the spare takes effect, and its entry goes into the field map
and the log. One without is denied and counted; a frozen repair denies every request. Spares are taken by rising number, as the model
reads it (log entry 33). -/
def Obligations.Repair : Prop :=
  (∀ (s : State) (r : AxlReq) (sp : Nat), s.axlReq.contains r = true → r.kind.val = 6 → s.flag F.AXL_STAT_FROZEN = false →
    s.axlSpare r = some sp → s.axl.copy = some (1, 3) → s.axl.field = [] →
    ∃ t, Gives (.axlGrant r) s t ∧ t.axlReq = s.axlReq.erase r ∧
      t.mem.granted = s.mem.granted ++ [(Fin.ofNat 64 sp, reqRow r)] ∧ t.axl.field = [mapEntry r sp] ∧
      Counts s t Reg.AXL_GRANT_CNT ∧ Counts s t Reg.AXL_REC_WR_CNT ∧ t.evPending Ev.axlRepair = true ∧
      t.axl.factory = s.axl.factory ∧
      (t.flashWord (t.physWord (entryWord 1 0))).toNat = ((s.flashWord (s.physWord (entryWord 1 0))).toNat &&&
        (mapEntry r sp).toNat / 2 ^ 32) ∧
      (∀ x, x ≠ s.physWord (entryWord 1 0) → x ≠ s.physWord (entryWord 1 0 + 1) → t.flashWord x = s.flashWord x)) ∧
  (∀ (s : State) (r : AxlReq) (sp : Nat), s.axlReq.contains r = true → r.kind.val ≤ 7 → s.flag F.AXL_STAT_FROZEN = false →
    s.axlSpare r = some sp →
    ∃ t, Gives (.axlGrant r) s t ∧ Counts s t Reg.AXL_GRANT_CNT ∧ t.evPending Ev.axlRepair = true ∧
      t.axl.field.getLast? = some (mapEntry r sp) ∧ t.axl.factory = s.axl.factory ∧ t.rd F.AXL_STAT_LASTKIND = r.kind.val) ∧
  (∀ (s : State) (r : AxlReq), s.axlReq.contains r = true → r.kind.val = 5 ∨ r.kind.val = 6 → s.flag F.AXL_STAT_FROZEN = false →
    s.axlSpare r = none →
    ∃ t, Gives (.axlGrant r) s t ∧ t.axlReq = s.axlReq.erase r ∧ t.flag F.AXL_STAT_EXH = true ∧ Counts s t Reg.AXL_DENY_CNT ∧
      Counts s t Reg.AXL_EXH_CNT ∧ t.evPending Ev.axlFault = true ∧
      t.axl = { s.axl with log := t.axl.log } ∧ t = { s with regs := t.regs, axlReq := t.axlReq, axl := t.axl, free := t.free }) ∧
  (∀ (s : State) (r : AxlReq), s.axlReq.contains r = true → r.kind.val = 5 ∨ r.kind.val = 6 → s.flag F.AXL_STAT_FROZEN = true →
    ∃ t, Gives (.axlGrant r) s t ∧ t.axlReq = s.axlReq.erase r ∧ Counts s t Reg.AXL_DENY_CNT ∧
      t.axl = { s.axl with log := t.axl.log } ∧ t = { s with regs := t.regs, axlReq := t.axlReq, axl := t.axl, hlk := t.hlk, free := t.free }) ∧
  (∀ (s : State) (r : AxlReq), s.axlReq.contains r = true → r.kind.val = 0x3F →
    ∃ t, Gives (.axlGrant r) s t ∧ t.axlReq = s.axlReq.erase r ∧ t.flag F.AXL_STAT_UNREP = true ∧ Counts s t Reg.AXL_UNREP_CNT ∧
      t.evPending Ev.axlFault = true ∧ t = { s with regs := t.regs, axlReq := t.axlReq, axl := t.axl, free := t.free }) ∧
  (∀ s : State, s.flag F.AXL_STAT_FROZEN = false → s.flag F.SEQ_MODE_TASK = false →
    ∃ t, Gives .axlFrozen s t ∧ t.flag F.AXL_STAT_FROZEN = true ∧ t.evPending Ev.axlFault = true ∧
      OnlyRegs (Reg.AXL_STAT :: eventRegs Ev.axlFault) s t) ∧
  (∀ s : State, s.flag F.AXL_STAT_FROZEN = true → ∃ t, Gives .axlFrozen s t ∧ t = s)

/-! ## The library bus -/

/-- R486, R488, R491 to R493, R496, R497: frames. One that is addressed to the module enters the ring and raises LBS_MSG, or is counted as
other, bad, overflow or stranger; SEQ's verdict frees the entry of a stranger, and a message that passes every check of R492 is accepted,
a PAIR_NOTICE with its ACK at once; SEND puts the window on the bus; a collided frame is tried sixteen times. How a verdict and the checks
of R492 go together is the model's reading (log entry 34). -/
def Obligations.LibraryFrames : Prop :=
  (∀ (s : State) (x : List Byte) (e : Fin 8), s.FrameGood x → x.length ≤ 512 → e = Fin.ofNat 8 (s.reg Reg.LBS_RX_HEAD).toNat →
    (s.lbs.ring[e]).state ≠ 1 →
    ∃ t, Gives (.frameReceive x) s t ∧ (t.lbs.ring[e]).state = 1 ∧ (t.lbs.ring[e]).bytes = x ∧
      (∀ i : Fin 8, i ≠ e → t.lbs.ring[i] = s.lbs.ring[i]) ∧ (t.reg Reg.LBS_RX_HEAD).toNat = (e.val + 1) % 8 ∧
      Counts s t Reg.LBS_RX_CNT ∧ t.evPending Ev.lbsMsg = true ∧
      t = { s with regs := t.regs, lbs := { s.lbs with ring := t.lbs.ring } } ∧
      RegsBut ([Reg.LBS_RX_HEAD, Reg.LBS_RX_CNT] ++ eventRegs Ev.lbsMsg) s t) ∧
  (∀ (s : State) (x : List Byte), s.FrameGood x → x.length ≤ 512 →
    (s.lbs.ring[(Fin.ofNat 8 (s.reg Reg.LBS_RX_HEAD).toNat : Fin 8)]).state = 1 →
    ∃ t, Gives (.frameReceive x) s t ∧ Counts s t Reg.LBS_RXOVF_CNT ∧ OnlyRegs [Reg.LBS_RXOVF_CNT] s t) ∧
  (∀ (s : State) (x : List Byte), s.FrameGood x → 512 < x.length →
    ∃ t, Gives (.frameReceive x) s t ∧ Counts s t Reg.LBS_STR_CNT ∧ t.pair Reg.LBS_STR_LAST_LO = beAt x 6 6 + 3 * 2 ^ 60 ∧
      t.lbs.ring = s.lbs.ring) ∧
  (∀ (s : State) (x : List Byte), FcsGood x → beAt x 0 6 ≠ s.lbsMac ∨ beAt x 12 2 ≠ s.rd F.LBS_ETYPE_ETYPE →
    ∃ t, Gives (.frameReceive x) s t ∧ Counts s t Reg.LBS_OTHER_CNT ∧ OnlyRegs [Reg.LBS_OTHER_CNT] s t) ∧
  (∀ (s : State) (x : List Byte), x.length < 64 ∨ x.drop (x.length - 4) ≠ fcs (x.take (x.length - 4)) →
    ∃ t, Gives (.frameReceive x) s t ∧ Counts s t Reg.LBS_SYM_CNT ∧ t.lbs.ring = s.lbs.ring) ∧
  (∀ (s : State) (v : Word) (e : Fin 8), e = Fin.ofNat 8 (F.LBS_RX_VERDICT_ENTRY.of v) → F.LBS_RX_VERDICT_VERDICT.of v = 0 →
    (s.lbs.ring[e]).state = 1 → s.lbsJudge s.lbs.ring[e] = 0 → beAt (s.lbs.ring[e]).bytes 15 1 ≠ 0x20 →
    ∃ t, Gives (.lbsRxVerdict .seq v) s t ∧ (t.lbs.ring[e]).state = 2 ∧ (t.lbs.ring[e]).bytes = (s.lbs.ring[e]).bytes ∧
      t.pair (Reg.LBS_PEER_CTR_LO (s.lbs.ring[e]).peer) = beAt (s.lbs.ring[e]).bytes 18 8 ∧
      (∀ i : Fin 8, i ≠ e → t.lbs.ring[i] = s.lbs.ring[i]) ∧ t.lbs.line = s.lbs.line ∧ t.reg Reg.LBS_STR_CNT = s.reg Reg.LBS_STR_CNT) ∧
  (∀ (s : State) (v : Word) (e : Fin 8), e = Fin.ofNat 8 (F.LBS_RX_VERDICT_ENTRY.of v) → F.LBS_RX_VERDICT_VERDICT.of v = 0 →
    (s.lbs.ring[e]).state = 1 → s.lbsJudge s.lbs.ring[e] = 0 → beAt (s.lbs.ring[e]).bytes 15 1 = 0x20 →
    ∃ t, Gives (.lbsRxVerdict .seq v) s t ∧ (t.lbs.ring[e]).state = 0 ∧ t.lbs.line.length = s.lbs.line.length + 1 ∧
      Counts s t Reg.LBS_TX_CNT ∧ t.pair Reg.LBS_TX_CTR_LO = (s.pair Reg.LBS_TX_CTR_LO + 1) % 2 ^ 64 ∧
      t.pair (Reg.LBS_PEER_CTR_LO (s.lbs.ring[e]).peer) = beAt (s.lbs.ring[e]).bytes 18 8) ∧
  (∀ (s : State) (v : Word) (e : Fin 8), e = Fin.ofNat 8 (F.LBS_RX_VERDICT_ENTRY.of v) → (s.lbs.ring[e]).state = 1 →
    s.lbsJudge s.lbs.ring[e] ≠ 0 →
    ∃ t, Gives (.lbsRxVerdict .seq v) s t ∧ (t.lbs.ring[e]).state = 0 ∧ Counts s t Reg.LBS_STR_CNT ∧
      t.pair Reg.LBS_STR_LAST_LO = beAt (s.lbs.ring[e]).bytes 6 6 + s.lbsJudge s.lbs.ring[e] * 2 ^ 60 ∧ t.lbs.line = s.lbs.line) ∧
  (∀ (s : State) (v : Word) (e : Fin 8), e = Fin.ofNat 8 (F.LBS_RX_VERDICT_ENTRY.of v) → F.LBS_RX_VERDICT_VERDICT.of v ≠ 0 →
    (s.lbs.ring[e]).state = 1 → s.lbsJudge s.lbs.ring[e] = 0 →
    ∃ t, Gives (.lbsRxVerdict .seq v) s t ∧ (t.lbs.ring[e]).state = 0 ∧ Counts s t Reg.LBS_STR_CNT ∧
      t.pair Reg.LBS_STR_LAST_LO = beAt (s.lbs.ring[e]).bytes 6 6 + F.LBS_RX_VERDICT_VERDICT.of v * 2 ^ 60) ∧
  (∀ (s : State) (m : Master) (v : Word), m ≠ .seq → ∃ t, Gives (.lbsRxVerdict m v) s t ∧ Gives (.lbsSend m v) s t ∧ t = s) ∧
  (∀ (s : State) (v : Word), F.LBS_TX_CMD_SEND.of v = 1 →
    ∃ t, Gives (.lbsSend .seq v) s t ∧ t.pair Reg.LBS_TX_CTR_LO = (s.pair Reg.LBS_TX_CTR_LO + 1) % 2 ^ 64 ∧
      t.lbs = { s.lbs with frame := some (s.windowFrame v), tries := 1, line := s.lbs.line ++ [s.windowFrame v] } ∧
      Counts s t Reg.LBS_TX_CNT ∧ t = { s with regs := t.regs, lbs := t.lbs } ∧
      RegsBut [Reg.LBS_TX_CTR_LO, Reg.LBS_TX_CTR_LO + 4, Reg.LBS_TX_CNT, Reg.LBS_TX_STAT] s t) ∧
  (∀ (s : State) (f : List Byte), s.lbs.frame = some f → s.lbs.tries < 16 →
    ∃ t, Gives .collision s t ∧ Counts s t Reg.LBS_COL_CNT ∧
      t.lbs = { s.lbs with tries := s.lbs.tries + 1, line := s.lbs.line ++ [f] } ∧ t = { s with regs := t.regs, lbs := t.lbs } ∧
      RegsBut [Reg.LBS_COL_CNT] s t) ∧
  (∀ (s : State) (f : List Byte), s.lbs.frame = some f → 16 ≤ s.lbs.tries →
    ∃ t, Gives .collision s t ∧ Counts s t Reg.LBS_COL_CNT ∧ Counts s t Reg.LBS_EXCOL_CNT ∧ t.lbs.frame = none ∧
      t = { s with regs := t.regs, lbs := { s.lbs with frame := none, tries := 0 } } ∧
      RegsBut [Reg.LBS_COL_CNT, Reg.LBS_EXCOL_CNT, Reg.LBS_TX_STAT] s t) ∧
  (∀ s : State, s.flag F.LBS_PLCA_CFG_EN = true → s.rd F.LBS_PLCA_CFG_NODE_ID ≠ 0 → s.flag F.LBS_PLCA_STAT_ACTIVE = true →
    ∃ t, Gives .beaconLoss s t ∧ t.flag F.LBS_PLCA_STAT_ACTIVE = false ∧ Counts s t Reg.LBS_BCN_CNT ∧
      OnlyRegs [Reg.LBS_PLCA_STAT, Reg.LBS_PHY_STAT, Reg.LBS_BCN_CNT] s t) ∧
  (∀ s : State, s.flag F.LBS_PLCA_CFG_EN = true → s.rd F.LBS_PLCA_CFG_NODE_ID ≠ 0 →
    ∃ t, Gives .beaconReturn s t ∧ t.flag F.LBS_PLCA_STAT_ACTIVE = true ∧ OnlyRegs [Reg.LBS_PLCA_STAT, Reg.LBS_PHY_STAT] s t) ∧
  (State.reset.rd F.LBS_ETYPE_ETYPE = 0x88B5)

/-- R494 to R496: handshakes and reports. An acknowledged request awaits its reply; the reply ends the handshake or fails it, an ABORT or
an expiry fails it, and a failure is counted and ends the task with 0x52; a module without ownership acts on no reply; reports never
acknowledged are counted. What the microcode sends, and when a report counts as dropped, is the model's reading (log entry 34). -/
def Obligations.LibraryHandshakes : Prop :=
  (∀ (s : State) (e : Fin 8), s.accepted e 2 = true → s.owned = true → s.lbs.hs = 3 → s.rxBody e 0 1 = 0 →
    ∃ t, Gives (.loadDone e) s t ∧ t.lbs.hs = 5 ∧ t.rd F.LBS_STAT_HS = 5 ∧ (t.lbs.ring[e]).state = 0 ∧
      t.flag F.TSK_DISC_LOADED = s.flag F.TSK_DISC_LOADED) ∧
  (∀ (s : State) (e : Fin 8), s.accepted e 2 = true → s.owned = true → s.lbs.hs = 3 → s.rxBody e 0 1 ≠ 0 →
    ∃ t, Gives (.loadDone e) s t ∧ s.HandshakeFailed t 0x0100) ∧
  (∀ (s : State) (e : Fin 8), s.accepted e 4 = true → s.owned = true → s.lbs.hs = 4 → s.rxBody e 0 1 = 0 →
    ∃ t, Gives (.unloadDone e) s t ∧ t.lbs.hs = 6 ∧ t.rd F.LBS_STAT_HS = 6 ∧ (t.lbs.ring[e]).state = 0 ∧
      t.flag F.TSK_DISC_LOADED = false ∧ t.disc.table = [] ∧ t.disc.catEntry = none) ∧
  (∀ (s : State) (e : Fin 8), s.owned = false → s.accepted e 2 = true →
    ∃ t, Gives (.loadDone e) s t ∧ t.lbs.hs = s.lbs.hs ∧ t.disc = s.disc ∧ (t.lbs.ring[e]).state = 0 ∧
      t.flag F.TSK_DISC_LOADED = s.flag F.TSK_DISC_LOADED) ∧
  (∀ (s : State) (e : Fin 8), s.owned = false → s.accepted e 4 = true →
    ∃ t, Gives (.unloadDone e) s t ∧ t.lbs.hs = s.lbs.hs ∧ t.disc = s.disc ∧ (t.lbs.ring[e]).state = 0 ∧
      t.flag F.TSK_DISC_LOADED = s.flag F.TSK_DISC_LOADED) ∧
  (∀ (s : State) (e : Fin 8), s.accepted e 5 = true → s.lbs.hs = 1 ∨ s.lbs.hs = 2 → s.rxBody e 0 8 = s.lbs.req → s.rxBody e 8 1 = 0 →
    ∃ t, Gives (.lbsAck e) s t ∧ t.lbs.hs = s.lbs.hs + 2 ∧ t.lbs.reports = s.lbs.reports.erase (s.rxBody e 0 8) ∧
      (t.lbs.ring[e]).state = 0 ∧ t = { s with regs := t.regs, lbs := t.lbs } ∧ RegsBut [Reg.LBS_STAT] s t) ∧
  (∀ (s : State) (e : Fin 8), s.accepted e 5 = true → s.lbs.hs ≠ 1 → s.lbs.hs ≠ 2 →
    ∃ t, Gives (.lbsAck e) s t ∧ t.lbs.hs = s.lbs.hs ∧ t.lbs.reports = s.lbs.reports.erase (s.rxBody e 0 8) ∧
      (t.lbs.ring[e]).state = 0 ∧ t = { s with lbs := t.lbs }) ∧
  (∀ (s : State) (e : Fin 8), s.accepted e 6 = true → s.lbs.hs = 1 ∨ s.lbs.hs = 3 →
    ∃ t, Gives (.lbsAbort e) s t ∧ s.HandshakeFailed t 0x0100) ∧
  (∀ s : State, s.lbs.hs = 1 ∨ s.lbs.hs = 2 → s.lbs.sent ≤ s.rd F.LBS_HS_CFG_RETRY →
    ∃ t, Gives .acktoExpiry s t ∧ t.lbs.hs = s.lbs.hs ∧ t.lbs.sent = s.lbs.sent + 1 ∧
      t.flag F.TSK_DISC_LOADED = s.flag F.TSK_DISC_LOADED ∧ t = { s with regs := t.regs, lbs := t.lbs }) ∧
  (∀ s : State, s.lbs.hs = 2 → s.rd F.LBS_HS_CFG_RETRY < s.lbs.sent → ∃ t, Gives .acktoExpiry s t ∧ s.HandshakeFailed t 0x0101) ∧
  (∀ s : State, s.lbs.hs = 4 → ∃ t, Gives .donetoExpiry s t ∧ s.HandshakeFailed t 0x0101) ∧
  (∀ (s : State) (p : Fin 8) (k : Slot), s.rd F.LBS_ENV_CFG_PER ≠ 0 → s.peers 1 = [p] →
    s.cph.slots[(Fin.ofNat 8 (s.rd F.LBS_AUTH_CFG_SLOT) : Fin 8)] = some k → (s.pair Reg.LBS_TX_CTR_LO + 1) % 2 ^ 64 ≠ 0 →
    ∃ t, Gives .envReport s t ∧ t.lbs.reports = [(s.pair Reg.LBS_TX_CTR_LO + 1) % 2 ^ 64] ∧
      (t.reg Reg.LBS_TXDROP_CNT).toNat = min (2 ^ 32 - 1) ((s.reg Reg.LBS_TXDROP_CNT).toNat + s.lbs.reports.length) ∧
      Counts s t Reg.LBS_TX_CNT ∧ t.lbs.line.length = s.lbs.line.length + 1 ∧ t = { s with regs := t.regs, lbs := t.lbs } ∧
      RegsBut [Reg.LBS_TXDROP_CNT, Reg.LBS_TX_CTR_LO, Reg.LBS_TX_CTR_LO + 4, Reg.LBS_TX_CNT, Reg.LBS_TX_STAT] s t)

/-! ## Power, reset and start-up -/

/-- R447, R523 to R530, R533: resets and start-up. A power-on reset and a module reset leave every part as R527 says; a software reset
needs its key and a custodian; start-up goes from the release of reset to where CFG reads the image, and from the BIST to task service; a
stop says why. What falls to START_UP and what to other commands is the model's reading (log entry 35); trims after step 12 are free (log
entry 54). -/
def Obligations.ResetsAndStartUp : Prop :=
  (∀ s : State, ∃ t, Gives .powerOnReset s t ∧ s.Reset t ∧ t.reg Reg.PWR_RST_CAUSE = 1 ∧ t.pwr.held = true ∧ t.pwr.por = true ∧
    t.axl = { factory := s.axl.factory } ∧ t.axlReq = [] ∧
    ∀ a, a < 0x18000 ∨ 0x18080 ≤ a → a ∉ freshRegs → t.reg a = resetWord a) ∧
  (∀ (s : State) (n : Nat), 1000 ≤ n → s.pwr.por = false →
    ∃ t, Gives (.pinReset n) s t ∧ s.Reset t ∧ s.ModuleReset t ∧ t.flag F.PWR_RST_CAUSE_PIN = true ∧ Counts s t Reg.PWR_PIN_CNT) ∧
  (∀ (s : State) (n : Nat), n < 200 → ∃ t, Gives (.pinReset n) s t ∧ t = s) ∧
  (∀ (s : State) (m : Master) (v : Word), s.custodian m = true → F.PWR_RST_CMD_KEY.of v = 0xA5C3 → F.PWR_RST_CMD_GO.of v = 1 →
    s.pwr.por = false →
    ∃ t, Gives (.softReset m v) s t ∧ s.Reset t ∧ s.ModuleReset t ∧ t.flag F.PWR_RST_CAUSE_SOFT = true ∧
      Counts s t Reg.PWR_SOFT_CNT) ∧
  (∀ (s : State) (m : Master) (v : Word), s.custodian m = false ∨ F.PWR_RST_CMD_KEY.of v ≠ 0xA5C3 ∨ F.PWR_RST_CMD_GO.of v ≠ 1 →
    ∃ t, Gives (.softReset m v) s t ∧ t = s) ∧
  (∀ (s : State) (d : Int), 125 < d → s.pwr.therm = false → s.pwr.por = false →
    ∃ t, Gives (.thermalReset d) s t ∧ s.Reset t ∧ s.ModuleReset t ∧ t.pwr.therm = true ∧ t.flag F.PWR_RST_CAUSE_THERM = true ∧
      Counts s t Reg.PWR_THERM_CNT) ∧
  (∀ (s : State) (d : Int), d ≤ 125 → ∃ t, Gives (.thermalReset d) s t ∧ t = s) ∧
  (∀ s : State, ∃ t, Gives .tapReset s t ∧ t = s) ∧
  (∀ (s : State) (x : StartIn), s.pwr.held = true → s.pwr.therm = true → ∃ t, Gives (.startUp x) s t ∧ t = s) ∧
  (∀ (s : State) (x : StartIn), s.pwr.held = true → s.pwr.therm = false →
    ∃ t, Gives (.startUp x) s t ∧ t.pwr.held = false ∧ t.rd F.PWR_START_STEP = 7 ∧ t.flag F.MIC_FILL_STAT_SDONE = true ∧
      t.rd F.MIR_STAT_SIDE = (if s.pwr.por then x.side.toNat else s.rd F.MIR_STAT_SIDE) ∧ t.pair Reg.PMC_CYC_LO = 0 ∧
      t.pair Reg.LBS_TX_CTR_LO = t.pair Reg.BKP_TICK_LO * 2 ^ 16 % 2 ^ 64 ∧
      (s.pwr.por = true → x.bkpCold = true → t.cph.kek = none ∧ t.cph.cak = none ∧ t.flag F.BKP_ALARM_BKPLOST = true) ∧
      (s.pwr.por = true → x.axlOk = false → t.flag F.AXL_STAT_FROZEN = true)) ∧
  (∀ (s : State) (x : StartIn), s.pwr.held = false → s.rd F.PWR_START_STEP = 11 → s.flag F.PWR_START_STOPPED = false →
    ∃ t, Gives (.startUp x) s t ∧ t.flag F.PWR_START_DONE = true ∧ t.rd F.PWR_START_STEP = 14 ∧ t.flag F.SEQ_MODE_TASK = true ∧
      t.flag F.SEQ_MODE_EVEN = true ∧ t.flag F.CFG_LOCK_LOCK = true ∧ t.flag F.AXL_STAT_BISTDONE = true ∧
      t.reg Reg.AXL_BIST_DEC = x.bistDec.setWidth 32 ∧ t.reg Reg.AXL_BIST_MIX = x.bistMix.setWidth 32 ∧
      t.reg Reg.AXL_BIST_HLK = x.bistHlk.setWidth 32 ∧ t.acq.refined = true ∧ t.flag F.ACQ_CTRL_EN = true ∧ t.flag F.SPN_CTRL_EN = true ∧
      t.flag F.SRV_CTRL_EN = true ∧ t.flag (F.HLK_P_CTRL_EN 0) = true ∧ t.flag (F.HLK_P_CTRL_EN 1) = true) ∧
  (∀ s : State, s.pwr.held = false → s.flag F.PWR_START_DONE = false → s.flag F.PWR_START_STOPPED = false →
    ∃ t, Gives .startUpTimeout s t ∧ t.flag F.PWR_START_STOPPED = true ∧ t.rd F.PWR_START_CAUSE = 4 ∧
      t.rd F.PWR_START_STEP = s.rd F.PWR_START_STEP ∧ t.flag (F.HLK_P_CTRL_EN 0) = true ∧ t.flag (F.HLK_P_CTRL_EN 1) = true) ∧
  (∀ (s : State) (d : Int), s.pwr.held = false → d ≤ s.rd F.PWR_TEMP_CFG_WARN → 105 ≤ d →
    ∃ t, Gives (.dieTemperatureSample d) s t ∧ t.reg Reg.PWR_TEMP_DIE = BitVec.ofInt 32 d ∧
      OnlyRegs [Reg.PWR_TEMP_DIE, Reg.PWR_PEAK_TEMP] s t) ∧
  (∀ (s : State) (d : Int), s.pwr.held = false → s.rd F.PWR_TEMP_CFG_WARN < d → s.flag F.PWR_STAT_WARN = false →
    ∃ t, Gives (.dieTemperatureSample d) s t ∧ t.flag F.PWR_STAT_WARN = true ∧ Counts s t Reg.PWR_WARN_CNT ∧
      t.reg Reg.PWR_TEMP_DIE = BitVec.ofInt 32 d ∧ t = { s with regs := t.regs, hlk := t.hlk, pwr := t.pwr, free := t.free } ∧
      RegsBut ([Reg.PWR_TEMP_DIE, Reg.PWR_PEAK_TEMP, Reg.PWR_STAT, Reg.PWR_WARN_CNT, Reg.PMC_CYC_LO, Reg.PMC_CYC_LO + 4]
        ++ noteRegs) s t)

/-! ## The whole machine -/

/-- A step takes the command at the front of the queue and runs it with the queue's rest. That an empty queue idles is the model's choice
(log entry 2). -/
def Obligations.StepTakesTheFrontCommand : Prop :=
  (∀ (s : State) (c : Instr) (rest : List Instr), s.pending = c :: rest → Machine.step s = Machine.exec c { s with pending := rest }) ∧
  (∀ s : State, s.pending = [] → Machine.step s = .next s)

/-- Every command, in every state, answers a next state, and leaves the commands that wait behind it as they stand: the spec gives every
command of the table an effect, and none of them stops the block. -/
def Obligations.EveryCommandCompletes : Prop :=
  ∀ (c : Instr) (s : State), ∃ t, Gives c s t ∧ t.pending = s.pending

/-- Every step keeps the one canonical form of every memory of the module. -/
def Obligations.StepKeepsCanonical : Prop :=
  ∀ s t : State, s.Canonical → Machine.step s = .next t → t.Canonical

/-- R431, R444, R527: what is fused stays. Once the configuration key is fused, no command changes it; the factory map of repairs is never
written. -/
def Obligations.FusesNeverChange : Prop :=
  ∀ s t : State, Machine.step s = .next t →
    t.axl.factory = s.axl.factory ∧ ∀ key : List Byte, s.Fused key → t.Fused key

/-- R54, R389, R431, R443, R460, R493, R529, R545: the state after reset. Every memory is in canonical form and every register holds the
Reset column of its field map; the module owns nothing, holds no key and no disc, and its sequencer is halted. What a block holds beside
its registers is the model's choice where the spec gives none (log entries 9, 10). -/
def Obligations.ResetState : Prop :=
  State.reset.Canonical ∧ State.reset.pending = [] ∧ (∀ a, State.reset.reg a = resetWord a) ∧ State.reset.owned = false ∧
  State.reset.keyless = true ∧ State.reset.flag F.CPH_STAT_KEYLESS = true ∧ State.reset.flag F.TSK_DISC_LOADED = false ∧
  State.reset.flag F.SEQ_STAT_HALTED = true ∧ State.reset.flag F.SEQ_STAT_CSLOAD = false ∧ State.reset.rd F.PWR_START_STEP = 0 ∧
  State.reset.reg Reg.PWR_RST_CAUSE = 1 ∧ State.reset.rd F.LBS_ETYPE_ETYPE = 0x88B5 ∧ State.reset.rd F.LBS_HS_CFG_ACKTO = 0x14 ∧
  State.reset.flag F.MIR_CTRL_TAKE_EN = true ∧ State.reset.rd F.MIR_CFG_GOODN = 4 ∧ State.reset.rd F.LBS_PLCA_CFG_NODE_ID = 0xFF ∧
  State.reset.rd F.PWR_TEMP_CFG_WARN = 110 ∧ State.reset.reg Reg.CPH_SESS_TO = 60 ∧ State.reset.reg Reg.MIR_RING_BASE = 0x3C000000 ∧
  State.reset.rd F.MIR_HB_PERIOD = 200

end
end

