-- ==== Sys2Proof/Laws/Aes.lean ====
section
/-! SUPPORT. The lengths of the cipher's blocks, and the counter mode undoes itself. -/

namespace Sys2Proof.Machine

set_option Elab.async false

theorem Aes.length_ofNum (k : Nat) : ∀ n, (Aes.ofNum k n).length = k := by
  induction k with
  | zero => exact fun _ => rfl
  | succ k ih => intro n; simp [Aes.ofNum, ih]

/-- A block's cipher text, and its plain text, is a block. -/
theorem Aes.length_encrypt (key b : List Nat) : (Aes.encrypt key b).length = 16 := Aes.length_ofNum _ _
theorem Aes.length_decrypt (key b : List Nat) : (Aes.decrypt key b).length = 16 := Aes.length_ofNum _ _

/-- A CMAC is a block. -/
theorem Aes.length_cmac (key m : List Nat) : (Aes.cmac key m).length = 16 := by
  unfold Aes.cmac
  generalize Aes.dbl (Aes.toNum (Aes.encrypt key (List.replicate 16 0))) = k1
  have run : ∀ (fuel : Nat) (c m : List Nat), c.length = 16 → (Aes.cmacRun key k1 fuel c m).length = 16 := by
    intro fuel
    induction fuel with
    | zero => intro c m hc; simpa [Aes.cmacRun] using hc
    | succ n ih =>
      intro c m hc
      unfold Aes.cmacRun
      split
      · exact ih _ _ (Aes.length_encrypt key _)
      · split <;> exact Aes.length_encrypt key _
  exact run _ _ _ (by simp)

/-- The counter mode's pad, added twice, gives the bytes back. -/
theorem ctrDecrypt_twice (key : List Nat) (iv : Nat) (c : List Byte) :
    toBytes (ctrDecrypt key iv (toNats (toBytes (ctrDecrypt key iv (toNats c))))) = c := by
  apply List.ext_getElem
  · simp [toBytes, toNats, ctrDecrypt]
  · intro i h1 h2
    simp only [toBytes, toNats, ctrDecrypt, List.getElem_map, List.getElem_range, List.length_map, List.length_range,
      List.getD_eq_getElem?_getD, List.getElem?_map, h2, List.getElem?_eq_getElem, Option.map_some, Option.getD_some]
    apply BitVec.eq_of_toNat_eq
    generalize ((Aes.encrypt key (Aes.ofNum 16 ((iv + i / 16) % 2 ^ 128)))[i % 16]?).getD 0 = p
    simp only [BitVec.toNat_ofNat]
    rw [show ∀ a b, Nat.xor a b = a ^^^ b from fun _ _ => rfl, show ∀ a b, Nat.xor a b = a ^^^ b from fun _ _ => rfl]
    apply Nat.eq_of_testBit_eq
    intro j
    have hlt : (c.get ⟨i, h2⟩).toNat < 2 ^ 8 := BitVec.isLt _
    simp only [Nat.testBit_mod_two_pow, Nat.testBit_xor]
    by_cases hj : j < 8
    · simp [hj]
    · have h := Nat.testBit_lt_two_pow (lt_of_lt_of_le hlt (Nat.pow_le_pow_right (by omega : 0 < 2) (by omega : 8 ≤ j)))
      simpa [hj] using h.symm

end Sys2Proof.Machine
end

