-- ==== Sys2Proof/Laws/Bytes.lean ====
section
/-! SUPPORT. Numbers in big-endian bytes read back, and a CRC-32 fits 32 bits. -/

namespace Sys2Proof.Machine

set_option Elab.async false

@[simp] theorem length_beBytes (k n : Nat) : (beBytes k n).length = k := by
  induction k generalizing n with
  | zero => rfl
  | succ k ih => simp [beBytes, ih]

/-- A number written in enough bytes reads back. -/
theorem beNat_beBytes (k : Nat) : ∀ n, n < 256 ^ k → beNat (beBytes k n) = n := by
  induction k with
  | zero => intro n h; simp at h; simp [beBytes, beNat, h]
  | succ k ih =>
    intro n h
    have h1 : n / 256 < 256 ^ k := Nat.div_lt_of_lt_mul (by rwa [Nat.pow_succ, Nat.mul_comm] at h)
    have h2 := ih _ h1
    simp only [beBytes, beNat, List.foldl_append, List.foldl_cons, List.foldl_nil] at h2 ⊢
    rw [h2]
    simp
    omega

/-- The number at the front. -/
theorem beAt_front (a b : List Byte) : beAt (a ++ b) 0 a.length = beNat a := by
  unfold beAt
  congr 1
  apply List.ext_getElem (by simp [bytesAt])
  intro i h1 h2
  simp [bytesAt, h2, List.getElem?_append_left h2]

/-- The number behind a prefix. -/
theorem beAt_append (a b : List Byte) : beAt (a ++ b) a.length b.length = beNat b := by
  unfold beAt
  congr 1
  apply List.ext_getElem (by simp [bytesAt])
  intro i h1 h2
  simp [bytesAt, h2]

theorem crc32_lt (bs : List Byte) : crc32 bs < 2 ^ 32 := by
  have step (c : Nat) (h : c < 2 ^ 32) : (if c % 2 = 1 then Nat.xor (c / 2) 0xEDB88320 else c / 2) < 2 ^ 32 := by
    split
    · exact Nat.xor_lt_two_pow (by omega) (by omega)
    · omega
  have eight (l : List Nat) : ∀ c, c < 2 ^ 32 →
      l.foldl (fun c _ => if c % 2 = 1 then Nat.xor (c / 2) 0xEDB88320 else c / 2) c < 2 ^ 32 := by
    induction l with
    | nil => intro c h; simpa using h
    | cons x l ih => intro c h; exact ih _ (step c h)
  have all (l : List Byte) : ∀ c, c < 2 ^ 32 →
      l.foldl (fun c b => (List.range 8).foldl (fun c _ => if c % 2 = 1 then Nat.xor (c / 2) 0xEDB88320 else c / 2)
        (Nat.xor c b.toNat)) c < 2 ^ 32 := by
    induction l with
    | nil => intro c h; simpa using h
    | cons x l ih =>
      intro c h
      exact ih _ (eight _ _ (Nat.xor_lt_two_pow h (lt_of_lt_of_le x.isLt (by omega))))
  exact Nat.xor_lt_two_pow (all bs _ (by omega)) (by omega)

/-- Bytes before the seam of two lists are the first one's; those of a middle list are its own. -/
theorem bytesAt_left {p r : List Byte} {i k : Nat} (h : i + k ≤ p.length) : bytesAt (p ++ r) i k = bytesAt p i k := by
  unfold bytesAt
  refine List.map_congr_left fun j hj => ?_
  rw [List.getD_append _ _ _ _ (by have := List.mem_range.mp hj; omega)]

theorem bytesAt_mid (p t r : List Byte) : bytesAt (p ++ (t ++ r)) p.length t.length = t := by
  unfold bytesAt
  refine List.ext_getElem (by simp) fun j h1 h2 => ?_
  rw [List.getElem_map, List.getElem_range, List.getD_append_right _ _ _ _ (by omega), Nat.add_sub_cancel_left,
    List.getD_append _ _ _ _ h2, List.getD_eq_getElem _ _ h2]

end Sys2Proof.Machine
end

