-- ==== Sys2Proof/Laws/Code.lean ====
section
/-! SUPPORT. What verify finds when the spot reads a block's own channel bits (R172, R173). -/

namespace Sys2Proof.Machine

/-- A row of bits differs nowhere from a row that it begins. -/
theorem diffAt_take (k : Nat) : ∀ (n : Nat) (l : List Bool), diffAt n (l.take k) l = [] := by
  induction k with
  | zero => intro n l; cases l <;> rfl
  | succ k ih =>
    intro n l
    cases l with
    | nil => rfl
    | cons a r => rw [List.take_succ_cons, diffAt, if_pos rfl, ih]

/-- No mismatch at offset 0 is the best alignment. -/
theorem vfyAlign_zero {mis : List Nat} (h : mis.getD 4 64 = 0) : vfyAlign mis = 0 := by
  have stays : ∀ l : List Int, l.foldl (fun best o => if mis.getD (o + 4).toNat 64 < mis.getD (best + 4).toNat 64 then o else best) 0 = 0 := by
    intro l
    induction l with
    | nil => rfl
    | cons o r ih =>
      rw [List.foldl_cons, if_neg (by rw [show ((0 : Int) + 4).toNat = 4 from rfl, h]; exact Nat.not_lt_zero _)]
      exact ih
  exact stays _

/-- A block that reads as it was written has no mismatch. -/
theorem mismatches_own (w : List Bool) : mismatches w (w.drop 508) = [] := by
  have h : (syncMismatches w (w.drop 508)).getD 4 64 = 0 := by
    simp [syncMismatches, diffAt_take]
  unfold mismatches
  rw [vfyAlign_zero h]
  show diffAt 512 _ ((w.drop 508).drop 4) = []
  rw [List.drop_drop]
  exact diffAt_take _ _ _

end Sys2Proof.Machine
end

