-- ==== Sys2Proof/Laws/Sparse.lean ====
section
/-! SUPPORT. Sparse maps: a read after a write, and the canonical form. -/

namespace Sys2Proof.Machine.Sparse

set_option Elab.async false

variable {α : Type}

theorem get_ins_same (d v : α) (k : Nat) : ∀ m : List (Nat × α), (∀ p ∈ m, p.1 ≠ k) → get d (ins k v m) k = v
  | [], _ => by simp [ins, get]
  | (a, w) :: r, h => by
    have ha : a ≠ k := h (a, w) (by simp)
    unfold ins
    split
    · simp [get]
    · simp [get, ha, get_ins_same d v k r (fun p hp => h p (by simp [hp]))]

theorem get_ins_ne (d v : α) {k j : Nat} (hj : j ≠ k) : ∀ m : List (Nat × α), get d (ins k v m) j = get d m j
  | [] => by simp [ins, get, hj.symm]
  | (a, w) :: r => by
    unfold ins
    split
    · simp [get, hj.symm]
    · simp only [get, get_ins_ne d v hj r]

theorem get_filter_same (d : α) (k : Nat) (m : List (Nat × α)) : get d (m.filter (fun p => p.1 ≠ k)) k = d := by
  induction m with
  | nil => rfl
  | cons p r ih =>
    by_cases hp : p.1 = k
    · simpa [List.filter, hp] using ih
    · simpa [List.filter, hp, get] using ih

theorem get_filter_ne (d : α) {k j : Nat} (hj : j ≠ k) (m : List (Nat × α)) :
    get d (m.filter (fun p => p.1 ≠ k)) j = get d m j := by
  induction m with
  | nil => rfl
  | cons p r ih =>
    by_cases hp : p.1 = k
    · have : p.1 ≠ j := by omega
      simpa [List.filter, hp, get, hj.symm] using ih
    · by_cases hq : p.1 = j
      · simp [List.filter, get, hq, hj]
      · simpa [List.filter, hp, get, hq] using ih

theorem mem_ins {k : Nat} {v : α} {p : Nat × α} : ∀ {m : List (Nat × α)}, p ∈ ins k v m → p = (k, v) ∨ p ∈ m
  | [], h => by simpa [ins] using h
  | (a, w) :: r, h => by
    unfold ins at h
    split at h
    · simpa using h
    · rcases List.mem_cons.mp h with h | h
      · exact .inr (by simp [h])
      · rcases mem_ins h with h | h
        · exact .inl h
        · exact .inr (by simp [h])

theorem pairwise_ins {k : Nat} {v : α} : ∀ {m : List (Nat × α)}, m.Pairwise (fun p q => p.1 < q.1) → (∀ p ∈ m, p.1 ≠ k) →
    (ins k v m).Pairwise (fun p q => p.1 < q.1)
  | [], _, _ => by simp [ins]
  | (a, w) :: r, h, hk => by
    have hr := (List.pairwise_cons.mp h)
    unfold ins
    split
    · refine List.pairwise_cons.mpr ⟨fun p hp => ?_, h⟩
      rcases List.mem_cons.mp hp with rfl | hp
      · assumption
      · exact lt_trans (by assumption) (hr.1 p hp)
    · refine List.pairwise_cons.mpr ⟨fun p hp => ?_, pairwise_ins hr.2 (fun p hp => hk p (by simp [hp]))⟩
      rcases mem_ins hp with rfl | hp
      · have := hk (a, w) (by simp); simp only [] at *; omega
      · exact hr.1 p hp

variable [DecidableEq α]

/-- A read after a write to the same key gives the value written. -/
theorem get_set_same (d v : α) (k : Nat) (m : List (Nat × α)) : get d (set d m k v) k = v := by
  unfold set
  by_cases hv : v = d
  · simp only [hv, if_true]; exact get_filter_same d k m
  · simp only [hv, if_false]
    exact get_ins_same d v k _ (by intro p hp; simpa using (List.mem_filter.mp hp).2)

/-- A write leaves every other key alone, whatever value each key reads as when nothing is listed. -/
theorem get_set_ne (d d' v : α) {k j : Nat} (hj : j ≠ k) (m : List (Nat × α)) : get d (set d' m k v) j = get d m j := by
  unfold set
  by_cases hv : v = d'
  · simp only [hv, if_true]; exact get_filter_ne d hj m
  · simp only [hv, if_false]; rw [get_ins_ne d v hj, get_filter_ne d hj]

theorem wf_iff (d : Nat → α) (m : List (Nat × α)) :
    wf d m = true ↔ m.Pairwise (fun p q => p.1 < q.1) ∧ ∀ p ∈ m, p.2 ≠ d p.1 := by
  simp [wf]

@[simp] theorem wf_nil (d : Nat → α) : wf d ([] : List (Nat × α)) = true := by simp [wf]

/-- Entries taken out leave the form. -/
theorem wf_filter (d : Nat → α) (f : Nat × α → Bool) (m : List (Nat × α)) (h : wf d m = true) : wf d (m.filter f) = true := by
  rw [wf_iff] at *
  exact ⟨h.1.filter _, fun p hp => h.2 p (List.mem_filter.mp hp).1⟩

/-- A write keeps the canonical form. -/
theorem wf_set (d : Nat → α) (m : List (Nat × α)) (k : Nat) (v : α) (h : wf d m = true) : wf d (set (d k) m k v) = true := by
  have hf := wf_filter d (fun p => p.1 ≠ k) m h
  unfold set
  by_cases hv : v = d k
  · simpa [hv] using hf
  · simp only [hv, if_false]
    rw [wf_iff] at hf ⊢
    refine ⟨pairwise_ins hf.1 (fun p hp => by simpa using (List.mem_filter.mp hp).2), fun p hp => ?_⟩
    rcases mem_ins hp with rfl | hp
    · exact hv
    · exact hf.2 p hp

/-- Many writes in a row keep the form. -/
theorem wf_foldl_set {β : Type} (d : α) (f : β → Nat) (g : β → α) : ∀ (l : List β) (m : List (Nat × α)),
    wf (fun _ => d) m = true → wf (fun _ => d) (l.foldl (fun m i => set d m (f i) (g i)) m) = true
  | [], _, h => h
  | i :: l, m, h => wf_foldl_set d f g l _ (wf_set (fun _ => d) m (f i) (g i) h)

end Sys2Proof.Machine.Sparse
end

