-- ==== Sys2Proof/Laws/State.lean ====
section
/-! SUPPORT. One lemma per field and update of a register: the nine updates of Machine/Ops.lean change `regs` and nothing else. -/

namespace Sys2Proof.Machine.State

set_option Elab.async false

@[simp] theorem setReg_latch (s : State) (a : Nat) (w : Word) : (s.setReg a w).latch = s.latch := rfl
@[simp] theorem setReg_dram (s : State) (a : Nat) (w : Word) : (s.setReg a w).dram = s.dram := rfl
@[simp] theorem setReg_psn (s : State) (a : Nat) (w : Word) : (s.setReg a w).psn = s.psn := rfl
@[simp] theorem setReg_ang (s : State) (a : Nat) (w : Word) : (s.setReg a w).ang = s.ang := rfl
@[simp] theorem setReg_acq (s : State) (a : Nat) (w : Word) : (s.setReg a w).acq = s.acq := rfl
@[simp] theorem setReg_det (s : State) (a : Nat) (w : Word) : (s.setReg a w).det = s.det := rfl
@[simp] theorem setReg_dec (s : State) (a : Nat) (w : Word) : (s.setReg a w).dec = s.dec := rfl
@[simp] theorem setReg_rcv (s : State) (a : Nat) (w : Word) : (s.setReg a w).rcv = s.rcv := rfl
@[simp] theorem setReg_disc (s : State) (a : Nat) (w : Word) : (s.setReg a w).disc = s.disc := rfl
@[simp] theorem setReg_wrp (s : State) (a : Nat) (w : Word) : (s.setReg a w).wrp = s.wrp := rfl
@[simp] theorem setReg_srv (s : State) (a : Nat) (w : Word) : (s.setReg a w).srv = s.srv := rfl
@[simp] theorem setReg_lsv (s : State) (a : Nat) (w : Word) : (s.setReg a w).lsv = s.lsv := rfl
@[simp] theorem setReg_spn (s : State) (a : Nat) (w : Word) : (s.setReg a w).spn = s.spn := rfl
@[simp] theorem setReg_sld (s : State) (a : Nat) (w : Word) : (s.setReg a w).sld = s.sld := rfl
@[simp] theorem setReg_hlk (s : State) (a : Nat) (w : Word) : (s.setReg a w).hlk = s.hlk := rfl
@[simp] theorem setReg_tsk (s : State) (a : Nat) (w : Word) : (s.setReg a w).tsk = s.tsk := rfl
@[simp] theorem setReg_seq (s : State) (a : Nat) (w : Word) : (s.setReg a w).seq = s.seq := rfl
@[simp] theorem setReg_mir (s : State) (a : Nat) (w : Word) : (s.setReg a w).mir = s.mir := rfl
@[simp] theorem setReg_axl (s : State) (a : Nat) (w : Word) : (s.setReg a w).axl = s.axl := rfl
@[simp] theorem setReg_cph (s : State) (a : Nat) (w : Word) : (s.setReg a w).cph = s.cph := rfl
@[simp] theorem setReg_lbs (s : State) (a : Nat) (w : Word) : (s.setReg a w).lbs = s.lbs := rfl
@[simp] theorem setReg_mem (s : State) (a : Nat) (w : Word) : (s.setReg a w).mem = s.mem := rfl
@[simp] theorem setReg_flc (s : State) (a : Nat) (w : Word) : (s.setReg a w).flc = s.flc := rfl
@[simp] theorem setReg_pwr (s : State) (a : Nat) (w : Word) : (s.setReg a w).pwr = s.pwr := rfl
@[simp] theorem setReg_axlReq (s : State) (a : Nat) (w : Word) : (s.setReg a w).axlReq = s.axlReq := rfl
@[simp] theorem setReg_tap (s : State) (a : Nat) (w : Word) : (s.setReg a w).tap = s.tap := rfl
@[simp] theorem setReg_free (s : State) (a : Nat) (w : Word) : (s.setReg a w).free = s.free := rfl
@[simp] theorem setReg_pending (s : State) (a : Nat) (w : Word) : (s.setReg a w).pending = s.pending := rfl

@[simp] theorem wr_latch (s : State) (f : RegField) (v : Nat) : (s.wr f v).latch = s.latch := setReg_latch s _ _
@[simp] theorem wr_dram (s : State) (f : RegField) (v : Nat) : (s.wr f v).dram = s.dram := setReg_dram s _ _
@[simp] theorem wr_psn (s : State) (f : RegField) (v : Nat) : (s.wr f v).psn = s.psn := setReg_psn s _ _
@[simp] theorem wr_ang (s : State) (f : RegField) (v : Nat) : (s.wr f v).ang = s.ang := setReg_ang s _ _
@[simp] theorem wr_acq (s : State) (f : RegField) (v : Nat) : (s.wr f v).acq = s.acq := setReg_acq s _ _
@[simp] theorem wr_det (s : State) (f : RegField) (v : Nat) : (s.wr f v).det = s.det := setReg_det s _ _
@[simp] theorem wr_dec (s : State) (f : RegField) (v : Nat) : (s.wr f v).dec = s.dec := setReg_dec s _ _
@[simp] theorem wr_rcv (s : State) (f : RegField) (v : Nat) : (s.wr f v).rcv = s.rcv := setReg_rcv s _ _
@[simp] theorem wr_disc (s : State) (f : RegField) (v : Nat) : (s.wr f v).disc = s.disc := setReg_disc s _ _
@[simp] theorem wr_wrp (s : State) (f : RegField) (v : Nat) : (s.wr f v).wrp = s.wrp := setReg_wrp s _ _
@[simp] theorem wr_srv (s : State) (f : RegField) (v : Nat) : (s.wr f v).srv = s.srv := setReg_srv s _ _
@[simp] theorem wr_lsv (s : State) (f : RegField) (v : Nat) : (s.wr f v).lsv = s.lsv := setReg_lsv s _ _
@[simp] theorem wr_spn (s : State) (f : RegField) (v : Nat) : (s.wr f v).spn = s.spn := setReg_spn s _ _
@[simp] theorem wr_sld (s : State) (f : RegField) (v : Nat) : (s.wr f v).sld = s.sld := setReg_sld s _ _
@[simp] theorem wr_hlk (s : State) (f : RegField) (v : Nat) : (s.wr f v).hlk = s.hlk := setReg_hlk s _ _
@[simp] theorem wr_tsk (s : State) (f : RegField) (v : Nat) : (s.wr f v).tsk = s.tsk := setReg_tsk s _ _
@[simp] theorem wr_seq (s : State) (f : RegField) (v : Nat) : (s.wr f v).seq = s.seq := setReg_seq s _ _
@[simp] theorem wr_mir (s : State) (f : RegField) (v : Nat) : (s.wr f v).mir = s.mir := setReg_mir s _ _
@[simp] theorem wr_axl (s : State) (f : RegField) (v : Nat) : (s.wr f v).axl = s.axl := setReg_axl s _ _
@[simp] theorem wr_cph (s : State) (f : RegField) (v : Nat) : (s.wr f v).cph = s.cph := setReg_cph s _ _
@[simp] theorem wr_lbs (s : State) (f : RegField) (v : Nat) : (s.wr f v).lbs = s.lbs := setReg_lbs s _ _
@[simp] theorem wr_mem (s : State) (f : RegField) (v : Nat) : (s.wr f v).mem = s.mem := setReg_mem s _ _
@[simp] theorem wr_flc (s : State) (f : RegField) (v : Nat) : (s.wr f v).flc = s.flc := setReg_flc s _ _
@[simp] theorem wr_pwr (s : State) (f : RegField) (v : Nat) : (s.wr f v).pwr = s.pwr := setReg_pwr s _ _
@[simp] theorem wr_axlReq (s : State) (f : RegField) (v : Nat) : (s.wr f v).axlReq = s.axlReq := setReg_axlReq s _ _
@[simp] theorem wr_tap (s : State) (f : RegField) (v : Nat) : (s.wr f v).tap = s.tap := setReg_tap s _ _
@[simp] theorem wr_free (s : State) (f : RegField) (v : Nat) : (s.wr f v).free = s.free := setReg_free s _ _
@[simp] theorem wr_pending (s : State) (f : RegField) (v : Nat) : (s.wr f v).pending = s.pending := setReg_pending s _ _

@[simp] theorem put_latch (s : State) (f : RegField) (b : Bool) : (s.put f b).latch = s.latch := wr_latch s _ _
@[simp] theorem put_dram (s : State) (f : RegField) (b : Bool) : (s.put f b).dram = s.dram := wr_dram s _ _
@[simp] theorem put_psn (s : State) (f : RegField) (b : Bool) : (s.put f b).psn = s.psn := wr_psn s _ _
@[simp] theorem put_ang (s : State) (f : RegField) (b : Bool) : (s.put f b).ang = s.ang := wr_ang s _ _
@[simp] theorem put_acq (s : State) (f : RegField) (b : Bool) : (s.put f b).acq = s.acq := wr_acq s _ _
@[simp] theorem put_det (s : State) (f : RegField) (b : Bool) : (s.put f b).det = s.det := wr_det s _ _
@[simp] theorem put_dec (s : State) (f : RegField) (b : Bool) : (s.put f b).dec = s.dec := wr_dec s _ _
@[simp] theorem put_rcv (s : State) (f : RegField) (b : Bool) : (s.put f b).rcv = s.rcv := wr_rcv s _ _
@[simp] theorem put_disc (s : State) (f : RegField) (b : Bool) : (s.put f b).disc = s.disc := wr_disc s _ _
@[simp] theorem put_wrp (s : State) (f : RegField) (b : Bool) : (s.put f b).wrp = s.wrp := wr_wrp s _ _
@[simp] theorem put_srv (s : State) (f : RegField) (b : Bool) : (s.put f b).srv = s.srv := wr_srv s _ _
@[simp] theorem put_lsv (s : State) (f : RegField) (b : Bool) : (s.put f b).lsv = s.lsv := wr_lsv s _ _
@[simp] theorem put_spn (s : State) (f : RegField) (b : Bool) : (s.put f b).spn = s.spn := wr_spn s _ _
@[simp] theorem put_sld (s : State) (f : RegField) (b : Bool) : (s.put f b).sld = s.sld := wr_sld s _ _
@[simp] theorem put_hlk (s : State) (f : RegField) (b : Bool) : (s.put f b).hlk = s.hlk := wr_hlk s _ _
@[simp] theorem put_tsk (s : State) (f : RegField) (b : Bool) : (s.put f b).tsk = s.tsk := wr_tsk s _ _
@[simp] theorem put_seq (s : State) (f : RegField) (b : Bool) : (s.put f b).seq = s.seq := wr_seq s _ _
@[simp] theorem put_mir (s : State) (f : RegField) (b : Bool) : (s.put f b).mir = s.mir := wr_mir s _ _
@[simp] theorem put_axl (s : State) (f : RegField) (b : Bool) : (s.put f b).axl = s.axl := wr_axl s _ _
@[simp] theorem put_cph (s : State) (f : RegField) (b : Bool) : (s.put f b).cph = s.cph := wr_cph s _ _
@[simp] theorem put_lbs (s : State) (f : RegField) (b : Bool) : (s.put f b).lbs = s.lbs := wr_lbs s _ _
@[simp] theorem put_mem (s : State) (f : RegField) (b : Bool) : (s.put f b).mem = s.mem := wr_mem s _ _
@[simp] theorem put_flc (s : State) (f : RegField) (b : Bool) : (s.put f b).flc = s.flc := wr_flc s _ _
@[simp] theorem put_pwr (s : State) (f : RegField) (b : Bool) : (s.put f b).pwr = s.pwr := wr_pwr s _ _
@[simp] theorem put_axlReq (s : State) (f : RegField) (b : Bool) : (s.put f b).axlReq = s.axlReq := wr_axlReq s _ _
@[simp] theorem put_tap (s : State) (f : RegField) (b : Bool) : (s.put f b).tap = s.tap := wr_tap s _ _
@[simp] theorem put_free (s : State) (f : RegField) (b : Bool) : (s.put f b).free = s.free := wr_free s _ _
@[simp] theorem put_pending (s : State) (f : RegField) (b : Bool) : (s.put f b).pending = s.pending := wr_pending s _ _

@[simp] theorem bumpBy_latch (s : State) (a n : Nat) : (s.bumpBy a n).latch = s.latch := setReg_latch s _ _
@[simp] theorem bumpBy_dram (s : State) (a n : Nat) : (s.bumpBy a n).dram = s.dram := setReg_dram s _ _
@[simp] theorem bumpBy_psn (s : State) (a n : Nat) : (s.bumpBy a n).psn = s.psn := setReg_psn s _ _
@[simp] theorem bumpBy_ang (s : State) (a n : Nat) : (s.bumpBy a n).ang = s.ang := setReg_ang s _ _
@[simp] theorem bumpBy_acq (s : State) (a n : Nat) : (s.bumpBy a n).acq = s.acq := setReg_acq s _ _
@[simp] theorem bumpBy_det (s : State) (a n : Nat) : (s.bumpBy a n).det = s.det := setReg_det s _ _
@[simp] theorem bumpBy_dec (s : State) (a n : Nat) : (s.bumpBy a n).dec = s.dec := setReg_dec s _ _
@[simp] theorem bumpBy_rcv (s : State) (a n : Nat) : (s.bumpBy a n).rcv = s.rcv := setReg_rcv s _ _
@[simp] theorem bumpBy_disc (s : State) (a n : Nat) : (s.bumpBy a n).disc = s.disc := setReg_disc s _ _
@[simp] theorem bumpBy_wrp (s : State) (a n : Nat) : (s.bumpBy a n).wrp = s.wrp := setReg_wrp s _ _
@[simp] theorem bumpBy_srv (s : State) (a n : Nat) : (s.bumpBy a n).srv = s.srv := setReg_srv s _ _
@[simp] theorem bumpBy_lsv (s : State) (a n : Nat) : (s.bumpBy a n).lsv = s.lsv := setReg_lsv s _ _
@[simp] theorem bumpBy_spn (s : State) (a n : Nat) : (s.bumpBy a n).spn = s.spn := setReg_spn s _ _
@[simp] theorem bumpBy_sld (s : State) (a n : Nat) : (s.bumpBy a n).sld = s.sld := setReg_sld s _ _
@[simp] theorem bumpBy_hlk (s : State) (a n : Nat) : (s.bumpBy a n).hlk = s.hlk := setReg_hlk s _ _
@[simp] theorem bumpBy_tsk (s : State) (a n : Nat) : (s.bumpBy a n).tsk = s.tsk := setReg_tsk s _ _
@[simp] theorem bumpBy_seq (s : State) (a n : Nat) : (s.bumpBy a n).seq = s.seq := setReg_seq s _ _
@[simp] theorem bumpBy_mir (s : State) (a n : Nat) : (s.bumpBy a n).mir = s.mir := setReg_mir s _ _
@[simp] theorem bumpBy_axl (s : State) (a n : Nat) : (s.bumpBy a n).axl = s.axl := setReg_axl s _ _
@[simp] theorem bumpBy_cph (s : State) (a n : Nat) : (s.bumpBy a n).cph = s.cph := setReg_cph s _ _
@[simp] theorem bumpBy_lbs (s : State) (a n : Nat) : (s.bumpBy a n).lbs = s.lbs := setReg_lbs s _ _
@[simp] theorem bumpBy_mem (s : State) (a n : Nat) : (s.bumpBy a n).mem = s.mem := setReg_mem s _ _
@[simp] theorem bumpBy_flc (s : State) (a n : Nat) : (s.bumpBy a n).flc = s.flc := setReg_flc s _ _
@[simp] theorem bumpBy_pwr (s : State) (a n : Nat) : (s.bumpBy a n).pwr = s.pwr := setReg_pwr s _ _
@[simp] theorem bumpBy_axlReq (s : State) (a n : Nat) : (s.bumpBy a n).axlReq = s.axlReq := setReg_axlReq s _ _
@[simp] theorem bumpBy_tap (s : State) (a n : Nat) : (s.bumpBy a n).tap = s.tap := setReg_tap s _ _
@[simp] theorem bumpBy_free (s : State) (a n : Nat) : (s.bumpBy a n).free = s.free := setReg_free s _ _
@[simp] theorem bumpBy_pending (s : State) (a n : Nat) : (s.bumpBy a n).pending = s.pending := setReg_pending s _ _

@[simp] theorem bump_latch (s : State) (a : Nat) : (s.bump a).latch = s.latch := bumpBy_latch s _ _
@[simp] theorem bump_dram (s : State) (a : Nat) : (s.bump a).dram = s.dram := bumpBy_dram s _ _
@[simp] theorem bump_psn (s : State) (a : Nat) : (s.bump a).psn = s.psn := bumpBy_psn s _ _
@[simp] theorem bump_ang (s : State) (a : Nat) : (s.bump a).ang = s.ang := bumpBy_ang s _ _
@[simp] theorem bump_acq (s : State) (a : Nat) : (s.bump a).acq = s.acq := bumpBy_acq s _ _
@[simp] theorem bump_det (s : State) (a : Nat) : (s.bump a).det = s.det := bumpBy_det s _ _
@[simp] theorem bump_dec (s : State) (a : Nat) : (s.bump a).dec = s.dec := bumpBy_dec s _ _
@[simp] theorem bump_rcv (s : State) (a : Nat) : (s.bump a).rcv = s.rcv := bumpBy_rcv s _ _
@[simp] theorem bump_disc (s : State) (a : Nat) : (s.bump a).disc = s.disc := bumpBy_disc s _ _
@[simp] theorem bump_wrp (s : State) (a : Nat) : (s.bump a).wrp = s.wrp := bumpBy_wrp s _ _
@[simp] theorem bump_srv (s : State) (a : Nat) : (s.bump a).srv = s.srv := bumpBy_srv s _ _
@[simp] theorem bump_lsv (s : State) (a : Nat) : (s.bump a).lsv = s.lsv := bumpBy_lsv s _ _
@[simp] theorem bump_spn (s : State) (a : Nat) : (s.bump a).spn = s.spn := bumpBy_spn s _ _
@[simp] theorem bump_sld (s : State) (a : Nat) : (s.bump a).sld = s.sld := bumpBy_sld s _ _
@[simp] theorem bump_hlk (s : State) (a : Nat) : (s.bump a).hlk = s.hlk := bumpBy_hlk s _ _
@[simp] theorem bump_tsk (s : State) (a : Nat) : (s.bump a).tsk = s.tsk := bumpBy_tsk s _ _
@[simp] theorem bump_seq (s : State) (a : Nat) : (s.bump a).seq = s.seq := bumpBy_seq s _ _
@[simp] theorem bump_mir (s : State) (a : Nat) : (s.bump a).mir = s.mir := bumpBy_mir s _ _
@[simp] theorem bump_axl (s : State) (a : Nat) : (s.bump a).axl = s.axl := bumpBy_axl s _ _
@[simp] theorem bump_cph (s : State) (a : Nat) : (s.bump a).cph = s.cph := bumpBy_cph s _ _
@[simp] theorem bump_lbs (s : State) (a : Nat) : (s.bump a).lbs = s.lbs := bumpBy_lbs s _ _
@[simp] theorem bump_mem (s : State) (a : Nat) : (s.bump a).mem = s.mem := bumpBy_mem s _ _
@[simp] theorem bump_flc (s : State) (a : Nat) : (s.bump a).flc = s.flc := bumpBy_flc s _ _
@[simp] theorem bump_pwr (s : State) (a : Nat) : (s.bump a).pwr = s.pwr := bumpBy_pwr s _ _
@[simp] theorem bump_axlReq (s : State) (a : Nat) : (s.bump a).axlReq = s.axlReq := bumpBy_axlReq s _ _
@[simp] theorem bump_tap (s : State) (a : Nat) : (s.bump a).tap = s.tap := bumpBy_tap s _ _
@[simp] theorem bump_free (s : State) (a : Nat) : (s.bump a).free = s.free := bumpBy_free s _ _
@[simp] theorem bump_pending (s : State) (a : Nat) : (s.bump a).pending = s.pending := bumpBy_pending s _ _

@[simp] theorem bumpF_latch (s : State) (f : RegField) : (s.bumpF f).latch = s.latch := wr_latch s _ _
@[simp] theorem bumpF_dram (s : State) (f : RegField) : (s.bumpF f).dram = s.dram := wr_dram s _ _
@[simp] theorem bumpF_psn (s : State) (f : RegField) : (s.bumpF f).psn = s.psn := wr_psn s _ _
@[simp] theorem bumpF_ang (s : State) (f : RegField) : (s.bumpF f).ang = s.ang := wr_ang s _ _
@[simp] theorem bumpF_acq (s : State) (f : RegField) : (s.bumpF f).acq = s.acq := wr_acq s _ _
@[simp] theorem bumpF_det (s : State) (f : RegField) : (s.bumpF f).det = s.det := wr_det s _ _
@[simp] theorem bumpF_dec (s : State) (f : RegField) : (s.bumpF f).dec = s.dec := wr_dec s _ _
@[simp] theorem bumpF_rcv (s : State) (f : RegField) : (s.bumpF f).rcv = s.rcv := wr_rcv s _ _
@[simp] theorem bumpF_disc (s : State) (f : RegField) : (s.bumpF f).disc = s.disc := wr_disc s _ _
@[simp] theorem bumpF_wrp (s : State) (f : RegField) : (s.bumpF f).wrp = s.wrp := wr_wrp s _ _
@[simp] theorem bumpF_srv (s : State) (f : RegField) : (s.bumpF f).srv = s.srv := wr_srv s _ _
@[simp] theorem bumpF_lsv (s : State) (f : RegField) : (s.bumpF f).lsv = s.lsv := wr_lsv s _ _
@[simp] theorem bumpF_spn (s : State) (f : RegField) : (s.bumpF f).spn = s.spn := wr_spn s _ _
@[simp] theorem bumpF_sld (s : State) (f : RegField) : (s.bumpF f).sld = s.sld := wr_sld s _ _
@[simp] theorem bumpF_hlk (s : State) (f : RegField) : (s.bumpF f).hlk = s.hlk := wr_hlk s _ _
@[simp] theorem bumpF_tsk (s : State) (f : RegField) : (s.bumpF f).tsk = s.tsk := wr_tsk s _ _
@[simp] theorem bumpF_seq (s : State) (f : RegField) : (s.bumpF f).seq = s.seq := wr_seq s _ _
@[simp] theorem bumpF_mir (s : State) (f : RegField) : (s.bumpF f).mir = s.mir := wr_mir s _ _
@[simp] theorem bumpF_axl (s : State) (f : RegField) : (s.bumpF f).axl = s.axl := wr_axl s _ _
@[simp] theorem bumpF_cph (s : State) (f : RegField) : (s.bumpF f).cph = s.cph := wr_cph s _ _
@[simp] theorem bumpF_lbs (s : State) (f : RegField) : (s.bumpF f).lbs = s.lbs := wr_lbs s _ _
@[simp] theorem bumpF_mem (s : State) (f : RegField) : (s.bumpF f).mem = s.mem := wr_mem s _ _
@[simp] theorem bumpF_flc (s : State) (f : RegField) : (s.bumpF f).flc = s.flc := wr_flc s _ _
@[simp] theorem bumpF_pwr (s : State) (f : RegField) : (s.bumpF f).pwr = s.pwr := wr_pwr s _ _
@[simp] theorem bumpF_axlReq (s : State) (f : RegField) : (s.bumpF f).axlReq = s.axlReq := wr_axlReq s _ _
@[simp] theorem bumpF_tap (s : State) (f : RegField) : (s.bumpF f).tap = s.tap := wr_tap s _ _
@[simp] theorem bumpF_free (s : State) (f : RegField) : (s.bumpF f).free = s.free := wr_free s _ _
@[simp] theorem bumpF_pending (s : State) (f : RegField) : (s.bumpF f).pending = s.pending := wr_pending s _ _

@[simp] theorem setPair_latch (s : State) (a n : Nat) : (s.setPair a n).latch = s.latch := (setReg_latch _ _ _).trans (setReg_latch s _ _)
@[simp] theorem setPair_dram (s : State) (a n : Nat) : (s.setPair a n).dram = s.dram := (setReg_dram _ _ _).trans (setReg_dram s _ _)
@[simp] theorem setPair_psn (s : State) (a n : Nat) : (s.setPair a n).psn = s.psn := (setReg_psn _ _ _).trans (setReg_psn s _ _)
@[simp] theorem setPair_ang (s : State) (a n : Nat) : (s.setPair a n).ang = s.ang := (setReg_ang _ _ _).trans (setReg_ang s _ _)
@[simp] theorem setPair_acq (s : State) (a n : Nat) : (s.setPair a n).acq = s.acq := (setReg_acq _ _ _).trans (setReg_acq s _ _)
@[simp] theorem setPair_det (s : State) (a n : Nat) : (s.setPair a n).det = s.det := (setReg_det _ _ _).trans (setReg_det s _ _)
@[simp] theorem setPair_dec (s : State) (a n : Nat) : (s.setPair a n).dec = s.dec := (setReg_dec _ _ _).trans (setReg_dec s _ _)
@[simp] theorem setPair_rcv (s : State) (a n : Nat) : (s.setPair a n).rcv = s.rcv := (setReg_rcv _ _ _).trans (setReg_rcv s _ _)
@[simp] theorem setPair_disc (s : State) (a n : Nat) : (s.setPair a n).disc = s.disc := (setReg_disc _ _ _).trans (setReg_disc s _ _)
@[simp] theorem setPair_wrp (s : State) (a n : Nat) : (s.setPair a n).wrp = s.wrp := (setReg_wrp _ _ _).trans (setReg_wrp s _ _)
@[simp] theorem setPair_srv (s : State) (a n : Nat) : (s.setPair a n).srv = s.srv := (setReg_srv _ _ _).trans (setReg_srv s _ _)
@[simp] theorem setPair_lsv (s : State) (a n : Nat) : (s.setPair a n).lsv = s.lsv := (setReg_lsv _ _ _).trans (setReg_lsv s _ _)
@[simp] theorem setPair_spn (s : State) (a n : Nat) : (s.setPair a n).spn = s.spn := (setReg_spn _ _ _).trans (setReg_spn s _ _)
@[simp] theorem setPair_sld (s : State) (a n : Nat) : (s.setPair a n).sld = s.sld := (setReg_sld _ _ _).trans (setReg_sld s _ _)
@[simp] theorem setPair_hlk (s : State) (a n : Nat) : (s.setPair a n).hlk = s.hlk := (setReg_hlk _ _ _).trans (setReg_hlk s _ _)
@[simp] theorem setPair_tsk (s : State) (a n : Nat) : (s.setPair a n).tsk = s.tsk := (setReg_tsk _ _ _).trans (setReg_tsk s _ _)
@[simp] theorem setPair_seq (s : State) (a n : Nat) : (s.setPair a n).seq = s.seq := (setReg_seq _ _ _).trans (setReg_seq s _ _)
@[simp] theorem setPair_mir (s : State) (a n : Nat) : (s.setPair a n).mir = s.mir := (setReg_mir _ _ _).trans (setReg_mir s _ _)
@[simp] theorem setPair_axl (s : State) (a n : Nat) : (s.setPair a n).axl = s.axl := (setReg_axl _ _ _).trans (setReg_axl s _ _)
@[simp] theorem setPair_cph (s : State) (a n : Nat) : (s.setPair a n).cph = s.cph := (setReg_cph _ _ _).trans (setReg_cph s _ _)
@[simp] theorem setPair_lbs (s : State) (a n : Nat) : (s.setPair a n).lbs = s.lbs := (setReg_lbs _ _ _).trans (setReg_lbs s _ _)
@[simp] theorem setPair_mem (s : State) (a n : Nat) : (s.setPair a n).mem = s.mem := (setReg_mem _ _ _).trans (setReg_mem s _ _)
@[simp] theorem setPair_flc (s : State) (a n : Nat) : (s.setPair a n).flc = s.flc := (setReg_flc _ _ _).trans (setReg_flc s _ _)
@[simp] theorem setPair_pwr (s : State) (a n : Nat) : (s.setPair a n).pwr = s.pwr := (setReg_pwr _ _ _).trans (setReg_pwr s _ _)
@[simp] theorem setPair_axlReq (s : State) (a n : Nat) : (s.setPair a n).axlReq = s.axlReq := (setReg_axlReq _ _ _).trans (setReg_axlReq s _ _)
@[simp] theorem setPair_tap (s : State) (a n : Nat) : (s.setPair a n).tap = s.tap := (setReg_tap _ _ _).trans (setReg_tap s _ _)
@[simp] theorem setPair_free (s : State) (a n : Nat) : (s.setPair a n).free = s.free := (setReg_free _ _ _).trans (setReg_free s _ _)
@[simp] theorem setPair_pending (s : State) (a n : Nat) : (s.setPair a n).pending = s.pending := (setReg_pending _ _ _).trans (setReg_pending s _ _)

@[simp] theorem bump64_latch (s : State) (a n : Nat) : (s.bump64 a n).latch = s.latch := setPair_latch s _ _
@[simp] theorem bump64_dram (s : State) (a n : Nat) : (s.bump64 a n).dram = s.dram := setPair_dram s _ _
@[simp] theorem bump64_psn (s : State) (a n : Nat) : (s.bump64 a n).psn = s.psn := setPair_psn s _ _
@[simp] theorem bump64_ang (s : State) (a n : Nat) : (s.bump64 a n).ang = s.ang := setPair_ang s _ _
@[simp] theorem bump64_acq (s : State) (a n : Nat) : (s.bump64 a n).acq = s.acq := setPair_acq s _ _
@[simp] theorem bump64_det (s : State) (a n : Nat) : (s.bump64 a n).det = s.det := setPair_det s _ _
@[simp] theorem bump64_dec (s : State) (a n : Nat) : (s.bump64 a n).dec = s.dec := setPair_dec s _ _
@[simp] theorem bump64_rcv (s : State) (a n : Nat) : (s.bump64 a n).rcv = s.rcv := setPair_rcv s _ _
@[simp] theorem bump64_disc (s : State) (a n : Nat) : (s.bump64 a n).disc = s.disc := setPair_disc s _ _
@[simp] theorem bump64_wrp (s : State) (a n : Nat) : (s.bump64 a n).wrp = s.wrp := setPair_wrp s _ _
@[simp] theorem bump64_srv (s : State) (a n : Nat) : (s.bump64 a n).srv = s.srv := setPair_srv s _ _
@[simp] theorem bump64_lsv (s : State) (a n : Nat) : (s.bump64 a n).lsv = s.lsv := setPair_lsv s _ _
@[simp] theorem bump64_spn (s : State) (a n : Nat) : (s.bump64 a n).spn = s.spn := setPair_spn s _ _
@[simp] theorem bump64_sld (s : State) (a n : Nat) : (s.bump64 a n).sld = s.sld := setPair_sld s _ _
@[simp] theorem bump64_hlk (s : State) (a n : Nat) : (s.bump64 a n).hlk = s.hlk := setPair_hlk s _ _
@[simp] theorem bump64_tsk (s : State) (a n : Nat) : (s.bump64 a n).tsk = s.tsk := setPair_tsk s _ _
@[simp] theorem bump64_seq (s : State) (a n : Nat) : (s.bump64 a n).seq = s.seq := setPair_seq s _ _
@[simp] theorem bump64_mir (s : State) (a n : Nat) : (s.bump64 a n).mir = s.mir := setPair_mir s _ _
@[simp] theorem bump64_axl (s : State) (a n : Nat) : (s.bump64 a n).axl = s.axl := setPair_axl s _ _
@[simp] theorem bump64_cph (s : State) (a n : Nat) : (s.bump64 a n).cph = s.cph := setPair_cph s _ _
@[simp] theorem bump64_lbs (s : State) (a n : Nat) : (s.bump64 a n).lbs = s.lbs := setPair_lbs s _ _
@[simp] theorem bump64_mem (s : State) (a n : Nat) : (s.bump64 a n).mem = s.mem := setPair_mem s _ _
@[simp] theorem bump64_flc (s : State) (a n : Nat) : (s.bump64 a n).flc = s.flc := setPair_flc s _ _
@[simp] theorem bump64_pwr (s : State) (a n : Nat) : (s.bump64 a n).pwr = s.pwr := setPair_pwr s _ _
@[simp] theorem bump64_axlReq (s : State) (a n : Nat) : (s.bump64 a n).axlReq = s.axlReq := setPair_axlReq s _ _
@[simp] theorem bump64_tap (s : State) (a n : Nat) : (s.bump64 a n).tap = s.tap := setPair_tap s _ _
@[simp] theorem bump64_free (s : State) (a n : Nat) : (s.bump64 a n).free = s.free := setPair_free s _ _
@[simp] theorem bump64_pending (s : State) (a n : Nat) : (s.bump64 a n).pending = s.pending := setPair_pending s _ _

@[simp] theorem setInt_latch (s : State) (a : Nat) (v : Int) : (s.setInt a v).latch = s.latch := setReg_latch s _ _
@[simp] theorem setInt_dram (s : State) (a : Nat) (v : Int) : (s.setInt a v).dram = s.dram := setReg_dram s _ _
@[simp] theorem setInt_psn (s : State) (a : Nat) (v : Int) : (s.setInt a v).psn = s.psn := setReg_psn s _ _
@[simp] theorem setInt_ang (s : State) (a : Nat) (v : Int) : (s.setInt a v).ang = s.ang := setReg_ang s _ _
@[simp] theorem setInt_acq (s : State) (a : Nat) (v : Int) : (s.setInt a v).acq = s.acq := setReg_acq s _ _
@[simp] theorem setInt_det (s : State) (a : Nat) (v : Int) : (s.setInt a v).det = s.det := setReg_det s _ _
@[simp] theorem setInt_dec (s : State) (a : Nat) (v : Int) : (s.setInt a v).dec = s.dec := setReg_dec s _ _
@[simp] theorem setInt_rcv (s : State) (a : Nat) (v : Int) : (s.setInt a v).rcv = s.rcv := setReg_rcv s _ _
@[simp] theorem setInt_disc (s : State) (a : Nat) (v : Int) : (s.setInt a v).disc = s.disc := setReg_disc s _ _
@[simp] theorem setInt_wrp (s : State) (a : Nat) (v : Int) : (s.setInt a v).wrp = s.wrp := setReg_wrp s _ _
@[simp] theorem setInt_srv (s : State) (a : Nat) (v : Int) : (s.setInt a v).srv = s.srv := setReg_srv s _ _
@[simp] theorem setInt_lsv (s : State) (a : Nat) (v : Int) : (s.setInt a v).lsv = s.lsv := setReg_lsv s _ _
@[simp] theorem setInt_spn (s : State) (a : Nat) (v : Int) : (s.setInt a v).spn = s.spn := setReg_spn s _ _
@[simp] theorem setInt_sld (s : State) (a : Nat) (v : Int) : (s.setInt a v).sld = s.sld := setReg_sld s _ _
@[simp] theorem setInt_hlk (s : State) (a : Nat) (v : Int) : (s.setInt a v).hlk = s.hlk := setReg_hlk s _ _
@[simp] theorem setInt_tsk (s : State) (a : Nat) (v : Int) : (s.setInt a v).tsk = s.tsk := setReg_tsk s _ _
@[simp] theorem setInt_seq (s : State) (a : Nat) (v : Int) : (s.setInt a v).seq = s.seq := setReg_seq s _ _
@[simp] theorem setInt_mir (s : State) (a : Nat) (v : Int) : (s.setInt a v).mir = s.mir := setReg_mir s _ _
@[simp] theorem setInt_axl (s : State) (a : Nat) (v : Int) : (s.setInt a v).axl = s.axl := setReg_axl s _ _
@[simp] theorem setInt_cph (s : State) (a : Nat) (v : Int) : (s.setInt a v).cph = s.cph := setReg_cph s _ _
@[simp] theorem setInt_lbs (s : State) (a : Nat) (v : Int) : (s.setInt a v).lbs = s.lbs := setReg_lbs s _ _
@[simp] theorem setInt_mem (s : State) (a : Nat) (v : Int) : (s.setInt a v).mem = s.mem := setReg_mem s _ _
@[simp] theorem setInt_flc (s : State) (a : Nat) (v : Int) : (s.setInt a v).flc = s.flc := setReg_flc s _ _
@[simp] theorem setInt_pwr (s : State) (a : Nat) (v : Int) : (s.setInt a v).pwr = s.pwr := setReg_pwr s _ _
@[simp] theorem setInt_axlReq (s : State) (a : Nat) (v : Int) : (s.setInt a v).axlReq = s.axlReq := setReg_axlReq s _ _
@[simp] theorem setInt_tap (s : State) (a : Nat) (v : Int) : (s.setInt a v).tap = s.tap := setReg_tap s _ _
@[simp] theorem setInt_free (s : State) (a : Nat) (v : Int) : (s.setInt a v).free = s.free := setReg_free s _ _
@[simp] theorem setInt_pending (s : State) (a : Nat) (v : Int) : (s.setInt a v).pending = s.pending := setReg_pending s _ _

end Sys2Proof.Machine.State
end

