-- ==== Sys2Proof/Laws/Regs.lean ====
section
/-! SUPPORT. Registers and fields: what a read gives after a write, of the same register or field and of another. -/

namespace Sys2Proof.Machine

set_option Elab.async false

/-! ## A field within a word -/

namespace RegField

theorem of_lt (f : RegField) (w : Word) : f.of w < 2 ^ f.width := Nat.mod_lt _ (Nat.two_pow_pos _)

/-- The number a word with a field replaced stands for: bit by bit. -/
theorem put_testBit (f : RegField) (w : Word) (v i : Nat) (hi : i < 32) :
    (f.put w v).toNat.testBit i = if f.lo ≤ i ∧ i < f.lo + f.width then v.testBit (i - f.lo) else w.toNat.testBit i := by
  obtain ⟨r, lo, n⟩ := f
  simp only [put, of, BitVec.toNat_ofNat]
  rw [Nat.testBit_mod_two_pow]
  simp only [hi, decide_true, Bool.true_and]
  have hsplit : w.toNat - w.toNat / 2 ^ lo % 2 ^ n * 2 ^ lo + v % 2 ^ n * 2 ^ lo
      = 2 ^ lo * (2 ^ n * (w.toNat / 2 ^ lo / 2 ^ n) + v % 2 ^ n) + w.toNat % 2 ^ lo := by
    have h1 := Nat.div_add_mod w.toNat (2 ^ lo)
    have h2 := Nat.div_add_mod (w.toNat / 2 ^ lo) (2 ^ n)
    have h3 : w.toNat = 2 ^ lo * (2 ^ n * (w.toNat / 2 ^ lo / 2 ^ n)) + w.toNat / 2 ^ lo % 2 ^ n * 2 ^ lo + w.toNat % 2 ^ lo := by
      calc w.toNat = 2 ^ lo * (w.toNat / 2 ^ lo) + w.toNat % 2 ^ lo := h1.symm
        _ = 2 ^ lo * (2 ^ n * (w.toNat / 2 ^ lo / 2 ^ n) + w.toNat / 2 ^ lo % 2 ^ n) + w.toNat % 2 ^ lo := by rw [h2]
        _ = _ := by ring
    have h4 : 2 ^ lo * (2 ^ n * (w.toNat / 2 ^ lo / 2 ^ n) + v % 2 ^ n) = 2 ^ lo * (2 ^ n * (w.toNat / 2 ^ lo / 2 ^ n)) + v % 2 ^ n * 2 ^ lo := by ring
    omega
  rw [hsplit, Nat.testBit_two_pow_mul_add _ (Nat.mod_lt _ (Nat.two_pow_pos _))]
  by_cases h : i < lo
  · have hn : ¬ (lo ≤ i ∧ i < lo + n) := by omega
    simp only [h, if_true, hn, if_false, Nat.testBit_mod_two_pow, decide_true, Bool.true_and]
  · simp only [h, if_false]
    rw [Nat.testBit_two_pow_mul_add _ (Nat.mod_lt _ (Nat.two_pow_pos _))]
    by_cases h' : i - lo < n
    · have hy : lo ≤ i ∧ i < lo + n := by omega
      simp only [h', if_true, hy, and_self, Nat.testBit_mod_two_pow, decide_true, Bool.true_and]
    · have hn : ¬ (lo ≤ i ∧ i < lo + n) := by omega
      simp only [h', if_false, hn, Nat.testBit_div_two_pow]
      congr 1; omega

theorem of_testBit (f : RegField) (w : Word) (i : Nat) : (f.of w).testBit i = (decide (i < f.width) && w.toNat.testBit (i + f.lo)) := by
  simp [of, Nat.testBit_mod_two_pow, Nat.testBit_div_two_pow]

/-- A field reads what was put into it. -/
theorem of_put_same (f : RegField) (w : Word) (v : Nat) (h : f.lo + f.width ≤ 32) : f.of (f.put w v) = v % 2 ^ f.width := by
  apply Nat.eq_of_testBit_eq
  intro i
  rw [of_testBit, Nat.testBit_mod_two_pow]
  by_cases hi : i < f.width
  · rw [put_testBit _ _ _ _ (by omega)]
    have hy : f.lo ≤ i + f.lo ∧ i + f.lo < f.lo + f.width := by omega
    simp [hi, hy]
  · simp [hi]

/-- A field beside it reads what it read. -/
theorem of_put_disjoint (f g : RegField) (w : Word) (v : Nat) (hg : g.lo + g.width ≤ 32)
    (h : g.lo + g.width ≤ f.lo ∨ f.lo + f.width ≤ g.lo) : g.of (f.put w v) = g.of w := by
  apply Nat.eq_of_testBit_eq
  intro i
  rw [of_testBit, of_testBit]
  by_cases hi : i < g.width
  · rw [put_testBit _ _ _ _ (by omega)]
    have hn : ¬ (f.lo ≤ i + g.lo ∧ i + g.lo < f.lo + f.width) := by omega
    simp [hi, hn]
  · simp [hi]

end RegField

namespace State

variable (s : State)

/-! ## Registers -/

@[simp] theorem reg_setReg_same (a : Nat) (w : Word) : (s.setReg a w).reg a = w := Sparse.get_set_same _ _ _ _
theorem reg_setReg_ne {a b : Nat} (h : b ≠ a) (w : Word) : (s.setReg a w).reg b = s.reg b := Sparse.get_set_ne _ _ _ h _
theorem reg_setReg (a b : Nat) (w : Word) : (s.setReg a w).reg b = if b = a then w else s.reg b := by
  by_cases h : b = a
  · simp [h]
  · simp [h, reg_setReg_ne s h]

theorem reg_wr_ne (f : RegField) (v : Nat) {b : Nat} (h : b ≠ f.reg) : (s.wr f v).reg b = s.reg b := reg_setReg_ne s h _
theorem reg_put_ne (f : RegField) (v : Bool) {b : Nat} (h : b ≠ f.reg) : (s.put f v).reg b = s.reg b := reg_setReg_ne s h _
theorem reg_bumpBy_ne (a n : Nat) {b : Nat} (h : b ≠ a) : (s.bumpBy a n).reg b = s.reg b := reg_setReg_ne s h _
theorem reg_bump_ne (a : Nat) {b : Nat} (h : b ≠ a) : (s.bump a).reg b = s.reg b := reg_setReg_ne s h _
theorem reg_bumpF_ne (f : RegField) {b : Nat} (h : b ≠ f.reg) : (s.bumpF f).reg b = s.reg b := reg_setReg_ne s h _
theorem reg_setInt_ne (a : Nat) (v : Int) {b : Nat} (h : b ≠ a) : (s.setInt a v).reg b = s.reg b := reg_setReg_ne s h _
theorem reg_setPair_ne (a n : Nat) {b : Nat} (h : b ≠ a) (h' : b ≠ a + 4) : (s.setPair a n).reg b = s.reg b := by
  unfold setPair; rw [reg_setReg_ne _ h', reg_setReg_ne _ h]
theorem reg_bump64_ne (a n : Nat) {b : Nat} (h : b ≠ a) (h' : b ≠ a + 4) : (s.bump64 a n).reg b = s.reg b := reg_setPair_ne s _ _ h h'

/-- A count goes up by `n`, and stops at all ones (R543). -/
@[simp] theorem reg_bumpBy_same (a n : Nat) : (s.bumpBy a n).reg a = BitVec.ofNat 32 (min (2 ^ 32 - 1) ((s.reg a).toNat + n)) := reg_setReg_same _ _ _
@[simp] theorem reg_bump_same (a : Nat) : (s.bump a).reg a = BitVec.ofNat 32 (min (2 ^ 32 - 1) ((s.reg a).toNat + 1)) := reg_setReg_same _ _ _
@[simp] theorem int_setInt_same (a : Nat) (v : Int) : (s.setInt a v).int a = (BitVec.ofInt 32 v).toInt := by simp [int, setInt]

/-- A pair reads what was put into it. -/
theorem pair_setPair_same (a n : Nat) : (s.setPair a n).pair a = n % 2 ^ 64 := by
  unfold pair setPair
  rw [reg_setReg_ne _ (by omega : a ≠ a + 4), reg_setReg_same, reg_setReg_same]
  simp only [BitVec.toNat_ofNat]; omega

/-! ## Fields -/

theorem rd_wr_same (f : RegField) (v : Nat) (h : f.lo + f.width ≤ 32) : (s.wr f v).rd f = v % 2 ^ f.width := by
  unfold rd wr; rw [reg_setReg_same, RegField.of_put_same _ _ _ h]
theorem rd_wr_disjoint (f g : RegField) (v : Nat) (hg : g.lo + g.width ≤ 32) (h : g.lo + g.width ≤ f.lo ∨ f.lo + f.width ≤ g.lo) :
    (s.wr f v).rd g = s.rd g := by
  unfold rd wr
  rw [reg_setReg]
  split
  · next e => rw [RegField.of_put_disjoint f g _ _ hg h, e]
  · rfl
theorem rd_setReg_ne (a : Nat) (w : Word) {g : RegField} (h : g.reg ≠ a) : (s.setReg a w).rd g = s.rd g := by
  unfold rd; rw [reg_setReg_ne _ h]
theorem rd_setReg_same (w : Word) (g : RegField) : (s.setReg g.reg w).rd g = g.of w := by simp [rd]
theorem rd_wr_ne (f : RegField) (v : Nat) {g : RegField} (h : g.reg ≠ f.reg) : (s.wr f v).rd g = s.rd g := rd_setReg_ne s _ _ h
theorem rd_put_ne (f : RegField) (b : Bool) {g : RegField} (h : g.reg ≠ f.reg) : (s.put f b).rd g = s.rd g := rd_setReg_ne s _ _ h
theorem rd_bump_ne (a : Nat) {g : RegField} (h : g.reg ≠ a) : (s.bump a).rd g = s.rd g := rd_setReg_ne s _ _ h
theorem rd_bumpBy_ne (a n : Nat) {g : RegField} (h : g.reg ≠ a) : (s.bumpBy a n).rd g = s.rd g := rd_setReg_ne s _ _ h
theorem rd_put_disjoint (f g : RegField) (b : Bool) (hg : g.lo + g.width ≤ 32) (h : g.lo + g.width ≤ f.lo ∨ f.lo + f.width ≤ g.lo) :
    (s.put f b).rd g = s.rd g := rd_wr_disjoint s f g _ hg h
theorem flag_put_same (f : RegField) (b : Bool) (h : f.lo + f.width ≤ 32) (hw : f.width = 1) : (s.put f b).flag f = b := by
  unfold flag put; rw [rd_wr_same _ _ _ h, hw]; cases b <;> rfl
theorem flag_setReg_ne (a : Nat) (w : Word) {g : RegField} (h : g.reg ≠ a) : (s.setReg a w).flag g = s.flag g := by
  unfold flag; rw [rd_setReg_ne _ _ _ h]
theorem flag_wr_ne (f : RegField) (v : Nat) {g : RegField} (h : g.reg ≠ f.reg) : (s.wr f v).flag g = s.flag g := flag_setReg_ne s _ _ h
theorem flag_put_ne (f : RegField) (b : Bool) {g : RegField} (h : g.reg ≠ f.reg) : (s.put f b).flag g = s.flag g := flag_setReg_ne s _ _ h
theorem flag_bump_ne (a : Nat) {g : RegField} (h : g.reg ≠ a) : (s.bump a).flag g = s.flag g := flag_setReg_ne s _ _ h
theorem flag_put_disjoint (f g : RegField) (b : Bool) (hg : g.lo + g.width ≤ 32) (h : g.lo + g.width ≤ f.lo ∨ f.lo + f.width ≤ g.lo) :
    (s.put f b).flag g = s.flag g := by unfold flag; rw [rd_put_disjoint _ _ _ _ hg h]

/-- The registers of a record update that leaves `regs` alone. -/
theorem reg_of_regs {s t : State} (h : t.regs = s.regs) (a : Nat) : t.reg a = s.reg a := by unfold reg; rw [h]
theorem rd_of_regs {s t : State} (h : t.regs = s.regs) (f : RegField) : t.rd f = s.rd f := by unfold rd; rw [reg_of_regs h]

/-! ## DRAM and the latches -/

/-- A byte stored reads back; every other byte is unchanged. -/
theorem dramByte_setDram (a b : Nat) (v : Byte) : (s.setDram a v).dramByte b = if b = a ∧ a < 2 ^ 34 then v else s.dramByte b := by
  unfold setDram
  split
  · next ha =>
    by_cases h : b = a
    · subst h; rw [if_pos ⟨rfl, ha⟩]; exact Sparse.get_set_same _ _ _ _
    · rw [if_neg (fun q => h q.1)]; exact Sparse.get_set_ne _ _ _ h _
  · next ha => rw [if_neg (fun q => ha q.2)]

theorem latched_latchHi_same (m : Master) (hi : Nat) (w : Word) : (s.latchHi m hi w).latched m hi = w := Sparse.get_set_same _ _ _ _

end State

end Sys2Proof.Machine
end

