-- ==== Sys2Proof/Laws/Frame.lean ====
section
/-! SUPPORT. Frames: a chain of register updates changes registers only, and of those the ones it names. -/

namespace Sys2Proof.Machine

set_option Elab.async false

namespace OnlyRegs

variable {as : List Nat} {s t u : State}

theorem refl : OnlyRegs as s s := ⟨rfl, fun _ _ => rfl⟩
theorem of_eq (h : t = s) : OnlyRegs as s t := h ▸ refl

theorem setReg (h : OnlyRegs as s t) {a : Nat} (ha : a ∈ as) (w : Word) : OnlyRegs as s (t.setReg a w) := by
  obtain ⟨h1, h2⟩ := h
  refine ⟨?_, fun b hb => ?_⟩
  · unfold State.setReg
    generalize Sparse.set (resetWord a) t.regs a w = r
    rw [h1]
  · have hn : b ≠ a := fun e => hb (e ▸ ha)
    rw [State.reg_setReg_ne _ hn, h2 b hb]

theorem wr (h : OnlyRegs as s t) {f : RegField} (ha : f.reg ∈ as) (v : Nat) : OnlyRegs as s (t.wr f v) := h.setReg ha _
theorem put (h : OnlyRegs as s t) {f : RegField} (ha : f.reg ∈ as) (b : Bool) : OnlyRegs as s (t.put f b) := h.setReg ha _
theorem bumpBy (h : OnlyRegs as s t) {a : Nat} (ha : a ∈ as) (n : Nat) : OnlyRegs as s (t.bumpBy a n) := h.setReg ha _
theorem bump (h : OnlyRegs as s t) {a : Nat} (ha : a ∈ as) : OnlyRegs as s (t.bump a) := h.setReg ha _
theorem bumpF (h : OnlyRegs as s t) {f : RegField} (ha : f.reg ∈ as) : OnlyRegs as s (t.bumpF f) := h.setReg ha _
theorem setInt (h : OnlyRegs as s t) {a : Nat} (ha : a ∈ as) (v : Int) : OnlyRegs as s (t.setInt a v) := h.setReg ha _
theorem setPair (h : OnlyRegs as s t) {a : Nat} (ha : a ∈ as) (hb : a + 4 ∈ as) (n : Nat) : OnlyRegs as s (t.setPair a n) :=
  (h.setReg ha _).setReg hb _
theorem bump64 (h : OnlyRegs as s t) {a : Nat} (ha : a ∈ as) (hb : a + 4 ∈ as) (n : Nat) : OnlyRegs as s (t.bump64 a n) :=
  h.setPair ha hb _
theorem ite {c : Prop} [Decidable c] {x y : State} (hx : OnlyRegs as s x) (hy : OnlyRegs as s y) :
    OnlyRegs as s (if c then x else y) := by split <;> assumption

theorem mono {bs : List Nat} (h : OnlyRegs as s t) (hs : as ⊆ bs) : OnlyRegs bs s t := ⟨h.1, fun a ha => h.2 a (fun q => ha (hs q))⟩

end OnlyRegs

namespace RegsBut

variable {as : List Nat} {s t u : State}

theorem refl : RegsBut as s s := fun _ _ => rfl
theorem trans (h : RegsBut as s t) (k : RegsBut as t u) : RegsBut as s u := fun a ha => (k a ha).trans (h a ha)
theorem of_regs (h : RegsBut as s t) (e : u.regs = t.regs) : RegsBut as s u := fun a ha => (State.reg_of_regs e a).trans (h a ha)
theorem setReg (h : RegsBut as s t) {a : Nat} (ha : a ∈ as) (w : Word) : RegsBut as s (t.setReg a w) := fun b hb => by
  have hn : b ≠ a := fun e => hb (e ▸ ha)
  rw [State.reg_setReg_ne _ hn, h b hb]
theorem wr (h : RegsBut as s t) {f : RegField} (ha : f.reg ∈ as) (v : Nat) : RegsBut as s (t.wr f v) := h.setReg ha _
theorem put (h : RegsBut as s t) {f : RegField} (ha : f.reg ∈ as) (b : Bool) : RegsBut as s (t.put f b) := h.setReg ha _
theorem bump (h : RegsBut as s t) {a : Nat} (ha : a ∈ as) : RegsBut as s (t.bump a) := h.setReg ha _

end RegsBut

/-! ## Telling of an event -/

namespace Noted

variable {as : List Nat} {s t u : State}

theorem refl : Noted as s s := ⟨rfl, fun _ _ _ => rfl⟩

theorem trans (h : Noted as s t) (k : Noted as t u) : Noted as s u := by
  refine ⟨?_, fun a ha hn => (k.2 a ha hn).trans (h.2 a ha hn)⟩
  have e1 := h.1
  have e2 := k.1
  generalize t.regs = r at e1
  generalize t.hlk = x at e1
  subst e1
  exact e2

theorem of_only (h : OnlyRegs as s t) : Noted as s t := by
  refine ⟨?_, fun a ha _ => h.2 a ha⟩
  have e := h.1
  generalize t.regs = r at e
  subst e
  rfl

theorem setReg (h : Noted as s t) {a : Nat} (ha : a ∈ as ∨ a ∈ noteRegs) (w : Word) : Noted as s (t.setReg a w) := by
  refine h.trans ⟨?_, fun b hb hn => ?_⟩
  · unfold State.setReg
    generalize Sparse.set (resetWord a) t.regs a w = r
    rfl
  · have hne : b ≠ a := fun e => ha.elim (e ▸ hb) (e ▸ hn)
    rw [State.reg_setReg_ne _ hne]

theorem wr (h : Noted as s t) {f : RegField} (ha : f.reg ∈ as ∨ f.reg ∈ noteRegs) (v : Nat) : Noted as s (t.wr f v) := h.setReg ha _
theorem put (h : Noted as s t) {f : RegField} (ha : f.reg ∈ as ∨ f.reg ∈ noteRegs) (b : Bool) : Noted as s (t.put f b) := h.setReg ha _
theorem bumpBy (h : Noted as s t) {a : Nat} (ha : a ∈ as ∨ a ∈ noteRegs) (n : Nat) : Noted as s (t.bumpBy a n) := h.setReg ha _
theorem bump (h : Noted as s t) {a : Nat} (ha : a ∈ as ∨ a ∈ noteRegs) : Noted as s (t.bump a) := h.setReg ha _
theorem bump64 (h : Noted as s t) {a : Nat} (ha : a ∈ as ∨ a ∈ noteRegs) (hb : a + 4 ∈ as ∨ a + 4 ∈ noteRegs) (n : Nat) :
    Noted as s (t.bump64 a n) := (h.setReg ha _).setReg hb _
theorem modPort (h : Noted as s t) (p : Fin 3) (f : HlkPort → HlkPort) : Noted as s (t.modPort p f) :=
  h.trans ⟨rfl, fun _ _ _ => rfl⟩
theorem ite {c : Prop} [Decidable c] {x y : State} (hx : Noted as s x) (hy : Noted as s y) : Noted as s (if c then x else y) := by
  split <;> assumption

theorem mem_send (p : Fin 3) : Reg.HLK_P_CRED p ∈ noteRegs ∧ Reg.HLK_P_STAT p ∈ noteRegs ∧ Reg.HLK_P_TX_CNT_LO p ∈ noteRegs ∧
    Reg.HLK_P_TX_CNT_LO p + 4 ∈ noteRegs := by revert p; decide
theorem mem_counter : ∀ k, k < 8 → Reg.PMC_CNT_LO k ∈ noteRegs ∧ Reg.PMC_CNT_HI k ∈ noteRegs := by decide

theorem creditBack (h : Noted as s t) (f : Flit) : Noted as s (t.creditBack f) := by
  unfold State.creditBack; split
  · exact h
  · exact h.modPort _ _

theorem launch (h : Noted as s t) (p : Fin 3) {cred : RegField} (hc : cred.reg = Reg.HLK_P_CRED p) (f : Flit) :
    Noted as s (t.launch p cred f) := by
  obtain ⟨h1, h2, h3, h4⟩ := mem_send p
  exact (((((h.creditBack f).modPort p _).modPort p _).wr (.inr (hc ▸ h1)) _).wr (.inr h2) _).bump64 (.inr h3) (.inr h4) _

theorem pump (p : Fin 3) : ∀ (n : Nat) {t : State}, Noted as s t → Noted as s (State.pump p n t)
  | 0, _, h => h
  | n + 1, t, h => by
    unfold State.pump
    extract_lets q next
    refine ite ?_ h
    split
    · exact pump p n ((h.modPort p _).launch p (cred := F.HLK_P_CRED_C p) rfl _)
    · exact pump p n ((h.modPort p _).launch p (cred := F.HLK_P_CRED_D p) rfl _)
    · exact h

/-- A flit is queued and sent: the port's registers, and the ports. -/
theorem sendFlit (h : Noted as s t) (p : Fin 3) (f : Flit) : Noted as s (t.sendFlit p f) := by
  obtain ⟨_, _, h3, h4⟩ := mem_send p
  unfold State.sendFlit
  split
  · exact pump p _ (h.modPort p _)
  · exact (h.modPort p _).bump64 (.inr h3) (.inr h4) _

theorem eventFlit (h : Noted as s t) (p : Fin 3) (code arg : Nat) : Noted as s (t.eventFlit p code arg) :=
  (h.setReg (.inr (by decide)) _).sendFlit p _

theorem attention (h : Noted as s t) (blk : Nat) : Noted as s (t.attention blk) := by
  unfold State.attention; split
  · exact h.eventFlit _ _ _
  · exact h

theorem mirrSend (h : Noted as s t) (kind : Nat) (body : List Byte) : Noted as s (t.mirrSend kind body) := by
  unfold State.mirrSend; split
  · exact (h.setReg (.inr (by decide)) _).sendFlit _ _
  · exact h

theorem mirrRecord (h : Noted as s t) (kind : Nat) (body : List Byte) : Noted as s (t.mirrRecord kind body) := by
  unfold State.mirrRecord; split
  · exact (h.mirrSend kind body).bump (.inr (by decide))
  · exact h

theorem pmcAdd : ∀ (fuel k n : Nat) {t : State}, k < 8 → Noted as s t → Noted as s (State.pmcAdd fuel k n t)
  | 0, _, _, _, _, h => h
  | fuel + 1, k, n, t, hk, h => by
    obtain ⟨h1, h2⟩ := mem_counter k hk
    unfold State.pmcAdd
    extract_lets v t1 t2 t3
    have g : Noted as s t2 := (h.setReg (.inr h1) _).setReg (.inr h2) _
    split
    · exact g
    · have g3 : Noted as s t3 := g.wr (.inr (by decide : F.PMC_OVF_OVF.reg ∈ noteRegs)) _
      split
      · next hc =>
        have hk' : k + 1 < 8 := by
          simp only [State.pmcChained, Bool.and_eq_true, decide_eq_true_eq] at hc; exact hc.1
        split
        · exact pmcAdd fuel (k + 1) 1 hk' g3
        · exact g3
      · split
        · exact g3.attention _
        · exact g3

theorem forEach {α : Type} (l : List α) (f : α → State → State) (hf : ∀ a ∈ l, ∀ t, Noted as s t → Noted as s (f a t)) :
    ∀ {t : State}, Noted as s t → Noted as s (forEach l f t) := by
  induction l with
  | nil => exact fun h => h
  | cons a r ih => exact fun h => ih (fun b hb => hf b (List.mem_cons_of_mem _ hb)) (hf a List.mem_cons_self _ h)

theorem pmcCount (h : Noted as s t) (sel : Nat → Bool) (n : Nat) : Noted as s (t.pmcCount sel n) := by
  refine forEach _ _ (fun k hk t h => ?_) h
  have hk8 : k < 8 := List.mem_range.mp hk
  exact ite (pmcAdd 8 k n hk8 h) h

theorem pmcEvent (h : Noted as s t) (cls master : Nat) (cust : Option Bool) (addr : Option (Bool × Nat)) (n : Nat) :
    Noted as s (t.pmcEvent cls master cust addr n) := h.pmcCount _ _
theorem pmcLane (h : Noted as s t) (cls l n : Nat) : Noted as s (t.pmcLane cls l n) := h.pmcCount _ _
theorem pmcEdge (h : Noted as s t) (sig : Nat) : Noted as s (t.pmcEdge sig) := h.pmcCount _ _
theorem pmcRise (h : Noted as s t) (sig : Nat) (was is_ : Bool) : Noted as s (t.pmcRise sig was is_) := by
  unfold State.pmcRise; split
  · exact h.pmcEdge sig
  · exact h

/-- Raising an event moves its pending word or the count of merged events. -/
theorem event (h : Noted as s t) (n : Nat) (h1 : Reg.SEQ_EVT_PEND (n / 32) ∈ as) (h2 : Reg.SEQ_EVT_MERGE_CNT ∈ as) :
    Noted as s (t.event n) := by
  unfold State.event; split
  · exact h.bump (.inl h2)
  · exact h.setReg (.inl h1) _

end Noted

end Sys2Proof.Machine
end

