-- ==== Sys2Proof/Laws/Kept.lean ====
section
/-! SUPPORT. What every operation of the model keeps, said once in one predicate: the canonical form of every memory, a fused
configuration key, the factory map and the queue of waiting commands. -/

namespace Sys2Proof.Machine

set_option Elab.async false

/-- `s` has all its memories in canonical form, its configuration key is fused as `key` names (when it names one), its factory map is
`fac`, and `q` waits. -/
structure Kept (key : Option (List Byte)) (fac : List Dword) (q : List Instr) (s : State) : Prop where
  canon : s.Canonical
  fused : ∀ k, key = some k → s.Fused k
  fac   : s.axl.factory = fac
  queue : s.pending = q

namespace Kept

variable {key : Option (List Byte)} {fac : List Dword} {q : List Instr} {s t : State}

/-- Everything `Kept` looks at. -/
def view (s : State) := (s.regs, s.latch, s.dram, s.seq.sram, s.seq.cs, s.cph.cfgKey, s.cph.op, s.cph.buf, s.lbs.win, s.flc.words,
  s.flc.progs, s.axl.factory, s.pending)

/-- An update that touches none of it. -/
theorem of_view (h : Kept key fac q s) (e : view t = view s) : Kept key fac q t := by
  simp only [view, Prod.mk.injEq] at e
  obtain ⟨e1, e2, e3, e4, e5, e6, e7, e8, e9, e10, e11, e12, e13⟩ := e
  exact ⟨⟨e1 ▸ h.canon.regs, e2 ▸ h.canon.latch, e3 ▸ h.canon.dram, e4 ▸ h.canon.sram, e5 ▸ h.canon.cs, e8 ▸ h.canon.buf,
    e9 ▸ h.canon.win, e10 ▸ h.canon.flash, e11 ▸ h.canon.progs⟩,
    fun k hk => ⟨e6 ▸ (h.fused k hk).key, e7 ▸ (h.fused k hk).idle⟩, e12.trans h.fac, e13.trans h.queue⟩

/-- An update of the parts that `Kept` does not look at. -/
theorem upd (h : Kept key fac q s) {psn ang acq det dec rcv disc wrp srv lsv spn sld hlk tsk mir mem pwr axlReq tap free}
    {seq : Seq} {axl : Axl} {cph : Cph} {lbs : Lbs} {flc : Flc}
    (e : (seq.sram = s.seq.sram ∧ seq.cs = s.seq.cs) ∧ axl.factory = s.axl.factory ∧
      (cph.cfgKey = s.cph.cfgKey ∧ cph.op = s.cph.op ∧ cph.buf = s.cph.buf) ∧ lbs.win = s.lbs.win ∧
      flc.words = s.flc.words ∧ flc.progs = s.flc.progs := by exact ⟨⟨rfl, rfl⟩, rfl, ⟨rfl, rfl, rfl⟩, rfl, rfl, rfl⟩) :
    Kept key fac q ⟨s.regs, s.latch, s.dram, psn, ang, acq, det, dec, rcv, disc, wrp, srv, lsv, spn, sld, hlk, tsk, seq, mir, axl, cph,
      lbs, mem, flc, pwr, axlReq, tap, free, s.pending⟩ := by
  obtain ⟨⟨e1, e2⟩, e3, ⟨e4, e5, e6⟩, e7, e8, e9⟩ := e
  exact h.of_view (by simp only [view, e1, e2, e3, e4, e5, e6, e7, e8, e9])

/-- The state a pair carries, and the state an option or an outcome carries. -/
theorem snd {α : Type} {p : α × State} {a : α} (e : p = (a, t)) (h : Kept key fac q p.2) : Kept key fac q t := by subst e; exact h
theorem snd2 {α β : Type} {p : α × β × State} {a : α} {b : β} (e : p = (a, b, t)) (h : Kept key fac q p.2.2) : Kept key fac q t := by
  subst e; exact h
theorem snd3 {α β γ : Type} {p : α × β × γ × State} {a : α} {b : β} {c : γ} (e : p = (a, b, c, t)) (h : Kept key fac q p.2.2.2) :
    Kept key fac q t := by subst e; exact h
theorem ofOption {o : Option State} (e : o = some t) (h : ∀ t, o = some t → Kept key fac q t) : Kept key fac q t := h t e

/-- An update that leaves CPH's structure alone. -/
theorem fusedOf (h : Kept key fac q s) (e : t.cph = s.cph) : ∀ k, key = some k → t.Fused k :=
  fun k hk => ⟨e ▸ (h.fused k hk).key, e ▸ (h.fused k hk).idle⟩

/-- A new structure for CPH, with the key as it was and no storing of one, and the sealed buffer in form. -/
theorem ofCph (h : Kept key fac q s) {c : Cph} (hk : ∀ k, key = some k → c.cfgKey = some k)
    (ho : ∀ k, key = some k → ∀ a b, c.op ≠ some (.store 0x12 a b)) (hb : Sparse.wf (fun _ => (0 : Byte)) c.buf = true) :
    Kept key fac q { s with cph := c } :=
  ⟨{ h.canon with buf := hb }, fun k e => ⟨hk k e, ho k e⟩, h.fac, h.queue⟩
theorem keyIs (h : Kept key fac q s) : ∀ k, key = some k → s.cph.cfgKey = some k := fun k hk => (h.fused k hk).key
theorem idleIs (h : Kept key fac q s) : ∀ k, key = some k → ∀ a b, s.cph.op ≠ some (.store 0x12 a b) := fun k hk => (h.fused k hk).idle

/-- New structures for FLC and SEQ whose memories are in form. -/
theorem ofFlc (h : Kept key fac q s) {f : Flc} (hw : Sparse.wf (fun _ => erasedWord) f.words = true)
    (hp : Sparse.wf (fun _ => (0 : Nat)) f.progs = true) : Kept key fac q { s with flc := f } :=
  ⟨{ h.canon with flash := hw, progs := hp }, h.fusedOf rfl, h.fac, h.queue⟩
theorem ofSeq (h : Kept key fac q s) {c : Seq} (hs : Sparse.wf (fun _ => (0 : Byte)) c.sram = true)
    (hc : Sparse.wf (fun _ => BitVec.allOnes 128) c.cs = true) : Kept key fac q { s with seq := c } :=
  ⟨{ h.canon with sram := hs, cs := hc }, h.fusedOf rfl, h.fac, h.queue⟩

/-- One step of a chain: what holds of the value of a let holds behind it. -/
theorem cut {x : State} (hx : Kept key fac q x) (hp : Kept key fac q x → Kept key fac q t) : Kept key fac q t := hp hx

theorem ite {c : Prop} [Decidable c] {a b : State} (ha : Kept key fac q a) (hb : Kept key fac q b) :
    Kept key fac q (if c then a else b) := by split <;> assumption

theorem iteOf {c : Prop} [Decidable c] {a b : State} (ha : c → Kept key fac q a) (hb : ¬ c → Kept key fac q b) :
    Kept key fac q (if c then a else b) := by split <;> simp_all

theorem dite {c : Prop} [Decidable c] {a : c → State} {b : ¬ c → State} (ha : ∀ h, Kept key fac q (a h)) (hb : ∀ h, Kept key fac q (b h)) :
    Kept key fac q (if h : c then a h else b h) := by split <;> simp_all

theorem foldl {α : Type} {f : State → α → State} (hf : ∀ s a, Kept key fac q s → Kept key fac q (f s a)) :
    ∀ (l : List α) {s : State}, Kept key fac q s → Kept key fac q (l.foldl f s)
  | [], _, h => h
  | a :: l, _, h => foldl hf l (hf _ a h)

theorem forEach {α : Type} {l : List α} {f : α → State → State} (hf : ∀ a s, Kept key fac q s → Kept key fac q (f a s))
    (h : Kept key fac q s) : Kept key fac q (forEach l f s) := foldl (fun s a => hf a s) l h

/-! ## Registers, the latches and DRAM -/

theorem setReg (h : Kept key fac q s) (a : Nat) (w : Word) : Kept key fac q (s.setReg a w) :=
  ⟨{ h.canon with regs := Sparse.wf_set resetWord _ _ _ h.canon.regs }, h.fusedOf rfl, h.fac, h.queue⟩
theorem wr (h : Kept key fac q s) (f : RegField) (v : Nat) : Kept key fac q (s.wr f v) := h.setReg _ _
theorem put (h : Kept key fac q s) (f : RegField) (b : Bool) : Kept key fac q (s.put f b) := h.setReg _ _
theorem bumpBy (h : Kept key fac q s) (a n : Nat) : Kept key fac q (s.bumpBy a n) := h.setReg _ _
theorem bump (h : Kept key fac q s) (a : Nat) : Kept key fac q (s.bump a) := h.setReg _ _
theorem bumpF (h : Kept key fac q s) (f : RegField) : Kept key fac q (s.bumpF f) := h.setReg _ _
theorem setPair (h : Kept key fac q s) (a n : Nat) : Kept key fac q (s.setPair a n) := (h.setReg _ _).setReg _ _
theorem bump64 (h : Kept key fac q s) (a n : Nat) : Kept key fac q (s.bump64 a n) := h.setPair _ _
theorem setInt (h : Kept key fac q s) (a : Nat) (v : Int) : Kept key fac q (s.setInt a v) := h.setReg _ _

theorem latchHi (h : Kept key fac q s) (m : Master) (hi : Nat) (w : Word) : Kept key fac q (s.latchHi m hi w) :=
  ⟨{ h.canon with latch := Sparse.wf_set (fun _ => (0 : Word)) _ _ _ h.canon.latch }, h.fusedOf rfl, h.fac, h.queue⟩

theorem setDram (h : Kept key fac q s) (a : Nat) (b : Byte) : Kept key fac q (s.setDram a b) := by
  unfold State.setDram
  exact ite ⟨{ h.canon with dram := Sparse.wf_set (fun _ => (0 : Byte)) _ _ _ h.canon.dram }, h.fusedOf rfl, h.fac, h.queue⟩ h

theorem setDramBytes : ∀ (bs : List Byte) {s : State} (a : Nat), Kept key fac q s → Kept key fac q (s.setDramBytes a bs)
  | [], _, _, h => h
  | b :: r, _, a, h => setDramBytes r (a + 1) (h.setDram a b)

end Kept

/-- The state that an option holds, when it holds one, is so kept. -/
def KeptOpt (key : Option (List Byte)) (fac : List Dword) (q : List Instr) (o : Option State) : Prop := ∀ t, o = some t → Kept key fac q t

/-- The next state that an outcome names, when it names one, is so kept. -/
def KeptOut (key : Option (List Byte)) (fac : List Dword) (q : List Instr) (o : Host.Outcome State Fault Refusal) : Prop :=
  ∀ t, o = .next t → Kept key fac q t

namespace KeptOpt

variable {key : Option (List Byte)} {fac : List Dword} {q : List Instr} {a : Nat}

theorem onReg {r : Nat} {f : Unit → State} (h : ∀ u, Kept key fac q (f u)) : KeptOpt key fac q (onReg a r f) := by
  intro t e
  unfold Machine.onReg at e
  split at e
  · cases e; exact h ()
  · cases e

theorem onArr {base stride n : Nat} {f : Nat → State} (h : ∀ i, Kept key fac q (f i)) : KeptOpt key fac q (onArr a base stride n f) := by
  intro t e
  unfold Machine.onArr at e
  split at e
  · cases e; exact h _
  · cases e

theorem onSlot {base : Nat} {f : Stepper → State} (h : ∀ i, Kept key fac q (f i)) : KeptOpt key fac q (onSlot a base f) := by
  intro t e
  unfold Machine.onSlot at e
  split at e
  · obtain ⟨i, _, rfl⟩ := Option.map_eq_some_iff.mp e
    exact h _
  · cases e

theorem orElse {x y : Option State} (hx : KeptOpt key fac q x) (hy : KeptOpt key fac q y) : KeptOpt key fac q (x <|> y) := by
  intro t e
  cases x with
  | none => exact hy t (by simpa using e)
  | some v => exact hx t (by simpa using e)

theorem guard {c : Prop} [Decidable c] {s : State} (h : Kept key fac q s) : KeptOpt key fac q (if c then some s else none) := by
  intro t e
  split at e
  · cases e; exact h
  · cases e

end KeptOpt

theorem KeptOut.next {key : Option (List Byte)} {fac : List Dword} {q : List Instr} {s : State} (h : Kept key fac q s) :
    KeptOut key fac q (.next s) := fun _ e => by cases e; exact h

theorem KeptOut.ite {key : Option (List Byte)} {fac : List Dword} {q : List Instr} {c : Prop} [Decidable c]
    {x y : Host.Outcome State Fault Refusal} (hx : KeptOut key fac q x) (hy : KeptOut key fac q y) :
    KeptOut key fac q (if c then x else y) := by split <;> assumption

theorem KeptOut.dite {key : Option (List Byte)} {fac : List Dword} {q : List Instr} {c : Prop} [Decidable c]
    {x : c → Host.Outcome State Fault Refusal} {y : ¬ c → Host.Outcome State Fault Refusal} (hx : ∀ h, KeptOut key fac q (x h))
    (hy : ∀ h, KeptOut key fac q (y h)) : KeptOut key fac q (if h : c then x h else y h) := by split <;> simp_all

end Sys2Proof.Machine
end

