-- ==== Sys2Proof/Laws/KeptOps.lean ====
section
/-! SUPPORT. What the shared operations keep: one lemma each, of which the lemmas of the blocks are made. -/

set_option linter.unusedTactic false
set_option linter.unreachableTactic false

namespace Sys2Proof.Machine.Kept

set_option Elab.async false

variable {key : Option (List Byte)} {fac : List Dword} {q : List Instr}

theorem draw {s : State} (h : Kept key fac q s) :
    Kept key fac q (State.draw s).2 := by
  unfold State.draw
  with_reducible repeat' first | assumption | intro _ | apply ite | apply dite | apply foldl | split | refine upd ?_

theorem clock {s : State} (h : Kept key fac q s) :
    Kept key fac q (State.clock s) := by
  unfold State.clock
  with_reducible repeat' first | assumption | intro _ | apply draw | apply bump64 | apply ite | apply dite | apply foldl | refine snd ‹_› ?_ | split | refine upd ?_

theorem tick {s : State} (h : Kept key fac q s) :
    Kept key fac q (State.tick s) := by
  unfold State.tick
  with_reducible repeat' first | assumption | intro _ | apply draw | apply setPair | apply ite | apply dite | apply foldl | refine snd ‹_› ?_ | split | refine upd ?_

theorem event {s : State} {n : Nat} (h : Kept key fac q s) :
    Kept key fac q (State.event s n) := by
  unfold State.event
  with_reducible repeat' first | assumption | intro _ | apply bump | apply setReg | apply ite | apply dite | apply foldl | split | refine upd ?_

theorem evClear {s : State} {n : Nat} (h : Kept key fac q s) :
    Kept key fac q (State.evClear s n) := by
  unfold State.evClear
  with_reducible repeat' first | assumption | intro _ | apply setReg | apply ite | apply dite | apply foldl | split | refine upd ?_

theorem seqFire {s : State} {arg : BitVec 16} (h : Kept key fac q s) :
    Kept key fac q (State.seqFire s arg) := by
  unfold State.seqFire
  with_reducible repeat' first | assumption | intro _ | apply put | apply ite | apply dite | apply foldl | split | refine upd ?_

theorem modPort {s : State} {p : Fin 3} {f : HlkPort → HlkPort} (h : Kept key fac q s) :
    Kept key fac q (State.modPort s p f) := by
  unfold State.modPort
  with_reducible repeat' first | assumption | intro _ | apply ite | apply dite | apply foldl | split | refine upd ?_

theorem creditBack {s : State} {f : Flit} (h : Kept key fac q s) :
    Kept key fac q (State.creditBack s f) := by
  unfold State.creditBack
  with_reducible repeat' first | assumption | intro _ | apply modPort | apply ite | apply dite | apply foldl | refine snd ‹_› ?_ | split | refine upd ?_

theorem launch {s : State} {p : Fin 3} {cred : RegField} {f : Flit} (h : Kept key fac q s) :
    Kept key fac q (State.launch s p cred f) := by
  unfold State.launch
  with_reducible repeat' first | assumption | intro _ | apply creditBack | apply modPort | apply wr | apply bump64 | apply ite | apply dite | apply foldl | split | refine upd ?_

theorem pump {p : Fin 3} {x1 : Nat} {x2 : State} (hx2 : Kept key fac q x2) :
    Kept key fac q (State.pump p x1 x2) := by
  induction x1 generalizing p x2 with
  | zero =>
    unfold State.pump
    with_reducible repeat' first | assumption | intro _ | apply modPort | apply launch | apply ite | apply dite | apply foldl | refine snd ‹_› ?_ | split | refine upd ?_
  | succ _ ih =>
    unfold State.pump
    with_reducible repeat' first | assumption | intro _ | apply ih | apply modPort | apply launch | apply ite | apply dite | apply foldl | refine snd ‹_› ?_ | split | refine upd ?_

theorem sendFlit {s : State} {p : Fin 3} {f : Flit} (h : Kept key fac q s) :
    Kept key fac q (State.sendFlit s p f) := by
  unfold State.sendFlit
  with_reducible repeat' first | assumption | intro _ | apply modPort | apply pump | apply bump64 | apply ite | apply dite | apply foldl | split | refine upd ?_

theorem mirrSend {s : State} {kind : Nat} {body : List Byte} (h : Kept key fac q s) :
    Kept key fac q (State.mirrSend s kind body) := by
  unfold State.mirrSend
  with_reducible repeat' first | assumption | intro _ | apply setReg | apply sendFlit | apply ite | apply dite | apply foldl | split | refine upd ?_

theorem mirrRecord {s : State} {kind : Nat} {body : List Byte} (h : Kept key fac q s) :
    Kept key fac q (State.mirrRecord s kind body) := by
  unfold State.mirrRecord
  with_reducible repeat' first | assumption | intro _ | apply mirrSend | apply bump | apply ite | apply dite | apply foldl | split | refine upd ?_

theorem mirrDisc {s : State} (h : Kept key fac q s) :
    Kept key fac q (State.mirrDisc s) := by
  unfold State.mirrDisc
  with_reducible repeat' first | assumption | intro _ | apply mirrRecord | apply ite | apply dite | apply foldl | split | refine upd ?_

theorem eventFlit {s : State} {p : Fin 3} {code : Nat} {arg : Nat} (h : Kept key fac q s) :
    Kept key fac q (State.eventFlit s p code arg) := by
  unfold State.eventFlit
  with_reducible repeat' first | assumption | intro _ | apply setReg | apply sendFlit | apply ite | apply dite | apply foldl | split | refine upd ?_

theorem attention {s : State} {blk : Nat} (h : Kept key fac q s) :
    Kept key fac q (State.attention s blk) := by
  unfold State.attention
  with_reducible repeat' first | assumption | intro _ | apply eventFlit | apply ite | apply dite | apply foldl | split | refine upd ?_

theorem startStop {s : State} {cause : Nat} (h : Kept key fac q s) :
    Kept key fac q (State.startStop s cause) := by
  unfold State.startStop
  with_reducible repeat' first | assumption | intro _ | apply put | apply wr | apply attention | apply ite | apply dite | apply foldl | split | refine upd ?_

theorem pmcAdd {x0 : Nat} {x1 : Nat} {x2 : Nat} {x3 : State} (hx3 : Kept key fac q x3) :
    Kept key fac q (State.pmcAdd x0 x1 x2 x3) := by
  induction x0 generalizing x1 x2 x3 with
  | zero =>
    unfold State.pmcAdd
    with_reducible repeat' first | assumption | intro _ | apply setReg | apply wr | apply attention | apply ite | apply dite | apply foldl | split | refine upd ?_
  | succ _ ih =>
    unfold State.pmcAdd
    with_reducible repeat' first | assumption | intro _ | apply ih | apply setReg | apply wr | apply attention | apply ite | apply dite | apply foldl | split | refine upd ?_

theorem pmcCount {s : State} {sel : Nat → Bool} {n : Nat} (h : Kept key fac q s) :
    Kept key fac q (State.pmcCount s sel n) := by
  unfold State.pmcCount
  with_reducible repeat' first | assumption | intro _ | apply forEach | apply pmcAdd | apply ite | apply dite | apply foldl | split | refine upd ?_

theorem pmcEvent {s : State} {cls : Nat} {master : Nat} {cust : Option Bool} {addr : Option (Bool × Nat)} {n : optParam Nat 1} (h : Kept key fac q s) :
    Kept key fac q (State.pmcEvent s cls master cust addr n) := by
  unfold State.pmcEvent
  with_reducible repeat' first | assumption | intro _ | apply pmcCount | apply ite | apply dite | apply foldl | refine snd ‹_› ?_ | split | refine upd ?_

theorem pmcLane {s : State} {cls : Nat} {l : Nat} {n : Nat} (h : Kept key fac q s) :
    Kept key fac q (State.pmcLane s cls l n) := by
  unfold State.pmcLane
  with_reducible repeat' first | assumption | intro _ | apply pmcCount | apply ite | apply dite | apply foldl | split | refine upd ?_

theorem pmcEdge {s : State} {sig : Nat} (h : Kept key fac q s) :
    Kept key fac q (State.pmcEdge s sig) := by
  unfold State.pmcEdge
  with_reducible repeat' first | assumption | intro _ | apply pmcCount | apply ite | apply dite | apply foldl | split | refine upd ?_

theorem pmcRise {s : State} {sig : Nat} {was : Bool} {is_ : Bool} (h : Kept key fac q s) :
    Kept key fac q (State.pmcRise s sig was is_) := by
  unfold State.pmcRise
  with_reducible repeat' first | assumption | intro _ | apply pmcEdge | apply ite | apply dite | apply foldl | split | refine upd ?_

theorem poisonLine {s : State} {a : Nat} (h : Kept key fac q s) :
    Kept key fac q (State.poisonLine s a) := by
  unfold State.poisonLine
  with_reducible repeat' first | assumption | intro _ | apply bump | apply ite | apply dite | apply foldl | split | refine upd ?_

theorem consumePoison {s : State} {a : Nat} {master : Nat} {cust : optParam (Option Bool) none} (h : Kept key fac q s) :
    Kept key fac q (State.consumePoison s a master cust) := by
  unfold State.consumePoison
  with_reducible repeat' first | assumption | intro _ | apply bump | apply pmcEvent | apply ite | apply dite | apply foldl | split | refine upd ?_

theorem markSram {s : State} {cls : Nat} {u : Nat} (h : Kept key fac q s) :
    Kept key fac q (State.markSram s cls u) := by
  unfold State.markSram
  with_reducible repeat' first | assumption | intro _ | apply ite | apply dite | apply foldl | split | refine upd ?_

theorem clearSram {s : State} {cls : Nat} {u : Nat} (h : Kept key fac q s) :
    Kept key fac q (State.clearSram s cls u) := by
  unfold State.clearSram
  with_reducible repeat' first | assumption | intro _ | apply ite | apply dite | apply foldl | split | refine upd ?_

theorem consumeSram {s : State} {master : Nat} {cust : optParam (Option Bool) none} (h : Kept key fac q s) :
    Kept key fac q (State.consumeSram s master cust) := by
  unfold State.consumeSram
  with_reducible repeat' first | assumption | intro _ | apply bump | apply pmcEvent | apply ite | apply dite | apply foldl | split | refine upd ?_

theorem clearPoison {s : State} {a : Nat} {n : Nat} (h : Kept key fac q s) :
    Kept key fac q (State.clearPoison s a n) := by
  unfold State.clearPoison
  with_reducible repeat' first | assumption | intro _ | apply ite | apply dite | apply foldl | split | refine upd ?_

theorem touch {s : State} {a : Nat} {write : Bool} {master : Nat} {cust : optParam (Option Bool) none} (h : Kept key fac q s) :
    Kept key fac q (State.touch s a write master cust) := by
  unfold State.touch
  with_reducible repeat' first | assumption | intro _ | apply bump | apply bump64 | apply pmcEvent | apply ite | apply dite | apply foldl | split | refine upd ?_

theorem touchLines {s : State} {a : Nat} {n : Nat} {write : Bool} {master : Nat} (h : Kept key fac q s) :
    Kept key fac q (State.touchLines s a n write master) := by
  unfold State.touchLines
  with_reducible repeat' first | assumption | intro _ | apply forEach | apply touch | apply ite | apply dite | apply foldl | split | refine upd ?_

theorem storeBytes {s : State} {a : Nat} {bs : List Byte} {master : Nat} (h : Kept key fac q s) :
    Kept key fac q (State.storeBytes s a bs master) := by
  unfold State.storeBytes
  with_reducible repeat' first | assumption | intro _ | apply setDramBytes | apply clearPoison | apply touchLines | apply ite | apply dite | apply foldl | split | refine upd ?_

theorem axlAsk {s : State} {kind : Nat} {unit : Nat} {element : Nat} {cause : Nat} (h : Kept key fac q s) :
    Kept key fac q (State.axlAsk s kind unit element cause) := by
  unfold State.axlAsk
  with_reducible repeat' first | assumption | intro _ | apply ite | apply dite | apply foldl | split | refine upd ?_

end Sys2Proof.Machine.Kept
end

