-- ==== Sys2Proof/Laws/KeptData.lean ====
section
/-! SUPPORT. What the operations of the disc record, the task engine, WRP, RCV, DET and DEC keep. -/

set_option linter.unusedTactic false
set_option linter.unreachableTactic false

namespace Sys2Proof.Machine.Kept

set_option Elab.async false

variable {key : Option (List Byte)} {fac : List Dword} {q : List Instr}

theorem putTableEntry {s : State} {e : RplEntry} (h : Kept key fac q s) :
    Kept key fac q (State.putTableEntry s e) := by
  unfold State.putTableEntry
  with_reducible repeat' first | assumption | intro _ | apply storeBytes | apply ite | apply dite | apply foldl | split | refine upd ?_

theorem withTable {s : State} {t : List RplEntry} (h : Kept key fac q s) :
    Kept key fac q (State.withTable s t) := by
  unfold State.withTable
  extract_lets d s1
  have h1 : Kept key fac q s1 :=
    ⟨{ h.canon with dram := Sparse.wf_filter _ _ _ h.canon.dram }, h.fusedOf rfl, h.fac, h.queue⟩
  exact forEach (fun _ _ h => h.putTableEntry) h1

theorem sendMWR {s : State} {p : Fin 3} {addr : Nat} {bs : List Byte} (h : Kept key fac q s) :
    Kept key fac q (State.sendMWR s p addr bs) := by
  unfold State.sendMWR
  with_reducible repeat' first | assumption | intro _ | apply sendFlit | apply ite | apply dite | apply foldl | split | refine upd ?_

theorem flushAll {s : State} (h : Kept key fac q s) :
    Kept key fac q (State.flushAll s) := by
  unfold State.flushAll
  with_reducible repeat' first | assumption | intro _ | apply sendFlit | apply ite | apply dite | apply foldl | split | refine upd ?_

theorem countErr {s : State} {cls : Nat} (h : Kept key fac q s) :
    Kept key fac q (State.countErr s cls) := by
  unfold State.countErr
  with_reducible repeat' first | assumption | intro _ | apply bump | apply ite | apply dite | apply foldl | refine snd ‹_› ?_ | split | refine upd ?_

theorem setRes {s : State} {r : List Word} (h : Kept key fac q s) :
    Kept key fac q (State.setRes s r) := by
  unfold State.setRes
  with_reducible repeat' first | assumption | intro _ | apply setReg | apply ite | apply dite | apply foldl | split | refine upd ?_

theorem sendRecord {s : State} (h : Kept key fac q s) :
    Kept key fac q (State.sendRecord s) := by
  unfold State.sendRecord
  with_reducible repeat' first | assumption | intro _ | apply sendMWR | apply ite | apply dite | apply foldl | split | refine upd ?_

theorem waste {s : State} {l : DecLane} {n : Nat} (h : Kept key fac q s) :
    Kept key fac q (State.waste s l n) := by
  unfold State.waste
  with_reducible repeat' first | assumption | intro _ | apply bump64 | apply pmcLane | apply ite | apply dite | apply foldl | split | refine upd ?_

theorem trkTarget {s : State} {h_1 : Head} {v : Int} (h : Kept key fac q s) :
    Kept key fac q (State.trkTarget s h_1 v) := by
  unfold State.trkTarget
  with_reducible repeat' first | assumption | intro _ | apply setReg | apply setInt | apply ite | apply dite | apply foldl | split | refine upd ?_

theorem trkBack {s : State} {h_1 : Head} (h : Kept key fac q s) :
    Kept key fac q (State.trkBack s h_1) := by
  unfold State.trkBack
  with_reducible repeat' first | assumption | intro _ | apply trkTarget | apply ite | apply dite | apply foldl | refine snd ‹_› ?_ | split | refine upd ?_

theorem readLevels {s : State} (h : Kept key fac q s) :
    Kept key fac q (State.readLevels s) := by
  unfold State.readLevels
  with_reducible repeat' first | assumption | intro _ | apply wr | apply ite | apply dite | apply foldl | refine snd ‹_› ?_ | split | refine upd ?_

theorem wasteRunning {s : State} {l : DecLane} (h : Kept key fac q s) :
    Kept key fac q (State.wasteRunning s l) := by
  unfold State.wasteRunning
  with_reducible repeat' first | assumption | intro _ | apply draw | apply waste | apply ite | apply dite | apply foldl | refine snd ‹_› ?_ | split | refine upd ?_

theorem discardWork {s : State} (h : Kept key fac q s) :
    Kept key fac q (State.discardWork s) := by
  unfold State.discardWork
  with_reducible repeat' first | assumption | intro _ | apply waste | apply readLevels | apply wasteRunning | apply trkBack | apply ite | apply dite | apply foldl | split | refine upd ?_

theorem logError {s : State} {cls : Nat} {detail : Nat} {low : Nat} {err : Nat} (h : Kept key fac q s) :
    Kept key fac q (State.logError s cls detail low err) := by
  unfold State.logError
  with_reducible repeat' first | assumption | intro _ | apply wr | apply bumpF | apply ite | apply dite | apply foldl | split | refine upd ?_

theorem calStop {s : State} (h : Kept key fac q s) :
    Kept key fac q (State.calStop s) := by
  unfold State.calStop
  with_reducible repeat' first | assumption | intro _ | apply put | apply ite | apply dite | apply foldl | split | refine upd ?_

theorem setHs {s : State} {k : Nat} (h : Kept key fac q s) :
    Kept key fac q (State.setHs s k) := by
  unfold State.setHs
  with_reducible repeat' first | assumption | intro _ | apply wr | apply ite | apply dite | apply foldl | split | refine upd ?_

theorem hsDrop {s : State} (h : Kept key fac q s) :
    Kept key fac q (State.hsDrop s) := by
  unfold State.hsDrop
  with_reducible repeat' first | assumption | intro _ | apply setHs | apply ite | apply dite | apply foldl | split | refine upd ?_

theorem taskError {s : State} {cls : Nat} {err : optParam (Option Nat) none} {detail : optParam Nat 0} (h : Kept key fac q s) :
    Kept key fac q (State.taskError s cls err detail) := by
  unfold State.taskError
  with_reducible repeat' first | assumption | intro _ | apply countErr | apply hsDrop | apply clock | apply wr | apply put | apply setReg | apply bump | apply discardWork | apply calStop | apply logError | apply setRes | apply event | apply sendRecord | apply flushAll | apply ite | apply dite | apply foldl | split | refine upd ?_

theorem poisonEnd {s : State} (h : Kept key fac q s) :
    Kept key fac q (State.poisonEnd s) := by
  unfold State.poisonEnd
  with_reducible repeat' first | assumption | intro _ | apply taskError | apply attention | apply ite | apply dite | apply foldl | split | refine upd ?_

theorem poisonUsed {s : State} {master : Nat} (h : Kept key fac q s) :
    Kept key fac q (State.poisonUsed s master) := by
  unfold State.poisonUsed
  with_reducible repeat' first | assumption | intro _ | apply consumeSram | apply poisonEnd | apply ite | apply dite | apply foldl | split | refine upd ?_

theorem winViol {s : State} {write : Bool} {addr : Nat} {len : Nat} (h : Kept key fac q s) :
    Kept key fac q (State.winViol s write addr len) := by
  unfold State.winViol
  with_reducible repeat' first | assumption | intro _ | apply setPair | apply wr | apply put | apply taskError | apply ite | apply dite | apply foldl | split | refine upd ?_

theorem progressEvent {s : State} {before : Nat} (h : Kept key fac q s) :
    Kept key fac q (State.progressEvent s before) := by
  unfold State.progressEvent
  with_reducible repeat' first | assumption | intro _ | apply eventFlit | apply put | apply ite | apply dite | apply foldl | split | refine upd ?_

theorem advance {x0 : Nat} {x1 : State} (hx1 : Kept key fac q x1) :
    Kept key fac q (State.advance x0 x1) := by
  induction x0 generalizing x1 with
  | zero =>
    unfold State.advance
    with_reducible repeat' first | assumption | intro _ | apply taskError | apply setReg | apply progressEvent | apply ite | apply dite | apply foldl | refine snd ‹_› ?_ | split | refine upd ?_
  | succ _ ih =>
    unfold State.advance
    with_reducible repeat' first | assumption | intro _ | apply ih | apply taskError | apply setReg | apply progressEvent | apply ite | apply dite | apply foldl | refine snd ‹_› ?_ | split | refine upd ?_

theorem blockComplete {s : State} {lba : Nat} (h : Kept key fac q s) :
    Kept key fac q (State.blockComplete s lba) := by
  unfold State.blockComplete
  with_reducible repeat' first | assumption | intro _ | apply advance | apply ite | apply dite | apply foldl | split | refine upd ?_

theorem blockBad {s : State} {lba : Nat} {cls : Nat} (h : Kept key fac q s) :
    Kept key fac q (State.blockBad s lba cls) := by
  unfold State.blockBad
  with_reducible repeat' first | assumption | intro _ | apply advance | apply countErr | apply ite | apply dite | apply foldl | split | refine upd ?_

theorem discReadyNow {s : State} (h : Kept key fac q s) :
    Kept key fac q (State.discReadyNow s) := by
  unfold State.discReadyNow
  with_reducible repeat' first | assumption | intro _ | apply put | apply eventFlit | apply ite | apply dite | apply foldl | split | refine upd ?_

theorem discReadyEvent {s : State} (h : Kept key fac q s) :
    Kept key fac q (State.discReadyEvent s) := by
  unfold State.discReadyEvent
  with_reducible repeat' first | assumption | intro _ | apply discReadyNow | apply ite | apply dite | apply foldl | split | refine upd ?_

theorem taskEndEvent {s : State} (h : Kept key fac q s) :
    Kept key fac q (State.taskEndEvent s) := by
  unfold State.taskEndEvent
  with_reducible repeat' first | assumption | intro _ | apply eventFlit | apply discReadyNow | apply ite | apply dite | apply foldl | split | refine upd ?_

theorem taskDone {s : State} (h : Kept key fac q s) :
    Kept key fac q (State.taskDone s) := by
  unfold State.taskDone
  with_reducible repeat' first | assumption | intro _ | apply taskEndEvent | apply wr | apply put | apply bump | apply ite | apply dite | apply foldl | split | refine upd ?_

theorem taskFinish {s : State} (h : Kept key fac q s) :
    Kept key fac q (State.taskFinish s) := by
  unfold State.taskFinish
  with_reducible repeat' first | assumption | intro _ | apply clock | apply setRes | apply winViol | apply sendRecord | apply flushAll | apply taskDone | apply ite | apply dite | apply foldl | split | refine upd ?_

theorem modW {s : State} {b : Beam} {f : WBeam → WBeam} (h : Kept key fac q s) :
    Kept key fac q (State.modW s b f) := by
  unfold State.modW
  with_reducible repeat' first | assumption | intro _ | apply ite | apply dite | apply foldl | split | refine upd ?_

theorem lddCfgErr {s : State} {c : Chan} (h : Kept key fac q s) :
    Kept key fac q (State.lddCfgErr s c) := by
  unfold State.lddCfgErr
  with_reducible repeat' first | assumption | intro _ | apply put | apply ite | apply dite | apply foldl | split | refine upd ?_

theorem setRlvl {s : State} {c : Chan} {k : Nat} (h : Kept key fac q s) :
    Kept key fac q (State.setRlvl s c k) := by
  unfold State.setRlvl
  with_reducible repeat' first | assumption | intro _ | apply wr | apply put | apply ite | apply dite | apply foldl | split | refine upd ?_

theorem lpowerAct {s : State} {c : Nat} {k : Nat} (h : Kept key fac q s) :
    Kept key fac q (State.lpowerAct s c k) := by
  unfold State.lpowerAct
  with_reducible repeat' first | assumption | intro _ | apply setRlvl | apply lddCfgErr | apply ite | apply dite | apply foldl | split | refine upd ?_

theorem setQueue {s : State} {zl : Nat} {q_2 : List RqBlk} (h : Kept key fac q s) :
    Kept key fac q (State.setQueue s zl q_2) := by
  unfold State.setQueue
  with_reducible repeat' first | assumption | intro _ | apply ite | apply dite | apply foldl | split | refine upd ?_

theorem queueJoin {s : State} {lba : Nat} (h : Kept key fac q s) :
    Kept key fac q (State.queueJoin s lba) := by
  unfold State.queueJoin
  with_reducible repeat' first | assumption | intro _ | apply setQueue | apply ite | apply dite | apply foldl | split | refine upd ?_

theorem setNextFree {s : State} {zl : Nat} {n : Nat} (h : Kept key fac q s) :
    Kept key fac q (State.setNextFree s zl n) := by
  unfold State.setNextFree
  with_reducible repeat' first | assumption | intro _ | apply mirrRecord | apply ite | apply dite | apply foldl | split | refine upd ?_

theorem zlFront {s : State} {zl : Nat} (h : Kept key fac q s) :
    Kept key fac q (State.zlFront s zl) := by
  unfold State.zlFront
  with_reducible repeat' first | assumption | intro _ | apply ite | apply dite | apply foldl | split | refine upd ?_

theorem passStep {s : State} {zl : Nat} (h : Kept key fac q s) :
    Kept key fac q (State.passStep s zl) := by
  unfold State.passStep
  with_reducible repeat' first | assumption | intro _ | apply event | apply taskError | apply ite | apply dite | apply foldl | refine snd ‹_› ?_ | split | refine upd ?_

theorem verifyFailed {s : State} {b : WBlk} (h : Kept key fac q s) :
    Kept key fac q (State.verifyFailed s b) := by
  unfold State.verifyFailed
  with_reducible repeat' first | assumption | intro _ | apply event | apply queueJoin | apply bump | apply taskError | apply setQueue | apply passStep | apply ite | apply dite | apply foldl | refine snd ‹_› ?_ | split | refine upd ?_

theorem earlyFail {s : State} {b : Beam} {w : WBlk} (h : Kept key fac q s) :
    Kept key fac q (State.earlyFail s b w) := by
  unfold State.earlyFail
  with_reducible repeat' first | assumption | intro _ | apply setReg | apply wr | apply bump | apply verifyFailed | apply ite | apply dite | apply foldl | split | refine upd ?_

theorem gateEarly {s : State} {b : Beam} (h : Kept key fac q s) :
    Kept key fac q (State.gateEarly s b) := by
  unfold State.gateEarly
  with_reducible repeat' first | assumption | intro _ | apply modW | apply bump | apply earlyFail | apply ite | apply dite | apply foldl | refine snd ‹_› ?_ | split | refine upd ?_

theorem gatesEarly {s : State} {h_1 : Head} (h : Kept key fac q s) :
    Kept key fac q (State.gatesEarly s h_1) := by
  unfold State.gatesEarly
  with_reducible repeat' first | assumption | intro _ | apply gateEarly | apply ite | apply dite | apply foldl | split | refine upd ?_

theorem dropGates {s : State} (h : Kept key fac q s) :
    Kept key fac q (State.dropGates s) := by
  unfold State.dropGates
  with_reducible repeat' first | assumption | intro _ | apply gateEarly | apply ite | apply dite | apply foldl | split | refine upd ?_

theorem gateEnd {s : State} {b : Beam} (h : Kept key fac q s) :
    Kept key fac q (State.gateEnd s b) := by
  unfold State.gateEnd
  with_reducible repeat' first | assumption | intro _ | apply modW | apply bump | apply ite | apply dite | apply foldl | refine snd ‹_› ?_ | split | refine upd ?_

theorem gateClose {s : State} {b : Beam} {e : AngEntry} (h : Kept key fac q s) :
    Kept key fac q (State.gateClose s b e) := by
  unfold State.gateClose
  with_reducible repeat' first | assumption | intro _ | apply gateEnd | apply ite | apply dite | apply foldl | split | refine upd ?_

theorem gateBegin {s : State} {b : Beam} {w : WBlk} {at_ : Word} {frac : Byte} (h : Kept key fac q s) :
    Kept key fac q (State.gateBegin s b w at_ frac) := by
  unfold State.gateBegin
  extract_lets c w1 s1 s2 x3 s3 m
  have h2 : Kept key fac q s2 := h.modW.pmcEdge.wr _ _
  clear_value s2
  have h3 : Kept key fac q s3 := upd h2
  clear_value s3
  split
  · exact upd (h3.wr _ _)
  · exact h3

theorem gateTry {s : State} {b : Beam} {w : WBlk} {e : AngEntry} {late : Bool} {lead : Bool} (h : Kept key fac q s) :
    Kept key fac q (State.gateTry s b w e late lead) := by
  unfold State.gateTry
  extract_lets s1 full s2
  have h1 : Kept key fac q s1 := h.gateEnd
  clear_value s1
  have h2 : Kept key fac q s2 := ite ((h1.bump _).bump _) h1
  exact ite (ite h1.consumePoison.taskError h1.touchLines.gateBegin) h2.earlyFail

theorem opcBegin {s : State} {zl : Nat} {h_2 : Head} (h : Kept key fac q s) :
    Kept key fac q (State.opcBegin s zl h_2) := by
  unfold State.opcBegin
  with_reducible repeat' first | assumption | intro _ | apply zlFront | apply ite | apply dite | apply foldl | split | refine upd ?_

theorem gateAct {s : State} {b : Beam} {e : AngEntry} {late : Bool} {lead : Bool} (h : Kept key fac q s) :
    Kept key fac q (State.gateAct s b e late lead) := by
  unfold State.gateAct
  with_reducible repeat' first | assumption | intro _ | apply opcBegin | apply setQueue | apply setNextFree | apply gateTry | apply passStep | apply modW | apply ite | apply dite | apply foldl | refine snd ‹_› ?_ | split | refine upd ?_

theorem vfyReport {s : State} {b : Beam} {lba : Nat} {d : Verdict} (h : Kept key fac q s) :
    Kept key fac q (State.vfyReport s b lba d) := by
  unfold State.vfyReport
  with_reducible repeat' first | assumption | intro _ | apply setReg | apply wr | apply bump64 | apply bump | apply ite | apply dite | apply foldl | split | refine upd ?_

theorem addEntry {s : State} {lba : Nat} {spare : Nat} (h : Kept key fac q s) :
    Kept key fac q (State.addEntry s lba spare) := by
  unfold State.addEntry
  with_reducible repeat' first | assumption | intro _ | apply putTableEntry | apply bump | apply event | apply mirrRecord | apply ite | apply dite | apply foldl | split | refine upd ?_

theorem writeMgmt {layer : Nat} {bytes : List Byte} {x2 : Nat} {x3 : List MgmtVerify} {x4 : State} (hx4 : Kept key fac q x4) :
    Kept key fac q (State.writeMgmt layer bytes x2 x3 x4).2 := by
  induction x2 generalizing x3 x4 with
  | zero => exact hx4
  | succ _ ih =>
    unfold State.writeMgmt
    split
    · extract_lets j d0 s1 b hdr d s2
      have h2 : Kept key fac q s2 := vfyReport (upd hx4)
      clear_value s2
      split
      · exact hx4
      · split
        · exact upd h2
        · exact ih h2
    · exact hx4

theorem writeEntries {layer : Nat} {x1 : Nat} {x2 : List MgmtVerify} {x3 : State} (hx3 : Kept key fac q x3) :
    Kept key fac q (State.writeEntries layer x1 x2 x3).2 := by
  induction x1 generalizing x2 x3 with
  | zero => exact hx3
  | succ _ ih =>
    unfold State.writeEntries
    extract_lets batch
    split
    · exact hx3
    · split
      · rename_i e; exact snd e hx3.writeMgmt
      · rename_i e; exact ih (upd (snd e hx3.writeMgmt))

theorem recordEvent {s : State} {close : Bool} {verify : List MgmtVerify} (h : Kept key fac q s) :
    Kept key fac q (State.recordEvent s close verify).2 := by
  have fold : ∀ (f : Option (List MgmtVerify) × State → Nat → Option (List MgmtVerify) × State),
      (∀ p l, Kept key fac q p.2 → Kept key fac q (f p l).2) →
      ∀ (ls : List Nat) p, Kept key fac q p.2 → Kept key fac q (ls.foldl f p).2 := by
    intro f hf ls
    induction ls with
    | nil => exact fun _ h => h
    | cons l _ ih => exact fun p h => ih _ (hf p l h)
  unfold State.recordEvent
  extract_lets step p1 r rec_ p2
  have h1 : Kept key fac q p1.2 := by
    refine fold _ ?_ _ _ h
    intro p l hp
    simp only [step]
    split
    · exact hp
    · exact hp.writeEntries
  clear_value p1 r
  have h2 : Kept key fac q p2.2 := by
    refine fold _ ?_ _ _ h1
    intro p l hp
    simp only [rec_]
    split
    · exact hp
    · exact hp.writeMgmt
  clear_value p2
  split
  · exact h2
  · exact upd h2

theorem mgmtSeen {s : State} (h : Kept key fac q s) : Kept key fac q (State.mgmtSeen s).2 := upd h

theorem taskRecord {s : State} {close : Bool} (h : Kept key fac q s) : Kept key fac q (State.taskRecord s close).2 :=
  h.mgmtSeen.recordEvent

theorem keepBlk {s : State} {k : RBlk} (h : Kept key fac q s) :
    Kept key fac q (State.keepBlk s k) := by
  unfold State.keepBlk
  with_reducible repeat' first | assumption | intro _ | apply ite | apply dite | apply foldl | split | refine upd ?_

theorem dropBlk {s : State} {lba : Nat} (h : Kept key fac q s) :
    Kept key fac q (State.dropBlk s lba) := by
  unfold State.dropBlk
  with_reducible repeat' first | assumption | intro _ | apply ite | apply dite | apply foldl | split | refine upd ?_

theorem modDet {s : State} {b : Beam} {f : Det → Det} (h : Kept key fac q s) :
    Kept key fac q (State.modDet s b f) := by
  unfold State.modDet
  with_reducible repeat' first | assumption | intro _ | apply ite | apply dite | apply foldl | split | refine upd ?_

theorem freeBuf {s : State} {x1 : Option (Beam × Fin 6)} (h : Kept key fac q s) :
    Kept key fac q (State.freeBuf s x1) := by
  unfold State.freeBuf
  with_reducible repeat' first | assumption | intro _ | apply modDet | apply ite | apply dite | apply foldl | split | refine upd ?_

theorem ringRecord {s : State} {w : Nat} (h : Kept key fac q s) :
    Kept key fac q (State.ringRecord s w) := by
  unfold State.ringRecord
  with_reducible repeat' first | assumption | intro _ | apply storeBytes | apply wr | apply ite | apply dite | apply foldl | split | refine upd ?_

theorem areaRecord {s : State} {lba : Nat} {w : Nat} (h : Kept key fac q s) :
    Kept key fac q (State.areaRecord s lba w) := by
  unfold State.areaRecord
  with_reducible repeat' first | assumption | intro _ | apply sendMWR | apply winViol | apply ite | apply dite | apply foldl | refine snd ‹_› ?_ | split | refine upd ?_

theorem qualityRecord {s : State} {k : RBlk} {outcome : Nat} (h : Kept key fac q s) :
    Kept key fac q (State.qualityRecord s k outcome) := by
  unfold State.qualityRecord
  with_reducible repeat' first | assumption | intro _ | apply ringRecord | apply areaRecord | apply ite | apply dite | apply foldl | split | refine upd ?_

theorem mgmtEnd {s : State} {k : RBlk} {outcome : Nat} (h : Kept key fac q s) :
    Kept key fac q (State.mgmtEnd s k outcome) := by
  unfold State.mgmtEnd
  with_reducible repeat' first | assumption | intro _ | apply touchLines | apply ite | apply dite | apply foldl | split | refine upd ?_

theorem mgmtFresh {s : State} (h : Kept key fac q s) :
    Kept key fac q (State.mgmtFresh s) := by
  unfold State.mgmtFresh
  with_reducible repeat' first | assumption | intro _ | apply ite | apply dite | apply foldl | split | refine upd ?_

theorem blockEnd {s : State} {k : RBlk} {outcome : Nat} (h : Kept key fac q s) :
    Kept key fac q (State.blockEnd s k outcome) := by
  unfold State.blockEnd
  with_reducible repeat' first | assumption | intro _ | apply freeBuf | apply dropBlk | apply bump | apply event | apply bumpF | apply mgmtEnd | apply qualityRecord | apply blockComplete | apply blockBad | apply countErr | apply ite | apply dite | apply foldl | split | refine upd ?_

theorem defer {s : State} {k : RBlk} (h : Kept key fac q s) :
    Kept key fac q (State.defer s k) := by
  unfold State.defer
  with_reducible repeat' first | assumption | intro _ | apply freeBuf | apply keepBlk | apply ite | apply dite | apply foldl | split | refine upd ?_

theorem redecode {s : State} {k : RBlk} {b : Beam} {i : Fin 6} (h : Kept key fac q s) :
    Kept key fac q (State.redecode s k b i) := by
  unfold State.redecode
  with_reducible repeat' first | assumption | intro _ | apply keepBlk | apply ite | apply dite | apply foldl | split | refine upd ?_

theorem climbFrom {x0 : Nat} {x1 : Nat} {x2 : State} {x3 : RBlk} (hx2 : Kept key fac q x2) :
    Kept key fac q (State.climbFrom x0 x1 x2 x3) := by
  induction x0 generalizing x1 x2 x3 with
  | zero =>
    unfold State.climbFrom
    with_reducible repeat' first | assumption | intro _ | apply blockEnd | apply defer | apply redecode | apply ite | apply dite | apply foldl | refine snd ‹_› ?_ | split | refine upd ?_
  | succ _ ih =>
    unfold State.climbFrom
    with_reducible repeat' first | assumption | intro _ | apply ih | apply blockEnd | apply defer | apply redecode | apply ite | apply dite | apply foldl | refine snd ‹_› ?_ | split | refine upd ?_

theorem climb {s : State} {k : RBlk} (h : Kept key fac q s) :
    Kept key fac q (State.climb s k) := by
  unfold State.climb
  with_reducible repeat' first | assumption | intro _ | apply climbFrom | apply ite | apply dite | apply foldl | split | refine upd ?_

theorem badAtHome {s : State} {k : RBlk} (h : Kept key fac q s) :
    Kept key fac q (State.badAtHome s k) := by
  unfold State.badAtHome
  with_reducible repeat' first | assumption | intro _ | apply climb | apply freeBuf | apply dropBlk | apply consumePoison | apply taskError | apply defer | apply zlFront | apply keepBlk | apply ite | apply dite | apply foldl | refine snd ‹_› ?_ | split | refine upd ?_

theorem rungFailed {s : State} {k : RBlk} (h : Kept key fac q s) :
    Kept key fac q (State.rungFailed s k) := by
  unfold State.rungFailed
  with_reducible repeat' first | assumption | intro _ | apply badAtHome | apply climb | apply ite | apply dite | apply foldl | split | refine upd ?_

theorem notRead {s : State} {k : RBlk} (h : Kept key fac q s) :
    Kept key fac q (State.notRead s k) := by
  unfold State.notRead
  with_reducible repeat' first | assumption | intro _ | apply blockEnd | apply defer | apply ite | apply dite | apply foldl | split | refine upd ?_

theorem blankRead {s : State} {k : RBlk} (h : Kept key fac q s) :
    Kept key fac q (State.blankRead s k) := by
  unfold State.blankRead
  with_reducible repeat' first | assumption | intro _ | apply blockEnd | apply rungFailed | apply ite | apply dite | apply foldl | split | refine upd ?_

theorem captured {s : State} {k : RBlk} {outcome : Nat} {cap : Beam} {buf : Fin 6} {repass : Bool} (h : Kept key fac q s) :
    Kept key fac q (State.captured s k outcome cap buf repass) := by
  unfold State.captured
  with_reducible repeat' first | assumption | intro _ | apply keepBlk | apply notRead | apply blankRead | apply rungFailed | apply ite | apply dite | apply foldl | split | refine upd ?_

theorem decoded {s : State} {k : RBlk} {good : Bool} (h : Kept key fac q s) :
    Kept key fac q (State.decoded s k good) := by
  unfold State.decoded
  with_reducible repeat' first | assumption | intro _ | apply blockEnd | apply rungFailed | apply ite | apply dite | apply foldl | split | refine upd ?_

theorem setRetry {s : State} {h_1 : Head} {r : Option Retry} (h : Kept key fac q s) :
    Kept key fac q (State.setRetry s h_1 r) := by
  unfold State.setRetry
  with_reducible repeat' first | assumption | intro _ | apply ite | apply dite | apply foldl | split | refine upd ?_

theorem listBeside {s : State} {h_1 : Head} (h : Kept key fac q s) :
    Kept key fac q (State.listBeside s h_1) := by
  unfold State.listBeside
  with_reducible repeat' first | assumption | intro _ | apply ite | apply dite | apply foldl | split | refine upd ?_

theorem retryNext {s : State} {h_1 : Head} {r : Retry} (h : Kept key fac q s) :
    Kept key fac q (State.retryNext s h_1 r) := by
  unfold State.retryNext
  with_reducible repeat' first | assumption | intro _ | apply trkBack | apply setRetry | apply ite | apply dite | apply foldl | refine snd ‹_› ?_ | split | refine upd ?_

theorem retryRevolution {s : State} {h_1 : Head} {r : Retry} (h : Kept key fac q s) :
    Kept key fac q (State.retryRevolution s h_1 r) := by
  unfold State.retryRevolution
  with_reducible repeat' first | assumption | intro _ | apply retryNext | apply bumpF | apply trkTarget | apply trkBack | apply setRetry | apply ite | apply dite | apply foldl | split | refine upd ?_

theorem retryFrameZero {s : State} {h_1 : Head} (h : Kept key fac q s) :
    Kept key fac q (State.retryFrameZero s h_1) := by
  unfold State.retryFrameZero
  with_reducible repeat' first | assumption | intro _ | apply bump | apply retryNext | apply listBeside | apply setRetry | apply retryRevolution | apply ite | apply dite | apply foldl | refine snd ‹_› ?_ | split | refine upd ?_

theorem retryConfirmed {s : State} {h_1 : Head} {band : Int} (h : Kept key fac q s) :
    Kept key fac q (State.retryConfirmed s h_1 band) := by
  unfold State.retryConfirmed
  with_reducible repeat' first | assumption | intro _ | apply retryRevolution | apply ite | apply dite | apply foldl | refine snd ‹_› ?_ | split | refine upd ?_

theorem setReady {s : State} {zl : Nat} {v : Bool} (h : Kept key fac q s) :
    Kept key fac q (State.setReady s zl v) := by
  unfold State.setReady
  with_reducible repeat' first | assumption | intro _ | apply mirrDisc | apply ite | apply dite | apply foldl | split | refine upd ?_

theorem slotNote {s : State} {b : Beam} {o : Nat} {fig : Figures} (h : Kept key fac q s) :
    Kept key fac q (State.slotNote s b o fig) := by
  unfold State.slotNote
  with_reducible repeat' first | assumption | intro _ | apply setReg | apply bump | apply ite | apply dite | apply foldl | refine snd ‹_› ?_ | split | refine upd ?_

theorem slotMissed {s : State} {b : Beam} {r : DetRun} {o : Nat} {fig : Figures} {scan : Bool} (h : Kept key fac q s) :
    Kept key fac q (State.slotMissed s b r o fig scan) := by
  unfold State.slotMissed
  with_reducible repeat' first | assumption | intro _ | apply modDet | apply captured | apply ite | apply dite | apply foldl | refine snd ‹_› ?_ | split | refine upd ?_

theorem setTaps {s : State} {b : Beam} {c : Capture} {after : List Word} (h : Kept key fac q s) :
    Kept key fac q (State.setTaps s b c after) := by
  unfold State.setTaps
  with_reducible repeat' first | assumption | intro _ | apply forEach | apply setReg | apply ite | apply dite | apply foldl | split | refine upd ?_

theorem captureBack {s : State} {b : Beam} {c : Capture} {o : Nat} (h : Kept key fac q s) :
    Kept key fac q (State.captureBack s b c o) := by
  unfold State.captureBack
  with_reducible repeat' first | assumption | intro _ | apply forEach | apply setReg | apply setTaps | apply setRlvl | apply ite | apply dite | apply foldl | refine snd ‹_› ?_ | split | refine upd ?_

theorem strayCapture {s : State} {b : Beam} {c : Capture} {lba : Nat} (h : Kept key fac q s) :
    Kept key fac q (State.strayCapture s b c lba) := by
  unfold State.strayCapture
  with_reducible repeat' first | assumption | intro _ | apply ite | apply dite | apply foldl | split | refine upd ?_

theorem slotOver {s : State} {b : Beam} {r : DetRun} {c : Capture} {o : Nat} {fig : Figures} {keep : Option SBuf} {scan : Bool} (h : Kept key fac q s) :
    Kept key fac q (State.slotOver s b r c o fig keep scan) := by
  unfold State.slotOver
  with_reducible repeat' first | assumption | intro _ | apply captureBack | apply modDet | apply strayCapture | apply captured | apply ite | apply dite | apply foldl | refine snd ‹_› ?_ | split | refine upd ?_

theorem slotEnd {s : State} {b : Beam} {r : DetRun} {o : Nat} {fig : Figures} {keep : optParam (Option SBuf) none} (h : Kept key fac q s) :
    Kept key fac q (State.slotEnd s b r o fig keep) := by
  unfold State.slotEnd
  with_reducible repeat' first | assumption | intro _ | apply slotNote | apply slotMissed | apply slotOver | apply ite | apply dite | apply foldl | refine snd ‹_› ?_ | split | refine upd ?_

theorem runAbort {s : State} {b : Beam} {begin_ : Bool} (h : Kept key fac q s) :
    Kept key fac q (State.runAbort s b begin_) := by
  unfold State.runAbort
  with_reducible repeat' first | assumption | intro _ | apply modDet | apply slotEnd | apply ite | apply dite | apply foldl | refine snd ‹_› ?_ | split | refine upd ?_

theorem detApplyMode {s : State} {b : Beam} (h : Kept key fac q s) :
    Kept key fac q (State.detApplyMode s b) := by
  unfold State.detApplyMode
  with_reducible repeat' first | assumption | intro _ | apply runAbort | apply wr | apply ite | apply dite | apply foldl | split | refine upd ?_

theorem headAbort {s : State} {h_1 : Head} (h : Kept key fac q s) :
    Kept key fac q (State.headAbort s h_1) := by
  unfold State.headAbort
  with_reducible repeat' first | assumption | intro _ | apply forEach | apply runAbort | apply ite | apply dite | apply foldl | split | refine upd ?_

theorem captureAct {s : State} {b : Beam} {e : AngEntry} (h : Kept key fac q s) :
    Kept key fac q (State.captureAct s b e) := by
  unfold State.captureAct
  with_reducible repeat' first | assumption | intro _ | apply detApplyMode | apply put | apply modDet | apply ite | apply dite | apply foldl | split | refine upd ?_

theorem setDefect {s : State} {b : Beam} {v : Bool} (h : Kept key fac q s) :
    Kept key fac q (State.setDefect s b v) := by
  unfold State.setDefect
  with_reducible repeat' first | assumption | intro _ | apply ite | apply dite | apply foldl | split | refine upd ?_

theorem modLane {s : State} {l : DecLane} {f : Lane → Lane} (h : Kept key fac q s) :
    Kept key fac q (State.modLane s l f) := by
  unfold State.modLane
  with_reducible repeat' first | assumption | intro _ | apply ite | apply dite | apply foldl | split | refine upd ?_

theorem putCodeword {s : State} {e : DecBlk} {c : Nat} {bytes : List Byte} (h : Kept key fac q s) :
    Kept key fac q (State.putCodeword s e c bytes) := by
  unfold State.putCodeword
  with_reducible repeat' first | assumption | intro _ | apply storeBytes | apply ite | apply dite | apply foldl | split | refine upd ?_

theorem condemnLane {s : State} {l : DecLane} (h : Kept key fac q s) :
    Kept key fac q (State.condemnLane s l) := by
  unfold State.condemnLane
  with_reducible repeat' first | assumption | intro _ | apply modLane | apply waste | apply wasteRunning | apply axlAsk | apply ite | apply dite | apply foldl | refine snd ‹_› ?_ | split | refine upd ?_

theorem laneOut {s : State} {l : DecLane} (h : Kept key fac q s) :
    Kept key fac q (State.laneOut s l) := by
  unfold State.laneOut
  with_reducible repeat' first | assumption | intro _ | apply setReg | apply bump | apply modLane | apply ite | apply dite | apply foldl | split | refine upd ?_

theorem post {s : State} {l : DecLane} {r : DecRes} (h : Kept key fac q s) :
    Kept key fac q (State.post s l r) := by
  unfold State.post
  with_reducible repeat' first | assumption | intro _ | apply modLane | apply ite | apply dite | apply foldl | split | refine upd ?_

theorem retire {s : State} {l : DecLane} {n : Nat} (h : Kept key fac q s) :
    Kept key fac q (State.retire s l n) := by
  unfold State.retire
  with_reducible repeat' first | assumption | intro _ | apply bump64 | apply pmcLane | apply ite | apply dite | apply foldl | split | refine upd ?_

theorem drainCount {s : State} {l : DecLane} {r : DecRes} (h : Kept key fac q s) :
    Kept key fac q (State.drainCount s l r) := by
  unfold State.drainCount
  with_reducible repeat' first | assumption | intro _ | apply modLane | apply bump | apply setReg | apply ite | apply dite | apply foldl | split | refine upd ?_

theorem drainRecover {s : State} {r : DecRes} (h : Kept key fac q s) :
    Kept key fac q (State.drainRecover s r) := by
  unfold State.drainRecover
  with_reducible repeat' first | assumption | intro _ | apply freeBuf | apply decoded | apply ite | apply dite | apply foldl | refine snd ‹_› ?_ | split | refine upd ?_

theorem drainBlock {s : State} {l : DecLane} {r : DecRes} (h : Kept key fac q s) :
    Kept key fac q (State.drainBlock s l r) := by
  unfold State.drainBlock
  with_reducible repeat' first | assumption | intro _ | apply retire | apply waste | apply setReg | apply bumpF | apply drainRecover | apply ite | apply dite | apply foldl | split | refine upd ?_

theorem drain {s : State} {l : DecLane} {r : DecRes} (h : Kept key fac q s) :
    Kept key fac q (State.drain s l r) := by
  unfold State.drain
  with_reducible repeat' first | assumption | intro _ | apply bump | apply condemnLane | apply drainCount | apply retire | apply drainBlock | apply ite | apply dite | apply foldl | refine snd ‹_› ?_ | split | refine upd ?_

theorem countIdle {s : State} {l : DecLane} (h : Kept key fac q s) :
    Kept key fac q (State.countIdle s l) := by
  unfold State.countIdle
  with_reducible repeat' first | assumption | intro _ | apply bump64 | apply pmcLane | apply ite | apply dite | apply foldl | split | refine upd ?_

end Sys2Proof.Machine.Kept
end

