-- ==== Sys2Proof/Laws/KeptDrive.lean ====
section
/-! SUPPORT. What the operations of SRV, SPN, SLD, LSV, the drive loops, the angle and ACQ keep. -/

set_option linter.unusedTactic false
set_option linter.unreachableTactic false

namespace Sys2Proof.Machine.Kept

set_option Elab.async false

variable {key : Option (List Byte)} {fac : List Dword} {q : List Instr}

theorem rateCheck {s : State} (h : Kept key fac q s) :
    Kept key fac q (State.rateCheck s) := by
  unfold State.rateCheck
  with_reducible repeat' first | assumption | intro _ | apply put | apply ite | apply dite | apply foldl | split | refine upd ?_

theorem quadKeep {s : State} {x : SampleIn} {q_2 : Quads} (h : Kept key fac q s) :
    Kept key fac q (State.quadKeep s x q_2) := by
  unfold State.quadKeep
  with_reducible repeat' first | assumption | intro _ | apply forEach | apply put | apply ite | apply dite | apply foldl | split | refine upd ?_

theorem commitGroup {s : State} {g : Nat} (h : Kept key fac q s) :
    Kept key fac q (State.commitGroup s g) := by
  unfold State.commitGroup
  with_reducible repeat' first | assumption | intro _ | apply ite | apply dite | apply foldl | split | refine upd ?_

theorem modGroup {s : State} {g : Group} {f : SrvGroup → SrvGroup} (h : Kept key fac q s) :
    Kept key fac q (State.modGroup s g f) := by
  unfold State.modGroup
  with_reducible repeat' first | assumption | intro _ | apply ite | apply dite | apply foldl | split | refine upd ?_

theorem writeMode {s : State} {g : Group} {m : Nat} (h : Kept key fac q s) :
    Kept key fac q (State.writeMode s g m) := by
  unfold State.writeMode
  with_reducible repeat' first | assumption | intro _ | apply wr | apply ite | apply dite | apply foldl | split | refine upd ?_

theorem presetGroup {s : State} {g : Group} {src : Option (List (List Byte))} (h : Kept key fac q s) :
    Kept key fac q (State.presetGroup s g src) := by
  unfold State.presetGroup
  with_reducible repeat' first | assumption | intro _ | apply modGroup | apply ite | apply dite | apply foldl | refine snd ‹_› ?_ | split | refine upd ?_

theorem presetOne {s : State} {p : BitVec 11 × Bool} (h : Kept key fac q s) :
    Kept key fac q (State.presetOne s p) := by
  unfold State.presetOne
  with_reducible repeat' first | assumption | intro _ | apply put | apply presetGroup | apply ite | apply dite | apply foldl | split | refine upd ?_

theorem presetNow {s : State} (h : Kept key fac q s) :
    Kept key fac q (State.presetNow s) := by
  unfold State.presetNow
  with_reducible repeat' first | assumption | intro _ | apply presetOne | apply ite | apply dite | apply foldl | split | refine upd ?_

theorem targetNow {s : State} {g : Group} (h : Kept key fac q s) :
    Kept key fac q (State.targetNow s g) := by
  unfold State.targetNow
  with_reducible repeat' first | assumption | intro _ | apply modGroup | apply forEach | apply setReg | apply wr | apply ite | apply dite | apply foldl | split | refine upd ?_

theorem modeNow {s : State} {g : Group} (h : Kept key fac q s) :
    Kept key fac q (State.modeNow s g) := by
  unfold State.modeNow
  with_reducible repeat' first | assumption | intro _ | apply modGroup | apply put | apply ite | apply dite | apply foldl | split | refine upd ?_

theorem swapLaneNow {s : State} (h : Kept key fac q s) :
    Kept key fac q (State.swapLaneNow s) := by
  unfold State.swapLaneNow
  with_reducible repeat' first | assumption | intro _ | apply retire | apply wr | apply put | apply ite | apply dite | apply foldl | refine snd ‹_› ?_ | split | refine upd ?_

theorem laneRetire {s : State} {l : Fin 5} (h : Kept key fac q s) :
    Kept key fac q (State.laneRetire s l) := by
  unfold State.laneRetire
  with_reducible repeat' first | assumption | intro _ | apply wr | apply put | apply axlAsk | apply taskError | apply ite | apply dite | apply foldl | split | refine upd ?_

theorem lanesLeave {s : State} (h : Kept key fac q s) :
    Kept key fac q (State.lanesLeave s) := by
  unfold State.lanesLeave
  with_reducible repeat' first | assumption | intro _ | apply laneRetire | apply ite | apply dite | apply foldl | split | refine upd ?_

theorem instant {s : State} (h : Kept key fac q s) :
    Kept key fac q (State.instant s) := by
  unfold State.instant
  with_reducible repeat' first | assumption | intro _ | apply commitGroup | apply swapLaneNow | apply lanesLeave | apply presetNow | apply targetNow | apply modeNow | apply ite | apply dite | apply foldl | split | refine upd ?_

theorem laneError {s : State} {l : Fin 5} (h : Kept key fac q s) :
    Kept key fac q (State.laneError s l) := by
  unfold State.laneError
  with_reducible repeat' first | assumption | intro _ | apply bump | apply axlAsk | apply ite | apply dite | apply foldl | split | refine upd ?_

theorem spareError {s : State} {l : Fin 5} (h : Kept key fac q s) :
    Kept key fac q (State.spareError s l) := by
  unfold State.spareError
  with_reducible repeat' first | assumption | intro _ | apply put | apply axlAsk | apply ite | apply dite | apply foldl | split | refine upd ?_

theorem countErrors {s : State} {errs : List ResErr} {shadowDiff : Bool} (h : Kept key fac q s) :
    Kept key fac q (State.countErrors s errs shadowDiff) := by
  unfold State.countErrors
  with_reducible repeat' first | assumption | intro _ | apply bump | apply spareError | apply laneError | apply ite | apply dite | apply foldl | refine snd ‹_› ?_ | split | refine upd ?_

theorem holdCounts {s : State} {h_1 : Holds} (h : Kept key fac q s) :
    Kept key fac q (State.holdCounts s h_1) := by
  unfold State.holdCounts
  with_reducible repeat' first | assumption | intro _ | apply axlAsk | apply taskError | apply ite | apply dite | apply foldl | split | refine upd ?_

theorem poisonGroup {s : State} {g : Group} (h : Kept key fac q s) :
    Kept key fac q (State.poisonGroup s g) := by
  unfold State.poisonGroup
  with_reducible repeat' first | assumption | intro _ | apply writeMode | apply put | apply taskError | apply ite | apply dite | apply foldl | split | refine upd ?_

theorem headSample {s : State} {h_1 : Holds} {quads : List (List Int)} {stale : List Bool} {g : Head} (h : Kept key fac q s) :
    Kept key fac q (State.headSample s h_1 quads stale g) := by
  unfold State.headSample
  with_reducible repeat' first | assumption | intro _ | apply bump | apply put | apply forEach | apply setInt | apply wr | apply bumpBy | apply pmcRise | apply modGroup | apply poisonGroup | apply ite | apply dite | apply foldl | split | refine upd ?_

theorem smallOut {s : State} {c : Fin 7} (h : Kept key fac q s) :
    Kept key fac q (State.smallOut s c) := by
  unfold State.smallOut
  with_reducible repeat' first | assumption | intro _ | apply setInt | apply ite | apply dite | apply foldl | split | refine upd ?_

theorem smallSample {s : State} {h_1 : Holds} {quads : List (List Int)} {c : Fin 7} (h : Kept key fac q s) :
    Kept key fac q (State.smallSample s h_1 quads c) := by
  unfold State.smallSample
  with_reducible repeat' first | assumption | intro _ | apply setInt | apply poisonGroup | apply modGroup | apply ite | apply dite | apply foldl | split | refine upd ?_

theorem srvSample {s : State} {x : SampleIn} {y : Quads} (h : Kept key fac q s) :
    Kept key fac q (State.srvSample s x y) := by
  unfold State.srvSample
  with_reducible repeat' first | assumption | intro _ | apply instant | apply bump64 | apply countErrors | apply smallOut | apply headSample | apply smallSample | apply put | apply wr | apply holdCounts | apply taskError | apply forEach | apply setInt | apply ite | apply dite | apply foldl | split | refine upd ?_

theorem orderPreset {s : State} {mask : BitVec 11} {staged : Bool} (h : Kept key fac q s) :
    Kept key fac q (State.orderPreset s mask staged) := by
  unfold State.orderPreset
  with_reducible repeat' first | assumption | intro _ | apply ite | apply dite | apply foldl | split | refine upd ?_

theorem modSld {s : State} {n : Stepper} {f : Sld → Sld} (h : Kept key fac q s) :
    Kept key fac q (State.modSld s n f) := by
  unfold State.modSld
  with_reducible repeat' first | assumption | intro _ | apply ite | apply dite | apply foldl | split | refine upd ?_

theorem sldPath {s : State} {n : Stepper} {want : Int} {ns : Nat} (h : Kept key fac q s) :
    Kept key fac q (State.sldPath s n want ns) := by
  unfold State.sldPath
  with_reducible repeat' first | assumption | intro _ | apply setInt | apply ite | apply dite | apply foldl | split | refine upd ?_

theorem sldFollow {s : State} {n : Stepper} {ns : Nat} (h : Kept key fac q s) :
    Kept key fac q (State.sldFollow s n ns) := by
  unfold State.sldFollow
  with_reducible repeat' first | assumption | intro _ | apply setInt | apply modSld | apply ite | apply dite | apply foldl | split | refine upd ?_

theorem sldSample {s : State} {pos : List Word} {ns : Nat} (h : Kept key fac q s) :
    Kept key fac q (State.sldSample s pos ns) := by
  unfold State.sldSample
  with_reducible repeat' first | assumption | intro _ | apply sldFollow | apply sldPath | apply ite | apply dite | apply foldl | refine snd ‹_› ?_ | split | refine upd ?_

theorem sldDone {s : State} {n : Stepper} {cls : Nat} (h : Kept key fac q s) :
    Kept key fac q (State.sldDone s n cls) := by
  unfold State.sldDone
  with_reducible repeat' first | assumption | intro _ | apply put | apply wr | apply event | apply ite | apply dite | apply foldl | split | refine upd ?_

theorem sldBegin {s : State} {n : Stepper} {op : Nat} (h : Kept key fac q s) :
    Kept key fac q (State.sldBegin s n op) := by
  unfold State.sldBegin
  with_reducible repeat' first | assumption | intro _ | apply wr | apply put | apply modSld | apply sldDone | apply pmcRise | apply bump | apply ite | apply dite | apply foldl | split | refine upd ?_

theorem sldStall {s : State} {n : Stepper} (h : Kept key fac q s) :
    Kept key fac q (State.sldStall s n) := by
  unfold State.sldStall
  with_reducible repeat' first | assumption | intro _ | apply wr | apply put | apply bumpF | apply sldDone | apply ite | apply dite | apply foldl | split | refine upd ?_

theorem sldRest {s : State} {n : Stepper} {rest : Word} (h : Kept key fac q s) :
    Kept key fac q (State.sldRest s n rest) := by
  unfold State.sldRest
  with_reducible repeat' first | assumption | intro _ | apply setReg | apply wr | apply modSld | apply put | apply sldDone | apply ite | apply dite | apply foldl | split | refine upd ?_

theorem modSpn {s : State} {f : Spn → Spn} (h : Kept key fac q s) :
    Kept key fac q (State.modSpn s f) := by
  unfold State.modSpn
  with_reducible repeat' first | assumption | intro _ | apply ite | apply dite | apply foldl | split | refine upd ?_

theorem speedNow {s : State} (h : Kept key fac q s) :
    Kept key fac q (State.speedNow s) := by
  unfold State.speedNow
  with_reducible repeat' first | assumption | intro _ | apply setReg | apply put | apply ite | apply dite | apply foldl | split | refine upd ?_

theorem spnGo {s : State} {k : Nat} (h : Kept key fac q s) :
    Kept key fac q (State.spnGo s k) := by
  unfold State.spnGo
  extract_lets s1 s2 s3
  have h1 : Kept key fac q s1 := h.wr _ _
  clear_value s1
  have h2 : Kept key fac q s2 := ite h1 (h1.put _ _)
  clear_value s2
  have h3 : Kept key fac q s3 := ite (h2.put _ _) h2
  exact ite h3.writeMode h3

theorem spnEnd {s : State} {cls : Nat} (h : Kept key fac q s) :
    Kept key fac q (State.spnEnd s cls) := by
  unfold State.spnEnd
  with_reducible repeat' first | assumption | intro _ | apply modSpn | apply put | apply wr | apply event | apply ite | apply dite | apply foldl | split | refine upd ?_

theorem spnAccept {s : State} {op : Nat} (h : Kept key fac q s) :
    Kept key fac q (State.spnAccept s op) := by
  unfold State.spnAccept
  with_reducible repeat' first | assumption | intro _ | apply spnEnd | apply modSpn | apply put | apply ite | apply dite | apply foldl | split | refine upd ?_

theorem spnCommand {s : State} {op : Nat} {run : State → State} (h : Kept key fac q s) (hrun : ∀ s, Kept key fac q s → Kept key fac q (run s)) :
    Kept key fac q (State.spnCommand s op run) := by
  unfold State.spnCommand
  split
  · rename_i f cls _
    cases cls with
    | none => exact (h.put _ _).bump _
    | some c => exact ((h.put _ _).bump _).wr _ _
  · exact hrun _ h.spnAccept

theorem spnTarget {s : State} {rpm : Nat} (h : Kept key fac q s) :
    Kept key fac q (State.spnTarget s rpm) := by
  unfold State.spnTarget
  with_reducible repeat' first | assumption | intro _ | apply wr | apply put | apply ite | apply dite | apply foldl | split | refine upd ?_

theorem vectorRest {s : State} (h : Kept key fac q s) :
    Kept key fac q (State.vectorRest s) := by
  unfold State.vectorRest
  with_reducible repeat' first | assumption | intro _ | apply modSpn | apply ite | apply dite | apply foldl | split | refine upd ?_

theorem spnAlign {s : State} (h : Kept key fac q s) :
    Kept key fac q (State.spnAlign s) := by
  unfold State.spnAlign
  with_reducible repeat' first | assumption | intro _ | apply vectorRest | apply modSpn | apply bump | apply spnGo | apply ite | apply dite | apply foldl | split | refine upd ?_

theorem spinRun {s : State} (h : Kept key fac q s) :
    Kept key fac q (State.spinRun s) := by
  unfold State.spinRun
  with_reducible repeat' first | assumption | intro _ | apply modSpn | apply spnAlign | apply spnGo | apply ite | apply dite | apply foldl | split | refine upd ?_

theorem stopRun {s : State} (h : Kept key fac q s) :
    Kept key fac q (State.stopRun s) := by
  unfold State.stopRun
  with_reducible repeat' first | assumption | intro _ | apply spnTarget | apply spnGo | apply modSpn | apply spnEnd | apply ite | apply dite | apply foldl | split | refine upd ?_

theorem coastRun {s : State} (h : Kept key fac q s) :
    Kept key fac q (State.coastRun s) := by
  unfold State.coastRun
  with_reducible repeat' first | assumption | intro _ | apply spnGo | apply modSpn | apply spnEnd | apply ite | apply dite | apply foldl | split | refine upd ?_

theorem parkRun {s : State} (h : Kept key fac q s) :
    Kept key fac q (State.parkRun s) := by
  unfold State.parkRun
  with_reducible repeat' first | assumption | intro _ | apply spnTarget | apply put | apply spnGo | apply modSpn | apply ite | apply dite | apply foldl | split | refine upd ?_

theorem brakeRun {s : State} (h : Kept key fac q s) :
    Kept key fac q (State.brakeRun s) := by
  unfold State.brakeRun
  with_reducible repeat' first | assumption | intro _ | apply spnGo | apply modSpn | apply ite | apply dite | apply foldl | split | refine upd ?_

theorem rotateRun {s : State} (h : Kept key fac q s) :
    Kept key fac q (State.rotateRun s) := by
  unfold State.rotateRun
  with_reducible repeat' first | assumption | intro _ | apply vectorRest | apply spnGo | apply modSpn | apply ite | apply dite | apply foldl | split | refine upd ?_

theorem traceFreeze {s : State} {tr : List Word} (h : Kept key fac q s) :
    Kept key fac q (State.traceFreeze s tr) := by
  unfold State.traceFreeze
  with_reducible repeat' first | assumption | intro _ | apply forEach | apply setReg | apply draw | apply ite | apply dite | apply foldl | refine snd ‹_› ?_ | split | refine upd ?_

theorem spnFails {s : State} {cause : SpnCause} {trace : List Word} (h : Kept key fac q s) :
    Kept key fac q (State.spnFails s cause trace) := by
  unfold State.spnFails
  with_reducible repeat' first | assumption | intro _ | apply put | apply bump | apply traceFreeze | apply spnGo | apply modSpn | apply spnEnd | apply ite | apply dite | apply foldl | split | refine upd ?_

theorem spnFault {s : State} {cause : SpnCause} {trace : List Word} (h : Kept key fac q s) :
    Kept key fac q (State.spnFault s cause trace) := by
  unfold State.spnFault
  with_reducible repeat' first | assumption | intro _ | apply spnFails | apply taskError | apply ite | apply dite | apply foldl | split | refine upd ?_

theorem spnStatWrite {s : State} {v : Word} (h : Kept key fac q s) :
    Kept key fac q (State.spnStatWrite s v) := by
  unfold State.spnStatWrite
  with_reducible repeat' first | assumption | intro _ | apply setReg | apply spnGo | apply ite | apply dite | apply foldl | split | refine upd ?_

theorem spnRun {s : State} (h : Kept key fac q s) :
    Kept key fac q (State.spnRun s) := by
  unfold State.spnRun
  with_reducible repeat' first | assumption | intro _ | apply spnGo | apply writeMode | apply setReg | apply modSpn | apply ite | apply dite | apply foldl | split | refine upd ?_

theorem spnRetry {s : State} (h : Kept key fac q s) :
    Kept key fac q (State.spnRetry s) := by
  unfold State.spnRetry
  with_reducible repeat' first | assumption | intro _ | apply spnAlign | apply spnFault | apply ite | apply dite | apply foldl | split | refine upd ?_

theorem parkLatch {s : State} (h : Kept key fac q s) :
    Kept key fac q (State.parkLatch s) := by
  unfold State.parkLatch
  with_reducible repeat' first | assumption | intro _ | apply spnEnd | apply modSpn | apply setReg | apply put | apply ite | apply dite | apply foldl | split | refine upd ?_

theorem spnSense {s : State} {x : SampleIn} (h : Kept key fac q s) :
    Kept key fac q (State.spnSense s x) := by
  unfold State.spnSense
  with_reducible repeat' first | assumption | intro _ | apply modSpn | apply setReg | apply speedNow | apply ite | apply dite | apply foldl | split | refine upd ?_

theorem setVector {s : State} {v : Int} (h : Kept key fac q s) :
    Kept key fac q (State.setVector s v) := by
  unfold State.setVector
  with_reducible repeat' first | assumption | intro _ | apply modSpn | apply ite | apply dite | apply foldl | split | refine upd ?_

theorem vectorSample {s : State} {ns : Nat} (h : Kept key fac q s) :
    Kept key fac q (State.vectorSample s ns) := by
  unfold State.vectorSample
  with_reducible repeat' first | assumption | intro _ | apply setVector | apply modSpn | apply spnGo | apply spnEnd | apply ite | apply dite | apply foldl | split | refine upd ?_

theorem pwmPeriod {s : State} {qmax : Nat} (h : Kept key fac q s) :
    Kept key fac q (State.pwmPeriod s qmax) := by
  unfold State.pwmPeriod
  with_reducible repeat' first | assumption | intro _ | apply bump | apply modSpn | apply ite | apply dite | apply foldl | split | refine upd ?_

theorem pwmSample {s : State} {qmax : Nat} {ns : Nat} (h : Kept key fac q s) :
    Kept key fac q (State.pwmSample s qmax ns) := by
  unfold State.pwmSample
  with_reducible repeat' first | assumption | intro _ | apply forEach | apply pwmPeriod | apply modSpn | apply ite | apply dite | apply foldl | split | refine upd ?_

theorem brakeOwn {s : State} (h : Kept key fac q s) :
    Kept key fac q (State.brakeOwn s) := by
  unfold State.brakeOwn
  with_reducible repeat' first | assumption | intro _ | apply spnGo | apply modSpn | apply spnEnd | apply ite | apply dite | apply foldl | split | refine upd ?_

theorem loopSample {s : State} {ns : Nat} (h : Kept key fac q s) :
    Kept key fac q (State.loopSample s ns) := by
  unfold State.loopSample
  with_reducible repeat' first | assumption | intro _ | apply setInt | apply modSpn | apply brakeOwn | apply ite | apply dite | apply foldl | split | refine upd ?_

theorem spnSample {s : State} {x : SampleIn} (h : Kept key fac q s) :
    Kept key fac q (State.spnSample s x) := by
  unfold State.spnSample
  with_reducible repeat' first | assumption | intro _ | apply spnSense | apply loopSample | apply parkLatch | apply vectorSample | apply spnGo | apply setVector | apply modSpn | apply pwmSample | apply ite | apply dite | apply foldl | split | refine upd ?_

theorem modLsv {s : State} {h_1 : Head} {f : Lsv → Lsv} (h : Kept key fac q s) :
    Kept key fac q (State.modLsv s h_1 f) := by
  unfold State.modLsv
  with_reducible repeat' first | assumption | intro _ | apply ite | apply dite | apply foldl | split | refine upd ?_

theorem leaveFollow {s : State} {h_1 : Head} (h : Kept key fac q s) :
    Kept key fac q (State.leaveFollow s h_1) := by
  unfold State.leaveFollow
  with_reducible repeat' first | assumption | intro _ | apply headAbort | apply gatesEarly | apply modLsv | apply ite | apply dite | apply foldl | split | refine upd ?_

theorem lsvGo {s : State} {h_1 : Head} {k : Nat} (h : Kept key fac q s) :
    Kept key fac q (State.lsvGo s h_1 k) := by
  unfold State.lsvGo
  with_reducible repeat' first | assumption | intro _ | apply modLsv | apply wr | apply pmcRise | apply ite | apply dite | apply foldl | refine snd ‹_› ?_ | split | refine upd ?_

theorem loadSet {s : State} {h_1 : Head} {t : Bool} (h : Kept key fac q s) :
    Kept key fac q (State.loadSet s h_1 t) := by
  unfold State.loadSet
  with_reducible repeat' first | assumption | intro _ | apply touchLines | apply forEach | apply setReg | apply ite | apply dite | apply foldl | split | refine upd ?_

theorem commitSet {s : State} {h_1 : Head} (h : Kept key fac q s) :
    Kept key fac q (State.commitSet s h_1) := by
  unfold State.commitSet
  with_reducible repeat' first | assumption | intro _ | apply ite | apply dite | apply foldl | split | refine upd ?_

theorem driveCoil {s : State} {h_1 : Head} {j : Nat} {u : Int} (h : Kept key fac q s) :
    Kept key fac q (State.driveCoil s h_1 j u) := by
  unfold State.driveCoil
  with_reducible repeat' first | assumption | intro _ | apply setInt | apply ite | apply dite | apply foldl | split | refine upd ?_

theorem lsvDone {s : State} {h_1 : Head} {cls : Nat} (h : Kept key fac q s) :
    Kept key fac q (State.lsvDone s h_1 cls) := by
  unfold State.lsvDone
  with_reducible repeat' first | assumption | intro _ | apply modLsv | apply put | apply wr | apply event | apply ite | apply dite | apply foldl | split | refine upd ?_

theorem lsvFailed {s : State} {h_1 : Head} {cls : Nat} (h : Kept key fac q s) :
    Kept key fac q (State.lsvFailed s h_1 cls) := by
  unfold State.lsvFailed
  with_reducible repeat' first | assumption | intro _ | apply writeMode | apply put | apply modLsv | apply lsvGo | apply lsvDone | apply taskError | apply ite | apply dite | apply foldl | split | refine upd ?_

theorem lsvStalled {s : State} {h_1 : Head} {cls : Nat} (h : Kept key fac q s) :
    Kept key fac q (State.lsvStalled s h_1 cls) := by
  unfold State.lsvStalled
  with_reducible repeat' first | assumption | intro _ | apply lsvFailed | apply lsvDone | apply taskError | apply ite | apply dite | apply foldl | refine snd ‹_› ?_ | split | refine upd ?_

theorem supMove {s : State} {n : Stepper} {h_2 : Head} {target : Int} (h : Kept key fac q s) :
    Kept key fac q (State.supMove s n h_2 target) := by
  unfold State.supMove
  with_reducible repeat' first | assumption | intro _ | apply put | apply lsvStalled | apply setInt | apply sldBegin | apply modSld | apply sldStall | apply ite | apply dite | apply foldl | refine snd ‹_› ?_ | split | refine upd ?_

theorem lsvFollow {s : State} {h_1 : Head} (h : Kept key fac q s) :
    Kept key fac q (State.lsvFollow s h_1) := by
  unfold State.lsvFollow
  with_reducible repeat' first | assumption | intro _ | apply lsvGo | apply lsvDone | apply ite | apply dite | apply foldl | split | refine upd ?_

theorem samove {s : State} {h_1 : Head} {target : Int} (h : Kept key fac q s) :
    Kept key fac q (State.samove s h_1 target) := by
  unfold State.samove
  with_reducible repeat' first | assumption | intro _ | apply modLsv | apply writeMode | apply lsvGo | apply supMove | apply ite | apply dite | apply foldl | split | refine upd ?_

theorem fsearch {s : State} {h_1 : Head} (h : Kept key fac q s) :
    Kept key fac q (State.fsearch s h_1) := by
  unfold State.fsearch
  with_reducible repeat' first | assumption | intro _ | apply loadSet | apply setInt | apply modLsv | apply put | apply writeMode | apply lsvGo | apply ite | apply dite | apply foldl | split | refine upd ?_

theorem fsettle {s : State} {h_1 : Head} (h : Kept key fac q s) :
    Kept key fac q (State.fsettle s h_1) := by
  unfold State.fsettle
  with_reducible repeat' first | assumption | intro _ | apply driveCoil | apply put | apply modLsv | apply lsvGo | apply ite | apply dite | apply foldl | split | refine upd ?_

theorem tpull {s : State} {h_1 : Head} (h : Kept key fac q s) :
    Kept key fac q (State.tpull s h_1) := by
  unfold State.tpull
  with_reducible repeat' first | assumption | intro _ | apply driveCoil | apply modLsv | apply lsvGo | apply ite | apply dite | apply foldl | split | refine upd ?_

theorem confirmMode {s : State} {h_1 : Head} (h : Kept key fac q s) :
    Kept key fac q (State.confirmMode s h_1) := by
  unfold State.confirmMode
  with_reducible repeat' first | assumption | intro _ | apply writeMode | apply ite | apply dite | apply foldl | refine snd ‹_› ?_ | split | refine upd ?_

theorem confirm {s : State} {h_1 : Head} (h : Kept key fac q s) :
    Kept key fac q (State.confirm s h_1) := by
  unfold State.confirm
  with_reducible repeat' first | assumption | intro _ | apply loadSet | apply commitSet | apply put | apply lsvGo | apply confirmMode | apply ite | apply dite | apply foldl | split | refine upd ?_

theorem acquireStage {s : State} {h_1 : Head} {layer : Nat} (h : Kept key fac q s) :
    Kept key fac q (State.acquireStage s h_1 layer) := by
  unfold State.acquireStage
  with_reducible repeat' first | assumption | intro _ | apply modLsv | apply samove | apply ite | apply dite | apply foldl | split | refine upd ?_

theorem singleJump {s : State} {h_1 : Head} (h : Kept key fac q s) :
    Kept key fac q (State.singleJump s h_1) := by
  unfold State.singleJump
  with_reducible repeat' first | assumption | intro _ | apply modLsv | apply samove | apply ite | apply dite | apply foldl | split | refine upd ?_

theorem layerRun {s : State} {h_1 : Head} (h : Kept key fac q s) :
    Kept key fac q (State.layerRun s h_1) := by
  unfold State.layerRun
  with_reducible repeat' first | assumption | intro _ | apply lsvFollow | apply singleJump | apply ite | apply dite | apply foldl | split | refine upd ?_

theorem ljump {s : State} {h_1 : Head} (h : Kept key fac q s) :
    Kept key fac q (State.ljump s h_1) := by
  unfold State.ljump
  with_reducible repeat' first | assumption | intro _ | apply loadSet | apply forEach | apply setInt | apply modLsv | apply put | apply bump | apply writeMode | apply lsvGo | apply ite | apply dite | apply foldl | split | refine upd ?_

theorem jumpLaunch {s : State} {h_1 : Head} (h : Kept key fac q s) :
    Kept key fac q (State.jumpLaunch s h_1) := by
  unfold State.jumpLaunch
  with_reducible repeat' first | assumption | intro _ | apply leaveFollow | apply loadSet | apply commitSet | apply driveCoil | apply modLsv | apply put | apply bump | apply lsvGo | apply ite | apply dite | apply foldl | split | refine upd ?_

theorem jumpRun {s : State} {h_1 : Head} {d : Int} (h : Kept key fac q s) :
    Kept key fac q (State.jumpRun s h_1 d) := by
  unfold State.jumpRun
  with_reducible repeat' first | assumption | intro _ | apply modLsv | apply jumpLaunch | apply ite | apply dite | apply foldl | split | refine upd ?_

theorem seekHead {s : State} {h_1 : Head} {op : LsvOp} (h : Kept key fac q s) :
    Kept key fac q (State.seekHead s h_1 op) := by
  unfold State.seekHead
  with_reducible repeat' first | assumption | intro _ | apply leaveFollow | apply loadSet | apply commitSet | apply driveCoil | apply modLsv | apply put | apply lsvGo | apply ite | apply dite | apply foldl | split | refine upd ?_

theorem gazelle {s : State} {h_1 : Head} {d : Int} (h : Kept key fac q s) :
    Kept key fac q (State.gazelle s h_1 d) := by
  unfold State.gazelle
  with_reducible repeat' first | assumption | intro _ | apply seekHead | apply modLsv | apply put | apply writeMode | apply bump | apply setReg | apply supMove | apply ite | apply dite | apply foldl | split | refine upd ?_

theorem seekRun {s : State} {h_1 : Head} (h : Kept key fac q s) :
    Kept key fac q (State.seekRun s h_1) := by
  unfold State.seekRun
  with_reducible repeat' first | assumption | intro _ | apply lsvFollow | apply jumpRun | apply gazelle | apply ite | apply dite | apply foldl | split | refine upd ?_

theorem acquireFailed {s : State} {h_1 : Head} {cls : Nat} (h : Kept key fac q s) :
    Kept key fac q (State.acquireFailed s h_1 cls) := by
  unfold State.acquireFailed
  with_reducible repeat' first | assumption | intro _ | apply modLsv | apply fsearch | apply acquireStage | apply lsvFailed | apply ite | apply dite | apply foldl | refine snd ‹_› ?_ | split | refine upd ?_

theorem innerFailed {s : State} {h_1 : Head} {cls : Nat} (h : Kept key fac q s) :
    Kept key fac q (State.innerFailed s h_1 cls) := by
  unfold State.innerFailed
  with_reducible repeat' first | assumption | intro _ | apply modLsv | apply acquireStage | apply lsvFailed | apply ite | apply dite | apply foldl | refine snd ‹_› ?_ | split | refine upd ?_

theorem singleJumpFailed {s : State} {h_1 : Head} (h : Kept key fac q s) :
    Kept key fac q (State.singleJumpFailed s h_1) := by
  unfold State.singleJumpFailed
  with_reducible repeat' first | assumption | intro _ | apply innerFailed | apply modLsv | apply fsearch | apply ite | apply dite | apply foldl | split | refine upd ?_

theorem moveFailed {s : State} {h_1 : Head} (h : Kept key fac q s) :
    Kept key fac q (State.moveFailed s h_1) := by
  unfold State.moveFailed
  with_reducible repeat' first | assumption | intro _ | apply gazelle | apply innerFailed | apply ite | apply dite | apply foldl | split | refine upd ?_

theorem stageFailed {s : State} {h_1 : Head} {foc : Bool} (h : Kept key fac q s) :
    Kept key fac q (State.stageFailed s h_1 foc) := by
  unfold State.stageFailed
  with_reducible repeat' first | assumption | intro _ | apply acquireFailed | apply singleJumpFailed | apply innerFailed | apply moveFailed | apply lsvFailed | apply ite | apply dite | apply foldl | refine snd ‹_› ?_ | split | refine upd ?_

theorem acquireLanded {s : State} {h_1 : Head} (h : Kept key fac q s) :
    Kept key fac q (State.acquireLanded s h_1) := by
  unfold State.acquireLanded
  with_reducible repeat' first | assumption | intro _ | apply lsvFollow | apply lsvGo | apply jumpRun | apply innerFailed | apply modLsv | apply gazelle | apply ite | apply dite | apply foldl | split | refine upd ?_

theorem seekLanded {s : State} {h_1 : Head} (h : Kept key fac q s) :
    Kept key fac q (State.seekLanded s h_1) := by
  unfold State.seekLanded
  with_reducible repeat' first | assumption | intro _ | apply lsvFollow | apply singleJump | apply ite | apply dite | apply foldl | split | refine upd ?_

theorem jumpLanded {s : State} {h_1 : Head} (h : Kept key fac q s) :
    Kept key fac q (State.jumpLanded s h_1) := by
  unfold State.jumpLanded
  with_reducible repeat' first | assumption | intro _ | apply seekLanded | apply lsvFollow | apply ite | apply dite | apply foldl | refine snd ‹_› ?_ | split | refine upd ?_

theorem lsvConfirmed {s : State} {h_1 : Head} {layer : Nat} {band : Int} (h : Kept key fac q s) :
    Kept key fac q (State.lsvConfirmed s h_1 layer band) := by
  unfold State.lsvConfirmed
  with_reducible repeat' first | assumption | intro _ | apply acquireLanded | apply acquireFailed | apply lsvFollow | apply singleJump | apply singleJumpFailed | apply jumpLanded | apply innerFailed | apply moveFailed | apply seekLanded | apply lsvGo | apply jumpRun | apply lsvFailed | apply ite | apply dite | apply foldl | refine snd ‹_› ?_ | split | refine upd ?_

theorem lost {s : State} {h_1 : Head} {foc : Bool} {k : Nat} {b : Int} (h : Kept key fac q s) :
    Kept key fac q (State.lost s h_1 foc k b) := by
  unfold State.lost
  with_reducible repeat' first | assumption | intro _ | apply bump | apply modLsv | apply leaveFollow | apply put | apply lsvFailed | apply acquireStage | apply stageFailed | apply ite | apply dite | apply foldl | split | refine upd ?_

theorem lostHere {s : State} {h_1 : Head} {foc : Bool} (h : Kept key fac q s) :
    Kept key fac q (State.lostHere s h_1 foc) := by
  unfold State.lostHere
  with_reducible repeat' first | assumption | intro _ | apply lost | apply ite | apply dite | apply foldl | split | refine upd ?_

theorem slip {s : State} {h_1 : Head} {k : Nat} {b : Int} (h : Kept key fac q s) :
    Kept key fac q (State.slip s h_1 k b) := by
  unfold State.slip
  with_reducible repeat' first | assumption | intro _ | apply bump | apply modLsv | apply lost | apply ite | apply dite | apply foldl | split | refine upd ?_

theorem lsvFrameZero {s : State} {h_1 : Head} (h : Kept key fac q s) :
    Kept key fac q (State.lsvFrameZero s h_1) := by
  unfold State.lsvFrameZero
  with_reducible repeat' first | assumption | intro _ | apply modLsv | apply ite | apply dite | apply foldl | split | refine upd ?_

theorem lsvChannelFault {s : State} {h_1 : Head} (h : Kept key fac q s) :
    Kept key fac q (State.lsvChannelFault s h_1) := by
  unfold State.lsvChannelFault
  with_reducible repeat' first | assumption | intro _ | apply leaveFollow | apply put | apply lsvFailed | apply setRlvl | apply ite | apply dite | apply foldl | split | refine upd ?_

theorem lsvCommand {s : State} {h_1 : Head} {op : Nat} {delta : Int} {run : State → State} (h : Kept key fac q s) (hrun : ∀ s, Kept key fac q s → Kept key fac q (run s)) :
    Kept key fac q (State.lsvCommand s h_1 op delta run) := by
  unfold State.lsvCommand
  split
  · exact h.put _ _
  · exact hrun _ h

theorem lsvBegin {s : State} {h_1 : Head} {op : LsvOp} (h : Kept key fac q s) :
    Kept key fac q (State.lsvBegin s h_1 op) := by
  unfold State.lsvBegin
  with_reducible repeat' first | assumption | intro _ | apply modLsv | apply put | apply ite | apply dite | apply foldl | split | refine upd ?_

theorem releaseRun {s : State} {h_1 : Head} (h : Kept key fac q s) :
    Kept key fac q (State.releaseRun s h_1) := by
  unfold State.releaseRun
  with_reducible repeat' first | assumption | intro _ | apply leaveFollow | apply writeMode | apply put | apply modLsv | apply lsvGo | apply lsvDone | apply ite | apply dite | apply foldl | split | refine upd ?_

theorem lsvStopRun {s : State} {h_1 : Head} (h : Kept key fac q s) :
    Kept key fac q (State.lsvStopRun s h_1) := by
  unfold State.lsvStopRun
  with_reducible repeat' first | assumption | intro _ | apply draw | apply modSld | apply sldRest | apply lsvDone | apply ite | apply dite | apply foldl | refine snd ‹_› ?_ | split | refine upd ?_

theorem lsvCmdWrite {s : State} {h_1 : Head} {v : Word} (h : Kept key fac q s) :
    Kept key fac q (State.lsvCmdWrite s h_1 v) := by
  unfold State.lsvCmdWrite
  extract_lets d
  split
  · exact h
  · exact h.lsvCommand fun _ h => h.leaveFollow.lsvBegin.acquireStage
  · exact h.lsvCommand fun _ h => (ite h h.leaveFollow).lsvBegin.layerRun
  · exact h.lsvCommand fun _ h => h.lsvBegin.jumpRun
  · exact h.lsvCommand fun _ h => h.lsvBegin.seekRun
  · exact h.lsvCommand fun _ h => h.releaseRun
  · exact h.lsvCommand fun _ h => h.lsvStopRun
  · exact h.lsvCommand fun _ h => h

theorem sledClose {s : State} {sl : Sled} (h : Kept key fac q s) :
    Kept key fac q (State.sledClose s sl) := by
  unfold State.sledClose
  with_reducible repeat' first | assumption | intro _ | apply setReg | apply writeMode | apply ite | apply dite | apply foldl | split | refine upd ?_

theorem lsvMoveDone {s : State} {h_1 : Head} (h : Kept key fac q s) :
    Kept key fac q (State.lsvMoveDone s h_1) := by
  unfold State.lsvMoveDone
  with_reducible repeat' first | assumption | intro _ | apply fsearch | apply ljump | apply fsettle | apply ite | apply dite | apply foldl | refine snd ‹_› ?_ | split | refine upd ?_

theorem searchSample {s : State} {h_1 : Head} {sum : Int} {e0 : Int} (h : Kept key fac q s) :
    Kept key fac q (State.searchSample s h_1 sum e0) := by
  unfold State.searchSample
  with_reducible repeat' first | assumption | intro _ | apply modLsv | apply writeMode | apply commitSet | apply fsettle | apply stageFailed | apply setInt | apply ite | apply dite | apply foldl | split | refine upd ?_

theorem ljumpSample {s : State} {h_1 : Head} {sum : Int} {e0 : Int} (h : Kept key fac q s) :
    Kept key fac q (State.ljumpSample s h_1 sum e0) := by
  unfold State.ljumpSample
  with_reducible repeat' first | assumption | intro _ | apply modLsv | apply setInt | apply writeMode | apply commitSet | apply put | apply driveCoil | apply lsvGo | apply supMove | apply ite | apply dite | apply foldl | split | refine upd ?_

theorem bjumpSample {s : State} {h_1 : Head} {crossings : Nat} (h : Kept key fac q s) :
    Kept key fac q (State.bjumpSample s h_1 crossings) := by
  unfold State.bjumpSample
  with_reducible repeat' first | assumption | intro _ | apply modLsv | apply confirm | apply driveCoil | apply ite | apply dite | apply foldl | split | refine upd ?_

theorem tpullSample {s : State} {h_1 : Head} {crossings : Nat} {centre : List Nat} (h : Kept key fac q s) :
    Kept key fac q (State.tpullSample s h_1 crossings centre) := by
  unfold State.tpullSample
  with_reducible repeat' first | assumption | intro _ | apply modLsv | apply confirm | apply ite | apply dite | apply foldl | split | refine upd ?_

theorem lsvJudge {s : State} {h_1 : Head} {sum : Int} (h : Kept key fac q s) :
    Kept key fac q (State.lsvJudge s h_1 sum) := by
  unfold State.lsvJudge
  with_reducible repeat' first | assumption | intro _ | apply modLsv | apply ite | apply dite | apply foldl | split | refine upd ?_

theorem lsvSample {s : State} {y : Quads} {h_2 : Head} (h : Kept key fac q s) :
    Kept key fac q (State.lsvSample s y h_2) := by
  unfold State.lsvSample
  with_reducible repeat' first | assumption | intro _ | apply lsvJudge | apply searchSample | apply modLsv | apply tpullSample | apply ljumpSample | apply bjumpSample | apply bumpBy | apply ite | apply dite | apply foldl | refine snd ‹_› ?_ | split | refine upd ?_

theorem sldReport {s : State} {n : Stepper} {ok : Bool} (h : Kept key fac q s) :
    Kept key fac q (State.sldReport s n ok) := by
  unfold State.sldReport
  with_reducible repeat' first | assumption | intro _ | apply modSld | apply lsvMoveDone | apply lsvStalled | apply taskError | apply ite | apply dite | apply foldl | refine snd ‹_› ?_ | split | refine upd ?_

theorem deenergise {s : State} {n : Stepper} (h : Kept key fac q s) :
    Kept key fac q (State.deenergise s n) := by
  unfold State.deenergise
  with_reducible repeat' first | assumption | intro _ | apply sldStall | apply put | apply sldReport | apply ite | apply dite | apply foldl | split | refine upd ?_

theorem sldStart {s : State} {n : Stepper} {op : Nat} {rest : Word} (h : Kept key fac q s) :
    Kept key fac q (State.sldStart s n op rest) := by
  unfold State.sldStart
  with_reducible repeat' first | assumption | intro _ | apply modSld | apply sldRest | apply sldBegin | apply deenergise | apply lsvMoveDone | apply ite | apply dite | apply foldl | refine snd ‹_› ?_ | split | refine upd ?_

theorem sldCommand {s : State} {n : Stepper} {op : Nat} {arm : Bool} {rest : optParam Word 0} (h : Kept key fac q s) :
    Kept key fac q (State.sldCommand s n op arm rest) := by
  unfold State.sldCommand
  with_reducible repeat' first | assumption | intro _ | apply put | apply wr | apply sldStart | apply ite | apply dite | apply foldl | refine snd ‹_› ?_ | split | refine upd ?_

theorem sldStartAct {s : State} {k : Nat} (h : Kept key fac q s) :
    Kept key fac q (State.sldStartAct s k) := by
  unfold State.sldStartAct
  with_reducible repeat' first | assumption | intro _ | apply put | apply draw | apply sldStart | apply ite | apply dite | apply foldl | refine snd ‹_› ?_ | split | refine upd ?_

theorem sldStopRun {s : State} {n : Stepper} {arm : Bool} {rest : Word} (h : Kept key fac q s) :
    Kept key fac q (State.sldStopRun s n arm rest) := by
  unfold State.sldStopRun
  with_reducible repeat' first | assumption | intro _ | apply sldCommand | apply ite | apply dite | apply foldl | split | refine upd ?_

theorem sldPosWrite {s : State} {n : Stepper} {v : Word} (h : Kept key fac q s) :
    Kept key fac q (State.sldPosWrite s n v) := by
  unfold State.sldPosWrite
  with_reducible repeat' first | assumption | intro _ | apply setReg | apply put | apply ite | apply dite | apply foldl | split | refine upd ?_

theorem stagesOff {s : State} (h : Kept key fac q s) :
    Kept key fac q (State.stagesOff s) := by
  unfold State.stagesOff
  with_reducible repeat' first | assumption | intro _ | apply dropGates | apply deenergise | apply spnFault | apply ite | apply dite | apply foldl | split | refine upd ?_

theorem lddStatWrite {s : State} {c : Chan} {v : Word} (h : Kept key fac q s) :
    Kept key fac q (State.lddStatWrite s c v) := by
  unfold State.lddStatWrite
  with_reducible repeat' first | assumption | intro _ | apply setReg | apply ite | apply dite | apply foldl | split | refine upd ?_

theorem setAngFlags {s : State} {valid : Bool} {holdover : Bool} (h : Kept key fac q s) :
    Kept key fac q (State.setAngFlags s valid holdover) := by
  unfold State.setAngFlags
  with_reducible repeat' first | assumption | intro _ | apply setReg | apply ite | apply dite | apply foldl | split | refine upd ?_

theorem flow {s : State} {now : Angle} (h : Kept key fac q s) :
    Kept key fac q (State.flow s now) := by
  unfold State.flow
  with_reducible repeat' first | assumption | intro _ | apply ite | apply dite | apply foldl | split | refine upd ?_

theorem modEntry {s : State} {i : Entry} {f : AngEntry → AngEntry} (h : Kept key fac q s) :
    Kept key fac q (State.modEntry s i f) := by
  unfold State.modEntry
  with_reducible repeat' first | assumption | intro _ | apply ite | apply dite | apply foldl | split | refine upd ?_

theorem zonePend {s : State} {h_1 : Head} {z : Nat} (h : Kept key fac q s) :
    Kept key fac q (State.zonePend s h_1 z) := by
  unfold State.zonePend
  with_reducible repeat' first | assumption | intro _ | apply put | apply ite | apply dite | apply foldl | split | refine upd ?_

theorem zoneSwitchAct {s : State} {k : Nat} (h : Kept key fac q s) :
    Kept key fac q (State.zoneSwitchAct s k) := by
  unfold State.zoneSwitchAct
  with_reducible repeat' first | assumption | intro _ | apply zonePend | apply ite | apply dite | apply foldl | refine snd ‹_› ?_ | split | refine upd ?_

theorem srvTargetAct {s : State} {k : Nat} (h : Kept key fac q s) :
    Kept key fac q (State.srvTargetAct s k) := by
  unfold State.srvTargetAct
  with_reducible repeat' first | assumption | intro _ | apply modGroup | apply put | apply ite | apply dite | apply foldl | split | refine upd ?_

theorem scrubTickAct {s : State} (h : Kept key fac q s) :
    Kept key fac q (State.scrubTickAct s) := by
  unfold State.scrubTickAct
  with_reducible repeat' first | assumption | intro _ | apply pmcRise | apply setReg | apply ite | apply dite | apply foldl | split | refine upd ?_

theorem onBeam {s : State} {k : Nat} {f : Beam → State → State} (h : Kept key fac q s) (hf : ∀ a s, Kept key fac q s → Kept key fac q (f a s)) :
    Kept key fac q (State.onBeam s k f) := by
  unfold State.onBeam
  exact dite (fun _ => hf _ _ h) fun _ => h

theorem act {s : State} {e : AngEntry} {late : Bool} {lead : Bool} (h : Kept key fac q s) :
    Kept key fac q (State.act s e late lead) := by
  unfold State.act
  extract_lets arg
  split
  · exact h.onBeam fun _ _ h => h.detApplyMode.gateAct
  · exact h.onBeam fun _ _ h => h.gateClose
  · exact h.lpowerAct
  · exact h.onBeam fun _ _ h => h.captureAct
  · exact h.srvTargetAct
  · exact h.sldStartAct
  · exact h.seqFire
  · exact h.scrubTickAct
  · exact h.zoneSwitchAct
  · exact h

theorem fire {s : State} {i : Entry} {late : Bool} {lead : Bool} (h : Kept key fac q s) :
    Kept key fac q (State.fire s i late lead) := by
  unfold State.fire
  with_reducible repeat' first | assumption | intro _ | apply modEntry | apply bump | apply act | apply ite | apply dite | apply foldl | split | refine upd ?_

theorem fireLate {s : State} {sel : AngEntry → Bool} (h : Kept key fac q s) :
    Kept key fac q (State.fireLate s sel) := by
  unfold State.fireLate
  with_reducible repeat' first | assumption | intro _ | apply forEach | apply fire | apply ite | apply dite | apply foldl | split | refine upd ?_

theorem fireAt {s : State} {i : Entry} {now : Angle} {action : Nat} {lead : Bool} (h : Kept key fac q s) :
    Kept key fac q (State.fireAt s i now action lead) := by
  unfold State.fireAt
  with_reducible repeat' first | assumption | intro _ | apply flow | apply fire | apply ite | apply dite | apply foldl | split | refine upd ?_

theorem seqEvents {s : State} {i : Entry} {now : Angle} (h : Kept key fac q s) :
    Kept key fac q (State.seqEvents s i now) := by
  unfold State.seqEvents
  with_reducible repeat' first | assumption | intro _ | apply forEach | apply fireAt | apply ite | apply dite | apply foldl | split | refine upd ?_

theorem openCancelled {before : State} {e : AngEntry} {s : State} (h : Kept key fac q s) :
    Kept key fac q (State.openCancelled before e s) := by
  unfold State.openCancelled
  with_reducible repeat' first | assumption | intro _ | apply onBeam | apply setNextFree | apply passStep | apply modW | apply queueJoin | apply ite | apply dite | apply foldl | refine snd ‹_› ?_ | split | refine upd ?_

theorem cancelEntries {s : State} {sel : AngEntry → Bool} (h : Kept key fac q s) :
    Kept key fac q (State.cancelEntries s sel) := by
  unfold State.cancelEntries
  with_reducible repeat' first | assumption | intro _ | apply forEach | apply openCancelled | apply bump | apply event | apply ite | apply dite | apply foldl | split | refine upd ?_

theorem cancelAll {s : State} {cause : RegField} {band : Bool} (h : Kept key fac q s) :
    Kept key fac q (State.cancelAll s cause band) := by
  unfold State.cancelAll
  with_reducible repeat' first | assumption | intro _ | apply put | apply cancelEntries | apply bump | apply forEach | apply gatesEarly | apply ite | apply dite | apply foldl | split | refine upd ?_

theorem cancelHead {s : State} {h_1 : Head} {band : Bool} (h : Kept key fac q s) :
    Kept key fac q (State.cancelHead s h_1 band) := by
  unfold State.cancelHead
  with_reducible repeat' first | assumption | intro _ | apply wr | apply bump | apply cancelEntries | apply gatesEarly | apply ite | apply dite | apply foldl | split | refine upd ?_

theorem angStep {s : State} {new : Angle} {layer : Bool} {band : Bool} (h : Kept key fac q s) :
    Kept key fac q (State.angStep s new layer band) := by
  unfold State.angStep
  with_reducible repeat' first | assumption | intro _ | apply setInt | apply cancelAll | apply put | apply fireLate | apply ite | apply dite | apply foldl | split | refine upd ?_

theorem evtArm {s : State} (h : Kept key fac q s) :
    Kept key fac q (State.evtArm s) := by
  unfold State.evtArm
  with_reducible repeat' first | assumption | intro _ | apply put | apply modEntry | apply fire | apply ite | apply dite | apply foldl | split | refine upd ?_

theorem evtDisarm {s : State} (h : Kept key fac q s) :
    Kept key fac q (State.evtDisarm s) := by
  unfold State.evtDisarm
  with_reducible repeat' first | assumption | intro _ | apply modEntry | apply ite | apply dite | apply foldl | split | refine upd ?_

theorem evtDisarmAll {s : State} (h : Kept key fac q s) :
    Kept key fac q (State.evtDisarmAll s) := by
  unfold State.evtDisarmAll
  with_reducible repeat' first | assumption | intro _ | apply ite | apply dite | apply foldl | split | refine upd ?_

theorem orderJump {s : State} {h_1 : Head} {d : Int} {frame : Option Nat} (h : Kept key fac q s) :
    Kept key fac q (State.orderJump s h_1 d frame) := by
  unfold State.orderJump
  with_reducible repeat' first | assumption | intro _ | apply put | apply wr | apply lsvCommand | apply lsvBegin | apply jumpRun | apply ite | apply dite | apply foldl | split | refine upd ?_

theorem orderMove {s : State} {h_1 : Head} {layer : Nat} {band : Int} (h : Kept key fac q s) :
    Kept key fac q (State.orderMove s h_1 layer band) := by
  unfold State.orderMove
  with_reducible repeat' first | assumption | intro _ | apply wr | apply lsvCommand | apply leaveFollow | apply lsvBegin | apply layerRun | apply orderJump | apply seekRun | apply ite | apply dite | apply foldl | split | refine upd ?_

theorem retryOrders {s : State} {h_1 : Head} (h : Kept key fac q s) :
    Kept key fac q (State.retryOrders s h_1) := by
  unfold State.retryOrders
  with_reducible repeat' first | assumption | intro _ | apply orderJump | apply orderMove | apply ite | apply dite | apply foldl | refine snd ‹_› ?_ | split | refine upd ?_

theorem modAng {s : State} {h_1 : Head} {f : AngHead → AngHead} (h : Kept key fac q s) :
    Kept key fac q (State.modAng s h_1 f) := by
  unfold State.modAng
  with_reducible repeat' first | assumption | intro _ | apply ite | apply dite | apply foldl | split | refine upd ?_

theorem refUpdate {s : State} (h : Kept key fac q s) :
    Kept key fac q (State.refUpdate s) := by
  unfold State.refUpdate
  with_reducible repeat' first | assumption | intro _ | apply setAngFlags | apply wr | apply angStep | apply ite | apply dite | apply foldl | refine snd ‹_› ?_ | split | refine upd ?_

theorem angCtrlWrite {s : State} {v : Word} (h : Kept key fac q s) :
    Kept key fac q (State.angCtrlWrite s v) := by
  unfold State.angCtrlWrite
  with_reducible repeat' first | assumption | intro _ | apply put | apply setReg | apply refUpdate | apply ite | apply dite | apply foldl | split | refine upd ?_

theorem pllLock {s : State} {h_1 : Head} (h : Kept key fac q s) :
    Kept key fac q (State.pllLock s h_1) := by
  unfold State.pllLock
  with_reducible repeat' first | assumption | intro _ | apply wr | apply put | apply modAng | apply refUpdate | apply ite | apply dite | apply foldl | split | refine upd ?_

theorem setSeek {s : State} {h_1 : Head} {n : Nat} (h : Kept key fac q s) :
    Kept key fac q (State.setSeek s h_1 n) := by
  unfold State.setSeek
  with_reducible repeat' first | assumption | intro _ | apply ite | apply dite | apply foldl | split | refine upd ?_

theorem pllSearch {s : State} {h_1 : Head} (h : Kept key fac q s) :
    Kept key fac q (State.pllSearch s h_1) := by
  unfold State.pllSearch
  with_reducible repeat' first | assumption | intro _ | apply setSeek | apply wr | apply ite | apply dite | apply foldl | split | refine upd ?_

theorem goodMark {s : State} {h_1 : Head} (h : Kept key fac q s) :
    Kept key fac q (State.goodMark s h_1) := by
  unfold State.goodMark
  with_reducible repeat' first | assumption | intro _ | apply bumpF | apply wr | apply ite | apply dite | apply foldl | split | refine upd ?_

theorem missMark {s : State} {h_1 : Head} (h : Kept key fac q s) :
    Kept key fac q (State.missMark s h_1) := by
  unfold State.missMark
  with_reducible repeat' first | assumption | intro _ | apply setSeek | apply bump | apply wr | apply ite | apply dite | apply foldl | split | refine upd ?_

theorem pllCtrlWrite {s : State} {h_1 : Head} {v : Word} (h : Kept key fac q s) :
    Kept key fac q (State.pllCtrlWrite s h_1 v) := by
  unfold State.pllCtrlWrite
  with_reducible repeat' first | assumption | intro _ | apply put | apply setReg | apply pllSearch | apply wr | apply headAbort | apply gatesEarly | apply refUpdate | apply ite | apply dite | apply foldl | split | refine upd ?_

theorem encoderWord {s : State} {h_1 : Head} {band : Int} (h : Kept key fac q s) :
    Kept key fac q (State.encoderWord s h_1 band) := by
  unfold State.encoderWord
  with_reducible repeat' first | assumption | intro _ | apply setInt | apply put | apply ite | apply dite | apply foldl | split | refine upd ?_

theorem zoneWord {s : State} {h_1 : Head} {z : Nat} (h : Kept key fac q s) :
    Kept key fac q (State.zoneWord s h_1 z) := by
  unfold State.zoneWord
  with_reducible repeat' first | assumption | intro _ | apply bump | apply zonePend | apply ite | apply dite | apply foldl | split | refine upd ?_

theorem supervisorWord {s : State} {h_1 : Head} {layer : Nat} {band : Int} {k : Nat} {b : Int} (h : Kept key fac q s) :
    Kept key fac q (State.supervisorWord s h_1 layer band k b) := by
  unfold State.supervisorWord
  with_reducible repeat' first | assumption | intro _ | apply wr | apply lost | apply slip | apply lsvConfirmed | apply ite | apply dite | apply foldl | split | refine upd ?_

theorem confirmWord {s : State} {h_1 : Head} {w : Dword} {lag : Nat} (h : Kept key fac q s) :
    Kept key fac q (State.confirmWord s h_1 w lag) := by
  unfold State.confirmWord
  with_reducible repeat' first | assumption | intro _ | apply modAng | apply bump | apply wr | apply headAbort | apply setInt | apply setAngFlags | apply cancelAll | apply angStep | apply cancelHead | apply encoderWord | apply zoneWord | apply supervisorWord | apply retryConfirmed | apply retryOrders | apply ite | apply dite | apply foldl | split | refine upd ?_

theorem beamPhase {s : State} {b : Beam} (h : Kept key fac q s) :
    Kept key fac q (State.beamPhase s b) := by
  unfold State.beamPhase
  with_reducible repeat' first | assumption | intro _ | apply setInt | apply put | apply ite | apply dite | apply foldl | split | refine upd ?_

theorem zoneApply {s : State} {h_1 : Head} (h : Kept key fac q s) :
    Kept key fac q (State.zoneApply s h_1) := by
  unfold State.zoneApply
  with_reducible repeat' first | assumption | intro _ | apply put | apply setReg | apply ite | apply dite | apply foldl | split | refine upd ?_

theorem apcUpdate {s : State} {h_1 : Head} {monitor : Nat} (h : Kept key fac q s) :
    Kept key fac q (State.apcUpdate s h_1 monitor) := by
  unfold State.apcUpdate
  with_reducible repeat' first | assumption | intro _ | apply forEach | apply wr | apply put | apply ite | apply dite | apply foldl | split | refine upd ?_

theorem modAdc {s : State} {a : Fin 36} {f : Adc → Adc} (h : Kept key fac q s) :
    Kept key fac q (State.modAdc s a f) := by
  unfold State.modAdc
  with_reducible repeat' first | assumption | intro _ | apply ite | apply dite | apply foldl | split | refine upd ?_

theorem inCtrlWrite {s : State} {i : Fin 52} {v : Word} (h : Kept key fac q s) :
    Kept key fac q (State.inCtrlWrite s i v) := by
  unfold State.inCtrlWrite
  with_reducible repeat' first | assumption | intro _ | apply put | apply setReg | apply ite | apply dite | apply foldl | split | refine upd ?_

theorem skewWrite {s : State} {a : Nat} {hi : Int} {v : Word} (h : Kept key fac q s) :
    Kept key fac q (State.skewWrite s a hi v) := by
  unfold State.skewWrite
  with_reducible repeat' first | assumption | intro _ | apply put | apply setReg | apply ite | apply dite | apply foldl | split | refine upd ?_

theorem sliceWrite {s : State} {v : Word} (h : Kept key fac q s) :
    Kept key fac q (State.sliceWrite s v) := by
  unfold State.sliceWrite
  with_reducible repeat' first | assumption | intro _ | apply ite | apply dite | apply foldl | split | refine upd ?_

theorem sprWrite {s : State} {v : Word} (h : Kept key fac q s) :
    Kept key fac q (State.sprWrite s v) := by
  unfold State.sprWrite
  with_reducible repeat' first | assumption | intro _ | apply setReg | apply put | apply ite | apply dite | apply foldl | split | refine upd ?_

end Sys2Proof.Machine.Kept
end

