-- ==== Sys2Proof/Laws/KeptPorts.lean ====
section
/-! SUPPORT. What the operations of CPH, LBS, MIR, the sample, the GO ports, DMC and MIC, FLC and HLK keep. -/

set_option linter.unusedTactic false
set_option linter.unreachableTactic false

namespace Sys2Proof.Machine.Kept

set_option Elab.async false

variable {key : Option (List Byte)} {fac : List Dword} {q : List Instr}

theorem slotStat {s : State} (h : Kept key fac q s) :
    Kept key fac q (State.slotStat s) := by
  unfold State.slotStat
  with_reducible repeat' first | assumption | intro _ | apply wr | apply setReg | apply ite | apply dite | apply foldl | split | refine upd ?_

theorem sealNow {s : State} (h : Kept key fac q s) :
    Kept key fac q (State.sealNow s) := by
  unfold State.sealNow
  refine (((((ofCph h ?_ ?_ ?_).put _ _).put _ _).setReg _ _).setReg _ _)
  · exact h.keyIs
  · exact h.idleIs
  · rfl

theorem lockFree {s : State} (h : Kept key fac q s) :
    Kept key fac q (State.lockFree s) := by
  refine (wr (put (sealNow (ofCph h ?_ ?_ ?_)) _ _) _ _)
  · exact h.keyIs
  · intro _ _ _ _ e
    dsimp only at e
    split at e <;> cases e
  · exact h.canon.buf

theorem lockTake {s : State} {m : Master} (h : Kept key fac q s) :
    Kept key fac q (State.lockTake s m) := by
  unfold State.lockTake
  with_reducible repeat' first | assumption | intro _ | apply put | apply wr | apply ite | apply dite | apply foldl | split | refine upd ?_

theorem lockGive {s : State} {m : Master} (h : Kept key fac q s) :
    Kept key fac q (State.lockGive s m) := by
  unfold State.lockGive
  with_reducible repeat' first | assumption | intro _ | apply lockFree | apply ite | apply dite | apply foldl | split | refine upd ?_

theorem lockWrite {s : State} {m : Master} {v : Word} (h : Kept key fac q s) :
    Kept key fac q (State.lockWrite s m v) := by
  unfold State.lockWrite
  with_reducible repeat' first | assumption | intro _ | apply lockGive | apply lockTake | apply ite | apply dite | apply foldl | split | refine upd ?_

theorem lockErr {s : State} (h : Kept key fac q s) :
    Kept key fac q (State.lockErr s) := by
  unfold State.lockErr
  with_reducible repeat' first | assumption | intro _ | apply put | apply bump | apply ite | apply dite | apply foldl | split | refine upd ?_

theorem setRegBytes {s : State} {a : Nat} {n : Nat} {bs : List Byte} (h : Kept key fac q s) :
    Kept key fac q (State.setRegBytes s a n bs) := by
  unfold State.setRegBytes
  with_reducible repeat' first | assumption | intro _ | apply forEach | apply setReg | apply ite | apply dite | apply foldl | split | refine upd ?_

theorem opBegin {s : State} {o : CphOp} (h : Kept key fac q s) (ho : ∀ k, key = some k → ∀ a b, o ≠ .store 0x12 a b) :
    Kept key fac q (s.opBegin o) := by
  refine put (ofCph h ?_ ?_ ?_) _ _
  · exact h.keyIs
  · exact fun k hk a b e => ho k hk a b (Option.some.inj e)
  · exact h.canon.buf

theorem blockStart {s : State} {op : Nat} {v : Word} (h : Kept key fac q s) :
    Kept key fac q (State.blockStart s op v) := by
  unfold State.blockStart
  with_reducible repeat' first | assumption | with_unfolding_all exact fun _ _ _ _ e => nomatch e | intro _ | apply put | apply opBegin | apply ite | apply dite | apply foldl | refine snd ‹_› ?_ | split | refine upd ?_

theorem unwrapFail {s : State} (h : Kept key fac q s) :
    Kept key fac q (State.unwrapFail s) := by
  unfold State.unwrapFail
  with_reducible repeat' first | assumption | intro _ | apply put | apply bump | apply ite | apply dite | apply foldl | split | refine upd ?_

theorem loadStart {s : State} (h : Kept key fac q s) :
    Kept key fac q (State.loadStart s) := by
  unfold State.loadStart
  refine ite (h.put _ _) ?_
  split
  · refine dite (fun _ => ite (h.opBegin fun k _ a b eo => ?_) h.unwrapFail) fun _ => h.unwrapFail
    injection eo
  · exact h.unwrapFail

theorem provisionStart {s : State} {m : Master} (h : Kept key fac q s) :
    Kept key fac q (State.provisionStart s m) := by
  unfold State.provisionStart
  refine ite (h.put _ _) ?_
  split
  · refine iteOf (fun _ => h.put _ _) fun e => ite (h.opBegin fun k hk a b eo => ?_) h.unwrapFail
    refine e ⟨?_, .inl ?_⟩
    · injection eo
    · rw [(h.fused k hk).key]; rfl
  · exact h.unwrapFail

theorem cphCommand {s : State} {m : Master} {v : Word} (h : Kept key fac q s) :
    Kept key fac q (State.cphCommand s m v) := by
  unfold State.cphCommand
  with_reducible repeat' first | assumption | with_unfolding_all exact fun _ _ _ _ e => nomatch e | intro _ | apply lockErr | apply bump | apply put | apply blockStart | apply opBegin | apply loadStart | apply provisionStart | apply ite | apply dite | apply foldl | refine snd ‹_› ?_ | split | refine upd ?_

theorem tagResult {s : State} {short : Bool} (h : Kept key fac q s) :
    Kept key fac q (State.tagResult s short) := by
  unfold State.tagResult
  refine ite ?_ ?_
  · exact ((h.put _ _).put _ _).setReg _ _
  · have h1 := (h.put F.CPH_STAT_TAGFAIL true).bump Reg.CPH_TAGFAIL_CNT
    refine (ofCph h1 ?_ ?_ ?_).setReg _ _
    · exact h1.keyIs
    · exact h1.idleIs
    · rfl

theorem storeStat {s : State} (h : Kept key fac q s) :
    Kept key fac q (State.storeStat s) := by
  unfold State.storeStat
  with_reducible repeat' first | assumption | intro _ | apply put | apply ite | apply dite | apply foldl | split | refine upd ?_

theorem storeKey {s : State} {u : Nat} {bs : List Byte} {id : Nat} (h : Kept key fac q s)
    (hu : ∀ k, key = some k → u ≠ 0x12) : Kept key fac q (s.storeKey u bs id) := by
  unfold State.storeKey
  have h1 := h.bump Reg.CPH_PROV_CNT
  refine iteOf (fun e => ?_) fun _ => ?_
  · refine (ofCph h1 ?_ ?_ ?_).put _ _
    · exact fun k hk => absurd e (hu k hk)
    · exact h1.idleIs
    · exact h1.canon.buf
  · have h2 : Kept key fac q { s.bump Reg.CPH_PROV_CNT with
        cph := if u = 0x10 then { (s.bump Reg.CPH_PROV_CNT).cph with kek := some bs }
               else { (s.bump Reg.CPH_PROV_CNT).cph with cak := some bs } } := by
      split
      · exact ofCph (c := { (s.bump Reg.CPH_PROV_CNT).cph with kek := some bs }) h1 h1.keyIs h1.idleIs h1.canon.buf
      · exact ofCph (c := { (s.bump Reg.CPH_PROV_CNT).cph with cak := some bs }) h1 h1.keyIs h1.idleIs h1.canon.buf
    have h3 := (ite (c := u = 0x11) (h2.wr F.BKP_KSTAT_KEYID id) h2).storeStat
    exact ite h3 ((h3.put _ _).put _ _).attention

theorem opResult {s : State} {o : CphOp} (h : Kept key fac q s) (ho : ∀ k, key = some k → ∀ a b, o ≠ .store 0x12 a b) :
    Kept key fac q (s.opResult o) := by
  unfold State.opResult
  split
  · exact h.setRegBytes
  · refine ofCph h ?_ ?_ ?_
    · exact h.keyIs
    · exact h.idleIs
    · exact h.canon.buf
  · refine (ofCph h ?_ ?_ ?_).setReg _ _
    · exact h.keyIs
    · exact h.idleIs
    · exact Sparse.wf_foldl_set _ _ _ _ _ h.canon.buf
  · exact h.tagResult
  · exact h.sealNow
  · refine (ofCph h ?_ ?_ ?_).slotStat
    · exact h.keyIs
    · exact h.idleIs
    · exact h.canon.buf
  · exact h.storeKey fun k hk e => ho k hk _ _ (by rw [e])
  · refine (ofCph h ?_ ?_ ?_).slotStat
    · exact h.keyIs
    · exact h.idleIs
    · exact h.canon.buf
  · exact h

theorem cphFinish {s : State} (h : Kept key fac q s) :
    Kept key fac q (State.cphFinish s) := by
  unfold State.cphFinish
  split
  · exact h
  · rename_i o e
    have h1 := h.ofCph (c := { s.cph with op := none }) h.keyIs nofun h.canon.buf
    exact ((((h1.opResult fun k hk a b eo => h.idleIs k hk a b (by rw [e, eo])).put _ _).put _ _).bump _).event

theorem sessionShut {s : State} (h : Kept key fac q s) :
    Kept key fac q (State.sessionShut s) := by
  unfold State.sessionShut
  with_reducible repeat' first | assumption | intro _ | apply put | apply lockFree | apply ite | apply dite | apply foldl | split | refine upd ?_

theorem sessionChallenge {s : State} (h : Kept key fac q s) :
    Kept key fac q (State.sessionChallenge s) := by
  unfold State.sessionChallenge
  with_reducible repeat' first | assumption | intro _ | apply setRegBytes | apply put | apply forEach | apply draw | apply setReg | apply ite | apply dite | apply foldl | refine snd ‹_› ?_ | split | refine upd ?_

theorem sessionResponse {s : State} {w3 : Word} (h : Kept key fac q s) :
    Kept key fac q (State.sessionResponse s w3) := by
  unfold State.sessionResponse
  with_reducible repeat' first | assumption | intro _ | apply setReg | apply put | apply wr | apply setRegBytes | apply bump | apply ite | apply dite | apply foldl | refine snd ‹_› ?_ | split | refine upd ?_

theorem sessionClose {s : State} {m : Master} (h : Kept key fac q s) :
    Kept key fac q (State.sessionClose s m) := by
  unfold State.sessionClose
  with_reducible repeat' first | assumption | intro _ | apply sessionShut | apply ite | apply dite | apply foldl | split | refine upd ?_

theorem bkpLog {s : State} {cause : Nat} (h : Kept key fac q s) :
    Kept key fac q (State.bkpLog s cause) := by
  unfold State.bkpLog
  with_reducible repeat' first | assumption | intro _ | apply tick | apply setReg | apply wr | apply bumpF | apply ite | apply dite | apply foldl | split | refine upd ?_

theorem zeroise {s : State} (h : Kept key fac q s) :
    Kept key fac q (State.zeroise s) := by
  have ho : ∀ k : List Byte, key = some k → ∀ a b, (if s.cph.op.isSome then some CphOp.void else none) ≠ some (.store 0x12 a b) := by
    intro _ _ _ _ e
    split at e <;> cases e
  have h2 := ((((h.ofCph (c := { s.cph with
      kek := none, cak := none, chal := none, slots := Vector.replicate 8 none
      op := if s.cph.op.isSome then some .void else none }) h.keyIs ho h.canon.buf).storeStat.slotStat.put
        F.BKP_ALARM_ZEROISED true).bump Reg.CPH_ZERO_CNT).sessionShut).lockFree
  exact ite h2.taskError h2

theorem bkpLogClr {s : State} {m : Master} (h : Kept key fac q s) :
    Kept key fac q (State.bkpLogClr s m) := by
  unfold State.bkpLogClr
  with_reducible repeat' first | assumption | intro _ | apply forEach | apply setReg | apply wr | apply ite | apply dite | apply foldl | split | refine upd ?_

theorem modFlc {s : State} {f : Flc → Flc} (h : Kept key fac q s)
    (e : ∀ x, (f x).words = x.words ∧ (f x).progs = x.progs := by exact fun _ => ⟨rfl, rfl⟩) : Kept key fac q (State.modFlc s f) := by
  have e' := e s.flc
  unfold State.modFlc
  exact h.of_view (by simp only [view]; simp only [e'])

theorem flashRead {s : State} {w : Nat} (h : Kept key fac q s) :
    Kept key fac q (State.flashRead s w).2 := by
  unfold State.flashRead
  with_reducible repeat' first | assumption | intro _ | apply draw | apply ite | apply dite | apply foldl | split | refine upd ?_

theorem flashLose {s : State} {w : Nat} {n : Nat} (h : Kept key fac q s) :
    Kept key fac q (State.flashLose s w n) := by
  unfold State.flashLose
  with_reducible repeat' first | assumption | intro _ | refine modFlc ?_ | apply ite | apply dite | apply foldl | split | refine upd ?_

theorem flashErase {s : State} {sec : Nat} (h : Kept key fac q s) :
    Kept key fac q (State.flashErase s sec) := by
  unfold State.flashErase State.modFlc
  exact ofFlc h (Sparse.wf_filter _ _ _ h.canon.flash) (Sparse.wf_filter _ _ _ h.canon.progs)

theorem flashProgram {s : State} {w : Nat} {v : Word} (h : Kept key fac q s) :
    Kept key fac q (State.flashProgram s w v) := by
  have h1 : Kept key fac q (s.modFlc (fun f => { f with
      words := Sparse.set erasedWord f.words w (s.flashWord w &&& v)
      progs := Sparse.set 0 f.progs w (Sparse.get 0 s.flc.progs w + 1) })) := by
    unfold State.modFlc
    refine ofFlc h ?_ ?_
    · exact Sparse.wf_set (fun _ => erasedWord) _ _ _ h.canon.flash
    · exact Sparse.wf_set (fun _ => (0 : Nat)) _ w (Sparse.get 0 s.flc.progs w + 1) h.canon.progs
  exact ite h1.flashLose h1

theorem engineProgram {s : State} {m : Nat} {w : Nat} {v : Word} (h : Kept key fac q s) :
    Kept key fac q (State.engineProgram s m w v) := by
  unfold State.engineProgram
  with_reducible repeat' first | assumption | intro _ | apply flashProgram | apply bump | apply pmcEvent | apply ite | apply dite | apply foldl | split | refine upd ?_

theorem engineErase {s : State} {m : Nat} {sec : Nat} (h : Kept key fac q s) :
    Kept key fac q (State.engineErase s m sec) := by
  unfold State.engineErase
  with_reducible repeat' first | assumption | intro _ | apply flashErase | apply bump | apply pmcEvent | apply ite | apply dite | apply foldl | split | refine upd ?_

theorem flashGet {s : State} {w : Nat} (h : Kept key fac q s) :
    Kept key fac q (State.flashGet s w).2 := by
  unfold State.flashGet
  with_reducible repeat' first | assumption | intro _ | apply flashRead | apply ite | apply dite | apply foldl | split | refine upd ?_

theorem flashWords {w : Nat} {x1 : Nat} {x2 : State} (hx2 : Kept key fac q x2) :
    Kept key fac q (State.flashWords w x1 x2).2 := by
  induction x1 generalizing w x2 with
  | zero =>
    unfold State.flashWords
    with_reducible repeat' first | assumption | intro _ | apply flashGet | apply ite | apply dite | apply foldl | refine snd ‹_› ?_ | split | refine upd ?_
  | succ _ ih =>
    unfold State.flashWords
    with_reducible repeat' first | assumption | intro _ | apply ih | apply flashGet | apply ite | apply dite | apply foldl | refine snd ‹_› ?_ | split | refine upd ?_

theorem flcBusyAnswer {s : State} (h : Kept key fac q s) :
    Kept key fac q (State.flcBusyAnswer s) := by
  unfold State.flcBusyAnswer
  with_reducible repeat' first | assumption | intro _ | apply bump | apply ite | apply dite | apply foldl | split | refine upd ?_

theorem flcStart {s : State} {m : Master} {o : FlcOp} (h : Kept key fac q s) :
    Kept key fac q (State.flcStart s m o) := by
  unfold State.flcStart
  with_reducible repeat' first | assumption | intro _ | refine modFlc ?_ | apply put | apply setReg | apply bump | apply pmcEvent | apply ite | apply dite | apply foldl | refine snd ‹_› ?_ | split | refine upd ?_

theorem flcStep {s : State} (h : Kept key fac q s) :
    Kept key fac q (State.flcStep s) := by
  unfold State.flcStep
  with_reducible repeat' first | assumption | intro _ | apply wr | apply ite | apply dite | apply foldl | split | refine upd ?_

theorem flcProgram {s : State} {m : Master} (h : Kept key fac q s) :
    Kept key fac q (State.flcProgram s m) := by
  unfold State.flcProgram
  with_reducible repeat' first | assumption | intro _ | apply flcBusyAnswer | apply flcStart | apply flcStep | apply put | apply ite | apply dite | apply foldl | split | refine upd ?_

theorem flcErase {s : State} {m : Master} (h : Kept key fac q s) :
    Kept key fac q (State.flcErase s m) := by
  unfold State.flcErase
  with_reducible repeat' first | assumption | intro _ | apply flcBusyAnswer | apply flcStart | apply put | apply ite | apply dite | apply foldl | split | refine upd ?_

theorem flcSuspend {s : State} {us : Nat} (h : Kept key fac q s) :
    Kept key fac q (State.flcSuspend s us) := by
  unfold State.flcSuspend
  with_reducible repeat' first | assumption | intro _ | apply flcBusyAnswer | refine modFlc ?_ | apply put | apply setReg | apply bump | apply ite | apply dite | apply foldl | refine snd ‹_› ?_ | split | refine upd ?_

theorem flcResume {s : State} (h : Kept key fac q s) :
    Kept key fac q (State.flcResume s) := by
  unfold State.flcResume
  with_reducible repeat' first | assumption | intro _ | apply flcBusyAnswer | refine modFlc ?_ | apply put | apply setReg | apply ite | apply dite | apply foldl | refine snd ‹_› ?_ | split | refine upd ?_

theorem flcCmdWrite {s : State} {m : Master} {v : Word} {us : Nat} (h : Kept key fac q s) :
    Kept key fac q (State.flcCmdWrite s m v us) := by
  unfold State.flcCmdWrite
  with_reducible repeat' first | assumption | intro _ | apply flcProgram | apply flcErase | apply flcSuspend | apply flcResume | apply put | apply ite | apply dite | apply foldl | refine snd ‹_› ?_ | split | refine upd ?_

theorem rdata {s : State} (h : Kept key fac q s) :
    Kept key fac q (State.rdata s).2 := by
  unfold State.rdata
  with_reducible repeat' first | assumption | intro _ | apply flashGet | apply setReg | apply flcStep | apply ite | apply dite | apply foldl | refine snd ‹_› ?_ | split | refine upd ?_

theorem read3 {s : State} {w : Nat} (h : Kept key fac q s) :
    Kept key fac q (State.read3 s w).2.2 := by
  unfold State.read3
  with_reducible repeat' first | assumption | intro _ | apply flashGet | apply ite | apply dite | apply foldl | refine snd ‹_› ?_ | split | refine upd ?_

theorem mcBase {s : State} {c : Fin 2} {sec : Nat} (h : Kept key fac q s) :
    Kept key fac q (State.mcBase s c sec).2 := by
  unfold State.mcBase
  with_reducible repeat' first | assumption | intro _ | apply read3 | apply ite | apply dite | apply foldl | refine snd ‹_› ?_ | refine snd2 ‹_› ?_ | split | refine upd ?_

theorem mcRun {sec : Nat} {fix : Bool} {x2 : Nat} {x3 : Nat} {x4 : State} (hx4 : Kept key fac q x4) :
    Kept key fac q (State.mcRun sec fix x2 x3 x4).2.2 := by
  induction x2 generalizing x3 x4 with
  | zero => exact hx4
  | succ _ ih =>
    unfold State.mcRun
    extract_lets w
    split
    rename_i v same s1 e1
    have h1 := snd2 e1 hx4.read3
    split
    · exact h1
    · extract_lets bad p s2
      have h2 : Kept key fac q s2 := by
        refine ite (modFlc h1.engineProgram) h1
      clear_value s2
      split
      rename_i e2
      exact snd2 e2 (ih h2)

theorem secBlank {s : State} {sec : Nat} (h : Kept key fac q s) :
    Kept key fac q (State.secBlank s sec).2 := by
  unfold State.secBlank
  with_reducible repeat' first | assumption | intro _ | apply flashWords | apply ite | apply dite | apply foldl | refine snd ‹_› ?_ | split | refine upd ?_

theorem mcHeader {s : State} {c : Fin 2} {sec : Nat} {base : Nat} (h : Kept key fac q s) :
    Kept key fac q (State.mcHeader s c sec base) := by
  unfold State.mcHeader
  with_reducible repeat' first | assumption | intro _ | apply engineProgram | apply ite | apply dite | apply foldl | split | refine upd ?_

theorem mcMigrate {s : State} {c : Fin 2} {a : Nat} {b : Nat} {v : Nat} (h : Kept key fac q s) :
    Kept key fac q (State.mcMigrate s c a b v) := by
  unfold State.mcMigrate
  with_reducible repeat' first | assumption | intro _ | apply engineErase | apply mcHeader | apply ite | apply dite | apply foldl | split | refine upd ?_

theorem mcWinner {s : State} {c : Fin 2} {fix : Bool} (h : Kept key fac q s) :
    Kept key fac q (State.mcWinner s c fix).2 := by
  unfold State.mcWinner
  with_reducible repeat' first | assumption | intro _ | apply mcBase | apply mcRun | apply ite | apply dite | apply foldl | refine snd ‹_› ?_ | refine snd2 ‹_› ?_ | split | refine upd ?_

theorem mcSettle {s : State} {c : Fin 2} (h : Kept key fac q s) :
    Kept key fac q (State.mcSettle s c) := by
  unfold State.mcSettle
  with_reducible repeat' first | assumption | intro _ | apply mcWinner | apply put | apply setReg | apply attention | apply secBlank | apply wr | apply mcMigrate | apply engineErase | apply ite | apply dite | apply foldl | refine snd ‹_› ?_ | split | refine upd ?_

theorem mcStep {s : State} {c : Fin 2} (h : Kept key fac q s) :
    Kept key fac q (State.mcStep s c) := by
  unfold State.mcStep
  with_reducible repeat' first | assumption | intro _ | apply mcWinner | apply engineProgram | apply mcMigrate | apply setReg | apply ite | apply dite | apply foldl | refine snd ‹_› ?_ | split | refine upd ?_

theorem mcCmd {s : State} {m : Master} {bits : Nat} (h : Kept key fac q s) :
    Kept key fac q (State.mcCmd s m bits) := by
  unfold State.mcCmd
  with_reducible repeat' first | assumption | intro _ | apply flcBusyAnswer | apply flcStart | refine modFlc ?_ | apply ite | apply dite | apply foldl | refine snd ‹_› ?_ | split | refine upd ?_

theorem opSector {s : State} {x1 : FlcOp} (h : Kept key fac q s) :
    Kept key fac q (State.opSector s x1).2 := by
  unfold State.opSector
  with_reducible repeat' first | assumption | intro _ | apply mcWinner | apply ite | apply dite | apply foldl | refine snd ‹_› ?_ | split | refine upd ?_

theorem flcEnd {s : State} (h : Kept key fac q s) :
    Kept key fac q (State.flcEnd s) := by
  unfold State.flcEnd
  with_reducible repeat' first | assumption | intro _ | refine modFlc ?_ | apply put | apply event | apply ite | apply dite | apply foldl | split | refine upd ?_

theorem flcNoSpare {s : State} (h : Kept key fac q s) :
    Kept key fac q (State.flcNoSpare s) := by
  unfold State.flcNoSpare
  with_reducible repeat' first | assumption | intro _ | apply put | apply flcEnd | apply taskError | apply ite | apply dite | apply foldl | refine snd ‹_› ?_ | split | refine upd ?_

theorem copySector {a : Nat} {b : Nat} {x2 : Nat} {x3 : State} (hx3 : Kept key fac q x3) :
    Kept key fac q (State.copySector a b x2 x3) := by
  induction x2 generalizing a b x3 with
  | zero =>
    unfold State.copySector
    with_reducible repeat' first | assumption | intro _ | apply flashRead | apply engineProgram | apply ite | apply dite | apply foldl | refine snd ‹_› ?_ | split | refine upd ?_
  | succ _ ih =>
    unfold State.copySector
    with_reducible repeat' first | assumption | intro _ | apply ih | apply flashRead | apply engineProgram | apply ite | apply dite | apply foldl | refine snd ‹_› ?_ | split | refine upd ?_

theorem flcLost {s : State} (h : Kept key fac q s) :
    Kept key fac q (State.flcLost s) := by
  unfold State.flcLost
  with_reducible repeat' first | assumption | intro _ | apply flashLose | apply mcWinner | refine modFlc ?_ | apply ite | apply dite | apply foldl | refine snd ‹_› ?_ | split | refine upd ?_

theorem modMem {s : State} {f : Mem → Mem} (h : Kept key fac q s) :
    Kept key fac q (State.modMem s f) := by
  unfold State.modMem
  with_reducible repeat' first | assumption | intro _ | apply ite | apply dite | apply foldl | split | refine upd ?_

theorem trainGo {s : State} {c : DramChan} {k : Nat} (h : Kept key fac q s) :
    Kept key fac q (State.trainGo s c k) := by
  unfold State.trainGo
  with_reducible repeat' first | assumption | intro _ | apply modMem | apply put | apply ite | apply dite | apply foldl | split | refine upd ?_

theorem trainEnd {s : State} {c : DramChan} (h : Kept key fac q s) :
    Kept key fac q (State.trainEnd s c) := by
  unfold State.trainEnd
  with_reducible repeat' first | assumption | intro _ | apply modMem | apply put | apply ite | apply dite | apply foldl | split | refine upd ?_

theorem trnCtrlWrite {s : State} {c : DramChan} {v : Word} (h : Kept key fac q s) :
    Kept key fac q (State.trnCtrlWrite s c v) := by
  unfold State.trnCtrlWrite
  with_reducible repeat' first | assumption | intro _ | apply put | apply setReg | apply trainGo | apply ite | apply dite | apply foldl | split | refine upd ?_

theorem delayWrite {s : State} {c : DramChan} {a : Nat} {v : Word} (h : Kept key fac q s) :
    Kept key fac q (State.delayWrite s c a v) := by
  unfold State.delayWrite
  with_reducible repeat' first | assumption | intro _ | apply setReg | apply put | apply ite | apply dite | apply foldl | split | refine upd ?_

theorem ilvWrite {s : State} {v : Word} (h : Kept key fac q s) :
    Kept key fac q (State.ilvWrite s v) := by
  unfold State.ilvWrite
  with_reducible repeat' first | assumption | intro _ | apply put | apply wr | apply ite | apply dite | apply foldl | split | refine upd ?_

theorem pgtoWrite {s : State} {v : Word} (h : Kept key fac q s) :
    Kept key fac q (State.pgtoWrite s v) := by
  unfold State.pgtoWrite
  with_reducible repeat' first | assumption | intro _ | apply put | apply wr | apply ite | apply dite | apply foldl | split | refine upd ?_

theorem fillStart {s : State} (h : Kept key fac q s) :
    Kept key fac q (State.fillStart s) := by
  unfold State.fillStart
  with_reducible repeat' first | assumption | intro _ | apply put | apply modMem | apply wr | apply ite | apply dite | apply foldl | split | refine upd ?_

theorem rowError {s : State} {r : DRow} (h : Kept key fac q s) :
    Kept key fac q (State.rowError s r) := by
  unfold State.rowError
  with_reducible repeat' first | assumption | intro _ | apply modMem | apply axlAsk | apply ite | apply dite | apply foldl | refine snd ‹_› ?_ | split | refine upd ?_

theorem pinError {s : State} {c : Fin 4} (h : Kept key fac q s) :
    Kept key fac q (State.pinError s c) := by
  unfold State.pinError
  with_reducible repeat' first | assumption | intro _ | apply bumpF | apply modMem | apply wr | apply axlAsk | apply attention | apply ite | apply dite | apply foldl | split | refine upd ?_

theorem lineChecked {s : State} {a : Nat} {r : EccResult} {master : Nat} (h : Kept key fac q s) :
    Kept key fac q (State.lineChecked s a r master) := by
  unfold State.lineChecked
  with_reducible repeat' first | assumption | intro _ | apply bump | apply pmcEvent | apply touch | apply pinError | apply rowError | apply setPair | apply poisonLine | apply ite | apply dite | apply foldl | refine snd ‹_› ?_ | split | refine upd ?_

theorem lapEnd {s : State} (h : Kept key fac q s) :
    Kept key fac q (State.lapEnd s) := by
  unfold State.lapEnd
  with_reducible repeat' first | assumption | intro _ | apply clock | apply setReg | apply bump | apply modMem | apply ite | apply dite | apply foldl | split | refine upd ?_

theorem wordError {s : State} {macro_ : Nat} {word : Nat} (h : Kept key fac q s) :
    Kept key fac q (State.wordError s macro_ word) := by
  unfold State.wordError
  with_reducible repeat' first | assumption | intro _ | apply modMem | apply axlAsk | apply ite | apply dite | apply foldl | split | refine upd ?_

theorem wordErrLoc {s : State} {macro_ : Nat} {word : Nat} (h : Kept key fac q s) :
    Kept key fac q (State.wordErrLoc s macro_ word) := by
  unfold State.wordErrLoc
  with_reducible repeat' first | assumption | intro _ | apply wr | apply draw | apply setReg | apply ite | apply dite | apply foldl | refine snd ‹_› ?_ | split | refine upd ?_

theorem sramLap {s : State} {word : Nat} (h : Kept key fac q s) :
    Kept key fac q (State.sramLap s word) := by
  unfold State.sramLap
  with_reducible repeat' first | assumption | intro _ | apply clock | apply setReg | apply modMem | apply ite | apply dite | apply foldl | split | refine upd ?_

theorem skinkCfgWrite {s : State} {v : Word} (h : Kept key fac q s) :
    Kept key fac q (State.skinkCfgWrite s v) := by
  unfold State.skinkCfgWrite
  with_reducible repeat' first | assumption | intro _ | apply put | apply setReg | apply ite | apply dite | apply foldl | split | refine upd ?_

theorem rowCopy {s : State} {r : DRow} {e : Fin 64} (h : Kept key fac q s) :
    Kept key fac q (State.rowCopy s r e) := by
  unfold State.rowCopy
  with_reducible repeat' first | assumption | intro _ | apply forEach | apply touch | apply ite | apply dite | apply foldl | split | refine upd ?_

theorem closeRow {s : State} {c : DramChan} {bank : Fin 16} (h : Kept key fac q s) :
    Kept key fac q (State.closeRow s c bank) := by
  unfold State.closeRow
  with_reducible repeat' first | assumption | intro _ | apply modMem | apply bump | apply ite | apply dite | apply foldl | split | refine upd ?_

theorem lbsTransmit {s : State} {body : List Byte} (h : Kept key fac q s) :
    Kept key fac q (State.lbsTransmit s body) := by
  unfold State.lbsTransmit
  with_reducible repeat' first | assumption | intro _ | apply bump | apply wr | apply ite | apply dite | apply foldl | split | refine upd ?_

theorem nextCtr {s : State} (h : Kept key fac q s) :
    Kept key fac q (State.nextCtr s).2 := by
  unfold State.nextCtr
  with_reducible repeat' first | assumption | intro _ | apply setPair | apply ite | apply dite | apply foldl | split | refine upd ?_

theorem lbsMessage {s : State} {p : Fin 8} {typ : Nat} {body : List Byte} (h : Kept key fac q s) :
    Kept key fac q (State.lbsMessage s p typ body).2 := by
  unfold State.lbsMessage
  extract_lets
  split
  rename_i e
  extract_lets
  split
  · exact (snd e h.nextCtr).lbsTransmit
  · exact h

theorem lbsTell {s : State} {p : Fin 8} {typ : Nat} {body : List Byte} (h : Kept key fac q s) :
    Kept key fac q (State.lbsTell s p typ body) := by
  unfold State.lbsTell
  with_reducible repeat' first | assumption | intro _ | apply lbsMessage | apply ite | apply dite | apply foldl | split | refine upd ?_

theorem modRx {s : State} {e : Fin 8} {f : RxEntry → RxEntry} (h : Kept key fac q s) :
    Kept key fac q (State.modRx s e f) := by
  unfold State.modRx
  with_reducible repeat' first | assumption | intro _ | apply ite | apply dite | apply foldl | split | refine upd ?_

theorem noisy {s : State} (h : Kept key fac q s) :
    Kept key fac q (State.noisy s) := by
  unfold State.noisy
  with_reducible repeat' first | assumption | intro _ | apply put | apply attention | apply ite | apply dite | apply foldl | refine snd ‹_› ?_ | split | refine upd ?_

theorem stranger {s : State} {src : Nat} {reason : Nat} (h : Kept key fac q s) :
    Kept key fac q (State.stranger s src reason) := by
  unfold State.stranger
  with_reducible repeat' first | assumption | intro _ | apply bump | apply setPair | apply clock | apply noisy | apply ite | apply dite | apply foldl | split | refine upd ?_

theorem symbolError {s : State} (h : Kept key fac q s) :
    Kept key fac q (State.symbolError s) := by
  unfold State.symbolError
  with_reducible repeat' first | assumption | intro _ | apply bump | apply clock | apply noisy | apply ite | apply dite | apply foldl | split | refine upd ?_

theorem rxTail {x0 : Nat} {x1 : State} (hx1 : Kept key fac q x1) :
    Kept key fac q (State.rxTail x0 x1) := by
  induction x0 generalizing x1 with
  | zero =>
    unfold State.rxTail
    with_reducible repeat' first | assumption | intro _ | apply setReg | apply ite | apply dite | apply foldl | split | refine upd ?_
  | succ _ ih =>
    unfold State.rxTail
    with_reducible repeat' first | assumption | intro _ | apply ih | apply setReg | apply ite | apply dite | apply foldl | split | refine upd ?_

theorem ackMsg {s : State} {e : Fin 8} {status : Nat} (h : Kept key fac q s) :
    Kept key fac q (State.ackMsg s e status) := by
  unfold State.ackMsg
  with_reducible repeat' first | assumption | intro _ | apply lbsTell | apply ite | apply dite | apply foldl | split | refine upd ?_

theorem rxAccept {s : State} {e : Fin 8} (h : Kept key fac q s) :
    Kept key fac q (State.rxAccept s e) := by
  unfold State.rxAccept
  with_reducible repeat' first | assumption | intro _ | apply setPair | apply ackMsg | apply modRx | apply ite | apply dite | apply foldl | split | refine upd ?_

theorem rxVerdict {s : State} {m : Master} {v : Word} (h : Kept key fac q s) :
    Kept key fac q (State.rxVerdict s m v) := by
  unfold State.rxVerdict
  with_reducible repeat' first | assumption | intro _ | apply setReg | apply rxAccept | apply stranger | apply modRx | apply rxTail | apply ite | apply dite | apply foldl | split | refine upd ?_

theorem lbsSendCmd {s : State} {m : Master} {v : Word} (h : Kept key fac q s) :
    Kept key fac q (State.lbsSendCmd s m v) := by
  unfold State.lbsSendCmd
  with_reducible repeat' first | assumption | intro _ | apply nextCtr | apply lbsTransmit | apply ite | apply dite | apply foldl | split | refine upd ?_

theorem sendReq {s : State} (h : Kept key fac q s) :
    Kept key fac q (State.sendReq s) := by
  unfold State.sendReq
  with_reducible repeat' first | assumption | intro _ | apply lbsMessage | apply ite | apply dite | apply foldl | refine snd ‹_› ?_ | split | refine upd ?_

theorem hsStart {s : State} {k : Nat} (h : Kept key fac q s) :
    Kept key fac q (State.hsStart s k) := by
  unfold State.hsStart
  with_reducible repeat' first | assumption | intro _ | apply setHs | apply sendReq | apply ite | apply dite | apply foldl | split | refine upd ?_

theorem hsFail {s : State} (h : Kept key fac q s) :
    Kept key fac q (State.hsFail s) := by
  unfold State.hsFail
  with_reducible repeat' first | assumption | intro _ | apply bump | apply setHs | apply taskError | apply ite | apply dite | apply foldl | split | refine upd ?_

theorem discGone {s : State} (h : Kept key fac q s) :
    Kept key fac q (State.discGone s) := by
  unfold State.discGone
  with_reducible repeat' first | assumption | intro _ | apply put | apply mirrDisc | apply ite | apply dite | apply foldl | split | refine upd ?_

theorem robotReply {s : State} {e : Fin 8} {typ : Nat} {want : Nat} {done : Nat} {effect : State → State} (h : Kept key fac q s) (heffect : ∀ s, Kept key fac q s → Kept key fac q (effect s)) :
    Kept key fac q (State.robotReply s e typ want done effect) := by
  unfold State.robotReply
  extract_lets s1 s2
  have h1 : Kept key fac q s1 := h.modRx
  have h2 : Kept key fac q s2 := h1.ackMsg
  exact ite (ite h1.ackMsg (ite (ite (heffect _ h2.setHs) h2.hsFail) h1.ackMsg)) h

theorem report {s : State} {ps : List (Fin 8)} {typ : Nat} {body : List Byte} (h : Kept key fac q s) :
    Kept key fac q (State.report s ps typ body) := by
  unfold State.report
  with_reducible repeat' first | assumption | intro _ | apply lbsMessage | apply ite | apply dite | apply foldl | refine snd ‹_› ?_ | split | refine upd ?_

theorem pairNotice {s : State} (h : Kept key fac q s) :
    Kept key fac q (State.pairNotice s) := by
  unfold State.pairNotice
  with_reducible repeat' first | assumption | intro _ | apply report | apply ite | apply dite | apply foldl | split | refine upd ?_

theorem lbsCfgErr {s : State} (h : Kept key fac q s) :
    Kept key fac q (State.lbsCfgErr s) := by
  unfold State.lbsCfgErr
  with_reducible repeat' first | assumption | intro _ | apply put | apply ite | apply dite | apply foldl | split | refine upd ?_

theorem modMir {s : State} {f : Mir → Mir} (h : Kept key fac q s) :
    Kept key fac q (State.modMir s f) := by
  unfold State.modMir
  with_reducible repeat' first | assumption | intro _ | apply ite | apply dite | apply foldl | split | refine upd ?_

theorem redUpdate {s : State} (h : Kept key fac q s) :
    Kept key fac q (State.redUpdate s) := by
  unfold State.redUpdate
  with_reducible repeat' first | assumption | intro _ | apply wr | apply event | apply pairNotice | apply attention | apply ite | apply dite | apply foldl | split | refine upd ?_

theorem setRole {s : State} {r : Nat} (h : Kept key fac q s) :
    Kept key fac q (State.setRole s r) := by
  unfold State.setRole
  with_reducible repeat' first | assumption | intro _ | apply modMir | apply wr | apply pairNotice | apply ite | apply dite | apply foldl | split | refine upd ?_

theorem degrade {s : State} (h : Kept key fac q s) :
    Kept key fac q (State.degrade s) := by
  unfold State.degrade
  with_reducible repeat' first | assumption | intro _ | apply modMir | apply put | apply bump | apply redUpdate | apply ite | apply dite | apply foldl | split | refine upd ?_

theorem ownGained {s : State} (h : Kept key fac q s) :
    Kept key fac q (State.ownGained s) := by
  unfold State.ownGained
  with_reducible repeat' first | assumption | intro _ | apply setRole | apply event | apply spnRun | apply spnFault | apply ite | apply dite | apply foldl | split | refine upd ?_

theorem ownLost {s : State} (h : Kept key fac q s) :
    Kept key fac q (State.ownLost s) := by
  unfold State.ownLost
  with_reducible repeat' first | assumption | intro _ | apply event | apply deenergise | apply dropGates | apply spnFails | apply setRole | apply taskError | apply stagesOff | apply ite | apply dite | apply foldl | split | refine upd ?_

theorem velocities {s : State} (h : Kept key fac q s) :
    Kept key fac q (State.velocities s).2 := by
  have fold : ∀ (f : List Nat × State → Stepper → List Nat × State), (∀ p n, Kept key fac q p.2 → Kept key fac q (f p n).2) →
      ∀ (l : List Stepper) p, Kept key fac q p.2 → Kept key fac q (l.foldl f p).2 := by
    intro f hf l
    induction l with
    | nil => exact fun _ h => h
    | cons n _ ih => exact fun p h => ih _ (hf p n h)
  unfold State.velocities
  refine fold _ (fun p n hp => ?_) _ _ h
  dsimp only
  split
  · exact hp
  · split
    · exact hp
    · exact hp.draw

theorem sendPart {s : State} {vel : List Nat} {k : Nat} (h : Kept key fac q s) :
    Kept key fac q (State.sendPart s vel k) := by
  unfold State.sendPart
  with_reducible repeat' first | assumption | intro _ | apply consumeSram | apply clearSram | apply mirrSend | apply ite | apply dite | apply foldl | split | refine upd ?_

theorem sendSample {s : State} (h : Kept key fac q s) :
    Kept key fac q (State.sendSample s) := by
  unfold State.sendSample
  with_reducible repeat' first | assumption | intro _ | apply velocities | apply sendPart | apply bump | apply ite | apply dite | apply foldl | refine snd ‹_› ?_ | split | refine upd ?_

theorem mirApply {s : State} {parts : List (List Byte)} (h : Kept key fac q s) :
    Kept key fac q (State.mirApply s parts) := by
  unfold State.mirApply
  with_reducible repeat' first | assumption | intro _ | apply writeMode | apply loadSet | apply commitSet | apply pmcRise | apply modLsv | apply wr | apply put | apply modMir | apply spnTarget | apply setReg | apply ite | apply dite | apply foldl | split | refine upd ?_

theorem mirInstant {s : State} (h : Kept key fac q s) :
    Kept key fac q (State.mirInstant s) := by
  unfold State.mirInstant
  with_reducible repeat' first | assumption | intro _ | apply modMir | apply bump | apply mirApply | apply degrade | apply ite | apply dite | apply foldl | refine snd ‹_› ?_ | split | refine upd ?_

theorem pairCheck {s : State} {parts : List (List Byte)} (h : Kept key fac q s) :
    Kept key fac q (State.pairCheck s parts).2 := by
  unfold State.pairCheck
  extract_lets a own d s1 s2
  have h2 : Kept key fac q s2 := (h.setInt _ _).setReg _ _
  clear_value s2
  split
  · split
    · exact (h2.bump _).degrade
    · exact h2
  · exact h

theorem mirComplete {s : State} {seq : Nat} {parts : List (List Byte)} (h : Kept key fac q s) :
    Kept key fac q (State.mirComplete s seq parts) := by
  unfold State.mirComplete
  with_reducible repeat' first | assumption | intro _ | apply storeBytes | apply setReg | apply bump | apply modMir | apply pairCheck | apply degrade | apply put | apply redUpdate | apply ite | apply dite | apply foldl | split | refine upd ?_

theorem mirPart {s : State} {k : Nat} {seq : Nat} {payload : List Byte} (h : Kept key fac q s) :
    Kept key fac q (State.mirPart s k seq payload) := by
  unfold State.mirPart
  with_reducible repeat' first | assumption | intro _ | apply modMir | apply mirComplete | apply ite | apply dite | apply foldl | split | refine upd ?_

theorem mirEntries {s : State} {payload : List Byte} (h : Kept key fac q s) :
    Kept key fac q (State.mirEntries s payload) := by
  unfold State.mirEntries
  with_reducible repeat' first | assumption | intro _ | apply bump | apply putTableEntry | apply ite | apply dite | apply foldl | split | refine upd ?_

theorem mirNextFree {s : State} {payload : List Byte} (h : Kept key fac q s) :
    Kept key fac q (State.mirNextFree s payload) := by
  unfold State.mirNextFree
  with_reducible repeat' first | assumption | intro _ | apply bump | apply setNextFree | apply ite | apply dite | apply foldl | split | refine upd ?_

theorem mirDiscState {s : State} {payload : List Byte} (h : Kept key fac q s) :
    Kept key fac q (State.mirDiscState s payload) := by
  unfold State.mirDiscState
  with_reducible repeat' first | assumption | intro _ | apply put | apply wr | apply setReg | apply ite | apply dite | apply foldl | split | refine upd ?_

theorem giveNow {s : State} (h : Kept key fac q s) :
    Kept key fac q (State.giveNow s) := by
  unfold State.giveNow
  with_reducible repeat' first | assumption | intro _ | apply modMir | apply mirrSend | apply bump | apply ite | apply dite | apply foldl | split | refine upd ?_

theorem handoverGo {s : State} (h : Kept key fac q s) :
    Kept key fac q (State.handoverGo s) := by
  unfold State.handoverGo
  with_reducible repeat' first | assumption | intro _ | apply giveNow | apply ite | apply dite | apply foldl | split | refine upd ?_

theorem handoverDone {s : State} (h : Kept key fac q s) :
    Kept key fac q (State.handoverDone s) := by
  unfold State.handoverDone
  with_reducible repeat' first | assumption | intro _ | apply modMir | apply bump | apply ite | apply dite | apply foldl | split | refine upd ?_

theorem mirrorTake {s : State} {payload : List Byte} (h : Kept key fac q s) :
    Kept key fac q (State.mirrorTake s payload) := by
  unfold State.mirrorTake
  with_reducible repeat' first | assumption | intro _ | apply setReg | apply modMir | apply put | apply mirPart | apply mirDiscState | apply mirEntries | apply mirNextFree | apply setRole | apply handoverGo | apply handoverDone | apply redUpdate | apply ite | apply dite | apply foldl | split | refine upd ?_

theorem heartbeatLost {s : State} (h : Kept key fac q s) :
    Kept key fac q (State.heartbeatLost s) := by
  unfold State.heartbeatLost
  with_reducible repeat' first | assumption | intro _ | apply put | apply bump | apply redUpdate | apply ite | apply dite | apply foldl | split | refine upd ?_

theorem claimPreset {s : State} (h : Kept key fac q s) :
    Kept key fac q (State.claimPreset s) := by
  unfold State.claimPreset
  with_reducible repeat' first | assumption | intro _ | apply put | apply bump | apply orderPreset | apply ite | apply dite | apply foldl | refine snd ‹_› ?_ | split | refine upd ?_

theorem claimDrives {s : State} {p : List (List Byte)} (h : Kept key fac q s) :
    Kept key fac q (State.claimDrives s p) := by
  unfold State.claimDrives
  with_reducible repeat' first | assumption | intro _ | apply put | apply lsvGo | apply wr | apply writeMode | apply modSld | apply ite | apply dite | apply foldl | split | refine upd ?_

theorem claimTask {s : State} {p : List (List Byte)} (h : Kept key fac q s) :
    Kept key fac q (State.claimTask s p) := by
  unfold State.claimTask
  with_reducible repeat' first | assumption | intro _ | apply wr | apply setReg | apply draw | apply taskError | apply ite | apply dite | apply foldl | refine snd ‹_› ?_ | split | refine upd ?_

theorem handover {s : State} (h : Kept key fac q s) :
    Kept key fac q (State.handover s) := by
  unfold State.handover
  with_reducible repeat' first | assumption | intro _ | apply taskError | apply giveNow | apply modMir | apply ite | apply dite | apply foldl | split | refine upd ?_

theorem intervalCount {s : State} {ns : Nat} (h : Kept key fac q s) :
    Kept key fac q (State.intervalCount s ns) := by
  unfold State.intervalCount
  with_reducible repeat' first | assumption | intro _ | apply setReg | apply bump64 | apply ite | apply dite | apply foldl | split | refine upd ?_

theorem sampleInterval {s : State} {ns : Nat} (h : Kept key fac q s) :
    Kept key fac q (State.sampleInterval s ns) := by
  unfold State.sampleInterval
  with_reducible repeat' first | assumption | intro _ | apply intervalCount | apply ite | apply dite | apply foldl | split | refine upd ?_

theorem supSamples {s : State} {y : Quads} (h : Kept key fac q s) :
    Kept key fac q (State.supSamples s y) := by
  unfold State.supSamples
  with_reducible repeat' first | assumption | intro _ | apply lsvSample | apply ite | apply dite | apply foldl | split | refine upd ?_

theorem sampleRun {s : State} {x : SampleIn} (h : Kept key fac q s) :
    Kept key fac q (State.sampleRun s x) := by
  unfold State.sampleRun
  with_reducible repeat' first | assumption | intro _ | apply sampleInterval | apply quadKeep | apply mirInstant | apply sldSample | apply spnSample | apply rateCheck | apply srvSample | apply supSamples | apply sendSample | apply ite | apply dite | apply foldl | split | refine upd ?_

theorem goCheck {s : State} {cust : Bool} (h : Kept key fac q s) :
    Kept key fac q (State.goCheck s cust) := by
  unfold State.goCheck
  with_reducible repeat' first | assumption | intro _ | apply taskError | apply bump | apply put | apply wr | apply ite | apply dite | apply foldl | refine snd ‹_› ?_ | split | refine upd ?_

theorem goPending {s : State} (h : Kept key fac q s) :
    Kept key fac q (State.goPending s) := by
  unfold State.goPending
  with_reducible repeat' first | assumption | intro _ | apply goCheck | apply ite | apply dite | apply foldl | split | refine upd ?_

theorem taskGo {s : State} {p : Port} {cust : Bool} (h : Kept key fac q s) :
    Kept key fac q (State.taskGo s p cust) := by
  unfold State.taskGo
  with_reducible repeat' first | assumption | intro _ | apply bump | apply clock | apply wr | apply put | apply setReg | apply event | apply mirrRecord | apply goCheck | apply ite | apply dite | apply foldl | split | refine upd ?_

theorem taskRestart {s : State} (h : Kept key fac q s) :
    Kept key fac q (State.taskRestart s) := by
  unfold State.taskRestart
  with_reducible repeat' first | assumption | intro _ | apply wr | apply setRes | apply bump | apply ite | apply dite | apply foldl | split | refine upd ?_

theorem tskCmdWrite {s : State} {p : Port} {cust : Bool} {v : Word} (h : Kept key fac q s) :
    Kept key fac q (State.tskCmdWrite s p cust v).2 := by
  unfold State.tskCmdWrite
  extract_lets go re
  split
  · split
    · exact h.taskRestart
    · exact h.bump _
  · split
    · exact h.bump _
    · split
      · exact h.taskGo
      · exact h

theorem sendLink {s : State} {p : Fin 3} {bytes : List Byte} (h : Kept key fac q s) :
    Kept key fac q (State.sendLink s p bytes) := by
  unfold State.sendLink
  with_reducible repeat' first | assumption | intro _ | apply sendFlit | apply ite | apply dite | apply foldl | split | refine upd ?_

theorem pumpAll {s : State} {p : Fin 3} (h : Kept key fac q s) :
    Kept key fac q (State.pumpAll s p) := by
  unfold State.pumpAll
  with_reducible repeat' first | assumption | intro _ | apply pump | apply ite | apply dite | apply foldl | split | refine upd ?_

theorem ackNow {s : State} {p : Fin 3} (h : Kept key fac q s) :
    Kept key fac q (State.ackNow s p) := by
  unfold State.ackNow
  with_reducible repeat' first | assumption | intro _ | apply modPort | apply sendLink | apply ite | apply dite | apply foldl | split | refine upd ?_

theorem ackFull {s : State} {p : Fin 3} (h : Kept key fac q s) :
    Kept key fac q (State.ackFull s p) := by
  unfold State.ackFull
  with_reducible repeat' first | assumption | intro _ | apply ackNow | apply ite | apply dite | apply foldl | split | refine upd ?_

theorem nakOnce {s : State} {p : Fin 3} (h : Kept key fac q s) :
    Kept key fac q (State.nakOnce s p) := by
  unfold State.nakOnce
  with_reducible repeat' first | assumption | intro _ | apply modPort | apply bump | apply sendLink | apply ite | apply dite | apply foldl | split | refine upd ?_

theorem rxTake {s : State} {p : Fin 3} {h_2 : Dword} {n : Nat} (h : Kept key fac q s) :
    Kept key fac q (State.rxTake s p h_2 n).2 := by
  unfold State.rxTake
  split
  · exact (h.bump _).nakOnce
  · extract_lets gap s1
    have h1 : Kept key fac q s1 := h.modPort
    clear_value s1 gap
    split
    · exact (h1.bump64 _ _).ackFull
    · split
      · exact h.nakOnce
      · exact h.modPort.ackFull

theorem credit {s : State} {p : Fin 3} {typ : Nat} {n : Nat} (h : Kept key fac q s) :
    Kept key fac q (State.credit s p typ n) := by
  unfold State.credit
  with_reducible repeat' first | assumption | intro _ | apply modPort | apply ite | apply dite | apply foldl | split | refine upd ?_

theorem rxOwn {s : State} {p : Fin 3} {h_2 : Dword} {typ : Nat} {n : Nat} (h : Kept key fac q s) :
    Kept key fac q (State.rxOwn s p h_2 typ n).2 :=
  ite h.rxTake.credit h.rxTake

theorem retrain {s : State} {p : Fin 3} (h : Kept key fac q s) :
    Kept key fac q (State.retrain s p) := by
  unfold State.retrain
  with_reducible repeat' first | assumption | intro _ | apply put | apply wr | apply modPort | apply ite | apply dite | apply foldl | split | refine upd ?_

theorem mapLanes {s : State} {p : Fin 3} {ls : List Nat} (h : Kept key fac q s) :
    Kept key fac q (State.mapLanes s p ls) := by
  unfold State.mapLanes
  with_reducible repeat' first | assumption | intro _ | apply wr | apply ite | apply dite | apply foldl | split | refine upd ?_

theorem resend {s : State} {p : Fin 3} {i : Nat} (h : Kept key fac q s) :
    Kept key fac q (State.resend s p i) := by
  unfold State.resend
  with_reducible repeat' first | assumption | intro _ | apply modPort | apply bump | apply bump64 | apply pmcEdge | apply sendLink | apply retrain | apply ite | apply dite | apply foldl | split | refine upd ?_

theorem owedTold {s : State} {p : Fin 3} (h : Kept key fac q s) :
    Kept key fac q (State.owedTold s p) := by
  unfold State.owedTold
  with_reducible repeat' first | assumption | intro _ | apply ite | apply dite | apply foldl | split | refine upd ?_

theorem portFail {s : State} {p : Fin 3} {cause : Nat} (h : Kept key fac q s) :
    Kept key fac q (State.portFail s p cause) := by
  unfold State.portFail
  with_reducible repeat' first | assumption | intro _ | apply clock | apply put | apply wr | apply creditBack | apply modPort | apply event | apply taskError | apply heartbeatLost | apply sendFlit | apply ite | apply dite | apply foldl | refine snd ‹_› ?_ | split | refine upd ?_

theorem resendFrom {s : State} {p : Fin 3} {seq : Nat} (h : Kept key fac q s) :
    Kept key fac q (State.resendFrom s p seq) := by
  unfold State.resendFrom
  with_reducible repeat' first | assumption | intro _ | apply resend | apply ite | apply dite | apply foldl | refine snd ‹_› ?_ | split | refine upd ?_

theorem swapStart {s : State} {p : Fin 3} {l : Nat} (h : Kept key fac q s) :
    Kept key fac q (State.swapStart s p l) := by
  unfold State.swapStart
  with_reducible repeat' first | assumption | intro _ | apply draw | apply modPort | apply put | apply sendLink | apply ite | apply dite | apply foldl | refine snd ‹_› ?_ | split | refine upd ?_

theorem cutThrough {s : State} {p : Fin 3} {f : Flit} (h : Kept key fac q s) :
    Kept key fac q (State.cutThrough s p f) := by
  unfold State.cutThrough
  with_reducible repeat' first | assumption | intro _ | apply bump64 | apply sendFlit | apply bump | apply credit | apply ite | apply dite | apply foldl | refine snd ‹_› ?_ | split | refine upd ?_

theorem takeHop {s : State} {n : Nat} (h : Kept key fac q s) :
    Kept key fac q (State.takeHop s n) := by
  unfold State.takeHop
  with_reducible repeat' first | assumption | intro _ | apply wr | apply put | apply sessionShut | apply attention | apply ite | apply dite | apply foldl | split | refine upd ?_

theorem enumAnswer {s : State} {p : Fin 3} {flags : Nat} {count : Nat} {base : Nat} {mm : Nat} (h : Kept key fac q s) :
    Kept key fac q (State.enumAnswer s p flags count base mm) := by
  unfold State.enumAnswer
  with_reducible repeat' first | assumption | intro _ | apply wr | apply sendFlit | apply ite | apply dite | apply foldl | split | refine upd ?_

theorem enumRun {s : State} {p : Fin 3} {o : Fin 3} {payload : List Byte} (h : Kept key fac q s) :
    Kept key fac q (State.enumRun s p o payload) := by
  unfold State.enumRun
  with_reducible repeat' first | assumption | intro _ | apply put | apply enumAnswer | apply takeHop | apply sendFlit | apply ite | apply dite | apply foldl | split | refine upd ?_

theorem arbWrite {s : State} {v : Word} (h : Kept key fac q s) :
    Kept key fac q (State.arbWrite s v) := by
  unfold State.arbWrite
  with_reducible repeat' first | assumption | intro _ | apply put | apply setReg | apply ite | apply dite | apply foldl | split | refine upd ?_

end Sys2Proof.Machine.Kept
end

