-- ==== Sys2Proof/Laws/KeptRun.lean ====
section
/-! SUPPORT. What the operations of CCH, SEQ, AXL, the transfers, the tasks, the calibrations and resets keep. -/

set_option linter.unusedTactic false
set_option linter.unreachableTactic false

namespace Sys2Proof.Machine.Kept

set_option Elab.async false

variable {key : Option (List Byte)} {fac : List Dword} {q : List Instr}

theorem modSeq {s : State} {f : Seq → Seq} (h : Kept key fac q s)
    (e : ∀ x, (f x).sram = x.sram ∧ (f x).cs = x.cs := by exact fun _ => ⟨rfl, rfl⟩) : Kept key fac q (State.modSeq s f) := by
  have e' := e s.seq
  unfold State.modSeq
  exact h.of_view (by simp only [view]; simp only [e'])

theorem seqStore {s : State} {a : Nat} {bs : List Byte} (h : Kept key fac q s) :
    Kept key fac q (State.seqStore s a bs) := by
  unfold State.seqStore
  with_reducible repeat' first | assumption | intro _ | apply setDramBytes | apply clearPoison | apply touch | apply ite | apply dite | apply foldl | split | refine upd ?_

theorem drainStores {s : State} (h : Kept key fac q s) :
    Kept key fac q (State.drainStores s) := by
  unfold State.drainStores
  with_reducible repeat' first | assumption | intro _ | apply seqStore | refine modSeq ?_ | apply ite | apply dite | apply foldl | split | refine upd ?_

theorem pushStore {s : State} {a : Nat} {bs : List Byte} (h : Kept key fac q s) :
    Kept key fac q (State.pushStore s a bs) := by
  unfold State.pushStore
  with_reducible repeat' first | assumption | intro _ | apply seqStore | refine modSeq ?_ | apply ite | apply dite | apply foldl | refine snd ‹_› ?_ | split | refine upd ?_

theorem settleLine {s : State} {a : Nat} (h : Kept key fac q s) :
    Kept key fac q (State.settleLine s a) := by
  unfold State.settleLine
  with_reducible repeat' first | assumption | intro _ | apply drainStores | apply ite | apply dite | apply foldl | split | refine upd ?_

theorem writeBack {s : State} {l : CLine} (h : Kept key fac q s) :
    Kept key fac q (State.writeBack s l) := by
  unfold State.writeBack
  with_reducible repeat' first | assumption | intro _ | apply settleLine | apply bump64 | apply seqStore | apply poisonLine | apply ite | apply dite | apply foldl | split | refine upd ?_

theorem cleanOne {s : State} {l : CLine} (h : Kept key fac q s) :
    Kept key fac q (State.cleanOne s l) := by
  unfold State.cleanOne
  with_reducible repeat' first | assumption | intro _ | apply writeBack | apply ite | apply dite | apply foldl | split | refine upd ?_

theorem toVictim {s : State} {l : CLine} (h : Kept key fac q s) :
    Kept key fac q (State.toVictim s l) := by
  unfold State.toVictim
  with_reducible repeat' first | assumption | intro _ | apply cleanOne | refine modSeq ?_ | apply ite | apply dite | apply foldl | refine snd ‹_› ?_ | split | refine upd ?_

theorem evictLine {s : State} {l : CLine} (h : Kept key fac q s) :
    Kept key fac q (State.evictLine s l) := by
  unfold State.evictLine
  with_reducible repeat' first | assumption | intro _ | apply bump64 | apply toVictim | apply cleanOne | apply ite | apply dite | apply foldl | refine snd ‹_› ?_ | split | refine upd ?_

theorem putLine {s : State} {l : CLine} (h : Kept key fac q s) :
    Kept key fac q (State.putLine s l) := by
  unfold State.putLine
  with_reducible repeat' first | assumption | intro _ | apply evictLine | refine modSeq ?_ | apply ite | apply dite | apply foldl | refine snd ‹_› ?_ | split | refine upd ?_

theorem findLine {s : State} {a : Nat} (h : Kept key fac q s) :
    Kept key fac q (State.findLine s a).2 := by
  unfold State.findLine
  split
  · exact (h.bump64 _ _).putLine
  · split
    · exact h
    · extract_lets s1 vs
      have h1 : Kept key fac q s1 := h.bump64 _ _
      clear_value s1
      split
      · dsimp only
        with_reducible refine modSeq ?_
        exact h1
      · dsimp only
        with_reducible refine modSeq ?_
        exact h1

theorem fetchLine {s : State} {a : Nat} (h : Kept key fac q s) :
    Kept key fac q (State.fetchLine s a).2 := by
  unfold State.fetchLine
  with_reducible repeat' first | assumption | intro _ | apply touch | apply ite | apply dite | apply foldl | split | refine upd ?_

theorem cchMiss {s : State} {a : Nat} (h : Kept key fac q s) :
    Kept key fac q (State.cchMiss s a) := by
  unfold State.cchMiss
  with_reducible repeat' first | assumption | intro _ | refine modSeq ?_ | apply bump64 | apply pmcEvent | apply ite | apply dite | apply foldl | split | refine upd ?_

theorem dramLoad {s : State} {a : Nat} {n : Nat} (h : Kept key fac q s) :
    Kept key fac q (State.dramLoad s a n).2.2 := by
  have direct : ∀ {x : State}, Kept key fac q x → Kept key fac q (x.fetchLine a).2 := fun hx => hx.fetchLine
  unfold State.dramLoad
  extract_lets d
  have hd : ∀ {x : State}, Kept key fac q x → Kept key fac q (d x).2.2 := by
    intro x hx
    exact hx.fetchLine
  clear_value d
  split
  · exact hd (h.bump64 _ _)
  · split
    · rename_i e
      exact snd e h.findLine
    · rename_i e
      have h1 := (snd e h.findLine).cchMiss (a := a)
      extract_lets s1 al
      have h2 : Kept key fac q s1 := h1
      clear_value s1
      split
      · split
        rename_i e
        dsimp only
        with_reducible refine modSeq ?_
        exact (snd e h2.fetchLine).putLine
      · exact hd h2

theorem dramStore {s : State} {a : Nat} {bs : List Byte} (h : Kept key fac q s) :
    Kept key fac q (State.dramStore s a bs) := by
  unfold State.dramStore
  with_reducible repeat' first | assumption | intro _ | refine modSeq ?_ | apply bump64 | apply pushStore | apply findLine | apply putLine | apply cchMiss | apply fetchLine | apply ite | apply dite | apply foldl | refine snd ‹_› ?_ | split | refine upd ?_

theorem sweepLines {s : State} {sel : CLine → Bool} {clean : Bool} {drop_ : Bool} (h : Kept key fac q s) :
    Kept key fac q (State.sweepLines s sel clean drop_) := by
  unfold State.sweepLines
  with_reducible repeat' first | assumption | intro _ | refine modSeq ?_ | apply cleanOne | apply ite | apply dite | apply foldl | split | refine upd ?_

theorem cchOp {s : State} {code : Nat} {a : Nat} (h : Kept key fac q s) :
    Kept key fac q (State.cchOp s code a) := by
  unfold State.cchOp
  with_reducible repeat' first | assumption | intro _ | apply bump64 | apply sweepLines | apply ite | apply dite | apply foldl | refine snd ‹_› ?_ | split | refine upd ?_

theorem regionSet {s : State} {ofs : Nat} {v : Word} (h : Kept key fac q s) :
    Kept key fac q (State.regionSet s ofs v) := by
  unfold State.regionSet
  with_reducible repeat' first | assumption | intro _ | apply setReg | refine modSeq ?_ | apply sweepLines | apply ite | apply dite | apply foldl | split | refine upd ?_

theorem setSram {s : State} {i : Nat} {x2 : List Byte} (h : Kept key fac q s) :
    Kept key fac q (State.setSram s i x2) := by
  induction x2 generalizing s i with
  | nil => exact h
  | cons b r ih =>
    unfold State.setSram
    refine ih ?_
    unfold State.modSeq
    exact ofSeq h (Sparse.wf_set (fun _ => (0 : Byte)) _ _ _ h.canon.sram) h.canon.cs

theorem lineErrAt {s : State} {u : Nat} (h : Kept key fac q s) :
    Kept key fac q (State.lineErrAt s u) := by
  unfold State.lineErrAt
  with_reducible repeat' first | assumption | intro _ | apply setReg | apply ite | apply dite | apply foldl | refine snd ‹_› ?_ | split | refine upd ?_

theorem lineBad {s : State} {u : Nat} (h : Kept key fac q s) :
    Kept key fac q (State.lineBad s u) := by
  unfold State.lineBad
  with_reducible repeat' first | assumption | intro _ | apply lineErrAt | refine modSeq ?_ | apply fetchLine | apply ite | apply dite | apply foldl | refine snd ‹_› ?_ | split | refine upd ?_

theorem unitBad {s : State} {cls : Nat} {u : Nat} (h : Kept key fac q s) :
    Kept key fac q (State.unitBad s cls u) := by
  unfold State.unitBad
  with_reducible repeat' first | assumption | intro _ | refine modSeq ?_ | apply lineBad | apply markSram | apply ite | apply dite | apply foldl | refine snd ‹_› ?_ | split | refine upd ?_

theorem wordChecked {s : State} {macro_ : Fin 1024} {word : Fin 65536} {cls : Fin 20} {r : EccResult} (h : Kept key fac q s) :
    Kept key fac q (State.wordChecked s macro_ word cls r) := by
  unfold State.wordChecked
  with_reducible repeat' first | assumption | intro _ | apply bump | apply bumpF | apply wordErrLoc | apply wordError | apply lineErrAt | apply axlAsk | apply unitBad | apply ite | apply dite | apply foldl | refine snd ‹_› ?_ | split | refine upd ?_

theorem modTsk {s : State} {f : Tsk → Tsk} (h : Kept key fac q s) :
    Kept key fac q (State.modTsk s f) := by
  unfold State.modTsk
  with_reducible repeat' first | assumption | intro _ | apply ite | apply dite | apply foldl | split | refine upd ?_

theorem sendMRD {s : State} {p : Fin 3} {m : Mrd} (h : Kept key fac q s) :
    Kept key fac q (State.sendMRD s p m) := by
  unfold State.sendMRD
  with_reducible repeat' first | assumption | intro _ | apply sendFlit | apply ite | apply dite | apply foldl | split | refine upd ?_

theorem listError {s : State} (h : Kept key fac q s) :
    Kept key fac q (State.listError s) := by
  unfold State.listError
  with_reducible repeat' first | assumption | intro _ | apply taskError | apply ite | apply dite | apply foldl | split | refine upd ?_

theorem listFetch {s : State} {a : Nat} (h : Kept key fac q s) :
    Kept key fac q (State.listFetch s a) := by
  unfold State.listFetch
  with_reducible repeat' first | assumption | intro _ | apply modTsk | apply winViol | apply sendMRD | apply ite | apply dite | apply foldl | refine snd ‹_› ?_ | split | refine upd ?_

theorem listSegment {s : State} {a : Nat} (h : Kept key fac q s) :
    Kept key fac q (State.listSegment s a) := by
  unfold State.listSegment
  with_reducible repeat' first | assumption | intro _ | apply setPair | apply modTsk | apply listFetch | apply ite | apply dite | apply foldl | split | refine upd ?_

theorem listStart {s : State} (h : Kept key fac q s) :
    Kept key fac q (State.listStart s) := by
  unfold State.listStart
  with_reducible repeat' first | assumption | intro _ | apply modTsk | apply listError | apply listSegment | apply ite | apply dite | apply foldl | split | refine upd ?_

theorem listParse {x0 : Nat} {x1 : Nat} {x2 : List Byte} {x3 : State} (hx3 : Kept key fac q x3) :
    Kept key fac q (State.listParse x0 x1 x2 x3) := by
  induction x0 generalizing x1 x2 x3 with
  | zero =>
    unfold State.listParse
    with_reducible repeat' first | assumption | intro _ | apply listFetch | apply listError | apply modTsk | apply listSegment | apply ite | apply dite | apply foldl | split | refine upd ?_
  | succ _ ih =>
    unfold State.listParse
    with_reducible repeat' first | assumption | intro _ | apply ih | apply listFetch | apply listError | apply modTsk | apply listSegment | apply ite | apply dite | apply foldl | split | refine upd ?_

theorem deliver {x0 : Nat} {x1 : List Byte} {x2 : State} (hx2 : Kept key fac q x2) :
    Kept key fac q (State.deliver x0 x1 x2) := by
  induction x0 generalizing x1 x2 with
  | zero =>
    unfold State.deliver
    with_reducible repeat' first | assumption | intro _ | apply sendMWR | apply modTsk | apply event | apply winViol | apply ite | apply dite | apply foldl | refine snd ‹_› ?_ | split | refine upd ?_
  | succ _ ih =>
    unfold State.deliver
    with_reducible repeat' first | assumption | intro _ | apply ih | apply sendMWR | apply modTsk | apply event | apply winViol | apply ite | apply dite | apply foldl | refine snd ‹_› ?_ | split | refine upd ?_

theorem collect {x0 : Nat} {x1 : State} (hx1 : Kept key fac q x1) :
    Kept key fac q (State.collect x0 x1) := by
  induction x0 generalizing x1 with
  | zero =>
    unfold State.collect
    with_reducible repeat' first | assumption | intro _ | apply sendMRD | apply modTsk | apply winViol | apply ite | apply dite | apply foldl | refine snd ‹_› ?_ | split | refine upd ?_
  | succ _ ih =>
    unfold State.collect
    with_reducible repeat' first | assumption | intro _ | apply ih | apply sendMRD | apply modTsk | apply winViol | apply ite | apply dite | apply foldl | refine snd ‹_› ?_ | split | refine upd ?_

theorem dmaOut {s : State} {addr : Nat} {len : Nat} {lba : Nat} {b : Beam} (h : Kept key fac q s) :
    Kept key fac q (State.dmaOut s addr len lba b) := by
  unfold State.dmaOut
  with_reducible repeat' first | assumption | intro _ | apply winViol | apply consumePoison | apply taskError | apply touchLines | apply sendMWR | apply modTsk | apply event | apply advance | apply ite | apply dite | apply foldl | split | refine upd ?_

theorem dmaIn {s : State} {addr : Nat} {len : Nat} {lba : Nat} (h : Kept key fac q s) :
    Kept key fac q (State.dmaIn s addr len lba) := by
  unfold State.dmaIn
  with_reducible repeat' first | assumption | intro _ | apply winViol | apply sendMRD | apply modTsk | apply ite | apply dite | apply foldl | split | refine upd ?_

theorem mrdData {s : State} {m : Mrd} {data : List Byte} (h : Kept key fac q s) :
    Kept key fac q (State.mrdData s m data) := by
  unfold State.mrdData
  with_reducible repeat' first | assumption | intro _ | apply listParse | apply storeBytes | apply event | apply modTsk | apply ite | apply dite | apply foldl | split | refine upd ?_

theorem workDone {s : State} (h : Kept key fac q s) :
    Kept key fac q (State.workDone s) := by
  unfold State.workDone
  with_reducible repeat' first | assumption | intro _ | apply modTsk | apply ite | apply dite | apply foldl | split | refine upd ?_

theorem setPhase {s : State} {k : Nat} (h : Kept key fac q s) :
    Kept key fac q (State.setPhase s k) := by
  unfold State.setPhase
  with_reducible repeat' first | assumption | intro _ | apply modTsk | apply ite | apply dite | apply foldl | split | refine upd ?_

theorem setResults {s : State} {ns : List Nat} (h : Kept key fac q s) :
    Kept key fac q (State.setResults s ns) := by
  unfold State.setResults
  with_reducible repeat' first | assumption | intro _ | apply modTsk | apply ite | apply dite | apply foldl | split | refine upd ?_

theorem taskSpin {s : State} {rpm : Nat} (h : Kept key fac q s) :
    Kept key fac q (State.taskSpin s rpm) := by
  unfold State.taskSpin
  with_reducible repeat' first | assumption | intro _ | apply spnTarget | apply spnCommand | apply spinRun | apply taskError | apply ite | apply dite | apply foldl | refine snd ‹_› ?_ | split | refine upd ?_

theorem taskSpindle {s : State} {op : Nat} {run : State → State} (h : Kept key fac q s) (hrun : ∀ s, Kept key fac q s → Kept key fac q (run s)) :
    Kept key fac q (State.taskSpindle s op run) := by
  unfold State.taskSpindle
  with_reducible repeat' first | assumption | intro _ | apply hrun | apply spnCommand | apply taskError | apply ite | apply dite | apply foldl | refine snd ‹_› ?_ | split | refine upd ?_

theorem extentSpin {s : State} {rpm : Nat} (h : Kept key fac q s) :
    Kept key fac q (State.extentSpin s rpm) := by
  unfold State.extentSpin
  with_reducible repeat' first | assumption | intro _ | apply taskSpin | apply ite | apply dite | apply foldl | split | refine upd ?_

theorem extentModes {s : State} {write : Bool} (h : Kept key fac q s) :
    Kept key fac q (State.extentModes s write) := by
  unfold State.extentModes
  with_reducible repeat' first | assumption | intro _ | apply put | apply forEach | apply wr | apply ite | apply dite | apply foldl | split | refine upd ?_

theorem catPut {s : State} {n : Nat} {ofs : Nat} {k : Nat} {v : Nat} (h : Kept key fac q s) :
    Kept key fac q (State.catPut s n ofs k v) := by
  unfold State.catPut
  with_reducible repeat' first | assumption | intro _ | apply storeBytes | apply ite | apply dite | apply foldl | split | refine upd ?_

theorem catClear {s : State} {n : Nat} (h : Kept key fac q s) :
    Kept key fac q (State.catClear s n) := by
  unfold State.catClear
  exact ⟨{ h.canon with dram := Sparse.wf_filter _ _ _ h.canon.dram }, h.fusedOf rfl, h.fac, h.queue⟩

theorem slotErase {s : State} {n : Nat} (h : Kept key fac q s) :
    Kept key fac q (State.slotErase s n) := by
  unfold State.slotErase
  with_reducible repeat' first | assumption | intro _ | apply engineErase | apply ite | apply dite | apply foldl | split | refine upd ?_

theorem slotPut {s : State} {n : Nat} {k : Nat} {v : Word} (h : Kept key fac q s) :
    Kept key fac q (State.slotPut s n k v) := by
  unfold State.slotPut
  with_reducible repeat' first | assumption | intro _ | apply engineProgram | apply ite | apply dite | apply foldl | split | refine upd ?_

theorem slotBadTable {s : State} {n : Nat} (h : Kept key fac q s) :
    Kept key fac q (State.slotBadTable s n).2.2 := by
  unfold State.slotBadTable
  with_reducible repeat' first | assumption | intro _ | apply flashGet | apply flashWords | apply ite | apply dite | apply foldl | refine snd ‹_› ?_ | split | refine upd ?_

theorem mcRaise {c : Fin 2} {x1 : Nat} {x2 : State} (hx2 : Kept key fac q x2) :
    Kept key fac q (State.mcRaise c x1 x2) := by
  induction x1 generalizing c x2 with
  | zero =>
    unfold State.mcRaise
    with_reducible repeat' first | assumption | intro _ | apply mcStep | apply ite | apply dite | apply foldl | split | refine upd ?_
  | succ _ ih =>
    unfold State.mcRaise
    with_reducible repeat' first | assumption | intro _ | apply ih | apply mcStep | apply ite | apply dite | apply foldl | split | refine upd ?_

theorem loadRecords {s : State} {blocks : List MgmtBlock} (h : Kept key fac q s) :
    Kept key fac q (State.loadRecords s blocks) := by
  unfold State.loadRecords
  with_reducible repeat' first | assumption | intro _ | apply withTable | apply forEach | apply wr | apply put | apply ite | apply dite | apply foldl | split | refine upd ?_

theorem loadCatalogue {s : State} {rec_ : List Byte} {nocat : Bool} (h : Kept key fac q s) :
    Kept key fac q (State.loadCatalogue s rec_ nocat) := by
  unfold State.loadCatalogue
  with_reducible repeat' first | assumption | intro _ | apply slotBadTable | apply touchLines | apply withTable | apply put | apply catClear | apply storeBytes | apply catPut | apply slotPut | apply ite | apply dite | apply foldl | refine snd ‹_› ?_ | refine snd2 ‹_› ?_ | split | refine upd ?_

theorem loadApply {s : State} {blocks : List MgmtBlock} (h : Kept key fac q s) :
    Kept key fac q (State.loadApply s blocks) := by
  unfold State.loadApply
  with_reducible repeat' first | assumption | intro _ | apply loadRecords | apply loadCatalogue | apply mirrDisc | apply setResults | apply discReadyEvent | apply workDone | apply ite | apply dite | apply foldl | refine snd ‹_› ?_ | split | refine upd ?_

theorem headRelease {s : State} {h_1 : Head} (h : Kept key fac q s) :
    Kept key fac q (State.headRelease s h_1) := by
  unfold State.headRelease
  with_reducible repeat' first | assumption | intro _ | apply lsvCommand | apply releaseRun | apply ite | apply dite | apply foldl | split | refine upd ?_

theorem driveRest {s : State} (h : Kept key fac q s) :
    Kept key fac q (State.driveRest s) := by
  unfold State.driveRest
  with_reducible repeat' first | assumption | intro _ | apply headRelease | apply taskSpindle | apply stopRun | apply ite | apply dite | apply foldl | split | refine upd ?_

theorem catWrite {s : State} {n : Nat} {failed : Bool} (h : Kept key fac q s) :
    Kept key fac q (State.catWrite s n failed) := by
  unfold State.catWrite
  with_reducible repeat' first | assumption | intro _ | apply catClear | apply storeBytes | apply catPut | apply forEach | apply ite | apply dite | apply foldl | split | refine upd ?_

theorem slotWrite {s : State} {n : Nat} {failed : Bool} (h : Kept key fac q s) :
    Kept key fac q (State.slotWrite s n failed) := by
  unfold State.slotWrite
  with_reducible repeat' first | assumption | intro _ | apply slotErase | apply slotPut | apply ite | apply dite | apply foldl | split | refine upd ?_

theorem catalogueDisc {s : State} {failed : Bool} (h : Kept key fac q s) :
    Kept key fac q (State.catalogueDisc s failed) := by
  unfold State.catalogueDisc
  with_reducible repeat' first | assumption | intro _ | apply catWrite | apply slotWrite | apply ite | apply dite | apply foldl | split | refine upd ?_

theorem gripperPark {s : State} (h : Kept key fac q s) :
    Kept key fac q (State.gripperPark s) := by
  unfold State.gripperPark
  with_reducible repeat' first | assumption | intro _ | apply wr | apply taskSpindle | apply parkRun | apply setPhase | apply stopRun | apply taskSpin | apply ite | apply dite | apply foldl | split | refine upd ?_

theorem spinDown {s : State} {k : Nat} {op : Nat} {run : State → State} (h : Kept key fac q s) (hrun : ∀ s, Kept key fac q s → Kept key fac q (run s)) :
    Kept key fac q (State.spinDown s k op run) := by
  unfold State.spinDown
  with_reducible repeat' first | assumption | intro _ | apply hrun | apply workDone | apply taskSpindle | apply ite | apply dite | apply foldl | split | refine upd ?_

theorem readBlocks {blocks : List MgmtBlock} {layer : Nat} {x2 : Nat} {x3 : Nat} {x4 : State} (hx4 : Kept key fac q x4) :
    Kept key fac q (State.readBlocks blocks layer x2 x3 x4) := by
  induction x2 generalizing blocks layer x3 x4 with
  | zero =>
    unfold State.readBlocks
    with_reducible repeat' first | assumption | intro _ | apply workDone | apply taskError | apply deliver | apply setReg | apply setResults | apply ite | apply dite | apply foldl | refine snd ‹_› ?_ | split | refine upd ?_
  | succ _ ih =>
    unfold State.readBlocks
    with_reducible repeat' first | assumption | intro _ | apply ih | apply workDone | apply taskError | apply deliver | apply setReg | apply setResults | apply ite | apply dite | apply foldl | refine snd ‹_› ?_ | split | refine upd ?_

theorem evict {s : State} {n : Nat} (h : Kept key fac q s) :
    Kept key fac q (State.evict s n) := by
  unfold State.evict
  with_reducible repeat' first | assumption | intro _ | apply catClear | apply slotErase | apply ite | apply dite | apply foldl | split | refine upd ?_

theorem patchWrite {s : State} {r : Nat × Nat × Nat} (h : Kept key fac q s) :
    Kept key fac q (State.patchWrite s r) := by
  unfold State.patchWrite
  split
  refine ite (ite ?_ h) ?_
  · unfold State.modSeq
    refine ofSeq h ?_ ?_
    · exact h.canon.sram
    · exact Sparse.wf_set (fun _ => BitVec.allOnes 128) _ _ _ h.canon.cs
  · with_reducible refine modSeq ?_
    exact h

theorem patchApply {s : State} {p : List Byte} (h : Kept key fac q s) :
    Kept key fac q (State.patchApply s p) := by
  unfold State.patchApply
  with_reducible repeat' first | assumption | intro _ | apply taskError | apply patchWrite | apply wr | apply mcRaise | apply setResults | apply workDone | apply ite | apply dite | apply foldl | split | refine upd ?_

theorem patchSealed {s : State} {payload : List Byte} {tag : List Byte} {expected : List Byte} (h : Kept key fac q s) :
    Kept key fac q (State.patchSealed s payload tag expected) := by
  have wf (l : List Nat) : ∀ m, Sparse.wf (fun _ => (0 : Byte)) m = true →
      Sparse.wf (fun _ => (0 : Byte)) (l.foldl (fun (m : List Host.Cell) i => Sparse.set 0 m i (payload.getD i 0)) m) = true := by
    induction l with
    | nil => exact fun _ h => h
    | cons i _ ih => exact fun m hm => ih _ (Sparse.wf_set (fun _ => (0 : Byte)) m i _ hm)
  unfold State.patchSealed
  have h1 := h.sealNow
  exact (((h1.ofCph (c := { s.sealNow.cph with
    buf := (List.range payload.length).foldl (fun (m : List Host.Cell) i => Sparse.set 0 m i (payload.getD i 0)) [], tag := some tag })
    h1.keyIs h1.idleIs (wf _ [] rfl)).setReg _ _).setRegBytes).tagResult

theorem patchBlob {s : State} {blob : List Byte} (h : Kept key fac q s) :
    Kept key fac q (State.patchBlob s blob) := by
  unfold State.patchBlob
  with_reducible repeat' first | assumption | intro _ | apply taskError | apply lockTake | apply patchSealed | apply patchApply | apply ite | apply dite | apply foldl | refine snd ‹_› ?_ | split | refine upd ?_

theorem readImage {s : State} (h : Kept key fac q s) :
    Kept key fac q (State.readImage s).2 := by
  unfold State.readImage
  split
  rename_i e1
  have h1 := snd e1 h.flashWords
  extract_lets
  split
  · exact h1
  · split
    rename_i e2
    exact snd e2 h1.flashWords

theorem cfgFault {s : State} {cause : Nat} {typ : Nat} (h : Kept key fac q s) :
    Kept key fac q (State.cfgFault s cause typ) := by
  unfold State.cfgFault
  with_reducible repeat' first | assumption | intro _ | apply put | apply wr | apply setReg | apply startStop | apply ite | apply dite | apply foldl | split | refine upd ?_

theorem slotRestore {s : State} {n : Nat} (h : Kept key fac q s) :
    Kept key fac q (State.slotRestore s n) := by
  unfold State.slotRestore
  split
  rename_i e1
  have h1 := snd e1 h.flashGet
  refine ite h1 ?_
  split
  rename_i e2
  have h2 := snd e2 h1.flashWords
  refine ite h2 ?_
  extract_lets held cnt s1 s2 s3
  have h3 : Kept key fac q s1 := h2.catClear.storeBytes
  clear_value s1
  have h4 : Kept key fac q s3 := (((h3.catPut).catPut).catPut.catPut).catPut
  clear_value s3
  split
  rename_i e3
  exact ((snd e3 h4.flashWords).storeBytes).wr _ _

theorem dload {s : State} (h : Kept key fac q s) :
    Kept key fac q (State.dload s) := by
  unfold State.dload
  with_reducible repeat' first | assumption | intro _ | apply wr | apply readImage | apply cfgFault | apply storeBytes | apply put | apply forEach | apply slotRestore | apply ite | apply dite | apply foldl | refine snd ‹_› ?_ | split | refine upd ?_

theorem calDone {s : State} (h : Kept key fac q s) :
    Kept key fac q (State.calDone s) := by
  unfold State.calDone
  with_reducible repeat' first | assumption | intro _ | apply put | apply workDone | apply ite | apply dite | apply foldl | split | refine upd ?_

theorem calMeasure {s : State} {code : Nat} {run : State → State} (h : Kept key fac q s) (hrun : ∀ s, Kept key fac q s → Kept key fac q (run s)) :
    Kept key fac q (State.calMeasure s code run) := by
  unfold State.calMeasure
  exact ite (ite (hrun _ h).calDone h.taskError) h

theorem calClamp {s : State} {lo : Int} {hi : Int} {v : Int} (h : Kept key fac q s) :
    Kept key fac q (State.calClamp s lo hi v).2 := by
  unfold State.calClamp
  with_reducible repeat' first | assumption | intro _ | apply put | apply ite | apply dite | apply foldl | split | refine upd ?_

theorem calField {s : State} {f : RegField} {v : Nat} (h : Kept key fac q s) :
    Kept key fac q (State.calField s f v) := by
  unfold State.calField
  with_reducible repeat' first | assumption | intro _ | apply calClamp | apply wr | apply ite | apply dite | apply foldl | refine snd ‹_› ?_ | split | refine upd ?_

theorem calSigned {s : State} {f : RegField} {v : Int} (h : Kept key fac q s) :
    Kept key fac q (State.calSigned s f v) := by
  unfold State.calSigned
  with_reducible repeat' first | assumption | intro _ | apply calClamp | apply wr | apply ite | apply dite | apply foldl | refine snd ‹_› ?_ | split | refine upd ?_

theorem calTarget {s : State} {f : State → State} (h : Kept key fac q s) (hf : ∀ s, Kept key fac q s → Kept key fac q (f s)) :
    Kept key fac q (State.calTarget s f) := by
  unfold State.calTarget
  exact ite (hf _ h) h

theorem calSeek {s : State} (h : Kept key fac q s) :
    Kept key fac q (State.calSeek s) := by
  unfold State.calSeek
  with_reducible repeat' first | assumption | intro _ | apply forEach | apply wr | apply lsvCommand | apply lsvBegin | apply seekRun | apply ite | apply dite | apply foldl | split | refine upd ?_

theorem calOnDisc {s : State} {code : Nat} {run : State → State} (h : Kept key fac q s) (hrun : ∀ s, Kept key fac q s → Kept key fac q (run s)) :
    Kept key fac q (State.calOnDisc s code run) := by
  unfold State.calOnDisc
  with_reducible repeat' first | assumption | intro _ | apply hrun | apply setPhase | apply calSeek | apply taskError | apply calMeasure | apply ite | apply dite | apply foldl | split | refine upd ?_

theorem setG {s : State} {i : Fin 32} {v : Dword} (h : Kept key fac q s) :
    Kept key fac q (State.setG s i v) := by
  unfold State.setG
  with_reducible repeat' first | assumption | intro _ | apply ite | apply dite | apply foldl | split | refine upd ?_

theorem setPc {s : State} {a : BitVec 14} (h : Kept key fac q s) :
    Kept key fac q (State.setPc s a) := by
  unfold State.setPc
  with_reducible repeat' first | assumption | intro _ | apply setReg | apply ite | apply dite | apply foldl | split | refine upd ?_

theorem setMode {s : State} {m : BitVec 4} (h : Kept key fac q s) :
    Kept key fac q (State.setMode s m) := by
  unfold State.setMode
  with_reducible repeat' first | assumption | intro _ | apply setReg | apply put | apply goPending | apply ite | apply dite | apply foldl | split | refine upd ?_

theorem haltNow {s : State} {k : Nat} (h : Kept key fac q s) :
    Kept key fac q (State.haltNow s k) := by
  unfold State.haltNow
  with_reducible repeat' first | assumption | intro _ | apply put | apply setReg | apply ite | apply dite | apply foldl | split | refine upd ?_

theorem doubleFault {s : State} (h : Kept key fac q s) :
    Kept key fac q (State.doubleFault s) := by
  unfold State.doubleFault
  with_reducible repeat' first | assumption | intro _ | refine modSeq ?_ | apply haltNow | apply put | apply taskError | apply attention | apply startStop | apply ite | apply dite | apply foldl | split | refine upd ?_

theorem raise {s : State} {code : Nat} {addr : Option Nat} (h : Kept key fac q s) :
    Kept key fac q (State.raise s code addr) := by
  unfold State.raise
  with_reducible repeat' first | assumption | intro _ | apply bump | apply doubleFault | apply setReg | apply setPair | apply setMode | apply put | refine modSeq ?_ | apply setPc | apply pmcEdge | apply ite | apply dite | apply foldl | refine snd ‹_› ?_ | split | refine upd ?_

theorem takeWdog {s : State} (h : Kept key fac q s) :
    Kept key fac q (State.takeWdog s) := by
  unfold State.takeWdog
  with_reducible repeat' first | assumption | intro _ | refine modSeq ?_ | apply raise | apply ite | apply dite | apply foldl | split | refine upd ?_

theorem loadPoison {s : State} {a : Nat} (h : Kept key fac q s) :
    Kept key fac q (State.loadPoison s a) := by
  unfold State.loadPoison
  with_reducible repeat' first | assumption | intro _ | apply bump | apply consumePoison | apply consumeSram | apply ite | apply dite | apply foldl | split | refine upd ?_

theorem xLoad {s : State} {a : Nat} {n : Nat} {sext : Bool} (h : Kept key fac q s) :
    Kept key fac q (State.xLoad s a n sext).2 := by
  unfold State.xLoad
  with_reducible repeat' first | assumption | intro _ | apply dramLoad | apply loadPoison | apply ite | apply dite | apply foldl | refine snd ‹_› ?_ | refine snd2 ‹_› ?_ | split | refine upd ?_

theorem xStore {s : State} {a : Nat} {n : Nat} {v : Dword} (h : Kept key fac q s) :
    Kept key fac q (State.xStore s a n v).2 := by
  unfold State.xStore
  with_reducible repeat' first | assumption | intro _ | apply dramStore | apply clearSram | apply setSram | apply ite | apply dite | apply foldl | refine snd ‹_› ?_ | split | refine upd ?_

theorem xRun {io : RegIO} {s : State} {m : Micro} (hr : ∀ s a, Kept key fac q s → Kept key fac q (io.read s a).2) (hw : ∀ s a v, Kept key fac q s → Kept key fac q (io.write s a v).2) (h : Kept key fac q s) :
    Kept key fac q (State.xRun io s m).2 := by
  unfold State.xRun
  extract_lets a n
  split
  · exact h.xLoad
  · exact h.xLoad
  · exact h.xStore
  · exact h.drainStores
  · split
    · exact h
    · exact h.cchOp
  · exact hr _ _ h
  · split
    · rename_i e; exact snd e (hw _ _ _ h)
    · rename_i e; exact snd e (hw _ _ _ h)
  · exact h

theorem xFlags {m : Micro} {a : Dword} {b : Dword} {r : Option Dword} {s : State} (h : Kept key fac q s) :
    Kept key fac q (State.xFlags m a b r s) := by
  unfold State.xFlags
  with_reducible repeat' first | assumption | intro _ | apply draw | refine modSeq ?_ | apply ite | apply dite | apply foldl | refine snd ‹_› ?_ | split | refine upd ?_

theorem xWrite {s : State} {s' : State} {m : Micro} {r : Option Dword} (h : Kept key fac q s') :
    Kept key fac q (State.xWrite s s' m r) := by
  unfold State.xWrite
  with_reducible repeat' first | assumption | intro _ | apply xFlags | apply setG | apply ite | split

theorem commitBranch {s : State} {b : Branch} (h : Kept key fac q s) :
    Kept key fac q (State.commitBranch s b) := by
  unfold State.commitBranch
  with_reducible repeat' first | assumption | intro _ | refine modSeq ?_ | apply setPc | apply ite | apply dite | apply foldl | refine snd ‹_› ?_ | split | refine upd ?_

theorem passOn {s : State} (h : Kept key fac q s) :
    Kept key fac q (State.passOn s) := by
  unfold State.passOn
  with_reducible repeat' first | assumption | intro _ | refine modSeq ?_ | apply setPc | apply ite | apply dite | apply foldl | refine snd ‹_› ?_ | split | refine upd ?_

theorem eret {s : State} (h : Kept key fac q s) :
    Kept key fac q (State.eret s) := by
  unfold State.eret
  with_reducible repeat' first | assumption | intro _ | refine modSeq ?_ | apply put | apply setMode | apply setPc | apply ite | apply dite | apply foldl | split | refine upd ?_

theorem ctlRun {s : State} {m : Micro} {taken : Bool} (h : Kept key fac q s) :
    Kept key fac q (State.ctlRun s m taken) := by
  unfold State.ctlRun
  with_reducible repeat' first | assumption | intro _ | refine modSeq ?_ | apply setPc | apply poisonUsed | apply eret | apply haltNow | apply passOn | apply ite | apply dite | apply foldl | refine snd ‹_› ?_ | split | refine upd ?_

theorem complete {s : State} {m : Micro} {taken : Bool} (h : Kept key fac q s) :
    Kept key fac q (State.complete s m taken) := by
  unfold State.complete
  with_reducible repeat' first | assumption | intro _ | refine modSeq ?_ | apply commitBranch | apply ctlRun | apply setMode | apply ite | apply dite | apply foldl | refine snd ‹_› ?_ | split | refine upd ?_

theorem branchHeld {s : State} {after : State} {m : Micro} (h : Kept key fac q s) :
    Kept key fac q (State.branchHeld s after m) := by
  unfold State.branchHeld
  with_reducible repeat' first | assumption | intro _ | refine modSeq ?_ | apply setPc | apply poisonUsed | apply ite

theorem poisonSeen {s : State} {m : Micro} {k : Nat} {a : Option Nat} (h : Kept key fac q s) :
    Kept key fac q (State.poisonSeen s m k a) := by
  unfold State.poisonSeen
  with_reducible repeat' first | assumption | intro _ | apply consumeSram | apply loadPoison | apply ite | apply dite | apply foldl | refine snd ‹_› ?_ | split | refine upd ?_

theorem instrOn {io : RegIO} {base s : State} (hr : ∀ s a, Kept key fac q s → Kept key fac q (io.read s a).2) (hw : ∀ s a v, Kept key fac q s → Kept key fac q (io.write s a v).2) (h : Kept key fac q base) (hs : Kept key fac q s) :
    Kept key fac q (State.instrOn io base s) := by
  unfold State.instrOn
  extract_lets
  split
  · exact h.raise
  · refine ite h.raise ?_
    extract_lets
    split
    rename_i e
    have hx := snd e (hs.xRun hr hw)
    extract_lets after
    have ha : Kept key fac q after := by
      simp only [after]
      split
      · exact hx.xWrite
      · exact hs
    clear_value after
    split
    · exact h.raise
    · split
      · exact (ite h.poisonSeen hx).raise
      · exact ite hs.branchHeld (ha.complete.bump64 _ _)

theorem seqInstr {io : RegIO} {s : State} (hr : ∀ s a, Kept key fac q s → Kept key fac q (io.read s a).2) (hw : ∀ s a v, Kept key fac q s → Kept key fac q (io.write s a v).2) (h : Kept key fac q s) :
    Kept key fac q (State.seqInstr io s) := by
  unfold State.seqInstr
  split
  · exact instrOn hr hw h h
  · extract_lets m
    split
    · rename_i e; exact ((snd e (h.xRun hr hw)).modSeq.setPc).raise
    · rename_i e; exact instrOn hr hw h (snd e (h.xRun hr hw)).xWrite

theorem seqRow {io : RegIO} {s : State} {sel : Micro → Bool} (hr : ∀ s a, Kept key fac q s → Kept key fac q (io.read s a).2) (hw : ∀ s a v, Kept key fac q s → Kept key fac q (io.write s a v).2) (h : Kept key fac q s) :
    Kept key fac q (State.seqRow io s sel) := by
  unfold State.seqRow
  with_reducible repeat' first | assumption | intro _ | apply hr | apply hw | apply haltNow | apply seqInstr | apply takeWdog | apply ite | apply dite | apply foldl | refine snd ‹_› ?_ | split | refine upd ?_

theorem takeEvent {s : State} {n : Nat} (h : Kept key fac q s) :
    Kept key fac q (State.takeEvent s n) := by
  unfold State.takeEvent
  with_reducible repeat' first | assumption | intro _ | refine modSeq ?_ | apply wr | apply evClear | apply ite | apply dite | apply foldl | refine snd ‹_› ?_ | split | refine upd ?_

theorem haltDue {s : State} (h : Kept key fac q s) :
    Kept key fac q (State.haltDue s) := by
  unfold State.haltDue
  with_reducible repeat' first | assumption | intro _ | apply haltNow | apply ite | apply dite | apply foldl | split | refine upd ?_

theorem seqHaltWrite {s : State} {halt : Bool} (h : Kept key fac q s) :
    Kept key fac q (State.seqHaltWrite s halt) := by
  unfold State.seqHaltWrite
  with_reducible repeat' first | assumption | intro _ | apply put | apply haltDue | apply takeWdog | apply ite | apply dite | apply foldl | split | refine upd ?_

theorem seqStepWrite {io : RegIO} {s : State} (hr : ∀ s a, Kept key fac q s → Kept key fac q (io.read s a).2) (hw : ∀ s a v, Kept key fac q s → Kept key fac q (io.write s a v).2) (h : Kept key fac q s) :
    Kept key fac q (State.seqStepWrite io s) := by
  unfold State.seqStepWrite
  with_reducible repeat' first | assumption | intro _ | apply hr | apply hw | apply put | apply seqInstr | apply ite | apply dite | apply foldl | split | refine upd ?_

theorem evtForce {s : State} {n : Nat} (h : Kept key fac q s) :
    Kept key fac q (State.evtForce s n) := by
  unfold State.evtForce
  with_reducible repeat' first | assumption | intro _ | apply event | apply ite | apply dite | apply foldl | split | refine upd ?_

theorem modAxl {s : State} {f : Axl → Axl} (h : Kept key fac q s)
    (e : ∀ x, (f x).factory = x.factory := by exact fun _ => rfl) : Kept key fac q (State.modAxl s f) := by
  have e' := e s.axl
  unfold State.modAxl
  exact h.of_view (by simp only [view]; simp only [e'])

theorem decMapOut {s : State} {l : DecLane} (h : Kept key fac q s) :
    Kept key fac q (State.decMapOut s l) := by
  unfold State.decMapOut
  with_reducible repeat' first | assumption | intro _ | apply laneOut | apply modLane | apply ite | apply dite | apply foldl | split | refine upd ?_

theorem axlEffect {s : State} {r : AxlReq} {spare : Nat} (h : Kept key fac q s) :
    Kept key fac q (State.axlEffect s r spare) := by
  unfold State.axlEffect
  with_reducible repeat' first | assumption | intro _ | apply decMapOut | apply swapStart | apply modAdc | apply modMem | refine modFlc ?_ | apply ite | apply dite | apply foldl | refine snd ‹_› ?_ | split | refine upd ?_

theorem axlNone {s : State} {r : AxlReq} (h : Kept key fac q s) :
    Kept key fac q (State.axlNone s r) := by
  unfold State.axlNone
  with_reducible repeat' first | assumption | intro _ | apply decMapOut | apply portFail | apply taskError | apply flcNoSpare | apply ite | apply dite | apply foldl | refine snd ‹_› ?_ | split | refine upd ?_

theorem copyHeader {s : State} {c : Fin 2} {gen : Nat} (h : Kept key fac q s) :
    Kept key fac q (State.copyHeader s c gen) := by
  unfold State.copyHeader
  with_reducible repeat' first | assumption | intro _ | apply engineProgram | apply ite | apply dite | apply foldl | split | refine upd ?_

theorem putEntry {s : State} {c : Fin 2} {i : Nat} {e : Dword} (h : Kept key fac q s) :
    Kept key fac q (State.putEntry s c i e) := by
  unfold State.putEntry
  with_reducible repeat' first | assumption | intro _ | apply engineProgram | apply ite | apply dite | apply foldl | split | refine upd ?_

theorem copyErase {s : State} {c : Fin 2} (h : Kept key fac q s) :
    Kept key fac q (State.copyErase s c) := by
  unfold State.copyErase
  with_reducible repeat' first | assumption | intro _ | apply engineErase | apply ite | apply dite | apply foldl | split | refine upd ?_

theorem copyMigrate {s : State} {c : Fin 2} {gen : Nat} {old : Option (Fin 2)} (h : Kept key fac q s) :
    Kept key fac q (State.copyMigrate s c gen old) := by
  unfold State.copyMigrate
  with_reducible repeat' first | assumption | intro _ | apply copyErase | apply copyHeader | apply putEntry | refine modAxl ?_ | apply ite | apply dite | apply foldl | refine snd ‹_› ?_ | split | refine upd ?_

theorem addRepair {s : State} {e : Dword} (h : Kept key fac q s) :
    Kept key fac q (State.addRepair s e) := by
  unfold State.addRepair
  with_reducible repeat' first | assumption | intro _ | apply copyMigrate | apply engineProgram | apply putEntry | refine modAxl ?_ | apply bump | apply ite | apply dite | apply foldl | refine snd ‹_› ?_ | split | refine upd ?_

theorem axlLog {s : State} {e : Dword} (h : Kept key fac q s) :
    Kept key fac q (State.axlLog s e) := by
  unfold State.axlLog
  with_reducible repeat' first | assumption | intro _ | apply clock | refine modAxl ?_ | apply setReg | apply ite | apply dite | apply foldl | split | refine upd ?_

theorem axlTake {s : State} {r : AxlReq} (h : Kept key fac q s) :
    Kept key fac q (State.axlTake s r) := by
  unfold State.axlTake
  with_reducible repeat' first | assumption | intro _ | apply setPair | apply wr | apply ite | apply dite | apply foldl | split | refine upd ?_

theorem axlDeny {s : State} {r : AxlReq} (h : Kept key fac q s) :
    Kept key fac q (State.axlDeny s r) := by
  unfold State.axlDeny
  with_reducible repeat' first | assumption | intro _ | apply bump | apply axlLog | apply attention | apply put | apply event | apply axlNone | apply ite | apply dite | apply foldl | split | refine upd ?_

theorem applyEntry {s : State} {e : Dword} (h : Kept key fac q s) :
    Kept key fac q (State.applyEntry s e) := by
  unfold State.applyEntry
  with_reducible repeat' first | assumption | intro _ | apply setReg | apply swapLaneNow | apply mapLanes | apply put | apply wr | apply modMem | apply ite | apply dite | apply foldl | refine snd ‹_› ?_ | split | refine upd ?_

theorem copyGen {s : State} {c : Fin 2} (h : Kept key fac q s) :
    Kept key fac q (State.copyGen s c).2 := by
  unfold State.copyGen
  with_reducible repeat' first | assumption | intro _ | apply flashWords | apply ite | apply dite | apply foldl | refine snd ‹_› ?_ | split | refine upd ?_

theorem copyEntries {c : Fin 2} {x1 : Nat} {x2 : Nat} {x3 : State} (hx3 : Kept key fac q x3) :
    Kept key fac q (State.copyEntries c x1 x2 x3).2 := by
  induction x1 generalizing c x2 x3 with
  | zero =>
    unfold State.copyEntries
    with_reducible repeat' first | assumption | intro _ | apply read3 | apply ite | apply dite | apply foldl | refine snd ‹_› ?_ | refine snd2 ‹_› ?_ | split | refine upd ?_
  | succ _ ih =>
    unfold State.copyEntries
    with_reducible repeat' first | assumption | intro _ | apply ih | apply read3 | apply ite | apply dite | apply foldl | refine snd ‹_› ?_ | refine snd2 ‹_› ?_ | split | refine upd ?_

theorem axlRead {s : State} {ok : Bool} (h : Kept key fac q s) :
    Kept key fac q (State.axlRead s ok) := by
  unfold State.axlRead
  with_reducible repeat' first | assumption | intro _ | apply copyGen | apply copyEntries | refine modAxl ?_ | apply put | apply ite | apply dite | apply foldl | refine snd ‹_› ?_ | split | refine upd ?_

theorem axlApply {s : State} (h : Kept key fac q s) :
    Kept key fac q (State.axlApply s) := by
  unfold State.axlApply
  with_reducible repeat' first | assumption | intro _ | apply applyEntry | apply ite | apply dite | apply foldl | split | refine upd ?_

theorem freshen {s : State} (h : Kept key fac q s) :
    Kept key fac q (State.freshen s) := by
  have h0 := h.flcLost
  unfold State.freshen
  extract_lets s1 c fails lockout side cph flc hlk pwr t t2
  have h1 : Kept key fac q s1 := h0
  have h2 : Kept key fac q t := by
    refine ⟨⟨?_, ?_, ?_, ?_, ?_, ?_, ?_, ?_, ?_⟩, fun k hk => ⟨?_, ?_⟩, ?_, ?_⟩
    · exact Sparse.wf_filter _ _ _ h1.canon.regs
    · rfl
    · rfl
    · rfl
    · rfl
    · rfl
    · rfl
    · exact h1.canon.flash
    · exact h1.canon.progs
    · exact (h1.fused k hk).key
    · exact nofun
    · exact h1.fac
    · exact h1.queue
  exact (((h2.wr _ _).put _ _).wr _ _).storeStat

theorem moduleReset {s : State} {cause : RegField} {cnt : Nat} (h : Kept key fac q s) :
    Kept key fac q (State.moduleReset s cause cnt) := by
  unfold State.moduleReset
  with_reducible repeat' first | assumption | intro _ | apply freshen | apply put | apply bump | apply ite | apply dite | apply foldl | split | refine upd ?_

theorem softNow {s : State} (h : Kept key fac q s) :
    Kept key fac q (State.softNow s) := by
  unfold State.softNow
  with_reducible repeat' first | assumption | intro _ | apply moduleReset | apply ite | apply dite | apply foldl | split | refine upd ?_

theorem stepTime {s : State} {x : StartIn} {k : Nat} (h : Kept key fac q s) :
    Kept key fac q (State.stepTime s x k) := by
  unfold State.stepTime
  with_reducible repeat' first | assumption | intro _ | apply setReg | apply ite | apply dite | apply foldl | split | refine upd ?_

theorem bkpCold {s : State} (h : Kept key fac q s) :
    Kept key fac q (State.bkpCold s) := by
  unfold State.bkpCold
  have h1 : Kept key fac q { s with
      regs := s.regs.filter (fun p => !(decide (0x18000 ≤ p.1) && decide (p.1 < 0x18080)))
      cph := { s.cph with kek := none, cak := none, loops := 0, excHi := false, excLo := false } } :=
    ⟨{ h.canon with regs := Sparse.wf_filter _ _ _ h.canon.regs }, fun k hk => ⟨(h.fused k hk).key, (h.fused k hk).idle⟩, h.fac, h.queue⟩
  exact ((((h1.wr _ _).put _ _).storeStat).put _ _).bkpLog

theorem powerUp {s : State} {x : StartIn} (h : Kept key fac q s) :
    Kept key fac q (State.powerUp s x) := by
  unfold State.powerUp
  with_reducible repeat' first | assumption | intro _ | apply bkpCold | apply forEach | apply put | apply event | apply axlRead | apply stepTime | apply ite | apply dite | apply foldl | split | refine upd ?_

theorem startRelease {s : State} {x : StartIn} (h : Kept key fac q s) :
    Kept key fac q (State.startRelease s x) := by
  unfold State.startRelease
  with_reducible repeat' first | assumption | intro _ | apply powerUp | apply axlApply | apply put | apply tick | apply setPair | apply stepTime | apply wr | apply ite | apply dite | apply foldl | split | refine upd ?_

theorem bist {s : State} {x : StartIn} (h : Kept key fac q s) :
    Kept key fac q (State.bist s x) := by
  unfold State.bist
  with_reducible repeat' first | assumption | intro _ | apply setReg | apply bumpBy | apply forEach | apply axlAsk | apply put | apply ite | apply dite | apply foldl | split | refine upd ?_

theorem enableBlocks {s : State} (h : Kept key fac q s) :
    Kept key fac q (State.enableBlocks s) := by
  unfold State.enableBlocks
  with_reducible repeat' first | assumption | intro _ | apply put | apply ite | apply dite | apply foldl | split | refine upd ?_

theorem enablePorts {s : State} (h : Kept key fac q s) :
    Kept key fac q (State.enablePorts s) := by
  unfold State.enablePorts
  with_reducible repeat' first | assumption | intro _ | apply put | apply ite | apply dite | apply foldl | split | refine upd ?_

theorem libraryKey {s : State} (h : Kept key fac q s) :
    Kept key fac q (State.libraryKey s) := by
  unfold State.libraryKey
  with_reducible repeat' first | assumption | intro _ | apply flashWords | apply forEach | apply setReg | apply loadStart | apply cphFinish | apply ite | apply dite | apply foldl | refine snd ‹_› ?_ | split | refine upd ?_

theorem startEnd {s : State} (h : Kept key fac q s) :
    Kept key fac q (State.startEnd s) := by
  unfold State.startEnd
  with_reducible repeat' first | assumption | intro _ | apply setMode | apply put | apply wr | apply attention | apply ite | apply dite | apply foldl | split | refine upd ?_

end Sys2Proof.Machine.Kept
end

