-- ==== Sys2Proof/Laws/KeptBus.lean ====
section
/-! SUPPORT. What register accesses, requests, the configuration image and the instructions of SEQ keep. -/

set_option linter.unusedTactic false
set_option linter.unreachableTactic false

namespace Sys2Proof.Machine.Kept

set_option Elab.async false

variable {key : Option (List Byte)} {fac : List Dword} {q : List Instr}

theorem phaseCurrent {s : State} {p : Nat} (h : Kept key fac q s) :
    Kept key fac q (State.phaseCurrent s p).2 := by
  unfold State.phaseCurrent
  with_reducible repeat' first | assumption | intro _ | apply draw | apply ite | apply dite | apply foldl | refine snd ‹_› ?_ | split | refine upd ?_

theorem look {s : State} {a : Nat} (h : Kept key fac q s) :
    Kept key fac q (State.look s a).2 := by
  unfold State.look
  extract_lets s1 m
  have h1 : Kept key fac q s1 := ite h.clock (ite h.tick h)
  clear_value s1
  split
  · exact h1.phaseCurrent
  · split
    · exact h1
    · exact h1.draw

theorem plainWrite {s : State} {m : Master} {r : RegRow} {a : Nat} {v : Word} (h : Kept key fac q s) :
    Kept key fac q (State.plainWrite s m r a v).2 := by
  unfold State.plainWrite
  extract_lets w
  split
  · exact h
  · split
    · exact h.put _ _
    · exact h
    · exact h.setReg _ _

theorem drainBegin {s : State} {ccpl : Option (Port × Flit)} (h : Kept key fac q s) :
    Kept key fac q (State.drainBegin s ccpl) := by
  unfold State.drainBegin
  with_reducible repeat' first | assumption | intro _ | apply flushAll | apply ite | apply dite | apply foldl | split | refine upd ?_

theorem csDataWrite {s : State} {k : Nat} {v : Word} (h : Kept key fac q s) :
    Kept key fac q (State.csDataWrite s k v) := by
  unfold State.csDataWrite
  refine ite ?_ h
  unfold State.modSeq
  refine ofSeq h ?_ ?_
  · exact h.canon.sram
  · exact Sparse.wf_set (fun _ => BitVec.allOnes 128) _ _ _ h.canon.cs

theorem txWinWrite {s : State} {k : Nat} {v : Word} (h : Kept key fac q s) :
    Kept key fac q (State.txWinWrite s k v) := by
  unfold State.txWinWrite
  have hw := Sparse.wf_foldl_set (0 : Byte) (fun i => 64 * s.rd F.LBS_TX_WIN_SEL_PART + 4 * k + i)
    (fun i => (beBytes 4 v.toNat).getD i 0) (List.range 4) s.lbs.win h.canon.win
  exact ⟨{ h.canon with win := hw }, h.fusedOf rfl, h.fac, h.queue⟩

theorem cmdLow {s : State} {m : Master} {p : Port} {a : Nat} {v : Word} (h : Kept key fac q s) :
    KeptOpt key fac q (State.cmdLow s m p a v) := by
  unfold Sys2Proof.Machine.State.cmdLow
  with_reducible repeat' first | assumption | apply KeptOpt.orElse | apply KeptOpt.onReg | apply KeptOpt.onArr | apply KeptOpt.onSlot | apply KeptOpt.guard | intro _ | apply dload | apply put | apply setReg | apply bkpLogClr | apply arbWrite | apply tskCmdWrite | apply seqHaltWrite | apply csDataWrite | apply evtForce | apply lsvCmdWrite | apply ite | apply dite | apply foldl | refine snd ‹_› ?_ | split | refine upd ?_

theorem cmdMid {s : State} {m : Master} {a : Nat} {v : Word} (h : Kept key fac q s) :
    KeptOpt key fac q (State.cmdMid s m a v) := by
  unfold Sys2Proof.Machine.State.cmdMid
  with_reducible repeat' first | assumption | apply KeptOpt.orElse | apply KeptOpt.onReg | apply KeptOpt.onArr | apply KeptOpt.onSlot | apply KeptOpt.guard | intro _ | apply cchOp | apply regionSet | apply ilvWrite | apply pgtoWrite | apply delayWrite | apply trnCtrlWrite | apply fillStart | apply skinkCfgWrite | apply draw | apply flcCmdWrite | apply mcCmd | apply lockWrite | apply cphCommand | apply sessionClose | apply sessionResponse | apply ite | apply dite | apply foldl | refine snd ‹_› ?_ | split | refine upd ?_

theorem evtCmd {s : State} {v : Word} (h : Kept key fac q s) :
    Kept key fac q (State.evtCmd s v) := by
  unfold State.evtCmd
  with_reducible repeat' first | assumption | intro _ | apply evtArm | apply evtDisarm | apply evtDisarmAll | apply ite | apply dite | apply foldl | refine snd ‹_› ?_ | split | refine upd ?_

theorem lddCtrlWrite {s : State} {m : Master} {r : RegRow} {c : Chan} {v : Word} (h : Kept key fac q s) :
    Kept key fac q (State.lddCtrlWrite s m r c v) := by
  unfold State.lddCtrlWrite
  with_reducible repeat' first | assumption | intro _ | apply plainWrite | apply setRlvl | apply gateEarly | apply ite | apply dite | apply foldl | refine snd ‹_› ?_ | split | refine upd ?_

theorem cmdDisc {s : State} {m : Master} {r : RegRow} {a : Nat} {v : Word} (h : Kept key fac q s) :
    KeptOpt key fac q (State.cmdDisc s m r a v) := by
  unfold Sys2Proof.Machine.State.cmdDisc
  with_reducible repeat' first | assumption | apply KeptOpt.orElse | apply KeptOpt.onReg | apply KeptOpt.onArr | apply KeptOpt.onSlot | apply KeptOpt.guard | intro _ | apply angCtrlWrite | apply sprWrite | apply evtCmd | apply sliceWrite | apply pllCtrlWrite | apply skewWrite | apply inCtrlWrite | apply wr | apply runAbort | apply lddStatWrite | apply lddCtrlWrite | apply ite | apply dite | apply foldl | split | refine upd ?_

theorem lanesWrite {s : State} {v : Word} (h : Kept key fac q s) :
    Kept key fac q (State.lanesWrite s v) := by
  unfold State.lanesWrite
  with_reducible repeat' first | assumption | intro _ | apply wr | apply forEach | apply put | apply ite | apply dite | apply foldl | split | refine upd ?_

theorem memWrite {s : State} {m : Master} {r : RegRow} {a : Nat} {v : Word} (h : Kept key fac q s) :
    Kept key fac q (State.memWrite s m r a v) := by
  unfold State.memWrite
  with_reducible repeat' first | assumption | intro _ | apply plainWrite | apply ite | apply dite | apply foldl | refine snd ‹_› ?_ | split | refine upd ?_

theorem spnCmdWrite {s : State} {v : Word} (h : Kept key fac q s) :
    Kept key fac q (State.spnCmdWrite s v) := by
  unfold State.spnCmdWrite
  split
  · exact h
  · exact h.spnCommand fun _ h => h.spinRun
  · exact h.spnCommand fun _ h => h.stopRun
  · exact h.spnCommand fun _ h => h.brakeRun
  · exact h.spnCommand fun _ h => h.coastRun
  · exact h.spnCommand fun _ h => h.parkRun
  · exact h.spnCommand fun _ h => h.rotateRun
  · exact h.spnCommand fun _ h => h

theorem sldCmdWrite {s : State} {n : Stepper} {v : Word} (h : Kept key fac q s) :
    Kept key fac q (State.sldCmdWrite s n v) := by
  unfold State.sldCmdWrite
  with_reducible repeat' first | assumption | intro _ | apply draw | apply sldStopRun | apply sldCommand | apply ite | apply dite | apply foldl | refine snd ‹_› ?_ | split | refine upd ?_

theorem pmcSelWrite {s : State} {m : Master} {r : RegRow} {k : Nat} {v : Word} (h : Kept key fac q s) :
    Kept key fac q (State.pmcSelWrite s m r k v) := by
  unfold State.pmcSelWrite
  with_reducible repeat' first | assumption | intro _ | apply plainWrite | apply draw | apply setReg | apply ite | apply dite | apply foldl | refine snd ‹_› ?_ | split | refine upd ?_

theorem cmdHigh {s : State} {m : Master} {r : RegRow} {a : Nat} {v : Word} (h : Kept key fac q s) :
    KeptOpt key fac q (State.cmdHigh s m r a v) := by
  unfold Sys2Proof.Machine.State.cmdHigh
  with_reducible repeat' first | assumption | apply KeptOpt.orElse | apply KeptOpt.onReg | apply KeptOpt.onArr | apply KeptOpt.onSlot | apply KeptOpt.guard | intro _ | apply put | apply orderPreset | apply pmcSelWrite | apply lanesWrite | apply memWrite | apply spnStatWrite | apply spnCmdWrite | apply plainWrite | apply sldCmdWrite | apply sldPosWrite | apply rxVerdict | apply lbsSendCmd | apply txWinWrite | apply ite | apply dite | apply foldl | refine snd ‹_› ?_ | split | refine upd ?_

theorem command {s : State} {m : Master} {p : Port} {r : RegRow} {a : Nat} {v : Word} (h : Kept key fac q s) :
    KeptOpt key fac q (State.command s m p r a v) := by
  unfold Sys2Proof.Machine.State.command
  with_reducible repeat' first | assumption | apply KeptOpt.orElse | apply KeptOpt.onReg | apply KeptOpt.onArr | apply KeptOpt.onSlot | apply KeptOpt.guard | intro _ | apply cmdLow | apply cmdMid | apply cmdDisc | apply cmdHigh | apply ite | apply dite | apply foldl | split | refine upd ?_

theorem regWrite {s : State} {m : Master} {p : Port} {a : Nat} {v : Word} (h : Kept key fac q s) :
    Kept key fac q (State.regWrite s m p a v).2 := by
  unfold State.regWrite
  split
  · exact h
  · split
    · rename_i e
      exact h.command _ e
    · split
      rename_i e
      exact ite (snd e h.plainWrite).drainBegin (snd e h.plainWrite)

theorem readRC {s : State} {a : Nat} (h : Kept key fac q s) :
    Kept key fac q (State.readRC s a).2 := by
  unfold State.readRC
  split
  rename_i e
  exact (snd e h.look).setReg _ _

theorem readLo {s : State} {m : Master} {a : Nat} {clear : Bool} (h : Kept key fac q s) :
    Kept key fac q (State.readLo s m a clear).2 := by
  unfold State.readLo
  split
  rename_i e1
  split
  rename_i e2
  have h2 := snd e2 (snd e1 h.look).look
  exact ite ((h2.latchHi _ _ _).setPair _ _) (h2.latchHi _ _ _)

theorem regRead {s : State} {m : Master} {a : Nat} (h : Kept key fac q s) :
    Kept key fac q (State.regRead s m a).2 := by
  unfold State.regRead
  split
  · exact h
  · split
    rename_i e
    have h1 := snd e (by
      split
      · exact h
      · split
        · exact h.rdata
        · split
          · exact h.sessionChallenge
          · split
            · exact h.look
            · exact h.readRC
            · exact h.readRC
            · exact h.readLo
            · exact h.readLo
            · exact h)
    exact ite h1.touch h1

theorem busyMark {s : State} {m : Master} {a : Nat} (h : Kept key fac q s) :
    Kept key fac q (State.busyMark s m a) := by
  unfold State.busyMark
  with_reducible repeat' first | assumption | intro _ | apply bump | apply lockErr | apply flcBusyAnswer | apply ite | apply dite | apply foldl | split | refine upd ?_

theorem accessEvent {s : State} {cls : Nat} {m : Master} {a : Nat} (h : Kept key fac q s) :
    Kept key fac q (State.accessEvent s cls m a) := by
  unfold State.accessEvent
  with_reducible repeat' first | assumption | intro _ | apply pmcEvent | apply ite | apply dite | apply foldl | split | refine upd ?_

theorem refused {s : State} {m : Master} {a : Nat} {r : RegAns} (h : Kept key fac q s) :
    Kept key fac q (State.refused s m a r) := by
  unfold State.refused
  with_reducible repeat' first | assumption | intro _ | apply accessEvent | apply busyMark | apply ite | apply dite | apply foldl | split | refine upd ?_

theorem doWrite {s : State} {m : Master} {p : Port} {a : Nat} {v : Word} (h : Kept key fac q s) :
    Kept key fac q (State.doWrite s m p a v) := by
  unfold State.doWrite
  with_reducible repeat' first | assumption | intro _ | apply drain | apply regWrite | apply accessEvent | apply ite | apply dite | apply foldl | split | refine upd ?_

theorem consumeRead {s : State} {m : Master} {a : Nat} (h : Kept key fac q s) :
    Kept key fac q (State.consumeRead s m a) := by
  unfold State.consumeRead
  with_reducible repeat' first | assumption | intro _ | apply consumeSram | apply consumePoison | apply ite | apply dite | apply foldl | split | refine upd ?_

theorem doRead {s : State} {m : Master} {a : Nat} (h : Kept key fac q s) :
    Kept key fac q (State.doRead s m a).2 := by
  unfold State.doRead
  with_reducible repeat' first | assumption | intro _ | apply regRead | apply consumeRead | apply poisonEnd | apply accessEvent | apply ite | apply dite | apply foldl | refine snd ‹_› ?_ | split | refine upd ?_

theorem access {s : State} {m : Master} {write : Bool} {a : Nat} {v : Word} (h : Kept key fac q s) :
    Kept key fac q (State.access s m write a v).2 := by
  unfold State.access
  with_reducible repeat' first | assumption | intro _ | apply refused | apply doWrite | apply doRead | apply ite | apply dite | apply foldl | refine snd ‹_› ?_ | split | refine upd ?_

theorem seqRead {s : State} {a : Nat} (h : Kept key fac q s) :
    Kept key fac q (State.seqRead s a).2 := by
  unfold State.seqRead
  extract_lets bad
  have ha : Kept key fac q (s.access .seq false a 0).2 := h.access
  clear_value bad
  generalize s.access .seq false a 0 = r at ha
  split
  · split
    · exact ha.consumeRead
    · exact ha
  · exact ha

theorem ioRead (s : State) (a : Nat) (h : Kept key fac q s) : Kept key fac q (seqIO.read s a).2 :=
  h.seqRead

theorem ioWrite (s : State) (a : Nat) (v : Word) (h : Kept key fac q s) : Kept key fac q (seqIO.write s a v).2 :=
  h.access (m := .seq) (write := true) (a := a) (v := v)

theorem busAccess {s : State} {m : Master} {write : Bool} {a : Nat} {v : Word} (h : Kept key fac q s) :
    Kept key fac q (State.busAccess s m write a v).2 := by
  unfold State.busAccess
  split
  · rename_i e
    exact ite ((snd e h.access).seqStepWrite ioRead ioWrite) (snd e h.access)
  · exact h.access

theorem runReads {s : State} {m : Master} {x2 : List (Nat × Word)} (h : Kept key fac q s) :
    Kept key fac q (State.runReads s m x2).2 := by
  induction x2 generalizing s with
  | nil => exact h
  | cons b r ih =>
    unfold State.runReads
    split
    rename_i e1
    split
    rename_i e2
    exact snd e2 (ih (snd e1 h.doRead))

theorem runWrites {s : State} {m : Master} {p : Port} {ws : List (Nat × Word)} (h : Kept key fac q s) :
    Kept key fac q (State.runWrites s m p ws) := by
  unfold State.runWrites
  refine foldl (fun s w h => ?_) _ h
  exact ite (h.regWrite.accessEvent.seqStepWrite ioRead ioWrite) h.regWrite.accessEvent

theorem creqRun {s : State} {p : Port} {hdr : Dword} {payload : List Byte} (h : Kept key fac q s) :
    Kept key fac q (State.creqRun s p hdr payload) := by
  unfold State.creqRun
  extract_lets
  split
  · exact h.refused.sendFlit
  · split
    · have h1 := h.runWrites (m := creqMaster payload) (p := p) (ws := (creqOf payload).run payload)
      exact ite (upd h1) h1.sendFlit
    · split
      rename_i e
      exact (snd e h.runReads).sendFlit

theorem runWaiting {x0 : Nat} {x1 : State} (hx1 : Kept key fac q x1) :
    Kept key fac q (State.runWaiting x0 x1) := by
  induction x0 generalizing x1 with
  | zero => exact hx1
  | succ _ ih =>
    unfold State.runWaiting
    split
    · refine ih ?_
      split
      · exact (regWrite (upd hx1)).accessEvent
      · exact creqRun (upd hx1)
    · exact hx1

theorem drainEnd {x0 : Nat} {x1 : State} (hx1 : Kept key fac q x1) :
    Kept key fac q (State.drainEnd x0 x1) := by
  induction x0 generalizing x1 with
  | zero =>
    unfold State.drainEnd
    with_reducible repeat' first | assumption | intro _ | apply drain | apply sendFlit | apply runWaiting | apply ite | apply dite | apply foldl | refine snd ‹_› ?_ | split | refine upd ?_
  | succ _ ih =>
    unfold State.drainEnd
    with_reducible repeat' first | assumption | intro _ | apply ih | apply drain | apply sendFlit | apply runWaiting | apply ite | apply dite | apply foldl | refine snd ‹_› ?_ | split | refine upd ?_

theorem drainNow {s : State} (h : Kept key fac q s) :
    Kept key fac q (State.drainNow s) := by
  unfold State.drainNow
  with_reducible repeat' first | assumption | intro _ | apply drainEnd | apply ite | apply dite | apply foldl | split | refine upd ?_

theorem settled {s : State} (h : Kept key fac q s) :
    Kept key fac q (State.settled s) := by
  unfold State.settled
  with_reducible repeat' first | assumption | intro _ | apply drainNow | apply softNow | apply ite | apply dite | apply foldl | split | refine upd ?_

theorem imageReject {s : State} {a : Nat} (h : Kept key fac q s) :
    Kept key fac q (State.imageReject s a) := by
  unfold State.imageReject
  with_reducible repeat' first | assumption | intro _ | apply setReg | apply bump | apply ite | apply dite | apply foldl | split | refine upd ?_

theorem imageWrite {s : State} {a : Nat} {v : Word} (h : Kept key fac q s) :
    Kept key fac q (State.imageWrite s a v) := by
  unfold State.imageWrite
  extract_lets n
  refine ite h.imageReject (ite h.imageReject ?_)
  split
  rename_i e
  exact ite (snd e h.regWrite).accessEvent.drainNow (snd e h.regWrite).imageReject

theorem applyRecord {s : State} {r : CfgRec} (h : Kept key fac q s) :
    Kept key fac q (State.applyRecord s r) := by
  unfold State.applyRecord
  extract_lets n s1
  have h1 : Kept key fac q s1 := h.bump _
  clear_value s1
  refine ite h (ite (h.bump _) (ite ?_ (ite ?_ (ite ?_ (ite ?_ (ite ?_ (ite ?_ ?_)))))))
  · exact forEach (fun _ _ h => h.setReg _ _) h1
  · refine forEach (fun k s h => ?_) h1
    extract_lets a
    split
    · split
      rename_i e
      exact ite (snd e h.plainWrite) (snd e h.plainWrite).imageReject
    · exact h
  · refine forEach (fun k s h => ?_) h1
    unfold State.modSeq
    refine ofSeq h ?_ ?_
    · exact h.canon.sram
    · exact Sparse.wf_set (fun _ => BitVec.allOnes 128) _ _ _ h.canon.cs
  · exact (forEach (fun _ _ h => h.clearSram) h1).modSeq
  · exact (h1.setReg _ _).setReg _ _
  · exact forEach (fun _ _ h => h.imageWrite) h1
  · exact forEach (fun _ _ h => h.imageWrite) h1

theorem dispatchRest {s : State} (h : Kept key fac q s) :
    Kept key fac q (State.dispatchRest s) := by
  unfold State.dispatchRest
  with_reducible repeat' first | assumption | intro _ | refine modSeq ?_ | apply ite | apply dite | apply foldl | split | refine upd ?_

theorem imageEnd {s : State} {img : List Byte} (h : Kept key fac q s) :
    Kept key fac q (State.imageEnd s img) := by
  unfold State.imageEnd
  with_reducible repeat' first | assumption | intro _ | apply dispatchRest | apply forEach | apply commitGroup | apply setRegBytes | apply put | apply setReg | apply wr | apply ite | apply dite | apply foldl | split | refine upd ?_

theorem pass2Run {s : State} {img : List Byte} (h : Kept key fac q s) :
    Kept key fac q (State.pass2Run s img) := by
  unfold State.pass2Run
  split
  · exact h.lockGive.cfgFault
  · have h2 : ∀ rs, Kept key fac q (List.foldl State.applyRecord s rs) := fun rs => foldl (fun _ _ h => h.applyRecord) rs h
    exact ite (h2 _).lockGive.imageEnd (h2 _).lockGive.cfgFault

theorem pass2 {s : State} (h : Kept key fac q s) :
    Kept key fac q (State.pass2 s) := by
  unfold State.pass2
  with_reducible repeat' first | assumption | intro _ | apply wr | apply lockTake | apply readImage | apply pass2Run | apply ite | apply dite | apply foldl | split | refine upd ?_

theorem runCtl {s : State} {c : Nat} (h : Kept key fac q s) :
    Kept key fac q (State.runCtl s c) := by
  unfold State.runCtl
  exact (h.seqRow ioRead ioWrite).settled

theorem runXop {s : State} {x : Nat} (h : Kept key fac q s) :
    Kept key fac q (State.runXop s x) := by
  unfold State.runXop
  exact (h.seqRow ioRead ioWrite).settled

end Sys2Proof.Machine.Kept
end

