-- ==== Sys2Proof/Tests/Slice0.lean ====
section
/-! SUPPORT. Tests: commands that are not well formed, values the spec or a standard it cites gives, and, for each statement, states
and operands that meet its hypotheses. -/

open Sys2Proof Sys2Proof.Machine

namespace Sys2Proof.Tests

set_option maxRecDepth 20000
set_option Elab.async false

/-! ## Ill-formed commands -/

def sampleIn : SampleIn :=
  ⟨List.replicate 4 (List.replicate 2 (List.replicate 4 0)), 39, List.replicate 4 (List.replicate 13 false), [], 0, false, 0, 0, 0, [], false, 0⟩
def oneFit : LdFit := ⟨0, 0, 0⟩
def cwIn (n : Nat) : CwIn := ⟨[List.replicate n 0]⟩

theorem test_wf_accepts : (Instr.servoSample sampleIn).wf = true ∧ (Instr.frameMarkGood 0 (-2 ^ 15) (2 ^ 16 - 1)).wf = true ∧
    (Instr.dmaIssue true 0 32768 0).wf = true ∧ (Instr.defectRegion 0 300223 [0]).wf = true ∧
    (Instr.startUp ⟨false, true, true, false, 0, 0, List.replicate 14 0, 0, 0, []⟩).wf = true := by decide

theorem test_wf_front_end : (Instr.frameMarkGood 0 (-2 ^ 15 - 1) 0).wf = false ∧ (Instr.frameMarkGood 0 (2 ^ 15) 0).wf = false ∧
    (Instr.frameMarkGood 0 0 (2 ^ 16)).wf = false ∧ (Instr.frameZero 0 (2 ^ 16)).wf = false ∧
    (Instr.sliceShadowEnd 0 (2 ^ 14)).wf = false ∧ (Instr.agcStep 0 257).wf = false := by decide

theorem test_wf_sample : (Instr.servoSample { sampleIn with conv := [] }).wf = false ∧
    (Instr.servoSample { sampleIn with conv := List.replicate 4 [[0, 0, 0, 0]] }).wf = false ∧
    (Instr.servoSample { sampleIn with conv := List.replicate 4 [[0, 0, 0, 0], [0]] }).wf = false ∧
    (Instr.servoSample { sampleIn with conv := List.replicate 4 [[0, 0, 0, 0], [8192, 0, 0, 0]] }).wf = false ∧
    (Instr.servoSample { sampleIn with conv := List.replicate 4 [[0, 0, 0, -8193], [0, 0, 0, 0]] }).wf = false ∧
    (Instr.servoSample { sampleIn with stale := [] }).wf = false ∧ (Instr.servoSample { sampleIn with at40 := 40 }).wf = false := by decide

theorem test_wf_read : (Instr.syncDecision 0 [⟨0, 65⟩] 0).wf = false ∧ (Instr.headerDecision 0 []).wf = false ∧
    (Instr.captureEnd 0 ⟨[], 0, 0, 0, []⟩).wf = false ∧ (Instr.defectRegion 0 300223 [0, 0]).wf = false ∧ (Instr.decodeEnd 0 []).wf = false ∧
    (Instr.decodeEnd 0 (List.replicate 8 (cwIn 0))).wf = false := by decide

theorem test_wf_capture : (Instr.captureEnd 0 ⟨List.replicate 299520 32, 0, 0, 0, []⟩).wf = false ∧
    (Instr.captureEnd 0 ⟨List.replicate 299520 31, 0, 0, 0, [⟨0, 0, []⟩]⟩).wf = false := by
  constructor
  · have h : (List.replicate 299520 (32 : Int)).all (fun v => decide (v.natAbs ≤ 31)) = false := by
      rw [List.all_replicate]; decide
    simp only [Instr.wf, h, Bool.and_false, Bool.false_and]
  · have h : ([⟨0, 0, []⟩] : List LmsBit).all (fun b => decide (b.x.length = 15)) = false := by decide
    simp only [Instr.wf, h, Bool.and_false]

theorem test_wf_write : (Instr.verifyDecision 0 [] []).wf = false ∧ (Instr.recordEvent [⟨false, []⟩]).wf = false ∧
    (Instr.opc 0 []).wf = false ∧ (Instr.opc 0 (List.replicate 4 [])).wf = false ∧
    (Instr.opc 0 (List.replicate 4 (List.replicate 8 (some [])))).wf = false := by decide

theorem test_wf_chain : (Instr.breakFlit .A 0 []).wf = false ∧ (Instr.flitForward .A 0 []).wf = false ∧ (Instr.creq .A 0 []).wf = false ∧
    (Instr.enum .A 0 []).wf = false ∧ (Instr.mirrorRecord ⟨0, []⟩).wf = false ∧ (Instr.dmaIssue true 0 0 0).wf = false ∧
    (Instr.dmaIssue true 0 32769 0).wf = false := by decide

theorem test_wf_reports : (Instr.spnFault .ovc []).wf = false ∧ (Instr.loadDisc [⟨0, 704, []⟩]).wf = false ∧
    (Instr.readMgmt [⟨0, 704, []⟩]).wf = false ∧ (Instr.trainingDone 0 (.sweep (2 ^ 32) 0 0)).wf = false ∧
    (Instr.trainingDone 0 (.sweep 0 (2 ^ 32) 0)).wf = false ∧ (Instr.trainingDone 0 (.sweep 0 0 (2 ^ 32))).wf = false ∧
    (Instr.startUp ⟨false, true, true, false, 0, 0, [], 0, 0, []⟩).wf = false := by decide

theorem test_wf_calibration : (Instr.calibrateRef 0 [] 0).wf = false ∧ (Instr.calibrateInofs [] (List.replicate 52 0)).wf = false ∧
    (Instr.calibrateInofs (List.replicate 52 0) []).wf = false ∧ (Instr.calibrateShunt [] [0, 0, 0] [0, 0, 0]).wf = false ∧
    (Instr.calibrateShunt [0, 0, 0] [] [0, 0, 0]).wf = false ∧ (Instr.calibrateShunt [0, 0, 0] [0, 0, 0] []).wf = false ∧
    (Instr.calibrateLdcur [] (List.replicate 20 0)).wf = false ∧ (Instr.calibrateLdcur (List.replicate 20 0) []).wf = false ∧
    (Instr.calibrateLdpwr [oneFit]).wf = false ∧ (Instr.calibrateSkew [] (List.replicate 16 []) (List.replicate 16 (0, 0))).wf = false ∧
    (Instr.calibrateSkew (List.replicate 16 []) [] (List.replicate 16 (0, 0))).wf = false ∧
    (Instr.calibrateSkew (List.replicate 16 []) (List.replicate 16 []) []).wf = false ∧
    (Instr.calibrateHofs [] [0, 0, 0, 0]).wf = false ∧ (Instr.calibrateHofs [0, 0, 0, 0] []).wf = false ∧
    (Instr.calibrateSapos [] [0, 0, 0, 0]).wf = false ∧ (Instr.calibrateSapos (List.replicate 17 []) [0, 0, 0, 0]).wf = false ∧
    (Instr.calibrateSapos (List.replicate 17 [0, 0, 0, 0]) []).wf = false ∧ (Instr.calibrateEye [] (List.replicate 16 0)).wf = false ∧ (Instr.calibrateEye (List.replicate 16 [(0, 0)]) (List.replicate 16 0)).wf = false ∧
    (Instr.calibrateEye (List.replicate 16 []) []).wf = false ∧ (Instr.calibrateLoop []).wf = false := by decide

/-! ## Values the spec, or a standard it cites, gives -/

/-- FIPS 197, appendix C.3. -/
theorem test_aes256_encrypt : Aes.encrypt (List.range 32) ((List.range 16).map (17 * ·)) =
    [0x8E, 0xA2, 0xB7, 0xCA, 0x51, 0x67, 0x45, 0xBF, 0xEA, 0xFC, 0x49, 0x90, 0x4B, 0x49, 0x60, 0x89] := by decide +kernel

theorem test_aes256_decrypt : Aes.decrypt (List.range 32)
    [0x8E, 0xA2, 0xB7, 0xCA, 0x51, 0x67, 0x45, 0xBF, 0xEA, 0xFC, 0x49, 0x90, 0x4B, 0x49, 0x60, 0x89] = (List.range 16).map (17 * ·) := by
  decide +kernel

/-- SP 800-38B, AES-256, the empty message. -/
theorem test_cmac_empty : Aes.toNum (Aes.cmac (Aes.ofNum 32 0x603DEB1015CA71BE2B73AEF0857D77811F352C073B6108D72D9810A30914DFF4) []) =
    0x028962F61B7BF89EFC6B551F4667D983 := by decide +kernel

/-- RFC 3394, section 4.6. -/
theorem test_kw_unwrap : Aes.unwrap (List.range 32)
    (Aes.ofNum 40 0x28C9F404C4B810F4CBCCB35CFB87F8263F5786E2D80ED326CBC7F0E71A99F43BFB988B9B7A02DD21) =
    some ((List.range 16).map (17 * ·) ++ List.range 16) := by decide +kernel

/-- The check value of CRC-32 over the digits 1 to 9, as the catalogues of CRCs give it for the code of R51. -/
theorem test_crc32 : crc32 [0x31, 0x32, 0x33, 0x34, 0x35, 0x36, 0x37, 0x38, 0x39] = 0xCBF43926 := by decide +kernel

/-- The same for the CRC of R39. -/
theorem test_crc16 : crc16 0x313233343536373839 71 0 = 0x29B1 := by decide +kernel

/-- The table of R78. -/
theorem test_quadrature : quadStep 0 1 = some 1 ∧ quadStep 0 2 = some (-1) ∧ quadStep 0 3 = none ∧ quadStep 3 2 = some 1 ∧
    quadStep 2 0 = some 1 ∧ quadStep 1 2 = none ∧ quadStep 3 3 = some 0 := by decide

/-- R54, R545: a power-on reset leaves no more than State.reset has. -/
theorem test_reset_is_canonical : State.reset.Canonical := by constructor <;> decide +kernel

/-! ## States for the hypotheses -/

/-- The reset state with these registers. -/
def mk (l : List (Nat × Nat)) : State := l.foldl (fun s p => s.setReg p.1 (BitVec.ofNat 32 p.2)) State.reset
/-- `s` with these fields of registers. -/
def fld (l : List (RegField × Nat)) (s : State := State.reset) : State := l.foldl (fun s p => s.wr p.1 p.2) s
def seeking (l : List (RegField × Nat)) : State :=
  (fld ([(F.ACQ_PLL_STAT_STATE 3, 1), (F.SPN_STAT_SPDVALID, 1)] ++ l) (mk [(Reg.SPN_SPEED, 4800 * 65536)])).setSeek 3 2
def deferring (l : List (RegField × Nat)) : State :=
  { fld l with rcv := { State.reset.rcv with blks := [{ lba := 24 * 2 ^ 20, beam := 12, phase := .deferred }] } }
def defective : State := { State.reset with acq := { State.reset.acq with defect := State.reset.acq.defect.set 0 true } }
def armedEntry (act arg : Nat) : State :=
  (State.reset.setAngFlags true false).modEntry 3 (fun e =>
    { e with armed := true, action := BitVec.ofNat 4 act, arg := BitVec.ofNat 16 arg, target := 0x10 })
def armedTwo (act : Nat) : State :=
  (armedEntry act 1).modEntry 9 (fun e => { e with armed := true, action := BitVec.ofNat 4 act, arg := 7, target := 0x10 })
def armSel (act : Nat) : State := fld [(F.ANG_EVT_ACTW_ACTION, act), (F.ANG_EVT_ACTW_ARG, 515), (F.ANG_EVT_ACTW_HEAD, 2)] (mk
    [(Reg.ANG_EVT_SEL, 63), (Reg.ANG_EVT_TGT, 9)])
def mkWord (hi : Nat) : Dword := BitVec.ofNat 64 (hi * 2 ^ 16 + crc16 (hi * 2 ^ 16) 63 16)
def wordA : Dword := mkWord 0
def wordB : Dword := mkWord (8 * 2 ^ 16)
def wordState : State := (fld [(F.ACQ_IN_CTRL_EN 43, 1), (F.ACQ_PLL_STAT_STATE 3, 2)]).modAng 3 (fun a => { a with last := some wordA })
def homeBlk : WBlk := { lba := 3, kind := .home, zl := 0 }
def replBlk : WBlk := { lba := 7, kind := .repl 3, zl := 0 }
/-- Head 3 may write: R161 and R169 hold for its beams. -/
def mayWrite (s : State) : State :=
  let s := fld [(F.ACQ_PLL_STAT_STATE 3, 2), (F.LSV_H_STAT_STATE 3, 6), (F.PWR_STAT_STGEN, 1), (F.MIR_STAT_OWNED, 1),
    (F.LDD_CTRL_EN 19, 1), (F.LDD_CTRL_WREN 19, 1), (F.VFY_OPC_CFG_EN, 0)] s
  { s with wrp := { s.wrp with vld := Vector.replicate 4 true } }
def gateState : State :=
    { ((mayWrite (armedEntry 1 15)).modW 15 (fun x => { x with plan := [homeBlk, replBlk], gate := some replBlk })) with tsk := { State.reset.tsk with fetched := [3] } }
def openState : State := (fld [(F.VFY_OPC_CFG_EN, 0)] (armedEntry 1 15)).modW 15 (fun x => { x with plan := [homeBlk] })
def closeState : State := (armedEntry 2 15).modW 15 (fun x => { x with gate := some homeBlk })
def hfState (s : State) : State :=
    { s with wrp := { s.wrp with hfOff := Vector.replicate 20 true, lpower := Vector.replicate 20 (some 15) } }
def vfyState (w : WBlk) (n : Nat) : State := (fld [(F.VFY_B_THR_HDR 15, 2), (F.VFY_B_THR_CW 15, 2), (F.VFY_B_THR_TOTAL 15, n),
    (F.DET_STAT_MODE 15, 2), (F.VFY_CTRL_EN, 1), (F.ACQ_PLL_STAT_STATE 3, 2), (F.ACQ_IN_CTRL_EN 51, 1)]).modW 15 (fun x =>
    { x with vfy := [w, homeBlk] })
def readyState : State := let s := State.reset; { s with disc := { s.disc with ready := Vector.replicate 320 true } }
def passState (s : State) : State := ({ s with disc := { s.disc with rebuild := [4, 0] } }).setQueue 0 [⟨9, 1⟩]
def passGate : State := let s := (mayWrite (armedEntry 1 15)).setQueue 0 [⟨3, 1⟩]
  { s with wrp := { s.wrp with pass := s.wrp.pass.set 3 (some 0) }, tsk := { s.tsk with fetched := [3] } }
/-- Channel bits 508 to 300,227 of a block. -/
def seen (w : WBlk) : List Bool := w.bits.drop 508
def recState (n : Nat) : State := let s := fld [(F.TSK_DISC_LOADED, 1)]
  { s with disc := { s.disc with added := 4096, mgmtNext := s.disc.mgmtNext.set 8 n, table := [⟨7, 0, 1, false⟩, ⟨2 ^ 21, 1, 1, false⟩] } }
def capState (act : Nat) : State := fld [(F.DET_CTRL_MODE 15, 3),(F.DET_RUN_LBA_LBA 15, 2^25-1),(F.DET_RUN_CFG_COUNT 15,
    3),(F.DET_GCTRL_EN, act),(F.ACQ_PLL_STAT_STATE 3, 3),(F.ACQ_IN_CTRL_EN 47, 1),(F.LSV_H_STAT_STATE 3, 6)] (armedEntry 4 15)
def run1 : DetRun := ⟨2, 40, false, false, 0, 0, 0⟩
def cap1 : Capture := { lba := 40, buf := 5, eqset := 0, elvl := 0, win := 24, rung := 0, repass := false, home := 15, taps := [] }
def detState (c : Option Capture) : State := (State.reset).modDet 15 (fun d => { d with run := some run1, cap := c })
def scanning (c : Option Capture) : State := fld [(F.DET_CTRL_MODE 15,3),(F.DET_STAT_MODE 15,3)] (detState c)
def full (s : State) : State := s.modDet 15 (fun d => { d with bufs := Vector.replicate 6 (some { lba := 1 }) })
def dip : State := fld [(F.DET_DEF_PROFILE_DO_THR 0, 50),(F.DET_DEF_PROFILE_PERS 0, 3)] ((detState (some cap1)).setReg (Reg.DET_ENV 15) 100)
def hdrW : Dword := mkHeader 1 false false 40 1
def hdrCells : List Int := (List.range 64).map (fun i => if hdrW.getLsbD (63 - i) then 20 else -20)
def blk1 : DecBlk := ⟨40, 15, 15, 5, 0, false, 0, none⟩
def res1 : DecRes := ⟨blk1, 0, true, 0, 3, 4, 100, 0⟩
def laneState : State := let s := (fld [(F.DEC_CTRL_EN, 1)] (mk [(Reg.DEC_LANE_EN, 0x20000)])); { s with dec := { s.dec with fpq := [blk1] } }
def poisoned (s : State) : State := { s with mem := { s.mem with bad := [(5, 95)] } }
def busyState : State := laneState.modLane 17 (fun x => { x with cur := some blk1, limit := 50 })
def cltState : State := let s := mk [(Reg.DEC_CLT_PTR, 17)]; { s with dec := { s.dec with clt := s.dec.clt.set 17 (some res1) } }
def scanState : State := let s := State.reset; { s with disc := { s.disc with rebuild := [1], table := [⟨57156, 0, 1, false⟩] } }
def spareW (lba : Nat) : ScanSlot := .header (mkHeader 1 true false lba 2)
/-- Head 3 may be commanded: owned, its spot lit, the disc at 4,800 rpm, its corrector with a profile. -/
def lsvBase : State :=
  let s := (fld [(F.MIR_STAT_OWNED, 1), (F.PWR_STAT_STGEN, 1), (F.LDD_CTRL_EN 15, 1), (F.LDD_CTRL_RLVL 15, 0), (F.SLD_VMAX_V 5, 1),
    (F.SLD_AMAX_A 5, 1), (F.SLD_JMAX_J 5, 1),
    (F.LSV_H_TGT_LAYER 3, 15), (F.LSV_H_TGT_BAND 3, 29999), (F.ANG_HPOS_LAYER 3, 8), (F.ANG_HPOS_BAND 3, 29990), (F.LSV_H_TKICK_JMAX
      3, 15), (F.LSV_H_LOSS_FRETRY 3, 3),
    (F.LSV_H_FSRCH_TRIES 3, 3), (F.LSV_H_JANG_NOW 3, 0)]
    (mk [(Reg.SPN_SPEED, 4800 * 65536)]))
  { s with wrp := { s.wrp with vld := Vector.replicate 4 true } }
def lsvAt (k : Nat) (f : Lsv → Lsv := id) (s : State := lsvBase) : State := (s.wr (F.LSV_H_STAT_STATE 3) k).modLsv 3 (fun l => f
    { l with st := k })
def spnBase : State := fld [(F.MIR_STAT_OWNED, 1), (F.PWR_STAT_STGEN, 1), (F.SPN_TARGET_RPM, 7560)]
def spnAt (k : Nat) (f : Spn → Spn := id) (s : State := spnBase) : State := (s.wr F.SPN_STAT_STATE k).modSpn f
def sldBase (l : List (RegField × Nat)) (s : State := State.reset) : State := fld ([(F.MIR_STAT_OWNED, 1), (F.PWR_STAT_STGEN, 1),
   (F.SLD_VMAX_V 5, 1), (F.SLD_AMAX_A 5, 1), (F.SLD_JMAX_J 5, 1), (F.SLD_VMAX_V 1, 1), (F.SLD_AMAX_A 1, 1), (F.SLD_JMAX_J 1, 1)] ++ l) s
/-- Ports A and B up with credits, the module numbered 5. -/
def linkUp (l : List (RegField × Nat) := []) : State := fld ([(F.HLK_P_STAT_UP 0, 1), (F.HLK_P_STAT_UP 1, 1), (F.HLK_P_CRED_C 0, 2),
    (F.HLK_P_CRED_D 0, 2),
  (F.HLK_P_CRED_C 1, 2), (F.HLK_P_CRED_D 1, 2), (F.HLK_ID_VALID, 1), (F.HLK_ID_HOP, 5), (F.HLK_RETRY_CFG_RMAX, 3), (F.HLK_L_HLTH_STATE
    0, 0)] ++ l)
def flit1 : Flit := { typ := 2, hb := true, bytes := [1, 2] }
def linkOut : State := (linkUp).modPort 1 (fun q =>
    { q with unack := [(8, flit1), (9, flit1)], txSeq := 10, rxSeq := 0, ackDue := 3, retC := 1, retD := 2 })
def train (p : Fin 3) : State := fld [(F.HLK_P_STAT_STEP p, 2), (F.HLK_P_CTRL_EN p, 1), (F.HLK_P_STAT_UP (1 - p), 1), (F.HLK_P_CRED_C
    (1 - p), 2), (F.HLK_P_CRED_D (1 - p), 2)]
/-- A header with SEQ `seq` and its HCRC. -/
def hdrSeq (typ hb dst tag seq : Nat) : Dword :=
  let w := typ * 2 ^ 60 + hb * 2 ^ 59 + dst * 2 ^ 53 + tag * 2 ^ 40 + seq * 2 ^ 32
  BitVec.ofNat 64 (w + crc16 w 63 32 * 2 ^ 16)
def hdrOf (typ hb dst tag : Nat) : Dword := hdrSeq typ hb dst tag 0
def mcplBody : List Byte := List.replicate 16 0 ++ [1, 2, 3, 4]
def winOpen (s : State) : State := (fld [(F.HLK_WIN_CTRL_EN 7, 1), (F.HLK_WIN_CTRL_W 7, 1), (F.HLK_WIN_CTRL_R 7, 1)] s).setPair
    (Reg.HLK_WIN_LIM_LO 7) (2 ^ 40 - 1)
/-- Task `op` runs over 2 blocks from LBA 8, with a buffer at 0x10000. -/
def taskState (op : Nat) (s : State) : State :=
  let s := winOpen (fld [(F.TSK_STATE_STATE, 1), (F.TSK_STATE_OPCODE, op)] s)
  { s with tsk := { s.tsk with lba := 8, count := 2, sgl := [(0x10000, 65536)], landed := [(8, 3), (9, 3)], moved := 32768 } }
def mrd1 : Mrd := { port := .B, addr := 64, len := 4, lba := 8, live := true, sg := false, ofs := 32764 }
def withMrds (l : List Mrd) (s : State) : State := { s with hlk := { s.hlk with mrds := l } }
def creqPl (w : Nat) (v : Nat) : List Byte := beBytes 4 w ++ [0, 0, 0, 0] ++ beBytes 4 v ++ List.replicate 104 0
def creqWhole (h : Dword) (b : List Byte) : List Byte := b ++ beBytes 4 (crc32 (beBytes 4 (h.toNat / 2 ^ 32) ++ b))
def ans (a : Nat) : RegRow := ((regAt a).getD (⟨0, [], .plain, 0, 0, 0, 0, 0, []⟩, 0)).1
def idx (a : Nat) : Nat := ((regAt a).getD (⟨0, [], .plain, 0, 0, 0, 0, 0, []⟩, 0)).2
def started (s : State := State.reset) : State := s.wr F.PWR_START_STEP 14
/-- Task `op` runs, checked, with this descriptor. -/
def job (op : Nat) (d : List Word) (s : State := State.reset) (f : Tsk → Tsk := id) : State :=
  let s := fld [(F.TSK_STATE_STATE, 1), (F.TSK_STATE_OPCODE, op)] s
  { s with tsk := f { s.tsk with desc := d, work := true, lba := 9, count := 3 } }
def dl (w2 w3 : Nat) : List Word := [0, 0, BitVec.ofNat 32 w2, BitVec.ofNat 32 w3, 0, 0x1000, 0, 0, 0, 0, 0, 0, 0, 0, 0, 0]
def fast (rpm : Nat) (s : State) : State := fld [(F.SPN_STAT_STATE, 4), (F.SPN_TARGET_RPM, rpm), (F.MIR_STAT_OWNED, 1),
    (F.PWR_STAT_STGEN, 1)] s
def may (s : State := State.reset) : State := fld [(F.MIR_STAT_OWNED, 1), (F.PWR_STAT_STGEN, 1), (⟨Reg.CFG_PARAM 0, 0, 32⟩, 4800),
    (⟨Reg.CFG_PARAM 1, 0, 32⟩, 2400)] s
def goDesc (w0 : Nat) (s : State := State.reset) : State := s.setReg (Reg.TSK_DESC 0) (BitVec.ofNat 32 w0)
def blk (bs : List Byte) : MgmtBlock := ⟨3, 5, bs⟩
def key7 : Slot := ⟨2, List.replicate 32 7, 1⟩
def withKey (k : Slot) (s : State) : State := { s with cph := { s.cph with slots := s.cph.slots.set 3 (some k) } }
def hl (s : State) (f : Hlk → Hlk) : State := { s with hlk := f s.hlk }
/-- Calibration `code` runs with this mask. -/
def calJob (code b c : Nat) (s : State := State.reset) : State :=
  (job 0x30 [0, 0, BitVec.ofNat 32 code, BitVec.ofNat 32 b, 0, 0, BitVec.ofNat 32 c, 0] (s.put F.CAL_STAT_BUSY true) (fun t =>
    { t with phase := 1 }))
def onDisc : State := fld [(F.TSK_DISC_LOADED, 1), (F.SPN_STAT_SPDVALID, 1), (F.LSV_H_STAT_STATE 2, 6), (F.ANG_HPOS_LAYER 2, 0),
    (F.ANG_HPOS_BAND 2, 16)] (fast 4800 (mk [(Reg.SPN_SPEED, 4800 * 65536)]))
/-- A micro-word from its fields. -/
def mw (ctl cond tgt carg xop dst sa sb bimm size setf : Nat) (imm : Nat := 0) : MicroWord :=
  BitVec.ofNat 128 (ctl * 2^124 + cond * 2^120 + tgt * 2^106 + carg * 2^96 + xop * 2^90 + dst * 2^85 + sa * 2^80 + sb * 2^75 + bimm *
    2^74 + size * 2^72 + setf * 2^71 + imm)
/-- SEQ runs at 0x3FF with this word there. -/
def seqAt (w : MicroWord) (f : Seq → Seq := id) (s : State := State.reset) : State :=
  let s := (fld [(F.SEQ_STAT_HALTED, 0)] s).setPc 0x3FF
  { s with seq := f { s.seq with cs := [(0x3FF, w)], g := (s.seq.g.set 1 0xFFFFFFFFFFFFFFFF).set 2 0x8000000000000001 } }
def word (w : MicroWord) : Micro := microOf w
def alu (x : Nat) : MicroWord := mw 0 0 0 0 x 3 1 2 0 0 1
def sramW (x size : Nat) : MicroWord := mw 0 0 0 0 x 3 0 2 0 size 0 0x400000008
def lineAt (d : Bool) : CLine := { addr := 128, dirty := d, poison := 0, data := List.replicate 64 7 }
def ctl (c : Nat) (tgt carg : Nat := 0) (imm : Nat := 0) : MicroWord := mw c 0 tgt carg 0 3 1 0 0 0 0 imm
def helperOn (c : DramChan) (k : Nat) : State := State.reset.modMem (fun m => { m with helper := m.helper.set c k })
def skinkOn (l : List (RegField × Nat) := []) : State := fld ([(F.MIC_FILL_STAT_DDONE, 1), (F.MIC_SKINK_CFG_EN, 1)] ++ l)
def skinkAt (a : Nat) (s : State) : State := (s.setPair Reg.MIC_SKINK_POS_LO a).setReg Reg.MIC_SKINK_DEBT 5
def sramOn : State := fld [(F.MIC_FILL_STAT_SDONE, 1), (F.MIC_SKINK_CFG_SEN, 1)]
def rowOpen : State := State.reset.modMem (fun m =>
    { m with banks := m.banks.set (bankNo 3 15) { opened := true, last := some 9, hist := 7 } })
def flcAt (w : Nat) (f : Flc → Flc := id) (s : State := State.reset) : State := (s.wr F.FLC_ADDR_ADDR (4 * w)).modFlc f
def record (typ : Nat) (d : List Byte) : List Byte := beBytes 2 typ ++ beBytes 2 0x8000 ++ beBytes 4 d.length ++ d
def imageOf (tag : Nat) (rs : List (List Byte)) : List Byte :=
  let body := rs.flatten
  let pad := List.replicate ((16 - body.length % 16) % 16) (0 : Byte)
  let l := 64 + body.length + pad.length
  let h := beBytes 8 0x4C4744434647494D ++ beBytes 2 1 ++ beBytes 2 64 ++ beBytes 4 l ++ beBytes 4 7 ++ beBytes 4 rs.length ++
    List.replicate 40 (0 : Byte)
  let b := h ++ body ++ pad
  b ++ beBytes 16 tag
def flashOf (img : List Byte) : List (Nat × Word) := (List.range (img.length / 4)).filterMap (fun i => let v := BitVec.ofNat 32 (beAt img (4*i) 4); if v = erasedWord then none else some (i, v))
def serD : List Byte := (List.range 16).map (fun i => BitVec.ofNat 8 i)
def csD : List Byte := beBytes 4 0x3FFF ++ List.replicate 12 0 ++ (List.range 16).map (fun i => BitVec.ofNat 8 i)
def disD : List Byte := (List.range 256).flatMap (fun i => beBytes 2 (i + 1))
def verD : List Byte := beBytes 4 0x12345678 ++ beBytes 4 0x222
def drD : List Byte := beBytes 8 0x380000004 ++ [1,2,3,4]
def img1 : List Byte := imageOf 26257436792065500104483484008110897427 [record 1 serD, record 0x10 csD, record 0x11 disD, record 0x12 verD]
def img2 : List Byte := imageOf 321980151644288814089903931952211805990 [record 0x30 drD]
def withImage (img : List Byte) (s : State := State.reset) : State :=
  let s := s.modFlc (fun f => { f with words := flashOf img })
  { s.wr F.PWR_START_STEP 7 with pwr := { s.pwr with held := false } }
def withCounter : State := State.reset.modFlc (fun f =>
    { f with op := some (.inc 1), words := [(1024*1026, 0x4D4F4E43), (1024*1026+1, 1), (1024*1026+2, 0xFFFFFFFA), (1024*1026+3, 5), (1024*1026+4, 0)] })
def cph (f : Cph → Cph) (s : State := State.reset) : State := { s with cph := f s.cph }
def keyA : List Byte := List.replicate 32 5
def keyed (s : State := State.reset) : State := cph (fun c => { c with kek := some keyA, cak := some keyA }) s
def ready (s : State := State.reset) : State := fld [(F.CPH_LOCK_HELD, 1), (F.CPH_LOCK_OWNER, 2)] s
def slotOn (u : Nat) (s : State := ready) : State := cph (fun c => { c with slots := c.slots.set 7 (some ⟨u, keyA, 3⟩) }) s
def op (o : CphOp) (s : State := State.reset) : State := cph (fun c => { c with op := some o }) (s.put F.CPH_STAT_BUSY true)
def out16 : List Byte := (List.range 16).map (fun i => BitVec.ofNat 8 (i+1))
def withBlob (b : List Byte) (s : State) : State := s.setRegBytes (Reg.CPH_BLOB 0) 14 b
def chal0 : List Byte := List.replicate 16 1
def sess : State := cph (fun c => { c with chal := some chal0, cak := some keyA, kek := some keyA }) (fld [(F.CPH_SESS_STAT_NUM, 255),
    (F.CPH_SESS_STAT_FAILS, 7)])
def sessOk : State := sess.setRegBytes (Reg.CPH_SESS_RESP 0) 4 (beBytes 16 130313046759932946902007554748977121157)
def out16x2 : List Byte := out16 ++ out16
def mir (f : Mir → Mir) (s : State := State.reset) : State := { s with mir := f s.mir }
def mirrHdr : Dword := hdrSeq 13 1 0 0 255
/-- Port M is up, and awaits SEQ 255. -/
def portIn (s : State) : State := (s.put (F.HLK_P_STAT_UP 2) true).modPort 2 (fun q => { q with rxSeq := 255 })
def owner : State := fld [(F.MIR_STAT_OWNED, 1), (F.MIR_STAT_OWNSELF, 1), (F.MIR_STAT_ROLE, 1), (F.SLD_STAT_ENERG 3, 1)]
def running (s : State) : State := s.wr F.TSK_STATE_STATE 1
def armedS (l : List (RegField × Nat) := []) : State := mir (fun m => m) (fld ([(F.MIR_CTRL_TAKE_EN, 1), (F.MIR_CTRL_EN, 1),
    (F.SRV_LANES_ACTIVE, 15), (F.SEQ_MODE_TASK, 1), (F.SEQ_STAT_DFAULT, 0)] ++ l))
def part (k : Nat) (l : List (Nat × Byte)) : List Byte := (List.range 120).map (fun i => if i = 0 then BitVec.ofNat 8 k else ((l.find?
    (fun p => p.1 = i)).map (·.2)).getD 0)
def rec1 : List (List Byte) := [part 1 [(19, 0x1B), (26, 0x1C), (27, 0x20), (23, 0x66), (35, 7), (75, 9)], part 2 [(11, 1), (10,
    0x10), (23, 5)], part 3 [], part 4 []]
def stand (l : List (RegField × Nat) := []) (f : Mir → Mir := id) : State := mir f (armedS ((F.MIR_STAT_ROLE, 2) :: l))
def x0 : SampleIn :=
    { conv := [], at40 := 0, stale := [], residues := [], speed := 7 * 65536, speedOk := true, revRate := 3, eang := 0, qmax := 0, pos := [], shadowDiff := false, interval := 833 }
def portM (s : State) : State := fld [(F.HLK_P_STAT_UP 2, 1), (F.HLK_P_CRED_C 2, 5), (F.HLK_P_CRED_D 2, 5)] s
def hand (f : Mir → Mir) : State := mir f (running (State.reset.wr F.TSK_STATE_OPCODE 0x50))
def turning : State :=
    { (fld [(F.ACQ_PLL_STAT_STATE 3, 2)] (mk [(Reg.SPN_SPEED, 7200 * 65536)])).put F.ANG_CTRL_FLOOR_EN false with ang := { State.reset.ang with spr := 10000 } }
def ask (r : AxlReq) (s : State := State.reset) : State := { s with axlReq := [r] }
def rq (k u e : Nat) : AxlReq := ⟨Fin.ofNat 64 k, Fin.ofNat 1024 u, Fin.ofNat 16777216 e, 2⟩
def frameOf (b : List Byte) : List Byte := let p := b ++ List.replicate (60 - b.length) 0; p ++ fcs p
def toMe (n : Nat) : List Byte := beBytes 6 0 ++ beBytes 6 7 ++ beBytes 2 0x88B5 ++ List.replicate n 1
def msgFrame (typ : Nat) (ctr : Nat) (body : List Byte) : List Byte := beBytes 6 0 ++ beBytes 6 7 ++ beBytes 2 0x88B5 ++ [1,
    BitVec.ofNat 8 typ] ++ beBytes 2 body.length ++ beBytes 8 ctr ++ [0,0,0,0] ++ body ++ List.replicate 8 0
def rx (st : Nat) (b : List Byte) (s : State := State.reset) : State := s.modRx 7 (fun _ => { state := st, bytes := b, peer := 3 })
def rxHs (hs typ : Nat) (body : List Byte) (s : State := running owner) : State := let s := rx 2 (frameOf (msgFrame typ 9 body)) (slotOn 2 s); { s with lbs := { s.lbs with hs := hs } }
def hsOn (hs sent : Nat) (s : State := running owner) : State := { s with lbs := { s.lbs with hs := hs, sent := sent } }
/-- Peer 3 of a role, with the library key. -/
def lbsPeer (role : Nat) : State :=
  slotOn 2 (fld [(F.LBS_PEER_MAC_HI_EN 3, 1), (F.LBS_PEER_MAC_HI_ROLE 3, role), (F.LBS_PEER_MAC_HI_MAC 3, 0)] (mk
    [(Reg.LBS_PEER_MAC_LO 3, 7)]))
/-- A message of `typ` to the module, its tag, and its frame with a tag. -/
def lbsMsg (typ : Nat) (body : List Byte) : List Byte :=
  [1, BitVec.ofNat 8 typ] ++ beBytes 2 body.length ++ beBytes 8 9 ++ beBytes 2 0 ++ [0, 0] ++ body
def lbsTagOf (typ : Nat) (body : List Byte) (role : Nat) : List Byte :=
  ((lbsPeer role).lbsTag (beBytes 6 7) (beBytes 6 0) (lbsMsg typ body)).getD []
def lbsFrame (typ : Nat) (body t : List Byte) : List Byte :=
  frameOf (beBytes 6 0 ++ beBytes 6 7 ++ beBytes 2 0x88B5 ++ lbsMsg typ body ++ t)
/-- A message that passes every check of R492. -/
def lbsGood (typ : Nat) (body : List Byte) (role : Nat := 0) : State :=
  rx 1 (lbsFrame typ body (lbsTagOf typ body role)) (lbsPeer role)
/-- The bytes before the tag. -/
def lbsHead (typ : Nat) (body : List Byte) : List Byte := beBytes 6 0 ++ beBytes 6 7 ++ beBytes 2 0x88B5 ++ lbsMsg typ body
def up : State := { State.reset with pwr := { held := false, por := false } }
def xs : StartIn :=
    { bkpCold := true, axlOk := false, fieldMapOk := false, side := true, bistDec := 0x20001, bistMac := 1, stepUs := [1,2,3], bistMix := 5, bistHlk := 9, bistAdc := [3] }
def busy : State := let s := slotOn 2 (keyed (mk [(Reg.BKP_LOG 0 0, 9), (Reg.SRV_G_U 0 0, 9), (Reg.PWR_PIN_CNT, 4), (Reg.AXL_DENY_CNT, 3)])); { s with dram := [(5, 5)], pwr := { held := false, por := false }, flc := { words := [(4, 3)], op := some (.erase 5) } }
/-- A disc record whose bytes before the check end in `z` (R51). -/
def recordBody (z : List Byte) : List Byte := beBytes 8 0x534C584D47524543 ++ (List.replicate 26 9 ++ z)
def discRecord (z : List Byte) : List Byte := recordBody z ++ beBytes 4 (crc32 (recordBody z))
/-- A written block that reads as it was written. -/

theorem seen_good {s : State} {b : Beam} {w : WBlk} (hh : 0 < s.rd (F.VFY_B_THR_HDR b)) (ht : 0 < s.rd (F.VFY_B_THR_TOTAL b))
    (hc : 0 < s.rd (F.VFY_B_THR_CW b)) : s.ReadsGood b w ((seen w).take 72 ++ (seen w).drop 72) := by
  have h : mismatches w.bits ((seen w).take 72 ++ (seen w).drop 72) = [] := by
    rw [List.take_append_drop]
    exact mismatches_own _
  exact ⟨by rw [h]; exact hh, by rw [h]; exact ht, fun _ _ => by rw [h]; exact hc⟩

/-- SRAM with the one unit of class 19 poisoned. -/
def sramBadOne : State := sramOn.modMem (fun q => { q with bad := [(19, 0)] })

theorem badUnit : sramBadOne.unitIsBad 19 (unitOf 19 1023 65534) = true := by
  unfold unitOf
  rw [show sramUnits (19 : Fin 20).val = 1 from rfl, Nat.mod_one]
  decide +kernel

theorem discRecord_valid (z : List Byte) (hz : z.length = 32730) : validRecord (discRecord z) = true := by
  have hb : (recordBody z).length = 32764 := by simp [recordBody, hz]
  have h0 : (discRecord z).length = 32768 := by simp [discRecord, hb]
  have h1 : beAt (discRecord z) 0 8 = 0x534C584D47524543 := by
    unfold discRecord recordBody
    rw [List.append_assoc]
    have h := beAt_front (beBytes 8 0x534C584D47524543) (List.replicate 26 9 ++ z ++ beBytes 4 (crc32 (recordBody z)))
    rwa [beNat_beBytes 8 _ (by norm_num), length_beBytes] at h
  have h2 : (discRecord z).take 32764 = recordBody z := by rw [← hb]; exact List.take_left
  have h3 := beAt_append (recordBody z) (beBytes 4 (crc32 (recordBody z)))
  rw [beNat_beBytes 4 _ (crc32_lt _), hb, length_beBytes] at h3
  unfold validRecord
  rw [h2, h0, h1, show beAt (discRecord z) 32764 4 = _ from h3]
  simp

theorem discRecord_last (z : List Byte) (hz : z.length = 32730) :
    lastRecord [⟨0, 3, discRecord z⟩] = some (discRecord z) := by
  simp [lastRecord, discRecord_valid z hz]

theorem img1_due : (withImage img1).ImageDue img1 := by unfold State.ImageDue; decide +kernel

theorem img1_sound : (withImage img1).imageFault img1 = none := by decide +kernel

/-- A sound patch under `key7`: whatever subkeys the key gives, counter mode twice gives the text back (R442). -/
def patchText : List Byte := beBytes 8 0x4C47445041544348 ++ beBytes 2 5 ++ beBytes 2 0 ++ beBytes 2 1 ++ beBytes 2 0 ++ beBytes 4 0
  ++ List.replicate 12 0 ++ beBytes 2 1 ++ beBytes 2 0x3FFF ++ List.replicate 12 0 ++ beBytes 16 77
def patchBody : List Byte := List.replicate 16 0 ++ toBytes (ctrDecrypt (toNats (subkey key7.key 1)) 0 (toNats patchText))
def patchBlob : List Byte := patchBody ++ toBytes (Aes.cmac (toNats (subkey key7.key 2)) (toNats patchBody))

theorem patchBody_length : patchBody.length = 80 := by simp [patchBody, toBytes, toNats, ctrDecrypt, patchText]

theorem patch_length : patchBlob.length = 96 := by simp [patchBlob, patchBody_length, toBytes, Aes.length_cmac]

theorem patch_take : patchBlob.take (patchBlob.length - 16) = patchBody := by
  rw [patch_length, show 96 - 16 = patchBody.length from by rw [patchBody_length]]
  exact List.take_left

theorem patch_tag : toBytes (Aes.cmac (toNats (subkey key7.key 2)) (toNats (patchBlob.take (patchBlob.length - 16)))) =
    patchBlob.drop (patchBlob.length - 16) := by
  rw [patch_take, patch_length, show 96 - 16 = patchBody.length from by rw [patchBody_length]]
  exact List.drop_left.symm

theorem patch_plain : toBytes (ctrDecrypt (toNats (subkey key7.key 1))
    (Aes.toNum ((toNats (patchBlob.take (patchBlob.length - 16))).take 16))
    ((toNats (patchBlob.take (patchBlob.length - 16))).drop 16)) = patchText := by
  rw [patch_take]
  have h1 : (toNats patchBody).take 16 = List.replicate 16 0 := by simp [patchBody, toNats]
  have h2 : (toNats patchBody).drop 16 = toNats (toBytes (ctrDecrypt (toNats (subkey key7.key 1)) 0 (toNats patchText))) := by
    simp [patchBody, toNats]
  rw [h1, h2, show Aes.toNum (List.replicate 16 0) = 0 from by decide]
  exact ctrDecrypt_twice _ _ _

theorem lbsTag_some (typ : Nat) (body : List Byte) (role : Nat) (h : (lbsPeer role).cph.slots[(Fin.ofNat 8 ((lbsPeer role).rd
    F.LBS_AUTH_CFG_SLOT) : Fin 8)] = some ⟨2, keyA, 3⟩) :
    (lbsPeer role).lbsTag (beBytes 6 7) (beBytes 6 0) (lbsMsg typ body) = some (lbsTagOf typ body role) ∧ (lbsTagOf typ body
      role).length = 8 := by
  unfold lbsTagOf State.lbsTag
  rw [h]
  refine ⟨rfl, ?_⟩
  simp [toBytes, Aes.length_cmac]

/-- A message that names a peer, the module's drive and a new counter, and has its tag, passes every check of R492. -/

theorem judge_ok {s : State} {x : RxEntry} {p : Fin 8} {h t r : List Byte} {n : Nat} (hx : x.bytes = h ++ (t ++ r))
    (hl : h.length = 30 + n) (ht : t.length = 8) (hr : 4 ≤ r.length) (hp : s.peerOf (beAt h 6 6) = some p)
    (tag : s.lbsTag (bytesAt h 6 6) (bytesAt h 0 6) (bytesAt h 14 (16 + n)) = some t)
    (hc : beAt h 16 2 = n ∧ beAt h 14 1 = 1 ∧ n ≤ 240 ∧ beAt h 26 2 = s.rd F.LBS_ETYPE_DRIVE ∧
      s.pair (Reg.LBS_PEER_CTR_LO p) < beAt h 18 8 ∧ mayType (s.rd (F.LBS_PEER_MAC_HI_ROLE p)) (beAt h 15 1) = true) :
    s.lbsJudge x = 0 := by
  obtain ⟨h16, h14, hn, h26, h18, h15⟩ := hc
  have by_ (i k : Nat) (hik : i + k ≤ 30 + n) : bytesAt x.bytes i k = bytesAt h i k := by
    rw [hx]; exact bytesAt_left (by rw [hl]; exact hik)
  have at_ (i k : Nat) (hik : i + k ≤ 30 + n) : beAt x.bytes i k = beAt h i k := congrArg beNat (by_ i k hik)
  have hm : bytesAt x.bytes (30 + n) 8 = t := by rw [hx, ← hl, ← ht]; exact bytesAt_mid h t r
  have hb : 42 + n ≤ x.bytes.length := by rw [hx, List.length_append, List.length_append, hl, ht]; omega
  unfold State.lbsJudge
  simp only [at_ 16 2 (by omega), at_ 6 6 (by omega), h16, hp, by_ 6 6 (by omega), by_ 0 6 (by omega), by_ 14 (16 + n) (by omega),
    tag, at_ 14 1 (by omega), at_ 26 2 (by omega), at_ 18 8 (by omega), at_ 15 1 (by omega), hm]
  rw [if_neg (by rw [h14, h26]; omega), if_neg (not_not_intro rfl), if_neg (by omega), if_neg (by rw [h15]; decide)]

/-- A frame is its head, its tag and the rest, which holds the FCS. -/

theorem lbsFrame_split (typ : Nat) (body t : List Byte) : ∃ r, 4 ≤ r.length ∧ lbsFrame typ body t = lbsHead typ body ++ (t ++ r) := by
  unfold lbsFrame frameOf lbsHead
  dsimp only
  rw [List.append_assoc, List.append_assoc]
  exact ⟨_, by simp [fcs], rfl⟩

theorem lbsGood_ok (typ : Nat) (body : List Byte) (role : Nat) 
    (hs : (lbsPeer role).cph.slots[(Fin.ofNat 8 ((lbsPeer role).rd F.LBS_AUTH_CFG_SLOT) : Fin 8)] = some ⟨2, keyA, 3⟩)
    (h : (lbsHead typ body).length = 30 + body.length ∧ (lbsPeer role).peerOf (beAt (lbsHead typ body) 6 6) = some 3 ∧
      bytesAt (lbsHead typ body) 6 6 = beBytes 6 7 ∧ bytesAt (lbsHead typ body) 0 6 = beBytes 6 0 ∧
      bytesAt (lbsHead typ body) 14 (16 + body.length) = lbsMsg typ body)
    (hc : beAt (lbsHead typ body) 16 2 = body.length ∧ beAt (lbsHead typ body) 14 1 = 1 ∧ body.length ≤ 240 ∧
      beAt (lbsHead typ body) 26 2 = (lbsPeer role).rd F.LBS_ETYPE_DRIVE ∧
      (lbsPeer role).pair (Reg.LBS_PEER_CTR_LO (3 : Fin 8)) < beAt (lbsHead typ body) 18 8 ∧
      mayType ((lbsPeer role).rd (F.LBS_PEER_MAC_HI_ROLE (3 : Fin 8))) (beAt (lbsHead typ body) 15 1) = true) :
    (lbsPeer role).lbsJudge ⟨1, lbsFrame typ body (lbsTagOf typ body role), 3⟩ = 0 := by
  obtain ⟨ht, h8⟩ := lbsTag_some typ body role hs
  obtain ⟨r, hr, hx⟩ := lbsFrame_split typ body (lbsTagOf typ body role)
  obtain ⟨hl, hp, h6, h0, h14⟩ := h
  exact judge_ok (x := ⟨1, _, 3⟩) hx hl h8 hr hp (by rw [h6, h0, h14]; exact ht) hc

theorem good4 : (lbsGood 4 [0]).lbsJudge (lbsGood 4 [0]).lbs.ring[(7 : Fin 8)] = 0 :=
  lbsGood_ok 4 [0] 0 (by decide +kernel) (by decide +kernel) (by decide +kernel)

theorem good32 : (lbsGood 0x20 [1, 1, 0, 0] 2).lbsJudge (lbsGood 0x20 [1, 1, 0, 0] 2).lbs.ring[(7 : Fin 8)] = 0 :=
  lbsGood_ok 0x20 [1, 1, 0, 0] 2 (by decide +kernel) (by decide +kernel) (by decide +kernel)


/-! ## Every statement has states and operands that meet its hypotheses -/

theorem witness_ClockTrackAndReference :
    (∃ (v : Word), 4 < F.ANG_CTRL_REFSEL.of v) ∧
    (∃ (s : State) (v : Word) (h : Head), F.ANG_CTRL_REFSEL.of v ≤ 4 ∧ (s.setReg Reg.ANG_CTRL (v &&& 0x1F)).refWanted = some h ∧ (h =
      s.refHead ∨ s.angValid = false)) ∧
    (∃ (s : State) (h : Head) (ofs : Int) (run : Nat), s.clockOn h = true ∧ s.pllOut = false ∧ s.pll h = 2 ∧ ofs.natAbs ≤ 128 ∧ 64 ≤
      run) ∧
    (∃ (s : State) (h : Head) (ofs : Int), s.clockOn h = true ∧ s.pllOut = false ∧ s.pll h = 2 ∧ 128 < ofs.natAbs) ∧
    (∃ (s : State) (h : Head), s.pll h = 3) ∧
    (∃ (s : State) (h : Head), s.pll h = 1) ∧
    (∃ (s : State) (h : Head) (ofs : Int) (run : Nat), s.clockOn h = true ∧ s.pll h = 1 ∧ 288 ≤ run ∧ run ≤ 352 ∧ s.pllSpeed = true ∧
      ofs.natAbs ≤ 64 ∧ s.acq.seek[h] + 1 < s.rd (F.ACQ_PLL_CTRL_LOCKN h)) ∧
    (∃ (s : State) (h r : Head) (ofs : Int) (run : Nat), r ≠ h ∧ s.rd F.ANG_CTRL_REFSEL = r.val ∧ s.refHead = r ∧ s.locked r = true ∧
      s.clockOn h = true ∧ s.pll h = 1 ∧ 288 ≤ run ∧ run ≤ 352 ∧ s.pllSpeed = true ∧ ofs.natAbs ≤ 64 ∧ s.rd (F.ACQ_PLL_CTRL_LOCKN h) ≤
      s.acq.seek[h] + 1) ∧
    (∃ (s : State) (h r : Head), r ≠ h ∧ s.rd F.ANG_CTRL_REFSEL = r.val ∧ s.refHead = r ∧ s.locked r = true ∧ s.pll h = 2 ∧ (∀ d, d <
      4 → (s.wrp.beams[headBeam h d]).gate = none)) ∧
    (∃ (s : State) (h r : Head), r ≠ h ∧ s.rd F.ANG_CTRL_REFSEL = r.val ∧ s.refHead = r ∧ s.locked r = true ∧ s.pll h = 3 ∧ s.rd
      (F.ACQ_PLL_STAT_MISSRUN h) = 64 ∧ (∀ d, d < 4 → (s.det[headBeam h d]).run = none) ∧ s.rd (F.LSV_H_STAT_STATE h) ≠ 6) ∧
    (∃ (s : State), s.angValid = true ∧ (∀ h : Head, s.locked h = false)) ∧
    (∃ (s : State) (h : Head) (v : Word), v.getLsbD 0 = true ∧ 2 ≤ (F.ACQ_PLL_CTRL_LOCKN h).of v ∧ (F.ACQ_PLL_CTRL_LOCKN h).of v ≤ 8 ∧
      16 ≤ (F.ACQ_PLL_CTRL_HOWIN h).of v ∧ (F.ACQ_PLL_CTRL_HOWIN h).of v ≤ 64 ∧ s.pll h = 0) ∧
    (∃ (s : State) (h : Head), (s.pllOut = true ∨ s.clockOn h = false)) :=
  ⟨⟨0xA, by decide +kernel⟩,
   ⟨(fld [(F.ACQ_PLL_STAT_STATE 1, 2)]), 8, 1, by decide +kernel⟩,
   ⟨(fld [(F.ACQ_IN_CTRL_EN 43, 1),(F.ACQ_PLL_STAT_STATE 3, 2),(F.ACQ_PLL_STAT_GOODRUN 3, 15)]), 3, (-128), 64, by decide +kernel⟩,
   ⟨(fld [(F.ACQ_IN_CTRL_EN 43, 1),(F.ACQ_PLL_STAT_STATE 3, 2)]), 3, 129, by decide +kernel⟩,
   ⟨(fld [(F.ACQ_PLL_STAT_STATE 3, 3),(F.ACQ_PLL_STAT_MISSRUN 3, 64)]), 3, by decide +kernel⟩,
   ⟨(fld [(F.ACQ_PLL_STAT_STATE 3, 1)]), 3, by decide +kernel⟩,
   ⟨(seeking [(F.ACQ_IN_CTRL_EN 43, 1),(F.ACQ_PLL_CTRL_LOCKN 3, 4)]), 3, (-64), 352, by decide +kernel⟩,
   ⟨(seeking [(F.ACQ_IN_CTRL_EN 43, 1),(F.ACQ_PLL_CTRL_LOCKN 3, 3),(F.ACQ_PLL_STAT_STATE 1,
     2),(F.ANG_CTRL_REFSEL,1),(F.ANG_STAT_REFHEAD,1)]), 3, 1, 64, 288, by decide +kernel⟩,
   ⟨(fld [(F.ACQ_PLL_STAT_STATE 3, 2),(F.ACQ_PLL_STAT_STATE 1, 2),(F.ANG_CTRL_REFSEL,1),(F.ANG_STAT_REFHEAD,1)]), 3, 1,
     by decide +kernel⟩,
   ⟨(fld [(F.ACQ_PLL_STAT_STATE 3, 3),(F.ACQ_PLL_STAT_MISSRUN 3, 64),(F.ACQ_PLL_STAT_STATE 1,
     2),(F.ANG_CTRL_REFSEL,1),(F.ANG_STAT_REFHEAD,1)]), 3, 1, by decide +kernel⟩,
   ⟨(State.reset.setAngFlags true false), by decide +kernel⟩,
   ⟨State.reset, 2, 0x4403, by decide +kernel⟩,
   ⟨(mk [(Reg.SPN_SPEED, 599 * 65536), (Reg.SPN_STAT, 2 ^ 26)]), 2, by decide +kernel⟩⟩

theorem witness_EntriesFire :
    (∃ (s : State) (i : Entry) (now : Angle) (g : Group), s.Fires i now 5 ∧ (s.ang.entries[i]).arg.toNat = g.val) ∧
    (∃ (s : State) (i : Entry) (now : Angle), s.Fires i now 7 ∧ s.seq.queue.length < 64 ∧ (∀ j, j ≠ i → s.firesWith i j = false)) ∧
    (∃ (s : State) (i : Entry) (now : Angle), s.Fires i now 7 ∧ s.seq.queue.length + ((List.finRange 64).filter (s.firesWith
      i)).length ≤ 64) ∧
    (∃ (s : State) (i : Entry) (now : Angle), s.Fires i now 8) ∧
    (∃ (s : State) (i : Entry) (now : Angle) (h : Head) (z : Nat), s.Fires i now 9 ∧ (s.ang.entries[i]).arg.toNat = h.val ∧ bandZone
      (s.headBand h + 1) = some z ∧ z ≠ (s.reg (Reg.ACQ_HZONE h)).toNat) :=
  ⟨⟨(armedEntry 5 10), 3, 0x10, 10, by constructor <;> decide +kernel, by decide +kernel⟩,
   ⟨(armedEntry 7 65535), 3, 0x10, by constructor <;> decide +kernel, by decide +kernel⟩,
   ⟨(armedTwo 7), 3, 0x10, by constructor <;> decide +kernel, by decide +kernel⟩,
   ⟨(fld [(F.MIC_SKINK_CFG_QUOTA, 7)] (armedEntry 8 0)), 3, 0x10, by constructor <;> decide +kernel⟩,
   ⟨(fld [(F.ANG_HPOS_BAND 2, 1499)] (armedEntry 9 2)), 3, 0x10, 2, 1, by constructor <;> decide +kernel, by decide +kernel⟩⟩

theorem witness_EntriesAreArmedHeldAndDisarmed :
    (∃ (s : State), ((s.ang.entries[selectedEntry s]).armed = true ∨ s.rd F.ANG_EVT_ACTW_ACTION = 0 ∨ 9 < s.rd F.ANG_EVT_ACTW_ACTION)) ∧
    (∃ (s : State), (s.ang.entries[selectedEntry s]).armed = false ∧ s.rd F.ANG_EVT_ACTW_ACTION ≠ 0 ∧ s.rd F.ANG_EVT_ACTW_ACTION ≤ 9 ∧
      (2 ^ 31 ≤ (s.ang.now.toNat + 2 ^ 44 - (s.reg Reg.ANG_EVT_TGT).toNat) % 2 ^ 32 ∨ s.mayFire = false)) ∧
    (∃ (s : State), s.holding = true) ∧
    (∃ (s : State) (now : Angle), s.holding = true ∧ 0 < angDiff now s.ang.hwm ∧ (∀ i : Entry, (s.ang.entries[i]).armed = true →
      (s.ang.entries[i]).due s.ang.hwm = false)) :=
  ⟨⟨(armSel 10), by decide +kernel⟩,
   ⟨(armSel 9), by decide +kernel⟩,
   ⟨(fld [(F.ANG_STAT_HOLD,1)] (armedEntry 7 1)), by decide +kernel⟩,
   ⟨(fld [(F.ANG_STAT_HOLD,1)]), 5, by decide +kernel⟩⟩

theorem witness_AddressWordsAndFrameZero :
    (∃ (s : State) (h : Head) (w : Dword), s.clockOn h = true ∧ crcGood w = false) ∧
    (∃ (s : State) (h : Head) (w : Dword), s.clockOn h = true ∧ crcGood w = true ∧ s.locked h = false) ∧
    (∃ (s : State) (h : Head) (w : Dword), s.clockOn h = true ∧ s.locked h = true ∧ crcGood w = true ∧ ((s.ang.heads[h]).last.any
      (agrees · w) = false ∨ zoneLegal w = false)) ∧
    (∃ (s : State) (h : Head) (p w : Dword), s.clockOn h = true ∧ s.locked h = true ∧ crcGood w = true ∧ (s.ang.heads[h]).last = some
      p ∧ agrees p w = true ∧ zoneLegal w = true ∧ s.angValid = false ∧ s.owned = false ∧ adrLAYER w = s.rd (F.ANG_HPOS_LAYER h) ∧
      adrBAND w = s.headBand h ∧ (∀ b : Beam, (s.wrp.beams[b]).gate = none) ∧ (∀ i : Entry, (s.ang.entries[i]).armed = true →
      (s.ang.entries[i]).action ≠ 1)) ∧
    (∃ (s : State) (h : Head), s.rcv.retry[h] = none ∧ (∀ k ∈ s.rcv.blks, k.head ≠ h)) ∧
    (∃ (s : State) (h : Head), s.rcv.retry[h] = none ∧ s.taskRunning = false ∧ (s.aged h).retryDue h = false ∧ (∀ k ∈ s.rcv.blks,
      k.phase ≠ .beside ∧ k.phase ≠ .outside)) ∧
    (∃ (s : State) (h : Head), s.rcv.retry[h] = none ∧ s.taskRunning = false ∧ (s.aged h).retryDue h = true ∧ s.flag
      (F.LSV_H_STAT_BUSY h) = true) :=
  ⟨⟨(fld [(F.ACQ_IN_CTRL_EN 43, 1),(F.ACQ_PLL_STAT_STATE 3, 2)]), 3, 1, by decide +kernel⟩,
   ⟨(fld [(F.ACQ_IN_CTRL_EN 43, 1)]), 3, wordA, by decide +kernel⟩,
   ⟨(fld [(F.ACQ_IN_CTRL_EN 43, 1),(F.ACQ_PLL_STAT_STATE 3, 2)]), 3, wordA, by decide +kernel⟩,
   ⟨wordState, 3, wordA, wordB, by decide +kernel⟩,
   ⟨(fld [(F.ACQ_PLL_STAT_ZPEND 3, 1)]), 3, by decide +kernel⟩,
   ⟨(deferring []), 3, by decide +kernel⟩,
   ⟨(deferring [(F.RCV_CFG_DEFAGE, 1),(F.LSV_H_STAT_BUSY 3, 1)]), 3, by decide +kernel⟩⟩

theorem witness_SledEncoders :
    (∃ (s : State) (sl : Sled) (ab : BitVec 2) (d : Int), s.flag (F.ANG_ENC_CTRL_EN sl) = true ∧ quadStep s.ang.encAB[sl] ab = some d) ∧
    (∃ (s : State) (sl : Sled) (ab : BitVec 2), s.flag (F.ANG_ENC_CTRL_EN sl) = true ∧ quadStep s.ang.encAB[sl] ab = none) ∧
    (∃ (s : State) (sl : Sled), s.flag (F.ANG_ENC_CTRL_EN sl) = true) :=
  ⟨⟨(fld [(F.ANG_ENC_CTRL_EN 1, 1),(F.ANG_ENC_CTRL_DIR 1, 1)]), 1, 1, 1, by decide +kernel⟩,
   ⟨(fld [(F.ANG_ENC_CTRL_EN 1, 1)]), 1, 3, by decide +kernel⟩,
   ⟨(mk [(Reg.ANG_ENC_CTRL 1, 16),(Reg.ANG_ENC_IDX 1, 77)]), 1, by decide +kernel⟩⟩

theorem witness_ConverterSlices :
    (∃ (s : State) (a : Fin 36), s.fastRuns a = true ∧ s.flag (F.ACQ_ADC_MAP_SPARE a) = false) ∧
    (∃ (s : State) (a : Fin 36) (mad : Nat), s.flag (F.ACQ_ADC_MAP_SPARE a) = true ∧ mad ≤ s.rd F.ACQ_SLICE_CTRL_THR) ∧
    (∃ (s : State) (a : Fin 36), s.fastRuns a = false) ∧
    (∃ (s : State) (a : Fin 36) (k : Fin 8), (s.acq.adcs[a]).granted = some k) ∧
    (∃ (s : State) (i : Fin 52), s.flag (F.ACQ_IN_CTRL_AGC i) = true ∧ s.flag (F.ACQ_IN_CTRL_EN i) = true ∧ 4 ≤ i.val % 13 ∧
      s.agcFrozen i = false ∧ s.adcRuns i = true) ∧
    (∃ (s : State) (i : Fin 52), s.agcFrozen i = true) :=
  ⟨⟨((fld [(F.ACQ_IN_CTRL_EN 51, 1)]).modAdc 35 (fun c => { c with shadow := 7, suspect := 0x80 })), 35, by decide +kernel⟩,
   ⟨(fld [(F.ACQ_ADC_MAP_SPARE 35, 1)]), 35, 3, by decide +kernel⟩,
   ⟨State.reset, 35, by decide +kernel⟩,
   ⟨(State.reset.modAdc 35 (fun c => { c with granted := some 7 })), 35, 7, by decide +kernel⟩,
   ⟨(fld [(F.ACQ_IN_CTRL_AGC 4,1),(F.ACQ_IN_CTRL_EN 4,1),(F.ACQ_IN_CTRL_GAIN 4,48)]), 4, by decide +kernel⟩,
   ⟨defective, 5, by decide +kernel⟩⟩

theorem witness_WriteGates :
    (∃ (s : State) (i : Entry) (now : Angle) (b : Beam) (w : WBlk), s.Fires i now 1 ∧ s.GateOn i b w ∧ s.opcDue w.zl (beamHead b) =
      false ∧ w.lba ∈ s.tsk.fetched ∧ s.gateOk b = true ∧ s.slotShut b w.zl s.ang.entries[i] = false ∧ s.anyPoisoned (slotOf w) 32768
      = false) ∧
    (∃ (s : State) (i : Entry) (now : Angle) (b : Beam) (w : WBlk), s.Fires i now 1 ∧ s.GateOn i b w ∧ s.opcDue w.zl (beamHead b) =
      false ∧ w.kind = .home ∧ (s.wrp.beams[b]).gate = none) ∧
    (∃ (s : State) (i : Entry) (now : Angle) (b : Beam) (w : WBlk), s.Fires i now 2 ∧ (s.ang.entries[i]).arg.toNat = b.val ∧
      (s.wrp.beams[b]).gate = some w ∧ (s.wrp.beams[b]).gateAt ≠ (s.ang.entries[i]).target) ∧
    (∃ (s : State) (i : Entry) (now : Angle) (b : Beam) (w : WBlk), s.Fires i now 2 ∧ (s.ang.entries[i]).arg.toNat = b.val ∧
      (s.wrp.beams[b]).gate = some w ∧ (s.wrp.beams[b]).gateAt = (s.ang.entries[i]).target) ∧
    (∃ (s : State) (i : Entry) (now : Angle) (c : Chan) (k : BitVec 4), s.Fires i now 3 ∧ (s.ang.entries[i]).arg.toNat / 256 = c.val ∧
      (s.ang.entries[i]).arg.toNat % 16 = k.toNat ∧ ((k < 8 ∧ k ≠ 4) ∨ k = 15) ∧ (s.fired i now).hfDark c = false) ∧
    (∃ (s : State) (i : Entry) (now : Angle) (c : Chan) (k : BitVec 4), s.Fires i now 3 ∧ (s.ang.entries[i]).arg.toNat / 256 = c.val ∧
      (s.ang.entries[i]).arg.toNat % 16 = k.toNat ∧ ((k < 8 ∧ k ≠ 4) ∨ k = 15) ∧ (s.fired i now).hfDark c = true) ∧
    (∃ (s : State) (c : Chan) (k : BitVec 4), (c.val % 5 = 0 ∨ ((s.wrp.beams[chanBeam c]).gate = none ∧ s.gateNear (chanBeam c) =
      false)) ∧ s.wrp.lpower[c] = some k) :=
  ⟨⟨gateState, 3, 0x10, 15, homeBlk, by constructor <;> decide +kernel, ⟨by decide +kernel, by decide +kernel, by decide +kernel, by
     decide +kernel⟩, by decide +kernel⟩,
   ⟨openState, 3, 0x10, 15, homeBlk, by constructor <;> decide +kernel, ⟨by decide +kernel, by decide +kernel, by decide +kernel, by
     decide +kernel⟩, by decide +kernel⟩,
   ⟨closeState, 3, 0x10, 15, homeBlk, by constructor <;> decide +kernel, by decide +kernel⟩,
   ⟨(closeState.modW 15 (fun x => { x with gateAt := 0x10 })), 3, 0x10, 15, homeBlk, by constructor <;> decide +kernel,
     by decide +kernel⟩,
   ⟨(armedEntry 3 0x130F), 3, 0x10, 19, 15, by constructor <;> decide +kernel, by decide +kernel⟩,
   ⟨(hfState (armedEntry 3 0x1303)), 3, 0x10, 19, 3, by constructor <;> decide +kernel, by decide +kernel⟩,
   ⟨(hfState State.reset), 19, 15, by decide +kernel⟩⟩

theorem witness_LaserChannels :
    (∃ (s : State) (h : Head) (mv : Nat), s.rd (F.LDD_COMPL_VLD (sChan h)) < s.rd (F.LDD_COMPL_UP (sChan h)) ∧ s.rd (F.LDD_COMPL_UP
      (sChan h)) * 100 ≤ mv ∧ s.rd (F.LDD_COMPL_DN (sChan h)) * 100 ≤ mv) ∧
    (∃ (s : State) (h : Head) (mv : Nat), mv < s.rd (F.LDD_COMPL_DN (sChan h)) * 100 ∧ (∀ b : Beam, (s.wrp.beams[b]).gate = none)) ∧
    (∃ (s : State) (c : Chan) (w : WBlk), s.chanOn c = false ∧ c.val % 5 ≠ 0 ∧ (s.wrp.beams[chanBeam c]).gate = some w ∧ w.kind =
      .home) ∧
    (∃ (s : State) (c : Chan), c.val % 5 ≠ 0 ∧ (s.wrp.beams[chanBeam c]).gate = none ∧ s.worksOn (chanHead c) = false) ∧
    (∃ (s : State), s.owned = false) ∧
    (∃ (s : State) (h : Head) (v : Word), s.reg (Reg.LDD_STAT (sChan h)) &&& ~~~v &&& 0xE = 0) :=
  ⟨⟨(fld [(F.LDD_COMPL_VLD 15, 0),(F.LDD_COMPL_UP 15, 70),(F.LDD_COMPL_DN 15, 60)]), 3, 7000, by decide +kernel⟩,
   ⟨(fld [(F.LDD_COMPL_DN 15, 60)]), 3, 5999, by decide +kernel⟩,
   ⟨closeState, 19, homeBlk, by decide +kernel⟩,
   ⟨State.reset, 19, by decide +kernel⟩,
   ⟨State.reset, by decide +kernel⟩,
   ⟨(fld [(F.LDD_STAT_HOT 15,1)]), 3, 0xE, by decide +kernel⟩⟩

theorem witness_VerifyDecisions :
    (∃ (s : State) (b : Beam) (sync body : List Bool) (w : WBlk) (r : List WBlk), s.ReadsGood b w (sync ++ body) ∧
      (s.wrp.beams[b]).vfy = w :: r ∧ s.vfyOn b = true ∧ s.vfySampled b = true ∧ w.kind = .home ∧ s.inTask w.lba = false) ∧
    (∃ (s : State) (b : Beam) (sync body : List Bool) (w : WBlk) (r : List WBlk) (i : Nat), s.ReadsGood b w (sync ++ body) ∧
      (s.wrp.beams[b]).vfy = w :: r ∧ s.vfyOn b = true ∧ s.vfySampled b = true ∧ w.kind = .repl i ∧ s.inTask w.lba = false ∧ (∀ h :
      Head, s.wrp.pass[h] ≠ some w.zl)) ∧
    (∃ (s : State) (b : Beam) (sync body : List Bool) (w : WBlk) (r : List WBlk), (s.wrp.beams[b]).vfy = w :: r ∧ s.vfyOn b = true ∧
      s.vfySampled b = true ∧ w.kind = .home ∧ s.rd (F.VFY_B_THR_TOTAL b) ≤ (mismatches w.bits (sync ++ body)).length) ∧
    (∃ (s : State) (b : Beam) (w : WBlk) (r : List WBlk), (s.wrp.beams[b]).vfy = w :: r ∧ s.vfyOn b = true ∧ s.vfySampled b = false ∧
      w.kind = .home) ∧
    (∃ (s : State) (b : Beam), s.vfyOn b = false) :=
  ⟨⟨(vfyState homeBlk 1), 15, ((seen homeBlk).take 72), ((seen homeBlk).drop 72), homeBlk, [homeBlk], seen_good (by decide +kernel)
     (by decide +kernel) (by decide +kernel), by decide +kernel⟩,
   ⟨(vfyState replBlk 1), 15, ((seen replBlk).take 72), ((seen replBlk).drop 72), replBlk, [homeBlk], 3, seen_good (by decide +kernel)
     (by decide +kernel) (by decide +kernel), by decide +kernel⟩,
   ⟨(vfyState homeBlk 0), 15, [], [], homeBlk, [homeBlk], by decide +kernel⟩,
   ⟨((vfyState homeBlk 0).put (F.ACQ_PLL_STAT_RATEERR 3) true), 15, homeBlk, [homeBlk], by decide +kernel⟩,
   ⟨State.reset, 15, by decide +kernel⟩⟩

theorem witness_SparesRecordsAndRebuild :
    (∃ (s : State) (h : Head), s.wrp.pass[h] = none ∧ s.passDue h (s.headZL h) = true ∧ s.zlReady (s.headZL h) = true ∧ s.nextFree
      (s.headZL h) < spares (s.headZL h)) ∧
    (∃ (s : State) (h : Head), s.wrp.pass[h] = none ∧ s.passDue h (s.headZL h) = true ∧ s.zlReady (s.headZL h) = false ∧ s.headZL h ∈
      s.disc.rebuild) ∧
    (∃ (s : State) (i : Entry) (now : Angle) (b : Beam) (q : RqBlk) (r : List RqBlk) (zl k : Nat), s.Fires i now 1 ∧
      (s.ang.entries[i]).arg.toNat = b.val ∧ s.rd (F.DET_CTRL_MODE b) = s.rd (F.DET_STAT_MODE b) ∧ zl < 320 ∧ s.wrp.pass[beamHead b] =
      some zl ∧ s.opcDue zl (beamHead b) = false ∧ s.queue zl = q :: r ∧ spareNamed zl (s.nextFree zl) b (slotNamed (zl % 20)
      (s.ang.entries[i]).target.toNat (s.ang.entries[i]).frac.toNat) = some k ∧ k + 1 < spares zl ∧ q.lba ∈ s.tsk.fetched ∧ s.gateOk b
      = true ∧ s.slotShut b zl s.ang.entries[i] = false ∧ s.anyPoisoned (streamAddr (homeBeam q.lba) q.lba) 32768 = false) ∧
    (∃ (s : State) (h : Head), s.opcDue (s.headZL h) h = true ∧ s.zlReady (s.headZL h) = true ∧ (s.nextFree (s.headZL h) + 3) / 4 * 4
      + 32 ≤ spares (s.headZL h)) ∧
    (∃ (s : State) (h : Head), s.opcDue (s.headZL h) h = true ∧ s.zlReady (s.headZL h) = false) ∧
    (∃ (s : State) (verify : List MgmtVerify), s.flag F.TSK_DISC_LOADED = true ∧ 4096 ≤ s.disc.added ∧ (s.recordEvent false verify).1
      = true) ∧
    (∃ (s : State) (verify : List MgmtVerify), s.flag F.TSK_DISC_LOADED = true ∧ 4096 ≤ s.disc.added ∧ (s.recordEvent false verify).1
      = false ∧ s.taskRunning = false) ∧
    (∃ (s : State) (h : Head) (zl : Nat), s.rebuildNext h = some zl) ∧
    (∃ (s : State) (zl : ZoneLayer), s.flag F.TSK_DISC_LOADED = true ∧ zl.val ∉ s.disc.rebuild ∧ s.zlReady zl.val = false ∧ (∀ k ∈
      s.rcv.blks, k.phase ≠ .waiting ∧ k.phase ≠ .outside)) :=
  ⟨⟨(passState readyState), 0, by decide +kernel⟩,
   ⟨(passState State.reset), 0, by decide +kernel⟩,
   ⟨passGate, 3, 0x10, 15, ⟨3, 1⟩, [], 0, 3, by constructor <;> decide +kernel, by decide +kernel⟩,
   ⟨(fld [(F.VFY_OPC_CFG_EN,1)] readyState), 0, by decide +kernel⟩,
   ⟨(fld [(F.VFY_OPC_CFG_EN,1)]), 0, by decide +kernel⟩,
   ⟨(recState 0), [], by decide +kernel⟩,
   ⟨(recState 704), [], by decide +kernel⟩,
   ⟨scanState, 0, 1, by decide +kernel⟩,
   ⟨(fld [(F.TSK_DISC_LOADED,1)]), 319, by decide +kernel⟩⟩

theorem witness_CaptureRuns :
    (∃ (s : State) (i : Entry) (now : Angle) (b : Beam), s.Fires i now 4 ∧ (s.ang.entries[i]).arg.toNat = b.val ∧ (s.det[b]).run =
      none ∧ s.rd (F.DET_CTRL_MODE b) % 2 = 1 ∧ s.flag F.DET_GCTRL_EN = true ∧ s.sampling b = true) ∧
    (∃ (s : State) (i : Entry) (now : Angle) (b : Beam), s.Fires i now 4 ∧ (s.ang.entries[i]).arg.toNat = b.val ∧ s.rd
      (F.DET_CTRL_MODE b) = s.rd (F.DET_STAT_MODE b) ∧ ((s.det[b]).run.isSome = true ∨ s.flag F.DET_GCTRL_EN = false ∨ s.sampling b =
      false)) ∧
    (∃ (s : State) (b : Beam), (s.det[b]).run = none) ∧
    (∃ (s : State) (b : Beam) (r : DetRun), (s.det[b]).run = some r ∧ (s.det[b]).cap = none) ∧
    (∃ (s : State) (b : Beam) (r : DetRun) (c : Capture), (s.det[b]).run = some r ∧ (s.det[b]).cap = some c ∧ s.rd (F.DET_STAT_MODE b)
      = 3 ∧ c.eqset ≠ 0 ∧ c.rlvl = none) ∧
    (∃ (s : State) (b : Beam), s.rd (F.DET_CTRL_MODE b) = s.rd (F.DET_STAT_MODE b) ∧ (s.det[b]).run = none) ∧
    (∃ (s : State) (b : Beam) (r : DetRun) (k : RBlk) (i : Fin 6), (s.det[b]).run = some r ∧ (s.det[b]).cap = none ∧
      (s.det[b]).bufs[i] = none ∧ s.rd (F.DET_CTRL_MODE b) = s.rd (F.DET_STAT_MODE b) ∧ s.slotBlk b r = some k) ∧
    (∃ (s : State) (b : Beam) (r : DetRun), (s.det[b]).run = some r ∧ (s.det[b]).cap = none ∧ s.rd (F.DET_CTRL_MODE b) = s.rd
      (F.DET_STAT_MODE b) ∧ s.slotBlk b r = none ∧ (∃ i : Fin 6, (s.det[b]).bufs[i] = none)) ∧
    (∃ (s : State) (b : Beam) (r : DetRun), (s.det[b]).run = some r ∧ (s.det[b]).cap = none ∧ s.rd (F.DET_CTRL_MODE b) = 3 ∧ s.rd
      (F.DET_STAT_MODE b) = 3 ∧ (∀ i : Fin 6, ((s.det[b]).bufs[i]).isSome = true)) :=
  ⟨⟨(capState 1), 3, 0x10, 15, by constructor <;> decide +kernel, by decide +kernel⟩,
   ⟨(fld [(F.DET_STAT_MODE 15, 3)] (capState 0)), 3, 0x10, 15, by constructor <;> decide +kernel, by decide +kernel⟩,
   ⟨State.reset, 15, by decide +kernel⟩,
   ⟨(detState none), 15, run1, by decide +kernel⟩,
   ⟨(scanning (some { cap1 with eqset := 1 })), 15, run1, { cap1 with eqset := 1 }, by decide +kernel⟩,
   ⟨State.reset, 15, by decide +kernel⟩,
   ⟨(detState none), 15, run1, { lba := 40, beam := 15 }, 5, by decide +kernel⟩,
   ⟨((detState none).setRetry 3 (some { layer := 0, band := 0, revs := 0, ofs := 0, resLayer := 0, resBand := 0 })), 15, run1,
     by decide +kernel⟩,
   ⟨(full (scanning none)), 15, run1, by decide +kernel⟩⟩

theorem witness_SlotDecisions :
    (∃ (s : State) (b : Beam) (cands : List SyncCand) (r : DetRun) (c : Capture) (q : SyncCand), (s.det[b]).run = some r ∧
      (s.det[b]).cap = some c ∧ c.sync = none ∧ bestSync c.win (s.rd (F.DET_SYNC_CFG_MAXD b)) cands = some q) ∧
    (∃ (s : State) (b : Beam) (cells : List Int) (r : DetRun) (c : Capture) (w : Dword), (s.det[b]).run = some r ∧ (s.det[b]).cap =
      some c ∧ c.sync.isSome = true ∧ c.header = none ∧ headerDecode (s.rd (F.DET_HDR_CFG_AMB b)) cells = some w ∧ headerAccept
      (s.detScans b r) r.spare r.lba r.zl w = true) ∧
    (∃ (s : State) (b : Beam) (low back e f : Nat) (c : Capture), s.DipsBelow b c e ∧ s.WithinLimits b c f ∧ (s.det[b]).cap = some c ∧
      0 < s.rd (F.DET_DEF_PROFILE_PERS c.elvl) ∧ s.rd (F.DET_DEF_PROFILE_PERS c.elvl) ≤ low ∧ s.rd (F.DET_DEF_PROFILE_PERS c.elvl) ≤
      back) ∧
    (∃ (s : State) (b : Beam) (f : Nat) (c : Capture), s.WithinLimits b c f ∧ (s.det[b]).cap = some c) ∧
    (∃ (s : State) (b : Beam) (r : DetRun) (c : Capture) (k : RBlk), (s.det[b]).run = some r ∧ (s.det[b]).cap = some c ∧
      c.header.isSome = true ∧ c.serves = true ∧ (erasedCounts (erasedGroups c.marks)).foldl max 0 ≤ s.rd F.DET_ERASE_MAX_MAX ∧
      s.detScans b r = false ∧ c.repass = false ∧ c.rlvl = none ∧ s.expectBlk b r = some k) :=
  ⟨⟨(detState (some cap1)), 15, [⟨24, 3⟩, ⟨-24, 3⟩], run1, cap1, ⟨-24, 3⟩, by decide +kernel⟩,
   ⟨(fld [(F.DET_STAT_MODE 15,1)] (detState (some { cap1 with sync := some (0,0) }))), 15, hdrCells, run1,
     { cap1 with sync := some (0,0) }, hdrW, by decide +kernel⟩,
   ⟨dip, 15, 5, 3, 49, 50, cap1, by unfold State.DipsBelow; decide +kernel, by unfold State.WithinLimits; decide +kernel,
     by decide +kernel⟩,
   ⟨dip, 15, 50, cap1, by unfold State.WithinLimits; decide +kernel, by decide +kernel⟩,
   ⟨(fld [(F.DET_STAT_MODE 15,1)] (detState (some { cap1 with sync := some (0,0), header := some hdrW, serves := true }))), 15, run1,
     { cap1 with sync := some (0,0), header := some hdrW, serves := true }, { lba := 40, beam := 15 }, by decide +kernel⟩⟩

theorem witness_DecoderLanes :
    (∃ (s : State) (l : DecLane) (us : Nat) (e : DecBlk) (fromR : Bool), s.laneFree l = true ∧ s.laneBefore l us = false ∧ s.nextBlk l
      us = some (e, fromR)) ∧
    (∃ (s : State) (l : DecLane) (e : DecBlk), (s.dec.lanes[l]).cur = some e ∧ (s.dec.lanes[l]).outReq = false ∧ s.dec.clt[l] = none ∧
      (e.kat.isSome = true ∨ s.sramBad 5 (6 * e.cap.val + e.buf.val) = false)) ∧
    (∃ (s : State) (l : DecLane) (e : DecBlk), (s.dec.lanes[l]).cur = some e ∧ (s.dec.lanes[l]).outReq = false ∧ s.dec.clt[l] = none ∧
      e.kat = none ∧ s.sramBad 5 (6 * e.cap.val + e.buf.val) = true ∧ e.conv ≠ 0xFF) ∧
    (∃ (s : State) (l : DecLane) (r : DecRes), (s.reg Reg.DEC_CLT_PTR).toNat = l.val ∧ s.dec.clt[l] = some r ∧ r.blk.kat = none ∧
      s.rblk r.blk.lba = none) ∧
    (∃ (s : State) (l : DecLane), s.laneIn l = true) ∧
    (∃ (s : State) (l : DecLane) (e : DecBlk), (s.dec.lanes[l]).cur = some e ∧ (s.dec.lanes[l]).held = none) :=
  ⟨⟨laneState, 17, 0, blk1, false, by decide +kernel⟩,
   ⟨busyState, 17, blk1, by decide +kernel⟩,
   ⟨(poisoned busyState), 17, blk1, by decide +kernel⟩,
   ⟨cltState, 17, res1, by decide +kernel⟩,
   ⟨laneState, 17, by decide +kernel⟩,
   ⟨busyState, 17, blk1, by decide +kernel⟩⟩

theorem witness_ServoCommands :
    (∃ (s : State) (l : Fin 5), s.spareGood = true ∧ s.flag F.SRV_SPARE_CFG_EN = true ∧ (s.reg Reg.SRV_LANES).getLsbD (8 + l.val) =
      true ∧ 65536 ≤ s.srv.shadowN) ∧
    (∃ (s : State), s.srv.shadowN < 65536) :=
  ⟨⟨{ (fld [(F.SRV_SPARE_CFG_EN,1)] (mk [(Reg.SRV_LANES, 0x1F04)])) with srv := { State.reset.srv with shadowN := 65536 } }, 4,
     by decide +kernel⟩,
   ⟨State.reset, by decide +kernel⟩⟩

theorem witness_LoopCommands :
    (∃ (s : State) (h : Head), s.lsvRefusal h 1 0 = none ∧ (s.sup h).st ≠ 6 ∧ s.sldRefusal (corrector h) 1 (s.flag (F.SLD_STAT_BUSY
      (corrector h))) = none ∧ s.bridges = true) ∧
    (∃ (s : State) (h : Head), s.quiet h ∧ s.lsvRefusal h 2 0 = none ∧ s.rd (F.LSV_H_TGT_LAYER h) ≠ s.rd (F.ANG_HPOS_LAYER h) ∧
      s.sldRefusal (corrector h) 1 (s.flag (F.SLD_STAT_BUSY (corrector h))) = none ∧ s.bridges = true) ∧
    (∃ (s : State) (h : Head) (d : BitVec 16), s.lsvRefusal h 3 d.toInt = none ∧ s.flag (F.LSV_H_JANG_NOW h) = false) ∧
    (∃ (s : State) (h : Head), s.lsvRefusal h 4 0 = none ∧ s.rd (F.ANG_HPOS_LAYER h) = s.rd (F.LSV_H_TGT_LAYER h) ∧ s.isJump h (s.rd
      (F.LSV_H_TGT_BAND h) - s.headBand h) = true ∧ s.flag (F.LSV_H_JANG_NOW h) = false) ∧
    (∃ (s : State) (h : Head), s.quiet h ∧ s.lsvRefusal h 5 0 = none) ∧
    (∃ (s : State) (h : Head), s.lsvRefusal h 6 0 = none) :=
  ⟨⟨lsvBase, 3, by decide +kernel⟩,
   ⟨(lsvAt 6), 3, by unfold State.quiet; decide +kernel, by decide +kernel⟩,
   ⟨(lsvAt 6), 3, 15, by decide +kernel⟩,
   ⟨((lsvAt 6).wr (F.LSV_H_TGT_LAYER 3) 8), 3, by decide +kernel⟩,
   ⟨(lsvAt 6), 3, by unfold State.quiet; decide +kernel, by decide +kernel⟩,
   ⟨((lsvAt 4).put (F.LSV_H_STAT_BUSY 3) true), 3, by decide +kernel⟩⟩

theorem witness_LoopStages :
    (∃ (s : State) (h : Head) (f : Fin 8192), s.quiet h ∧ s.owned = true ∧ (s.sup h).st = 6 ∧ (s.sup h).launch = true ∧ f.val = s.rd
      (F.LSV_H_JANG_FRAME h)) ∧
    (∃ (s : State) (h : Head), s.owned = true ∧ (s.sup h).st = 7 ∧ (((s.sup h).ph = .kick ∧ s.rd (F.LSV_H_KICK_KN h) ≤ (s.sup h).kn) ∨
      ((s.sup h).ph = .brake ∧ s.rd (F.LSV_H_KICK_BN h) ≤ (s.sup h).kn))) ∧
    (∃ (s : State) (h : Head), s.owned = true ∧ (s.sup h).st = 8 ∧ (((s.sup h).ph = .kick ∧ s.rd (F.LSV_H_TKICK_TN h) ≤ (s.sup h).kn)
      ∨ ((s.sup h).ph = .brake ∧ s.rd (F.LSV_H_TKICK_TBN h) ≤ (s.sup h).kn))) ∧
    (∃ (s : State) (h : Head), s.owned = true ∧ (s.sup h).st = 3 ∧ (s.sup h).n = 1024 ∧ (s.sup h).op ≠ .none) ∧
    (∃ (s : State) (h : Head), s.owned = true ∧ (s.sup h).st = 4 ∧ 16384 ≤ (s.sup h).smp ∧ (s.sup h).op ≠ .none ∧ (s.sup h).inner =
      .acquire ∧ (s.sup h).tries + 1 < s.rd (F.LSV_H_FSRCH_TRIES h)) ∧
    (∃ (s : State) (h : Head), s.owned = true ∧ (s.sup h).st = 7 ∧ 64 * s.rd (F.LSV_H_KICK_TO h) ≤ (s.sup h).smp ∧ (s.sup h).op ≠
      .none ∧ (s.sup h).search = false) ∧
    (∃ (s : State) (h : Head), s.owned = true ∧ s.seeks h = true ∧ s.flag (F.SLD_STAT_BUSY (headSled h)) = false ∧ 64 * s.rd
      (F.LSV_S_SEEKCFG_SETTLE (headSled h)) ≤ (s.sup h).smp) ∧
    (∃ (s : State) (h : Head), (s.sup h).st = 7 ∧ (s.sup h).ph = .kick ∧ (s.sup h).kn < s.rd (F.LSV_H_KICK_KN h)) ∧
    (∃ (s : State) (h : Head), (s.sup h).n < 1024) ∧
    (∃ (s : State) (h : Head), (s.sup h).smp < 16384) ∧
    (∃ (s : State) (h : Head), (s.sup h).smp < 64 * s.rd (F.LSV_H_KICK_TO h)) ∧
    (∃ (s : State), s.owned = false) :=
  ⟨⟨(lsvAt 6 (fun l => { l with launch := true, delta := -3 }) (fld [(F.LSV_H_JANG_FRAME 3, 8191)] lsvBase)), 3, 8191,
     by unfold State.quiet; decide +kernel, by decide +kernel⟩,
   ⟨(lsvAt 7 (fun l => { l with ph := .kick, kn := 255, held := [-5,1,2] })), 3, by decide +kernel⟩,
   ⟨(lsvAt 8 (fun l => { l with ph := .brake, kn := 255, held := [-5,1,2] })), 3, by decide +kernel⟩,
   ⟨(lsvAt 3 (fun l => { l with acc := -10, n := 1024, op := .acquire })), 3, by decide +kernel⟩,
   ⟨(lsvAt 4 (fun l => { l with inner := .acquire, op := .acquire, tries := 1, smp := 16384 })), 3, by decide +kernel⟩,
   ⟨(lsvAt 7 (fun l => { l with smp := 16384, op := .layer })), 3, by decide +kernel⟩,
   ⟨((lsvAt 9 (fun l => { l with op := .seek, inner := .seek, smp := 65535 })).modLsv 2 (fun l =>
     { l with st := 9, op := .carried })), 3, by decide +kernel⟩,
   ⟨(lsvAt 7 (fun l => { l with ph := .kick }) (fld [(F.LSV_H_KICK_KN 3, 1)])), 3, by decide +kernel⟩,
   ⟨(lsvAt 3 (fun l => { l with n := 1023 })), 3, by decide +kernel⟩,
   ⟨(lsvAt 4 (fun l => { l with smp := 16383 })), 3, by decide +kernel⟩,
   ⟨(lsvAt 7 (fun l => { l with smp := 63 }) (fld [(F.LSV_H_KICK_TO 3, 1)])), 3, by decide +kernel⟩,
   ⟨(lsvAt 7 id State.reset), by decide +kernel⟩⟩

theorem witness_LossesAreRecovered :
    (∃ (s : State) (h : Head), s.quiet h ∧ s.owned = true ∧ s.flag (F.LSV_H_STAT_FOC h) = true ∧ s.rd (F.LSV_H_LOSS_FLN h) ≤ (s.sup
      h).low ∧ (s.sup h).st = 6 ∧ s.rd (F.LSV_H_LOSS_FRETRY h) ≠ 0 ∧ s.sldRefusal (corrector h) 1 (s.flag (F.SLD_STAT_BUSY (corrector
      h))) = none ∧ s.bridges = true) ∧
    (∃ (s : State) (h : Head), s.quiet h ∧ s.owned = true ∧ s.flag (F.LSV_H_STAT_TRK h) = true ∧ 16 * s.rd (F.LSV_H_LOSS_TLN h) ≤
      (s.sup h).clip ∧ (s.flag (F.LSV_H_STAT_FOC h) = false ∨ (s.sup h).low < s.rd (F.LSV_H_LOSS_FLN h)) ∧ (s.sup h).st = 6 ∧ s.rd
      (F.LSV_H_LOSS_FRETRY h) ≠ 0 ∧ s.sldRefusal (corrector h) 1 (s.flag (F.SLD_STAT_BUSY (corrector h))) = none ∧ s.bridges = true) ∧
    (∃ (s : State) (h : Head), s.flag (F.LSV_H_STAT_FOC h) = true ∧ s.rd (F.LSV_H_LOSS_FLN h) ≤ (s.sup h).low ∧ s.flag
      (F.LSV_H_STAT_TRK h) = true ∧ 16 * s.rd (F.LSV_H_LOSS_TLN h) ≤ (s.sup h).clip) ∧
    (∃ (s : State) (h : Head), s.owned = false ∧ s.flag (F.LSV_H_STAT_FOC h) = true ∧ s.rd (F.LSV_H_LOSS_FLN h) ≤ (s.sup h).low) ∧
    (∃ (s : State) (h : Head), s.owned = false ∧ s.flag (F.LSV_H_STAT_TRK h) = true ∧ 16 * s.rd (F.LSV_H_LOSS_TLN h) ≤ (s.sup h).clip
      ∧ (s.flag (F.LSV_H_STAT_FOC h) = false ∨ (s.sup h).low < s.rd (F.LSV_H_LOSS_FLN h))) ∧
    (∃ (s : State) (h : Head), (s.flag (F.LSV_H_STAT_FOC h) = false ∨ (s.sup h).low < s.rd (F.LSV_H_LOSS_FLN h))) ∧
    (∃ (s : State) (h : Head), (s.flag (F.LSV_H_STAT_TRK h) = false ∨ (s.sup h).clip < 16 * s.rd (F.LSV_H_LOSS_TLN h))) :=
  ⟨⟨(lsvAt 6 (fun l => { l with low := 255 }) (fld [(F.LSV_H_STAT_FOC 3,1)] lsvBase)), 3, by unfold State.quiet; decide +kernel,
     by decide +kernel⟩,
   ⟨(lsvAt 6 (fun l => { l with clip := 4080 }) (fld [(F.LSV_H_STAT_TRK 3,1),(F.LSV_H_STAT_FOC 3,1),(F.LSV_H_LOSS_FLN 3,1)] lsvBase)),
     3, by unfold State.quiet; decide +kernel, by decide +kernel⟩,
   ⟨(lsvAt 6 (fun l => { l with low := 255, clip := 4080 }) (fld [(F.LSV_H_STAT_TRK 3,1),(F.LSV_H_STAT_FOC 3,1)] lsvBase)), 3,
     by decide +kernel⟩,
   ⟨(lsvAt 6 (fun l => { l with low := 255 }) (fld [(F.LSV_H_STAT_FOC 3,1)])), 3, by decide +kernel⟩,
   ⟨(lsvAt 6 (fun l => { l with clip := 4080 }) (fld [(F.LSV_H_STAT_TRK 3,1)])), 3, by decide +kernel⟩,
   ⟨(lsvAt 6 id (fld [(F.LSV_H_STAT_FOC 3,1),(F.LSV_H_LOSS_FLN 3, 1)])), 3, by decide +kernel⟩,
   ⟨(lsvAt 6 id (fld [(F.LSV_H_STAT_TRK 3,1),(F.LSV_H_LOSS_TLN 3, 1)])), 3, by decide +kernel⟩⟩

theorem witness_SpindleCommands :
    (∃ (s : State), s.spnRefusal 1 = none ∧ s.spnState = 0) ∧
    (∃ (s : State), s.spnRefusal 1 = none ∧ s.spnState ≠ 0) ∧
    (∃ (s : State), s.spnRefusal 2 = none ∧ s.spnLoops = true) ∧
    (∃ (s : State), s.spnRefusal 3 = none) ∧
    (∃ (s : State), s.spnRefusal 4 = none ∧ s.spnState ≠ 0 ∧ s.spnState ≠ 9) ∧
    (∃ (s : State), s.spnRefusal 5 = none) ∧
    (∃ (s : State), s.spnRefusal 6 = none) :=
  ⟨⟨spnBase, by decide +kernel⟩,
   ⟨(spnAt 4), by decide +kernel⟩,
   ⟨(spnAt 5), by decide +kernel⟩,
   ⟨(spnAt 4), by decide +kernel⟩,
   ⟨(spnAt 4 (fun p => { p with cmd := 1 })), by decide +kernel⟩,
   ⟨(spnAt 4), by decide +kernel⟩,
   ⟨(spnAt 8), by decide +kernel⟩⟩

theorem witness_SpindleProgress :
    (∃ (s : State), s.spnState = 2) ∧
    (∃ (s : State), s.spnState = 3) ∧
    (∃ (s : State), s.spnState = 3 ∧ s.spn.starts < 3) ∧
    (∃ (s : State), s.spnState = 3 ∧ 3 ≤ s.spn.starts ∧ s.taskRunning = false) ∧
    (∃ (s : State), s.spnState = 4 ∧ s.spn.cmd = 1) ∧
    (∃ (s : State), s.spnState = 1 ∧ s.spn.again = false) ∧
    (∃ (s : State), s.spnState = 7 ∧ s.spn.drive ≤ 1 ∧ s.spn.driven = 0 ∧ s.spn.zvBrake = false ∧ s.spnCauses = 0) ∧
    (∃ (s : State), s.spnState = 7 ∧ s.spn.driven ≠ 0) ∧
    (∃ (s : State) (mv : Nat), s.spnState = 7 ∧ s.rd F.SPN_VWATCH_ON * 100 < mv ∧ s.flag F.SPN_STAT_WATCH = false) ∧
    (∃ (s : State) (mv : Nat), mv < s.rd F.SPN_VWATCH_OFF * 100) :=
  ⟨⟨(spnAt 2), by decide +kernel⟩,
   ⟨(spnAt 3), by decide +kernel⟩,
   ⟨(spnAt 3 (fun p => { p with starts := 2, cmd := 1 })), by decide +kernel⟩,
   ⟨(spnAt 3 (fun p => { p with starts := 3, cmd := 1 })), by decide +kernel⟩,
   ⟨(spnAt 4 (fun p => { p with cmd := 1 })), by decide +kernel⟩,
   ⟨(spnAt 1 (fun p => { p with cmd := 2 })), by decide +kernel⟩,
   ⟨(spnAt 7 (fun p => { p with drive := 1, cmd := 2 })), by decide +kernel⟩,
   ⟨(spnAt 7 (fun p => { p with driven := 1 })), by decide +kernel⟩,
   ⟨(spnAt 7 id (fld [(F.SPN_VWATCH_ON, 140)])), 14001, by decide +kernel⟩,
   ⟨(spnAt 7 (fun p => { p with zvBrake := true }) (fld [(F.SPN_VWATCH_OFF, 130),(F.SPN_STAT_WATCH,1)])), 12999, by decide +kernel⟩⟩

theorem witness_SpindleFaults :
    (∃ (s : State) (cause : SpnCause) (tr : List Word), s.taskRunning = false ∧ s.spn.cmd ≠ 0 ∧ cause ≠ .estl ∧ cause ≠ .spde ∧
      s.spnFaultable cause = true ∧ tr.length = 32) ∧
    (∃ (s : State) (v : Word), s.spnState = 9 ∧ (s.reg Reg.SPN_STAT &&& ~~~v).toNat % 128 = 0) ∧
    (∃ (mv : Nat), 10200 ≤ mv) ∧
    (∃ (s : State) (mv : Nat), mv < 9600 ∧ s.stageOn = true ∧ (∀ b : Beam, (s.wrp.beams[b]).gate = none) ∧ (∀ n : Stepper, s.flag
      (F.SLD_STAT_BUSY n) = false) ∧ s.taskRunning = false ∧ s.spnState = 4) :=
  ⟨⟨(spnAt 4 (fun p => { p with cmd := 1 })), .ovc, ((List.range 32).map (fun k => BitVec.ofNat 32 (0xFFFFFFFF - k))),
     by decide +kernel⟩,
   ⟨(spnAt 9 id (fld [(F.SPN_STAT_OVC, 1)])), 0x7F, by decide +kernel⟩,
   ⟨10200, by decide +kernel⟩,
   ⟨(spnAt 4 id (fld [(F.SLD_STAT_ENERG 5, 1)] spnBase)), 9599, by decide +kernel⟩⟩

theorem witness_StepperCommands :
    (∃ (s : State) (n : Stepper), s.bridges = true ∧ s.sldRefusal n 1 (s.flag (F.SLD_STAT_BUSY n)) = none) ∧
    (∃ (s : State) (n : Stepper), s.bridges = true ∧ s.sldRefusal n 5 (s.flag (F.SLD_STAT_BUSY n)) = none) ∧
    (∃ (s : State) (n : Stepper), s.bridges = true ∧ s.sldRefusal n 6 (s.flag (F.SLD_STAT_BUSY n)) = none) ∧
    (∃ (s : State) (n : Stepper), s.bridges = true ∧ s.sldRefusal n 7 (s.flag (F.SLD_STAT_BUSY n)) = none) ∧
    (∃ (s : State), s.bridges = true) ∧
    (∃ (s : State), s.bridges = true) ∧
    (∃ (s : State) (n : Stepper), s.flag (F.SLD_STAT_BUSY n) = true) ∧
    (∃ (s : State) (n : Stepper), s.sldRefusal n 1 (s.flag (F.SLD_STAT_BUSY n)) = none) ∧
    (∃ (s : State) (i : Entry) (now : Angle) (n : Stepper), s.Fires i now 6 ∧ (s.ang.entries[i]).arg.toNat = n.val ∧ s.flag
      (F.SLD_STAT_ARMED n) = true ∧ s.rd (F.SLD_CMD_OP n) = 1 ∧ s.bridges = true ∧ s.sldRefusal n 1 (s.flag (F.SLD_STAT_BUSY n)) =
      none) :=
  ⟨⟨(sldBase []), 5, by decide +kernel⟩,
   ⟨(sldBase []), 1, by decide +kernel⟩,
   ⟨(sldBase []), 5, by decide +kernel⟩,
   ⟨(sldBase [(F.SLD_STAT_LOST 5,1)]), 5, by decide +kernel⟩,
   ⟨(sldBase [(F.SLD_STAT_BUSY 5,1)]), by decide +kernel⟩,
   ⟨(sldBase [(F.SLD_STAT_BUSY 5,1)]), by decide +kernel⟩,
   ⟨(sldBase [(F.SLD_STAT_BUSY 5,1),(F.SLD_STAT_MODE 5,1)]), 5, by decide +kernel⟩,
   ⟨(sldBase []), 5, by decide +kernel⟩,
   ⟨(sldBase [(F.SLD_STAT_ARMED 5,1),(F.SLD_CMD_OP 5,1)] (armedEntry 6 5)), 3, 0x10, 5, by constructor <;> decide +kernel,
     by decide +kernel⟩⟩

theorem witness_StepperEnds :
    (∃ (s : State) (n : Stepper), s.rd (F.SLD_STAT_MODE n) = 1 ∧ s.flag (F.SLD_STAT_BUSY n) = true ∧ (s.sld[n]).owner = none ∧ s.rd
      (F.SLD_MOTOR_ENCPM n) = 0) ∧
    (∃ (s : State) (n : Stepper) (x : StallIn), s.rd (F.SLD_STAT_MODE n) = 7 ∧ s.stallJudged n x = true ∧ s.flag (F.SLD_STAT_BUSY n) =
      true ∧ (s.sld[n]).owner = none) ∧
    (∃ (s : State) (n : Stepper) (x : StallIn), s.stallMode n ≠ 0 ∧ s.stallMode n ≠ 7 ∧ s.stallJudged n x = true ∧ (s.sld[n]).owner =
      none ∧ s.taskRunning = false) ∧
    (∃ (s : State) (n : Stepper) (x : StallIn), (s.rd (F.SLD_STALL_VSTALL n) = 0 ∨ x.vel < 4096 * s.rd (F.SLD_STALL_VSTALL n))) ∧
    (∃ (s : State) (n : Stepper), s.flag (F.SLD_STAT_ENERG n) = true ∧ s.flag (F.SLD_STAT_BUSY n) = false) ∧
    (∃ (s : State) (n : Stepper), (s.rd (F.SLD_STAT_MODE n) = 3 ∨ s.rd (F.SLD_STAT_MODE n) = 4) ∧ s.flag (F.SLD_STAT_BUSY n) = false) ∧
    (∃ (s : State) (n : Stepper), s.flag (F.SLD_STAT_BUSY n) = true) :=
  ⟨⟨(sldBase [(F.SLD_STAT_MODE 1,1),(F.SLD_STAT_BUSY 1,1)] (mk [(Reg.SLD_TGT 1, 99)])), 1, by decide +kernel⟩,
   ⟨(sldBase [(F.SLD_STAT_MODE 1,7),(F.SLD_STAT_BUSY 1,1),(F.SLD_STAT_LOST 1,1),(F.SLD_STALL_VSTALL 1,1),(F.SLD_STALL_STALLN 1,0)] (mk
     [(Reg.SLD_TGT 1, 99)])), 1, ⟨3, 4096, [], [], 0⟩, by decide +kernel⟩,
   ⟨(sldBase [(F.SLD_STAT_MODE 1,1),(F.SLD_STAT_BUSY 1,1),(F.SLD_STALL_VSTALL 1,255),(F.SLD_STALL_STALLN 1,1),(F.SLD_STALL_LATHR
     1,80)] (mk [(Reg.SLD_TGT 1, 99)])), 1, ⟨3, 1044480, [1,81,81,81,81,81,81,81,81], [], 0⟩, by decide +kernel⟩,
   ⟨(sldBase [(F.SLD_STAT_BUSY 1,1),(F.SLD_STALL_VSTALL 1,0)]), 1, ⟨3, 9, [], [], 0⟩, by decide +kernel⟩,
   ⟨(sldBase [(F.SLD_STAT_ENERG 5,1)]), 5, by decide +kernel⟩,
   ⟨(sldBase [(F.SLD_STAT_MODE 5,4),(F.SLD_STAT_LOST 5,1)]), 5, by decide +kernel⟩,
   ⟨(sldBase [(F.SLD_STAT_BUSY 5,1)]), 5, by decide +kernel⟩⟩

theorem witness_LinkTraining :
    (∃ (s : State) (p : Port), s.flag (F.HLK_P_CTRL_EN (portIdx p)) = true ∧ s.portUp (portIdx p) = false ∧ s.rd (F.HLK_P_STAT_STEP
      (portIdx p)) < 4) ∧
    (∃ (s : State) (p : Port), (s.flag (F.HLK_P_CTRL_EN (portIdx p)) = false ∨ s.portUp (portIdx p) = true)) ∧
    (∃ (s : State) (l : LinkLane), s.training (lanePort l) = true ∧ s.rd (F.HLK_P_STAT_STEP (lanePort l)) ≤ 3 ∧ s.laneFailed l.val =
      false) ∧
    (∃ (s : State) (p : Port), s.training (portIdx p) = true ∧ s.rd (F.HLK_P_STAT_STEP (portIdx p)) = 4 ∧ logical (portIdx p) ≤
      ((portLanes (portIdx p)).filter (fun k => !s.laneFailed k)).length ∧ (s.port (portIdx p)).qc = [] ∧ (s.port (portIdx p)).qd =
      []) ∧
    (∃ (s : State) (p : Port), s.training (portIdx p) = true ∧ s.taskRunning = false) ∧
    (∃ (s : State) (p : Port), s.portUp (portIdx p) = true) :=
  ⟨⟨(fld [(F.HLK_P_CTRL_EN 1, 1), (F.HLK_P_STAT_STEP 1, 3)]), .B, by decide +kernel⟩,
   ⟨State.reset, .B, by decide +kernel⟩,
   ⟨((train 1).wr (F.HLK_L_HLTH_STATE 9) 0), 7, by decide +kernel⟩,
   ⟨(((train 1).wr (F.HLK_P_STAT_STEP 1) 4).modPort 1 (fun q => { q with unack := [(8, flit1)] })), .B, by decide +kernel⟩,
   ⟨(train 1), .B, by decide +kernel⟩,
   ⟨linkUp, .B, by decide +kernel⟩⟩

theorem witness_LinkReplay :
    (∃ (s : State) (p : Port), s.portUp (portIdx p) = true ∧ (s.port (portIdx p)).nakSent = false) ∧
    (∃ (s : State) (p : Port) (wrong : Nat), s.portUp (portIdx p) = true ∧ (s.port (portIdx p)).nakSent = true ∧ 15 < wrong) ∧
    (∃ (wrong : Nat), wrong ≤ 15) ∧
    (∃ (s : State) (p : Port) (h : Dword), s.portUp (portIdx p) = true ∧ flitSequenced (hTYPE h) = true ∧ s.mine h = false ∧ hTYPE h ≠
      9 ∧ hTYPE h ≠ 0xC ∧ hcrcGood h = true ∧ (hSEQ h + 256 - (s.port (portIdx p)).rxSeq) % 256 ≠ 0 ∧ (hSEQ h + 256 - (s.port (portIdx
      p)).rxSeq) % 256 < 128 ∧ (s.port (portIdx p)).nakSent = false) ∧
    (∃ (s : State) (p : Port) (h : Dword), s.portUp (portIdx p) = true ∧ flitSequenced (hTYPE h) = true ∧ s.mine h = false ∧ hTYPE h ≠
      9 ∧ hTYPE h ≠ 0xC ∧ hcrcGood h = true ∧ 128 ≤ (hSEQ h + 256 - (s.port (portIdx p)).rxSeq) % 256 ∧ (s.port (portIdx p)).ackDue <
      15) ∧
    (∃ (s : State) (p : Port) (a : Byte) (i : Nat), (s.port (portIdx p)).unack.findIdx? (fun u => u.1 = a.toNat) = some i ∧ (s.port
      (portIdx p)).qc = [] ∧ (s.port (portIdx p)).qd = []) ∧
    (∃ (s : State) (p : Port) (a : Byte) (i : Nat), s.portUp (portIdx p) = true ∧ (s.port (portIdx p)).swap = none ∧ (s.port (portIdx
      p)).unack.findIdx? (fun u => u.1 = a.toNat) = some i ∧ (∀ u ∈ (s.port (portIdx p)).unack.drop i, u.2.resent + 1 < s.rd
      F.HLK_RETRY_CFG_RMAX)) ∧
    (∃ (s : State) (p : Port), s.portUp (portIdx p) = true ∧ (s.port (portIdx p)).swap ≠ none) ∧
    (∃ (s : State) (p : Port), s.portUp (portIdx p) = true ∧ (s.port (portIdx p)).unack ≠ [] ∧ (∀ u ∈ (s.port (portIdx p)).unack,
      u.2.resent + 1 < s.rd F.HLK_RETRY_CFG_RMAX)) ∧
    (∃ (s : State) (p : Port), s.portUp (portIdx p) = true ∧ (s.port (portIdx p)).unack.any (fun u => decide (s.rd
      F.HLK_RETRY_CFG_RMAX ≤ u.2.resent + 1)) = true) ∧
    (∃ (s : State) (p : Port), s.portUp (portIdx p) = true ∧ 0 < (s.port (portIdx p)).ackDue) ∧
    (∃ (s : State) (p : Port), (s.port (portIdx p)).qc = [] ∧ (s.port (portIdx p)).qd = []) ∧
    (∃ (s : State) (p : Port), (s.port (portIdx p)).qc = [] ∧ (s.port (portIdx p)).qd = []) :=
  ⟨⟨linkUp, .B, by decide +kernel⟩,
   ⟨((linkUp).modPort 1 (fun q => { q with nakSent := true })), .B, 16, by decide +kernel⟩,
   ⟨15, by decide +kernel⟩,
   ⟨linkUp, .B, (hdrSeq 3 0 6 0 127), by decide +kernel⟩,
   ⟨linkUp, .B, (hdrSeq 3 0 6 0 128), by decide +kernel⟩,
   ⟨linkOut, .B, 9, 1, by decide +kernel⟩,
   ⟨linkOut, .B, 9, 1, by decide +kernel⟩,
   ⟨(linkOut.modPort 1 (fun q => { q with swap := some (0, 0, 7) })), .B, by decide +kernel⟩,
   ⟨linkOut, .B, by decide +kernel⟩,
   ⟨(linkOut.modPort 1 (fun q => { q with unack := [(8, flit1), (9, { flit1 with resent := 2 })] })), .B, by decide +kernel⟩,
   ⟨linkOut, .B, by decide +kernel⟩,
   ⟨linkUp, .B, by decide +kernel⟩,
   ⟨linkUp, .B, by decide +kernel⟩⟩

theorem witness_LaneSwap :
    (∃ (s : State) (p : Port), s.portUp (portIdx p) = true ∧ s.flag (F.HLK_P_STAT_SPAREUSED (portIdx p)) = false) ∧
    (∃ (s : State) (l : LinkLane) (n : Option Nat), s.portUp (lanePort l) = true ∧ s.laneFailed l.val = false ∧ (s.laneOf (lanePort l)
      l.val).isSome = true ∧ n.all (fun k => decide (s.rd (F.HLK_L_HLTH_THR l) < k)) = true) ∧
    (∃ (s : State) (l : LinkLane) (n : Nat), n ≤ s.rd (F.HLK_L_HLTH_THR l)) ∧
    (∃ (s : State) (p : Port), s.portUp (portIdx p) = true) ∧
    (∃ (s : State) (p : Port) (k sp : Nat) (cw : Word), (s.port (portIdx p)).swap = some (k, sp, cw)) ∧
    (∃ (s : State) (p : Port) (k sp : Nat) (cw : Word), (s.port (portIdx p)).swap = some (k, sp, cw) ∧ k < logical (portIdx p) ∧
      (s.port (portIdx p)).swapAck = true ∧ (s.port (portIdx p)).qc = [] ∧ (s.port (portIdx p)).qd = [] ∧ (s.port (portIdx p)).nakHeld
      = none) ∧
    (∃ (s : State) (p : Port) (k sp : Nat) (cw : Word) (n i : Nat), (s.port (portIdx p)).swap = some (k, sp, cw) ∧ (s.port (portIdx
      p)).swapAck = true ∧ (s.port (portIdx p)).nakHeld = some n ∧ (s.port (portIdx p)).unack.findIdx? (fun u => u.1 = n) = some i) :=
  ⟨⟨(linkUp.modPort 1 (fun q => { q with copying := 3 })), .B, by decide +kernel⟩,
   ⟨(linkUp.wr (mapField 1 2) 9), 9, (some 65536), by decide +kernel⟩,
   ⟨linkUp, 9, 0, by decide +kernel⟩,
   ⟨linkUp, .B, by decide +kernel⟩,
   ⟨(linkUp.modPort 1 (fun q => { q with swap := some (3, 9, 7) })), .B, 3, 9, 7, by decide +kernel⟩,
   ⟨(linkUp.modPort 1 (fun q => { q with swap := some (3, 9, 7), swapAck := true })), .B, 3, 9, 7, by decide +kernel⟩,
   ⟨(linkOut.modPort 1 (fun q => { q with swap := some (3, 9, 7), swapAck := true, nakHeld := some 9 })), .B, 3, 9, 7, 9, 1,
     by decide +kernel⟩⟩

theorem witness_ChainForwarding :
    (∃ (s : State) (p : Port) (h : Dword) (pl : List Byte) (o : Fin 3), s.NextIn (portIdx p) h ∧ s.PortFree o ∧ flitSequenced (hTYPE
      h) = true ∧ s.mine h = false ∧ (hTYPE h = 9 → hHB h = true ∧ (beAt pl 0 1 = 1 ∨ beAt pl 0 1 = 2)) ∧ hTYPE h ≠ 0xC ∧ otherPort
      (portIdx p) = some o) ∧
    (∃ (s : State) (p : Port) (h : Dword) (pl : List Byte), s.NextIn (portIdx p) h ∧ flitSequenced (hTYPE h) = true ∧ s.mine h = false
      ∧ (hTYPE h = 9 → hHB h = true ∧ (beAt pl 0 1 = 1 ∨ beAt pl 0 1 = 2)) ∧ hTYPE h ≠ 0xC ∧ (otherPort (portIdx p)).all (fun o =>
      !s.portUp o) = true) ∧
    (∃ (s : State) (p : Port) (h : Dword), s.NextIn (portIdx p) h ∧ hTYPE h = 0xC ∧ s.taskRunning = false) ∧
    (∃ (s : State) (p : Port) (h : Dword) (pl : List Byte) (o : Fin 3), s.NextIn (portIdx p) h ∧ s.PortFree o ∧ hTYPE h = 9 ∧ hHB h =
      false ∧ otherPort (portIdx p) = some o ∧ beAt pl 0 1 = 1 ∧ beAt pl 1 1 = 0 ∧ beAt pl 2 1 < 64 ∧ s.flag F.HLK_ID_VALID = false ∧
      s.pwr.owed = false) ∧
    (∃ (s : State) (p : Port) (h : Dword) (pl : List Byte), s.NextIn (portIdx p) h ∧ s.PortFree (portIdx p) ∧ (s.port (portIdx
      p)).ackDue < 15 ∧ hTYPE h = 9 ∧ hHB h = false ∧ (otherPort (portIdx p)).isSome = true ∧ beAt pl 0 1 = 1 ∧ beAt pl 2 1 = 64) :=
  ⟨⟨linkUp, .B, (hdrOf 3 0 6 0), [1], 0, by unfold State.NextIn; decide +kernel, by constructor <;> decide +kernel, by decide +kernel⟩,
   ⟨(linkUp [(F.HLK_P_STAT_UP 0, 0)]), .B, (hdrOf 3 0 6 0), [1], by unfold State.NextIn; decide +kernel, by decide +kernel⟩,
   ⟨linkUp, .A, (hdrOf 12 0 0 0), by unfold State.NextIn; decide +kernel, by decide +kernel⟩,
   ⟨(linkUp [(F.HLK_ID_VALID, 0)]), .B, (hdrOf 9 0 0 0), [1, 0, 63, 2, 0, 7], 0, by unfold State.NextIn; decide +kernel,
     by constructor <;> decide +kernel, by decide +kernel⟩,
   ⟨linkUp, .B, (hdrOf 9 0 0 0), [1, 6, 64, 2, 0, 7], by unfold State.NextIn; decide +kernel, by constructor <;> decide +kernel,
     by decide +kernel⟩⟩

theorem witness_HostAccesses :
    (∃ (s : State) (addr : Dword) (len : Nat) (lba : BitVec 25) (left : Nat) (b : Beam), s.taskRunning = true ∧ s.tsk.ending = false ∧
      s.tsk.work = false ∧ s.opcode = 1 ∧ lba.toNat = s.tsk.lba + s.tsk.moved / 32768 ∧ lba.toNat < s.tsk.lba + s.tsk.count ∧ bufferAt
      s.tsk.sgl s.tsk.moved = some (addr.toNat, left) ∧ 0 < len ∧ len ≤ left ∧ len ≤ 32768 - s.tsk.moved % 32768 ∧ s.tsk.landed.find?
      (fun l => l.1 = lba.toNat) = some (lba.toNat, b) ∧ s.winOk true addr.toNat len = true ∧ s.anyPoisoned (streamAddr b lba.toNat +
      s.tsk.moved % 32768) len = false ∧ s.portUp (s.routePort lba.toNat) = false) ∧
    (∃ (s : State) (addr : Dword) (len : Nat) (lba : BitVec 25) (left : Nat), s.PortFree (s.routePort lba.toNat) ∧ s.taskRunning =
      true ∧ s.tsk.ending = false ∧ s.tsk.work = false ∧ s.opcode = 2 ∧ lba.toNat = s.tsk.lba + s.tsk.moved / 32768 ∧ lba.toNat <
      s.tsk.lba + s.tsk.count ∧ bufferAt s.tsk.sgl s.tsk.moved = some (addr.toNat, left) ∧ 0 < len ∧ len ≤ left ∧ len ≤ 32768 -
      s.tsk.moved % 32768 ∧ s.winOk false addr.toNat len = true) ∧
    (∃ (s : State) (p : Port) (h : Dword) (body : List Byte) (m : Mrd) (r : List Mrd), s.NextIn (portIdx p) h ∧ hTYPE h = 6 ∧ s.mine h
      = true ∧ beAt body 0 1 = 0 ∧ popMrd p s.hlk.mrds = some (m, r) ∧ m.live = true ∧ m.sg = false ∧ s.opcode = 2 ∧ streamAddr
      (homeBeam m.lba) m.lba + m.ofs + m.len ≤ 2 ^ 34) ∧
    (∃ (s : State) (p : Port) (h : Dword) (m : Mrd) (r : List Mrd), s.NextIn (portIdx p) h ∧ hTYPE h = 6 ∧ s.mine h = true ∧ popMrd p
      s.hlk.mrds = some (m, r) ∧ m.live = false) ∧
    (∃ (s : State) (m : Mrd) (r : List Mrd), s.hlk.mrds = m :: r ∧ m.timed = false ∧ m.live = true ∧ s.taskRunning = true) ∧
    (∃ (s : State) (m : Mrd) (r : List Mrd), s.hlk.mrds = m :: r ∧ m.timed = false ∧ m.live = false) ∧
    (∃ (s : State) (p : Port) (h : Dword), s.NextIn (portIdx p) h ∧ hTYPE h = 0xB ∧ s.mine h = true ∧ s.tsk.ending = false) ∧
    (∃ (s : State) (p : Port) (h : Dword), s.NextIn (portIdx p) h ∧ hTYPE h = 0xB ∧ s.mine h = true ∧ s.tsk.ending = true ∧
      s.taskRunning = true ∧ s.hlk.flush[portIdx p] ≤ 1 ∧ (∀ q : Fin 3, q ≠ portIdx p → s.hlk.flush[q] = 0)) :=
  ⟨⟨(taskState 1 State.reset), 0x18000, 32768, 9, 32768, 3, by decide +kernel⟩,
   ⟨(taskState 2 (linkUp)), 0x18000, 32768, 9, 32768, by constructor <;> decide +kernel, by decide +kernel⟩,
   ⟨(withMrds [mrd1] (taskState 2 linkUp)), .B, (hdrOf 6 0 5 0), mcplBody, mrd1, [], by unfold State.NextIn; decide +kernel,
     by decide +kernel⟩,
   ⟨(withMrds [{mrd1 with live := false}] (taskState 2 linkUp)), .B, (hdrOf 6 0 5 0), {mrd1 with live := false}, [],
     by unfold State.NextIn; decide +kernel, by decide +kernel⟩,
   ⟨(withMrds [mrd1, mrd1] (taskState 2 linkUp)), mrd1, [mrd1], by decide +kernel⟩,
   ⟨(withMrds [{mrd1 with live := false}] State.reset), {mrd1 with live := false}, [], by decide +kernel⟩,
   ⟨linkUp, .B, (hdrOf 11 0 5 0), by unfold State.NextIn; decide +kernel, by decide +kernel⟩,
   ⟨(let s := taskState 2 linkUp; { s with tsk := { s.tsk with ending := true }, hlk := { s.hlk with flush := #v[0, 1, 0] } }), .B,
     (hdrOf 11 0 5 0), by unfold State.NextIn; decide +kernel, by decide +kernel⟩⟩

theorem witness_RegisterAccesses :
    (∃ (s : State) (m : Master) (a : BitVec 24) (v : Word) (r : RegRow) (i : Nat), s.noneWaits ∧ reaches m = true ∧ regAt a.toNat =
      some (r, i) ∧ s.check m true a.toNat v = none ∧ s.command m (portOf (s.routePort 0)) r a.toNat v = none ∧ isWindow a.toNat =
      false ∧ s.refusal a.toNat (s.newWord m r a.toNat v) = none ∧ a.toNat ∉ noteRegs ∧ a.toNat ≠ Reg.SEQ_CTRL) ∧
    (∃ (s : State) (m : Master) (a : BitVec 24) (v : Word) (r : RegAns), s.noneWaits ∧ reaches m = true ∧ s.check m true a.toNat v =
      some r ∧ r ≠ .busy) ∧
    (∃ (s : State) (m : Master) (a : BitVec 24) (r : RegRow) (i : Nat), reaches m = true ∧ regAt a.toNat = some (r, i) ∧ r.kind = .rc
      ∧ s.check m false a.toNat 0 = none ∧ s.enabled a.toNat = true ∧ a.toNat ∉ noteRegs ∧ s.openBits a.toNat = 0) ∧
    (∃ (s : State) (m : Master) (a : BitVec 24) (r : RegRow) (i : Nat), reaches m = true ∧ regAt a.toNat = some (r, i) ∧ r.kind = .lo
      ∧ s.check m false a.toNat 0 = none ∧ s.enabled a.toNat = true ∧ a.toNat ≠ Reg.PMC_CYC_LO ∧ a.toNat ≠ Reg.BKP_TICK_LO ∧
      s.openBits a.toNat = 0 ∧ s.openBits (a.toNat + 4) = 0) ∧
    (∃ (s : State) (a : BitVec 24) (v : Word) (r : RegRow) (i : Nat), s.noneWaits ∧ regAt a.toNat = some (r, i) ∧ s.check .tap true
      a.toNat v = none ∧ s.command .tap (portOf (s.routePort 0)) r a.toNat v = none ∧ isWindow a.toNat = false ∧ s.refusal a.toNat
      (s.newWord .tap r a.toNat v) = none ∧ a.toNat ∉ noteRegs ∧ a.toNat ≠ Reg.SEQ_CTRL ∧ s.reach .tap r ≠ 0) :=
  ⟨⟨(started), .hostCust, (BitVec.ofNat 24 Reg.TSK_CTRL), 0x7, (ans Reg.TSK_CTRL), (idx Reg.TSK_CTRL),
     by unfold State.noneWaits; decide +kernel, by decide +kernel⟩,
   ⟨(started), .hostCust, 2, 0, .ur, by unfold State.noneWaits; decide +kernel, by decide +kernel⟩,
   ⟨(started (mk [(Reg.LBS_OTHER_CNT, 5)])), .hostCust, (BitVec.ofNat 24 Reg.LBS_OTHER_CNT), (ans Reg.LBS_OTHER_CNT), (idx
     Reg.LBS_OTHER_CNT), by decide +kernel⟩,
   ⟨(started (mk [(Reg.DMC_WR_CNT_LO + 4, 5)])), .hostCust, (BitVec.ofNat 24 Reg.DMC_WR_CNT_LO), (ans Reg.DMC_WR_CNT_LO), (idx
     Reg.DMC_WR_CNT_LO), by decide +kernel⟩,
   ⟨(started), (BitVec.ofNat 24 Reg.TSK_CTRL), 0x7, (ans Reg.TSK_CTRL), (idx Reg.TSK_CTRL), by unfold State.noneWaits; decide +kernel,
     by decide +kernel⟩⟩

theorem witness_ControlRequestsAndDrain :
    (∃ (s : State) (p : Port) (h : Dword) (pl : List Byte) (v : Word), s.NextIn (portIdx p) h ∧ (s.rxOwn (portIdx p) h 2 1).2.regRead
      (creqMaster pl) (creqOf pl).ofs = (v, (s.rxOwn (portIdx p) h 2 1).2) ∧ s.noneWaits ∧ s.PortFree (portIdx p) ∧ (s.port (portIdx
      p)).ackDue < 15 ∧ hTYPE h = 2 ∧ s.mine h = true ∧ creqCrcOk h pl = true ∧ (creqOf pl).wr = false ∧ (creqOf pl).count = 1 ∧
      s.flag F.PMC_CTRL_EN = false ∧ (s.rxOwn (portIdx p) h 2 1).2.runCheck (creqMaster pl) (s.sessionNamed pl) (creqOf pl) ((creqOf
      pl).run pl) = none) ∧
    (∃ (s : State) (p : Port) (h : Dword) (pl : List Byte), s.NextIn (portIdx p) h ∧ s.PortFree (portIdx p) ∧ (s.port (portIdx
      p)).ackDue < 15 ∧ hTYPE h = 2 ∧ s.mine h = true ∧ creqCrcOk h pl = false) ∧
    (∃ (s : State) (p : Port) (h : Dword), s.portUp (portIdx p) = true ∧ hTYPE h = 2 ∧ s.mine h = true ∧ hcrcGood h = true ∧ 128 ≤
      (hSEQ h + 256 - (s.port (portIdx p)).rxSeq) % 256) ∧
    (∃ (s : State) (m : Master) (a : BitVec 24) (v : Word) (r : RegRow) (i : Nat), s.noneWaits ∧ reaches m = true ∧ isWindow a.toNat =
      true ∧ regAt a.toNat = some (r, i) ∧ s.check m true a.toNat v = none ∧ s.refusal a.toNat (s.newWord m r a.toNat v) = none ∧
      s.reach m r ≠ 0 ∧ s.hlk.mrds ≠ []) ∧
    (∃ (s : State), s.hlk.drain = some none ∧ s.drained = true ∧ s.hlk.waiting = [] ∧ s.pwr.soft = false) ∧
    (∃ (s : State) (p : Port) (f : Flit), s.PortFree (portIdx p) ∧ s.hlk.drain = some (some (p, f)) ∧ s.drained = true ∧ s.hlk.waiting
      = [] ∧ s.pwr.soft = false ∧ flitSequenced f.typ = true) :=
  ⟨⟨(started linkUp), .B, (hdrOf 2 0 5 9), (creqWhole (hdrOf 2 0 5 9) (creqPl Reg.TSK_CTRL 0)), (State.reset.reg Reg.TSK_CTRL),
     by unfold State.NextIn; decide +kernel, Prod.ext (by decide +kernel) (by rfl), by unfold State.noneWaits; decide +kernel,
     by constructor <;> decide +kernel, by decide +kernel⟩,
   ⟨(started linkUp), .B, (hdrOf 2 0 5 9), (creqPl Reg.TSK_CTRL 0 ++ [1, 2, 3, 4]), by unfold State.NextIn; decide +kernel,
     by constructor <;> decide +kernel, by decide +kernel⟩,
   ⟨(started linkUp), .B, (hdrSeq 2 0 5 9 255), by decide +kernel⟩,
   ⟨(withMrds [mrd1] started), .hostCust, (BitVec.ofNat 24 (Reg.HLK_WIN_BASE_LO 7)), 0x40, (ans (Reg.HLK_WIN_BASE_LO 7)), (idx
     (Reg.HLK_WIN_BASE_LO 7)), by unfold State.noneWaits; decide +kernel, by decide +kernel⟩,
   ⟨(let s := linkUp; { s with hlk := { s.hlk with drain := some none } }), by decide +kernel⟩,
   ⟨(let s := linkUp; { s with hlk := { s.hlk with drain := some (some (.B, flit1)) } }), .B, flit1,
     by constructor <;> decide +kernel, by decide +kernel⟩⟩

theorem witness_TaskControl :
    (∃ (s : State), s.taskRunning = false ∧ s.taskFrozen = false ∧ s.flag F.SEQ_MODE_TASK = false ∧ s.flag F.PWR_START_STOPPED = false
      ∧ s.flag F.SEQ_STAT_DFAULT = false) ∧
    (∃ (s : State), s.taskRunning = false ∧ s.taskFrozen = false ∧ s.flag F.SEQ_MODE_TASK = true ∧ s.flag F.PWR_START_STOPPED = false
      ∧ s.flag F.SEQ_STAT_DFAULT = false ∧ s.withDesc.descW 0 = 0x7F000000 ∧ s.withDesc.descW 9 % 64 = 0) ∧
    (∃ (s : State), s.taskRunning = false ∧ s.taskFrozen = false ∧ s.flag F.SEQ_MODE_TASK = true ∧ s.flag F.PWR_START_STOPPED = false
      ∧ s.flag F.SEQ_STAT_DFAULT = false ∧ taskOpcodes.contains (s.withDesc.descW 0 / 2 ^ 24) = false) ∧
    (∃ (s : State), (s.taskRunning = true ∨ s.taskFrozen = true)) ∧
    (∃ (s : State), s.taskFrozen = true ∧ s.flag F.TSK_STATE_SETTLED = true) ∧
    (∃ (s : State), (s.taskFrozen = false ∨ s.flag F.TSK_STATE_SETTLED = false)) ∧
    (∃ (s : State), s.taskRunning = true ∧ s.tsk.work = false ∧ s.tsk.unchecked = false ∧ s.tsk.ending = false ∧ s.taskReady = true ∧
      s.cplAddr = 0 ∧ s.hlk.mwrs = 0 ∧ s.flushed = true) ∧
    (∃ (s : State), s.taskRunning = true ∧ s.tsk.work = false ∧ s.tsk.unchecked = false ∧ s.tsk.ending = false ∧ s.taskReady = true ∧
      s.cplAddr = 0 ∧ s.hlk.mwrs.getLsbD 0 = true) ∧
    (∃ (s : State), s.taskFrozen = true ∧ s.flag F.TSK_STATE_SETTLED = false ∧ s.hlk.mrds.all (fun m => m.live) = true ∧ s.flushed =
      true) :=
  ⟨⟨(goDesc 0x02000000), by decide +kernel⟩,
   ⟨(goDesc 0x7F000000 (fld [(F.SEQ_MODE_TASK, 1)])), by decide +kernel⟩,
   ⟨(goDesc 0x7E000000 (fld [(F.SEQ_MODE_TASK, 1)])), by decide +kernel⟩,
   ⟨(fld [(F.TSK_STATE_STATE, 3)]), by decide +kernel⟩,
   ⟨(fld [(F.TSK_STATE_STATE, 3),(F.TSK_STATE_SETTLED, 1)]), by decide +kernel⟩,
   ⟨(fld [(F.TSK_STATE_STATE, 3),(F.TSK_STATE_SETTLED, 0)]), by decide +kernel⟩,
   ⟨(job 0x7F [] linkUp (fun t => { t with work := false })), by decide +kernel⟩,
   ⟨(hl (job 0x7F [] linkUp (fun t => { t with work := false })) (fun h => { h with mwrs := 1 })), by decide +kernel⟩,
   ⟨(fld [(F.TSK_STATE_STATE, 3),(F.TSK_STATE_SETTLED, 0)] linkUp), by decide +kernel⟩⟩

theorem witness_ExtentTasks :
    (∃ (s : State) (a : Nat), s.ListOpens a ∧ s.works 1 = true ∧ s.spnState = 4 ∧ s.rd F.SPN_TARGET_RPM = s.speedOr 0) ∧
    (∃ (s : State), s.works 3 = true ∧ s.spnState = 4 ∧ s.rd F.SPN_TARGET_RPM = s.speedOr 0) ∧
    (∃ (s : State), s.works 3 = true ∧ s.spnState = 0 ∧ (s.wr F.SPN_TARGET_RPM (s.speedOr 0)).spnRefusal 1 = none) ∧
    (∃ (s : State) (a : Nat), s.ListOpens a ∧ s.works 2 = true ∧ s.tskFlag 1 = false ∧ s.spnState = 4 ∧ s.rd F.SPN_TARGET_RPM =
      s.speedOr 1) ∧
    (∃ (s : State) (a : Nat), s.ListOpens a ∧ s.works 2 = true ∧ s.tskFlag 1 = true ∧ s.spnState = 4 ∧ s.rd F.SPN_TARGET_RPM =
      s.speedOr 1) :=
  ⟨⟨(job 1 (dl 9 3) (fast 4800 (may (winOpen linkUp)))), 0x1000,
     by refine ⟨?_, ?_, ?_, ?_, by constructor <;> decide +kernel⟩ <;> decide +kernel, by decide +kernel⟩,
   ⟨(job 3 (dl 9 3) (fast 4800 (may))), by decide +kernel⟩,
   ⟨(job 3 (dl 9 3) may), by decide +kernel⟩,
   ⟨(job 2 (dl 9 3) (fast 2400 (may (winOpen linkUp)))), 0x1000,
     by refine ⟨?_, ?_, ?_, ?_, by constructor <;> decide +kernel⟩ <;> decide +kernel, by decide +kernel⟩,
   ⟨(job 2 (0x20000 :: (dl 9 3).drop 1) (fast 2400 (may (winOpen linkUp)))), 0x1000,
     by refine ⟨?_, ?_, ?_, ?_, by constructor <;> decide +kernel⟩ <;> decide +kernel, by decide +kernel⟩⟩

theorem witness_DiscTasks :
    (∃ (s : State), s.works 0x10 = true ∧ s.tsk.phase = 0 ∧ s.driveRests = true) ∧
    (∃ (s : State), s.works 0x10 = true ∧ s.tsk.phase = 0 ∧ s.spnState = 4 ∧ s.spnRefusal 2 = none ∧ s.spn.cmd = 0 ∧ (∀ h : Fin 4,
      s.lsvIdle h = true)) ∧
    (∃ (s : State), s.works 0x10 = true ∧ s.tsk.phase = 1 ∧ s.lbs.hs = 5 ∧ s.spnState = 0 ∧ (s.wr F.SPN_TARGET_RPM (s.reg
      (Reg.CFG_PARAM 0)).toNat).spnRefusal 1 = none) ∧
    (∃ (s : State) (bs : List MgmtBlock), s.works 0x10 = true ∧ s.tsk.phase = 2 ∧ s.flag F.SPN_STAT_ATSPEED = true ∧ lastRecord bs =
      none ∧ (∀ l, l < 16 → entryBlocks bs l = [])) ∧
    (∃ (s : State) (bs : List MgmtBlock) (r : List Byte), lastRecord bs = some r ∧ s.works 0x10 = true ∧ s.tsk.phase = 2 ∧ s.flag
      F.SPN_STAT_ATSPEED = true) ∧
    (∃ (s : State), s.works 0x11 = true ∧ s.tsk.phase = 0 ∧ s.disc.changed = false ∧ s.disc.added = 0 ∧ s.disc.hasRecord = false ∧ (∀
      h, h < 4 → s.lsvIdle h = true) ∧ s.spnLoops = true ∧ s.spn.cmd = 0 ∧ s.spnRefusal 5 = none) ∧
    (∃ (s : State), s.works 0x11 = true ∧ s.tsk.phase = 1 ∧ s.spn.cmd = 0 ∧ (s.spnState = 7 ∨ s.spnState = 8) ∧ s.spnRefusal 2 = none) ∧
    (∃ (s : State), s.works 0x11 = true ∧ s.tsk.phase = 1 ∧ s.spn.cmd = 0 ∧ s.spnState = 0 ∧ (s.wr F.SPN_TARGET_RPM (s.reg
      (Reg.CFG_PARAM 0)).toNat).spnRefusal 1 = none) ∧
    (∃ (s : State), s.works 0x11 = true ∧ s.tsk.phase = 2 ∧ s.spn.cmd = 0 ∧ s.spnState = 8 ∧ s.flag F.SPN_STAT_PARKED = true) ∧
    (∃ (s : State), s.works 0x11 = true ∧ s.tsk.phase = 2 ∧ s.spn.cmd ≠ 0) ∧
    (∃ (s : State), s.works 0x11 = true ∧ s.tsk.phase = 2 ∧ s.spn.cmd = 0 ∧ (s.spnState ≠ 8 ∨ s.flag F.SPN_STAT_PARKED = false)) ∧
    (∃ (s : State), s.works 0x11 = true ∧ s.tsk.phase = 3 ∧ s.lbs.hs = 6 ∧ s.tsk.failed = false) ∧
    (∃ (s : State) (bs : List MgmtBlock) (b : MgmtBlock) (a : Nat), bs.find? (fun b => decide (b.layer.val = s.descW 2 % 16) && decide
      (b.slot = s.descW 3 % 1024)) = some b ∧ b.bytes.length = 32768 ∧ s.Takes a 32768 ∧ s.works 0x20 = true ∧ s.tsk.phase ≠ 0 ∧
      s.tsk.sgDone = true ∧ s.descW 3 / 2 ^ 16 % 1024 = 1) ∧
    (∃ (s : State), s.works 0x21 = true) ∧
    (∃ (s : State), s.works 0x21 = true ∧ s.disc.table = [] ∧ 704 ≤ s.disc.mgmtNext[0]) ∧
    (∃ (s : State), s.works 0x31 = true ∧ s.tsk.phase = 0 ∧ s.descW 3 ≠ 0) ∧
    (∃ (s : State) (a : Nat), s.Takes a (64 * s.descW 3) ∧ s.works 0x40 = true ∧ s.tsk.phase ≠ 0 ∧ s.tsk.sgDone = true) ∧
    (∃ (s : State), s.works 0x41 = true ∧ s.tskFlag 4 = false) ∧
    (∃ (s : State), s.works 0x41 = true ∧ s.tskFlag 4 = true) :=
  ⟨⟨(job 0x10 []), by decide +kernel⟩,
   ⟨(job 0x10 [] (fast 4800 State.reset)), by decide +kernel⟩,
   ⟨(let s := job 0x10 [] may (fun t => { t with phase := 1 }); { s with lbs := { s.lbs with hs := 5 } }), by decide +kernel⟩,
   ⟨(job 0x10 [] (fld [(F.SPN_STAT_ATSPEED, 1)]) (fun t => { t with phase := 2 })), [], by decide +kernel⟩,
   ⟨(job 0x10 [] (fld [(F.SPN_STAT_ATSPEED, 1)]) (fun t => { t with phase := 2 })), [⟨0, 3, discRecord (List.replicate 32730 0)⟩],
     (discRecord (List.replicate 32730 0)), discRecord_last _ List.length_replicate, by decide +kernel⟩,
   ⟨(job 0x11 [] (fast 4800 (mk [(Reg.CFG_PARAM 2, 0x12345)]))), by decide +kernel⟩,
   ⟨(job 0x11 [] (fld [(F.SPN_STAT_STATE, 8)] may) (fun t => { t with phase := 1 })), by decide +kernel⟩,
   ⟨(job 0x11 [] may (fun t => { t with phase := 1 })), by decide +kernel⟩,
   ⟨(job 0x11 [] (fld [(F.SPN_STAT_STATE, 8), (F.SPN_STAT_PARKED, 1)]) (fun t => { t with phase := 2 })), by decide +kernel⟩,
   ⟨(let s := job 0x11 [] State.reset (fun t => { t with phase := 2 }); s.modSpn (fun p => { p with cmd := 5 })), by decide +kernel⟩,
   ⟨(job 0x11 [] (fld [(F.SPN_STAT_STATE, 8)]) (fun t => { t with phase := 2 })), by decide +kernel⟩,
   ⟨(let s := job 0x11 [] State.reset (fun t => { t with phase := 3 }); { s with lbs := { s.lbs with hs := 6 } }), by decide +kernel⟩,
   ⟨(job 0x20 (dl 3 (2^16+5)) (winOpen State.reset) (fun t => { t with phase := 1, sgDone := true, sgl := [(0x10000, 32768)] })), [blk
     (List.replicate 32768 3)], (blk (List.replicate 32768 3)), 0x10000, rfl, List.length_replicate,
     by unfold State.Takes; exact ⟨⟨_, rfl, by decide +kernel, by decide +kernel⟩, by decide +kernel⟩, by decide +kernel⟩,
   ⟨(job 0x21 []), by decide +kernel⟩,
   ⟨(let s := job 0x21 []; { s with disc := { s.disc with mgmtNext := s.disc.mgmtNext.set 0 704 } }), by decide +kernel⟩,
   ⟨(job 0x31 (dl 318 2)), by decide +kernel⟩,
   ⟨(job 0x40 (dl 4095 1) (winOpen State.reset) (fun t => { t with phase := 1, sgDone := true, sgl := [(0x10000, 4096)] })), 0x10000,
     by unfold State.Takes; exact ⟨⟨_, rfl, by decide +kernel, by decide +kernel⟩, by decide +kernel⟩, by decide +kernel⟩,
   ⟨(job 0x41 (dl 4095 0) { State.reset with dram := [(4095 * 2^20 + 16, 5)] }), by decide +kernel⟩,
   ⟨(job 0x41 (0x100000 :: (dl 0 0).drop 1)
     { State.reset with disc := { State.reset.disc with catEntry := some 0 }, dram := [(5, 4), (4095 * 2^20 + 16, 5)] }),
     by decide +kernel⟩⟩

theorem witness_OtherTasks :
    (∃ (s : State), s.works 0x12 = true ∧ s.spnState = 0 ∧ (s.wr F.SPN_TARGET_RPM (s.speedOr 0)).spnRefusal 1 = none) ∧
    (∃ (s : State), s.works 0x13 = true ∧ s.descW 2 % 4 = 0 ∧ s.spnState = 4 ∧ s.spnRefusal 2 = none) ∧
    (∃ (s : State), s.works 0x13 = true ∧ s.descW 2 % 4 = 1 ∧ s.spnState ≠ 0 ∧ s.spnRefusal 3 = none) ∧
    (∃ (s : State), s.works 0x13 = true ∧ s.descW 2 % 4 = 2 ∧ s.spnRefusal 5 = none) ∧
    (∃ (s : State), s.works 0x50 = true ∧ s.tsk.phase = 0 ∧ s.rd F.MIR_STAT_RED = 1 ∧ s.partner 5 = true ∧ s.partner 6 = false) ∧
    (∃ (s : State) (a : Nat), s.ListOpens a ∧ s.works 0x60 = true ∧ s.tsk.phase = 0) ∧
    (∃ (s : State) (blob p : List Byte) (k : Slot), blob.length = s.descW 3 ∧ toBytes (Aes.cmac (toNats (subkey k.key 2)) (toNats
      (blob.take (blob.length - 16)))) = blob.drop (blob.length - 16) ∧ toBytes (ctrDecrypt (toNats (subkey k.key 1)) (Aes.toNum
      ((toNats (blob.take (blob.length - 16))).take 16))       ((toNats (blob.take (blob.length - 16))).drop 16)) = p ∧ s.works 0x60 =
      true ∧ s.tsk.phase = 2 ∧ s.hlk.mrds = [] ∧ s.cph.slots[(Fin.ofNat 8 (s.descW 2) : Fin 8)] = some k ∧ k.usage = 2 ∧ (s.flag
      F.CPH_LOCK_HELD = false ∨ s.cphOwner .seq = true) ∧ s.flag F.CPH_STAT_BUSY = false ∧ s.patchBad p = false ∧ s.antiRollback ≤
      beAt p 8 2 ∧ beAt p 10 2 ≤ s.antiRollback ∧ beAt p 12 2 ≠ 0 ∧ (patchRecord p (beAt p 12 2 - 1)).1 = 1 ∧ (patchRecord p (beAt p
      12 2 - 1)).2.1 < 2 ^ 14) ∧
    (∃ (s : State) (blob : List Byte) (k : Slot), blob.length = s.descW 3 ∧ s.works 0x60 = true ∧ s.tsk.phase = 2 ∧ s.hlk.mrds = [] ∧
      s.cph.slots[(Fin.ofNat 8 (s.descW 2) : Fin 8)] = some k ∧ k.usage = 2 ∧ s.flag F.CPH_LOCK_HELD = true ∧ s.cphOwner .seq = false) ∧
    (∃ (s : State) (blob : List Byte) (k : Slot), blob.length = s.descW 3 ∧ s.works 0x60 = true ∧ s.tsk.phase = 2 ∧ s.hlk.mrds = [] ∧
      s.cph.slots[(Fin.ofNat 8 (s.descW 2) : Fin 8)] = some k ∧ k.usage ≠ 2) ∧
    (∃ (s : State), s.works 0x7F = true) :=
  ⟨⟨(job 0x12 (dl 0 0) may), by decide +kernel⟩,
   ⟨(job 0x13 (dl 0 0) (fast 4800 may)), by decide +kernel⟩,
   ⟨(job 0x13 (dl 1 0) (fast 4800 may)), by decide +kernel⟩,
   ⟨(job 0x13 (dl 2 0x12345) (fast 4800 may)), by decide +kernel⟩,
   ⟨(job 0x50 [] (fld [(F.MIR_STAT_RED, 1)] (mk [(Reg.MIR_PART_STAT, 32)]))), by decide +kernel⟩,
   ⟨(job 0x60 (dl 3 4096) (winOpen linkUp)), 0x1000, by refine ⟨?_, ?_, ?_, ?_, by constructor <;> decide +kernel⟩ <;> decide +kernel,
     by decide +kernel⟩,
   ⟨(withKey key7 (job 0x60 (dl 3 96) State.reset (fun t => { t with phase := 2 }))), patchBlob, patchText, key7, patch_length.trans
     (by decide +kernel), patch_tag, patch_plain, by decide +kernel⟩,
   ⟨(withKey key7 (job 0x60 (dl 3 96) (fld [(F.CPH_LOCK_HELD, 1), (F.CPH_LOCK_OWNER, 3)]) (fun t => { t with phase := 2 }))),
     (List.replicate 96 0), key7, List.length_replicate.trans (by decide +kernel), by decide +kernel⟩,
   ⟨(withKey { key7 with usage := 1 } (job 0x60 (dl 3 96) State.reset (fun t => { t with phase := 2 }))), (List.replicate 96 0),
     { key7 with usage := 1 }, List.length_replicate.trans (by decide +kernel), by decide +kernel⟩,
   ⟨(job 0x7F []), by decide +kernel⟩⟩

theorem witness_Calibrations :
    (∃ (s : State), s.calibrates 1 = true ∧ s.calMay = true) ∧
    (∃ (s : State), s.calibrates 2 = true ∧ s.calMay = true) ∧
    (∃ (s : State), s.calibrates 3 = true ∧ s.calMay = true) ∧
    (∃ (s : State), s.calibrates 4 = true ∧ s.calMay = true) ∧
    (∃ (s : State), s.calibrates 5 = true ∧ s.calMay = true) ∧
    (∃ (s : State), s.calibrates 6 = true ∧ s.tsk.phase = 0 ∧ s.calHeads.all (fun k => s.onLba (Fin.ofNat 4 k) s.calLba) = true) ∧
    (∃ (s : State), s.calibrates 6 = true ∧ s.tsk.phase ≠ 0 ∧ s.calMay = true ∧ s.calHeads.all (fun k => s.onLba (Fin.ofNat 4 k)
      s.calLba) = true) ∧
    (∃ (s : State), s.calibrates 7 = true ∧ s.calMay = true) ∧
    (∃ (s : State), s.calibrates 8 = true ∧ s.tsk.phase ≠ 0 ∧ s.calMay = true ∧ s.calHeads.all (fun k => s.onLba (Fin.ofNat 4 k)
      s.calLba) = true) ∧
    (∃ (s : State), s.calibrates 9 = true ∧ s.tsk.phase ≠ 0 ∧ s.calMay = true ∧ s.calHeads.all (fun k => s.onLba (Fin.ofNat 4 k)
      s.calLba) = true) ∧
    (∃ (s : State), s.calibrates 10 = true) :=
  ⟨⟨(calJob 1 0x80000000 0), by decide +kernel⟩,
   ⟨(calJob 2 0x80000008 0), by decide +kernel⟩,
   ⟨(calJob 3 0x80000000 0), by decide +kernel⟩,
   ⟨(calJob 4 0x80080000 0), by decide +kernel⟩,
   ⟨(calJob 5 0x80000008 0x10001), by decide +kernel⟩,
   ⟨(let s := calJob 6 0x80000F00 0 onDisc; { s with tsk := { s.tsk with phase := 0 } }), by decide +kernel⟩,
   ⟨(calJob 6 0x80000F00 0 onDisc), by decide +kernel⟩,
   ⟨(calJob 7 0x80000008 0 (fld [(F.ACQ_PLL_STAT_STATE 0, 2),(F.ACQ_PLL_STAT_STATE 3, 2)] onDisc)), by decide +kernel⟩,
   ⟨(calJob 8 0x80000002 0 onDisc), by decide +kernel⟩,
   ⟨(calJob 9 0x80000F00 0 onDisc), by decide +kernel⟩,
   ⟨(calJob 10 0x7FF 0), by decide +kernel⟩⟩

theorem witness_SeqArithmetic :
    (∃ (s : State) (m : Micro), s.Runs m ∧ s.Straight ∧ m.ctl = 0 ∧ m.xop = 0x01) ∧
    (∃ (s : State) (m : Micro), s.Runs m ∧ s.Straight ∧ m.ctl = 0 ∧ m.xop = 0x02) ∧
    (∃ (s : State) (m : Micro), s.Runs m ∧ s.Straight ∧ m.ctl = 0 ∧ m.xop = 0x03) ∧
    (∃ (s : State) (m : Micro), s.Runs m ∧ s.Straight ∧ m.ctl = 0 ∧ m.xop = 0x04) ∧
    (∃ (s : State) (m : Micro), s.Runs m ∧ s.Straight ∧ m.ctl = 0 ∧ m.xop = 0x05) ∧
    (∃ (s : State) (m : Micro), s.Runs m ∧ s.Straight ∧ m.ctl = 0 ∧ m.xop = 0x06) ∧
    (∃ (s : State) (m : Micro), s.Runs m ∧ s.Straight ∧ m.ctl = 0 ∧ m.xop = 0x07) ∧
    (∃ (s : State) (m : Micro), s.Runs m ∧ s.Straight ∧ m.ctl = 0 ∧ m.xop = 0x08) ∧
    (∃ (s : State) (m : Micro), s.Runs m ∧ s.Straight ∧ m.ctl = 0 ∧ m.xop = 0x09) ∧
    (∃ (s : State) (m : Micro), s.Runs m ∧ s.Straight ∧ m.ctl = 0 ∧ m.xop = 0x0A) ∧
    (∃ (s : State) (m : Micro), s.Runs m ∧ s.Straight ∧ m.ctl = 0 ∧ m.xop = 0x0B ∧ m.setf = true) ∧
    (∃ (s : State) (m : Micro), s.Runs m ∧ s.Straight ∧ m.ctl = 0 ∧ m.xop = 0x0C) ∧
    (∃ (s : State) (m : Micro) (v : Dword), s.Runs m ∧ s.Straight ∧ m.ctl = 0 ∧ m.xop = 0x0D ∧ aluResult 0x0D (s.g m.dst) (s.g m.sa)
      (s.opB m) = some v) :=
  ⟨⟨(seqAt (alu 1) id State.reset), (word (alu 1)), by constructor <;> decide +kernel, by constructor <;> decide +kernel,
     by decide +kernel⟩,
   ⟨(seqAt (alu 2) id State.reset), (word (alu 2)), by constructor <;> decide +kernel, by constructor <;> decide +kernel,
     by decide +kernel⟩,
   ⟨(seqAt (alu 3) id State.reset), (word (alu 3)), by constructor <;> decide +kernel, by constructor <;> decide +kernel,
     by decide +kernel⟩,
   ⟨(seqAt (alu 4) id State.reset), (word (alu 4)), by constructor <;> decide +kernel, by constructor <;> decide +kernel,
     by decide +kernel⟩,
   ⟨(seqAt (alu 5) id State.reset), (word (alu 5)), by constructor <;> decide +kernel, by constructor <;> decide +kernel,
     by decide +kernel⟩,
   ⟨(seqAt (alu 6) id State.reset), (word (alu 6)), by constructor <;> decide +kernel, by constructor <;> decide +kernel,
     by decide +kernel⟩,
   ⟨(seqAt (alu 7) id State.reset), (word (alu 7)), by constructor <;> decide +kernel, by constructor <;> decide +kernel,
     by decide +kernel⟩,
   ⟨(seqAt (alu 8) id State.reset), (word (alu 8)), by constructor <;> decide +kernel, by constructor <;> decide +kernel,
     by decide +kernel⟩,
   ⟨(seqAt (alu 9) id State.reset), (word (alu 9)), by constructor <;> decide +kernel, by constructor <;> decide +kernel,
     by decide +kernel⟩,
   ⟨(seqAt (alu 10) id State.reset), (word (alu 10)), by constructor <;> decide +kernel, by constructor <;> decide +kernel,
     by decide +kernel⟩,
   ⟨(seqAt (alu 11) id State.reset), (word (alu 11)), by constructor <;> decide +kernel, by constructor <;> decide +kernel,
     by decide +kernel⟩,
   ⟨(seqAt (alu 12) id State.reset), (word (alu 12)), by constructor <;> decide +kernel, by constructor <;> decide +kernel,
     by decide +kernel⟩,
   ⟨(seqAt (mw 0 0 0 0 13 3 1 0 1 0 0 0x1008) id State.reset), (word (mw 0 0 0 0 13 3 1 0 1 0 0 0x1008)), ((aluResult 13 0
     0xFFFFFFFFFFFFFFFF 0x1008).getD 0), by constructor <;> decide +kernel, by constructor <;> decide +kernel, by decide +kernel⟩⟩

theorem witness_SeqControl :
    (∃ (s : State) (m : Micro), s.Runs m ∧ s.Straight ∧ m.ctl = 0 ∧ m.xop = 0 ∧ m.setf = false) ∧
    (∃ (s : State) (m : Micro), s.Runs m ∧ s.Straight ∧ m.ctl = 0 ∧ m.xop = 0 ∧ m.setf = false) ∧
    (∃ (s : State) (m : Micro) (b : Branch), s.Runs m ∧ s.seq.branch = some b ∧ s.seq.shadow = none ∧ s.seq.loops = [] ∧ m.ctl = 0 ∧
      m.xop = 0 ∧ m.setf = false ∧ b.call = none ∧ b.pop = false ∧ (microOf (s.csWord b.at_)).xop = 0x01 ∧ (microOf (s.csWord
      b.at_)).setf = false) ∧
    (∃ (s : State) (m : Micro) (l : LoopLevel) (r : List LoopLevel), s.Runs m ∧ s.seq.branch = none ∧ s.seq.shadow = none ∧
      s.seq.loops = l :: r ∧ l.stop = s.pc ∧ m.ctl = 0 ∧ m.xop = 0 ∧ m.setf = false ∧ 1 < l.count.toNat) ∧
    (∃ (s : State) (m : Micro) (l : LoopLevel) (r : List LoopLevel), s.Runs m ∧ s.seq.branch = none ∧ s.seq.shadow = none ∧
      s.seq.loops = l :: r ∧ l.stop = s.pc ∧ m.ctl = 0 ∧ m.xop = 0 ∧ m.setf = false ∧ l.count.toNat ≤ 1) ∧
    (∃ (s : State) (m : Micro) (k : BitVec 4), s.Runs m ∧ s.seq.branch = none ∧ s.seq.shadow = some k ∧ s.seq.loops = [] ∧ m.ctl = 0 ∧
      m.xop = 0 ∧ m.setf = false ∧ k.getLsbD 3 = false) ∧
    (∃ (s : State) (m : Micro), s.Runs m ∧ s.Straight ∧ m.ctl = 1 ∧ m.xop < 0x10) ∧
    (∃ (s : State) (m : Micro), s.Runs m ∧ s.Straight ∧ m.ctl = 2 ∧ m.xop < 0x10 ∧ s.seq.calls.length < 16) ∧
    (∃ (s : State) (m : Micro) (a : BitVec 14) (r : List (BitVec 14)), s.Runs m ∧ s.Straight ∧ m.ctl = 3 ∧ m.xop = 0 ∧ m.setf = false
      ∧ s.seq.calls = a :: r) ∧
    (∃ (s : State) (m : Micro), s.Runs m ∧ s.Straight ∧ m.ctl = 4 ∧ m.xop = 0 ∧ m.setf = false ∧ s.sramBad 3 ((s.g m.sa).toNat % 256 /
      4) = false) ∧
    (∃ (s : State) (m : Micro), s.Runs m ∧ s.Straight ∧ m.ctl = 5 ∧ m.xop = 0 ∧ m.setf = false ∧ s.loopCount m ≠ 0) ∧
    (∃ (s : State) (m : Micro), s.Runs m ∧ s.Straight ∧ m.ctl = 5 ∧ m.xop = 0 ∧ m.setf = false ∧ s.loopCount m = 0) ∧
    (∃ (s : State) (m : Micro), s.Runs m ∧ s.Straight ∧ m.ctl = 6 ∧ m.xop = 0 ∧ m.setf = false ∧ s.modeError m = false) ∧
    (∃ (s : State) (m : Micro), s.Runs m ∧ s.Straight ∧ m.ctl = 7 ∧ m.setf = false) ∧
    (∃ (s : State) (n : Nat), s.seq.waiting = true ∧ (s.flag F.SEQ_CTRL_HALT = true → s.flag F.SEQ_STAT_HALTED = true) ∧ s.seq.wdog =
      false ∧ s.seq.loops = [] ∧ n ≠ 32 ∧ s.lowestIn (s.g (Fin.ofNat 32 (microOf (s.csWord s.pc)).carg)) = some n) ∧
    (∃ (s : State) (m : Micro), s.Runs m ∧ s.Straight ∧ m.ctl = 8 ∧ m.xop = 0 ∧ m.setf = false ∧ s.flag F.SEQ_MODE_XM = true ∧ (s.reg
      Reg.SEQ_EMODE).getLsbD 3 = false) ∧
    (∃ (s : State) (m : Micro), s.Runs m ∧ s.Straight ∧ m.ctl = 8 ∧ m.xop = 0 ∧ m.setf = false ∧ s.flag F.SEQ_MODE_XM = false ∧ s.flag
      F.SEQ_MODE_EM = true ∧ (s.reg Reg.SEQ_EVMODE).getLsbD 3 = false) ∧
    (∃ (s : State) (m : Micro), s.Runs m ∧ s.Straight ∧ m.ctl = 9 ∧ m.xop = 0 ∧ m.setf = false) :=
  ⟨⟨(seqAt (ctl 0) id State.reset), (word (ctl 0)), by constructor <;> decide +kernel, by constructor <;> decide +kernel,
     by decide +kernel⟩,
   ⟨(seqAt (ctl 0) id State.reset), (word (ctl 0)), by constructor <;> decide +kernel, by constructor <;> decide +kernel,
     by decide +kernel⟩,
   ⟨(seqAt (ctl 0) (fun q =>
     { q with branch := some { at_ := 5, target := none }, cs := [(5, alu 1 &&& ~~~0x800000000000000000#128), (0x3FF, ctl 0)] })
     State.reset), (word (ctl 0)), { at_ := 5, target := none }, by constructor <;> decide +kernel, by decide +kernel⟩,
   ⟨(seqAt (ctl 0) (fun q => { q with loops := [⟨7, 0x3FF, 2⟩] }) State.reset), (word (ctl 0)), ⟨7, 0x3FF, 2⟩, [],
     by constructor <;> decide +kernel, by decide +kernel⟩,
   ⟨(seqAt (ctl 0) (fun q => { q with loops := [⟨7, 0x3FF, 1⟩] }) State.reset), (word (ctl 0)), ⟨7, 0x3FF, 1⟩, [],
     by constructor <;> decide +kernel, by decide +kernel⟩,
   ⟨(seqAt (ctl 0) (fun q => { q with shadow := some 7 }) State.reset), (word (ctl 0)), 7, by constructor <;> decide +kernel,
     by decide +kernel⟩,
   ⟨(seqAt (ctl 1 9) id State.reset), (word (ctl 1 9)), by constructor <;> decide +kernel, by constructor <;> decide +kernel,
     by decide +kernel⟩,
   ⟨(seqAt (ctl 2 9) id State.reset), (word (ctl 2 9)), by constructor <;> decide +kernel, by constructor <;> decide +kernel,
     by decide +kernel⟩,
   ⟨(seqAt (ctl 3) (fun q => { q with calls := [77] }) State.reset), (word (ctl 3)), 77, [], by constructor <;> decide +kernel,
     by constructor <;> decide +kernel, by decide +kernel⟩,
   ⟨(seqAt (ctl 4) id State.reset), (word (ctl 4)), by constructor <;> decide +kernel, by constructor <;> decide +kernel,
     by decide +kernel⟩,
   ⟨(seqAt (ctl 5 9 0x80 4) id State.reset), (word (ctl 5 9 0x80 4)), by constructor <;> decide +kernel,
     by constructor <;> decide +kernel, by decide +kernel⟩,
   ⟨(seqAt (ctl 5 9 0x80 0) id State.reset), (word (ctl 5 9 0x80 0)), by constructor <;> decide +kernel,
     by constructor <;> decide +kernel, by decide +kernel⟩,
   ⟨(seqAt (ctl 6 0 0x44) id State.reset), (word (ctl 6 0 0x44)), by constructor <;> decide +kernel,
     by constructor <;> decide +kernel, by decide +kernel⟩,
   ⟨(seqAt (ctl 7) id State.reset), (word (ctl 7)), by constructor <;> decide +kernel, by constructor <;> decide +kernel,
     by decide +kernel⟩,
   ⟨(let s := (seqAt (ctl 7 0 1) (fun q => { q with waiting := true })); s.setReg (Reg.SEQ_EVT_PEND 1) 0x80000000), 63,
     by decide +kernel⟩,
   ⟨(seqAt (ctl 8) id (fld [(F.SEQ_MODE_XM, 1)] (mk [(Reg.SEQ_EPC, 5), (Reg.SEQ_EMODE, 4)]))), (word (ctl 8)),
     by constructor <;> decide +kernel, by constructor <;> decide +kernel, by decide +kernel⟩,
   ⟨(seqAt (ctl 8) id (fld [(F.SEQ_MODE_EM, 1)] (mk [(Reg.SEQ_EVPC, 5), (Reg.SEQ_EVMODE, 4)]))), (word (ctl 8)),
     by constructor <;> decide +kernel, by constructor <;> decide +kernel, by decide +kernel⟩,
   ⟨(seqAt (ctl 9) id State.reset), (word (ctl 9)), by constructor <;> decide +kernel, by constructor <;> decide +kernel,
     by decide +kernel⟩⟩

theorem witness_SeqAccesses :
    (∃ (s : State) (m : Micro), s.Runs m ∧ s.Straight ∧ m.ctl = 0 ∧ m.xop = 0x10 ∧ s.seqSpace (s.opAddr m) (2 ^ m.size) false = some 1
      ∧ s.sramBad 1 ((s.opAddr m - sramBase) / 8) = false) ∧
    (∃ (s : State) (m : Micro), s.Runs m ∧ s.Straight ∧ m.ctl = 0 ∧ m.xop = 0x11 ∧ s.seqSpace (s.opAddr m) (2 ^ m.size) false = some 1
      ∧ s.sramBad 1 ((s.opAddr m - sramBase) / 8) = false) ∧
    (∃ (s : State) (m : Micro), s.Runs m ∧ s.Straight ∧ m.ctl = 0 ∧ m.xop = 0x10 ∧ m.setf = false ∧ s.seqSpace (s.opAddr m) (2 ^
      m.size) false = some 0 ∧ s.policy (s.opAddr m) = 0 ∧ s.seq.stores = [] ∧ s.linePoisoned (s.opAddr m / 64 * 64) = false) ∧
    (∃ (s : State) (m : Micro), s.Runs m ∧ s.Straight ∧ m.ctl = 0 ∧ m.xop = 0x12 ∧ m.setf = false ∧ s.seqSpace (s.opAddr m) (2 ^
      m.size) true = some 1) ∧
    (∃ (s : State) (m : Micro), s.Runs m ∧ s.Straight ∧ m.ctl = 0 ∧ m.xop = 0x12 ∧ m.setf = false ∧ s.seqSpace (s.opAddr m) (2 ^
      m.size) true = some 0 ∧ s.policy (s.opAddr m) = 0 ∧ s.seq.stores.length < 8) ∧
    (∃ (s : State) (m : Micro) (a : Nat) (bs : List Byte), s.Runs m ∧ s.Straight ∧ m.ctl = 0 ∧ m.xop = 0x13 ∧ m.setf = false ∧
      s.seq.stores = [(a, bs)] ∧ a + bs.length ≤ 2 ^ 34) ∧
    (∃ (s u : State) (m : Micro) (v : Word), s.Runs m ∧ s.Straight ∧ s.access .seq false (s.opAddr m % 2 ^ 24) 0 = (.ok v, u) ∧ u.seq
      = s.seq ∧ u.pc = s.pc ∧ m.ctl = 0 ∧ m.xop = 0x18 ∧ m.setf = false ∧ u.hlk.drain = none ∧ u.pwr.soft = false) ∧
    (∃ (s u : State) (m : Micro) (v : Word), s.Runs m ∧ s.Straight ∧ s.access .seq true (s.opAddr m % 2 ^ 24) ((s.opB m).setWidth 32)
      = (.ok v, u) ∧ u.seq = s.seq ∧ u.pc = s.pc ∧ m.ctl = 0 ∧ m.xop = 0x19 ∧ m.setf = false ∧ u.hlk.drain = none ∧ u.pwr.soft =
      false) ∧
    (∃ (s : State) (m : Micro), s.Runs m ∧ s.Straight ∧ m.ctl = 0 ∧ m.xop = 0x10 ∧ s.seqSpace (s.opAddr m) (2 ^ m.size) false = none ∧
      s.flag F.SEQ_MODE_XM = false) ∧
    (∃ (s : State), s.Straight ∧ s.seqRuns = true ∧ s.seq.csBad.contains s.pc.toNat = false ∧ 10 ≤ (microOf (s.csWord s.pc)).ctl ∧
      s.rd F.SEQ_DBG_CTRL_EN = 0 ∧ s.seq.wdog = false ∧ s.hlk.drain = none ∧ s.pwr.soft = false ∧ s.flag F.SEQ_MODE_XM = false) ∧
    (∃ (s : State) (b : Branch), s.seqRuns = true ∧ s.seq.csBad.contains s.pc.toNat = false ∧ 10 ≤ (microOf (s.csWord s.pc)).ctl ∧
      s.rd F.SEQ_DBG_CTRL_EN = 0 ∧ s.seq.wdog = false ∧ s.hlk.drain = none ∧ s.pwr.soft = false ∧ s.seq.branch = some b ∧ s.flag
      F.SEQ_MODE_XM = false ∧ (microOf (s.csWord b.at_)).xop < 0x10) ∧
    (∃ (s : State), s.seqRuns = true ∧ s.seq.csBad.contains s.pc.toNat = false ∧ 10 ≤ (microOf (s.csWord s.pc)).ctl ∧ s.rd
      F.SEQ_DBG_CTRL_EN = 0 ∧ s.hlk.drain = none ∧ s.pwr.soft = false ∧ s.flag F.SEQ_MODE_XM = true ∧ s.taskRunning = true) :=
  ⟨⟨(seqAt (sramW 0x10 3) (fun q => { q with sram := [(8, 0x80)] }) State.reset), (word (sramW 0x10 3)),
     by constructor <;> decide +kernel, by constructor <;> decide +kernel, by decide +kernel⟩,
   ⟨(seqAt (sramW 0x11 0) (fun q => { q with sram := [(8, 0x80)] }) State.reset), (word (sramW 0x11 0)),
     by constructor <;> decide +kernel, by constructor <;> decide +kernel, by decide +kernel⟩,
   ⟨(seqAt (mw 0 0 0 0 0x10 3 0 2 0 2 0 0x44) id (fld [(F.SEQ_MODE_DRAM, 1)])), (word (mw 0 0 0 0 0x10 3 0 2 0 2 0 0x44)),
     by constructor <;> decide +kernel, by constructor <;> decide +kernel, by decide +kernel⟩,
   ⟨(seqAt (sramW 0x12 3) id State.reset), (word (sramW 0x12 3)), by constructor <;> decide +kernel,
     by constructor <;> decide +kernel, by decide +kernel⟩,
   ⟨(seqAt (mw 0 0 0 0 0x12 3 0 2 0 2 0 0x44) id (fld [(F.SEQ_MODE_DRAM, 1)])), (word (mw 0 0 0 0 0x12 3 0 2 0 2 0 0x44)),
     by constructor <;> decide +kernel, by constructor <;> decide +kernel, by decide +kernel⟩,
   ⟨(seqAt (mw 0 0 0 0 0x13 3 0 2 0 2 0 0) (fun q => { q with stores := [(0x44, [1,2,3,4])] }) State.reset), (word (mw 0 0 0 0 0x13 3
     0 2 0 2 0 0)), 0x44, [1,2,3,4], by constructor <;> decide +kernel, by constructor <;> decide +kernel, by decide +kernel⟩,
   ⟨(seqAt (mw 0 0 0 0 0x18 3 0 2 0 2 0 0x30000) id (started (fld [(F.SEQ_MODE_PRIV, 1)]))), ((seqAt (mw 0 0 0 0 0x18 3 0 2 0 2 0
     0x30000) id (started (fld [(F.SEQ_MODE_PRIV, 1)]))).access .seq false 0x30000 0).2, (word (mw 0 0 0 0 0x18 3 0 2 0 2 0 0x30000)),
     (State.reset.reg 0x30000), by constructor <;> decide +kernel, by constructor <;> decide +kernel, Prod.ext (by decide +kernel) (by
     rfl), rfl, rfl, by decide +kernel⟩,
   ⟨(seqAt (mw 0 0 0 0 0x19 3 0 2 0 2 0 0x30000) id (started (fld [(F.SEQ_MODE_PRIV, 1)]))), ((seqAt (mw 0 0 0 0 0x19 3 0 2 0 2 0
     0x30000) id (started (fld [(F.SEQ_MODE_PRIV, 1)]))).access .seq true 0x30000 1).2, (word (mw 0 0 0 0 0x19 3 0 2 0 2 0 0x30000)),
     0, by constructor <;> decide +kernel, by constructor <;> decide +kernel, Prod.ext (by decide +kernel) (by rfl), rfl, rfl,
     by decide +kernel⟩,
   ⟨(seqAt (mw 0 0 0 0 0x10 3 0 2 0 2 0 0x45) id State.reset), (word (mw 0 0 0 0 0x10 3 0 2 0 2 0 0x45)),
     by constructor <;> decide +kernel, by constructor <;> decide +kernel, by decide +kernel⟩,
   ⟨(seqAt (ctl 15)), by constructor <;> decide +kernel, by decide +kernel⟩,
   ⟨(seqAt (ctl 15) (fun q => { q with branch := some { at_ := 6, target := none }, cs := [(6, alu 2), (0x3FF, ctl 15)] })),
     { at_ := 6, target := none }, by decide +kernel⟩,
   ⟨(seqAt (ctl 15) id (fld [(F.SEQ_MODE_XM, 1),(F.TSK_STATE_STATE, 1)])), by decide +kernel⟩⟩

theorem witness_SeqEvents :
    (∃ (s : State) (n : Nat), s.seqRuns = true ∧ s.freeBoundary = true ∧ s.flag F.SEQ_MODE_EVEN = true ∧ s.flag F.SEQ_MODE_TASK = true
      ∧ n < 64 ∧ n ≠ 32 ∧ s.evPending n = true ∧ (s.reg (Reg.SEQ_EVT_EN (n / 32))).getLsbD (n % 32) = true ∧ (∀ k, k < n → s.evPending
      k = false ∨ (s.reg (Reg.SEQ_EVT_EN (k / 32))).getLsbD (k % 32) = false) ∧ s.tsk.unchecked = false ∧ s.seq.wdog = false) ∧
    (∃ (s : State), s.flag F.SEQ_WDOG_EN = true ∧ s.flag F.SEQ_STAT_HALTED = false ∧ s.seq.waiting = false ∧ s.freeBoundary = true ∧
      s.flag F.SEQ_MODE_XM = false ∧ s.seq.loops = []) ∧
    (∃ (s : State) (k : Fin 4), s.reg (Reg.SEQ_TMR_RLD k) ≠ 0) ∧
    (∃ (s : State) (m : Master), s.custodian m = true) ∧
    (∃ (s : State) (m : Master), s.custodian m = true ∧ s.flag F.SEQ_STAT_DFAULT = false ∧ s.flag F.SEQ_STAT_CSLOAD = true ∧
      s.seq.wdog = false) ∧
    (∃ (s : State) (m : Master) (w : Micro), (s.put F.SEQ_STAT_HALTED false).Runs w ∧ s.Straight ∧ s.custodian m = true ∧ s.flag
      F.SEQ_STAT_HALTED = true ∧ s.flag F.SEQ_STAT_DFAULT = false ∧ s.seq.waiting = false ∧ w.ctl = 0 ∧ w.xop = 0 ∧ w.setf = false) ∧
    (∃ (s : State) (m : Master) (n : Fin 64), s.custodian m = true ∧ n.val ≠ 32) :=
  ⟨⟨(seqAt (ctl 0) id (fld [(F.SEQ_MODE_EVEN, 1),(F.SEQ_MODE_TASK, 1)] (mk [(Reg.SEQ_EVT_PEND 1, 0x80000000),(Reg.SEQ_EVT_EN 1,
     0x80000000)]))), 63, by decide +kernel⟩,
   ⟨(seqAt (ctl 0) id (fld [(F.SEQ_WDOG_EN, 1)])), by decide +kernel⟩,
   ⟨(mk [(Reg.SEQ_TMR_RLD 3, 9)]), 3, by decide +kernel⟩,
   ⟨State.reset, .hostCust, by decide +kernel⟩,
   ⟨(fld [(F.SEQ_STAT_CSLOAD, 1)]), .hostCust, by decide +kernel⟩,
   ⟨((seqAt (ctl 0)).put F.SEQ_STAT_HALTED true), .hostCust, (word (ctl 0)), by constructor <;> decide +kernel,
     by constructor <;> decide +kernel, by decide +kernel⟩,
   ⟨State.reset, .hostCust, 63, by decide +kernel⟩⟩

theorem witness_CacheMaintenance :
    (∃ (s : State) (a : BitVec 34) (l : CLine), (s.seq.lines ++ s.seq.victims).filter (fun x => decide (x.addr = a.toNat / 64 * 64)) =
      [l] ∧ l.dirty = true ∧ l.poison = 0 ∧ l.data.length = 64) ∧
    (∃ (s : State) (a : BitVec 34) (l : CLine), (s.seq.lines ++ s.seq.victims).filter (fun x => decide (x.addr = a.toNat / 64 * 64)) =
      [l] ∧ l.dirty = true ∧ l.poison = 0 ∧ l.data.length = 64) ∧
    (∃ (s : State) (l : CLine), (s.seq.lines ++ s.seq.victims).filter (fun x => x.dirty) = [l] ∧ l.poison = 0 ∧ l.data.length = 64 ∧
      l.addr + 64 ≤ 2 ^ 34) ∧
    (∃ (s : State) (l : CLine), (s.seq.lines ++ s.seq.victims).filter (fun x => x.dirty) = [l] ∧ l.poison = 0 ∧ l.data.length = 64 ∧
      l.addr + 64 ≤ 2 ^ 34) ∧
    (∃ (s : State) (m : Master) (a : BitVec 24), isRegion a.toNat = true ∧ s.custodian m = true ∧ (s.seq.lines ++ s.seq.victims).all
      (fun l => !l.dirty) = true) :=
  ⟨⟨(State.reset.modSeq (fun q => { q with lines := [lineAt true] })), 130, (lineAt true), by decide +kernel⟩,
   ⟨(State.reset.modSeq (fun q => { q with lines := [lineAt true] })), 130, (lineAt true), by decide +kernel⟩,
   ⟨(State.reset.modSeq (fun q => { q with lines := [lineAt true] })), (lineAt true), by decide +kernel⟩,
   ⟨(State.reset.modSeq (fun q => { q with lines := [lineAt true] })), (lineAt true), by decide +kernel⟩,
   ⟨(State.reset.modSeq (fun q => { q with lines := [lineAt false] })), .hostCust, (BitVec.ofNat 24 (Reg.CCH_REG_LIM 7)),
     by decide +kernel⟩⟩

theorem witness_MemoryTraining :
    (∃ (s : State) (c : DramChan), s.flag (F.DMC_TRN_CTRL_TRAIN c) = true ∧ s.mem.helper[c] = 0) ∧
    (∃ (s : State) (c : DramChan), s.flag (F.DMC_TRN_CTRL_TRAIN c) = true ∧ s.mem.helper[c] = 0) ∧
    (∃ (s : State) (c : DramChan), s.flag (F.DMC_TRN_CTRL_TRAIN c) = false) ∧
    (∃ (s : State) (c : DramChan), s.mem.helper[c] = 1) ∧
    (∃ (s : State) (c : DramChan) (a z : Nat), s.mem.helper[c] = 2 ∧ a + 24 ≤ z) ∧
    (∃ (s : State) (c : DramChan) (a z : Nat), s.mem.helper[c] = 2 ∧ z < a + 24 ∧ s.rd (F.DMC_TRN_CTRL_STEP c) ≠ 2 ∧ s.flag
      F.PWR_START_DONE = false ∧ s.flag F.PWR_START_STOPPED = false) ∧
    (∃ (s : State), (∀ c : DramChan, s.flag (F.DMC_TRN_CTRL_TRAIN c) = false ∧ s.flag (F.DMC_CH_STAT_TRNFAIL c) = false)) ∧
    (∃ (s : State) (c : DramChan), (s.flag (F.DMC_TRN_CTRL_TRAIN c) = true ∨ s.flag (F.DMC_CH_STAT_TRNFAIL c) = true)) ∧
    (∃ (s : State), s.mem.filling = true) :=
  ⟨⟨(fld [(F.DMC_TRN_CTRL_TRAIN 3,1)]), 3, by decide +kernel⟩,
   ⟨(fld [(F.DMC_TRN_CTRL_TRAIN 3,1)]), 3, by decide +kernel⟩,
   ⟨State.reset, 3, by decide +kernel⟩,
   ⟨(helperOn 3 1), 3, by decide +kernel⟩,
   ⟨(helperOn 3 2), 3, 10, 34, by decide +kernel⟩,
   ⟨(helperOn 3 2), 3, 10, 33, by decide +kernel⟩,
   ⟨(fld [(F.PWR_START_STEP, 8)]), by decide +kernel⟩,
   ⟨(fld [(F.DMC_CH_STAT_TRNFAIL 3,1)]), 3, by decide +kernel⟩,
   ⟨(let s := State.reset.modMem (fun m => { m with filling := true }); { s with dram := [(5,7)], psn := [3] }), by decide +kernel⟩⟩

theorem witness_SkinkInDram :
    (∃ (s : State), s.SkinkMay ∧ s.linePoisoned (s.pair Reg.MIC_SKINK_POS_LO) = false ∧ s.pair Reg.MIC_SKINK_POS_LO + 64 < 2 ^ 34) ∧
    (∃ (s : State), s.SkinkMay ∧ s.linePoisoned (s.pair Reg.MIC_SKINK_POS_LO) = false ∧ s.pair Reg.MIC_SKINK_POS_LO + 64 < 2 ^ 34) ∧
    (∃ (s : State), s.SkinkMay ∧ s.linePoisoned (s.pair Reg.MIC_SKINK_POS_LO) = false ∧ s.pair Reg.MIC_SKINK_POS_LO + 64 < 2 ^ 34 ∧
      s.mem.rows = [] ∧ s.rd F.MIC_D_CFG_ROWN ≠ 1) ∧
    (∃ (s : State), s.SkinkMay ∧ s.linePoisoned (s.pair Reg.MIC_SKINK_POS_LO) = false ∧ s.pair Reg.MIC_SKINK_POS_LO + 64 < 2 ^ 34 ∧
      s.rd F.MIC_D_CFG_PINN ≠ s.mem.pins[s.dramCh (s.pair Reg.MIC_SKINK_POS_LO)] + 1) ∧
    (∃ (s : State), s.SkinkMay ∧ s.pair Reg.MIC_SKINK_POS_LO = 2 ^ 34 - 64) ∧
    (∃ (s : State), s.flag F.MIC_SKINK_CFG_EN = false) :=
  ⟨⟨(skinkAt 128 (skinkOn)), by unfold State.SkinkMay; decide +kernel, by decide +kernel⟩,
   ⟨(skinkAt 128 (skinkOn)), by unfold State.SkinkMay; decide +kernel, by decide +kernel⟩,
   ⟨(skinkAt 128 (skinkOn)), by unfold State.SkinkMay; decide +kernel, by decide +kernel⟩,
   ⟨(skinkAt 128 (skinkOn)), by unfold State.SkinkMay; decide +kernel, by decide +kernel⟩,
   ⟨(skinkAt (2^34-64) skinkOn), by unfold State.SkinkMay; decide +kernel, by decide +kernel⟩,
   ⟨(fld [(F.MIC_SKINK_CFG_EN, 0)]), by decide +kernel⟩⟩

theorem witness_SramRowsAndRefresh :
    (∃ (s : State) (m : Fin 1024) (w : Fin 65536) (k : Fin 20), s.SramSkinkMay ∧ w.val ≠ 65535 ∧ s.unitIsBad k.val (unitOf k m w) =
      false) ∧
    (∃ (s : State) (m : Fin 1024) (w : Fin 65536) (k : Fin 20), s.SramSkinkMay ∧ w.val ≠ 65535 ∧ s.unitIsBad k.val (unitOf k m w) =
      false ∧ s.mem.words = [] ∧ s.rd F.MIC_S_CFG_CEN ≠ 1) ∧
    (∃ (s : State) (m : Fin 1024) (w : Fin 65536) (k : Fin 20), s.SramSkinkMay ∧ w.val ≠ 65535 ∧ s.unitIsBad k.val (unitOf k m w) =
      false ∧ k.val ≠ 2) ∧
    (∃ (s : State) (m : Fin 1024) (w : Fin 65536), s.SramSkinkMay ∧ w.val ≠ 65535 ∧ s.sramBad 2 (unitOf 2 m w) = false) ∧
    (∃ (s : State) (m : Fin 1024) (w : Fin 65536) (k : Fin 20), s.SramSkinkMay ∧ s.unitIsBad k.val (unitOf k m w) = true ∧ w.val ≠
      65535) ∧
    (∃ (s : State) (m : Fin 1024) (k : Fin 20), s.SramSkinkMay ∧ s.unitIsBad k.val (unitOf k m 65535) = false) ∧
    (∃ (s : State) (c : DramChan) (k : Bool) (b : Fin 16) (row : Fin 131072) (e : Fin 64), s.mem.granted = [(e,
      { ch := c, check := k, bank := b, row := row.val })]) ∧
    (∃ (s : State) (c : DramChan) (b : Fin 16), (s.mem.banks[bankNo c b]).opened = true) ∧
    (∃ (s : State) (c : DramChan) (b : Fin 16), (s.mem.banks[bankNo c b]).opened = false) :=
  ⟨⟨sramOn, 1023, 65534, 19, by unfold State.SramSkinkMay; decide +kernel, by decide +kernel⟩,
   ⟨sramOn, 1023, 65534, 19, by unfold State.SramSkinkMay; decide +kernel, by decide +kernel⟩,
   ⟨sramOn, 1023, 65534, 19, by unfold State.SramSkinkMay; decide +kernel, by decide +kernel⟩,
   ⟨(sramOn.modSeq (fun q => { q with lines := List.replicate 48 (lineAt true) })), 1023, 65534,
     by unfold State.SramSkinkMay; decide +kernel, by decide +kernel⟩,
   ⟨sramBadOne, 1023, 65534, 19, by unfold State.SramSkinkMay; decide +kernel, badUnit, by decide +kernel⟩,
   ⟨sramOn, 1023, 19, by unfold State.SramSkinkMay; decide +kernel, by decide +kernel⟩,
   ⟨(State.reset.modMem (fun m => { m with granted := [(63, { ch := 3, check := true, bank := 15, row := 131071 })] })), 3, true, 15,
     131071, 63, by decide +kernel⟩,
   ⟨rowOpen, 3, 15, by decide +kernel⟩,
   ⟨rowOpen, 3, 14, by decide +kernel⟩⟩

theorem witness_FlashOperations :
    (∃ (s : State) (m : Master), s.programBusy = false ∧ flashMay m (s.flcWord / 1024) = true) ∧
    (∃ (s : State) (m : Master), s.eraseBusy = false ∧ flashMay m (s.flcWord / 1024) = true) ∧
    (∃ (s : State) (m : Master), s.flc.op = none ∧ s.flc.susp = none ∧ flashMay m (s.flcWord / 1024) = false) ∧
    (∃ (s : State), s.programBusy = true) ∧
    (∃ (s : State) (us sec : Nat), s.flc.op = some (.erase sec) ∧ s.flc.susp = none ∧ s.flc.failed = false ∧ 200 ≤ us) ∧
    (∃ (s : State) (us w : Nat) (v : Word), s.flc.op = some (.program w v) ∧ s.flc.susp = none ∧ s.flc.failed = false ∧ 200 ≤ us) ∧
    (∃ (s : State) (o : FlcOp) (us : Nat), s.flc.op = some o ∧ s.flc.susp = none ∧ us < 200) ∧
    (∃ (s : State) (o : FlcOp), s.flc.op = none ∧ s.flc.susp = some o) ∧
    (∃ (s : State) (c : Fin 2), s.flag (F.FLC_MC_STAT_BAD c) = false ∧ s.flc.op = none ∧ s.flc.susp = none) ∧
    (∃ (m : Master), m ≠ .seq) ∧
    (∃ (s : State) (w : Nat) (v : Word), s.flc.op = some (.program w v) ∧ s.flc.failed = false ∧ s.flc.incs = []) ∧
    (∃ (s : State) (sec : Nat), s.flc.op = some (.erase sec) ∧ s.flc.failed = false ∧ s.flc.incs = []) ∧
    (∃ (s : State) (c : Fin 2) (a b : Nat) (both : Bool) (base n k : Nat), s.flc.op = some (.inc c) ∧ s.flc.failed = false ∧
      s.flc.incs = [] ∧ s.flc.undef = [] ∧ (s.mcWinner c false).1 = some (a, b, both, base, n, k) ∧ n < 1020) ∧
    (∃ (s : State) (w : Nat) (v : Word), s.flc.op = some (.program w v) ∧ s.flc.failed = false) ∧
    (∃ (s : State) (sec : Nat), s.flc.op = some (.erase sec) ∧ s.flc.failed = false) ∧
    (∃ (s : State) (w : Nat) (v : Word) (e : Fin 64), s.flc.op = some (.program w v) ∧ s.flc.spare = some e ∧ s.physSec (w / 1024) = w
      / 1024 ∧ w / 1024 < 16320 ∧ s.flc.undef = [] ∧ (∀ j, j < 1024 → s.flashWord (1024 * (16320 + e.val) + j) = erasedWord)) ∧
    (∃ (s : State) (sec : Nat) (e : Fin 64), s.flc.op = some (.erase sec) ∧ s.flc.spare = some e ∧ s.physSec sec = sec ∧ sec < 16320) :=
  ⟨⟨(flcAt (1024*5)), .hostCust, by decide +kernel⟩,
   ⟨(flcAt (1024*5)), .hostCust, by decide +kernel⟩,
   ⟨(flcAt (1024*1025)), .hostCust, by decide +kernel⟩,
   ⟨(flcAt 0 (fun f => { f with susp := some (.erase 0) })), by decide +kernel⟩,
   ⟨(flcAt 0 (fun f => { f with op := some (.erase 5) })), 200, 5, by decide +kernel⟩,
   ⟨(flcAt 0 (fun f => { f with op := some (.program 5 7) })), 200, 5, 7, by decide +kernel⟩,
   ⟨(flcAt 0 (fun f => { f with op := some (.erase 5) })), (.erase 5), 199, by decide +kernel⟩,
   ⟨(flcAt 0 (fun f => { f with susp := some (.erase 5) })), (.erase 5), by decide +kernel⟩,
   ⟨State.reset, 1, by decide +kernel⟩,
   ⟨.hostCust, by decide +kernel⟩,
   ⟨(flcAt 0 (fun f => { f with op := some (.program 5 7), words := [(5, 12)] })), 5, 7, by decide +kernel⟩,
   ⟨(flcAt 0 (fun f => { f with op := some (.erase 5), words := [(5, 12), (5*1024, 3)] })), 5, by decide +kernel⟩,
   ⟨withCounter, 1, 1026, 1027, false, 5, 1, 0, by decide +kernel⟩,
   ⟨(flcAt 0 (fun f => { f with op := some (.program 5000 7) })), 5000, 7, by decide +kernel⟩,
   ⟨(flcAt 0 (fun f => { f with op := some (.erase 16383) })), 16383, by decide +kernel⟩,
   ⟨(flcAt 0 (fun f => { f with op := some (.program 5000 7), failed := true, spare := some 63, words := [(4096,5),(5119,6)] })),
     5000, 7, 63, by decide +kernel⟩,
   ⟨(flcAt 0 (fun f => { f with op := some (.erase 5), failed := true, spare := some 63, words := [(4096,5),(5120,6)] })), 5, 63,
     by decide +kernel⟩⟩

theorem witness_ConfigurationImage :
    (∃ (s : State) (img : List Byte) (c typ : Nat), s.ImageDue img ∧ s.imageFault img = some (c, typ) ∧ s.flag F.HLK_ID_VALID = false
      ∧ s.flag F.PWR_START_DONE = false) ∧
    (∃ (s : State) (img : List Byte), s.ImageDue img ∧ s.imageFault img = none) ∧
    (∃ (s : State) (img ser cs dis ver : List Byte) (p q r z : Bool), s.ImageDue img ∧ s.imageFault img = none ∧ s.flag F.SRV_CTRL_EN
      = false ∧ imageRecords img = some [⟨1, p, ser⟩, ⟨0x10, q, cs⟩, ⟨0x11, r, dis⟩, ⟨0x12, z, ver⟩]) ∧
    (∃ (s : State) (m : Master) (d img : List Byte) (q : Bool), reaches m = true ∧ s.privRefused m true Reg.CFG_CMD = false ∧ s.flag
      F.SEQ_STAT_DFILL = true ∧ s.flc.undef = [] ∧ (s.wr F.CFG_STAT_PASS 3).readImage.1 = img ∧ s.imageTagOk img = true ∧
      (imageRecords img).map (fun rs => rs.filter (fun r => decide (r.typ = 0x0030) && r.fault.isNone)) = some [⟨0x30, q, d⟩] ∧ s.rd
      F.PWR_START_STEP ≠ 10) ∧
    (∃ (s : State), s.flag F.SEQ_STAT_DFILL = false) :=
  ⟨⟨(withImage []), ((withImage []).readImage.1), 1, 0, by unfold State.ImageDue; decide +kernel, by decide +kernel⟩,
   ⟨(withImage img1), img1, img1_due, img1_sound⟩,
   ⟨(withImage img1), img1, serD, csD, disD, verD, true, true, true, true, img1_due, img1_sound, by decide +kernel⟩,
   ⟨((withImage img2).put F.SEQ_STAT_DFILL true), .hostCust, drD, img2, true, by decide +kernel⟩,
   ⟨State.reset, by decide +kernel⟩⟩

theorem witness_CipherCommands :
    (∃ (s : State) (m : Master), s.flag F.CPH_LOCK_HELD = false ∧ (m = .hostOp → s.keyless = true)) ∧
    (∃ (s : State) (m : Master), (s.flag F.CPH_LOCK_HELD = true ∨ (m = .hostOp ∧ s.keyless = false))) ∧
    (∃ (s : State) (m : Master), s.cphOwner m = true) ∧
    (∃ (s : State) (m : Master), s.cphOwner m = false) ∧
    (∃ (s : State) (m : Master), s.cphOwner m = false) ∧
    (∃ (s : State) (m : Master), s.cphOwner m = true ∧ s.flag F.CPH_STAT_BUSY = true) ∧
    (∃ (s : State) (m : Master) (v : Word) (k : Slot), s.CphMay m ∧ s.DstTakes (F.CPH_CMD_DST.of v) ∧ s.cph.slots[(Fin.ofNat 8
      (F.CPH_CMD_SLOT.of v) : Fin 8)] = some k ∧ usageOk k.usage (F.CPH_CMD_KV.of v) 1 (F.CPH_CMD_DST.of v) = true) ∧
    (∃ (s : State) (m : Master) (v : Word) (k : Slot), s.CphMay m ∧ s.DstTakes (F.CPH_CMD_DST.of v) ∧ s.cph.slots[(Fin.ofNat 8
      (F.CPH_CMD_SLOT.of v) : Fin 8)] = some k ∧ usageOk k.usage (F.CPH_CMD_KV.of v) 2 (F.CPH_CMD_DST.of v) = true) ∧
    (∃ (s : State) (m : Master) (v : Word), s.CphMay m ∧ s.cph.slots[(Fin.ofNat 8 (F.CPH_CMD_SLOT.of v) : Fin 8)] = none) ∧
    (∃ (s : State) (m : Master) (v : Word) (k : Slot), s.CphMay m ∧ s.cph.slots[(Fin.ofNat 8 (F.CPH_CMD_SLOT.of v) : Fin 8)] = some k
      ∧ F.CPH_CMD_DST.of v ≠ 3 ∧ usageOk k.usage (F.CPH_CMD_KV.of v) 1 (F.CPH_CMD_DST.of v) = false) ∧
    (∃ (s : State) (m : Master) (v : Word) (k : Slot), s.CphMay m ∧ s.cph.slots[(Fin.ofNat 8 (F.CPH_CMD_SLOT.of v) : Fin 8)] = some k
      ∧ k.usage = 1 ∧ F.CPH_CMD_DST.of v = 2 ∧ (s.flag F.CPH_STAT_RELEASED = true ∨ 16384 < (s.reg Reg.CPH_SB_PTR).toNat + 16)) ∧
    (∃ (s : State) (m : Master), s.CphMay m ∧ s.flag F.CPH_STAT_RELEASED = false) ∧
    (∃ (s : State) (m : Master), s.CphMay m ∧ s.flag F.CPH_STAT_RELEASED = true) ∧
    (∃ (s : State) (m : Master), s.CphMay m) ∧
    (∃ (s : State) (m : Master) (u id : Nat) (i : Fin 8) (key kek : List Byte), s.CphMay m ∧ s.keyless = false ∧ s.cph.kek = some kek
      ∧ s.unwrapBlob kek = some (u, i.val, id, key) ∧ (u = 1 ∨ u = 2)) ∧
    (∃ (s : State) (m : Master) (kek : List Byte), s.CphMay m ∧ s.keyless = false ∧ s.cph.kek = some kek ∧ s.unwrapBlob kek = none) ∧
    (∃ (s : State) (m : Master), s.CphMay m ∧ s.keyless = true) ∧
    (∃ (s : State) (m : Master), s.CphReady m ∧ (s.keyless = true ∨ s.custodian m = true)) ∧
    (∃ (s : State) (m : Master), s.CphReady m ∧ s.keyless = false ∧ s.custodian m = false) ∧
    (∃ (s : State) (m : Master), s.CphMay m) ∧
    (∃ (s : State), s.CphReady .hostOp) :=
  ⟨⟨State.reset, .hostOp, by decide +kernel⟩,
   ⟨(keyed), .hostOp, by decide +kernel⟩,
   ⟨(op .seal ready), .seq, by decide +kernel⟩,
   ⟨ready, .hostCust, by decide +kernel⟩,
   ⟨ready, .hostCust, by decide +kernel⟩,
   ⟨(ready.put F.CPH_STAT_BUSY true), .seq, by decide +kernel⟩,
   ⟨(slotOn 1), .seq, 0x07000100, ⟨1, keyA, 3⟩, by unfold State.CphMay State.CphReady; decide +kernel,
     by unfold State.DstTakes; decide +kernel, by decide +kernel⟩,
   ⟨(slotOn 1), .seq, 0x07020100, ⟨1, keyA, 3⟩, by unfold State.CphMay State.CphReady; decide +kernel,
     by unfold State.DstTakes; decide +kernel, by decide +kernel⟩,
   ⟨ready, .seq, 0x07000100, by unfold State.CphMay State.CphReady; decide +kernel, by decide +kernel⟩,
   ⟨(slotOn 2), .seq, 0x07000100, ⟨2, keyA, 3⟩, by unfold State.CphMay State.CphReady; decide +kernel, by decide +kernel⟩,
   ⟨(slotOn 1 (ready.put F.CPH_STAT_RELEASED true)), .seq, 0x07020100, ⟨1, keyA, 3⟩,
     by unfold State.CphMay State.CphReady; decide +kernel, by decide +kernel⟩,
   ⟨ready, .seq, by unfold State.CphMay State.CphReady; decide +kernel, by decide +kernel⟩,
   ⟨(ready.put F.CPH_STAT_RELEASED true), .seq, by unfold State.CphMay State.CphReady; decide +kernel, by decide +kernel⟩,
   ⟨ready, .seq, by unfold State.CphMay State.CphReady; decide +kernel⟩,
   ⟨(withBlob (beBytes 56
     213673060973778495154000302157577155104916721868337598574239228170043667429063262775207041858069779644453335426200756869262314663524274)
     (keyed ready)), .seq, 2, 9, 7, out16x2, keyA, by unfold State.CphMay State.CphReady; decide +kernel, by decide +kernel⟩,
   ⟨(keyed ready), .seq, keyA, by unfold State.CphMay State.CphReady; decide +kernel, by decide +kernel⟩,
   ⟨ready, .seq, by unfold State.CphMay State.CphReady; decide +kernel, by decide +kernel⟩,
   ⟨ready, .seq, by unfold State.CphReady; decide +kernel, by decide +kernel⟩,
   ⟨((keyed ready).put F.SEQ_MODE_PRIV false), .seq, by unfold State.CphReady; decide +kernel, by decide +kernel⟩,
   ⟨ready, .seq, by unfold State.CphMay State.CphReady; decide +kernel⟩,
   ⟨(fld [(F.CPH_LOCK_HELD, 1), (F.CPH_LOCK_OWNER, masterId .hostOp)]), by unfold State.CphReady; decide +kernel⟩⟩

theorem witness_CipherResults :
    (∃ (s : State) (out : List Byte), s.cph.op = some (.block 0 out)) ∧
    (∃ (s : State) (out : List Byte), s.cph.op = some (.block 1 out)) ∧
    (∃ (s : State) (out : List Byte), s.cph.op = some (.block 2 out) ∧ (s.reg Reg.CPH_SB_PTR).toNat + 16 ≤ 16384) ∧
    (∃ (s : State) (short : Bool) (tag : List Byte), s.cph.op = some (.tagcmp short) ∧ s.cph.tag = some tag ∧ tag.take (if short then
      8 else 16) = (s.regBytes (Reg.CPH_TAG_EXP 0) 4).take (if short then 8 else 16)) ∧
    (∃ (s : State) (short : Bool), s.cph.op = some (.tagcmp short) ∧ s.cph.tag.map (·.take (if short then 8 else 16)) ≠ some
      ((s.regBytes (Reg.CPH_TAG_EXP 0) 4).take (if short then 8 else 16))) ∧
    (∃ (s : State), s.cph.op = some .seal) ∧
    (∃ (s : State) (i : Fin 8) (k : Slot), s.cph.op = some (.load i k) ∧ k.usage < 16 ∧ (∀ j : Fin 8, ((s.cph.slots[j].map
      (·.usage)).getD 0) < 16)) ∧
    (∃ (s : State) (i : Fin 8), s.cph.op = some (.clear i)) ∧
    (∃ (s : State) (key cak : List Byte) (id : Nat), s.cph.op = some (.store 0x10 key id) ∧ s.cph.cak = some cak) ∧
    (∃ (s : State) (key : List Byte) (id : Nat), s.cph.op = some (.store 0x11 key id) ∧ s.cph.kek = none) ∧
    (∃ (s : State) (key : List Byte) (id : Nat), s.cph.op = some (.store 0x12 key id)) :=
  ⟨⟨(op (.block 0 out16)), out16, by decide +kernel⟩,
   ⟨(op (.block 1 out16)), out16, by decide +kernel⟩,
   ⟨(op (.block 2 out16) (mk [(Reg.CPH_SB_PTR, 16368)])), out16, by decide +kernel⟩,
   ⟨(cph (fun c => { c with tag := some (List.replicate 16 0) }) (op (.tagcmp true))), true, (List.replicate 16 0), by decide +kernel⟩,
   ⟨(op (.tagcmp false)), false, by decide +kernel⟩,
   ⟨(op .seal), by decide +kernel⟩,
   ⟨(op (.load 7 ⟨2, keyA, 3⟩)), 7, ⟨2, keyA, 3⟩, by decide +kernel⟩,
   ⟨(slotOn 2 (op (.clear 7))), 7, by decide +kernel⟩,
   ⟨(cph (fun c => { c with cak := some keyA }) (op (.store 0x10 keyA 9))), keyA, keyA, 9, by decide +kernel⟩,
   ⟨(op (.store 0x11 keyA 9)), keyA, 9, by decide +kernel⟩,
   ⟨(op (.store 0x12 keyA 9)), keyA, 9, by decide +kernel⟩⟩

theorem witness_SessionsAndBackup :
    (∃ (s : State), s.flag F.CPH_SESS_STAT_OPEN = false ∧ s.keyless = false ∧ s.flag F.CPH_SESS_STAT_LOCKOUT = false) ∧
    (∃ (s : State), s.flag F.CPH_SESS_STAT_OPEN = false ∧ (s.keyless = true ∨ s.flag F.CPH_SESS_STAT_LOCKOUT = true)) ∧
    (∃ (s : State) (w : Word) (chal cak : List Byte), s.cph.chal = some chal ∧ s.cph.cak = some cak ∧ (s.setReg (Reg.CPH_SESS_RESP 3)
      w).regBytes (Reg.CPH_SESS_RESP 0) 4 = s.sessionTag cak chal) ∧
    (∃ (s : State) (w : Word), (∀ chal cak, s.cph.chal = some chal → s.cph.cak = some cak →       (s.setReg (Reg.CPH_SESS_RESP 3)
      w).regBytes (Reg.CPH_SESS_RESP 0) 4 ≠ s.sessionTag cak chal)) ∧
    (∃ (s : State) (m : Master), s.custodian m = true ∧ s.flag F.CPH_SESS_STAT_OPEN = true ∧ s.cphOwner .hostCust = false) ∧
    (∃ (s : State) (m : Master), s.custodian m = true ∧ s.flag F.CPH_SESS_STAT_OPEN = true ∧ s.cphOwner .hostCust = true) ∧
    (∃ (s : State), s.flag F.CPH_SESS_STAT_LOCKOUT = true) ∧
    (∃ (s : State) (n : Fin 2), s.flag (tampEn n) = true ∧ s.cph.loops.getLsbD n.val = false ∧ s.taskRunning = false) ∧
    (∃ (s : State) (n : Fin 2), (s.flag (tampEn n) = false ∨ s.cph.loops.getLsbD n.val = true)) ∧
    (∃ (s : State) (d : Int), signed 8 (s.rd F.BKP_TEMP_CFG_HI) < d ∧ s.cph.excHi = false ∧ signed 8 (s.rd F.BKP_TEMP_CFG_LO) ≤ d ∧
      s.rd F.BKP_LOG_HEAD_COUNT < 8) ∧
    (∃ (s : State) (d : Int), d ≤ signed 8 (s.rd F.BKP_TEMP_CFG_HI) - 2 ∧ signed 8 (s.rd F.BKP_TEMP_CFG_LO) + 2 ≤ d) ∧
    (∃ (s : State) (m : Master), s.custodian m = true) ∧
    (∃ (s : State) (m : Master), s.custodian m = false) :=
  ⟨⟨keyed, by decide +kernel⟩,
   ⟨State.reset, by decide +kernel⟩,
   ⟨sessOk, (sessOk.reg (Reg.CPH_SESS_RESP 3)), chal0, keyA, by decide +kernel⟩,
   ⟨State.reset, 7, nofun⟩,
   ⟨(fld [(F.CPH_SESS_STAT_OPEN, 1)]), .hostCust, by decide +kernel⟩,
   ⟨(fld [(F.CPH_SESS_STAT_OPEN, 1),(F.CPH_LOCK_HELD, 1),(F.CPH_LOCK_OWNER, 1)]), .hostCust, by decide +kernel⟩,
   ⟨(fld [(F.CPH_SESS_STAT_LOCKOUT, 1)]), by decide +kernel⟩,
   ⟨(slotOn 1 (keyed (fld [(tampEn 1, 1),(F.BKP_LOG_HEAD_COUNT, 8),(F.TSK_CTRL_EV_ATT,1),(F.CPH_SESS_STAT_OPEN, 1)] ready))), 1,
     by decide +kernel⟩,
   ⟨State.reset, 1, by decide +kernel⟩,
   ⟨State.reset, 86, by decide +kernel⟩,
   ⟨State.reset, 25, by decide +kernel⟩,
   ⟨(mk [(Reg.BKP_LOG 7 1, 5)]), .hostCust, by decide +kernel⟩,
   ⟨State.reset, .hostOp, by decide +kernel⟩⟩

theorem witness_PairOwnership :
    (∃ (s : State), s.owned = false) ∧
    (∃ (s : State), s.owned = false ∧ s.flag F.MIR_STAT_OWNSELF = false) ∧
    (∃ (s : State), s.owned = true ∧ s.mir.giving = false) ∧
    (∃ (s : State), s.owned = true ∧ s.mir.giving = true) ∧
    (∃ (s : State) (c : SupCause), s.supFails c = true ∧ s.mir.pulse = true) ∧
    (∃ (s : State) (c : SupCause), s.supFails c = false) ∧
    (∃ (s : State), s.mayClaim = true ∧ s.rd F.MIR_STAT_ROLE ≠ 2) ∧
    (∃ (s : State) (p : List (List Byte)), s.mayClaim = true ∧ s.rd F.MIR_STAT_ROLE = 2 ∧ s.partner 3 = false ∧ s.mir.newest = some p
      ∧ s.flag F.MIR_STAT_DEG = false ∧ (s.reg Reg.MIR_AGE).toNat ≤ s.rd F.MIR_CFG_AGEMAX) ∧
    (∃ (s : State), s.mayClaim = true ∧ s.rd F.MIR_STAT_ROLE = 2 ∧ (s.mir.newest = none ∨ s.flag F.MIR_STAT_DEG = true)) ∧
    (∃ (s : State), s.mayClaim = false) ∧
    (∃ (s : State), s.mir.wants = false ∧ s.mir.giving = true ∧ s.partner 2 = false ∧ s.taskRunning = true) ∧
    (∃ (s : State), s.mir.wants = true ∧ s.taskRunning = true ∧ s.opcode = 0x50) ∧
    (∃ (s : State), s.mir.wants = false ∧ (s.mir.giving = false ∨ s.partner 2 = true)) ∧
    (∃ (s : State) (h : Dword) (x : List Byte), s.MirrorIn h ∧ beAt x 0 1 = 0x20 ∧ beAt x 6 2 = 0x32 ∧ s.flag F.MIR_CTRL_PAIR = true ∧
      s.rd F.MIR_STAT_RED = 1 ∧ s.flag F.MIR_STAT_DEG = false ∧ s.rd F.MIR_STAT_ROLE = 1 ∧ s.mir.wants = true ∧ s.mir.giving = false ∧
      s.taskRunning = true ∧ s.opcode = 0x50) :=
  ⟨⟨State.reset, by decide +kernel⟩,
   ⟨(fld [(F.MIR_STAT_SIDE, 1)]), by decide +kernel⟩,
   ⟨(running owner), by decide +kernel⟩,
   ⟨(mir (fun m => { m with giving := true }) owner), by decide +kernel⟩,
   ⟨(mir (fun m => { m with pulse := true })), .copies, by decide +kernel⟩,
   ⟨State.reset, .lanes, by decide +kernel⟩,
   ⟨(armedS), by decide +kernel⟩,
   ⟨(stand [] (fun m => { m with newest := some rec1 })), rec1, by decide +kernel⟩,
   ⟨((stand).setReg Reg.MIR_PART_STAT 8), by decide +kernel⟩,
   ⟨State.reset, by decide +kernel⟩,
   ⟨(running (mir (fun m => { m with giving := true, quiet := true }))), by decide +kernel⟩,
   ⟨(hand (fun m => { m with wants := true })), by decide +kernel⟩,
   ⟨State.reset, by decide +kernel⟩,
   ⟨(mir (fun m => { m with wants := true }) (portIn (portM (fld [(F.MIR_CTRL_PAIR, 1),(F.MIR_STAT_RED, 1),(F.MIR_STAT_ROLE,
     1),(F.MIR_STAT_HBOK, 1),(F.MIR_CTRL_EN, 1)] (hand id))))), mirrHdr, (part 0x20 [(7, 0x32)]),
     by unfold State.MirrorIn State.NextIn; decide +kernel, by decide +kernel⟩⟩

theorem witness_Mirroring :
    (∃ (s : State), s.PortFree 2 ∧ s.flag F.MIR_CTRL_EN = true) ∧
    (∃ (s : State), s.flag F.MIR_STAT_HBOK = true ∧ s.flag F.MIR_CTRL_PAIR = true) ∧
    (∃ (s : State) (h : Dword) (x : List Byte), s.MirrorIn h ∧ s.MirrorQuiet ∧ beAt x 0 1 = 0x10) ∧
    (∃ (s : State) (h : Dword) (x : List Byte), s.MirrorIn h ∧ s.MirrorQuiet ∧ beAt x 0 1 = 0x11) ∧
    (∃ (s : State) (h : Dword) (x : List Byte) (e : Nat), s.MirrorIn h ∧ s.MirrorQuiet ∧ beAt x 0 1 = 0x12 ∧ beAt x 8 8 = e ∧ e ≠ 2 ^
      64 - 1 ∧ e / 2 ^ 8 % 2 ^ 16 ≠ 0 ∧ (∀ k : Fin 12, beAt x (16 + 8 * k.val) 8 = 0)) ∧
    (∃ (s : State) (h : Dword) (x : List Byte), s.MirrorIn h ∧ s.MirrorQuiet ∧ beAt x 0 1 = 0x13 ∧ beAt x 10 2 ≠ 0 ∧ beAt x 8 2 < 320
      ∧ (∀ k : Fin 25, beAt x (14 + 4 * k.val) 2 = 0)) ∧
    (∃ (s : State) (h : Dword) (x : List Byte), s.MirrorIn h ∧ s.MirrorQuiet ∧ beAt x 0 1 = 0x20) ∧
    (∃ (s : State) (h : Dword) (x a b c : List Byte), s.MirrorIn h ∧ s.MirrorQuiet ∧ beAt x 0 1 = 4 ∧ s.mir.seq = beAt x 2 4 ∧
      s.mir.parts = [a, b, c] ∧ beAt a 0 1 = 1 ∧ beAt b 0 1 = 2 ∧ beAt c 0 1 = 3) ∧
    (∃ (s : State) (p : List (List Byte)), s.rd F.MIR_STAT_ROLE = 2 ∧ s.mir.fresh = true ∧ s.mir.newest = some p ∧ s.owned = false ∧
      s.taskRunning = false) ∧
    (∃ (s : State), s.rd F.MIR_STAT_ROLE = 2 ∧ s.mir.fresh = false ∧ s.owned = false ∧ s.taskRunning = false) :=
  ⟨⟨(portM (fld [(F.MIR_CTRL_EN, 1)])), by constructor <;> decide +kernel, by decide +kernel⟩,
   ⟨(fld [(F.MIR_STAT_HBOK, 1),(F.MIR_CTRL_PAIR, 1)]), by decide +kernel⟩,
   ⟨(portIn (fld [(F.MIR_STAT_ROLE, 1)])), mirrHdr, (part 0x10 [(11, 5)]), by unfold State.MirrorIn State.NextIn; decide +kernel,
     by unfold State.MirrorQuiet; decide +kernel, by decide +kernel⟩,
   ⟨(portIn (fld [(F.MIR_STAT_ROLE, 1)])), mirrHdr, (part 0x11 [(8, 1), (11, 5), (15, 3)]),
     by unfold State.MirrorIn State.NextIn; decide +kernel, by unfold State.MirrorQuiet; decide +kernel, by decide +kernel⟩,
   ⟨(portIn (fld [(F.MIR_STAT_ROLE, 1)])), mirrHdr, (part 0x12 [(8, 1), (14, 5)]), (2^56 + 5*2^8),
     by unfold State.MirrorIn State.NextIn; decide +kernel, by unfold State.MirrorQuiet; decide +kernel, by decide +kernel⟩,
   ⟨(portIn (fld [(F.MIR_STAT_ROLE, 1)])), mirrHdr, (part 0x13 [(9, 7), (11, 5)]),
     by unfold State.MirrorIn State.NextIn; decide +kernel, by unfold State.MirrorQuiet; decide +kernel, by decide +kernel⟩,
   ⟨(portIn (fld [(F.MIR_STAT_ROLE, 1)])), mirrHdr, (part 0x20 [(7, 5), (5, 9)]),
     by unfold State.MirrorIn State.NextIn; decide +kernel, by unfold State.MirrorQuiet; decide +kernel, by decide +kernel⟩,
   ⟨(mir (fun m => { m with seq := 9, parts := [part 1 [], part 2 [], part 3 []] }) (portIn (fld [(F.MIR_STAT_ROLE, 1)]))), mirrHdr,
     (part 4 [(5,9)]), (part 1 []), (part 2 []), (part 3 []), by unfold State.MirrorIn State.NextIn; decide +kernel,
     by unfold State.MirrorQuiet; decide +kernel, by decide +kernel⟩,
   ⟨(stand [] (fun m => { m with newest := some rec1, fresh := true })), rec1, by decide +kernel⟩,
   ⟨(stand [] (fun m => { m with gap := 255 })), by decide +kernel⟩⟩

theorem witness_SampleInstant :
    (∃ (s : State), s.owned = false ∧ s.flag F.SRV_CTRL_EN = false) ∧
    (∃ (s : State), s.flag F.SRV_CTRL_EN = true) ∧
    (∃ (s : State) (n : Nat), s.headsLost = false ∧ s.floorOn = false ∧ s.ang.timed = false ∧ s.nominalNs = some n ∧ n < 2 ^ 30) ∧
    (∃ (s : State), s.headsLost = false ∧ s.floorOn = true) ∧
    (∃ (s : State), s.headsLost = true) :=
  ⟨⟨(mk [(Reg.SRV_G_U 3 2, 7), (Reg.SRV_S_U 6, 9)]), by decide +kernel⟩,
   ⟨(fld [(F.SRV_CTRL_EN, 1)]), by decide +kernel⟩,
   ⟨turning, 833, by decide +kernel⟩,
   ⟨(fld [(F.ANG_CTRL_FLOOR_EN, 1), (F.ACQ_PLL_STAT_STATE 3, 2)]), by decide +kernel⟩,
   ⟨{ State.reset with ang := { State.reset.ang with rate := 833 } }, by decide +kernel⟩⟩

theorem witness_Repair :
    (∃ (s : State) (r : AxlReq) (sp : Nat), s.axlReq.contains r = true ∧ r.kind.val = 6 ∧ s.flag F.AXL_STAT_FROZEN = false ∧
      s.axlSpare r = some sp ∧ s.axl.copy = some (1, 3) ∧ s.axl.field = []) ∧
    (∃ (s : State) (r : AxlReq) (sp : Nat), s.axlReq.contains r = true ∧ r.kind.val ≤ 7 ∧ s.flag F.AXL_STAT_FROZEN = false ∧
      s.axlSpare r = some sp) ∧
    (∃ (s : State) (r : AxlReq), s.axlReq.contains r = true ∧ (r.kind.val = 5 ∨ r.kind.val = 6) ∧ s.flag F.AXL_STAT_FROZEN = false ∧
      s.axlSpare r = none) ∧
    (∃ (s : State) (r : AxlReq), s.axlReq.contains r = true ∧ (r.kind.val = 5 ∨ r.kind.val = 6) ∧ s.flag F.AXL_STAT_FROZEN = true) ∧
    (∃ (s : State) (r : AxlReq), s.axlReq.contains r = true ∧ r.kind.val = 0x3F) ∧
    (∃ (s : State), s.flag F.AXL_STAT_FROZEN = false ∧ s.flag F.SEQ_MODE_TASK = false) ∧
    (∃ (s : State), s.flag F.AXL_STAT_FROZEN = true) :=
  ⟨⟨(let s := ask (rq 6 50 7); { s with axl := { s.axl with copy := some (1, 3) } }), (rq 6 50 7), 0, by decide +kernel⟩,
   ⟨(ask (rq 5 50 7)), (rq 5 50 7), 0, by decide +kernel⟩,
   ⟨(let s := ask (rq 5 50 7); s.modMem (fun m => { m with remaps := List.replicate 8 (50, 1, 0) })), (rq 5 50 7), by decide +kernel⟩,
   ⟨((ask (rq 5 50 7)).put F.AXL_STAT_FROZEN true), (rq 5 50 7), by decide +kernel⟩,
   ⟨(ask (rq 0x3F 50 7)), (rq 0x3F 50 7), by decide +kernel⟩,
   ⟨State.reset, by decide +kernel⟩,
   ⟨(fld [(F.AXL_STAT_FROZEN, 1)]), by decide +kernel⟩⟩

theorem witness_LibraryFrames :
    (∃ (s : State) (x : List Byte) (e : Fin 8), s.FrameGood x ∧ x.length ≤ 512 ∧ e = Fin.ofNat 8 (s.reg Reg.LBS_RX_HEAD).toNat ∧
      (s.lbs.ring[e]).state ≠ 1) ∧
    (∃ (s : State) (x : List Byte), s.FrameGood x ∧ x.length ≤ 512 ∧ (s.lbs.ring[(Fin.ofNat 8 (s.reg Reg.LBS_RX_HEAD).toNat : Fin
      8)]).state = 1) ∧
    (∃ (s : State) (x : List Byte), s.FrameGood x ∧ 512 < x.length) ∧
    (∃ (s : State) (x : List Byte), FcsGood x ∧ (beAt x 0 6 ≠ s.lbsMac ∨ beAt x 12 2 ≠ s.rd F.LBS_ETYPE_ETYPE)) ∧
    (∃ (x : List Byte), (x.length < 64 ∨ x.drop (x.length - 4) ≠ fcs (x.take (x.length - 4)))) ∧
    (∃ (s : State) (v : Word) (e : Fin 8), s.lbsJudge s.lbs.ring[e] = 0 ∧ e = Fin.ofNat 8 (F.LBS_RX_VERDICT_ENTRY.of v) ∧
      F.LBS_RX_VERDICT_VERDICT.of v = 0 ∧ (s.lbs.ring[e]).state = 1 ∧ beAt (s.lbs.ring[e]).bytes 15 1 ≠ 0x20) ∧
    (∃ (s : State) (v : Word) (e : Fin 8), s.lbsJudge s.lbs.ring[e] = 0 ∧ e = Fin.ofNat 8 (F.LBS_RX_VERDICT_ENTRY.of v) ∧
      F.LBS_RX_VERDICT_VERDICT.of v = 0 ∧ (s.lbs.ring[e]).state = 1 ∧ beAt (s.lbs.ring[e]).bytes 15 1 = 0x20) ∧
    (∃ (s : State) (v : Word) (e : Fin 8), e = Fin.ofNat 8 (F.LBS_RX_VERDICT_ENTRY.of v) ∧ (s.lbs.ring[e]).state = 1 ∧ s.lbsJudge
      s.lbs.ring[e] ≠ 0) ∧
    (∃ (s : State) (v : Word) (e : Fin 8), s.lbsJudge s.lbs.ring[e] = 0 ∧ e = Fin.ofNat 8 (F.LBS_RX_VERDICT_ENTRY.of v) ∧
      F.LBS_RX_VERDICT_VERDICT.of v ≠ 0 ∧ (s.lbs.ring[e]).state = 1) ∧
    (∃ (m : Master), m ≠ .seq) ∧
    (∃ (v : Word), F.LBS_TX_CMD_SEND.of v = 1) ∧
    (∃ (s : State) (f : List Byte), s.lbs.frame = some f ∧ s.lbs.tries < 16) ∧
    (∃ (s : State) (f : List Byte), s.lbs.frame = some f ∧ 16 ≤ s.lbs.tries) ∧
    (∃ (s : State), s.flag F.LBS_PLCA_CFG_EN = true ∧ s.rd F.LBS_PLCA_CFG_NODE_ID ≠ 0 ∧ s.flag F.LBS_PLCA_STAT_ACTIVE = true) ∧
    (∃ (s : State), s.flag F.LBS_PLCA_CFG_EN = true ∧ s.rd F.LBS_PLCA_CFG_NODE_ID ≠ 0) :=
  ⟨⟨(mk [(Reg.LBS_RX_HEAD, 7)]), (frameOf (toMe 50)), 7, by unfold State.FrameGood FcsGood; decide +kernel, by decide +kernel⟩,
   ⟨(mk [(Reg.LBS_RX_HEAD, 7)] |> rx 1 []), (frameOf (toMe 50)), by unfold State.FrameGood FcsGood; decide +kernel, by decide +kernel⟩,
   ⟨State.reset, (frameOf (toMe 500)), by unfold State.FrameGood FcsGood; decide +kernel, by decide +kernel⟩,
   ⟨State.reset, (frameOf (List.replicate 60 9)), by unfold FcsGood; decide +kernel, by decide +kernel⟩,
   ⟨(List.replicate 64 9), by decide +kernel⟩,
   ⟨(lbsGood 4 [0]), 7, 7, good4, by decide +kernel⟩,
   ⟨(lbsGood 0x20 [1,1,0,0] 2), 7, 7, good32, by decide +kernel⟩,
   ⟨(rx 1 (frameOf (toMe 60))), 0xF7, 7, by decide +kernel⟩,
   ⟨(lbsGood 4 [0]), 0x47, 7, good4, by decide +kernel⟩,
   ⟨.hostCust, by decide +kernel⟩,
   ⟨0x80000050, by decide +kernel⟩,
   ⟨(hsOn 0 0 |> fun s => { s with lbs := { s.lbs with frame := some [1], tries := 15 } }), [1], by decide +kernel⟩,
   ⟨(hsOn 0 0 |> fun s => { s with lbs := { s.lbs with frame := some [1], tries := 16 } }), [1], by decide +kernel⟩,
   ⟨(fld [(F.LBS_PLCA_CFG_EN,1),(F.LBS_PLCA_CFG_NODE_ID,3),(F.LBS_PLCA_STAT_ACTIVE,1)]), by decide +kernel⟩,
   ⟨(fld [(F.LBS_PLCA_CFG_EN,1),(F.LBS_PLCA_CFG_NODE_ID,3)]), by decide +kernel⟩⟩

theorem witness_LibraryHandshakes :
    (∃ (s : State) (e : Fin 8), s.accepted e 2 = true ∧ s.owned = true ∧ s.lbs.hs = 3 ∧ s.rxBody e 0 1 = 0) ∧
    (∃ (s : State) (e : Fin 8), s.accepted e 2 = true ∧ s.owned = true ∧ s.lbs.hs = 3 ∧ s.rxBody e 0 1 ≠ 0) ∧
    (∃ (s : State) (e : Fin 8), s.accepted e 4 = true ∧ s.owned = true ∧ s.lbs.hs = 4 ∧ s.rxBody e 0 1 = 0) ∧
    (∃ (s : State) (e : Fin 8), s.owned = false ∧ s.accepted e 2 = true) ∧
    (∃ (s : State) (e : Fin 8), s.owned = false ∧ s.accepted e 4 = true) ∧
    (∃ (s : State) (e : Fin 8), s.accepted e 5 = true ∧ (s.lbs.hs = 1 ∨ s.lbs.hs = 2) ∧ s.rxBody e 0 8 = s.lbs.req ∧ s.rxBody e 8 1 =
      0) ∧
    (∃ (s : State) (e : Fin 8), s.accepted e 5 = true ∧ s.lbs.hs ≠ 1 ∧ s.lbs.hs ≠ 2) ∧
    (∃ (s : State) (e : Fin 8), s.accepted e 6 = true ∧ (s.lbs.hs = 1 ∨ s.lbs.hs = 3)) ∧
    (∃ (s : State), (s.lbs.hs = 1 ∨ s.lbs.hs = 2) ∧ s.lbs.sent ≤ s.rd F.LBS_HS_CFG_RETRY) ∧
    (∃ (s : State), s.lbs.hs = 2 ∧ s.rd F.LBS_HS_CFG_RETRY < s.lbs.sent) ∧
    (∃ (s : State), s.lbs.hs = 4) ∧
    (∃ (s : State) (p : Fin 8) (k : Slot), s.rd F.LBS_ENV_CFG_PER ≠ 0 ∧ s.peers 1 = [p] ∧ s.cph.slots[(Fin.ofNat 8 (s.rd
      F.LBS_AUTH_CFG_SLOT) : Fin 8)] = some k ∧ (s.pair Reg.LBS_TX_CTR_LO + 1) % 2 ^ 64 ≠ 0) :=
  ⟨⟨(rxHs 3 2 [0]), 7, by decide +kernel⟩,
   ⟨(rxHs 3 2 [1]), 7, by decide +kernel⟩,
   ⟨(rxHs 4 4 [0]), 7, by decide +kernel⟩,
   ⟨(rxHs 3 2 [0] State.reset), 7, by decide +kernel⟩,
   ⟨(rxHs 4 4 [0] State.reset), 7, by decide +kernel⟩,
   ⟨(rxHs 1 5 (beBytes 8 0 ++ [0])), 7, by decide +kernel⟩,
   ⟨(rxHs 3 5 (beBytes 8 0 ++ [0])), 7, by decide +kernel⟩,
   ⟨(rxHs 3 6 [0]), 7, by decide +kernel⟩,
   ⟨(hsOn 2 3), by decide +kernel⟩,
   ⟨(hsOn 2 4), by decide +kernel⟩,
   ⟨(hsOn 4 1), by decide +kernel⟩,
   ⟨(let s := slotOn 2 (fld [(F.LBS_PEER_MAC_HI_EN 3, 1),(F.LBS_PEER_MAC_HI_ROLE 3, 1)]);
     { s with lbs := { s.lbs with reports := [4, 5] } }), 3, ⟨2, keyA, 3⟩, by decide +kernel⟩⟩

theorem witness_ResetsAndStartUp :
    (∃ (s : State) (n : Nat), 1000 ≤ n ∧ s.pwr.por = false) ∧
    (∃ (n : Nat), n < 200) ∧
    (∃ (s : State) (m : Master) (v : Word), s.custodian m = true ∧ F.PWR_RST_CMD_KEY.of v = 0xA5C3 ∧ F.PWR_RST_CMD_GO.of v = 1 ∧
      s.pwr.por = false) ∧
    (∃ (s : State) (m : Master) (v : Word), (s.custodian m = false ∨ F.PWR_RST_CMD_KEY.of v ≠ 0xA5C3 ∨ F.PWR_RST_CMD_GO.of v ≠ 1)) ∧
    (∃ (s : State) (d : Int), 125 < d ∧ s.pwr.therm = false ∧ s.pwr.por = false) ∧
    (∃ (d : Int), d ≤ 125) ∧
    (∃ (s : State), s.pwr.held = true ∧ s.pwr.therm = true) ∧
    (∃ (s : State), s.pwr.held = true ∧ s.pwr.therm = false) ∧
    (∃ (s : State), s.pwr.held = false ∧ s.rd F.PWR_START_STEP = 11 ∧ s.flag F.PWR_START_STOPPED = false) ∧
    (∃ (s : State), s.pwr.held = false ∧ s.flag F.PWR_START_DONE = false ∧ s.flag F.PWR_START_STOPPED = false) ∧
    (∃ (s : State) (d : Int), s.pwr.held = false ∧ d ≤ s.rd F.PWR_TEMP_CFG_WARN ∧ 105 ≤ d) ∧
    (∃ (s : State) (d : Int), s.pwr.held = false ∧ s.rd F.PWR_TEMP_CFG_WARN < d ∧ s.flag F.PWR_STAT_WARN = false) :=
  ⟨⟨busy, 1000, by decide +kernel⟩,
   ⟨199, by decide +kernel⟩,
   ⟨busy, .hostCust, 0xA5C30001, by decide +kernel⟩,
   ⟨busy, .hostOp, 0xA5C30001, by decide +kernel⟩,
   ⟨busy, 126, by decide +kernel⟩,
   ⟨125, by decide +kernel⟩,
   ⟨({ State.reset with pwr := { therm := true } }), by decide +kernel⟩,
   ⟨State.reset, by decide +kernel⟩,
   ⟨(up.wr F.PWR_START_STEP 11), by decide +kernel⟩,
   ⟨up, by decide +kernel⟩,
   ⟨up, 107, by decide +kernel⟩,
   ⟨up, 111, by decide +kernel⟩⟩

theorem witness_ServoOutputsAreLimited : ∃ (s : State) (m j : Nat), (m = 1 ∨ m = 2) ∧ m ≠ 0 ∧ j < s.nout :=
  ⟨State.reset, 2, 0, by decide +kernel, by decide +kernel, by decide +kernel⟩

/-- A state with a command in its queue. -/
def queued : State := { State.reset with pending := [.indexEdge 1, .nop], cph := { State.reset.cph with cfgKey := some keyA } }

theorem queued_canonical : queued.Canonical := by constructor <;> decide +kernel

theorem witness_StepTakesTheFrontCommand :
    (∃ (s : State) (c : Instr) (rest : List Instr), s.pending = c :: rest) ∧ (∃ s : State, s.pending = []) :=
  ⟨⟨queued, _, _, rfl⟩, ⟨State.reset, rfl⟩⟩

theorem witness_StepKeepsCanonical : ∃ s t : State, s.Canonical ∧ Machine.step s = .next t :=
  ⟨queued, _, queued_canonical, rfl⟩

theorem witness_FusesNeverChange : ∃ (s t : State) (key : List Byte), Machine.step s = .next t ∧ s.Fused key :=
  ⟨queued, _, keyA, rfl, ⟨rfl, nofun⟩⟩

end Sys2Proof.Tests
end

section
/-! ## What every command keeps

The canonical form of every memory, a fused key, the factory map and the queue, command by command: each meaning is a chain of
operations of which each keeps them (the lemmas of Laws/). -/

namespace Sys2Proof.Machine.Kept

set_option Elab.async false

variable {key : Option (List Byte)} {fac : List Dword} {q : List Instr} {s : State}

/-! ### CPH and the backup domain -/

theorem execLockoutEnd (h : Kept key fac q s) : KeptOut key fac q (execLockoutEnd s) :=
  .ite (.next ((h.put _ _).wr _ _)) (.next h)

theorem execTamperAlarm {n : Fin 2} (h : Kept key fac q s) : KeptOut key fac q (execTamperAlarm n s) :=
  .ite (.next (((((upd h).put _ _).put _ _).zeroise).bkpLog.attention)) (.next h)

theorem execBkpTemperatureSample {t : Int} (h : Kept key fac q s) : KeptOut key fac q (execBkpTemperatureSample t s) := by
  unfold Machine.execBkpTemperatureSample
  extract_lets hi lo s1 c inside newHi newLo s2 s3
  have h2 : Kept key fac q s2 := upd (h.setInt _ _)
  have h3 : Kept key fac q s3 := ite (h2.put _ _).bkpLog h2
  exact .next (ite (h3.put _ _).bkpLog h3)

/-! ### FLC -/

theorem execFlcDone {v : Bool} (h : Kept key fac q s) : KeptOut key fac q (execFlcDone v s) := by
  unfold Machine.execFlcDone
  split
  · exact .next h
  · split
    · exact .next h
    · split
      · extract_lets next s1 s2
        have h1 : Kept key fac q s1 := by
          unfold s1
          split
          · exact h.flashProgram
          · exact h.flashErase
          · exact h.mcStep
        have h2 : Kept key fac q s2 := h1.flcEnd
        clear_value s2 next
        cases next with
        | nil => exact .next h2
        | cons c r => exact .next (modFlc h2.flcStart)
      · split
        rename_i e
        split
        exact .next (modFlc (((snd e h.opSector).bump _).setReg _ _)).axlAsk

theorem execSectorRemap {b : Bool} (h : Kept key fac q s) : KeptOut key fac q (execSectorRemap b s) := by
  unfold Machine.execSectorRemap
  split
  · split
    rename_i e
    extract_lets old s1 s2 s3 s4
    have h1 : Kept key fac q s1 := ite (snd e h.opSector) (snd e h.opSector).engineErase
    have h2 : Kept key fac q s2 := by
      unfold s2
      split
      · exact h1
      · exact h1.copySector
    have h3 : Kept key fac q s3 := ite (h2.put _ _) h2
    exact .next (modFlc (h3.setReg _ _))
  · exact .next h

/-! ### Write path and disc record -/

theorem execVerifyDecision {b : Beam} {sync body : List Bool} (h : Kept key fac q s) :
    KeptOut key fac q (execVerifyDecision b sync body s) := by
  unfold Machine.execVerifyDecision
  split
  · exact .next h
  · refine .ite (.next (earlyFail (modW h))) (.ite ?_ (.next h))
    extract_lets d s1
    have h1 : Kept key fac q s1 := vfyReport (modW h)
    refine .ite ?_ (.next h1.verifyFailed)
    split
    · exact .next h1.blockComplete
    · exact .next h1.addEntry.blockComplete.passStep

theorem execReplacementPass {hd : Head} (h : Kept key fac q s) : KeptOut key fac q (execReplacementPass hd s) :=
  .ite (.ite (.next (passStep (upd h))) (.next h.zlFront)) (.next h)

theorem execOpc {hd : Head} {reads : List (List (Option (List Bool)))} (h : Kept key fac q s) :
    KeptOut key fac q (execOpc hd reads s) := by
  unfold Machine.execOpc
  extract_lets +onlyGivenNames zl
  refine .ite (.ite ?_ (.next h.zlFront)) (.next h)
  extract_lets i0 cfg test totals res keep s1 dsc wrp s2 s3
  have h2 : Kept key fac q s2 := upd (h.bump _)
  have h3 : Kept key fac q s3 :=
    forEach (fun d t ht => ite (((ht.setReg _ _).wr _ _).setReg _ _) (ht.setReg _ _)) h2
  exact .next (ite h3.setNextFree h3)

theorem execRecordEvent {v : List MgmtVerify} (h : Kept key fac q s) : KeptOut key fac q (execRecordEvent v s) := by
  unfold Machine.execRecordEvent
  refine .ite ?_ (.next h)
  split <;> rename_i e
  · exact .next (snd e h.recordEvent)
  · exact .next (snd e h.recordEvent).taskError

theorem execEnableConditionLoss {c : Chan} (h : Kept key fac q s) : KeptOut key fac q (execEnableConditionLoss c s) :=
  .ite (.next h) (.next h.gateEarly)

theorem execVldMonitor {hd : Head} {mv : Nat} (h : Kept key fac q s) : KeptOut key fac q (execVldMonitor hd mv s) :=
  .ite (.next (dropGates (upd (h.wr _ _)))) (.ite (.next (upd (h.wr _ _))) (.next (h.wr _ _)))

theorem execHfIntervalEnd {c : Chan} (h : Kept key fac q s) : KeptOut key fac q (execHfIntervalEnd c s) := by
  unfold Machine.execHfIntervalEnd
  refine .ite (.next h) ?_
  extract_lets k wrp s1
  have h1 : Kept key fac q s1 := upd h
  clear_value k
  cases k with
  | none => exact .next h1
  | some k => exact .next h1.setRlvl

theorem execRebuildScan {hd : Head} {slots : List ScanSlot} (h : Kept key fac q s) :
    KeptOut key fac q (execRebuildScan hd slots s) := by
  unfold Machine.execRebuildScan
  split
  · exact .next h
  · extract_lets n seen es t marks free d d' s1 s2 r r'
    have h1 : Kept key fac q s1 := withTable (upd h)
    have h2 : Kept key fac q s2 := ite h1.mirrRecord h1
    exact .ite (.next (upd h2)) (.next h2)

theorem execZoneLayerReady {zl : ZoneLayer} (h : Kept key fac q s) : KeptOut key fac q (execZoneLayerReady zl s) := by
  unfold Machine.execZoneLayerReady
  refine .ite ?_ (.next h)
  extract_lets s1 ks s2
  have h2 : Kept key fac q s2 := foldl (fun _ _ h => h.badAtHome) _ h.setReady.event
  exact .next (ite h2.discReadyEvent h2)

/-! ### DET -/

theorem execSlotStart {b : Beam} (h : Kept key fac q s) : KeptOut key fac q (execSlotStart b s) := by
  unfold Machine.execSlotStart
  extract_lets s1
  have h1 : Kept key fac q s1 := h.detApplyMode
  clear_value s1
  split
  · split
    · exact .next h1.slotEnd
    · extract_lets k cap c s2
      have h2 : Kept key fac q s2 := modDet h1.clearSram
      exact .next (ite h2.setRlvl h2)
  · exact .next h1

theorem execSyncDecision {b : Beam} {cands : List SyncCand} {mv : Nat} (h : Kept key fac q s) :
    KeptOut key fac q (execSyncDecision b cands mv s) := by
  unfold Machine.execSyncDecision
  split
  · refine .ite (.next h) ?_
    split
    · exact .next (modDet h)
    · exact .next h.slotEnd
  · exact .next h

theorem execHeaderDecision {b : Beam} {cells : List Int} (h : Kept key fac q s) :
    KeptOut key fac q (execHeaderDecision b cells s) := by
  unfold Machine.execHeaderDecision
  split
  · refine .ite (.next h) ?_
    split
    · exact .next h.slotEnd
    · exact .ite (.next (modDet (h.setPair _ _))) (.next (h.setPair _ _).slotEnd)
  · exact .next h

theorem execDefectRegion {b : Beam} {first : Nat} {env : List Nat} (h : Kept key fac q s) :
    KeptOut key fac q (execDefectRegion b first env s) := by
  unfold Machine.execDefectRegion
  split
  · extract_lets r
    split
    · exact .next ((modDet h.setDefect).bump _)
    · exact .next h.setDefect
  · exact .next h

theorem execCaptureEnd {b : Beam} {x : CaptureIn} (h : Kept key fac q s) : KeptOut key fac q (execCaptureEnd b x s) := by
  unfold Machine.execCaptureEnd
  split
  · refine .ite (.next h) ?_
    extract_lets fs gs er ermax amb s1 s2 s3 s4 s5 fig
    have h4 : Kept key fac q s4 := ((((h.setReg _ _).setReg _ _).bumpBy _ _).bumpBy _ _).bumpBy _ _
    have h5 : Kept key fac q s5 := ite h4.setTaps h4
    exact .ite (.next h5.slotEnd) (.next h5.slotEnd)
  · exact .next h

/-! ### SRV, SPN -/

theorem execSpareShadowMove (h : Kept key fac q s) : KeptOut key fac q (execSpareShadowMove s) := by
  unfold Machine.execSpareShadowMove
  refine .ite ?_ (.next h)
  extract_lets u order
  split <;> exact .next (upd h)

theorem execHandoff (h : Kept key fac q s) : KeptOut key fac q (execHandoff s) :=
  .ite (.next (modSpn h.spnRun)) (.next h)

theorem execHandoffTimeout (h : Kept key fac q s) : KeptOut key fac q (execHandoffTimeout s) :=
  .ite (.ite (.next h.spnFault) (.next (modSpn h.spnGo))) (.next h)

theorem execAtspeed (h : Kept key fac q s) : KeptOut key fac q (execAtspeed s) := by
  unfold Machine.execAtspeed
  refine .ite ?_ (.next h)
  have h1 : Kept key fac q ((s.pmcRise 0x410 (s.flag F.SPN_STAT_ATSPEED) true).put F.SPN_STAT_ATSPEED true) := h.pmcRise.put _ _
  exact .next (ite h1.spnEnd h1)

theorem execStandstill (h : Kept key fac q s) : KeptOut key fac q (execStandstill s) := by
  have h1 : ∀ k, Kept key fac q ((s.spnGo k).modSpn fun p => { p with still := true }) := fun _ => modSpn h.spnGo
  have h2 : Kept key fac q (s.modSpn fun p => { p with still := true }) := modSpn h
  exact .ite (.next (ite (h1 0).spnRetry (ite (h1 0).spnEnd (h1 0))))
    (.ite (.next (ite h2.spnEnd h2)) (.ite (.next (spnEnd (modSpn h.spnGo))) (.next h)))

theorem execStopHoldEnd (h : Kept key fac q s) : KeptOut key fac q (execStopHoldEnd s) :=
  .ite (.next (spnEnd (modSpn h.spnGo))) (.next h)

theorem execVwatchOn {mv : Nat} (h : Kept key fac q s) : KeptOut key fac q (execVwatchOn mv s) :=
  .ite (.next ((((h.setReg _ _).put _ _).put _ _).bump _)) (.next (h.setReg _ _))

theorem execVwatchOff {mv : Nat} (h : Kept key fac q s) : KeptOut key fac q (execVwatchOff mv s) :=
  .ite (.next (((h.setReg _ _).put _ _).put _ _)) (.next (h.setReg _ _))

/-! ### Loop supervisors -/

theorem execLayer {hd : Head} (h : Kept key fac q s) : KeptOut key fac q (execLayer hd s) :=
  .next (h.lsvCommand fun _ h => (ite h h.leaveFollow).lsvBegin.layerRun)

theorem execJumpLaunch {hd : Head} {f : Fin 8192} (h : Kept key fac q s) : KeptOut key fac q (execJumpLaunch hd f s) :=
  .ite (.next h.jumpLaunch) (.next h)

theorem execKickEnd {hd : Head} (h : Kept key fac q s) : KeptOut key fac q (execKickEnd hd s) :=
  .ite (.next (modLsv (h.setInt _ _))) (.next h)

theorem execTrackingKickEnd {hd : Head} (h : Kept key fac q s) : KeptOut key fac q (execTrackingKickEnd hd s) :=
  .ite (.next (modLsv h.driveCoil)) (.next h)

theorem execFsettleEnd {hd : Head} (h : Kept key fac q s) : KeptOut key fac q (execFsettleEnd hd s) :=
  .ite (.next (h.setInt _ _).tpull) (.next h)

theorem execTpullTimeout {hd : Head} (h : Kept key fac q s) : KeptOut key fac q (execTpullTimeout hd s) :=
  .ite (.next h.stageFailed) (.next h)

theorem execSingleJumpTimeout {hd : Head} (h : Kept key fac q s) : KeptOut key fac q (execSingleJumpTimeout hd s) :=
  .ite (.next h.singleJumpFailed) (.next h)

theorem execSeekSettleEnd {hd : Head} (h : Kept key fac q s) : KeptOut key fac q (execSeekSettleEnd hd s) :=
  .ite (.next (ite h.tpull.sledClose.tpull h.tpull.sledClose)) (.next h)

theorem execFocusLost {hd : Head} (h : Kept key fac q s) : KeptOut key fac q (execFocusLost hd s) :=
  .ite (.next h.lostHere) (.next h)

theorem execTrackLost {hd : Head} (h : Kept key fac q s) : KeptOut key fac q (execTrackLost hd s) :=
  .ite (.next h.lostHere) (.next h)

/-! ### SLD and the drives -/

theorem execMoveEnd {n : Stepper} (h : Kept key fac q s) : KeptOut key fac q (execMoveEnd n s) := by
  unfold Machine.execMoveEnd
  refine .ite ?_ (.next h)
  extract_lets s1 mis s2
  have h2 : Kept key fac q s2 := ite ((h.setReg _ _).put _ _) (h.setReg _ _)
  exact .ite (.next h2.sldStall.sldReport) (.next (h2.wr _ _).sldDone.sldReport)

theorem execStall {n : Stepper} {x : StallIn} (h : Kept key fac q s) : KeptOut key fac q (execStall n x s) := by
  have h1 : Kept key fac q ((s.put (F.SLD_STAT_STOPPED n) false).modSld n fun c => { c with ended := 0 }) := modSld (h.put _ _)
  exact .ite (.ite (.next ((((h1.setReg _ _).put _ _).wr _ _).sldDone.sldReport)) (.next ((h1.setReg _ _).sldStall.sldReport)))
    (.next h)

theorem execHoldCurrent {n : Stepper} (h : Kept key fac q s) : KeptOut key fac q (execHoldCurrent n s) :=
  .ite (.next (modSld h)) (.next h)

theorem execStageEnableOn {mv : Nat} (h : Kept key fac q s) : KeptOut key fac q (execStageEnableOn mv s) :=
  .ite (.next ((h.setReg _ _).put _ _)) (.next (h.setReg _ _))

theorem execStageEnableOff {mv : Nat} (h : Kept key fac q s) : KeptOut key fac q (execStageEnableOff mv s) :=
  .ite (.next (((h.setReg _ _).put _ _).bump _).stagesOff.attention) (.next (h.setReg _ _))

theorem execLddFault {c : Chan} {cause : LddCause} (h : Kept key fac q s) : KeptOut key fac q (execLddFault c cause s) := by
  unfold Machine.execLddFault
  extract_lets hd s1 s2
  have h1 : Kept key fac q s1 := ((h.put _ _).bump _).axlAsk
  exact .ite (.next h1.lsvChannelFault) (.next (ite h1.gateEarly.taskError h1.gateEarly))

/-! ### ANG and ACQ -/

theorem execHoldEnd {now : Angle} (h : Kept key fac q s) : KeptOut key fac q (execHoldEnd now s) :=
  .ite (.next (fireLate (upd (h.put _ _)))) (.next h)

theorem execFrameMarkGood {hd : Head} {ofs : Int} {run : Nat} (h : Kept key fac q s) :
    KeptOut key fac q (execFrameMarkGood hd ofs run s) := by
  unfold Machine.execFrameMarkGood
  extract_lets +onlyGivenNames long
  refine .ite (.next h) ?_
  split
  · refine .ite (.next ?_) (.next h)
    exact ite (setSeek h.goodMark).pllLock (setSeek h.goodMark)
  · exact .ite (.next (h.bump _)) (.ite (.next h.goodMark) (.next h))
  · exact .ite (.next (h.bump _)) (.ite (.next (ite (h.goodMark.setInt _ _).pllLock h.goodMark)) (.next h))
  · exact .next h

theorem execFrameMarkMissing {hd : Head} (h : Kept key fac q s) : KeptOut key fac q (execFrameMarkMissing hd s) := by
  unfold Machine.execFrameMarkMissing
  split
  · exact .next (gatesEarly (((h.missMark.wr _ _).bump _).pmcEdge)).refUpdate
  · exact .next h
  · exact .next h.missMark

theorem execHeadUnlocked {hd : Head} (h : Kept key fac q s) : KeptOut key fac q (execHeadUnlocked hd s) := by
  have h1 : Kept key fac q (((s.pllSearch hd).bump (Reg.ACQ_UNLOCK_CNT hd)).headAbort hd).refUpdate :=
    (h.pllSearch.bump _).headAbort.refUpdate
  exact .ite (.next (ite h1.lostHere h1)) (.next h)

theorem execAngleInvalid (h : Kept key fac q s) : KeptOut key fac q (execAngleInvalid s) :=
  .ite (.next h.setAngFlags.speedNow) (.next h)

theorem execAddressWord {hd : Head} {w : Dword} {now : Angle} {lag : Nat} (h : Kept key fac q s) :
    KeptOut key fac q (execAddressWord hd w now lag s) := by
  unfold Machine.execAddressWord
  refine .ite (.next h) (.ite (.ite ?_ (.next (h.setPair _ _))) (.next ((h.setPair _ _).bump _)))
  have h1 : Kept key fac q (((s.setPair (Reg.ACQ_ADDR_LO hd) w.toNat).flow now).modAng hd fun a => { a with last := some w }) :=
    modAng (h.setPair _ _).flow
  exact .next (ite h1.confirmWord h1)

theorem execFrameZero {hd : Head} {m : Nat} (h : Kept key fac q s) : KeptOut key fac q (execFrameZero hd m s) := by
  unfold Machine.execFrameZero
  extract_lets s1 s2 ang s3 s4 s5
  have h2 : Kept key fac q s2 := (h.wr _ _).zoneApply
  have h3 : Kept key fac q s3 := ite (upd h2) h2
  have h4 : Kept key fac q s4 := forEach (fun _ _ h => h.beamPhase) h3
  exact .next h4.apcUpdate.lsvFrameZero.retryFrameZero.retryOrders

theorem execEncoderTransition {sl : Sled} {ab : BitVec 2} (h : Kept key fac q s) :
    KeptOut key fac q (execEncoderTransition sl ab s) := by
  unfold Machine.execEncoderTransition
  refine .ite ?_ (.next h)
  extract_lets old ang s1
  have h1 : Kept key fac q s1 := upd h
  split
  · exact .next (h1.setInt _ _)
  · exact .next ((h1.setReg _ _).put _ _)

theorem execIndexEdge {sl : Sled} (h : Kept key fac q s) : KeptOut key fac q (execIndexEdge sl s) :=
  .ite (.next ((h.setReg _ _).put _ _)) (.next h)

theorem execSliceShadowEnd {a : Fin 36} {mad : Nat} (h : Kept key fac q s) :
    KeptOut key fac q (execSliceShadowEnd a mad s) := by
  unfold Machine.execSliceShadowEnd
  refine .ite (.next h) (.ite (.next (ite h.axlAsk.taskError h)) ?_)
  extract_lets acq s1 c k bit bad again s2 s3
  have h2 : Kept key fac q s2 := modAdc (upd h)
  have h3 : Kept key fac q s3 := ite (h2.setReg _ _) h2
  exact .next (ite h3.axlAsk h3)

theorem execSliceSwap {a : Fin 36} (h : Kept key fac q s) : KeptOut key fac q (execSliceSwap a s) := by
  unfold Machine.execSliceSwap
  split
  · exact .next h
  · exact .next (((modAdc h).wr _ _).put _ _ |>.bump _)

theorem execAgcStep {i : Fin 52} {p : Nat} (h : Kept key fac q s) : KeptOut key fac q (execAgcStep i p s) :=
  .ite (.next (h.wr _ _)) (.next h)

/-! ### The library bus -/

theorem execFrameReceive {b : List Byte} (h : Kept key fac q s) : KeptOut key fac q (execFrameReceive b s) :=
  .ite (.next h.symbolError) (.ite (.next (h.bump _)) (.ite (.next h.stranger) (.ite (.next (h.bump _))
    (.next (((modRx h).setReg _ _).bump _).event))))

theorem execCollision (h : Kept key fac q s) : KeptOut key fac q (execCollision s) := by
  unfold Machine.execCollision
  split
  · exact .next h
  · exact .ite (.next (((upd (h.bump _)).bump _).wr _ _)) (.next (upd (h.bump _)))

theorem execLbsAck {e : Fin 8} (h : Kept key fac q s) : KeptOut key fac q (execLbsAck e s) := by
  unfold Machine.execLbsAck
  refine .ite ?_ (.next h)
  extract_lets n l s1
  have h1 : Kept key fac q s1 := modRx (upd h)
  exact .next (ite h1.setHs h1)

theorem execLbsAbort {e : Fin 8} (h : Kept key fac q s) : KeptOut key fac q (execLbsAbort e s) :=
  .ite (.next (modRx h).ackMsg.hsFail) (.next h)

theorem execAcktoExpiry (h : Kept key fac q s) : KeptOut key fac q (execAcktoExpiry s) :=
  .ite (.next (ite h.sendReq h.hsFail)) (.next h)

theorem execDonetoExpiry (h : Kept key fac q s) : KeptOut key fac q (execDonetoExpiry s) :=
  .ite (.next h.hsFail) (.next h)

theorem execEnvReport (h : Kept key fac q s) : KeptOut key fac q (execEnvReport s) :=
  .ite (.next h) (.next (report (upd (h.bumpBy _ _))))

theorem execBeaconLoss (h : Kept key fac q s) : KeptOut key fac q (execBeaconLoss s) :=
  .ite (.next (((h.put _ _).put _ _).bump _)) (.next h)

theorem execBeaconReturn (h : Kept key fac q s) : KeptOut key fac q (execBeaconReturn s) :=
  .ite (.next ((h.put _ _).put _ _)) (.next h)

/-! ### The pair -/

theorem execOwnershipChange {o p : Bool} (h : Kept key fac q s) : KeptOut key fac q (execOwnershipChange o p s) := by
  unfold Machine.execOwnershipChange
  extract_lets +onlyGivenNames was clash now s1 s2 s3 s4
  have h3 : Kept key fac q s3 := ite ((((h.put _ _).put _ _).put _ _).bump _) (((h.put _ _).put _ _).put _ _)
  have h4 : Kept key fac q s4 := ite h3.ownGained (ite h3.ownLost h3)
  have h5 : Kept key fac q (s4.modMir fun m => { m with pulse := false }) := modMir h4
  have h6 : ∀ {c : Prop} [Decidable c] {x : State}, Kept key fac q x → Kept key fac q (if c then x.setRole 2 else x).redUpdate :=
    fun hx => redUpdate (ite hx.setRole hx)
  exact .next (h6 (ite (ite h5 h5.setRole) h4))

theorem execSupervisorRelease {c : SupCause} (h : Kept key fac q s) : KeptOut key fac q (execSupervisorRelease c s) := by
  unfold Machine.execSupervisorRelease
  refine .ite ?_ (.next h)
  extract_lets s1 s2
  have h1 : Kept key fac q s1 := modMir h
  have h2 : Kept key fac q s2 := ite (h1.bump _) h1
  exact .ite (.next (((modMir h2).setReg _ _).bump _)) (.next h2)

theorem execClaim (h : Kept key fac q s) : KeptOut key fac q (execClaim s) := by
  unfold Machine.execClaim
  refine .ite ?_ (.next h)
  extract_lets +onlyGivenNames standby s1 s2 s3
  have h3 : Kept key fac q s3 := (((modMir h).clock.setReg _ _).setPair _ _).setReg _ _
  refine .ite (.next ?_) (.next h3)
  exact (ite (h3.bump _) (h3.bump _).claimTask).claimPreset.claimDrives

theorem execHandoverTimeout (h : Kept key fac q s) : KeptOut key fac q (execHandoverTimeout s) :=
  .ite (.next (ite (modMir h).taskError (modMir h))) (.ite (.next ((((modMir h).put _ _).bump _).taskError)) (.next h))

/-! ### The link -/

theorem execBadFlit {p : Port} {why : BadFlit} (h : Kept key fac q s) : KeptOut key fac q (execBadFlit p why s) := by
  unfold Machine.execBadFlit
  refine .ite (.next h) ?_
  split
  · exact .next (h.bump _).nakOnce
  · exact .ite (.next h) (.next (ite (h.bump _) h).nakOnce)

theorem execPortTraining {p : Port} (h : Kept key fac q s) : KeptOut key fac q (execPortTraining p s) :=
  .ite (.next (h.wr _ _)) (.next h)

theorem execLaneTrainingTimeout {l : LinkLane} (h : Kept key fac q s) : KeptOut key fac q (execLaneTrainingTimeout l s) :=
  .ite (.ite (.next ((h.wr _ _).axlAsk.mapLanes.put _ _)) (.next (h.wr _ _).axlAsk)) (.next h)

theorem execPortUp {p : Port} (h : Kept key fac q s) : KeptOut key fac q (execPortUp p s) := by
  unfold Machine.execPortUp
  extract_lets +onlyGivenNames p lanes
  refine .ite ?_ (.next h)
  extract_lets s1 s2 s3
  have h1 : Kept key fac q s1 := ite (h.mapLanes.put _ _) h
  have h3 : Kept key fac q s3 := modPort (((h1.put _ _).put _ _).wr _ _).owedTold
  exact .next h3.sendLink.pumpAll

theorem execLinkAck {p : Port} {a : Byte} (h : Kept key fac q s) : KeptOut key fac q (execLinkAck p a s) := by
  unfold Machine.execLinkAck
  extract_lets +onlyGivenNames p r
  split
  · exact .next h
  · exact .next (pumpAll (wr (modPort h) _ _))

theorem execLinkNak {p : Port} {a : Byte} (h : Kept key fac q s) : KeptOut key fac q (execLinkNak p a s) :=
  .ite (.next h) (.ite (.next (modPort h)) (.next h.resendFrom))

theorem execLinkCredit {p : Port} {c d : BitVec 16} (h : Kept key fac q s) : KeptOut key fac q (execLinkCredit p c d s) :=
  .next ((h.wr _ _).wr _ _).pumpAll

theorem execSpareLaneMove {p : Port} (h : Kept key fac q s) : KeptOut key fac q (execSpareLaneMove p s) :=
  .ite (.next (modPort h)) (.next h)

theorem execLaneCondemn {x : LaneCheck} (h : Kept key fac q s) : KeptOut key fac q (execLaneCondemn x s) :=
  .ite (.next (ite (h.wr _ _).axlAsk (h.wr _ _))) (.next h)

theorem execLinkRemap {p : Port} {a b : Byte} {w : Word} (h : Kept key fac q s) : KeptOut key fac q (execLinkRemap p a b w s) :=
  .ite (.next (sendLink ((modPort h).put _ _))) (.next h)

theorem execLinkRemapack {p : Port} {w : Word} (h : Kept key fac q s) : KeptOut key fac q (execLinkRemapack p w s) := by
  unfold Machine.execLinkRemapack
  split
  · exact .next (ite (modPort h) h)
  · exact .next h

theorem execRemapSwitch {p : Port} {w : Word} (h : Kept key fac q s) : KeptOut key fac q (execRemapSwitch p w s) := by
  unfold Machine.execRemapSwitch
  extract_lets +onlyGivenNames p
  split
  · refine .ite ?_ (.next h)
    extract_lets s1 s2 s3
    have h2 : Kept key fac q s2 := ((((modPort h).put _ _).wr _ _).put _ _).bump _
    have h3 : Kept key fac q s3 := by
      unfold s3
      split
      · exact resendFrom (modPort h2)
      · exact h2
    exact .next h3.pumpAll
  · exact .next h

theorem execFlitForward {p : Port} {hdr : Dword} {b : List Byte} (h : Kept key fac q s) :
    KeptOut key fac q (execFlitForward p hdr b s) := by
  unfold Machine.execFlitForward
  extract_lets +onlyGivenNames p typ op
  refine .ite (.next h) (.ite (.next (ite (h.bump _) (h.bump _).nakOnce)) (.ite ?_ (.next h)))
  split
  rename_i e
  have h1 := snd e h.rxTake
  exact .next (ite h1 (ite (h1.bump _).credit h1.cutThrough))

theorem execBreakFlit {p : Port} {hdr : Dword} {b : List Byte} (h : Kept key fac q s) :
    KeptOut key fac q (execBreakFlit p hdr b s) := by
  unfold Machine.execBreakFlit
  extract_lets +onlyGivenNames p
  refine .ite ?_ (.next h)
  split
  rename_i e
  have h1 := snd e h.rxOwn
  refine .ite (.next h1) ?_
  extract_lets b s1 f s2 s3
  have h2 : Kept key fac q s1 := (h1.put _ _).put _ _
  have h3 : Kept key fac q s2 := by
    unfold s2
    split
    · exact ite h2.sendFlit h2
    · exact h2
  exact .next (ite h3.event.taskError h3.event)

theorem execMirrorRecord {x : MirrIn} (h : Kept key fac q s) : KeptOut key fac q (execMirrorRecord x s) := by
  unfold Machine.execMirrorRecord
  refine .ite ?_ (.next h)
  split
  rename_i e
  have h1 := snd e h.rxOwn
  exact .next (ite h1.mirrorTake h1)

theorem execEnum {p : Port} {hdr : Dword} {b : List Byte} (h : Kept key fac q s) : KeptOut key fac q (execEnum p hdr b s) := by
  unfold Machine.execEnum
  extract_lets +onlyGivenNames p
  refine .ite ?_ (.next h)
  split
  rename_i e
  have h1 := snd e h.rxOwn
  refine .ite (.next h1) ?_
  split
  · exact .next (h1.bump _)
  · exact .next (ite (h1.bump _) h1.enumRun)

/-! ### Host memory -/

theorem execDmaIssue {w : Bool} {a : Dword} {n : Nat} {l : BitVec 25} (h : Kept key fac q s) :
    KeptOut key fac q (execDmaIssue w a n l s) := by
  unfold Machine.execDmaIssue
  extract_lets +onlyGivenNames next
  refine .ite (.next h) ?_
  split
  · exact .next h
  · refine .ite (.next h) (.ite (.ite (.next h) ?_) (.ite (.next h.dmaIn) (.next h)))
    split
    · exact .next h.dmaOut
    · exact .next h

theorem execMcpl {p : Port} {hdr : Dword} {b : List Byte} (h : Kept key fac q s) : KeptOut key fac q (execMcpl p hdr b s) := by
  unfold Machine.execMcpl
  extract_lets +onlyGivenNames i
  refine .ite (.next h) ?_
  split
  rename_i e
  have h1 := snd e h.rxOwn
  refine .ite (.next h1) ?_
  split
  · exact .next h1
  · exact .ite (.next (bump (upd h1) _)) (.ite (.next (taskError (upd h1))) (.next (mrdData (upd h1))))

theorem execMrdTimeout (h : Kept key fac q s) : KeptOut key fac q (execMrdTimeout s) := by
  unfold Machine.execMrdTimeout
  split
  · exact .next h
  · exact .next (ite (taskError (upd h)) (upd h))

theorem execFlack {x : PortHdr} (h : Kept key fac q s) : KeptOut key fac q (execFlack x s) := by
  unfold Machine.execFlack
  extract_lets +onlyGivenNames i
  refine .ite (.next h) ?_
  split
  rename_i e
  have h1 := snd e h.rxOwn
  exact .ite (.next h1) (.next (ite (taskDone (upd h1)) (upd h1)))

/-! ### Tasks -/

theorem execReadExtent (h : Kept key fac q s) : KeptOut key fac q (execReadExtent s) :=
  .ite (.next h.workDone.extentModes.extentSpin.listStart) (.next h)

theorem execVerifyExtent (h : Kept key fac q s) : KeptOut key fac q (execVerifyExtent s) :=
  .ite (.next h.workDone.extentModes.extentSpin.listStart) (.next h)

theorem execWriteExtent (h : Kept key fac q s) : KeptOut key fac q (execWriteExtent s) :=
  have h1 := h.workDone.extentModes.extentSpin.listStart
  .ite (.next (ite (forEach (fun _ _ h => modW h) h1) h1)) (.next h)

theorem execWriteExtentSpare (h : Kept key fac q s) : KeptOut key fac q (execWriteExtentSpare s) :=
  have h1 := h.workDone.extentModes.extentSpin.listStart
  .ite (.next (ite (forEach (fun _ _ h => h.queueJoin) h1) h1)) (.next h)

theorem execLoadDisc {b : List MgmtBlock} (h : Kept key fac q s) : KeptOut key fac q (execLoadDisc b s) := by
  unfold Machine.execLoadDisc
  refine .ite ?_ (.next h)
  split
  · exact .next (ite h.mcRaise.mgmtFresh.hsStart.setPhase h.driveRest)
  · exact .next (ite h.setPhase.taskSpin h)
  · exact .next (ite h.loadApply h)

theorem execUnloadDisc (h : Kept key fac q s) : KeptOut key fac q (execUnloadDisc s) := by
  unfold Machine.execUnloadDisc
  refine .ite ?_ (.next h)
  split
  · extract_lets +onlyGivenNames n due
    split
    rename_i e
    have h1 := snd e (by split; exacts [h.taskRecord, h])
    exact .ite (.next h1.catalogueDisc.taskError)
      (.next (gripperPark (foldl (fun _ _ h => h.headRelease) _ (modTsk h1.catalogueDisc.setResults))))
  · exact .next h.gripperPark
  · exact .next (ite h (ite h.hsStart.setPhase h.taskError))
  · exact .next (ite (ite h.taskError h.workDone) h)

theorem execSpinUp (h : Kept key fac q s) : KeptOut key fac q (execSpinUp s) :=
  .ite (.next h.workDone.taskSpin) (.next h)

theorem execSpinDownPark (h : Kept key fac q s) : KeptOut key fac q (execSpinDownPark s) :=
  .next ((ite (h.wr _ _) h).spinDown fun _ h => h.parkRun)

theorem execReadMgmt {b : List MgmtBlock} (h : Kept key fac q s) : KeptOut key fac q (execReadMgmt b s) :=
  .ite (.ite (.next h.mgmtFresh.listStart.setPhase) (.ite (.next h.readBlocks) (.next h))) (.next h)

theorem execCloseSession (h : Kept key fac q s) : KeptOut key fac q (execCloseSession s) := by
  unfold Machine.execCloseSession
  refine .ite ?_ (.next h)
  extract_lets n
  split <;> rename_i e
  · exact .next (snd e h.taskRecord).setResults.workDone
  · exact .next (snd e h.taskRecord).taskError

theorem execScanSpare (h : Kept key fac q s) : KeptOut key fac q (execScanSpare s) :=
  .ite (.next (ite (workDone (modTsk (upd h.setPhase))) (modTsk (upd h.setPhase)))) (.next h)

theorem execCatalogRead (h : Kept key fac q s) : KeptOut key fac q (execCatalogRead s) := by
  unfold Machine.execCatalogRead
  refine .ite (.ite (.next h.listStart.setPhase) (.ite ?_ (.next h))) (.next h)
  extract_lets n bs s1 s2 count
  have h2 : Kept key fac q s2 := (forEach (fun _ _ h => h.touchLines) h).deliver
  exact .next (ite (forEach (fun _ _ h => (h.setReg _ _).progressEvent) h2).setResults.workDone h2)

theorem execCatalogEvict (h : Kept key fac q s) : KeptOut key fac q (execCatalogEvict s) :=
  .ite (.next h.evict.workDone) (.next h)

theorem execCatalogEvictAll (h : Kept key fac q s) : KeptOut key fac q (execCatalogEvictAll s) :=
  .ite (.next (forEach (fun _ _ h => h.evict) h).workDone) (.next h)

theorem execPairHandover (h : Kept key fac q s) : KeptOut key fac q (execPairHandover s) :=
  .ite (.next h.setPhase.handover) (.next h)

theorem execPatchLoad {b : List Byte} (h : Kept key fac q s) : KeptOut key fac q (execPatchLoad b s) := by
  unfold Machine.execPatchLoad
  refine .ite ?_ (.next h)
  split
  · exact .next h.listStart.setPhase
  · exact .next (ite h.collect.setPhase h)
  · exact .next (ite h h.patchBlob)

/-! ### Tasks that end, and DEC -/

theorem execTaskSuccess (h : Kept key fac q s) : KeptOut key fac q (execTaskSuccess s) := .next (ite h.taskFinish h)

theorem execFreezeSettled (h : Kept key fac q s) : KeptOut key fac q (execFreezeSettled s) :=
  .next (ite (h.put _ _).taskEndEvent h)

theorem execLaneTake {l : DecLane} {w : Nat} (h : Kept key fac q s) : KeptOut key fac q (execLaneTake l w s) := by
  unfold Machine.execLaneTake
  refine .ite ?_ (.next h)
  split
  · exact .next (modLane (upd h))
  · exact .next h

theorem execDecodeEnd {l : DecLane} {cws : List CwIn} (h : Kept key fac q s) : KeptOut key fac q (execDecodeEnd l cws s) := by
  unfold Machine.execDecodeEnd
  split
  · exact .next h
  · rename_i e _
    extract_lets lim stall todo hard bad run last rs ok open_ conv iters wasted s1 s2 s3 r s4
    have h1 : Kept key fac q s1 := ite h.consumeSram h
    have h2 : Kept key fac q s2 := ite h1 (forEach (fun _ _ h => h.putCodeword) h1)
    have h4 : Kept key fac q s4 := (h2.bump64 _ _).post
    exact .next (ite h4.laneOut h4)

theorem execCollectorDrain (h : Kept key fac q s) : KeptOut key fac q (execCollectorDrain s) := by
  unfold Machine.execCollectorDrain
  extract_lets p s1 order s2
  have h2 : Kept key fac q s2 := (foldl (fun _ _ h => h.countIdle) _ h).setReg _ _
  split
  · split
    · exact .next h2.drain
    · exact .next h2
  · exact .next h2

theorem execKnownAnswerTest (h : Kept key fac q s) : KeptOut key fac q (execKnownAnswerTest s) := by
  unfold Machine.execKnownAnswerTest
  extract_lets +onlyGivenNames p order
  split
  · exact .next (setReg (upd h) _ _)
  · exact .next h

/-! ### Memory and repair -/

theorem execTrainingDone {c : DramChan} {r : TrainResult} (h : Kept key fac q s) : KeptOut key fac q (execTrainingDone c r s) := by
  unfold Machine.execTrainingDone
  split
  · exact .next ((h.trainEnd.setReg _ _).setPair _ _)
  · have h1 := ((h.trainEnd (c := c)).setReg (Reg.DMC_TRN_SWEEP_RES c 0))
    exact .next (ite ((((h1 _).setReg _ _).setReg _ _).put _ _).startStop (((h1 _).setReg _ _).setReg _ _))
  · exact .next h

/-- DRAM's fill leaves nothing listed, which is in form. -/
theorem emptyDram (h : Kept key fac q s) {psn : List Nat} : Kept key fac q { s with dram := [], psn := psn } :=
  ⟨{ h.canon with dram := Sparse.wf_nil _ }, h.fusedOf rfl, h.fac, h.queue⟩

theorem execDramFillDone (h : Kept key fac q s) : KeptOut key fac q (execDramFillDone s) := by
  unfold Machine.execDramFillDone
  refine .ite ?_ (.next h)
  have h1 : Kept key fac q (({ s.clock.modMem (fun m => { m with filling := false, lapAt := s.clock.cycles }) with
      dram := [], psn := [] }).put F.MIC_FILL_STAT_DDONE true |>.put F.SEQ_STAT_DFILL true) :=
    (emptyDram (modMem h.clock)).put _ _ |>.put _ _
  exact .next (ite ((h1.wr _ _).setReg _ _) h1)

theorem execSkinkDramStep {r : EccResult} (h : Kept key fac q s) : KeptOut key fac q (execSkinkDramStep r s) :=
  .ite (.next (ite ((h.touch.lineChecked.setReg _ _).setPair _ _).lapEnd ((h.touch.lineChecked.setReg _ _).setPair _ _)))
    (.next h)

theorem execSkinkSramStep {m : Fin 1024} {w : Fin 65536} {c : Fin 20} {r : EccResult} (h : Kept key fac q s) :
    KeptOut key fac q (execSkinkSramStep m w c r s) := by
  unfold Machine.execSkinkSramStep
  exact .ite (.next (ite h.wordChecked (modMem h.wordChecked)).sramLap) (.next h)

theorem execRowRemap {c : DramChan} {k : Bool} {b : Fin 16} {r : Fin 131072} (h : Kept key fac q s) :
    KeptOut key fac q (execRowRemap c k b r s) := by
  unfold Machine.execRowRemap
  extract_lets +onlyGivenNames row
  split
  · exact .next h
  · exact .next (setReg (modMem h.rowCopy) _ _)

theorem execAxlGrant {r : AxlReq} (h : Kept key fac q s) : KeptOut key fac q (execAxlGrant r s) := by
  unfold Machine.execAxlGrant
  refine .ite ?_ (.next h)
  extract_lets s1
  have h1 : Kept key fac q s1 := h.axlTake
  refine .ite (.next (((h1.put _ _).bump _).axlLog).event) (.ite (.next h1.axlDeny) ?_)
  split
  · exact .next (h1.axlEffect.addRepair.axlLog.bump _).event
  · exact .next h1.axlDeny

theorem execAxlFrozen (h : Kept key fac q s) : KeptOut key fac q (execAxlFrozen s) :=
  .ite (.next h) (.next (ite (h.put _ _).event.attention (h.put _ _).event))

/-! ### Calibrations -/

theorem execCalibrateRef {m : Nat} {rs : List Int} {k : Nat} (h : Kept key fac q s) :
    KeptOut key fac q (execCalibrateRef m rs k s) :=
  .next (h.calMeasure fun _ h => ((h.setReg _ _).setReg _ _).calTarget fun _ h => h.calClamp.setInt _ _)

theorem execCalibrateInofs {ms rs : List Int} (h : Kept key fac q s) : KeptOut key fac q (execCalibrateInofs ms rs s) :=
  .next (h.calMeasure fun _ h => forEach (fun _ _ h => forEach (fun _ _ h =>
    (h.calTarget fun _ h => h.calClamp.setInt _ _).calClamp.wr _ _) h) h)

theorem execCalibrateShunt {os gs : List Word} {rs : List Int} (h : Kept key fac q s) :
    KeptOut key fac q (execCalibrateShunt os gs rs s) :=
  .next (h.calMeasure fun _ h => forEach (fun _ _ h =>
    (h.calTarget fun _ h => (h.setReg _ _).setReg _ _).calSigned) h)

theorem execCalibrateLdcur {ts : List Word} {is : List Nat} (h : Kept key fac q s) :
    KeptOut key fac q (execCalibrateLdcur ts is s) :=
  .next (h.calMeasure fun _ h => forEach (fun _ _ h => ite (h.calTarget fun _ h => upd h).calField h) h)

theorem execCalibrateLdpwr {fs : List LdFit} (h : Kept key fac q s) : KeptOut key fac q (execCalibrateLdpwr fs s) := by
  have fits : ∀ {t : State} {f g k : Nat → RegField} {x y z : Nat → Nat} (_ : Kept key fac q t), Kept key fac q
      (Machine.forEach (List.range 5) (fun e t => ((t.calField (f e) (x e)).calField (g e) (y e)).calField (k e) (z e)) t) :=
    fun ht => forEach (fun _ _ h => h.calField.calField.calField) ht
  exact .next (h.calMeasure fun _ h => forEach (fun _ _ h => forEach (fun _ _ h => h.wr _ _) (ite ((fits h).put _ _)
    ((fits h).calTarget fun _ h => (forEach (fun _ _ h => h.calClamp.wr _ _) h).calClamp.wr _ _))) h)

theorem execCalibrateSkew {a b : List (List Int)} {c : List (Nat × Nat)} (h : Kept key fac q s) :
    KeptOut key fac q (execCalibrateSkew a b c s) :=
  .next (h.calOnDisc fun _ h => forEach (fun _ _ h => ite ((h.wr _ _).wr _ _)
    (h.calTarget fun _ h => ((h.calClamp.calClamp).wr _ _).wr _ _).calField.calField) h)

theorem execCalibrateHofs {a : List Int} {b : List Nat} (h : Kept key fac q s) : KeptOut key fac q (execCalibrateHofs a b s) :=
  .next (h.calMeasure fun _ h => forEach (fun _ _ h => (h.calTarget fun _ h => h.calClamp.setInt _ _).calField) h)

theorem execCalibrateSapos {a : List (List Nat)} {b : List Nat} (h : Kept key fac q s) :
    KeptOut key fac q (execCalibrateSapos a b s) :=
  .next (h.calOnDisc fun _ h => forEach (fun _ _ h => h.calField) (h.calTarget fun _ h => h.calSigned))

theorem execCalibrateEye {a : List (List (Nat × Nat))} {b : List Nat} (h : Kept key fac q s) :
    KeptOut key fac q (execCalibrateEye a b s) :=
  .next (h.calOnDisc fun _ h => forEach (fun _ _ h => ite ((h.wr _ _).wr _ _) h.calField.calField) h)

theorem execCalibrateLoop {a : List Word} (h : Kept key fac q s) : KeptOut key fac q (execCalibrateLoop a s) :=
  .next (ite (forEach (fun _ _ h => forEach (fun _ _ h => h.setReg _ _) h) h).calDone h)

/-! ### SEQ -/

theorem execWaitWake (h : Kept key fac q s) : KeptOut key fac q (execWaitWake s) := by
  unfold Machine.execWaitWake
  refine .ite ?_ (.next h)
  extract_lets m
  split
  · exact .next (setG (takeEvent (modSeq h))).passOn.takeWdog.haltDue
  · exact .next h

theorem execEventEntry (h : Kept key fac q s) : KeptOut key fac q (execEventEntry s) := by
  unfold Machine.execEventEntry
  extract_lets +onlyGivenNames ok
  refine .ite ?_ (.next h)
  split
  · exact .next (((((h.takeEvent.wr _ _).setReg _ _).setReg _ _).setMode.put _ _).setPc.bump _).pmcEdge
  · exact .next h

theorem execWdog (h : Kept key fac q s) : KeptOut key fac q (execWdog s) :=
  .ite (.ite (.next h.raise.haltDue) (.next (takeWdog (modSeq h)))) (.next h)

theorem execTimer {k : Fin 4} (h : Kept key fac q s) : KeptOut key fac q (execTimer k s) :=
  .ite (.next (h.setReg _ _).event) (.next h)

/-! ### Power and reset -/

theorem execPowerOnReset (h : Kept key fac q s) : KeptOut key fac q (execPowerOnReset s) := by
  have h1 := h.freshen
  exact .next ⟨{ h1.canon with regs := Sparse.wf_filter resetWord _ _ h1.canon.regs }, h1.fusedOf rfl, h1.fac, h1.queue⟩

theorem execPinReset {n : Nat} (h : Kept key fac q s) : KeptOut key fac q (execPinReset n s) :=
  .ite (.next h) (.ite (.next h.moduleReset) (.next (ite h.draw.moduleReset h.draw)))

theorem execThermalReset {t : Int} (h : Kept key fac q s) : KeptOut key fac q (execThermalReset t s) :=
  .ite (.next (upd h.moduleReset)) (.next h)

theorem execDieTemperatureSample {t : Int} (h : Kept key fac q s) : KeptOut key fac q (execDieTemperatureSample t s) := by
  unfold Machine.execDieTemperatureSample
  extract_lets +onlyGivenNames pwr s1
  have h1 : Kept key fac q s1 := ite (upd h) h
  clear_value s1
  refine .ite (.next h1) ?_
  extract_lets +onlyGivenNames s2
  have h2 : Kept key fac q s2 := (h1.setInt _ _).setInt _ _
  refine .ite ?_ (.next h2)
  extract_lets s3 s4 quiet
  have h4 : Kept key fac q s4 := (ite h2 ((h2.put _ _).bump _)).clock
  exact .ite (.next h4) (.next (attention (upd h4)))

theorem execStartUp {x : StartIn} (h : Kept key fac q s) : KeptOut key fac q (execStartUp x s) :=
  .ite (.ite (.next h) (.next h.startRelease))
    (.ite (.next (forEach (fun _ _ h => h.stepTime) h).bist.enableBlocks.libraryKey.enablePorts.startEnd) (.next h))

/-! ### Register accesses -/

theorem execCreq {p : Port} {hdr : Dword} {b : List Byte} (h : Kept key fac q s) : KeptOut key fac q (execCreq p hdr b s) := by
  unfold Machine.execCreq
  extract_lets +onlyGivenNames i
  refine .ite ?_ (.next h)
  split
  rename_i e
  have h1 := snd e h.rxOwn
  exact .ite (.next h1) (.ite (.next (h1.bump _).sendFlit) (.ite (.next (upd h1)) (.next h1.creqRun.settled)))

theorem execTestConnectorAccess {w : Bool} {o : BitVec 24} {v : Word} (h : Kept key fac q s) :
    KeptOut key fac q (execTestConnectorAccess w o v s) :=
  .next (settled (upd h.busAccess))

theorem execRcRead {m : Master} {o : BitVec 24} (h : Kept key fac q s) : KeptOut key fac q (execRcRead m o s) :=
  .ite (.next h.busAccess) (.next h)

theorem execLoWordRead {m : Master} {o : BitVec 24} (h : Kept key fac q s) : KeptOut key fac q (execLoWordRead m o s) :=
  .ite (.next h.busAccess) (.next h)

theorem execConfigImageRead (h : Kept key fac q s) : KeptOut key fac q (execConfigImageRead s) := by
  unfold Machine.execConfigImageRead
  refine .ite ?_ (.next h)
  split
  rename_i e
  have h1 := ((snd e (h.wr _ _).readImage).setReg Reg.CFG_IMG_VER)
  extract_lets s1
  have h2 : Kept key fac q s1 := (h1 _).setReg _ _
  split
  · exact .next h2.cfgFault
  · exact .next h2.mcSettle.mcSettle.pass2

/-! ### Every command -/

/-- Whatever the command, the state it leads to is so kept. -/
theorem exec (h : Kept key fac q s) (c : Instr) : KeptOut key fac q (Machine.exec c s) := by
  unfold Machine.exec
  split
  · exact execFrameMarkGood h
  · exact execFrameMarkMissing h
  · exact execHeadUnlocked h
  · exact execAngleInvalid h
  · exact execAddressWord h
  · exact execFrameZero h
  · exact execHoldEnd h
  · exact .next h.fireAt
  · exact .next h.fireAt
  · exact .next h.fireAt
  · exact .next h.fireAt
  · exact .next h.fireAt
  · exact .next h.fireAt
  · exact .next h.seqEvents
  · exact .next h.fireAt
  · exact .next h.fireAt
  · exact .next h.evtArm
  · exact .next h.evtDisarm
  · exact .next h.evtDisarmAll
  · exact .next h.sampleRun
  · exact execEncoderTransition h
  · exact execIndexEdge h
  · exact execSliceShadowEnd h
  · exact execSliceSwap h
  · exact execAgcStep h
  · exact .next h.pllCtrlWrite
  · exact execSlotStart h
  · exact execSyncDecision h
  · exact execHeaderDecision h
  · exact execCaptureEnd h
  · exact execDefectRegion h
  · exact .next (h.wr _ _)
  · exact .next h.runAbort
  · exact execLaneTake h
  · exact execDecodeEnd h
  · exact execCollectorDrain h
  · exact execKnownAnswerTest h
  · exact execRebuildScan h
  · exact execZoneLayerReady h
  · exact execVerifyDecision h
  · exact execReplacementPass h
  · exact execOpc h
  · exact execRecordEvent h
  · exact execLddFault h
  · exact execEnableConditionLoss h
  · exact execVldMonitor h
  · exact execHfIntervalEnd h
  · exact execSpareShadowMove h
  · exact .next (upd h)
  · exact .next h.orderPreset
  · exact .next (h.setReg _ _)
  · exact .next (h.lsvCommand fun _ h => h.leaveFollow.lsvBegin.acquireStage)
  · exact execLayer h
  · exact .next (h.lsvCommand fun _ h => h.lsvBegin.jumpRun)
  · exact .next (h.lsvCommand fun _ h => h.lsvBegin.seekRun)
  · exact .next (h.lsvCommand fun _ h => h.releaseRun)
  · exact .next (h.lsvCommand fun _ h => h.lsvStopRun)
  · exact execJumpLaunch h
  · exact execKickEnd h
  · exact execTrackingKickEnd h
  · exact execFsettleEnd h
  · exact execTpullTimeout h
  · exact execSingleJumpTimeout h
  · exact execSeekSettleEnd h
  · exact execFocusLost h
  · exact execTrackLost h
  · exact .next (h.spnCommand fun _ h => h.spinRun)
  · exact .next (h.spnCommand fun _ h => h.stopRun)
  · exact .next (h.spnCommand fun _ h => h.brakeRun)
  · exact .next (h.spnCommand fun _ h => h.coastRun)
  · exact .next (h.spnCommand fun _ h => h.parkRun)
  · exact .next (h.spnCommand fun _ h => h.rotateRun)
  · exact .next (ite h.spnGo h)
  · exact execHandoff h
  · exact execHandoffTimeout h
  · exact execAtspeed h
  · exact execStandstill h
  · exact execStopHoldEnd h
  · exact execVwatchOn h
  · exact execVwatchOff h
  · exact .next h.spnFault
  · exact execStageEnableOn h
  · exact execStageEnableOff h
  · exact .next h.sldCommand
  · exact .next h.sldStopRun
  · exact .next h.sldCommand
  · exact .next h.sldCommand
  · exact .next h.sldCommand
  · exact .next h.sldCommand
  · exact .next h.sldCommand
  · exact execMoveEnd h
  · exact execStall h
  · exact execHoldCurrent h
  · exact execPortTraining h
  · exact execLaneTrainingTimeout h
  · exact execPortUp h
  · exact execSpareLaneMove h
  · exact execLaneCondemn h
  · exact execRemapSwitch h
  · exact execBadFlit h
  · exact execLinkAck h
  · exact execLinkNak h
  · exact .next ((h.wr _ _).wr _ _).pumpAll
  · exact execLinkCredit h
  · exact execLinkRemap h
  · exact execLinkRemapack h
  · exact .next (ite h.retrain h)
  · exact .next (ite h.ackNow h)
  · exact .next (ite h.resend h)
  · exact .next (ite h.portFail h)
  · exact execBreakFlit h
  · exact execFlitForward h
  · exact execCreq h
  · exact execMcpl h
  · exact execFlack h
  · exact execEnum h
  · exact execMrdTimeout h
  · exact execDmaIssue h
  · exact .next (ite h.access.settled h)
  · exact .next h.settled
  · exact .next h.taskGo
  · exact .next h.taskRestart
  · exact execReadExtent h
  · exact execWriteExtent h
  · exact execWriteExtentSpare h
  · exact execVerifyExtent h
  · exact execLoadDisc h
  · exact execUnloadDisc h
  · exact execSpinUp h
  · exact .next (h.spinDown fun _ h => h.stopRun)
  · exact .next (h.spinDown fun _ h => h.brakeRun)
  · exact execSpinDownPark h
  · exact execReadMgmt h
  · exact execCloseSession h
  · exact execScanSpare h
  · exact execCatalogRead h
  · exact execCatalogEvict h
  · exact execCatalogEvictAll h
  · exact execPairHandover h
  · exact execPatchLoad h
  · exact .next (ite h.workDone h)
  · exact execCalibrateRef h
  · exact execCalibrateInofs h
  · exact execCalibrateShunt h
  · exact execCalibrateLdcur h
  · exact execCalibrateLdpwr h
  · exact execCalibrateSkew h
  · exact execCalibrateHofs h
  · exact execCalibrateSapos h
  · exact execCalibrateEye h
  · exact execCalibrateLoop h
  · exact execTaskSuccess h
  · exact execFreezeSettled h
  · exact .next h.runCtl
  · exact .next h.runCtl
  · exact .next h.runCtl
  · exact .next h.runCtl
  · exact .next h.runCtl
  · exact .next h.runCtl
  · exact .next h.runCtl
  · exact .next h.runCtl
  · exact execWaitWake h
  · exact .next h.runCtl
  · exact .next h.runCtl
  · exact .next h.runXop
  · exact .next h.runXop
  · exact .next h.runXop
  · exact .next h.runXop
  · exact .next h.runXop
  · exact .next h.runXop
  · exact .next h.runXop
  · exact .next h.runXop
  · exact .next h.runXop
  · exact .next h.runXop
  · exact .next h.runXop
  · exact .next h.runXop
  · exact .next h.runXop
  · exact .next h.runXop
  · exact .next h.runXop
  · exact .next h.runXop
  · exact .next h.runXop
  · exact .next h.runXop
  · exact .next h.runXop
  · exact .next h.runXop
  · exact .next h.cchOp
  · exact .next h.cchOp
  · exact .next h.cchOp
  · exact .next h.cchOp
  · exact .next h.cchOp
  · exact .next h.cchOp
  · exact execWdog h
  · exact execEventEntry h
  · exact execTimer h
  · exact .next (ite h.seqHaltWrite h)
  · exact .next (ite (h.seqStepWrite ioRead ioWrite).settled h)
  · exact .next (ite h.evtForce h)
  · exact .next h.modSeq
  · exact .next (ite h.regionSet h)
  · exact .next h.trainGo
  · exact .next h.trainGo
  · exact execTrainingDone h
  · exact .next h.fillStart
  · exact execDramFillDone h
  · exact execSkinkDramStep h
  · exact execSkinkSramStep h
  · exact execRowRemap h
  · exact .next h.closeRow
  · exact .next ((ite h h.closeRow).bump _)
  · exact .next h.flcProgram
  · exact .next h.flcErase
  · exact .next h.flcSuspend
  · exact .next h.flcResume
  · exact execFlcDone h
  · exact execSectorRemap h
  · exact .next h.mcCmd
  · exact execConfigImageRead h
  · exact .next (ite h.dload h)
  · exact .next (h.put _ _)
  · exact .next h.lockTake
  · exact .next h.lockGive
  · exact .next h.cphCommand
  · exact .next h.cphCommand
  · exact .next h.cphCommand
  · exact .next h.cphCommand
  · exact .next h.cphCommand
  · exact .next h.cphCommand
  · exact .next h.cphCommand
  · exact .next h.cphFinish
  · exact .next h.sessionChallenge
  · exact .next h.sessionResponse
  · exact .next h.sessionClose
  · exact .next h.sessionShut
  · exact execLockoutEnd h
  · exact execTamperAlarm h
  · exact execBkpTemperatureSample h
  · exact .next h.bkpLogClr
  · exact execOwnershipChange h
  · exact execSupervisorRelease h
  · exact execClaim h
  · exact .next h.mirrSend
  · exact .next h.heartbeatLost
  · exact execMirrorRecord h
  · exact execHandoverTimeout h
  · exact execAxlGrant h
  · exact execAxlFrozen h
  · exact execFrameReceive h
  · exact .next h.rxVerdict
  · exact .next h.lbsSendCmd
  · exact execCollision h
  · exact .next (h.robotReply fun _ h => h)
  · exact .next (h.robotReply fun _ h => h.discGone)
  · exact execLbsAck h
  · exact execLbsAbort h
  · exact execAcktoExpiry h
  · exact execDonetoExpiry h
  · exact execEnvReport h
  · exact execBeaconLoss h
  · exact execPowerOnReset h
  · exact execStartUp h
  · exact .next (ite h h.startStop)
  · exact execPinReset h
  · exact .next (ite h.moduleReset h)
  · exact execThermalReset h
  · exact .next h
  · exact execDieTemperatureSample h
  · exact execTestConnectorAccess h
  · exact execRcRead h
  · exact execLoWordRead h
  · exact .next (ite h.busAccess.settled h)
  · exact .next h.angCtrlWrite
  · exact .next (ite h (h.bump _).condemnLane)
  · exact .next h.lddStatWrite
  · exact .next h.spnStatWrite
  · exact .next h.sldPosWrite
  · exact .next (put (upd h) _ _)
  · exact execBeaconReturn h

end Sys2Proof.Machine.Kept

namespace Sys2Proof.Machine

set_option Elab.async false

/-- Settles O58: the command that a step takes keeps the form, for every operation it is made of does. -/
theorem stepKeepsCanonical : Obligations.StepKeepsCanonical := by
  intro s t hs ht
  unfold step at ht
  split at ht
  · cases ht; exact hs
  · next c r _ =>
    have h : Kept none s.axl.factory r { s with pending := r } :=
      ⟨⟨hs.regs, hs.latch, hs.dram, hs.sram, hs.cs, hs.buf, hs.win, hs.flash, hs.progs⟩, nofun, rfl, rfl⟩
    exact (h.exec c t ht).canon

end Sys2Proof.Machine
end

section
/-! ## What a command ends in -/

namespace Sys2Proof.Machine

set_option Elab.async false

/-- The outcome is a next state of which `P` holds. -/
def Ends (o : Host.Outcome State Fault Refusal) (P : State → Prop) : Prop := ∃ t, o = .next t ∧ P t

theorem Ends.next {P : State → Prop} {t : State} (h : P t) : Ends (.next t) P := ⟨t, rfl, h⟩

end Sys2Proof.Machine
/-! ## Frames by part

A command's frame is said of the state's parts: a set of parts and a list of registers that it may move. Frames compose, and a frame
read at the end gives the statement's record equation. -/

namespace Sys2Proof.Machine

set_option Elab.async false

/-- A set of parts of the state. -/
structure Parts where
  regs : Bool := false
  latch : Bool := false
  dram : Bool := false
  psn : Bool := false
  ang : Bool := false
  acq : Bool := false
  det : Bool := false
  dec : Bool := false
  rcv : Bool := false
  disc : Bool := false
  wrp : Bool := false
  srv : Bool := false
  lsv : Bool := false
  spn : Bool := false
  sld : Bool := false
  hlk : Bool := false
  tsk : Bool := false
  seq : Bool := false
  mir : Bool := false
  axl : Bool := false
  cph : Bool := false
  lbs : Bool := false
  mem : Bool := false
  flc : Bool := false
  pwr : Bool := false
  axlReq : Bool := false
  tap : Bool := false
  free : Bool := false
  pending : Bool := false

/-- Every part of the one set is in the other. -/
def Parts.le (c d : Parts) : Bool :=
  (!c.regs || d.regs) && (!c.latch || d.latch) && (!c.dram || d.dram) && (!c.psn || d.psn) && (!c.ang || d.ang) &&
  (!c.acq || d.acq) && (!c.det || d.det) && (!c.dec || d.dec) && (!c.rcv || d.rcv) && (!c.disc || d.disc) &&
  (!c.wrp || d.wrp) && (!c.srv || d.srv) && (!c.lsv || d.lsv) && (!c.spn || d.spn) && (!c.sld || d.sld) && (!c.hlk || d.hlk) &&
  (!c.tsk || d.tsk) && (!c.seq || d.seq) && (!c.mir || d.mir) && (!c.axl || d.axl) && (!c.cph || d.cph) && (!c.lbs || d.lbs) &&
  (!c.mem || d.mem) && (!c.flc || d.flc) && (!c.pwr || d.pwr) && (!c.axlReq || d.axlReq) && (!c.tap || d.tap) &&
  (!c.free || d.free) && (!c.pending || d.pending)

/-- The parts of the set from `t`, the others from `s`. -/
def State.splice (c : Parts) (s t : State) : State where
  regs := cond c.regs t.regs s.regs
  latch := cond c.latch t.latch s.latch
  dram := cond c.dram t.dram s.dram
  psn := cond c.psn t.psn s.psn
  ang := cond c.ang t.ang s.ang
  acq := cond c.acq t.acq s.acq
  det := cond c.det t.det s.det
  dec := cond c.dec t.dec s.dec
  rcv := cond c.rcv t.rcv s.rcv
  disc := cond c.disc t.disc s.disc
  wrp := cond c.wrp t.wrp s.wrp
  srv := cond c.srv t.srv s.srv
  lsv := cond c.lsv t.lsv s.lsv
  spn := cond c.spn t.spn s.spn
  sld := cond c.sld t.sld s.sld
  hlk := cond c.hlk t.hlk s.hlk
  tsk := cond c.tsk t.tsk s.tsk
  seq := cond c.seq t.seq s.seq
  mir := cond c.mir t.mir s.mir
  axl := cond c.axl t.axl s.axl
  cph := cond c.cph t.cph s.cph
  lbs := cond c.lbs t.lbs s.lbs
  mem := cond c.mem t.mem s.mem
  flc := cond c.flc t.flc s.flc
  pwr := cond c.pwr t.pwr s.pwr
  axlReq := cond c.axlReq t.axlReq s.axlReq
  tap := cond c.tap t.tap s.tap
  free := cond c.free t.free s.free
  pending := cond c.pending t.pending s.pending

/-- From `s` to `t` only the parts in `c` moved, and of the registers only those listed. -/
structure Moves (c : Parts) (as : List Nat) (s t : State) : Prop where
  parts : t = s.splice c t
  regs  : RegsBut as s t

theorem cond_cond_same {α : Type} (b : Bool) (x y z : α) : cond b x (cond b y z) = cond b x z := by cases b <;> rfl
theorem cond_cond_le {α : Type} {b d : Bool} (h : (!b || d) = true) (x y : α) : cond d (cond b x y) y = cond b x y := by
  cases b <;> cases d <;> simp_all

theorem State.splice_splice (c : Parts) (s t u : State) : (s.splice c t).splice c u = s.splice c u := by
  simp only [State.splice, cond_cond_same]

theorem State.splice_le {c d : Parts} (h : c.le d = true) (s t : State) : s.splice d (s.splice c t) = s.splice c t := by
  simp only [Parts.le, Bool.and_eq_true] at h
  simp only [State.splice, cond_cond_le, h]

theorem State.splice_self (c : Parts) (s : State) : s.splice c s = s := by simp only [State.splice, Bool.cond_self]
namespace Moves

set_option Elab.async false

variable {c d : Parts} {as bs : List Nat} {s t u : State}

theorem refl : Moves c as s s := ⟨(s.splice_self c).symm, .refl⟩

theorem trans (h : Moves c as s t) (k : Moves c as t u) : Moves c as s u :=
  ⟨k.parts.trans ((congrArg (State.splice c · u) h.parts).trans (s.splice_splice c t u)), h.regs.trans k.regs⟩

theorem mono (h : Moves c as s t) (hc : c.le d = true) (ha : as ⊆ bs) : Moves d bs s t :=
  ⟨h.parts.trans ((State.splice_le hc s t).symm.trans (congrArg (s.splice d) h.parts.symm)), fun a hn => h.regs a fun q => hn (ha q)⟩

/-- A move of wider or other parts after another. -/
theorem then_ (h : Moves c as s t) (k : Moves d bs t u) (hc : d.le c = true) (ha : bs ⊆ as) : Moves c as s u := h.trans (k.mono hc ha)

theorem ite {p : Prop} [Decidable p] (ht : Moves c as s t) (hu : Moves c as s u) : Moves c as s (if p then t else u) := by
  split <;> assumption

theorem forEach {α : Type} {f : α → State → State} : ∀ (l : List α) {t : State}, (∀ a ∈ l, ∀ t, Moves c as s t → Moves c as s (f a t)) →
    Moves c as s t → Moves c as s (forEach l f t)
  | [], _, _, h => h
  | a :: l, _, hf, h => forEach l (fun b hb => hf b (List.mem_cons_of_mem _ hb)) (hf a List.mem_cons_self _ h)

/-- An update of parts that may move, the registers left alone. -/
theorem upd (h : Moves c as s t) (e : u = t.splice c u := by rfl) (r : u.regs = t.regs := by rfl) : Moves c as s u :=
  h.trans ⟨e, fun a _ => State.reg_of_regs r a⟩

/-- What is read of the parts that did not move. -/
theorem keep (h : Moves c as s t) {α : Type} (p : State → α) (hp : ∀ s t : State, p (s.splice c t) = p s := by intros; rfl) :
    p t = p s := (congrArg p h.parts).trans (hp s t)

theorem rd (h : Moves c as s t) {f : RegField} (hf : f.reg ∉ as) : t.rd f = s.rd f := congrArg f.of (h.regs _ hf)
theorem flag (h : Moves c as s t) {f : RegField} (hf : f.reg ∉ as) : t.flag f = s.flag f := congrArg (· != 0) (h.rd hf)

/-! Registers. -/

theorem of_onlyRegs (h : OnlyRegs as s t) : Moves { regs := true } as s t := ⟨h.1, h.2⟩

theorem of_noted (h : Noted as s t) : Moves { regs := true, hlk := true } (as ++ noteRegs) s t :=
  ⟨h.1, fun a ha => h.2 a (fun q => ha (List.mem_append_left _ q)) (fun q => ha (List.mem_append_right _ q))⟩

theorem setReg (h : Moves c as s t) {a : Nat} (w : Word) (hc : c.regs = true := by rfl) (ha : a ∈ as := by simp) :
    Moves c as s (t.setReg a w) := by
  refine h.then_ (d := { regs := true }) (bs := [a]) (of_onlyRegs (OnlyRegs.refl.setReg (by simp) w)) ?_ (by simpa using ha)
  simp [Parts.le, hc]

theorem wr (h : Moves c as s t) {f : RegField} (v : Nat) (hc : c.regs = true := by rfl) (ha : f.reg ∈ as := by simp) :
    Moves c as s (t.wr f v) := h.setReg _ hc ha
theorem put (h : Moves c as s t) {f : RegField} (b : Bool) (hc : c.regs = true := by rfl) (ha : f.reg ∈ as := by simp) :
    Moves c as s (t.put f b) := h.setReg _ hc ha
theorem bump (h : Moves c as s t) {a : Nat} (hc : c.regs = true := by rfl) (ha : a ∈ as := by simp) :
    Moves c as s (t.bump a) := h.setReg _ hc ha
theorem bumpBy (h : Moves c as s t) {a : Nat} (n : Nat) (hc : c.regs = true := by rfl) (ha : a ∈ as := by simp) :
    Moves c as s (t.bumpBy a n) := h.setReg _ hc ha
theorem setPair (h : Moves c as s t) {a : Nat} (n : Nat) (hc : c.regs = true := by rfl) (ha : a ∈ as := by simp)
    (hb : a + 4 ∈ as := by simp) : Moves c as s (t.setPair a n) := (h.setReg _ hc ha).setReg _ hc hb
theorem bump64 (h : Moves c as s t) {a : Nat} (n : Nat) (hc : c.regs = true := by rfl) (ha : a ∈ as := by simp)
    (hb : a + 4 ∈ as := by simp) : Moves c as s (t.bump64 a n) := h.setPair _ hc ha hb

end Moves

/-! ## Counts -/

namespace Counts

set_option Elab.async false

variable {c : Parts} {as : List Nat} {s t u : State} {a : Nat}

theorem bump : Counts s (s.bump a) a := State.reg_bump_same s a

theorem then_ (h : Counts s t a) (k : Moves c as t u) (ha : a ∉ as) : Counts s u a := (k.regs a ha).trans h

theorem after (h : Counts t u a) (k : Moves c as s t) (ha : a ∉ as) : Counts s u a := by
  unfold Counts at h ⊢
  rw [h, k.regs a ha]

end Counts

end Sys2Proof.Machine
end

section
/-! ## Converters and gain loops -/

namespace Sys2Proof.Machine

set_option Elab.async false

theorem modAdc_adcs (s : State) (a : Fin 36) (f : Adc → Adc) : (s.modAdc a f).acq.adcs[a] = f s.acq.adcs[a] := by
  simp [State.modAdc]

/-- The bit of a slice in a set of eight. -/
theorem twoPow8_getLsbD (k : Fin 8) : (BitVec.ofNat 8 (2 ^ k.val)).getLsbD k.val = true := by revert k; decide

/-- R90: a comparison of a slice that the spare shadows. -/
theorem execSliceShadowEnd_ends {s : State} {a : Fin 36} {mad : Nat} (hr : s.fastRuns a = true)
    (hs : s.flag (F.ACQ_ADC_MAP_SPARE a) = false) : Ends (execSliceShadowEnd a mad s) fun t =>
      (t.acq.adcs[a]).shadow.val = ((s.acq.adcs[a]).shadow.val + 1) % 8 ∧
      (t.acq.adcs[a]).suspect.getLsbD (s.acq.adcs[a]).shadow.val = decide (s.rd F.ACQ_SLICE_CTRL_THR < mad) ∧
      t.axlReq = (if s.rd F.ACQ_SLICE_CTRL_THR < mad ∧ (s.acq.adcs[a]).suspect.getLsbD (s.acq.adcs[a]).shadow.val = true then
          s.axlReq ++ [⟨4, Fin.ofNat 1024 a.val, Fin.ofNat 16777216 (s.acq.adcs[a]).shadow.val, 2⟩] else s.axlReq) ∧
      Moves { regs := true, acq := true, axlReq := true } [Reg.ACQ_ADC_HLTH a] s t := by
  unfold execSliceShadowEnd
  rw [if_neg (by simp [hr]), if_neg (by simp [hs])]
  extract_lets acq s1 c k bit bad again s2 s3
  have hbad : bad = decide (s.rd F.ACQ_SLICE_CTRL_THR < mad) := rfl
  have h2 : Moves { regs := true, acq := true, axlReq := true } [Reg.ACQ_ADC_HLTH a] s s2 := Moves.refl.upd
  have ha2 : s2.acq.adcs[a] =
      { c with shadow := Fin.ofNat 8 (k.val + 1), suspect := if bad then c.suspect ||| bit else c.suspect &&& ~~~bit } :=
    modAdc_adcs _ _ _
  have h3 : s3.acq = s2.acq ∧ s3.axlReq = s.axlReq := by unfold s3; split <;> exact ⟨rfl, rfl⟩
  have hm : Moves { regs := true, acq := true, axlReq := true } [Reg.ACQ_ADC_HLTH a] s s3 := .ite (h2.setReg _) h2
  have ht : (if again then s3.axlAsk 0x04 a.val k.val 0x2 else s3).acq.adcs[a] = s2.acq.adcs[a] := by
    rw [← h3.1]; split <;> rfl
  refine .next ⟨?_, ?_, ?_, .ite hm.upd hm⟩
  · rw [ht, ha2]; rfl
  · rw [ht, ha2, ← hbad]
    have hk : bit.getLsbD k.val = true := twoPow8_getLsbD k
    show (if bad then c.suspect ||| bit else c.suspect &&& ~~~bit).getLsbD k.val = bad
    cases bad <;> simp [hk]
  · have hag : again = true ↔ s.rd F.ACQ_SLICE_CTRL_THR < mad ∧ (s.acq.adcs[a]).suspect.getLsbD (s.acq.adcs[a]).shadow.val = true := by
      show (bad && c.suspect.getLsbD k.val) = true ↔ _
      rw [hbad, Bool.and_eq_true, decide_eq_true_iff]
    simp only [← hag, ← h3.2]
    split <;> rfl

/-- R91: a granted swap at its boundary. -/
theorem execSliceSwap_ends {s : State} {a : Fin 36} {k : Fin 8} (hg : (s.acq.adcs[a]).granted = some k) :
    Ends (execSliceSwap a s) fun t => (t.acq.adcs[a]).granted = none ∧ t.flag (F.ACQ_ADC_MAP_SPARE a) = true ∧
      (t.rd (F.ACQ_ADC_MAP_MAP a)).testBit k.val = true ∧ Counts s t Reg.ACQ_SWAP_CNT ∧
      Moves { regs := true, acq := true } [Reg.ACQ_ADC_MAP a, Reg.ACQ_SWAP_CNT] s t := by
  unfold execSliceSwap
  simp only [hg]
  have hne : Reg.ACQ_ADC_MAP a ≠ Reg.ACQ_SWAP_CNT := by simp [Reg.ACQ_ADC_MAP, Reg.ACQ_SWAP_CNT]; omega
  have hm : Moves { regs := true, acq := true } [Reg.ACQ_ADC_MAP a, Reg.ACQ_SWAP_CNT] s
    (s.modAdc a fun c => { c with granted := none }) := Moves.refl.upd
  refine .next ⟨by rw [State.bump_acq, State.put_acq, State.wr_acq, modAdc_adcs], ?_, ?_, ?_, ((hm.wr _).put _).bump⟩
  · rw [State.flag_bump_ne _ _ hne, State.flag_put_same _ _ _ (by simp) rfl]
  · rw [State.rd_bump_ne _ _ hne, State.rd_put_disjoint _ _ _ _ (by simp) (by simp), State.rd_wr_same _ _ _ (by simp)]
    rw [Nat.testBit_mod_two_pow, Nat.testBit_or, Nat.testBit_two_pow_self]
    simp
  · unfold Counts
    rw [State.reg_bump_same, State.reg_put_ne _ _ _ hne.symm, State.reg_wr_ne _ _ _ hne.symm]
    rfl

/-- R87: a step of a gain loop that is on. -/
theorem execAgcStep_ends {s : State} {i : Fin 52} {p2p : Nat} (ha : s.flag (F.ACQ_IN_CTRL_AGC i) = true) (h4 : 4 ≤ i.val % 13)
    (hf : s.agcFrozen i = false) (hr : s.adcRuns i = true) : Ends (execAgcStep i p2p s) fun t =>
      (192 < p2p → t.rd (F.ACQ_IN_CTRL_GAIN i) = s.rd (F.ACQ_IN_CTRL_GAIN i) - 1) ∧
      (p2p < 192 → t.rd (F.ACQ_IN_CTRL_GAIN i) = min (gainMax i) (s.rd (F.ACQ_IN_CTRL_GAIN i) + 1)) ∧
      OnlyRegs [Reg.ACQ_IN_CTRL i] s t := by
  have hg : s.rd (F.ACQ_IN_CTRL_GAIN i) < 2 ^ 8 := RegField.of_lt _ _
  have hmax : gainMax i ≤ 60 := by unfold gainMax; dsimp only; split <;> [omega; (split <;> omega)]
  unfold execAgcStep
  rw [if_pos (by simp [ha, h4, hf, hr])]
  refine .next ⟨fun h => ?_, fun h => ?_, OnlyRegs.refl.wr (by simp) _⟩
  · rw [State.rd_wr_same _ _ _ (by simp), if_neg (by omega), if_pos h]
    exact Nat.mod_eq_of_lt (by simp; omega)
  · rw [State.rd_wr_same _ _ _ (by simp), if_pos h]
    exact Nat.mod_eq_of_lt (by simp; omega)

/-- Settles O6: the spare's comparison, a granted swap, and a gain step, each with the cases in which nothing happens. -/
theorem converterSlices : Obligations.ConverterSlices := by
  refine ⟨fun s a mad hr hs => ?_, fun s a mad hs hm => ?_, fun s a mad hr => ?_, fun s a k hg => ?_, fun s i p ha _ h4 hf hr => ?_,
    fun s i p hf => ?_⟩
  · obtain ⟨t, e, h1, h2, h3, hm⟩ := execSliceShadowEnd_ends (mad := mad) hr hs
    exact ⟨t, e, h1, h2, h3, hm.parts, hm.regs⟩
  · show execSliceShadowEnd a mad s = _
    simp [execSliceShadowEnd, hs, Nat.not_lt.mpr hm]
  · show execSliceShadowEnd a mad s = _
    simp [execSliceShadowEnd, hr]
  · obtain ⟨t, e, h1, h2, h3, h4, hm⟩ := execSliceSwap_ends hg
    exact ⟨t, e, h1, h2, h3, h4, hm.parts, hm.regs⟩
  · exact execAgcStep_ends ha h4 hf hr
  · show execAgcStep i p s = _
    simp [execAgcStep, hf]

end Sys2Proof.Machine
end

section
/-! ## Entries that fire -/

namespace Sys2Proof.Machine

set_option Elab.async false

theorem modEntry_moves (s : State) (i : Entry) (f : AngEntry → AngEntry) : Moves { ang := true } [] s (s.modEntry i f) := Moves.refl.upd

/-- The angle flows: only the counted angle and the high-water mark move. -/
theorem flow_eq (s : State) (now : Angle) : ∃ n h, s.flow now = { s with ang := { s.ang with now := n, hwm := h } } := by
  unfold State.flow
  exact ⟨_, _, rfl⟩

theorem flow_moves (s : State) (now : Angle) : Moves { ang := true } [] s (s.flow now) := by
  obtain ⟨n, h, e⟩ := flow_eq s now
  exact Moves.refl.upd (e ▸ rfl) (e ▸ rfl)

theorem flow_entries (s : State) (now : Angle) : (s.flow now).ang.entries = s.ang.entries := by
  obtain ⟨n, h, e⟩ := flow_eq s now
  rw [e]

theorem fired_moves (s : State) (i : Entry) (now : Angle) : Moves { ang := true } [] s (s.fired i now) :=
  (flow_moves s now).trans (modEntry_moves _ _ _)

/-- R62, R68: an entry that fires does its action on the state in which it is disarmed and marked. -/
theorem State.Fires.fireAt {s : State} {i : Entry} {now : Angle} {n : Nat} (h : s.Fires i now n) (lead : Bool) :
    s.fireAt i now n lead = (s.fired i now).act s.ang.entries[i] false lead := by
  unfold State.fireAt
  rw [if_pos (by simp only [Bool.and_eq_true, decide_eq_true_iff]; exact ⟨⟨⟨h.may, h.armed⟩, h.action⟩, h.due⟩)]
  unfold State.fire State.fired
  rw [flow_entries]
  simp only [Bool.false_eq_true, if_false]

theorem act_gate {s : State} {e : AngEntry} {b : Beam} (h : e.action.toNat = 1) (hb : e.arg.toNat = b.val)
    (hm : s.rd (F.DET_CTRL_MODE b) = s.rd (F.DET_STAT_MODE b)) (late lead : Bool) : s.act e late lead = s.gateAct b e late lead := by
  simp only [State.act, h, hb, State.onBeam, b.isLt, dif_pos, Fin.eta, State.detApplyMode, hm, if_true]

theorem act_close {s : State} {e : AngEntry} {b : Beam} (h : e.action.toNat = 2) (hb : e.arg.toNat = b.val) (late lead : Bool) :
    s.act e late lead = s.gateClose b e := by
  simp only [State.act, h, hb, State.onBeam, b.isLt, dif_pos, Fin.eta]

theorem act_lpower {s : State} {e : AngEntry} (h : e.action.toNat = 3) (late lead : Bool) :
    s.act e late lead = s.lpowerAct (e.arg.toNat / 256) (e.arg.toNat % 16) := by
  simp [State.act, h]

/-! ## Read levels -/

theorem setRlvl_moves (s : State) (c : Chan) (k : Nat) :
    Moves { regs := true, wrp := true } [Reg.LDD_CTRL c, Reg.LDD_STAT c] s (s.setRlvl c k) := by
  unfold State.setRlvl
  extract_lets s1 wrp s2
  have h1 : Moves { regs := true, wrp := true } [Reg.LDD_CTRL c, Reg.LDD_STAT c] s s1 := Moves.refl.wr _
  have h2 : Moves { regs := true, wrp := true } [Reg.LDD_CTRL c, Reg.LDD_STAT c] s s2 := .ite h1.upd h1
  exact .ite (h2.put _) h2

/-- Taking a read level into force moves nothing of the write path but what holds the APC. -/
theorem setRlvl_wrp (s : State) (c : Chan) (k : Nat) : (s.setRlvl c k).wrp = { s.wrp with apcHold := (s.setRlvl c k).wrp.apcHold } := by
  unfold State.setRlvl
  dsimp only
  split <;> split <;> rfl

theorem setRlvl_rlvl (s : State) (c : Chan) (k : Nat) : (s.setRlvl c k).rd (F.LDD_CTRL_RLVL c) = k % 2 ^ 4 := by
  have hne : Reg.LDD_CTRL c ≠ Reg.LDD_STAT c := by simp only [Reg.LDD_CTRL, Reg.LDD_STAT]; omega
  have h : ∀ {x : State}, x.regs = (s.wr (F.LDD_CTRL_RLVL c) k).regs → x.rd (F.LDD_CTRL_RLVL c) = k % 2 ^ 4 := fun e =>
    (State.rd_of_regs e _).trans (State.rd_wr_same _ _ _ (by simp))
  unfold State.setRlvl
  extract_lets s1 wrp s2
  have h2 : s2.regs = s1.regs := by unfold s2; split <;> rfl
  split
  · rw [State.rd_put_ne _ _ _ hne, h h2]
  · exact h h2

/-- R164: a step past the ceiling shows CLIP. -/
theorem setRlvl_clip {s : State} {c : Chan} {k : Nat} (h0 : k ≠ 0) (h8 : k < 8) (h : (s.rd (F.LDD_LIMIT_RCEIL c) : Int) < s.readLevel c k) :
    (s.setRlvl c k).flag (F.LDD_STAT_CLIP c) = true := by
  unfold State.setRlvl
  extract_lets s1 wrp s2
  have h1 : Moves { regs := true, wrp := true } [Reg.LDD_CTRL c] s s1 := Moves.refl.wr _
  have h2 : Moves { regs := true, wrp := true } [Reg.LDD_CTRL c] s s2 := .ite h1.upd h1
  have hlev : s2.readLevel c k = s.readLevel c k := by
    unfold State.readLevel
    rw [h2.rd (by simp), h2.rd (by simp)]
  rw [if_pos ⟨h8, h0, by rw [hlev, h2.rd (by simp)]; exact h⟩, State.flag_put_same _ _ _ (by simp) rfl]


/-! ## The gates of a beam -/

theorem event_moves (s : State) (n : Nat) : Moves { regs := true } (eventRegs n) s (s.event n) := by
  unfold State.event
  exact .ite (Moves.refl.bump rfl (by simp [eventRegs])) (Moves.refl.setReg _ rfl (by simp [eventRegs]))

theorem pmcEvent_moves (s : State) (cls master : Nat) (cust : Option Bool) (addr : Option (Bool × Nat)) (n : Nat) :
    Moves { regs := true, hlk := true } noteRegs s (s.pmcEvent cls master cust addr n) :=
  Moves.of_noted (as := []) (Noted.refl.pmcEvent _ _ _ _ _)

theorem pmcEdge_moves (s : State) (sig : Nat) : Moves { regs := true, hlk := true } noteRegs s (s.pmcEdge sig) :=
  Moves.of_noted (as := []) (Noted.refl.pmcEdge _)

theorem modW_moves (s : State) (b : Beam) (f : WBeam → WBeam) : Moves { wrp := true } [] s (s.modW b f) := Moves.refl.upd

theorem beams_set_same (v : Vector WBeam 16) (b : Beam) (x : WBeam) : (v.set b x)[b] = x := by simp
theorem beams_set_ne (v : Vector WBeam 16) {b c : Beam} (x : WBeam) (h : c ≠ b) : (v.set b x)[c] = v[c] := by
  simp [Fin.val_inj, h.symm]

theorem modW_same (s : State) (b : Beam) (f : WBeam → WBeam) : (s.modW b f).wrp.beams[b] = f s.wrp.beams[b] := beams_set_same _ _ _
theorem modW_ne (s : State) {b c : Beam} (f : WBeam → WBeam) (h : c ≠ b) : (s.modW b f).wrp.beams[c] = s.wrp.beams[c] :=
  beams_set_ne _ _ h

theorem gateEnd_moves (s : State) (b : Beam) : Moves { regs := true, wrp := true } [Reg.WRP_BLK_CNT (beamChan b)] s (s.gateEnd b) := by
  unfold State.gateEnd
  split
  next w _ =>
    have h : Moves { regs := true, wrp := true } [Reg.WRP_BLK_CNT (beamChan b)] s
      (s.modW b (fun x => { x with gate := none, vfy := x.vfy ++ [w] })) := Moves.refl.upd
    exact h.bump
  next => exact .refl

/-- The beam once its gate has ended. -/
def WBeam.ended (x : WBeam) : WBeam := { x with gate := none, vfy := x.vfy ++ x.gate.toList }

theorem WBeam.ended_of_none {x : WBeam} (h : x.gate = none) : x.ended = x := by
  cases x
  simp_all [WBeam.ended]

/-- R171: the block of a gate that ends awaits its decision after the others. -/
theorem gateEnd_wrp (s : State) (b : Beam) : (s.gateEnd b).wrp = (s.modW b WBeam.ended).wrp := by
  unfold State.gateEnd
  split
  next w h =>
    rw [State.bump_wrp]
    simp only [State.modW, WBeam.ended, h, Option.toList]
  next h =>
    simp only [State.modW, WBeam.ended_of_none h]
    simp


/-- The conditions of R169 are of other parts than the beams' gates and the counted angle. -/
theorem gateOk_of_moves {s t : State} {b : Beam} (h : Moves { regs := true, wrp := true, ang := true } [Reg.WRP_BLK_CNT (beamChan b)] s t)
    (hv : t.wrp.vld = s.wrp.vld) : t.gateOk b = s.gateOk b := by
  have hc := (beamChan b).isLt
  have hb := (beamHead b).isLt
  have hf : ∀ f : RegField, f.reg ≠ Reg.WRP_BLK_CNT (beamChan b) → t.rd f = s.rd f := fun f hn => h.rd (by simpa using hn)
  have hspeed : t.int Reg.SPN_SPEED = s.int Reg.SPN_SPEED :=
    congrArg (fun w : Word => w.toInt) (h.regs _ (by simp only [Reg.SPN_SPEED, Reg.WRP_BLK_CNT, List.mem_singleton]; omega))
  have hpll := hf (F.ACQ_PLL_STAT_STATE (beamHead b)) (by simp only [Reg.ACQ_PLL_STAT, Reg.WRP_BLK_CNT]; omega)
  have hlsv := hf (F.LSV_H_STAT_STATE (beamHead b)) (by simp only [Reg.LSV_H_STAT, Reg.WRP_BLK_CNT]; omega)
  have hstg := hf F.PWR_STAT_STGEN (by simp only [Reg.PWR_STAT, Reg.WRP_BLK_CNT]; omega)
  have hown := hf F.MIR_STAT_OWNED (by simp only [Reg.MIR_STAT, Reg.WRP_BLK_CNT]; omega)
  have hctl : ∀ lo n, t.rd ⟨Reg.LDD_CTRL (beamChan b), lo, n⟩ = s.rd ⟨Reg.LDD_CTRL (beamChan b), lo, n⟩ := fun lo n =>
    hf _ (by simp only [Reg.LDD_CTRL, Reg.WRP_BLK_CNT]; omega)
  have hstat : ∀ lo n, t.rd ⟨Reg.LDD_STAT (beamChan b), lo, n⟩ = s.rd ⟨Reg.LDD_STAT (beamChan b), lo, n⟩ := fun lo n =>
    hf _ (by simp only [Reg.LDD_STAT, Reg.WRP_BLK_CNT]; omega)
  simp only [State.gateOk, State.chanOn, State.stageOn, State.owned, State.lddFault, State.flag, hspeed, hv, hpll, hlsv, hstg, hown,
    hctl, hstat]

theorem slotShut_of_moves {s t : State} {b : Beam} {zl : Nat} {e : AngEntry}
    (h : Moves { regs := true, wrp := true, ang := true } [Reg.WRP_BLK_CNT (beamChan b)] s t)
    (hb : t.wrp.beams[b].shut = s.wrp.beams[b].shut) : t.slotShut b zl e = s.slotShut b zl e := by
  have hn : Reg.ANG_HPOS (beamHead b) ∉ [Reg.WRP_BLK_CNT (beamChan b)] := by
    simp only [Reg.ANG_HPOS, Reg.WRP_BLK_CNT, List.mem_singleton]; omega
  have hl : t.rd (F.ANG_HPOS_LAYER (beamHead b)) = s.rd (F.ANG_HPOS_LAYER (beamHead b)) := h.rd hn
  have hband : t.headBand (beamHead b) = s.headBand (beamHead b) := congrArg (signed 16) (h.rd hn)
  unfold State.slotShut
  rw [hb, hl, hband]

theorem anyPoisoned_of_psn {s t : State} (h : t.psn = s.psn) (a n : Nat) : t.anyPoisoned a n = s.anyPoisoned a n := by
  unfold State.anyPoisoned
  rw [h]

theorem touch_moves (s : State) (a : Nat) (write : Bool) (master : Nat) (cust : Option Bool) :
    Moves { regs := true, hlk := true, mem := true } (accessRegs ++ noteRegs) s (s.touch a write master cust) := by
  unfold State.touch
  extract_lets r i b same hist keep s1 s2 mem s3
  have hch : ∀ c : Fin 4, Reg.DMC_CH_HIT_CNT c ∈ accessRegs ∧ Reg.DMC_CH_ACT_CNT c ∈ accessRegs ∧ Reg.DMC_PG_KEEP_CNT c ∈ accessRegs ∧
      Reg.DMC_PG_CLOSE_CNT c ∈ accessRegs := by decide
  obtain ⟨hhit, hact, hkeep, hclose⟩ := hch r.ch
  have hin : ∀ {x : Nat}, x ∈ accessRegs → x ∈ accessRegs ++ noteRegs := fun h => List.mem_append_left _ h
  have h1 : Moves { regs := true, hlk := true, mem := true } (accessRegs ++ noteRegs) s s1 :=
    Moves.refl.bump rfl (hin (by split <;> assumption))
  have h2 : Moves { regs := true, hlk := true, mem := true } (accessRegs ++ noteRegs) s s2 :=
    h1.bump rfl (hin (by split <;> assumption))
  have h3 : Moves { regs := true, hlk := true, mem := true } (accessRegs ++ noteRegs) s s3 := h2.upd
  have h4 := h3.bump64 1 (a := if write then Reg.DMC_WR_CNT_LO else Reg.DMC_RD_CNT_LO) rfl (hin (by cases write <;> decide))
    (hin (by cases write <;> decide))
  exact h4.then_ (pmcEvent_moves _ _ _ _ _ _) (by decide) (List.subset_append_right _ _)

theorem touchLines_moves (s : State) (a n : Nat) (write : Bool) (master : Nat) :
    Moves { regs := true, hlk := true, mem := true } (accessRegs ++ noteRegs) s (s.touchLines a n write master) :=
  Moves.forEach _ (fun _ _ _ h => h.trans (touch_moves _ _ _ _ _)) .refl

/-- What opening its gate makes of a beam. -/
def WBeam.opened (x : WBeam) (w : WBlk) (at_ : Word) (frac : Byte) : WBeam := { x with gate := some w, gateAt := at_, gateFrac := frac }

/-- The block with the header and the bytes that its slot is written with (R169). -/
def State.filled (s : State) (w : WBlk) : WBlk := { w with hdr := s.headerOf w, data := s.dramBytes (slotOf w) 32768 }

/-- The registers that opening a gate moves. -/
def gateRegs (b : Beam) : List Nat := [Reg.LDD_SCALE (beamChan b), Reg.VFY_WHW] ++ noteRegs

/-- What OPC has for a zone-layer and head is of its configuration and the disc. -/
theorem opcFactors_of_eq {s t : State} {hd : Head} (hc : t.opcCfg hd = s.opcCfg hd) (hdisc : t.disc = s.disc) (zl : Nat) :
    t.opcFactors zl hd = s.opcFactors zl hd := by
  unfold State.opcFactors State.opcMode
  rw [hc, hdisc]

theorem opcFactor_of_eq {s t : State} {b : Beam} (hc : t.opcCfg (beamHead b) = s.opcCfg (beamHead b)) (hdisc : t.disc = s.disc) (zl : Nat) :
    t.opcFactor zl b = s.opcFactor zl b := by
  unfold State.opcFactor State.opcEn
  rw [hc, opcFactors_of_eq hc hdisc]

theorem opcDue_of_eq {s t : State} {hd : Head} (hc : t.opcCfg hd = s.opcCfg hd) (hdisc : t.disc = s.disc) (zl : Nat) :
    t.opcDue zl hd = s.opcDue zl hd := by
  unfold State.opcDue State.opcEn
  rw [hc, opcFactors_of_eq hc hdisc]

theorem opcCfg_of_eq {s t : State} (ho : t.wrp.opcRun = s.wrp.opcRun) (hr : t.reg Reg.VFY_OPC_CFG = s.reg Reg.VFY_OPC_CFG) (hd : Head) :
    t.opcCfg hd = s.opcCfg hd := by
  unfold State.opcCfg
  rw [ho, hr]

section
variable (s : State) (b : Beam) (w : WBlk) (at_ : Word) (frac : Byte)

theorem gateBegin_moves : Moves { regs := true, hlk := true, wrp := true, tsk := true } (gateRegs b) s (s.gateBegin b w at_ frac) := by
  unfold State.gateBegin
  extract_lets c w1 s1 s2 wrp s3 m
  have h1 : Moves { regs := true, hlk := true, wrp := true, tsk := true } (gateRegs b) s s1 :=
    (Moves.refl.then_ (modW_moves s b _) rfl (List.nil_subset _)).then_ (pmcEdge_moves _ _) rfl (List.subset_append_right _ _)
  have h2 : Moves { regs := true, hlk := true, wrp := true, tsk := true } (gateRegs b) s s2 := h1.wr _ rfl (by simp [gateRegs, c])
  have h3 : Moves { regs := true, hlk := true, wrp := true, tsk := true } (gateRegs b) s s3 := h2.upd
  split
  · have h4 := h3.wr (f := F.VFY_WHW_LBA) m rfl (by simp [gateRegs])
    exact h4.upd
  · exact h3

/-- R165, R169: of the write path a gate that opens moves its beam, and the APC and the superposition of its channel. -/
theorem gateBegin_wrp : (s.gateBegin b w at_ frac).wrp =
    { (s.modW b fun x => x.opened (s.filled w) at_ frac).wrp with
      hfOff := s.wrp.hfOff.set (beamChan b) true, apcHold := s.wrp.apcHold.set (beamHead b) true } := by
  unfold State.gateBegin
  extract_lets c w1 s1 s2 wrp s3 m
  have h1 : s1.wrp = (s.modW b fun x => x.opened (s.filled w) at_ frac).wrp := (pmcEdge_moves _ _).keep State.wrp
  have h3 : s3.wrp = { (s.modW b fun x => x.opened (s.filled w) at_ frac).wrp with
      hfOff := s.wrp.hfOff.set (beamChan b) true, apcHold := s.wrp.apcHold.set (beamHead b) true } := by
    show ({ s2.wrp with hfOff := s2.wrp.hfOff.set c true, apcHold := s2.wrp.apcHold.set (beamHead b) true } : Wrp) = _
    rw [State.wr_wrp, h1]
    rfl
  split
  · rw [← h3]; exact State.wr_wrp s3 F.VFY_WHW_LBA m
  · exact h3

theorem gateBegin_scale : (s.gateBegin b w at_ frac).rd (F.LDD_SCALE_OPC (beamChan b)) =
    s.opcFactor w.zl b % 2 ^ (F.LDD_SCALE_OPC (beamChan b)).width := by
  unfold State.gateBegin
  extract_lets c w1 s1 s2 wrp s3 m
  have hm : Moves { regs := true, hlk := true, wrp := true } noteRegs s s1 :=
    (Moves.refl.then_ (modW_moves s b _) rfl (List.nil_subset _)).then_ (pmcEdge_moves _ _) rfl (List.Subset.refl _)
  have h1 : s1.wrp = (s.modW b fun x => x.opened (s.filled w) at_ frac).wrp := (pmcEdge_moves _ _).keep State.wrp
  have ho : s1.opcFactor w1.zl b = s.opcFactor w.zl b := 
    opcFactor_of_eq (opcCfg_of_eq (by rw [h1]; rfl) (hm.regs _ (by decide)) _) (hm.keep State.disc) _
  have h3 : s3.rd (F.LDD_SCALE_OPC c) = s.opcFactor w.zl b % 2 ^ (F.LDD_SCALE_OPC c).width := by
    rw [← ho]
    exact (State.rd_of_regs rfl _).trans (State.rd_wr_same _ _ _ (by simp))
  split
  · have hne : Reg.LDD_SCALE c ≠ Reg.VFY_WHW := by simp only [Reg.LDD_SCALE, Reg.VFY_WHW]; omega
    rw [← h3]
    exact (State.rd_of_regs rfl _).trans (State.rd_wr_ne _ _ _ hne)
  · exact h3

theorem gateBegin_whw (hk : w.kind = .home) : (s.gateBegin b w at_ frac).tsk.whw = some (max w.lba (s.tsk.whw.getD 0)) := by
  unfold State.gateBegin
  extract_lets c w1 s1 s2 wrp s3 m
  have h3 : s3.tsk = s.tsk := (State.wr_tsk s1 (F.LDD_SCALE_OPC c) (s1.opcFactor w1.zl b)).trans ((pmcEdge_moves _ _).keep State.tsk)
  split
  · show some (max w.lba (s3.tsk.whw.getD 0)) = _
    rw [h3]
  next i hi => exact absurd (hk.symm.trans hi) WKind.noConfusion

end

/-! ## A gate that is tried -/

section
variable {s : State} {b : Beam} {w : WBlk} {e : AngEntry}

/-- R169: the gate opens, where every condition holds. -/
theorem gateTry_open (hf : w.lba ∈ s.tsk.fetched) (hok : s.gateOk b = true) (hs : s.slotShut b w.zl e = false)
    (hp : s.anyPoisoned (slotOf w) 32768 = false) :
    s.gateTry b w e false true = ((s.gateEnd b).touchLines (slotOf w) 32768 false 2).gateBegin b w e.target e.frac := by
  have hm : Moves { regs := true, wrp := true, ang := true } [Reg.WRP_BLK_CNT (beamChan b)] s (s.gateEnd b) :=
    (gateEnd_moves s b).mono rfl (List.Subset.refl _)
  have ht : (s.gateEnd b).tsk = s.tsk := hm.keep State.tsk
  have hg : (s.gateEnd b).gateOk b = true := by rw [gateOk_of_moves hm (by rw [gateEnd_wrp]; rfl), hok]
  have hsh : (s.gateEnd b).slotShut b w.zl e = false := by
    rw [slotShut_of_moves hm (by rw [gateEnd_wrp, modW_same]; rfl), hs]
  have hpo : (s.gateEnd b).anyPoisoned (slotOf w) 32768 = false := (anyPoisoned_of_psn (hm.keep State.psn) _ _).trans hp
  unfold State.gateTry
  extract_lets s1 full s2
  have hfull : full = true := by simp [full, s1, ht, hf]
  rw [if_pos (by simp [hfull, s1, hg, hsh]), if_neg (by simp [s1, hpo])]

/-- The registers that a gate moves as it opens: its own, and those of the accesses to its block. -/
def openedRegs (b : Beam) : List Nat :=
  [Reg.LDD_SCALE (beamChan b), Reg.VFY_WHW, Reg.WRP_BLK_CNT (beamChan b)] ++ accessRegs ++ noteRegs

/-- R169 to R171: what a gate that opens moves: the block before it has ended, and its own stands in the beam, filled. -/
structure State.Opened (s : State) (b : Beam) (w : WBlk) (e : AngEntry) (t : State) : Prop where
  wrp   : t.wrp = { (s.modW b fun x => x.ended.opened (s.filled w) e.target e.frac).wrp with
    hfOff := s.wrp.hfOff.set (beamChan b) true, apcHold := s.wrp.apcHold.set (beamHead b) true }
  scale : t.rd (F.LDD_SCALE_OPC (beamChan b)) = s.opcFactor w.zl b % 2 ^ (F.LDD_SCALE_OPC (beamChan b)).width
  whw   : w.kind = .home → t.tsk.whw = some (max w.lba (s.tsk.whw.getD 0))
  moves : Moves { regs := true, hlk := true, mem := true, wrp := true, tsk := true } (openedRegs b) s t

theorem ended_moves_not_mem (b : Beam) : Reg.VFY_OPC_CFG ∉ [Reg.WRP_BLK_CNT (beamChan b)] ++ (accessRegs ++ noteRegs) ∧
    F.TSK_DISC_WGEN.reg ∉ [Reg.WRP_BLK_CNT (beamChan b)] ++ (accessRegs ++ noteRegs) := by revert b; decide

/-- The gate begins on the state that its block before has left, accesses counted. -/
theorem gateBegin_opened {s2 : State} (hw : s2.wrp = (s.modW b WBeam.ended).wrp) (h : Moves { regs := true, hlk := true, mem := true, wrp := true }
    ([Reg.WRP_BLK_CNT (beamChan b)] ++ (accessRegs ++ noteRegs)) s s2) : s.Opened b w e (s2.gateBegin b w e.target e.frac) := by
  have hfill : s2.filled w = s.filled w := by
    have hd : s2.dram = s.dram := h.keep State.dram
    simp only [State.filled, State.headerOf, State.dramBytes, State.dramByte, hd, h.rd (f := F.TSK_DISC_WGEN) (ended_moves_not_mem b).2]
  have ho : s2.opcFactor w.zl b = s.opcFactor w.zl b :=
    opcFactor_of_eq (opcCfg_of_eq (by rw [hw]; rfl) (h.regs _ (ended_moves_not_mem b).1) _) (h.keep State.disc) _
  refine ⟨?_, ?_, fun hk => ?_, ?_⟩
  · rw [gateBegin_wrp, hfill]
    simp only [State.modW, hw, beams_set_same]
    simp
  · rw [gateBegin_scale, ho]
  · rw [gateBegin_whw _ _ _ _ _ hk, h.keep State.tsk]
  · refine (h.mono rfl ?_).then_ (gateBegin_moves _ _ _ _ _) rfl ?_
    · simp [openedRegs]
    · intro a
      simp only [openedRegs, gateRegs, List.mem_append, List.mem_cons]
      tauto

theorem gateTry_opens (hf : w.lba ∈ s.tsk.fetched) (hok : s.gateOk b = true) (hs : s.slotShut b w.zl e = false)
    (hp : s.anyPoisoned (slotOf w) 32768 = false) : s.Opened b w e (s.gateTry b w e false true) := by
  rw [gateTry_open hf hok hs hp]
  have h2 := touchLines_moves (s.gateEnd b) (slotOf w) 32768 false 2
  exact gateBegin_opened ((h2.keep State.wrp).trans (gateEnd_wrp s b))
    (((gateEnd_moves s b).mono rfl (List.subset_append_left _ _)).then_ h2 rfl (List.subset_append_right _ _))

/-- R63: the gate of a block that was not complete in time stays shut. -/
theorem gateTry_urun : s.gateTry b w e false false =
    (((s.gateEnd b).bump (Reg.WRP_URUN_CNT (beamChan b))).bump Reg.VFY_URUN_CNT).earlyFail b w := by
  simp [State.gateTry]

end

theorem gateEnd_of_none {s : State} {b : Beam} (h : s.wrp.beams[b].gate = none) : s.gateEnd b = s := by
  unfold State.gateEnd
  rw [h]

theorem queue_queueJoin (s : State) (lba : Nat) : (s.queueJoin lba).queue (lbaZL lba) = s.queue (lbaZL lba) ++ [⟨lba, 0⟩] :=
  Sparse.get_set_same _ _ _ _

theorem vfyLast_early : ∀ b : Beam, ((F.VFY_B_LAST_EARLY b).of (BitVec.ofNat 32 (vfyLast false true 0 0 false 0)) != 0) = true := by
  decide

/-- The registers that a home block moves as it fails without a comparison. -/
def earlyRegs (b : Beam) : List Nat := [Reg.VFY_B_FAIL_CNT b, Reg.VFY_B_LAST b, Reg.VFY_B_LBA b] ++ eventRegs Ev.vfyFail

/-- R169, R176: a home block that fails without a comparison is reported and joins its queue. -/
theorem earlyFail_home {s : State} {b : Beam} {w : WBlk} (hk : w.kind = .home) :
    (s.earlyFail b w).wrp = (s.queueJoin w.lba).wrp ∧ Counts s (s.earlyFail b w) (Reg.VFY_B_FAIL_CNT b) ∧
      (s.earlyFail b w).flag (F.VFY_B_LAST_EARLY b) = true ∧
      Moves { regs := true, wrp := true } (earlyRegs b) s
        (s.earlyFail b w) := by
  unfold State.earlyFail State.verifyFailed
  extract_lets s1 s2 s3
  simp only [hk]
  have h1 : Moves { regs := true, wrp := true } [Reg.VFY_B_LAST b, Reg.VFY_B_LBA b] s (s1.wr (F.VFY_B_LBA_LBA b) w.lba) :=
    (Moves.refl.setReg _).wr _
  have h2 : Moves { regs := true, wrp := true } (earlyRegs b) s s2 :=
    (h1.mono rfl (by simp [earlyRegs])).bump rfl (by simp [earlyRegs])
  have h3 : Moves { regs := true, wrp := true } (eventRegs Ev.vfyFail) s2 (s3.queueJoin w.lba) :=
    (Moves.refl.then_ (event_moves _ _) rfl (List.Subset.refl _)).upd
  have hw : s3.wrp = s.wrp := ((event_moves _ _).keep State.wrp).trans (by simp only [s2, s1, State.bump_wrp, State.wr_wrp, State.setReg_wrp])
  have hev : ∀ c : Beam, Reg.VFY_B_FAIL_CNT c ∉ eventRegs Ev.vfyFail ∧ Reg.VFY_B_LAST c ∉ eventRegs Ev.vfyFail := by decide
  refine ⟨?_, ?_, ?_, h2.then_ h3 rfl (List.subset_append_right _ _)⟩
  · simp only [State.queueJoin, State.setQueue, State.queue, hw]
  · have hn : Reg.VFY_B_FAIL_CNT b ∉ [Reg.VFY_B_LAST b, Reg.VFY_B_LBA b] := by
      simp only [Reg.VFY_B_FAIL_CNT, Reg.VFY_B_LAST, Reg.VFY_B_LBA, List.mem_cons, List.not_mem_nil, or_false]; omega
    exact (Counts.bump.after h1 hn).then_ h3 (hev b).1
  · have hne : Reg.VFY_B_LAST b ≠ Reg.VFY_B_LBA b ∧ Reg.VFY_B_LAST b ≠ Reg.VFY_B_FAIL_CNT b := by
      constructor <;> (simp only [Reg.VFY_B_FAIL_CNT, Reg.VFY_B_LAST, Reg.VFY_B_LBA]; omega)
    rw [h3.flag (hev b).2, State.flag_bump_ne _ _ hne.2, State.flag_wr_ne _ _ _ hne.1, State.flag, State.rd, State.reg_setReg_same]
    exact vfyLast_early b

/-! ## The actions -/

/-- R169: outside a pass the gate takes the planned block whose home slot its event names. -/
theorem gateAct_planned {s : State} {b : Beam} {e : AngEntry} {w : WBlk} (hp : s.wrp.pass[beamHead b] = none)
    (hw : (s.wrp.beams[b]).plan.find? (fun x => decide (lbaSlot x.lba = slotNamed (x.zl % 20) e.target.toNat e.frac.toNat)) = some w)
    (ho : s.opcDue w.zl (beamHead b) = false) (late lead : Bool) :
    s.gateAct b e late lead = (s.modW b (fun x => { x with plan := x.plan.erase w })).gateTry b w e late lead := by
  unfold State.gateAct
  simp only [hp, hw, ho, Bool.and_false, Bool.false_eq_true, if_false]

/-- Where only the angle has moved since, the action takes the planned block off the plan and tries its gate. -/
theorem act_planned {s s1 : State} {i : Entry} {now : Angle} {b : Beam} {w : WBlk} (hf : s.Fires i now 1) (hg : s.GateOn i b w)
    (ho : s.opcDue w.zl (beamHead b) = false) (hm : Moves { ang := true } [] s s1) (lead : Bool) :
    s1.act s.ang.entries[i] false lead =
      (s1.modW b (fun x => { x with plan := x.plan.erase w })).gateTry b w s.ang.entries[i] false lead := by
  have hw : s1.wrp = s.wrp := hm.keep State.wrp
  have ho1 : s1.opcDue w.zl (beamHead b) = false :=
    (opcDue_of_eq (opcCfg_of_eq (by rw [hw]) (hm.regs _ (by simp)) _) (hm.keep State.disc) _).trans ho
  rw [act_gate hf.action hg.beam (by rw [hm.rd (by simp), hm.rd (by simp)]; exact hg.mode),
    gateAct_planned (by rw [hw]; exact hg.pass) (by rw [hw]; exact hg.plan) ho1]

theorem fireAt_gate {s : State} {i : Entry} {now : Angle} {b : Beam} {w : WBlk} (hf : s.Fires i now 1) (hg : s.GateOn i b w)
    (ho : s.opcDue w.zl (beamHead b) = false) (lead : Bool) :
    s.fireAt i now 1 lead = ((s.fired i now).modW b (fun x => { x with plan := x.plan.erase w })).gateTry b w s.ang.entries[i] false lead :=
  (hf.fireAt lead).trans (act_planned hf hg ho (fired_moves s i now) lead)


/-- Taking a block off the plan and letting the angle flow leave what a gate asks for, and what it is filled with. -/
theorem unplanned_opens {s s1 : State} {b : Beam} {w : WBlk} {e : AngEntry} (hm : Moves { ang := true } [] s s1)
    (hf : w.lba ∈ s.tsk.fetched) (hok : s.gateOk b = true) (hs : s.slotShut b w.zl e = false)
    (hp : s.anyPoisoned (slotOf w) 32768 = false) (f : WBeam → WBeam) (hsh : (f s.wrp.beams[b]).shut = s.wrp.beams[b].shut) :
    (s1.modW b f).Opened b w e ((s1.modW b f).gateTry b w e false true) := by
  have h : Moves { regs := true, wrp := true, ang := true } [Reg.WRP_BLK_CNT (beamChan b)] s (s1.modW b f) :=
    (hm.mono rfl (List.nil_subset _)).then_ (modW_moves _ _ _) rfl (List.nil_subset _)
  have hw : s1.wrp = s.wrp := hm.keep State.wrp
  refine gateTry_opens ?_ ?_ ?_ ?_
  · rw [h.keep State.tsk]; exact hf
  · rw [gateOk_of_moves h (by rw [← hw]; rfl), hok]
  · rw [slotShut_of_moves h (by rw [modW_same, hw, hsh]), hs]
  · rw [anyPoisoned_of_psn (h.keep State.psn), hp]

theorem filled_of_eq {s t : State} (hd : t.dram = s.dram) (hg : t.rd F.TSK_DISC_WGEN = s.rd F.TSK_DISC_WGEN) (w : WBlk) :
    t.filled w = s.filled w := by
  simp only [State.filled, State.headerOf, State.dramBytes, State.dramByte, hd, hg]

/-- R171: a gate that ends by its close; the block awaits its decision. -/
theorem gateClose_ends {s : State} {b : Beam} {e : AngEntry} (ht : s.wrp.beams[b].gateAt ≠ e.target) : s.gateClose b e = s.gateEnd b := by
  unfold State.gateClose
  rw [if_neg (by simpa only [Bool.and_eq_true, decide_eq_true_iff, not_and] using fun _ => ht)]

theorem gateClose_stays {s : State} {b : Beam} {e : AngEntry} {w : WBlk} (hg : s.wrp.beams[b].gate = some w)
    (ht : s.wrp.beams[b].gateAt = e.target) : s.gateClose b e = s := by
  unfold State.gateClose
  rw [if_pos (by rw [hg, ht]; simp)]

theorem gateEnd_counts {s : State} {b : Beam} {w : WBlk} (hg : s.wrp.beams[b].gate = some w) :
    Counts s (s.gateEnd b) (Reg.WRP_BLK_CNT (beamChan b)) := by
  unfold State.gateEnd
  rw [hg]
  exact Counts.bump.after (modW_moves _ _ _) (by simp)

theorem urunRegs_distinct : ∀ b : Beam, Reg.WRP_URUN_CNT (beamChan b) ∉ Reg.VFY_URUN_CNT :: earlyRegs b ∧ Reg.VFY_URUN_CNT ∉ earlyRegs b ∧
    Reg.VFY_B_FAIL_CNT b ∉ [Reg.WRP_URUN_CNT (beamChan b), Reg.VFY_URUN_CNT] ∧ Reg.VFY_URUN_CNT ∉ [Reg.WRP_URUN_CNT (beamChan b)] := by
  decide

/-- R63, R176: a planned home block whose gate stays shut, for it was not complete in time. -/
theorem gateTry_urun_home {s : State} {b : Beam} {w : WBlk} {e : AngEntry} (hk : w.kind = .home) (hg : s.wrp.beams[b].gate = none) :
    (s.gateTry b w e false false).wrp = (s.queueJoin w.lba).wrp ∧
      Counts s (s.gateTry b w e false false) (Reg.WRP_URUN_CNT (beamChan b)) ∧ Counts s (s.gateTry b w e false false) Reg.VFY_URUN_CNT ∧
      Counts s (s.gateTry b w e false false) (Reg.VFY_B_FAIL_CNT b) ∧ (s.gateTry b w e false false).flag (F.VFY_B_LAST_EARLY b) = true ∧
      Moves { regs := true, wrp := true } ([Reg.WRP_URUN_CNT (beamChan b), Reg.VFY_URUN_CNT] ++ earlyRegs b) s
        (s.gateTry b w e false false) := by
  rw [gateTry_urun, gateEnd_of_none hg]
  obtain ⟨hn1, hn2, hn3, hn4⟩ := urunRegs_distinct b
  have h1 : Moves { regs := true, wrp := true } [Reg.WRP_URUN_CNT (beamChan b)] s (s.bump (Reg.WRP_URUN_CNT (beamChan b))) := Moves.refl.bump
  have c1 : Counts s (s.bump (Reg.WRP_URUN_CNT (beamChan b))) (Reg.WRP_URUN_CNT (beamChan b)) := Counts.bump
  have hw : ((s.bump (Reg.WRP_URUN_CNT (beamChan b))).bump Reg.VFY_URUN_CNT).wrp = s.wrp := by rw [State.bump_wrp, State.bump_wrp]
  generalize s.bump (Reg.WRP_URUN_CNT (beamChan b)) = s1 at *
  have h2 : Moves { regs := true, wrp := true } [Reg.VFY_URUN_CNT] s1 (s1.bump Reg.VFY_URUN_CNT) := Moves.refl.bump
  have c2 : Counts s1 (s1.bump Reg.VFY_URUN_CNT) Reg.VFY_URUN_CNT := Counts.bump
  generalize s1.bump Reg.VFY_URUN_CNT = s2 at *
  obtain ⟨hq, hc, hl, h3⟩ := earlyFail_home (s := s2) (b := b) hk
  have h12 : Moves { regs := true, wrp := true } [Reg.WRP_URUN_CNT (beamChan b), Reg.VFY_URUN_CNT] s s2 :=
    (h1.mono rfl (by simp)).then_ h2 rfl (by simp)
  have h23 : Moves { regs := true, wrp := true } (Reg.VFY_URUN_CNT :: earlyRegs b) s1 (s2.earlyFail b w) :=
    (h2.mono rfl (by simp)).then_ h3 rfl (List.subset_cons_self _ _)
  refine ⟨?_, c1.then_ h23 hn1, (c2.then_ h3 hn2).after h1 hn4, hc.after h12 hn3, hl, ?_⟩
  · rw [hq]
    simp only [State.queueJoin, State.setQueue, State.queue, hw]
  · exact (h12.mono rfl (List.subset_append_left _ _)).then_ h3 rfl (List.subset_append_right _ _)

/-- R164, R165: what an LPOWER does with its level: in force at once, or held while superposition is off. -/
theorem lpowerAct_inForce {s : State} {c : Chan} {n : Nat} {k : BitVec 4} (hn : n = c.val) (hk : (k < 8 ∧ k ≠ 4) ∨ k = 15)
    (hd : s.hfDark c = false) : s.lpowerAct n k.toNat = s.setRlvl c k.toNat := by
  subst hn
  have hk' : k.toNat < 8 ∧ k.toNat ≠ 4 ∨ k.toNat = 15 := by revert hk; revert k; decide
  simp only [State.lpowerAct, c.isLt, dif_pos, hk', if_true, Fin.eta, hd, Bool.false_eq_true, if_false]

theorem lpowerAct_held {s : State} {c : Chan} {n : Nat} {k : BitVec 4} (hn : n = c.val) (hk : (k < 8 ∧ k ≠ 4) ∨ k = 15)
    (hd : s.hfDark c = true) : s.lpowerAct n k.toNat = { s with wrp := { s.wrp with lpower := s.wrp.lpower.set c (some k) } } := by
  subst hn
  have hk' : k.toNat < 8 ∧ k.toNat ≠ 4 ∨ k.toNat = 15 := by revert hk; revert k; decide
  simp only [State.lpowerAct, c.isLt, dif_pos, hk', if_true, Fin.eta, hd, BitVec.ofNat_toNat, BitVec.setWidth_eq]

theorem setRlvl_rlvl_bv (s : State) (c : Chan) (k : BitVec 4) : (s.setRlvl c k.toNat).rd (F.LDD_CTRL_RLVL c) = k.toNat :=
  (setRlvl_rlvl s c k.toNat).trans (Nat.mod_eq_of_lt k.isLt)

theorem readLevel_of_moves {s t : State} {p : Parts} (h : Moves p [] s t) (c : Chan) (k : Nat) : t.readLevel c k = s.readLevel c k := by
  unfold State.readLevel
  rw [h.rd (by simp), h.rd (by simp)]

/-- R165: superposition is on again, and a level that was held is in force. -/
theorem execHfIntervalEnd_ends {s : State} {c : Chan} {k : BitVec 4}
    (hc : c.val % 5 = 0 ∨ ((s.wrp.beams[chanBeam c]).gate = none ∧ s.gateNear (chanBeam c) = false)) (hl : s.wrp.lpower[c] = some k) :
    Ends (execHfIntervalEnd c s) fun t => t.wrp.hfOff[c] = false ∧ t.wrp.lpower[c] = none ∧ t.rd (F.LDD_CTRL_RLVL c) = k.toNat ∧
      Moves { regs := true, wrp := true } [Reg.LDD_CTRL c, Reg.LDD_STAT c] s t := by
  have hno : ¬ ((decide (c.val % 5 ≠ 0) && (s.wrp.beams[chanBeam c].gate.isSome || s.gateNear (chanBeam c))) = true) := by
    rcases hc with h | ⟨hg, hn⟩
    · simp [h]
    · rw [hg, hn]; simp
  unfold execHfIntervalEnd
  rw [if_neg hno]
  extract_lets k' wrp s1
  simp only [show k' = some k from hl]
  have h1 : Moves { regs := true, wrp := true } [Reg.LDD_CTRL c, Reg.LDD_STAT c] s s1 := Moves.refl.upd
  refine .next ⟨?_, ?_, setRlvl_rlvl_bv _ _ _, h1.trans (setRlvl_moves _ _ _)⟩
  · rw [setRlvl_wrp]
    show (s.wrp.hfOff.set c false)[c] = false
    simp
  · rw [setRlvl_wrp]
    show (s.wrp.lpower.set c none)[c] = none
    simp

/-- R169: the beam and the registers of a planned block whose gate opens, against the state before the entry fired. -/
theorem opened_planned {s s1 t : State} {b : Beam} {w : WBlk} {e : AngEntry} (hm : Moves { ang := true } [] s s1)
    (h : (s1.modW b fun x => { x with plan := x.plan.erase w }).Opened b w e t) :
    t.wrp.beams[b] = ({ (s.wrp.beams[b]) with plan := (s.wrp.beams[b]).plan.erase w } : WBeam).ended.opened (s.filled w) e.target e.frac ∧
      (∀ c : Beam, c ≠ b → t.wrp.beams[c] = s.wrp.beams[c]) ∧ t.wrp.hfOff[beamChan b] = true ∧ t.ang = s1.ang ∧
      t.rd (F.LDD_SCALE_OPC (beamChan b)) = s.opcFactor w.zl b % 2 ^ (F.LDD_SCALE_OPC (beamChan b)).width ∧
      (w.kind = .home → t.tsk.whw = some (max w.lba (s.tsk.whw.getD 0))) ∧
      Moves { regs := true, hlk := true, mem := true, wrp := true, tsk := true, ang := true } (openedRegs b) s t := by
  have hm2 : Moves { wrp := true, ang := true } [] s (s1.modW b fun x => { x with plan := x.plan.erase w }) :=
    (hm.mono rfl (List.nil_subset _)).then_ (modW_moves _ _ _) rfl (List.nil_subset _)
  have hw : s1.wrp = s.wrp := hm.keep State.wrp
  have hbeam : (s1.modW b fun x => { x with plan := x.plan.erase w }).wrp.beams[b] =
      { (s.wrp.beams[b]) with plan := (s.wrp.beams[b]).plan.erase w } := by rw [modW_same, hw]
  have hoth : ∀ c : Beam, c ≠ b → (s1.modW b fun x => { x with plan := x.plan.erase w }).wrp.beams[c] = s.wrp.beams[c] := fun c hc => by
    rw [modW_ne _ _ hc, hw]
  have hang : (s1.modW b fun x => { x with plan := x.plan.erase w }).ang = s1.ang := rfl
  have hopc : (s1.modW b fun x => { x with plan := x.plan.erase w }).wrp.opcRun = s.wrp.opcRun := by rw [← hw]; rfl
  generalize (s1.modW b fun x => { x with plan := x.plan.erase w }) = s2 at *
  have hfill : s2.filled w = s.filled w := filled_of_eq (hm2.keep State.dram) (hm2.rd (by simp)) w
  have htw : t.wrp.beams = (s2.modW b fun x => x.ended.opened (s2.filled w) e.target e.frac).wrp.beams := by rw [h.wrp]
  refine ⟨?_, fun c hc => ?_, ?_, ?_, ?_, fun hk => ?_, ?_⟩
  · rw [htw, modW_same, hbeam, hfill]
  · rw [htw, modW_ne _ _ hc, hoth c hc]
  · rw [h.wrp]; simp
  · rw [h.moves.keep State.ang, hang]
  · rw [h.scale, opcFactor_of_eq (opcCfg_of_eq hopc (hm2.regs _ (by simp)) _) (hm2.keep State.disc)]
  · rw [h.whw hk, hm2.keep State.tsk]
  · exact (hm2.mono rfl (List.nil_subset _)).then_ h.moves rfl (List.Subset.refl _)

/-- R63: the same of a planned home block whose gate stays shut. -/
theorem urun_planned {s s1 : State} {b : Beam} {w : WBlk} {e : AngEntry} (hm : Moves { ang := true } [] s s1) (hk : w.kind = .home)
    (hg : s.wrp.beams[b].gate = none) :
    Ends (.next ((s1.modW b fun x => { x with plan := x.plan.erase w }).gateTry b w e false false)) fun t =>
      (t.wrp.beams[b]).gate = none ∧ (t.wrp.beams[b]).plan = (s.wrp.beams[b]).plan.erase w ∧
      t.queue (lbaZL w.lba) = s.queue (lbaZL w.lba) ++ [⟨w.lba, 0⟩] ∧ Counts s t (Reg.WRP_URUN_CNT (beamChan b)) ∧
      Counts s t Reg.VFY_URUN_CNT ∧ Counts s t (Reg.VFY_B_FAIL_CNT b) ∧ t.flag (F.VFY_B_LAST_EARLY b) = true ∧
      Moves { regs := true, wrp := true } ([Reg.WRP_URUN_CNT (beamChan b), Reg.VFY_URUN_CNT] ++ earlyRegs b) s1 t := by
  have hw : s1.wrp = s.wrp := hm.keep State.wrp
  have hm1 : Moves { wrp := true } [] s1 (s1.modW b fun x => { x with plan := x.plan.erase w }) := modW_moves _ _ _
  have hm2 : Moves { wrp := true, ang := true } [] s (s1.modW b fun x => { x with plan := x.plan.erase w }) :=
    (hm.mono rfl (List.nil_subset _)).then_ hm1 rfl (List.nil_subset _)
  have hbeam : (s1.modW b fun x => { x with plan := x.plan.erase w }).wrp.beams[b] =
      { (s.wrp.beams[b]) with plan := (s.wrp.beams[b]).plan.erase w } := by rw [modW_same, hw]
  have hq : (s1.modW b fun x => { x with plan := x.plan.erase w }).queue (lbaZL w.lba) = s.queue (lbaZL w.lba) := by
    unfold State.queue; rw [← hw]; rfl
  generalize (s1.modW b fun x => { x with plan := x.plan.erase w }) = s2 at *
  obtain ⟨hwrp, hc1, hc2, hc3, hl, hmv⟩ := gateTry_urun_home (e := e) hk (by rw [hbeam]; exact hg : s2.wrp.beams[b].gate = none)
  have hbs : (s2.gateTry b w e false false).wrp.beams = s2.wrp.beams := by rw [hwrp]; rfl
  refine .next ⟨?_, ?_, ?_, hc1.after hm2 (by simp), hc2.after hm2 (by simp), hc3.after hm2 (by simp), hl, ?_⟩
  · rw [hbs, hbeam]; exact hg
  · rw [hbs, hbeam]
  · rw [← hq, ← queue_queueJoin]
    unfold State.queue
    rw [hwrp]
  · exact (hm1.mono rfl (List.nil_subset _)).then_ hmv rfl (List.Subset.refl _)

/-- R171: a gate that ends by its close, against the state before the entry fired. -/
theorem gateEnd_fired {s s1 : State} {b : Beam} {w : WBlk} (hm : Moves { ang := true } [] s s1) (hg : s.wrp.beams[b].gate = some w) :
    ((s1.gateEnd b).wrp.beams[b]).gate = none ∧ ((s1.gateEnd b).wrp.beams[b]).vfy = (s.wrp.beams[b]).vfy ++ [w] ∧
      (∀ c : Beam, c ≠ b → (s1.gateEnd b).wrp.beams[c] = s.wrp.beams[c]) ∧ Counts s (s1.gateEnd b) (Reg.WRP_BLK_CNT (beamChan b)) := by
  have hw : s1.wrp = s.wrp := hm.keep State.wrp
  refine ⟨?_, ?_, fun c hc => ?_, (gateEnd_counts (by rw [hw]; exact hg)).after hm (by simp)⟩
  · rw [gateEnd_wrp, modW_same]; rfl
  · rw [gateEnd_wrp, modW_same, hw]
    simp only [WBeam.ended, hg, Option.toList]
  · rw [gateEnd_wrp, modW_ne _ _ hc, hw]

/-- Settles O7: the gate that opens and the one that stays shut, the close that ends a gate and the one that meets its own slot, and a
read level in force, held, and in force once superposition is on again. -/
theorem writeGates : Obligations.WriteGates := by
  refine ⟨fun s i now b w hf hg ho hft hok hs hp => ?_, fun s i now b w hf hg ho hk hn => ?_, fun s i now b w hf hb hg ht => ?_,
    fun s i now b w hf hb hg ht => ?_, fun s i now c k hf hc hk hk8 hd => ?_, fun s i now c k hf hc hk hk8 hd => ?_, fun s c k hc hl => ?_⟩
  · have hm := fired_moves s i now
    have hopen := fireAt_gate hf hg ho true ▸ unplanned_opens hm hft hok hs hp (fun x => { x with plan := x.plan.erase w }) rfl
    obtain ⟨hbeam, hoth, hhf, hang, hopc, hwhw, hmv⟩ := opened_planned hm hopen
    refine ⟨_, rfl, ?_, ?_, ?_, ?_, ?_, hhf, hoth, hang, hopc, hwhw, hmv.parts, hmv.regs⟩ <;> rw [hbeam] <;> rfl
  · have hm := fired_moves s i now
    obtain ⟨t, e, h1, h2, h3, h4, h5, h6, h7, hmv⟩ := urun_planned (e := s.ang.entries[i]) hm hk hn
    refine ⟨t, (congrArg Host.Outcome.next (fireAt_gate hf hg ho false)).trans e, h1, h2, h3, h4, h5, h6, h7, hmv.parts,
      fun a ha => (hmv.regs a ha).trans (hm.regs a (by simp))⟩
  · have hm := fired_moves s i now
    have ht' : (s.fired i now).wrp.beams[b].gateAt ≠ (s.ang.entries[i]).target := by rw [hm.keep State.wrp]; exact ht
    have e : s.fireAt i now 2 false = (s.fired i now).gateEnd b :=
      (hf.fireAt false).trans ((act_close hf.action hb _ _).trans (gateClose_ends ht'))
    obtain ⟨h1, h2, h3, h4⟩ := gateEnd_fired hm hg
    have hmv := gateEnd_moves (s.fired i now) b
    exact ⟨_, congrArg Host.Outcome.next e, h1, h2, h3, h4, hmv.parts, fun a ha => (hmv.regs a ha).trans (hm.regs a (by simp))⟩
  · have hw : (s.fired i now).wrp = s.wrp := (fired_moves s i now).keep State.wrp
    exact congrArg Host.Outcome.next ((hf.fireAt false).trans ((act_close hf.action hb _ _).trans
      (gateClose_stays (by rw [hw]; exact hg) (by rw [hw]; exact ht))))
  · have hm := fired_moves s i now
    have e : s.fireAt i now 3 false = (s.fired i now).setRlvl c k.toNat := by
      rw [hf.fireAt, act_lpower hf.action, hk, lpowerAct_inForce hc hk8 hd]
    have hmv := setRlvl_moves (s.fired i now) c k.toNat
    refine ⟨_, congrArg Host.Outcome.next e, setRlvl_rlvl_bv _ _ _, ?_, fun h0 h8 h => ?_, hmv.parts,
      fun a ha => (hmv.regs a ha).trans (hm.regs a (by simp))⟩
    · rw [setRlvl_wrp, hm.keep State.wrp]
    · exact setRlvl_clip (by simpa [BitVec.toNat_eq] using h0) h8 (by rw [hm.rd (by simp), readLevel_of_moves hm]; exact h)
  · have e : s.fireAt i now 3 false = { s.fired i now with wrp := { (s.fired i now).wrp with lpower := (s.fired i now).wrp.lpower.set c (some k) } } := by
      rw [hf.fireAt, act_lpower hf.action, hk, lpowerAct_held hc hk8 hd]
    refine ⟨_, congrArg Host.Outcome.next e, by simp, rfl⟩
  · obtain ⟨t, e, h1, h2, h3, hmv⟩ := execHfIntervalEnd_ends hc hl
    exact ⟨t, e, h1, h2, h3, hmv.parts, hmv.regs⟩

end Sys2Proof.Machine
end

section
/-! ## The last zone-layer becomes ready while a task ends -/

namespace Sys2Proof.Machine

set_option Elab.async false

theorem setReady_moves (s : State) (zl : Nat) (v : Bool) : Moves { regs := true, hlk := true, disc := true } noteRegs s (s.setReady zl v) := by
  unfold State.setReady
  split
  · exact (Moves.refl.upd).then_ (Moves.of_noted (as := []) (Noted.refl.mirrRecord _ _)) rfl (List.Subset.refl _)
  · exact .refl

/-- R329, R332: a DISC_READY that comes while a task ends waits for that end. -/
theorem discReadyEvent_ending {s : State} (h : s.tsk.ending = true) :
    s.discReadyEvent = { s with tsk := { s.tsk with readyDue := true } } := by
  unfold State.discReadyEvent
  rw [if_pos (by rw [h]; rfl)]

/-- A loaded disc of which every zone-layer but the first is ready, its rebuild done, while a task's completion record goes out (R329). -/
def readyAtEnd : State :=
  ({ disc := { ready := (Vector.replicate 320 true).set 0 false }, tsk := { ending := true } } : State).put F.TSK_DISC_LOADED true

theorem readyAtEnd_ready : ((readyAtEnd.setReady 0 true).event Ev.zlReady).disc.ready.toList.all id = true := by decide +kernel

/-- The last zone-layer becomes ready, and the task that ends has DISC_READY to send. -/
theorem execZoneLayerReady_readyAtEnd : Ends (execZoneLayerReady 0 readyAtEnd) fun t => t.tsk.readyDue = true := by
  unfold execZoneLayerReady
  rw [if_pos (by decide +kernel)]
  extract_lets s1 ks s2
  have hm : Moves { regs := true, hlk := true, disc := true } (noteRegs ++ eventRegs Ev.zlReady) readyAtEnd s1 :=
    ((setReady_moves _ _ _).mono rfl (List.subset_append_left _ _)).then_ (event_moves _ _) rfl (List.subset_append_right _ _)
  have hks : ks = [] := by unfold ks; rw [hm.keep State.rcv]; rfl
  have hs2 : s2 = s1 := by unfold s2; rw [hks]; rfl
  rw [hs2, if_pos (c := s1.disc.ready.toList.all id = true) readyAtEnd_ready, discReadyEvent_ending (by rw [hm.keep State.tsk]; rfl)]
  exact .next rfl

/-- Refutes O10: its last clause leaves the task's state as it was, and the model does not: the ready bit that completes the disc while a
task ends is remembered there, for DISC_READY waits for the TASK_END (R329, R332). -/
theorem not_sparesRecordsAndRebuild : ¬ Obligations.SparesRecordsAndRebuild := by
  rintro ⟨_, _, _, _, _, _, _, _, hready⟩
  obtain ⟨t, hg, _, _, _, _, ht⟩ := hready readyAtEnd 0 (by decide +kernel) (by decide +kernel) (by decide +kernel)
    (fun k hk => absurd hk List.not_mem_nil)
  obtain ⟨u, hu, hdue⟩ := execZoneLayerReady_readyAtEnd
  have htu : t = u := Host.Outcome.next.inj (hg.symm.trans hu)
  have htsk : t.tsk = readyAtEnd.tsk := (congrArg State.tsk ht).trans rfl
  rw [htu] at htsk
  rw [htsk] at hdue
  exact Bool.false_ne_true hdue

end Sys2Proof.Machine
end

section
/-! ## A load that begins after management slots were read -/

namespace Sys2Proof.Machine

set_option Elab.async false

theorem lbsTransmit_rcv (s : State) (body : List Byte) : (s.lbsTransmit body).rcv = s.rcv := by
  unfold State.lbsTransmit
  rw [State.wr_rcv, State.bump_rcv]

theorem lbsMessage_rcv (s : State) (p : Fin 8) (typ : Nat) (body : List Byte) : (s.lbsMessage p typ body).2.rcv = s.rcv := by
  unfold State.lbsMessage State.nextCtr
  dsimp only
  split
  · exact (lbsTransmit_rcv _ _).trans (State.setPair_rcv _ _ _)
  · rfl

theorem sendReq_rcv (s : State) : s.sendReq.rcv = s.rcv := by
  unfold State.sendReq
  dsimp only
  split
  · exact lbsMessage_rcv _ _ _ _
  · rfl

/-- R495: a handshake that starts leaves the recovery logic. -/
theorem hsStart_rcv (s : State) (k : Nat) : (s.hsStart k).rcv = s.rcv := by
  unfold State.hsStart State.setHs
  rw [sendReq_rcv, State.wr_rcv]

/-- LOAD_DISC runs, its drive at rest, and the read path holds a management slot of the disc before. -/
def loadOverRead : State :=
  ({ tsk := { work := true }, rcv := { mgmt := [⟨0, 0, 3, []⟩] } } : State).wr F.TSK_STATE_STATE 1 |>.wr F.TSK_STATE_OPCODE 0x10

/-- R325: a load that begins forgets every management slot read before. -/
theorem execLoadDisc_begins {s : State} (bs : List MgmtBlock) (hw : s.works 0x10 = true) (hp : s.tsk.phase = 0) (hr : s.driveRests = true) :
    Ends (execLoadDisc bs s) fun t => t.rcv.mgmt = [] := by
  unfold execLoadDisc
  rw [if_pos hw]
  simp only [hp, hr, if_true]
  exact .next (congrArg Rcv.mgmt (hsStart_rcv _ _))

/-- Refutes O33: its first clause leaves the recovery logic as it was, and the model does not: a load that begins forgets the management
slots that the read path has read (R53 step 1, R325). -/
theorem not_discTasks : ¬ Obligations.DiscTasks := by
  rintro ⟨hload, _⟩
  obtain ⟨t, hg, _, _, _, _, _, ht⟩ := hload loadOverRead [] (by decide +kernel) (by decide +kernel) (by decide +kernel)
  obtain ⟨u, hu, hnone⟩ := execLoadDisc_begins (s := loadOverRead) [] (by decide +kernel) (by decide +kernel) (by decide +kernel)
  have htu : t = u := Host.Outcome.next.inj (hg.symm.trans hu)
  have hrcv : t.rcv = loadOverRead.rcv := (congrArg State.rcv ht).trans rfl
  rw [← htu, hrcv] at hnone
  exact absurd hnone (List.cons_ne_nil _ _)

end Sys2Proof.Machine
end

section
/-! ## A flit that goes at once -/

namespace Sys2Proof.Machine

set_option Elab.async false

theorem port_modPort (s : State) (p : Fin 3) (f : HlkPort → HlkPort) : (s.modPort p f).port p = f (s.port p) := by
  simp [State.modPort, State.port]

theorem modPort_moves (s : State) (p : Fin 3) (f : HlkPort → HlkPort) : Moves { hlk := true } [] s (s.modPort p f) := Moves.refl.upd

/-- A flit of class C that the module sends of its own, and that follows nothing. -/
structure Flit.Plain (f : Flit) : Prop where
  seq    : flitSequenced f.typ = true
  classC : flitClassC f.typ = true
  typ    : ¬(f.typ = 8 ∨ f.typ = 0xA)
  own    : f.through = false
  owes   : f.owes = none
  behind : f.behind = 0

variable {s : State} {p : Fin 3} {f : Flit}

theorem Flit.Plain.queued (h : f.Plain) {q : HlkPort} (hq : q.qc = []) : q.queued f = { q with qc := [f] } := by
  have hf : { f with behind := 0 } = f := by
    obtain ⟨_, _, _, _, _, hb⟩ := h
    cases f
    simp_all
  unfold HlkPort.queued
  simp only [h.typ, if_false, hf, h.classC, if_true, hq, List.nil_append]

theorem Flit.Plain.pickFlit (h : f.Plain) (passed thru : Nat) : Machine.pickFlit passed thru [f] = some 0 := by
  simp [Machine.pickFlit, h.own, h.behind]

theorem Flit.Plain.sealed (h : f.Plain) (n : Nat) : { f.sealed n with through := false, behind := 0, owes := none } = f.sealed n := by
  obtain ⟨_, _, _, ho, hw, hb⟩ := h
  cases f
  unfold Flit.sealed
  split <;> simp_all

/-- R301, R302: what sending a flit at once makes of its port. -/
def HlkPort.launched (q : HlkPort) (f : Flit) : HlkPort :=
  { q with unack := q.unack ++ [(q.txSeq, f.sealed q.txSeq)], line := q.line ++ [(q.txSeq, f.sealed q.txSeq)], txSeq := (q.txSeq + 1) % 256 }

theorem launch_hlk (h : f.Plain) (cred : RegField) : (s.launch p cred f).hlk = (s.modPort p (·.launched f)).hlk := by
  unfold State.launch State.creditBack
  simp only [h.owes, h.sealed, State.bump64_hlk, State.wr_hlk]
  simp [State.modPort, HlkPort.launched, State.port]

theorem launch_moves (h : f.Plain) (s : State) : Moves { regs := true, hlk := true } (linkRegs p) s (s.launch p (F.HLK_P_CRED_C p) f) := by
  unfold State.launch State.creditBack
  simp only [h.owes]
  have h1 : Moves { regs := true, hlk := true } (linkRegs p) s
      ((s.modPort p (fun q => { q with unack := q.unack ++ [(q.txSeq, { f.sealed (s.port p).txSeq with through := false, behind := 0, owes := none })], line := q.line ++ [(q.txSeq, { f.sealed (s.port p).txSeq with through := false, behind := 0, owes := none })] })).modPort p
        (fun q => { q with txSeq := (q.txSeq + 1) % 256 })) := Moves.refl.upd
  exact ((h1.wr _ rfl (by simp [linkRegs])).wr _ rfl (by simp [linkRegs])).bump64 _ rfl (by simp [linkRegs]) (by simp [linkRegs])

/-- R301, R302: a port that is free sends such a flit at once. -/
theorem sendFlit_plain (h : f.Plain) (hp : s.PortFree p) :
    s.sendFlit p f = (((s.modPort p (·.queued f)).modPort p (·.taken true 0)).launch p (F.HLK_P_CRED_C p) f) := by
  have hq : (s.port p).queued f = { s.port p with qc := [f] } := h.queued hp.qc
  have hup : s.flag (F.HLK_P_STAT_UP p) = true := hp.up
  unfold State.sendFlit
  rw [if_pos h.seq]
  simp only [port_modPort, hq, hp.qd, List.length_singleton, List.length_nil]
  unfold State.pump
  have hrd : ∀ g, (s.modPort p (·.queued f)).rd g = s.rd g := fun _ => rfl
  have hfl : ∀ g, (s.modPort p (·.queued f)).flag g = s.flag g := fun _ => rfl
  simp only [port_modPort, hq, hrd, hfl, hp.unack, hup, hp.swap, hp.cc, if_true, h.pickFlit]
  simp [State.pump]

theorem sendFlit_plain_moves (h : f.Plain) (hp : s.PortFree p) : Moves { regs := true, hlk := true } (linkRegs p) s (s.sendFlit p f) := by
  rw [sendFlit_plain h hp]
  exact (((Moves.refl.then_ (modPort_moves s p _) rfl (List.nil_subset _)).then_ (modPort_moves _ p _) rfl (List.nil_subset _))).trans
    (launch_moves h _)

theorem sendFlit_plain_mrds (h : f.Plain) (hp : s.PortFree p) : (s.sendFlit p f).hlk.mrds = s.hlk.mrds := by
  rw [sendFlit_plain h hp, launch_hlk h]
  rfl

theorem sendFlit_plain_sent (h : f.Plain) (hp : s.PortFree p) : s.Sent (s.sendFlit p f) p f := by
  have hport : (s.sendFlit p f).port p = (((s.port p).queued f).taken true 0).launched f := by
    rw [sendFlit_plain h hp]
    show (State.launch _ p _ f).hlk.ports[p] = _
    rw [launch_hlk h]
    exact (port_modPort _ p _).trans (by rw [port_modPort, port_modPort])
  unfold State.Sent
  rw [hport, h.queued hp.qc]
  exact ⟨rfl, rfl, rfl⟩

/-- The registers of HLK that sending and the windows go by. -/
def hlkReg (a : Nat) : Prop := 0x20000 ≤ a ∧ a < 0x20A00

/-- What a host access goes by is of HLK's registers and the ports. -/
structure SameHlk (s t : State) : Prop where
  reg : ∀ a, hlkReg a → t.reg a = s.reg a
  hlk : t.hlk = s.hlk

namespace SameHlk

set_option Elab.async false

variable {t : State}

theorem of_moves {c : Parts} {as : List Nat} (h : Moves c as s t) (hc : c.hlk = false) (ha : ∀ a ∈ as, ¬ hlkReg a) : SameHlk s t :=
  ⟨fun _ hf => h.regs _ fun hm => ha _ hm hf, (congrArg State.hlk h.parts).trans (by simp [State.splice, hc])⟩

variable (h : SameHlk s t)
include h

theorem rd (f : RegField) (hf : hlkReg f.reg) : t.rd f = s.rd f := congrArg f.of (h.reg _ hf)
theorem flag (f : RegField) (hf : hlkReg f.reg) : t.flag f = s.flag f := congrArg (· != 0) (h.rd f hf)

theorem routePort (lba : Nat) : t.routePort lba = s.routePort lba := by
  unfold State.routePort
  rw [h.rd F.HLK_ARB_ROUTE ⟨by decide, by decide⟩]

theorem hop : t.hop = s.hop := by
  unfold State.hop
  rw [h.flag F.HLK_ID_VALID ⟨by decide, by decide⟩, h.rd F.HLK_ID_HOP ⟨by decide, by decide⟩]

/-- A window that admits an access in the one state admits it in the other. -/
theorem winOk {write : Bool} {addr len : Nat} (hw : s.winOk write addr len = true) : t.winOk write addr len = true := by
  unfold State.winOk at hw ⊢
  obtain ⟨w, hmem, hw⟩ := List.any_eq_true.mp hw
  refine List.any_eq_true.mpr ⟨w, hmem, ?_⟩
  have hw8 : w < 8 := List.mem_range.mp hmem
  have hctl : ∀ lo n, t.flag ⟨Reg.HLK_WIN_CTRL w, lo, n⟩ = s.flag ⟨Reg.HLK_WIN_CTRL w, lo, n⟩ := fun lo n =>
    h.flag _ ⟨by simp only [Reg.HLK_WIN_CTRL]; omega, by simp only [Reg.HLK_WIN_CTRL]; omega⟩
  have hbase : t.pair (Reg.HLK_WIN_BASE_LO w) = s.pair (Reg.HLK_WIN_BASE_LO w) := by
    unfold State.pair
    rw [h.reg _ ⟨by simp only [Reg.HLK_WIN_BASE_LO]; omega, by simp only [Reg.HLK_WIN_BASE_LO]; omega⟩,
      h.reg _ ⟨by simp only [Reg.HLK_WIN_BASE_LO]; omega, by simp only [Reg.HLK_WIN_BASE_LO]; omega⟩]
  have hlim : t.pair (Reg.HLK_WIN_LIM_LO w) = s.pair (Reg.HLK_WIN_LIM_LO w) := by
    unfold State.pair
    rw [h.reg _ ⟨by simp only [Reg.HLK_WIN_LIM_LO]; omega, by simp only [Reg.HLK_WIN_LIM_LO]; omega⟩,
      h.reg _ ⟨by simp only [Reg.HLK_WIN_LIM_LO]; omega, by simp only [Reg.HLK_WIN_LIM_LO]; omega⟩]
  rw [hbase, hlim]
  cases write <;> simpa only [hctl, Bool.false_eq_true, if_true, if_false] using hw

theorem port (p : Fin 3) : t.port p = s.port p := by
  unfold State.port
  rw [h.hlk]

omit h in
theorem hlkReg_port : ∀ p : Fin 3, hlkReg (Reg.HLK_P_STAT p) ∧ hlkReg (Reg.HLK_P_CRED p) := by
  unfold hlkReg
  decide

theorem portFree (hp : s.PortFree p) : t.PortFree p where
  up := (h.flag _ (hlkReg_port p).1).trans hp.up
  swap := (congrArg HlkPort.swap (h.port p)).trans hp.swap
  qc := (congrArg HlkPort.qc (h.port p)).trans hp.qc
  qd := (congrArg HlkPort.qd (h.port p)).trans hp.qd
  unack := by rw [h.port]; exact hp.unack
  cc := by rw [h.rd (F.HLK_P_CRED_C p) (hlkReg_port p).2]; exact hp.cc
  cd := by rw [h.rd (F.HLK_P_CRED_D p) (hlkReg_port p).2]; exact hp.cd

end SameHlk

/-! ## A scatter list that opens -/

theorem mrd_plain (src : Nat) (bs : List Byte) : Flit.Plain { typ := 4, hb := true, src := src, bytes := bs } :=
  ⟨rfl, rfl, by simp, rfl, rfl, rfl⟩

theorem modTsk_moves (s : State) (f : Tsk → Tsk) : Moves { tsk := true } [] s (s.modTsk f) := Moves.refl.upd

/-- The host read of a list's first 256 entries. -/
def State.listMrd (s : State) (a : Nat) : Mrd :=
  { port := portOf (s.routePort 0), addr := a, len := 4096, lba := 0, live := true, sg := true }

/-- A segment that begins at `a`, its first entries about to be asked for. -/
def State.listBegun (s : State) (a : Nat) : State :=
  ((s.setPair Reg.TSK_SG_ADDR_LO a).modTsk (fun t => { t with sgFrom := t.sgl.length })).modTsk (fun t => { t with sgNext := some a })

theorem listBegun_moves (s : State) (a : Nat) :
    Moves { regs := true, tsk := true } [Reg.TSK_SG_ADDR_LO, Reg.TSK_SG_ADDR_LO + 4] s (s.listBegun a) :=
  ((Moves.refl.setPair _).then_ (modTsk_moves _ _) rfl (List.nil_subset _)).then_ (modTsk_moves _ _) rfl (List.nil_subset _)

theorem listBegun_sameHlk (s : State) (a : Nat) : SameHlk s (s.listBegun a) :=
  .of_moves (listBegun_moves s a) rfl (by unfold hlkReg; decide)

theorem listBegun_tsk (s : State) (a : Nat) : (s.listBegun a).tsk = { s.tsk with sgFrom := s.tsk.sgl.length, sgNext := some a } := rfl

theorem listBegun_pair {s : State} {a : Nat} (ha : a < 2 ^ 64) : (s.listBegun a).pair Reg.TSK_SG_ADDR_LO = a :=
  (State.pair_setPair_same s _ a).trans (Nat.mod_eq_of_lt ha)

theorem descW_lt (s : State) (k : Nat) : s.descW k < 2 ^ 32 := (s.tsk.desc.getD k 0).isLt

theorem find?_range_zero {p : Nat → Bool} (n : Nat) (h : p 0 = true) : (List.range (n + 1)).find? p = some 0 := by
  rw [List.range_succ_eq_map]
  exact List.find?_cons_of_pos h

theorem listStart_eq_segment {a : Nat} (h : s.ListOpens a) : s.listStart = s.listSegment a := by
  obtain ⟨ha, ha0, hd, _⟩ := h
  unfold State.listStart
  simp only [ha, hd, ha0, if_false]

theorem listSegment_first {a : Nat} (hfirst : (List.range 256).find? (fun k => (s.listBegun a).winOk false a (16 * (256 - k))) = some 0) :
    s.listSegment a = (s.listBegun a).sendMRD ((s.listBegun a).routePort 0) ((s.listBegun a).listMrd a) := by
  unfold State.listSegment State.listFetch
  extract_lets s1
  have e : s1 = s.listBegun a := rfl
  rw [e, hfirst]
  rfl

theorem listBegun_listMrd (s : State) (a : Nat) : (s.listBegun a).listMrd a = s.listMrd a := by
  unfold State.listMrd
  rw [(listBegun_sameHlk s a).routePort]

/-- R321: where a window admits 256 entries, a list asks for them as it begins. -/
theorem listStart_eq {a : Nat} (h : s.ListOpens a) : s.listStart = (s.listBegun a).sendMRD (s.routePort 0) (s.listMrd a) := by
  have hsame := listBegun_sameHlk s a
  have hwin := h.2.2.2.1
  rw [listStart_eq_segment h, listSegment_first (find?_range_zero 255 (hsame.winOk hwin)), hsame.routePort, listBegun_listMrd]

/-- What a list that opens makes of the state. -/
structure State.Opens (s t : State) (a : Nat) : Prop where
  listed : s.Listed t a
  tsk    : ∃ n u, t.tsk = { s.tsk with sgFrom := n, sgNext := some a, used := u }
  moves  : Moves { regs := true, hlk := true, tsk := true } (listRegs s) s t

theorem sendMRD_moves {m : Mrd} (hp : s.PortFree p) : Moves { regs := true, hlk := true, tsk := true } (linkRegs p) s (s.sendMRD p m) := by
  have h1 := (sendFlit_plain_moves (mrd_plain s.hop (beBytes 8 m.addr ++ beBytes 4 m.len)) hp)
  exact (h1.mono (d := { regs := true, hlk := true, tsk := true }) rfl (List.Subset.refl _)).upd

theorem sendMRD_mrds {m : Mrd} (hp : s.PortFree p) : (s.sendMRD p m).hlk.mrds = s.hlk.mrds ++ [m] := by
  have h := sendFlit_plain_mrds (mrd_plain s.hop (beBytes 8 m.addr ++ beBytes 4 m.len)) hp
  show (s.sendFlit p _).hlk.mrds ++ [m] = _
  rw [h]

theorem sendMRD_sent {m : Mrd} (hp : s.PortFree p) :
    s.Sent (s.sendMRD p m) p { typ := 4, hb := true, src := s.hop, bytes := beBytes 8 m.addr ++ beBytes 4 m.len } :=
  sendFlit_plain_sent (mrd_plain s.hop (beBytes 8 m.addr ++ beBytes 4 m.len)) hp

theorem sendMRD_tsk {m : Mrd} (hp : s.PortFree p) : ∃ u, (s.sendMRD p m).tsk = { s.tsk with used := u } := by
  have h : (s.sendFlit p _).tsk = s.tsk := (sendFlit_plain_moves (mrd_plain s.hop (beBytes 8 m.addr ++ beBytes 4 m.len)) hp).keep State.tsk
  exact ⟨_, congrArg (fun t : Tsk => { t with used := t.used ||| BitVec.ofNat 3 (2 ^ p.val) }) h⟩

theorem segReg_not_mem : ∀ p : Fin 3, Reg.TSK_SG_ADDR_LO ∉ linkRegs p ∧ Reg.TSK_SG_ADDR_LO + 4 ∉ linkRegs p := by decide

/-- R321: the list begins, and its first 256 entries are asked for. -/
theorem listStart_opens {a : Nat} (h : s.ListOpens a) : s.Opens s.listStart a := by
  have hsame := listBegun_sameHlk s a
  have hp := hsame.portFree h.2.2.2.2
  have hlt : a < 2 ^ 64 := by
    have h4 := descW_lt s 4
    have h5 := descW_lt s 5
    have ha := h.1
    omega
  have hm := sendMRD_moves (m := s.listMrd a) hp
  have hn := segReg_not_mem (s.routePort 0)
  obtain ⟨u, hu⟩ := sendMRD_tsk (m := s.listMrd a) hp
  rw [listStart_eq h]
  refine ⟨⟨?_, ?_, ?_, ?_⟩, ⟨s.tsk.sgl.length, u, ?_⟩, ?_⟩
  · rw [sendMRD_mrds hp, hsame.hlk]
    rfl
  · have hsent := sendMRD_sent (m := s.listMrd a) hp
    unfold State.Sent at hsent ⊢
    rw [hsame.port, hsame.hop] at hsent
    exact hsent
  · refine Eq.trans ?_ (listBegun_pair (s := s) hlt)
    unfold State.pair
    rw [hm.regs _ hn.1, hm.regs _ hn.2]
  · rw [hu, listBegun_tsk]
  · rw [hu, listBegun_tsk]
  · exact ((listBegun_moves s a).mono rfl (List.subset_append_left _ _)).then_ hm rfl (List.subset_append_right _ _)

end Sys2Proof.Machine
/-! ## The modes an extent sets (R16, R108) -/

namespace Sys2Proof.Machine

set_option Elab.async false

variable {s t u : State} {c : Parts} {as : List Nat}

/-- What every step of a pass keeps holds at its end. -/
theorem forEach_keeps {α : Type} {P : State → Prop} {f : α → State → State} (hkeep : ∀ y t, P t → P (f y t)) :
    ∀ (l : List α) {t : State}, P t → P (forEach l f t)
  | [], _, h => h
  | y :: l, _, h => forEach_keeps hkeep l (hkeep y _ h)

/-- What one step of a pass establishes, and the others keep, holds at the pass's end. -/
theorem forEach_reaches {α : Type} {P : State → Prop} {f : α → State → State} {x : α} (hset : ∀ t, P (f x t)) (hkeep : ∀ y t, P t → P (f y t)) :
    ∀ {l : List α} (_ : x ∈ l) (t : State), P (forEach l f t)
  | y :: l, hx, t => by
    rcases List.mem_cons.mp hx with rfl | hx
    · exact forEach_keeps hkeep l (hset t)
    · exact forEach_reaches hset hkeep hx (f y t)

/-- Beam `b` is commanded to mode `m`. -/
def BeamIn (b : Beam) (m : Nat) (s : State) : Prop := s.rd (F.DET_CTRL_MODE b) = m

/-- The step of an extent that brings beam `b` to mode `m`. -/
def State.beamMode (s : State) (m : Nat) (b : Beam) : State := s.wr (F.DET_CTRL_MODE b) m

theorem beamMode_same {m : Nat} (hm : m < 4) (b : Beam) : BeamIn b m (s.beamMode m b) :=
  (State.rd_wr_same s _ _ (by show 0 + 2 ≤ 32; decide)).trans (Nat.mod_eq_of_lt hm)

theorem detCtrl_inj : ∀ b d : Beam, Reg.DET_CTRL b = Reg.DET_CTRL d → b = d := by decide

theorem detCtrl_mem : ∀ b : Beam, Reg.DET_CTRL b ∈ modeRegs := by decide

theorem beamMode_keeps {m : Nat} (hm : m < 4) (b d : Beam) (h : BeamIn d m s) : BeamIn d m (s.beamMode m b) := by
  by_cases hd : d = b
  · subst hd
    exact beamMode_same hm d
  · exact (State.rd_wr_ne s _ _ fun e => hd (detCtrl_inj d b e)).trans h

theorem beamMode_moves (s : State) (m : Nat) (b : Beam) : Moves { regs := true } modeRegs s (s.beamMode m b) :=
  Moves.refl.wr _ rfl (detCtrl_mem b)

/-- The beams of head `h` are brought to mode `m`. -/
def State.headMode (s : State) (m : Nat) (h : Head) : State := forEach (List.range 4) (fun d s => s.beamMode m (headBeam h d)) s

theorem headMode_rd {m : Nat} (hm : m < 4) (h : Head) (d : Fin 4) : BeamIn (headBeam h d) m (s.headMode m h) :=
  forEach_reaches (P := BeamIn (headBeam h d) m) (fun _ => beamMode_same hm _) (fun _ _ ht => beamMode_keeps hm _ _ ht)
    (List.mem_range.mpr d.isLt) s

theorem headMode_keeps {m : Nat} (hm : m < 4) (h : Head) (b : Beam) (hb : BeamIn b m s) : BeamIn b m (s.headMode m h) :=
  forEach_keeps (P := BeamIn b m) (fun _ _ ht => beamMode_keeps hm _ _ ht) _ hb

/-- Every beam of the heads `hs` is brought to mode `m`. -/
def State.headsMode (s : State) (hs : List Head) (m : Nat) : State := forEach hs (fun h s => s.headMode m h) s

theorem headsMode_rd {hs : List Head} {m : Nat} (hm : m < 4) {h : Head} (hh : h ∈ hs) (d : Fin 4) :
    BeamIn (headBeam h d) m (s.headsMode hs m) :=
  forEach_reaches (P := BeamIn (headBeam h d) m) (f := fun h s => s.headMode m h) (fun _ => headMode_rd hm h d) (fun k _ ht => headMode_keeps hm k _ ht) hh s

theorem headsMode_moves (s : State) (hs : List Head) (m : Nat) : Moves { regs := true } modeRegs s (s.headsMode hs m) :=
  Moves.forEach hs (fun _ _ _ ht => Moves.forEach _ (fun _ _ u hu => hu.trans (beamMode_moves u m _)) ht) Moves.refl

/-- The units that serve a read, or a write, are enabled. -/
def State.unitsOn (s : State) (write : Bool) : State :=
  if write then (s.put F.DET_GCTRL_EN true).put F.VFY_CTRL_EN true else (s.put F.DET_GCTRL_EN true).put F.DEC_CTRL_EN true

theorem unitsOn_moves (s : State) (write : Bool) : Moves { regs := true } modeRegs s (s.unitsOn write) := by
  have h : Moves { regs := true } modeRegs s (s.put F.DET_GCTRL_EN true) := Moves.refl.put _ rfl (by decide)
  exact Moves.ite (h.put _ rfl (by decide)) (h.put _ rfl (by decide))

/-- The mode an extent reads in: VERIFY for a write, else READ (R108). -/
def extentMode (write : Bool) : Nat := if write then 2 else 1

theorem extentModes_eq (s : State) (write : Bool) : s.extentModes write = (s.unitsOn write).headsMode (s.unitsOn write).extentHeads (extentMode write) := by
  cases write <;> rfl

theorem extentModes_moves (s : State) (write : Bool) : Moves { regs := true } modeRegs s (s.extentModes write) := by
  rw [extentModes_eq]
  exact (unitsOn_moves s write).trans (headsMode_moves _ _ _)

/-- A flag of a unit's enable stays as the beams' modes are set. -/
theorem headsMode_flag {f : RegField} (hf : ∀ b : Beam, f.reg ≠ Reg.DET_CTRL b) (hs : List Head) (m : Nat) : (s.headsMode hs m).flag f = s.flag f :=
  forEach_keeps (P := fun t => t.flag f = s.flag f)
    (fun _ _ ht => forEach_keeps (P := fun t => t.flag f = s.flag f) (fun _ _ hu => (State.flag_wr_ne _ _ _ (hf _)).trans hu) _ ht) hs rfl

theorem unitsOn_flags (s : State) (write : Bool) : (s.unitsOn write).flag F.DET_GCTRL_EN = true ∧
    (s.unitsOn write).flag (if extentMode write = 2 then F.VFY_CTRL_EN else F.DEC_CTRL_EN) = true := by
  cases write
  · exact ⟨(State.flag_put_ne _ _ _ (by decide)).trans (State.flag_put_same _ _ _ (by decide) rfl), State.flag_put_same _ _ _ (by decide) rfl⟩
  · exact ⟨(State.flag_put_ne _ _ _ (by decide)).trans (State.flag_put_same _ _ _ (by decide) rfl), State.flag_put_same _ _ _ (by decide) rfl⟩

theorem enables_apart : ∀ b : Beam, Reg.DET_GCTRL ≠ Reg.DET_CTRL b ∧ Reg.VFY_CTRL ≠ Reg.DET_CTRL b ∧ Reg.DEC_CTRL ≠ Reg.DET_CTRL b := by decide

/-- R16, R108: the modes of an extent are set. -/
theorem extentModes_set (s : State) (write : Bool) : s.ModesSet (s.extentModes write) (extentMode write) := by
  obtain ⟨hd, hu⟩ := unitsOn_flags s write
  have hheads : (s.unitsOn write).extentHeads = s.extentHeads := by
    unfold State.extentHeads
    rw [(unitsOn_moves s write).keep State.tsk]
  rw [extentModes_eq, hheads]
  refine ⟨(headsMode_flag (fun b => (enables_apart b).1) _ _).trans hd, (headsMode_flag (fun b => ?_) _ _).trans hu,
    fun h hh d => headsMode_rd (by cases write <;> decide) hh d⟩
  cases write
  · exact (enables_apart b).2.2
  · exact (enables_apart b).2.1

theorem modesSet_regs {m : Nat} (h : s.ModesSet t m) (k : RegsBut as t u) (ha : ∀ a ∈ modeRegs, a ∉ as) : s.ModesSet u m := by
  obtain ⟨hd, hu, hb⟩ := h
  have hrd : ∀ f : RegField, f.reg ∈ modeRegs → u.rd f = t.rd f := fun f hf => congrArg f.of (k _ (ha _ hf))
  refine ⟨?_, ?_, fun h hh d => ?_⟩
  · unfold State.flag
    rw [hrd _ (by decide)]
    exact hd
  · unfold State.flag
    rw [hrd _ (by split <;> decide)]
    exact hu
  · exact (hrd _ (detCtrl_mem _)).trans (hb h hh d)

end Sys2Proof.Machine
/-! ## How an extent begins -/

namespace Sys2Proof.Machine

set_option Elab.async false

variable {s t u : State} {a m : Nat} {write : Bool}

/-- An extent's first stage: its row's work is done, and its modes are set. -/
def State.extentReady (s : State) (write : Bool) : State := s.workDone.extentModes write

theorem extentReady_moves (s : State) (write : Bool) : Moves { regs := true, tsk := true } modeRegs s (s.extentReady write) :=
  ((modTsk_moves s _).mono rfl (List.nil_subset _)).then_ (extentModes_moves _ write) rfl (List.Subset.refl _)

theorem extentReady_tsk (s : State) (write : Bool) : (s.extentReady write).tsk = { s.tsk with work := false } :=
  (extentModes_moves s.workDone write).keep State.tsk

theorem extentReady_set (s : State) (write : Bool) : s.ModesSet (s.extentReady write) (extentMode write) := extentModes_set s.workDone write

theorem modeRegs_not_hlk : ∀ a ∈ modeRegs, ¬ hlkReg a := by
  unfold hlkReg
  decide

theorem extentReady_sameHlk (s : State) (write : Bool) : SameHlk s (s.extentReady write) :=
  .of_moves (extentReady_moves s write) rfl modeRegs_not_hlk

theorem extentReady_rd {f : RegField} (hf : f.reg ∉ modeRegs) : (s.extentReady write).rd f = s.rd f := (extentReady_moves s write).rd hf

theorem dataLen_congr (ht : t.tsk.desc = s.tsk.desc) (hc : t.tsk.count = s.tsk.count) (ho : t.opcode = s.opcode) : t.dataLen = s.dataLen := by
  unfold State.dataLen State.descW
  rw [ht, hc, ho]

theorem extentReady_dataLen (s : State) (write : Bool) : (s.extentReady write).dataLen = s.dataLen := by
  have ht := extentReady_tsk s write
  exact dataLen_congr (by rw [ht]) (by rw [ht]) (extentReady_rd (by decide))

theorem extentReady_listOpens (h : s.ListOpens a) : (s.extentReady write).ListOpens a := by
  obtain ⟨ha, ha0, hd, hw, hp⟩ := h
  have hsame := extentReady_sameHlk s write
  have hdesc : ∀ k, (s.extentReady write).descW k = s.descW k := fun k => by
    unfold State.descW
    rw [extentReady_tsk]
  refine ⟨?_, ha0, ?_, hsame.winOk hw, hsame.routePort 0 ▸ hsame.portFree hp⟩
  · rw [hdesc, hdesc]
    exact ha
  · rw [extentReady_dataLen]
    exact hd

/-- A list that opens from a state alike for HLK opens from the state before. -/
theorem listed_congr (h : SameHlk s u) (k : u.Listed t a) : s.Listed t a := by
  obtain ⟨hm, hs, ha, hn⟩ := k
  unfold State.Sent at hs
  rw [h.routePort, h.hlk] at hm
  rw [h.routePort, h.port, h.hop] at hs
  exact ⟨hm, hs, ha, hn⟩

theorem extentSpin_atSpeed {rpm : Nat} (hk : s.spnState = 4) (hr : s.rd F.SPN_TARGET_RPM = rpm) : s.extentSpin rpm = s := if_pos ⟨hk, hr⟩

theorem extentReady_spin {rpm : Nat} (hk : s.spnState = 4) (hr : s.rd F.SPN_TARGET_RPM = rpm) :
    (s.extentReady write).extentSpin rpm = s.extentReady write :=
  extentSpin_atSpeed ((extentReady_rd (f := F.SPN_STAT_STATE) (by decide)).trans hk) ((extentReady_rd (by decide)).trans hr)

theorem modeRegs_apart : ∀ p : Fin 3, ∀ a ∈ modeRegs, a ∉ [Reg.TSK_SG_ADDR_LO, Reg.TSK_SG_ADDR_LO + 4] ++ linkRegs p := by decide
theorem tskState_apart : ∀ p : Fin 3, Reg.TSK_STATE ∉ modeRegs ++ ([Reg.TSK_SG_ADDR_LO, Reg.TSK_SG_ADDR_LO + 4] ++ linkRegs p) := by decide

/-- What an extent whose disc turns at speed has begun with: its modes are set and its list opens, by the state `t`. -/
structure State.Begun (s t : State) (write : Bool) (a : Nat) : Prop where
  work   : t.tsk.work = false
  lbas   : t.taskLbas = s.taskLbas
  listed : s.Listed t a
  modes  : s.ModesSet t (extentMode write)
  moves  : Moves { regs := true, hlk := true, tsk := true } (modeRegs ++ listRegs s) s t

theorem extentReady_begun (h : s.ListOpens a) : s.Begun (s.extentReady write).listStart write a := by
  have hsame := extentReady_sameHlk s write
  obtain ⟨hl, ⟨n, u, ht⟩, hm⟩ := listStart_opens (extentReady_listOpens (write := write) h)
  have hregs : listRegs (s.extentReady write) = listRegs s := by
    unfold listRegs
    rw [hsame.routePort]
  rw [extentReady_tsk] at ht
  rw [hregs] at hm
  refine ⟨by rw [ht], ?_, listed_congr hsame hl, modesSet_regs (extentReady_set s write) hm.regs (modeRegs_apart _), ?_⟩
  · unfold State.taskLbas
    rw [ht]
  · exact ((extentReady_moves s write).mono rfl (List.subset_append_left _ _)).then_ hm rfl (List.subset_append_right _ _)

theorem begun_running (h : s.Begun t write a) : t.taskRunning = s.taskRunning :=
  congrArg (fun n : Nat => decide (n = 1)) (h.moves.rd (f := F.TSK_STATE_STATE) (tskState_apart _))

theorem works_running {op : Nat} (h : s.works op = true) : s.taskRunning = true := by
  unfold State.works at h
  simp only [Bool.and_eq_true] at h
  exact h.1.1.1.1

theorem works_opcode {op : Nat} (h : s.works op = true) : s.opcode = op := by
  unfold State.works at h
  simp only [Bool.and_eq_true, decide_eq_true_eq] at h
  exact h.1.1.1.2

theorem execReadExtent_ends (hw : s.works 1 = true) (hk : s.spnState = 4) (hr : s.rd F.SPN_TARGET_RPM = s.speedOr 0) (h : s.ListOpens a) :
    Ends (execReadExtent s) fun t => s.Begun t false a := by
  unfold execReadExtent
  rw [if_pos hw]
  refine .next ?_
  have e : (s.workDone.extentModes false).extentSpin (s.speedOr 0) = s.extentReady false := extentReady_spin hk hr
  rw [e]
  exact extentReady_begun h

/-! ## The plan of a write, and its replacement queues -/

/-- The block of LBA `l` as a write plans it at its home slot. -/
def homePlan (l : Nat) : WBlk := ⟨l, .home, 0, lbaZL l, 0, []⟩

/-- LBA `l` is planned on the beam of its track. -/
def State.planHome (s : State) (l : Nat) : State := s.modW (homeBeam l) (fun x => { x with plan := x.plan ++ [homePlan l] })

theorem planHome_plan (s : State) (l : Nat) (b : Beam) :
    ((s.planHome l).wrp.beams[b]).plan = (s.wrp.beams[b]).plan ++ ([l].filter (fun l => decide (homeBeam l = b))).map homePlan := by
  by_cases h : homeBeam l = b
  · subst h
    simp [State.planHome, State.modW]
  · have hv : (homeBeam l).val ≠ b.val := fun e => h (Fin.ext e)
    simp [State.planHome, State.modW, h, Vector.getElem_set_ne _ _ hv]

theorem planAll_plan (b : Beam) : ∀ (ls : List Nat) (s : State),
    ((forEach ls (fun l s => s.planHome l) s).wrp.beams[b]).plan = (s.wrp.beams[b]).plan ++ (ls.filter (fun l => decide (homeBeam l = b))).map homePlan
  | [], s => (List.append_nil _).symm
  | l :: ls, s => by
    refine (planAll_plan b ls (s.planHome l)).trans ?_
    rw [planHome_plan, List.append_assoc, ← List.map_append, ← List.filter_append]
    rfl

theorem planAll_moves (ls : List Nat) (s : State) : Moves { wrp := true } [] s (forEach ls (fun l s => s.planHome l) s) :=
  Moves.forEach ls (fun _ _ _ h => h.upd) Moves.refl

theorem queueJoin_queue (s : State) (l z : Nat) :
    (s.queueJoin l).queue z = s.queue z ++ ([l].filter (fun l => decide (lbaZL l = z))).map (fun l => ⟨l, 0⟩) := by
  by_cases h : lbaZL l = z
  · subst h
    simp [State.queueJoin, State.setQueue, State.queue, Sparse.get_set_same]
  · simp [State.queueJoin, State.setQueue, State.queue, h, Sparse.get_set_ne _ _ _ (Ne.symm h)]

theorem queueAll_queue (z : Nat) : ∀ (ls : List Nat) (s : State),
    (forEach ls (fun l s => s.queueJoin l) s).queue z = s.queue z ++ (ls.filter (fun l => decide (lbaZL l = z))).map (fun l => ⟨l, 0⟩)
  | [], s => (List.append_nil _).symm
  | l :: ls, s => by
    refine (queueAll_queue z ls (s.queueJoin l)).trans ?_
    rw [queueJoin_queue, List.append_assoc, ← List.map_append, ← List.filter_append]
    rfl

theorem queueAll_moves (ls : List Nat) (s : State) : Moves { wrp := true } [] s (forEach ls (fun l s => s.queueJoin l) s) :=
  Moves.forEach ls (fun _ _ _ h => h.upd) Moves.refl

theorem queueAll_beams (ls : List Nat) (s : State) : (forEach ls (fun l s => s.queueJoin l) s).wrp.beams = s.wrp.beams :=
  forEach_keeps (P := fun t => t.wrp.beams = s.wrp.beams) (f := fun l s => s.queueJoin l) (fun _ _ h => h) ls rfl

/-! ## The spindle's start from rest (R257) -/

/-- What a SPIN at rest goes by (R256). -/
structure State.SpinFree (s : State) : Prop where
  rest  : s.spnState = 0
  low   : 300 ≤ s.rd F.SPN_TARGET_RPM
  high  : s.rd F.SPN_TARGET_RPM ≤ 7560
  cmd   : s.spn.cmd = 0
  owned : s.owned = true
  stage : s.stageOn = true

theorem spnRefusal_spin_rest (h : s.spnState = 0) : s.spnRefusal 1 = none ↔ s.SpinFree := by
  constructor
  · intro hr
    unfold State.spnRefusal at hr
    simp only [h] at hr
    split at hr
    · cases hr
    next h1 =>
      split at hr
      · cases hr
      next h2 =>
        split at hr
        · cases hr
        next h3 =>
          simp only [Bool.or_eq_true, Bool.not_eq_true', not_or, Bool.not_eq_false] at h3
          simp only [true_and] at h1
          exact ⟨h, by omega, by omega, by omega, h3.1, h3.2⟩
  · intro ⟨_, hlow, hhigh, hcmd, hown, hstage⟩
    unfold State.spnRefusal
    simp only [h, hcmd, hown, hstage]
    simp [Nat.not_lt.mpr hlow, Nat.not_lt.mpr hhigh, spnAccepts]

theorem modSpn_moves (s : State) (f : Spn → Spn) : Moves { spn := true } [] s (s.modSpn f) := Moves.refl.upd

/-- What starting from rest makes of the state (R257). -/
structure State.Aligns (s t : State) : Prop where
  state  : t.spnState = 2
  cmd    : t.spn.cmd = 1
  target : t.rd F.SPN_TARGET_RPM = s.rd F.SPN_TARGET_RPM
  moves  : Moves { regs := true, spn := true } spnRegs s t

theorem spnGo_align_of_rest (h : s.spnState = 0) : s.spnGo 2 = (s.wr F.SPN_STAT_STATE 2).put F.SPN_STAT_ZVB false := by
  simp [State.spnGo, State.spnLoops, h]

/-- The rotor's vector at the start of an attempt. -/
def startVector (p : Spn) : Spn := { p with driven := 0, dFrac := 0, starts := p.starts + 1, again := false, still := false }

theorem modSpn_rd (s : State) (f : Spn → Spn) (g : RegField) : (s.modSpn f).rd g = s.rd g := rfl
theorem modSpn_spnState (s : State) (f : Spn → Spn) : (s.modSpn f).spnState = s.spnState := rfl

theorem spnGo_aligns (h : s.spnState = 0) (hc : s.spn.cmd = 1) : s.Aligns ((s.bump Reg.SPN_START_CNT).spnGo 2) := by
  have hrest : (s.bump Reg.SPN_START_CNT).spnState = 0 := (State.rd_setReg_ne s _ _ (g := F.SPN_STAT_STATE) (by decide)).trans h
  have hm : Moves { regs := true, spn := true } spnRegs s
      (((s.bump Reg.SPN_START_CNT).wr F.SPN_STAT_STATE 2).put F.SPN_STAT_ZVB false) :=
    ((Moves.refl.bump rfl (by decide)).wr _ rfl (by decide)).put _ rfl (by decide)
  rw [spnGo_align_of_rest hrest]
  refine ⟨?_, ?_, ?_, hm⟩
  · exact (State.rd_put_disjoint _ F.SPN_STAT_ZVB F.SPN_STAT_STATE _ (by decide) (by decide)).trans (State.rd_wr_same _ _ _ (by decide))
  · simpa using hc
  · exact (State.rd_put_ne _ _ _ (by decide)).trans ((State.rd_wr_ne _ _ _ (by decide)).trans (State.rd_setReg_ne _ _ _ (by decide)))

theorem spnAlign_aligns (h : s.spnState = 0) (hc : s.spn.cmd = 1) : s.Aligns s.spnAlign := by
  obtain ⟨h1, h2, h3, h4⟩ := spnGo_aligns ((modSpn_spnState s startVector).trans h) hc
  exact ⟨h1, h2, h3.trans (modSpn_rd _ _ _), ((modSpn_moves s startVector).mono rfl (List.nil_subset _)).trans h4⟩

theorem spnAccept_idle (hc : s.spn.cmd = 0) (op : Nat) :
    s.spnAccept op = (s.modSpn (fun p => { p with cmd := op, again := false })).put F.SPN_STAT_BUSY true := by
  unfold State.spnAccept State.spnEnd
  rw [if_pos hc]

theorem spinRun_aligns (h : s.spnState = 0) (hc : s.spn.cmd = 1) : s.Aligns s.spinRun := by
  have e : s.spinRun = (s.modSpn (fun p => { p with starts := 0 })).spnAlign := if_pos h
  obtain ⟨h1, h2, h3, h4⟩ := spnAlign_aligns ((modSpn_spnState s (fun p => { p with starts := 0 })).trans h) hc
  rw [e]
  exact ⟨h1, h2, h3.trans (modSpn_rd _ _ _), ((modSpn_moves s _).mono rfl (List.nil_subset _)).trans h4⟩

theorem spnCommand_aligns (h : s.SpinFree) : s.Aligns (s.spnCommand 1 State.spinRun) := by
  have hacc : s.spnCommand 1 State.spinRun = (s.spnAccept 1).spinRun := by
    unfold State.spnCommand
    rw [(spnRefusal_spin_rest h.rest).mpr h]
  have hrest : (s.spnAccept 1).spnState = 0 := by
    rw [spnAccept_idle h.cmd]
    exact (State.rd_put_disjoint _ F.SPN_STAT_BUSY F.SPN_STAT_STATE _ (by decide) (by decide)).trans h.rest
  have hm : Moves { regs := true, spn := true } spnRegs s (s.spnAccept 1) := by
    rw [spnAccept_idle h.cmd]
    exact ((modSpn_moves s _).mono (bs := spnRegs) (d := { regs := true, spn := true }) rfl (List.nil_subset _)).put _ rfl (by decide)
  have hcmd : (s.spnAccept 1).spn.cmd = 1 := by
    rw [spnAccept_idle h.cmd]
    rfl
  have htgt : (s.spnAccept 1).rd F.SPN_TARGET_RPM = s.rd F.SPN_TARGET_RPM := by
    rw [spnAccept_idle h.cmd]
    exact State.rd_put_ne _ _ _ (by decide)
  rw [hacc]
  obtain ⟨h1, h2, h3, h4⟩ := spinRun_aligns hrest hcmd
  exact ⟨h1, h2, h3.trans htgt, hm.trans h4⟩

theorem spinFree_congr (h : s.SpinFree) (hst : t.spnState = s.spnState) (ht : t.rd F.SPN_TARGET_RPM = s.rd F.SPN_TARGET_RPM)
    (hc : t.spn.cmd = s.spn.cmd) (ho : t.owned = s.owned) (hs : t.stageOn = s.stageOn) : t.SpinFree :=
  ⟨hst.trans h.rest, ht ▸ h.low, ht ▸ h.high, hc.trans h.cmd, ho.trans h.owned, hs.trans h.stage⟩

/-- R258: the target is `rpm` once it is taken. -/
theorem spnTarget_rd (s : State) (rpm : Nat) : (s.spnTarget rpm).rd F.SPN_TARGET_RPM = rpm % 2 ^ 13 := by
  unfold State.spnTarget
  split
  next h =>
    rw [h]
    exact (Nat.mod_eq_of_lt (h ▸ RegField.of_lt F.SPN_TARGET_RPM (s.reg Reg.SPN_TARGET))).symm
  next => exact (State.rd_put_ne _ _ _ (by decide)).trans (State.rd_wr_same _ _ _ (by decide))

theorem spnTarget_moves (s : State) (rpm : Nat) : Moves { regs := true } [Reg.SPN_TARGET, Reg.SPN_STAT] s (s.spnTarget rpm) :=
  Moves.ite Moves.refl ((Moves.refl.wr _).put _)

theorem spnTarget_state (s : State) (rpm : Nat) : (s.spnTarget rpm).spnState = s.spnState := by
  unfold State.spnTarget
  split
  · rfl
  · exact (State.rd_put_disjoint _ F.SPN_STAT_ATSPEED F.SPN_STAT_STATE _ (by decide) (by decide)).trans (State.rd_wr_ne _ _ _ (by decide))

/-- A SPIN to `rpm` is free from the state in which it is taken, if it is so once the target is written. -/
theorem spnTarget_spinFree {rpm : Nat} (h : (s.wr F.SPN_TARGET_RPM rpm).SpinFree) : (s.spnTarget rpm).SpinFree := by
  have hm := spnTarget_moves s rpm
  refine spinFree_congr h ((spnTarget_state s rpm).trans (State.rd_wr_ne s _ _ (by decide)).symm)
    ((spnTarget_rd s rpm).trans (State.rd_wr_same s F.SPN_TARGET_RPM _ (by decide)).symm) ?_ ?_ ?_
  · exact hm.keep (fun s => s.spn.cmd)
  · exact (hm.flag (f := F.MIR_STAT_OWNED) (by decide)).trans (State.flag_wr_ne s _ _ (by decide)).symm
  · exact (hm.flag (f := F.PWR_STAT_STGEN) (by decide)).trans (State.flag_wr_ne s _ _ (by decide)).symm

/-- R325: from rest, a task's SPIN starts the spindle. -/
theorem extentSpin_rest {rpm : Nat} (h : s.spnState = 0) (hr : (s.wr F.SPN_TARGET_RPM rpm).SpinFree) :
    (s.spnTarget rpm).Aligns (s.extentSpin rpm) := by
  have hf := spnTarget_spinFree hr
  have e : s.extentSpin rpm = (s.spnTarget rpm).spnCommand 1 State.spinRun := by
    unfold State.extentSpin State.taskSpin
    rw [if_neg (by omega)]
    simp only [(spnRefusal_spin_rest hf.rest).mpr hf]
  rw [e]
  exact spnCommand_aligns hf

end Sys2Proof.Machine
/-! ## The extent tasks -/

namespace Sys2Proof.Machine

set_option Elab.async false

variable {s t u : State} {a : Nat} {as : List Nat}

theorem listStart_noData (h : s.dataLen = 0) : s.listStart = s.modTsk (fun t => { t with sgDone := true }) := if_pos h

theorem dataLen_verify (h : s.opcode = 3) : s.dataLen = 0 := by
  unfold State.dataLen
  simp [h]

/-- What a verify makes of the state `u` in which its spindle is seen to: it moves no data, so its list is done. -/
structure State.NoList (s u t : State) : Prop where
  work  : t.tsk.work = false
  done  : t.tsk.sgDone = true
  modes : s.ModesSet t 1
  moves : Moves { tsk := true } [] u t

theorem verify_noList (h : s.opcode = 3) (hm : Moves { regs := true, spn := true } as (s.extentReady false) u)
    (ha : ∀ b ∈ Reg.TSK_STATE :: modeRegs, b ∉ as) : s.NoList u u.listStart := by
  have htsk : u.tsk = { s.tsk with work := false } := (hm.keep State.tsk).trans (extentReady_tsk s false)
  have hop : u.opcode = 3 := (hm.rd (f := F.TSK_STATE_OPCODE) (ha _ List.mem_cons_self)).trans ((extentReady_rd (by decide)).trans h)
  have hmodes := modesSet_regs (extentReady_set s false) hm.regs fun b hb => ha b (List.mem_cons_of_mem _ hb)
  rw [listStart_noData (dataLen_verify hop)]
  have hmv := modTsk_moves u (fun t => { t with sgDone := true })
  refine ⟨?_, rfl, modesSet_regs hmodes hmv.regs (fun _ _ => List.not_mem_nil), hmv⟩
  show u.tsk.work = false
  rw [htsk]

theorem execVerifyExtent_runs (hw : s.works 3 = true) : execVerifyExtent s = .next ((s.extentReady false).extentSpin (s.speedOr 0)).listStart :=
  if_pos hw

theorem execVerifyExtent_atSpeed (hw : s.works 3 = true) (hk : s.spnState = 4) (hr : s.rd F.SPN_TARGET_RPM = s.speedOr 0) :
    Ends (execVerifyExtent s) fun t => t.tsk.work = false ∧ t.tsk.sgDone = true ∧ s.ModesSet t 1 ∧ Moves { regs := true, tsk := true } modeRegs s t := by
  obtain ⟨h1, h2, h3, h4⟩ := verify_noList (works_opcode hw) (Moves.refl (as := [])) (fun _ _ => List.not_mem_nil)
  rw [execVerifyExtent_runs hw, extentReady_spin hk hr]
  exact .next ⟨h1, h2, h3, (extentReady_moves s false).then_ h4 rfl (List.nil_subset _)⟩

theorem spnRegs_apart : ∀ b ∈ Reg.TSK_STATE :: modeRegs, b ∉ spnRegs := by decide
theorem spinRegs_not_mode : Reg.SPN_STAT ∉ modeRegs ∧ Reg.SPN_TARGET ∉ modeRegs ∧ Reg.MIR_STAT ∉ modeRegs ∧ Reg.PWR_STAT ∉ modeRegs := by decide

/-- A SPIN that is free before the modes are set is free after. -/
theorem extentReady_spinFree {rpm : Nat} (h : (s.wr F.SPN_TARGET_RPM rpm).SpinFree) : ((s.extentReady false).wr F.SPN_TARGET_RPM rpm).SpinFree := by
  obtain ⟨hst, _, hmir, hpwr⟩ := spinRegs_not_mode
  have hkeep : ∀ f : RegField, f.reg ∉ modeRegs → f.reg ≠ Reg.SPN_TARGET →
      ((s.extentReady false).wr F.SPN_TARGET_RPM rpm).rd f = (s.wr F.SPN_TARGET_RPM rpm).rd f := fun f hf hn =>
    (State.rd_wr_ne _ _ _ hn).trans ((extentReady_rd hf).trans (State.rd_wr_ne _ _ _ hn).symm)
  refine spinFree_congr h (hkeep F.SPN_STAT_STATE hst (by decide)) ?_ ?_ ?_ ?_
  · exact (State.rd_wr_same _ F.SPN_TARGET_RPM _ (by decide)).trans (State.rd_wr_same s F.SPN_TARGET_RPM _ (by decide)).symm
  · have hspn : (s.extentReady false).spn = s.spn := (extentReady_moves s false).keep State.spn
    rw [State.wr_spn, State.wr_spn, hspn]
  · exact congrArg (· != 0) (hkeep F.MIR_STAT_OWNED hmir (by decide))
  · exact congrArg (· != 0) (hkeep F.PWR_STAT_STGEN hpwr (by decide))

theorem execVerifyExtent_fromRest (hw : s.works 3 = true) (hk : s.spnState = 0) (hr : (s.wr F.SPN_TARGET_RPM (s.speedOr 0)).spnRefusal 1 = none) :
    Ends (execVerifyExtent s) fun t => t.tsk.work = false ∧ t.rd F.SPN_TARGET_RPM = s.speedOr 0 % 2 ^ 13 ∧ t.spnState = 2 ∧ t.spn.cmd = 1 ∧
      s.ModesSet t 1 ∧ Moves { regs := true, spn := true, tsk := true } (modeRegs ++ spnRegs) s t := by
  have hfree : (s.wr F.SPN_TARGET_RPM (s.speedOr 0)).SpinFree :=
    (spnRefusal_spin_rest ((State.rd_wr_ne s F.SPN_TARGET_RPM _ (g := F.SPN_STAT_STATE) (by decide)).trans hk)).mp hr
  have hrest : (s.extentReady false).spnState = 0 := (extentReady_rd (f := F.SPN_STAT_STATE) spinRegs_not_mode.1).trans hk
  obtain ⟨hst, hcmd, htgt, hal⟩ := extentSpin_rest hrest (extentReady_spinFree hfree)
  have hspin := ((spnTarget_moves (s.extentReady false) (s.speedOr 0)).mono (d := { regs := true, spn := true }) (bs := spnRegs) rfl (by decide)).trans hal
  obtain ⟨h1, _, h3, h4⟩ := verify_noList (works_opcode hw) hspin spnRegs_apart
  rw [execVerifyExtent_runs hw]
  refine .next ⟨h1, ?_, (h4.rd (f := F.SPN_STAT_STATE) List.not_mem_nil).trans hst, ?_, h3, ?_⟩
  · exact (h4.rd List.not_mem_nil).trans (htgt.trans (spnTarget_rd _ _))
  · exact (h4.keep (fun s => s.spn.cmd)).trans hcmd
  · exact (((extentReady_moves s false).mono rfl (List.subset_append_left _ _)).then_ hspin rfl (List.subset_append_right _ _)).then_ h4 rfl (List.nil_subset _)

theorem execWriteExtent_ends (hw : s.works 2 = true) (hf : s.tskFlag 1 = false) (hk : s.spnState = 4) (hr : s.rd F.SPN_TARGET_RPM = s.speedOr 1)
    (h : s.ListOpens a) : ∃ t, s.Begun t true a ∧ execWriteExtent s = .next (forEach s.taskLbas (fun l s => s.planHome l) t) := by
  have hb := extentReady_begun (write := true) h
  refine ⟨_, hb, ?_⟩
  have e : (s.workDone.extentModes true).extentSpin (s.speedOr 1) = s.extentReady true := extentReady_spin hk hr
  unfold execWriteExtent
  rw [if_pos (by simp [hw, hf])]
  simp only [e, begun_running hb, works_running hw, if_true, hb.lbas]
  rfl

theorem execWriteExtentSpare_ends (hw : s.works 2 = true) (hf : s.tskFlag 1 = true) (hk : s.spnState = 4)
    (hr : s.rd F.SPN_TARGET_RPM = s.speedOr 1) (h : s.ListOpens a) :
    ∃ t, s.Begun t true a ∧ execWriteExtentSpare s = .next (forEach s.taskLbas (fun l s => s.queueJoin l) t) := by
  have hb := extentReady_begun (write := true) h
  refine ⟨_, hb, ?_⟩
  have e : (s.workDone.extentModes true).extentSpin (s.speedOr 1) = s.extentReady true := extentReady_spin hk hr
  unfold execWriteExtentSpare
  rw [if_pos (by simp [hw, hf])]
  simp only [e, begun_running hb, works_running hw, if_true, hb.lbas]

/-- What the plan, or the queues, of a write leave of its beginning. -/
theorem begun_wrp (h : s.Begun t true a) (k : Moves { wrp := true } [] t u) :
    u.tsk.work = false ∧ s.Listed u a ∧ s.ModesSet u 2 ∧ Moves { regs := true, hlk := true, tsk := true, wrp := true } (modeRegs ++ listRegs s) s u := by
  have htsk : u.tsk = t.tsk := k.keep State.tsk
  have hhlk : u.hlk = t.hlk := k.keep State.hlk
  obtain ⟨hm, hs, hp, hn⟩ := h.listed
  refine ⟨htsk ▸ h.work, ⟨hhlk ▸ hm, ?_, ?_, htsk ▸ hn⟩, modesSet_regs h.modes k.regs (fun _ _ => List.not_mem_nil),
    (h.moves.mono rfl (List.Subset.refl _)).then_ k rfl (List.nil_subset _)⟩
  · unfold State.Sent State.port at hs ⊢
    rw [hhlk]
    exact hs
  · unfold State.pair at hp ⊢
    rw [k.regs _ List.not_mem_nil, k.regs _ List.not_mem_nil]
    exact hp

/-- Settles O32: the extent's modes are set, then its list opens, and a write plans or queues its blocks. -/
theorem extentTasks : Obligations.ExtentTasks := by
  refine ⟨fun s a hw hk hr h => ?_, fun s hw hk hr => ?_, fun s hw hk hr => ?_, fun s a hw hf hk hr h => ?_, fun s a hw hf hk hr h => ?_⟩
  · obtain ⟨t, e, hb⟩ := execReadExtent_ends hw hk hr h
    exact ⟨t, e, hb.work, hb.listed, hb.modes, hb.moves.parts, hb.moves.regs⟩
  · obtain ⟨t, e, h1, h2, h3, hm⟩ := execVerifyExtent_atSpeed hw hk hr
    exact ⟨t, e, h1, h2, h3, hm.parts, hm.regs⟩
  · obtain ⟨t, e, h1, h2, h3, h4, h5, hm⟩ := execVerifyExtent_fromRest hw hk hr
    exact ⟨t, e, h1, h2, h3, h4, h5, hm.parts, hm.regs⟩
  · obtain ⟨t, hb, e⟩ := execWriteExtent_ends hw hf hk hr h
    obtain ⟨h1, h2, h3, hm⟩ := begun_wrp hb (planAll_moves s.taskLbas t)
    have hw0 : t.wrp = s.wrp := hb.moves.keep State.wrp
    exact ⟨_, e, h1, h2, fun b => by rw [planAll_plan, hw0]; rfl, h3, hm.parts, hm.regs⟩
  · obtain ⟨t, hb, e⟩ := execWriteExtentSpare_ends hw hf hk hr h
    obtain ⟨h1, h2, h3, hm⟩ := begun_wrp hb (queueAll_moves s.taskLbas t)
    have hw0 : t.wrp = s.wrp := hb.moves.keep State.wrp
    refine ⟨_, e, h1, h2, fun z _ => ?_, by rw [queueAll_beams, hw0], h3, hm.parts, hm.regs⟩
    rw [queueAll_queue]
    unfold State.queue
    rw [hw0]

end Sys2Proof.Machine
end

section
/-! ## What a sample instant leaves alone

Apart from the settling of the interval, the speed estimate and the count of samples, every operation of a sample keeps the registers
that the sample shows and goes by. -/

namespace Sys2Proof.Machine

set_option Elab.async false

/-- The registers of the interval, the speed, the count of samples, SRV's enable, the choice of the estimate and the angle's validity. -/
def stillRegs : List Nat :=
  [Reg.ANG_SRV_INT, Reg.SPN_SPEED, Reg.SRV_SAMPLE_CNT_LO, Reg.SRV_SAMPLE_CNT_LO + 4, Reg.SRV_CTRL, Reg.SPN_EST_CFG, Reg.ANG_NOW_HI]

/-- Those, and the two status registers of which one field is kept. -/
def heldRegs : List Nat := [Reg.MIR_STAT, Reg.SPN_STAT] ++ stillRegs

/-- From `s` to `t` these registers, ownership, the validity of the speed, and whether instants are issued by time, are kept. -/
structure Calm (s t : State) : Prop where
  regs  : ∀ a ∈ stillRegs, t.reg a = s.reg a
  owned : t.rd F.MIR_STAT_OWNED = s.rd F.MIR_STAT_OWNED
  valid : t.rd F.SPN_STAT_SPDVALID = s.rd F.SPN_STAT_SPDVALID
  timed : t.ang.timed = s.ang.timed

namespace Calm

set_option Elab.async false

variable {s t u : State}

theorem refl : Calm s s := ⟨fun _ _ => rfl, rfl, rfl, rfl⟩

theorem trans (h : Calm s t) (k : Calm t u) : Calm s u :=
  ⟨fun a ha => (k.regs a ha).trans (h.regs a ha), k.owned.trans h.owned, k.valid.trans h.valid, k.timed.trans h.timed⟩

/-- An update of other parts than the registers and the angle. -/
theorem upd (h : Calm s t) (hr : u.regs = t.regs := by rfl) (ha : u.ang.timed = t.ang.timed := by rfl) : Calm s u :=
  h.trans ⟨fun a _ => State.reg_of_regs hr a, congrArg F.MIR_STAT_OWNED.of (State.reg_of_regs hr _),
    congrArg F.SPN_STAT_SPDVALID.of (State.reg_of_regs hr _), ha⟩

theorem of_moves {c : Parts} {as : List Nat} (k : Moves c as s t) (hc : c.ang = false) (ha : ∀ a ∈ heldRegs, a ∉ as) : Calm s t where
  regs a h := k.regs a (ha a (List.mem_append_right _ h))
  owned := k.rd (ha _ (by decide))
  valid := k.rd (ha _ (by decide))
  timed := by
    rw [k.parts]
    simp [State.splice, hc]

theorem of_noted {as : List Nat} (k : Noted as s t) (ha : ∀ a ∈ heldRegs, a ∉ as ++ noteRegs) : Calm s t := of_moves (.of_noted k) rfl ha

theorem heldRegs_not_noted : ∀ a ∈ heldRegs, a ∉ [] ++ noteRegs := by decide

/-- Telling another agent: flits, attention and the performance counters. -/
theorem noted (h : Calm s t) (k : Noted [] t u) : Calm s u := h.trans (of_noted k heldRegs_not_noted)

theorem ne_of_held {a b : Nat} (hb : b ∈ heldRegs) (ha : a ∉ heldRegs) : b ≠ a := fun e => ha (e ▸ hb)
theorem mirStat_held : F.MIR_STAT_OWNED.reg ∈ heldRegs := by decide
theorem spnStat_held : F.SPN_STAT_SPDVALID.reg ∈ heldRegs := by decide

theorem setReg (h : Calm s t) {a : Nat} (w : Word) (ha : a ∉ heldRegs := by decide) : Calm s (t.setReg a w) where
  regs b hb := (State.reg_setReg_ne _ (ne_of_held (List.mem_append_right _ hb) ha) _).trans (h.regs b hb)
  owned := (State.rd_setReg_ne _ _ _ (ne_of_held mirStat_held ha)).trans h.owned
  valid := (State.rd_setReg_ne _ _ _ (ne_of_held spnStat_held ha)).trans h.valid
  timed := h.timed

theorem wr (h : Calm s t) {f : RegField} (v : Nat) (ha : f.reg ∉ heldRegs := by decide) : Calm s (t.wr f v) := h.setReg _ ha
theorem put (h : Calm s t) {f : RegField} (b : Bool) (ha : f.reg ∉ heldRegs := by decide) : Calm s (t.put f b) := h.setReg _ ha
theorem bumpBy (h : Calm s t) {a : Nat} (n : Nat) (ha : a ∉ heldRegs := by decide) : Calm s (t.bumpBy a n) := h.setReg _ ha
theorem bump (h : Calm s t) {a : Nat} (ha : a ∉ heldRegs := by decide) : Calm s (t.bump a) := h.setReg _ ha
theorem bumpF (h : Calm s t) {f : RegField} (ha : f.reg ∉ heldRegs := by decide) : Calm s (t.bumpF f) := h.setReg _ ha
theorem setInt (h : Calm s t) {a : Nat} (v : Int) (ha : a ∉ heldRegs := by decide) : Calm s (t.setInt a v) := h.setReg _ ha
theorem setPair (h : Calm s t) {a : Nat} (n : Nat) (ha : a ∉ heldRegs := by decide) (hb : a + 4 ∉ heldRegs := by decide) :
    Calm s (t.setPair a n) := (h.setReg _ ha).setReg _ hb
theorem bump64 (h : Calm s t) {a : Nat} (n : Nat) (ha : a ∉ heldRegs := by decide) (hb : a + 4 ∉ heldRegs := by decide) :
    Calm s (t.bump64 a n) := h.setPair _ ha hb

/-- Another field of SPN's status. -/
theorem wrSpnStat (h : Calm s t) {f : RegField} (v : Nat) (hf : f.reg = Reg.SPN_STAT := by rfl)
    (hd : 27 ≤ f.lo ∨ f.lo + f.width ≤ 26 := by decide) : Calm s (t.wr f v) where
  regs b hb := (State.reg_setReg_ne _ (fun e => absurd (hf ▸ e ▸ hb) (by decide : Reg.SPN_STAT ∉ stillRegs)) _).trans (h.regs b hb)
  owned := (State.rd_wr_ne _ _ _ (by rw [hf]; decide)).trans h.owned
  valid := by
    obtain ⟨r, lo, n⟩ := f
    subst hf
    exact (State.rd_wr_disjoint _ ⟨Reg.SPN_STAT, lo, n⟩ F.SPN_STAT_SPDVALID _ (by decide) hd).trans h.valid
  timed := h.timed

/-- Another field of MIR's status. -/
theorem wrMirStat (h : Calm s t) {f : RegField} (v : Nat) (hf : f.reg = Reg.MIR_STAT := by rfl)
    (hd : 30 ≤ f.lo ∨ f.lo + f.width ≤ 29 := by decide) : Calm s (t.wr f v) where
  regs b hb := (State.reg_setReg_ne _ (fun e => absurd (hf ▸ e ▸ hb) (by decide : Reg.MIR_STAT ∉ stillRegs)) _).trans (h.regs b hb)
  owned := by
    obtain ⟨r, lo, n⟩ := f
    subst hf
    exact (State.rd_wr_disjoint _ ⟨Reg.MIR_STAT, lo, n⟩ F.MIR_STAT_OWNED _ (by decide) hd).trans h.owned
  valid := (State.rd_wr_ne _ _ _ (by rw [hf]; decide)).trans h.valid
  timed := h.timed

theorem ite {c : Prop} [Decidable c] {a b : State} (ha : Calm s a) (hb : Calm s b) : Calm s (if c then a else b) := by split <;> assumption

theorem foldl {α : Type} {f : State → α → State} : ∀ (l : List α), (∀ a ∈ l, ∀ t, Calm s t → Calm s (f t a)) → ∀ {t}, Calm s t → Calm s (l.foldl f t)
  | [], _, _, h => h
  | a :: l, hf, _, h => foldl l (fun b hb => hf b (List.mem_cons_of_mem _ hb)) (hf a List.mem_cons_self _ h)

theorem forEach {α : Type} {f : α → State → State} (l : List α) (hf : ∀ a ∈ l, ∀ t, Calm s t → Calm s (f a t)) (h : Calm s t) :
    Calm s (forEach l f t) := foldl l hf h

/-- The state that a pair carries. -/
theorem snd {α : Type} {p : α × State} {a : α} (e : p = (a, t)) (h : Calm s p.2) : Calm s t := by subst e; exact h

end Calm

end Sys2Proof.Machine

/-! ## The registers of a sample's operations -/

namespace Sys2Proof.Machine

set_option Elab.async false

theorem evPend_aside : ∀ k < 4, Reg.SEQ_EVT_PEND k ∉ heldRegs := by decide
theorem errCount_aside : ∀ k < 24, Reg.TSK_EC_CNT k ∉ heldRegs := by decide
theorem tskRes_aside : ∀ k < 16, Reg.TSK_RES k ∉ heldRegs := by decide
theorem decWaste_aside : ∀ l : DecLane, Reg.DEC_L_WST_LO l ∉ heldRegs ∧ Reg.DEC_L_WST_LO l + 4 ∉ heldRegs := by decide
theorem lddCtrl_aside : ∀ b : Beam, Reg.LDD_CTRL (beamChan b) ∉ heldRegs := by decide
theorem inStat_aside : ∀ h : Head, ∀ k < 13, Reg.ACQ_IN_STAT (13 * h.val + k) ∉ heldRegs := by decide
theorem pllStat_aside : ∀ h : Head, Reg.ACQ_PLL_STAT h ∉ heldRegs := by decide
theorem modeField_aside : ∀ g : Group, (modeField g).reg ∉ heldRegs := by decide
theorem srvWord_aside : ∀ g : Head, ∀ j < 3, Reg.SRV_G_U g j ∉ heldRegs ∧ Reg.SRV_G_E g j ∉ heldRegs ∧ Reg.SRV_G_TGT g j ∉ heldRegs ∧
    Reg.SRV_G_NEXT g j ∉ heldRegs ∧ Reg.SRV_G_UOPEN g j ∉ heldRegs := by decide
theorem srvStat_aside : ∀ g < 4, Reg.SRV_G_STAT g ∉ heldRegs ∧ Reg.SRV_G_SAT_CNT g ∉ heldRegs ∧ Reg.SRV_G_HOLD_CNT g ∉ heldRegs := by decide
theorem srvSmall_aside : ∀ c < 7, Reg.SRV_S_U c ∉ heldRegs ∧ Reg.SRV_S_E c ∉ heldRegs ∧ Reg.SRV_S_TGT c ∉ heldRegs := by decide
theorem srvLane_aside : ∀ l : Fin 5, Reg.SRV_LANE_STAT l ∉ heldRegs ∧ Reg.SRV_LANE_RES_CNT l ∉ heldRegs := by decide
theorem lsvStat_aside : ∀ h : Head, Reg.LSV_H_STAT h ∉ heldRegs := by decide
theorem lsvSled_aside : ∀ h : Head, Reg.LSV_S_STAT (headSled h) ∉ heldRegs := by decide
theorem sld_aside : ∀ n : Stepper, Reg.SLD_STAT n ∉ heldRegs ∧ Reg.SLD_POS n ∉ heldRegs ∧ Reg.SLD_TGT n ∉ heldRegs ∧
    Reg.SLD_G_MOVE_CNT (sldGroup n) ∉ heldRegs ∧ Reg.SLD_G_STALL_CNT (sldGroup n) ∉ heldRegs := by decide

/-- The coefficient memories lie above the registers kept, and below SPN's. -/
theorem srvMem_aside (h : Head) {w : Nat} (hw : w < 192) : Reg.SRV_G_MEM h w ∉ heldRegs := by
  have hm : ∀ a ∈ heldRegs, a < 0x101000 ∨ 0x110000 ≤ a := by decide
  intro hmem
  have hb := hm _ hmem
  have hh := h.isLt
  simp only [Reg.SRV_G_MEM] at hb
  omega

namespace Calm

set_option Elab.async false

variable {s t : State}

/-! ### Telling, and the task's end -/

theorem attention (h : Calm s t) (blk : Nat) : Calm s (t.attention blk) := h.noted (Noted.refl.attention blk)
theorem mirrSend (h : Calm s t) (k : Nat) (b : List Byte) : Calm s (t.mirrSend k b) := h.noted (Noted.refl.mirrSend k b)
theorem pmcLane (h : Calm s t) (cls l n : Nat) : Calm s (t.pmcLane cls l n) := h.noted (Noted.refl.pmcLane cls l n)
theorem pmcRise (h : Calm s t) (sig : Nat) (a b : Bool) : Calm s (t.pmcRise sig a b) := h.noted (Noted.refl.pmcRise sig a b)
theorem sendFlit (h : Calm s t) (p : Fin 3) (f : Flit) : Calm s (t.sendFlit p f) := h.noted (Noted.refl.sendFlit p f)

theorem event (h : Calm s t) (n : Nat) (hn : n < 128 := by decide) : Calm s (t.event n) := by
  unfold State.event
  exact ite h.bump (h.setReg _ (evPend_aside _ (by omega)))

theorem touchLines (h : Calm s t) (a n : Nat) (w : Bool) (m : Nat) : Calm s (t.touchLines a n w m) :=
  h.trans (of_moves (touchLines_moves t a n w m) rfl (by decide))

theorem draw (h : Calm s t) : Calm s t.draw.2 := h.upd
theorem clock (h : Calm s t) : Calm s t.clock := by
  unfold State.clock
  exact h.draw.draw.bump64 _

theorem axlAsk (h : Calm s t) (k u e c : Nat) : Calm s (t.axlAsk k u e c) := h.upd

theorem countErr (h : Calm s t) (cls : Nat) : Calm s (t.countErr cls) := by
  unfold State.countErr
  split
  next k hk => exact h.bump (errCount_aside k (List.idxOf?_eq_some_iff.mp hk).1)
  next => exact h

theorem hsDrop (h : Calm s t) : Calm s t.hsDrop := ite h (wr (upd h) _)
theorem calStop (h : Calm s t) : Calm s t.calStop := ite ((h.put _).put _) h

theorem waste (h : Calm s t) (l : DecLane) (n : Nat) : Calm s (t.waste l n) :=
  (h.bump64 n (decWaste_aside l).1 (decWaste_aside l).2).pmcLane _ _ _

theorem wasteRunning (h : Calm s t) (l : DecLane) : Calm s (t.wasteRunning l) := h.draw.waste l _

theorem readLevels (h : Calm s t) : Calm s t.readLevels :=
  foldl _ (fun b _ u hu => by
    split
    · exact hu.wr _ (lddCtrl_aside b)
    · exact hu) h

theorem trkTarget (h : Calm s t) (g : Head) (v : Int) : Calm s (t.trkTarget g v) := by
  have hw : ∀ j < 3, Reg.SRV_G_NEXT g j ∉ heldRegs := fun j hj => (srvWord_aside g j hj).2.2.2.1
  exact upd (((h.setReg _ (hw 0 (by decide))).setReg _ (hw 2 (by decide))).setInt _ (hw 1 (by decide)))

theorem trkBack (h : Calm s t) (g : Head) : Calm s (t.trkBack g) := by
  unfold State.trkBack
  split
  · exact ite (h.trkTarget g _) h
  · exact h

theorem discardWork (h : Calm s t) : Calm s t.discardWork := by
  unfold State.discardWork
  extract_lets waste kat s1 s2 s3
  have hwaste : ∀ l o u, Calm s u → Calm s (waste u l o) := fun l o u hu => by
    cases o with
    | none => exact hu
    | some r => exact ite (hu.waste l _) hu
  clear_value waste
  have h1 : Calm s s1 := foldl _ (fun l _ u hu => hwaste l _ _ (hwaste l _ u hu)) h.readLevels
  have h2 : Calm s s2 := foldl _ (fun l _ u hu => ite (hu.wasteRunning l) hu) h1
  have h3 : Calm s s3 := foldl _ (fun g _ u hu => hu.trkBack g) h2
  clear_value s3
  exact upd h3

theorem logError (h : Calm s t) (cls detail low err : Nat) : Calm s (t.logError cls detail low err) := bumpF (wr (upd h) _)

theorem setRes (h : Calm s t) (r : List Word) : Calm s (t.setRes r) :=
  foldl _ (fun k hk _ hu => hu.setReg _ (tskRes_aside k (List.mem_range.mp hk))) h

theorem sendRecord (h : Calm s t) : Calm s t.sendRecord := by
  unfold State.sendRecord State.sendMWR
  exact ite (upd (foldl _ (fun f _ u hu => hu.sendFlit _ f) h)) h

theorem flushAll (h : Calm s t) : Calm s t.flushAll := by
  unfold State.flushAll
  exact upd (foldl _ (fun p _ u hu => ite (hu.sendFlit p _) hu) h)

theorem taskError (h : Calm s t) (cls : Nat) (err : Option Nat) (detail : Nat) : Calm s (t.taskError cls err detail) := by
  unfold State.taskError
  extract_lets s1 s2 s3 low e s4 s5 s6 s7 s8 s9 s10 tsk s11 s12
  have h1 : Calm s s1 := h.countErr cls
  have h3 : Calm s s3 := clock (ite h1.hsDrop h1)
  have h7 : Calm s s7 := (((((((h3.wr _).wr _).put _).setReg _).setReg _).setReg _).put _).bump
  have h10 : Calm s s10 := (h7.discardWork.calStop.logError _ _ _ _).setRes _
  have h11 : Calm s s11 := upd h10
  have h12 : Calm s s12 := ite (h11.event _) (ite (h11.event _) h11)
  exact ite h12.sendRecord.flushAll h1

/-! ### The library bus and the pair -/

theorem lbsMessage (h : Calm s t) (p : Fin 8) (typ : Nat) (body : List Byte) : Calm s (t.lbsMessage p typ body).2 := by
  unfold State.lbsMessage
  extract_lets src dst
  split
  next n u e =>
    have hu : Calm s u := snd e (h.setPair _)
    extract_lets msg
    split
    · exact (bump (upd hu)).wr _
    · exact h

theorem report (h : Calm s t) (ps : List (Fin 8)) (typ : Nat) (body : List Byte) : Calm s (t.report ps typ body) :=
  foldl _ (fun p _ u hu => by
    have hm := hu.lbsMessage p typ body
    exact ite hm (upd hm)) h

theorem redUpdate (h : Calm s t) : Calm s t.redUpdate := by
  unfold State.redUpdate
  extract_lets r s1
  have h1 : Calm s s1 := ((h.wrMirStat _).event _).report _ _ _
  exact ite h (ite (h1.attention _) h1)

theorem modMir (h : Calm s t) (f : Mir → Mir) : Calm s (t.modMir f) := h.upd

theorem degrade (h : Calm s t) : Calm s t.degrade :=
  ite (h.modMir _) ((wrMirStat (h.modMir _) _).bump.redUpdate)

end Calm

end Sys2Proof.Machine

/-! ## What the parts of a sample leave alone -/

namespace Sys2Proof.Machine.Calm

set_option Elab.async false

variable {s t : State}

/-! ### Changes of structures -/

theorem modLsv (h : Calm s t) (g : Head) (f : Lsv → Lsv) : Calm s (t.modLsv g f) := h.upd
theorem modSld (h : Calm s t) (n : Stepper) (f : Sld → Sld) : Calm s (t.modSld n f) := h.upd
theorem modSpn (h : Calm s t) (f : Spn → Spn) : Calm s (t.modSpn f) := h.upd
theorem modGroup (h : Calm s t) (g : Group) (f : SrvGroup → SrvGroup) : Calm s (t.modGroup g f) := h.upd
theorem commitSet (h : Calm s t) (g : Head) : Calm s (t.commitSet g) := h.upd
theorem commitGroup (h : Calm s t) (g : Nat) : Calm s (t.commitGroup g) := h.upd
theorem presetGroup (h : Calm s t) (g : Group) (src : Option (List (List Byte))) : Calm s (t.presetGroup g src) := h.upd
theorem writeMode (h : Calm s t) (g : Group) (m : Nat) : Calm s (t.writeMode g m) := h.wr _ (modeField_aside g)

theorem lsvPut (h : Calm s t) {lo n : Nat} (g : Head) (v : Nat) : Calm s (t.wr ⟨Reg.LSV_H_STAT g, lo, n⟩ v) := h.wr _ (lsvStat_aside g)
theorem sldPut (h : Calm s t) {lo w : Nat} (n : Stepper) (v : Nat) : Calm s (t.wr ⟨Reg.SLD_STAT n, lo, w⟩ v) := h.wr _ (sld_aside n).1
theorem srvPut (h : Calm s t) {lo n : Nat} {g : Nat} (hg : g < 4) (v : Nat) : Calm s (t.wr ⟨Reg.SRV_G_STAT g, lo, n⟩ v) :=
  h.wr _ (srvStat_aside g hg).1

theorem loadSet (h : Calm s t) (g : Head) (b : Bool) : Calm s (t.loadSet g b) := by
  unfold State.loadSet
  extract_lets a s1 s2
  have h2 : Calm s s2 := forEach _ (fun w hw _ hu => hu.setReg _ (srvMem_aside g (List.mem_range.mp hw))) (h.touchLines _ _ _ _)
  clear_value s2
  exact upd h2

/-! ### Before the spindle: the quadrants, MIR and the steppers -/

theorem quadKeep (h : Calm s t) (x : SampleIn) (q : Quads) : Calm s (t.quadKeep x q) :=
  foldl _ (fun g _ _ hu => forEach _ (fun k hk _ hv => hv.put _ (inStat_aside g k (List.mem_range.mp hk))) hu) (upd h)

theorem rateCheck (h : Calm s t) : Calm s t.rateCheck := foldl _ (fun g _ _ hu => ite (hu.put _ (pllStat_aside g)) hu) h

theorem spnTarget (h : Calm s t) (rpm : Nat) : Calm s (t.spnTarget rpm) := ite h ((h.wr _).wrSpnStat _)

theorem mirApply (h : Calm s t) (parts : List (List Byte)) : Calm s (t.mirApply parts) := by
  unfold State.mirApply
  extract_lets modes st s1 s2 s3 s4
  have h1 : Calm s s1 := foldl _ (fun g _ _ hu => hu.writeMode g _) h
  have h2 : Calm s s2 := foldl _ (fun g _ u hu => by
    have hset : Calm s (if u.mir.setT.getLsbD g.val = st.testBit (16 + g.val) then u else (u.loadSet g (st.testBit (16 + g.val))).commitSet g) :=
      ite hu ((hu.loadSet g _).commitSet g)
    exact (((hset.pmcRise _ _ _).modLsv g _).lsvPut g _).lsvPut g _) h1
  have h4 : Calm s s4 := (h2.modMir _).spnTarget _
  exact foldl _ (fun n _ _ hu => hu.setReg _ (sld_aside n).2.1) h4

theorem mirInstant (h : Calm s t) : Calm s t.mirInstant := by
  unfold State.mirInstant
  extract_lets s1 s2 s3 s4
  have h2 : Calm s s2 := (h.modMir _).bump
  have h3 : Calm s s3 := h2.modMir _
  have h4 : Calm s s4 := h2.bump.modMir _
  refine ite (ite ?_ (ite h4.degrade h4)) (h.modMir _)
  split
  · exact h3.mirApply _
  · exact h3

theorem sldFollow (h : Calm s t) (n : Stepper) (ns : Nat) : Calm s (t.sldFollow n ns) := by
  unfold State.sldFollow
  extract_lets
  exact (h.setInt _ (sld_aside n).2.1).modSld n _

theorem sldPath (h : Calm s t) (n : Stepper) (want : Int) (ns : Nat) : Calm s (t.sldPath n want ns) :=
  ite (h.setInt _ (sld_aside n).2.1) (h.setInt _ (sld_aside n).2.1)

theorem sldSample (h : Calm s t) (pos : List Word) (ns : Nat) : Calm s (t.sldSample pos ns) :=
  foldl _ (fun n _ _ hu => ite hu (ite (hu.sldFollow n ns) (by
    split
    · exact hu.sldPath n _ ns
    · exact hu))) h

/-! ### The spindle -/

theorem spnEnd (h : Calm s t) (cls : Nat) : Calm s (t.spnEnd cls) :=
  ite h (((((h.modSpn _).wrSpnStat _).wrSpnStat _).wrSpnStat _).event _)

theorem spnGo (h : Calm s t) (k : Nat) : Calm s (t.spnGo k) := by
  unfold State.spnGo
  extract_lets s1 s2 s3
  have h1 : Calm s s1 := h.wrSpnStat _
  have h2 : Calm s s2 := ite h1 (h1.wrSpnStat _)
  have h3 : Calm s s3 := ite (h2.wrSpnStat _) h2
  exact ite (h3.writeMode _ _) h3

theorem brakeOwn (h : Calm s t) : Calm s t.brakeOwn := ite (((h.spnGo 6).modSpn _).spnEnd _) ((h.spnGo 6).modSpn _)

theorem loopSample (h : Calm s t) (ns : Nat) : Calm s (t.loopSample ns) := by
  unfold State.loopSample
  refine ite ?_ h
  extract_lets r s1 s2 closed
  have h2 : Calm s s2 := (((h.setInt _).modSpn _).setInt _).setInt _
  exact ite h2.brakeOwn (h2.modSpn _)

theorem parkLatch (h : Calm s t) : Calm s t.parkLatch :=
  ite (ite ((h.spnEnd _).modSpn _) (ite ((h.setReg _).wrSpnStat _) h)) h

theorem setVector (h : Calm s t) (v : Int) : Calm s (t.setVector v) := h.modSpn _

theorem vectorSample (h : Calm s t) (ns : Nat) : Calm s (t.vectorSample ns) := by
  unfold State.vectorSample
  extract_lets v decel q s1
  have h1 : Calm s s1 := (h.setVector _).modSpn _
  exact ite (h.setVector _) (ite (ite (h.setVector _) (ite (((h1.spnGo 8).modSpn _).spnEnd 0) h1)) h)

theorem pwmPeriod (h : Calm s t) (qmax : Nat) : Calm s (t.pwmPeriod qmax) := by
  unfold State.pwmPeriod
  extract_lets want q s1 b q'
  have h1 : Calm s s1 := ite h.bump h
  exact ite (h1.modSpn _) (ite (h1.modSpn _) (h1.modSpn _))

theorem pwmSample (h : Calm s t) (qmax ns : Nat) : Calm s (t.pwmSample qmax ns) :=
  forEach _ (fun _ _ _ hu => hu.pwmPeriod qmax) (h.modSpn _)

/-! ### SRV -/

theorem laneError (h : Calm s t) (l : Fin 5) : Calm s (t.laneError l) := by
  unfold State.laneError
  extract_lets s1 n win es ask srv s2
  have h2 : Calm s s2 := upd (h.bump (srvLane_aside l).2)
  exact ite (h2.axlAsk _ _ _ _) h2

theorem spareError (h : Calm s t) (l : Fin 5) : Calm s (t.spareError l) := ite h (((h.put _).put _ (srvLane_aside l).1).axlAsk _ _ _ _)

theorem countErrors (h : Calm s t) (errs : List ResErr) (d : Bool) : Calm s (t.countErrors errs d) := by
  unfold State.countErrors
  extract_lets sp s1
  have h1 : Calm s s1 := foldl _ (fun e _ _ hu => by
    split
    · exact ite ((hu.bump (srvLane_aside _).2).spareError _) (hu.laneError _)
    · exact hu) h
  exact ite (h1.laneError _) h1

theorem poisonGroup (h : Calm s t) (g : Group) : Calm s (t.poisonGroup g) := by
  unfold State.poisonGroup
  extract_lets s1 s2
  have h2 : Calm s s2 := by
    unfold s2
    split
    next hg => exact (h.writeMode g 3).srvPut hg _
    next => exact h.writeMode g 3
  exact h2.taskError _ _ _

theorem headSample (h : Calm s t) (hl : Holds) (quads : List (List Int)) (stale : List Bool) (g : Head) : Calm s (t.headSample hl quads stale g) := by
  have hg := g.isLt
  obtain ⟨_, hsat, hhold⟩ := srvStat_aside g hg
  have hword := fun j hj => srvWord_aside g j (List.mem_range.mp hj)
  unfold State.headSample
  extract_lets gg mode st s1 s2 s3 poison heldOut heldObs x e us u clips xr xn usat s4 s5 s6 s7 s8 s9 s10
  have h2 : Calm s s2 := srvPut (ite h.bump h) hg _
  have h3 : Calm s s3 := forEach _ (fun j hj _ hu => hu.setInt _ (hword j hj).1) h2
  have h5 : Calm s s5 := forEach _ (fun j hj _ hu => hu.setInt _ (hword j hj).2.1) (forEach _ (fun j hj _ hu => hu.setInt _ (hword j hj).1) h2)
  have h7 : Calm s s7 := ((h5.srvPut hg _).bumpBy _ hsat).srvPut hg _
  have h8 : Calm s s8 := (h7.pmcRise _ _ _).srvPut hg _
  have h9 : Calm s s9 := ite (h8.bump hhold) h8
  have h10 : Calm s s10 := h9.modGroup _ _
  exact ite (((h3.srvPut hg _).srvPut hg _).srvPut hg _) (ite (h10.poisonGroup _) h10)

theorem holdCounts (h : Calm s t) (hl : Holds) : Calm s (t.holdCounts hl) := by
  unfold State.holdCounts
  extract_lets mx used n due srv s1
  have h1 : Calm s s1 := h.upd
  refine foldl _ (fun g _ u hu => ?_) h1
  extract_lets k due' told wrv u1 u2
  have hu1 : Calm s u1 := hu.upd
  have hu2 : Calm s u2 := ite (hu1.axlAsk _ _ _ _) hu1
  exact ite (hu2.taskError _ _ _) hu2

theorem laneRetire (h : Calm s t) (l : Fin 5) : Calm s (t.laneRetire l) :=
  taskError ((((((h.wr _).wr _).put _ (srvLane_aside l).1).put _ (srvLane_aside l).1)).axlAsk _ _ _ _) _ _ _

theorem lanesLeave (h : Calm s t) : Calm s t.lanesLeave := foldl _ (fun l _ _ hu => hu.laneRetire l) (upd h)

theorem modeNow (h : Calm s t) (g : Group) : Calm s (t.modeNow g) := by
  unfold State.modeNow
  extract_lets m s1
  refine ite h ?_
  have h1 : Calm s s1 := h.modGroup _ _
  split
  next hg => exact h1.srvPut hg _
  next => exact h1

theorem presetOne (h : Calm s t) (p : BitVec 11 × Bool) : Calm s (t.presetOne p) :=
  ite (h.put _) (foldl _ (fun g _ _ hu => ite (hu.presetGroup g _) hu) h)

theorem presetNow (h : Calm s t) : Calm s t.presetNow := foldl _ (fun p _ _ hu => hu.presetOne p) (upd h)

theorem swapLaneNow (h : Calm s t) : Calm s t.swapLaneNow := by
  unfold State.swapLaneNow
  split
  · exact h
  next l _ =>
    extract_lets sp srv s1 u s2 s3
    have h1 : Calm s s1 := h.upd
    split
    next hsp =>
      have hlane : ∀ k < 5, Reg.SRV_LANE_STAT k ∉ heldRegs := by decide
      have h3 : Calm s s3 := (((h1.wr _).wr _).put _ (srvLane_aside l).1).put _ (srvLane_aside l).1
      exact (h3.put _ (hlane sp hsp)).put _ (hlane sp hsp)
    next => exact h1

theorem targetNow (h : Calm s t) (g : Group) : Calm s (t.targetNow g) := by
  unfold State.targetNow
  refine ite ?_ h
  extract_lets s1 s2
  have h1 : Calm s s1 := h.modGroup _ _
  have h2 : Calm s s2 := by
    unfold s2
    split
    next hg => exact forEach _ (fun j hj _ hu => hu.setReg _ (srvWord_aside ⟨g.val, hg⟩ j (List.mem_range.mp hj)).2.2.1) h1
    next hg => exact h1.setReg _ (srvSmall_aside (g.val - 4) (by omega)).2.2
  exact ite (h2.wr _ (modeField_aside g)) h2

theorem instant (h : Calm s t) : Calm s t.instant := by
  unfold State.instant
  extract_lets c s1 srv s2 s3
  have h1 : Calm s s1 := foldl _ (fun g _ _ hu => ite (hu.commitGroup g) hu) h
  have h2 : Calm s s2 := h1.upd
  have h3 : Calm s s3 := h2.swapLaneNow.lanesLeave.presetNow
  exact foldl _ (fun g _ _ hu => (hu.targetNow g).modeNow g) h3

theorem smallOut (h : Calm s t) (c : Fin 7) : Calm s (t.smallOut c) := h.setInt _ (srvSmall_aside c c.isLt).1

theorem smallSample (h : Calm s t) (hl : Holds) (quads : List (List Int)) (c : Fin 7) : Calm s (t.smallSample hl quads c) := by
  unfold State.smallSample
  extract_lets g q cfg n poison es us x r xn s1 ahead
  have h1 : Calm s s1 := h.setInt _ (srvSmall_aside c c.isLt).2.1
  exact ite h (ite (h1.poisonGroup g) (ite h1 (h1.modGroup g _)))

end Sys2Proof.Machine.Calm

/-! ## What the loop supervisors' sample leaves alone -/

namespace Sys2Proof.Machine

set_option Elab.async false

theorem sldGroupStat_aside : ∀ n : Stepper, Reg.SLD_G_STAT (sldGroup n) ∉ heldRegs := by decide

/-- A refused command of a channel is told in its group's status (R271). -/
theorem sldRefusal_reg {s : State} {n : Stepper} {op : Nat} {b : Bool} {f : RegField} (hf : s.sldRefusal n op b = some f) :
    f.reg = Reg.SLD_G_STAT (sldGroup n) := by
  simp only [State.sldRefusal] at hf
  repeat' split at hf
  all_goals cases hf
  all_goals rfl

namespace Calm

set_option Elab.async false

variable {s t : State}

theorem confirmMode (h : Calm s t) (g : Head) : Calm s (t.confirmMode g) := by
  unfold State.confirmMode
  split
  · exact h.writeMode _ _
  · exact h.writeMode _ _
  · exact h

theorem lsvGo (h : Calm s t) (g : Head) (k : Nat) : Calm s (t.lsvGo g k) := by
  unfold State.lsvGo
  extract_lets s1 rec_
  have h1 : Calm s s1 := h.modLsv g _
  exact (h1.lsvPut g _).pmcRise _ _ _

theorem confirm (h : Calm s t) (g : Head) : Calm s (t.confirm g) :=
  ((lsvPut ((h.loadSet g true).commitSet g) g _).lsvGo g 5).confirmMode g

theorem driveCoil (h : Calm s t) (g : Head) {j : Nat} (u : Int) (hj : j < 3 := by decide) : Calm s (t.driveCoil g j u) :=
  h.setInt _ (srvWord_aside g j hj).2.2.1

theorem setOpen (h : Calm s t) (g : Head) {j : Nat} (u : Int) (hj : j < 3 := by decide) : Calm s (t.setInt (Reg.SRV_G_UOPEN g j) u) :=
  h.setInt _ (srvWord_aside g j hj).2.2.2.2

theorem lsvDone (h : Calm s t) (g : Head) (cls : Nat) : Calm s (t.lsvDone g cls) :=
  event ((((lsvPut (h.modLsv g _) g _).lsvPut g _).lsvPut g _).wr _) _ (by have := g.isLt; simp only [Ev.loopDone]; omega)

theorem lsvFailed (h : Calm s t) (g : Head) (cls : Nat) : Calm s (t.lsvFailed g cls) :=
  taskError (((((h.writeMode _ _).lsvPut g _).modLsv g _).lsvGo g 11).lsvDone g cls) _ _ _

theorem lsvStalled (h : Calm s t) (g : Head) (cls : Nat) : Calm s (t.lsvStalled g cls) := by
  unfold State.lsvStalled
  extract_lets o fail s1
  have hfail : ∀ u k c, Calm s u → Calm s (fail u k c) := fun u k c hu => ite (hu.lsvFailed k c) (hu.lsvDone k c)
  clear_value fail
  have h1 : Calm s s1 := ite (hfail _ _ _ h) h
  clear_value s1
  split
  · exact ite (h1.taskError _ _ _) h1
  · exact hfail _ _ _ h1
  · exact hfail _ _ _ h1

theorem sldDone (h : Calm s t) (n : Stepper) (cls : Nat) : Calm s (t.sldDone n cls) :=
  event (((h.sldPut n _).sldPut n _).sldPut n _) _ (by have := n.isLt; simp only [Ev.sldDone]; omega)

theorem sldBegin (h : Calm s t) (n : Stepper) (op : Nat) : Calm s (t.sldBegin n op) := by
  unfold State.sldBegin
  extract_lets s1 s2 s3 s4 e s5
  have h2 : Calm s s2 := ((((h.sldPut n _).sldPut n _).sldPut n _).modSld n _)
  have h5 : Calm s s5 := modSld ((((h2.pmcRise _ _ _).sldPut n _).sldPut n _)) n _
  exact ite ((h2.sldPut n _).sldDone n 0) (ite ((h2.sldPut n _).sldDone n 0) (ite (h5.bump (sld_aside n).2.2.2.1) h5))

theorem sldStall (h : Calm s t) (n : Stepper) : Calm s (t.sldStall n) :=
  sldDone (bumpF ((h.sldPut n _).sldPut n _) (sld_aside n).2.2.2.2) n _

theorem supMove (h : Calm s t) (n : Stepper) (g : Head) (target : Int) : Calm s (t.supMove n g target) := by
  unfold State.supMove
  split
  next f hf => exact (h.put _ (sldRefusal_reg hf ▸ sldGroupStat_aside n)).lsvStalled g _
  next =>
    extract_lets s1
    have h1 : Calm s s1 := (h.setInt _ (sld_aside n).2.2.1).sldBegin n 1
    exact ite (h1.modSld n _) (((h1.sldStall n).sldPut n _).lsvStalled g _)

theorem samove (h : Calm s t) (g : Head) (target : Int) : Calm s (t.samove g target) :=
  (((h.modLsv g _).writeMode _ _).lsvGo g 1).supMove _ g target

theorem acquireStage (h : Calm s t) (g : Head) (layer : Nat) : Calm s (t.acquireStage g layer) := (h.modLsv g _).samove g _

theorem fsearch (h : Calm s t) (g : Head) : Calm s (t.fsearch g) := by
  unfold State.fsearch
  extract_lets s1 s2 r s3 s4
  have h2 : Calm s s2 := ((h.loadSet g false).setOpen g 0).setOpen g 0
  have h4 : Calm s s4 := ((h2.modLsv g _).lsvPut g _).lsvPut g _
  exact (h4.writeMode _ _).lsvGo g 2

theorem acquireFailed (h : Calm s t) (g : Head) (cls : Nat) : Calm s (t.acquireFailed g cls) := by
  unfold State.acquireFailed
  extract_lets s1 l
  have h1 : Calm s s1 := h.modLsv g _
  refine ite (h1.fsearch g) ?_
  split
  · exact ite ((h1.modLsv g _).acquireStage g _) (h1.lsvFailed g _)
  · exact h1.lsvFailed g _

theorem innerFailed (h : Calm s t) (g : Head) (cls : Nat) : Calm s (t.innerFailed g cls) := by
  unfold State.innerFailed
  extract_lets l
  split
  · exact ite ((h.modLsv g _).acquireStage g _) (h.lsvFailed g _)
  · exact h.lsvFailed g _

theorem singleJumpFailed (h : Calm s t) (g : Head) : Calm s (t.singleJumpFailed g) := ite (h.innerFailed g _) ((h.modLsv g _).fsearch g)

/-- A focus search that fails fails its stage; only a seek's own states start another move. -/
theorem stageFailed (h : Calm s t) (g : Head) (foc : Bool) (hst : (t.sup g).st = 2) : Calm s (t.stageFailed g foc) := by
  unfold State.stageFailed
  extract_lets l
  have hl : ¬(l.st = 4 ∨ l.st = 5) := by
    show ¬((t.sup g).st = 4 ∨ (t.sup g).st = 5)
    omega
  split
  · exact h.acquireFailed g _
  · exact h.singleJumpFailed g
  · exact h.innerFailed g _
  · rw [if_neg hl]
    exact h.innerFailed g _
  · exact h.lsvFailed g _
  · exact h

theorem fsettle (h : Calm s t) (g : Head) : Calm s (t.fsettle g) :=
  ((lsvPut ((h.driveCoil g 0).driveCoil g 0) g _).modLsv g _).lsvGo g 3

theorem searchSample (h : Calm s t) (g : Head) (sum e0 : Int) (hst : (t.sup g).st = 2) : Calm s (t.searchSample g sum e0) := by
  unfold State.searchSample
  extract_lets l rate lim above curves want zero s1 down r
  have h1 : Calm s s1 := h.modLsv g _
  have hst1 : (s1.sup g).st = 2 := by
    simp only [s1, State.sup, State.modLsv] at hst ⊢
    simpa using hst
  exact ite (((h1.writeMode _ _).commitSet g).fsettle g) (ite (h1.stageFailed g true hst1) ((h1.setOpen g _).modLsv g _))

theorem tpullSample (h : Calm s t) (g : Head) (n : Nat) (c : List Nat) : Calm s (t.tpullSample g n c) :=
  ite ((h.modLsv g _).confirm g) (h.modLsv g _)

theorem bjumpSample (h : Calm s t) (g : Head) (n : Nat) : Calm s (t.bjumpSample g n) := by
  unfold State.bjumpSample
  extract_lets l n' s1 amp
  have h1 : Calm s s1 := h.modLsv g _
  exact ite ((h1.modLsv g _).confirm g) (ite ((h1.driveCoil g _).modLsv g _) h1)

theorem ljumpSample (h : Calm s t) (g : Head) (sum e0 : Int) : Calm s (t.ljumpSample g sum e0) := by
  unfold State.ljumpSample
  extract_lets l above fell peak zero s1 amp deeper s2 s3 s4
  have h1 : Calm s s1 := h.modLsv g _
  have h2 : Calm s s2 := ((h1.writeMode _ _).commitSet g).lsvPut g _
  have h3 : Calm s s3 := (h2.driveCoil g _).driveCoil g _
  have h4 : Calm s s4 := (h3.modLsv g _).lsvGo g 1
  exact ite ((h1.setOpen g _).modLsv g _) (ite (h4.supMove _ g _) h1)

theorem lsvJudge (h : Calm s t) (g : Head) (sum : Int) : Calm s (t.lsvJudge g sum) := h.upd

theorem lsvSample (h : Calm s t) (y : Quads) (g : Head) : Calm s (t.lsvSample y g) := by
  unfold State.lsvSample
  extract_lets sum s1 l e0 crossings
  have h1 : Calm s s1 := h.lsvJudge g _
  refine ite h1 ?_
  split
  next hst => exact h1.searchSample g _ _ hst
  next => exact ite (h1.modLsv g _) h1
  next => exact h1.tpullSample g _ _
  next => exact h1.ljumpSample g _ _
  next => exact h1.bjumpSample g _
  next => exact ite (h1.bumpBy _ (lsvSled_aside g)) h1
  next => exact h1

theorem supSamples (h : Calm s t) (y : Quads) : Calm s (t.supSamples y) := foldl _ (fun g _ _ hu => hu.lsvSample y g) h

/-! ### The sample record -/

theorem sendPart (h : Calm s t) (vel : List Nat) (k : Nat) : Calm s (t.sendPart vel k) := by
  unfold State.sendPart State.consumeSram
  refine ite ?_ (h.mirrSend _ _)
  exact upd ((h.bump (a := Reg.MIC_S_CONS_CNT)).noted (Noted.refl.pmcEvent _ _ _ _ _))

theorem foldlSnd {α β : Type} {f : β × State → α → β × State} (hf : ∀ p a, Calm s p.2 → Calm s (f p a).2) :
    ∀ (l : List α) (p : β × State), Calm s p.2 → Calm s (l.foldl f p).2
  | [], _, h => h
  | a :: l, p, h => foldlSnd hf l (f p a) (hf p a h)

theorem velocities (h : Calm s t) : Calm s t.velocities.2 :=
  foldlSnd (fun p n hp => by
    dsimp only
    split
    · exact hp
    · split
      · exact hp
      · exact hp.draw) _ _ h

theorem sendSample (h : Calm s t) : Calm s t.sendSample := by
  unfold State.sendSample
  refine ite ?_ h
  split
  next vel u e =>
    have hu : Calm s u := snd e h.velocities
    exact bump (foldl _ (fun k _ _ hv => hv.sendPart vel k) hu)

end Calm

end Sys2Proof.Machine

/-! ## A servo sample, stage by stage -/

namespace Sys2Proof.Machine

set_option Elab.async false

variable {s t u : State} {x : SampleIn} {i : Nat}

/-- What a sample with interval `i` shows of itself. -/
structure State.Sampled (s t : State) (x : SampleIn) (i : Nat) : Prop where
  interval : t.reg Reg.ANG_SRV_INT = BitVec.ofNat 32 (i * 4 / 5)
  timed    : t.ang.timed = (s.headsLost || s.floorOn)
  speed    : t.reg Reg.SPN_SPEED = s.speedOf x
  valid    : t.flag F.SPN_STAT_SPDVALID = s.speedGood x

theorem State.Sampled.calm (h : s.Sampled t x i) (k : Calm t u) : s.Sampled u x i :=
  ⟨(k.regs _ (by decide)).trans h.interval, k.timed.trans h.timed, (k.regs _ (by decide)).trans h.speed, (congrArg (· != 0) k.valid).trans h.valid⟩

/-- What SRV goes by at a sample: its enable and ownership; and the samples counted. -/
structure SameSrv (s t : State) : Prop where
  en    : t.flag F.SRV_CTRL_EN = s.flag F.SRV_CTRL_EN
  owned : t.owned = s.owned
  count : t.pair Reg.SRV_SAMPLE_CNT_LO = s.pair Reg.SRV_SAMPLE_CNT_LO

theorem SameSrv.trans (h : SameSrv s t) (k : SameSrv t u) : SameSrv s u := ⟨k.en.trans h.en, k.owned.trans h.owned, k.count.trans h.count⟩

theorem pair_congr {a : Nat} (h : t.reg a = s.reg a) (k : t.reg (a + 4) = s.reg (a + 4)) : t.pair a = s.pair a := by
  unfold State.pair
  rw [h, k]

theorem Calm.srv (h : Calm s t) : SameSrv s t :=
  ⟨congrArg (F.SRV_CTRL_EN.of · != 0) (h.regs Reg.SRV_CTRL (by decide)), congrArg (· != 0) h.owned,
    pair_congr (h.regs _ (by decide)) (h.regs _ (by decide))⟩

theorem SameSrv.of_moves {c : Parts} {as : List Nat} (h : Moves c as s t)
    (ha : ∀ a ∈ [Reg.SRV_CTRL, Reg.MIR_STAT, Reg.SRV_SAMPLE_CNT_LO, Reg.SRV_SAMPLE_CNT_LO + 4], a ∉ as) : SameSrv s t :=
  ⟨h.flag (ha _ (by decide)), h.flag (ha _ (by decide)), pair_congr (h.regs _ (ha _ (by decide))) (h.regs _ (ha _ (by decide)))⟩

/-! ### The interval (R14, R75, R76) -/

theorem withAng_moves (t : State) (a : Ang) : Moves { ang := true } [] t { t with ang := a } := Moves.refl.upd

theorem intervalCount_moves (s : State) (i : Nat) :
    Moves { regs := true } [Reg.ANG_SRV_INT, Reg.PMC_CYC_LO, Reg.PMC_CYC_LO + 4] s (s.intervalCount i) :=
  (Moves.refl.setReg (a := Reg.ANG_SRV_INT) _ rfl (by decide)).bump64 (a := Reg.PMC_CYC_LO) _ rfl (by decide) (by decide)

theorem intervalCount_interval (s : State) (i : Nat) : (s.intervalCount i).reg Reg.ANG_SRV_INT = BitVec.ofNat 32 (i * 4 / 5) := by
  unfold State.intervalCount State.bump64 State.setPair
  rw [State.reg_setReg_ne _ (by decide), State.reg_setReg_ne _ (by decide), State.reg_setReg_same]

theorem sampleInterval_eq (s : State) (i : Nat) : s.sampleInterval i =
    { s.intervalCount i with ang := { s.ang with timed := s.headsLost || s.floorOn, rate := s.measuredNs } } := rfl

theorem sampleInterval_moves (s : State) (i : Nat) :
    Moves { regs := true, ang := true } [Reg.ANG_SRV_INT, Reg.PMC_CYC_LO, Reg.PMC_CYC_LO + 4] s (s.sampleInterval i) := by
  rw [sampleInterval_eq]
  exact ((intervalCount_moves s i).mono rfl (List.Subset.refl _)).then_ (withAng_moves _ _) rfl (List.nil_subset _)

theorem sampleInterval_interval (s : State) (i : Nat) : (s.sampleInterval i).reg Reg.ANG_SRV_INT = BitVec.ofNat 32 (i * 4 / 5) := by
  rw [sampleInterval_eq]
  exact ((withAng_moves _ _).regs _ List.not_mem_nil).trans (intervalCount_interval s i)

theorem sampleInterval_timed (s : State) (i : Nat) : (s.sampleInterval i).ang.timed = (s.headsLost || s.floorOn) := by
  rw [sampleInterval_eq]

theorem sampleInterval_byAngle (s : State) (i : Nat) : (s.sampleInterval i).byAngle = s.byAngle := by
  have h := sampleInterval_moves s i
  unfold State.byAngle State.angValid
  rw [h.flag (by decide), h.regs _ (by decide)]

/-! ### The speed (R253) -/

theorem Calm.byAngle (h : Calm s t) : t.byAngle = s.byAngle := by
  unfold State.byAngle State.angValid
  rw [h.regs _ (by decide), show t.flag F.SPN_EST_CFG_ANGSPD = s.flag F.SPN_EST_CFG_ANGSPD from
    congrArg (F.SPN_EST_CFG_ANGSPD.of · != 0) (h.regs Reg.SPN_EST_CFG (by decide))]

theorem speedNow_speed (s : State) : s.speedNow.reg Reg.SPN_SPEED = if s.byAngle then s.spn.rev else s.spn.obs :=
  (State.reg_setReg_ne _ (by decide) _).trans (State.reg_setReg_same _ _ _)

theorem speedNow_valid (s : State) : s.speedNow.flag F.SPN_STAT_SPDVALID =
    ((s.byAngle || s.spn.obsOk) && decide (240 * 65536 < (if s.byAngle then s.spn.rev else s.spn.obs).toInt.natAbs)) :=
  State.flag_put_same _ _ _ (by decide) rfl

theorem speedNow_moves (s : State) : Moves { regs := true } [Reg.SPN_SPEED, Reg.SPN_STAT] s s.speedNow := (Moves.refl.setReg _).put _

/-- The state in which the speed is estimated: the sensors' values are in. -/
def State.sensed (s : State) (x : SampleIn) : State :=
  let pp := max 1 (s.rd F.SPN_MOTOR_PP)
  let turns := (((s.spn.turns : Int) + signed 16 ((x.eang.toNat + 65536 - s.spn.turns % 65536) % 65536)) % (65536 * pp : Nat)).toNat
  let s := s.modSpn (fun p => { p with obs := x.speed, obsOk := x.speedOk, rev := x.revRate, turns := turns })
  (s.setReg Reg.SPN_EANG (x.eang.setWidth 32)).setReg Reg.SPN_MANG (BitVec.ofNat 32 (turns / pp))

theorem spnSense_eq (s : State) (x : SampleIn) :
    s.spnSense x = (s.sensed x).speedNow.modSpn (fun p => { p with still := p.still && !(s.sensed x).speedNow.flag F.SPN_STAT_SPDVALID }) := rfl

theorem sensed_calm (s : State) (x : SampleIn) : Calm s (s.sensed x) := ((Calm.refl.modSpn _).setReg _).setReg _

theorem sensed_spn (s : State) (x : SampleIn) :
    (s.sensed x).spn.rev = x.revRate ∧ (s.sensed x).spn.obs = x.speed ∧ (s.sensed x).spn.obsOk = x.speedOk := ⟨rfl, rfl, rfl⟩

theorem speedOf_congr (h : t.byAngle = s.byAngle) (x : SampleIn) : t.speedOf x = s.speedOf x ∧ t.speedGood x = s.speedGood x := by
  unfold State.speedGood State.speedOf
  rw [h]
  exact ⟨rfl, rfl⟩

theorem modSpn_reg (s : State) (f : Spn → Spn) (a : Nat) : (s.modSpn f).reg a = s.reg a := rfl
theorem modSpn_flag (s : State) (f : Spn → Spn) (g : RegField) : (s.modSpn f).flag g = s.flag g := rfl

theorem spnSense_speed (s : State) (x : SampleIn) :
    (s.spnSense x).reg Reg.SPN_SPEED = s.speedOf x ∧ (s.spnSense x).flag F.SPN_STAT_SPDVALID = s.speedGood x := by
  obtain ⟨hrev, hobs, hok⟩ := sensed_spn s x
  have hangle := (sensed_calm s x).byAngle
  rw [spnSense_eq, modSpn_reg, modSpn_flag, speedNow_speed, speedNow_valid, hangle, hrev, hobs, hok]
  exact ⟨rfl, rfl⟩

theorem spnSense_moves (s : State) (x : SampleIn) :
    Moves { regs := true, spn := true } [Reg.SPN_EANG, Reg.SPN_MANG, Reg.SPN_SPEED, Reg.SPN_STAT] s (s.spnSense x) := by
  have h1 : Moves { regs := true, spn := true } [Reg.SPN_EANG, Reg.SPN_MANG, Reg.SPN_SPEED, Reg.SPN_STAT] s (s.sensed x) :=
    (((modSpn_moves s _).mono rfl (List.nil_subset _)).setReg _).setReg _
  rw [spnSense_eq]
  exact (h1.then_ (speedNow_moves _) rfl (by decide)).then_ (modSpn_moves _ _) rfl (List.nil_subset _)

/-- After the estimate, the spindle's sample leaves it alone. -/
theorem spnSample_calm (s : State) (x : SampleIn) : Calm (s.spnSense x) (s.spnSample x) := by
  unfold State.spnSample
  extract_lets s1 k v s2
  have h1 : Calm (s.spnSense x) s1 := ((Calm.refl.loopSample _).parkLatch).vectorSample _
  have h2 : Calm (s.spnSense x) s2 := .ite (((h1.spnGo 7).setVector v).modSpn _) h1
  exact h2.pwmSample _ _

/-! ### Up to SRV -/

/-- The state at which SRV samples. -/
def State.beforeSrv (s : State) (x : SampleIn) : State :=
  ((((((s.sampleInterval x.interval).quadKeep x (s.quadsOf x)).mirInstant).sldSample x.pos x.interval).spnSample x)).rateCheck

theorem sampleRun_eq (s : State) (x : SampleIn) :
    s.sampleRun x = (((s.beforeSrv x).srvSample x (s.quadsOf x)).supSamples (s.quadsOf x)).sendSample := rfl

theorem beforeSrv_sampled (s : State) (x : SampleIn) : s.Sampled (s.beforeSrv x) x x.interval ∧ SameSrv s (s.beforeSrv x) := by
  unfold State.beforeSrv
  have hi := sampleInterval_moves s x.interval
  have hint := sampleInterval_interval s x.interval
  have htimed : (s.sampleInterval x.interval).ang.timed = (s.headsLost || s.floorOn) := sampleInterval_timed s _
  have hangle := sampleInterval_byAngle s x.interval
  generalize s.sampleInterval x.interval = s1 at *
  have hq : Calm s1 (((s1.quadKeep x (s.quadsOf x)).mirInstant).sldSample x.pos x.interval) :=
    ((Calm.refl.quadKeep x _).mirInstant).sldSample _ _
  generalize ((s1.quadKeep x (s.quadsOf x)).mirInstant).sldSample x.pos x.interval = s2 at *
  have hsense := spnSense_moves s2 x
  obtain ⟨hspeed, hvalid⟩ := spnSense_speed s2 x
  obtain ⟨hof, hgood⟩ := speedOf_congr (hq.byAngle.trans hangle) x
  have hafter : Calm (s2.spnSense x) (s2.spnSample x).rateCheck := (spnSample_calm s2 x).rateCheck
  have hsampled : s.Sampled (s2.spnSense x) x x.interval :=
    ⟨(hsense.regs _ (by decide)).trans ((hq.regs _ (by decide)).trans hint), (hsense.keep (fun s => s.ang.timed)).trans (hq.timed.trans htimed),
      hspeed.trans hof, hvalid.trans hgood⟩
  have hsrv : SameSrv s (s2.spnSense x) := ((SameSrv.of_moves hi (by decide)).trans hq.srv).trans (.of_moves hsense (by decide))
  exact ⟨hsampled.calm hafter, hsrv.trans hafter.srv⟩

/-! ### SRV's part (R214, R222) -/

/-- SRV's sample behind its instant, with the holds `hl` that it finds. -/
def State.srvWork (s : State) (x : SampleIn) (y : Quads) (hl : Holds) (none_ : Bool) : State :=
  let s := s.countErrors x.residues (x.shadowDiff && !hl.recObs)
  let s := (List.finRange 7).foldl State.smallOut s
  let s := (List.finRange 4).foldl (fun s g => s.headSample hl y.codes y.stale g) s
  let s := (List.finRange 7).foldl (fun s c => s.smallSample hl y.codes c) s
  let s := (s.put F.SRV_RES_STAT_RECOMP hl.recomp).wr F.SRV_RES_STAT_HELD
    (((List.finRange 11).filter (fun g => hl.out.contains g || hl.obs.contains g)).foldl (fun m g => m + 2 ^ g.val) 0)
  let s := s.holdCounts hl
  if none_ then s.taskError 0x42 else s

theorem Calm.srvWork (h : Calm s t) (x : SampleIn) (y : Quads) (hl : Holds) (b : Bool) : Calm s (t.srvWork x y hl b) := by
  unfold State.srvWork
  extract_lets s3 s4 s5 s6 s7 s8
  have h3 : Calm s s3 := h.countErrors _ _
  have h4 : Calm s s4 := Calm.foldl _ (fun c _ _ hu => hu.smallOut c) h3
  have h5 : Calm s s5 := Calm.foldl _ (fun g _ _ hu => hu.headSample hl _ _ g) h4
  have h6 : Calm s s6 := Calm.foldl _ (fun c _ _ hu => hu.smallSample hl _ c) h5
  have h8 : Calm s s8 := Calm.holdCounts ((h6.put _).wr _) hl
  exact .ite (h8.taskError _ _ _) h8

/-- A sample that SRV counts. -/
def State.counted (s : State) : State :=
  { s.bump64 Reg.SRV_SAMPLE_CNT_LO 1 with srv := { s.srv with shadowN := s.srv.shadowN + 1 } }

theorem srvSample_on {y : Quads} (h : s.instant.flag F.SRV_CTRL_EN = true) : ∃ hl b, s.srvSample x y = s.instant.counted.srvWork x y hl b := by
  unfold State.srvSample
  generalize s.instant = v at *
  rw [if_pos h]
  exact ⟨_, _, rfl⟩

theorem withSrv_moves (t : State) (v : Srv) : Moves { srv := true } [] t { t with srv := v } := Moves.refl.upd

theorem counted_moves (s : State) :
    Moves { regs := true, srv := true } [Reg.SRV_SAMPLE_CNT_LO, Reg.SRV_SAMPLE_CNT_LO + 4] s s.counted :=
  (Moves.refl.bump64 (a := Reg.SRV_SAMPLE_CNT_LO) 1 rfl (by decide) (by decide)).then_ (withSrv_moves _ _) rfl (List.nil_subset _)

theorem counted_count (s : State) : s.counted.pair Reg.SRV_SAMPLE_CNT_LO = (s.pair Reg.SRV_SAMPLE_CNT_LO + 1) % 2 ^ 64 := by
  have hm := withSrv_moves (s.bump64 Reg.SRV_SAMPLE_CNT_LO 1) { s.srv with shadowN := s.srv.shadowN + 1 }
  have hbump : (s.bump64 Reg.SRV_SAMPLE_CNT_LO 1).pair Reg.SRV_SAMPLE_CNT_LO = (s.pair Reg.SRV_SAMPLE_CNT_LO + 1) % 2 ^ 64 := by
    unfold State.bump64
    rw [State.pair_setPair_same, Nat.mod_mod]
  exact (pair_congr (hm.regs _ List.not_mem_nil) (hm.regs _ List.not_mem_nil)).trans hbump

theorem State.Sampled.counted (h : s.Sampled t x i) : s.Sampled t.counted x i := by
  have hm := counted_moves t
  exact ⟨(hm.regs _ (by decide)).trans h.interval, (hm.keep (fun s => s.ang.timed)).trans h.timed, (hm.regs _ (by decide)).trans h.speed,
    (hm.flag (by decide)).trans h.valid⟩

/-- Every output of SRV is set to 0. -/
def State.outputsOff (s : State) : State :=
  forEach (List.range 7) (fun c s => s.setInt (Reg.SRV_S_U c) 0)
    ((List.range 4).foldl (fun s g => forEach (List.range 3) (fun j s => s.setInt (Reg.SRV_G_U g j) 0) s) s)

theorem srvSample_off {y : Quads} (h : s.instant.flag F.SRV_CTRL_EN = false) : s.srvSample x y = s.instant.outputsOff := by
  unfold State.srvSample
  generalize s.instant = v at *
  rw [if_neg (by simp [h])]
  rfl

theorem Calm.outputsOff (h : Calm s t) : Calm s t.outputsOff :=
  .forEach _ (fun c hc _ hu => hu.setInt _ (srvSmall_aside c (List.mem_range.mp hc)).1)
    (.foldl _ (fun g hg _ hu => .forEach _ (fun j hj _ hv => hv.setInt _ (srvWord_aside ⟨g, List.mem_range.mp hg⟩ j (List.mem_range.mp hj)).1) hu) h)

theorem reg_setInt_zero_same (s : State) (a : Nat) : (s.setInt a 0).reg a = 0 := State.reg_setReg_same s a _

/-- A register that is 0 stays so as zeros are written. -/
theorem reg_setInt_zero {a : Nat} (h : s.reg a = 0) (b : Nat) : (s.setInt b 0).reg a = 0 := by
  by_cases hab : a = b
  · subst hab
    exact reg_setInt_zero_same s a
  · exact (State.reg_setReg_ne s hab _).trans h

theorem outputsOff_small (s : State) (c : Fin 7) : s.outputsOff.reg (Reg.SRV_S_U c) = 0 :=
  forEach_reaches (P := fun t => t.reg (Reg.SRV_S_U c) = 0) (f := fun c s => s.setInt (Reg.SRV_S_U c) 0)
    (fun t => reg_setInt_zero_same t _) (fun _ _ h => reg_setInt_zero h _) (List.mem_range.mpr c.isLt) _

/-- The outputs of head `g` are set to 0. -/
def State.headOff (s : State) (g : Nat) : State := forEach (List.range 3) (fun j s => s.setInt (Reg.SRV_G_U g j) 0) s

theorem headOff_zero (s : State) (g : Nat) (j : Fin 3) : (s.headOff g).reg (Reg.SRV_G_U g j) = 0 :=
  forEach_reaches (P := fun t => t.reg (Reg.SRV_G_U g j) = 0) (f := fun j s => s.setInt (Reg.SRV_G_U g j) 0)
    (fun t => reg_setInt_zero_same t _) (fun _ _ h => reg_setInt_zero h _) (List.mem_range.mpr j.isLt) _

theorem headOff_keeps {a : Nat} (h : s.reg a = 0) (g : Nat) : (s.headOff g).reg a = 0 :=
  forEach_keeps (P := fun t => t.reg a = 0) (f := fun j s => s.setInt (Reg.SRV_G_U g j) 0) (fun _ _ h => reg_setInt_zero h _) _ h

theorem outputsOff_head (s : State) (g : Fin 4) (j : Fin 3) : s.outputsOff.reg (Reg.SRV_G_U g j) = 0 := by
  have h : (forEach (List.range 4) (fun g s => s.headOff g) s).reg (Reg.SRV_G_U g j) = 0 :=
    forEach_reaches (P := fun t => t.reg (Reg.SRV_G_U g j) = 0) (f := fun g s => s.headOff g) (fun t => headOff_zero t g j)
      (fun k _ h => headOff_keeps h k) (List.mem_range.mpr g.isLt) _
  exact forEach_keeps (P := fun t => t.reg (Reg.SRV_G_U g j) = 0) (f := fun c s => s.setInt (Reg.SRV_S_U c) 0)
    (fun _ _ h => reg_setInt_zero h _) _ h

/-! ### The whole sample -/

theorem afterSrv_calm (s : State) (y : Quads) : Calm s (s.supSamples y).sendSample := (Calm.refl.supSamples y).sendSample

theorem sampleRun_sampled (s : State) (x : SampleIn) : s.Sampled (s.sampleRun x) x x.interval := by
  obtain ⟨hs, -⟩ := beforeSrv_sampled s x
  rw [sampleRun_eq]
  generalize s.beforeSrv x = t at *
  have hi : Calm t t.instant := Calm.refl.instant
  refine State.Sampled.calm ?_ (afterSrv_calm _ _)
  cases hen : t.instant.flag F.SRV_CTRL_EN with
  | true =>
    obtain ⟨hl, b, e⟩ := srvSample_on (x := x) (y := s.quadsOf x) hen
    rw [e]
    exact (hs.calm hi).counted.calm (Calm.refl.srvWork _ _ _ _)
  | false =>
    rw [srvSample_off hen]
    exact hs.calm hi.outputsOff

theorem sampleRun_counts (x : SampleIn) (h : s.flag F.SRV_CTRL_EN = true) :
    (s.sampleRun x).pair Reg.SRV_SAMPLE_CNT_LO = (s.pair Reg.SRV_SAMPLE_CNT_LO + 1) % 2 ^ 64 := by
  obtain ⟨-, hk⟩ := beforeSrv_sampled s x
  rw [sampleRun_eq]
  generalize s.beforeSrv x = t at *
  have hi := (Calm.refl (s := t)).instant.srv
  obtain ⟨hl, b, e⟩ := srvSample_on (x := x) (y := s.quadsOf x) (hi.en.trans (hk.en.trans h))
  rw [(afterSrv_calm _ _).srv.count, e, (Calm.refl.srvWork _ _ _ _).srv.count, counted_count, hi.count, hk.count]

theorem flag_congr_regs (h : t.regs = s.regs) (f : RegField) : t.flag f = s.flag f := congrArg (· != 0) (State.rd_of_regs h f)

/-- Without ownership a loop supervisor only watches. -/
theorem supSamples_regs (h : s.owned = false) (y : Quads) : (s.supSamples y).regs = s.regs := by
  have hone : ∀ (t : State) (g : Head), t.owned = false → (t.lsvSample y g).regs = t.regs := fun t g ht => by
    unfold State.lsvSample
    extract_lets sum s1
    have h1 : s1.owned = false := ht
    rw [if_pos (by simp [h1])]
    rfl
  have hall : ∀ (l : List Head) (t : State), t.regs = s.regs → (l.foldl (fun s h => s.lsvSample y h) t).regs = s.regs := by
    intro l
    induction l with
    | nil => exact fun _ ht => ht
    | cons g l ih => exact fun t ht => ih _ ((hone t g ((flag_congr_regs ht _).trans h)).trans ht)
  exact hall _ s rfl

theorem sendSample_off (h : s.flag F.SRV_CTRL_EN = false) : s.sendSample = s := if_neg (by simp [h])

theorem sampleRun_off (x : SampleIn) (ho : s.owned = false) (h : s.flag F.SRV_CTRL_EN = false) :
    (∀ (g : Fin 4) (j : Fin 3), (s.sampleRun x).reg (Reg.SRV_G_U g j) = 0) ∧ (∀ c : Fin 7, (s.sampleRun x).reg (Reg.SRV_S_U c) = 0) ∧
      (s.sampleRun x).pair Reg.SRV_SAMPLE_CNT_LO = s.pair Reg.SRV_SAMPLE_CNT_LO := by
  obtain ⟨-, hk⟩ := beforeSrv_sampled s x
  rw [sampleRun_eq]
  generalize s.beforeSrv x = t at *
  have hi := hk.trans (Calm.refl (s := t)).instant.srv
  rw [srvSample_off (hi.en.trans h)]
  have hoff := hi.trans (Calm.refl.outputsOff (s := t.instant)).srv
  have hhead := outputsOff_head t.instant
  have hsmall := outputsOff_small t.instant
  generalize t.instant.outputsOff = u at *
  have hregs := supSamples_regs (hoff.owned.trans ho) (s.quadsOf x)
  have hreg : ∀ a, (u.supSamples (s.quadsOf x)).reg a = u.reg a := fun a => State.reg_of_regs hregs a
  rw [sendSample_off ((flag_congr_regs hregs _).trans (hoff.en.trans h))]
  exact ⟨fun g j => (hreg _).trans (hhead g j), fun c => (hreg _).trans (hsmall c), (pair_congr (hreg _) (hreg _)).trans hoff.count⟩

/-! ### The interval (R14, R75, R76) -/

theorem instantNs_lost (h : s.headsLost = true) (ns : Nat) : s.instantNs ns = s.ang.rate := if_pos h

theorem instantNs_floor (hl : s.headsLost = false) (h : s.floorOn = true) (ns : Nat) : s.instantNs ns = 1667 := by
  simp [State.instantNs, hl, h]

theorem instantNs_nominal {n : Nat} (hl : s.headsLost = false) (hf : s.floorOn = false) (ht : s.ang.timed = false) (hn : s.nominalNs = some n)
    (ns : Nat) : s.instantNs ns = min (max ns (max 360 (n / 2))) (max 360 (3 * n / 2)) := by
  simp [State.instantNs, hl, hf, ht, hn]

/-- What a sample shows, at the interval that the angle's instant settles. -/
theorem execServoSample_ends (s : State) (x : SampleIn) :
    Ends (execServoSample x s) fun t => t = s.sampleRun { x with interval := s.instantNs x.interval } ∧
      s.Sampled t { x with interval := s.instantNs x.interval } (s.instantNs x.interval) :=
  .next ⟨rfl, sampleRun_sampled s _⟩

/-- Settles O51: every operation of a sample but the settling of the interval, the speed estimate and the count leaves them alone. -/
theorem sampleInstant : Obligations.SampleInstant := by
  refine ⟨fun s x ho hen => ?_, fun s x hen => ?_, fun s x n hl hf ht hn hlt => ?_, fun s x hl hf => ?_, fun s x hl => ?_⟩
  · obtain ⟨t, e, rfl, hs⟩ := execServoSample_ends s x
    obtain ⟨hhead, hsmall, hcount⟩ := sampleRun_off { x with interval := s.instantNs x.interval } ho hen
    exact ⟨_, e, hs.interval, hs.speed, hs.valid, hhead, hsmall, hcount⟩
  · obtain ⟨t, e, rfl, hs⟩ := execServoSample_ends s x
    exact ⟨_, e, sampleRun_counts _ hen, hs.interval, hs.speed⟩
  · obtain ⟨t, e, -, hs⟩ := execServoSample_ends s x
    have hint := hs.interval
    rw [instantNs_nominal hl hf ht hn] at hint
    have hval : (t.reg Reg.ANG_SRV_INT).toNat = min (max x.interval (max 360 (n / 2))) (max 360 (3 * n / 2)) * 4 / 5 := by
      rw [hint, BitVec.toNat_ofNat]
      exact Nat.mod_eq_of_lt (by omega)
    refine ⟨t, e, ?_, ?_, hs.timed.trans (by simp [hl, hf])⟩ <;> rw [hval] <;> omega
  · obtain ⟨t, e, -, hs⟩ := execServoSample_ends s x
    refine ⟨t, e, hs.interval.trans ?_, hs.timed.trans (by simp [hf])⟩
    rw [instantNs_floor hl hf]
    rfl
  · obtain ⟨t, e, -, hs⟩ := execServoSample_ends s x
    refine ⟨t, e, hs.interval.trans ?_, hs.timed.trans (by simp [hl])⟩
    rw [instantNs_lost hl]

end Sys2Proof.Machine
end

/-! ## The state after reset (R545) -/

namespace Sys2Proof.Machine

set_option Elab.async false

/-- Reset leaves nothing listed in any memory, so each reads as its default. -/
theorem reset_canonical : State.reset.Canonical where
  regs := Sparse.wf_nil _
  latch := Sparse.wf_nil _
  dram := Sparse.wf_nil _
  sram := Sparse.wf_nil _
  cs := Sparse.wf_nil _
  buf := Sparse.wf_nil _
  win := Sparse.wf_nil _
  flash := Sparse.wf_nil _
  progs := Sparse.wf_nil _

/-- After reset every register holds the Reset column of its field map (R545). -/
@[simp] theorem State.reg_reset (a : Nat) : State.reset.reg a = resetWord a := rfl

@[simp] theorem State.rd_reset (f : RegField) : State.reset.rd f = f.of (resetWord f.reg) := rfl

@[simp] theorem State.flag_reset (f : RegField) : State.reset.flag f = (f.of (resetWord f.reg) != 0) := rfl

/-- `MIR_STAT.OWNED` resets to 0: the gate of the output stages is shut (R460). -/
theorem owned_reset : State.reset.owned = false := (State.flag_reset F.MIR_STAT_OWNED).trans (by decide)

/-- The key store holds neither KEK nor CAK, which makes the module keyless (R431, R443). -/
theorem keyless_reset : State.reset.keyless = true := rfl

/-- Settles O60: no memory lists anything, so each register reads its row's Reset column, from which each field is taken. -/
theorem resetState : Obligations.ResetState := by
  refine ⟨reset_canonical, rfl, State.reg_reset, owned_reset, keyless_reset, ?_⟩
  simp only [State.reg_reset, State.rd_reset, State.flag_reset]
  decide

end Sys2Proof.Machine

section
/-! ## Sled encoders -/

namespace Sys2Proof.Machine

set_option Elab.async false

theorem ofInt_toInt_add (w : Word) (d : Int) : BitVec.ofInt 32 (w.toInt + d) = w + BitVec.ofInt 32 d := by
  rw [BitVec.ofInt_add, BitVec.ofInt_toInt]

/-- R78: a legal transition of an encoder that is on moves its count by one, or by none, in the direction that DIR gives. -/
theorem execEncoderTransition_counts {s : State} {sl : Sled} {ab : BitVec 2} {d : Int} (he : s.flag (F.ANG_ENC_CTRL_EN sl) = true)
    (hq : quadStep s.ang.encAB[sl] ab = some d) : execEncoderTransition sl ab s =
      .next ({ s with ang := { s.ang with encAB := s.ang.encAB.set sl ab } }.setReg (Reg.ANG_ENC_CNT sl)
        (s.reg (Reg.ANG_ENC_CNT sl) + BitVec.ofInt 32 (if s.flag (F.ANG_ENC_CTRL_DIR sl) then -d else d))) := by
  unfold execEncoderTransition
  simp only [he, hq, if_true]
  rw [State.setInt, State.int, ofInt_toInt_add]
  rfl

/-- R79: an illegal transition leaves the count; it is counted, and the position is uncertain. -/
theorem execEncoderTransition_illegal {s : State} {sl : Sled} {ab : BitVec 2} (he : s.flag (F.ANG_ENC_CTRL_EN sl) = true)
    (hq : quadStep s.ang.encAB[sl] ab = none) : execEncoderTransition sl ab s =
      .next (({ s with ang := { s.ang with encAB := s.ang.encAB.set sl ab } }.setReg (Reg.ANG_ENC_ERR sl)
        (BitVec.ofNat 32 (min 0xFFFF ((s.reg (Reg.ANG_ENC_ERR sl)).toNat + 1)))).put (F.ANG_ENC_STAT_UNCERTAIN sl) true) := by
  unfold execEncoderTransition
  simp only [he, hq, if_true]
  rfl

theorem encoderRegs_distinct (sl : Sled) : Reg.ANG_ENC_ERR sl ≠ Reg.ANG_ENC_STAT sl ∧ Reg.ANG_ENC_CNT sl ≠ Reg.ANG_ENC_STAT sl := by
  simp [Reg.ANG_ENC_ERR, Reg.ANG_ENC_STAT, Reg.ANG_ENC_CNT]

/-- Settles O5: a legal transition counts, an illegal one makes the position uncertain, and an index edge makes it certain again. -/
theorem sledEncoders : Obligations.SledEncoders := by
  refine ⟨fun s sl ab d he hq => ?_, fun s sl ab he hq => ?_, fun s sl he => ?_⟩
  · refine ⟨_, execEncoderTransition_counts he hq, Vector.getElem_set_self _, State.reg_setReg_same _ _ _, rfl, ?_⟩
    exact RegsBut.refl.setReg (by simp) _
  · have hne := (encoderRegs_distinct sl).1
    refine ⟨_, execEncoderTransition_illegal he hq, State.flag_put_same _ _ _ (by simp) rfl, ?_, rfl, ?_⟩
    · rw [State.reg_put_ne _ _ _ hne, State.reg_setReg_same, BitVec.toNat_ofNat]
      omega
    · exact (RegsBut.refl.setReg (by simp) _).put (by simp) _
  · have hne := (encoderRegs_distinct sl).2
    have e : execIndexEdge sl s =
        .next ((s.setReg (Reg.ANG_ENC_CNT sl) (s.reg (Reg.ANG_ENC_IDX sl))).put (F.ANG_ENC_STAT_UNCERTAIN sl) false) := if_pos he
    refine ⟨_, e, ?_, State.flag_put_same _ _ _ (by simp) rfl, ?_⟩
    · rw [State.reg_put_ne _ _ _ hne, State.reg_setReg_same]
    · exact (OnlyRegs.refl.setReg (by simp) _).put (by simp) _

end Sys2Proof.Machine
end

section
/-! ## Arming, disarming and the hold -/

namespace Sys2Proof.Machine

set_option Elab.async false

theorem modEntry_same (s : State) (i : Entry) (f : AngEntry → AngEntry) : (s.modEntry i f).ang.entries[i] = f s.ang.entries[i] := by
  simp [State.modEntry]

theorem modEntry_ne (s : State) {i j : Entry} (f : AngEntry → AngEntry) (h : j ≠ i) :
    (s.modEntry i f).ang.entries[j] = s.ang.entries[j] := by
  simp [State.modEntry, Fin.val_inj, h.symm]

/-! ### Arming (R71) -/

/-- The entry that `ANG_EVT_TGT` and `ANG_EVT_ACTW` spell. -/
def State.spelledEntry (s : State) : AngEntry :=
  { armed := true, target := s.reg Reg.ANG_EVT_TGT, frac := BitVec.ofNat 8 (s.rd F.ANG_EVT_ACTW_FRAC)
    action := BitVec.ofNat 4 (s.rd F.ANG_EVT_ACTW_ACTION), head := Fin.ofNat 4 (s.rd F.ANG_EVT_ACTW_HEAD)
    htag := s.flag F.ANG_EVT_ACTW_HTAG, arg := BitVec.ofNat 16 (s.rd F.ANG_EVT_ACTW_ARG) }

/-- Every field of the entry is as wide as its field of `ANG_EVT_ACTW`. -/
theorem spelledEntry_fields (s : State) : s.spelledEntry.action.toNat = s.rd F.ANG_EVT_ACTW_ACTION ∧
    s.spelledEntry.arg.toNat = s.rd F.ANG_EVT_ACTW_ARG ∧ s.spelledEntry.head.val = s.rd F.ANG_EVT_ACTW_HEAD ∧
    s.spelledEntry.frac.toNat = s.rd F.ANG_EVT_ACTW_FRAC := by
  refine ⟨?_, ?_, ?_, ?_⟩ <;> exact Nat.mod_eq_of_lt (RegField.of_lt _ _)

theorem evtArm_refused {s : State} (h : (s.ang.entries[selectedEntry s]).armed = true ∨ s.rd F.ANG_EVT_ACTW_ACTION = 0 ∨
    9 < s.rd F.ANG_EVT_ACTW_ACTION) : s.evtArm = s.put F.ANG_STAT_ARMERR true := by
  unfold State.evtArm
  exact if_pos (by simpa [selectedEntry, or_assoc] using h)

/-- R71: an entry whose target is not reached, or while none may fire, is armed and waits. -/
theorem evtArm_waits {s : State} (ha : (s.ang.entries[selectedEntry s]).armed = false) (h0 : s.rd F.ANG_EVT_ACTW_ACTION ≠ 0)
    (h9 : s.rd F.ANG_EVT_ACTW_ACTION ≤ 9) (hd : s.spelledEntry.due s.ang.now = false ∨ s.mayFire = false) :
    s.evtArm = s.modEntry (selectedEntry s) (fun _ => s.spelledEntry) := by
  unfold State.evtArm
  extract_lets i act e t
  have hr : ¬ ((s.ang.entries[i]).armed || decide (act = 0) || decide (9 < act)) = true := by
    rw [Bool.or_eq_true, Bool.or_eq_true, decide_eq_true_iff, decide_eq_true_iff]
    rintro ((h | h) | h)
    · exact Bool.false_ne_true (ha.symm.trans h)
    · exact h0 h
    · exact absurd h (Nat.not_lt.mpr h9)
  have hw : ¬ (t.mayFire && e.due t.ang.now) = true := by
    rcases hd with hd | hd
    · have : e.due t.ang.now = false := hd
      simp [this]
    · have : t.mayFire = false := hd
      simp [this]
  rw [if_neg hr, if_neg hw]
  rfl

/-! ### The hold (R61 to R65) -/

theorem holding_mayFire {s : State} (h : s.holding = true) : s.mayFire = false := by simp [State.mayFire, h]

theorem fireAt_of_not_mayFire {s : State} (h : s.mayFire = false) (i : Entry) (now : Angle) (n : Nat) (lead : Bool) :
    s.fireAt i now n lead = s := by simp [State.fireAt, h]

/-- A pass in which no step moves the state ends in that state. -/
theorem forEach_stays {α : Type} {f : α → State → State} {s : State} : ∀ {l : List α}, (∀ a ∈ l, f a s = s) → forEach l f s = s
  | [], _ => rfl
  | a :: l, hf => by
    show forEach l f (f a s) = s
    rw [hf a List.mem_cons_self]
    exact forEach_stays fun b hb => hf b (List.mem_cons_of_mem _ hb)

theorem seqEvents_of_not_mayFire {s : State} (h : s.mayFire = false) (i : Entry) (now : Angle) : s.seqEvents i now = s := by
  unfold State.seqEvents
  split
  · exact forEach_stays fun j _ => by rw [fireAt_of_not_mayFire h, ite_self]
  · rfl

/-- Late firing of a selection that no armed entry meets moves nothing. -/
theorem fireLate_none {s : State} {sel : AngEntry → Bool} (h : ∀ i : Entry, (s.ang.entries[i]).armed = true → sel s.ang.entries[i] = false) :
    s.fireLate sel = s := by
  unfold State.fireLate
  apply forEach_stays
  intro i _
  refine if_neg fun hf => ?_
  obtain ⟨ha, hs⟩ := Bool.and_eq_true_iff.mp hf
  exact Bool.false_ne_true ((h i ha).symm.trans hs)

/-- R62: the hold ends once the angle exceeds the mark; with no armed entry at or below the mark nothing fires late. -/
theorem execHoldEnd_quiet {s : State} {now : Angle} (hh : s.holding = true) (hd : 0 < angDiff now s.ang.hwm)
    (hn : ∀ i : Entry, (s.ang.entries[i]).armed = true → (s.ang.entries[i]).due s.ang.hwm = false) :
    execHoldEnd now s = .next { s.put F.ANG_STAT_HOLD false with ang := { s.ang with now := now, hwm := now } } := by
  unfold execHoldEnd
  rw [if_pos (by simp [hh, hd])]
  exact congrArg Host.Outcome.next (fireLate_none hn)

/-- Settles O3: what arming, disarming and disarming all do to the entries, and that a hold keeps every entry until it ends. -/
theorem entriesAreArmedHeldAndDisarmed : Obligations.EntriesAreArmedHeldAndDisarmed := by
  refine ⟨fun s h => ?_, fun s ha h0 h9 hd => ?_, fun s => ?_, fun s => ?_, fun s i now lead hh => ?_, fun s now hh hd hn => ?_⟩
  · refine ⟨_, congrArg Host.Outcome.next (evtArm_refused h), State.flag_put_same _ _ _ (by decide) rfl, ?_⟩
    exact OnlyRegs.refl.put (by simp) _
  · have hd' : s.spelledEntry.due s.ang.now = false ∨ s.mayFire = false := hd.imp_left fun h => decide_eq_false (Nat.not_lt.mpr h)
    refine ⟨_, congrArg Host.Outcome.next (evtArm_waits ha h0 h9 hd'), ?_, fun i hi => modEntry_ne s _ hi, rfl⟩
    rw [modEntry_same]
    obtain ⟨hact, harg, hhead, hfrac⟩ := spelledEntry_fields s
    exact ⟨rfl, rfl, rfl, rfl, rfl, hact, harg, hhead, rfl, hfrac⟩
  · exact ⟨_, rfl, modEntry_same s _ _, fun i hi => modEntry_ne s _ hi, rfl⟩
  · exact ⟨_, rfl, fun i => Vector.getElem_map _ _, rfl⟩
  · have hs : ∀ n l, (Host.Outcome.next (s.fireAt i now n l) : Host.Outcome State Fault Refusal) = .next s := fun n l =>
      congrArg Host.Outcome.next (fireAt_of_not_mayFire (holding_mayFire hh) i now n l)
    exact ⟨hs 1 lead, hs 2 false, hs 3 false, hs 4 false, hs 5 false, hs 6 false,
      congrArg Host.Outcome.next (seqEvents_of_not_mayFire (holding_mayFire hh) i now), hs 8 false, hs 9 false⟩
  · refine ⟨_, execHoldEnd_quiet hh hd hn, ?_, rfl, rfl, rfl, rfl, ?_⟩
    · exact State.flag_put_same s F.ANG_STAT_HOLD false (by decide) rfl
    · exact (RegsBut.refl.put (f := F.ANG_STAT_HOLD) (by simp) false).of_regs rfl

end Sys2Proof.Machine
end

section
/-! ## Entries of one target that fire together -/

namespace Sys2Proof.Machine

set_option Elab.async false

variable {s t : State} {i j : Entry} {now : Angle} {l done : List Entry}

/-! ### The angle flows once -/

theorem flow_now (s : State) (now : Angle) : (s.flow now).ang.now = if angDiff now s.ang.now > 0 then now else s.ang.now := rfl

theorem flow_hwm (s : State) (now : Angle) : (s.flow now).ang.hwm =
    if !s.holding && angDiff (s.flow now).ang.now s.ang.hwm > 0 then (s.flow now).ang.now else s.ang.hwm := rfl

theorem mayFire_of_regs (h : t.regs = s.regs) : t.mayFire = s.mayFire := by
  unfold State.mayFire State.angValid State.holding
  rw [State.reg_of_regs h, flag_congr_regs h]

/-- A state whose angle has flowed to `now` already does not flow to it again (R62). -/
theorem flow_settled (hr : t.regs = s.regs) (hn : t.ang.now = (s.flow now).ang.now) (hm : t.ang.hwm = (s.flow now).ang.hwm) :
    t.flow now = t := by
  have hnow : (t.flow now).ang.now = t.ang.now := by
    rw [flow_now, hn]
    by_cases h : angDiff now s.ang.now > 0
    · rw [flow_now, if_pos h, ite_self]
    · rw [flow_now, if_neg h, if_neg h]
  have hhwm : (t.flow now).ang.hwm = t.ang.hwm := by
    rw [flow_hwm, hnow, hn, hm, State.holding, flag_congr_regs hr]
    by_cases h : (!s.holding && decide (angDiff (s.flow now).ang.now s.ang.hwm > 0)) = true
    · rw [flow_hwm, if_pos h, ite_self]
    · rw [flow_hwm, if_neg h]
      exact if_neg h
  have e : t.flow now = { t with ang := { t.ang with now := (t.flow now).ang.now, hwm := (t.flow now).ang.hwm } } := rfl
  rw [e, hnow, hhwm]

/-! ### What fires at a target -/

/-- An entry that has fired on time. -/
def AngEntry.spent (e : AngEntry) : AngEntry := { e with armed := false, fired := true, late := false }

/-- The SEQ_EVENT entries listed have fired at `now`, in that order (R70). -/
structure State.Volley (s : State) (now : Angle) (l : List Entry) (t : State) : Prop where
  queue : t.seq.queue = s.seq.queue ++ l.map fun j => (s.ang.entries[j]).arg
  spent : ∀ j ∈ l, t.ang.entries[j] = (s.ang.entries[j]).spent
  other : ∀ j, j ∉ l → t.ang.entries[j] = s.ang.entries[j]
  angle : t.ang.now = (s.flow now).ang.now
  mark  : t.ang.hwm = (s.flow now).ang.hwm
  frame : t = { s with ang := { s.ang with now := t.ang.now, hwm := t.ang.hwm, entries := t.ang.entries }
                       seq := { s.seq with queue := t.seq.queue } }

theorem State.Volley.regs (h : s.Volley now l t) : t.regs = s.regs := (congrArg State.regs h.frame).trans rfl

theorem State.Volley.flow (h : s.Volley now l t) : t.flow now = t := flow_settled h.regs h.angle h.mark

/-- The volley's frame, said of the state whose angle has flowed. -/
theorem State.Volley.of_flow (h : s.Volley now l t) : t = { s.flow now with
    ang := { (s.flow now).ang with entries := t.ang.entries }, seq := { s.seq with queue := t.seq.queue } } := by
  have hn := h.angle
  have hm := h.mark
  obtain ⟨n, m, e⟩ := flow_eq s now
  rw [e] at hn hm ⊢
  have hf := h.frame
  rw [hn, hm] at hf
  exact hf

theorem volley_nil (s : State) (now : Angle) : s.Volley now [] (s.flow now) := by
  obtain ⟨n, m, e⟩ := flow_eq s now
  exact ⟨by rw [e]; exact (List.append_nil _).symm, nofun, fun _ _ => by rw [e], rfl, rfl, by rw [e]⟩

theorem modEntry_eq (s : State) (i : Entry) (f : AngEntry → AngEntry) :
    ∃ es, s.modEntry i f = { s with ang := { s.ang with entries := es } } := ⟨_, rfl⟩

theorem act_seqEvent {e : AngEntry} (h : e.action.toNat = 7) (late lead : Bool) : s.act e late lead = s.seqFire e.arg := by
  simp [State.act, h]

theorem seqFire_room {arg : BitVec 16} (h : s.seq.queue.length < 64) :
    s.seqFire arg = { s with seq := { s.seq with queue := s.seq.queue ++ [arg] } } := if_pos h

/-- One more entry joins the volley. -/
theorem State.Volley.concat (h : s.Volley now l t) (hj : j ∉ l) (hroom : s.seq.queue.length + l.length < 64) :
    s.Volley now (l ++ [j]) ((t.modEntry j AngEntry.spent).seqFire (s.ang.entries[j]).arg) := by
  have hlen : (t.modEntry j AngEntry.spent).seq.queue.length < 64 := by
    rw [(modEntry_moves _ _ _).keep State.seq, h.queue, List.length_append, List.length_map]
    exact hroom
  rw [seqFire_room hlen]
  refine ⟨?_, fun k hk => ?_, fun k hk => ?_, h.angle, h.mark, ?_⟩
  · show t.seq.queue ++ [_] = _
    rw [h.queue, List.map_append, List.append_assoc]
    rfl
  · show (t.modEntry j AngEntry.spent).ang.entries[k] = _
    by_cases hkj : k = j
    · subst hkj
      rw [modEntry_same, h.other k hj]
    · rw [modEntry_ne _ _ hkj]
      exact h.spent k ((List.mem_append.mp hk).resolve_right (by simpa using hkj))
  · have hkj : k ≠ j := fun e => hk (by simp [e])
    exact (modEntry_ne _ _ hkj).trans (h.other k fun e => hk (List.mem_append_left _ e))
  · obtain ⟨es, he⟩ := modEntry_eq t j AngEntry.spent
    rw [he]
    conv_lhs => rw [h.frame]

theorem firesWith_iff : s.firesWith i j = true ↔ (s.ang.entries[j]).armed = true ∧ (s.ang.entries[j]).action.toNat = 7 ∧
    (s.ang.entries[j]).target = (s.ang.entries[i]).target := by
  rw [State.firesWith, Bool.and_eq_true, Bool.and_eq_true, decide_eq_true_iff, decide_eq_true_iff, and_assoc]

/-! ### The pass over the entries -/

/-- Where the pass over the entries stands once those of `done` are behind it: nothing has moved, or those that fire with `i` have fired. -/
def State.Passed (s : State) (i : Entry) (now : Angle) (done : List Entry) (t : State) : Prop :=
  (done.filter (s.firesWith i) = [] ∧ t = s) ∨ s.Volley now (done.filter (s.firesWith i)) t

theorem State.Passed.regs (h : s.Passed i now done t) : t.regs = s.regs := h.elim (fun q => q.2 ▸ rfl) (·.regs)

theorem State.Passed.volley (h : s.Passed i now done t) : s.Volley now (done.filter (s.firesWith i)) (t.flow now) := by
  rcases h with ⟨h, rfl⟩ | h
  · rw [h]
    exact volley_nil _ _
  · rw [h.flow]
    exact h

/-- An entry ahead of the pass stands as it did. -/
theorem State.Passed.entry (h : s.Passed i now done t) (hj : j ∉ done) : t.ang.entries[j] = s.ang.entries[j] := by
  rcases h with ⟨-, rfl⟩ | h
  · rfl
  · exact h.other j fun q => hj (List.mem_filter.mp q).1

/-- The step of the pass at entry `j`. -/
def State.passAt (s : State) (target : Word) (now : Angle) (j : Entry) : State :=
  if (s.ang.entries[j]).target = target then s.fireAt j now 7 false else s

/-- An entry that does not fire with `i` is passed over. -/
theorem State.Passed.skip (h : s.Passed i now done t) (hj : s.firesWith i j = false) (hnew : j ∉ done) :
    s.Passed i now (done ++ [j]) (t.passAt (s.ang.entries[i]).target now j) := by
  have hf : (done ++ [j]).filter (s.firesWith i) = done.filter (s.firesWith i) := by simp [hj]
  have ht : t.passAt (s.ang.entries[i]).target now j = t := by
    unfold State.passAt
    split
    · next htgt =>
      refine if_neg fun hc => ?_
      rw [h.entry hnew] at htgt
      simp only [h.entry hnew, Bool.and_eq_true, decide_eq_true_iff] at hc
      obtain ⟨⟨⟨-, harm⟩, hact⟩, -⟩ := hc
      exact Bool.false_ne_true (hj.symm.trans (firesWith_iff.mpr ⟨harm, hact, htgt⟩))
    · rfl
  rw [ht]
  unfold State.Passed
  rw [hf]
  exact h

/-- An entry that fires with `i` fires, as `i` does (R62, R68, R70). -/
theorem State.Passed.fires (h : s.Passed i now done t) (hi : s.Fires i now 7) (hj : s.firesWith i j = true) (hnew : j ∉ done)
    (hroom : s.seq.queue.length + (done.filter (s.firesWith i)).length < 64) :
    s.Passed i now (done ++ [j]) (t.passAt (s.ang.entries[i]).target now j) := by
  have hf : (done ++ [j]).filter (s.firesWith i) = done.filter (s.firesWith i) ++ [j] := by simp [hj]
  obtain ⟨harm, hact, htgt⟩ := firesWith_iff.mp hj
  have hent := h.entry hnew
  have hfires : t.Fires j now 7 := by
    refine ⟨(mayFire_of_regs h.regs).trans hi.may, hent ▸ harm, hent ▸ hact, ?_⟩
    rw [hent, h.volley.angle]
    unfold AngEntry.due
    rw [htgt]
    exact hi.due
  have hstep : t.passAt (s.ang.entries[i]).target now j = ((t.flow now).modEntry j AngEntry.spent).seqFire (s.ang.entries[j]).arg := by
    unfold State.passAt
    rw [if_pos (hent ▸ htgt), hfires.fireAt, act_seqEvent (hent ▸ hact), hent]
    rfl
  rw [hstep]
  unfold State.Passed
  rw [hf]
  exact .inr (h.volley.concat (fun q => hnew (List.mem_filter.mp q).1) hroom)

/-- The pass goes through the entries that are left. -/
theorem State.Passed.run (hi : s.Fires i now 7) : ∀ (l : List Entry) {done : List Entry} {t : State}, s.Passed i now done t →
    (done ++ l).Nodup → s.seq.queue.length + ((done ++ l).filter (s.firesWith i)).length ≤ 64 →
    s.Passed i now (done ++ l) (forEach l (fun j u => u.passAt (s.ang.entries[i]).target now j) t)
  | [], done, t, h, _, _ => by rwa [List.append_nil]
  | j :: l, done, t, h, hn, hq => by
    have hnew : j ∉ done := fun q => (List.nodup_append.mp hn).2.2 j q j List.mem_cons_self rfl
    have hstep : s.Passed i now (done ++ [j]) (t.passAt (s.ang.entries[i]).target now j) := by
      by_cases hj : s.firesWith i j = true
      · refine h.fires hi hj hnew ?_
        simp only [List.filter_append, List.length_append, List.filter_cons_of_pos hj, List.length_cons] at hq
        omega
      · exact h.skip (Bool.not_eq_true _ ▸ hj) hnew
    have hrest := run hi l hstep
    rw [List.append_assoc, List.singleton_append] at hrest
    exact hrest hn hq

/-- R70: with an entry that fires, every SEQ_EVENT entry armed for its target fires, in ascending index. -/
theorem seqEvents_volley (hi : s.Fires i now 7) (hq : s.seq.queue.length + ((List.finRange 64).filter (s.firesWith i)).length ≤ 64) :
    s.Volley now ((List.finRange 64).filter (s.firesWith i)) (s.seqEvents i now) := by
  have hne : (List.finRange 64).filter (s.firesWith i) ≠ [] := List.ne_nil_of_mem
    (List.mem_filter.mpr ⟨List.mem_finRange i, firesWith_iff.mpr ⟨hi.armed, hi.action, rfl⟩⟩)
  have hp := State.Passed.run hi (List.finRange 64) (done := []) (.inl ⟨rfl, rfl⟩) (List.nodup_finRange 64) hq
  unfold State.seqEvents
  rw [if_pos (Bool.and_eq_true_iff.mpr ⟨hi.armed, decide_eq_true hi.action⟩)]
  exact hp.resolve_left fun q => hne q.1

end Sys2Proof.Machine
end

section
/-! ## What an entry's action reaches -/

namespace Sys2Proof.Machine

set_option Elab.async false

variable {s t : State} {i : Entry} {now : Angle} {e : AngEntry}

/-! ### SRV_TARGET, SCRUB_TICK, ZONE_SWITCH (R72) -/

theorem act_srvTarget {g : Group} (h : e.action.toNat = 5) (hg : e.arg.toNat = g.val) (late lead : Bool) :
    s.act e late lead = s.modGroup g (fun x => { x with target := true }) := by
  simp only [State.act, h, hg, State.srvTargetAct, g.isLt, dif_pos, Fin.eta]

theorem act_scrubTick (h : e.action.toNat = 8) (late lead : Bool) : s.act e late lead = s.scrubTickAct := by simp [State.act, h]

theorem act_zoneSwitch (h : e.action.toNat = 9) (late lead : Bool) : s.act e late lead = s.zoneSwitchAct e.arg.toNat := by
  simp [State.act, h]

theorem group_modGroup_same (s : State) (g : Group) (f : SrvGroup → SrvGroup) : (s.modGroup g f).group g = f (s.group g) := by
  simp [State.modGroup, State.group]

theorem group_modGroup_ne (s : State) {g k : Group} (f : SrvGroup → SrvGroup) (h : k ≠ g) : (s.modGroup g f).group k = s.group k := by
  simp [State.modGroup, State.group, Fin.val_inj, h.symm]

/-- R391: the debt grows by what QUOTA asks, and stops at its limit. -/
theorem scrubTickAct_debt (s : State) : (s.scrubTickAct.reg Reg.MIC_SKINK_DEBT).toNat =
    min (2 ^ 24 - 1) ((s.reg Reg.MIC_SKINK_DEBT).toNat + s.rd F.MIC_SKINK_CFG_QUOTA * 1024) := by
  unfold State.scrubTickAct
  rw [State.reg_setReg_same, BitVec.toNat_ofNat]
  omega

theorem scrubTickAct_noted (s : State) : Noted [Reg.MIC_SKINK_DEBT] s s.scrubTickAct :=
  (Noted.refl.pmcRise _ _ _).setReg (.inl (by simp)) _

theorem headBand_of_moves {c : Parts} {as : List Nat} {h : Head} (hm : Moves c as s t) (hn : Reg.ANG_HPOS h ∉ as) :
    t.headBand h = s.headBand h := congrArg (signed 16) (hm.rd hn)

/-- R99: the zone of the band that the head enters next becomes pending, where it is another than the one applied. -/
theorem zoneSwitchAct_pends {h : Head} {z : Nat} (hz : bandZone (s.headBand h + 1) = some z) (hne : z ≠ (s.reg (Reg.ACQ_HZONE h)).toNat) :
    s.zoneSwitchAct h.val = s.zonePend h z := by
  simp only [State.zoneSwitchAct, h.isLt, dif_pos, Fin.eta, hz, hne, if_false]

theorem zonePend_flag (s : State) (h : Head) (z : Nat) : (s.zonePend h z).flag (F.ACQ_PLL_STAT_ZPEND h) = true :=
  State.flag_put_same _ _ _ (by simp) rfl

theorem zonePend_zpend (s : State) (h : Head) (z : Nat) : (s.zonePend h z).acq.zpend[h] = z := by
  simp [State.zonePend]

theorem zonePend_moves (s : State) (h : Head) (z : Nat) : Moves { regs := true, acq := true } [Reg.ACQ_PLL_STAT h] s (s.zonePend h z) := by
  have hm : Moves { regs := true, acq := true } [Reg.ACQ_PLL_STAT h] s { s with acq := { s.acq with zpend := s.acq.zpend.set h z } } :=
    Moves.refl.upd
  exact hm.put _

/-! ### A single SEQ_EVENT -/

theorem filter_single {p : Entry → Bool} (hi : p i = true) (ho : ∀ j, j ≠ i → p j = false) : (List.finRange 64).filter p = [i] := by
  refine List.perm_singleton.mp ((List.perm_ext_iff_of_nodup ((List.nodup_finRange 64).filter p) (List.nodup_singleton i)).mpr fun j => ?_)
  rw [List.mem_filter, List.mem_singleton]
  refine ⟨fun h => ?_, fun h => h ▸ ⟨List.mem_finRange i, hi⟩⟩
  by_contra hj
  exact Bool.false_ne_true ((ho j hj).symm.trans h.2)

theorem entries_ext {u v : Vector AngEntry 64} (h : ∀ j : Entry, u[j] = v[j]) : u = v := Vector.ext fun k hk => h ⟨k, hk⟩

theorem fired_entries (s : State) (i : Entry) (now : Angle) : (s.fired i now).ang.entries[i] = (s.ang.entries[i]).spent ∧
    ∀ j, j ≠ i → (s.fired i now).ang.entries[j] = s.ang.entries[j] := by
  unfold State.fired
  refine ⟨?_, fun j hj => ?_⟩
  · rw [modEntry_same, flow_entries]
    rfl
  · rw [modEntry_ne _ _ hj, flow_entries]

/-- A volley of one entry is that entry's firing. -/
theorem State.Volley.single (h : s.Volley now [i] t) : t = { s.fired i now with seq := { s.seq with queue := t.seq.queue } } := by
  obtain ⟨hsame, hother⟩ := fired_entries s i now
  have hent : t.ang.entries = (s.fired i now).ang.entries := entries_ext fun j => by
    by_cases hj : j = i
    · rw [hj, hsame, h.spent i (by simp)]
    · rw [hother j hj, h.other j (by simpa using hj)]
  have hf := h.of_flow
  unfold State.fired at hent ⊢
  obtain ⟨es, he⟩ := modEntry_eq (s.flow now) i (fun e => { e with armed := false, fired := true, late := false })
  rw [he] at hent ⊢
  rw [hent] at hf
  exact hf

/-- Settles O2: each of the four actions on the state in which its entry has fired, and the volley of one target. -/
theorem entriesFire : Obligations.EntriesFire := by
  refine ⟨fun s i now g hf hg => ?_, fun s i now hf hq ho => ?_, fun s i now hf hq => ?_, fun s i now hf => ?_,
    fun s i now h z hf hh hz hne => ?_⟩
  · have e : s.fireAt i now 5 false = (s.fired i now).modGroup g (fun x => { x with target := true }) :=
      (hf.fireAt false).trans (act_srvTarget hf.action hg _ _)
    have hsrv : (s.fired i now).srv = s.srv := (fired_moves s i now).keep State.srv
    refine ⟨_, congrArg Host.Outcome.next e, by rw [group_modGroup_same], fun k hk => ?_, rfl⟩
    rw [group_modGroup_ne _ _ hk, State.group, hsrv]
    rfl
  · have hl : (List.finRange 64).filter (s.firesWith i) = [i] := filter_single (firesWith_iff.mpr ⟨hf.armed, hf.action, rfl⟩) ho
    have hv := seqEvents_volley hf (by rw [hl]; exact hq)
    rw [hl] at hv
    exact ⟨_, rfl, hv.queue, hv.single⟩
  · have hv := seqEvents_volley hf hq
    refine ⟨_, rfl, hv.queue, fun j hj => ?_, fun j hj => hv.other j (by simp [hj]), hv.of_flow⟩
    rw [hv.spent j (List.mem_filter.mpr ⟨List.mem_finRange j, hj⟩)]
    exact ⟨rfl, rfl⟩
  · have e : s.fireAt i now 8 false = (s.fired i now).scrubTickAct := (hf.fireAt false).trans (act_scrubTick hf.action _ _)
    have hm := fired_moves s i now
    refine ⟨_, congrArg Host.Outcome.next e, ?_, scrubTickAct_noted _⟩
    rw [scrubTickAct_debt, hm.regs _ (by simp), hm.rd (by simp)]
  · have hm := fired_moves s i now
    have e : s.fireAt i now 9 false = (s.fired i now).zonePend h z := by
      rw [hf.fireAt, act_zoneSwitch hf.action, hh]
      exact zoneSwitchAct_pends (by rw [headBand_of_moves hm (by simp)]; exact hz) (by rw [hm.regs _ (by simp)]; exact hne)
    have hz := zonePend_moves (s.fired i now) h z
    exact ⟨_, congrArg Host.Outcome.next e, zonePend_flag _ _ _, zonePend_zpend _ _ _, hz.parts,
      fun a ha => (hz.regs a ha).trans (hm.regs a (by simp))⟩

end Sys2Proof.Machine
end

section
/-! ## The clock PLLs and the reference -/

namespace Sys2Proof.Machine

set_option Elab.async false

variable {s t : State} {h r : Head} {ofs : Int} {run : Nat} {c : Parts} {as : List Nat}

theorem pllStat_inj : ∀ h r : Head, Reg.ACQ_PLL_STAT h = Reg.ACQ_PLL_STAT r → h = r := by decide

/-! ### The state of a PLL (R93) -/

theorem pll_wr (s : State) (h : Head) {k : Nat} (hk : k < 4) : (s.wr (F.ACQ_PLL_STAT_STATE h) k).pll h = k :=
  (State.rd_wr_same _ _ _ (by simp)).trans (Nat.mod_eq_of_lt hk)

theorem rd_bumpF_same (s : State) (f : RegField) (hf : f.lo + f.width ≤ 32) :
    (s.bumpF f).rd f = min (2 ^ f.width - 1) (s.rd f + 1) := by
  have h2 : 0 < 2 ^ f.width := Nat.two_pow_pos _
  exact (State.rd_wr_same _ _ _ hf).trans (Nat.mod_eq_of_lt (by omega))

theorem locked_iff : s.locked h = true ↔ s.pll h = 2 := decide_eq_true_iff

/-! ### Good and missing marks (R95, R105) -/

theorem goodMark_only (s : State) (h : Head) : OnlyRegs [Reg.ACQ_PLL_STAT h] s (s.goodMark h) :=
  (OnlyRegs.refl.bumpF (by simp)).wr (by simp) _

theorem goodMark_fields (s : State) (h : Head) :
    (s.goodMark h).rd (F.ACQ_PLL_STAT_GOODRUN h) = min 15 (s.rd (F.ACQ_PLL_STAT_GOODRUN h) + 1) ∧
    (s.goodMark h).rd (F.ACQ_PLL_STAT_MISSRUN h) = 0 ∧ (s.goodMark h).pll h = s.pll h := by
  unfold State.goodMark
  refine ⟨?_, State.rd_wr_same _ _ _ (by simp), ?_⟩
  · exact (State.rd_wr_disjoint _ _ _ _ (by simp) (by simp)).trans (rd_bumpF_same s (F.ACQ_PLL_STAT_GOODRUN h) (by simp))
  · unfold State.pll State.bumpF
    rw [State.rd_wr_disjoint _ _ _ _ (by simp) (by simp), State.rd_wr_disjoint _ _ _ _ (by simp) (by simp)]

theorem setSeek_seek (s : State) (h : Head) (n : Nat) : (s.setSeek h n).acq.seek[h] = n := by simp [State.setSeek]

theorem setSeek_moves (s : State) (h : Head) (n : Nat) : Moves { acq := true } [] s (s.setSeek h n) := Moves.refl.upd

theorem missMark_only (s : State) (h : Head) :
    OnlyRegs [Reg.ACQ_MISS_CNT h, Reg.ACQ_PLL_STAT h] (s.setSeek h 0) (s.missMark h) :=
  ((OnlyRegs.refl.bump (by simp)).wr (by simp) _).wr (by simp) _

theorem missCnt_ne_pllStat (h : Head) : Reg.ACQ_MISS_CNT h ≠ Reg.ACQ_PLL_STAT h := by
  simp only [Reg.ACQ_MISS_CNT, Reg.ACQ_PLL_STAT]; omega

theorem missMark_fields (s : State) (h : Head) : Counts s (s.missMark h) (Reg.ACQ_MISS_CNT h) ∧
    (s.missMark h).rd (F.ACQ_PLL_STAT_GOODRUN h) = 0 ∧
    (s.missMark h).rd (F.ACQ_PLL_STAT_MISSRUN h) = min 64 (s.rd (F.ACQ_PLL_STAT_MISSRUN h) + 1) ∧ (s.missMark h).pll h = s.pll h := by
  have hne := missCnt_ne_pllStat h
  unfold State.missMark
  extract_lets s1
  have hrd : ∀ lo n, n + lo ≤ 32 → (lo + n ≤ 20 ∨ 24 ≤ lo) → s1.rd ⟨Reg.ACQ_PLL_STAT h, lo, n⟩ = s.rd ⟨Reg.ACQ_PLL_STAT h, lo, n⟩ :=
    fun lo n hw hd => (State.rd_wr_disjoint _ _ _ _ (by simpa [Nat.add_comm] using hw) (by simpa using hd)).trans
      (State.rd_bump_ne _ _ hne.symm)
  refine ⟨?_, ?_, ?_, ?_⟩
  · exact (State.reg_wr_ne _ _ _ hne).trans ((State.reg_wr_ne _ _ _ hne).trans (State.reg_bump_same _ _))
  · exact (State.rd_wr_disjoint _ _ _ _ (by simp) (by simp)).trans (State.rd_wr_same _ _ _ (by simp))
  · rw [State.rd_wr_same _ _ _ (by simp), hrd 24 7 (by simp) (by simp)]
    exact Nat.mod_eq_of_lt (lt_of_le_of_lt (Nat.min_le_left _ _) (by simp))
  · exact (State.rd_wr_disjoint _ _ _ _ (by simp) (by simp)).trans (hrd 0 2 (by simp) (by simp))

/-! ### The reference (R57) -/

theorem setAngFlags_only (s : State) (v o : Bool) : OnlyRegs [Reg.ANG_NOW_HI] s (s.setAngFlags v o) := OnlyRegs.refl.setReg (by simp) _

theorem setAngFlags_angValid (s : State) (v o : Bool) : (s.setAngFlags v o).angValid = v := by
  unfold State.angValid State.setAngFlags
  rw [State.reg_setReg_same]
  cases v <;> cases o <;> decide

theorem refHead_of_moves (hm : Moves c as s t) (hn : Reg.ANG_STAT ∉ as) : t.refHead = s.refHead := congrArg (Fin.ofNat 4) (hm.rd hn)

/-- Head `h` is the reference, and what the heads last led the angle by is counted from it. -/
def State.refMoved (s : State) (h : Head) : State :=
  let t := s.wr F.ANG_STAT_REFHEAD h.val
  { t with ang := { t.ang with heads := t.ang.heads.map (fun x => { x with delta := x.delta - (s.ang.heads[h]).delta }) } }

theorem refMoved_moves (s : State) (h : Head) : Moves { regs := true, ang := true } [Reg.ANG_STAT] s (s.refMoved h) := by
  have hm : Moves { regs := true, ang := true } [Reg.ANG_STAT] s (s.wr F.ANG_STAT_REFHEAD h.val) := Moves.refl.wr _
  exact hm.upd

theorem refMoved_refHead (s : State) (h : Head) : (s.refMoved h).refHead = h := by
  have hr : (s.wr F.ANG_STAT_REFHEAD h.val).rd F.ANG_STAT_REFHEAD = h.val :=
    (State.rd_wr_same _ _ _ (by simp)).trans (Nat.mod_eq_of_lt h.isLt)
  exact (congrArg (Fin.ofNat 4) ((State.rd_of_regs rfl _).trans hr)).trans (Fin.ofNat_val_eq_self h)

theorem refMoved_ang (s : State) (h : Head) : ∃ x, (s.refMoved h).ang = { s.ang with heads := x } := by
  unfold State.refMoved
  extract_lets t
  have ht : t.ang = s.ang := State.wr_ang _ _ _
  dsimp only
  rw [ht]
  exact ⟨_, rfl⟩

theorem angValid_of_moves (hm : Moves c as s t) (hn : Reg.ANG_NOW_HI ∉ as) : t.angValid = s.angValid :=
  congrArg (·.getLsbD 31) (hm.regs _ hn)

theorem setAngFlags_refHead (s : State) (v o : Bool) : (s.setAngFlags v o).refHead = s.refHead :=
  refHead_of_moves (Moves.of_onlyRegs (setAngFlags_only _ _ _)) (by simp)

/-- R57: the reference that is wanted is the reference already. -/
theorem refUpdate_same (hw : s.refWanted = some h) (hr : h = s.refHead) : s.refUpdate = s.setAngFlags s.angValid false := by
  unfold State.refUpdate
  split
  · next hw' => exact absurd (hw'.symm.trans hw) (by simp)
  · next k hw' =>
    obtain rfl : k = h := Option.some.inj (hw'.symm.trans hw)
    exact if_pos (hr.trans (setAngFlags_refHead _ _ _).symm)

/-- R57: with the angle invalid a change of reference is no step. -/
theorem refUpdate_invalid (hw : s.refWanted = some h) (hr : h ≠ s.refHead) (hv : s.angValid = false) :
    s.refUpdate = (s.setAngFlags s.angValid false).refMoved h := by
  unfold State.refUpdate
  split
  · next hw' => exact absurd (hw'.symm.trans hw) (by simp)
  · next k hw' =>
    obtain rfl : k = h := Option.some.inj (hw'.symm.trans hw)
    have hv' : ((s.setAngFlags s.angValid false).refMoved k).angValid = false :=
      (angValid_of_moves (refMoved_moves _ _) (by simp)).trans ((setAngFlags_angValid _ _ _).trans hv)
    refine (if_neg fun e => hr (e.trans (setAngFlags_refHead _ _ _))).trans (if_neg fun e => ?_)
    exact Bool.false_ne_true (hv'.symm.trans e)

/-- A change of reference that is no step: the flags of the angle and the reference head alone follow. -/
theorem refUpdate_noStep (hw : s.refWanted = some h) (hn : h = s.refHead ∨ s.angValid = false) : s.refUpdate.refHead = h ∧
    (∃ x, s.refUpdate.ang = { s.ang with heads := x }) ∧
    Moves { regs := true, ang := true } [Reg.ANG_STAT, Reg.ANG_NOW_HI] s s.refUpdate := by
  have hf : Moves { regs := true, ang := true } [Reg.ANG_STAT, Reg.ANG_NOW_HI] s (s.setAngFlags s.angValid false) :=
    (Moves.of_onlyRegs (setAngFlags_only _ _ _)).mono rfl (by simp)
  by_cases hr : h = s.refHead
  · rw [refUpdate_same hw hr]
    exact ⟨(setAngFlags_refHead _ _ _).trans hr.symm, ⟨_, State.setReg_ang _ _ _⟩, hf⟩
  · rw [refUpdate_invalid hw hr (hn.resolve_left hr)]
    exact ⟨refMoved_refHead _ _, (State.setReg_ang s Reg.ANG_NOW_HI _) ▸ refMoved_ang (s.setAngFlags s.angValid false) h,
      hf.then_ (refMoved_moves _ _) rfl (by simp)⟩

/-- The reference is the fixed head `r`, which is locked: another head's loss does not move it. -/
structure State.FixedRef (s : State) (r : Head) : Prop where
  sel    : s.rd F.ANG_CTRL_REFSEL = r.val
  head   : s.refHead = r
  locked : s.locked r = true

theorem State.FixedRef.of_moves (hr : s.FixedRef r) (hm : Moves c as s t) (hc : Reg.ANG_CTRL ∉ as) (hs : Reg.ANG_STAT ∉ as)
    (hp : Reg.ACQ_PLL_STAT r ∉ as) : t.FixedRef r :=
  ⟨(hm.rd hc).trans hr.sel, (refHead_of_moves hm hs).trans hr.head, locked_iff.mpr ((hm.rd hp).trans (locked_iff.mp hr.locked))⟩

theorem State.FixedRef.refUpdate (hr : s.FixedRef r) : s.refUpdate = s.setAngFlags s.angValid false := by
  have hw : s.refWanted = some r := by
    unfold State.refWanted
    simp only [hr.sel, r.isLt, dif_pos, Fin.eta, hr.locked, if_true]
  exact refUpdate_same hw hr.head.symm

/-! ### Acceptance (R93, R97, R106) -/

theorem pllOut_of_speed (hs : s.pllSpeed = true) : s.pllOut = false := by simp [State.pllOut, hs]

theorem execFrameMarkGood_ignored (hn : s.pllOut = true ∨ s.clockOn h = false) : execFrameMarkGood h ofs run s = .next s := by
  unfold execFrameMarkGood
  exact if_pos (by rcases hn with hn | hn <;> simp [hn])

theorem execFrameMarkGood_locked (hc : s.clockOn h = true) (ho : s.pllOut = false) (hp : s.pll h = 2) :
    execFrameMarkGood h ofs run s = if ofs.natAbs > 128 then .next (s.bump (Reg.ACQ_MARK_OUT_CNT h))
      else if 64 ≤ run then .next (s.goodMark h) else .next s := by
  unfold execFrameMarkGood
  simp only [hc, ho, hp, Bool.not_true, Bool.or_self, Bool.false_eq_true, if_false]

/-- In SEARCH a good mark on prediction lengthens the run, and the mark that completes it locks (R93). -/
theorem execFrameMarkGood_search (hc : s.clockOn h = true) (hp : s.pll h = 1) (hl : 288 ≤ run) (hu : run ≤ 352) (hs : s.pllSpeed = true)
    (ho : ofs.natAbs ≤ 64) : execFrameMarkGood h ofs run s =
      .next (if s.rd (F.ACQ_PLL_CTRL_LOCKN h) ≤ s.acq.seek[h] + 1 then ((s.goodMark h).setSeek h (s.acq.seek[h] + 1)).pllLock h
        else (s.goodMark h).setSeek h (s.acq.seek[h] + 1)) := by
  have hn : ((s.goodMark h).setSeek h (s.acq.seek[h] + 1)).rd (F.ACQ_PLL_CTRL_LOCKN h) = s.rd (F.ACQ_PLL_CTRL_LOCKN h) :=
    ((setSeek_moves _ _ _).rd (by simp)).trans ((Moves.of_onlyRegs (goodMark_only s h)).rd
      (by simp only [Reg.ACQ_PLL_CTRL, Reg.ACQ_PLL_STAT, List.mem_singleton]; omega))
  unfold execFrameMarkGood
  simp only [hc, pllOut_of_speed hs, hp, hl, hu, hs, ho, hn, Bool.not_true, Bool.or_self, Bool.false_eq_true, if_false, decide_true,
    Bool.and_self, if_true, ge_iff_le]

end Sys2Proof.Machine
end

section
/-! ## Lock, hold-over and loss of a head -/

namespace Sys2Proof.Machine

set_option Elab.async false

variable {s t : State} {h r : Head} {c : Parts} {as : List Nat}

/-! ### What a loss finds nothing of -/

theorem gateEarly_none {b : Beam} (hg : (s.wrp.beams[b]).gate = none) : s.gateEarly b = s := by
  unfold State.gateEarly
  rw [hg]

theorem gatesEarly_none (hg : ∀ d, d < 4 → (s.wrp.beams[headBeam h d]).gate = none) : s.gatesEarly h = s :=
  forEach_stays (f := fun d s => s.gateEarly (headBeam h d)) fun d hd => gateEarly_none (hg d (List.mem_range.mp hd))

theorem runAbort_none {b : Beam} (hr : (s.det[b]).run = none) (begin_ : Bool) : s.runAbort b begin_ = s := by
  unfold State.runAbort
  rw [hr]

theorem headAbort_none (hr : ∀ d, d < 4 → (s.det[headBeam h d]).run = none) : s.headAbort h = s :=
  forEach_stays fun d hd => runAbort_none (hr d (List.mem_range.mp hd)) _

/-! ### A PLL that locks (R93) -/

theorem modAng_same (s : State) (h : Head) (f : AngHead → AngHead) : (s.modAng h f).ang.heads[h] = f s.ang.heads[h] := by
  simp [State.modAng]

theorem modAng_moves (s : State) (h : Head) (f : AngHead → AngHead) : Moves { ang := true } [] s (s.modAng h f) := Moves.refl.upd

/-- The state of a head whose PLL has just locked, before the reference is reconsidered. -/
def State.pllLocked (s : State) (h : Head) : State :=
  ((s.wr (F.ACQ_PLL_STAT_STATE h) 2).put (F.ACQ_PLL_STAT_RATEERR h) ((s.wr (F.ACQ_PLL_STAT_STATE h) 2).rateOver h)).modAng h
    fun a => { a with last := none, relock := true }

theorem pllLocked_pll (s : State) (h : Head) : (s.pllLocked h).pll h = 2 :=
  ((modAng_moves _ _ _).rd (by simp)).trans ((State.rd_put_disjoint _ _ _ _ (by simp) (by simp)).trans (pll_wr s h (by decide)))

theorem pllLocked_moves (s : State) (h : Head) : Moves { regs := true, ang := true } [Reg.ACQ_PLL_STAT h] s (s.pllLocked h) :=
  ((Moves.refl.wr _).put _).then_ (modAng_moves _ _ _) rfl (by simp)

theorem pllLocked_head (s : State) (h : Head) :
    ((s.pllLocked h).ang.heads[h]).last = none ∧ ((s.pllLocked h).ang.heads[h]).relock = true := by
  unfold State.pllLocked
  rw [modAng_same]
  exact ⟨rfl, rfl⟩

/-- Another head's PLL leaves a fixed reference alone. -/
theorem State.FixedRef.of_pll (hr : s.FixedRef r) (hne : r ≠ h) (hm : Moves c [Reg.ACQ_PLL_STAT h] s t) : t.FixedRef r :=
  hr.of_moves hm (by simp [Reg.ANG_CTRL, Reg.ACQ_PLL_STAT]; omega) (by simp [Reg.ANG_STAT, Reg.ACQ_PLL_STAT]; omega)
    (by simpa using fun q => hne (pllStat_inj r h q))

/-- R57, R93: beside a fixed reference a PLL locks without a step of the angle. -/
theorem pllLock_beside (hr : s.FixedRef r) (hne : r ≠ h) :
    s.pllLock h = (s.pllLocked h).setAngFlags (s.pllLocked h).angValid false :=
  (hr.of_pll hne (pllLocked_moves s h)).refUpdate

/-! ### Hold-over (R14, R93, R94) -/

/-- The registers of a PLL that goes to HOLDOVER. -/
def holdRegs (h : Head) : List Nat := [Reg.ACQ_MISS_CNT h, Reg.ACQ_PLL_STAT h, Reg.ACQ_HOLD_CNT h]

/-- The state of a head whose PLL has just gone to HOLDOVER, the performance counters not yet told. -/
def State.held (s : State) (h : Head) : State := ((s.missMark h).wr (F.ACQ_PLL_STAT_STATE h) 3).bump (Reg.ACQ_HOLD_CNT h)

theorem held_only (s : State) (h : Head) : OnlyRegs (holdRegs h) (s.setSeek h 0) (s.held h) :=
  (((missMark_only s h).mono (by simp [holdRegs])).wr (by simp [holdRegs]) _).bump (by simp [holdRegs])

theorem holdRegs_distinct : ∀ h : Head, Reg.ACQ_PLL_STAT h ≠ Reg.ACQ_HOLD_CNT h ∧ Reg.ACQ_MISS_CNT h ≠ Reg.ACQ_HOLD_CNT h ∧
    Reg.ACQ_MISS_CNT h ≠ Reg.ACQ_PLL_STAT h := by decide

theorem held_fields (s : State) (h : Head) :
    (s.held h).pll h = 3 ∧ Counts s (s.held h) (Reg.ACQ_MISS_CNT h) ∧ Counts s (s.held h) (Reg.ACQ_HOLD_CNT h) := by
  obtain ⟨hph, hmh, hmp⟩ := holdRegs_distinct h
  have hmiss : Moves { regs := true, acq := true } [Reg.ACQ_MISS_CNT h, Reg.ACQ_PLL_STAT h] s
      ((s.missMark h).wr (F.ACQ_PLL_STAT_STATE h) 3) :=
    ((setSeek_moves s h 0).mono rfl (by simp)).then_ (Moves.of_onlyRegs ((missMark_only s h).wr (by simp) 3)) rfl (List.Subset.refl _)
  refine ⟨?_, ?_, ?_⟩
  · exact (State.rd_bump_ne _ _ hph).trans (pll_wr _ _ (by decide))
  · exact ((State.reg_bump_ne _ _ hmh).trans (State.reg_wr_ne _ _ _ hmp)).trans (missMark_fields s h).1
  · exact Counts.bump.after hmiss (by simp)

theorem holdRegs_not_noted : ∀ h : Head, ∀ a ∈ holdRegs h, a ∉ [Reg.ANG_NOW_HI] ++ noteRegs := by decide

theorem refRegs_apart : ∀ h r : Head, r ≠ h → ∀ a ∈ [Reg.ANG_CTRL, Reg.ANG_STAT, Reg.ACQ_PLL_STAT r], a ∉ holdRegs h ++ noteRegs := by decide

/-- R14, R57: beside a fixed reference, and with no gate of the head open, a missing mark leads into hold-over. -/
theorem execFrameMarkMissing_holds (hr : s.FixedRef r) (hne : r ≠ h) (hp : s.pll h = 2)
    (hg : ∀ d, d < 4 → (s.wrp.beams[headBeam h d]).gate = none) : Ends (execFrameMarkMissing h s) fun t =>
      Noted [Reg.ANG_NOW_HI] (s.held h) t := by
  have hn : Noted [] (s.held h) ((s.held h).pmcEdge (0x100 + h)) := Noted.refl.pmcEdge _
  have hw : ((s.held h).pmcEdge (0x100 + h)).wrp = s.wrp :=
    ((Moves.of_noted hn).keep State.wrp).trans ((Moves.of_onlyRegs (held_only s h)).keep State.wrp)
  have hm : Moves { regs := true, acq := true, hlk := true } (holdRegs h ++ noteRegs) s ((s.held h).pmcEdge (0x100 + h)) :=
    (((setSeek_moves s h 0).mono rfl (by simp)).then_ (Moves.of_onlyRegs (held_only s h)) rfl (List.subset_append_left _ _)).then_
      (Moves.of_noted hn) rfl (List.subset_append_right _ _)
  have ha := refRegs_apart h r hne
  have hf : ((s.held h).pmcEdge (0x100 + h)).FixedRef r := hr.of_moves hm (ha _ (by simp)) (ha _ (by simp)) (ha _ (by simp))
  have e : execFrameMarkMissing h s = .next ((((s.held h).pmcEdge (0x100 + h)).gatesEarly h).refUpdate) := by
    unfold execFrameMarkMissing
    simp only [hp]
    rfl
  rw [e, gatesEarly_none (by rw [hw]; exact hg), hf.refUpdate]
  exact .next ((Noted.refl.pmcEdge _).setReg (.inl (by simp)) _)

/-! ### A head that is unlocked (R14, R95) -/

theorem pllSearch_moves (s : State) (h : Head) : Moves { regs := true, acq := true } [Reg.ACQ_PLL_STAT h] s (s.pllSearch h) := by
  unfold State.pllSearch
  extract_lets f
  have hm : Moves { regs := true, acq := true } [Reg.ACQ_PLL_STAT h] s { s with acq := { s.acq with freq := s.acq.freq.set h f } } :=
    Moves.refl.upd
  exact (hm.then_ (setSeek_moves _ _ _) rfl (by simp)).wr _

theorem pllSearch_pll (s : State) (h : Head) : (s.pllSearch h).pll h = 1 := pll_wr _ _ (by decide)

theorem pllSearch_seek (s : State) (h : Head) : (s.pllSearch h).acq.seek[h] = 0 := by
  unfold State.pllSearch
  rw [State.wr_acq, setSeek_seek]

theorem unlockRegs_distinct : ∀ h : Head, Reg.ACQ_PLL_STAT h ≠ Reg.ACQ_UNLOCK_CNT h := by decide

theorem unlockRegs_apart : ∀ h r : Head, r ≠ h → ∀ a ∈ [Reg.ANG_CTRL, Reg.ANG_STAT, Reg.ACQ_PLL_STAT r, Reg.LSV_H_STAT h],
    a ∉ [Reg.ACQ_PLL_STAT h, Reg.ACQ_UNLOCK_CNT h] ∧ a ≠ Reg.ANG_NOW_HI := by decide

/-- The state of a head that has just been unlocked, the reference not yet reconsidered. -/
def State.unlocked (s : State) (h : Head) : State := (s.pllSearch h).bump (Reg.ACQ_UNLOCK_CNT h)

theorem unlocked_moves (s : State) (h : Head) :
    Moves { regs := true, acq := true } [Reg.ACQ_PLL_STAT h, Reg.ACQ_UNLOCK_CNT h] s (s.unlocked h) :=
  ((pllSearch_moves s h).mono rfl (by simp)).bump

/-- R14, R57: beside a fixed reference, with no slot of the head in capture and the head out of FOLLOW, its PLL goes to SEARCH. -/
theorem execHeadUnlocked_searches (hr : s.FixedRef r) (hne : r ≠ h) (hp : s.pll h = 3) (hmiss : s.rd (F.ACQ_PLL_STAT_MISSRUN h) = 64)
    (hd : ∀ d, d < 4 → (s.det[headBeam h d]).run = none) (hst : s.rd (F.LSV_H_STAT_STATE h) ≠ 6) : Ends (execHeadUnlocked h s) fun t =>
      t.pll h = 1 ∧ Counts s t (Reg.ACQ_UNLOCK_CNT h) ∧
      Moves { regs := true, acq := true } [Reg.ACQ_PLL_STAT h, Reg.ACQ_UNLOCK_CNT h, Reg.ANG_NOW_HI] s t := by
  have hm := unlocked_moves s h
  have ha := unlockRegs_apart h r hne
  have hdist := unlockRegs_distinct h
  have hf : (s.unlocked h).FixedRef r := hr.of_moves hm (ha _ (by simp)).1 (ha _ (by simp)).1 (ha _ (by simp)).1
  have hv := Moves.of_onlyRegs (setAngFlags_only (s.unlocked h) (s.unlocked h).angValid false)
  unfold execHeadUnlocked
  rw [if_pos ⟨hp, hmiss⟩]
  extract_lets s1 s2
  have h1 : s1 = s.unlocked h := headAbort_none (s := s.unlocked h) (by rw [hm.keep State.det]; exact hd)
  have h2 : s2 = (s.unlocked h).setAngFlags (s.unlocked h).angValid false := by
    unfold s2
    rw [h1, hf.refUpdate]
  rw [h2, if_neg (by rw [hv.rd (by simpa using (ha _ (by simp)).2), hm.rd (ha _ (by simp)).1]; exact hst)]
  refine .next ⟨?_, ?_, (hm.mono rfl (by simp)).then_ hv rfl (by simp)⟩
  · have hn : Reg.ACQ_PLL_STAT h ∉ [Reg.ANG_NOW_HI] := by simp [Reg.ACQ_PLL_STAT, Reg.ANG_NOW_HI]; omega
    exact (hv.rd hn).trans ((State.rd_bump_ne _ _ hdist).trans (pllSearch_pll s h))
  · have hn : Reg.ACQ_UNLOCK_CNT h ∉ [Reg.ANG_NOW_HI] := by simp [Reg.ACQ_UNLOCK_CNT, Reg.ANG_NOW_HI]; omega
    exact ((Counts.bump (s := s.pllSearch h)).after (pllSearch_moves s h) (by simp)).then_ hv hn

end Sys2Proof.Machine
end

section
/-! ## Clock track and reference -/

namespace Sys2Proof.Machine

set_option Elab.async false

variable {s : State} {h r : Head} {ofs : Int} {run : Nat}

theorem OnlyRegs.setSeek {as : List Nat} {t : State} (hm : OnlyRegs as s t) (h : Head) (n : Nat) :
    OnlyRegs as (s.setSeek h n) (t.setSeek h n) := by
  obtain ⟨e, hregs⟩ := hm
  refine ⟨?_, hregs⟩
  generalize t.regs = r at e
  subst e
  rfl

/-! ### Writes of `ANG_CTRL` and `ACQ_PLL_CTRL` -/

theorem execRefselWrite_noStep {v : Word} (hv : F.ANG_CTRL_REFSEL.of v ≤ 4)
    (hw : (s.setReg Reg.ANG_CTRL (v &&& 0x1F)).refWanted = some h) (hn : h = s.refHead ∨ s.angValid = false) :
    Ends (execRefselWrite v s) fun t => t.reg Reg.ANG_CTRL = v &&& 0x1F ∧ t.refHead = h ∧ (∃ x, t.ang = { s.ang with heads := x }) ∧
      Moves { regs := true, ang := true } [Reg.ANG_CTRL, Reg.ANG_STAT, Reg.ANG_NOW_HI] s t := by
  have h1 : Moves { regs := true } [Reg.ANG_CTRL] s (s.setReg Reg.ANG_CTRL (v &&& 0x1F)) := Moves.refl.setReg _
  obtain ⟨href, hang, hm⟩ := refUpdate_noStep hw (hn.imp (·.trans (refHead_of_moves h1 (by simp)).symm)
    (angValid_of_moves h1 (by simp)).trans)
  unfold execRefselWrite State.angCtrlWrite
  rw [if_neg (Nat.not_lt.mpr hv)]
  exact .next ⟨(hm.regs _ (by simp)).trans (State.reg_setReg_same _ _ _), href, hang,
    (h1.mono rfl (by simp)).then_ hm rfl (by simp)⟩

/-- R93, R104: a write of EN with its other fields in range takes a PLL from OFF to SEARCH. -/
theorem execPllEnable_searches {v : Word} (hv : v.getLsbD 0 = true) (hl : 2 ≤ (F.ACQ_PLL_CTRL_LOCKN h).of v)
    (hl' : (F.ACQ_PLL_CTRL_LOCKN h).of v ≤ 8) (hw : 16 ≤ (F.ACQ_PLL_CTRL_HOWIN h).of v) (hw' : (F.ACQ_PLL_CTRL_HOWIN h).of v ≤ 64)
    (hp : s.pll h = 0) : Ends (execPllEnable h v s) fun t => t.pll h = 1 ∧ t.rd (F.ACQ_PLL_STAT_GOODRUN h) = 0 ∧
      t.reg (Reg.ACQ_PLL_CTRL h) = v &&& 0xFFF3 ∧ t.acq.seek[h] = 0 ∧
      Moves { regs := true, acq := true } [Reg.ACQ_PLL_CTRL h, Reg.ACQ_PLL_STAT h] s t := by
  have hne : Reg.ACQ_PLL_STAT h ≠ Reg.ACQ_PLL_CTRL h := by simp only [Reg.ACQ_PLL_STAT, Reg.ACQ_PLL_CTRL]; omega
  have hr : ¬ (decide ((F.ACQ_PLL_CTRL_LOCKN h).of v < 2) || decide (8 < (F.ACQ_PLL_CTRL_LOCKN h).of v) ||
      decide ((F.ACQ_PLL_CTRL_HOWIN h).of v < 16) || decide (64 < (F.ACQ_PLL_CTRL_HOWIN h).of v)) = true := by
    simp only [Bool.or_eq_true, decide_eq_true_iff]
    omega
  unfold execPllEnable State.pllCtrlWrite
  extract_lets lockn howin s1
  have h1 : Moves { regs := true, acq := true } [Reg.ACQ_PLL_CTRL h, Reg.ACQ_PLL_STAT h] s s1 := Moves.refl.setReg _
  have hp1 : s1.pll h = 0 := (State.rd_setReg_ne _ _ _ hne).trans hp
  have hc1 : s1.reg (Reg.ACQ_PLL_CTRL h) = v &&& 0xFFF3 := State.reg_setReg_same _ _ _
  have hm := pllSearch_moves s1 h
  rw [if_neg hr, if_pos hv, if_pos hp1]
  refine .next ⟨?_, State.rd_wr_same _ _ _ (by simp), ?_, ?_, (h1.then_ hm rfl (by simp)).wr _⟩
  · exact (State.rd_wr_disjoint _ _ _ _ (by simp) (by simp)).trans (pllSearch_pll _ _)
  · exact (State.reg_wr_ne _ _ _ hne.symm).trans ((hm.regs _ (by simp)).trans hc1)
  · rw [State.wr_acq, pllSearch_seek]

/-! ### The angle turns invalid (R67) -/

theorem execAngleInvalid_turns (hv : s.angValid = true) (hl : ∀ h : Head, s.locked h = false) : Ends (execAngleInvalid s) fun t =>
    t.angValid = false ∧ Moves { regs := true } [Reg.ANG_NOW_HI, Reg.SPN_SPEED, Reg.SPN_STAT] s t := by
  have hn : (List.finRange 4).any s.locked = false := List.any_eq_false.mpr fun k _ => by rw [hl k]; exact Bool.false_ne_true
  have hm := speedNow_moves (s.setAngFlags false false)
  unfold execAngleInvalid
  rw [if_pos (by rw [hv, hn]; rfl)]
  exact .next ⟨(angValid_of_moves hm (by simp)).trans (setAngFlags_angValid _ _ _),
    ((Moves.of_onlyRegs (setAngFlags_only s false false)).mono rfl (by simp)).then_ hm rfl (by simp)⟩

/-- A mark that is missing where it moves nothing but its counts: in SEARCH and HOLDOVER. -/
theorem execFrameMarkMissing_counts {k : Nat} (hp : s.pll h = k) (hk : k = 1 ∨ k = 3) : execFrameMarkMissing h s = .next (s.missMark h) := by
  unfold execFrameMarkMissing
  rcases hk with rfl | rfl <;> simp only [hp]

/-- R57, R93: beside a fixed reference the good mark that completes the run of SEARCH locks the PLL, and a relock is awaited. -/
theorem execFrameMarkGood_locks (hr : s.FixedRef r) (hne : r ≠ h) (hc : s.clockOn h = true) (hp : s.pll h = 1) (hl : 288 ≤ run)
    (hu : run ≤ 352) (hs : s.pllSpeed = true) (hofs : ofs.natAbs ≤ 64) (hseek : s.rd (F.ACQ_PLL_CTRL_LOCKN h) ≤ s.acq.seek[h] + 1) :
    Ends (execFrameMarkGood h ofs run s) fun t => t.pll h = 2 ∧ (t.ang.heads[h]).last = none ∧ (t.ang.heads[h]).relock = true ∧
      Moves { regs := true, acq := true, ang := true } [Reg.ACQ_PLL_STAT h, Reg.ANG_NOW_HI] s t := by
  have h1 : Moves { regs := true, acq := true } [Reg.ACQ_PLL_STAT h] s ((s.goodMark h).setSeek h (s.acq.seek[h] + 1)) :=
    ((Moves.of_onlyRegs (goodMark_only s h)).mono rfl (List.Subset.refl _)).then_ (setSeek_moves _ _ _) rfl (by simp)
  rw [execFrameMarkGood_search hc hp hl hu hs hofs, if_pos hseek, pllLock_beside (hr.of_pll hne h1) hne]
  generalize (s.goodMark h).setSeek h (s.acq.seek[h] + 1) = s1 at h1
  have hf := Moves.of_onlyRegs (setAngFlags_only (s1.pllLocked h) (s1.pllLocked h).angValid false)
  have hn : Reg.ACQ_PLL_STAT h ∉ [Reg.ANG_NOW_HI] := by simp [Reg.ACQ_PLL_STAT, Reg.ANG_NOW_HI]; omega
  obtain ⟨hlast, hre⟩ := pllLocked_head s1 h
  exact .next ⟨(hf.rd hn).trans (pllLocked_pll _ h), hlast, hre,
    ((h1.mono rfl (by simp)).then_ (pllLocked_moves _ h) rfl (by simp)).then_ hf rfl (by simp)⟩

/-- Settles O1: what a write of REFSEL, a good and a missing mark, a loss and an enable make of the PLLs, the reference standing. -/
theorem clockTrackAndReference : Obligations.ClockTrackAndReference := by
  refine ⟨fun s v hv => ?_, fun s v h hv hw hn => ?_, fun s h ofs run hc ho hp hofs hrun => ?_, fun s h ofs run hc ho hp hofs => ?_,
    fun s h hp => ?_, fun s h hp => ?_, fun s h ofs run hc hp hl hu hs hofs hseek => ?_,
    fun s h r ofs run hne hsel hhead hlock hc hp hl hu hs hofs hseek => ?_, fun s h r hne hsel hhead hlock hp hg => ?_,
    fun s h r hne hsel hhead hlock hp hmiss hd hst => ?_, fun s hv hl => ?_, fun s h v hv hl hl' hw hw' hp => ?_,
    fun s h ofs run hn => execFrameMarkGood_ignored hn⟩
  · have e : execRefselWrite v s = .next (s.put F.ANG_STAT_CFGERR true) := congrArg Host.Outcome.next (if_pos hv)
    exact ⟨_, e, State.flag_put_same _ _ _ (by simp) rfl, OnlyRegs.refl.put (by simp) _⟩
  · obtain ⟨t, e, hctl, href, ⟨x, hang⟩, hm⟩ := execRefselWrite_noStep hv hw hn
    exact ⟨t, e, hctl, href, by rw [hang], by rw [hang], by rw [hang], hm.parts, hm.regs⟩
  · obtain ⟨hgood, hmiss, hpll⟩ := goodMark_fields s h
    have e : execFrameMarkGood h ofs run s = .next (s.goodMark h) :=
      (execFrameMarkGood_locked hc ho hp).trans ((if_neg (Nat.not_lt.mpr hofs)).trans (if_pos hrun))
    exact ⟨_, e, hgood, hmiss, hpll.trans hp, goodMark_only s h⟩
  · have e : execFrameMarkGood h ofs run s = .next (s.bump (Reg.ACQ_MARK_OUT_CNT h)) :=
      (execFrameMarkGood_locked hc ho hp).trans (if_pos hofs)
    exact ⟨_, e, .bump, OnlyRegs.refl.bump (by simp)⟩
  · obtain ⟨hcnt, hgood, hmiss, hpll⟩ := missMark_fields s h
    exact ⟨_, execFrameMarkMissing_counts hp (.inr rfl), hcnt, hgood, hmiss, hpll.trans hp, missMark_only s h⟩
  · obtain ⟨hcnt, -, -, hpll⟩ := missMark_fields s h
    have hseek : (s.missMark h).acq.seek[h] = 0 := by
      rw [(Moves.of_onlyRegs (missMark_only s h)).keep State.acq, setSeek_seek]
    exact ⟨_, execFrameMarkMissing_counts hp (.inl rfl), hcnt, hseek, hpll.trans hp, missMark_only s h⟩
  · obtain ⟨-, -, hpll⟩ := goodMark_fields s h
    have e := (execFrameMarkGood_search hc hp hl hu hs hofs).trans (congrArg _ (if_neg (Nat.not_le.mpr hseek)))
    exact ⟨_, e, setSeek_seek _ _ _, ((setSeek_moves _ _ _).rd (by simp)).trans (hpll.trans hp), (goodMark_only s h).setSeek _ _⟩
  · obtain ⟨t, e, hpll, hlast, hre, hm⟩ := execFrameMarkGood_locks ⟨hsel, hhead, hlock⟩ hne hc hp hl hu hs hofs hseek
    exact ⟨t, e, hpll, hlast, hre, hm.parts, hm.regs⟩
  · obtain ⟨t, e, ht⟩ := execFrameMarkMissing_holds ⟨hsel, hhead, hlock⟩ hne hp hg
    obtain ⟨hpll, hmiss, hhold⟩ := held_fields s h
    have ha := holdRegs_not_noted h
    have hm := Moves.of_noted ht
    refine ⟨t, e, (hm.rd (ha _ (by simp [holdRegs]))).trans hpll, hmiss.then_ hm (ha _ (by simp [holdRegs])),
      hhold.then_ hm (ha _ (by simp [holdRegs])), ?_⟩
    exact (Noted.of_only ((held_only s h).mono (by simp [holdRegs]))).trans ⟨ht.1, fun a h1 h2 => ht.2 a (fun q => h1 (by simp_all)) h2⟩
  · obtain ⟨t, e, hpll, hcnt, hm⟩ := execHeadUnlocked_searches ⟨hsel, hhead, hlock⟩ hne hp hmiss hd hst
    exact ⟨t, e, hpll, hcnt, hm.parts, hm.regs⟩
  · obtain ⟨t, e, hinv, hm⟩ := execAngleInvalid_turns hv hl
    exact ⟨t, e, hinv, hm.keep State.ang, hm.parts, hm.regs⟩
  · obtain ⟨t, e, hpll, hgood, hctl, hseek, hm⟩ := execPllEnable_searches hv hl hl' hw hw' hp
    exact ⟨t, e, hpll, hgood, hctl, hseek, hm.parts, hm.regs⟩

end Sys2Proof.Machine
end

section
/-! ## Address words -/

namespace Sys2Proof.Machine

set_option Elab.async false

variable {s t : State} {h : Head} {w : Dword} {now : Angle} {lag : Nat} {c : Parts} {as : List Nat}

/-! ### The word that ACQ holds (R92) -/

/-- The registers that hold a head's address word. -/
def wordRegs (h : Head) : List Nat := [Reg.ACQ_ADDR_LO h, Reg.ACQ_ADDR_LO h + 4]

/-- The word stands in `ACQ_ADDR`. -/
def State.wordIn (s : State) (h : Head) (w : Dword) : State := s.setPair (Reg.ACQ_ADDR_LO h) w.toNat

theorem wordIn_pair (s : State) (h : Head) (w : Dword) : (s.wordIn h w).pair (Reg.ACQ_ADDR_LO h) = w.toNat :=
  (State.pair_setPair_same _ _ _).trans (Nat.mod_eq_of_lt w.isLt)

theorem wordIn_only (s : State) (h : Head) (w : Dword) : OnlyRegs (wordRegs h) s (s.wordIn h w) :=
  (OnlyRegs.refl.setReg (by simp [wordRegs]) _).setReg (by simp [wordRegs]) _

theorem wordIn_moves (s : State) (h : Head) (w : Dword) : Moves { regs := true } (wordRegs h) s (s.wordIn h w) :=
  .of_onlyRegs (wordIn_only s h w)

theorem pair_of_moves {a : Nat} (hm : Moves c as s t) (hlo : a ∉ as) (hhi : a + 4 ∉ as) : t.pair a = s.pair a := by
  unfold State.pair
  rw [hm.regs _ hlo, hm.regs _ hhi]

theorem pllStat_not_wordReg : ∀ h : Head, Reg.ACQ_PLL_STAT h ∉ wordRegs h := by decide

theorem wordIn_locked (s : State) (h : Head) (w : Dword) : (s.wordIn h w).locked h = s.locked h :=
  congrArg (decide <| · = 2) ((wordIn_moves s h w).rd (pllStat_not_wordReg h))

theorem execAddressWord_badCrc (hc : s.clockOn h = true) (hw : crcGood w = false) :
    execAddressWord h w now lag s = .next ((s.wordIn h w).bump (Reg.ACQ_ACRC_CNT h)) := by
  unfold execAddressWord
  rw [hc, hw]
  rfl

theorem execAddressWord_unlocked (hc : s.clockOn h = true) (hw : crcGood w = true) (hl : s.locked h = false) :
    execAddressWord h w now lag s = .next (s.wordIn h w) := by
  unfold execAddressWord
  rw [hc, hw]
  exact if_neg fun q => Bool.false_ne_true ((hl.symm.trans (wordIn_locked s h w).symm).trans q)

/-! ### The word that ANG takes (R58) -/

/-- ANG has a correct word of a locked head, not yet confirmed. -/
def State.wordTaken (s : State) (h : Head) (w : Dword) (now : Angle) : State :=
  ((s.wordIn h w).flow now).modAng h (fun a => { a with last := some w })

/-- A correct word of a locked head is taken, and confirms where the word before it agrees and its zone is legal. -/
theorem execAddressWord_locked (hc : s.clockOn h = true) (hw : crcGood w = true) (hl : s.locked h = true) :
    execAddressWord h w now lag s = .next (if (s.ang.heads[h]).last.any (agrees · w) && zoneLegal w
      then (s.wordTaken h w now).confirmWord h w lag else s.wordTaken h w now) := by
  have hlast : (((s.wordIn h w).flow now).ang.heads[h]).last = (s.ang.heads[h]).last := by
    obtain ⟨n, m, e⟩ := flow_eq (s.wordIn h w) now
    rw [e]
    rfl
  unfold execAddressWord
  rw [hc, hw, if_neg (by decide)]
  extract_lets s1 s2 ok s3
  have hl1 : s1.locked h = true := (wordIn_locked s h w).trans hl
  rw [if_pos rfl, if_pos hl1]
  have hok : ok = (s.ang.heads[h]).last.any (agrees · w) := by
    rw [← hlast]
    unfold ok
    split
    · next hp => exact hp ▸ rfl
    · next hp => exact hp ▸ rfl
  rw [hok]
  rfl

theorem wordTaken_moves (s : State) (h : Head) (w : Dword) (now : Angle) :
    Moves { regs := true, ang := true } (wordRegs h) s (s.wordTaken h w now) :=
  (((wordIn_moves s h w).mono rfl (List.Subset.refl _)).then_ (flow_moves _ _) rfl (by simp)).then_ (modAng_moves _ _ _) rfl (by simp)

theorem wordTaken_pair (s : State) (h : Head) (w : Dword) (now : Angle) : (s.wordTaken h w now).pair (Reg.ACQ_ADDR_LO h) = w.toNat := by
  have hm : Moves { ang := true } [] (s.wordIn h w) (s.wordTaken h w now) := (flow_moves _ _).trans (modAng_moves _ _ _)
  exact (pair_of_moves hm List.not_mem_nil List.not_mem_nil).trans (wordIn_pair s h w)

theorem modAng_now (s : State) (h : Head) (f : AngHead → AngHead) : (s.modAng h f).ang.now = s.ang.now := rfl
theorem modAng_entries (s : State) (h : Head) (f : AngHead → AngHead) : (s.modAng h f).ang.entries = s.ang.entries := rfl

theorem wordTaken_last (s : State) (h : Head) (w : Dword) (now : Angle) : ((s.wordTaken h w now).ang.heads[h]).last = some w := by
  rw [State.wordTaken, modAng_same]

theorem wordTaken_ang (s : State) (h : Head) (w : Dword) (now : Angle) :
    (s.wordTaken h w now).ang.now = (s.flow now).ang.now ∧ (s.wordTaken h w now).ang.entries = s.ang.entries := by
  have hang : (s.wordIn h w).ang = s.ang := (wordIn_moves s h w).keep State.ang
  unfold State.wordTaken
  rw [modAng_now, modAng_entries, flow_entries, flow_now, flow_now, hang]
  exact ⟨rfl, rfl⟩

end Sys2Proof.Machine
end

section
/-! ## The word that makes an invalid angle valid -/

namespace Sys2Proof.Machine

set_option Elab.async false

variable {s t : State} {h : Head} {w : Dword} {now : Angle} {lag : Nat} {c : Parts} {as : List Nat}

/-! ### The angle that a word gives (R57, R60) -/

theorem wordAngle_lt (s : State) (h : Head) (w : Dword) (lag : Nat) : s.wordAngle h w lag < 2 ^ 20 := Nat.mod_lt _ (by decide)

/-- Without a path discontinuity the new angle stands where the word says in its revolution. -/
theorem newAngle_turn (now : Angle) {turn : Nat} (ht : turn < 2 ^ 20) (bands : Int) :
    (newAngle now turn false bands).toNat % 2 ^ 20 = turn := by
  have hn := now.isLt
  simp only [newAngle, angAdd, signed, if_true, BitVec.toNat_ofInt]
  split <;> omega

/-! ### The cancel of R67 -/

/-- What the cancel of R61 leaves of an entry. -/
def AngEntry.dropped (e : AngEntry) : AngEntry := if e.armed then { e with armed := false, cancelled := true } else e

theorem dropped_armed (e : AngEntry) : e.dropped.armed = false := by
  unfold AngEntry.dropped
  split
  · rfl
  · next he => exact Bool.not_eq_true _ ▸ he

theorem dropped_cancelled {e : AngEntry} (he : e.armed = true) : e.dropped.cancelled = true := by
  unfold AngEntry.dropped
  rw [if_pos he]

/-- Every entry is dropped. -/
def State.entriesDropped (s : State) : State := { s with ang := { s.ang with entries := s.ang.entries.map AngEntry.dropped } }

/-- With no write gate armed to open, a cancel of every entry drops them, and is counted and told of (R61, R82). -/
theorem cancelEntries_all (hn : ∀ i : Entry, (s.ang.entries[i]).armed = true → (s.ang.entries[i]).action ≠ 1) :
    s.cancelEntries (fun _ => true) = (s.entriesDropped.bump Reg.ANG_CANCEL_CNT).event Ev.angleCancel := by
  have hl : s.ang.entries.toList.filter (fun e => (e.armed && true) && decide (e.action.toNat = 1)) = [] := by
    refine List.filter_eq_nil_iff.mpr fun e he q => ?_
    obtain ⟨k, hk, rfl⟩ := Vector.mem_iff_getElem.mp (Vector.mem_toList_iff.mp he)
    rw [Bool.and_true, Bool.and_eq_true, decide_eq_true_iff] at q
    exact hn ⟨k, hk⟩ q.1 (BitVec.eq_of_toNat_eq q.2)
  have hm : (fun e : AngEntry => if (e.armed && true) = true then { e with armed := false, cancelled := true } else e) = AngEntry.dropped := by
    funext e
    rw [Bool.and_true, AngEntry.dropped]
  unfold State.cancelEntries
  extract_lets hit es ang s1 s2
  have he : es = s.ang.entries.map AngEntry.dropped := congrArg (Vector.map · s.ang.entries) hm
  have h2 : s2 = s1 := by
    unfold s2 hit
    rw [hl]
    rfl
  rw [h2]
  unfold s1 ang
  rw [he]
  rfl

/-- The registers of a cancel. -/
def cancelRegs : List Nat := [Reg.ANG_CANCEL, Reg.ANG_CANCEL_CNT, Reg.SEQ_EVT_PEND 0, Reg.SEQ_EVT_MERGE_CNT, Reg.ANG_SLIP_CNT, Reg.ANG_STAT]

/-- The mark stands at the angle, and no hold is left (R62). -/
def State.markHere (s : State) : State := { s.put F.ANG_STAT_HOLD false with ang := { s.ang with hwm := s.ang.now } }

theorem markHere_moves (s : State) : Moves { regs := true, ang := true } [Reg.ANG_STAT] s s.markHere := by
  have hm : Moves { regs := true, ang := true } [Reg.ANG_STAT] s (s.put F.ANG_STAT_HOLD false) := Moves.refl.put _
  exact hm.upd

theorem markHere_holding (s : State) : s.markHere.holding = false :=
  (flag_congr_regs (s := s.put F.ANG_STAT_HOLD false) rfl _).trans (State.flag_put_same s F.ANG_STAT_HOLD false (by decide) rfl)

/-- The cancel of every entry, with no gate open and none armed to open. -/
def State.cancelled (s : State) : State :=
  ((((s.put F.ANG_CANCEL_INVALID true).entriesDropped.bump Reg.ANG_CANCEL_CNT).event Ev.angleCancel).bump Reg.ANG_SLIP_CNT).markHere

theorem cancelled_moves (s : State) : Moves { regs := true, ang := true } cancelRegs s s.cancelled := by
  have h0 : Moves { regs := true, ang := true } cancelRegs s (s.put F.ANG_CANCEL_INVALID true) := Moves.refl.put _ rfl (by simp [cancelRegs])
  have h1 : Moves { regs := true, ang := true } cancelRegs s (s.put F.ANG_CANCEL_INVALID true).entriesDropped := h0.upd
  have h2 := (h1.bump (a := Reg.ANG_CANCEL_CNT) rfl (by simp [cancelRegs])).then_ (event_moves _ Ev.angleCancel) rfl (by decide)
  exact (h2.bump (a := Reg.ANG_SLIP_CNT) rfl (by simp [cancelRegs])).then_ (markHere_moves _) rfl (by decide)

theorem cancelled_invalid (s : State) : s.cancelled.flag F.ANG_CANCEL_INVALID = true := by
  have h0 : (s.put F.ANG_CANCEL_INVALID true).entriesDropped.flag F.ANG_CANCEL_INVALID = true :=
    (flag_congr_regs rfl _).trans (State.flag_put_same s _ _ (by decide) rfl)
  unfold State.cancelled
  generalize (s.put F.ANG_CANCEL_INVALID true).entriesDropped = t at h0 ⊢
  rw [(markHere_moves _).flag (by decide), State.flag_bump_ne _ _ (by decide), (event_moves _ _).flag (by decide),
    State.flag_bump_ne _ _ (by decide), h0]

theorem cancelled_ang (s : State) : s.cancelled.ang.now = s.ang.now ∧ s.cancelled.ang.hwm = s.ang.now ∧
    s.cancelled.ang.entries = s.ang.entries.map AngEntry.dropped := by
  have h0 : (s.put F.ANG_CANCEL_INVALID true).entriesDropped.ang = { s.ang with entries := s.ang.entries.map AngEntry.dropped } := by
    rw [State.entriesDropped, State.put_ang]
  have hm (t : State) : t.markHere.ang = { t.ang with hwm := t.ang.now } := rfl
  unfold State.cancelled
  rw [hm, State.bump_ang, (event_moves _ _).keep State.ang, State.bump_ang, h0]
  exact ⟨rfl, rfl, rfl⟩

/-- R61, R67: the cancel that the first valid angle brings. -/
theorem cancelAll_invalid (hn : ∀ i : Entry, (s.ang.entries[i]).armed = true → (s.ang.entries[i]).action ≠ 1)
    (hg : ∀ b : Beam, (s.wrp.beams[b]).gate = none) : s.cancelAll F.ANG_CANCEL_INVALID true = s.cancelled := by
  have hw : s.cancelled.wrp = s.wrp := (cancelled_moves s).keep State.wrp
  unfold State.cancelAll
  extract_lets s1 s2 s3 ang s4
  have h1 : s1 = ((s.put F.ANG_CANCEL_INVALID true).entriesDropped.bump Reg.ANG_CANCEL_CNT).event Ev.angleCancel :=
    cancelEntries_all (by rw [State.put_ang]; exact hn)
  have h4 : s4 = (s1.bump Reg.ANG_SLIP_CNT).markHere := rfl
  rw [h4, h1]
  change forEach (List.finRange 4) _ s.cancelled = s.cancelled
  exact forEach_stays fun k _ => gatesEarly_none fun d _ => by rw [hw]; exact hg _

end Sys2Proof.Machine
end

section
/-! ## A confirmed word -/

namespace Sys2Proof.Machine

set_option Elab.async false

variable {s t : State} {h : Head} {w : Dword} {now : Angle} {lag : Nat} {c : Parts} {as : List Nat}

/-! ### What a word tells the encoder, the zone and the loop supervisor -/

theorem encoderWord_moves (s : State) (h : Head) (band : Int) :
    Moves { regs := true } [Reg.ANG_ENC_CNT (headSled h), Reg.ANG_ENC_STAT (headSled h)] s (s.encoderWord h band) := by
  unfold State.encoderWord
  exact .ite ((Moves.refl.setReg _).put _) .refl

theorem zoneWord_moves (s : State) (h : Head) (z : Nat) :
    Moves { regs := true, acq := true } [Reg.ACQ_ZMIS_CNT h, Reg.ACQ_PLL_STAT h] s (s.zoneWord h z) := by
  unfold State.zoneWord
  exact .ite (Moves.refl.bump.then_ (zonePend_moves _ _ _) rfl (by simp)) .refl

/-- Where the head was expected, and the Gazelle not owned, the supervisor notes the layer (R231, R239). -/
theorem supervisorWord_expected (ho : s.owned = false) (h : Head) (k : Nat) (b : Int) :
    s.supervisorWord h k b k b = s.wr (F.LSV_H_STAT_CLAYER h) k := by
  have hm : Moves { regs := true } [Reg.LSV_H_STAT h] s (s.wr (F.LSV_H_STAT_CLAYER h) k) := Moves.refl.wr _
  have ho' : (s.wr (F.LSV_H_STAT_CLAYER h) k).owned = false :=
    (hm.flag (f := F.MIR_STAT_OWNED) (by simp only [List.mem_singleton, Reg.MIR_STAT, Reg.LSV_H_STAT]; omega)).trans ho
  unfold State.supervisorWord
  extract_lets s1
  split
  · exact (if_neg fun q => q rfl).trans (if_neg fun q => q rfl)
  · exact if_neg fun q => Bool.false_ne_true (ho'.symm.trans q)

/-! ### The angle becomes valid (R67) -/

/-- The angle is set to `new`, and is valid. -/
def State.angleSet (s : State) (new : Angle) : State :=
  ({ s.setInt Reg.ANG_CORR (angDiff new s.ang.now) with ang := { s.ang with now := new } }).setAngFlags true false

theorem angleSet_moves (s : State) (new : Angle) :
    Moves { regs := true, ang := true } [Reg.ANG_CORR, Reg.ANG_NOW_HI] s (s.angleSet new) := by
  have h0 : Moves { regs := true, ang := true } [Reg.ANG_CORR, Reg.ANG_NOW_HI] s (s.setInt Reg.ANG_CORR (angDiff new s.ang.now)) :=
    Moves.refl.setReg _
  exact (h0.then_ (withAng_moves _ _) rfl (by simp)).then_ (.of_onlyRegs (setAngFlags_only _ _ _)) rfl (by simp)

theorem angleSet_ang (s : State) (new : Angle) : (s.angleSet new).ang = { s.ang with now := new } := by
  rw [State.angleSet, State.setAngFlags, State.setReg_ang]

theorem angleSet_angValid (s : State) (new : Angle) : (s.angleSet new).angValid = true := setAngFlags_angValid _ _ _

/-- ANG has confirmed a head's word while the angle was invalid; the word's other readers have not seen it. -/
def State.validated (s : State) (h : Head) (new : Angle) : State :=
  ((s.modAng h (fun a => { a with relock := false })).angleSet new).cancelled

/-- R67: a word that confirms an invalid angle, of a head where it was expected. -/
theorem confirmWord_validates (hv : s.angValid = false) (hl : adrLAYER w = s.rd (F.ANG_HPOS_LAYER h)) (hb : adrBAND w = s.headBand h)
    (hg : ∀ b : Beam, (s.wrp.beams[b]).gate = none)
    (hn : ∀ i : Entry, (s.ang.entries[i]).armed = true → (s.ang.entries[i]).action ≠ 1) :
    s.confirmWord h w lag = (((s.validated h (newAngle s.ang.now (s.wordAngle h w lag) false 0)).encoderWord h (adrBAND w)).zoneWord h
      (adrZONE w)).supervisorWord h (adrLAYER w) (adrBAND w) (adrLAYER w) (adrBAND w) := by
  unfold State.confirmWord
  extract_lets layer band k b bands newLayer disc isRef relock new s1 s2 s3 ang s4 s5 s6 s7
  have hk : layer = k := hl
  have hband : band = b := hb
  have hzero : bands = 0 := Int.sub_eq_zero.mpr hband
  have hdisc : disc = false := by
    unfold disc newLayer
    rw [hk, hzero]
    simp
  have h2 : s2 = s1 := if_neg (by rw [hdisc]; exact Bool.false_ne_true)
  have hm1 : Moves { ang := true } [] s s1 := modAng_moves _ _ _
  have hm2 : Moves { regs := true, ang := true } [Reg.ANG_CORR, Reg.ANG_NOW_HI] s (s1.angleSet new) :=
    (hm1.mono rfl (by simp)).then_ (angleSet_moves _ _) rfl (List.Subset.refl _)
  have hent : (s1.angleSet new).ang.entries = s.ang.entries := by rw [angleSet_ang]; rfl
  have h4 : s4.setAngFlags true false = s2.angleSet new := rfl
  have h6 : s6 = (s1.angleSet new).cancelled := by
    unfold s6
    rw [h4, h2, angValid_of_moves hm1 List.not_mem_nil, hv, if_pos (by decide), hzero]
    exact cancelAll_invalid (by rw [hent]; exact hn) (by rw [hm2.keep State.wrp]; exact hg)
  have hnew : new = newAngle s.ang.now (s.wordAngle h w lag) false 0 := by
    unfold new
    rw [hdisc, hzero]
  have h7 : s7 = ((((s1.angleSet new).cancelled).encoderWord h band).zoneWord h (adrZONE w)).supervisorWord h layer band layer band := by
    unfold s7
    rw [h6, ← hk, ← hband]
  rw [if_neg (by rw [hdisc]; exact Bool.false_ne_true), h7, hnew]
  rfl

/-- The registers of a word that confirms, past those that hold it. -/
def confirmRegs (h : Head) : List Nat :=
  [Reg.ANG_NOW_HI, Reg.ANG_CORR] ++ cancelRegs ++ [Reg.ANG_ENC_CNT (headSled h), Reg.ANG_ENC_STAT (headSled h), Reg.ACQ_ZMIS_CNT h,
    Reg.ACQ_PLL_STAT h, Reg.LSV_H_STAT h]

theorem validated_moves (s : State) (h : Head) (new : Angle) :
    Moves { regs := true, ang := true } ([Reg.ANG_NOW_HI, Reg.ANG_CORR] ++ cancelRegs) s (s.validated h new) :=
  (((modAng_moves _ _ _).mono rfl (List.nil_subset _)).then_ (angleSet_moves _ _) rfl (by simp)).then_ (cancelled_moves _) rfl
    (List.subset_append_right _ _)

/-- R61, R67: the angle stands at `new` and is valid, every entry is dropped, and no hold is left. -/
structure State.Validated (s : State) (new : Angle) (t : State) : Prop where
  valid   : t.angValid = true
  invalid : t.flag F.ANG_CANCEL_INVALID = true
  holding : t.holding = false
  now     : t.ang.now = new
  hwm     : t.ang.hwm = new
  entries : t.ang.entries = s.ang.entries.map AngEntry.dropped

theorem validated_holds (s : State) (h : Head) (new : Angle) : s.Validated new (s.validated h new) := by
  unfold State.validated
  generalize hs : s.modAng h (fun a => { a with relock := false }) = s1
  have hent : s1.ang.entries = s.ang.entries := hs ▸ modAng_entries s h _
  obtain ⟨hnow, hhwm, hes⟩ := cancelled_ang (s1.angleSet new)
  have hang := angleSet_ang s1 new
  refine ⟨?_, cancelled_invalid _, markHere_holding _, ?_, ?_, ?_⟩
  · exact (angValid_of_moves (cancelled_moves _) (by decide)).trans (angleSet_angValid _ _)
  · rw [hnow, hang]
  · rw [hhwm, hang]
  · rw [hes, hang, hent]

/-- Registers that the angle's readers write leave it as it stands. -/
theorem State.Validated.moves {new : Angle} (hv : s.Validated new t) {u : State} (hm : Moves c as t u) (hc : c.ang = false)
    (hn : ∀ a ∈ [Reg.ANG_NOW_HI, Reg.ANG_CANCEL, Reg.ANG_STAT], a ∉ as) : s.Validated new u := by
  have hang : u.ang = t.ang := hm.parts ▸ by simp only [State.splice, hc, cond_false]
  refine ⟨(angValid_of_moves hm (hn _ (by simp))).trans hv.valid, (hm.flag (hn _ (by simp))).trans hv.invalid,
    (hm.flag (hn _ (by simp))).trans hv.holding, ?_, ?_, ?_⟩
  · rw [hang, hv.now]
  · rw [hang, hv.hwm]
  · rw [hang, hv.entries]

theorem readerRegs_apart : ∀ h : Head, ∀ a ∈ [Reg.ANG_NOW_HI, Reg.ANG_CANCEL, Reg.ANG_STAT], a ∉ [Reg.ANG_ENC_CNT (headSled h),
    Reg.ANG_ENC_STAT (headSled h), Reg.ACQ_ZMIS_CNT h, Reg.ACQ_PLL_STAT h, Reg.LSV_H_STAT h] := by decide

theorem owned_not_confirmReg : ∀ h : Head, Reg.MIR_STAT ∉ confirmRegs h := by decide

/-- R58, R67: the word that confirms while the angle is invalid. -/
theorem confirmWord_valid (hv : s.angValid = false) (ho : s.owned = false) (hl : adrLAYER w = s.rd (F.ANG_HPOS_LAYER h))
    (hb : adrBAND w = s.headBand h) (hg : ∀ b : Beam, (s.wrp.beams[b]).gate = none)
    (hn : ∀ i : Entry, (s.ang.entries[i]).armed = true → (s.ang.entries[i]).action ≠ 1) :
    s.Validated (newAngle s.ang.now (s.wordAngle h w lag) false 0) (s.confirmWord h w lag) ∧
    Moves { regs := true, ang := true, acq := true } (confirmRegs h) s (s.confirmWord h w lag) := by
  have hval := validated_holds s h (newAngle s.ang.now (s.wordAngle h w lag) false 0)
  have hm0 := validated_moves s h (newAngle s.ang.now (s.wordAngle h w lag) false 0)
  rw [confirmWord_validates hv hl hb hg hn]
  generalize s.validated h (newAngle s.ang.now (s.wordAngle h w lag) false 0) = s0 at hval hm0
  have hm1 : Moves { regs := true, acq := true } [Reg.ANG_ENC_CNT (headSled h), Reg.ANG_ENC_STAT (headSled h), Reg.ACQ_ZMIS_CNT h,
      Reg.ACQ_PLL_STAT h, Reg.LSV_H_STAT h] s0 ((s0.encoderWord h (adrBAND w)).zoneWord h (adrZONE w)) :=
    ((encoderWord_moves _ _ _).mono rfl (by simp)).then_ (zoneWord_moves _ _ _) rfl (by simp)
  have hm2 : Moves { regs := true, ang := true, acq := true } (confirmRegs h) s ((s0.encoderWord h (adrBAND w)).zoneWord h (adrZONE w)) :=
    (hm0.mono rfl (List.subset_append_left _ _)).then_ hm1 rfl (List.subset_append_right _ _)
  have ho2 := (hm2.flag (f := F.MIR_STAT_OWNED) (owned_not_confirmReg h)).trans ho
  rw [supervisorWord_expected ho2]
  exact ⟨hval.moves (hm1.wr _) rfl (readerRegs_apart h), hm2.wr _ rfl (by simp [confirmRegs])⟩

end Sys2Proof.Machine
end

section
/-! ## A head's frame 0 -/

namespace Sys2Proof.Machine

set_option Elab.async false

variable {s t : State} {h : Head} {c : Parts} {as : List Nat}

/-! ### The band and the zone (R59, R99) -/

theorem bandNext_fields (s : State) (h : Head) (n : Nat) : (s.wr (F.ANG_HPOS_BAND h) n).rd (F.ANG_HPOS_BAND h) = n % 2 ^ 16 ∧
    (s.wr (F.ANG_HPOS_BAND h) n).rd (F.ANG_HPOS_LAYER h) = s.rd (F.ANG_HPOS_LAYER h) :=
  ⟨State.rd_wr_same _ _ _ (by simp), State.rd_wr_disjoint _ _ _ _ (by simp) (by simp)⟩

theorem unsigned_lt (w : Nat) (v : Int) : unsigned w v < 2 ^ w := by
  have hp : (0 : Int) < 2 ^ w := Int.pow_pos (by decide)
  have := Int.emod_lt_of_pos v hp
  unfold unsigned
  rw [Int.toNat_lt (Int.emod_nonneg _ hp.ne')]
  exact_mod_cast this

/-- A pending zone is in force, and pends no more. -/
theorem zoneApply_pending (hz : s.flag (F.ACQ_PLL_STAT_ZPEND h) = true) :
    (s.zoneApply h).reg (Reg.ACQ_HZONE h) = BitVec.ofNat 32 s.acq.zpend[h] ∧ (s.zoneApply h).flag (F.ACQ_PLL_STAT_ZPEND h) = false := by
  have hne : Reg.ACQ_PLL_STAT h ≠ Reg.ACQ_HZONE h := by simp only [Reg.ACQ_PLL_STAT, Reg.ACQ_HZONE]; omega
  unfold State.zoneApply
  rw [if_pos hz]
  extract_lets s1
  have h1 : s1.reg (Reg.ACQ_HZONE h) = BitVec.ofNat 32 s.acq.zpend[h] := State.reg_setReg_same _ _ _
  have h2 : s1.flag (F.ACQ_PLL_STAT_ZPEND h) = false :=
    (State.flag_setReg_ne _ _ _ hne).trans (State.flag_put_same _ _ _ (by simp) rfl)
  split
  · exact ⟨(State.reg_put_ne _ _ _ hne.symm).trans h1, (State.flag_put_disjoint _ _ _ _ (by simp) (by simp)).trans h2⟩
  · exact ⟨h1, h2⟩

theorem zoneApply_quiet (hz : s.flag (F.ACQ_PLL_STAT_ZPEND h) = false) : s.zoneApply h = s :=
  if_neg fun q => Bool.false_ne_true (hz.symm.trans q)

theorem zoneApply_moves (s : State) (h : Head) : Moves { regs := true } [Reg.ACQ_PLL_STAT h, Reg.ACQ_HZONE h] s (s.zoneApply h) := by
  have hm : Moves { regs := true } [Reg.ACQ_PLL_STAT h, Reg.ACQ_HZONE h] s
      ((s.put (F.ACQ_PLL_STAT_ZPEND h) false).setReg (Reg.ACQ_HZONE h) (BitVec.ofNat 32 (s.put (F.ACQ_PLL_STAT_ZPEND h) false).acq.zpend[h])) :=
    (Moves.refl.put _).setReg _
  unfold State.zoneApply
  exact .ite (.ite (hm.put _) hm) .refl

/-! ### The skews (R100, R102, R107) -/

/-- The registers that a beam's skews set. -/
def phaseRegs (b : Beam) : List Nat := [Reg.ACQ_PHOFS_D b, Reg.ACQ_PHOFS_V b, Reg.ACQ_VDLY b, Reg.ACQ_SKEW_STAT, Reg.ACQ_STAT]

/-- The skews of a beam, as they were written, come into force. -/
def State.skewTaken (s : State) (b : Beam) : State :=
  { s with acq := { s.acq with skewD := s.acq.skewD.set b (s.reg (Reg.ACQ_SKEW_D b)), skewV := s.acq.skewV.set b (s.reg (Reg.ACQ_SKEW_V b)) } }

theorem beamPhase_after (s : State) (b : Beam) : Moves { regs := true } (phaseRegs b) (s.skewTaken b) (s.beamPhase b) := by
  unfold State.beamPhase
  extract_lets hd n zr a d v s1 dn vn pd pv bad s2 s3
  have h1 : s1 = s.skewTaken b := rfl
  have h2 : Moves { regs := true } (phaseRegs b) (s.skewTaken b) s2 := by
    unfold s2
    rw [h1]
    exact ((Moves.refl.setReg _ rfl (by simp [phaseRegs])).setReg _ rfl (by simp [phaseRegs])).setReg _ rfl (by simp [phaseRegs])
  have h3 := h2.put (f := ⟨Reg.ACQ_SKEW_STAT, b.val, 1⟩) bad rfl (by simp [phaseRegs])
  exact .ite (h3.put _ rfl (by simp [phaseRegs])) h3

theorem beamPhase_moves (s : State) (b : Beam) : Moves { regs := true, acq := true } (phaseRegs b) s (s.beamPhase b) := by
  have h0 : Moves { acq := true } [] s (s.skewTaken b) := Moves.refl.upd
  exact (h0.mono rfl (List.nil_subset _)).then_ (beamPhase_after s b) rfl (List.Subset.refl _)

/-- The skews in force of a beam are the ones written. -/
def SkewsOf (b : Beam) (s : State) : Prop := s.acq.skewD[b] = s.reg (Reg.ACQ_SKEW_D b) ∧ s.acq.skewV[b] = s.reg (Reg.ACQ_SKEW_V b)

theorem skewRegs_not_phase : ∀ b y : Beam, Reg.ACQ_SKEW_D b ∉ phaseRegs y ∧ Reg.ACQ_SKEW_V b ∉ phaseRegs y := by decide

theorem beamPhase_skews (b : Beam) (s : State) : SkewsOf b (s.beamPhase b) := by
  have hm := beamPhase_moves s b
  obtain ⟨hd, hv⟩ := skewRegs_not_phase b b
  unfold SkewsOf
  rw [(beamPhase_after s b).keep State.acq, hm.regs _ hd, hm.regs _ hv]
  exact ⟨Vector.getElem_set_self _, Vector.getElem_set_self _⟩

theorem beamPhase_keeps {b : Beam} (y : Beam) (hs : SkewsOf b s) : SkewsOf b (s.beamPhase y) := by
  by_cases hy : y = b
  · exact hy ▸ beamPhase_skews y s
  · have hm := beamPhase_moves s y
    obtain ⟨hd, hv⟩ := skewRegs_not_phase b y
    have hne : (y : Nat) ≠ b := fun q => hy (Fin.ext q)
    unfold SkewsOf
    rw [(beamPhase_after s y).keep State.acq, hm.regs _ hd, hm.regs _ hv]
    exact ⟨(Vector.getElem_set_ne y.isLt b.isLt hne).trans hs.1, (Vector.getElem_set_ne y.isLt b.isLt hne).trans hs.2⟩

/-- The beams of a head take their skews. -/
def State.headPhases (s : State) (h : Head) : State := forEach (List.range 4) (fun d s => s.beamPhase (headBeam h d)) s

theorem headPhases_skews (s : State) (h : Head) (d : Fin 4) : SkewsOf (headBeam h d) (s.headPhases h) :=
  forEach_reaches (f := fun d s => s.beamPhase (headBeam h d)) (beamPhase_skews _) (fun _ _ q => beamPhase_keeps _ q)
    (List.mem_range.mpr d.isLt) s

theorem headPhases_moves (s : State) (h : Head) :
    Moves { regs := true, acq := true } ((List.range 4).flatMap fun d => phaseRegs (headBeam h d)) s (s.headPhases h) :=
  .forEach _ (fun d hd _ hm => hm.then_ (beamPhase_moves _ _) rfl (fun _ ha => List.mem_flatMap.mpr ⟨d, hd, ha⟩)) .refl

/-! ### The laser power loop (R166) and the loop supervisor -/

def apcRegs (h : Head) : List Nat := Reg.LDD_STAT (sChan h) :: (List.finRange 5).map (fun e => Reg.LDD_SCALE (headChan h e))

theorem apcUpdate_moves (s : State) (h : Head) (monitor : Nat) :
    Moves { regs := true, wrp := true } (apcRegs h) s (s.apcUpdate h monitor) := by
  unfold State.apcUpdate
  extract_lets ch hold wrp s1 f target want f' s2
  have h1 : Moves { regs := true, wrp := true } (apcRegs h) s s1 := Moves.refl.upd
  have h2 : Moves { regs := true, wrp := true } (apcRegs h) s s2 :=
    .forEach _ (fun e he _ hm => hm.wr _ rfl (List.mem_cons_of_mem _ (List.mem_map.mpr ⟨e, he, rfl⟩))) h1
  exact .ite (.ite (h2.put _ rfl List.mem_cons_self) h2) h1

theorem lsvFrameZero_moves (s : State) (h : Head) : Moves { lsv := true } [] s (s.lsvFrameZero h) := Moves.refl.upd

end Sys2Proof.Machine
end

section
/-! ## Frame 0, before the recovery side -/

namespace Sys2Proof.Machine

set_option Elab.async false

variable {s t : State} {h : Head} {monitor : Nat}

/-- The head enters the next band. -/
def State.bandEntered (s : State) (h : Head) : State := s.wr (F.ANG_HPOS_BAND h) (unsigned 16 (s.headBand h + 1))

/-- The samples per revolution are taken at the reference's frame 0 (R74). -/
def State.sprTaken (s : State) (h : Head) : State :=
  if s.refHead = h then { s with ang := { s.ang with spr := (s.reg Reg.ANG_SRV_SPR).toNat } } else s

/-- A head's frame 0, its recovery side aside. -/
def State.frameZeroed (s : State) (h : Head) (monitor : Nat) : State :=
  ((((((s.bandEntered h).zoneApply h).sprTaken h).headPhases h).apcUpdate h monitor).lsvFrameZero h)

theorem execFrameZero_eq (s : State) (h : Head) (monitor : Nat) :
    execFrameZero h monitor s = .next (((s.frameZeroed h monitor).retryFrameZero h).retryOrders h) := rfl

/-! ### The band, the zone and the samples per revolution -/

def zoneRegs (h : Head) : List Nat := [Reg.ANG_HPOS h, Reg.ACQ_PLL_STAT h, Reg.ACQ_HZONE h]

/-- What frame 0 does to the band and the zone of a head. -/
structure State.BandZone (s : State) (h : Head) (t : State) : Prop where
  band    : t.rd (F.ANG_HPOS_BAND h) = unsigned 16 (s.headBand h + 1)
  layer   : t.rd (F.ANG_HPOS_LAYER h) = s.rd (F.ANG_HPOS_LAYER h)
  applied : s.flag (F.ACQ_PLL_STAT_ZPEND h) = true →
    t.reg (Reg.ACQ_HZONE h) = BitVec.ofNat 32 s.acq.zpend[h] ∧ t.flag (F.ACQ_PLL_STAT_ZPEND h) = false
  kept    : s.flag (F.ACQ_PLL_STAT_ZPEND h) = false → t.reg (Reg.ACQ_HZONE h) = s.reg (Reg.ACQ_HZONE h)

theorem zoneRegs_distinct : ∀ h : Head, Reg.ANG_HPOS h ∉ [Reg.ACQ_PLL_STAT h, Reg.ACQ_HZONE h] ∧ Reg.ACQ_PLL_STAT h ∉ [Reg.ANG_HPOS h] ∧
    Reg.ACQ_HZONE h ∉ [Reg.ANG_HPOS h] ∧ Reg.ANG_STAT ∉ zoneRegs h ∧ Reg.ANG_SRV_SPR ∉ zoneRegs h := by decide

theorem bandEntered_moves (s : State) (h : Head) : Moves { regs := true } [Reg.ANG_HPOS h] s (s.bandEntered h) := Moves.refl.wr _

theorem bandZone_zoneApply (s : State) (h : Head) : s.BandZone h ((s.bandEntered h).zoneApply h) ∧
    Moves { regs := true } (zoneRegs h) s ((s.bandEntered h).zoneApply h) := by
  obtain ⟨hpos, hpll, hzone, -, -⟩ := zoneRegs_distinct h
  have h1 := bandEntered_moves s h
  have h2 := zoneApply_moves (s.bandEntered h) h
  obtain ⟨hband, hlayer⟩ := bandNext_fields s h (unsigned 16 (s.headBand h + 1))
  have hpend := h1.flag (f := F.ACQ_PLL_STAT_ZPEND h) hpll
  refine ⟨⟨?_, (h2.rd hpos).trans hlayer, fun hz => ?_, fun hz => ?_⟩, (h1.mono rfl (by simp [zoneRegs])).then_ h2 rfl (by simp [zoneRegs])⟩
  · exact ((h2.rd hpos).trans hband).trans (Nat.mod_eq_of_lt (unsigned_lt _ _))
  · rw [← h1.keep State.acq]
    exact zoneApply_pending (hpend.trans hz)
  · rw [zoneApply_quiet (hpend.trans hz), h1.regs _ hzone]

/-- What leaves the three registers leaves the band and the zone. -/
theorem State.BandZone.moves (hb : s.BandZone h t) {u : State} {c : Parts} {as : List Nat} (hm : Moves c as t u)
    (hn : ∀ a ∈ zoneRegs h, a ∉ as) : s.BandZone h u := by
  have hpos : Reg.ANG_HPOS h ∉ as := hn _ (by simp [zoneRegs])
  have hpll : Reg.ACQ_PLL_STAT h ∉ as := hn _ (by simp [zoneRegs])
  have hzone : Reg.ACQ_HZONE h ∉ as := hn _ (by simp [zoneRegs])
  exact ⟨(hm.rd hpos).trans hb.band, (hm.rd hpos).trans hb.layer,
    fun hz => (hb.applied hz).imp (hm.regs _ hzone).trans (hm.flag hpll).trans, fun hz => (hm.regs _ hzone).trans (hb.kept hz)⟩

theorem sprTaken_ang (s : State) (h : Head) : (s.sprTaken h).ang = { s.ang with spr := (s.sprTaken h).ang.spr } ∧
    (s.refHead = h → (s.sprTaken h).ang.spr = (s.reg Reg.ANG_SRV_SPR).toNat) := by
  unfold State.sprTaken
  refine ⟨?_, fun hr => by rw [if_pos hr]⟩
  split <;> rfl

theorem sprTaken_moves (s : State) (h : Head) : Moves { ang := true } [] s (s.sprTaken h) := by
  unfold State.sprTaken
  exact .ite (withAng_moves _ _) .refl

/-! ### Frame 0 as a whole -/

/-- The registers of frame 0 past the band and the zone. -/
def beamRegs (h : Head) : List Nat := (List.range 4).flatMap (fun d => phaseRegs (headBeam h d)) ++ apcRegs h

theorem beamRegs_apart : ∀ h : Head, (∀ a ∈ zoneRegs h, a ∉ beamRegs h) ∧
    (∀ b : Beam, Reg.ACQ_SKEW_D b ∉ zoneRegs h ++ beamRegs h ∧ Reg.ACQ_SKEW_V b ∉ zoneRegs h ++ beamRegs h) := by decide

/-- What a head's frame 0 does, its recovery side aside. -/
structure State.FrameZero (s : State) (h : Head) (t : State) : Prop where
  zone  : s.BandZone h t
  ang   : t.ang = { s.ang with spr := t.ang.spr }
  spr   : s.refHead = h → t.ang.spr = (s.reg Reg.ANG_SRV_SPR).toNat
  skews : ∀ d : Fin 4, t.acq.skewD[headBeam h d] = s.reg (Reg.ACQ_SKEW_D (headBeam h d)) ∧
    t.acq.skewV[headBeam h d] = s.reg (Reg.ACQ_SKEW_V (headBeam h d))
  moves : Moves { regs := true, ang := true, acq := true, wrp := true, lsv := true } (zoneRegs h ++ beamRegs h) s t

theorem frameZeroed_frameZero (s : State) (h : Head) (monitor : Nat) : s.FrameZero h (s.frameZeroed h monitor) := by
  obtain ⟨hz, hm2⟩ := bandZone_zoneApply s h
  obtain ⟨-, -, -, hstat, hspr⟩ := zoneRegs_distinct h
  obtain ⟨hzone, hskew⟩ := beamRegs_apart h
  unfold State.frameZeroed
  generalize (s.bandEntered h).zoneApply h = s2 at hz hm2
  obtain ⟨hang, hsp⟩ := sprTaken_ang s2 h
  have hm3 := sprTaken_moves s2 h
  generalize s2.sprTaken h = s3 at hang hsp hm3
  have hm4 := headPhases_moves s3 h
  have hsk := headPhases_skews s3 h
  generalize s3.headPhases h = s4 at hm4 hsk
  have hm5 : Moves { regs := true, wrp := true, lsv := true } (apcRegs h) s4 ((s4.apcUpdate h monitor).lsvFrameZero h) :=
    ((apcUpdate_moves s4 h monitor).mono rfl (List.Subset.refl _)).then_ (lsvFrameZero_moves _ h) rfl (List.nil_subset _)
  generalize (s4.apcUpdate h monitor).lsvFrameZero h = t at hm5
  have hm35 : Moves { regs := true, acq := true, wrp := true, lsv := true } (beamRegs h) s3 t :=
    (hm4.mono rfl (List.subset_append_left _ _)).then_ hm5 rfl (List.subset_append_right _ _)
  have hm03 : Moves { regs := true, ang := true } (zoneRegs h) s s3 :=
    (hm2.mono rfl (List.Subset.refl _)).then_ hm3 rfl (List.nil_subset _)
  have ht : t.ang = s3.ang := hm35.keep State.ang
  have hm := (hm03.mono (d := { regs := true, ang := true, acq := true, wrp := true, lsv := true }) rfl
    (List.subset_append_left _ (beamRegs h))).then_ hm35 rfl (List.subset_append_right _ _)
  refine ⟨(hz.moves hm3 fun _ _ => List.not_mem_nil).moves hm35 hzone, ?_, fun hr => ?_, fun d => ?_, hm⟩
  · rw [ht, ← hm2.keep State.ang, hang]
  · rw [ht, hsp ((refHead_of_moves hm2 hstat).trans hr), hm2.regs _ hspr]
  · obtain ⟨hd, hv⟩ := hsk d
    obtain ⟨hnd, hnv⟩ := hskew (headBeam h d)
    have hacq : t.acq = s4.acq := hm5.keep State.acq
    have h04 := (hm03.mono (d := { regs := true, ang := true, acq := true }) rfl (List.subset_append_left _ (beamRegs h))).then_ hm4 rfl
      (fun _ ha => List.mem_append_right _ (List.mem_append_left _ ha))
    rw [hacq, ← h04.regs _ hnd, ← h04.regs _ hnv]
    exact ⟨hd, hv⟩

end Sys2Proof.Machine
end

section
/-! ## The recovery side of frame 0 -/

namespace Sys2Proof.Machine

set_option Elab.async false

variable {s t : State} {h : Head}

/-! ### Blocks that age (R152) -/

/-- The retry point that begins where a head is (R153 step 1). -/
def State.retryStart (s : State) (h : Head) (tgt : Int) : Retry :=
  { layer := s.rd (F.ANG_HPOS_LAYER h), band := -65, revs := 0, ofs := 0, resLayer := s.rd (F.ANG_HPOS_LAYER h), resBand := s.headBand h
    tgt := tgt }

/-- Without a retry point, one begins or the blocks beside a full list take their places. -/
theorem retryFrameZero_none (hr : s.rcv.retry[h] = none) : s.retryFrameZero h =
    if (s.aged h).retryDue h then ((s.aged h).bump (Reg.RCV_H_RP_CNT h)).retryNext h
      (s.retryStart h (((s.aged h).bump (Reg.RCV_H_RP_CNT h)).int (Reg.SRV_G_TGT h 1)))
    else (s.aged h).listBeside h := by
  unfold State.retryFrameZero
  extract_lets blks s1 layer band
  have h1 : s1 = s.aged h := rfl
  split
  · rfl
  · next r hs =>
    have hn : s1.rcv.retry[h] = none := hr
    exact nomatch hn.symm.trans hs

theorem retryOrders_none (hr : s.rcv.retry[h] = none) : s.retryOrders h = s := by
  unfold State.retryOrders
  rw [hr]

/-- A head whose loop supervisor is busy gets no order (R153). -/
theorem retryOrders_busy (hb : s.flag (F.LSV_H_STAT_BUSY h) = true) : s.retryOrders h = s := by
  unfold State.retryOrders
  rw [hb]
  split <;> rfl

/-- With no block beside or outside the list none takes a place in it. -/
theorem listBeside_none (hk : ∀ k ∈ s.rcv.blks, k.head = h → k.phase ≠ .beside ∧ k.phase ≠ .outside) : s.listBeside h = s := by
  have hn : s.rcv.blks.filter (fun k => k.head = h && (k.phase = .beside || k.phase = .outside)) = [] := by
    refine List.filter_eq_nil_iff.mpr fun k hm q => ?_
    simp only [Bool.and_eq_true, Bool.or_eq_true, decide_eq_true_iff] at q
    exact q.2.elim (hk k hm q.1).1 (hk k hm q.1).2
  unfold State.listBeside
  extract_lets room take
  have ht : take = [] := by
    unfold take
    rw [hn, List.take_nil, List.map_nil]
  have hm : s.rcv.blks.map (fun k => if take.contains k.lba then
      { k with phase := if k.phase = .outside then .waiting else .deferred } else k) = s.rcv.blks := by
    rw [ht]
    exact List.map_id' _
  rw [hm]

theorem aged_of_no_block (hk : ∀ k ∈ s.rcv.blks, k.head ≠ h) : s.aged h = s := by
  have hm : s.rcv.blks.map (fun (k : RBlk) => if k.head = h ∧ k.phase ≠ RPhase.reading then { k with age := k.age + 1 } else k) =
      s.rcv.blks := (List.map_congr_left fun k hm => if_neg fun q => hk k hm q.1).trans (List.map_id' _)
  unfold State.aged
  rw [hm]

theorem aged_phase {k : RBlk} (hm : k ∈ (s.aged h).rcv.blks) : ∃ j ∈ s.rcv.blks, k.phase = j.phase := by
  obtain ⟨j, hj, rfl⟩ := List.mem_map.mp hm
  refine ⟨j, hj, ?_⟩
  split <;> rfl

/-! ### Whether a retry point is due (R152) -/

theorem retryDue_of_no_block (hk : ∀ k ∈ s.rcv.blks, k.head ≠ h) : s.retryDue h = false := by
  have he : s.eligible h = [] := List.filter_eq_nil_iff.mpr fun k hm q => by
    rw [Bool.and_eq_true, decide_eq_true_iff] at q
    exact hk k hm q.1
  unfold State.retryDue
  rw [he]
  rfl

/-- With no task running, what is due depends on the blocks and on `RCV_CFG`. -/
theorem retryDue_congr (hr : t.rcv = s.rcv) (hc : t.reg Reg.RCV_CFG = s.reg Reg.RCV_CFG) (hs : s.taskRunning = false)
    (ht : t.taskRunning = false) : t.retryDue h = s.retryDue h := by
  have hel : t.eligible h = s.eligible h := by unfold State.eligible; rw [hr]
  have hli : t.listed h = s.listed h := by unfold State.listed; rw [hr]
  have hrd : ∀ f : RegField, f.reg = Reg.RCV_CFG → t.rd f = s.rd f := fun f hf => congrArg f.of (hf ▸ hc)
  unfold State.retryDue
  rw [hel, hli, hs, ht, hrd _ rfl, hrd _ rfl]
  rfl

/-! ### Where a retry point begins (R153) -/

theorem eligible_of_retryDue (hd : s.retryDue h = true) : s.eligible h ≠ [] := by
  intro he
  unfold State.retryDue at hd
  rw [he] at hd
  exact Bool.false_ne_true hd

/-- A head with eligible blocks has a band to go to. -/
theorem nextBand_some (he : s.eligible h ≠ []) (l : Nat) : ∃ q, s.nextBand h l l (-65) = some q := by
  unfold State.nextBand
  extract_lets ps low
  have hlow : ∀ l, l ≠ [] → ∃ q, low l = some q := fun l hl => by
    cases l with
    | nil => exact absurd rfl hl
    | cons p r => exact ⟨_, rfl⟩
  obtain ⟨k, hk⟩ := List.exists_mem_of_ne_nil _ he
  have hp : k.place ∈ ps := List.mem_map.mpr ⟨k, hk, rfl⟩
  by_cases hl : k.place.1 = l
  · obtain ⟨q, hq⟩ := hlow (ps.filter fun p => p.1 = l && decide (-65 < (p.2 : Int)))
      (List.ne_nil_of_mem (List.mem_filter.mpr ⟨hp, by simp [hl]; omega⟩))
    rw [hq]
    exact ⟨q, rfl⟩
  · obtain ⟨q, hq⟩ := hlow (ps.filter fun p => p.1 ≠ l && (l = l || decide (l < p.1)))
      (List.ne_nil_of_mem (List.mem_filter.mpr ⟨hp, by simp [hl]⟩))
    split
    · exact ⟨_, rfl⟩
    · exact ⟨q, hq⟩

theorem setRetry_retry (s : State) (h : Head) (r : Option Retry) : (s.setRetry h r).rcv.retry[h] = r := Vector.getElem_set_self _

theorem setRetry_blks (s : State) (h : Head) (r : Option Retry) : (s.setRetry h r).rcv.blks = s.rcv.blks := rfl

theorem setRetry_moves (s : State) (h : Head) (r : Option Retry) : Moves { rcv := true } [] s (s.setRetry h r) := Moves.refl.upd

/-- A retry point goes from the layer that it begins on to the first band with eligible blocks. -/
theorem retryNext_begins {r : Retry} (hr : s.rcv.retry[h] = none) (he : s.eligible h ≠ []) (hl : r.layer = r.resLayer)
    (hb : r.band = -65) : ∃ q, s.retryNext h r = s.setRetry h (some q) ∧ q.revs = 0 ∧ q.back = r.back ∧ q.resLayer = r.resLayer ∧
      q.resBand = r.resBand := by
  have ht : s.trkBack h = s := by
    unfold State.trkBack
    rw [hr]
  obtain ⟨⟨l, b⟩, hq⟩ := nextBand_some he r.resLayer
  refine ⟨{ r with layer := l, band := b, revs := 0, ofs := 0, await := false }, ?_, rfl, rfl, rfl, rfl⟩
  unfold State.retryNext
  rw [ht, hl, hb]
  simp only [hq]

end Sys2Proof.Machine
end

section
/-! ## Address words and frame 0 -/

namespace Sys2Proof.Machine

set_option Elab.async false

variable {s t : State} {h : Head} {monitor : Nat} {w p : Dword} {now : Angle} {lag : Nat}

/-! ### The confirming word -/

/-- The registers that the wanted facts are read of, and those that a taken word moves, are apart. -/
theorem wordRegs_apart : ∀ h : Head, ∀ a ∈ [Reg.ANG_NOW_HI, Reg.MIR_STAT, Reg.ANG_HPOS h, Reg.ANG_HOFS h], a ∉ wordRegs h := by decide

theorem acrcCnt_not_wordReg : ∀ h : Head, Reg.ACQ_ACRC_CNT h ∉ wordRegs h := by decide

theorem acrcCnt_ne_addrHi : ∀ h : Head, Reg.ACQ_ADDR_LO h + 4 ≠ Reg.ACQ_ACRC_CNT h := by decide

/-- R58, R67: of a locked head a word that agrees with the one before makes the angle valid, at the place that its FRAME gives. -/
theorem execAddressWord_validates (hc : s.clockOn h = true) (hlk : s.locked h = true) (hw : crcGood w = true)
    (hp : (s.ang.heads[h]).last = some p) (hag : agrees p w = true) (hz : zoneLegal w = true) (hv : s.angValid = false)
    (ho : s.owned = false) (hl : adrLAYER w = s.rd (F.ANG_HPOS_LAYER h)) (hb : adrBAND w = s.headBand h)
    (hg : ∀ b : Beam, (s.wrp.beams[b]).gate = none)
    (hn : ∀ i : Entry, (s.ang.entries[i]).armed = true → (s.ang.entries[i]).action ≠ 1) :
    Ends (execAddressWord h w now lag s) fun t =>
      s.Validated (newAngle (s.flow now).ang.now (s.wordAngle h w lag) false 0) t ∧
      Moves { regs := true, ang := true, acq := true } (wordRegs h ++ confirmRegs h) s t := by
  have hm := wordTaken_moves s h w now
  have ha := wordRegs_apart h
  obtain ⟨hnow, hent⟩ := wordTaken_ang s h w now
  rw [execAddressWord_locked hc hw hlk, hp, Option.any_some, if_pos (Bool.and_eq_true_iff.mpr ⟨hag, hz⟩)]
  generalize s.wordTaken h w now = s1 at hm hnow hent
  have hturn : s1.wordAngle h w lag = s.wordAngle h w lag := by
    unfold State.wordAngle
    rw [hm.regs _ (ha _ (by simp))]
  obtain ⟨hval, hm2⟩ := confirmWord_valid (w := w) (lag := lag) ((angValid_of_moves hm (ha _ (by simp))).trans hv)
    ((hm.flag (f := F.MIR_STAT_OWNED) (ha _ (by simp))).trans ho) (hl.trans (hm.rd (ha _ (by simp))).symm)
    (hb.trans (headBand_of_moves hm (ha _ (by simp))).symm) (by rw [hm.keep State.wrp]; exact hg) (by rw [hent]; exact hn)
  rw [hturn, hnow] at hval
  refine .next ⟨⟨hval.valid, hval.invalid, hval.holding, hval.now, hval.hwm, by rw [hval.entries, hent]⟩, ?_⟩
  exact (hm.mono rfl (List.subset_append_left _ _)).then_ hm2 rfl (List.subset_append_right _ _)

/-! ### Frame 0 with its recovery side -/

theorem frameRegs_listed : ∀ h : Head, ∀ a ∈ zoneRegs h ++ beamRegs h, a ∈ frameZeroRegs h := by decide

theorem rcvRegs_apart : ∀ h : Head, ∀ a ∈ [Reg.RCV_CFG, Reg.RCV_H_RP_CNT h, Reg.LSV_H_STAT h, Reg.TSK_STATE], a ∉ zoneRegs h ++ beamRegs h := by
  decide

theorem rpCnt_apart : ∀ h : Head, Reg.RCV_H_RP_CNT h ∈ frameZeroRegs h ∧ Reg.ANG_HPOS h ≠ Reg.RCV_H_RP_CNT h ∧
    Reg.LSV_H_STAT h ≠ Reg.RCV_H_RP_CNT h := by decide

theorem State.FrameZero.frame (hf : s.FrameZero h t) :
    Moves { regs := true, ang := true, acq := true, wrp := true, lsv := true } (frameZeroRegs h) s t :=
  hf.moves.mono rfl (frameRegs_listed h)

theorem aged_moves (s : State) (h : Head) : Moves { rcv := true } [] s (s.aged h) := Moves.refl.upd

theorem aged_rcv (hr : t.rcv = s.rcv) : (t.aged h).rcv = (s.aged h).rcv := by
  unfold State.aged
  rw [hr]

/-- R152: frame 0 asks for a retry point exactly where the state before it did. -/
theorem State.FrameZero.retryDue (hf : s.FrameZero h t) (hs : s.taskRunning = false) : (t.aged h).retryDue h = (s.aged h).retryDue h := by
  have ha := rcvRegs_apart h
  have htask : t.taskRunning = false := (congrArg (decide <| · = 1) (hf.moves.rd (ha _ (by simp)))).trans hs
  exact retryDue_congr (aged_rcv (hf.moves.keep State.rcv)) (hf.moves.regs _ (ha _ (by simp))) hs htask

/-- R153: with no block of the head in recovery frame 0 has no recovery side. -/
theorem execFrameZero_noBlock (hr : s.rcv.retry[h] = none) (hk : ∀ k ∈ s.rcv.blks, k.head ≠ h) :
    Ends (execFrameZero h monitor s) (s.FrameZero h) := by
  have hf := frameZeroed_frameZero s h monitor
  rw [execFrameZero_eq]
  generalize s.frameZeroed h monitor = u at hf
  have hrcv : u.rcv = s.rcv := hf.moves.keep State.rcv
  have hr' : u.rcv.retry[h] = none := hrcv ▸ hr
  have hk' : ∀ k ∈ u.rcv.blks, k.head ≠ h := hrcv ▸ hk
  rw [retryFrameZero_none hr', aged_of_no_block hk', retryDue_of_no_block hk', if_neg Bool.false_ne_true,
    listBeside_none fun k hm q => absurd q (hk' k hm), retryOrders_none hr']
  exact .next hf

/-- R152: the deferred blocks age by a crossing, where no retry point is due. -/
theorem execFrameZero_ages (hr : s.rcv.retry[h] = none) (hs : s.taskRunning = false) (hd : (s.aged h).retryDue h = false)
    (hk : ∀ k ∈ s.rcv.blks, k.phase ≠ .beside ∧ k.phase ≠ .outside) : Ends (execFrameZero h monitor s) fun t =>
      s.BandZone h t ∧ t.rcv = (s.aged h).rcv ∧
      Moves { regs := true, ang := true, acq := true, wrp := true, lsv := true, rcv := true } (frameZeroRegs h) s t := by
  have hf := frameZeroed_frameZero s h monitor
  rw [execFrameZero_eq]
  generalize s.frameZeroed h monitor = u at hf
  have hrcv : u.rcv = s.rcv := hf.moves.keep State.rcv
  have hr' : u.rcv.retry[h] = none := hrcv ▸ hr
  have hk' : ∀ k ∈ (u.aged h).rcv.blks, k.head = h → k.phase ≠ .beside ∧ k.phase ≠ .outside := fun k hm _ => by
    obtain ⟨j, hj, hph⟩ := aged_phase hm
    rw [hph]
    exact hk j (hrcv ▸ hj)
  rw [retryFrameZero_none hr', hf.retryDue hs, hd, if_neg Bool.false_ne_true, listBeside_none hk',
    retryOrders_none (s := u.aged h) hr']
  exact .next ⟨hf.zone.moves (aged_moves u h) fun _ _ => List.not_mem_nil, aged_rcv hrcv,
    (hf.frame.mono rfl (List.Subset.refl _)).then_ (aged_moves u h) rfl (List.nil_subset _)⟩

/-- R152, R153: a retry point that is due begins, and a busy loop supervisor has its order later. -/
theorem execFrameZero_begins (hr : s.rcv.retry[h] = none) (hs : s.taskRunning = false) (hd : (s.aged h).retryDue h = true)
    (hb : s.flag (F.LSV_H_STAT_BUSY h) = true) : Ends (execFrameZero h monitor s) fun t =>
      Counts s t (Reg.RCV_H_RP_CNT h) ∧
      (∃ r, t.rcv.retry[h] = some r ∧ r.revs = 0 ∧ r.back = false ∧ r.resLayer = s.rd (F.ANG_HPOS_LAYER h) ∧
        r.resBand = signed 16 (t.rd (F.ANG_HPOS_BAND h))) ∧
      t.rcv.blks = (s.aged h).rcv.blks ∧
      Moves { regs := true, ang := true, acq := true, wrp := true, lsv := true, rcv := true } (frameZeroRegs h) s t := by
  have hf := frameZeroed_frameZero s h monitor
  have ha := rcvRegs_apart h
  obtain ⟨hrp, hpos, hlsv⟩ := rpCnt_apart h
  rw [execFrameZero_eq]
  generalize s.frameZeroed h monitor = u at hf
  have hrcv : u.rcv = s.rcv := hf.moves.keep State.rcv
  have hr' : u.rcv.retry[h] = none := hrcv ▸ hr
  have hd' : (u.aged h).retryDue h = true := (hf.retryDue hs).trans hd
  rw [retryFrameZero_none hr', if_pos hd']
  have hm1 : Moves { regs := true, rcv := true } [Reg.RCV_H_RP_CNT h] u ((u.aged h).bump (Reg.RCV_H_RP_CNT h)) :=
    ((aged_moves u h).mono rfl (List.nil_subset _)).bump
  have hc1 : Counts s ((u.aged h).bump (Reg.RCV_H_RP_CNT h)) (Reg.RCV_H_RP_CNT h) :=
    (Counts.bump.after (aged_moves u h) List.not_mem_nil).after hf.moves (ha _ (by simp))
  have hrcv1 : ((u.aged h).bump (Reg.RCV_H_RP_CNT h)).rcv = (s.aged h).rcv := (State.bump_rcv _ _).trans (aged_rcv hrcv)
  have he : ((u.aged h).bump (Reg.RCV_H_RP_CNT h)).eligible h ≠ [] := by
    unfold State.eligible
    rw [State.bump_rcv]
    exact eligible_of_retryDue hd'
  have hr1 : ((u.aged h).bump (Reg.RCV_H_RP_CNT h)).rcv.retry[h] = none := by rw [State.bump_rcv]; exact hr'
  generalize (u.aged h).bump (Reg.RCV_H_RP_CNT h) = v at hm1 hc1 hrcv1 he hr1
  obtain ⟨r, e, hrevs, hback, hlayer, hresBand⟩ := retryNext_begins (r := u.retryStart h (v.int (Reg.SRV_G_TGT h 1))) hr1 he rfl rfl
  rw [e]
  have hm2 := setRetry_moves v h (some r)
  have hbusy : (v.setRetry h (some r)).flag (F.LSV_H_STAT_BUSY h) = true :=
    (hm2.flag List.not_mem_nil).trans ((hm1.flag (by simpa using hlsv)).trans ((hf.moves.flag (ha _ (by simp))).trans hb))
  have hband : (v.setRetry h (some r)).rd (F.ANG_HPOS_BAND h) = u.rd (F.ANG_HPOS_BAND h) :=
    (hm2.rd List.not_mem_nil).trans (hm1.rd (by simpa using hpos))
  rw [retryOrders_busy hbusy]
  refine .next ⟨hc1.then_ hm2 List.not_mem_nil, ⟨r, setRetry_retry _ _ _, hrevs, hback, hlayer.trans hf.zone.layer, ?_⟩,
    (setRetry_blks _ _ _).trans (by rw [hrcv1]), ?_⟩
  · rw [hband]
    exact hresBand
  · exact ((hf.frame.mono rfl (List.Subset.refl _)).then_ hm1 rfl (by simpa using hrp)).then_ hm2 rfl (List.nil_subset _)

/-- Settles O4: what becomes of an address word, and what a head's frame 0 does, by the part of it that the recovery side takes. -/
theorem addressWordsAndFrameZero : Obligations.AddressWordsAndFrameZero := by
  refine ⟨fun s h w now lag hc hw => ?_, fun s h w now lag hc hw hl => ?_, fun s h w now lag hc hl hw hno => ?_,
    fun s h p w now lag hc hlk hw hp hag hz hv ho hl hb hg hn => ?_, fun s h monitor hr hk => ?_, fun s h monitor hr hs hd hk => ?_,
    fun s h monitor hr hs hd hb => ?_⟩
  · have hm : OnlyRegs [Reg.ACQ_ACRC_CNT h] (s.wordIn h w) ((s.wordIn h w).bump (Reg.ACQ_ACRC_CNT h)) := OnlyRegs.refl.bump (by simp)
    have hhi := acrcCnt_ne_addrHi h
    refine ⟨_, execAddressWord_badCrc hc hw, ?_, Counts.bump.after (wordIn_moves s h w) (acrcCnt_not_wordReg h), ?_⟩
    · exact (pair_of_moves (.of_onlyRegs hm) (by simp) (by simp [hhi])).trans (wordIn_pair s h w)
    · exact ((wordIn_only s h w).mono (by simp [wordRegs])).bump (by simp)
  · exact ⟨_, execAddressWord_unlocked hc hw hl, wordIn_pair s h w, wordIn_only s h w⟩
  · have e : execAddressWord h w now lag s = .next (s.wordTaken h w now) :=
      (execAddressWord_locked hc hw hl).trans (congrArg _ (if_neg fun q => by
        obtain ⟨hany, hzone⟩ := Bool.and_eq_true_iff.mp q
        exact hno.elim (fun n => Bool.false_ne_true (n.symm.trans hany)) (fun n => Bool.false_ne_true (n.symm.trans hzone))))
    have hm := wordTaken_moves s h w now
    obtain ⟨hnow, hent⟩ := wordTaken_ang s h w now
    exact ⟨_, e, wordTaken_pair s h w now, wordTaken_last s h w now, hnow, hent, hm.parts, hm.regs⟩
  · obtain ⟨t, e, hval, hm⟩ := execAddressWord_validates hc hlk hw hp hag hz hv ho hl hb hg hn
    refine ⟨t, e, hval.valid, hval.invalid, hval.holding, ?_, hval.hwm.trans hval.now.symm, fun i => ?_, fun i hi => ?_, hm.parts, hm.regs⟩
    · rw [hval.now]
      exact newAngle_turn _ (wordAngle_lt s h w lag) 0
    · rw [hval.entries]
      exact (congrArg AngEntry.armed (Vector.getElem_map _ i.isLt)).trans (dropped_armed _)
    · rw [hval.entries]
      exact (congrArg AngEntry.cancelled (Vector.getElem_map _ i.isLt)).trans (dropped_cancelled hi)
  · obtain ⟨t, e, hf⟩ := execFrameZero_noBlock (monitor := monitor) hr hk
    exact ⟨t, e, hf.zone.band, hf.zone.layer, hf.zone.applied, hf.zone.kept, hf.spr, hf.skews, hf.ang, hf.frame.parts, hf.frame.regs⟩
  · obtain ⟨t, e, hz, hrcv, hm⟩ := execFrameZero_ages (monitor := monitor) hr hs hd hk
    exact ⟨t, e, hz.band, hrcv, hm.parts, hm.regs⟩
  · obtain ⟨t, e, hcnt, hret, hblks, hm⟩ := execFrameZero_begins (monitor := monitor) hr hs hd hb
    exact ⟨t, e, hcnt, hret, hblks, hm.parts, hm.regs⟩

end Sys2Proof.Machine
end

section
/-! ## A stop of a slot whose mark lay beyond every window -/

namespace Sys2Proof.Machine

set_option Elab.async false

/-- A scan whose slot in capture holds a sync distance of 2^13, more than `DET_SYNC_CFG.MAXD` can allow (R114). -/
def farMark : State :=
  ({ det := (Vector.replicate 16 {}).set 0
      { run := some { left := 1, lba := 0, spare := false, any := false, zl := 0 }
        cap := some { lba := 0, buf := 0, eqset := 1, elvl := 0, win := 0, rung := 0, repass := false, home := 0, taps := [],
                      sync := some (0, 2 ^ 13) } } } : State).wr (F.DET_STAT_MODE 0) 3

/-- `DET_LAST_RES` adds its figures up (R136): such a distance carries into the three bits of the outcome, and ABORTED reads as
GOOD_CAPTURE. -/
theorem farMark_stopped : ((farMark.runAbort 0 false).reg (Reg.DET_LAST_RES 0)).toNat / 2 ^ 29 = 0 := by decide +kernel

/-- Refutes O11: its sixth clause has a stopped slot report ABORTED whatever sync distance the slot holds, and the model
keeps the fields of that word apart only for a distance of five bits, as R114 accepts it. -/
theorem not_captureRuns : ¬ Obligations.CaptureRuns := by
  rintro ⟨_, _, _, _, _, hstop, _⟩
  obtain ⟨t, hg, _, _, _, hres, _⟩ := hstop farMark 0 _ _ rfl rfl (by decide +kernel) (by decide) rfl
  have ht : farMark.runAbort 0 false = t := Host.Outcome.next.inj hg
  subst ht
  exact absurd (farMark_stopped.symm.trans hres) (by decide)

end Sys2Proof.Machine
end

section
/-! ## The slot in capture -/

namespace Sys2Proof.Machine

set_option Elab.async false

variable {s t u : State} {b : Beam} {r : DetRun} {c : Capture}

theorem modDet_moves (s : State) (b : Beam) (f : Det → Det) : Moves { det := true } [] s (s.modDet b f) := Moves.refl.upd

theorem modDet_same (s : State) (b : Beam) (f : Det → Det) : (s.modDet b f).det[b] = f s.det[b] := by simp [State.modDet]

theorem modDet_ne (s : State) {b d : Beam} (f : Det → Det) (h : d ≠ b) : (s.modDet b f).det[d] = s.det[d] := by
  simp [State.modDet, Fin.val_inj, h.symm]

/-- The slot in capture of a beam, with what it has come to. -/
def State.setCap (s : State) (b : Beam) (c : Capture) : State := s.modDet b (fun d => { d with cap := some c })

theorem setCap_moves (s : State) (b : Beam) (c : Capture) : Moves { det := true } [] s (s.setCap b c) := modDet_moves _ _ _

theorem setCap_cap (s : State) (b : Beam) (c : Capture) : ((s.setCap b c).det[b]).cap = some c := by
  unfold State.setCap
  rw [modDet_same]

theorem setCap_run (s : State) (b : Beam) (c : Capture) : ((s.setCap b c).det[b]).run = (s.det[b]).run := by
  unfold State.setCap
  rw [modDet_same]

theorem setCap_bufs (s : State) (b : Beam) (c : Capture) : ((s.setCap b c).det[b]).bufs = (s.det[b]).bufs := by
  unfold State.setCap
  rw [modDet_same]

theorem setCap_ne (s : State) {b d : Beam} (c : Capture) (h : d ≠ b) : (s.setCap b c).det[d] = s.det[d] := modDet_ne _ _ h

/-- R114: the mark accepted is kept for the slot. -/
theorem execSyncDecision_accepts {cands : List SyncCand} {q : SyncCand} (env : Nat) (hr : (s.det[b]).run = some r)
    (hc : (s.det[b]).cap = some c) (hs : c.sync = none) (hq : bestSync c.win (s.rd (F.DET_SYNC_CFG_MAXD b)) cands = some q) :
    execSyncDecision b cands env s = .next (s.setCap b { c with sync := some (q.ofs, q.dist) }) := by
  unfold execSyncDecision
  simp only [hr, hc, hs, hq]
  rfl

/-- R117, R118: the header accepted is shown, and kept for the slot. -/
theorem execHeaderDecision_accepts {cells : List Int} {w : Dword} (hr : (s.det[b]).run = some r) (hc : (s.det[b]).cap = some c)
    (hs : c.sync.isSome = true) (hh : c.header = none) (hw : headerDecode (s.rd (F.DET_HDR_CFG_AMB b)) cells = some w)
    (ha : headerAccept (s.detScans b r) r.spare r.lba r.zl w = true) : execHeaderDecision b cells s =
      .next ((s.setPair (Reg.DET_LAST_HDR_LO b) w.toNat).setCap b { c with header := some w }) := by
  have hmode : Reg.DET_STAT b ∉ [Reg.DET_LAST_HDR_LO b, Reg.DET_LAST_HDR_LO b + 4] := by
    simp only [Reg.DET_STAT, Reg.DET_LAST_HDR_LO, List.mem_cons, List.not_mem_nil, or_false]
    omega
  have hm : Moves { regs := true } [Reg.DET_LAST_HDR_LO b, Reg.DET_LAST_HDR_LO b + 4] s (s.setPair (Reg.DET_LAST_HDR_LO b) w.toNat) :=
    Moves.refl.setPair _
  have hscan : (s.setPair (Reg.DET_LAST_HDR_LO b) w.toNat).detScans b r = s.detScans b r := by
    unfold State.detScans
    rw [hm.rd hmode]
  have hno : (c.sync.isNone || c.header.isSome) = false := by
    rw [hh, Option.isNone_eq_false_iff.mpr hs]
    rfl
  unfold execHeaderDecision
  simp only [hr, hc, hno, hw, hscan, ha, if_true]
  rfl

/-! ### The defect detector (R120) -/

section

variable {q : DefState} {e : Nat}

/-- The reference that a beam's envelope is held against (R123). -/
abbrev State.envRef (s : State) (b : Beam) : Nat := (s.reg (Reg.DET_ENV b)).toNat

/-- The bits in a row that open a region, and that end it, in the slot's profile (R120). -/
abbrev State.pers (s : State) (c : Capture) : Nat := s.rd (F.DET_DEF_PROFILE_PERS c.elvl)

theorem State.DipsBelow.low (h : s.DipsBelow b c e) :
    decide (s.rd (F.DET_DEF_PROFILE_DO_THR c.elvl) ≠ 0 ∧ 100 * e < s.rd (F.DET_DEF_PROFILE_DO_THR c.elvl) * s.envRef b) = true := by
  refine decide_eq_true ⟨fun h0 => ?_, h⟩
  unfold State.DipsBelow at h
  rw [h0, Nat.zero_mul] at h
  exact absurd h (Nat.not_lt_zero _)

theorem State.WithinLimits.low (h : s.WithinLimits b c e) :
    decide (s.rd (F.DET_DEF_PROFILE_DO_THR c.elvl) ≠ 0 ∧ 100 * e < s.rd (F.DET_DEF_PROFILE_DO_THR c.elvl) * s.envRef b) = false :=
  decide_eq_false fun k => absurd k.2 (Nat.not_lt.mpr h.1)

theorem State.WithinLimits.high (h : s.WithinLimits b c e) :
    decide (s.rd (F.DET_DEF_PROFILE_DI_THR c.elvl) ≠ 0 ∧ s.rd (F.DET_DEF_PROFILE_DI_THR c.elvl) * s.envRef b < 100 * e) = false :=
  decide_eq_false fun k => h.2.elim k.1 (fun h => absurd k.2 (Nat.not_lt.mpr h))

/-- A bit inside both limits opens no region, and counts towards the end of one that is open. -/
theorem defBit_within_none (n : Nat) (h : s.WithinLimits b c e) (ho : q.open_ = none) :
    s.defBit c.elvl (s.envRef b) n e q = ⟨0, 0, none, 0⟩ := by
  unfold State.defBit
  simp only [ho, h.low, h.high, Bool.false_eq_true, if_false, and_false]

theorem defBit_within_open {a z i : Nat} (n : Nat) (h : s.WithinLimits b c e) (hi : i ≤ s.pers c) :
    s.defBit c.elvl (s.envRef b) n e ⟨0, 0, some (a, z), i⟩ = ⟨0, 0, some (a, z), min (s.pers c) (i + 1)⟩ := by
  unfold State.pers at hi ⊢
  unfold State.defBit
  simp only [h.low, h.high, Bool.or_self, Bool.false_eq_true, if_false]
  split
  · rw [Nat.min_eq_left (by omega), Nat.le_antisymm hi (by assumption)]
  · rw [Nat.min_eq_right (by omega)]

/-- A bit below the limit counts; the last of PERS in a row opens the region at the first of them; the region then goes on. -/
theorem defBit_dip_counts (n : Nat) (h : s.DipsBelow b c e) (ho : q.open_ = none) (hq : q.high ≤ q.low)
    (hp : q.low + 1 < s.pers c) : (s.defBit c.elvl (s.envRef b) n e q).open_ = none ∧
      (s.defBit c.elvl (s.envRef b) n e q).low = q.low + 1 ∧ (s.defBit c.elvl (s.envRef b) n e q).high ≤ q.low + 1 := by
  unfold State.pers at hp
  unfold State.defBit
  simp only [ho, h.low, if_true, Nat.not_le.mpr hp, false_and, if_false]
  split
  · rw [if_neg (fun k => absurd k.1 (by omega))]
    exact ⟨rfl, rfl, Nat.succ_le_succ hq⟩
  · rw [if_neg (fun k => absurd k.2 (by assumption))]
    exact ⟨rfl, rfl, Nat.zero_le _⟩

theorem defBit_dip_opens (n : Nat) (h : s.DipsBelow b c e) (ho : q.open_ = none) (hp : s.pers c ≤ q.low + 1) :
    s.defBit c.elvl (s.envRef b) n e q = ⟨0, 0, some (n - q.low, n), 0⟩ := by
  unfold State.defBit
  simp only [ho, h.low, if_true, hp, true_and, Nat.add_sub_add_right]

theorem defBit_dip_open {a z : Nat} (n : Nat) (h : s.DipsBelow b c e) (hp : 0 < s.pers c) :
    s.defBit c.elvl (s.envRef b) n e ⟨0, 0, some (a, z), 0⟩ = ⟨0, 0, some (a, n), 0⟩ := by
  unfold State.defBit
  simp only [h.low, Bool.true_or, if_true, Nat.not_le.mpr hp, if_false]

theorem defRun_append (l m : List Nat) : ∀ (n : Nat) (q : DefState),
    s.defRun c.elvl (s.envRef b) n (l ++ m) q = s.defRun c.elvl (s.envRef b) (n + l.length) m
      (s.defRun c.elvl (s.envRef b) n l q) := by
  induction l with
  | nil => exact fun _ _ => rfl
  | cons e l ih =>
    intro n q
    simp only [List.cons_append, State.defRun, ih, List.length_cons]
    rw [Nat.add_right_comm n 1, Nat.add_assoc n]

/-- A stretch inside both limits opens no region. -/
theorem defRun_within_none (h : s.WithinLimits b c e) : ∀ (n k : Nat) (q : DefState), q.open_ = none →
    (s.defRun c.elvl (s.envRef b) n (List.replicate k e) q).open_ = none
  | _, 0, _, ho => ho
  | n, k + 1, q, ho => by
    rw [List.replicate_succ, State.defRun, defBit_within_none n h ho]
    exact defRun_within_none h (n + 1) k _ rfl

/-- A stretch inside both limits is counted up to PERS, and leaves the region as it is. -/
theorem defRun_within_open {a z : Nat} (h : s.WithinLimits b c e) : ∀ (n k i : Nat), i ≤ s.pers c →
    s.defRun c.elvl (s.envRef b) n (List.replicate k e) ⟨0, 0, some (a, z), i⟩ = ⟨0, 0, some (a, z), min (s.pers c) (i + k)⟩
  | _, 0, i, hi => by rw [Nat.add_zero, Nat.min_eq_right hi]; rfl
  | n, k + 1, i, hi => by
    rw [List.replicate_succ, State.defRun, defBit_within_open n h hi, defRun_within_open h (n + 1) k _ (Nat.min_le_left _ _)]
    congr 1
    omega

/-- The detector after `k` bits in a row below the limit, from bit `n` on: they are counted, and PERS of them make a region. -/
structure State.Dipped (s : State) (c : Capture) (n k : Nat) (q : DefState) : Prop where
  closed : k < s.pers c → q.open_ = none ∧ q.low = k ∧ q.high ≤ k
  opened : s.pers c ≤ k → q = ⟨0, 0, some (n, n + k - 1), 0⟩

theorem defRun_dips (h : s.DipsBelow b c e) (hp : 0 < s.pers c) (n k : Nat) :
    s.Dipped c n k (s.defRun c.elvl (s.envRef b) n (List.replicate k e) {}) := by
  induction k with
  | zero => exact ⟨fun _ => ⟨rfl, rfl, Nat.le_refl _⟩, fun h0 => absurd hp (by omega)⟩
  | succ k ih =>
    rw [List.replicate_succ', defRun_append, List.length_replicate]
    generalize s.defRun c.elvl (s.envRef b) n (List.replicate k e) {} = q at ih
    show s.Dipped c n (k + 1) (s.defBit c.elvl (s.envRef b) (n + k) e q)
    refine ⟨fun hk => ?_, fun hk => ?_⟩
    · obtain ⟨ho, hl, hh⟩ := ih.closed (Nat.lt_of_succ_lt hk)
      have hd := defBit_dip_counts (n + k) h ho (by omega) (by omega)
      rwa [hl] at hd
    · by_cases hlt : k < s.pers c
      · obtain ⟨ho, hl, _⟩ := ih.closed hlt
        rw [defBit_dip_opens (n + k) h ho (by omega), hl, Nat.add_sub_cancel]
        rfl
      · rw [ih.opened (by omega), defBit_dip_open _ h hp]
        rfl

/-- R120: a drop-out of at least PERS bits that is over for at least PERS bits is one complete region. -/
theorem defRun_dropOut {f low back n : Nat} (he : s.DipsBelow b c e) (hf : s.WithinLimits b c f) (hp : 0 < s.pers c)
    (hl : s.pers c ≤ low) (hb : s.pers c ≤ back) :
    s.defRun c.elvl (s.envRef b) n (List.replicate low e ++ List.replicate back f) {} =
      ⟨0, 0, some (n, n + low - 1), s.pers c⟩ := by
  rw [defRun_append, (defRun_dips he hp n low).opened hl, defRun_within_open hf _ _ _ (Nat.zero_le _), Nat.zero_add, Nat.min_eq_left hb]

end

/-- A region is marked with its extensions, and its defect is over once the envelope has come back. -/
def State.regionMarked (s : State) (b : Beam) (c : Capture) (a z : Nat) : State :=
  let e := 4 * s.rd (F.DET_DEF_PROFILE_EXT c.elvl)
  ((s.setDefect b false).setCap b { c with marks := c.marks ++ [(a - e, z + e)] }).bump (Reg.DET_DEF_CNT b)

theorem execDefectRegion_marks {first low back e f : Nat} (hc : (s.det[b]).cap = some c) (he : s.DipsBelow b c e)
    (hf : s.WithinLimits b c f) (hp : 0 < s.pers c) (hl : s.pers c ≤ low)
    (hb : s.pers c ≤ back) :
    execDefectRegion b first (List.replicate low e ++ List.replicate back f) s = .next (s.regionMarked b c first (first + low - 1)) := by
  have hrun := defRun_dropOut (n := first) he hf hp hl hb
  unfold execDefectRegion
  simp only [hc, hrun, Nat.lt_irrefl, decide_false]
  rfl

theorem execDefectRegion_within {n f : Nat} (first : Nat) (hc : (s.det[b]).cap = some c) (hf : s.WithinLimits b c f) :
    execDefectRegion b first (List.replicate n f) s = .next (s.setDefect b false) := by
  have hrun := defRun_within_none hf first n {} rfl
  unfold execDefectRegion
  simp only [hc, hrun]

/-! ### The end of a good slot (R125) -/

theorem setTaps_moves (s : State) (b : Beam) (c : Capture) (after : List Word) :
    Moves { regs := true } ((List.range 8).map (fun j => Reg.DET_EQ_TAP b j)) s (s.setTaps b c after) :=
  Moves.forEach _ (fun _ hj _ h => h.setReg _ rfl (List.mem_map_of_mem hj)) .refl

theorem keepBlk_moves (s : State) (k : RBlk) : Moves { rcv := true } [] s (s.keepBlk k) := Moves.refl.upd

theorem expectBlk_congr (hr : u.rcv = s.rcv) (hd : u.disc = s.disc) : u.expectBlk b r = s.expectBlk b r := by
  unfold State.expectBlk State.rblk State.spareOf
  rw [hr, hd]

/-- What a slot changed for itself alone is nothing once its header is accepted and its rung stepped no read power (R111, R151). -/
theorem captureBack_good (hh : c.header.isSome = true) (hl : c.rlvl = none) : s.captureBack b c 0 = s := by
  have hn : c.header.isNone = false := Option.isNone_eq_false_iff.mpr hh
  unfold State.captureBack
  simp only [hl, hn, Bool.false_eq_true, if_false]
  split <;> rfl

/-- The block a good slot's samples go to DEC with, on its first pass (R125). -/
def firstPass (b : Beam) (c : Capture) (k : RBlk) : DecBlk := ⟨k.lba, k.beam, b, c.buf, k.rung, false, k.conv, none⟩

/-- The block enters the queue of first passes. -/
def Dec.passFirst (d : Dec) (e : DecBlk) : Dec := { d with fpq := d.fpq ++ [e] }

/-- A slot of the run ends good for block `k`: what a capture keeps of it stands in its sample buffer slot, and it is queued for DEC. -/
structure State.EndsGood (s : State) (b : Beam) (r : DetRun) (c : Capture) (k : RBlk) (t : State) : Prop where
  cap    : (t.det[b]).cap = none
  run    : (t.det[b]).run = r.next
  buf    : ((t.det[b]).bufs[c.buf]).map (·.lba) = some r.lba
  others : ∀ d : Beam, d ≠ b → t.det[d] = s.det[d]
  dec    : t.dec = s.dec.passFirst (firstPass b c k)
  moves  : Moves { regs := true, det := true, dec := true, rcv := true, acq := true } [Reg.DET_LAST_RES b, Reg.DET_BLK_CNT b] s t
  counts : Counts s t (Reg.DET_BLK_CNT b)

theorem slotNote_good (s : State) (b : Beam) (fig : Figures) :
    Moves { regs := true } [Reg.DET_LAST_RES b, Reg.DET_BLK_CNT b] s (s.slotNote b 0 fig) ∧
      Counts s (s.slotNote b 0 fig) (Reg.DET_BLK_CNT b) := by
  have hne : Reg.DET_BLK_CNT b ∉ [Reg.DET_LAST_RES b] := by
    simp only [Reg.DET_BLK_CNT, Reg.DET_LAST_RES, List.mem_singleton]
    omega
  unfold State.slotNote
  extract_lets res s1
  have hm : Moves { regs := true } [Reg.DET_LAST_RES b] s (s.setReg (Reg.DET_LAST_RES b) (BitVec.ofNat 32 res)) := Moves.refl.setReg _
  exact ⟨(hm.mono rfl (by simp)).bump, Counts.bump.after hm hne⟩

/-- R125: the samples of a good capture go to DEC's queue of first passes, and nothing else moves but the recovery logic. -/
theorem captured_good (s : State) (b : Beam) (c : Capture) (k : RBlk) :
    (s.captured k 0 b c.buf false).dec = s.dec.passFirst (firstPass b c k) ∧
      Moves { dec := true, rcv := true } [] s (s.captured k 0 b c.buf false) := by
  unfold State.captured
  exact ⟨rfl, (Moves.refl.upd (u := { s with dec := s.dec.passFirst (firstPass b c k) })).then_ (keepBlk_moves _ _) rfl
    (List.nil_subset _)⟩

/-- The beam after a slot: the run goes on, and the slot's buffer holds what is kept. -/
def Det.ended (d : Det) (r : DetRun) (i : Fin 6) (kept : Option SBuf) : Det :=
  { d with run := r.next, cap := none, bufs := d.bufs.set i kept }

/-- The slot is over, and no defect is flagged. -/
def State.slotClosed (s : State) (b : Beam) (r : DetRun) (i : Fin 6) (kept : Option SBuf) : State :=
  (s.modDet b (·.ended r i kept)).setDefect b false

theorem slotClosed_det (s : State) (b : Beam) (r : DetRun) (i : Fin 6) (kept : Option SBuf) :
    (s.slotClosed b r i kept).det[b] = (s.det[b]).ended r i kept := (modDet_same s b (·.ended r i kept) :)

theorem slotClosed_ne {d : Beam} (i : Fin 6) (kept : Option SBuf) (h : d ≠ b) : (s.slotClosed b r i kept).det[d] = s.det[d] :=
  (modDet_ne s (·.ended r i kept) h :)

theorem slotClosed_moves (s : State) (b : Beam) (r : DetRun) (i : Fin 6) (kept : Option SBuf) :
    Moves { det := true, acq := true } [] s (s.slotClosed b r i kept) := Moves.refl.upd

theorem slotOver_good {fig : Figures} {x : SBuf} {k : RBlk} (ha : r.any = false) (hv : c.serves = true) (hh : c.header.isSome = true)
    (hp : c.repass = false) (hl : c.rlvl = none) (hk : s.expectBlk b r = some k) :
    s.slotOver b r c 0 fig (some x) false =
      (s.slotClosed b r c.buf (some { x with lba := r.lba })).captured { k with fig := fig } 0 b c.buf false := by
  unfold State.slotOver
  simp only [ha, hv, hp, hk, captureBack_good hh hl, Bool.false_eq_true, if_false, Bool.not_true, Bool.or_self, Bool.false_and,
    Option.isSome_some, Bool.true_or, if_true, Option.map_some]
  rfl

theorem slotEnd_good {fig : Figures} {x : SBuf} {k : RBlk} (hc : (s.det[b]).cap = some c) (hscan : s.detScans b r = false)
    (hv : c.serves = true) (hh : c.header.isSome = true) (hp : c.repass = false) (hl : c.rlvl = none) (hk : s.expectBlk b r = some k) :
    s.EndsGood b r c k (s.slotEnd b r 0 fig (some x)) := by
  obtain ⟨hm, hcnt⟩ := slotNote_good s b fig
  have hmode : (s.slotNote b 0 fig).rd (F.DET_STAT_MODE b) = s.rd (F.DET_STAT_MODE b) := hm.rd (by
    simp only [Reg.DET_STAT, Reg.DET_LAST_RES, Reg.DET_BLK_CNT, List.mem_cons, List.not_mem_nil, or_false]; omega)
  obtain ⟨hno, hany⟩ := Bool.or_eq_false_iff.mp hscan
  have hdet : (s.slotNote b 0 fig).det = s.det := hm.keep State.det
  have hdec : (s.slotNote b 0 fig).dec = s.dec := hm.keep State.dec
  have hk1 : (s.slotNote b 0 fig).expectBlk b r = some k := (expectBlk_congr (hm.keep State.rcv) (hm.keep State.disc)).trans hk
  have e : s.slotEnd b r 0 fig (some x) = (s.slotNote b 0 fig).slotOver b r c 0 fig (some x) false := by
    unfold State.slotEnd
    simp only [hmode, hno, hdet, hc]
  rw [e, slotOver_good hany hv hh hp hl hk1]
  generalize s.slotNote b 0 fig = u at *
  have hclosed := slotClosed_det u b r c.buf (some { x with lba := r.lba })
  have hoth : ∀ d : Beam, d ≠ b → (u.slotClosed b r c.buf (some { x with lba := r.lba })).det[d] = u.det[d] := fun d => slotClosed_ne _ _
  have hm1 := slotClosed_moves u b r c.buf (some { x with lba := r.lba })
  generalize u.slotClosed b r c.buf (some { x with lba := r.lba }) = v at *
  obtain ⟨hq, hm2⟩ := captured_good v b c { k with fig := fig }
  have hdet2 := hm2.keep State.det
  refine ⟨?_, ?_, ?_, fun d hd => ?_, ?_, ?_, (hcnt.then_ hm1 List.not_mem_nil).then_ hm2 List.not_mem_nil⟩
  · rw [hdet2, hclosed]
    rfl
  · rw [hdet2, hclosed]
    rfl
  · rw [hdet2, hclosed]
    simp [Det.ended]
  · rw [hdet2, hoth d hd, hdet]
  · rw [hq, hm1.keep State.dec, hdec]
    rfl
  · exact ((hm.mono rfl (List.Subset.refl _)).then_ hm1 rfl (List.nil_subset _)).then_ hm2 rfl (List.nil_subset _)

/-- The registers that measure the slot in capture: what its end writes before its outcome. -/
def measureRegs (b : Beam) : List Nat :=
  [Reg.DET_EQ_MSE b, Reg.DET_ENV b, Reg.DET_RUNLONG_CNT b, Reg.DET_FLAGAMB_CNT b, Reg.DET_ERAS_CNT b] ++
    (List.range 8).map (fun j => Reg.DET_EQ_TAP b j)

theorem measureRegs_apart : ∀ b : Beam, ∀ a ∈ [Reg.DET_ERASE_MAX, Reg.DET_STAT b, Reg.DET_BLK_CNT b], a ∉ measureRegs b := by decide

theorem captureRegs_split : ∀ b : Beam, measureRegs b ⊆ captureRegs b ∧ [Reg.DET_LAST_RES b, Reg.DET_BLK_CNT b] ⊆ captureRegs b := by
  decide

/-- R119 to R122: a capture whose erasures stay within their limit measures its slot, and the slot ends good. -/
theorem execCaptureEnd_good (x : CaptureIn) (hr : (s.det[b]).run = some r) (hc : (s.det[b]).cap = some c)
    (hh : c.header.isSome = true) (hmax : (erasedCounts (erasedGroups c.marks)).foldl max 0 ≤ s.rd F.DET_ERASE_MAX_MAX) :
    ∃ u fig y, execCaptureEnd b x s = .next (u.slotEnd b r 0 fig (some y)) ∧ Moves { regs := true } (measureRegs b) s u := by
  have hn : c.header.isNone = false := Option.isNone_eq_false_iff.mpr hh
  unfold execCaptureEnd
  split
  case h_2 hno => exact absurd hc (hno r c hr)
  case h_1 r' c' hr' hc' =>
  cases hr.symm.trans hr'
  cases hc.symm.trans hc'
  rw [if_neg (by rw [hn]; exact Bool.false_ne_true)]
  extract_lets fs gs er ermax amb s1 s2 s3 s4 s5 taken fig
  have h4 : Moves { regs := true } (measureRegs b) s s4 :=
    ((((Moves.refl.setReg _ rfl (by simp [measureRegs])).setReg _ rfl (by simp [measureRegs])).bumpBy _ rfl (by simp [measureRegs])).bumpBy
      _ rfl (by simp [measureRegs])).bumpBy _ rfl (by simp [measureRegs])
  have h5 : Moves { regs := true } (measureRegs b) s s5 :=
    .ite (h4.then_ (setTaps_moves _ _ _ _) rfl (List.subset_append_right _ _)) h4
  have hno : ¬ ermax > s5.rd F.DET_ERASE_MAX_MAX := by
    rw [h5.rd (measureRegs_apart b _ (by simp))]
    exact Nat.not_lt.mpr hmax
  rw [if_neg hno]
  exact ⟨s5, fig, _, rfl, h5⟩

/-- Settles O12: the sync mark and the header accepted, a drop-out and an envelope within its limits, and a slot that ends good. -/
theorem slotDecisions : Obligations.SlotDecisions := by
  refine ⟨fun s b cands env r c q hr hc hs hq => ?_, fun s b cells r c w hr hc hs hh hw ha => ?_,
    fun s b first low back e f c hc he hf hp hl hb => ?_, fun s b first n f c hc hf => execDefectRegion_within first hc hf,
    fun s b x r c k hr hc hh hv hmax hscan hp hl hk => ?_⟩
  · exact ⟨_, execSyncDecision_accepts env hr hc hs hq, setCap_cap _ _ _, (setCap_run _ _ _).trans hr, setCap_bufs _ _ _,
      fun d hd => setCap_ne _ _ hd, (setCap_moves _ _ _).parts⟩
  · have hdet := State.setPair_det s (Reg.DET_LAST_HDR_LO b) w.toNat
    have hm : Moves { regs := true, det := true } [Reg.DET_LAST_HDR_LO b, Reg.DET_LAST_HDR_LO b + 4] s
        ((s.setPair (Reg.DET_LAST_HDR_LO b) w.toNat).setCap b { c with header := some w }) :=
      (Moves.refl.setPair _).then_ (setCap_moves _ _ _) rfl (List.nil_subset _)
    exact ⟨_, execHeaderDecision_accepts hr hc hs hh hw ha, setCap_cap _ _ _,
      (State.pair_setPair_same s _ _).trans (Nat.mod_eq_of_lt w.isLt), (setCap_run _ _ _).trans (by rw [hdet]; exact hr),
      (setCap_bufs _ _ _).trans (by rw [hdet]), fun d hd => (setCap_ne _ _ hd).trans (by rw [hdet]), hm.parts, hm.regs⟩
  · have hm : Moves { regs := true, det := true, acq := true } [] s ((s.setDefect b false).setCap b { c with marks := c.marks ++
        [(first - 4 * s.rd (F.DET_DEF_PROFILE_EXT c.elvl), first + low - 1 + 4 * s.rd (F.DET_DEF_PROFILE_EXT c.elvl))] }) := Moves.refl.upd
    have hmc := (hm.mono (d := { regs := true, det := true, acq := true }) rfl (List.nil_subset [Reg.DET_DEF_CNT b])).bump
      (a := Reg.DET_DEF_CNT b)
    exact ⟨_, execDefectRegion_marks hc he hf hp hl hb, setCap_cap _ _ _, rfl, Counts.bump.after hm List.not_mem_nil,
      fun d hd => setCap_ne _ _ hd, hmc.parts, hmc.regs⟩
  · obtain ⟨u, fig, y, e, hm⟩ := execCaptureEnd_good x hr hc hh hmax
    have hscan' : u.detScans b r = false := by
      unfold State.detScans
      rw [hm.rd (measureRegs_apart b _ (by simp))]
      exact hscan
    have hdet : u.det = s.det := hm.keep State.det
    have hdec : u.dec = s.dec := hm.keep State.dec
    have hg := slotEnd_good (fig := fig) (x := y) (s := u) (by rw [hdet]; exact hc) hscan' hv hh hp hl
      ((expectBlk_congr (hm.keep State.rcv) (hm.keep State.disc)).trans hk)
    have ht : (u.slotEnd b r 0 fig (some y)).dec = s.dec.passFirst (firstPass b c k) := by rw [hg.dec, hdec]
    obtain ⟨hsub, hsub'⟩ := captureRegs_split b
    have hall := (hm.mono (d := { regs := true, det := true, dec := true, rcv := true, acq := true }) rfl hsub).then_ hg.moves rfl hsub'
    exact ⟨_, e, hg.cap, hg.run, hg.buf, congrArg Dec.fpq ht, (congrArg Dec.rq ht :), (congrArg Dec.lanes ht :),
      hg.counts.after hm (measureRegs_apart b _ (by simp)), fun d hd => (hg.others d hd).trans (by rw [hdet]), hall.parts, hall.regs⟩

end Sys2Proof.Machine
end

section
/-! ## Decoder lanes -/

namespace Sys2Proof.Machine

set_option Elab.async false

variable {s t u : State} {l k : DecLane} {e : DecBlk} {c : Parts} {as : List Nat}

/-- A move that leaves DRAM's part alone keeps every byte of it. -/
theorem DramKept.of_moves (h : Moves c as s t) (hc : c.dram = false) : DramKept s t := fun a => by
  have hd : t.dram = s.dram := (congrArg State.dram h.parts).trans (by simp [State.splice, hc])
  unfold State.dramByte
  rw [hd]

theorem modLane_same (s : State) (l : DecLane) (f : Lane → Lane) : (s.modLane l f).dec.lanes[l] = f s.dec.lanes[l] := by
  simp [State.modLane]

theorem modLane_ne (s : State) (f : Lane → Lane) (h : k ≠ l) : (s.modLane l f).dec.lanes[k] = s.dec.lanes[k] := by
  simp [State.modLane, Fin.val_inj, h.symm]

theorem pmcLane_moves (s : State) (cls l n : Nat) : Moves { regs := true, hlk := true } noteRegs s (s.pmcLane cls l n) :=
  Moves.of_noted (as := []) (Noted.refl.pmcLane _ _ _)

/-! ### A lane takes a block (R132) -/

/-- The block leaves the queue that it waits in. -/
def Dec.dequeued (d : Dec) (e : DecBlk) (fromR : Bool) : Dec :=
  if fromR then { d with rq := d.rq.erase e } else { d with fpq := d.fpq.erase e }

theorem Dec.dequeued_lanes (d : Dec) (e : DecBlk) (fromR : Bool) : (d.dequeued e fromR).lanes = d.lanes := by cases fromR <;> rfl

theorem Dec.dequeued_fpq (d : Dec) (e : DecBlk) (fromR : Bool) : (d.dequeued e fromR).fpq = if fromR then d.fpq else d.fpq.erase e := by
  cases fromR <;> rfl

theorem Dec.dequeued_rq (d : Dec) (e : DecBlk) (fromR : Bool) : (d.dequeued e fromR).rq = if fromR then d.rq.erase e else d.rq := by
  cases fromR <;> rfl

/-- The lane decodes the block, with the iteration limit of its rung (R129). -/
def State.laneTook (s : State) (l : DecLane) (e : DecBlk) (fromR : Bool) : State :=
  ({ s with dec := s.dec.dequeued e fromR }).modLane l (fun x => { x with cur := some e, fromR := fromR, limit := s.rungIter e.rung })

theorem execLaneTake_takes {us : Nat} {fromR : Bool} (hf : s.laneFree l = true) (hb : s.laneBefore l us = false)
    (hn : s.nextBlk l us = some (e, fromR)) : execLaneTake l us s = .next (s.laneTook l e fromR) := by
  unfold execLaneTake
  simp only [hf, hb, hn, Bool.not_false, Bool.and_self, if_true]
  rfl

theorem laneTook_lane (s : State) (l : DecLane) (e : DecBlk) (fromR : Bool) : (s.laneTook l e fromR).dec.lanes[l] =
    { s.dec.lanes[l] with cur := some e, fromR := fromR, limit := s.rungIter e.rung } := by
  unfold State.laneTook
  rw [modLane_same]
  simp only [Dec.dequeued_lanes]

theorem laneTook_ne {fromR : Bool} (h : k ≠ l) : (s.laneTook l e fromR).dec.lanes[k] = s.dec.lanes[k] := by
  unfold State.laneTook
  rw [modLane_ne _ _ h]
  simp only [Dec.dequeued_lanes]

/-! ### The lanes in turn (R134, R477) -/

/-- The lanes in turn from the one that `p` names. -/
def lanesFrom (p : Nat) : List DecLane := (List.finRange 18).map (fun i => Fin.ofNat 18 (p + i.val))

theorem mem_lanesFrom (p : Nat) (l : DecLane) : l ∈ lanesFrom p := by
  refine List.mem_map.mpr ⟨Fin.ofNat 18 (l.val + 18 - p % 18), List.mem_finRange _, Fin.ext ?_⟩
  have hl := l.isLt
  simp only [Fin.ofNat]
  omega

theorem lanesFrom_find {q : DecLane → Bool} (h : q l = true) : (lanesFrom l.val).find? q = some l := by
  have hl : (Fin.ofNat 18 (l.val + 0) : DecLane) = l := Fin.ext (Nat.mod_eq_of_lt l.isLt)
  unfold lanesFrom
  rw [List.finRange_succ, List.map_cons]
  exact (List.find?_cons_of_pos (hl.symm ▸ h)).trans (congrArg some hl)

/-- The stored test block, for lane `k`. -/
def testBlk (k : DecLane) : DecBlk := ⟨0, 0, 0, 0, 0, false, 0, some k⟩

/-- The test block waits in the recovery queue for lane `k`, which is the last one tested. -/
def State.testQueued (s : State) (k : DecLane) : State :=
  ({ s with dec := { s.dec with rq := s.dec.rq ++ [testBlk k] } }).setReg Reg.AXL_KAT_STAT (BitVec.ofNat 32 k.val)

theorem execKnownAnswerTest_queues (hl : s.laneIn l = true) :
    ∃ k, s.laneIn k = true ∧ execKnownAnswerTest s = .next (s.testQueued k) := by
  have hsome : ((lanesFrom ((s.reg Reg.AXL_KAT_STAT).toNat + 1)).find? s.laneIn).isSome = true :=
    List.find?_isSome.mpr ⟨l, mem_lanesFrom _ _, hl⟩
  obtain ⟨k, hk⟩ := Option.isSome_iff_exists.mp hsome
  refine ⟨k, List.find?_some hk, ?_⟩
  unfold lanesFrom at hk
  unfold execKnownAnswerTest
  simp only [hk]
  rfl

/-! ### A condemned lane (R133, R477) -/

theorem waste_moves (s : State) (l : DecLane) (n : Nat) :
    Moves { regs := true, hlk := true } ([Reg.DEC_L_WST_LO l, Reg.DEC_L_WST_LO l + 4] ++ noteRegs) s (s.waste l n) :=
  (Moves.refl.bump64 n rfl (by simp) (by simp)).then_ (pmcLane_moves _ _ _ _) rfl (List.subset_append_right _ _)

theorem wasteRunning_moves (s : State) (l : DecLane) : Moves { regs := true, hlk := true, free := true }
    ([Reg.DEC_L_WST_LO l, Reg.DEC_L_WST_LO l + 4] ++ noteRegs) s (s.wasteRunning l) :=
  (Moves.refl.upd (u := s.draw.2)).then_ (waste_moves _ _ _) rfl (List.Subset.refl _)

/-- What a condemnation leaves of a lane. -/
def Lane.condemned (x : Lane) : Lane := { x with cur := none, held := none, sick := true }

/-- The block stands again at the head of the queue that it came from. -/
def Dec.returned (d : Dec) (e : DecBlk) (fromR : Bool) : Dec := if fromR then { d with rq := e :: d.rq } else { d with fpq := e :: d.fpq }

theorem Dec.returned_lanes (d : Dec) (e : DecBlk) (fromR : Bool) : (d.returned e fromR).lanes = d.lanes := by cases fromR <;> rfl

theorem Dec.returned_fpq (d : Dec) (e : DecBlk) (fromR : Bool) : (d.returned e fromR).fpq = if fromR then d.fpq else e :: d.fpq := by
  cases fromR <;> rfl

theorem Dec.returned_rq (d : Dec) (e : DecBlk) (fromR : Bool) : (d.returned e fromR).rq = if fromR then e :: d.rq else d.rq := by
  cases fromR <;> rfl

/-- The lane is condemned, and its block waits to be decoded afresh. -/
def State.laneAbandoned (s : State) (l : DecLane) (e : DecBlk) : State :=
  { s with dec := (s.modLane l Lane.condemned).dec.returned e (s.dec.lanes[l]).fromR }

theorem condemnLane_running (hc : (s.dec.lanes[l]).cur = some e) (hh : (s.dec.lanes[l]).held = none) :
    s.condemnLane l = ((s.laneAbandoned l e).wasteRunning l).axlAsk 1 0 l.val 2 := by
  unfold State.condemnLane
  simp only [hc, hh]
  rfl

theorem execMessageMemoryParity_condemns (hc : (s.dec.lanes[l]).cur = some e) (hh : (s.dec.lanes[l]).held = none) :
    execMessageMemoryParity l s =
      .next ((((s.bump (Reg.DEC_L_PAR_CNT l)).laneAbandoned l e).wasteRunning l).axlAsk 1 0 l.val 2) := by
  have hdec := State.bump_dec s (Reg.DEC_L_PAR_CNT l)
  unfold execMessageMemoryParity
  rw [if_neg (by rw [hc]; exact Bool.false_ne_true), condemnLane_running (by rw [hdec]; exact hc) (by rw [hdec]; exact hh)]

/-- What a parity failure leaves of DEC: the lane is condemned, and its block stands at the head of its queue. -/
theorem laneAbandoned_dec (s : State) (l : DecLane) (e : DecBlk) :
    (s.laneAbandoned l e).dec.lanes[l] = (s.dec.lanes[l]).condemned ∧
      (s.laneAbandoned l e).dec.fpq = (if (s.dec.lanes[l]).fromR then s.dec.fpq else e :: s.dec.fpq) ∧
      (s.laneAbandoned l e).dec.rq = (if (s.dec.lanes[l]).fromR then e :: s.dec.rq else s.dec.rq) := by
  refine ⟨?_, Dec.returned_fpq _ _ _, Dec.returned_rq _ _ _⟩
  rw [← modLane_same s l Lane.condemned]
  simp only [State.laneAbandoned, Dec.returned_lanes]

theorem axlAsk_moves (s : State) (kind unit element cause : Nat) : Moves { axlReq := true } [] s (s.axlAsk kind unit element cause) :=
  Moves.refl.upd

theorem parCnt_apart : ∀ l : DecLane, Reg.DEC_L_PAR_CNT l ∉ [Reg.DEC_L_WST_LO l, Reg.DEC_L_WST_LO l + 4] ++ noteRegs := by decide

/-! ### The collector (R134) -/

/-- The registers that the idle lanes' cycles are counted in (R138). -/
def idleRegs : List Nat := (List.finRange 18).flatMap (fun l : DecLane =>
  [Reg.DEC_L_BST_LO l, Reg.DEC_L_BST_LO l + 4, Reg.DEC_L_FST_LO l, Reg.DEC_L_FST_LO l + 4])

theorem mem_idleRegs {a : Nat} (h : a ∈ [Reg.DEC_L_BST_LO l, Reg.DEC_L_BST_LO l + 4, Reg.DEC_L_FST_LO l, Reg.DEC_L_FST_LO l + 4]) :
    a ∈ idleRegs ++ noteRegs := List.mem_append_left _ (List.mem_flatMap.mpr ⟨l, List.mem_finRange l, h⟩)

theorem countIdle_moves (s : State) (l : DecLane) : Moves { regs := true, hlk := true } (idleRegs ++ noteRegs) s (s.countIdle l) := by
  have hnote : noteRegs ⊆ idleRegs ++ noteRegs := List.subset_append_right _ _
  unfold State.countIdle
  exact .ite .refl (.ite
    ((Moves.refl.bump64 1 rfl (mem_idleRegs (l := l) (by simp)) (mem_idleRegs (l := l) (by simp))).then_ (pmcLane_moves _ _ _ _) rfl hnote)
    ((Moves.refl.bump64 1 rfl (mem_idleRegs (l := l) (by simp)) (mem_idleRegs (l := l) (by simp))).then_ (pmcLane_moves _ _ _ _) rfl hnote))

/-- The idle lanes' cycle has been counted, and the collector's pointer is one further. -/
def State.collected (s : State) : State :=
  (forEach (List.finRange 18) (fun l s => s.countIdle l) s).setReg Reg.DEC_CLT_PTR (BitVec.ofNat 32 (((s.reg Reg.DEC_CLT_PTR).toNat + 1) % 18))

theorem collected_moves (s : State) :
    Moves { regs := true, hlk := true } (Reg.DEC_CLT_PTR :: (idleRegs ++ noteRegs)) s s.collected :=
  ((Moves.forEach _ (fun l _ _ h => h.trans (countIdle_moves _ l)) .refl).mono rfl (List.subset_cons_self _ _)).setReg _

theorem execCollectorDrain_drains {r : DecRes} (hp : (s.reg Reg.DEC_CLT_PTR).toNat = l.val) (hr : s.dec.clt[l] = some r) :
    execCollectorDrain s = .next (s.collected.drain l r) := by
  have hdec : s.collected.dec = s.dec := (collected_moves s).keep State.dec
  have hfind : (lanesFrom (s.reg Reg.DEC_CLT_PTR).toNat).find? (fun l => s.collected.dec.clt[l].isSome) = some l := by
    rw [hp]
    exact lanesFrom_find (by rw [hdec, hr]; rfl)
  unfold execCollectorDrain
  extract_lets p s1 order s2
  rw [show order.find? (fun k : DecLane => s2.dec.clt[k].isSome) = some l from hfind]
  have hr2 : s2.dec.clt[l] = some r := (congrArg (fun d : Dec => d.clt[l]) hdec).trans hr
  simp only [hr2]
  rfl

/-- The lane's collector entry takes a result it held, if it held one. -/
def State.entryFreed (s : State) (l : DecLane) : State :=
  ({ s with dec := { s.dec with clt := s.dec.clt.set l (s.dec.lanes[l]).held } }).modLane l (fun x => { x with held := none })

theorem entryFreed_dec (s : State) (l : DecLane) :
    (s.entryFreed l).dec.clt[l] = (s.dec.lanes[l]).held ∧ ((s.entryFreed l).dec.lanes[l]).held = none := by
  refine ⟨?_, ?_⟩
  · show (s.dec.clt.set l (s.dec.lanes[l]).held)[l] = _
    simp
  · unfold State.entryFreed
    rw [modLane_same]

/-- The registers of a lane's drain. -/
def drainRegs (l : DecLane) : List Nat := [Reg.DEC_L_BLK_CNT l, Reg.DEC_L_LAST l, Reg.DEC_L_FAIL_CNT l]

theorem drainRegs_distinct (l : DecLane) : Reg.DEC_L_BLK_CNT l ≠ Reg.DEC_L_LAST l ∧ Reg.DEC_L_BLK_CNT l ≠ Reg.DEC_L_FAIL_CNT l ∧
    Reg.DEC_L_LAST l ≠ Reg.DEC_L_FAIL_CNT l := by
  simp only [Reg.DEC_L_BLK_CNT, Reg.DEC_L_LAST, Reg.DEC_L_FAIL_CNT]
  omega

/-- What a drain does to the lane: its entry is freed, the block is counted, and the result is its last. -/
theorem drainCount_frees (s : State) (l : DecLane) (r : DecRes) :
    (s.drainCount l r).dec = (s.entryFreed l).dec ∧ Counts s (s.drainCount l r) (Reg.DEC_L_BLK_CNT l) ∧
      (s.drainCount l r).reg (Reg.DEC_L_LAST l) = r.word ∧ Moves { regs := true, dec := true } (drainRegs l) s (s.drainCount l r) := by
  obtain ⟨h1, h2, h3⟩ := drainRegs_distinct l
  unfold State.drainCount
  extract_lets d s1 s2 s3
  have hfree : Moves { regs := true, dec := true } [] s s2 := Moves.refl.upd
  have hb : Moves { regs := true } [Reg.DEC_L_BLK_CNT l] s2 (s2.bump (Reg.DEC_L_BLK_CNT l)) := Moves.refl.bump
  have hl : Moves { regs := true } [Reg.DEC_L_LAST l] (s2.bump (Reg.DEC_L_BLK_CNT l)) s3 := Moves.refl.setReg _
  have hf : Moves { regs := true } [Reg.DEC_L_FAIL_CNT l] s3 (s3.bump (Reg.DEC_L_FAIL_CNT l)) := Moves.refl.bump
  have hcnt : Counts s s3 (Reg.DEC_L_BLK_CNT l) := (Counts.bump.after hfree List.not_mem_nil).then_ hl (mt List.mem_singleton.mp h1)
  have hlast : s3.reg (Reg.DEC_L_LAST l) = r.word := State.reg_setReg_same _ _ _
  have hdec : s3.dec = (s.entryFreed l).dec := (hl.keep State.dec).trans (hb.keep State.dec)
  have hm : Moves { regs := true, dec := true } (drainRegs l) s s3 :=
    ((hfree.mono rfl (List.nil_subset _)).bump rfl (by simp [drainRegs])).setReg _ rfl (by simp [drainRegs])
  split
  · exact ⟨hdec, hcnt, hlast, hm⟩
  · exact ⟨(hf.keep State.dec).trans hdec, hcnt.then_ hf (mt List.mem_singleton.mp h2),
      (hf.regs _ (mt List.mem_singleton.mp h3)).trans hlast, hm.bump rfl (by simp [drainRegs])⟩

/-- The registers of a block's result: its lane's cycles, and the result of its home beam. -/
def resultRegs (l : DecLane) (b : Beam) : List Nat :=
  [Reg.DEC_B_RES b, Reg.DEC_B_LBA b, Reg.DEC_B_CNT b] ++ ([Reg.DEC_L_RET_LO l, Reg.DEC_L_RET_LO l + 4] ++ noteRegs ++
    ([Reg.DEC_L_WST_LO l, Reg.DEC_L_WST_LO l + 4] ++ noteRegs))

theorem retire_moves (s : State) (l : DecLane) (n : Nat) :
    Moves { regs := true, hlk := true } ([Reg.DEC_L_RET_LO l, Reg.DEC_L_RET_LO l + 4] ++ noteRegs) s (s.retire l n) :=
  (Moves.refl.bump64 n rfl (by simp) (by simp)).then_ (pmcLane_moves _ _ _ _) rfl (List.subset_append_right _ _)

theorem freeBuf_moves (s : State) (o : Option (Beam × Fin 6)) : Moves { det := true } [] s (s.freeBuf o) := by
  unfold State.freeBuf
  split
  · exact .refl
  · exact modDet_moves _ _ _

/-- R124: a drained block that the recovery logic does not track frees its sample buffer slot. -/
theorem drainRecover_untracked {r : DecRes} (hn : s.rblk r.blk.lba = none) :
    s.drainRecover r = s.freeBuf (some (r.blk.cap, r.blk.buf)) := by
  unfold State.drainRecover
  rw [hn]
  rfl

theorem rblk_congr (h : u.rcv = s.rcv) (lba : Nat) : u.rblk lba = s.rblk lba := by
  unfold State.rblk
  rw [h]

theorem drainBlock_reports {r : DecRes} (hn : s.rblk r.blk.lba = none) : (s.drainBlock l r).reg (Reg.DEC_B_RES r.blk.home) = r.word ∧
    Moves { regs := true, hlk := true, det := true } (resultRegs l r.blk.home) s (s.drainBlock l r) := by
  have hlba : Reg.DEC_B_RES r.blk.home ≠ Reg.DEC_B_LBA r.blk.home := by simp only [Reg.DEC_B_RES, Reg.DEC_B_LBA]; omega
  have hcnt : Reg.DEC_B_RES r.blk.home ≠ Reg.DEC_B_CNT r.blk.home := by simp only [Reg.DEC_B_RES, Reg.DEC_B_CNT]; omega
  unfold State.drainBlock
  extract_lets s1 b s2
  have h1 : Moves { regs := true, hlk := true, det := true } (resultRegs l b) s s1 :=
    ((retire_moves s l r.kept).mono rfl (List.subset_append_of_subset_right _ (List.subset_append_left _ _))).then_ (waste_moves _ _ _) rfl
      (List.subset_append_of_subset_right _ (List.subset_append_right _ _))
  have h2 : Moves { regs := true, hlk := true, det := true } (resultRegs l b) s s2 :=
    (h1.setReg _ rfl (by simp [resultRegs])).setReg _ rfl (by simp [resultRegs])
  have hres : s2.reg (Reg.DEC_B_RES b) = r.word := (State.reg_setReg_ne _ hlba _).trans (State.reg_setReg_same _ _ _)
  have hf : (if r.good then F.DEC_B_CNT_GOOD b else F.DEC_B_CNT_FAILED b).reg = Reg.DEC_B_CNT b := by split <;> rfl
  generalize (if r.good then F.DEC_B_CNT_GOOD b else F.DEC_B_CNT_FAILED b) = f at hf
  have h3 : Moves { regs := true, hlk := true, det := true } (resultRegs l b) s (s2.bumpF f) :=
    h2.wr _ rfl (by rw [hf]; simp [resultRegs])
  rw [drainRecover_untracked ((rblk_congr (h3.keep State.rcv) _).trans hn)]
  have h4 := freeBuf_moves (s2.bumpF f) (some (r.blk.cap, r.blk.buf))
  exact ⟨(h4.regs _ List.not_mem_nil).trans ((State.reg_bumpF_ne _ _ (hf.symm ▸ hcnt)).trans hres),
    h3.then_ h4 rfl (List.nil_subset _)⟩

/-- The registers of a lane's drain are apart from those of its block's result, and both from those of the idle lanes. -/
theorem drainRegs_apart : ∀ (l : DecLane) (b : Beam), (∀ a ∈ [Reg.DEC_CLT_PTR, Reg.DEC_L_BLK_CNT l, Reg.DEC_L_LAST l], a ∉ resultRegs l b) ∧
    Reg.DEC_CLT_PTR ∉ drainRegs l ∧ Reg.DEC_L_BLK_CNT l ∉ Reg.DEC_CLT_PTR :: (idleRegs ++ noteRegs) := by decide +kernel

/-- A drained block of the disc that nothing tracks: its lane is freed, and its result shown for the lane and for its home beam. -/
theorem drain_untracked {r : DecRes} (hk : r.blk.kat = none) (hn : s.rblk r.blk.lba = none) :
    (s.drain l r).dec = (s.entryFreed l).dec ∧ Counts s (s.drain l r) (Reg.DEC_L_BLK_CNT l) ∧
      (s.drain l r).reg (Reg.DEC_L_LAST l) = r.word ∧ (s.drain l r).reg (Reg.DEC_B_RES r.blk.home) = r.word ∧
      (s.drain l r).reg Reg.DEC_CLT_PTR = s.reg Reg.DEC_CLT_PTR ∧
      Moves { regs := true, hlk := true, det := true, dec := true } (drainRegs l ++ resultRegs l r.blk.home) s (s.drain l r) := by
  have e : s.drain l r = (s.drainCount l r).drainBlock l r := by
    unfold State.drain
    rw [hk]
  obtain ⟨hdec, hcnt, hlast, hm⟩ := drainCount_frees s l r
  obtain ⟨hapart, hptr, _⟩ := drainRegs_apart l r.blk.home
  obtain ⟨hres, hm'⟩ := drainBlock_reports (l := l) ((rblk_congr (hm.keep State.rcv) r.blk.lba).trans hn)
  rw [e]
  exact ⟨(hm'.keep State.dec).trans hdec, hcnt.then_ hm' (hapart _ (by simp)), (hm'.regs _ (hapart _ (by simp))).trans hlast, hres,
    (hm'.regs _ (hapart _ (by simp))).trans (hm.regs _ hptr),
    (hm.mono rfl (List.subset_append_left _ _)).then_ hm' rfl (List.subset_append_right _ _)⟩

/-! ### A decode (R128 to R130) -/

theorem length_scramble : ∀ (bs : List Byte) (st : Nat), (scramble st bs).length = bs.length
  | [], _ => rfl
  | _ :: bs, st => congrArg (· + 1) (length_scramble bs (scramByte st).2)

namespace DramBut

variable {a n : Nat}

theorem refl : DramBut a n s s := fun _ _ => rfl

theorem trans (h : DramBut a n s t) (k : DramBut a n t u) : DramBut a n s u := fun x hx => (k x hx).trans (h x hx)

theorem of_kept (h : DramKept s t) : DramBut a n s t := fun x _ => h x

theorem mono {a' n' : Nat} (h : DramBut a n s t) (ha : a' ≤ a) (hn : a + n ≤ a' + n') : DramBut a' n' s t := fun x hx => h x (by omega)

theorem forEach {α : Type} {f : α → State → State} : ∀ (l : List α) {t : State}, (∀ x ∈ l, ∀ t, DramBut a n t (f x t)) →
    DramBut a n t (forEach l f t)
  | [], _, _ => refl
  | x :: l, t, hf => (hf x List.mem_cons_self t).trans (forEach l fun y hy => hf y (List.mem_cons_of_mem _ hy))

theorem setDramBytes : ∀ (bs : List Byte) (s : State) (a : Nat), DramBut a bs.length s (s.setDramBytes a bs)
  | [], _, _ => refl
  | b :: bs, s, a => by
    have h1 : DramBut a (bs.length + 1) s (s.setDram a b) := fun x hx => by
      rw [State.dramByte_setDram, if_neg (by omega)]
    exact h1.trans ((setDramBytes bs (s.setDram a b) (a + 1)).mono (Nat.le_succ a) (by omega))

end DramBut

theorem setDram_moves (s : State) (a : Nat) (b : Byte) : Moves { dram := true } [] s (s.setDram a b) := by
  unfold State.setDram
  exact .ite Moves.refl.upd .refl

theorem setDramBytes_moves : ∀ (bs : List Byte) (s : State) (a : Nat), Moves { dram := true } [] s (s.setDramBytes a bs)
  | [], _, _ => .refl
  | b :: bs, s, a => (setDram_moves s a b).trans (setDramBytes_moves bs _ (a + 1))

/-- The parts that a store moves. -/
def storeParts : Parts := { regs := true, hlk := true, mem := true, dram := true, psn := true }

theorem clearPoison_moves (s : State) (a n : Nat) : Moves { psn := true } [] s (s.clearPoison a n) := Moves.refl.upd

theorem storeBytes_moves (s : State) (a : Nat) (bs : List Byte) (m : Nat) :
    Moves storeParts (accessRegs ++ noteRegs) s (s.storeBytes a bs m) :=
  (((setDramBytes_moves bs s a).mono rfl (List.nil_subset _)).then_ (clearPoison_moves _ _ _) rfl (List.nil_subset _)).then_
    (touchLines_moves _ _ _ _ _) rfl (List.Subset.refl _)

theorem storeBytes_dramBut (s : State) (a : Nat) (bs : List Byte) (m : Nat) : DramBut a bs.length s (s.storeBytes a bs m) :=
  (DramBut.setDramBytes bs s a).trans ((DramBut.of_kept (.of_moves (clearPoison_moves _ _ _) rfl)).trans
    (.of_kept (.of_moves (touchLines_moves _ _ _ _ _) rfl)))

/-- A converged codeword is stored within its block's stream buffer slot (R41, R130). -/
theorem putCodeword_dramBut (s : State) (e : DecBlk) {c : Nat} (hc : c < 8) (bs : List Byte) :
    DramBut (streamAddr e.home e.lba) 32768 s (s.putCodeword e c bs) := by
  refine (storeBytes_dramBut _ _ _ _).mono (Nat.le_add_right _ _) ?_
  rw [length_scramble, List.length_take]
  omega

theorem putCodewords_moves (e : DecBlk) (f : Nat → List Byte) (l : List Nat) (s : State) :
    Moves storeParts (accessRegs ++ noteRegs) s (forEach l (fun c s => s.putCodeword e c (f c)) s) :=
  Moves.forEach l (fun _ _ _ h => h.trans (storeBytes_moves _ _ _ _)) .refl

theorem consumeSram_moves (s : State) (m : Nat) (cust : Option Bool) :
    Moves { regs := true, hlk := true } (Reg.MIC_S_CONS_CNT :: noteRegs) s (s.consumeSram m cust) :=
  (Moves.refl.bump).then_ (pmcEvent_moves _ _ _ _ _ _) rfl (List.subset_cons_self _ _)

theorem consumeSram_counts (s : State) (m : Nat) (cust : Option Bool) : Counts s (s.consumeSram m cust) Reg.MIC_S_CONS_CNT :=
  Counts.bump.then_ (pmcEvent_moves _ _ _ _ _ _) (by decide)

/-- The codewords of a block that have not converged yet. -/
def DecBlk.todo (e : DecBlk) : List Nat := (List.range 8).filter (fun c => !e.conv.getLsbD c)

/-- The sum of powers of two has the bits that it is made of. -/
theorem testBit_sum_two_pow {l : List Nat} (h : l.SortedLT) (i : Nat) : ((l.map (2 ^ ·)).sum).testBit i = decide (i ∈ l) := by
  have hm := Nat.mem_bitIndices (i := i) (n := (l.map (2 ^ ·)).sum)
  rw [Nat.bitIndices_sum_map_two_pow h] at hm
  rw [Bool.eq_iff_iff, ← hm, decide_eq_true_iff]

/-- No codeword has failed exactly when each of those still to run converges (R129, R136). -/
theorem failmap_zero_iff (e : DecBlk) (p : Nat → Bool) :
    ~~~(e.conv ||| BitVec.ofNat 8 (((e.todo.filter p).map (2 ^ ·)).sum)) = 0 ↔ e.todo.all p = true := by
  have hs : (e.todo.filter p).SortedLT :=
    ((List.pairwise_lt_range.filter _).filter _).sortedLT
  have hbit (i : Nat) (hi : i < 8) : (~~~(e.conv ||| BitVec.ofNat 8 (((e.todo.filter p).map (2 ^ ·)).sum))).getLsbD i =
      !(e.conv.getLsbD i || p i) := by
    rw [BitVec.getLsbD_not, BitVec.getLsbD_or, BitVec.getLsbD_ofNat, testBit_sum_two_pow hs]
    simp only [hi, decide_true, Bool.true_and, DecBlk.todo, List.mem_filter, List.mem_range, Bool.not_eq_true']
    cases e.conv.getLsbD i <;> cases p i <;> simp
  rw [List.all_eq_true]
  constructor
  · intro h c hc
    obtain ⟨h8, hno⟩ := List.mem_filter.mp hc
    have hb := hbit c (List.mem_range.mp h8)
    rw [h] at hb
    simp_all
  · intro h
    refine BitVec.eq_of_getLsbD_eq fun i hi => ?_
    rw [hbit i hi]
    by_cases hc : e.conv.getLsbD i = true
    · simp [hc]
    · have := h i (List.mem_filter.mpr ⟨List.mem_range.mpr hi, by simpa using hc⟩)
      simp [this]

/-- Codeword `c` of the block converges on the evidence, and no poison was read (R128, R388). -/
def State.converges (s : State) (l : DecLane) (e : DecBlk) (cws : List CwIn) (c : Nat) : Bool :=
  (cwRun (s.rd F.DEC_ITER_CFG_STALL) (s.dec.lanes[l]).limit 0 none (((cws[c]?.map (·.hard)).getD []).map unsatOf)).2 &&
    !(e.kat.isNone && s.sramBad 5 (6 * e.cap.val + e.buf.val))

/-- What a decode of the block leaves to its lane's result `r`: the state `u`, in which what converged is stored. -/
structure State.Decodes (s : State) (l : DecLane) (e : DecBlk) (cws : List CwIn) (u : State) (r : DecRes) : Prop where
  lba   : r.blk.lba = e.lba
  good  : r.good = e.todo.all (s.converges l e cws)
  map   : r.good = true ↔ r.failmap = 0
  dec   : u.dec = s.dec
  dram  : DramBut (streamAddr e.home e.lba) 32768 s u
  kept  : e.kat.isSome = true ∨ s.sramBad 5 (6 * e.cap.val + e.buf.val) = true → DramKept s u
  count : e.kat = none → s.sramBad 5 (6 * e.cap.val + e.buf.val) = true → Counts s u Reg.MIC_S_CONS_CNT

/-- The lane's result enters the free entry of the collector. -/
theorem post_free (r : DecRes) (hn : u.dec.clt[l] = none) : ((u.post l r).dec.lanes[l]).cur = none ∧
    ((u.post l r).dec.lanes[l]).outReq = (u.dec.lanes[l]).outReq ∧ (u.post l r).dec.clt[l] = some r ∧
    (u.post l r).dec.fpq = u.dec.fpq ∧ (u.post l r).dec.rq = u.dec.rq ∧ Moves { dec := true } [] u (u.post l r) := by
  have hone : (u.modLane l fun x => { x with cur := none }).dec.clt[l] = none := hn
  have hlane := modLane_same u l fun x => { x with cur := none }
  unfold State.post
  rw [if_pos (by rw [hone]; rfl)]
  refine ⟨?_, ?_, ?_, rfl, rfl, Moves.refl.upd⟩
  · exact (congrArg Lane.cur hlane :)
  · exact (congrArg Lane.outReq hlane :)
  · simp

theorem filter_snd {α β : Type} (f : α → β) (p : β → Bool) (l : List α) :
    ((l.map fun c => (c, f c)).filter fun r => p r.2).map (·.1) = l.filter fun c => p (f c) := by
  rw [List.filter_map, List.map_map]
  exact List.map_id _

/-- A decode that read a poisoned sample buffer converges nowhere (R388). -/
theorem converges_poisoned (cws : List CwIn) (hk : e.kat = none) (hb : s.sramBad 5 (6 * e.cap.val + e.buf.val) = true) (c : Nat) :
    s.converges l e cws c = false := by
  unfold State.converges
  rw [hk, hb]
  exact Bool.and_false _

theorem converges_sound (cws : List CwIn) (h : e.kat.isSome = true ∨ s.sramBad 5 (6 * e.cap.val + e.buf.val) = false) :
    e.todo.all (s.converges l e cws) = decodesAll s l e cws := by
  have hb : (e.kat.isNone && s.sramBad 5 (6 * e.cap.val + e.buf.val)) = false := by
    rcases h with h | h
    · rw [Option.isNone_eq_false_iff.mpr h]
      rfl
    · rw [h, Bool.and_false]
  unfold decodesAll DecBlk.todo State.converges
  simp only [hb, Bool.not_false, Bool.and_true]

/-- A block with a codeword left that is not converged has one to run. -/
theorem todo_ne_nil (h : e.conv ≠ 0xFF) : e.todo ≠ [] := fun hnil => h <| BitVec.eq_of_getLsbD_eq fun i hi => by
  have hall : ∀ i < 8, (0xFF : Byte).getLsbD i = true := by decide
  have hno := List.filter_eq_nil_iff.mp hnil i (List.mem_range.mpr hi)
  rw [hall i hi]
  simpa using hno

theorem consCnt_apart : ∀ l : DecLane, Reg.MIC_S_CONS_CNT ∉ accessRegs ++ noteRegs ∧
    Reg.MIC_S_CONS_CNT ∉ [Reg.DEC_L_ITER_LO l, Reg.DEC_L_ITER_LO l + 4] := by decide

theorem execDecodeEnd_decodes (cws : List CwIn) (hc : (s.dec.lanes[l]).cur = some e) : ∃ u r, s.Decodes l e cws u r ∧
    execDecodeEnd l cws s = .next (if ((u.post l r).dec.lanes[l]).outReq then (u.post l r).laneOut l else u.post l r) := by
  unfold execDecodeEnd
  split
  case h_1 hno => exact absurd (hc.symm.trans hno) (Option.some_ne_none e)
  case h_2 e' he' =>
  cases hc.symm.trans he'
  extract_lets lim stall todo hard bad run last rs ok open_ conv iters wasted s1 s2 s3 r s4
  have hok : ok = e.todo.filter (s.converges l e cws) := filter_snd run (·.2) todo
  have hopen : open_ = e.todo.filter (fun c => !s.converges l e cws c) := filter_snd run (!·.2) todo
  have hgood : open_.isEmpty = e.todo.all (s.converges l e cws) := by
    rw [hopen, Bool.eq_iff_iff, List.isEmpty_iff, List.filter_eq_nil_iff, List.all_eq_true]
    simp only [Bool.not_eq_true', Bool.not_eq_false]
  have hok8 : ∀ c ∈ ok, c < 8 := fun c hm => by
    rw [hok] at hm
    exact List.mem_range.mp (List.mem_of_mem_filter (List.mem_of_mem_filter hm))
  have h1 : Moves { regs := true, hlk := true } (Reg.MIC_S_CONS_CNT :: noteRegs) s s1 := .ite (consumeSram_moves s 3 none) .refl
  have h2 : Moves storeParts (accessRegs ++ noteRegs) s1 s2 := .ite .refl (putCodewords_moves e last ok s1)
  have h3 : Moves { regs := true } [Reg.DEC_L_ITER_LO l, Reg.DEC_L_ITER_LO l + 4] s2 s3 := Moves.refl.bump64 _
  have hd1 : DramKept s s1 := .of_moves h1 rfl
  have hd2 : DramBut (streamAddr e.home e.lba) 32768 s1 s2 := by
    unfold s2
    split
    · exact .refl
    · exact .forEach ok fun c hm t => putCodeword_dramBut t e (hok8 c hm) _
  have hd3 : DramKept s2 s3 := .of_moves h3 rfl
  refine ⟨s3, r, ⟨rfl, hgood, ?_, (h3.keep State.dec).trans ((h2.keep State.dec).trans (h1.keep State.dec)),
    (DramBut.of_kept hd1).trans (hd2.trans (.of_kept hd3)), fun hk => ?_, fun hk hb => ?_⟩, rfl⟩
  · show open_.isEmpty = true ↔ ~~~(e.conv ||| BitVec.ofNat 8 ((ok.map (2 ^ ·)).sum)) = 0
    rw [hgood, hok]
    exact (failmap_zero_iff e _).symm
  · have hs : s2 = s1 := by
      unfold s2
      split
      · rfl
      · next hno =>
        have hnone : ok = [] := by
          rw [hok, List.filter_eq_nil_iff]
          intro c _
          rw [converges_poisoned cws (Option.not_isSome_iff_eq_none.mp hno) (hk.resolve_left hno)]
          exact Bool.false_ne_true
        rw [hnone]
        rfl
    exact fun a => (hd3 a).trans ((congrArg (State.dramByte · a) hs).trans (hd1 a))
  · have hbad : s1 = s.consumeSram 3 := if_pos (by show (e.kat.isNone && _) = true; rw [hk, hb]; rfl)
    have hc1 : Counts s s1 Reg.MIC_S_CONS_CNT := hbad ▸ consumeSram_counts s 3 none
    exact (hc1.then_ h2 (consCnt_apart l).1).then_ h3 (consCnt_apart l).2

/-- A decode whose lane stays in the pool ends with its result in the free entry of the collector. -/
theorem execDecodeEnd_posts (cws : List CwIn) (hc : (s.dec.lanes[l]).cur = some e) (ho : (s.dec.lanes[l]).outReq = false)
    (hn : s.dec.clt[l] = none) : ∃ u r, s.Decodes l e cws u r ∧ execDecodeEnd l cws s = .next (u.post l r) ∧
      ((u.post l r).dec.lanes[l]).cur = none ∧ (u.post l r).dec.clt[l] = some r ∧ (u.post l r).dec.fpq = s.dec.fpq ∧
      (u.post l r).dec.rq = s.dec.rq ∧ Moves { dec := true } [] u (u.post l r) := by
  obtain ⟨u, r, hd, e⟩ := execDecodeEnd_decodes cws hc
  have hdec := hd.dec
  obtain ⟨hcur, hout, hclt, hfpq, hrq, hm⟩ := post_free (l := l) (u := u) r (by rw [hdec]; exact hn)
  rw [if_neg (by rw [hout, hdec, ho]; exact Bool.false_ne_true)] at e
  exact ⟨u, r, hd, e, hcur, hclt, hfpq.trans (by rw [hdec]), hrq.trans (by rw [hdec]), hm⟩

/-- Settles O13: a lane that takes a block, the two ends of a decode, the collector's drain, the known-answer test, and a lane
condemned by its parity. -/
theorem decoderLanes : Obligations.DecoderLanes := by
  refine ⟨fun s l us e fromR hf hb hn => ?_, fun s l cws e hc ho hn hok => ?_, fun s l cws e hc ho hn hk hbad hconv => ?_,
    fun s l r hp hr hkat hrb => ?_, fun s l hl => ?_, fun s l e hc hh => ?_⟩
  · have hlane := laneTook_lane s l e fromR
    refine ⟨_, execLaneTake_takes hf hb hn, ?_, ?_, ?_, fun k hk => laneTook_ne hk, Dec.dequeued_fpq _ _ _, Dec.dequeued_rq _ _ _, rfl⟩
    · rw [hlane]
    · rw [hlane]
    · rw [hlane]
  · obtain ⟨u, r, hd, e', hcur, hclt, hfpq, hrq, hm⟩ := execDecodeEnd_posts cws hc ho hn
    have hkept : DramKept u (u.post l r) := .of_moves hm rfl
    exact ⟨_, e', hcur, ⟨r, hclt, hd.lba, hd.good.trans (converges_sound cws hok), hd.map⟩, hfpq, hrq, hd.dram.trans (.of_kept hkept),
      fun hkat a => (hkept a).trans (hd.kept (.inl hkat) a)⟩
  · obtain ⟨u, r, hd, e', hcur, hclt, _, _, hm⟩ := execDecodeEnd_posts cws hc ho hn
    have hkept : DramKept u (u.post l r) := .of_moves hm rfl
    have hfail : r.good = false := by
      rw [hd.good]
      obtain ⟨c, hc⟩ := List.exists_mem_of_ne_nil _ (todo_ne_nil hconv)
      exact List.all_eq_false.mpr ⟨c, hc, by rw [converges_poisoned cws hk hbad]; exact Bool.false_ne_true⟩
    exact ⟨_, e', hcur, ⟨r, hclt, hfail⟩, (hd.count hk hbad).then_ hm List.not_mem_nil,
      fun a => (hkept a).trans (hd.kept (.inr hbad) a)⟩
  · have hcoll := collected_moves s
    have hdec : s.collected.dec = s.dec := hcoll.keep State.dec
    obtain ⟨hfree, hcnt, hlast, hres, hptr, hm⟩ := drain_untracked (l := l) hkat ((rblk_congr (hcoll.keep State.rcv) r.blk.lba).trans hrb)
    obtain ⟨hclt, hheld⟩ := entryFreed_dec s.collected l
    have hkept : DramKept s.collected (s.collected.drain l r) := .of_moves hm rfl
    refine ⟨_, execCollectorDrain_drains hp hr, ?_, ?_, ?_, hlast, hres, hcnt.after hcoll (drainRegs_apart l r.blk.home).2.2,
      fun a => (hkept a).trans (DramKept.of_moves hcoll rfl a)⟩
    · rw [hptr, ← hp]
      exact State.reg_setReg_same _ _ _
    · rw [hfree, hclt, hdec]
    · rw [hfree, hheld]
  · obtain ⟨k, hk, e⟩ := execKnownAnswerTest_queues hl
    have hm : Moves { regs := true, dec := true } [Reg.AXL_KAT_STAT] s (s.testQueued k) :=
      (Moves.refl.upd (u := { s with dec := { s.dec with rq := s.dec.rq ++ [testBlk k] } })).setReg _
    exact ⟨_, e, ⟨k, hk, State.reg_setReg_same _ _ _, List.map_append⟩, rfl, hm.regs⟩
  · have hbump : Moves { regs := true } [Reg.DEC_L_PAR_CNT l] s (s.bump (Reg.DEC_L_PAR_CNT l)) := Moves.refl.bump
    have hdec := hbump.keep State.dec
    have hcnt : Counts s (s.bump (Reg.DEC_L_PAR_CNT l)) (Reg.DEC_L_PAR_CNT l) := Counts.bump
    have e' := execMessageMemoryParity_condemns hc hh
    generalize s.bump (Reg.DEC_L_PAR_CNT l) = v at hbump hdec hcnt e'
    have hleft : Moves { dec := true } [] v (v.laneAbandoned l e) := Moves.refl.upd
    have hwaste := wasteRunning_moves (v.laneAbandoned l e) l
    have hask := axlAsk_moves ((v.laneAbandoned l e).wasteRunning l) 1 0 l.val 2
    obtain ⟨hlane, hfpq, hrq⟩ := laneAbandoned_dec v l e
    have hend := (hask.keep State.dec).trans (hwaste.keep State.dec)
    rw [hdec] at hlane hfpq hrq
    refine ⟨_, e', ?_, ?_, ?_, ?_, ((hcnt.then_ hleft List.not_mem_nil).then_ hwaste (parCnt_apart l)).then_ hask List.not_mem_nil, ?_,
      fun a => (DramKept.of_moves hask rfl a).trans ((DramKept.of_moves hwaste rfl a).trans ((DramKept.of_moves hleft rfl a).trans
        (DramKept.of_moves hbump rfl a)))⟩
    · rw [hend, hlane]
      rfl
    · rw [hend, hlane]
      rfl
    · rw [hend, hfpq]
    · rw [hend, hrq]
    · have hreq : ((v.laneAbandoned l e).wasteRunning l).axlReq = s.axlReq :=
        (hwaste.keep State.axlReq).trans ((hleft.keep State.axlReq).trans (hbump.keep State.axlReq))
      exact congrArg (· ++ [⟨1, 0, Fin.ofNat 16777216 l.val, 2⟩]) hreq

end Sys2Proof.Machine
end

section
/-! ## Laser channels -/

namespace Sys2Proof.Machine

set_option Elab.async false

variable {s t : State} {b : Beam} {c : Chan} {w : WBlk}

/-! ### Events -/

/-- R358: an event raised is pending, whether it was pending before or not. -/
theorem event_pending (s : State) {n : Nat} (hn : n < 32) : (s.event n).evPending n = true := by
  have hne : n ≠ 32 := hn.ne
  unfold State.event
  split
  next hp =>
    have hreg : Reg.SEQ_EVT_PEND (n / 32) ≠ Reg.SEQ_EVT_MERGE_CNT := by
      simp only [Reg.SEQ_EVT_PEND, Reg.SEQ_EVT_MERGE_CNT]; omega
    simp only [State.evPending, hne, if_false] at hp ⊢
    rw [State.reg_bump_ne _ _ hreg, hp]
  next =>
    simp only [State.evPending, hne, if_false]
    rw [State.reg_setReg_same, BitVec.getLsbD_or, Nat.mod_eq_of_lt hn, BitVec.getLsbD_ofNat, Nat.testBit_two_pow_self]
    simp [hn]

theorem evPending_of_moves {p : Parts} {as : List Nat} {n : Nat} (hm : Moves p as s t) (hn : n ≠ 32)
    (ha : Reg.SEQ_EVT_PEND (n / 32) ∉ as) : t.evPending n = s.evPending n := by
  simp only [State.evPending, hn, if_false, hm.regs _ ha]

/-! ### A home block that fails verify (R174, R176) -/

theorem verifyFailed_of_home (s : State) (hk : w.kind = .home) : s.verifyFailed w = (s.event Ev.vfyFail).queueJoin w.lba := by
  simp only [State.verifyFailed, hk]

theorem queueJoin_moves (s : State) (lba : Nat) : Moves { wrp := true } [] s (s.queueJoin lba) := Moves.refl.upd

theorem queue_of_wrp (h : t.wrp = s.wrp) (zl : Nat) : t.queue zl = s.queue zl := by
  unfold State.queue
  rw [h]

/-- A state whose queues are those of one in which a block has joined. -/
theorem queue_joined {u : State} {lba : Nat} (ht : t.wrp = (u.queueJoin lba).wrp) (hu : u.queue (lbaZL lba) = s.queue (lbaZL lba)) :
    t.queue (lbaZL lba) = s.queue (lbaZL lba) ++ [⟨lba, 0⟩] := by
  rw [← hu, ← queue_queueJoin]
  unfold State.queue
  rw [ht]

/-- R176: a home block that fails is told of by its event, and joins its queue. -/
theorem verifyFailed_home (s : State) (hk : w.kind = .home) :
    (s.verifyFailed w).wrp = (s.queueJoin w.lba).wrp ∧ (s.verifyFailed w).evPending Ev.vfyFail = true ∧
      Moves { regs := true, wrp := true } (eventRegs Ev.vfyFail) s (s.verifyFailed w) := by
  have hev := event_moves s Ev.vfyFail
  have hq := queueJoin_moves (s.event Ev.vfyFail) w.lba
  rw [verifyFailed_of_home s hk]
  refine ⟨?_, (evPending_of_moves hq (by decide) List.not_mem_nil).trans (event_pending s (by decide)),
    (hev.mono rfl (List.Subset.refl _)).then_ hq rfl (List.nil_subset _)⟩
  have hw : (s.event Ev.vfyFail).wrp = s.wrp := hev.keep State.wrp
  simp only [State.queueJoin, State.setQueue, State.queue, hw]

/-- The flag PASS of a decision's word is the decision (R187). -/
theorem vfyLast_pass (b : Beam) (pass early hdrf : Bool) (align : Int) (cwmap total : Nat) :
    ((F.VFY_B_LAST_PASS b).of (BitVec.ofNat 32 (vfyLast pass early align cwmap hdrf total)) != 0) = pass := by
  have ha := unsigned_lt 4 align
  have hof : (F.VFY_B_LAST_PASS b).of (BitVec.ofNat 32 (vfyLast pass early align cwmap hdrf total)) = pass.toNat := by
    have hp := pass.toNat_le
    have he := early.toNat_le
    have hh := hdrf.toNat_le
    simp only [RegField.of, vfyLast, BitVec.toNat_ofNat]
    omega
  rw [hof]
  cases pass <;> rfl

theorem vfyFail_apart : ∀ b : Beam, Reg.VFY_B_LAST b ∉ eventRegs Ev.vfyFail ∧ Reg.VFY_B_FAIL_CNT b ∉ eventRegs Ev.vfyFail := by
  decide

theorem vfyLast_ne : ∀ b : Beam, Reg.VFY_B_LAST b ≠ Reg.VFY_B_LBA b ∧ Reg.VFY_B_LAST b ≠ Reg.VFY_B_FAIL_CNT b := by decide

/-- R174, R187: the word of a failure without a comparison shows no PASS, and the failure is pending for SEQ. -/
theorem earlyFail_shows (s : State) (b : Beam) (hk : w.kind = .home) :
    (s.earlyFail b w).flag (F.VFY_B_LAST_PASS b) = false ∧ (s.earlyFail b w).evPending Ev.vfyFail = true := by
  obtain ⟨hlba, hcnt⟩ := vfyLast_ne b
  unfold State.earlyFail
  extract_lets s1 s2
  obtain ⟨_, hp, hm⟩ := verifyFailed_home s2 hk
  refine ⟨?_, hp⟩
  rw [hm.flag (vfyFail_apart b).1, State.flag_bump_ne _ _ hcnt, State.flag_wr_ne _ _ _ hlba]
  exact (congrArg (· != 0) (State.rd_setReg_same _ _ (F.VFY_B_LAST_PASS b))).trans (vfyLast_pass b false true false 0 0 0)

/-! ### Gates that close early (R161) -/

theorem gateEarly_of_none (h : s.wrp.beams[b].gate = none) : s.gateEarly b = s := by
  unfold State.gateEarly
  rw [h]

/-- The beam's gate is shut, in the slot where it closed (R15). -/
def State.gateShut (s : State) (b : Beam) : State := s.modW b fun x => { x with gate := none, shut := some (s.gateSlot b) }

theorem gateShut_gate (s : State) (b : Beam) : (s.gateShut b).wrp.beams[b].gate = none := congrArg WBeam.gate (modW_same s b _)

theorem gateShut_moves (s : State) (b : Beam) : Moves { wrp := true } [] s (s.gateShut b) := modW_moves s b _

theorem gateShut_queue (s : State) (b : Beam) (zl : Nat) : (s.gateShut b).queue zl = s.queue zl := rfl

theorem gateEarly_of_some (h : s.wrp.beams[b].gate = some w) :
    s.gateEarly b = ((s.gateShut b).bump Reg.VFY_EARLY_CNT).earlyFail b w := by
  unfold State.gateEarly State.gateShut
  rw [h]

/-- Where no gate is open, none closes. -/
theorem dropGates_of_none (h : ∀ b : Beam, s.wrp.beams[b].gate = none) : s.dropGates = s := by
  refine forEach_stays (f := fun b s => if s.chanOn (beamChan b) then s else s.gateEarly b) fun b _ => ?_
  rw [gateEarly_of_none (h b), ite_self]

theorem earlyCnt_apart : ∀ b : Beam, Reg.VFY_EARLY_CNT ∉ earlyRegs b ∧ Reg.VFY_B_FAIL_CNT b ∉ [Reg.VFY_EARLY_CNT] := by decide

/-- What an early close makes of a beam, and of the home block whose gate was open (R161, R174, R176). -/
structure State.ClosedEarly (s : State) (b : Beam) (w : WBlk) (t : State) : Prop where
  gate    : t.wrp.beams[b].gate = none
  queue   : t.queue (lbaZL w.lba) = s.queue (lbaZL w.lba) ++ [⟨w.lba, 0⟩]
  pending : t.evPending Ev.vfyFail = true
  count   : Counts s t Reg.VFY_EARLY_CNT
  fails   : Counts s t (Reg.VFY_B_FAIL_CNT b)
  early   : t.flag (F.VFY_B_LAST_EARLY b) = true
  pass    : t.flag (F.VFY_B_LAST_PASS b) = false
  moves   : Moves { regs := true, wrp := true } (Reg.VFY_EARLY_CNT :: earlyRegs b) s t

theorem gateEarly_home (hg : s.wrp.beams[b].gate = some w) (hk : w.kind = .home) : s.ClosedEarly b w (s.gateEarly b) := by
  rw [gateEarly_of_some hg]
  have hgate := gateShut_gate s b
  have hqueue := gateShut_queue s b (lbaZL w.lba)
  have h1 := gateShut_moves s b
  generalize s.gateShut b = s1 at *
  have h2 : Moves { regs := true } [Reg.VFY_EARLY_CNT] s1 (s1.bump Reg.VFY_EARLY_CNT) := Moves.refl.bump
  have c2 : Counts s1 (s1.bump Reg.VFY_EARLY_CNT) Reg.VFY_EARLY_CNT := Counts.bump
  have hw2 : (s1.bump Reg.VFY_EARLY_CNT).wrp = s1.wrp := h2.keep State.wrp
  generalize s1.bump Reg.VFY_EARLY_CNT = s2 at *
  obtain ⟨hwrp, hfail, hearly, h3⟩ := earlyFail_home (s := s2) (b := b) hk
  obtain ⟨hpass, hpend⟩ := earlyFail_shows s2 b hk
  obtain ⟨hcnt, hfcnt⟩ := earlyCnt_apart b
  have h12 : Moves { regs := true, wrp := true } [Reg.VFY_EARLY_CNT] s s2 :=
    (h1.mono rfl (List.nil_subset _)).then_ h2 rfl (List.Subset.refl _)
  refine ⟨?_, queue_joined hwrp ((queue_of_wrp hw2 _).trans hqueue), hpend,
    (c2.after h1 List.not_mem_nil).then_ h3 hcnt, hfail.after h12 hfcnt, hearly, hpass, (h12.mono rfl (by simp)).then_ h3 rfl (List.subset_cons_self _ _)⟩
  rw [hwrp]
  show s2.wrp.beams[b].gate = none
  rw [hw2, hgate]

theorem execEnableConditionLoss_closes (hc : s.chanOn c = false) (hd : c.val % 5 ≠ 0) :
    execEnableConditionLoss c s = .next (s.gateEarly (chanBeam c)) := by
  simp [execEnableConditionLoss, hc, hd]

/-! ### The VLD monitor (R162) -/

/-- The head's monitor has taken a reading that decides its enable. -/
def State.vldSeen (s : State) (h : Head) (mv : Nat) (on : Bool) : State :=
  { s.wr (F.LDD_COMPL_VLD (sChan h)) (min 255 (mv / 100)) with wrp := { s.wrp with vld := s.wrp.vld.set h on } }

variable {h : Head} {mv : Nat}

theorem vldSeen_vld (s : State) (h : Head) (mv : Nat) (on : Bool) : (s.vldSeen h mv on).wrp.vld[h] = on := by
  simp [State.vldSeen]

theorem vldSeen_reading (s : State) (h : Head) (mv : Nat) (on : Bool) :
    (s.vldSeen h mv on).rd (F.LDD_COMPL_VLD (sChan h)) = min 255 (mv / 100) :=
  (State.rd_of_regs rfl _).trans ((State.rd_wr_same _ _ _ (by simp)).trans (Nat.mod_eq_of_lt (by simp)))

theorem vldSeen_regs (s : State) (h : Head) (mv : Nat) (on : Bool) : RegsBut [Reg.LDD_COMPL (sChan h)] s (s.vldSeen h mv on) :=
  (RegsBut.refl.wr (f := F.LDD_COMPL_VLD (sChan h)) (by simp) _).of_regs rfl

theorem execVldMonitor_rises (hb : s.rd (F.LDD_COMPL_VLD (sChan h)) < s.rd (F.LDD_COMPL_UP (sChan h)))
    (hu : s.rd (F.LDD_COMPL_UP (sChan h)) * 100 ≤ mv) (hd : s.rd (F.LDD_COMPL_DN (sChan h)) * 100 ≤ mv) :
    execVldMonitor h mv s = .next (s.vldSeen h mv true) := by
  unfold execVldMonitor
  extract_lets c before up s1 set
  rw [if_neg (Nat.not_lt.mpr hd), if_pos (by simp [before, up, c, hb, hu])]
  rfl

theorem execVldMonitor_falls (hd : mv < s.rd (F.LDD_COMPL_DN (sChan h)) * 100) (hg : ∀ b : Beam, s.wrp.beams[b].gate = none) :
    execVldMonitor h mv s = .next (s.vldSeen h mv false) := by
  unfold execVldMonitor
  extract_lets c before up s1 set
  rw [if_pos hd]
  exact congrArg Host.Outcome.next (dropGates_of_none (s := s.vldSeen h mv false) hg)

/-! ### Faults (R163, R241) -/

/-- The channel with a fault counted, and its repair asked for (R163, R477). -/
def State.lddFaulted (s : State) (c : Chan) (cause : LddCause) : State :=
  ((s.put (lddField c cause) true).bump (Reg.LDD_FAULT_CNT c)).axlAsk 0x3F 0 c.val 0x2

theorem lddField_eq (c : Chan) (cause : LddCause) : (lddField c cause).reg = Reg.LDD_STAT c ∧ (lddField c cause).width = 1 ∧
    (lddField c cause).lo + (lddField c cause).width ≤ 32 := by
  cases cause <;> simp [lddField]

/-- Any of the three causes is a fault (R184). -/
theorem lddFault_of_cause (cause : LddCause) (h : s.flag (lddField c cause) = true) : s.lddFault c = true := by
  cases cause <;> simp only [lddField] at h <;> simp [State.lddFault, h]

theorem chanOn_of_lddFault (h : s.lddFault c = true) : s.chanOn c = false := by simp [State.chanOn, h]

variable (s c) (cause : LddCause)

theorem lddFaulted_moves :
    Moves { regs := true, axlReq := true } [Reg.LDD_STAT c, Reg.LDD_FAULT_CNT c] s (s.lddFaulted c cause) :=
  ((Moves.refl.put true rfl (by simp [lddField_eq])).bump).then_ (axlAsk_moves _ _ _ _ _) rfl (List.nil_subset _)

theorem lddFaulted_flag : (s.lddFaulted c cause).flag (lddField c cause) = true := by
  obtain ⟨hreg, hwidth, hlt⟩ := lddField_eq c cause
  have hne : (lddField c cause).reg ≠ Reg.LDD_FAULT_CNT c := by
    simp only [hreg, Reg.LDD_STAT, Reg.LDD_FAULT_CNT]; omega
  exact (State.flag_bump_ne _ _ hne).trans (State.flag_put_same _ _ _ hlt hwidth)

theorem lddFaulted_counts : Counts s (s.lddFaulted c cause) (Reg.LDD_FAULT_CNT c) := by
  have hne : Reg.LDD_FAULT_CNT c ∉ [Reg.LDD_STAT c] := by
    simp only [Reg.LDD_STAT, Reg.LDD_FAULT_CNT, List.mem_singleton]; omega
  have hput : Moves { regs := true } [Reg.LDD_STAT c] s (s.put (lddField c cause) true) :=
    Moves.refl.put true rfl (by simp [lddField_eq])
  exact (Counts.bump.after hput hne).then_ (axlAsk_moves _ _ _ _ _) List.not_mem_nil

theorem lddFaulted_axlReq : (s.lddFaulted c cause).axlReq = s.axlReq ++ [⟨0x3F, 0, Fin.ofNat 16777216 c.val, 2⟩] := rfl

theorem lddFaulted_off : (s.lddFaulted c cause).chanOn c = false :=
  chanOn_of_lddFault (lddFault_of_cause cause (lddFaulted_flag s c cause))

variable {s c}

/-- What a task works on is of registers that a channel's fault leaves alone. -/
theorem worksOn_of_fault (hm : Moves { regs := true, axlReq := true } [Reg.LDD_STAT c, Reg.LDD_FAULT_CNT c] s t) (h : Head) :
    t.worksOn h = s.worksOn h := by
  have hreg : ∀ a, a < 0xe0000 → t.reg a = s.reg a := fun a ha => hm.regs a (by
    simp only [Reg.LDD_STAT, Reg.LDD_FAULT_CNT, List.mem_cons, List.not_mem_nil, or_false]; omega)
  have htsk : t.tsk = s.tsk := hm.keep State.tsk
  have hrd : ∀ f : RegField, f.reg < 0xe0000 → t.rd f = s.rd f := fun f hf => congrArg f.of (hreg f.reg hf)
  have hstate : t.rd F.TSK_STATE_STATE = s.rd F.TSK_STATE_STATE := hrd _ (by decide)
  have hopcode : t.opcode = s.opcode := hrd _ (by decide)
  have hlow : t.lowLba = s.lowLba := congrArg BitVec.toNat (hreg _ (by decide))
  have hlayer : ∀ k : Head, t.rd (F.ANG_HPOS_LAYER k) = s.rd (F.ANG_HPOS_LAYER k) := fun k =>
    hrd _ (by simp only [Reg.ANG_HPOS]; omega)
  have hpath : t.onPath h = s.onPath h := funext fun l => by simp only [State.onPath, hlayer]
  have hext : t.isExtent = s.isExtent := by simp only [State.isExtent, hopcode]
  have hopen : ∀ p, t.lowOpen p = s.lowOpen p := fun p => by
    unfold State.lowOpen
    rw [hstate, hext, hlow, htsk]
  unfold State.worksOn State.taskRunning State.lowOnHead
  rw [hstate, hext, hopcode, hpath, htsk, hopen, hopen]

/-- R163: a fault of a data channel outside a gate, on a head that no task works on. -/
theorem execLddFault_data (hd : c.val % 5 ≠ 0) (hg : s.wrp.beams[chanBeam c].gate = none) (hw : s.worksOn (chanHead c) = false) :
    execLddFault c cause s = .next (s.lddFaulted c cause) := by
  unfold execLddFault
  extract_lets h s1 s2
  have hs2 : s2 = s1 := gateEarly_of_none hg
  have hworks : s1.worksOn h = false := (worksOn_of_fault (lddFaulted_moves s c cause) h).trans hw
  rw [if_neg hd, hs2, if_neg (by rw [hworks]; exact Bool.false_ne_true)]
  rfl

theorem lsvChannelFault_of_not_owned (ho : s.owned = false) (h : Head) : s.lsvChannelFault h = s := by
  simp [State.lsvChannelFault, ho]

/-- R163, R241: a fault of an S channel in a module without ownership. -/
theorem execLddFault_source (h : Head) (ho : s.owned = false) :
    execLddFault (sChan h) cause s = .next (s.lddFaulted (sChan h) cause) := by
  unfold execLddFault
  extract_lets hd s1 s2
  have hs : (sChan h).val % 5 = 0 := Nat.mul_mod_right 5 h.val
  have howned : s1.owned = false := ((lddFaulted_moves s (sChan h) cause).flag (f := F.MIR_STAT_OWNED) (by
    simp only [Reg.LDD_STAT, Reg.LDD_FAULT_CNT, Reg.MIR_STAT, List.mem_cons, List.not_mem_nil, or_false]
    have := (sChan h).isLt
    omega)).trans ho
  rw [if_pos hs, lsvChannelFault_of_not_owned howned]
  rfl

theorem flag_bit (s : State) (a i : Nat) : s.flag ⟨a, i, 1⟩ = (s.reg a).getLsbD i := by
  have h := Nat.toNat_testBit (s.reg a).toNat i
  rw [BitVec.getLsbD, State.flag, State.rd, RegField.of, pow_one, ← h]
  cases (s.reg a).toNat.testBit i <;> rfl

/-- R163, R184: with every cause of a channel written away, it has no fault. -/
theorem lddStatWrite_clears {v : Word} (hv : s.reg (Reg.LDD_STAT c) &&& ~~~v &&& 0xE = 0) : (s.lddStatWrite c v).lddFault c = false := by
  have hreg : (s.lddStatWrite c v).reg (Reg.LDD_STAT c) = s.reg (Reg.LDD_STAT c) &&& ~~~(v &&& 0xEE) := State.reg_setReg_same _ _ _
  have hmask : ∀ i, 1 ≤ i ∧ i ≤ 3 → (0xE : Word).getLsbD i = true ∧ (0xEE : Word).getLsbD i = true := fun i ⟨h1, h3⟩ => by
    interval_cases i <;> decide
  have hbit : ∀ i, 1 ≤ i ∧ i ≤ 3 → (s.lddStatWrite c v).flag ⟨Reg.LDD_STAT c, i, 1⟩ = false := fun i hi => by
    have h32 : i < 32 := by omega
    have h : (s.reg (Reg.LDD_STAT c) &&& ~~~v &&& 0xE).getLsbD i = false := (congrArg (·.getLsbD i) hv).trans BitVec.getLsbD_zero
    rw [flag_bit, hreg]
    simpa only [BitVec.getLsbD_and, BitVec.getLsbD_not, h32, hmask i hi, decide_true, Bool.true_and, Bool.and_true] using h
  simp only [State.lddFault, hbit 1 (by omega), hbit 2 (by omega), hbit 3 (by omega), Bool.or_self]

/-- Settles O8: the monitor's two crossings, a lost condition, the faults of a data channel and of an S channel, and their causes
cleared. -/
theorem laserChannels : Obligations.LaserChannels := by
  refine ⟨fun s h mv hb hu hd => ?_, fun s h mv hd hg => ?_, fun s c w hc hd hg hk => ?_, fun s c cause hd hg hw => ?_,
    fun s c v => ⟨_, rfl, State.reg_setReg_same _ _ _, OnlyRegs.refl.setReg (by simp) _⟩, fun s h cause ho => ?_,
    fun s h v hv => ⟨_, rfl, lddStatWrite_clears hv, OnlyRegs.refl.setReg (by simp) _⟩⟩
  · exact ⟨_, execVldMonitor_rises hb hu hd, vldSeen_vld _ _ _ _, vldSeen_reading _ _ _ _, rfl, vldSeen_regs _ _ _ _⟩
  · exact ⟨_, execVldMonitor_falls hd hg, vldSeen_vld _ _ _ _, rfl, vldSeen_regs _ _ _ _⟩
  · obtain ⟨hgate, hqueue, hpend, hcount, hfails, hearly, hpass, hm⟩ := gateEarly_home hg hk
    exact ⟨_, execEnableConditionLoss_closes hc hd, hgate, hqueue, hpend, hcount, hfails, hearly, hpass, hm.parts,
      (hm.mono (d := { regs := true, wrp := true }) rfl (by simp [earlyRegs])).regs⟩
  · have hm := lddFaulted_moves s c cause
    exact ⟨_, execLddFault_data cause hd hg hw, lddFaulted_flag _ _ _, lddFaulted_counts _ _ _, lddFaulted_axlReq _ _ _,
      lddFaulted_off _ _ _, hm.parts, hm.regs⟩
  · have hm := lddFaulted_moves s (sChan h) cause
    exact ⟨_, execLddFault_source cause h ho, lddFaulted_flag _ _ _, lddFaulted_counts _ _ _, lddFaulted_axlReq _ _ _, hm.parts, hm.regs⟩

end Sys2Proof.Machine
end

section
/-! ## Verify decisions -/

namespace Sys2Proof.Machine

set_option Elab.async false

variable {s t : State} {b : Beam} {w : WBlk} {r : List WBlk} {sync body : List Bool}

/-! ### The judgement (R172, R173) -/

/-- R173: a block below every threshold passes. -/
theorem judge_pass {read : List Bool} (h : s.ReadsGood b w read) : (s.judge b w.hdr w.data read).pass = true := by
  obtain ⟨hhdr, htotal, hcw⟩ := h
  have hnone : (List.range 8).filter (fun c => misCount (mismatches w.bits read) c ≥ s.rd (F.VFY_B_THR_CW b)) = [] :=
    List.filter_eq_nil_iff.mpr fun c hc => by simpa using hcw c (List.mem_range.mp hc)
  unfold State.judge State.verdict
  extract_lets bits hdrf cwmap
  have hmap : cwmap = 0 := congrArg (List.foldl _ 0) hnone
  have hf : hdrf = false := decide_eq_false (Nat.not_le.mpr hhdr)
  simp only [hmap, hf, Bool.not_false, Bool.true_and, decide_true, Bool.and_true, decide_eq_true_iff]
  exact htotal

/-- R173: as many mismatches as the threshold on their total fail a block. -/
theorem judge_fail {read : List Bool} (h : s.rd (F.VFY_B_THR_TOTAL b) ≤ (mismatches w.bits read).length) :
    (s.judge b w.hdr w.data read).pass = false := by
  unfold State.judge State.verdict
  extract_lets bits
  have ht : decide ((mismatches bits read).length < s.rd (F.VFY_B_THR_TOTAL b)) = false := decide_eq_false (Nat.not_lt.mpr h)
  simp only [ht, Bool.and_false, Bool.false_and]

theorem judge_total (s : State) (b : Beam) (w : WBlk) (read : List Bool) :
    (s.judge b w.hdr w.data read).total = (mismatches w.bits read).length := by
  simp only [State.judge, State.verdict, WBlk.bits]

/-! ### The report (R174, R187) -/

/-- The count that a decision goes to. -/
def decisionCnt (b : Beam) (pass : Bool) : Nat := if pass then Reg.VFY_B_PASS_CNT b else Reg.VFY_B_FAIL_CNT b

/-- The registers that a decision with a comparison is reported in. -/
def reportRegs (b : Beam) (pass : Bool) : List Nat :=
  [Reg.VFY_B_LAST b, Reg.VFY_B_LBA b, decisionCnt b pass, Reg.VFY_B_MIS_LO b, Reg.VFY_B_MIS_LO b + 4]

theorem reportRegs_apart : ∀ b : Beam, ∀ pass : Bool,
    Reg.VFY_B_LAST b ∉ [Reg.VFY_B_LBA b, Reg.VFY_B_MIS_LO b, Reg.VFY_B_MIS_LO b + 4, decisionCnt b pass] ∧
    Reg.VFY_B_LBA b ∉ [Reg.VFY_B_MIS_LO b, Reg.VFY_B_MIS_LO b + 4, decisionCnt b pass] ∧
    (∀ a ∈ [Reg.VFY_B_MIS_LO b, Reg.VFY_B_MIS_LO b + 4], a ∉ [Reg.VFY_B_LAST b, Reg.VFY_B_LBA b] ∧ a ∉ [decisionCnt b pass]) ∧
    decisionCnt b pass ∉ [Reg.VFY_B_LAST b, Reg.VFY_B_LBA b, Reg.VFY_B_MIS_LO b, Reg.VFY_B_MIS_LO b + 4] := by decide

/-- A decision on the block at `lba`, with the mismatches found, is reported and counted. -/
structure State.Reported (s : State) (b : Beam) (lba : Nat) (pass : Bool) (total : Nat) (t : State) : Prop where
  count : Counts s t (decisionCnt b pass)
  pass  : t.flag (F.VFY_B_LAST_PASS b) = pass
  lba   : t.rd (F.VFY_B_LBA_LBA b) = lba % 2 ^ 25
  mis   : t.pair (Reg.VFY_B_MIS_LO b) = (s.pair (Reg.VFY_B_MIS_LO b) + total) % 2 ^ 64

theorem State.Reported.after {u : State} {lba total : Nat} {pass : Bool} (h : t.Reported b lba pass total u)
    (hm : Moves { wrp := true } [] s t) : s.Reported b lba pass total u :=
  ⟨h.count.after hm List.not_mem_nil, h.pass, h.lba, by rw [h.mis, pair_of_moves hm List.not_mem_nil List.not_mem_nil]⟩

/-- The word with the flags, and the block's LBA. -/
def State.wordReported (s : State) (b : Beam) (lba : Nat) (d : Verdict) : State :=
  (s.setReg (Reg.VFY_B_LAST b) (BitVec.ofNat 32 (vfyLast d.pass false d.align d.cwmap d.hdrf d.total))).wr (F.VFY_B_LBA_LBA b) lba

theorem wordReported_moves (s : State) (b : Beam) (lba : Nat) (d : Verdict) :
    Moves { regs := true } [Reg.VFY_B_LAST b, Reg.VFY_B_LBA b] s (s.wordReported b lba d) := (Moves.refl.setReg _).wr _

theorem wordReported_pass (s : State) (b : Beam) (lba : Nat) (d : Verdict) :
    (s.wordReported b lba d).flag (F.VFY_B_LAST_PASS b) = d.pass :=
  (State.flag_wr_ne _ _ _ (vfyLast_ne b).1).trans ((congrArg (· != 0) (State.rd_setReg_same _ _ (F.VFY_B_LAST_PASS b))).trans
    (vfyLast_pass b d.pass false d.hdrf d.align d.cwmap d.total))

theorem vfyReport_eq (s : State) (b : Beam) (lba : Nat) (d : Verdict) : s.vfyReport b lba d =
    ((s.wordReported b lba d).bump64 (Reg.VFY_B_MIS_LO b) d.total).bump (decisionCnt b d.pass) := rfl

theorem vfyReport_moves (s : State) (b : Beam) (lba : Nat) (d : Verdict) :
    Moves { regs := true } (reportRegs b d.pass) s (s.vfyReport b lba d) := by
  rw [vfyReport_eq]
  exact (((wordReported_moves s b lba d).mono rfl (by simp [reportRegs])).bump64 _ rfl (by simp [reportRegs]) (by simp [reportRegs])).bump
    rfl (by simp [reportRegs])

theorem vfyReport_reported (s : State) (b : Beam) (lba : Nat) (d : Verdict) :
    s.Reported b lba d.pass d.total (s.vfyReport b lba d) := by
  obtain ⟨hlast, hlba, hmis, hcnt⟩ := reportRegs_apart b d.pass
  obtain ⟨hlo, hlo'⟩ := hmis _ List.mem_cons_self
  obtain ⟨hhi, hhi'⟩ := hmis (Reg.VFY_B_MIS_LO b + 4) (by simp)
  have hpass := wordReported_pass s b lba d
  have hword : (s.wordReported b lba d).rd (F.VFY_B_LBA_LBA b) = lba % 2 ^ 25 := State.rd_wr_same _ _ _ (by simp)
  have h1 := wordReported_moves s b lba d
  rw [vfyReport_eq]
  generalize s.wordReported b lba d = u at *
  have h2 : Moves { regs := true } [Reg.VFY_B_MIS_LO b, Reg.VFY_B_MIS_LO b + 4] u (u.bump64 (Reg.VFY_B_MIS_LO b) d.total) :=
    Moves.refl.bump64 _
  have hpair : (u.bump64 (Reg.VFY_B_MIS_LO b) d.total).pair (Reg.VFY_B_MIS_LO b) = (s.pair (Reg.VFY_B_MIS_LO b) + d.total) % 2 ^ 64 := by
    rw [← pair_of_moves h1 hlo hhi]
    exact (State.pair_setPair_same _ _ _).trans (Nat.mod_mod _ _)
  generalize u.bump64 (Reg.VFY_B_MIS_LO b) d.total = v at *
  have h3 : Moves { regs := true } [decisionCnt b d.pass] v (v.bump (decisionCnt b d.pass)) := Moves.refl.bump
  have h12 : Moves { regs := true } [Reg.VFY_B_LAST b, Reg.VFY_B_LBA b, Reg.VFY_B_MIS_LO b, Reg.VFY_B_MIS_LO b + 4] s v :=
    (h1.mono rfl (by simp)).then_ h2 rfl (by simp)
  have h23 : Moves { regs := true } [Reg.VFY_B_MIS_LO b, Reg.VFY_B_MIS_LO b + 4, decisionCnt b d.pass] u (v.bump (decisionCnt b d.pass)) :=
    (h2.mono rfl (by simp)).then_ h3 rfl (by simp)
  exact ⟨Counts.bump.after h12 hcnt, (h23.flag fun h => hlast (List.mem_cons_of_mem _ h)).trans hpass, (h23.rd hlba).trans hword,
    (pair_of_moves h3 hlo' hhi').trans hpair⟩

/-! ### The oldest written block of a beam -/

/-- The blocks that await a decision of the beam are `r`. -/
def State.awaiting (s : State) (b : Beam) (r : List WBlk) : State := s.modW b fun x => { x with vfy := r }

theorem awaiting_moves (s : State) (b : Beam) (r : List WBlk) : Moves { wrp := true } [] s (s.awaiting b r) := modW_moves _ _ _

theorem awaiting_vfy (s : State) (b : Beam) (r : List WBlk) : ((s.awaiting b r).wrp.beams[b]).vfy = r :=
  congrArg WBeam.vfy (modW_same s b fun x => { x with vfy := r })

/-- The block is compared with what was read, and reported. -/
def State.compared (s : State) (b : Beam) (w : WBlk) (r : List WBlk) (read : List Bool) : State :=
  (s.awaiting b r).vfyReport b w.lba (s.judge b w.hdr w.data read)

section
variable {read : List Bool} {pass : Bool} (hp : (s.judge b w.hdr w.data read).pass = pass) (r : List WBlk)
include hp

theorem compared_moves : Moves { regs := true } (reportRegs b pass) (s.awaiting b r) (s.compared b w r read) :=
  hp ▸ vfyReport_moves _ _ _ _

theorem compared_reported : s.Reported b w.lba pass (mismatches w.bits read).length (s.compared b w r read) := by
  rw [← hp, ← judge_total s]
  exact (vfyReport_reported _ _ _ _).after (awaiting_moves s b r)

theorem compared_frame : Moves { regs := true, wrp := true } (reportRegs b pass) s (s.compared b w r read) :=
  ((awaiting_moves s b r).mono rfl (List.nil_subset _)).then_ (compared_moves hp r) rfl (List.Subset.refl _)

theorem compared_wrp : (s.compared b w r read).wrp = (s.awaiting b r).wrp := (compared_moves hp r).keep State.wrp

end

section
variable (hv : s.wrp.beams[b].vfy = w :: r) (hon : s.vfyOn b = true)
include hv hon

theorem execVerifyDecision_blind (hs : s.vfySampled b = false) :
    execVerifyDecision b sync body s = .next ((s.awaiting b r).earlyFail b w) := by
  simp only [execVerifyDecision, hv, hon, hs, Bool.not_false, Bool.and_self, if_true, State.awaiting]

theorem execVerifyDecision_fail (hs : s.vfySampled b = true) (hp : (s.judge b w.hdr w.data (sync ++ body)).pass = false) :
    execVerifyDecision b sync body s = .next ((s.compared b w r (sync ++ body)).verifyFailed w) := by
  simp only [execVerifyDecision, hv, hon, hs, hp, Bool.not_true, Bool.and_false, Bool.false_eq_true, if_true, if_false, State.awaiting,
    State.compared]

theorem execVerifyDecision_home (hs : s.vfySampled b = true) (hp : (s.judge b w.hdr w.data (sync ++ body)).pass = true)
    (hk : w.kind = .home) :
    execVerifyDecision b sync body s = .next ((s.compared b w r (sync ++ body)).blockComplete w.lba) := by
  simp only [execVerifyDecision, hv, hon, hs, hp, hk, Bool.not_true, Bool.and_false, Bool.false_eq_true, if_true, if_false, State.awaiting,
    State.compared]

theorem execVerifyDecision_repl (hs : s.vfySampled b = true) (hp : (s.judge b w.hdr w.data (sync ++ body)).pass = true) {i : Nat}
    (hk : w.kind = .repl i) : execVerifyDecision b sync body s =
      .next ((((s.compared b w r (sync ++ body)).addEntry w.lba i).blockComplete w.lba).passStep w.zl) := by
  simp only [execVerifyDecision, hv, hon, hs, hp, hk, Bool.not_true, Bool.and_false, Bool.false_eq_true, if_true, if_false, State.awaiting,
    State.compared]

end

/-- R108, R185: outside VERIFY mode, or with VFY off, nothing is decided. -/
theorem execVerifyDecision_off (hoff : s.vfyOn b = false) : execVerifyDecision b sync body s = .next s := by
  unfold execVerifyDecision
  split
  · rfl
  · simp only [hoff, Bool.false_and, Bool.false_eq_true, if_false]

/-! ### What a decision leaves to the task and to a pass -/

theorem inTask_of_moves {c : Parts} {as : List Nat} (hm : Moves c as s t) (htsk : t.tsk = s.tsk) (ha : Reg.TSK_STATE ∉ as) (lba : Nat) :
    t.inTask lba = s.inTask lba := by
  have hrun : t.taskRunning = s.taskRunning := congrArg (decide <| · = 1) (hm.rd (f := F.TSK_STATE_STATE) ha)
  have hop : t.opcode = s.opcode := hm.rd ha
  have hext : t.isExtent = s.isExtent := by simp only [State.isExtent, hop]
  unfold State.inTask
  rw [hrun, hext, htsk]

theorem blockComplete_of_not_inTask {lba : Nat} (h : s.inTask lba = false) : s.blockComplete lba = s := by simp [State.blockComplete, h]

theorem passStep_of_no_pass {zl : Nat} (h : ∀ hd : Head, s.wrp.pass[hd] ≠ some zl) : s.passStep zl = s := by
  have hno : (List.finRange 4).any (fun hd => decide (s.wrp.pass[(hd : Head)] = some zl)) = false :=
    List.any_eq_false.mpr fun hd _ => by simpa using h hd
  unfold State.passStep
  rw [hno]
  exact if_neg Bool.false_ne_true

/-! ### A replacement enters the live table (R17, R18) -/

/-- The registers that a new entry moves. -/
def entryRegs : List Nat := [Reg.VFY_RPL_CNT] ++ eventRegs Ev.rplDone ++ accessRegs ++ noteRegs

/-- The parts that a new entry moves: those of a store, and the table and the task's count of it. -/
def entryParts : Parts := { storeParts with disc := true, wrp := true }

/-- The live table holds a replacement of the block at `lba`, at spare index `i`. -/
structure State.EntryAdded (s : State) (lba i : Nat) (t : State) : Prop where
  disc    : t.disc = { s.disc with
    table := s.disc.table ++ [⟨lba, i, s.rd F.TSK_DISC_WGEN, false⟩], added := s.disc.added + 1, changed := true }
  wrp     : t.wrp = { s.wrp with made := s.wrp.made + 1 }
  pending : t.evPending Ev.rplDone = true
  count   : Counts s t Reg.VFY_RPL_CNT
  dram    : DramBut (tableAddr (lbaZL lba) i) 8 s t
  moves   : Moves entryParts entryRegs s t

theorem mirrRecord_moves (s : State) (kind : Nat) (body : List Byte) :
    Moves { regs := true, hlk := true } noteRegs s (s.mirrRecord kind body) :=
  Moves.of_noted (as := []) (Noted.refl.mirrRecord _ _)

theorem putTableEntry_dramBut (s : State) (e : RplEntry) : DramBut (tableAddr (lbaZL e.lba) e.spare) 8 s (s.putTableEntry e) := by
  have h := storeBytes_dramBut s (tableAddr (lbaZL e.lba) e.spare) (beBytes 8 (entryDword e)) 2
  rwa [length_beBytes] at h

theorem entryRegs_apart : Reg.VFY_RPL_CNT ∉ accessRegs ++ noteRegs ∧ Reg.VFY_RPL_CNT ∉ eventRegs Ev.rplDone ++ noteRegs ∧
    Reg.SEQ_EVT_PEND (Ev.rplDone / 32) ∉ noteRegs := by decide

theorem taskState_not_entryReg : Reg.TSK_STATE ∉ entryRegs := by decide

/-- The entry is in the table, and the task has made one more. -/
def State.tableListed (s : State) (e : RplEntry) : State :=
  { s with disc := { s.disc with table := s.disc.table ++ [e], added := s.disc.added + 1, changed := true }
           wrp := { s.wrp with made := s.wrp.made + 1 } }

theorem tableListed_moves (s : State) (e : RplEntry) : Moves { disc := true, wrp := true } [] s (s.tableListed e) := Moves.refl.upd

theorem addEntry_eq (s : State) (lba i : Nat) (e : RplEntry) (he : e = ⟨lba, i, s.rd F.TSK_DISC_WGEN, false⟩) : s.addEntry lba i =
    (((((s.tableListed e).putTableEntry e).bump Reg.VFY_RPL_CNT).event Ev.rplDone).mirrRecord 0x12 (beBytes 8 (entryDword e))) := by
  rw [he]
  rfl

theorem entryRegs_listed : accessRegs ++ noteRegs ⊆ entryRegs ∧ Reg.VFY_RPL_CNT :: (eventRegs Ev.rplDone ++ noteRegs) ⊆ entryRegs := by
  decide

theorem addEntry_added (s : State) (lba i : Nat) : s.EntryAdded lba i (s.addEntry lba i) := by
  obtain ⟨hacc, hnote, hpend⟩ := entryRegs_apart
  obtain ⟨e, he⟩ : ∃ e : RplEntry, e = ⟨lba, i, s.rd F.TSK_DISC_WGEN, false⟩ := ⟨_, rfl⟩
  have h1 := tableListed_moves s e
  have hdisc : (s.tableListed e).disc = { s.disc with table := s.disc.table ++ [e], added := s.disc.added + 1, changed := true } := rfl
  have hwrp : (s.tableListed e).wrp = { s.wrp with made := s.wrp.made + 1 } := rfl
  rw [addEntry_eq s lba i e he]
  generalize s.tableListed e = u1 at *
  have h2 : Moves storeParts (accessRegs ++ noteRegs) u1 (u1.putTableEntry e) := storeBytes_moves _ _ _ _
  have d2 := putTableEntry_dramBut u1 e
  generalize u1.putTableEntry e = u2 at *
  have c3 : Counts u2 (u2.bump Reg.VFY_RPL_CNT) Reg.VFY_RPL_CNT := Counts.bump
  have h3 : Moves { regs := true } [Reg.VFY_RPL_CNT] u2 (u2.bump Reg.VFY_RPL_CNT) := Moves.refl.bump
  generalize u2.bump Reg.VFY_RPL_CNT = u3 at *
  have h4 := event_moves u3 Ev.rplDone
  have p4 := event_pending u3 (n := Ev.rplDone) (by decide)
  generalize u3.event Ev.rplDone = u4 at *
  have h5 := mirrRecord_moves u4 0x12 (beBytes 8 (entryDword e))
  generalize u4.mirrRecord 0x12 (beBytes 8 (entryDword e)) = u5 at *
  have h12 : Moves entryParts (accessRegs ++ noteRegs) s u2 := (h1.mono rfl (List.nil_subset _)).then_ h2 rfl (List.Subset.refl _)
  have h35 : Moves { regs := true, hlk := true } (eventRegs Ev.rplDone ++ noteRegs) u3 u5 :=
    (h4.mono rfl (List.subset_append_left _ _)).then_ h5 rfl (List.subset_append_right _ _)
  have h25 : Moves { regs := true, hlk := true } (Reg.VFY_RPL_CNT :: (eventRegs Ev.rplDone ++ noteRegs)) u2 u5 :=
    (h3.mono rfl (by simp)).then_ h35 rfl (List.subset_cons_self _ _)
  refine ⟨?_, ?_, (evPending_of_moves h5 (by decide) hpend).trans p4, (c3.after h12 hacc).then_ h35 hnote, ?_, ?_⟩
  · rw [h25.keep State.disc, h2.keep State.disc, hdisc, he]
  · rw [h25.keep State.wrp, h2.keep State.wrp, hwrp]
  · have d := (DramBut.of_kept (.of_moves h1 rfl)).trans (d2.trans (.of_kept (.of_moves h25 rfl)))
    rwa [he] at d
  · exact (h12.mono rfl entryRegs_listed.1).then_ h25 rfl entryRegs_listed.2

theorem State.EntryAdded.spareOf {lba i : Nat} (h : s.EntryAdded lba i t) : t.spareOf lba = some i := by
  simp [State.spareOf, h.disc]

theorem taskState_apart : ∀ b : Beam, ∀ pass : Bool, Reg.TSK_STATE ∉ reportRegs b pass ∧
    F.TSK_DISC_WGEN.reg ∉ reportRegs b pass := by decide

theorem rplCnt_apart : ∀ b : Beam, Reg.VFY_RPL_CNT ∉ reportRegs b true := by decide

theorem earlyRegs_listed (b : Beam) : earlyRegs b ⊆ [Reg.VFY_B_LAST b, Reg.VFY_B_LBA b, Reg.VFY_B_FAIL_CNT b] ++ eventRegs Ev.vfyFail := by
  intro a
  simp only [earlyRegs, List.mem_append, List.mem_cons]
  tauto

/-- R174: a home block outside a task passes. -/
theorem execVerifyDecision_homePass (hv : s.wrp.beams[b].vfy = w :: r) (hon : s.vfyOn b = true) (hs : s.vfySampled b = true)
    (hk : w.kind = .home) (hgood : s.ReadsGood b w (sync ++ body)) (ht : s.inTask w.lba = false) :
    Ends (execVerifyDecision b sync body s) fun t => (t.wrp.beams[b]).vfy = r ∧
      s.Reported b w.lba true (mismatches w.bits (sync ++ body)).length t ∧ Moves { regs := true, wrp := true } (reportRegs b true) s t := by
  have hp := judge_pass hgood
  have hm := compared_frame hp r
  rw [execVerifyDecision_home hv hon hs hp hk,
    blockComplete_of_not_inTask ((inTask_of_moves hm (hm.keep State.tsk) (taskState_apart b true).1 w.lba).trans ht)]
  exact .next ⟨by rw [compared_wrp hp, awaiting_vfy], compared_reported hp r, hm⟩

/-- R17, R174, R177: a replacement outside a task, in no pass, passes. -/
theorem execVerifyDecision_replPass {i : Nat} (hv : s.wrp.beams[b].vfy = w :: r) (hon : s.vfyOn b = true) (hs : s.vfySampled b = true)
    (hk : w.kind = .repl i) (hgood : s.ReadsGood b w (sync ++ body)) (ht : s.inTask w.lba = false)
    (hno : ∀ h : Head, s.wrp.pass[h] ≠ some w.zl) :
    Ends (execVerifyDecision b sync body s) fun t => ∃ u, u.wrp = (s.awaiting b r).wrp ∧
      Moves { regs := true, wrp := true } (reportRegs b true) s u ∧ u.EntryAdded w.lba i t := by
  have hp := judge_pass hgood
  have hm := compared_frame hp r
  have hadd := addEntry_added (s.compared b w r (sync ++ body)) w.lba i
  have hend := (inTask_of_moves hadd.moves (hadd.moves.keep State.tsk) taskState_not_entryReg w.lba).trans
    ((inTask_of_moves hm (hm.keep State.tsk) (taskState_apart b true).1 _).trans ht)
  rw [execVerifyDecision_repl hv hon hs hp hk, blockComplete_of_not_inTask hend, passStep_of_no_pass fun hd => by
    rw [hadd.wrp, compared_wrp hp]
    exact hno hd]
  exact .next ⟨_, compared_wrp hp r, hm, hadd⟩

/-- R173, R176: a home block with too many mismatches fails. -/
theorem execVerifyDecision_homeFail (hv : s.wrp.beams[b].vfy = w :: r) (hon : s.vfyOn b = true) (hs : s.vfySampled b = true)
    (hk : w.kind = .home) (hbad : s.rd (F.VFY_B_THR_TOTAL b) ≤ (mismatches w.bits (sync ++ body)).length) :
    Ends (execVerifyDecision b sync body s) fun t => (t.wrp.beams[b]).vfy = r ∧ Counts s t (Reg.VFY_B_FAIL_CNT b) ∧
      t.flag (F.VFY_B_LAST_PASS b) = false ∧ t.queue (lbaZL w.lba) = s.queue (lbaZL w.lba) ++ [⟨w.lba, 0⟩] ∧
      t.evPending Ev.vfyFail = true ∧ Moves { regs := true, wrp := true } (reportRegs b false ++ eventRegs Ev.vfyFail) s t := by
  have hp := judge_fail hbad
  have hrep := compared_reported hp r
  have hwrp := compared_wrp hp r
  have hm := compared_frame hp r
  rw [execVerifyDecision_fail hv hon hs hp]
  generalize s.compared b w r (sync ++ body) = u at *
  obtain ⟨hjoin, hpend, hfail⟩ := verifyFailed_home u hk
  obtain ⟨hlast, hcnt⟩ := vfyFail_apart b
  refine .next ⟨?_, hrep.count.then_ hfail hcnt, (hfail.flag hlast).trans hrep.pass, queue_joined hjoin (queue_of_wrp hwrp _), hpend,
    (hm.mono rfl (List.subset_append_left _ _)).then_ hfail rfl (List.subset_append_right _ _)⟩
  rw [hjoin]
  show (u.wrp.beams[b]).vfy = r
  rw [hwrp, awaiting_vfy]

/-- R14, R176: a home block of a beam whose verify spot is not sampled fails. -/
theorem execVerifyDecision_homeBlind (hv : s.wrp.beams[b].vfy = w :: r) (hon : s.vfyOn b = true) (hs : s.vfySampled b = false)
    (hk : w.kind = .home) :
    Ends (execVerifyDecision b sync body s) fun t => (t.wrp.beams[b]).vfy = r ∧ Counts s t (Reg.VFY_B_FAIL_CNT b) ∧
      t.flag (F.VFY_B_LAST_PASS b) = false ∧ t.flag (F.VFY_B_LAST_EARLY b) = true ∧
      t.queue (lbaZL w.lba) = s.queue (lbaZL w.lba) ++ [⟨w.lba, 0⟩] ∧ Moves { regs := true, wrp := true } (earlyRegs b) s t := by
  have hm := awaiting_moves s b r
  have hvfy := awaiting_vfy s b r
  have hqueue : (s.awaiting b r).queue (lbaZL w.lba) = s.queue (lbaZL w.lba) := rfl
  rw [execVerifyDecision_blind hv hon hs]
  generalize s.awaiting b r = u at *
  obtain ⟨hjoin, hcount, hearly, hfail⟩ := earlyFail_home (s := u) (b := b) hk
  refine .next ⟨?_, hcount.after hm List.not_mem_nil, (earlyFail_shows u b hk).1, hearly, queue_joined hjoin hqueue,
    (hm.mono rfl (List.nil_subset _)).then_ hfail rfl (List.Subset.refl _)⟩
  rw [hjoin]
  exact hvfy

/-- Settles O9: a home block and a replacement that pass, a home block that fails by its mismatches, one whose spot is not sampled, and no
decision. -/
theorem verifyDecisions : Obligations.VerifyDecisions := by
  refine ⟨fun s b sync body w r hv hon hs hk hgood ht => ?_, fun s b sync body w r i hv hon hs hk hgood ht hno => ?_,
    fun s b sync body w r hv hon hs hk hbad => ?_, fun s b sync body w r hv hon hs hk => ?_,
    fun s b sync body hoff => execVerifyDecision_off hoff⟩
  · obtain ⟨t, e, hvfy, hrep, hm⟩ := execVerifyDecision_homePass hv hon hs hk hgood ht
    exact ⟨t, e, hvfy, hrep.count, hrep.pass, hrep.lba, hrep.mis, hm.parts, hm.regs⟩
  · obtain ⟨t, e, u, hwrp, hm, hadd⟩ := execVerifyDecision_replPass hv hon hs hk hgood ht hno
    have hall : Moves entryParts (reportRegs b true ++ entryRegs) s t :=
      (hm.mono rfl (List.subset_append_left _ _)).then_ hadd.moves rfl (List.subset_append_right _ _)
    have hdisc : u.disc = s.disc := hm.keep State.disc
    refine ⟨t, e, ?_, ?_, ?_, hadd.spareOf, hadd.pending, hadd.count.after hm (rplCnt_apart b),
      (DramBut.of_kept (.of_moves hm rfl)).trans hadd.dram, hall.parts, hall.regs⟩
    · rw [hadd.wrp, hwrp, awaiting_vfy]
    · rw [hadd.disc, hdisc, hm.rd (taskState_apart b true).2]
    · rw [hadd.disc, hdisc]
  · obtain ⟨t, e, hvfy, hcount, hpass, hqueue, hpend, hm⟩ := execVerifyDecision_homeFail hv hon hs hk hbad
    exact ⟨t, e, hvfy, hcount, hpass, hqueue, hpend, hm.parts, hm.regs⟩
  · obtain ⟨t, e, hvfy, hcount, hpass, hearly, hqueue, hm⟩ := execVerifyDecision_homeBlind hv hon hs hk
    exact ⟨t, e, hvfy, hcount, hpass, hearly, hqueue, hm.parts, fun a ha => hm.regs a fun q => ha (earlyRegs_listed b q)⟩

end Sys2Proof.Machine
end

section
/-! ## SRV's commands -/

namespace Sys2Proof.Machine

set_option Elab.async false

variable {s : State}

/-! ### A group's mode (R210, R224) -/

/-- A mask that lets a field's bits through leaves the field of the word. -/
theorem RegField.of_and {f : RegField} {m : Word} (hm : f.of m = 2 ^ f.width - 1) (w : Word) : f.of (w &&& m) = f.of w := by
  refine Nat.eq_of_testBit_eq fun i => ?_
  have hi : (f.of m).testBit i = decide (i < f.width) := by rw [hm, Nat.testBit_two_pow_sub_one]
  rw [of_testBit] at hi
  rw [of_testBit, of_testBit, BitVec.toNat_and, Nat.testBit_and]
  by_cases h : i < f.width
  · simp only [h, decide_true, Bool.true_and] at hi
    rw [hi, Bool.and_true]
  · simp only [h, decide_false, Bool.false_and]

theorem modeField_eq (g : Group) : modeField g = ⟨ctrlReg g, 0, 2⟩ := by
  unfold ctrlReg modeField
  split <;> rfl

theorem nextModeField_eq (g : Group) : nextModeField g = ⟨ctrlReg g, 4, 2⟩ := by
  unfold ctrlReg nextModeField modeField
  split <;> rfl

theorem nmenField_eq (g : Group) : nmenField g = ⟨ctrlReg g, 7, 1⟩ := by
  unfold ctrlReg nmenField modeField
  split <;> rfl

/-- R224: a group's control register stores MODE, NEXTMODE and NMEN of the word written to it. -/
theorem execSrvMode_stores (s : State) (g : Group) (v : Word) :
    Ends (execSrvMode g v s) fun t => t.rd (modeField g) = v.toNat % 4 ∧ t.rd (nextModeField g) = v.toNat / 16 % 4 ∧
      t.flag (nmenField g) = v.getLsbD 7 ∧ OnlyRegs [(modeField g).reg] s t := by
  have hread (lo n : Nat) (hm : (0xB3 : Word).toNat / 2 ^ lo % 2 ^ n = 2 ^ n - 1) :
      (s.setReg (ctrlReg g) (v &&& 0xB3)).rd ⟨ctrlReg g, lo, n⟩ = v.toNat / 2 ^ lo % 2 ^ n :=
    (State.rd_setReg_same s _ ⟨ctrlReg g, lo, n⟩).trans (RegField.of_and (f := ⟨ctrlReg g, lo, n⟩) hm v)
  refine .next ⟨?_, ?_, ?_, OnlyRegs.refl.setReg List.mem_cons_self _⟩
  · simpa [modeField_eq] using hread 0 2 (by decide)
  · simpa [nextModeField_eq] using hread 4 2 (by decide)
  · rw [nmenField_eq, flag_bit, State.reg_setReg_same, BitVec.getLsbD_and]
    exact Bool.and_true _

/-! ### The spare's shadow (R206) -/

/-- The lanes in ascending order after lane `p`, which comes last. -/
def shadowOrder (p : Fin 5) : List (Fin 5) := (List.finRange 5).map (fun i => Fin.ofNat 5 (p.val + 1 + i.val))

theorem mem_shadowOrder : ∀ p l : Fin 5, l ∈ shadowOrder p := by decide

/-- The spare shadows lane `l`, and counts its samples anew. -/
def State.shadowing (s : State) (l : Fin 5) : State := { s with srv := { s.srv with shadow := l, shadowN := 0 } }

/-- R206: with a lane in use, the shadow that has been held for its samples goes to the next such lane. -/
theorem execSpareShadowMove_moves {l : Fin 5} (hg : s.spareGood = true) (he : s.flag F.SRV_SPARE_CFG_EN = true)
    (hl : (s.reg Reg.SRV_LANES).getLsbD (8 + l.val) = true) (hn : 65536 ≤ s.srv.shadowN) :
    ∃ k : Fin 5, (s.reg Reg.SRV_LANES).getLsbD (8 + k.val) = true ∧ execSpareShadowMove s = .next (s.shadowing k) := by
  have hsome : ((shadowOrder s.srv.shadow).find? fun k => (s.reg Reg.SRV_LANES).getLsbD (8 + k.val)).isSome = true :=
    List.find?_isSome.mpr ⟨l, mem_shadowOrder _ _, hl⟩
  obtain ⟨k, hk⟩ := Option.isSome_iff_exists.mp hsome
  have hin := List.find?_some hk
  refine ⟨k, hin, ?_⟩
  unfold shadowOrder at hk
  unfold execSpareShadowMove
  simp only [hg, he, hn, hk, decide_true, Bool.and_self, if_true]
  rfl

/-- R206: before its samples have passed the shadow stays. -/
theorem execSpareShadowMove_stays (hn : s.srv.shadowN < 65536) : execSpareShadowMove s = .next s := by
  unfold execSpareShadowMove
  simp only [Nat.not_le.mpr hn, decide_false, Bool.and_false, Bool.false_eq_true, if_false]

/-- Settles O14: a commit and a preset are ordered beside those before, a mode is stored in its group's control register, and the spare's
shadow moves to a lane in use once its samples have passed. -/
theorem servoCommands : Obligations.ServoCommands := by
  refine ⟨fun s g => ⟨_, rfl, rfl, rfl⟩, fun s v => ⟨_, rfl, rfl, rfl⟩, execSrvMode_stores, fun s l hg he hl hn => ?_,
    fun s hn => execSpareShadowMove_stays hn⟩
  obtain ⟨k, hk, e⟩ := execSpareShadowMove_moves hg he hl hn
  exact ⟨s.shadowing k, e, hk, rfl⟩

end Sys2Proof.Machine
end

section
/-! ## A STOP that ends a move -/

namespace Sys2Proof.Machine

set_option Elab.async false

variable {s t : State} {h : Head} {n : Stepper}

theorem modLsv_moves (s : State) (h : Head) (f : Lsv → Lsv) : Moves { lsv := true } [] s (s.modLsv h f) := Moves.refl.upd

/-- The registers that the end of a supervisor's command moves (R225). -/
def doneRegs (h : Head) : List Nat := [Reg.LSV_H_STAT h, Reg.LSV_INT_STAT] ++ eventRegs (Ev.loopDone h)

theorem lsvDone_moves (s : State) (h : Head) (cls : Nat) : Moves { regs := true, lsv := true } (doneRegs h) s (s.lsvDone h cls) := by
  have hstat : Reg.LSV_H_STAT h ∈ doneRegs h := List.mem_cons_self
  have hint : Reg.LSV_INT_STAT ∈ doneRegs h := List.mem_cons_of_mem _ List.mem_cons_self
  unfold State.lsvDone
  extract_lets s1 s2 s3
  have h1 : Moves { regs := true, lsv := true } (doneRegs h) s s1 := (modLsv_moves _ _ _).mono rfl (List.nil_subset _)
  have h3 := (((h1.put (f := F.LSV_H_STAT_BUSY h) false rfl hstat).put (f := F.LSV_H_STAT_DONE h) true rfl hstat).wr
    (f := F.LSV_H_STAT_ERRCLS h) cls rfl hstat).wr (f := F.LSV_INT_STAT_DONE) (s2.rd F.LSV_INT_STAT_DONE ||| 2 ^ h.val) rfl hint
  exact h3.then_ (event_moves _ _) rfl (List.subset_append_right _ _)

/-- What STOP makes of a channel: a move that the supervisor awaits comes to rest at a place that is drawn (R274). -/
def State.stopMove (s : State) (h : Head) (n : Stepper) : State :=
  if s.sld[n].owner = some h ∧ s.flag (F.SLD_STAT_BUSY n) = true then
    (s.draw.2.modSld n fun c => { c with owner := none }).sldRest n s.draw.1
  else s

theorem lsvStopRun_eq (s : State) (h : Head) :
    s.lsvStopRun h = ((s.lsvDone h 0).stopMove h (corrector h)).stopMove h (sledChan (headSled h)) := rfl

theorem modSld_moves (s : State) (n : Stepper) (f : Sld → Sld) : Moves { sld := true } [] s (s.modSld n f) := Moves.refl.upd

/-- The registers that the end of a channel's command at rest moves (R271, R274). -/
def restRegs (n : Stepper) : List Nat := [Reg.SLD_STAT n, Reg.SLD_POS n] ++ eventRegs (Ev.sldDone n)

theorem sldDone_moves (s : State) (n : Stepper) (cls : Nat) : Moves { regs := true } (restRegs n) s (s.sldDone n cls) := by
  have hstat : Reg.SLD_STAT n ∈ restRegs n := List.mem_cons_self
  unfold State.sldDone
  extract_lets u
  have hu : Moves { regs := true } (restRegs n) s u :=
    ((Moves.refl.put (f := F.SLD_STAT_BUSY n) _ rfl hstat).put (f := F.SLD_STAT_DONE n) _ rfl hstat).wr (f := F.SLD_STAT_ERRCLS n) _ rfl hstat
  exact hu.then_ (event_moves u _) rfl (List.subset_append_right _ _)

theorem sldRest_moves (s : State) (n : Stepper) (rest : Word) : Moves { regs := true, sld := true } (restRegs n) s (s.sldRest n rest) := by
  have hstat : Reg.SLD_STAT n ∈ restRegs n := List.mem_cons_self
  have hpos : Reg.SLD_POS n ∈ restRegs n := List.mem_cons_of_mem _ List.mem_cons_self
  unfold State.sldRest
  extract_lets m u v
  have hu : Moves { regs := true, sld := true } (restRegs n) s u := .ite .refl (Moves.refl.setReg _ rfl hpos)
  have hv : Moves { regs := true, sld := true } (restRegs n) s v :=
    .ite ((hu.wr (f := F.SLD_STAT_MODE n) 3 rfl hstat).then_ (modSld_moves _ _ _) rfl (List.nil_subset _)) .refl
  exact ((hv.put (f := F.SLD_STAT_ARMED n) _ rfl hstat).put (f := F.SLD_STAT_STOPPED n) _ rfl hstat).then_ (sldDone_moves _ _ _) rfl
    (List.Subset.refl _)

theorem stopMove_draws (ho : s.sld[n].owner = some h) (hb : s.flag (F.SLD_STAT_BUSY n) = true) : (s.stopMove h n).free = s.free + 1 := by
  unfold State.stopMove
  rw [if_pos ⟨ho, hb⟩]
  exact (sldRest_moves _ n s.draw.1).keep State.free

theorem stopMove_free_le (s : State) (h : Head) (n : Stepper) : s.free ≤ (s.stopMove h n).free := by
  by_cases hc : s.sld[n].owner = some h ∧ s.flag (F.SLD_STAT_BUSY n) = true
  · rw [stopMove_draws hc.1 hc.2]
    exact Nat.le_succ _
  · rw [State.stopMove, if_neg hc]

theorem corrStat_not_done : ∀ h : Head, Reg.SLD_STAT (corrector h) ∉ doneRegs h := by decide

/-- R274: a STOP that ends a move of the corrector draws the place where it comes to rest. -/
theorem lsvStopRun_draws (ho : s.sld[corrector h].owner = some h) (hb : s.flag (F.SLD_STAT_BUSY (corrector h)) = true) :
    s.free < (s.lsvStopRun h).free := by
  have hm := lsvDone_moves s h 0
  have hsld : (s.lsvDone h 0).sld = s.sld := hm.keep State.sld
  have hfree : (s.lsvDone h 0).free = s.free := hm.keep State.free
  have hdraw := stopMove_draws (s := s.lsvDone h 0) (hsld ▸ ho) ((hm.flag (corrStat_not_done h)).trans hb)
  rw [lsvStopRun_eq]
  exact Nat.lt_of_lt_of_le (by omega) (stopMove_free_le _ h _)

/-- Head 0's supervisor, whose module has ownership, awaits the end of a move of its corrector. -/
def moveAwaited : State :=
  ((State.reset.put F.MIR_STAT_OWNED true).put (F.SLD_STAT_BUSY (corrector 0)) true).modSld (corrector 0) fun c => { c with owner := some 0 }

/-- Refutes O16: its last clause leaves the free values undrawn, and the model does not: a STOP that ends a move of the corrector draws the
place where the corrector comes to rest (R274, log entry 61). -/
theorem not_loopCommands : ¬ Obligations.LoopCommands := by
  rintro ⟨_, _, _, _, _, hstop⟩
  have haccepted : moveAwaited.lsvRefusal 0 6 0 = none := by decide +kernel
  obtain ⟨t, hg, _, _, _, _, _, _, ht⟩ := hstop moveAwaited 0 haccepted
  have hrun : execLsvStop 0 moveAwaited = .next (moveAwaited.lsvStopRun 0) := by
    unfold execLsvStop State.lsvCommand
    rw [haccepted]
  have htu : t = moveAwaited.lsvStopRun 0 := Host.Outcome.next.inj (hg.symm.trans hrun)
  have hfree : t.free = moveAwaited.free := (congrArg State.free ht).trans rfl
  have hdraws := lsvStopRun_draws (s := moveAwaited) (h := 0) (by decide +kernel) (by decide +kernel)
  rw [← htu, hfree] at hdraws
  exact Nat.lt_irrefl _ hdraws

end Sys2Proof.Machine
end

section
/-! ## The stages of a loop supervisor -/

namespace Sys2Proof.Machine

set_option Elab.async false

variable {s t : State} {h g : Head} {c : Parts} {as : List Nat}

/-! ### The supervisor's structure and its state (R229) -/

@[simp] theorem sup_modLsv_same (s : State) (h : Head) (f : Lsv → Lsv) : (s.modLsv h f).sup h = f (s.sup h) := Vector.getElem_set_self _

theorem sup_modLsv_ne (s : State) (f : Lsv → Lsv) (hg : g ≠ h) : (s.modLsv h f).sup g = s.sup g :=
  Vector.getElem_set_ne h.isLt g.isLt fun e => hg (Fin.ext e.symm)

theorem sup_of_lsv (hl : t.lsv = s.lsv) (h : Head) : t.sup h = s.sup h := congrArg (·[h]) hl

theorem sup_of_moves (hm : Moves c as s t) (h : Head) (hc : c.lsv = false := by rfl) : t.sup h = s.sup h := by
  refine sup_of_lsv ?_ h
  rw [hm.parts]
  simp only [State.splice, hc, cond_false]

/-- The code that `STATE` shows in state `k` (R229, R240). -/
def stateShown (op : LsvOp) (k : Nat) : Nat :=
  match op with
  | .recover _ => if k ≠ 6 ∧ k ≠ 11 then 10 else k
  | _ => k

/-- A supervisor that has entered state `k`. -/
def Lsv.entered (l : Lsv) (k : Nat) : Lsv := { l with st := k, smp := 0, kn := 0 }

/-- A state other than FOLLOW is entered: its samples are counted anew, and no signal rises. -/
theorem lsvGo_eq {k : Nat} (hk : k ≠ 6) :
    s.lsvGo h k = (s.modLsv h (·.entered k)).wr (F.LSV_H_STAT_STATE h) (stateShown (s.sup h).op k) := by
  unfold State.lsvGo
  extract_lets s1 r
  have hop : (s1.sup h).op = (s.sup h).op := by unfold s1; rw [sup_modLsv_same]
  have hr : (if r then 10 else k) = stateShown (s.sup h).op k := by
    unfold r stateShown
    rw [hop]
    cases (s.sup h).op <;> simp
  have hf : (!r && decide (k = 6)) = false := by simp [hk]
  rw [hr, hf]
  simp only [State.pmcRise, Bool.and_false, Bool.false_eq_true, if_false]
  rfl

theorem lsvGo_moves {k : Nat} (hk : k ≠ 6) : Moves { regs := true, lsv := true } [Reg.LSV_H_STAT h] s (s.lsvGo h k) := by
  rw [lsvGo_eq hk]
  exact ((modLsv_moves s h _).mono rfl (List.nil_subset _)).wr _

theorem lsvGo_sup {k : Nat} (hk : k ≠ 6) : (s.lsvGo h k).sup h = (s.sup h).entered k := by
  rw [lsvGo_eq hk, sup_of_lsv (State.wr_lsv _ _ _), sup_modLsv_same]

theorem lsvGo_sup_ne {k : Nat} (hk : k ≠ 6) (hg : g ≠ h) : (s.lsvGo h k).sup g = s.sup g := by
  rw [lsvGo_eq hk, sup_of_lsv (State.wr_lsv _ _ _), sup_modLsv_ne _ _ hg]

theorem lsvGo_shown {k : Nat} (hk : k ≠ 6) : (s.lsvGo h k).rd (F.LSV_H_STAT_STATE h) = stateShown (s.sup h).op k % 16 := by
  rw [lsvGo_eq hk]
  exact State.rd_wr_same _ _ _ (by simp)

/-- The fields below `STATE` stay. -/
theorem lsvGo_flag {k : Nat} (hk : k ≠ 6) {f : RegField} (hf : f.lo + f.width ≤ 28) : (s.lsvGo h k).flag f = s.flag f := by
  rw [lsvGo_eq hk]
  exact congrArg (· != 0) (State.rd_wr_disjoint _ _ f _ (by omega) (.inl hf))

/-- R230: a head of which nothing is open or captured leaves FOLLOW, and no jump awaits its frame any more. -/
theorem leaveFollow_quiet (hq : s.quiet h) (hst : (s.sup h).st = 6) : s.leaveFollow h = s.modLsv h fun l => { l with launch := false } := by
  unfold State.leaveFollow
  rw [if_pos hst, headAbort_none fun d hd => (hq ⟨d, hd⟩).2, gatesEarly_none fun d hd => (hq ⟨d, hd⟩).1]

/-! ### Coefficient sets and coils (R227) -/

/-- The parts and the registers that the copying of a head's set moves. -/
def setParts : Parts := { regs := true, hlk := true, mem := true, srv := true }
def setRegs (h : Head) : List Nat := accessRegs ++ noteRegs ++ (List.range 192).map (Reg.SRV_G_MEM h)

theorem loadSet_moves (s : State) (h : Head) (b : Bool) : Moves setParts (setRegs h) s (s.loadSet h b) := by
  unfold State.loadSet
  extract_lets a s1 s2
  have h1 : Moves setParts (setRegs h) s s1 := (touchLines_moves _ _ _ _ _).mono rfl (List.subset_append_left _ _)
  have h2 : Moves setParts (setRegs h) s s2 :=
    Moves.forEach _ (fun w hw _ hu => hu.setReg _ rfl (List.mem_append_right _ (List.mem_map_of_mem hw))) h1
  clear_value s2
  exact h2.upd

/-- A register outside the head groups' coefficient memory is no register of a set. -/
theorem not_mem_setRegs {a : Nat} (ha : a ∉ accessRegs ++ noteRegs) (hm : a < 0x101000 ∨ 0x102000 ≤ a) : a ∉ setRegs h := by
  intro hmem
  rcases List.mem_append.mp hmem with hmem | hmem
  · exact ha hmem
  · obtain ⟨w, hw, rfl⟩ := List.mem_map.mp hmem
    have hw' := List.mem_range.mp hw
    have hh := h.isLt
    simp only [Reg.SRV_G_MEM] at hm
    omega

theorem commitSet_moves (s : State) (h : Head) : Moves { srv := true } [] s (s.commitSet h) := Moves.refl.upd

/-- The bit of a group in a set of eleven. -/
theorem twoPow11_getLsbD (k : Group) : (BitVec.ofNat 11 (2 ^ k.val)).getLsbD k.val = true := by revert k; decide

theorem or_group_getLsbD (x : BitVec 11) (k : Group) : (x ||| BitVec.ofNat 11 (2 ^ k.val)).getLsbD k.val = true := by
  rw [BitVec.getLsbD_or, twoPow11_getLsbD, Bool.or_true]

theorem commitSet_commit (s : State) (h : Head) : (s.commitSet h).srv.commit.getLsbD h.val = true := or_group_getLsbD _ (headGroup h)

/-- A coil driven moves its target alone. -/
theorem driveCoil_moves (s : State) (h : Head) (j : Nat) (v : Int) : Moves { regs := true } [Reg.SRV_G_TGT h j] s (s.driveCoil h j v) :=
  Moves.refl.setReg _

/-! ### A group's mode (R210) -/

theorem modeField_fits (k : Group) : (modeField k).lo + (modeField k).width ≤ 32 ∧ (modeField k).width = 2 := by revert k; decide

theorem writeMode_moves (s : State) (k : Group) (m : Nat) : Moves { regs := true } [(modeField k).reg] s (s.writeMode k m) := Moves.refl.wr _

theorem writeMode_rd (s : State) (k : Group) {m : Nat} (hm : m < 4) : (s.writeMode k m).rd (modeField k) = m := by
  obtain ⟨hfit, hw⟩ := modeField_fits k
  exact (State.rd_wr_same s _ _ hfit).trans (by rw [hw]; exact Nat.mod_eq_of_lt hm)

/-! ### A search for focus (R231 stage 2) -/

/-- The parts that a stage which loads a set moves. -/
def stageParts : Parts := { setParts with lsv := true }

/-- A supervisor whose search ramp begins at `r`. -/
def Lsv.ramped (l : Lsv) (r : Int) : Lsv := { l with ramp := r, rising := false, curves := 0, above := false, lastE := 0 }

/-- The registers that the beginning of a search moves. -/
def searchRegs (h : Head) : List Nat :=
  setRegs h ++ [Reg.SRV_G_UOPEN h 1, Reg.SRV_G_UOPEN h 2, Reg.LSV_H_STAT h, (modeField (headGroup h)).reg]

/-- A head has begun a search. -/
structure State.Searches (s : State) (h : Head) (t : State) : Prop where
  sup   : ∃ r, t.sup h = ((s.sup h).ramped r).entered 2
  foc   : t.flag (F.LSV_H_STAT_FOC h) = false
  trk   : t.flag (F.LSV_H_STAT_TRK h) = false
  mode  : t.rd (modeField (headGroup h)) = 1
  moves : Moves stageParts (searchRegs h) s t

theorem headMode_ne_lsvStat : ∀ h : Head, (modeField (headGroup h)).reg ≠ Reg.LSV_H_STAT h := by decide

theorem fsearch_searches (s : State) (h : Head) : s.Searches h (s.fsearch h) := by
  unfold State.fsearch
  extract_lets s1 s2 r s3 s4
  have h1 := loadSet_moves s h false
  have h2 : Moves { regs := true } [Reg.SRV_G_UOPEN h 1, Reg.SRV_G_UOPEN h 2] s1 s2 := (Moves.refl.setReg _).setReg _
  have h3 : Moves { lsv := true } [] s2 s3 := modLsv_moves _ _ _
  have h4 : Moves { regs := true } [Reg.LSV_H_STAT h] s3 s4 := (Moves.refl.put _).put _
  have hw := writeMode_moves s4 (headGroup h) 1
  have hgo := lsvGo_moves (s := s4.writeMode (headGroup h) 1) (h := h) (k := 2) (by decide)
  have hflag (f : RegField) (hf : f.reg = Reg.LSV_H_STAT h) (hlo : f.lo + f.width ≤ 28) :
      ((s4.writeMode (headGroup h) 1).lsvGo h 2).flag f = s4.flag f :=
    (lsvGo_flag (by decide) hlo).trans (hw.flag (by simpa [hf] using (headMode_ne_lsvStat h).symm))
  refine ⟨⟨r, ?_⟩, ?_, ?_, ?_, ?_⟩
  · rw [lsvGo_sup (by decide), sup_of_moves hw, sup_of_moves h4, sup_modLsv_same, sup_of_moves h2, sup_of_moves h1]
    rfl
  · rw [hflag _ rfl (by simp), State.flag_put_disjoint _ _ _ _ (by simp) (by simp), State.flag_put_same _ _ _ (by simp) rfl]
  · rw [hflag _ rfl (by simp), State.flag_put_same _ _ _ (by simp) rfl]
  · rw [hgo.rd (by simpa using headMode_ne_lsvStat h), writeMode_rd _ _ (by decide)]
  · have hset : Moves stageParts (searchRegs h) s s1 := h1.mono rfl (List.subset_append_left _ _)
    exact ((((hset.then_ h2 rfl (by simp [searchRegs])).then_ h3 rfl (List.nil_subset _)).then_ h4 rfl (by simp [searchRegs])).then_ hw rfl
      (by simp [searchRegs])).then_ hgo rfl (by simp [searchRegs])

/-! ### The pull-in (R231 stage 4), and the sled loop's return (R237 step 3) -/

/-- A supervisor with no band-centre crossing that may be the pull-in. -/
def Lsv.uncrossed (l : Lsv) : Lsv := { l with cands := [] }

theorem tpull_moves (s : State) (h : Head) :
    Moves { regs := true, lsv := true } [Reg.SRV_G_TGT h 1, Reg.LSV_H_STAT h] s (s.tpull h) := by
  have hcoil : Moves { regs := true, lsv := true } [Reg.SRV_G_TGT h 1, Reg.LSV_H_STAT h] s (s.driveCoil h 1 0) :=
    (driveCoil_moves s h 1 0).mono rfl (by simp)
  exact (hcoil.then_ (modLsv_moves _ h _) rfl (List.nil_subset _)).then_ (lsvGo_moves (by decide)) rfl (by simp)

theorem tpull_sup (s : State) (h : Head) : (s.tpull h).sup h = (s.sup h).uncrossed.entered 4 := by
  unfold State.tpull
  rw [lsvGo_sup (by decide), sup_modLsv_same, sup_of_moves (driveCoil_moves _ _ _ _)]
  rfl

theorem tpull_sup_ne (s : State) (hg : g ≠ h) : (s.tpull h).sup g = s.sup g := by
  unfold State.tpull
  rw [lsvGo_sup_ne (by decide) hg, sup_modLsv_ne _ _ hg, sup_of_moves (driveCoil_moves _ _ _ _)]

/-- A byte put into the low bits of a word. -/
theorem lowByte_put (w : Word) {n : Nat} (hn : n < 256) : ((w &&& 0xFFFFFF00) ||| BitVec.ofNat 32 n).toNat % 256 = n := by
  have hlow : (w.toNat &&& 0xFFFFFF00) % 2 ^ 8 = 0 := by rw [Nat.and_mod_two_pow]; exact Nat.and_zero _
  have hbyte : n % 2 ^ 32 % 2 ^ 8 = n := by omega
  rw [BitVec.toNat_or, BitVec.toNat_and, BitVec.toNat_ofNat]
  calc (w.toNat &&& 0xFFFFFF00 ||| n % 2 ^ 32) % 2 ^ 8
      = (w.toNat &&& 0xFFFFFF00) % 2 ^ 8 ||| n % 2 ^ 32 % 2 ^ 8 := Nat.or_mod_two_pow
    _ = n := by rw [hlow, hbyte, Nat.zero_or]

/-- The registers that the sled loop's return moves. -/
def sledRegs (h : Head) : List Nat := [Reg.SRV_S_MEM 1 (16 * (headSled h).val), (modeField (sledGroup h)).reg]

/-- The sled loop of a head is CLOSED on the leading head's tracking output. -/
structure State.SledClosed (s : State) (h : Head) (t : State) : Prop where
  mode   : t.rd (modeField (sledGroup h)) = 2
  select : (t.reg (Reg.SRV_S_MEM 1 (16 * (headSled h).val))).toNat % 256 =
    0x14 + (sledHead (headSled h) (s.rd (F.LSV_S_LEAD_LEAD (headSled h)))).val
  commit : t.srv.commit.getLsbD (sledGroup h).val = true
  moves  : Moves { regs := true, srv := true } (sledRegs h) s t

theorem sledRegs_distinct : ∀ h : Head, Reg.SRV_S_MEM 1 (16 * (headSled h).val) ≠ (modeField (sledGroup h)).reg := by decide

theorem sledClose_closes (s : State) (h : Head) : s.SledClosed h (s.sledClose (headSled h)) := by
  unfold State.sledClose
  extract_lets lead a s1 k
  have h1 : Moves { regs := true, srv := true } (sledRegs h) s s1 := Moves.refl.setReg _ rfl List.mem_cons_self
  have hcommit (v : Srv) : Moves { regs := true, srv := true } (sledRegs h) s { s1 with srv := v } := h1.upd
  refine ⟨writeMode_rd _ k (by decide), ?_, or_group_getLsbD _ k, (hcommit _).then_ (writeMode_moves _ k 2) rfl ?_⟩
  · refine (congrArg (·.toNat % 256) ((writeMode_moves _ k 2).regs a ?_)).trans ?_
    · rw [List.mem_singleton]
      exact sledRegs_distinct h
    · show (s1.reg a).toNat % 256 = 0x14 + lead.val
      unfold s1
      rw [State.reg_setReg_same]
      exact lowByte_put _ (by omega)
  · exact List.subset_cons_of_subset _ (List.Subset.refl _)

/-! ### The launch of a band jump (R235 step 1) -/

/-- A supervisor whose jump from `b` has left its frame, with the outputs `u` held. -/
def Lsv.launched (l : Lsv) (u : List Int) (b : Int) : Lsv := { l with ph := .kick, held := u, cross := 0, launch := false, origin := b }

/-- A band jump has been launched. -/
structure State.Launched (s : State) (h : Head) (t : State) : Prop where
  sup    : t.sup h = ((s.sup h).launched (s.outputs h) (s.headBand h)).entered 8
  trk    : t.flag (F.LSV_H_STAT_TRK h) = false
  count  : Counts s t (Reg.LSV_H_JMP_CNT h)
  commit : t.srv.commit.getLsbD h.val = true
  parts  : t = s.splice stageParts t

/-- The registers that a launch moves, beside its count. -/
def launchRegs (h : Head) : List Nat := setRegs h ++ [Reg.SRV_G_TGT h 1, Reg.SRV_G_TGT h 2, Reg.LSV_H_STAT h]

theorem launchRegs_apart : ∀ h : Head, ∀ a ∈ [Reg.ANG_HPOS h, Reg.LSV_H_JMP_CNT h], a ∉ accessRegs ++ noteRegs ∧ a < 0x101000 ∧
    a ∉ [Reg.SRV_G_TGT h 1, Reg.SRV_G_TGT h 2, Reg.LSV_H_STAT h] := by decide

theorem not_mem_launchRegs {a : Nat} (ha : a ∈ [Reg.ANG_HPOS h, Reg.LSV_H_JMP_CNT h]) : a ∉ launchRegs h := by
  obtain ⟨hnote, hmem, hcoil⟩ := launchRegs_apart h a ha
  exact fun hin => (List.mem_append.mp hin).elim (not_mem_setRegs hnote (.inl hmem)) hcoil

theorem jumpLaunch_launches (hq : s.quiet h) (hst : (s.sup h).st = 6) : s.Launched h (s.jumpLaunch h) := by
  unfold State.jumpLaunch
  rw [leaveFollow_quiet hq hst]
  extract_lets s0 v d amp s1 s2 b s3
  have h0 : Moves stageParts (launchRegs h) s s0 := (modLsv_moves s h _).mono rfl (List.nil_subset _)
  have h1 : Moves setParts (launchRegs h) s0 s1 :=
    ((loadSet_moves s0 h false).mono rfl (List.subset_append_left _ _)).then_ (commitSet_moves _ h) rfl (List.nil_subset _)
  have hcoils : Moves { regs := true } [Reg.SRV_G_TGT h 1, Reg.SRV_G_TGT h 2] s1 s2 := (Moves.refl.setReg _).setReg _
  have h2 : Moves stageParts (launchRegs h) s s2 :=
    (h0.then_ h1 rfl (List.Subset.refl _)).then_ hcoils rfl (by simp [launchRegs])
  have hb : b = s.headBand h := headBand_of_moves h2 (not_mem_launchRegs List.mem_cons_self)
  have h3 : Moves stageParts (launchRegs h) s (s3.put (F.LSV_H_STAT_TRK h) false) :=
    (h2.then_ (modLsv_moves s2 h _) rfl (List.nil_subset _)).put _ rfl (by simp [launchRegs])
  have hgo := lsvGo_moves (s := (s3.put (F.LSV_H_STAT_TRK h) false).bump (Reg.LSV_H_JMP_CNT h)) (h := h) (k := 8) (by decide)
  have hcnt : Reg.LSV_H_JMP_CNT h ∉ launchRegs h := not_mem_launchRegs (List.mem_cons_of_mem _ List.mem_cons_self)
  refine ⟨?_, ?_, (Counts.bump.after h3 hcnt).then_ hgo (by simp), ?_, ?_⟩
  · rw [lsvGo_sup (by decide), sup_of_lsv (State.bump_lsv _ _), sup_of_lsv (State.put_lsv _ _ _), sup_modLsv_same, sup_of_moves hcoils,
      sup_of_moves h1, sup_modLsv_same, hb]
    rfl
  · rw [lsvGo_flag (by decide) (by simp), State.flag_bump_ne _ _ (by simp), State.flag_put_same _ _ _ (by simp) rfl]
  · rw [hgo.keep State.srv]
    exact commitSet_commit (s0.loadSet h false) h
  · have hbump : Moves stageParts (Reg.LSV_H_JMP_CNT h :: launchRegs h) s ((s3.put (F.LSV_H_STAT_TRK h) false).bump (Reg.LSV_H_JMP_CNT h)) :=
      (h3.mono rfl (List.subset_cons_self _ _)).bump
    exact (hbump.then_ hgo rfl (by simp [launchRegs])).parts

/-! ### What the stages answer -/

theorem execJumpLaunch_launches {f : Fin 8192} (ho : s.owned = true) (hst : (s.sup h).st = 6) (hl : (s.sup h).launch = true)
    (hf : f.val = s.rd (F.LSV_H_JANG_FRAME h)) (hq : s.quiet h) : Ends (execJumpLaunch h f s) (s.Launched h) := by
  unfold execJumpLaunch
  rw [if_pos ⟨ho, hst, hl, hf⟩]
  exact .next (jumpLaunch_launches hq hst)

/-- A jump whose kick, or whose brake, has lasted its samples. -/
def JPhase.next (p : JPhase) : JPhase := if p = .kick then .wait else .land

theorem execKickEnd_ends (ho : s.owned = true) (hst : (s.sup h).st = 7)
    (hk : ((s.sup h).ph = .kick ∧ s.rd (F.LSV_H_KICK_KN h) ≤ (s.sup h).kn) ∨
      ((s.sup h).ph = .brake ∧ s.rd (F.LSV_H_KICK_BN h) ≤ (s.sup h).kn)) :
    Ends (execKickEnd h s) fun t => (t.sup h).ph = (s.sup h).ph.next ∧
      t.reg (Reg.SRV_G_UOPEN h 0) = BitVec.ofInt 32 ((s.sup h).held.getD 0 0) ∧
      Moves { regs := true, lsv := true } [Reg.SRV_G_UOPEN h 0] s t := by
  have hcoil : Moves { regs := true, lsv := true } [Reg.SRV_G_UOPEN h 0] s
    (s.setInt (Reg.SRV_G_UOPEN h 0) ((s.sup h).held.getD 0 0)) := Moves.refl.setReg _
  unfold execKickEnd
  extract_lets l
  rw [if_pos ⟨ho, hst, hk⟩]
  refine .next ⟨?_, State.reg_setReg_same _ _ _, hcoil.then_ (modLsv_moves _ h _) rfl (List.nil_subset _)⟩
  rw [sup_modLsv_same, sup_of_lsv (State.setInt_lsv _ _ _)]
  rfl

theorem execTrackingKickEnd_ends (ho : s.owned = true) (hst : (s.sup h).st = 8)
    (hk : ((s.sup h).ph = .kick ∧ s.rd (F.LSV_H_TKICK_TN h) ≤ (s.sup h).kn) ∨
      ((s.sup h).ph = .brake ∧ s.rd (F.LSV_H_TKICK_TBN h) ≤ (s.sup h).kn)) :
    Ends (execTrackingKickEnd h s) fun t => (t.sup h).ph = (s.sup h).ph.next ∧
      t.reg (Reg.SRV_G_TGT h 1) = BitVec.ofInt 32 (s.int (Reg.SRV_G_MEM h 17) - (s.sup h).held.getD 1 0) ∧
      Moves { regs := true, lsv := true } [Reg.SRV_G_TGT h 1] s t := by
  have hcoil := (driveCoil_moves s h 1 ((s.sup h).held.getD 1 0)).mono (d := { regs := true, lsv := true }) rfl (List.Subset.refl _)
  unfold execTrackingKickEnd
  extract_lets l
  rw [if_pos ⟨ho, hst, hk⟩]
  refine .next ⟨?_, State.reg_setReg_same _ _ _, hcoil.then_ (modLsv_moves _ h _) rfl (List.nil_subset _)⟩
  rw [sup_modLsv_same, sup_of_moves (driveCoil_moves _ _ _ _)]
  rfl

theorem sumref_apart (h : Head) : Reg.LSV_H_SUMREF h ∉ [Reg.SRV_G_TGT h 1, Reg.LSV_H_STAT h] := by revert h; decide

theorem execFsettleEnd_ends (ho : s.owned = true) (hst : (s.sup h).st = 3) (hn : (s.sup h).n = 1024) (hop : (s.sup h).op ≠ .none) :
    Ends (execFsettleEnd h s) fun t => (t.sup h).st = 4 ∧ t.reg (Reg.LSV_H_SUMREF h) = BitVec.ofInt 32 ((s.sup h).acc / 1024) ∧
      Moves { regs := true, lsv := true } [Reg.LSV_H_SUMREF h, Reg.SRV_G_TGT h 1, Reg.LSV_H_STAT h] s t := by
  have hsum : Moves { regs := true, lsv := true } [Reg.LSV_H_SUMREF h, Reg.SRV_G_TGT h 1, Reg.LSV_H_STAT h] s
    (s.setInt (Reg.LSV_H_SUMREF h) ((s.sup h).acc / 1024)) := Moves.refl.setReg _
  have hpull := tpull_moves (s.setInt (Reg.LSV_H_SUMREF h) ((s.sup h).acc / 1024)) h
  unfold execFsettleEnd
  extract_lets l
  rw [if_pos ⟨ho, hst, hn, hop⟩]
  refine .next ⟨congrArg Lsv.st (tpull_sup _ h), (hpull.regs _ (sumref_apart h)).trans (State.reg_setReg_same _ _ _),
    hsum.then_ hpull rfl (List.subset_cons_self _ _)⟩

/-- A head whose supervisor has failed one attempt more. -/
def State.tried (s : State) (h : Head) : State := s.modLsv h fun l => { l with tries := l.tries + 1 }

/-- R231: with attempts left, a failed ACQUIRE searches again. -/
theorem acquireFailed_searches (ht : (s.sup h).tries + 1 < s.rd (F.LSV_H_FSRCH_TRIES h)) (cls : Nat) :
    s.acquireFailed h cls = (s.tried h).fsearch h := by
  have htries : ((s.tried h).sup h).tries = (s.sup h).tries + 1 := congrArg Lsv.tries (sup_modLsv_same s h _)
  exact if_pos (htries ▸ ht)

theorem stageFailed_acquire (hin : (s.sup h).inner = .acquire) (foc : Bool) :
    s.stageFailed h foc = s.acquireFailed h (if (s.sup h).st = 4 then 0x21 else 0x20) := by
  unfold State.stageFailed
  simp only [hin]

/-- R232: a pull-in that took too long, with attempts left, is followed by a search. -/
theorem execTpullTimeout_searches (ho : s.owned = true) (hst : (s.sup h).st = 4) (hn : 16384 ≤ (s.sup h).smp) (hop : (s.sup h).op ≠ .none)
    (hin : (s.sup h).inner = .acquire) (ht : (s.sup h).tries + 1 < s.rd (F.LSV_H_FSRCH_TRIES h)) :
    Ends (execTpullTimeout h s) ((s.tried h).Searches h) := by
  unfold execTpullTimeout
  rw [if_pos ⟨ho, hst, hn, hop⟩, stageFailed_acquire hin, acquireFailed_searches ht]
  exact .next (fsearch_searches _ h)

/-- A head whose single jump has failed, and whose layer is to be searched for. -/
def State.jumpMissed (s : State) (h : Head) : State := s.modLsv h fun l => { l with search := true, ph := .none }

/-- R233, R234: a single jump that took too long is followed by a search for its layer. -/
theorem execSingleJumpTimeout_searches (ho : s.owned = true) (hst : (s.sup h).st = 7) (hn : 64 * s.rd (F.LSV_H_KICK_TO h) ≤ (s.sup h).smp)
    (hop : (s.sup h).op ≠ .none) (hs : (s.sup h).search = false) :
    Ends (execSingleJumpTimeout h s) ((s.jumpMissed h).Searches h) := by
  unfold execSingleJumpTimeout State.singleJumpFailed
  rw [if_pos ⟨ho, hst, hn, hop⟩, if_neg (by simp [hs])]
  exact .next (fsearch_searches _ h)

theorem otherHead_ne : ∀ h : Head, otherHead h ≠ h := by decide

theorem seeks_of_sup (e : t.sup h = s.sup h) : t.seeks h = s.seeks h := by
  unfold State.seeks
  rw [e]

/-- The registers that the pull-in of a head moves. -/
def pullRegs (h : Head) : List Nat := [Reg.SRV_G_TGT h 1, Reg.LSV_H_STAT h]

theorem pullRegs_apart : ∀ h g : Head, (∀ a ∈ sledRegs h, a ∉ pullRegs g) ∧ Reg.LSV_S_LEAD (headSled h) ∉ pullRegs g := by decide

/-- R237 step 3: the wait after a sled move is over. -/
theorem execSeekSettleEnd_pulls (ho : s.owned = true) (hs : s.seeks h = true) (hb : s.flag (F.SLD_STAT_BUSY (headSled h)) = false)
    (hn : 64 * s.rd (F.LSV_S_SEEKCFG_SETTLE (headSled h)) ≤ (s.sup h).smp) :
    Ends (execSeekSettleEnd h s) fun t => (t.sup h).st = 4 ∧ t.rd (modeField (sledGroup h)) = 2 ∧
      (t.reg (Reg.SRV_S_MEM 1 (16 * (headSled h).val))).toNat % 256 =
        0x14 + (sledHead (headSled h) (s.rd (F.LSV_S_LEAD_LEAD (headSled h)))).val ∧
      t.srv.commit.getLsbD (sledGroup h).val = true ∧
      (s.seeks (otherHead h) = true → (t.sup (otherHead h)).st = 4) ∧
      Moves { regs := true, lsv := true, srv := true } (pullRegs h ++ sledRegs h ++ pullRegs (otherHead h)) s t := by
  have hp : Moves { regs := true, lsv := true, srv := true } (pullRegs h ++ sledRegs h ++ pullRegs (otherHead h)) s (s.tpull h) :=
    (tpull_moves s h).mono rfl (by simp [pullRegs])
  have hc := sledClose_closes (s.tpull h) h
  have hlead : (s.tpull h).rd (F.LSV_S_LEAD_LEAD (headSled h)) = s.rd (F.LSV_S_LEAD_LEAD (headSled h)) :=
    (tpull_moves s h).rd (pullRegs_apart h h).2
  have hself : (((s.tpull h).sledClose (headSled h)).sup h).st = 4 := by
    rw [sup_of_moves hc.moves, tpull_sup]
    rfl
  have hother : ((s.tpull h).sledClose (headSled h)).seeks (otherHead h) = s.seeks (otherHead h) :=
    seeks_of_sup ((sup_of_moves hc.moves _).trans (tpull_sup_ne s (otherHead_ne h)))
  have hall := hp.then_ hc.moves rfl (by simp)
  have hselect := hc.select
  rw [hlead] at hselect
  have hpull := tpull_moves ((s.tpull h).sledClose (headSled h)) (otherHead h)
  have hapart := (pullRegs_apart h (otherHead h)).1
  unfold execSeekSettleEnd
  extract_lets o s1
  rw [if_pos ⟨ho, hs, hb, hn⟩]
  unfold s1 o
  rw [hother]
  by_cases hseek : s.seeks (otherHead h) = true
  · rw [if_pos hseek]
    refine .next ⟨?_, ?_, ?_, ?_, fun _ => congrArg Lsv.st (tpull_sup _ _), hall.then_ hpull rfl (by simp [pullRegs])⟩
    · rw [tpull_sup_ne _ (otherHead_ne h).symm, hself]
    · rw [hpull.rd (hapart _ (by simp [sledRegs])), hc.mode]
    · rw [hpull.regs _ (hapart _ (by simp [sledRegs])), hselect]
    · rw [hpull.keep State.srv, hc.commit]
  · rw [if_neg hseek]
    exact .next ⟨hself, hc.mode, hselect, hc.commit, fun h' => absurd h' hseek, hall⟩

/-- Settles O17: the launch, the ends of kicks and brakes, the end of FSETTLE, the two timeouts and the end of a Gazelle's wait, each once its
samples are over; before that, and without ownership, each command leaves the state. -/
theorem loopStages : Obligations.LoopStages := by
  refine ⟨fun s h f ho hst hl hf hq => ?_, fun s h ho hst hk => ?_, fun s h ho hst hk => ?_, fun s h ho hst hn hop => ?_,
    fun s h ho hst hn hop hin ht => ?_, fun s h ho hst hn hop hs => ?_, fun s h ho hs hb hn => ?_, fun s h _ hph hn => ?_, fun s h hn => ?_,
    fun s h hn => ?_, fun s h hn => ?_, fun s h ho => ?_⟩
  · obtain ⟨t, e, hsup, htrk, hcnt, hcommit, hparts⟩ := execJumpLaunch_launches ho hst hl hf hq
    refine ⟨t, e, ?_, ?_, ?_, ?_, ?_, ?_, htrk, hcnt, hcommit, hparts⟩ <;> rw [hsup] <;> rfl
  · obtain ⟨t, e, hph, hu, hm⟩ := execKickEnd_ends ho hst hk
    exact ⟨t, e, hph, hu, hm.parts, hm.regs⟩
  · obtain ⟨t, e, hph, hu, hm⟩ := execTrackingKickEnd_ends ho hst hk
    exact ⟨t, e, hph, hu, hm.parts, hm.regs⟩
  · obtain ⟨t, e, h4, hsum, hm⟩ := execFsettleEnd_ends ho hst hn hop
    exact ⟨t, e, h4, hsum, (hm.mono (d := { regs := true, hlk := true, lsv := true }) rfl (List.Subset.refl _)).parts,
      fun a ha => hm.regs a fun q => ha (List.mem_append_left _ q)⟩
  · obtain ⟨t, e, ⟨r, hsup⟩, hfoc, htrk, hmode, hm⟩ := execTpullTimeout_searches ho hst hn hop hin ht
    rw [State.tried, sup_modLsv_same] at hsup
    refine ⟨t, e, ?_, ?_, hfoc, htrk, hmode, (((modLsv_moves s h _).mono rfl (List.nil_subset _)).trans hm).parts⟩ <;> rw [hsup] <;> rfl
  · obtain ⟨t, e, ⟨r, hsup⟩, _, _, hmode, hm⟩ := execSingleJumpTimeout_searches ho hst hn hop hs
    rw [State.jumpMissed, sup_modLsv_same] at hsup
    refine ⟨t, e, ?_, ?_, hmode, (((modLsv_moves s h _).mono rfl (List.nil_subset _)).trans hm).parts⟩ <;> rw [hsup] <;> rfl
  · obtain ⟨t, e, h4, hmode, hsel, hcommit, hother, hm⟩ := execSeekSettleEnd_pulls ho hs hb hn
    exact ⟨t, e, h4, hmode, hsel, hcommit, hother, (hm.mono (d := { regs := true, hlk := true, lsv := true, srv := true }) rfl
      (List.Subset.refl _)).parts⟩
  · refine if_neg ?_
    rintro ⟨_, _, ⟨_, hk⟩ | ⟨hk, _⟩⟩
    · exact Nat.not_le.mpr hn hk
    · exact absurd (hph.symm.trans hk) (by decide)
  · exact if_neg fun ⟨_, _, hk, _⟩ => hn.ne hk
  · exact if_neg fun ⟨_, _, hk, _⟩ => Nat.not_le.mpr hn hk
  · exact if_neg fun ⟨_, _, hk, _⟩ => Nat.not_le.mpr hn hk
  · have hno : ¬ s.owned = true := by simp [ho]
    exact ⟨fun _ => if_neg fun hc => hno hc.1, if_neg fun hc => hno hc.1, if_neg fun hc => hno hc.1, if_neg fun hc => hno hc.1,
      if_neg fun hc => hno hc.1, if_neg fun hc => hno hc.1, if_neg fun hc => hno hc.1⟩

end Sys2Proof.Machine
end

section
/-! ## Losses and recoveries -/

namespace Sys2Proof.Machine

set_option Elab.async false

variable {s t : State} {h : Head} {n : Stepper} {c : Parts} {as : List Nat} {foc : Bool}

/-! ### A channel that a supervisor moves (R231, R271) -/

/-- The channel takes a MOVE, and the bridges are on (R249, R271). -/
def State.TakesMove (s : State) (n : Stepper) : Prop := s.sldRefusal n 1 (s.flag (F.SLD_STAT_BUSY n)) = none ∧ s.bridges = true

/-- The registers that it depends on. -/
def takeRegs (n : Stepper) : List Nat := [Reg.SLD_STAT n, Reg.SLD_VMAX n, Reg.SLD_AMAX n, Reg.SLD_JMAX n, Reg.PWR_STAT, Reg.MIR_STAT]

theorem bridges_of_moves (hm : Moves c as s t) (hp : Reg.PWR_STAT ∉ as) (ho : Reg.MIR_STAT ∉ as) : t.bridges = s.bridges := by
  unfold State.bridges State.stageOn State.owned
  rw [hm.flag hp, hm.flag ho]

theorem State.TakesMove.of_moves (hs : s.TakesMove n) (hm : Moves c as s t) (ha : ∀ a ∈ takeRegs n, a ∉ as) : t.TakesMove n := by
  obtain ⟨hrefusal, hbridges⟩ := hs
  refine ⟨?_, (bridges_of_moves hm (ha _ (by simp [takeRegs])) (ha _ (by simp [takeRegs]))).trans hbridges⟩
  unfold State.sldRefusal at hrefusal ⊢
  rw [hm.rd (f := F.SLD_VMAX_V n) (ha _ (by simp [takeRegs])), hm.rd (f := F.SLD_AMAX_A n) (ha _ (by simp [takeRegs])),
    hm.rd (f := F.SLD_JMAX_J n) (ha _ (by simp [takeRegs])), hm.flag (f := F.SLD_STAT_BUSY n) (ha _ (by simp [takeRegs])),
    hm.flag (f := F.SLD_STAT_LOST n) (ha _ (by simp [takeRegs]))]
  exact hrefusal

/-- The parts and the registers that the beginning of a move moves. -/
def moveParts : Parts := { regs := true, hlk := true, sld := true }
def moveRegs (n : Stepper) : List Nat := [Reg.SLD_TGT n, Reg.SLD_STAT n, Reg.SLD_G_MOVE_CNT (sldGroup n)] ++ noteRegs

theorem sldBegin_moves (s : State) (n : Stepper) : Moves moveParts (moveRegs n) s (s.sldBegin n 1) := by
  have hstat : Reg.SLD_STAT n ∈ moveRegs n := by simp [moveRegs]
  unfold State.sldBegin
  extract_lets s1 s2 s3 s4 e s5
  rw [if_neg (by decide), if_neg (by decide), if_pos rfl]
  have h1 : Moves moveParts (moveRegs n) s s1 := (Moves.refl.wr (f := F.SLD_STAT_MODE n) _ rfl hstat).put (f := F.SLD_STAT_ARMED n) _ rfl hstat
  have h2 : Moves moveParts (moveRegs n) s s2 :=
    (h1.put (f := F.SLD_STAT_STOPPED n) _ rfl hstat).then_ (modSld_moves _ n _) rfl (List.nil_subset _)
  have hrise : Moves { regs := true, hlk := true } noteRegs s2 (s2.pmcRise (0x400 + n) (s2.flag (F.SLD_STAT_BUSY n)) true) :=
    Moves.of_noted (as := []) (Noted.refl.pmcRise _ _ _)
  have h3 : Moves moveParts (moveRegs n) s s3 :=
    (h2.then_ hrise rfl (List.subset_append_right _ _)).put (f := F.SLD_STAT_BUSY n) _ rfl hstat
  have h5 : Moves moveParts (moveRegs n) s s5 :=
    (h3.put (f := F.SLD_STAT_ENERG n) _ rfl hstat).then_ (modSld_moves _ n _) rfl (List.nil_subset _)
  exact h5.bump rfl (by simp [moveRegs])

theorem moveRegs_apart : ∀ n : Stepper, Reg.PWR_STAT ∉ moveRegs n ∧ Reg.MIR_STAT ∉ moveRegs n := by decide

theorem supMove_moves (hs : s.TakesMove n) (h : Head) (target : Int) : Moves moveParts (moveRegs n) s (s.supMove n h target) := by
  obtain ⟨hrefusal, hbridges⟩ := hs
  unfold State.supMove
  rw [hrefusal]
  extract_lets s1
  have h1 : Moves moveParts (moveRegs n) s s1 := (Moves.refl.setReg _ rfl (by simp [moveRegs])).trans (sldBegin_moves _ n)
  rw [if_pos ((bridges_of_moves h1 (moveRegs_apart n).1 (moveRegs_apart n).2).trans hbridges)]
  exact h1.then_ (modSld_moves _ n _) rfl (List.nil_subset _)

/-! ### ACQUIRE for a layer (R231 stage 1) -/

/-- The parts and the registers that the beginning of ACQUIRE moves. -/
def acquireParts : Parts := { moveParts with lsv := true }
def acquireRegs (h : Head) : List Nat := [(modeField (corrGroup h)).reg, Reg.LSV_H_STAT h] ++ moveRegs (corrector h)

/-- A supervisor that aims at `layer`. -/
def Lsv.aimed (l : Lsv) (layer corr : Nat) : Lsv := { l with inner := .acquire, aim := layer, tries := 0, search := false, corr := corr }

/-- A head acquires `layer`: its corrector moves. -/
structure State.Acquires (s : State) (h : Head) (layer : Nat) (t : State) : Prop where
  sup   : ∃ m, t.sup h = ((s.sup h).aimed layer m).entered 1
  shown : t.rd (F.LSV_H_STAT_STATE h) = stateShown (s.sup h).op 1 % 16
  flags : ∀ f : RegField, f.reg = Reg.LSV_H_STAT h → f.lo + f.width ≤ 28 → t.flag f = s.flag f
  moves : Moves acquireParts (acquireRegs h) s t

theorem acquireRegs_apart : ∀ h : Head, Reg.LSV_H_STAT h ∉ moveRegs (corrector h) ∧ (modeField (corrGroup h)).reg ≠ Reg.LSV_H_STAT h ∧
    ∀ a ∈ takeRegs (corrector h), a ∉ [(modeField (corrGroup h)).reg, Reg.LSV_H_STAT h] := by decide

theorem acquireStage_acquires (hs : s.TakesMove (corrector h)) (layer : Nat) : s.Acquires h layer (s.acquireStage h layer) := by
  obtain ⟨hmove, hmode, htake⟩ := acquireRegs_apart h
  unfold State.acquireStage State.samove
  extract_lets s1 s2
  have h2 : Moves { lsv := true } [] s s2 := (modLsv_moves s h _).trans (modLsv_moves s1 h _)
  have hw := writeMode_moves s2 (corrGroup h) 3
  have hgo := lsvGo_moves (s := s2.writeMode (corrGroup h) 3) (h := h) (k := 1) (by decide)
  have h3 : Moves acquireParts [(modeField (corrGroup h)).reg, Reg.LSV_H_STAT h] s ((s2.writeMode (corrGroup h) 3).lsvGo h 1) :=
    ((h2.mono rfl (List.nil_subset _)).then_ hw rfl (by simp)).then_ hgo rfl (by simp)
  have hsup : s2.sup h = (s.sup h).aimed layer (s1.rd (modeField (corrGroup h))) := by
    unfold s2 s1
    rw [sup_modLsv_same, sup_modLsv_same]
    rfl
  have hsupw : (s2.writeMode (corrGroup h) 3).sup h = s2.sup h := sup_of_moves hw h
  have hm := supMove_moves (hs.of_moves h3 htake) h (s1.saPos h layer)
  refine ⟨⟨s1.rd (modeField (corrGroup h)), ?_⟩, ?_, fun f hf hlo => ?_, ?_⟩
  · rw [sup_of_moves hm, lsvGo_sup (by decide), hsupw, hsup]
  · rw [hm.rd hmove, lsvGo_shown (by decide), hsupw, hsup]
    rfl
  · rw [hm.flag (hf ▸ hmove), lsvGo_flag (by decide) hlo, hw.flag (by simpa [hf] using hmode.symm), h2.flag List.not_mem_nil]
  · exact (h3.mono rfl (List.subset_append_left _ _)).then_ hm rfl (List.subset_append_right _ _)

/-! ### A loss (R239, R240, R242) -/

/-- The count of losses of focus, or of track. -/
def lossCnt (h : Head) (foc : Bool) : Nat := if foc then Reg.LSV_H_FL_CNT h else Reg.LSV_H_TL_CNT h

/-- The class of a loss of focus, or of track. -/
def lossClass (foc : Bool) : Nat := if foc then 0x20 else 0x21

/-- A loss is counted, and its samples are counted anew. -/
def State.lossCounted (s : State) (h : Head) (foc : Bool) : State := (s.bump (lossCnt h foc)).modLsv h fun l => { l with low := 0, clip := 0 }

theorem lossCounted_moves (s : State) (h : Head) (foc : Bool) : Moves { regs := true, lsv := true } [lossCnt h foc] s (s.lossCounted h foc) :=
  (Moves.refl.bump).then_ (modLsv_moves _ h _) rfl (List.nil_subset _)

theorem lossCounted_sup (s : State) (h : Head) (foc : Bool) : (s.lossCounted h foc).sup h = { s.sup h with low := 0, clip := 0 } := by
  unfold State.lossCounted
  rw [sup_modLsv_same, sup_of_lsv (State.bump_lsv _ _)]

theorem lossCounted_counts (s : State) (h : Head) (foc : Bool) : Counts s (s.lossCounted h foc) (lossCnt h foc) :=
  Counts.bump.then_ (modLsv_moves _ h _) List.not_mem_nil

theorem lossCnt_apart : ∀ (h : Head) (foc : Bool), Reg.MIR_STAT ∉ [lossCnt h foc] ∧ Reg.LSV_H_LOSS h ∉ [lossCnt h foc] ∧
    Reg.LSV_H_STAT h ∉ [lossCnt h foc] := by decide

theorem lossCounted_owned (s : State) (h : Head) (foc : Bool) : (s.lossCounted h foc).owned = s.owned :=
  (lossCounted_moves s h foc).flag (lossCnt_apart h foc).1

/-- R242: without ownership a loss is counted, and the slips before it are forgotten. -/
theorem lost_unowned (ho : s.owned = false) (foc : Bool) (k : Nat) (b : Int) :
    s.lost h foc k b = (s.lossCounted h foc).modLsv h fun l => { l with slips := [] } :=
  if_pos (by rw [Bool.not_eq_true']; exact (lossCounted_owned s h foc).trans ho)

/-- What an unowned module makes of a loss. -/
theorem lost_unowned_counts (ho : s.owned = false) (foc : Bool) (k : Nat) (b : Int) :
    Counts s (s.lost h foc k b) (lossCnt h foc) ∧ (s.lost h foc k b).sup h = { s.sup h with low := 0, clip := 0, slips := [] } ∧
      Moves { regs := true, lsv := true } [lossCnt h foc] s (s.lost h foc k b) := by
  rw [lost_unowned ho]
  refine ⟨(lossCounted_counts s h foc).then_ (modLsv_moves _ h _) List.not_mem_nil, ?_,
    (lossCounted_moves s h foc).then_ (modLsv_moves _ h _) rfl (List.nil_subset _)⟩
  rw [sup_modLsv_same, lossCounted_sup]

/-- FOC falls with a loss of focus, and stays with a loss of track. -/
def State.focDropped (s : State) (h : Head) (foc : Bool) : State := if foc then s.put (F.LSV_H_STAT_FOC h) false else s

theorem focDropped_moves (s : State) (h : Head) (foc : Bool) : Moves { regs := true } [Reg.LSV_H_STAT h] s (s.focDropped h foc) :=
  .ite (Moves.refl.put _) .refl

theorem focDropped_foc (s : State) (h : Head) (foc : Bool) :
    (s.focDropped h foc).flag (F.LSV_H_STAT_FOC h) = (!foc && s.flag (F.LSV_H_STAT_FOC h)) := by
  cases foc
  · rfl
  · exact State.flag_put_same _ _ _ (by simp) rfl

/-- A supervisor that begins to recover from a loss to layer `k` and band `b`, with `n` recoveries to run. -/
def Lsv.recovering (l : Lsv) (cls k : Nat) (b : Int) (n : Nat) : Lsv :=
  { l with op := .recover cls, layer := k, band := b, left := n, slips := [] }

/-- A head that has left FOLLOW by a loss. -/
def State.lossTaken (s : State) (h : Head) (foc : Bool) : State :=
  ((s.lossCounted h foc).modLsv h fun l => { l with launch := false }).focDropped h foc

/-- The recovery has been counted, and is about to acquire layer `k`. -/
def State.recoveryBegun (s : State) (h : Head) (foc : Bool) (k : Nat) (b : Int) : State :=
  (((s.lossTaken h foc).modLsv h (·.recovering (lossClass foc) k b (s.rd (F.LSV_H_LOSS_FRETRY h)))).bump (Reg.LSV_H_RCV_CNT h)).put
    (F.LSV_H_STAT_BUSY h) true

/-- R240: a loss in FOLLOW with recoveries left. -/
theorem lost_eq_acquireStage (ho : s.owned = true) (hst : (s.sup h).st = 6) (hq : s.quiet h) (hn : s.rd (F.LSV_H_LOSS_FRETRY h) ≠ 0)
    (foc : Bool) (k : Nat) (b : Int) : s.lost h foc k b = (s.recoveryBegun h foc k b).acquireStage h k := by
  have hown : (!(s.lossCounted h foc).owned) = false := by rw [lossCounted_owned, ho, Bool.not_true]
  have hst' : ((s.lossCounted h foc).sup h).st = 6 := by
    rw [lossCounted_sup]
    exact hst
  have hfretry : ((s.lossCounted h foc).modLsv h fun l => { l with launch := false }).rd (F.LSV_H_LOSS_FRETRY h) =
      s.rd (F.LSV_H_LOSS_FRETRY h) := (lossCounted_moves s h foc).rd (lossCnt_apart h foc).2.1
  have hcounted : (s.bump (if foc then Reg.LSV_H_FL_CNT h else Reg.LSV_H_TL_CNT h)).modLsv h (fun l => { l with low := 0, clip := 0 }) =
      s.lossCounted h foc := rfl
  unfold State.lost
  simp only [hcounted, hown, Bool.false_eq_true, hst', leaveFollow_quiet (s := s.lossCounted h foc) hq hst', hfretry, hn, if_false, if_true]
  rfl

/-- The registers that a loss in FOLLOW moves before its recovery acquires. -/
def lossRegs (h : Head) (foc : Bool) : List Nat := [lossCnt h foc, Reg.LSV_H_STAT h, Reg.LSV_H_RCV_CNT h]

theorem lossRegs_apart : ∀ (h : Head) (foc : Bool), (∀ a ∈ takeRegs (corrector h), a ∉ lossRegs h foc) ∧
    lossCnt h foc ∉ [Reg.LSV_H_STAT h, Reg.LSV_H_RCV_CNT h] ++ acquireRegs h ∧ Reg.LSV_H_RCV_CNT h ∉ [lossCnt h foc, Reg.LSV_H_STAT h] ∧
    Reg.LSV_H_RCV_CNT h ∉ Reg.LSV_H_STAT h :: acquireRegs h := by decide

theorem lossTaken_moves (s : State) (h : Head) (foc : Bool) :
    Moves { regs := true, lsv := true } [Reg.LSV_H_STAT h] (s.lossCounted h foc) (s.lossTaken h foc) :=
  ((modLsv_moves _ h _).mono rfl (List.nil_subset _)).then_ (focDropped_moves _ h foc) rfl (List.Subset.refl _)

theorem lossTaken_foc (s : State) (h : Head) (foc : Bool) :
    (s.lossTaken h foc).flag (F.LSV_H_STAT_FOC h) = (!foc && s.flag (F.LSV_H_STAT_FOC h)) := by
  have hcount : (s.lossCounted h foc).flag (F.LSV_H_STAT_FOC h) = s.flag (F.LSV_H_STAT_FOC h) :=
    (lossCounted_moves s h foc).flag (lossCnt_apart h foc).2.2
  rw [State.lossTaken, focDropped_foc]
  exact congrArg (!foc && ·) hcount

theorem recoveryBegun_sup (s : State) (h : Head) (foc : Bool) (k : Nat) (b : Int) : (s.recoveryBegun h foc k b).sup h =
    ((s.lossTaken h foc).sup h).recovering (lossClass foc) k b (s.rd (F.LSV_H_LOSS_FRETRY h)) := by
  unfold State.recoveryBegun
  rw [sup_of_lsv (State.put_lsv _ _ _), sup_of_lsv (State.bump_lsv _ _), sup_modLsv_same]

theorem recoveryBegun_foc (s : State) (h : Head) (foc : Bool) (k : Nat) (b : Int) :
    (s.recoveryBegun h foc k b).flag (F.LSV_H_STAT_FOC h) = (!foc && s.flag (F.LSV_H_STAT_FOC h)) := by
  unfold State.recoveryBegun
  rw [State.flag_put_disjoint _ _ _ _ (by simp) (by simp), State.flag_bump_ne _ _ (by simp)]
  exact lossTaken_foc s h foc

/-- A head recovers from a loss to layer `k`. -/
structure State.Recovers (s : State) (h : Head) (foc : Bool) (k : Nat) (t : State) : Prop where
  op     : (t.sup h).op = .recover (lossClass foc)
  inner  : (t.sup h).inner = .acquire
  st     : (t.sup h).st = 1
  left   : (t.sup h).left = s.rd (F.LSV_H_LOSS_FRETRY h)
  layer  : (t.sup h).layer = k
  shown  : t.rd (F.LSV_H_STAT_STATE h) = 10
  closed : t.flag (F.LSV_H_STAT_FOC h) = (!foc && s.flag (F.LSV_H_STAT_FOC h))
  busy   : t.flag (F.LSV_H_STAT_BUSY h) = true
  losses : Counts s t (lossCnt h foc)
  recs   : Counts s t (Reg.LSV_H_RCV_CNT h)
  moves  : Moves acquireParts (lossRegs h foc ++ acquireRegs h) s t

/-- R240: a loss in FOLLOW with recoveries left, where the corrector's channel takes its move. -/
theorem lost_recovers (ho : s.owned = true) (hst : (s.sup h).st = 6) (hq : s.quiet h) (hn : s.rd (F.LSV_H_LOSS_FRETRY h) ≠ 0)
    (hs : s.TakesMove (corrector h)) (foc : Bool) (k : Nat) (b : Int) : s.Recovers h foc k (s.lost h foc k b) := by
  obtain ⟨htake, hloss, hrec, hrec'⟩ := lossRegs_apart h foc
  rw [lost_eq_acquireStage ho hst hq hn]
  have hlost : Moves { regs := true, lsv := true } [lossCnt h foc, Reg.LSV_H_STAT h] s (s.lossTaken h foc) :=
    ((lossCounted_moves s h foc).mono rfl (by simp)).then_ (lossTaken_moves s h foc) rfl (by simp)
  have hmod := modLsv_moves (s.lossTaken h foc) h (·.recovering (lossClass foc) k b (s.rd (F.LSV_H_LOSS_FRETRY h)))
  have hleft := hlost.then_ hmod rfl (List.nil_subset _)
  have hbegun : Moves { regs := true, lsv := true } [Reg.LSV_H_STAT h, Reg.LSV_H_RCV_CNT h] (s.lossTaken h foc) (s.recoveryBegun h foc k b) :=
    ((hmod.mono rfl (List.nil_subset _)).bump).put _
  have hall : Moves { regs := true, lsv := true } (lossRegs h foc) s (s.recoveryBegun h foc k b) :=
    (hlost.mono rfl (by simp [lossRegs])).then_ hbegun rfl (by simp [lossRegs])
  have ha := acquireStage_acquires (hs.of_moves hall htake) k
  obtain ⟨m, hsup⟩ := ha.sup
  rw [recoveryBegun_sup] at hsup
  have hafter : Moves acquireParts ([Reg.LSV_H_STAT h, Reg.LSV_H_RCV_CNT h] ++ acquireRegs h) (s.lossCounted h foc)
      ((s.recoveryBegun h foc k b).acquireStage h k) :=
    (((lossTaken_moves s h foc).mono rfl (by simp)).then_ hbegun rfl (List.subset_append_left _ _)).then_ ha.moves rfl
      (List.subset_append_right _ _)
  have hput : Moves acquireParts (Reg.LSV_H_STAT h :: acquireRegs h) (State.bump _ (Reg.LSV_H_RCV_CNT h))
      ((s.recoveryBegun h foc k b).acquireStage h k) :=
    (Moves.refl.put (f := F.LSV_H_STAT_BUSY h) true).then_ ha.moves rfl (List.subset_cons_self _ _)
  refine ⟨congrArg Lsv.op hsup, congrArg Lsv.inner hsup, congrArg Lsv.st hsup, congrArg Lsv.left hsup, congrArg Lsv.layer hsup, ?_,
    (ha.flags _ rfl (by simp)).trans (recoveryBegun_foc s h foc k b),
    (ha.flags _ rfl (by simp)).trans (State.flag_put_same _ _ _ (by simp) rfl), (lossCounted_counts s h foc).then_ hafter hloss,
    (Counts.bump.after hleft hrec).then_ hput hrec', (hall.mono rfl (List.subset_append_left _ _)).then_ ha.moves rfl
      (List.subset_append_right _ _)⟩
  rw [ha.shown, recoveryBegun_sup]
  rfl

/-! ### When a loss is declared (R239, R243) -/

theorem focusGone_iff : s.focusGone h = true ↔
    s.flag (F.LSV_H_STAT_FOC h) = true ∧ s.rd (F.LSV_H_LOSS_FLN h) ≤ (s.sup h).low := by
  rw [State.focusGone, Bool.and_eq_true, decide_eq_true_iff]

theorem focusGone_not (hno : s.flag (F.LSV_H_STAT_FOC h) = false ∨ (s.sup h).low < s.rd (F.LSV_H_LOSS_FLN h)) : s.focusGone h = false := by
  rw [Bool.eq_false_iff, ne_eq, focusGone_iff]
  rintro ⟨hfoc, hlow⟩
  rcases hno with hno | hno
  · exact Bool.false_ne_true (hno.symm.trans hfoc)
  · exact Nat.not_le.mpr hno hlow

theorem execFocusLost_declares (hfoc : s.flag (F.LSV_H_STAT_FOC h) = true) (hlow : s.rd (F.LSV_H_LOSS_FLN h) ≤ (s.sup h).low) :
    execFocusLost h s = .next (s.lostHere h true) := if_pos (focusGone_iff.mpr ⟨hfoc, hlow⟩)

theorem execTrackLost_declares (htrk : s.flag (F.LSV_H_STAT_TRK h) = true) (hclip : 16 * s.rd (F.LSV_H_LOSS_TLN h) ≤ (s.sup h).clip) :
    execTrackLost h s = .next (s.lostHere h (s.focusGone h)) := if_pos ⟨htrk, hclip⟩

/-- R240: what a loss declared in FOLLOW ends in. -/
theorem lostHere_recovers (ho : s.owned = true) (hst : (s.sup h).st = 6) (hq : s.quiet h) (hn : s.rd (F.LSV_H_LOSS_FRETRY h) ≠ 0)
    (hs : s.TakesMove (corrector h)) (foc : Bool) : s.Recovers h foc (s.rd (F.ANG_HPOS_LAYER h)) (s.lostHere h foc) :=
  lost_recovers ho hst hq hn hs foc _ _

/-- Settles O18: in FOLLOW either loss is counted and recovered from, without ownership it is counted alone, focus goes before track, and
before its samples are over no loss is declared. -/
theorem lossesAreRecovered : Obligations.LossesAreRecovered := by
  refine ⟨fun s h ho hfoc hlow hst hq hn hr hb => ?_, fun s h ho htrk hclip hno hst hq hn hr hb => ?_, fun s h hfoc hlow htrk hclip => ?_,
    fun s h ho hfoc hlow => ?_, fun s h ho htrk hclip hno => ?_, fun s h hno => ?_, fun s h hno => ?_⟩
  · have r := lostHere_recovers ho hst hq hn ⟨hr, hb⟩ true
    exact ⟨_, execFocusLost_declares hfoc hlow, r.op, r.inner, r.st, r.left, r.layer, r.shown, r.closed, r.busy, r.losses, r.recs,
      r.moves.parts⟩
  · have r := lostHere_recovers ho hst hq hn ⟨hr, hb⟩ false
    have e := execTrackLost_declares htrk hclip
    rw [focusGone_not hno] at e
    exact ⟨_, e, r.op, r.inner, r.st, r.left, r.layer, r.shown, r.closed, r.busy, r.losses, r.recs, r.moves.parts⟩
  · have e := execTrackLost_declares htrk hclip
    rw [focusGone_iff.mpr ⟨hfoc, hlow⟩] at e
    exact ⟨_, e, execFocusLost_declares hfoc hlow⟩
  · obtain ⟨hcount, hsup, hm⟩ := lost_unowned_counts (h := h) ho true (s.rd (F.ANG_HPOS_LAYER h)) (s.headBand h)
    exact ⟨_, execFocusLost_declares hfoc hlow, hcount, hsup, hm.parts, hm.regs⟩
  · obtain ⟨hcount, hsup, hm⟩ := lost_unowned_counts (h := h) ho false (s.rd (F.ANG_HPOS_LAYER h)) (s.headBand h)
    have e := execTrackLost_declares htrk hclip
    rw [focusGone_not hno] at e
    exact ⟨_, e, hcount, hsup, hm.parts, hm.regs⟩
  · exact if_neg (by simp [focusGone_not hno])
  · refine if_neg ?_
    rintro ⟨htrk, hclip⟩
    rcases hno with hno | hno
    · exact Bool.false_ne_true (hno.symm.trans htrk)
    · exact Nat.not_le.mpr hno hclip

end Sys2Proof.Machine
end

section
/-! ## A STOP of a stopping spindle, and a HOLD that a supervisor awaits -/

namespace Sys2Proof.Machine

set_option Elab.async false

/-- A stopping spindle with its target at 0 while ATSPEED stands; the module has ownership, and its stages are on. -/
def stoppingAtSpeed : State :=
  (((State.reset.put F.MIR_STAT_OWNED true).put F.PWR_STAT_STGEN true).wr F.SPN_STAT_STATE 5).put F.SPN_STAT_ATSPEED true

/-- R258: the target does not change and RUN is not left, so ATSPEED stands. -/
theorem stoppingAtSpeed_stop : (stoppingAtSpeed.spnCommand 2 State.stopRun).flag F.SPN_STAT_ATSPEED = true := by decide +kernel

/-- Refutes O19: a STOP in STOPPING with the target at 0 already neither changes the target nor leaves RUN, the two ways in which ATSPEED
clears (R257, R258); of a state in which ATSPEED stands there, the third clause asks that it be clear. -/
theorem not_spindleCommands : ¬ Obligations.SpindleCommands := by
  rintro ⟨_, _, hstop, _⟩
  obtain ⟨t, hg, _, _, _, _, hclear, _⟩ := hstop stoppingAtSpeed (by decide +kernel) (by decide +kernel)
  have htu : t = stoppingAtSpeed.spnCommand 2 State.stopRun := Host.Outcome.next.inj hg.symm
  rw [htu, stoppingAtSpeed_stop] at hclear
  exact Bool.noConfusion hclear

/-- Head 0's supervisor acquires: its corrector moves, and the supervisor awaits the end of that command. -/
def correctorAwaited : State :=
  ((((State.reset.put F.MIR_STAT_OWNED true).put F.PWR_STAT_STGEN true).put (F.SLD_STAT_BUSY (corrector 0)) true).modSld (corrector 0)
    fun c => { c with owner := some 0 }).modLsv 0 fun l => { l with op := .acquire, inner := .acquire, st := 1 }

/-- R231, R271: the HOLD ends the awaited command, and the supervisor goes on to FSEARCH. -/
theorem correctorAwaited_hold : ((correctorAwaited.sldCommand (corrector 0) 3 false).sup 0).st = 2 := by decide +kernel

/-- Refutes O22: its HOLD clause leaves the loop supervisors as they were, and the model does not: a HOLD that ends a command which a
supervisor awaits is reported to it, and an ACQUIRE goes on with its search (R231, R271). -/
theorem not_stepperCommands : ¬ Obligations.StepperCommands := by
  rintro ⟨_, _, _, _, hhold, _⟩
  obtain ⟨t, hg, _, _, _, ht, _⟩ := hhold correctorAwaited (corrector 0) (by decide +kernel)
  have htu : t = correctorAwaited.sldCommand (corrector 0) 3 false := Host.Outcome.next.inj hg.symm
  have hlsv : t.lsv = correctorAwaited.lsv := (congrArg State.lsv ht).trans rfl
  have hst : (t.sup 0).st = (correctorAwaited.sup 0).st := congrArg (fun v => (v[(0 : Head)]).st) hlsv
  rw [htu, correctorAwaited_hold] at hst
  exact absurd hst (by decide +kernel)

end Sys2Proof.Machine
end

section
/-! ## The spindle's states and the end of its command -/

namespace Sys2Proof.Machine

set_option Elab.async false

variable {s t : State} {k cls : Nat} {f : RegField}

/-! ### Another field of a register -/

/-- The two fields share no bit. -/
abbrev RegField.Apart (f g : RegField) : Prop := f.reg = g.reg → f.lo + f.width ≤ g.lo ∨ g.lo + g.width ≤ f.lo

/-- A write of a field leaves every other field of its register, and every other register. -/
theorem rd_wr_apart (s : State) (f g : RegField) (v : Nat) (hg : g.lo + g.width ≤ 32) (h : g.Apart f) : (s.wr f v).rd g = s.rd g := by
  by_cases e : g.reg = f.reg
  · exact State.rd_wr_disjoint s f g v hg (h e)
  · exact State.rd_wr_ne s f v e

/-! ### Going to a state (R257, R258, R261) -/

theorem modeField_spindle : modeField 4 = ⟨Reg.SRV_S_CTRL 0, 0, 2⟩ := rfl

/-- The state of SPN with the signals that leaving and entering a state clears, before group 4 is switched off. -/
def State.spnEnter (s : State) (k : Nat) : State :=
  let u := s.wr F.SPN_STAT_STATE k
  let v := if k = 5 ∨ k = 6 ∨ k = 7 then u else u.put F.SPN_STAT_ZVB false
  if s.spnState = 4 ∧ k ≠ 4 then v.put F.SPN_STAT_ATSPEED false else v

theorem spnGo_eq (s : State) (k : Nat) :
    s.spnGo k = if s.spnLoops && k ≠ 4 && k ≠ 5 then (s.spnEnter k).writeMode 4 0 else s.spnEnter k := rfl

theorem spnEnter_moves (s : State) (k : Nat) : Moves { regs := true } [Reg.SPN_STAT] s (s.spnEnter k) := by
  unfold State.spnEnter
  extract_lets u v
  have hu : Moves { regs := true } [Reg.SPN_STAT] s u := Moves.refl.wr _
  have hv : Moves { regs := true } [Reg.SPN_STAT] s v := .ite hu (hu.put _)
  exact .ite (hv.put _) hv

/-- A field that no change of state moves. -/
structure SpnKeeps (f : RegField) : Prop where
  fits    : f.lo + f.width ≤ 32
  state   : f.Apart F.SPN_STAT_STATE
  zvb     : f.Apart F.SPN_STAT_ZVB
  atspeed : f.Apart F.SPN_STAT_ATSPEED

theorem spnEnter_rd (hf : SpnKeeps f) : (s.spnEnter k).rd f = s.rd f := by
  unfold State.spnEnter
  extract_lets u v
  have hu : u.rd f = s.rd f := rd_wr_apart _ _ _ _ hf.fits hf.state
  have hv : v.rd f = s.rd f := by
    unfold v
    split
    · exact hu
    · exact (rd_wr_apart _ _ _ _ hf.fits hf.zvb).trans hu
  split
  · exact (rd_wr_apart _ _ _ _ hf.fits hf.atspeed).trans hv
  · exact hv

theorem spnEnter_state (hk : k < 16) : (s.spnEnter k).spnState = k := by
  unfold State.spnEnter
  extract_lets u v
  have hu : u.spnState = k := (State.rd_wr_same _ _ _ (by decide)).trans (Nat.mod_eq_of_lt hk)
  have hv : v.spnState = k := by
    unfold v
    split
    · exact hu
    · exact (State.rd_put_disjoint _ F.SPN_STAT_ZVB F.SPN_STAT_STATE _ (by decide) (by decide)).trans hu
  split
  · exact (State.rd_put_disjoint _ F.SPN_STAT_ATSPEED F.SPN_STAT_STATE _ (by decide) (by decide)).trans hv
  · exact hv

/-- Between states without a speed loop, and into RUN and STOPPING, group 4 keeps its mode. -/
theorem spnGo_unlooped (h : s.spnLoops = false) (k : Nat) : s.spnGo k = s.spnEnter k := by
  rw [spnGo_eq, if_neg (by simp [h])]

theorem spnGo_moves (s : State) (k : Nat) : Moves { regs := true } [Reg.SPN_STAT, Reg.SRV_S_CTRL 0] s (s.spnGo k) := by
  have he : Moves { regs := true } [Reg.SPN_STAT, Reg.SRV_S_CTRL 0] s (s.spnEnter k) := (spnEnter_moves s k).mono rfl (by simp)
  rw [spnGo_eq]
  exact .ite (he.then_ (writeMode_moves _ 4 0) rfl (by simp [modeField_spindle])) he

theorem spnGo_rd_stat (hr : f.reg = Reg.SPN_STAT) : (s.spnGo k).rd f = (s.spnEnter k).rd f := by
  rw [spnGo_eq]
  split
  · exact (writeMode_moves _ 4 0).rd (by rw [hr, modeField_spindle]; decide)
  · rfl

theorem spnGo_state (hk : k < 16) : (s.spnGo k).spnState = k := (spnGo_rd_stat rfl).trans (spnEnter_state hk)

theorem spnGo_flag (hr : f.reg = Reg.SPN_STAT) (hf : SpnKeeps f) : (s.spnGo k).flag f = s.flag f :=
  congrArg (· != 0) ((spnGo_rd_stat hr).trans (spnEnter_rd hf))

/-! ### The end of a command (R256) -/

/-- The registers that the end of SPN's command moves. -/
def spnEndRegs : List Nat := Reg.SPN_STAT :: eventRegs Ev.spnDone

/-- What the end of a command shows: BUSY, DONE and the error class. -/
def State.spnShown (s : State) (cls : Nat) : State :=
  ((s.put F.SPN_STAT_BUSY false).put F.SPN_STAT_DONE true).wr F.SPN_STAT_ERRCLS cls

theorem spnShown_moves (s : State) (cls : Nat) : Moves { regs := true } [Reg.SPN_STAT] s (s.spnShown cls) :=
  ((Moves.refl.put _).put _).wr _

theorem spnEnd_idle (h : s.spn.cmd = 0) (cls : Nat) : s.spnEnd cls = s := if_pos h

theorem spnEnd_busy (h : s.spn.cmd ≠ 0) (cls : Nat) :
    s.spnEnd cls = ((s.modSpn fun p => { p with cmd := 0 }).spnShown cls).event Ev.spnDone := if_neg h

theorem spnEnd_moves (s : State) (cls : Nat) : Moves { regs := true, spn := true } spnEndRegs s (s.spnEnd cls) := by
  by_cases h : s.spn.cmd = 0
  · rw [spnEnd_idle h]
    exact .refl
  · rw [spnEnd_busy h]
    have hm : Moves { regs := true, spn := true } spnEndRegs s (s.modSpn fun p => { p with cmd := 0 }) :=
      (modSpn_moves s _).mono rfl (List.nil_subset _)
    exact (hm.then_ (spnShown_moves _ cls) rfl (by simp [spnEndRegs])).then_ (event_moves _ _) rfl (List.subset_cons_self _ _)

theorem spnEnd_spn (s : State) (cls : Nat) : (s.spnEnd cls).spn = { s.spn with cmd := 0 } := by
  by_cases h : s.spn.cmd = 0
  · rw [spnEnd_idle h, ← h]
  · rw [spnEnd_busy h]
    exact ((event_moves _ _).keep State.spn).trans ((spnShown_moves _ cls).keep State.spn)

/-- The other fields stand. -/
theorem spnEnd_rd (hr : f.reg = Reg.SPN_STAT) (hfit : f.lo + f.width ≤ 32) (hplace : f.lo + f.width ≤ 16 ∨ 26 ≤ f.lo) :
    (s.spnEnd cls).rd f = s.rd f := by
  by_cases h : s.spn.cmd = 0
  · rw [spnEnd_idle h]
  · rw [spnEnd_busy h, (event_moves _ _).rd (by rw [hr]; decide)]
    unfold State.spnShown State.put
    rw [rd_wr_apart _ _ _ _ hfit (fun _ => by simp; omega), rd_wr_apart _ _ _ _ hfit (fun _ => by simp; omega),
      rd_wr_apart _ _ _ _ hfit (fun _ => by simp; omega)]
    rfl

theorem spnEnd_flag (hr : f.reg = Reg.SPN_STAT) (hfit : f.lo + f.width ≤ 32) (hplace : f.lo + f.width ≤ 16 ∨ 26 ≤ f.lo) :
    (s.spnEnd cls).flag f = s.flag f := congrArg (· != 0) (spnEnd_rd hr hfit hplace)

/-- A command in progress ends with DONE, its class and its event. -/
structure State.SpnDone (t : State) (cls : Nat) : Prop where
  done  : t.flag F.SPN_STAT_DONE = true
  cls   : t.rd F.SPN_STAT_ERRCLS = cls
  event : t.evPending Ev.spnDone = true

theorem spnEnd_done (h : s.spn.cmd ≠ 0) (hc : cls < 256) : (s.spnEnd cls).SpnDone cls := by
  rw [spnEnd_busy h]
  refine ⟨?_, ?_, event_pending _ (by decide)⟩
  · rw [(event_moves _ _).flag (by decide)]
    exact congrArg (· != 0) ((rd_wr_apart _ F.SPN_STAT_ERRCLS F.SPN_STAT_DONE _ (by decide) (by decide)).trans
      (State.rd_wr_same _ _ _ (by decide)))
  · rw [(event_moves _ _).rd (by decide)]
    exact (State.rd_wr_same _ _ _ (by decide)).trans (Nat.mod_eq_of_lt hc)

end Sys2Proof.Machine
end

section
/-! ## The spindle's faults -/

namespace Sys2Proof.Machine

set_option Elab.async false

variable {s t : State} {cause : SpnCause} {tr : List Word} {k cls : Nat} {f : RegField}

/-! ### An error that ends no task (R339) -/

/-- The counts of errors by class. -/
def errRegs : List Nat := (List.range 24).map Reg.TSK_EC_CNT

theorem countErr_moves (s : State) (cls : Nat) : Moves { regs := true } errRegs s (s.countErr cls) := by
  unfold State.countErr
  split
  next k hk =>
    obtain ⟨hlt, _⟩ := List.idxOf?_eq_some_iff.mp hk
    exact Moves.refl.bump rfl (List.mem_map.mpr ⟨k, List.mem_range.mpr hlt, rfl⟩)
  next => exact .refl

theorem taskError_idle (h : s.taskRunning = false) (e : Option Nat) (d : Nat) : s.taskError cls e d = s.countErr cls := by
  have hrun : (s.countErr cls).taskRunning = false :=
    (congrArg (fun n => decide (n = 1)) ((countErr_moves s cls).rd (f := F.TSK_STATE_STATE) (by decide))).trans h
  unfold State.taskError
  extract_lets u
  rw [if_neg (by unfold State.errEnds; rw [show u.taskRunning = false from hrun]; simp)]

/-! ### The trace (R266) -/

/-- Entry `k` of the trace freezes. -/
def State.traceEntry (s : State) (tr : List Word) (k : Nat) : State :=
  match tr[k]? with
  | some w => s.setReg (Reg.SPN_TRACE k) w
  | none => s.draw.2.setReg (Reg.SPN_TRACE k) s.draw.1

theorem traceFreeze_eq (s : State) (tr : List Word) : s.traceFreeze tr = forEach (List.range 32) (fun k s => s.traceEntry tr k) s := rfl

def traceRegs : List Nat := (List.range 32).map Reg.SPN_TRACE

theorem traceEntry_moves (hk : k < 32) : Moves { regs := true, free := true } traceRegs s (s.traceEntry tr k) := by
  have hmem : Reg.SPN_TRACE k ∈ traceRegs := List.mem_map.mpr ⟨k, List.mem_range.mpr hk, rfl⟩
  have hdraw : Moves { regs := true, free := true } traceRegs s s.draw.2 := Moves.refl.upd
  unfold State.traceEntry
  split
  · exact Moves.refl.setReg _ rfl hmem
  · exact hdraw.setReg _ rfl hmem

theorem traceFreeze_moves (s : State) (tr : List Word) : Moves { regs := true, free := true } traceRegs s (s.traceFreeze tr) := by
  rw [traceFreeze_eq]
  exact Moves.forEach _ (fun k hk _ h => h.trans (traceEntry_moves (List.mem_range.mp hk))) .refl

theorem traceEntry_given (hk : k < tr.length) : s.traceEntry tr k = s.setReg (Reg.SPN_TRACE k) (tr.getD k 0) := by
  simp [State.traceEntry, hk]

/-- A whole trace draws no free value. -/
theorem traceFreeze_free (h : tr.length = 32) : (s.traceFreeze tr).free = s.free := by
  have hstep : ∀ l : List Nat, (∀ k ∈ l, k < 32) → ∀ u : State, (forEach l (fun k s => s.traceEntry tr k) u).free = u.free := by
    intro l
    induction l with
    | nil => exact fun _ _ => rfl
    | cons k l ih =>
      intro hl u
      refine (ih (fun j hj => hl j (List.mem_cons_of_mem _ hj)) (u.traceEntry tr k)).trans ?_
      rw [traceEntry_given (h ▸ hl k List.mem_cons_self)]
      rfl
  rw [traceFreeze_eq]
  exact hstep _ (fun _ hk => List.mem_range.mp hk) s

theorem traceFreeze_reg (h : tr.length = 32) (hk : k < 32) : (s.traceFreeze tr).reg (Reg.SPN_TRACE k) = tr.getD k 0 := by
  rw [traceFreeze_eq]
  refine forEach_reaches (P := fun t => t.reg (Reg.SPN_TRACE k) = tr.getD k 0) (f := fun k s => s.traceEntry tr k) (x := k)
    (fun t => ?_) (fun j t ht => ?_) (List.mem_range.mpr hk) s
  · show (t.traceEntry tr k).reg _ = _
    rw [traceEntry_given (h ▸ hk), State.reg_setReg_same]
  · show (t.traceEntry tr j).reg _ = _
    by_cases hj : j = k
    · rw [hj, traceEntry_given (h ▸ hk), State.reg_setReg_same]
    · have hne : Reg.SPN_TRACE k ≠ Reg.SPN_TRACE j := by simp only [Reg.SPN_TRACE]; omega
      unfold State.traceEntry
      split
      · rw [State.reg_setReg_ne _ hne, ht]
      · rw [State.reg_setReg_ne _ hne]
        exact ht

/-! ### A fault that opens the bridge (R266) -/

/-- The registers that a spindle fault moves. -/
def faultRegs : List Nat :=
  [Reg.SPN_STAT, Reg.SRV_S_CTRL 0, Reg.SPN_FLT_CNT, Reg.SPN_OVC_CNT] ++ traceRegs ++ eventRegs Ev.spnDone ++ errRegs

/-- The cause is set and the fault counted. -/
def State.spnCaused (s : State) (cause : SpnCause) : State :=
  let u := (s.put (causeField cause) true).bump Reg.SPN_FLT_CNT
  if cause = .ovc then u.bump Reg.SPN_OVC_CNT else u

/-- SPN once a fault has opened the bridge. -/
def Spn.opened (p : Spn) : Spn := { p with again := false, drive := 0, zvBrake := false }

theorem spnFails_open (he : cause ≠ .estl) (hd : cause ≠ .spde) :
    s.spnFails cause tr = (((((s.spnCaused cause).traceFreeze tr).spnGo 9).modSpn Spn.opened).put F.SPN_STAT_ZVB false).spnEnd 0x23 := by
  simp only [State.spnFails, he, hd, or_self, false_and, decide_false, Bool.false_and, if_false]
  rfl

theorem causeField_spn (cause : SpnCause) :
    (causeField cause).reg = Reg.SPN_STAT ∧ (causeField cause).lo < 7 ∧ (causeField cause).width = 1 := by
  cases cause <;> decide

theorem causeField_keeps (cause : SpnCause) : SpnKeeps (causeField cause) := by
  cases cause <;> exact ⟨by decide, by decide, by decide, by decide⟩

theorem spnCaused_moves (s : State) (cause : SpnCause) :
    Moves { regs := true } [Reg.SPN_STAT, Reg.SPN_FLT_CNT, Reg.SPN_OVC_CNT] s (s.spnCaused cause) := by
  have hu : Moves { regs := true } [Reg.SPN_STAT, Reg.SPN_FLT_CNT, Reg.SPN_OVC_CNT] s
      ((s.put (causeField cause) true).bump Reg.SPN_FLT_CNT) :=
    (Moves.refl.put _ rfl (by simp [(causeField_spn cause).1])).bump
  exact .ite hu.bump hu

theorem spnCaused_flag (s : State) (cause : SpnCause) : (s.spnCaused cause).flag (causeField cause) = true := by
  obtain ⟨hreg, hlo, hw⟩ := causeField_spn cause
  unfold State.spnCaused
  extract_lets u
  have hu : u.flag (causeField cause) = true :=
    (State.flag_bump_ne _ _ (by rw [hreg]; decide)).trans (State.flag_put_same _ _ _ (by omega) hw)
  split
  · exact (State.flag_bump_ne _ _ (by rw [hreg]; decide)).trans hu
  · exact hu

theorem spnCaused_counts (s : State) (cause : SpnCause) : Counts s (s.spnCaused cause) Reg.SPN_FLT_CNT := by
  have hput : Moves { regs := true } [Reg.SPN_STAT] s (s.put (causeField cause) true) :=
    Moves.refl.put _ rfl (by simp [(causeField_spn cause).1])
  have hu : Counts s ((s.put (causeField cause) true).bump Reg.SPN_FLT_CNT) Reg.SPN_FLT_CNT := Counts.bump.after hput (by decide)
  unfold State.spnCaused
  extract_lets u
  split
  · exact hu.then_ (c := { regs := true }) (as := [Reg.SPN_OVC_CNT]) Moves.refl.bump (by decide)
  · exact hu

/-- What a fault that opens the bridge makes of the spindle. -/
structure State.SpnFaulted (s : State) (cause : SpnCause) (tr : List Word) (t : State) : Prop where
  state  : t.spnState = 9
  cause  : t.flag (causeField cause) = true
  cmd    : t.spn.cmd = 0
  counts : Counts s t Reg.SPN_FLT_CNT
  done   : s.spn.cmd ≠ 0 → t.SpnDone 0x23
  trace  : tr.length = 32 → ∀ k, k < 32 → t.reg (Reg.SPN_TRACE k) = tr.getD k 0
  free   : tr.length = 32 → t.free = s.free
  moves  : Moves { regs := true, spn := true, free := true } faultRegs s t

theorem trace_apart : ∀ k < 32, Reg.SPN_TRACE k ∉ spnEndRegs ∧ Reg.SPN_TRACE k ∉ [Reg.SPN_STAT, Reg.SRV_S_CTRL 0] ∧
    Reg.SPN_TRACE k ∉ errRegs := by decide

theorem fltCnt_apart : Reg.SPN_FLT_CNT ∉ spnEndRegs ∧ Reg.SPN_FLT_CNT ∉ [Reg.SPN_STAT, Reg.SRV_S_CTRL 0] ∧ Reg.SPN_FLT_CNT ∉ traceRegs ∧
    Reg.SPN_FLT_CNT ∉ errRegs := by decide

theorem spnFails_faulted (he : cause ≠ .estl) (hd : cause ≠ .spde) : s.SpnFaulted cause tr (s.spnFails cause tr) := by
  rw [spnFails_open he hd]
  obtain ⟨hreg, hlo, hw⟩ := causeField_spn cause
  have hcaused := spnCaused_moves s cause
  have htrace := traceFreeze_moves (s.spnCaused cause) tr
  have hfree (h : tr.length = 32) : ((s.spnCaused cause).traceFreeze tr).free = s.free :=
    (traceFreeze_free h).trans (hcaused.keep State.free)
  have hentry (h : tr.length = 32) {k : Nat} (hk : k < 32) := traceFreeze_reg (s := s.spnCaused cause) h hk
  have hcount : Counts s ((s.spnCaused cause).traceFreeze tr) Reg.SPN_FLT_CNT := (spnCaused_counts s cause).then_ htrace fltCnt_apart.2.2.1
  have hflag : ((s.spnCaused cause).traceFreeze tr).flag (causeField cause) = true :=
    (htrace.flag (by rw [hreg]; decide)).trans (spnCaused_flag s cause)
  have hspn : ((s.spnCaused cause).traceFreeze tr).spn = s.spn := (htrace.keep State.spn).trans (hcaused.keep State.spn)
  have hm : Moves { regs := true, spn := true, free := true } faultRegs s ((s.spnCaused cause).traceFreeze tr) :=
    (hcaused.mono rfl (by decide)).then_ htrace rfl (by decide)
  generalize (s.spnCaused cause).traceFreeze tr = u at *
  have hgo := spnGo_moves u 9
  have hopen : Moves { regs := true, spn := true } [Reg.SPN_STAT, Reg.SRV_S_CTRL 0] u
      (((u.spnGo 9).modSpn Spn.opened).put F.SPN_STAT_ZVB false) :=
    ((hgo.mono rfl (List.Subset.refl _)).then_ (modSpn_moves _ _) rfl (List.nil_subset _)).put _
  have hstate : (((u.spnGo 9).modSpn Spn.opened).put F.SPN_STAT_ZVB false).spnState = 9 :=
    (State.rd_put_disjoint _ F.SPN_STAT_ZVB F.SPN_STAT_STATE _ (by decide) (by decide)).trans (spnGo_state (by decide))
  have hset : (((u.spnGo 9).modSpn Spn.opened).put F.SPN_STAT_ZVB false).flag (causeField cause) = true := by
    have hk := causeField_keeps cause
    exact (congrArg (· != 0) (rd_wr_apart _ F.SPN_STAT_ZVB _ _ hk.fits hk.zvb)).trans ((spnGo_flag hreg hk).trans hflag)
  have hcmd : (((u.spnGo 9).modSpn Spn.opened).put F.SPN_STAT_ZVB false).spn.cmd = s.spn.cmd :=
    (congrArg Spn.cmd (hgo.keep State.spn)).trans (congrArg Spn.cmd hspn)
  generalize ((u.spnGo 9).modSpn Spn.opened).put F.SPN_STAT_ZVB false = v at *
  have hend := spnEnd_moves v 0x23
  refine ⟨?_, ?_, ?_, ?_, fun h => spnEnd_done (hcmd ▸ h) (by decide), fun h k hk => ?_, fun h => ?_, ?_⟩
  · exact (spnEnd_rd rfl (by decide) (by decide)).trans hstate
  · exact (spnEnd_flag hreg (by omega) (by omega)).trans hset
  · rw [spnEnd_spn]
  · exact (hcount.then_ hopen fltCnt_apart.2.1).then_ hend fltCnt_apart.1
  · rw [hend.regs _ (trace_apart k hk).1, hopen.regs _ (trace_apart k hk).2.1, hentry h hk]
  · exact (hend.keep State.free).trans ((hopen.keep State.free).trans (hfree h))
  · exact (hm.then_ hopen rfl (by decide)).then_ hend rfl (by decide)

/-- R266: a fault outside a task. -/
theorem spnFault_faulted (hf : s.spnFaultable cause = true) (ht : s.taskRunning = false) (he : cause ≠ .estl) (hd : cause ≠ .spde) :
    s.SpnFaulted cause tr (s.spnFault cause tr) := by
  have h := spnFails_faulted (s := s) (tr := tr) he hd
  have hrun : (s.spnFails cause tr).taskRunning = false :=
    (congrArg (fun n => decide (n = 1)) (h.moves.rd (f := F.TSK_STATE_STATE) (by decide))).trans ht
  have e : s.spnFault cause tr = (s.spnFails cause tr).countErr 0x23 := (if_pos hf).trans (taskError_idle hrun _ _)
  have hc := countErr_moves (s.spnFails cause tr) 0x23
  rw [e]
  refine ⟨(hc.rd (by decide)).trans h.state, ?_, (hc.keep fun s => s.spn.cmd).trans h.cmd, h.counts.then_ hc fltCnt_apart.2.2.2,
    fun hb => ?_, fun hl k hk => ?_, fun hl => (hc.keep State.free).trans (h.free hl), h.moves.then_ hc rfl (by decide)⟩
  · exact (hc.flag (by rw [(causeField_spn cause).1]; decide)).trans h.cause
  · obtain ⟨h1, h2, h3⟩ := h.done hb
    exact ⟨(hc.flag (by decide)).trans h1, (hc.rd (by decide)).trans h2, (evPending_of_moves hc (by decide) (by decide)).trans h3⟩
  · exact (hc.regs _ (trace_apart k hk).2.2).trans (h.trace hl k hk)

end Sys2Proof.Machine
end

section
/-! ## What time and the bus voltage bring to the spindle -/

namespace Sys2Proof.Machine

set_option Elab.async false

variable {s t : State} {k cls mv : Nat} {f : RegField}

theorem onlyRegs_of_moves {as : List Nat} (h : Moves { regs := true } as s t) : OnlyRegs as s t := ⟨h.parts, h.regs⟩

theorem spnLoops_of_state (h : s.spnState = k) (h4 : k ≠ 4) (h5 : k ≠ 5) : s.spnLoops = false := by
  simp [State.spnLoops, h, h4, h5]

/-- A change between states without a speed loop moves SPN_STAT alone. -/
theorem spnGo_moves_stat (h : s.spnLoops = false) (k : Nat) : Moves { regs := true } [Reg.SPN_STAT] s (s.spnGo k) :=
  spnGo_unlooped h k ▸ spnEnter_moves s k

/-! ### The start (R257) -/

theorem execAlignEnd_runs (h : s.spnState = 2) : execAlignEnd s = .next (s.spnGo 3) := congrArg Host.Outcome.next (if_pos h)

/-- R257, R258: RUN begins with group 4 CLOSED and the reference at the speed. -/
theorem spnRun_runs (h : s.spnLoops = false) : s.spnRun.spnState = 4 ∧ s.spnRun.rd (modeField 4) = 2 ∧
    s.spnRun.reg Reg.SPN_REF = s.reg Reg.SPN_SPEED ∧
    Moves { regs := true, spn := true } [Reg.SPN_STAT, Reg.SRV_S_CTRL 0, Reg.SPN_REF] s s.spnRun := by
  have hgo := spnGo_moves_stat h 4
  have hmode : Moves { regs := true } [Reg.SRV_S_CTRL 0] (s.spnGo 4) ((s.spnGo 4).writeMode 4 2) := by
    simpa only [modeField_spindle] using writeMode_moves (s.spnGo 4) 4 2
  have hrd : ((s.spnGo 4).writeMode 4 2).rd (modeField 4) = 2 := writeMode_rd _ 4 (by decide)
  have hst : ((s.spnGo 4).writeMode 4 2).spnState = 4 := (hmode.rd (by decide)).trans (spnGo_state (by decide))
  have hm : Moves { regs := true, spn := true } [Reg.SPN_STAT, Reg.SRV_S_CTRL 0, Reg.SPN_REF] s ((s.spnGo 4).writeMode 4 2) :=
    (hgo.mono rfl (by simp)).then_ hmode rfl (by simp)
  unfold State.spnRun
  generalize (s.spnGo 4).writeMode 4 2 = u at *
  refine ⟨?_, ?_, State.reg_setReg_same _ _ _, (hm.setReg _).then_ (modSpn_moves _ _) rfl (List.nil_subset _)⟩
  · exact (State.rd_setReg_ne u Reg.SPN_REF _ (g := F.SPN_STAT_STATE) (by decide)).trans hst
  · exact (State.rd_setReg_ne u Reg.SPN_REF _ (g := modeField 4) (by rw [modeField_spindle]; decide)).trans hrd

theorem execHandoff_runs (h : s.spnState = 3) :
    execHandoff s = .next (s.spnRun.modSpn fun p => { p with iq := s.rd F.SPN_IF_IFI * 65536, soft := true }) := if_pos h

theorem execHandoffTimeout_retries (h : s.spnState = 3) (hn : s.spn.starts < 3) :
    execHandoffTimeout s = .next ((s.spnGo 1).modSpn fun p => { p with again := decide (p.cmd = 1) }) := by
  unfold execHandoffTimeout
  rw [if_pos h, if_neg (by omega)]

theorem execHandoffTimeout_faults (h : s.spnState = 3) (hn : 3 ≤ s.spn.starts) :
    execHandoffTimeout s = .next (s.spnFault .startf []) := by
  unfold execHandoffTimeout
  rw [if_pos h, if_pos hn]

theorem spnEndRegs_subset : spnEndRegs ⊆ spnRegs := by decide

/-- R257: at speed, a SPIN ends. -/
theorem execAtspeed_ends (h : s.spnState = 4) (hc : s.spn.cmd = 1) :
    Ends (execAtspeed s) fun t => t.flag F.SPN_STAT_ATSPEED = true ∧ t.spn.cmd = 0 ∧ t.SpnDone 0 ∧ t.spnState = 4 ∧
      Moves { regs := true, hlk := true, spn := true } (spnRegs ++ noteRegs) s t := by
  have hrise : Moves { regs := true, hlk := true } noteRegs s (s.pmcRise 0x410 (s.flag F.SPN_STAT_ATSPEED) true) :=
    Moves.of_noted (as := []) (Noted.refl.pmcRise _ _ _)
  unfold execAtspeed
  rw [if_pos h]
  generalize s.pmcRise 0x410 (s.flag F.SPN_STAT_ATSPEED) true = u at *
  extract_lets v
  have hv : Moves { regs := true, hlk := true, spn := true } (spnRegs ++ noteRegs) s v :=
    (hrise.mono rfl (List.subset_append_right _ _)).put _ rfl (by simp [spnRegs])
  have hcv : v.spn.cmd = 1 := (congrArg Spn.cmd ((State.put_spn u _ _).trans (hrise.keep State.spn))).trans hc
  have hst : v.spnState = 4 :=
    (State.rd_put_disjoint u F.SPN_STAT_ATSPEED F.SPN_STAT_STATE _ (by decide) (by decide)).trans ((hrise.rd (by decide)).trans h)
  have hat : v.flag F.SPN_STAT_ATSPEED = true := State.flag_put_same _ _ _ (by decide) rfl
  rw [if_pos hcv]
  exact .next ⟨(spnEnd_flag rfl (by decide) (by decide)).trans hat, by rw [spnEnd_spn], spnEnd_done (by omega) (by decide),
    (spnEnd_rd rfl (by decide) (by decide)).trans hst, hv.then_ (spnEnd_moves v 0) rfl
      (List.Subset.trans spnEndRegs_subset (List.subset_append_left _ _))⟩

/-! ### Standstill (R254, R259) -/

/-- R254: the end of a COAST. -/
theorem execStandstill_ends (h : s.spnState = 1) (ha : s.spn.again = false) :
    Ends (execStandstill s) fun t => t.spnState = 0 ∧ t.spn.still = true ∧ Moves { regs := true, spn := true } spnRegs s t := by
  unfold execStandstill
  extract_lets k u
  rw [if_pos (.inr h)]
  have hgo := spnGo_moves_stat (spnLoops_of_state h (by decide) (by decide)) 0
  have hu : Moves { regs := true, spn := true } spnRegs s u := (hgo.mono rfl (by decide)).then_ (modSpn_moves _ _) rfl (List.nil_subset _)
  have hst : u.spnState = 0 := spnGo_state (by decide)
  have hau : u.spn.again = false := (hgo.keep fun s => s.spn.again).trans ha
  rw [if_neg (by simp [hau])]
  split
  · exact .next ⟨(spnEnd_rd rfl (by decide) (by decide)).trans hst, by rw [spnEnd_spn]; rfl,
      hu.then_ (spnEnd_moves u 0) rfl spnEndRegs_subset⟩
  · exact .next ⟨hst, rfl, hu⟩

/-- R259: the hold of the driven vector ends with the bridge open. -/
theorem execStopHoldEnd_ends (h : s.spnState = 7) (hd : s.spn.drive ≤ 1) (h0 : s.spn.driven = 0) (hc : s.spnCauses = 0) :
    Ends (execStopHoldEnd s) fun t => t.spnState = 0 ∧ t.spn.still = true ∧ t.spn.cmd = 0 ∧
      Moves { regs := true, spn := true } spnRegs s t := by
  unfold execStopHoldEnd
  rw [if_pos ⟨h, hd, h0⟩, if_pos hc]
  extract_lets u
  have hgo := spnGo_moves_stat (spnLoops_of_state h (by decide) (by decide)) 0
  have hu : Moves { regs := true, spn := true } spnRegs s u := (hgo.mono rfl (by decide)).then_ (modSpn_moves _ _) rfl (List.nil_subset _)
  exact .next ⟨(spnEnd_rd rfl (by decide) (by decide)).trans (spnGo_state (by decide)), by rw [spnEnd_spn]; rfl, by rw [spnEnd_spn],
    hu.then_ (spnEnd_moves u 0) rfl spnEndRegs_subset⟩

/-! ### The bus voltage (R261) -/

/-- R261: the watch begins in DRIVEN. -/
theorem execVwatchOn_ends (h : s.spnState = 7) (hv : s.rd F.SPN_VWATCH_ON * 100 < mv) (hw : s.flag F.SPN_STAT_WATCH = false) :
    Ends (execVwatchOn mv s) fun t => t.flag F.SPN_STAT_WATCH = true ∧ t.flag F.SPN_STAT_ZVB = true ∧
      t.reg Reg.SPN_VIN = BitVec.ofNat 32 mv ∧ Counts s t Reg.SPN_WATCH_CNT ∧
      OnlyRegs [Reg.SPN_VIN, Reg.SPN_STAT, Reg.SPN_WATCH_CNT] s t := by
  unfold execVwatchOn
  extract_lets k u
  have hu : Moves { regs := true } [Reg.SPN_VIN] s u := Moves.refl.setReg _
  rw [if_pos ⟨.inr (.inr h), by rw [hu.rd (by decide)]; exact hv, (hu.flag (by decide)).trans hw⟩]
  have hput : Moves { regs := true } [Reg.SPN_STAT] u ((u.put F.SPN_STAT_WATCH true).put F.SPN_STAT_ZVB true) := (Moves.refl.put _).put _
  have hbump : Moves { regs := true } [Reg.SPN_WATCH_CNT] ((u.put F.SPN_STAT_WATCH true).put F.SPN_STAT_ZVB true)
      (((u.put F.SPN_STAT_WATCH true).put F.SPN_STAT_ZVB true).bump Reg.SPN_WATCH_CNT) := Moves.refl.bump
  refine .next ⟨?_, ?_, ?_, ?_, onlyRegs_of_moves ((((Moves.refl.setReg _).put _).put _).bump)⟩
  · rw [hbump.flag (by decide), State.flag_put_disjoint _ _ _ _ (by decide) (by decide), State.flag_put_same _ _ _ (by decide) rfl]
  · rw [hbump.flag (by decide), State.flag_put_same _ _ _ (by decide) rfl]
  · rw [hbump.regs _ (by decide), hput.regs _ (by decide)]
    exact State.reg_setReg_same _ _ _
  · exact (Counts.bump.after hput (by decide)).after hu (by decide)

/-- R261: the watch ends, and the zero vector stays only where ESTL brakes. -/
theorem execVwatchOff_ends (hv : mv < s.rd F.SPN_VWATCH_OFF * 100) :
    Ends (execVwatchOff mv s) fun t => t.flag F.SPN_STAT_WATCH = false ∧ t.flag F.SPN_STAT_ZVB = s.spn.zvBrake ∧
      t.reg Reg.SPN_VIN = BitVec.ofNat 32 mv ∧ OnlyRegs [Reg.SPN_VIN, Reg.SPN_STAT] s t := by
  unfold execVwatchOff
  extract_lets u
  have hu : Moves { regs := true } [Reg.SPN_VIN] s u := Moves.refl.setReg _
  rw [if_pos (by rw [hu.rd (by decide)]; exact hv)]
  have hput : Moves { regs := true } [Reg.SPN_STAT] u ((u.put F.SPN_STAT_WATCH false).put F.SPN_STAT_ZVB u.spn.zvBrake) :=
    (Moves.refl.put _).put _
  refine .next ⟨?_, State.flag_put_same _ _ _ (by decide) rfl, ?_, onlyRegs_of_moves (((Moves.refl.setReg _).put _).put _)⟩
  · rw [State.flag_put_disjoint _ _ _ _ (by decide) (by decide), State.flag_put_same _ _ _ (by decide) rfl]
  · exact (hput.regs _ (by decide)).trans (State.reg_setReg_same _ _ _)

/-- Settles O20: the stages of a start with its repeats, standstill with the bridge open and after a hold, and the watch on the bus
voltage. -/
theorem spindleProgress : Obligations.SpindleProgress := by
  refine ⟨fun s h => ?_, fun s h => ?_, fun s h hn => ?_, fun s h hn ht => ?_, fun s h hc => ?_, fun s h ha => ?_, fun s h hd h0 _ hc => ?_,
    fun s _ hd => ?_, fun s mv h hv hw => execVwatchOn_ends h hv hw, fun s mv hv => execVwatchOff_ends hv⟩
  · exact ⟨_, execAlignEnd_runs h, spnGo_state (by decide),
      onlyRegs_of_moves (spnGo_moves_stat (spnLoops_of_state h (by decide) (by decide)) 3)⟩
  · obtain ⟨hst, hmode, href, hm⟩ := spnRun_runs (spnLoops_of_state h (by decide) (by decide))
    have hall := hm.then_ (modSpn_moves s.spnRun fun p => { p with iq := s.rd F.SPN_IF_IFI * 65536, soft := true }) rfl (List.nil_subset _)
    exact ⟨_, execHandoff_runs h, hst, hmode, href, rfl, hall.parts, hall.regs⟩
  · have hgo := spnGo_moves_stat (spnLoops_of_state h (by decide) (by decide)) 1
    have hall : Moves { regs := true, spn := true } [Reg.SPN_STAT] s ((s.spnGo 1).modSpn fun p => { p with again := decide (p.cmd = 1) }) :=
      (hgo.mono rfl (List.Subset.refl _)).then_ (modSpn_moves _ _) rfl (List.nil_subset _)
    refine ⟨_, execHandoffTimeout_retries h hn, spnGo_state (by decide), ?_, hall.parts, hall.regs⟩
    exact congrArg (fun n => decide (n = 1)) (hgo.keep fun s => s.spn.cmd)
  · have hf := spnFault_faulted (s := s) (cause := .startf) (tr := []) rfl ht (by decide) (by decide)
    exact ⟨_, execHandoffTimeout_faults h hn, hf.state, hf.cause, hf.moves.parts⟩
  · obtain ⟨t, e, hat, hcmd, ⟨hdone, hcls, hev⟩, hst, hm⟩ := execAtspeed_ends h hc
    exact ⟨t, e, hat, hcmd, hdone, hcls, hst, hev, hm.parts, hm.regs⟩
  · obtain ⟨t, e, hst, hstill, hm⟩ := execStandstill_ends h ha
    exact ⟨t, e, hst, hstill, hm.parts, hm.regs⟩
  · obtain ⟨t, e, hst, hstill, hcmd, hm⟩ := execStopHoldEnd_ends h hd h0 hc
    exact ⟨t, e, hst, hstill, hcmd, hm.parts, hm.regs⟩
  · exact if_neg fun h => hd h.2.2

end Sys2Proof.Machine
end

section
/-! ## Spindle faults and the stage enable -/

namespace Sys2Proof.Machine

set_option Elab.async false

variable {s t : State} {n m : Stepper} {v : Word} {mv : Nat}

/-! ### A write that clears causes (R266) -/

/-- The causes lie below bit 7, which a write reaches whole. -/
theorem causes_of_masked (w v : Word) : (w &&& ~~~(v &&& 0x010004FF)).toNat % 128 = (w &&& ~~~v).toNat % 128 := by
  have h : (w &&& ~~~(v &&& 0x010004FF)).setWidth 7 = (w &&& ~~~v).setWidth 7 := by
    rw [BitVec.setWidth_and, BitVec.setWidth_and, BitVec.setWidth_not (by omega), BitVec.setWidth_not (by omega), BitVec.setWidth_and,
      show (0x010004FF : Word).setWidth 7 = BitVec.allOnes 7 from rfl, BitVec.and_allOnes]
  simpa only [BitVec.toNat_setWidth] using congrArg BitVec.toNat h

/-- The state lies above every bit that a write clears. -/
theorem state_of_masked (w v : Word) : F.SPN_STAT_STATE.of (w &&& ~~~(v &&& 0x010004FF)) = F.SPN_STAT_STATE.of w := by
  refine RegField.of_and ?_ w
  have hle : (v &&& 0x010004FF).toNat ≤ 0x010004FF := Nat.and_le_right
  show (~~~(v &&& 0x010004FF)).toNat / 2 ^ 28 % 2 ^ 4 = 15
  rw [BitVec.toNat_not]
  omega

/-- The causes as a field of SPN_STAT. -/
theorem spnCauses_eq (s : State) : s.spnCauses = s.rd ⟨Reg.SPN_STAT, 0, 7⟩ := by
  simp [State.spnCauses, State.rd, RegField.of]

/-- R266: the last cause cleared, FAULT is left. -/
theorem spnStatWrite_leaves (h : s.spnState = 9) (hv : (s.reg Reg.SPN_STAT &&& ~~~v).toNat % 128 = 0) :
    (s.spnStatWrite v).spnState = (if s.spn.still then 0 else 1) ∧ (s.spnStatWrite v).spnCauses = 0 ∧
      OnlyRegs [Reg.SPN_STAT] s (s.spnStatWrite v) := by
  unfold State.spnStatWrite
  extract_lets u
  have hu : Moves { regs := true } [Reg.SPN_STAT] s u := Moves.refl.setReg _
  have hst : u.spnState = 9 := (State.rd_setReg_same s _ F.SPN_STAT_STATE).trans ((state_of_masked _ v).trans h)
  have hc : u.spnCauses = 0 := by
    unfold State.spnCauses u
    rw [State.reg_setReg_same, causes_of_masked, hv]
  have hgo := spnGo_moves_stat (spnLoops_of_state hst (by decide) (by decide)) (if u.spn.still then 0 else 1)
  rw [if_pos ⟨hst, hc⟩]
  refine ⟨spnGo_state (by split <;> decide), ?_, onlyRegs_of_moves (hu.trans hgo)⟩
  rw [spnCauses_eq] at hc ⊢
  exact (spnGo_rd_stat rfl).trans ((spnEnter_rd ⟨by decide, by decide, by decide, by decide⟩).trans hc)

/-! ### The stages go off (R248, R249, R276) -/

/-- A channel at rest loses its bridge. -/
def State.bridgeOff (s : State) (n : Stepper) : State :=
  if s.flag (F.SLD_STAT_ENERG n) then (s.put (F.SLD_STAT_ENERG n) false).put (F.SLD_STAT_DEEN n) true else s

theorem deenergise_rest (h : s.flag (F.SLD_STAT_BUSY n) = false) : s.deenergise n = s.bridgeOff n := by
  unfold State.deenergise
  rw [h, if_neg Bool.false_ne_true]
  rfl

theorem sldStat_inj : ∀ n m : Stepper, Reg.SLD_STAT n = Reg.SLD_STAT m → n = m := by decide

/-- The status registers of the stepper channels. -/
def sldStatRegs : List Nat := (List.finRange 6).map fun n => Reg.SLD_STAT n

theorem bridgeOff_moves (s : State) (n : Stepper) : Moves { regs := true } [Reg.SLD_STAT n] s (s.bridgeOff n) :=
  .ite ((Moves.refl.put _).put _) .refl

theorem bridgeOff_busy (s : State) (n m : Stepper) : (s.bridgeOff n).flag (F.SLD_STAT_BUSY m) = s.flag (F.SLD_STAT_BUSY m) := by
  unfold State.bridgeOff
  split
  · exact congrArg (· != 0) ((rd_wr_apart _ (F.SLD_STAT_DEEN n) (F.SLD_STAT_BUSY m) _ (by simp) fun _ => by simp).trans
      (rd_wr_apart _ (F.SLD_STAT_ENERG n) (F.SLD_STAT_BUSY m) _ (by simp) fun _ => by simp))
  · rfl

theorem bridgeOff_energ (s : State) (n : Stepper) : (s.bridgeOff n).flag (F.SLD_STAT_ENERG n) = false := by
  unfold State.bridgeOff
  split
  · rw [State.flag_put_disjoint _ _ _ _ (by simp) (by simp), State.flag_put_same _ _ _ (by simp) rfl]
  next h => exact Bool.not_eq_true _ ▸ h

theorem bridgeOff_deen (h : s.flag (F.SLD_STAT_ENERG n) = true) : (s.bridgeOff n).flag (F.SLD_STAT_DEEN n) = true := by
  unfold State.bridgeOff
  rw [if_pos h, State.flag_put_same _ _ _ (by simp) rfl]

theorem bridgeOff_flag_ne (hn : m ≠ n) {f : RegField} (hf : f.reg = Reg.SLD_STAT m) : (s.bridgeOff n).flag f = s.flag f :=
  (bridgeOff_moves s n).flag (by rw [hf, List.mem_singleton]; exact fun e => hn (sldStat_inj _ _ e))

/-- Every channel at rest loses its bridge. -/
def State.bridgesOff (s : State) : State := forEach (List.finRange 6) (fun n s => s.bridgeOff n) s

theorem deenergiseAll_rest (h : ∀ n : Stepper, s.flag (F.SLD_STAT_BUSY n) = false) :
    (List.finRange 6).foldl State.deenergise s = s.bridgesOff := by
  unfold State.bridgesOff forEach
  generalize List.finRange 6 = l
  induction l generalizing s with
  | nil => rfl
  | cons n l ih =>
    rw [List.foldl_cons, List.foldl_cons, deenergise_rest (h n)]
    exact ih fun m => (bridgeOff_busy s n m).trans (h m)

theorem bridgesOff_moves (s : State) : Moves { regs := true } sldStatRegs s s.bridgesOff :=
  Moves.forEach _ (fun n _ _ h => h.then_ (bridgeOff_moves _ n) rfl (by revert n; decide)) .refl

theorem bridgesOff_energ (s : State) (n : Stepper) : s.bridgesOff.flag (F.SLD_STAT_ENERG n) = false := by
  refine forEach_reaches (P := fun t => t.flag (F.SLD_STAT_ENERG n) = false) (f := fun n s => s.bridgeOff n) (x := n)
    (fun t => bridgeOff_energ t n) (fun m t ht => ?_) (List.mem_finRange n) s
  by_cases hm : n = m
  · exact hm ▸ bridgeOff_energ t n
  · exact (bridgeOff_flag_ne hm rfl).trans ht

theorem bridgesOff_deen (h : s.flag (F.SLD_STAT_ENERG n) = true) : s.bridgesOff.flag (F.SLD_STAT_DEEN n) = true := by
  have hlost := forEach_keeps (P := fun t => t.flag (F.SLD_STAT_ENERG n) = true ∨ t.flag (F.SLD_STAT_DEEN n) = true)
    (f := fun n s => s.bridgeOff n) (fun m t ht => ?_) (List.finRange 6) (.inl h)
  · exact hlost.resolve_left fun he => Bool.false_ne_true ((bridgesOff_energ s n).symm.trans he)
  · show (t.bridgeOff m).flag _ = true ∨ (t.bridgeOff m).flag _ = true
    by_cases hm : n = m
    · subst hm
      by_cases he : t.flag (F.SLD_STAT_ENERG n) = true
      · exact .inr (bridgeOff_deen he)
      · rw [State.bridgeOff, if_neg he]
        exact ht
    · rw [bridgeOff_flag_ne hm rfl, bridgeOff_flag_ne hm rfl]
      exact ht

theorem attention_moves (s : State) (blk : Nat) : Moves { regs := true, hlk := true } noteRegs s (s.attention blk) :=
  Moves.of_noted (as := []) (Noted.refl.attention _)

/-- The registers that the loss of the stages moves, beside those of the events told. -/
def stageRegs : List Nat := [Reg.SPN_VIN, Reg.PWR_STAT, Reg.PWR_STGOFF_CNT] ++ sldStatRegs ++ faultRegs

theorem stageRegs_cover : [Reg.SPN_VIN, Reg.PWR_STAT, Reg.PWR_STGOFF_CNT] ++ sldStatRegs ⊆ stageRegs ++ noteRegs ∧
    faultRegs ++ noteRegs ⊆ stageRegs ++ noteRegs := by decide

theorem stage_apart : Reg.PWR_STAT ∉ sldStatRegs ++ faultRegs ++ noteRegs ∧ Reg.PWR_STGOFF_CNT ∉ sldStatRegs ++ faultRegs ++ noteRegs ∧
    Reg.SPN_STAT ∉ noteRegs := by decide

theorem sld_stage_apart : ∀ n : Stepper, Reg.SLD_STAT n ∉ [Reg.SPN_VIN, Reg.PWR_STAT, Reg.PWR_STGOFF_CNT] ∧
    Reg.SLD_STAT n ∉ faultRegs ++ noteRegs ∧ Reg.SLD_POS n ∉ stageRegs ++ noteRegs := by decide

/-- VIN12 below 9.6 V is seen: the stage enable is off, and counted (R248). -/
def State.stageLost (s : State) (mv : Nat) : State :=
  ((s.setReg Reg.SPN_VIN (BitVec.ofNat 32 mv)).put F.PWR_STAT_STGEN false).bump Reg.PWR_STGOFF_CNT

theorem stageLost_moves (s : State) (mv : Nat) :
    Moves { regs := true } [Reg.SPN_VIN, Reg.PWR_STAT, Reg.PWR_STGOFF_CNT] s (s.stageLost mv) :=
  (((Moves.refl.setReg _).put _).bump)

theorem stageLost_off (s : State) (mv : Nat) : (s.stageLost mv).flag F.PWR_STAT_STGEN = false :=
  (State.flag_bump_ne _ _ (by decide)).trans (State.flag_put_same _ _ _ (by decide) rfl)

theorem stageLost_counts (s : State) (mv : Nat) : Counts s (s.stageLost mv) Reg.PWR_STGOFF_CNT :=
  Counts.bump.after (c := { regs := true }) (as := [Reg.SPN_VIN, Reg.PWR_STAT]) ((Moves.refl.setReg _).put _) (by decide)

theorem execStageEnableOff_runs (hv : mv < 9600) (h : s.stageOn = true) (hg : ∀ b : Beam, s.wrp.beams[b].gate = none)
    (hb : ∀ n : Stepper, s.flag (F.SLD_STAT_BUSY n) = false) :
    execStageEnableOff mv s = .next (((s.stageLost mv).bridgesOff.spnFault .enl []).attention 1) := by
  have hm := stageLost_moves s mv
  have hon : (s.setReg Reg.SPN_VIN (BitVec.ofNat 32 mv)).stageOn = true := (State.flag_setReg_ne _ _ _ (by decide)).trans h
  have hgates : ∀ b : Beam, (s.stageLost mv).wrp.beams[b].gate = none := fun b => by rw [hm.keep State.wrp]; exact hg b
  have hrest : ∀ n : Stepper, (s.stageLost mv).flag (F.SLD_STAT_BUSY n) = false := fun n => (hm.flag (sld_stage_apart n).1).trans (hb n)
  unfold execStageEnableOff State.stagesOff
  extract_lets u
  rw [if_pos ⟨hv, hon⟩]
  show Host.Outcome.next ((((List.finRange 6).foldl State.deenergise (s.stageLost mv).dropGates).spnFault .enl []).attention 1) = _
  rw [dropGates_of_none hgates, deenergiseAll_rest hrest]

/-- R248, R249, R266: in RUN, outside a task, with no gate open and every channel at rest. -/
theorem execStageEnableOff_ends (hv : mv < 9600) (h : s.stageOn = true) (hg : ∀ b : Beam, s.wrp.beams[b].gate = none)
    (hb : ∀ n : Stepper, s.flag (F.SLD_STAT_BUSY n) = false) (ht : s.taskRunning = false) (hk : s.spnState = 4) :
    Ends (execStageEnableOff mv s) fun t => t.stageOn = false ∧ t.spnState = 9 ∧ t.flag F.SPN_STAT_ENL = true ∧
      Counts s t Reg.PWR_STGOFF_CNT ∧ (∀ n : Stepper, t.flag (F.SLD_STAT_ENERG n) = false ∧
        (s.flag (F.SLD_STAT_ENERG n) = true → t.flag (F.SLD_STAT_DEEN n) = true) ∧ t.reg (Reg.SLD_POS n) = s.reg (Reg.SLD_POS n)) ∧
      Moves { regs := true, hlk := true, spn := true, free := true } (stageRegs ++ noteRegs) s t := by
  rw [execStageEnableOff_runs hv h hg hb]
  have hlost := stageLost_moves s mv
  have hoff := bridgesOff_moves (s.stageLost mv)
  have h2 : Moves { regs := true } ([Reg.SPN_VIN, Reg.PWR_STAT, Reg.PWR_STGOFF_CNT] ++ sldStatRegs) s (s.stageLost mv).bridgesOff :=
    (hlost.mono rfl (List.subset_append_left _ _)).then_ hoff rfl (List.subset_append_right _ _)
  have hrun : (s.stageLost mv).bridgesOff.taskRunning = false :=
    (congrArg (fun n => decide (n = 1)) (h2.rd (f := F.TSK_STATE_STATE) (by decide))).trans ht
  have hst : (s.stageLost mv).bridgesOff.spnState = 4 := (h2.rd (by decide)).trans hk
  have hf := spnFault_faulted (s := (s.stageLost mv).bridgesOff) (cause := .enl) (tr := []) (by simp [State.spnFaultable, hst]) hrun
    (by decide) (by decide)
  have hnote := attention_moves ((s.stageLost mv).bridgesOff.spnFault .enl []) 1
  have h34 : Moves { regs := true, hlk := true, spn := true, free := true } (faultRegs ++ noteRegs) (s.stageLost mv).bridgesOff
      (((s.stageLost mv).bridgesOff.spnFault .enl []).attention 1) :=
    (hf.moves.mono rfl (List.subset_append_left _ _)).then_ hnote rfl (List.subset_append_right _ _)
  have h24 : Moves { regs := true, hlk := true, spn := true, free := true } (sldStatRegs ++ faultRegs ++ noteRegs) (s.stageLost mv)
      (((s.stageLost mv).bridgesOff.spnFault .enl []).attention 1) :=
    (hoff.mono rfl (by simp)).then_ h34 rfl (by simp)
  have hall : Moves { regs := true, hlk := true, spn := true, free := true } (stageRegs ++ noteRegs) s
      (((s.stageLost mv).bridgesOff.spnFault .enl []).attention 1) :=
    (h2.mono rfl stageRegs_cover.1).then_ h34 rfl stageRegs_cover.2
  refine .next ⟨?_, ?_, ?_, (stageLost_counts s mv).then_ h24 stage_apart.2.1,
    fun n => ⟨?_, fun he => ?_, hall.regs _ (sld_stage_apart n).2.2⟩, hall⟩
  · exact (h24.flag stage_apart.1).trans (stageLost_off s mv)
  · exact (hnote.rd stage_apart.2.2).trans hf.state
  · exact (hnote.flag stage_apart.2.2).trans hf.cause
  · exact (h34.flag (sld_stage_apart n).2.1).trans (bridgesOff_energ _ n)
  · exact (h34.flag (sld_stage_apart n).2.1).trans (bridgesOff_deen ((hlost.flag (sld_stage_apart n).1).trans he))

/-- R248: the stages come on from 10.2 V. -/
theorem execStageEnableOn_ends (hv : 10200 ≤ mv) : Ends (execStageEnableOn mv s) fun t =>
    t.stageOn = true ∧ t.reg Reg.SPN_VIN = BitVec.ofNat 32 mv ∧ OnlyRegs [Reg.SPN_VIN, Reg.PWR_STAT] s t := by
  unfold execStageEnableOn
  extract_lets u
  rw [if_pos hv]
  exact .next ⟨State.flag_put_same _ _ _ (by decide) rfl, (State.reg_put_ne _ _ _ (by decide)).trans (State.reg_setReg_same _ _ _),
    OnlyRegs.put (OnlyRegs.setReg .refl (by simp) _) (by simp) _⟩

/-- Settles O21: a fault with its whole trace outside a task, the last cause cleared, and the stages on and off. -/
theorem spindleFaults : Obligations.SpindleFaults := by
  refine ⟨fun s cause tr ht hb he hd hf hl => ?_, fun s v h hv => ?_, fun s mv hv => execStageEnableOn_ends hv,
    fun s mv hv h hg hb ht hk => ?_⟩
  · have h := spnFault_faulted (tr := tr) hf ht he hd
    obtain ⟨hdone, hcls, _⟩ := h.done hb
    refine ⟨s.spnFault cause tr, rfl, h.trace hl, h.state, h.cause, h.cmd, hdone, hcls, h.counts, ?_⟩
    exact h.moves.parts.trans (congrArg (fun x => { s with regs := (s.spnFault cause tr).regs, spn := (s.spnFault cause tr).spn,
                                                           free := x }) (h.free hl))
  · exact ⟨s.spnStatWrite v, rfl, spnStatWrite_leaves h hv⟩
  · obtain ⟨t, e, hoff, hst, henl, hcnt, hsld, hm⟩ := execStageEnableOff_ends hv h hg hb ht hk
    exact ⟨t, e, hoff, hst, henl, hcnt, hsld, hm.parts⟩

end Sys2Proof.Machine
end

section
/-! ## The ends of a stepper's command -/

namespace Sys2Proof.Machine

set_option Elab.async false

variable {s t : State} {n : Stepper} {v : Word} {x : StallIn} {cls : Nat} {f : RegField}

/-! ### A channel's structure -/

theorem modSld_same (s : State) (n : Stepper) (g : Sld → Sld) : (s.modSld n g).sld[n] = g s.sld[n] := Vector.getElem_set_self _

theorem modSld_ne {k : Stepper} (h : k ≠ n) (s : State) (g : Sld → Sld) : (s.modSld n g).sld[k] = s.sld[k] :=
  Vector.getElem_set_ne n.isLt k.isLt fun e => h (Fin.ext e.symm)

/-! ### The end of a command (R271) -/

/-- The registers that the end of a channel's command moves. -/
def sldEndRegs (n : Stepper) : List Nat := Reg.SLD_STAT n :: eventRegs (Ev.sldDone n)

/-- What the end of a command shows: BUSY, DONE and the error class. -/
def State.sldShown (s : State) (n : Stepper) (cls : Nat) : State :=
  ((s.put (F.SLD_STAT_BUSY n) false).put (F.SLD_STAT_DONE n) true).wr (F.SLD_STAT_ERRCLS n) cls

theorem sldDone_eq (s : State) (n : Stepper) (cls : Nat) : s.sldDone n cls = (s.sldShown n cls).event (Ev.sldDone n) := rfl

theorem sldDone_movesStat (s : State) (n : Stepper) (cls : Nat) : Moves { regs := true } (sldEndRegs n) s (s.sldDone n cls) := by
  have hshown : Moves { regs := true } (sldEndRegs n) s (s.sldShown n cls) :=
    ((Moves.refl.put (f := F.SLD_STAT_BUSY n) _ rfl List.mem_cons_self).put (f := F.SLD_STAT_DONE n) _ rfl List.mem_cons_self).wr
      (f := F.SLD_STAT_ERRCLS n) _ rfl List.mem_cons_self
  exact hshown.then_ (event_moves _ _) rfl (List.subset_cons_self _ _)

theorem sldStat_not_event : ∀ n : Stepper, Reg.SLD_STAT n ∉ eventRegs (Ev.sldDone n) := by decide

/-- The other fields stand. -/
theorem sldDone_rd (hr : f.reg = Reg.SLD_STAT n) (hfit : f.lo + f.width ≤ 32)
    (hplace : f.lo + f.width ≤ 16 ∨ (24 ≤ f.lo ∧ f.lo + f.width ≤ 26) ∨ 28 ≤ f.lo) : (s.sldDone n cls).rd f = s.rd f := by
  rw [sldDone_eq, (event_moves _ _).rd (by rw [hr]; exact sldStat_not_event n)]
  unfold State.sldShown State.put
  rw [rd_wr_apart _ _ _ _ hfit (fun _ => by simp; omega), rd_wr_apart _ _ _ _ hfit (fun _ => by simp; omega),
    rd_wr_apart _ _ _ _ hfit (fun _ => by simp; omega)]

theorem sldDone_flag (hr : f.reg = Reg.SLD_STAT n) (hfit : f.lo + f.width ≤ 32)
    (hplace : f.lo + f.width ≤ 16 ∨ (24 ≤ f.lo ∧ f.lo + f.width ≤ 26) ∨ 28 ≤ f.lo) : (s.sldDone n cls).flag f = s.flag f :=
  congrArg (· != 0) (sldDone_rd hr hfit hplace)

/-- A channel's command has ended with a class. -/
structure State.SldEnded (t : State) (n : Stepper) (cls : Nat) : Prop where
  busy  : t.flag (F.SLD_STAT_BUSY n) = false
  done  : t.flag (F.SLD_STAT_DONE n) = true
  cls   : t.rd (F.SLD_STAT_ERRCLS n) = cls
  event : t.evPending (Ev.sldDone n) = true

theorem State.SldEnded.ended (h : t.SldEnded n 0) : t.Ended n := ⟨h.busy, h.done, h.cls, h.event⟩

theorem sldDone_ended (s : State) (n : Stepper) (hc : cls < 256) : (s.sldDone n cls).SldEnded n cls := by
  have hev := event_moves (s.sldShown n cls) (Ev.sldDone n)
  have hlt : Ev.sldDone n < 32 := by have := n.isLt; unfold Ev.sldDone; omega
  rw [sldDone_eq]
  refine ⟨?_, ?_, ?_, event_pending _ hlt⟩
  · rw [hev.flag (sldStat_not_event n)]
    exact congrArg (· != 0) ((rd_wr_apart _ (F.SLD_STAT_ERRCLS n) (F.SLD_STAT_BUSY n) _ (by simp) (by simp)).trans
      ((rd_wr_apart _ (F.SLD_STAT_DONE n) (F.SLD_STAT_BUSY n) _ (by simp) (by simp)).trans (State.rd_wr_same _ _ _ (by simp))))
  · rw [hev.flag (sldStat_not_event n)]
    exact congrArg (· != 0) ((rd_wr_apart _ (F.SLD_STAT_ERRCLS n) (F.SLD_STAT_DONE n) _ (by simp) (by simp)).trans
      (State.rd_wr_same _ _ _ (by simp)))
  · rw [hev.rd (sldStat_not_event n)]
    exact (State.rd_wr_same _ _ _ (by simp)).trans (Nat.mod_eq_of_lt hc)

theorem State.SldEnded.of_moves {c : Parts} {as : List Nat} (h : s.SldEnded n cls) (hm : Moves c as s t)
    (ha : ∀ a ∈ sldEndRegs n, a ∉ as) : t.SldEnded n cls := by
  have hstat := ha (Reg.SLD_STAT n) List.mem_cons_self
  have hne : Ev.sldDone n ≠ 32 := by have := n.isLt; unfold Ev.sldDone; omega
  have hpend : Reg.SEQ_EVT_PEND (Ev.sldDone n / 32) ∉ as := ha _ (by simp [sldEndRegs, eventRegs])
  exact ⟨(hm.flag hstat).trans h.busy, (hm.flag hstat).trans h.done, (hm.rd hstat).trans h.cls,
    (evPending_of_moves hm hne hpend).trans h.event⟩

/-! ### The report (R271, R276) -/

theorem sldReport_unowned (h : s.sld[n].owner = none) : s.sldReport n true = s.modSld n fun c => { c with owner := none } := by
  simp only [State.sldReport, h, Bool.true_or, if_true]

/-- A stall that no supervisor awaits, outside a task, is at most counted. -/
theorem sldReport_unowned_moves (h : s.sld[n].owner = none) (ht : s.taskRunning = false) (ok : Bool) :
    Moves { regs := true, sld := true } errRegs s (s.sldReport n ok) := by
  have hm : Moves { regs := true, sld := true } errRegs s (s.modSld n fun c => { c with owner := none }) :=
    (modSld_moves s n _).mono rfl (List.nil_subset _)
  unfold State.sldReport
  simp only [h]
  split
  · exact hm
  · rw [taskError_idle (s := s.modSld n fun c => { c with owner := none }) ht]
    exact hm.then_ (countErr_moves _ _) rfl (List.Subset.refl _)

/-! ### At rest at the end of a profile (R272, R277) and at the end stop (R275) -/

theorem sldPos_apart : ∀ n : Stepper, Reg.SLD_POS n ≠ Reg.SLD_STAT n ∧ Reg.SLD_POS n ∉ sldEndRegs n ∧
    sldEndRegs n ⊆ sldRegs n ∧ Reg.SLD_MOTOR n ≠ Reg.SLD_POS n := by decide

/-- The command ends without error, and the channel holds where it is. -/
def State.sldHeld (s : State) (n : Stepper) : State := ((s.wr (F.SLD_STAT_MODE n) 3).sldDone n 0).sldReport n true

theorem sldHeld_ends (ho : s.sld[n].owner = none) : (s.sldHeld n).Ended n ∧ (s.sldHeld n).rd (F.SLD_STAT_MODE n) = 3 ∧
    (s.sldHeld n).flag (F.SLD_STAT_LOST n) = s.flag (F.SLD_STAT_LOST n) ∧
    Moves { regs := true, sld := true } (sldEndRegs n) s (s.sldHeld n) := by
  have hmode : Moves { regs := true } (sldEndRegs n) s (s.wr (F.SLD_STAT_MODE n) 3) := Moves.refl.wr _ rfl List.mem_cons_self
  have hdone := sldDone_movesStat (s.wr (F.SLD_STAT_MODE n) 3) n 0
  have hod : ((s.wr (F.SLD_STAT_MODE n) 3).sldDone n 0).sld[n].owner = none := by
    rw [hdone.keep State.sld, hmode.keep State.sld]; exact ho
  have hrep := modSld_moves ((s.wr (F.SLD_STAT_MODE n) 3).sldDone n 0) n fun c => { c with owner := none }
  unfold State.sldHeld
  rw [sldReport_unowned hod]
  refine ⟨((sldDone_ended _ n (by decide)).of_moves hrep (fun _ _ => List.not_mem_nil)).ended, ?_, ?_, ?_⟩
  · exact (hrep.rd List.not_mem_nil).trans ((sldDone_rd rfl (by simp) (by simp)).trans (State.rd_wr_same _ _ _ (by simp)))
  · exact (hrep.flag List.not_mem_nil).trans ((sldDone_flag rfl (by simp) (by simp)).trans
      (congrArg (· != 0) (rd_wr_apart _ (F.SLD_STAT_MODE n) (F.SLD_STAT_LOST n) _ (by simp) (by simp))))
  · exact ((hmode.mono rfl (List.Subset.refl _)).then_ hdone rfl (List.Subset.refl _)).then_ hrep rfl (List.nil_subset _)

theorem encoderMis_unset (h : s.rd (F.SLD_MOTOR_ENCPM n) = 0) : s.encoderMis n = false := by
  simp [State.encoderMis, h]

theorem execMoveEnd_runs (hm : s.rd (F.SLD_STAT_MODE n) = 1) (hb : s.flag (F.SLD_STAT_BUSY n) = true)
    (he : s.rd (F.SLD_MOTOR_ENCPM n) = 0) : execMoveEnd n s = .next ((s.setReg (Reg.SLD_POS n) s.sld[n].goal).sldHeld n) := by
  have hmis : (s.setReg (Reg.SLD_POS n) s.sld[n].goal).encoderMis n = false :=
    encoderMis_unset ((State.rd_setReg_ne _ _ _ (sldPos_apart n).2.2.2).trans he)
  unfold execMoveEnd
  rw [if_pos ⟨hm, hb⟩]
  simp only [hmis, Bool.false_and, Bool.false_eq_true, if_false]
  rfl

/-- R272: at rest at the target. -/
theorem execMoveEnd_ends (hm : s.rd (F.SLD_STAT_MODE n) = 1) (hb : s.flag (F.SLD_STAT_BUSY n) = true) (ho : s.sld[n].owner = none)
    (he : s.rd (F.SLD_MOTOR_ENCPM n) = 0) : Ends (execMoveEnd n s) fun t => t.Ended n ∧ t.rd (F.SLD_STAT_MODE n) = 3 ∧
      t.reg (Reg.SLD_POS n) = s.sld[n].goal ∧ Moves { regs := true, sld := true } (Reg.SLD_POS n :: sldRegs n) s t := by
  obtain ⟨_, hpos, hsub, _⟩ := sldPos_apart n
  rw [execMoveEnd_runs hm hb he]
  have hu : Moves { regs := true, sld := true } (Reg.SLD_POS n :: sldRegs n) s (s.setReg (Reg.SLD_POS n) s.sld[n].goal) :=
    Moves.refl.setReg _
  obtain ⟨hend, hmode, _, hheld⟩ := sldHeld_ends (s := s.setReg (Reg.SLD_POS n) s.sld[n].goal) ho
  exact .next ⟨hend, hmode, (hheld.regs _ hpos).trans (State.reg_setReg_same _ _ _),
    hu.then_ hheld rfl (List.Subset.trans hsub (List.subset_cons_self _ _))⟩

/-! ### A stall (R275, R276) -/

/-- A stall is judged: a STOP that it prevails over is forgotten (R285). -/
def State.stallSeen (s : State) (n : Stepper) : State := (s.put (F.SLD_STAT_STOPPED n) false).modSld n fun c => { c with ended := 0 }

theorem stallSeen_moves (s : State) (n : Stepper) : Moves { regs := true, sld := true } [Reg.SLD_STAT n] s (s.stallSeen n) :=
  (Moves.refl.put _).then_ (modSld_moves _ n _) rfl (List.nil_subset _)

theorem stallSeen_owner (s : State) (n : Stepper) : (s.stallSeen n).sld[n].owner = s.sld[n].owner := by
  unfold State.stallSeen
  rw [modSld_same, State.put_sld]

theorem stallMode_busy (hb : s.flag (F.SLD_STAT_BUSY n) = true) : s.stallMode n = s.rd (F.SLD_STAT_MODE n) := if_pos hb

theorem execStall_homes (hm : s.stallMode n = 7) (hj : s.stallJudged n x = true) : execStall n x s = .next
    ((((s.stallSeen n).setReg (Reg.SLD_POS n) ((s.stallSeen n).reg (Reg.SLD_TGT n))).put (F.SLD_STAT_LOST n) false).sldHeld n) := by
  unfold execStall
  simp only [hm, hj]
  rfl

/-- R275: the expected end of HOME. -/
theorem execStall_home_ends (hm : s.stallMode n = 7) (hj : s.stallJudged n x = true) (ho : s.sld[n].owner = none) :
    Ends (execStall n x s) fun t => t.Ended n ∧ t.flag (F.SLD_STAT_LOST n) = false ∧ t.reg (Reg.SLD_POS n) = s.reg (Reg.SLD_TGT n) ∧
      Moves { regs := true, sld := true } (Reg.SLD_POS n :: sldRegs n) s t := by
  obtain ⟨hne, hpos, hsub, _⟩ := sldPos_apart n
  rw [execStall_homes hm hj]
  have hseen := stallSeen_moves s n
  have hos := (stallSeen_owner s n).trans ho
  have htgts : (s.stallSeen n).reg (Reg.SLD_TGT n) = s.reg (Reg.SLD_TGT n) := hseen.regs _ (by simp)
  rw [htgts]
  generalize s.stallSeen n = u at *
  have hu : Moves { regs := true, sld := true } (Reg.SLD_POS n :: sldRegs n) s
      ((u.setReg (Reg.SLD_POS n) (s.reg (Reg.SLD_TGT n))).put (F.SLD_STAT_LOST n) false) :=
    ((hseen.mono rfl (by simp [sldRegs])).setReg _).put _ rfl (by simp [sldRegs])
  obtain ⟨hend, _, hlost, hheld⟩ :=
    sldHeld_ends (s := (u.setReg (Reg.SLD_POS n) (s.reg (Reg.SLD_TGT n))).put (F.SLD_STAT_LOST n) false) (n := n)
      (by rw [State.put_sld, State.setReg_sld]; exact hos)
  refine .next ⟨hend, hlost.trans (State.flag_put_same _ _ _ (by simp) rfl), ?_,
    hu.then_ hheld rfl (List.Subset.trans hsub (List.subset_cons_self _ _))⟩
  exact (hheld.regs _ hpos).trans ((State.reg_put_ne _ _ _ hne).trans (State.reg_setReg_same _ _ _))

theorem execStall_loses (h0 : s.stallMode n ≠ 0) (h7 : s.stallMode n ≠ 7) (hj : s.stallJudged n x = true) :
    execStall n x s = .next ((((s.stallSeen n).setReg (Reg.SLD_POS n) x.pos).sldStall n).sldReport n false) := by
  unfold execStall
  simp only [h0, h7, hj, ne_eq, not_false_eq_true, decide_true, Bool.and_self, if_true, if_false]
  rfl

/-- The channel with LOST set holds, and the stall is counted by its slot (R276). -/
def State.stallCounted (s : State) (n : Stepper) : State :=
  ((s.wr (F.SLD_STAT_MODE n) 3).put (F.SLD_STAT_LOST n) true).bumpF ⟨Reg.SLD_G_STALL_CNT (sldGroup n), 8 * sldSlot n, 8⟩

theorem sldStall_eq (s : State) (n : Stepper) : s.sldStall n = (s.stallCounted n).sldDone n (stallClass n) := rfl

/-- The registers that a stall moves beside the position. -/
def stallRegs (n : Stepper) : List Nat := Reg.SLD_G_STALL_CNT (sldGroup n) :: sldEndRegs n

theorem stallRegs_apart : ∀ n : Stepper, Reg.SLD_G_STALL_CNT (sldGroup n) ≠ Reg.SLD_STAT n ∧ Reg.SLD_POS n ∉ stallRegs n ∧
    Reg.TSK_STATE ∉ Reg.SLD_POS n :: stallRegs n ∧ (∀ a ∈ sldEndRegs n, a ∉ errRegs) ∧ Reg.SLD_POS n ∉ errRegs := by decide

theorem stallCounted_moves (s : State) (n : Stepper) :
    Moves { regs := true } [Reg.SLD_STAT n, Reg.SLD_G_STALL_CNT (sldGroup n)] s (s.stallCounted n) :=
  ((Moves.refl.wr _).put _).wr (f := ⟨Reg.SLD_G_STALL_CNT (sldGroup n), 8 * sldSlot n, 8⟩) _

theorem stallCounted_rd (hr : f.reg = Reg.SLD_STAT n) :
    (s.stallCounted n).rd f = ((s.wr (F.SLD_STAT_MODE n) 3).put (F.SLD_STAT_LOST n) true).rd f :=
  State.rd_wr_ne _ ⟨Reg.SLD_G_STALL_CNT (sldGroup n), 8 * sldSlot n, 8⟩ _ (by rw [hr]; exact (stallRegs_apart n).1.symm)

theorem stallClass_lt (n : Stepper) : stallClass n < 256 := by
  unfold stallClass
  split <;> decide

/-- R276: what a stall makes of its channel. -/
theorem sldStall_stalls (s : State) (n : Stepper) : (s.sldStall n).SldEnded n (stallClass n) ∧
    (s.sldStall n).flag (F.SLD_STAT_LOST n) = true ∧ (s.sldStall n).rd (F.SLD_STAT_MODE n) = 3 ∧
    (s.sldStall n).flag (F.SLD_STAT_STOPPED n) = s.flag (F.SLD_STAT_STOPPED n) ∧
    Moves { regs := true } (stallRegs n) s (s.sldStall n) := by
  rw [sldStall_eq]
  refine ⟨sldDone_ended _ n (stallClass_lt n), ?_, ?_, ?_, ?_⟩
  · refine (sldDone_flag rfl (by simp) (by simp)).trans ((congrArg (· != 0) (stallCounted_rd rfl)).trans ?_)
    exact State.flag_put_same _ _ _ (by simp) rfl
  · refine (sldDone_rd rfl (by simp) (by simp)).trans ((stallCounted_rd rfl).trans ?_)
    exact (rd_wr_apart _ (F.SLD_STAT_LOST n) (F.SLD_STAT_MODE n) _ (by simp) (by simp)).trans (State.rd_wr_same _ _ _ (by simp))
  · refine (sldDone_flag rfl (by simp) (by simp)).trans (congrArg (· != 0) ((stallCounted_rd rfl).trans ?_))
    exact (rd_wr_apart _ (F.SLD_STAT_LOST n) (F.SLD_STAT_STOPPED n) _ (by simp) (by simp)).trans
      (rd_wr_apart _ (F.SLD_STAT_MODE n) (F.SLD_STAT_STOPPED n) _ (by simp) (by simp))
  · exact ((stallCounted_moves s n).mono rfl (by simp [stallRegs, sldEndRegs])).then_ (sldDone_movesStat _ n _) rfl (List.subset_cons_self _ _)

/-- R276: a stall outside HOME that no supervisor awaits, outside a task. -/
theorem execStall_lost_ends (h0 : s.stallMode n ≠ 0) (h7 : s.stallMode n ≠ 7) (hj : s.stallJudged n x = true) (ho : s.sld[n].owner = none)
    (ht : s.taskRunning = false) : Ends (execStall n x s) fun t => t.SldEnded n (stallClass n) ∧ t.flag (F.SLD_STAT_LOST n) = true ∧
      t.rd (F.SLD_STAT_MODE n) = 3 ∧ t.flag (F.SLD_STAT_STOPPED n) = false ∧ t.reg (Reg.SLD_POS n) = x.pos ∧
      t = { s with regs := t.regs, sld := t.sld } := by
  obtain ⟨_, hpos, htask, herr, hpose⟩ := stallRegs_apart n
  rw [execStall_loses h0 h7 hj]
  have hseen := stallSeen_moves s n
  have hstop : (s.stallSeen n).flag (F.SLD_STAT_STOPPED n) = false :=
    ((modSld_moves _ n _).flag List.not_mem_nil).trans (State.flag_put_same s _ _ (by simp) rfl)
  have hu : Moves { regs := true, sld := true } (Reg.SLD_POS n :: stallRegs n) s
      ((s.stallSeen n).setReg (Reg.SLD_POS n) x.pos) := (hseen.mono rfl (by simp [stallRegs, sldEndRegs])).setReg _
  have hstopu : ((s.stallSeen n).setReg (Reg.SLD_POS n) x.pos).flag (F.SLD_STAT_STOPPED n) = false :=
    (State.flag_setReg_ne _ _ _ (sldPos_apart n).1.symm).trans hstop
  have hposu : ((s.stallSeen n).setReg (Reg.SLD_POS n) x.pos).reg (Reg.SLD_POS n) = x.pos := State.reg_setReg_same _ _ _
  have hou : ((s.stallSeen n).setReg (Reg.SLD_POS n) x.pos).sld[n].owner = none := (stallSeen_owner s n).trans ho
  generalize (s.stallSeen n).setReg (Reg.SLD_POS n) x.pos = u at *
  obtain ⟨hend, hlost, hmode, hst, hm⟩ := sldStall_stalls u n
  have hw : Moves { regs := true, sld := true } (Reg.SLD_POS n :: stallRegs n) s (u.sldStall n) :=
    hu.then_ hm rfl (List.subset_cons_self _ _)
  have how : (u.sldStall n).sld[n].owner = none := by rw [hm.keep State.sld]; exact hou
  have hrun : (u.sldStall n).taskRunning = false := (congrArg (fun k => decide (k = 1)) (hw.rd (f := F.TSK_STATE_STATE) htask)).trans ht
  have hstat : Reg.SLD_STAT n ∉ errRegs := herr _ List.mem_cons_self
  have hrep := sldReport_unowned_moves how hrun false
  refine .next ⟨hend.of_moves hrep herr, (hrep.flag hstat).trans hlost, (hrep.rd hstat).trans hmode,
    (hrep.flag hstat).trans (hst.trans hstopu), ?_, ?_⟩
  · exact (hrep.regs _ hpose).trans ((hm.regs _ hpos).trans hposu)
  · exact ((hw.mono (d := { regs := true, sld := true }) rfl (List.subset_append_left _ errRegs)).then_ hrep rfl
      (List.subset_append_right _ _)).parts

/-- R275: at VSTALL 0, or below it, nothing is judged. -/
theorem stallJudged_slow (h : s.rd (F.SLD_STALL_VSTALL n) = 0 ∨ x.vel < 4096 * s.rd (F.SLD_STALL_VSTALL n)) :
    s.stallJudged n x = false := by
  unfold State.stallJudged
  extract_lets w m
  rcases h with h | h
  · rw [show decide (w ≠ 0) = false from decide_eq_false (not_not_intro h)]
    rfl
  · rw [show decide (4096 * w ≤ x.vel) = false from decide_eq_false (Nat.not_le.mpr h)]
    simp

theorem execStall_unjudged (h : s.stallJudged n x = false) : execStall n x s = .next s := by
  unfold execStall
  rw [h]
  simp

/-! ### The current at rest (R269), and the position that software writes (R276, R282) -/

theorem execHoldCurrent_ends (he : s.flag (F.SLD_STAT_ENERG n) = true) (hb : s.flag (F.SLD_STAT_BUSY n) = false) :
    Ends (execHoldCurrent n s) fun t => (t.sld[n]).ihold = true ∧ (∀ k, k ≠ n → t.sld[k] = s.sld[k]) ∧ t = { s with sld := t.sld } := by
  unfold execHoldCurrent
  rw [he, hb, if_pos (by rfl)]
  exact .next ⟨by rw [modSld_same], fun k hk => modSld_ne hk s _, rfl⟩

theorem sldPosWrite_takes (hm : s.rd (F.SLD_STAT_MODE n) = 3 ∨ s.rd (F.SLD_STAT_MODE n) = 4) (hb : s.flag (F.SLD_STAT_BUSY n) = false) :
    s.sldPosWrite n v = (s.setReg (Reg.SLD_POS n) v).put (F.SLD_STAT_LOST n) false := if_pos ⟨hm, hb⟩

theorem sldPosWrite_refuses (hb : s.flag (F.SLD_STAT_BUSY n) = true) : s.sldPosWrite n v = s.put (F.SLD_G_STAT_CFGERR (sldGroup n)) true :=
  if_neg fun h => Bool.false_ne_true (h.2.symm.trans hb)

/-- Settles O23: a move at its target, the stall that HOME expects and the one that loses the channel, the speeds at which none is judged,
the current at rest, and the position that software writes. -/
theorem stepperEnds : Obligations.StepperEnds := by
  refine ⟨fun s n hm hb ho he => ?_, fun s n x hm hj hb ho => ?_, fun s n x h0 h7 hj ho ht => ?_,
    fun s n x h => execStall_unjudged (stallJudged_slow h), fun s n he hb => execHoldCurrent_ends he hb, fun s n v hm hb => ?_,
    fun s n v hb => ?_⟩
  · obtain ⟨t, e, hend, hmode, hpos, hmv⟩ := execMoveEnd_ends hm hb ho he
    exact ⟨t, e, hend, hmode, hpos, hmv.parts, hmv.regs⟩
  · obtain ⟨t, e, hend, hlost, hpos, hmv⟩ := execStall_home_ends ((stallMode_busy hb).trans hm) hj ho
    exact ⟨t, e, hend, hlost, hpos, hmv.parts, hmv.regs⟩
  · obtain ⟨t, e, hend, hlost, hmode, hstop, hpos, hmv⟩ := execStall_lost_ends h0 h7 hj ho ht
    exact ⟨t, e, hlost, hmode, hend.cls, hend.busy, hstop, hpos, hmv⟩
  · refine ⟨_, congrArg Host.Outcome.next (sldPosWrite_takes hm hb), ?_, State.flag_put_same _ _ _ (by simp) rfl,
      OnlyRegs.put (OnlyRegs.setReg .refl (by simp) _) (by simp) _⟩
    exact (State.reg_put_ne _ _ _ (sldPos_apart n).1).trans (State.reg_setReg_same _ _ _)
  · exact ⟨_, congrArg Host.Outcome.next (sldPosWrite_refuses hb), State.flag_put_same _ _ _ (by simp) rfl, OnlyRegs.put .refl (by simp) _⟩

end Sys2Proof.Machine
end

section
/-! ## Ports, and flits received in order -/

namespace Sys2Proof.Machine

set_option Elab.async false

variable {s t u : State} {p o : Fin 3} {f : Flit} {hd : Dword} {n typ : Nat}

/-! ### One port of the three -/

theorem port_modPort_ne (s : State) (f : HlkPort → HlkPort) (h : o ≠ p) : (s.modPort p f).port o = s.port o := by
  simp [State.modPort, State.port, Fin.val_inj, h.symm]

theorem port_of_hlk (h : t.hlk = s.hlk) : t.port p = s.port p := congrArg (fun k : Hlk => k.ports[p]) h

@[simp] theorem port_setReg (s : State) (a : Nat) (w : Word) : (s.setReg a w).port p = s.port p := port_of_hlk (State.setReg_hlk ..)
@[simp] theorem port_wr (s : State) (g : RegField) (v : Nat) : (s.wr g v).port p = s.port p := port_of_hlk (State.wr_hlk ..)
@[simp] theorem port_put (s : State) (g : RegField) (b : Bool) : (s.put g b).port p = s.port p := port_of_hlk (State.put_hlk ..)
@[simp] theorem port_bump (s : State) (a : Nat) : (s.bump a).port p = s.port p := port_of_hlk (State.bump_hlk ..)
@[simp] theorem port_bump64 (s : State) (a n : Nat) : (s.bump64 a n).port p = s.port p := port_of_hlk (State.bump64_hlk ..)

theorem otherPort_ne : ∀ {p o : Fin 3}, otherPort p = some o → o ≠ p := by decide

/-- The registers that sending on port `p` goes by are not among those that another port's flits move. -/
theorem linkRegs_apart : ∀ {p o : Fin 3}, o ≠ p → Reg.HLK_P_STAT o ∉ linkRegs p ∧ Reg.HLK_P_CRED o ∉ linkRegs p := by decide

/-- Sending on port `p` finds in `t` what it finds in `s`. -/
structure Alike (p : Fin 3) (s t : State) : Prop where
  stat  : t.reg (Reg.HLK_P_STAT p) = s.reg (Reg.HLK_P_STAT p)
  cred  : t.reg (Reg.HLK_P_CRED p) = s.reg (Reg.HLK_P_CRED p)
  swap  : (t.port p).swap = (s.port p).swap
  qc    : (t.port p).qc = (s.port p).qc
  qd    : (t.port p).qd = (s.port p).qd
  unack : (t.port p).unack = (s.port p).unack
  line  : (t.port p).line = (s.port p).line
  txSeq : (t.port p).txSeq = (s.port p).txSeq

namespace Alike

theorem refl : Alike p s s := ⟨rfl, rfl, rfl, rfl, rfl, rfl, rfl, rfl⟩

theorem trans (h : Alike p s t) (k : Alike p t u) : Alike p s u :=
  ⟨k.stat.trans h.stat, k.cred.trans h.cred, k.swap.trans h.swap, k.qc.trans h.qc, k.qd.trans h.qd, k.unack.trans h.unack,
    k.line.trans h.line, k.txSeq.trans h.txSeq⟩

/-- A move of registers that are not the port's, the port itself standing. -/
theorem of_moves {c : Parts} {as : List Nat} (h : Moves c as s t) (hp : t.port p = s.port p)
    (hs : Reg.HLK_P_STAT p ∉ as) (hc : Reg.HLK_P_CRED p ∉ as) : Alike p s t := by
  refine ⟨h.regs _ hs, h.regs _ hc, ?_, ?_, ?_, ?_, ?_, ?_⟩ <;> rw [hp]

theorem portUp (h : Alike p s t) : t.portUp p = s.portUp p := congrArg (fun w => (F.HLK_P_STAT_UP p).of w != 0) h.stat

theorem portFree (h : Alike p s t) (hp : s.PortFree p) : t.PortFree p where
  up := h.portUp.trans hp.up
  swap := h.swap.trans hp.swap
  qc := h.qc.trans hp.qc
  qd := h.qd.trans hp.qd
  unack := by rw [h.unack]; exact hp.unack
  cc := by unfold State.rd; rw [h.cred]; exact hp.cc
  cd := by unfold State.rd; rw [h.cred]; exact hp.cd

theorem sent (h : Alike p s t) (hs : t.Sent u p f) : s.Sent u p f := by
  unfold State.Sent at hs ⊢
  rwa [h.line, h.unack, h.txSeq] at hs

end Alike

/-- The frame of a command of the link. -/
theorem Moves.hlkParts {as : List Nat} (h : Moves { regs := true, hlk := true } as s t) : t = { s with regs := t.regs, hlk := t.hlk } := h.parts

/-! ### LINK flits -/

theorem sendLink_port (s : State) (p : Fin 3) (bs : List Byte) :
    (s.sendLink p bs).port p = { s.port p with line := (s.port p).line ++ [linkFlit bs] } :=
  (port_bump64 _ _ _).trans (port_modPort _ _ _)

theorem sendLink_port_ne (s : State) (bs : List Byte) (h : o ≠ p) : (s.sendLink p bs).port o = s.port o :=
  (port_bump64 _ _ _).trans (port_modPort_ne _ _ h)

theorem sendLink_moves (s : State) (p : Fin 3) (bs : List Byte) : Moves { regs := true, hlk := true } (linkRegs p) s (s.sendLink p bs) :=
  ((modPort_moves s p fun q => { q with line := q.line ++ [linkFlit bs] }).mono rfl (List.nil_subset _)).bump64 _ rfl
    (by simp [linkRegs]) (by simp [linkRegs])

/-! ### Acknowledgements (R301, R302) -/

theorem ackNow_moves (s : State) (p : Fin 3) : Moves { regs := true, hlk := true } (linkRegs p) s (s.ackNow p) := by
  unfold State.ackNow
  exact .ite .refl (((modPort_moves s p _).mono rfl (List.nil_subset _)).trans (sendLink_moves _ _ _))

theorem ackNow_port_ne (s : State) (h : o ≠ p) : (s.ackNow p).port o = s.port o := by
  unfold State.ackNow
  dsimp only
  split
  · rfl
  · exact (sendLink_port_ne _ _ h).trans (port_modPort_ne _ _ h)

theorem ackFull_moves (s : State) (p : Fin 3) : Moves { regs := true, hlk := true } (linkRegs p) s (s.ackFull p) :=
  .ite (ackNow_moves s p) .refl

theorem ackFull_port_ne (s : State) (h : o ≠ p) : (s.ackFull p).port o = s.port o := by
  unfold State.ackFull
  split
  · exact ackNow_port_ne s h
  · rfl

theorem ackFull_of_lt (h : (s.port p).ackDue < 16) : s.ackFull p = s := if_neg (Nat.not_le.mpr h)

/-! ### A flit that comes next in order (R302) -/

/-- Port `p` has taken `n` sequenced flits, not acknowledged yet. -/
def State.rxCounted (s : State) (p : Fin 3) (n : Nat) : State :=
  (s.modPort p fun q => { q with rxSeq := (q.rxSeq + n) % 256, ackDue := q.ackDue + n, nakSent := false }).bump64 (Reg.HLK_P_RX_CNT_LO p) n

/-- Port `p` has taken `n` sequenced flits. -/
def State.rxNext (s : State) (p : Fin 3) (n : Nat) : State := (s.rxCounted p n).ackFull p

theorem rxTake_next (h : s.NextIn p hd) (n : Nat) : s.rxTake p hd n = (true, s.rxNext p n) := by
  obtain ⟨_, hcrc, hseq⟩ := h
  unfold State.rxTake
  rw [hcrc, hseq]
  simp [State.rxNext, State.rxCounted]

theorem rxCounted_port (s : State) (p : Fin 3) (n : Nat) : (s.rxCounted p n).port p =
    { s.port p with rxSeq := ((s.port p).rxSeq + n) % 256, ackDue := (s.port p).ackDue + n, nakSent := false } :=
  (port_bump64 _ _ _).trans (port_modPort _ _ _)

theorem rxCounted_moves (s : State) (p : Fin 3) (n : Nat) :
    Moves { regs := true, hlk := true } [Reg.HLK_P_RX_CNT_LO p, Reg.HLK_P_RX_CNT_LO p + 4] s (s.rxCounted p n) :=
  ((modPort_moves s p _).mono rfl (List.nil_subset _)).bump64 n

theorem rxCnt_apart : ∀ p : Fin 3, Reg.HLK_P_STAT p ∉ [Reg.HLK_P_RX_CNT_LO p, Reg.HLK_P_RX_CNT_LO p + 4] ∧
    Reg.HLK_P_CRED p ∉ [Reg.HLK_P_RX_CNT_LO p, Reg.HLK_P_RX_CNT_LO p + 4] := by decide

theorem rxNext_moves (s : State) (p : Fin 3) (n : Nat) : Moves { regs := true, hlk := true } (linkRegs p) s (s.rxNext p n) :=
  ((rxCounted_moves s p n).mono rfl (by simp [linkRegs])).trans (ackFull_moves _ p)

theorem rxNext_other (s : State) (n : Nat) (h : o ≠ p) : Alike o s (s.rxNext p n) :=
  .of_moves (rxNext_moves s p n) ((ackFull_port_ne _ h).trans ((port_bump64 _ _ _).trans (port_modPort_ne s _ h)))
    (linkRegs_apart h).1 (linkRegs_apart h).2

/-- A port whose acknowledgement is not due yet sends nothing as it takes a flit. -/
theorem rxNext_self (h : (s.port p).ackDue + n < 16) : Alike p s (s.rxNext p n) := by
  have hport := rxCounted_port s p n
  have hm := rxCounted_moves s p n
  unfold State.rxNext
  rw [ackFull_of_lt (by rw [hport]; exact h)]
  refine ⟨hm.regs _ (rxCnt_apart p).1, hm.regs _ (rxCnt_apart p).2, ?_, ?_, ?_, ?_, ?_, ?_⟩ <;> rw [hport]

theorem credit_moves (s : State) (p : Fin 3) (typ n : Nat) : Moves { hlk := true } [] s (s.credit p typ n) := modPort_moves _ _ _

theorem credit_alike (s : State) (p o : Fin 3) (typ n : Nat) : Alike o s (s.credit p typ n) := by
  by_cases h : o = p
  · subst h
    have hport : (s.credit o typ n).port o = _ := port_modPort s o _
    refine ⟨rfl, rfl, ?_, ?_, ?_, ?_, ?_, ?_⟩ <;> (rw [hport]; split <;> rfl)
  · exact .of_moves (credit_moves s p typ n) (port_modPort_ne s _ h) (by simp) (by simp)

/-- The module itself has taken `n` flits of type `typ` at port `p`: their places are free again. -/
def State.rxOwned (s : State) (p : Fin 3) (typ n : Nat) : State := (s.rxNext p n).credit p typ n

theorem rxOwn_next (h : s.NextIn p hd) (typ n : Nat) : s.rxOwn p hd typ n = (true, s.rxOwned p typ n) := by
  unfold State.rxOwn
  rw [rxTake_next h]
  rfl

theorem rxOwned_moves (s : State) (p : Fin 3) (typ n : Nat) : Moves { regs := true, hlk := true } (linkRegs p) s (s.rxOwned p typ n) :=
  (rxNext_moves s p n).then_ (credit_moves _ _ _ _) rfl (List.nil_subset _)

theorem rxOwned_other (s : State) (typ n : Nat) (h : o ≠ p) : Alike o s (s.rxOwned p typ n) :=
  (rxNext_other s n h).trans (credit_alike _ _ _ _ _)

theorem rxOwned_self (h : (s.port p).ackDue + n < 16) : Alike p s (s.rxOwned p typ n) :=
  (rxNext_self h).trans (credit_alike _ _ _ _ _)

/-! ### A flit that a free port sends, whoever it comes from (R301, R305) -/

/-- The flit as it stands on the line, without what it held as it waited. -/
def Flit.bare (f : Flit) : Flit := { f with through := false, behind := 0, owes := none }

theorem Flit.sealed_bare (f : Flit) (n : Nat) : { f.sealed n with through := false, behind := 0, owes := none } = f.bare.sealed n := by
  show _ = if f.typ = 3 ∧ f.bytes.length = 116 then _ else _
  unfold Flit.sealed
  split <;> rfl

/-- The credits that a flit of type `typ` is sent against. -/
def credField (p : Fin 3) (typ : Nat) : RegField := if flitClassC typ then F.HLK_P_CRED_C p else F.HLK_P_CRED_D p

theorem credField_reg (p : Fin 3) (typ : Nat) : (credField p typ).reg = Reg.HLK_P_CRED p := by
  unfold credField
  split <;> rfl

theorem creditBack_moves (s : State) (f : Flit) : Moves { hlk := true } [] s (s.creditBack f) := by
  unfold State.creditBack
  split
  · exact .refl
  · exact modPort_moves _ _ _

theorem creditBack_port (h : f.owes ≠ some p) : (s.creditBack f).port p = s.port p := by
  unfold State.creditBack
  split
  next => rfl
  next r e => exact port_modPort_ne s _ fun q => h (q ▸ e)

theorem launch_port (h : f.owes ≠ some p) (cred : RegField) : (s.launch p cred f).port p = (s.port p).launched f.bare := by
  unfold State.launch
  simp only [port_bump64, port_wr, port_modPort, creditBack_port h, f.sealed_bare]
  rfl

theorem launch_all_moves (s : State) (f : Flit) {cred : RegField} (hc : cred.reg = Reg.HLK_P_CRED p) :
    Moves { regs := true, hlk := true } (linkRegs p) s (s.launch p cred f) := by
  have h1 : Moves { regs := true, hlk := true } (linkRegs p) s (((s.creditBack f).modPort p fun q =>
      { q with unack := q.unack ++ [(q.txSeq, { f.sealed (s.port p).txSeq with through := false, behind := 0, owes := none })],
               line := q.line ++ [(q.txSeq, { f.sealed (s.port p).txSeq with through := false, behind := 0, owes := none })] }).modPort p
        fun q => { q with txSeq := (q.txSeq + 1) % 256 }) :=
    (((creditBack_moves s f).trans (modPort_moves _ p _)).trans (modPort_moves _ p _)).mono rfl (List.nil_subset _)
  exact ((h1.wr _ rfl (by simp [linkRegs, hc])).wr _ rfl (by simp [linkRegs])).bump64 _ rfl (by simp [linkRegs]) (by simp [linkRegs])

/-- A flit that joins empty queues waits behind nothing. -/
theorem queued_empty {q : HlkPort} (hc : q.qc = []) (hd : q.qd = []) (f : Flit) : q.queued f =
    if flitClassC f.typ then { q with qc := [{ f with behind := 0 }] } else { q with qd := [{ f with behind := 0 }] } := by
  unfold HlkPort.queued
  simp only [hc, hd, List.filter_nil, List.length_nil, ite_self, List.nil_append]

theorem pickFlit_one (passed thru : Nat) (f : Flit) : pickFlit passed thru [{ f with behind := 0 }] = some 0 := by
  unfold pickFlit
  cases f.through <;> simp

/-- R301, R302: a free port sends a flit at once, against a credit of its class. -/
theorem sendFlit_free (hs : flitSequenced f.typ = true) (hp : s.PortFree p) : s.sendFlit p f =
    ((s.modPort p (·.queued f)).modPort p (·.taken (flitClassC f.typ) 0)).launch p (credField p f.typ) { f with behind := 0 } := by
  have hup : s.flag (F.HLK_P_STAT_UP p) = true := hp.up
  have hq := queued_empty hp.qc hp.qd f
  have hrd : ∀ g, (s.modPort p (·.queued f)).rd g = s.rd g := fun _ => rfl
  have hfl : ∀ g, (s.modPort p (·.queued f)).flag g = s.flag g := fun _ => rfl
  unfold State.sendFlit credField
  rw [if_pos hs]
  cases hk : flitClassC f.typ <;>
    simp only [hk, if_true, Bool.false_eq_true, if_false] at hq ⊢ <;>
    simp only [port_modPort, hq, hp.qc, hp.qd, List.length_singleton, List.length_nil, Nat.add_zero, Nat.zero_add] <;>
    unfold State.pump <;>
    simp only [port_modPort, hq, hrd, hfl, hp.qc, hp.unack, hup, hp.swap, hp.cc, hp.cd, if_true, pickFlit_one] <;>
    simp [State.pump, pickFlit]

theorem sendFlit_free_moves (hs : flitSequenced f.typ = true) (hp : s.PortFree p) :
    Moves { regs := true, hlk := true } (linkRegs p) s (s.sendFlit p f) := by
  rw [sendFlit_free hs hp]
  exact (((modPort_moves s p _).trans (modPort_moves _ p _)).mono rfl (List.nil_subset _)).trans
    (launch_all_moves _ _ (credField_reg p f.typ))

/-- What a free port puts on its line of a flit that holds no place of its own buffer. -/
theorem sendFlit_free_sent (hs : flitSequenced f.typ = true) (hp : s.PortFree p) (ho : f.owes ≠ some p) :
    s.Sent (s.sendFlit p f) p f.bare := by
  have hport : (s.sendFlit p f).port p = (((s.port p).queued f).taken (flitClassC f.typ) 0).launched f.bare := by
    rw [sendFlit_free hs hp, launch_port (f := { f with behind := 0 }) ho, port_modPort, port_modPort]
    rfl
  unfold State.Sent
  rw [hport, queued_empty hp.qc hp.qd]
  cases flitClassC f.typ <;> exact ⟨rfl, rfl, rfl⟩

end Sys2Proof.Machine
end

section
/-! ## The chain -/

namespace Sys2Proof.Machine

set_option Elab.async false

variable {s t u : State} {p o : Fin 3} {f : Flit} {h : Dword} {pl : List Byte}

/-! ### A flit for elsewhere (R294, R305) -/

/-- R294, R305: a flit in order that is for elsewhere is taken off its port and goes on. -/
theorem execFlitForward_next {p : Port} (hn : s.NextIn (portIdx p) h) (hq : flitSequenced (hTYPE h) = true) (hm : s.mine h = false)
    (h9 : hTYPE h = 9 → hHB h = true ∧ (beAt pl 0 1 = 1 ∨ beAt pl 0 1 = 2)) (hC : hTYPE h ≠ 0xC) :
    execFlitForward p h pl s = .next ((s.rxNext (portIdx p) 1).cutThrough (portIdx p) (flitOf h pl)) := by
  have h14 : ¬ 14 ≤ hTYPE h := by
    simp only [flitSequenced, Bool.and_eq_true, decide_eq_true_iff] at hq
    omega
  have hop : ¬ (hTYPE h = 9 ∧ beAt pl 0 1 ≠ 1 ∧ beAt pl 0 1 ≠ 2) := fun ⟨e, h1, h2⟩ => (h9 e).2.elim h1 h2
  have hhb : hTYPE h ≠ 9 ∨ hHB h = true := or_iff_not_imp_left.mpr fun e => (h9 (not_not.mp e)).1
  unfold execFlitForward
  simp only [hn.1, h14, hq, hm, hhb, hC, hop, rxTake_next hn, Bool.not_true, Bool.not_false, Bool.false_eq_true, if_false, if_true,
    Bool.true_and, ne_eq, not_false_eq_true, decide_true]

theorem cutThrough_forwards (ho : otherPort p = some o) (hup : s.portUp o = true) : s.cutThrough p f =
    (s.bump64 (Reg.HLK_P_FWD_CNT_LO p) 1).sendFlit o { f with through := true, owes := some p } := by
  unfold State.cutThrough
  simp only [ho, hup, if_true]

theorem cutThrough_drops (ho : (otherPort p).all (fun o => !s.portUp o) = true) :
    s.cutThrough p f = (s.bump (Reg.HLK_P_DROP_CNT p)).credit p f.typ 1 := by
  unfold State.cutThrough
  cases e : otherPort p with
  | none => rfl
  | some o =>
    rw [e] at ho
    have hdown : s.portUp o = false := by simpa using ho
    simp only [hdown, Bool.false_eq_true, if_false]

/-- The counts that forwarding and dropping move lie apart from what sending moves. -/
theorem forwardRegs_apart : ∀ p o : Fin 3, o ≠ p →
    (∀ a ∈ [Reg.HLK_P_FWD_CNT_LO p, Reg.HLK_P_FWD_CNT_LO p + 4], a ∉ linkRegs p ∧ a ∉ linkRegs o) ∧
    (∀ a ∈ [Reg.HLK_P_STAT o, Reg.HLK_P_CRED o], a ∉ [Reg.HLK_P_FWD_CNT_LO p, Reg.HLK_P_FWD_CNT_LO p + 4]) := by decide

theorem dropCnt_apart : ∀ p : Fin 3, Reg.HLK_P_DROP_CNT p ∉ linkRegs p := by decide

theorem pair_of_regs {c : Parts} {as : List Nat} (k : Moves c as s t) {a : Nat} (ha : a ∉ as) (hb : a + 4 ∉ as) : t.pair a = s.pair a := by
  unfold State.pair
  rw [k.regs _ ha, k.regs _ hb]

/-- A flit taken off a port, on a flit's way through the module. -/
theorem flitOf_bare (h : Dword) (pl : List Byte) (r : Option (Fin 3)) :
    Flit.bare { flitOf h pl with through := true, owes := r } = flitOf h pl := rfl

/-- R294, R305: a flit for elsewhere goes on where the other port is free. -/
theorem cutThrough_sends (hne : o ≠ p) (ho : otherPort p = some o) (hq : flitSequenced f.typ = true) (hp : s.PortFree o) (n : Nat) :
    s.Sent ((s.rxNext p n).cutThrough p f) o { f with through := true, owes := some p }.bare ∧
      ((s.rxNext p n).cutThrough p f).pair (Reg.HLK_P_FWD_CNT_LO p) = (s.pair (Reg.HLK_P_FWD_CNT_LO p) + 1) % 2 ^ 64 ∧
      Moves { regs := true, hlk := true }
        ([Reg.HLK_P_FWD_CNT_LO p, Reg.HLK_P_FWD_CNT_LO p + 4] ++ linkRegs p ++ linkRegs o) s ((s.rxNext p n).cutThrough p f) := by
  obtain ⟨hfwd, hsend⟩ := forwardRegs_apart p o hne
  have h1 := rxNext_moves s p n
  have ha1 := rxNext_other s n hne
  have hpair : (s.rxNext p n).pair (Reg.HLK_P_FWD_CNT_LO p) = s.pair (Reg.HLK_P_FWD_CNT_LO p) :=
    pair_of_regs h1 (hfwd _ (by simp)).1 (hfwd _ (by simp)).1
  rw [cutThrough_forwards ho (ha1.portUp.trans hp.up)]
  generalize s.rxNext p n = s1 at *
  have h2 : Moves { regs := true, hlk := true } [Reg.HLK_P_FWD_CNT_LO p, Reg.HLK_P_FWD_CNT_LO p + 4] s1
    (s1.bump64 (Reg.HLK_P_FWD_CNT_LO p) 1) := Moves.refl.bump64 1
  have ha2 : Alike o s (s1.bump64 (Reg.HLK_P_FWD_CNT_LO p) 1) :=
    ha1.trans (.of_moves h2 (port_bump64 _ _ _) (hsend _ (by simp)) (hsend _ (by simp)))
  have hcnt : (s1.bump64 (Reg.HLK_P_FWD_CNT_LO p) 1).pair (Reg.HLK_P_FWD_CNT_LO p) = (s.pair (Reg.HLK_P_FWD_CNT_LO p) + 1) % 2 ^ 64 := by
    rw [← hpair, State.bump64, State.pair_setPair_same, Nat.mod_mod]
  generalize s1.bump64 (Reg.HLK_P_FWD_CNT_LO p) 1 = s2 at *
  have h3 := sendFlit_free_moves (f := { f with through := true, owes := some p }) hq (ha2.portFree hp)
  refine ⟨ha2.sent (sendFlit_free_sent hq (ha2.portFree hp) (by simpa using hne.symm)), ?_, ?_⟩
  · rw [pair_of_regs h3 (hfwd _ (by simp)).2 (hfwd _ (by simp)).2, hcnt]
  · refine ((h1.mono rfl ?_).then_ h2 rfl ?_).then_ h3 rfl (List.subset_append_right _ _)
    · exact fun a ha => List.mem_append_left _ (List.mem_append_right _ ha)
    · exact fun a ha => List.mem_append_left _ (List.mem_append_left _ ha)

/-- R294: with no port up to go out of, it is dropped and counted. -/
theorem cutThrough_drops_counted (ho : (otherPort p).all (fun o => !s.portUp o) = true) (n : Nat) :
    Counts s ((s.rxNext p n).cutThrough p f) (Reg.HLK_P_DROP_CNT p) ∧
      Moves { regs := true, hlk := true } (Reg.HLK_P_DROP_CNT p :: linkRegs p) s ((s.rxNext p n).cutThrough p f) := by
  have h1 := rxNext_moves s p n
  have hup : (otherPort p).all (fun o => !(s.rxNext p n).portUp o) = true := by
    cases e : otherPort p with
    | none => rfl
    | some o =>
      rw [e] at ho
      simpa [(rxNext_other s n (otherPort_ne e)).portUp] using ho
  rw [cutThrough_drops hup]
  refine ⟨(Counts.bump.then_ (credit_moves _ p f.typ 1) (by simp)).after h1 (dropCnt_apart p), ?_⟩
  exact ((h1.mono rfl (List.subset_cons_self _ _)).bump).then_ (credit_moves _ _ _ _) rfl (List.nil_subset _)

/-! ### BREAK (R299) -/

/-- R299: BREAK marks its end, on the state in which it has been taken. -/
def State.breakMarked (s : State) (b : Bool) : State :=
  (s.put (if b then F.HLK_STAT_ENDB else F.HLK_STAT_ENDA) false).put (if b then F.HLK_STAT_BRKB else F.HLK_STAT_BRKA) true

theorem breakMarked_flags (s : State) (b : Bool) :
    (s.breakMarked b).flag (if b then F.HLK_STAT_ENDB else F.HLK_STAT_ENDA) = false ∧
      (s.breakMarked b).flag (if b then F.HLK_STAT_BRKB else F.HLK_STAT_BRKA) = true := by
  cases b <;> refine ⟨?_, State.flag_put_same _ _ _ (by decide) rfl⟩ <;>
    exact (State.flag_put_disjoint _ _ _ _ (by decide) (by decide)).trans (State.flag_put_same _ _ _ (by decide) rfl)

theorem breakMarked_moves (s : State) (b : Bool) : Moves { regs := true } [Reg.HLK_STAT] s (s.breakMarked b) := by
  cases b <;> exact (Moves.refl.put _).put _

/-- R299: a BREAK goes on by the other port where that is up. -/
def State.breakPassed (s : State) (p : Fin 3) (f : Flit) : State :=
  match otherPort p with
  | some o => if s.portUp o then s.sendFlit o f else s
  | none => s

theorem breakPassed_noted (s : State) (p : Fin 3) (f : Flit) : Noted [] s (s.breakPassed p f) := by
  unfold State.breakPassed
  split
  · exact .ite (Noted.refl.sendFlit _ _) .refl
  · exact .refl

theorem breakPassed_sent (ho : otherPort p = some o) (hq : flitSequenced f.typ = true) (hw : f.owes = none) (hp : s.PortFree o) :
    s.Sent (s.breakPassed p f) o f.bare := by
  have hup : s.portUp o = true := hp.up
  unfold State.breakPassed
  simp only [ho, hup, if_true]
  exact sendFlit_free_sent hq hp (by rw [hw]; exact Option.some_ne_none o |>.symm)

/-- R303: a task that used the end that a BREAK names is told; with none running the error is counted. -/
theorem breakTold_moves (hr : s.taskRunning = false) (k : Nat) :
    Moves { regs := true } errRegs s (if s.tsk.used.getLsbD k then s.taskError 0x31 else s) := by
  rw [taskError_idle hr]
  exact .ite (countErr_moves s _) .refl

theorem execBreakFlit_next {p : Port} (hn : s.NextIn (portIdx p) h) (ht : hTYPE h = 0xC) (b : Bool) (hb : decide (beAt pl 0 1 = 1) = b) :
    execBreakFlit p h pl s = .next
      (let u := ((((s.rxOwned (portIdx p) 0xC 1).breakMarked b).breakPassed (portIdx p) { flitOf h pl with src := 0, through := true }).event
        Ev.linkDown)
      if u.tsk.used.getLsbD b.toNat then u.taskError 0x31 else u) := by
  have hup : s.portUp (portIdx p) = true := hn.1
  unfold execBreakFlit
  simp only [hup, ht, rxOwn_next hn, hb, Bool.true_and, decide_true, if_true, Bool.not_true, Bool.false_eq_true, if_false]
  rfl

theorem breakRegs_apart : ∀ p : Fin 3, Reg.HLK_STAT ∉ [] ++ noteRegs ∧ Reg.HLK_STAT ∉ eventRegs Ev.linkDown ++ errRegs ∧
    F.TSK_STATE_STATE.reg ∉ linkRegs p ++ [Reg.HLK_STAT] ∧ F.TSK_STATE_STATE.reg ∉ ([] ++ noteRegs) ++ eventRegs Ev.linkDown ∧
    Reg.SEQ_EVT_PEND (Ev.linkDown / 32) ∉ errRegs := by decide

/-- The registers that a BREAK moves. -/
def breakRegs (p : Fin 3) : List Nat := linkRegs p ++ [Reg.HLK_STAT] ++ noteRegs ++ eventRegs Ev.linkDown ++ errRegs

theorem hlkStat_apart : ∀ o : Fin 3, Reg.HLK_P_STAT o ∉ [Reg.HLK_STAT] ∧ Reg.HLK_P_CRED o ∉ [Reg.HLK_STAT] := by decide

theorem sent_of_port (h : s.Sent t p f) (e : u.port p = t.port p) : s.Sent u p f := by
  unfold State.Sent at h ⊢
  rwa [e]

/-- R299, R303: BREAK in order marks its end and goes on; with no task running it ends none. -/
theorem execBreakFlit_ends {p : Port} (hn : s.NextIn (portIdx p) h) (ht : hTYPE h = 0xC) (hr : s.taskRunning = false) {b : Bool}
    (hb : decide (beAt pl 0 1 = 1) = b) : Ends (execBreakFlit p h pl s) fun t =>
      t.flag (if b then F.HLK_STAT_ENDB else F.HLK_STAT_ENDA) = false ∧ t.flag (if b then F.HLK_STAT_BRKB else F.HLK_STAT_BRKA) = true ∧
      t.evPending Ev.linkDown = true ∧
      (∀ o, otherPort (portIdx p) = some o → s.PortFree o → s.Sent t o { flitOf h pl with src := 0 }) ∧
      Moves { regs := true, hlk := true } (breakRegs (portIdx p)) s t := by
  rw [execBreakFlit_next hn ht b hb]
  generalize portIdx p = i
  obtain ⟨hn1, hn2, hn3, hn4, hn5⟩ := breakRegs_apart i
  have h1 := rxOwned_moves s i 0xC 1
  have ha1 : ∀ o, otherPort i = some o → Alike o s (s.rxOwned i 0xC 1) := fun o ho => rxOwned_other s _ _ (otherPort_ne ho)
  generalize s.rxOwned i 0xC 1 = s1 at *
  have h2 := breakMarked_moves s1 b
  obtain ⟨hend, hbrk⟩ := breakMarked_flags s1 b
  have ha2 : ∀ o, otherPort i = some o → Alike o s (s1.breakMarked b) := fun o ho =>
    (ha1 o ho).trans (.of_moves h2 (port_of_hlk (h2.keep State.hlk)) (hlkStat_apart o).1 (hlkStat_apart o).2)
  have h12 : Moves { regs := true, hlk := true } (linkRegs i ++ [Reg.HLK_STAT]) s (s1.breakMarked b) :=
    (h1.mono rfl (List.subset_append_left _ _)).then_ h2 rfl (List.subset_append_right _ _)
  generalize s1.breakMarked b = s2 at *
  have h3 := Moves.of_noted (breakPassed_noted s2 i { flitOf h pl with src := 0, through := true })
  have hs3 : ∀ o, otherPort i = some o → s.PortFree o →
      s.Sent (s2.breakPassed i { flitOf h pl with src := 0, through := true }) o { flitOf h pl with src := 0 } := fun o ho hp =>
    (ha2 o ho).sent (breakPassed_sent ho (by show flitSequenced (hTYPE h) = true; rw [ht]; rfl) rfl ((ha2 o ho).portFree hp))
  generalize s2.breakPassed i _ = s3 at *
  have h4 := event_moves s3 Ev.linkDown
  have hp4 := event_pending s3 (n := Ev.linkDown) (by decide)
  have hrun : (s3.event Ev.linkDown).taskRunning = false := by
    unfold State.taskRunning at hr ⊢
    have h34 := (h3.mono (d := { regs := true, hlk := true }) rfl (List.subset_append_left _ _)).then_ h4 rfl (List.subset_append_right _ _)
    rw [h34.rd hn4, h12.rd hn3]
    exact hr
  generalize s3.event Ev.linkDown = s4 at *
  dsimp only
  have h5 := breakTold_moves hrun b.toNat
  generalize (if s4.tsk.used.getLsbD b.toNat then s4.taskError 0x31 else s4) = s5 at *
  have h45 : Moves { regs := true } (eventRegs Ev.linkDown ++ errRegs) s3 s5 :=
    (h4.mono rfl (List.subset_append_left _ _)).then_ h5 rfl (List.subset_append_right _ _)
  have hstat : ∀ g : RegField, g.reg = Reg.HLK_STAT → s5.flag g = s2.flag g := fun g hg =>
    (h45.flag (hg ▸ hn2)).trans (h3.flag (hg ▸ hn1))
  refine .next ⟨(hstat _ (by split <;> rfl)).trans hend, (hstat _ (by split <;> rfl)).trans hbrk,
    (evPending_of_moves h5 (by decide) hn5).trans hp4, fun o ho hp => sent_of_port (hs3 o ho hp) (port_of_hlk (h45.keep State.hlk)), ?_⟩
  refine ((h12.mono rfl ?_).then_ h3 rfl ?_).then_ h45 rfl ?_ <;> intro a <;> simp only [breakRegs, List.mem_append] <;> tauto

/-! ### ENUM (R298, R304) -/

/-- The end by which an ENUM request came is known. -/
abbrev endField (p : Fin 3) : RegField := if p = 0 then F.HLK_STAT_ENDA else F.HLK_STAT_ENDB

theorem endField_reg (p : Fin 3) : (endField p).reg = Reg.HLK_STAT := by
  unfold endField
  split <;> rfl

theorem endField_put (s : State) (p : Fin 3) : (s.put (endField p) true).flag (endField p) = true := by
  unfold endField
  split <;> exact State.flag_put_same _ _ _ (by decide) rfl

/-- R298: an ENUM request in order, by an end of the chain, is acted on. -/
theorem execEnum_next {p : Port} (hn : s.NextIn (portIdx p) h) (ht : hTYPE h = 9) (hb : hHB h = false)
    (ho : otherPort (portIdx p) = some o) (hop : beAt pl 0 1 = 1) :
    execEnum p h pl s = .next ((s.rxOwned (portIdx p) 9 1).enumRun (portIdx p) o pl) := by
  have hup : s.portUp (portIdx p) = true := hn.1
  unfold execEnum
  simp only [hup, ht, hb, rxOwn_next hn, ho, hop, Bool.true_and, Bool.not_false, decide_true, if_true, Bool.not_true, Bool.false_eq_true,
    if_false, ne_eq, not_true_eq_false]

/-- The module has taken hop ID `n` from a request that came by port `p`. -/
def State.numbered (s : State) (p : Fin 3) (n : Nat) : State :=
  ((s.put (endField p) true).wr F.HLK_ID_HOP n).put F.HLK_ID_VALID true

theorem numbered_moves (s : State) (p : Fin 3) (n : Nat) : Moves { regs := true } [Reg.HLK_ID, Reg.HLK_STAT] s (s.numbered p n) :=
  ((Moves.refl.put true rfl (by simp [endField_reg])).wr n).put true

theorem numbered_hop (s : State) (p : Fin 3) {n : Nat} (hn : n < 64) : (s.numbered p n).hop = n := by
  have hv : (s.numbered p n).flag F.HLK_ID_VALID = true := State.flag_put_same _ _ _ (by decide) rfl
  have hh : (s.numbered p n).rd F.HLK_ID_HOP = n % 2 ^ 6 :=
    (State.rd_put_disjoint _ _ _ _ (by decide) (by decide)).trans (State.rd_wr_same _ _ _ (by decide))
  unfold State.hop
  rw [if_pos hv, hh]
  exact Nat.mod_eq_of_lt hn

theorem numbered_valid (s : State) (p : Fin 3) (n : Nat) : (s.numbered p n).flag F.HLK_ID_VALID = true :=
  State.flag_put_same _ _ _ (by decide) rfl

theorem numbered_end (s : State) (p : Fin 3) (n : Nat) : (s.numbered p n).flag (endField p) = true := by
  have hne : (endField p).reg ≠ Reg.HLK_ID := by rw [endField_reg]; decide
  unfold State.numbered
  rw [State.flag_put_ne _ _ _ hne, State.flag_wr_ne _ _ _ hne, endField_put]

/-- R298: a module without a number takes its own. -/
theorem takeHop_first (hv : s.flag F.HLK_ID_VALID = false) (hw : s.pwr.owed = false) (n : Nat) :
    s.takeHop n = (s.wr F.HLK_ID_HOP n).put F.HLK_ID_VALID true := by
  unfold State.takeHop
  simp only [hv, hw, State.put_pwr, State.wr_pwr, Bool.false_eq_true, if_false]

/-- R298: the request numbers the module and goes on with the count one higher. -/
theorem enumRun_numbers (hf : beAt pl 1 1 = 0) (hc : beAt pl 2 1 < 64) (hv : s.flag F.HLK_ID_VALID = false) (hw : s.pwr.owed = false)
    (hup : s.portUp o = true) (ho : Alike o s (s.numbered p ((beAt pl 3 1 + beAt pl 2 1) % 64))) :
    s.enumRun p o pl = (s.numbered p ((beAt pl 3 1 + beAt pl 2 1) % 64)).sendFlit o (enumOn (beAt pl 2 1 + 1) (beAt pl 3 1) (beAt pl 5 1)) := by
  have hhop : (s.numbered p ((beAt pl 3 1 + beAt pl 2 1) % 64)).hop = (beAt pl 3 1 + beAt pl 2 1) % 64 :=
    numbered_hop s p (Nat.mod_lt _ (by decide))
  have hv' : (s.put (endField p) true).flag F.HLK_ID_VALID = false := by
    rw [State.flag_put_ne _ _ _ (by rw [endField_reg]; decide), hv]
  have hup' := ho.portUp.trans hup
  have htake := takeHop_first (s := s.put (endField p) true) hv' hw ((beAt pl 3 1 + beAt pl 2 1) % 64)
  unfold State.enumRun
  extract_lets s1 flags count base mm n s2 miss flags' mm' body
  have hfl : flags = 0 := hf
  have hn : n = (base + count) % 64 := by simp [n, hfl]
  have hs2 : s2 = s.numbered p n := by
    unfold s2
    rw [if_pos (by simp [s1, hv'])]
    rw [hn]
    exact htake
  have hmiss : miss = false := by simp [miss, hs2, hn, base, count, hhop]
  rw [if_neg (Nat.ne_of_lt hc), hs2, hn, if_pos hup']
  have hfl' : flags' = 0 := by simp [flags', hmiss, hfl]
  have hmm : mm' = mm := by simp [mm', hmiss]
  unfold body
  rw [hfl', hmm]
  rfl

/-- R298: past 64 modules the request is answered as an overflow. -/
theorem enumRun_overflow (hc : beAt pl 2 1 = 64) : s.enumRun p o pl =
    (s.put (endField p) true).enumAnswer p (beAt pl 1 1 % 8 + 8) 65 (beAt pl 3 1) (beAt pl 5 1) := by
  unfold State.enumRun
  extract_lets s1 flags count base mm
  have hcount : count = 64 := hc
  rw [if_pos hcount, hcount]

/-- R298: `HLK_ENUM_STAT` shows a reply. -/
def State.enumShown (s : State) (id flags count base : Nat) : State :=
  (((s.wr F.HLK_ENUM_STAT_HOPID id).wr F.HLK_ENUM_STAT_COUNT count).wr F.HLK_ENUM_STAT_FLAGS flags).wr F.HLK_ENUM_STAT_BASE base

theorem enumShown_moves (s : State) (id flags count base : Nat) :
    Moves { regs := true } [Reg.HLK_ENUM_STAT] s (s.enumShown id flags count base) :=
  (((Moves.refl.wr _).wr _).wr _).wr _

theorem enumShown_count (s : State) (id flags count base : Nat) :
    (s.enumShown id flags count base).rd F.HLK_ENUM_STAT_COUNT = count % 2 ^ 8 :=
  (State.rd_wr_disjoint _ _ _ _ (by decide) (by decide)).trans
    ((State.rd_wr_disjoint _ _ _ _ (by decide) (by decide)).trans (State.rd_wr_same _ _ _ (by decide)))

theorem enumShown_flags (s : State) (id flags count base : Nat) :
    (s.enumShown id flags count base).rd F.HLK_ENUM_STAT_FLAGS = flags % 2 ^ 8 :=
  (State.rd_wr_disjoint _ _ _ _ (by decide) (by decide)).trans (State.rd_wr_same _ _ _ (by decide))

theorem hop_of_moves {c : Parts} {as : List Nat} (k : Moves c as s t) (hn : Reg.HLK_ID ∉ as) : t.hop = s.hop := by
  unfold State.hop
  rw [k.flag (f := F.HLK_ID_VALID) hn, k.rd (f := F.HLK_ID_HOP) hn]

/-- The registers that a reply to ENUM shows. -/
def replyRegs : List Nat := [Reg.HLK_ID, Reg.CFG_SERIAL 0, Reg.CFG_SERIAL 1, Reg.CFG_SERIAL 2, Reg.CFG_ID]

theorem enumReply_of_moves {c : Parts} {as : List Nat} (k : Moves c as s t) (hn : ∀ a ∈ replyRegs, a ∉ as) (flags count base mm : Nat) :
    t.enumReply flags count base mm = s.enumReply flags count base mm := by
  have hser : (List.range 3).flatMap (fun i => beBytes 4 (t.reg (Reg.CFG_SERIAL i)).toNat) =
      (List.range 3).flatMap (fun i => beBytes 4 (s.reg (Reg.CFG_SERIAL i)).toNat) := by
    refine List.flatMap_congr fun i hi => ?_
    have h3 : Reg.CFG_SERIAL i ∈ replyRegs := by
      have := List.mem_range.mp hi
      interval_cases i <;> decide
    rw [k.regs _ (hn _ h3)]
  unfold State.enumReply
  rw [hop_of_moves k (hn _ (by decide)), k.flag (f := F.HLK_ID_VALID) (hn _ (by decide)), hser, k.regs Reg.CFG_ID (hn _ (by decide))]

theorem enumReply_plain (s : State) (flags count base mm : Nat) : (s.enumReply flags count base mm).Plain :=
  ⟨rfl, rfl, by simp [State.enumReply], rfl, rfl, rfl⟩

theorem enumOn_plain (count base mm : Nat) : (enumOn count base mm).Plain := ⟨rfl, rfl, by simp [enumOn], rfl, rfl, rfl⟩

theorem enumRegs_apart : ∀ p o : Fin 3, (∀ a ∈ replyRegs, a ∉ linkRegs p ++ [Reg.HLK_STAT]) ∧
    (∀ a ∈ [Reg.HLK_ENUM_STAT, Reg.HLK_ID, Reg.HLK_STAT], a ∉ linkRegs p) ∧
    (∀ a ∈ [Reg.HLK_P_STAT o, Reg.HLK_P_CRED o], a ∉ [Reg.HLK_STAT] ∧ a ∉ [Reg.HLK_ENUM_STAT] ∧ a ∉ [Reg.HLK_ID, Reg.HLK_STAT]) := by
  decide

/-- R298, R304: a request that numbers the module and goes on. -/
theorem execEnum_numbers {p : Port} (hn : s.NextIn (portIdx p) h) (ht : hTYPE h = 9) (hb : hHB h = false)
    (ho : otherPort (portIdx p) = some o) (hp : s.PortFree o) (hop : beAt pl 0 1 = 1) (hf : beAt pl 1 1 = 0) (hc : beAt pl 2 1 < 64)
    (hv : s.flag F.HLK_ID_VALID = false) (hw : s.pwr.owed = false) : Ends (execEnum p h pl s) fun t =>
      t.flag F.HLK_ID_VALID = true ∧ t.hop = (beAt pl 3 1 + beAt pl 2 1) % 64 ∧
      s.Sent t o (enumOn (beAt pl 2 1 + 1) (beAt pl 3 1) (beAt pl 5 1)) ∧ t.flag (endField (portIdx p)) = true ∧
      Moves { regs := true, hlk := true } ([Reg.HLK_ID, Reg.HLK_STAT] ++ linkRegs (portIdx p) ++ linkRegs o) s t := by
  rw [execEnum_next hn ht hb ho hop]
  generalize portIdx p = i at *
  obtain ⟨hrep, happ, hno⟩ := enumRegs_apart i o
  have hother := (enumRegs_apart o o).2.1
  have h1 := rxOwned_moves s i 9 1
  have ha1 := rxOwned_other s 9 1 (otherPort_ne ho)
  have hv1 : (s.rxOwned i 9 1).flag F.HLK_ID_VALID = false := (h1.flag (happ _ (by simp))).trans hv
  have hw1 : (s.rxOwned i 9 1).pwr.owed = false := (congrArg Pwr.owed (h1.keep State.pwr)).trans hw
  generalize s.rxOwned i 9 1 = s1 at *
  have h2 := numbered_moves s1 i ((beAt pl 3 1 + beAt pl 2 1) % 64)
  have ha2 : Alike o s1 (s1.numbered i ((beAt pl 3 1 + beAt pl 2 1) % 64)) :=
    .of_moves h2 (port_of_hlk (h2.keep State.hlk)) (hno _ (by simp)).2.2 (hno _ (by simp)).2.2
  rw [enumRun_numbers hf hc hv1 hw1 (ha1.portUp.trans hp.up) ha2]
  have hhop := numbered_hop s1 i (Nat.mod_lt (beAt pl 3 1 + beAt pl 2 1) (by decide : 0 < 64))
  have hval := numbered_valid s1 i ((beAt pl 3 1 + beAt pl 2 1) % 64)
  have hend := numbered_end s1 i ((beAt pl 3 1 + beAt pl 2 1) % 64)
  generalize s1.numbered i ((beAt pl 3 1 + beAt pl 2 1) % 64) = s2 at *
  have hfree := (ha1.trans ha2).portFree hp
  have h3 := sendFlit_plain_moves (enumOn_plain (beAt pl 2 1 + 1) (beAt pl 3 1) (beAt pl 5 1)) hfree
  refine .next ⟨(h3.flag (hother _ (by simp))).trans hval, (hop_of_moves h3 (hother _ (by simp))).trans hhop,
    (ha1.trans ha2).sent (sendFlit_plain_sent (enumOn_plain _ _ _) hfree),
    (h3.flag (by rw [endField_reg]; exact hother _ (by simp))).trans hend, ?_⟩
  refine ((h1.mono rfl ?_).then_ h2 rfl ?_).then_ h3 rfl (List.subset_append_right _ _)
  · exact fun a ha => List.mem_append_left _ (List.mem_append_right _ ha)
  · exact fun a ha => List.mem_append_left _ (List.mem_append_left _ ha)

/-- R298, R304: a request past 64 modules is answered on the port it came by. -/
theorem execEnum_overflows {p : Port} (hn : s.NextIn (portIdx p) h) (hk : (s.port (portIdx p)).ackDue < 15) (ht : hTYPE h = 9)
    (hb : hHB h = false) (ho : otherPort (portIdx p) = some o) (hp : s.PortFree (portIdx p)) (hop : beAt pl 0 1 = 1)
    (hc : beAt pl 2 1 = 64) : Ends (execEnum p h pl s) fun t =>
      s.Sent t (portIdx p) (s.enumReply (beAt pl 1 1 % 8 + 8) 65 (beAt pl 3 1) (beAt pl 5 1)) ∧ t.hop = s.hop ∧
      t.rd F.HLK_ENUM_STAT_COUNT = 65 ∧ t.rd F.HLK_ENUM_STAT_FLAGS = beAt pl 1 1 % 8 + 8 ∧
      Moves { regs := true, hlk := true } ([Reg.HLK_STAT, Reg.HLK_ENUM_STAT] ++ linkRegs (portIdx p)) s t := by
  rw [execEnum_next hn ht hb ho hop, enumRun_overflow hc]
  generalize portIdx p = i at *
  obtain ⟨hrep, happ, hno⟩ := enumRegs_apart i i
  have h1 := rxOwned_moves s i 9 1
  have ha1 := rxOwned_self (typ := 9) (n := 1) (Nat.add_lt_add_right hk 1)
  generalize s.rxOwned i 9 1 = s1 at *
  have h2 : Moves { regs := true } [Reg.HLK_STAT] s1 (s1.put (endField i) true) := Moves.refl.put true rfl (by simp [endField_reg])
  have ha2 : Alike i s (s1.put (endField i) true) :=
    ha1.trans (.of_moves h2 (port_put _ _ _) (hno _ (by simp)).1 (hno _ (by simp)).1)
  have h12 : Moves { regs := true, hlk := true } (linkRegs i ++ [Reg.HLK_STAT]) s (s1.put (endField i) true) :=
    (h1.mono rfl (List.subset_append_left _ _)).then_ h2 rfl (List.subset_append_right _ _)
  have hr := enumReply_of_moves h12 hrep (beAt pl 1 1 % 8 + 8) 65 (beAt pl 3 1) (beAt pl 5 1)
  generalize s1.put (endField i) true = s2 at *
  unfold State.enumAnswer
  dsimp only
  rw [hr]
  generalize hrep' : s.enumReply (beAt pl 1 1 % 8 + 8) 65 (beAt pl 3 1) (beAt pl 5 1) = r
  have hplain : r.Plain := hrep' ▸ enumReply_plain _ _ _ _ _
  have h3 := enumShown_moves s2 (beAt r.bytes 4 1) (beAt pl 1 1 % 8 + 8) 65 (beAt pl 3 1)
  have hcount := enumShown_count s2 (beAt r.bytes 4 1) (beAt pl 1 1 % 8 + 8) 65 (beAt pl 3 1)
  have hflags := enumShown_flags s2 (beAt r.bytes 4 1) (beAt pl 1 1 % 8 + 8) 65 (beAt pl 3 1)
  have ha3 := ha2.trans (.of_moves h3 (port_of_hlk (h3.keep State.hlk)) (hno _ (by simp)).2.1 (hno _ (by simp)).2.1)
  change Ends (.next ((s2.enumShown (beAt r.bytes 4 1) (beAt pl 1 1 % 8 + 8) 65 (beAt pl 3 1)).sendFlit i r)) _
  generalize s2.enumShown (beAt r.bytes 4 1) (beAt pl 1 1 % 8 + 8) 65 (beAt pl 3 1) = s3 at *
  have h4 := sendFlit_plain_moves hplain (ha3.portFree hp)
  have hm : Moves { regs := true, hlk := true } ([Reg.HLK_STAT, Reg.HLK_ENUM_STAT] ++ linkRegs i) s (s3.sendFlit i r) := by
    refine ((h12.mono rfl ?_).then_ h3 rfl ?_).then_ h4 rfl ?_ <;> intro a <;>
      simp only [List.mem_append, List.mem_cons] <;> tauto
  refine .next ⟨ha3.sent (sendFlit_plain_sent hplain (ha3.portFree hp)), hop_of_moves hm ?_, ?_, ?_, hm⟩
  · exact List.not_mem_append (by decide) (happ _ (by simp))
  · exact (h4.rd (happ _ (by simp))).trans hcount
  · rw [h4.rd (happ _ (by simp)), hflags]
    exact Nat.mod_eq_of_lt (by omega)

/-- Settles O27: a flit that goes on and one that is dropped, BREAK, and the ENUM request that numbers the module and the one past 64
modules. -/
theorem chainForwarding : Obligations.ChainForwarding := by
  refine ⟨fun s p h pl o hn hq hm h9 hC ho hp => ?_, fun s p h pl hn hq hm h9 hC ho => ?_, fun s p h pl hn ht hr => ?_,
    fun s p h pl o hn ht hb ho hp hop hf hc hv hw => ?_, fun s p h pl hn hk ht hb ho hp hop hc => ?_⟩
  · obtain ⟨hsent, hcnt, hmv⟩ := cutThrough_sends (f := flitOf h pl) (otherPort_ne ho) ho hq hp 1
    exact ⟨_, execFlitForward_next hn hq hm h9 hC, hsent, hcnt, hmv.hlkParts, hmv.regs⟩
  · obtain ⟨hcnt, hmv⟩ := cutThrough_drops_counted (f := flitOf h pl) ho 1
    exact ⟨_, execFlitForward_next hn hq hm h9 hC, hcnt, hmv.hlkParts, hmv.regs⟩
  · obtain ⟨t, e, hend, hbrk, hev, hsent, hmv⟩ := execBreakFlit_ends (pl := pl) hn ht hr rfl
    simp only [decide_eq_true_eq] at hend hbrk
    exact ⟨t, e, hend, hbrk, hev, hsent, hmv.hlkParts⟩
  · obtain ⟨t, e, hval, hhop, hsent, hend, hmv⟩ := execEnum_numbers hn ht hb ho hp hop hf hc hv hw
    exact ⟨t, e, hval, hhop, hsent, hend, hmv.hlkParts, hmv.regs⟩
  · obtain ⟨o, ho⟩ := Option.isSome_iff_exists.mp ho
    obtain ⟨t, e, hsent, hhop, hcount, hflags, hmv⟩ := execEnum_overflows hn hk ht hb ho hp hop hc
    exact ⟨t, e, hsent, hhop, hcount, hflags, hmv.hlkParts, hmv.regs⟩

end Sys2Proof.Machine
end

section
/-! ## What telling another agent leaves of a port

A count that overflows may send an EVENT (R330, R513), so a command that counts may put further flits on a line. What a port has sent
stays sent. -/

namespace Sys2Proof.Machine

set_option Elab.async false

/-- What stood on a port's line and in its replay buffer stands there still, and what a lane swap holds back is the same. -/
structure HlkPort.Extends (q r : HlkPort) : Prop where
  line    : q.line <+: r.line
  unack   : q.unack <+: r.unack
  swap    : r.swap = q.swap
  nakHeld : r.nakHeld = q.nakHeld

theorem HlkPort.Extends.refl {q : HlkPort} : q.Extends q := ⟨List.prefix_rfl, List.prefix_rfl, rfl, rfl⟩

theorem HlkPort.Extends.trans {q r x : HlkPort} (h : q.Extends r) (k : r.Extends x) : q.Extends x :=
  ⟨h.line.trans k.line, h.unack.trans k.unack, k.swap.trans h.swap, k.nakHeld.trans h.nakHeld⟩

/-- From `s` to `t` flits were sent, and no port went up or down. -/
structure Grows (s t : State) : Prop where
  ports : ∀ p, (s.port p).Extends (t.port p)
  up    : ∀ p, t.portUp p = s.portUp p

namespace Grows

set_option Elab.async false

variable {s t u : State}

theorem refl : Grows s s := ⟨fun _ => .refl, fun _ => rfl⟩

theorem trans (h : Grows s t) (k : Grows t u) : Grows s u :=
  ⟨fun p => (h.ports p).trans (k.ports p), fun p => (k.up p).trans (h.up p)⟩

theorem ite {c : Prop} [Decidable c] {x y : State} (hx : Grows s x) (hy : Grows s y) : Grows s (if c then x else y) := by
  split <;> assumption

theorem setReg (h : Grows s t) {a : Nat} (w : Word) (ha : ∀ p : Fin 3, Reg.HLK_P_STAT p ≠ a := by decide) : Grows s (t.setReg a w) :=
  h.trans ⟨fun _ => .refl, fun p => State.flag_setReg_ne t a w (ha p)⟩

theorem wr (h : Grows s t) {f : RegField} (v : Nat) (ha : ∀ p : Fin 3, Reg.HLK_P_STAT p ≠ f.reg := by decide) : Grows s (t.wr f v) :=
  h.setReg _ ha
theorem bump (h : Grows s t) {a : Nat} (ha : ∀ p : Fin 3, Reg.HLK_P_STAT p ≠ a := by decide) : Grows s (t.bump a) := h.setReg _ ha
theorem bump64 (h : Grows s t) {a : Nat} (n : Nat) (ha : ∀ p : Fin 3, Reg.HLK_P_STAT p ≠ a := by decide)
    (hb : ∀ p : Fin 3, Reg.HLK_P_STAT p ≠ a + 4 := by decide) : Grows s (t.bump64 a n) := (h.setReg _ ha).setReg _ hb

theorem modPort (h : Grows s t) (p : Fin 3) {f : HlkPort → HlkPort} (hf : (t.port p).Extends (f (t.port p))) : Grows s (t.modPort p f) := by
  refine h.trans ⟨fun o => ?_, fun _ => rfl⟩
  by_cases e : o = p
  · subst e
    rw [port_modPort]
    exact hf
  · rw [port_modPort_ne _ _ e]
    exact .refl

theorem stat_apart : ∀ p o : Fin 3, Reg.HLK_P_STAT o ≠ Reg.HLK_P_CRED p ∧ Reg.HLK_P_STAT o ≠ Reg.HLK_P_TX_CNT_LO p ∧
    Reg.HLK_P_STAT o ≠ Reg.HLK_P_TX_CNT_LO p + 4 ∧ (o ≠ p → Reg.HLK_P_STAT o ≠ Reg.HLK_P_STAT p) := by decide

/-- The count of unacknowledged flits is another field than UP. -/
theorem wrUnack (h : Grows s t) (p : Fin 3) (v : Nat) : Grows s (t.wr (F.HLK_P_STAT_UNACK p) v) := by
  refine h.trans ⟨fun _ => .refl, fun o => ?_⟩
  by_cases e : o = p
  · subst e
    exact congrArg (· != 0) (State.rd_wr_disjoint t _ (F.HLK_P_STAT_UP o) v (by simp) (by simp))
  · exact State.flag_wr_ne t _ v ((stat_apart p o).2.2.2 e)

theorem creditBack (h : Grows s t) (f : Flit) : Grows s (t.creditBack f) := by
  unfold State.creditBack
  split
  · exact h
  · exact h.modPort _ (by split <;> exact ⟨List.prefix_rfl, List.prefix_rfl, rfl, rfl⟩)

theorem launch (h : Grows s t) (p : Fin 3) {cred : RegField} (hc : cred.reg = Reg.HLK_P_CRED p) (f : Flit) :
    Grows s (t.launch p cred f) := by
  unfold State.launch
  dsimp only
  refine (((((h.creditBack f).modPort p ?_).modPort p ?_).wr _ fun o => hc ▸ (stat_apart p o).1).wrUnack p _).bump64 1
    (fun o => (stat_apart p o).2.1) (fun o => (stat_apart p o).2.2.1)
  · exact ⟨List.prefix_append _ _, List.prefix_append _ _, rfl, rfl⟩
  · exact ⟨List.prefix_rfl, List.prefix_rfl, rfl, rfl⟩

theorem taken (h : Grows s t) (p : Fin 3) (c : Bool) (i : Nat) : Grows s (t.modPort p (·.taken c i)) :=
  h.modPort p (by unfold HlkPort.taken; split <;> exact ⟨List.prefix_rfl, List.prefix_rfl, rfl, rfl⟩)

theorem pump (p : Fin 3) : ∀ (n : Nat) {t : State}, Grows s t → Grows s (State.pump p n t)
  | 0, _, h => h
  | n + 1, t, h => by
    unfold State.pump
    extract_lets q next
    refine ite ?_ h
    split
    · exact pump p n ((h.taken p _ _).launch p rfl _)
    · exact pump p n ((h.taken p _ _).launch p rfl _)
    · exact h

theorem pumpAll (h : Grows s t) (p : Fin 3) : Grows s (t.pumpAll p) := h.pump p _

theorem sendFlit (h : Grows s t) (p : Fin 3) (f : Flit) : Grows s (t.sendFlit p f) := by
  unfold State.sendFlit
  split
  · refine pump p _ (h.modPort p ?_)
    unfold HlkPort.queued
    dsimp only
    split <;> exact ⟨List.prefix_rfl, List.prefix_rfl, rfl, rfl⟩
  · exact (h.modPort p ⟨List.prefix_append _ _, List.prefix_rfl, rfl, rfl⟩).bump64 1
      (fun o => (stat_apart p o).2.1) (fun o => (stat_apart p o).2.2.1)

theorem attention (h : Grows s t) (blk : Nat) : Grows s (t.attention blk) := by
  unfold State.attention State.eventFlit
  exact ite ((h.setReg _).sendFlit _ _) h

theorem counter_apart : ∀ k, k < 8 → ∀ p : Fin 3, Reg.HLK_P_STAT p ≠ Reg.PMC_CNT_LO k ∧ Reg.HLK_P_STAT p ≠ Reg.PMC_CNT_HI k := by decide

theorem pmcAdd : ∀ (fuel k n : Nat) {t : State}, k < 8 → Grows s t → Grows s (State.pmcAdd fuel k n t)
  | 0, _, _, _, _, h => h
  | fuel + 1, k, n, t, hk, h => by
    unfold State.pmcAdd
    extract_lets v t1 t2 t3
    have h2 : Grows s t2 := (h.setReg _ fun p => (counter_apart k hk p).1).setReg _ fun p => (counter_apart k hk p).2
    have h3 : Grows s t3 := h2.wr _
    refine ite h2 ?_
    split
    next hc =>
      have hk' : k + 1 < 8 := by
        simp only [State.pmcChained, Bool.and_eq_true, decide_eq_true_eq] at hc
        exact hc.1
      exact ite (pmcAdd fuel (k + 1) 1 hk' h3) h3
    next => exact ite (h3.attention _) h3

theorem forEach {α : Type} {f : α → State → State} : ∀ (l : List α) {t : State}, (∀ a ∈ l, ∀ t, Grows s t → Grows s (f a t)) →
    Grows s t → Grows s (forEach l f t)
  | [], _, _, h => h
  | a :: l, _, hf, h => forEach l (fun b hb => hf b (List.mem_cons_of_mem _ hb)) (hf a List.mem_cons_self _ h)

theorem pmcEdge (h : Grows s t) (sig : Nat) : Grows s (t.pmcEdge sig) :=
  Grows.forEach _ (fun k hk _ hu => ite (pmcAdd 8 k 1 (List.mem_range.mp hk) hu) hu) h

end Grows

end Sys2Proof.Machine
end

section
/-! ## Acknowledgement, credits and replay -/

namespace Sys2Proof.Machine

set_option Elab.async false

variable {s t u : State} {p o : Fin 3} {h : Dword} {pl : List Byte} {i n : Nat}

theorem pumpAll_empty (hc : (s.port p).qc = []) (hd : (s.port p).qd = []) : s.pumpAll p = s := by
  unfold State.pumpAll
  rw [hc, hd]
  rfl

/-! ### Flits that are not taken (R292, R295, R302) -/

/-- The registers of a port's counts lie apart from each other and from what its flits move. -/
theorem portCounts_apart : ∀ p : Fin 3, Reg.HLK_P_NAK_CNT p ∉ linkRegs p ∧ Reg.HLK_P_HCRC_CNT p ∉ Reg.HLK_P_NAK_CNT p :: linkRegs p ∧
    Reg.HLK_P_NAK_CNT p ∉ [Reg.HLK_P_HCRC_CNT p] ∧ Reg.HLK_P_RPL_CNT p ∉ noteRegs ∧
    Reg.HLK_P_RPL_CNT p ∉ [Reg.HLK_P_STAT p, Reg.HLK_P_MAP p, Reg.HLK_P_SWAP_CNT p] ∧
    Reg.HLK_RETRY_CFG ∉ [Reg.HLK_P_RPL_CNT p] ∧ Reg.HLK_RETRY_CFG ∉ noteRegs ∧ Reg.HLK_P_RPL_CNT p ∉ linkRegs p := by decide

theorem nakOnce_of_sent (hs : (s.port p).nakSent = true) : s.nakOnce p = s := if_pos hs

theorem nakOnce_new (hs : (s.port p).nakSent = false) : s.nakOnce p =
    ((s.modPort p fun q => { q with nakSent := true }).bump (Reg.HLK_P_NAK_CNT p)).sendLink p
      (linkPayload 0x40 0 (s.port p).rxSeq 0 0 0 0 0) := if_neg (Bool.eq_false_iff.mp hs)

/-- R302: a first NAK names the missing flit. -/
theorem nakOnce_naks (hs : (s.port p).nakSent = false) :
    (s.nakOnce p).port p = { s.port p with nakSent := true, line := (s.port p).line ++ [linkFlit (linkPayload 0x40 0 (s.port p).rxSeq 0 0 0 0 0)] } ∧
      Counts s (s.nakOnce p) (Reg.HLK_P_NAK_CNT p) ∧
      Moves { regs := true, hlk := true } (Reg.HLK_P_NAK_CNT p :: linkRegs p) s (s.nakOnce p) := by
  have h1 : Moves { regs := true, hlk := true } [] s (s.modPort p fun q => { q with nakSent := true }) :=
    (modPort_moves s p _).mono rfl (List.nil_subset _)
  rw [nakOnce_new hs]
  refine ⟨?_, (Counts.bump.after h1 (by simp)).then_ (sendLink_moves _ _ _) (portCounts_apart p).1, ?_⟩
  · rw [sendLink_port, port_bump, port_modPort]
  · exact ((h1.mono rfl (List.nil_subset _)).bump).then_ (sendLink_moves _ _ _) rfl (List.subset_cons_self _ _)

theorem rxTake_missing (hcrc : hcrcGood h = true) (h0 : (hSEQ h + 256 - (s.port p).rxSeq) % 256 ≠ 0)
    (hlt : (hSEQ h + 256 - (s.port p).rxSeq) % 256 < 128) (n : Nat) : s.rxTake p h n = (false, s.nakOnce p) := by
  unfold State.rxTake
  simp only [hcrc, h0, hlt, Bool.not_true, Bool.false_eq_true, if_false, if_true]

theorem rxTake_again (hcrc : hcrcGood h = true) (hge : 128 ≤ (hSEQ h + 256 - (s.port p).rxSeq) % 256) (n : Nat) :
    s.rxTake p h n = (false, (s.modPort p fun q => { q with ackDue := q.ackDue + n }).ackFull p) := by
  have h0 : (hSEQ h + 256 - (s.port p).rxSeq) % 256 ≠ 0 := by omega
  unfold State.rxTake
  simp only [hcrc, h0, Nat.not_lt.mpr hge, Bool.not_true, Bool.false_eq_true, if_false]

/-- A flit for elsewhere that its port does not take goes nowhere. -/
theorem execFlitForward_refused {p : Port} (hup : s.portUp (portIdx p) = true) (hq : flitSequenced (hTYPE h) = true)
    (hm : s.mine h = false) (h9 : hTYPE h ≠ 9) (hC : hTYPE h ≠ 0xC) (e : s.rxTake (portIdx p) h 1 = (false, t)) :
    execFlitForward p h pl s = .next t := by
  have h14 : ¬ 14 ≤ hTYPE h := by
    simp only [flitSequenced, Bool.and_eq_true, decide_eq_true_iff] at hq
    omega
  unfold execFlitForward
  simp only [hup, h14, hq, hm, h9, hC, e, Bool.not_true, Bool.not_false, Bool.false_eq_true, if_false, if_true, Bool.true_and, ne_eq,
    not_false_eq_true, true_or, decide_true]

theorem execBadFlit_uncorrectable {p : Port} {wrong : Nat} (hup : s.portUp (portIdx p) = true) (hw : 15 < wrong) (first : Bool) :
    execBadFlit p (.codeword wrong first) s =
      .next ((if first then s.bump (Reg.HLK_P_UNC_CNT (portIdx p)) else s).nakOnce (portIdx p)) := by
  unfold execBadFlit
  simp only [hup, fecCorrects, Nat.not_le.mpr hw, decide_false, Bool.not_true, Bool.false_eq_true, if_false]

theorem execBadFlit_corrected {p : Port} {wrong : Nat} (hw : wrong ≤ 15) (first : Bool) : execBadFlit p (.codeword wrong first) s = .next s := by
  unfold execBadFlit
  simp only [fecCorrects, hw, decide_true, if_true, ite_self]

/-! ### Flits sent again (R302, R303) -/

/-- The replay buffer goes on the line again, from place `i` on. -/
def HlkPort.replayed (q : HlkPort) (i : Nat) : HlkPort :=
  { q with line := q.line ++ q.unack.drop i, unack := q.unack.take i ++ (q.unack.drop i).map sentAgain }

/-- Port `p` has sent its replay buffer again, from place `i` on. -/
def State.resent (s : State) (p : Fin 3) (i : Nat) : State :=
  (((s.modPort p (·.replayed i)).bump (Reg.HLK_P_RPL_CNT p)).bump64 (Reg.HLK_P_TX_CNT_LO p) ((s.port p).unack.drop i).length).pmcEdge
    (0x200 + p.val)

theorem resent_noted (s : State) (p : Fin 3) (i : Nat) : Noted [Reg.HLK_P_RPL_CNT p] s (s.resent p i) :=
  (((Noted.refl.modPort p _).bump (.inl (by simp))).bump64 (.inr (Noted.mem_send p).2.2.1) (.inr (Noted.mem_send p).2.2.2) _).pmcEdge _

theorem resent_grows (s : State) (p : Fin 3) (i : Nat) : Grows (s.modPort p (·.replayed i)) (s.resent p i) :=
  ((Grows.refl.bump (by revert p; decide)).bump64 _ (fun o => (Grows.stat_apart p o).2.1) fun o => (Grows.stat_apart p o).2.2.1).pmcEdge _

theorem resent_counts (s : State) (p : Fin 3) (i : Nat) : Counts s (s.resent p i) (Reg.HLK_P_RPL_CNT p) := by
  have hb : ∀ (u : State) (n : Nat), Moves { regs := true, hlk := true } (linkRegs p) u (u.bump64 (Reg.HLK_P_TX_CNT_LO p) n) := fun _ n =>
    Moves.refl.bump64 n rfl (by simp [linkRegs]) (by simp [linkRegs])
  exact ((Counts.bump.after (modPort_moves s p (·.replayed i)) (by simp)).then_ (hb _ _) (portCounts_apart p).2.2.2.2.2.2.2).then_
    (pmcEdge_moves _ _) (portCounts_apart p).2.2.2.1

theorem resent_port (s : State) (p : Fin 3) (i : Nat) : ((s.port p).replayed i).Extends ((s.resent p i).port p) := by
  have := (resent_grows s p i).ports p
  rwa [port_modPort] at this

/-- A LINK flit with RETRAIN goes out, and the port trains again. -/
def State.gaveUp (s : State) (p : Fin 3) : State := (s.sendLink p (linkPayload 0x04 0 0 0 0 0 0 0)).retrain p

theorem resend_eq (hne : (s.port p).unack.drop i ≠ []) : s.resend p i =
    if (((s.port p).unack.drop i).map sentAgain).any (fun u => decide (s.rd F.HLK_RETRY_CFG_RMAX ≤ u.2.resent))
    then (s.resent p i).gaveUp p else s.resent p i := by
  have hr : (s.resent p i).rd F.HLK_RETRY_CFG_RMAX = s.rd F.HLK_RETRY_CFG_RMAX :=
    congrArg _ ((resent_noted s p i).2 _ (portCounts_apart p).2.2.2.2.2.1 (portCounts_apart p).2.2.2.2.2.2.1)
  rw [← hr]
  unfold State.resend
  rw [if_neg (by simpa using hne)]
  rfl

/-- R303: while no flit has been sent RMAX times, the port stays up. -/
theorem resend_few (hne : (s.port p).unack.drop i ≠ [])
    (hfew : ∀ x ∈ (s.port p).unack.drop i, x.2.resent + 1 < s.rd F.HLK_RETRY_CFG_RMAX) : s.resend p i = s.resent p i := by
  rw [resend_eq hne, if_neg]
  simp only [List.any_map, List.any_eq_true, Function.comp, decide_eq_true_iff, not_exists, not_and, Nat.not_le]
  exact hfew

theorem resend_spent (hany : ((s.port p).unack.drop i).any (fun x => decide (s.rd F.HLK_RETRY_CFG_RMAX ≤ x.2.resent + 1)) = true) :
    s.resend p i = (s.resent p i).gaveUp p := by
  have hne : (s.port p).unack.drop i ≠ [] := fun e => by simp [e] at hany
  rw [resend_eq hne, if_pos]
  rwa [List.any_map]

/-! ### A port that trains again (R303) -/

theorem retrain_moves (s : State) (p : Fin 3) : Moves { regs := true, hlk := true } [Reg.HLK_P_STAT p] s (s.retrain p) :=
  (((Moves.refl.put _).wr _).then_ (modPort_moves _ p _) rfl (List.nil_subset _)).put _

theorem retrain_port (s : State) (p : Fin 3) :
    (s.retrain p).port p = { s.port p with swap := none, swapAck := false, nakHeld := none } := by
  unfold State.retrain
  rw [port_put, port_modPort, port_wr, port_put]

theorem rd_modPort (s : State) (p : Fin 3) (f : HlkPort → HlkPort) (g : RegField) : (s.modPort p f).rd g = s.rd g := rfl

theorem retrain_down (s : State) (p : Fin 3) : (s.retrain p).portUp p = false := by
  unfold State.retrain State.portUp
  rw [State.flag_put_disjoint _ _ _ _ (by simp) (by simp), State.flag, rd_modPort, State.rd_wr_disjoint _ _ _ _ (by simp) (by simp)]
  exact State.flag_put_same _ _ _ (by simp) rfl

theorem retrain_step (s : State) (p : Fin 3) : (s.retrain p).rd (F.HLK_P_STAT_STEP p) = 0 := by
  unfold State.retrain
  rw [State.rd_put_disjoint _ _ _ _ (by simp) (by simp), rd_modPort, State.rd_wr_same _ _ _ (by simp)]
  exact Nat.zero_mod _

theorem gaveUp_noted {as : List Nat} (k : Noted as s t) (p : Fin 3) : Noted as s (t.gaveUp p) := by
  have hstat := (Noted.mem_send p).2.1
  exact (((((k.sendFlit p _).put (.inr hstat) _).wr (.inr hstat) _).modPort p _).put (.inr hstat) _)

theorem gaveUp_port (s : State) (p : Fin 3) : (s.gaveUp p).port p = { s.port p with
    line := (s.port p).line ++ [linkFlit (linkPayload 0x04 0 0 0 0 0 0 0)], swap := none, swapAck := false, nakHeld := none } := by
  unfold State.gaveUp
  rw [retrain_port, sendLink_port]

theorem gaveUp_moves (s : State) (p : Fin 3) : Moves { regs := true, hlk := true } (linkRegs p) s (s.gaveUp p) :=
  (sendLink_moves s p _).then_ (retrain_moves _ p) rfl (by simp [linkRegs])

/-- R302, R303: whether or not the port then trains again, its flits from place `i` on went on the line, and no lane swap begins. -/
theorem resend_replays (hne : (s.port p).unack.drop i ≠ []) (hs : (s.port p).swap = none) (hk : (s.port p).nakHeld = none) :
    Counts s (s.resend p i) (Reg.HLK_P_RPL_CNT p) ∧ (s.port p).line ++ (s.port p).unack.drop i <+: ((s.resend p i).port p).line ∧
      ((s.resend p i).port p).swap = none ∧ ((s.resend p i).port p).nakHeld = none ∧ Noted [Reg.HLK_P_RPL_CNT p] s (s.resend p i) := by
  have hcnt := resent_counts s p i
  have hnote := resent_noted s p i
  have hext := resent_port s p i
  rw [resend_eq hne]
  split
  · refine ⟨hcnt.then_ (gaveUp_moves _ p) (portCounts_apart p).2.2.2.2.2.2.2, ?_, ?_, ?_, gaveUp_noted hnote p⟩ <;> rw [gaveUp_port]
    exact hext.line.trans (List.prefix_append _ _)
  · exact ⟨hcnt, hext.line, hext.swap.trans hs, hext.nakHeld.trans hk, hnote⟩

theorem drop_ne_nil_of_findIdx? {α : Type} {l : List α} {f : α → Bool} (e : l.findIdx? f = some i) : l.drop i ≠ [] := by
  have := (List.findIdx?_eq_some_iff_findIdx_eq.mp e).1
  simpa using this

theorem resendFrom_found {seq : Nat} (e : (s.port p).unack.findIdx? (fun x => decide (x.1 = seq)) = some i) :
    s.resendFrom p seq = s.resend p i := by
  unfold State.resendFrom
  rw [e]

/-- R302: a replay from place `i` on that the port survives. -/
theorem resent_sends (s : State) (p : Fin 3) (i : Nat) (hup : s.portUp p = true) :
    (s.resent p i).portUp p = true ∧ Counts s (s.resent p i) (Reg.HLK_P_RPL_CNT p) ∧
      (s.port p).line ++ (s.port p).unack.drop i <+: ((s.resent p i).port p).line ∧
      (s.port p).unack.take i ++ ((s.port p).unack.drop i).map sentAgain <+: ((s.resent p i).port p).unack ∧
      Noted [Reg.HLK_P_RPL_CNT p] s (s.resent p i) :=
  ⟨((resent_grows s p i).up p).trans hup, resent_counts s p i, (resent_port s p i).line, (resent_port s p i).unack, resent_noted s p i⟩

/-! ### What LINK flits bring (R297, R301, R302) -/

theorem execLinkAck_found {p : Port} {a : Byte} (e : (s.port (portIdx p)).unack.findIdx? (fun x => x.1 = a.toNat) = some i)
    (hc : (s.port (portIdx p)).qc = []) (hd : (s.port (portIdx p)).qd = []) : execLinkAck p a s =
      .next ((s.modPort (portIdx p) fun q => { q with unack := q.unack.drop (i + 1) }).wr (F.HLK_P_STAT_UNACK (portIdx p))
        ((s.port (portIdx p)).unack.length - (i + 1))) := by
  unfold execLinkAck
  simp only [e]
  rw [pumpAll_empty] <;> rw [port_wr, port_modPort] <;> assumption

theorem execLinkNak_held {p : Port} {a : Byte} (hup : s.portUp (portIdx p) = true) (hs : (s.port (portIdx p)).swap ≠ none) :
    execLinkNak p a s = .next (s.modPort (portIdx p) fun q => { q with nakHeld := some a.toNat }) := by
  unfold execLinkNak
  simp only [hup, Option.isSome_iff_ne_none.mpr hs, Bool.not_true, Bool.false_eq_true, if_false, if_true]

theorem execLinkNak_found {p : Port} {a : Byte} (hup : s.portUp (portIdx p) = true) (hs : (s.port (portIdx p)).swap = none)
    (e : (s.port (portIdx p)).unack.findIdx? (fun x => x.1 = a.toNat) = some i) : execLinkNak p a s = .next (s.resend (portIdx p) i) := by
  unfold execLinkNak
  simp only [hup, hs, Option.isSome_none, Bool.not_true, Bool.false_eq_true, if_false, resendFrom_found e]

theorem execReplayTimeout_up {p : Port} (hup : s.portUp (portIdx p) = true) :
    execReplayTimeout p s = .next (s.resend (portIdx p) 0) := by
  unfold execReplayTimeout
  rw [if_pos hup]

theorem ackNow_due (h : 0 < (s.port p).ackDue) : s.ackNow p =
    (s.modPort p fun q => { q with ackDue := 0, retC := 0, retD := 0 }).sendLink p
      (linkPayload 0x80 (((s.port p).rxSeq + 255) % 256) 0 (s.port p).retC (s.port p).retD 0 0 0) := by
  have h0 : (s.port p).ackDue ≠ 0 := by omega
  unfold State.ackNow
  simp only [h0, false_and, if_false]

theorem ackNow_due_port (h : 0 < (s.port p).ackDue) : (s.ackNow p).port p = { s.port p with
    ackDue := 0, retC := 0, retD := 0
    line := (s.port p).line ++ [linkFlit (linkPayload 0x80 (((s.port p).rxSeq + 255) % 256) 0 (s.port p).retC (s.port p).retD 0 0 0)] } := by
  rw [ackNow_due h, sendLink_port, port_modPort]

/-- The credits of both classes are given a count. -/
def State.credited (s : State) (p : Fin 3) (c d : Nat) : State := (s.wr (F.HLK_P_CRED_C p) c).wr (F.HLK_P_CRED_D p) d

theorem credited_reads (s : State) (p : Fin 3) {c d : Nat} (hc : c < 2 ^ 16) (hd : d < 2 ^ 16) :
    (s.credited p c d).rd (F.HLK_P_CRED_C p) = c ∧ (s.credited p c d).rd (F.HLK_P_CRED_D p) = d ∧
      OnlyRegs [Reg.HLK_P_CRED p] s (s.credited p c d) := by
  refine ⟨?_, ?_, (OnlyRegs.refl.wr (by simp) _).wr (by simp) _⟩
  · exact (State.rd_wr_disjoint _ _ _ _ (by simp) (by simp)).trans ((State.rd_wr_same _ _ _ (by simp)).trans (Nat.mod_eq_of_lt hc))
  · exact (State.rd_wr_same _ _ _ (by simp)).trans (Nat.mod_eq_of_lt hd)

theorem credited_pumped {c d : Nat} (hc : (s.port p).qc = []) (hd : (s.port p).qd = []) :
    (s.credited p c d).pumpAll p = s.credited p c d :=
  pumpAll_empty (by rw [State.credited, port_wr, port_wr, hc]) (by rw [State.credited, port_wr, port_wr, hd])

theorem execLinkInit_empty {p : Port} (hc : (s.port (portIdx p)).qc = []) (hd : (s.port (portIdx p)).qd = []) (c d : BitVec 16) :
    execLinkInit p c d s = .next (s.credited (portIdx p) c.toNat d.toNat) := by
  rw [← credited_pumped hc hd]
  rfl

theorem execLinkCredit_empty {p : Port} (hc : (s.port (portIdx p)).qc = []) (hd : (s.port (portIdx p)).qd = []) (c d : BitVec 16) :
    execLinkCredit p c d s = .next (s.credited (portIdx p) (min 65535 (s.rd (F.HLK_P_CRED_C (portIdx p)) + c.toNat))
      (min 65535 (s.rd (F.HLK_P_CRED_D (portIdx p)) + d.toNat))) := by
  unfold execLinkCredit
  dsimp only
  rw [State.rd_wr_disjoint _ _ _ _ (by simp) (by simp), ← credited_pumped hc hd]
  rfl

/-- Settles O25: the flits that are not taken, what an acknowledgement, a NAK and a timeout do to the replay buffer, and the
acknowledgements and credits of either side. -/
theorem linkReplay : Obligations.LinkReplay := by
  refine ⟨fun s p hup hn => ?_, fun s p wrong hup hn hw => ⟨?_, ?_⟩, fun s p wrong first hw => execBadFlit_corrected hw first,
    fun s p h pl hup hq hm h9 hC hcrc h0 hlt hn => ?_, fun s p h pl hup hq hm h9 hC hcrc hge hd => ?_, fun s p a i e hc hd => ?_,
    fun s p a i hup hs e hfew => ?_, fun s p a hup hs => ?_, fun s p hup hne hfew => ?_, fun s p hup hany => ?_, fun s p hup hd => ?_,
    fun s p c d hc hd => ?_, fun s p c d hc hd => ?_⟩
  · have hb : Moves { regs := true } [Reg.HLK_P_HCRC_CNT (portIdx p)] s (s.bump (Reg.HLK_P_HCRC_CNT (portIdx p))) := Moves.refl.bump
    obtain ⟨hport, hcnt, hmv⟩ := nakOnce_naks (s := s.bump (Reg.HLK_P_HCRC_CNT (portIdx p))) (p := portIdx p) hn
    obtain ⟨_, hh, hk, _⟩ := portCounts_apart (portIdx p)
    have hm : Moves { regs := true, hlk := true } ([Reg.HLK_P_HCRC_CNT (portIdx p), Reg.HLK_P_NAK_CNT (portIdx p)] ++ linkRegs (portIdx p)) s
      ((s.bump (Reg.HLK_P_HCRC_CNT (portIdx p))).nakOnce (portIdx p)) :=
      (hb.mono rfl (by simp)).then_ hmv rfl (by simp)
    refine ⟨_, ?_, ?_, Counts.bump.then_ hmv hh, hcnt.after hb hk, ?_, hm.hlkParts, hm.regs⟩
    · show execBadFlit p .hcrc s = _
      unfold execBadFlit
      simp only [hup, Bool.not_true, Bool.false_eq_true, if_false]
    · rw [hport]
    · rw [hport]
      rfl
  · refine ⟨_, execBadFlit_uncorrectable hup hw true, ?_, ?_⟩ <;>
      rw [if_pos rfl, nakOnce_of_sent (s := s.bump _) (by rw [port_bump]; exact hn)]
    · exact Counts.bump
    · exact OnlyRegs.refl.bump (by simp)
  · refine (execBadFlit_uncorrectable hup hw false).trans ?_
    rw [if_neg (by simp), nakOnce_of_sent hn]
  · obtain ⟨hport, hcnt, hmv⟩ := nakOnce_naks hn
    refine ⟨_, execFlitForward_refused hup hq hm h9 hC (rxTake_missing hcrc h0 hlt 1), ?_, ?_, hcnt, hmv.hlkParts, hmv.regs⟩ <;> rw [hport]
  · have hport := port_modPort s (portIdx p) fun q => { q with ackDue := q.ackDue + 1 }
    have e := execFlitForward_refused (pl := pl) hup hq hm h9 hC (rxTake_again hcrc hge 1)
    rw [ackFull_of_lt (by rw [hport]; exact Nat.add_lt_add_right hd 1)] at e
    exact ⟨_, e, by rw [hport], by rw [hport], rfl⟩
  · have hm : Moves { regs := true, hlk := true } [Reg.HLK_P_STAT (portIdx p)] s
      ((s.modPort (portIdx p) fun q => { q with unack := q.unack.drop (i + 1) }).wr (F.HLK_P_STAT_UNACK (portIdx p))
        ((s.port (portIdx p)).unack.length - (i + 1))) := ((modPort_moves s _ _).mono rfl (List.nil_subset _)).wr _
    exact ⟨_, execLinkAck_found e hc hd, by rw [port_wr, port_modPort], hm.hlkParts, hm.regs⟩
  · have hr := resend_few (drop_ne_nil_of_findIdx? e) hfew
    exact ⟨_, execLinkNak_found hup hs e, hr ▸ resent_sends s (portIdx p) i hup⟩
  · exact ⟨_, execLinkNak_held hup hs, by rw [port_modPort], rfl⟩
  · have hr := resend_few (s := s) (p := portIdx p) (i := 0) hne hfew
    exact ⟨_, execReplayTimeout_up hup, hr ▸ resent_sends s (portIdx p) 0 hup⟩
  · refine ⟨_, (execReplayTimeout_up hup).trans (congrArg _ (resend_spent hany)), retrain_down _ _, retrain_step _ _, ?_,
      gaveUp_noted (resent_noted s _ 0) _⟩
    rw [gaveUp_port]
    simp
  · have hm : Moves { regs := true, hlk := true } (linkRegs (portIdx p)) s (s.ackNow (portIdx p)) := ackNow_moves s _
    refine ⟨_, congrArg Host.Outcome.next (if_pos hup), ?_, ?_, ?_, ?_, hm.hlkParts, hm.regs⟩ <;> rw [ackNow_due_port hd]
  · exact ⟨_, execLinkInit_empty hc hd c d, credited_reads s _ c.isLt d.isLt⟩
  · exact ⟨_, execLinkCredit_empty hc hd c d, credited_reads s _ (by omega) (by omega)⟩

end Sys2Proof.Machine
end

section
/-! ## Lane swaps -/

namespace Sys2Proof.Machine

set_option Elab.async false

variable {s t : State} {p : Port} {k sp n i : Nat} {cw : Word}

/-! ### A condemned lane (R290) -/

theorem execSpareLaneMove_moves (hup : s.portUp (portIdx p) = true) (hu : s.flag (F.HLK_P_STAT_SPAREUSED (portIdx p)) = false) :
    execSpareLaneMove p s = .next (s.modPort (portIdx p) fun q => { q with copying := (q.copying + 1) % logical (portIdx p) }) := by
  unfold execSpareLaneMove
  simp only [hup, hu, Bool.not_false, Bool.and_true, if_true]

theorem laneMap_apart : ∀ (l : LinkLane) (p : Fin 3), Reg.HLK_P_MAP p ≠ Reg.HLK_L_HLTH l := by decide

/-- A port's map of lanes stands while a lane's health is written. -/
theorem laneOf_wrHealth (s : State) (l : LinkLane) (v : Nat) (q : Fin 3) (m : Nat) :
    (s.wr (F.HLK_L_HLTH_STATE l) v).laneOf q m = s.laneOf q m := by
  have hrd : ∀ k, (s.wr (F.HLK_L_HLTH_STATE l) v).rd (mapField q k) = s.rd (mapField q k) := fun k =>
    State.rd_wr_ne s _ v (laneMap_apart l q)
  unfold State.laneOf
  simp only [hrd]

theorem wrHealth_state (s : State) (l : LinkLane) : (s.wr (F.HLK_L_HLTH_STATE l) 1).rd (F.HLK_L_HLTH_STATE l) = 1 :=
  State.rd_wr_same s _ _ (by simp)

/-- The request for a lane's repair joins the others. -/
theorem axlAsk_lane (s : State) (f : RegField) (v : Nat) {q l : Nat} : ((s.wr f v).axlAsk 0x03 q l 0x2).axlReq =
    s.axlReq ++ [⟨3, Fin.ofNat 1024 q, Fin.ofNat 16777216 l, 2⟩] := rfl

/-- R290: a lane in use is worn once it lost signal, or its corrections exceed the threshold; it is condemned, and AXL asked. -/
theorem execLaneCondemn_worn {l : LinkLane} {n : Option Nat} (hup : s.portUp (lanePort l) = true) (hf : s.laneFailed l.val = false)
    (hl : (s.laneOf (lanePort l) l.val).isSome = true) (hn : n.all (fun k => decide (s.rd (F.HLK_L_HLTH_THR l) < k)) = true) :
    execLaneCondemn ⟨l, n⟩ s = .next ((s.wr (F.HLK_L_HLTH_STATE l) 1).axlAsk 0x03 (lanePort l).val l.val 0x2) := by
  have hmap := laneOf_wrHealth s l 1 (lanePort l) l.val
  unfold execLaneCondemn
  cases n with
  | none => simp only [hup, hf, hmap, hl, Bool.not_false, Bool.and_true, if_true]
  | some k =>
    have hk : s.rd (F.HLK_L_HLTH_THR l) < k := of_decide_eq_true hn
    simp only [hup, hf, hmap, hl, hk, decide_true, Bool.not_false, Bool.and_true, if_true]

theorem execLaneCondemn_ends {l : LinkLane} {n : Option Nat} (hup : s.portUp (lanePort l) = true) (hf : s.laneFailed l.val = false)
    (hl : (s.laneOf (lanePort l) l.val).isSome = true) (hn : n.all (fun k => decide (s.rd (F.HLK_L_HLTH_THR l) < k)) = true) :
    Ends (execLaneCondemn ⟨l, n⟩ s) fun t => t.rd (F.HLK_L_HLTH_STATE l) = 1 ∧
      t.axlReq = s.axlReq ++ [⟨3, Fin.ofNat 1024 (lanePort l).val, Fin.ofNat 16777216 l.val, 2⟩] ∧
      Moves { regs := true, axlReq := true } [Reg.HLK_L_HLTH l] s t := by
  rw [execLaneCondemn_worn hup hf hl hn]
  have h2 := axlAsk_moves (s.wr (F.HLK_L_HLTH_STATE l) 1) 0x03 (lanePort l).val l.val 0x2
  exact .next ⟨(h2.rd List.not_mem_nil).trans (wrHealth_state s l), axlAsk_lane s _ _, (Moves.refl.wr _).then_ h2 rfl (List.nil_subset _)⟩

theorem execLaneCondemn_good {l : LinkLane} (h : n ≤ s.rd (F.HLK_L_HLTH_THR l)) : execLaneCondemn ⟨l, some n⟩ s = .next s := by
  unfold execLaneCondemn
  simp only [Nat.not_lt.mpr h, decide_false, Bool.and_false, Bool.false_and, Bool.false_eq_true, if_false]

/-! ### A swap that the far end asks for (R290) -/

/-- Port `p` awaits codeword `cw`, at which `sp` takes the place of logical lane `k`, and both ends know. -/
def State.swapAgreed (s : State) (p : Fin 3) (k sp : Nat) (cw : Word) : State :=
  (s.modPort p fun q => { q with swap := some (k, sp, cw), swapAck := true }).put (F.HLK_P_STAT_SWAP p) true

theorem swapAgreed_port (s : State) (p : Fin 3) (k sp : Nat) (cw : Word) :
    (s.swapAgreed p k sp cw).port p = { s.port p with swap := some (k, sp, cw), swapAck := true } :=
  (port_put _ _ _).trans (port_modPort _ _ _)

theorem swapAgreed_moves (s : State) (p : Fin 3) (k sp : Nat) (cw : Word) :
    Moves { regs := true, hlk := true } [Reg.HLK_P_STAT p] s (s.swapAgreed p k sp cw) :=
  ((modPort_moves s p _).mono rfl (List.nil_subset _)).put _

theorem swapAgreed_shown (s : State) (p : Fin 3) (k sp : Nat) (cw : Word) :
    (s.swapAgreed p k sp cw).flag (F.HLK_P_STAT_SWAP p) = true := State.flag_put_same _ _ _ (by simp) rfl

theorem execLinkRemap_up {l sp : Byte} (hup : s.portUp (portIdx p) = true) : execLinkRemap p l sp cw s =
    .next ((s.swapAgreed (portIdx p) (l.toNat % logical (portIdx p)) (laneHere (portIdx p) sp.toNat) cw).sendLink (portIdx p)
      (linkPayload 0x08 0 0 0 0 0 0 cw.toNat)) := if_pos hup

theorem stat_not_sent : ∀ p : Fin 3, Reg.HLK_P_STAT p ∉ [Reg.HLK_P_TX_CNT_LO p, Reg.HLK_P_TX_CNT_LO p + 4] := by decide

/-- A LINK flit moves nothing of its port's status. -/
theorem sendLink_flag (s : State) (p : Fin 3) (bs : List Byte) {f : RegField} (hf : f.reg = Reg.HLK_P_STAT p) :
    (s.sendLink p bs).flag f = s.flag f := by
  have h : Moves { regs := true, hlk := true } [Reg.HLK_P_TX_CNT_LO p, Reg.HLK_P_TX_CNT_LO p + 4] s (s.sendLink p bs) :=
    ((modPort_moves s p fun q => { q with line := q.line ++ [linkFlit bs] }).mono rfl (List.nil_subset _)).bump64 _
  exact h.flag (by rw [hf]; exact stat_not_sent p)

theorem execLinkRemapack_own (hs : (s.port (portIdx p)).swap = some (k, sp, cw)) : execLinkRemapack p cw s =
    .next (s.modPort (portIdx p) fun q => { q with swapAck := true }) := by
  unfold execLinkRemapack
  simp only [hs, if_true]

/-! ### The switch (R290, R311) -/

/-- At its codeword the spare `sp` takes the place of logical lane `k` of port `p`. -/
def State.switched (s : State) (p : Fin 3) (k sp : Nat) : State :=
  ((((s.modPort p fun q => { q with swap := none, swapAck := false }).put (F.HLK_P_STAT_SWAP p) false).wr (mapField p k) sp).put
    (F.HLK_P_STAT_SPAREUSED p) true).bump (Reg.HLK_P_SWAP_CNT p)

/-- The registers that a switch moves. -/
def switchRegs (p : Fin 3) : List Nat := [Reg.HLK_P_STAT p, Reg.HLK_P_MAP p, Reg.HLK_P_SWAP_CNT p]

theorem switched_port (s : State) (p : Fin 3) (k sp : Nat) :
    (s.switched p k sp).port p = { s.port p with swap := none, swapAck := false } := by
  unfold State.switched
  rw [port_bump, port_put, port_wr, port_put, port_modPort]

theorem switched_moves (s : State) (p : Fin 3) (k sp : Nat) :
    Moves { regs := true, hlk := true } (switchRegs p) s (s.switched p k sp) :=
  (((((modPort_moves s p _).mono rfl (List.nil_subset _)).put _ rfl (by simp [switchRegs])).wr _ rfl (by simp [switchRegs, mapField])).put _ rfl
    (by simp [switchRegs])).bump rfl (by simp [switchRegs])

theorem switchRegs_distinct : ∀ p : Fin 3, Reg.HLK_P_STAT p ≠ Reg.HLK_P_SWAP_CNT p ∧ Reg.HLK_P_MAP p ≠ Reg.HLK_P_SWAP_CNT p ∧
    Reg.HLK_P_MAP p ≠ Reg.HLK_P_STAT p ∧ Reg.HLK_P_STAT p ≠ Reg.HLK_P_MAP p := by decide

theorem switched_spare (s : State) (p : Fin 3) (k sp : Nat) : (s.switched p k sp).flag (F.HLK_P_STAT_SPAREUSED p) = true := by
  unfold State.switched
  rw [State.flag_bump_ne _ _ (switchRegs_distinct p).1]
  exact State.flag_put_same _ _ _ (by simp) rfl

theorem switched_over (s : State) (p : Fin 3) (k sp : Nat) : (s.switched p k sp).flag (F.HLK_P_STAT_SWAP p) = false := by
  unfold State.switched
  rw [State.flag_bump_ne _ _ (switchRegs_distinct p).1, State.flag_put_disjoint _ _ _ _ (by simp) (by simp),
    State.flag_wr_ne _ _ _ (switchRegs_distinct p).2.2.2]
  exact State.flag_put_same _ _ _ (by simp) rfl

theorem switched_map (s : State) {p : Fin 3} {k : Nat} (sp : Nat) (hk : k < logical p) :
    (s.switched p k sp).rd (mapField p k) = sp % 16 := by
  have h4 : logical p ≤ 4 := by unfold logical; split <;> decide
  unfold State.switched
  rw [State.rd_bump_ne _ _ (switchRegs_distinct p).2.1, State.rd_put_ne _ _ _ (switchRegs_distinct p).2.2.1]
  exact State.rd_wr_same _ (mapField p k) sp (by simp only [mapField]; omega)

theorem switched_counts (s : State) (p : Fin 3) (k sp : Nat) : Counts s (s.switched p k sp) (Reg.HLK_P_SWAP_CNT p) := by
  have h : Moves { regs := true, hlk := true } [Reg.HLK_P_STAT p, Reg.HLK_P_MAP p] s
    ((((s.modPort p fun q => { q with swap := none, swapAck := false }).put (F.HLK_P_STAT_SWAP p) false).wr (mapField p k) sp).put
      (F.HLK_P_STAT_SPAREUSED p) true) :=
    ((((modPort_moves s p _).mono rfl (List.nil_subset _)).put _).wr _ rfl (by simp [mapField])).put _
  exact Counts.bump.after h (by simp)

/-- The switch serves a NAK that waited, and sends what waits. -/
def State.nakServed (s : State) (p : Fin 3) : State :=
  match (s.port p).nakHeld with
  | some n => (s.modPort p fun q => { q with nakHeld := none }).resendFrom p n
  | none => s

theorem execRemapSwitch_due (hs : (s.port (portIdx p)).swap = some (k, sp, cw)) (ha : (s.port (portIdx p)).swapAck = true) :
    execRemapSwitch p cw s = .next (((s.switched (portIdx p) k sp).nakServed (portIdx p)).pumpAll (portIdx p)) := by
  unfold execRemapSwitch
  simp only [hs, ha, and_self, if_true]
  rfl

theorem nakServed_none {q : Fin 3} (h : (s.port q).nakHeld = none) : s.nakServed q = s := by
  unfold State.nakServed
  rw [h]

/-- R311: the NAK that waited is served as flits resume. -/
theorem nakServed_replays {q : Fin 3} (h : (s.port q).nakHeld = some n) (hs : (s.port q).swap = none)
    (e : (s.port q).unack.findIdx? (fun x => x.1 = n) = some i) :
    Counts s (s.nakServed q) (Reg.HLK_P_RPL_CNT q) ∧ (s.port q).line ++ (s.port q).unack.drop i <+: ((s.nakServed q).port q).line ∧
      ((s.nakServed q).port q).swap = none ∧ ((s.nakServed q).port q).nakHeld = none ∧ Noted [Reg.HLK_P_RPL_CNT q] s (s.nakServed q) := by
  have hport : (s.modPort q fun x => { x with nakHeld := none }).port q = { s.port q with nakHeld := none } := port_modPort _ _ _
  have e' : ((s.modPort q fun x => { x with nakHeld := none }).port q).unack.findIdx? (fun x => x.1 = n) = some i := by rw [hport]; exact e
  obtain ⟨hc, hl, hw, hk, hm⟩ := resend_replays (drop_ne_nil_of_findIdx? e') (by rw [hport]; exact hs) (by rw [hport])
  have eq : s.nakServed q = (s.modPort q fun x => { x with nakHeld := none }).resend q i := by
    unfold State.nakServed
    rw [h]
    exact resendFrom_found e'
  rw [eq]
  refine ⟨hc.after (modPort_moves s q _) (by simp), ?_, hw, hk, (Noted.refl.modPort q _).trans hm⟩
  rwa [hport] at hl

theorem pumpAll_noted {as : List Nat} (h : Noted as s t) (q : Fin 3) : Noted as s (t.pumpAll q) := Noted.pump q _ h

/-- Settles O26: the spare's round, a lane condemned and one within its threshold, and a swap from the far end's request to its switch. -/
theorem laneSwap : Obligations.LaneSwap := by
  refine ⟨fun s p hup hu => ?_, fun s l n hup hf hl hn => ?_, fun s l n h => execLaneCondemn_good h, fun s p l sp cw hup => ?_,
    fun s p k sp cw hs => ?_, fun s p k sp cw hs hk ha hc hd hn => ?_, fun s p k sp cw n i hs ha hn e => ?_⟩
  · exact ⟨_, execSpareLaneMove_moves hup hu, by rw [port_modPort], rfl⟩
  · obtain ⟨t, e, hst, hask, hm⟩ := execLaneCondemn_ends hup hf hl hn
    exact ⟨t, e, hst, hask, hm.parts, hm.regs⟩
  · have hm := (swapAgreed_moves s (portIdx p) (l.toNat % logical (portIdx p)) (laneHere (portIdx p) sp.toNat) cw).mono
      (d := { regs := true, hlk := true }) (bs := linkRegs (portIdx p)) rfl (by simp [linkRegs])
    have hm' := hm.trans (sendLink_moves _ (portIdx p) (linkPayload 0x08 0 0 0 0 0 0 cw.toNat))
    refine ⟨_, execLinkRemap_up hup, ?_, ?_, ?_, ?_, hm'.hlkParts, hm'.regs⟩
    · rw [sendLink_port, swapAgreed_port]
    · rw [sendLink_port, swapAgreed_port]
    · rw [sendLink_flag _ _ _ rfl, swapAgreed_shown]
    · rw [sendLink_port, swapAgreed_port]
  · exact ⟨_, execLinkRemapack_own hs, by rw [port_modPort], rfl⟩
  · have hport := switched_port s (portIdx p) k sp
    have hm := switched_moves s (portIdx p) k sp
    have e := execRemapSwitch_due (k := k) (sp := sp) hs ha
    rw [nakServed_none (by rw [hport]; exact hn), pumpAll_empty (by rw [hport]; exact hc) (by rw [hport]; exact hd)] at e
    exact ⟨_, e, by rw [hport], switched_over _ _ _ _, switched_map _ _ hk, switched_spare _ _ _ _, switched_counts _ _ _ _, hm.hlkParts, hm.regs⟩
  · have hport := switched_port s (portIdx p) k sp
    have hm := switched_moves s (portIdx p) k sp
    obtain ⟨hcnt, hline, hswap, hheld, hnote⟩ := nakServed_replays (s := s.switched (portIdx p) k sp) (q := portIdx p) (n := n) (i := i)
      (by rw [hport]; exact hn) (by rw [hport]) (by rw [hport]; exact e)
    have hg := (Grows.refl.pumpAll (portIdx p) : Grows ((s.switched (portIdx p) k sp).nakServed (portIdx p)) _).ports (portIdx p)
    have hpump := Moves.of_noted (as := []) (pumpAll_noted (Noted.refl (s := (s.switched (portIdx p) k sp).nakServed (portIdx p))) (portIdx p))
    obtain ⟨_, _, _, hrpl, hsw, _⟩ := portCounts_apart (portIdx p)
    refine ⟨_, execRemapSwitch_due hs ha, hg.swap.trans hswap, hg.nakHeld.trans hheld,
      (hcnt.after hm hsw).then_ hpump (by simpa using hrpl), ?_, ?_⟩
    · rw [hport] at hline
      exact hline.trans hg.line
    · exact ((hm.mono (d := { regs := true, hlk := true }) rfl (List.subset_append_left _ (Reg.HLK_P_RPL_CNT (portIdx p) :: noteRegs))).then_
        (Moves.of_noted (pumpAll_noted hnote (portIdx p))) rfl (List.subset_append_right _ _)).hlkParts

end Sys2Proof.Machine
end

section
/-! ## The last byte of a block goes out before a block that ended badly -/

namespace Sys2Proof.Machine

set_option Elab.async false

/-! ### A freeze leaves the recovery path empty -/

theorem foldl_rcv {α : Type} {f : State → α → State} (hf : ∀ u a, (f u a).rcv = u.rcv) : ∀ (l : List α) (s : State), (l.foldl f s).rcv = s.rcv
  | [], _ => rfl
  | a :: l, s => (foldl_rcv hf l (f s a)).trans (hf s a)

theorem sendFlit_rcv (s : State) (p : Fin 3) (f : Flit) : (s.sendFlit p f).rcv = s.rcv :=
  (Moves.of_noted (as := []) (Noted.refl.sendFlit p f)).keep State.rcv

theorem sendMWR_rcv (s : State) (p : Fin 3) (addr : Nat) (bs : List Byte) : (s.sendMWR p addr bs).rcv = s.rcv :=
  foldl_rcv (fun u f => sendFlit_rcv u p f) (mwrFlits s.hop addr bs) s

theorem sendRecord_rcv (s : State) : s.sendRecord.rcv = s.rcv := by
  unfold State.sendRecord
  split
  · exact sendMWR_rcv _ _ _ _
  · rfl

theorem flushAll_rcv (s : State) : s.flushAll.rcv = s.rcv := by
  refine foldl_rcv (fun u p => ?_) (List.finRange 3) s
  split
  · exact sendFlit_rcv u p _
  · rfl

theorem event_rcv (s : State) (n : Nat) : (s.event n).rcv = s.rcv := (event_moves s n).keep State.rcv

theorem calStop_rcv (s : State) : s.calStop.rcv = s.rcv := by
  unfold State.calStop
  split <;> simp

theorem setRes_rcv (s : State) (r : List Word) : (s.setRes r).rcv = s.rcv := 
  foldl_rcv (fun u k => State.setReg_rcv u (Reg.TSK_RES k) (r.getD k 0)) (List.range 16) s

theorem logError_rcv (s : State) (cls detail low err : Nat) : (s.logError cls detail low err).rcv = s.rcv := by
  unfold State.logError
  rw [State.bumpF_rcv, State.wr_rcv]

/-- R331: the blocks under way are dropped. -/
theorem discardWork_blks (s : State) : s.discardWork.rcv.blks = [] := rfl

/-- R331, R332: an error that ends the running task leaves no block in the recovery path. -/
theorem taskError_blks {s : State} {cls : Nat} (h : (s.countErr cls).errEnds cls = true) (err : Option Nat) (detail : Nat) :
    (s.taskError cls err detail).rcv.blks = [] := by
  unfold State.taskError
  extract_lets s1 s2 s3 low e s4 s5 s6 s7 s8 s9 s10 tsk s11 s12
  clear_value s7
  have h10 : s10.rcv = s7.discardWork.rcv := (setRes_rcv _ _).trans ((logError_rcv _ _ _ _ _).trans (calStop_rcv _))
  clear_value s10
  have h11 : s11.rcv = s10.rcv := rfl
  clear_value s11
  have h12 : s12.rcv = s11.rcv := by
    unfold s12
    split
    · exact event_rcv _ _
    · split
      · exact event_rcv _ _
      · rfl
  rw [if_pos h, flushAll_rcv, sendRecord_rcv, h12, h11, h10]
  exact discardWork_blks s7

/-! ### A piece that ends its block -/

theorem sendMWR_moves (s : State) (p : Fin 3) (addr : Nat) (bs : List Byte) :
    Moves { regs := true, hlk := true, tsk := true } noteRegs s (s.sendMWR p addr bs) := by
  have hf : Moves { regs := true, hlk := true, tsk := true } noteRegs s ((mwrFlits s.hop addr bs).foldl (fun u f => u.sendFlit p f) s) :=
    Moves.forEach (f := fun f u => u.sendFlit p f) _
      (fun f _ u h => h.then_ (Moves.of_noted (as := []) (Noted.refl.sendFlit p f)) rfl (List.Subset.refl _)) .refl
  exact hf.upd

theorem sendMWR_tsk (s : State) (p : Fin 3) (addr : Nat) (bs : List Byte) : ∃ u, (s.sendMWR p addr bs).tsk = { s.tsk with used := u } := by
  have h : ((mwrFlits s.hop addr bs).foldl (fun u f => u.sendFlit p f) s).tsk = s.tsk :=
    (Moves.forEach (c := { regs := true, hlk := true }) (as := noteRegs) (f := fun f u => u.sendFlit p f) _
      (fun f _ u h => h.trans (Moves.of_noted (as := []) (Noted.refl.sendFlit p f))) .refl).keep State.tsk
  exact ⟨_, congrArg (fun t : Tsk => { t with used := t.used ||| BitVec.ofNat 3 (2 ^ p.val) }) h⟩

/-- R156: the extent ends at a block that ended badly, once what lies below it has been delivered. -/
theorem advance_bad {s : State} {l cls n : Nat} (hb : s.tsk.bad.find? (·.1 = s.lowLba) = some (l, cls)) (hd : s.delivered l = true) :
    State.advance (n + 1) s = s.taskError cls (some l) := by
  simp [State.advance, hb, hd]

/-- R156: the piece that ends the block below one that ended badly ends the task. -/
theorem dmaOut_stops {s : State} {addr len lba l cls : Nat} {b : Beam} (hw : s.winOk true addr len = true)
    (hp : s.anyPoisoned (streamAddr b lba + s.tsk.moved % 32768) len = false) (hm : (s.tsk.moved + len) % 32768 = 0)
    (hb : s.tsk.bad.find? (·.1 = s.lowLba) = some (l, cls)) (hd : (l - s.tsk.lba) * 32768 ≤ s.tsk.moved + len) (hc : s.errEnds cls = true) :
    (s.dmaOut addr len lba b).rcv.blks = [] := by
  unfold State.dmaOut
  extract_lets at_ s1 s2 s3
  have h1 : Moves { regs := true, hlk := true, mem := true, tsk := true } (accessRegs ++ noteRegs) s s1 :=
    ((touchLines_moves s at_ len false 2).mono rfl (List.Subset.refl _)).then_ (sendMWR_moves _ _ _ _) rfl (List.subset_append_right _ _)
  obtain ⟨u, hu⟩ := sendMWR_tsk (s.touchLines at_ len false 2) (s.routePort lba) addr (s.dramBytes at_ len)
  rw [(touchLines_moves s at_ len false 2).keep State.tsk] at hu
  have htsk : s3.tsk = { s.tsk with
      used := u, moved := s.tsk.moved + len, landed := s.tsk.landed.filter (fun x => x.1 ≠ lba) } := by
    have h2 : s2.tsk = { s1.tsk with moved := s1.tsk.moved + len } := (event_moves _ _).keep State.tsk
    have h3 : s3.tsk = { s2.tsk with landed := s2.tsk.landed.filter (fun x => x.1 ≠ lba) } := rfl
    rw [h3, h2, show s1.tsk = _ from hu]
  have hmv : Moves { regs := true, hlk := true, mem := true, tsk := true } (accessRegs ++ noteRegs ++ eventRegs Ev.dmaDone) s s3 := by
    have h0 := (h1.then_ (modTsk_moves s1 fun t => { t with moved := t.moved + len }) rfl (List.nil_subset _)).mono
      (d := { regs := true, hlk := true, mem := true, tsk := true }) rfl (List.subset_append_left _ (eventRegs Ev.dmaDone))
    exact (h0.then_ (event_moves _ Ev.dmaDone) rfl (List.subset_append_right _ _)).then_ (modTsk_moves _ _) rfl (List.nil_subset _)
  have hmoved : s2.tsk.moved % 32768 = 0 := by
    have h : s2.tsk.moved = s3.tsk.moved := rfl
    rw [h, htsk]
    exact hm
  rw [if_neg (by simp [hw]), if_neg (by simp [at_, hp]), if_pos hmoved]
  clear_value s3
  obtain ⟨n, hn⟩ : ∃ n, s3.tsk.done.length + s3.tsk.bad.length = n + 1 := by
    have hlen : 0 < s.tsk.bad.length := List.length_pos_of_mem (List.mem_of_find?_eq_some hb)
    exact Nat.exists_eq_succ_of_ne_zero (by rw [htsk]; show s.tsk.done.length + s.tsk.bad.length ≠ 0; omega)
  have hlow : s3.lowLba = s.lowLba := congrArg BitVec.toNat (hmv.regs Reg.TSK_LOW_LBA (by decide))
  rw [hn, advance_bad (l := l) (cls := cls) (by rw [htsk, hlow]; exact hb)
    (by unfold State.delivered; rw [htsk, Bool.or_eq_true, decide_eq_true_iff, decide_eq_true_iff]; exact .inr hd)]
  refine taskError_blks ?_ _ _
  have he := countErr_moves s3 cls
  unfold State.errEnds State.taskRunning State.opcode at hc ⊢
  rwa [he.rd (by decide), he.rd (by decide), hmv.rd (by decide), hmv.rd (by decide)]

/-- Block 8 of a READ_EXTENT lacks its last byte at the host, block 9 ended UNRECOVERABLE, and block 10 is being read. -/
def readTail : State :=
  let s : State := {
    tsk := { lba := 8, count := 3, sgl := [(0x10000, 98304)], landed := [(8, 3)], moved := 32767, bad := [(9, 0x10)] }
    rcv := { blks := [{ lba := 10, beam := 3 }] } }
  let s := ((s.wr F.TSK_STATE_STATE 1).wr F.TSK_STATE_OPCODE 1).setReg Reg.TSK_LOW_LBA 9
  ((s.put (F.HLK_WIN_CTRL_EN 7) true).put (F.HLK_WIN_CTRL_W 7) true).setPair (Reg.HLK_WIN_LIM_LO 7) (2 ^ 40 - 1)

/-- The last byte of block 8 goes out: block 9 ends the task, and block 10 is forgotten. -/
theorem execDmaIssue_readTail : Ends (execDmaIssue true 0x17FFF 1 8 readTail) fun t => t.rcv.blks = [] := by
  have e : execDmaIssue true 0x17FFF 1 8 readTail = .next (readTail.dmaOut 0x17FFF 1 8 3) := rfl
  rw [e]
  exact .next (dmaOut_stops (l := 9) (cls := 0x10) (by decide +kernel) (by decide +kernel) (by decide +kernel) (by decide +kernel)
    (by decide +kernel) (by decide +kernel))

/-- Refutes O28: the first clause leaves all but the task, the link and the registers as they were, and the model does not: the piece
that delivers the last block below one that ended UNRECOVERABLE ends the task (R156), and the blocks still being read are dropped (R331). -/
theorem not_hostAccesses : ¬ Obligations.HostAccesses := by
  rintro ⟨hout, _⟩
  obtain ⟨t, hg, _, _, _, _, ht⟩ := hout readTail 0x17FFF 1 8 65537 3 (by decide +kernel) (by decide +kernel) (by decide +kernel)
    (by decide +kernel) (by decide +kernel) (by decide +kernel) (by decide +kernel) (by decide +kernel) (by decide +kernel)
    (by decide +kernel) (by decide +kernel) (by decide +kernel) (by decide +kernel) (by decide +kernel)
  obtain ⟨u, hu, hnone⟩ := execDmaIssue_readTail
  have htu : t = u := Host.Outcome.next.inj (hg.symm.trans hu)
  have hrcv : t.rcv = readTail.rcv := (congrArg State.rcv ht).trans rfl
  rw [← htu, hrcv] at hnone
  exact absurd hnone (List.cons_ne_nil _ _)

end Sys2Proof.Machine
end

section
/-! ## The pair's port fails while a controller is named -/

namespace Sys2Proof.Machine

set_option Elab.async false

/-! ### A message leaves its trace at the transmitter -/

theorem lbsTransmit_tries (s : State) (body : List Byte) : (s.lbsTransmit body).lbs.tries = 1 := by
  unfold State.lbsTransmit
  rw [State.wr_lbs, State.bump_lbs]

/-- The key slot of the library bus (R490). -/
def State.libSlot (s : State) : Option Slot := s.cph.slots[(Fin.ofNat 8 (s.rd F.LBS_AUTH_CFG_SLOT) : Fin 8)]

/-- R490: with a key in the library slot a message goes out. -/
theorem lbsMessage_tries {s : State} (h : s.libSlot.isSome = true)
    (p : Fin 8) (typ : Nat) (body : List Byte) : (s.lbsMessage p typ body).2.lbs.tries = 1 := by
  obtain ⟨k, hk⟩ := Option.isSome_iff_exists.mp h
  unfold State.libSlot at hk
  unfold State.lbsMessage State.lbsTag
  simp only [hk, Option.map_some]
  exact lbsTransmit_tries _ _

/-- Without one nothing does. -/
theorem lbsMessage_tries_keep {s : State} (h : s.lbs.tries = 1) (p : Fin 8) (typ : Nat) (body : List Byte) :
    (s.lbsMessage p typ body).2.lbs.tries = 1 := by
  unfold State.lbsMessage
  extract_lets src dst
  split
  extract_lets msg
  split
  · exact lbsTransmit_tries _ _
  · exact h

/-- R494, R496: a report to at least one peer leaves the transmitter at its first try. -/
theorem report_tries {s : State} (h : s.libSlot.isSome = true)
    (typ : Nat) (body : List Byte) : ∀ {ps : List (Fin 8)}, ps ≠ [] → (s.report ps typ body).lbs.tries = 1
  | p :: ps, _ => by
    have hfirst : (s.report [p] typ body).lbs.tries = 1 := by
      unfold State.report
      dsimp only [List.foldl]
      split <;> exact lbsMessage_tries h p typ body
    have hrest : ∀ (l : List (Fin 8)) (u : State), u.lbs.tries = 1 → (u.report l typ body).lbs.tries = 1 := by
      intro l
      induction l with
      | nil => exact fun _ hu => hu
      | cons q l ih =>
        intro u hu
        refine ih _ ?_
        dsimp only
        split <;> exact lbsMessage_tries_keep hu q typ body
    exact hrest ps _ hfirst

/-- R469: a redundancy that changes is told to the pair (R496). -/
theorem redUpdate_lbs {s : State} (h : s.redNow ≠ s.rd F.MIR_STAT_RED) :
    s.redUpdate.lbs = (((s.wr F.MIR_STAT_RED s.redNow).event Ev.mirState).pairNotice).lbs := by
  unfold State.redUpdate
  extract_lets r s1
  rw [if_neg h]
  change _ = s1.lbs
  clear_value s1
  split
  · exact (attention_moves s1 20).keep State.lbs
  · rfl

/-- R469: without a heartbeat the pair's redundancy is LOST. -/
theorem redNow_lost {s : State} (hp : s.flag F.MIR_CTRL_PAIR = true) (hb : s.flag F.MIR_STAT_HBOK = false) : s.redNow = 3 := by
  simp [State.redNow, hp, hb]

/-! ### What a port's failure leaves of what the notice needs -/

/-- The registers that tell to whom, and under which key, a report goes. -/
def noticeRegs : List Nat := Reg.LBS_AUTH_CFG :: (List.range 8).map Reg.LBS_PEER_MAC_HI

/-- The module can report to a controller: one is named, and the library slot holds a key. -/
structure State.Reports (s : State) : Prop where
  named : s.peers 1 ≠ []
  key   : s.libSlot.isSome = true

theorem State.Reports.of_moves {c : Parts} {as : List Nat} {s t : State} (h : s.Reports) (hm : Moves c as s t) (hc : c.cph = false)
    (ha : ∀ a ∈ noticeRegs, a ∉ as) : t.Reports where
  named := by
    have hreg : ∀ p : Fin 8, Reg.LBS_PEER_MAC_HI p ∉ as := fun p =>
      ha _ (List.mem_cons_of_mem _ (List.mem_map.mpr ⟨p, List.mem_range.mpr p.isLt, rfl⟩))
    have e : t.peers 1 = s.peers 1 :=
      List.filter_congr fun p _ => by rw [hm.flag (hreg p), hm.rd (hreg p)]
    rw [e]
    exact h.named
  key := by
    have hcph : t.cph = s.cph := hm.keep State.cph (fun u v => by simp only [State.splice, hc, cond_false])
    have e : t.libSlot = s.libSlot := by
      unfold State.libSlot
      simp only [hcph, hm.rd (f := F.LBS_AUTH_CFG_SLOT) (ha _ List.mem_cons_self)]
    rw [e]
    exact h.key

theorem pairNotice_tries {s : State} (h : s.Reports) : s.pairNotice.lbs.tries = 1 :=
  report_tries h.key _ _ (by simp [h.named])

/-- R464, R469, R496: the loss of a heartbeat that ends a pair's redundancy is told on the library bus. -/
theorem heartbeatLost_tries {s : State} (hb : s.flag F.MIR_STAT_HBOK = true) (hp : s.flag F.MIR_CTRL_PAIR = true)
    (hr : s.rd F.MIR_STAT_RED ≠ 3) (h : s.Reports) : s.heartbeatLost.lbs.tries = 1 := by
  unfold State.heartbeatLost
  rw [if_pos hb]
  have hm : Moves { regs := true } ([Reg.MIR_STAT, Reg.MIR_HBLOSS_CNT] ++ eventRegs Ev.mirState) s
      ((s.put F.MIR_STAT_HBOK false).bump Reg.MIR_HBLOSS_CNT) := (Moves.refl.put _).bump
  have hok : ((s.put F.MIR_STAT_HBOK false).bump Reg.MIR_HBLOSS_CNT).flag F.MIR_STAT_HBOK = false := by
    rw [State.flag_bump_ne _ _ (by decide), State.flag_put_same _ _ _ (by decide) rfl]
  have hred : ((s.put F.MIR_STAT_HBOK false).bump Reg.MIR_HBLOSS_CNT).rd F.MIR_STAT_RED = s.rd F.MIR_STAT_RED := by
    rw [State.rd_bump_ne _ _ (by decide), State.rd_put_disjoint _ _ _ _ (by decide) (by decide)]
  generalize (s.put F.MIR_STAT_HBOK false).bump Reg.MIR_HBLOSS_CNT = u at hm hok hred
  have hlost : u.redNow = 3 := redNow_lost ((hm.flag (by decide)).trans hp) hok
  rw [redUpdate_lbs (by rw [hlost, hred]; exact hr.symm)]
  have hv := (hm.wr (f := F.MIR_STAT_RED) u.redNow).then_ (event_moves _ Ev.mirState) rfl (List.subset_append_right _ _)
  exact pairNotice_tries (h.of_moves hv rfl (by decide))

/-- The registers that the failure of port M moves before the heartbeat counts as lost. -/
def downRegs : List Nat := [Reg.PMC_CYC_LO, Reg.PMC_CYC_LO + 4, Reg.HLK_P_STAT 2] ++ eventRegs Ev.linkDown

theorem clock_moves (s : State) : Moves { regs := true, hlk := true, free := true } downRegs s s.clock := by
  unfold State.clock State.draw
  exact (Moves.upd .refl).bump64 _ rfl (by simp [downRegs]) (by simp [downRegs])

theorem setHlk_moves (s : State) (x : Hlk) : Moves { hlk := true } [] s { s with hlk := x } := Moves.refl.upd

theorem clock_hlk (s : State) : s.clock.hlk = s.hlk := by
  unfold State.clock State.draw
  rw [State.bump64_hlk]

/-- R303: the failure of port M, its queues empty and no task using it, ends in the loss of the heartbeat. -/
theorem portFail_M {s : State} (hc : (s.port 2).qc = []) (hd : (s.port 2).qd = []) (hu : s.tsk.used.getLsbD 2 = false) :
    ∃ u, s.portFail 2 1 = u.heartbeatLost ∧ Moves { regs := true, hlk := true, free := true } downRegs s u := by
  unfold State.portFail
  extract_lets s1 s2 s3 s4 hlk s5 s6 used s7
  have h1 : Moves { regs := true, hlk := true, free := true } downRegs s s1 :=
    (((clock_moves s).put _ rfl (by simp [downRegs])).put _ rfl (by simp [downRegs])).wr _ rfl (by simp [downRegs])
  have hp1 : s1.port 2 = s.port 2 := by
    have e : s1.hlk = s.hlk := by
      rw [State.wr_hlk, State.put_hlk, State.put_hlk, clock_hlk]
    exact congrArg (fun x : Hlk => x.ports[(2 : Fin 3)]) e
  clear_value s1
  have h2 : s2 = s1 := by unfold s2; rw [hp1, hc, hd]; rfl
  have h4 : Moves { regs := true, hlk := true, free := true } downRegs s s4 := by
    unfold s4 s3
    rw [h2]
    exact ((h1.then_ (modPort_moves s1 2 _) rfl (List.nil_subset _)).wr _ rfl (by simp [downRegs])).put _ rfl (by simp [downRegs])
  clear_value s4
  have h5 : Moves { regs := true, hlk := true, free := true } downRegs s s5 := h4.then_ (setHlk_moves s4 _) rfl (List.nil_subset _)
  clear_value s5
  have h6 : Moves { regs := true, hlk := true, free := true } downRegs s s6 :=
    h5.then_ (event_moves s5 Ev.linkDown) rfl (List.subset_append_right _ _)
  clear_value s6
  have h7 : s7 = s6 := by
    have hno : used = false := by unfold used; rw [h6.keep State.tsk]; exact hu
    unfold s7
    rw [if_neg (by decide), if_neg (by simp [hno])]
  exact ⟨s7, rfl, h7 ▸ h6⟩

/-- Port M of a redundant pair trains again, its partner's heartbeat still good, and the library bus names a controller. -/
def pairedTraining : State :=
  let s : State := { cph := { slots := (Vector.replicate 8 none).set 7 (some ⟨2, List.replicate 32 5, 3⟩) } }
  let s := (((s.wr (F.HLK_P_STAT_STEP 2) 2).put F.MIR_STAT_HBOK true).put F.MIR_CTRL_PAIR true).wr F.MIR_STAT_RED 1
  (s.put (F.LBS_PEER_MAC_HI_EN 0) true).wr (F.LBS_PEER_MAC_HI_ROLE 0) 1

theorem pairedTraining_reports : pairedTraining.Reports := ⟨by decide +kernel, by decide +kernel⟩

/-- Its training fails: the pair's new redundancy is told to the controller. -/
theorem execPortDown_pairedTraining : Ends (execPortDown .M pairedTraining) fun t => t.lbs.tries = 1 := by
  obtain ⟨u, e, hm⟩ := portFail_M (s := pairedTraining) (by decide +kernel) (by decide +kernel) (by decide +kernel)
  unfold execPortDown
  rw [if_pos (by decide +kernel), show pairedTraining.portFail (portIdx .M) 1 = u.heartbeatLost from e]
  exact .next (heartbeatLost_tries ((hm.flag (by decide)).trans (by decide +kernel)) ((hm.flag (by decide)).trans (by decide +kernel))
    (by rw [hm.rd (by decide)]; decide +kernel) (pairedTraining_reports.of_moves hm rfl (by decide)))

/-- Refutes O24: the fifth clause leaves the library bus as it was, and the model does not: when port M of a pair goes down its heartbeat
counts as lost (R303, R464), and the change of `MIR_STAT.RED` sends a PAIR_NOTICE (R469, R496). -/
theorem not_linkTraining : ¬ Obligations.LinkTraining := by
  rintro ⟨_, _, _, _, hdown, _⟩
  obtain ⟨t, hg, _, _, _, _, _, _, _, _, _, ht⟩ := hdown pairedTraining .M (by decide +kernel) (by decide +kernel)
  obtain ⟨u, hu, htries⟩ := execPortDown_pairedTraining
  have htu : t = u := Host.Outcome.next.inj (hg.symm.trans hu)
  have hlbs : t.lbs = pairedTraining.lbs := (congrArg State.lbs ht).trans rfl
  rw [← htu, hlbs] at htries
  exact absurd htries (by decide +kernel)

end Sys2Proof.Machine
end

section
/-! ## A control request reads a poisoned coefficient -/

namespace Sys2Proof.Machine

set_option Elab.async false

variable {s : State} {m : Master} {a : Nat} {v : Word} {p : Port} {h : Dword} {pl : List Byte}

/-! ### What such a read counts -/

/-- R510: with PMC off no event is counted. -/
theorem pmcEvent_off (he : s.flag F.PMC_CTRL_EN = false) (cls master : Nat) (cust : Option Bool) (addr : Option (Bool × Nat)) (n : Nat) :
    s.pmcEvent cls master cust addr n = s := by
  have hk : ∀ sel : Nat → Bool, s.pmcCount sel n = s := fun sel => by
    unfold State.pmcCount forEach
    have hrun : ∀ k, s.pmcRuns k = false := fun k => by simp [State.pmcRuns, he]
    have hfix : ∀ l : List Nat, l.foldl (fun u k =>
        if sel k && u.pmcRuns k && !u.flag (F.PMC_SEL_CHAIN k) then State.pmcAdd 8 k n u else u) s = s := by
      intro l
      induction l with
      | nil => rfl
      | cons k l ih => rw [List.foldl_cons, if_neg (by simp [hrun]), ih]
    exact hfix _
  exact hk _

/-- R209, R387: a read by a host of a poisoned coefficient, with PMC and ATTENTION off and no task: its only trace is MIC's count. -/
theorem doRead_poisonedCoeff (hr : s.regRead m a = (v, s)) (hp : s.srv.poison.contains a = true) (hm : m ≠ .seq)
    (he : s.flag F.PMC_CTRL_EN = false) (ha : s.flag F.TSK_CTRL_EV_ATT = false) (ht : s.taskRunning = false) :
    s.doRead m a = (v, s.bump Reg.MIC_S_CONS_CNT) := by
  have he' : (s.bump Reg.MIC_S_CONS_CNT).flag F.PMC_CTRL_EN = false := (State.flag_bump_ne s _ (by decide)).trans he
  have hcons : s.consumeRead m a = s.bump Reg.MIC_S_CONS_CNT := by
    unfold State.consumeRead State.consumeSram
    rw [if_pos (by rw [hp]; rfl)]
    exact pmcEvent_off he' _ _ _ _ _
  have hend : (s.bump Reg.MIC_S_CONS_CNT).poisonEnd = s.bump Reg.MIC_S_CONS_CNT := by
    have hrun : (s.bump Reg.MIC_S_CONS_CNT).taskRunning = false := by
      unfold State.taskRunning at ht ⊢
      rwa [State.rd_bump_ne s _ (by decide)]
    unfold State.poisonEnd State.attention
    rw [if_neg (by simp [hrun]), if_neg (by rw [State.flag_bump_ne s _ (by decide)]; simp [ha])]
  unfold State.doRead State.accessEvent
  simp only [hr, State.readPoisoned, hp, hm, Bool.true_or, ne_eq, not_false_eq_true, decide_true, Bool.and_true, if_true, hcons, hend,
    pmcEvent_off he']

/-! ### The request and its end -/

theorem ccpl_plain (s : State) (h : Dword) (pl : List Byte) (k : Nat) (vs : List Word) : (s.ccpl h pl k vs).Plain :=
  ⟨rfl, rfl, (by decide : ¬(3 = 8 ∨ 3 = 0xA)), rfl, rfl, rfl⟩

/-- R541: a request that reads one register is answered with what its read gives. -/
theorem creqRun_read_one {t : State}
    (hc : s.runCheck (creqMaster pl) (s.sessionNamed pl) (creqOf pl) ((creqOf pl).run pl) = none) (hw : (creqOf pl).wr = false)
    (hn : (creqOf pl).count = 1) (hr : s.doRead (creqMaster pl) (creqOf pl).ofs = (v, t)) :
    s.creqRun p h pl = t.sendFlit (portIdx p) (t.ccpl h pl 0 [v]) := by
  have hrun : (creqOf pl).run pl = [((creqOf pl).ofs, BitVec.ofNat 32 (beAt pl 8 4))] := by
    unfold Creq.run
    rw [hn]
    rfl
  unfold State.creqRun
  simp only [hc, hw]
  simp [hrun, State.runReads, hr]

/-- R308, R528: nothing follows an access when no drain is in progress and no reset was ordered. -/
theorem settled_quiet (hd : s.hlk.drain = none) (hs : s.pwr.soft = false) : s.settled = s := by
  unfold State.settled State.softNow State.drainNow State.drainEnd
  simp [hd, hs]

theorem sendFlit_plain_drain {p : Fin 3} {f : Flit} (hf : f.Plain) (hp : s.PortFree p) : (s.sendFlit p f).hlk.drain = s.hlk.drain := by
  rw [sendFlit_plain hf hp, launch_hlk hf]
  rfl

theorem consCnt_sep : ∀ p : Fin 3, Reg.HLK_P_STAT p ∉ [Reg.MIC_S_CONS_CNT] ∧ Reg.HLK_P_CRED p ∉ [Reg.MIC_S_CONS_CNT] ∧
    Reg.MIC_S_CONS_CNT ∉ linkRegs p := by decide

/-- R540: a read of a plain register that counts nothing and has no open bit leaves the module alone. -/
theorem regRead_plain_snd {r : RegRow} {i : Nat} (hr : regAt a = some (r, i)) (hk : r.kind = .plain) (he : s.enabled a = true)
    (hflc : a ≠ Reg.FLC_RDATA) (hchal : ¬(Reg.CPH_SESS_CHAL 0 ≤ a ∧ a ≤ Reg.CPH_SESS_CHAL 3)) (hcyc : a ≠ Reg.PMC_CYC_LO)
    (htick : a ≠ Reg.BKP_TICK_LO) (hiph : ¬(Reg.SPN_IPH 0 ≤ a ∧ a ≤ Reg.SPN_IPH 2)) (ho : s.openBits a = 0)
    (hstg : (arr a (Reg.MIR_STG_DATA 0) 4 30 id).isSome = false) : (s.regRead m a).2 = s := by
  have hlook : s.look a = (s.view a, s) := by
    unfold State.look
    simp only [hcyc, htick, if_false, ho, if_true]
    rw [if_neg fun h => hiph ⟨h.1, h.2.1⟩]
  unfold State.regRead
  simp only [hr, he, hk, hflc, hlook, hstg, Bool.not_true, Bool.false_eq_true, if_false]
  rw [if_neg fun h => hchal ⟨h.1, h.2.1⟩]

/-- R296, R387: the answered read of a poisoned coefficient is counted by MIC. -/
theorem creqRun_poisonedCoeff_counts
    (hc : s.runCheck (creqMaster pl) (s.sessionNamed pl) (creqOf pl) ((creqOf pl).run pl) = none) (hw : (creqOf pl).wr = false)
    (hn : (creqOf pl).count = 1) (hr : s.regRead (creqMaster pl) (creqOf pl).ofs = (v, s))
    (hp : s.srv.poison.contains (creqOf pl).ofs = true) (hm : creqMaster pl ≠ .seq) (he : s.flag F.PMC_CTRL_EN = false)
    (ha : s.flag F.TSK_CTRL_EV_ATT = false) (ht : s.taskRunning = false) (hf : s.PortFree (portIdx p)) (hd : s.hlk.drain = none)
    (hs : s.pwr.soft = false) : Counts s (s.creqRun p h pl).settled Reg.MIC_S_CONS_CNT := by
  rw [creqRun_read_one hc hw hn (doRead_poisonedCoeff hr hp hm he ha ht)]
  have hfree : (s.bump Reg.MIC_S_CONS_CNT).PortFree (portIdx p) :=
    (Alike.of_moves (Moves.refl.bump (c := { regs := true }) (as := [Reg.MIC_S_CONS_CNT])) rfl
      (consCnt_sep (portIdx p)).1 (consCnt_sep (portIdx p)).2.1).portFree hf
  have hplain := ccpl_plain (s.bump Reg.MIC_S_CONS_CNT) h pl 0 [v]
  have hmv := sendFlit_plain_moves hplain hfree
  rw [settled_quiet ((sendFlit_plain_drain hplain hfree).trans (by rw [State.bump_hlk]; exact hd)) ((hmv.keep (fun u => u.pwr.soft)).trans hs)]
  exact Counts.bump.then_ hmv (consCnt_sep _).2.2

/-! ### The request -/

/-- Port B is up, the module numbered 5, its ATTENTION events off, and the first coefficient of group 0 is poisoned. -/
def poisonedCoeff : State :=
  let s : State := { srv := { poison := [Reg.SRV_G_MEM 0 0] } }
  let s := ((s.wr F.PWR_START_STEP 14).put F.HLK_ID_VALID true).wr F.HLK_ID_HOP 5
  (((s.put F.TSK_CTRL_EV_ATT false).put (F.HLK_P_STAT_UP 1) true).wr (F.HLK_P_CRED_C 1) 2).wr (F.HLK_P_CRED_D 1) 2

/-- The header of a CREQ for module 5, its TAG 9, with its HCRC (R296). -/
def coeffHdr : Dword :=
  let w := 2 * 2 ^ 60 + 5 * 2 ^ 53 + 9 * 2 ^ 40
  BitVec.ofNat 64 (w + crc16 w 63 32 * 2 ^ 16)

/-- An operator's request that reads that coefficient, with its CRC-32. -/
def coeffRead : List Byte :=
  let body := beBytes 4 (Reg.SRV_G_MEM 0 0) ++ List.replicate 112 0
  body ++ beBytes 4 (crc32 (beBytes 4 (coeffHdr.toNat / 2 ^ 32) ++ body))

theorem coeffRead_next : poisonedCoeff.NextIn 1 coeffHdr := by
  unfold State.NextIn
  decide +kernel

theorem poisonedCoeff_free : poisonedCoeff.PortFree 1 := by
  constructor <;> decide +kernel

/-- The module once it has taken the request. -/
def coeffTaken : State := poisonedCoeff.rxOwned 1 2 1

theorem coeffRead_rxOwn : poisonedCoeff.rxOwn 1 coeffHdr 2 1 = (true, coeffTaken) := rxOwn_next coeffRead_next 2 1

theorem coeffTaken_moves : Moves { regs := true, hlk := true } (linkRegs 1) poisonedCoeff coeffTaken := rxOwned_moves _ 1 2 1

theorem coeffTaken_free : coeffTaken.PortFree 1 :=
  (rxOwned_self (s := poisonedCoeff) (p := 1) (n := 1) (by decide +kernel)).portFree poisonedCoeff_free

theorem coeffTaken_regRead : (coeffTaken.regRead (creqMaster coeffRead) (creqOf coeffRead).ofs).2 = coeffTaken :=
  regRead_plain_snd (r := ((regAt (creqOf coeffRead).ofs).get (by decide +kernel)).1) (i := ((regAt (creqOf coeffRead).ofs).get (by decide +kernel)).2)
    (by decide +kernel) (by decide +kernel) (by decide +kernel) (by decide +kernel) (by decide +kernel) (by decide +kernel)
    (by decide +kernel) (by decide +kernel) (by decide +kernel) (by decide +kernel)

theorem coeffTaken_check : coeffTaken.runCheck (creqMaster coeffRead) (poisonedCoeff.sessionNamed coeffRead) (creqOf coeffRead)
    ((creqOf coeffRead).run coeffRead) = none := by decide +kernel

theorem coeffTaken_session : coeffTaken.sessionNamed coeffRead = poisonedCoeff.sessionNamed coeffRead := by
  unfold State.sessionNamed
  rw [coeffTaken_moves.flag (by decide), coeffTaken_moves.rd (by decide)]

theorem coeffRead_ofs : (creqOf coeffRead).ofs = Reg.SRV_G_MEM 0 0 := by decide +kernel

/-- The request is answered, and the poison it met is counted. -/
theorem execCreq_poisonedCoeff :
    Ends (execCreq .B coeffHdr coeffRead poisonedCoeff) fun t => Counts poisonedCoeff t Reg.MIC_S_CONS_CNT := by
  have hquiet : coeffTaken.hlk.drain = none := by decide +kernel
  have hm := coeffTaken_moves
  unfold execCreq
  extract_lets i
  rw [if_pos (by decide +kernel), show poisonedCoeff.rxOwn i coeffHdr 2 1 = (true, coeffTaken) from coeffRead_rxOwn]
  simp only [Bool.not_true, Bool.false_eq_true, if_false, show creqCrcOk coeffHdr coeffRead = true by decide +kernel, hquiet,
    Option.isSome_none, Bool.false_and]
  refine .next ((creqRun_poisonedCoeff_counts (p := .B) (v := (coeffTaken.regRead (creqMaster coeffRead) (creqOf coeffRead).ofs).1)
    (by rw [coeffTaken_session]; exact coeffTaken_check) (by decide +kernel) (by decide +kernel) (Prod.ext rfl coeffTaken_regRead)
    ?_ (by decide +kernel) ?_ ?_ ?_ coeffTaken_free hquiet ?_).after hm (by decide))
  · rw [hm.keep State.srv, coeffRead_ofs]
    decide +kernel
  · exact (hm.flag (by decide)).trans (by decide +kernel)
  · exact (hm.flag (by decide)).trans (by decide +kernel)
  · unfold State.taskRunning
    rw [hm.rd (by decide)]
    decide +kernel
  · exact (hm.keep fun u => u.pwr.soft).trans (by decide +kernel)

/-- Refutes O30: the first clause leaves all but the port's registers as they were, and the model does not: a host's read of a coefficient
that is poisoned is answered with its word and counted in `MIC_S_CONS_CNT` (R209, R387). -/
theorem not_controlRequestsAndDrain : ¬ Obligations.ControlRequestsAndDrain := by
  rintro ⟨hread, _⟩
  have htaken : (poisonedCoeff.rxOwn (portIdx .B) coeffHdr 2 1).2 = coeffTaken := congrArg Prod.snd coeffRead_rxOwn
  obtain ⟨t, hg, _, _, hregs⟩ := hread poisonedCoeff .B coeffHdr coeffRead
    (coeffTaken.regRead (creqMaster coeffRead) (creqOf coeffRead).ofs).1 coeffRead_next (by decide +kernel) (by decide +kernel)
    (by decide +kernel) (by decide +kernel) (by decide +kernel) (by decide +kernel) (by decide +kernel)
    (by rw [htaken]; exact coeffTaken_check) (by rw [htaken]; exact Prod.ext rfl coeffTaken_regRead)
    ⟨by decide +kernel, by decide +kernel, by decide +kernel⟩ poisonedCoeff_free
  obtain ⟨u, hu, hcount⟩ := execCreq_poisonedCoeff
  have htu : t = u := Host.Outcome.next.inj (hg.symm.trans hu)
  have hsame : u.reg Reg.MIC_S_CONS_CNT = poisonedCoeff.reg Reg.MIC_S_CONS_CNT := htu ▸ hregs _ (consCnt_sep _).2.2
  rw [Counts, hsame] at hcount
  exact absurd hcount (by decide +kernel)

end Sys2Proof.Machine
end

section
/-! ## The end of a freeze, and a DISC_READY that waited for it -/

namespace Sys2Proof.Machine

set_option Elab.async false

theorem eventFlit_moves (s : State) (p : Fin 3) (code arg : Nat) :
    Moves { regs := true, hlk := true } noteRegs s (s.eventFlit p code arg) := .of_noted (as := []) (Noted.refl.eventFlit p code arg)

theorem discReadyNow_tsk (s : State) : s.discReadyNow.tsk = s.tsk := by
  unfold State.discReadyNow
  extract_lets u
  have hu : u.tsk = s.tsk := State.put_tsk s F.TSK_INT_STAT_DISC_READY true
  split
  · exact ((eventFlit_moves u _ _ _).keep State.tsk).trans hu
  · exact hu

/-- R339: once TASK_END has gone out, no DISC_READY waits for it. -/
theorem taskEndEvent_readyDue (s : State) : s.taskEndEvent.tsk.readyDue = false := by
  unfold State.taskEndEvent
  extract_lets u
  split
  next => exact congrArg Tsk.readyDue (discReadyNow_tsk _)
  next h => simpa using h

/-- R332: a freeze whose accesses are answered settles, and its TASK_END goes out. -/
theorem execFreezeSettled_settles {s : State} (hz : s.taskFrozen = true) (hs : s.flag F.TSK_STATE_SETTLED = false)
    (hm : s.hlk.mrds.all (fun m => m.live) = true) (hf : s.flushed = true) :
    execFreezeSettled s = .next (s.put F.TSK_STATE_SETTLED true).taskEndEvent := by
  have hall : s.hlk.mrds.all (fun m => m.live || m.timed) = true :=
    List.all_eq_true.mpr fun m hmem => by rw [List.all_eq_true.mp hm m hmem, Bool.true_or]
  unfold execFreezeSettled
  rw [if_pos (by simp [hz, hs, hall, hf])]

/-- A frozen task, not settled, during whose freeze the last zone-layer of the disc became ready (R339). -/
def frozenReadyDue : State := ({ tsk := { readyDue := true } } : State).wr F.TSK_STATE_STATE 3 |>.put F.TSK_STATE_SETTLED false

/-- Refutes O31: its last clause leaves the task's state as it was, and the model does not: a DISC_READY that came during the freeze waits
for the TASK_END, and goes out with it (R332, R339). -/
theorem not_taskControl : ¬ Obligations.TaskControl := by
  rintro ⟨_, _, _, _, _, _, _, _, hsettle⟩
  have hz : frozenReadyDue.taskFrozen = true := by decide +kernel
  have hs : frozenReadyDue.flag F.TSK_STATE_SETTLED = false := by decide +kernel
  have hm : frozenReadyDue.hlk.mrds.all (fun m => m.live) = true := by decide +kernel
  have hf : frozenReadyDue.flushed = true := by decide +kernel
  obtain ⟨t, hg, _, _, ht, _⟩ := hsettle frozenReadyDue hz hs hm hf
  have htu : t = (frozenReadyDue.put F.TSK_STATE_SETTLED true).taskEndEvent :=
    Host.Outcome.next.inj (hg.symm.trans (execFreezeSettled_settles hz hs hm hf))
  have htsk : t.tsk = frozenReadyDue.tsk := (congrArg State.tsk ht).trans rfl
  have hdue : t.tsk.readyDue = false := htu ▸ taskEndEvent_readyDue _
  rw [htsk] at hdue
  exact Bool.false_ne_true hdue.symm

end Sys2Proof.Machine
end

section
/-! ## The spindle tasks (R323, R325) -/

namespace Sys2Proof.Machine

set_option Elab.async false

variable {s t : State} {op k : Nat} {run : State → State}

theorem workDone_moves (s : State) : Moves { tsk := true } [] s s.workDone := modTsk_moves s _

/-- The registers of SPN's commands and ends are among those a task of the spindle may move. -/
theorem spnEndRegs_listed : spnEndRegs ⊆ spnRegs := by decide
theorem spnGoRegs_listed : [Reg.SPN_STAT, Reg.SRV_S_CTRL 0] ⊆ spnRegs := by decide
theorem spnTargetRegs_listed : [Reg.SPN_TARGET, Reg.SPN_STAT] ⊆ spnRegs := by decide

/-- What a SPIN_UP from rest makes of the state. -/
theorem execSpinUp_ends (hw : s.works 0x12 = true) (h0 : s.spnState = 0) (hr : (s.wr F.SPN_TARGET_RPM (s.speedOr 0)).spnRefusal 1 = none) :
    Ends (execSpinUp s) fun t => t.tsk.work = false ∧ t.rd F.SPN_TARGET_RPM = s.speedOr 0 % 2 ^ 13 ∧ t.spnState = 2 ∧ t.spn.cmd = 1 ∧
      Moves { regs := true, spn := true, tsk := true } spnRegs s t := by
  have hrest : (s.wr F.SPN_TARGET_RPM (s.speedOr 0)).spnState = 0 := (State.rd_wr_ne s _ _ (by decide)).trans h0
  have hfree : (s.wr F.SPN_TARGET_RPM (s.speedOr 0)).SpinFree := (spnRefusal_spin_rest hrest).mp hr
  have hfree' : (s.workDone.wr F.SPN_TARGET_RPM (s.speedOr 0)).SpinFree := spinFree_congr hfree rfl rfl rfl rfl rfl
  have he : s.workDone.taskSpin (s.speedOr 0) = s.workDone.extentSpin (s.speedOr 0) :=
    (if_neg fun h => by have h4 : s.spnState = 4 := h.1; omega).symm
  obtain ⟨hst, hcmd, htgt, hal⟩ := extentSpin_rest (s := s.workDone) h0 hfree'
  have hm : Moves { regs := true, spn := true } spnRegs s.workDone (s.workDone.extentSpin (s.speedOr 0)) :=
    ((spnTarget_moves _ _).mono rfl spnTargetRegs_listed).trans hal
  unfold execSpinUp
  rw [if_pos hw, he]
  refine .next ⟨?_, htgt.trans (spnTarget_rd _ _), hst, hcmd, ?_⟩
  · exact hm.keep fun u => u.tsk.work
  · exact ((workDone_moves s).mono rfl (List.nil_subset _)).then_ hm rfl (List.Subset.refl _)

/-! ### A command of a task that SPN accepts -/

/-- A new command is in progress (R256). -/
theorem spnAccept_cmd (s : State) (op : Nat) : (s.spnAccept op).spn.cmd = op := rfl

theorem spnAccept_moves (s : State) (op : Nat) : Moves { regs := true, spn := true } spnRegs s (s.spnAccept op) :=
  (((spnEnd_moves s 0x52).mono rfl spnEndRegs_listed).then_ (modSpn_moves _ _) rfl (List.nil_subset _)).put _ rfl (by decide)

theorem spnAccept_state (s : State) (op : Nat) : (s.spnAccept op).spnState = s.spnState :=
  (State.rd_put_disjoint _ F.SPN_STAT_BUSY F.SPN_STAT_STATE _ (by decide) (by decide)).trans
    (spnEnd_rd (f := F.SPN_STAT_STATE) rfl (by decide) (by decide))

theorem taskSpindle_accepted (h : s.spnRefusal op = none) : s.taskSpindle op run = run (s.spnAccept op) := by
  unfold State.taskSpindle State.spnCommand
  rw [h]

/-- What SPN goes to with command `op` of a task that stops the disc. -/
structure State.Slows (s t : State) (op k : Nat) : Prop where
  state : t.spnState = k
  cmd   : t.spn.cmd = op
  moves : Moves { regs := true, spn := true } spnRegs s t

/-- The drive changes with SPN's state, and the command stays. -/
theorem spnGo_slows {d : Nat} (hk : k < 16) (hc : s.spn.cmd = op) : s.Slows ((s.spnGo k).modSpn fun p => { p with drive := d }) op k where
  state := spnGo_state hk
  cmd := ((spnGo_moves s k).keep fun u => u.spn.cmd).trans hc
  moves := ((spnGo_moves s k).mono rfl spnGoRegs_listed).then_ (modSpn_moves _ _) rfl (List.nil_subset _)

theorem State.Slows.after {u : State} (h : u.Slows t op k) (hm : Moves { regs := true, spn := true } spnRegs s u) : s.Slows t op k :=
  ⟨h.state, h.cmd, hm.trans h.moves⟩

/-- R259: STOP in RUN takes the target to 0. -/
theorem stopRun_slows (h : s.spnState = 4) (hc : s.spn.cmd = op) : s.Slows s.stopRun op 5 ∧ s.stopRun.rd F.SPN_TARGET_RPM = 0 := by
  have ht := spnTarget_moves s 0
  have hgo : (s.spnTarget 0).Slows s.stopRun op 5 := by
    unfold State.stopRun
    simp only [h, true_or, if_true]
    exact spnGo_slows (by decide) ((ht.keep fun u => u.spn.cmd).trans hc)
  refine ⟨hgo.after (ht.mono rfl spnTargetRegs_listed), ?_⟩
  unfold State.stopRun
  simp only [h, true_or, if_true]
  exact ((spnGo_moves _ 5).rd (by decide)).trans (spnTarget_rd s 0)

/-- R260. -/
theorem brakeRun_slows (hc : s.spn.cmd = op) : s.Slows s.brakeRun op 6 := spnGo_slows (by decide) hc

/-- R262. -/
theorem parkRun_slows (hc : s.spn.cmd = op) : s.Slows s.parkRun op 5 := by
  have ht : Moves { regs := true, spn := true } spnRegs s ((s.spnTarget 0).put F.SPN_STAT_PARKED false) :=
    ((spnTarget_moves s 0).mono rfl spnTargetRegs_listed).put _ rfl (by decide)
  have hcmd : ((s.spnTarget 0).put F.SPN_STAT_PARKED false).spn.cmd = op := ((spnTarget_moves s 0).keep fun u => u.spn.cmd).trans hc
  exact (spnGo_slows (by decide) hcmd).after ht

/-! ### SPIN_DOWN -/

theorem spnRefusal_workDone (s : State) (op : Nat) : s.workDone.spnRefusal op = s.spnRefusal op := rfl

/-- R323: a SPIN_DOWN of kind `k` gives SPN its command, unless the disc is at rest. -/
theorem spinDown_runs (hw : s.works 0x13 = true) (ha : s.descW 2 % 4 = k) (h0 : ¬(s.spnState = 0 ∧ k ≠ 2)) (hr : s.spnRefusal op = none) :
    s.spinDown k op run = run (s.workDone.spnAccept op) := by
  have hrest : ¬(s.workDone.spnState = 0 ∧ k ≠ 2) := h0
  unfold State.spinDown
  rw [if_pos (by simp [hw, ha])]
  exact (if_neg hrest).trans (taskSpindle_accepted ((spnRefusal_workDone s op).trans hr))

/-- What such a task leaves of its work, and what it moves. -/
theorem slows_task {j : Nat} (h : (s.workDone.spnAccept op).Slows t op j) :
    t.tsk.work = false ∧ t.spnState = j ∧ t.spn.cmd = op ∧ Moves { regs := true, spn := true, tsk := true } spnRegs s t := by
  have hm := (spnAccept_moves s.workDone op).trans h.moves
  exact ⟨hm.keep fun u => u.tsk.work, h.state, h.cmd,
    ((workDone_moves s).mono rfl (List.nil_subset _)).then_ hm rfl (List.Subset.refl _)⟩

theorem execSpinDownStop_ends (hw : s.works 0x13 = true) (ha : s.descW 2 % 4 = 0) (h4 : s.spnState = 4) (hr : s.spnRefusal 2 = none) :
    Ends (execSpinDownStop s) fun t => (t.tsk.work = false ∧ t.spnState = 5 ∧ t.spn.cmd = 2 ∧
      Moves { regs := true, spn := true, tsk := true } spnRegs s t) ∧ t.rd F.SPN_TARGET_RPM = 0 := by
  obtain ⟨hs, h0⟩ := stopRun_slows ((spnAccept_state s.workDone 2).trans h4) (spnAccept_cmd s.workDone 2)
  unfold execSpinDownStop
  rw [spinDown_runs hw ha (by omega) hr]
  exact .next ⟨slows_task hs, h0⟩

theorem execSpinDownBrake_ends (hw : s.works 0x13 = true) (ha : s.descW 2 % 4 = 1) (h0 : s.spnState ≠ 0) (hr : s.spnRefusal 3 = none) :
    Ends (execSpinDownBrake s) fun t => t.tsk.work = false ∧ t.spnState = 6 ∧ t.spn.cmd = 3 ∧
      Moves { regs := true, spn := true, tsk := true } spnRegs s t := by
  unfold execSpinDownBrake
  rw [spinDown_runs hw ha (fun h => h0 h.1) hr]
  exact .next (slows_task (brakeRun_slows (spnAccept_cmd s.workDone 3)))

/-! ### The park offset -/

/-- The registers on which SPN's refusals rest (R256, R264). -/
def refusalRegs : List Nat := [Reg.SPN_TARGET, Reg.SPN_STAT, Reg.SPN_SPEED, Reg.SPN_ROT, Reg.MIR_STAT, Reg.PWR_STAT]

theorem spnRefusal_of_moves {as : List Nat} (hm : Moves { regs := true } as s t) (ha : ∀ a ∈ refusalRegs, a ∉ as) :
    t.spnRefusal op = s.spnRefusal op := by
  have hrd : ∀ f : RegField, f.reg ∈ refusalRegs → t.rd f = s.rd f := fun f hf => hm.rd (ha _ hf)
  have hflag : ∀ f : RegField, f.reg ∈ refusalRegs → t.flag f = s.flag f := fun f hf => hm.flag (ha _ hf)
  have hint : ∀ a ∈ refusalRegs, t.int a = s.int a := fun a h => congrArg BitVec.toInt (hm.regs a (ha a h))
  have hspn : t.spn = s.spn := hm.keep State.spn
  have hst : t.spnState = s.spnState := hrd F.SPN_STAT_STATE (by decide)
  have hown : t.owned = s.owned := hflag F.MIR_STAT_OWNED (by decide)
  have hstg : t.stageOn = s.stageOn := hflag F.PWR_STAT_STGEN (by decide)
  have hspeed : t.spnSpeed = s.spnSpeed := by
    unfold State.spnSpeed
    rw [hst, hspn, hflag F.SPN_STAT_SPDVALID (by decide), hint Reg.SPN_SPEED (by decide)]
  unfold State.spnRefusal
  rw [hrd F.SPN_TARGET_RPM (by decide), hspn, hst, hown, hstg, hspeed, hint Reg.SPN_ROT (by decide)]

theorem execSpinDownPark_ends (hw : s.works 0x13 = true) (ha : s.descW 2 % 4 = 2) (hr : s.spnRefusal 5 = none) :
    Ends (execSpinDownPark s) fun t => (t.tsk.work = false ∧ t.spnState = 5 ∧ t.spn.cmd = 5 ∧
      Moves { regs := true, spn := true, tsk := true } (Reg.SPN_PARK :: spnRegs) s t) ∧ t.rd F.SPN_PARK_ANGLE = s.descW 3 % 2 ^ 16 := by
  have hp : Moves { regs := true } [Reg.SPN_PARK] s (s.wr F.SPN_PARK_ANGLE (s.descW 3)) := Moves.refl.wr _
  have hw' : (s.wr F.SPN_PARK_ANGLE (s.descW 3)).works 0x13 = true := by
    have hrun : (s.wr F.SPN_PARK_ANGLE (s.descW 3)).taskRunning = s.taskRunning :=
      congrArg (fun n => decide (n = 1)) (hp.rd (f := F.TSK_STATE_STATE) (by decide))
    have hop : (s.wr F.SPN_PARK_ANGLE (s.descW 3)).opcode = s.opcode := hp.rd (f := F.TSK_STATE_OPCODE) (by decide)
    unfold State.works at hw ⊢
    rw [hrun, hop]
    exact hw
  obtain ⟨hwork, hst, hcmd, hm⟩ := slows_task (parkRun_slows (spnAccept_cmd (s.wr F.SPN_PARK_ANGLE (s.descW 3)).workDone 5))
  unfold execSpinDownPark
  rw [if_pos (by simp [hw, ha]), spinDown_runs hw' ha (fun h => h.2 rfl) ((spnRefusal_of_moves hp (by decide)).trans hr)]
  refine .next ⟨⟨hwork, hst, hcmd, (hp.mono rfl (by simp)).then_ hm rfl (List.subset_cons_self _ _)⟩, ?_⟩
  exact (hm.rd (by decide)).trans (State.rd_wr_same s F.SPN_PARK_ANGLE _ (by decide))

end Sys2Proof.Machine
end

section
/-! ## PAIR_HANDOVER, and what PATCH_LOAD and NOP begin with (R323, R473) -/

namespace Sys2Proof.Machine

set_option Elab.async false

variable {s : State} {blob : List Byte} {a : Nat}

theorem modMir_moves (s : State) (f : Mir → Mir) : Moves { mir := true } [] s (s.modMir f) := Moves.refl.upd

theorem mirrSend_moves (s : State) (kind : Nat) (body : List Byte) : Moves { regs := true, hlk := true } noteRegs s (s.mirrSend kind body) :=
  .of_noted (as := []) (Noted.refl.mirrSend kind body)

/-- What a release makes of the state (R473 step 3). -/
structure State.Released (s t : State) : Prop where
  giving : t.mir.giving = true
  pulse  : t.mir.pulse = false
  count  : Counts s t Reg.MIR_REL_CNT
  moves  : Moves { regs := true, hlk := true, mir := true } (Reg.MIR_REL_CNT :: noteRegs) s t

theorem giveNow_released (s : State) : s.Released s.giveNow := by
  unfold State.giveNow
  extract_lets u
  have hsent := mirrSend_moves (s.modMir fun m => { m with giving := true, wants := false }) 0x20 []
  have hu : Moves { regs := true, hlk := true, mir := true } noteRegs s u :=
    ((modMir_moves s _).mono rfl (List.nil_subset _)).then_ hsent rfl (List.Subset.refl _)
  have hv : Moves { regs := true, hlk := true, mir := true } noteRegs s (u.modMir fun m => { m with pulse := false, quiet := true }) :=
    hu.then_ (modMir_moves u _) rfl (List.nil_subset _)
  exact ⟨hsent.keep fun v => v.mir.giving, rfl, Counts.bump.after hv (by decide),
    (hv.mono rfl (List.subset_cons_self _ _)).bump rfl List.mem_cons_self⟩

/-- R473: the primary of a redundant pair whose standby is ready releases at once. -/
theorem handover_ready (hr : s.rd F.MIR_STAT_RED = 1) (h5 : s.partner 5 = true) (h6 : s.partner 6 = false) : s.handover = s.giveNow := by
  unfold State.handover State.partnerReady
  rw [if_neg (fun h => h hr), if_pos (by simp [h5, h6])]

theorem execPairHandover_ends (hw : s.works 0x50 = true) (hp : s.tsk.phase = 0) (hr : s.rd F.MIR_STAT_RED = 1) (h5 : s.partner 5 = true)
    (h6 : s.partner 6 = false) : Ends (execPairHandover s) fun t => t.tsk.phase = 1 ∧ t.mir.giving = true ∧ t.mir.pulse = false ∧
      Counts s t Reg.MIR_REL_CNT ∧ Moves { regs := true, hlk := true, tsk := true, mir := true } (Reg.MIR_REL_CNT :: noteRegs) s t := by
  obtain ⟨hgiving, hpulse, hcount, hm⟩ := giveNow_released (s.setPhase 1)
  have hphase := modTsk_moves s fun t => { t with phase := 1 }
  unfold execPairHandover
  rw [if_pos (by simp [hw, hp]), handover_ready (s := s.setPhase 1) hr h5 h6]
  exact .next ⟨hm.keep fun v => v.tsk.phase, hgiving, hpulse, hcount.after hphase (by decide),
    (hphase.mono rfl (List.nil_subset _)).then_ hm rfl (List.Subset.refl _)⟩

/-- R321, R323: a patch's list begins with its task. -/
theorem execPatchLoad_lists (hw : s.works 0x60 = true) (hp : s.tsk.phase = 0) (h : s.ListOpens a) :
    Ends (execPatchLoad blob s) fun t => t.tsk.phase = 1 ∧ s.Listed t a ∧
      Moves { regs := true, hlk := true, tsk := true } (listRegs s) s t := by
  obtain ⟨hl, _, hm⟩ := listStart_opens h
  unfold execPatchLoad
  rw [if_pos hw, hp]
  exact .next ⟨rfl, hl, hm.then_ (modTsk_moves _ _) rfl (List.nil_subset _)⟩

theorem execNop_ends (hw : s.works 0x7F = true) : execNop s = .next s.workDone := by
  unfold execNop
  rw [if_pos hw]

end Sys2Proof.Machine
end

section
/-! ## What a freeze leaves alone (R331 to R333) -/

namespace Sys2Proof.Machine

set_option Elab.async false

variable {s t : State}

theorem Moves.foldl {α : Type} {c : Parts} {as : List Nat} {f : State → α → State} (l : List α)
    (hf : ∀ a ∈ l, ∀ t, Moves c as s t → Moves c as s (f t a)) (h : Moves c as s t) : Moves c as s (l.foldl f t) :=
  Moves.forEach (f := fun a u => f u a) l hf h

/-- The parts that an error which ends a task may move. -/
def freezeParts : Parts :=
  { regs := true, det := true, dec := true, rcv := true, wrp := true, srv := true, hlk := true, tsk := true, lbs := true, free := true }

/-- The registers of the beams, heads and lanes whose work is dropped. -/
def discardRegs : List Nat :=
  (List.finRange 16).map (fun b => Reg.LDD_CTRL (beamChan b)) ++
  (List.finRange 18).flatMap (fun l => [Reg.DEC_L_WST_LO l, Reg.DEC_L_WST_LO l + 4]) ++
  (List.finRange 4).flatMap (fun h => [Reg.SRV_G_NEXT h 0, Reg.SRV_G_NEXT h 1, Reg.SRV_G_NEXT h 2])

/-- The registers that a freeze moves once the task's state is set. -/
def freezeRegs : List Nat :=
  discardRegs ++ [Reg.CAL_STAT, Reg.TSK_ELOG_HEAD] ++ (List.range 16).map Reg.TSK_RES ++ eventRegs Ev.dmaErr ++ noteRegs

theorem lddCtrl_freezes : ∀ b : Beam, Reg.LDD_CTRL (beamChan b) ∈ freezeRegs := by decide
theorem decWaste_freezes : ∀ l : DecLane, Reg.DEC_L_WST_LO l ∈ freezeRegs ∧ Reg.DEC_L_WST_LO l + 4 ∈ freezeRegs := by decide
theorem srvNext_freezes : ∀ h : Head, ∀ j < 3, Reg.SRV_G_NEXT h j ∈ freezeRegs := by decide
theorem tskRes_freezes : ∀ k < 16, Reg.TSK_RES k ∈ freezeRegs := by decide
theorem noteRegs_freeze : noteRegs ⊆ freezeRegs := List.subset_append_right _ _
theorem eventRegs_freeze : eventRegs Ev.dmaErr ⊆ freezeRegs ∧ eventRegs Ev.stageErr ⊆ freezeRegs := by decide

/-- From `s` to `t` at most what a freeze moves. -/
abbrev Freezes (s t : State) : Prop := Moves freezeParts freezeRegs s t

theorem Freezes.noted (h : Freezes s t) {u : State} (k : Noted [] t u) : Freezes s u := h.then_ (.of_noted k) rfl noteRegs_freeze

theorem Freezes.waste (h : Freezes s t) (l : DecLane) (n : Nat) : Freezes s (t.waste l n) :=
  Freezes.noted (h.bump64 n rfl (decWaste_freezes l).1 (decWaste_freezes l).2) (Noted.refl.pmcLane _ _ _)

theorem Freezes.readLevels (h : Freezes s t) : Freezes s t.readLevels :=
  Moves.foldl _ (fun b _ u hu => by
    split
    · exact hu.wr _ rfl (lddCtrl_freezes b)
    · exact hu) h

theorem Freezes.trkBack (h : Freezes s t) (g : Head) : Freezes s (t.trkBack g) := by
  have hw : ∀ j < 3, Reg.SRV_G_NEXT g j ∈ freezeRegs := srvNext_freezes g
  unfold State.trkBack
  split
  next r _ =>
    refine .ite ?_ h
    unfold State.trkTarget
    exact (((h.setReg _ rfl (hw 0 (by decide))).setReg _ rfl (hw 2 (by decide))).setReg _ rfl (hw 1 (by decide))).upd
  next => exact h

theorem Freezes.discardWork (h : Freezes s t) : Freezes s t.discardWork := by
  unfold State.discardWork
  extract_lets waste kat s1 s2 s3
  have hwaste : ∀ l o u, Freezes s u → Freezes s (waste u l o) := fun l o u hu => by
    cases o with
    | none => exact hu
    | some r => exact .ite (Freezes.waste hu l _) hu
  clear_value waste
  have h1 : Freezes s s1 := Moves.foldl _ (fun l _ u hu => hwaste l _ _ (hwaste l _ u hu)) (Freezes.readLevels h)
  have h2 : Freezes s s2 := Moves.foldl _ (fun l _ u hu => .ite (Freezes.waste (t := u.draw.2) hu.upd l _) hu) h1
  have h3 : Freezes s s3 := Moves.foldl _ (fun g _ u hu => Freezes.trkBack hu g) h2
  clear_value s3
  exact h3.upd

theorem Freezes.calStop (h : Freezes s t) : Freezes s t.calStop := .ite ((h.put _ rfl (by decide)).put _ rfl (by decide)) h

theorem Freezes.logError (h : Freezes s t) (cls detail low err : Nat) : Freezes s (t.logError cls detail low err) := by
  unfold State.logError
  extract_lets hd e tsk u
  have hu : Freezes s u := h.upd
  exact (hu.wr _ rfl (by decide)).setReg _ rfl (by decide)

theorem Freezes.setRes (h : Freezes s t) (r : List Word) : Freezes s (t.setRes r) :=
  Moves.foldl _ (fun k hk _ hu => hu.setReg _ rfl (tskRes_freezes k (List.mem_range.mp hk))) h

theorem Freezes.event (h : Freezes s t) {n : Nat} (hn : eventRegs n ⊆ freezeRegs) : Freezes s (t.event n) := h.then_ (event_moves t n) rfl hn

theorem Freezes.sendRecord (h : Freezes s t) : Freezes s t.sendRecord := by
  unfold State.sendRecord
  exact .ite (h.then_ (sendMWR_moves _ _ _ _) rfl noteRegs_freeze) h

theorem Freezes.flushAll (h : Freezes s t) : Freezes s t.flushAll := by
  unfold State.flushAll
  extract_lets m u
  have hu : Freezes s u := Moves.foldl _ (fun p _ v hv => .ite (Freezes.noted hv (Noted.refl.sendFlit p _)) hv) h
  clear_value u
  exact hu.upd

/-! ### An error that ends the task -/

/-- The state in which an error of class `cls` has frozen the task. -/
structure State.Frozen (t : State) (cls : Nat) : Prop where
  state : t.taskFrozen = true
  cls   : t.rd F.TSK_STATE_ERRCLS = cls

theorem State.Frozen.after {cls : Nat} {as : List Nat} {c : Parts} (h : s.Frozen cls) (k : Moves c as s t)
    (ha : Reg.TSK_STATE ∉ as) : t.Frozen cls where
  state := (congrArg (fun n => decide (n = 3)) (k.rd (f := F.TSK_STATE_STATE) ha)).trans h.state
  cls := (k.rd (f := F.TSK_STATE_ERRCLS) ha).trans h.cls

/-- R332 step 1: the state and the error class are written. -/
theorem frozen_begins (s : State) {cls : Nat} (hc : cls < 256) :
    (((s.wr F.TSK_STATE_STATE 3).wr F.TSK_STATE_ERRCLS cls).put F.TSK_STATE_SETTLED false).Frozen cls where
  state := by
    have h : (((s.wr F.TSK_STATE_STATE 3).wr F.TSK_STATE_ERRCLS cls).put F.TSK_STATE_SETTLED false).rd F.TSK_STATE_STATE = 3 := by
      rw [State.rd_put_disjoint _ _ _ _ (by decide) (by decide), State.rd_wr_disjoint _ _ _ _ (by decide) (by decide),
        State.rd_wr_same _ _ _ (by decide)]
      rfl
    exact decide_eq_true h
  cls := by
    rw [State.rd_put_disjoint _ _ _ _ (by decide) (by decide), State.rd_wr_same _ _ _ (by decide)]
    exact Nat.mod_eq_of_lt hc

theorem errEnds_of_moves {c : Parts} {as : List Nat} (hm : Moves c as s t) (ha : Reg.TSK_STATE ∉ as) (cls : Nat) :
    t.errEnds cls = s.errEnds cls := by
  unfold State.errEnds State.taskRunning State.opcode
  rw [hm.rd (f := F.TSK_STATE_STATE) ha, hm.rd (f := F.TSK_STATE_OPCODE) ha]

theorem hsDrop_seq (s : State) : s.hsDrop.seq = s.seq := by
  unfold State.hsDrop State.setHs
  split
  · rfl
  · exact State.wr_seq _ _ _

/-- R332: an error that ends the running task freezes it with its class, and leaves SEQ alone. -/
theorem taskError_freezes {cls : Nat} (he : s.errEnds cls = true) (hc : cls < 256) (err : Option Nat) (detail : Nat) :
    (s.taskError cls err detail).Frozen cls ∧ (s.taskError cls err detail).seq = s.seq := by
  have hcount := countErr_moves s cls
  unfold State.taskError
  extract_lets s1 s2 s3 low e s4 s5 s6 s7 s8 s9 s10 tsk s11 s12
  have h3 : s3.seq = s.seq := by
    have h1 : s1.seq = s.seq := hcount.keep State.seq
    have h2 : s2.seq = s1.seq := by
      unfold s2
      split
      · exact hsDrop_seq s1
      · rfl
    exact ((clock_moves s2).keep State.seq).trans (h2.trans h1)
  have hset : Moves { regs := true } [Reg.TSK_ERR_LBA, Reg.TSK_DETAIL, Reg.VFY_ERR_LBA, Reg.TSK_INT_STAT, Reg.TSK_FRZ_CNT]
      (s4.put F.TSK_STATE_SETTLED false) s7 := ((((Moves.refl.setReg _).setReg _).setReg _).put _).bump
  have h7 : s7.Frozen cls := (frozen_begins s3 hc).after hset (by decide)
  have h4 : (s4.put F.TSK_STATE_SETTLED false).seq = s3.seq := by rw [State.put_seq, State.wr_seq, State.wr_seq]
  have hseq : s7.seq = s.seq := (hset.keep State.seq).trans (h4.trans h3)
  clear_value s7
  have hrefl : Freezes s7 s7 := .refl
  have h8 : Freezes s7 s8 := hrefl.discardWork.calStop
  have h9 : Freezes s7 s9 := h8.logError cls detail low e
  have h10 : Freezes s7 s10 := h9.setRes _
  clear_value s10
  have h11 : Freezes s7 s11 := h10.upd
  have h12 : Freezes s7 s12 := .ite (h11.event eventRegs_freeze.1) (.ite (h11.event eventRegs_freeze.2) h11)
  have hend : Freezes s7 s12.sendRecord.flushAll := h12.sendRecord.flushAll
  rw [if_pos ((errEnds_of_moves hcount (by decide) cls).trans he)]
  exact ⟨h7.after hend (by decide), (hend.keep State.seq).trans hseq⟩

end Sys2Proof.Machine
end

section
/-! ## A patch that SEQ takes (R365, R440, R442) -/

namespace Sys2Proof.Machine

set_option Elab.async false

variable {s t : State} {p : List Byte}

/-! ### Bytes by way of registers -/

theorem beNat_lt (bs : List Byte) : beNat bs < 256 ^ bs.length := by
  induction bs using List.reverseRecOn with
  | nil => exact Nat.one_pos
  | append_singleton bs b ih =>
    have hb := b.isLt
    have hs : beNat (bs ++ [b]) = beNat bs * 256 + b.toNat := by simp [beNat]
    rw [hs, List.length_append, List.length_singleton, Nat.pow_succ]
    omega

/-- Bytes read as a number are the bytes of that number. -/
theorem beBytes_beNat (bs : List Byte) : beBytes bs.length (beNat bs) = bs := by
  induction bs using List.reverseRecOn with
  | nil => rfl
  | append_singleton bs b ih =>
    have hb := b.isLt
    have hs : beNat (bs ++ [b]) = beNat bs * 256 + b.toNat := by simp [beNat]
    have hdiv : (beNat bs * 256 + b.toNat) / 256 = beNat bs := by omega
    have hlow : BitVec.ofNat 8 (beNat bs * 256 + b.toNat) = b := by
      apply BitVec.eq_of_toNat_eq
      rw [BitVec.toNat_ofNat]
      omega
    rw [hs, List.length_append, List.length_singleton, beBytes, hdiv, hlow, ih]

theorem length_bytesAt (bs : List Byte) (i k : Nat) : (bytesAt bs i k).length = k := by simp [bytesAt]

theorem beAt_lt (bs : List Byte) (i k : Nat) : beAt bs i k < 256 ^ k := by
  have h := beNat_lt (bytesAt bs i k)
  rwa [length_bytesAt] at h

theorem beBytes_beAt (bs : List Byte) (i k : Nat) : beBytes k (beAt bs i k) = bytesAt bs i k := by
  have h := beBytes_beNat (bytesAt bs i k)
  rwa [length_bytesAt] at h

theorem bytesAt_split (bs : List Byte) (i k : Nat) : bytesAt bs 0 (i + k) = bytesAt bs 0 i ++ bytesAt bs i k := by
  simp [bytesAt, List.range_add]

theorem bytesAt_whole (bs : List Byte) : bytesAt bs 0 bs.length = bs := by
  have h := bytesAt_mid [] bs []
  simpa using h

theorem flatMap_bytesAt (bs : List Byte) (n : Nat) : (List.range n).flatMap (fun k => bytesAt bs (4 * k) 4) = bytesAt bs 0 (4 * n) := by
  induction n with
  | zero => rfl
  | succ n ih => rw [List.range_succ, List.flatMap_append, ih, Nat.mul_succ, bytesAt_split]; simp

theorem setRegBytes_reg (s : State) (a : Nat) {n k : Nat} (bs : List Byte) (hk : k < n) :
    (s.setRegBytes a n bs).reg (a + 4 * k) = BitVec.ofNat 32 (beAt bs (4 * k) 4) := by
  unfold State.setRegBytes
  refine forEach_reaches (P := fun t => t.reg (a + 4 * k) = BitVec.ofNat 32 (beAt bs (4 * k) 4)) (x := k)
    (f := fun k s => s.setReg (a + 4 * k) (BitVec.ofNat 32 (beAt bs (4 * k) 4))) (fun t => ?_) (fun j t ht => ?_) (List.mem_range.mpr hk) s
  · exact State.reg_setReg_same _ _ _
  · by_cases hj : j = k
    · subst hj
      exact State.reg_setReg_same _ _ _
    · exact (State.reg_setReg_ne _ (by omega) _).trans ht

/-- Bytes written to a register array read back. -/
theorem regBytes_setRegBytes (s : State) (a : Nat) {n : Nat} {bs : List Byte} (h : bs.length = 4 * n) : (s.setRegBytes a n bs).regBytes a n = bs := by
  have hword : ∀ k ∈ List.range n, beBytes 4 ((s.setRegBytes a n bs).reg (a + 4 * k)).toNat = bytesAt bs (4 * k) 4 := fun k hk => by
    have hlt : beAt bs (4 * k) 4 < 2 ^ 32 := beAt_lt bs (4 * k) 4
    rw [setRegBytes_reg s a bs (List.mem_range.mp hk), BitVec.toNat_ofNat, Nat.mod_eq_of_lt hlt, beBytes_beAt]
  unfold State.regBytes
  rw [List.flatMap_congr hword, flatMap_bytesAt, ← h, bytesAt_whole]

/-! ### CPH's lock, its buffer and its tag -/

theorem lockTake_moves (s : State) (m : Master) : Moves { regs := true } [Reg.CPH_LOCK] s (s.lockTake m) :=
  .ite .refl ((Moves.refl.put _).wr _)

/-- R434: SEQ holds the lock, if no other master held it. -/
theorem lockTake_seq_owner (h : s.flag F.CPH_LOCK_HELD = false ∨ s.cphOwner .seq = true) : (s.lockTake .seq).cphOwner .seq = true := by
  cases hl : s.flag F.CPH_LOCK_HELD with
  | true =>
    have e : s.lockTake .seq = s := if_pos (by simp [hl])
    rw [e]
    exact h.resolve_left (by simp [hl])
  | false =>
    have e : s.lockTake .seq = (s.put F.CPH_LOCK_HELD true).wr F.CPH_LOCK_OWNER 2 := if_neg (by simp [hl])
    unfold State.cphOwner
    rw [e, Bool.and_eq_true]
    refine ⟨?_, decide_eq_true ((State.rd_wr_same _ _ _ (by decide)).trans rfl)⟩
    exact (congrArg (· != 0) (State.rd_wr_disjoint _ F.CPH_LOCK_OWNER F.CPH_LOCK_HELD _ (by decide) (by decide))).trans
      (State.flag_put_same _ _ _ (by decide) rfl)

/-- R434: another master's lock stays. -/
theorem lockTake_held (h : s.flag F.CPH_LOCK_HELD = true) (m : Master) : s.lockTake m = s := if_pos (by simp [h])

theorem cphOwner_of_moves {c : Parts} {as : List Nat} (hm : Moves c as s t) (ha : Reg.CPH_LOCK ∉ as) (m : Master) :
    t.cphOwner m = s.cphOwner m := by
  unfold State.cphOwner
  rw [hm.flag (f := F.CPH_LOCK_HELD) ha, hm.rd (f := F.CPH_LOCK_OWNER) ha]

/-- The registers of CPH that a deciphered patch moves. -/
def sealRegs : List Nat := [Reg.CPH_STAT, Reg.CPH_SB_PTR, Reg.CPH_SB_LEN] ++ (List.range 4).map (fun k => Reg.CPH_TAG_EXP k)

/-- From `s` to `t` CPH's sealed buffer and tag moved, and nothing else of its structure. -/
def State.CphBut (s t : State) : Prop := t.cph = { s.cph with buf := t.cph.buf, tag := t.cph.tag }

theorem setCph_moves (s : State) (c : Cph) : Moves { cph := true } [] s { s with cph := c } := Moves.refl.upd

theorem sealNow_moves (s : State) : Moves { regs := true, cph := true } sealRegs s s.sealNow := by
  have h0 := (setCph_moves s { s.cph with buf := [], tag := none }).mono (d := { regs := true, cph := true }) (bs := sealRegs) rfl (List.nil_subset _)
  exact (((h0.put _ rfl (by decide)).put _ rfl (by decide)).setReg _ rfl (by decide)).setReg _ rfl (by decide)

theorem sealNow_cph (s : State) : s.sealNow.cph = { s.cph with buf := [], tag := none } := by
  unfold State.sealNow
  rw [State.setReg_cph, State.setReg_cph, State.put_cph, State.put_cph]

theorem tagExp_sealReg : ∀ k < 4, Reg.CPH_TAG_EXP 0 + 4 * k ∈ sealRegs := by decide

theorem setTagExp_moves (s : State) (bs : List Byte) : Moves { regs := true } sealRegs s (s.setRegBytes (Reg.CPH_TAG_EXP 0) 4 bs) :=
  Moves.forEach _ (fun k hk _ h => h.setReg _ rfl (tagExp_sealReg k (List.mem_range.mp hk))) .refl

/-- R440: a tag that is as expected releases the buffer. -/
theorem tagResult_good {tag : List Byte} (ht : s.cph.tag = some tag) (hw : s.regBytes (Reg.CPH_TAG_EXP 0) 4 = tag) :
    s.tagResult false =
      ((s.put F.CPH_STAT_TAGOK true).put F.CPH_STAT_RELEASED true).setReg Reg.CPH_SB_LEN (s.reg Reg.CPH_SB_PTR) := by
  unfold State.tagResult
  simp only [ht, hw, Option.map_some, if_true]

/-- What a patch whose tag is right leaves in CPH. -/
structure State.Deciphered (s t : State) (tag : List Byte) : Prop where
  tag      : t.cph.tag = some tag
  released : t.flag F.CPH_STAT_RELEASED = true
  cph      : s.CphBut t
  moves    : Moves { regs := true, cph := true } sealRegs s t

/-- The sealed buffer and the tag register of a patch, with the tag that its blob brings. -/
def State.tagLoaded (s : State) (b : List Host.Cell) (n : Word) (tag : List Byte) : State :=
  (({ s.sealNow with cph := { s.sealNow.cph with buf := b, tag := some tag } } : State).setReg Reg.CPH_SB_PTR n).setRegBytes
    (Reg.CPH_TAG_EXP 0) 4 tag

theorem tagLoaded_cph (s : State) (b : List Host.Cell) (n : Word) (tag : List Byte) :
    (s.tagLoaded b n tag).cph = { s.cph with buf := b, tag := some tag } := by
  refine ((setTagExp_moves _ tag).keep State.cph).trans ?_
  rw [State.setReg_cph, sealNow_cph]

theorem tagLoaded_moves (s : State) (b : List Host.Cell) (n : Word) (tag : List Byte) :
    Moves { regs := true, cph := true } sealRegs s (s.tagLoaded b n tag) := by
  have h2 : Moves { regs := true, cph := true } sealRegs s { s.sealNow with cph := { s.sealNow.cph with buf := b, tag := some tag } } :=
    (sealNow_moves s).then_ (setCph_moves s.sealNow _) rfl (List.nil_subset _)
  exact (h2.setReg _ rfl (by decide)).then_ (setTagExp_moves _ tag) rfl (List.Subset.refl _)

theorem tagLoaded_regBytes (s : State) (b : List Host.Cell) (n : Word) {tag : List Byte} (hl : tag.length = 16) :
    (s.tagLoaded b n tag).regBytes (Reg.CPH_TAG_EXP 0) 4 = tag := regBytes_setRegBytes _ _ hl

theorem patchSealed_eq (s : State) (payload tag : List Byte) :
    ∃ b n, s.patchSealed payload tag tag = (s.tagLoaded b n tag).tagResult false := ⟨_, _, rfl⟩

theorem patchSealed_deciphered (s : State) (payload : List Byte) {tag : List Byte} (hl : tag.length = 16) :
    s.Deciphered (s.patchSealed payload tag tag) tag := by
  obtain ⟨b, n, e⟩ := patchSealed_eq s payload tag
  have hcph := tagLoaded_cph s b n tag
  have hm := tagLoaded_moves s b n tag
  have hw := tagLoaded_regBytes s b n hl
  generalize s.tagLoaded b n tag = u at e hcph hm hw
  rw [e, tagResult_good (congrArg Cph.tag hcph) hw]
  refine ⟨?_, ?_, ?_, ((hm.put _ rfl (by decide)).put _ rfl (by decide)).setReg _ rfl (by decide)⟩
  · rw [State.setReg_cph, State.put_cph, State.put_cph, hcph]
  · rw [State.flag_setReg_ne _ _ _ (by decide), State.flag_put_same _ _ _ (by decide) rfl]
  · unfold State.CphBut
    rw [State.setReg_cph, State.put_cph, State.put_cph, hcph]

/-! ### The records of a patch (R364) -/

theorem patchWrite_moves (s : State) (r : Nat × Nat × Nat) : Moves { seq := true } [] s (s.patchWrite r) := by
  unfold State.patchWrite
  obtain ⟨kind, a, v⟩ := r
  exact .ite (.ite Moves.refl.upd .refl) Moves.refl.upd

/-- A record of type 1 is the word of the control store that it names. -/
theorem patchWrite_csWord {r : Nat × Nat × Nat} (h1 : r.1 = 1) (ha : r.2.1 < 2 ^ 14) :
    (s.patchWrite r).csWord (BitVec.ofNat 14 r.2.1) = BitVec.ofNat 128 r.2.2 := by
  obtain ⟨kind, a, v⟩ := r
  change kind = 1 at h1
  subst h1
  have hw : (BitVec.ofNat 14 a).toNat = a := (BitVec.toNat_ofNat ..).trans (Nat.mod_eq_of_lt ha)
  unfold State.csWord
  rw [hw]
  unfold State.patchWrite
  simp only [if_true, if_pos ha]
  exact Sparse.get_set_same (BitVec.allOnes 128) (BitVec.ofNat 128 v) a s.seq.cs

/-- The records of a patch in their order. -/
def State.patchRecords (s : State) (p : List Byte) : State := (List.range (beAt p 12 2)).foldl (fun s i => s.patchWrite (patchRecord p i)) s

theorem patchRecords_moves (s : State) (p : List Byte) : Moves { seq := true } [] s (s.patchRecords p) :=
  Moves.foldl _ (fun _ _ _ h => h.trans (patchWrite_moves _ _)) .refl

/-- The last record is in the control store. -/
theorem patchRecords_csWord (s : State) (h0 : beAt p 12 2 ≠ 0) (h1 : (patchRecord p (beAt p 12 2 - 1)).1 = 1)
    (ha : (patchRecord p (beAt p 12 2 - 1)).2.1 < 2 ^ 14) :
    (s.patchRecords p).csWord (BitVec.ofNat 14 (patchRecord p (beAt p 12 2 - 1)).2.1) =
      BitVec.ofNat 128 (patchRecord p (beAt p 12 2 - 1)).2.2 := by
  obtain ⟨n, hn⟩ := Nat.exists_eq_succ_of_ne_zero h0
  unfold State.patchRecords
  rw [hn, Nat.succ_sub_one] at h1 ha ⊢
  rw [List.range_succ, List.foldl_append]
  exact patchWrite_csWord h1 ha

/-! ### A payload that R365 accepts -/

/-- What a patch is checked against. -/
theorem patchBad_of_moves {c : Parts} {as : List Nat} (hm : Moves c as s t) (hu : Reg.SEQ_UCODE_VER ∉ as) (hv : Reg.FLC_MC_VAL 0 ∉ as)
    (p : List Byte) : t.patchBad p = s.patchBad p ∧ t.antiRollback = s.antiRollback := by
  have hroll : t.antiRollback = s.antiRollback := congrArg BitVec.toNat (hm.regs _ hv)
  refine ⟨?_, hroll⟩
  unfold State.patchBad
  rw [hm.regs _ hu, hroll]

/-- What a patch leaves of the state once its records and its version are taken (R365). -/
structure State.Patched (s t : State) (p : List Byte) : Prop where
  work    : t.tsk.work = false
  version : t.rd F.SEQ_PATCH_VER_VERSION = beAt p 8 2
  minver  : t.rd F.SEQ_PATCH_VER_MINVER = beAt p 10 2
  cs      : t.seq = (s.patchRecords p).seq
  moves   : Moves { regs := true, tsk := true, seq := true } [Reg.SEQ_PATCH_VER] s t

/-- R365: with a MINVER that the module has reached, the counter against rollback stays. -/
theorem patchApply_patched (hb : s.patchBad p = false) (hv : s.antiRollback ≤ beAt p 8 2) (hm : beAt p 10 2 ≤ s.antiRollback) :
    s.Patched (s.patchApply p) p := by
  have hr := patchRecords_moves s p
  have hlt : ∀ i, beAt p i 2 < 2 ^ 16 := fun i => beAt_lt p i 2
  unfold State.patchApply
  extract_lets version minver s1 s2
  have hs1 : s1 = s.patchRecords p := rfl
  clear_value s1
  subst hs1
  have h2 : Moves { regs := true, tsk := true, seq := true } [Reg.SEQ_PATCH_VER] s s2 := ((hr.mono rfl (List.nil_subset _)).wr _).wr _
  have hseq : s2.seq = (s.patchRecords p).seq := by rw [State.wr_seq, State.wr_seq]
  have hver : s2.rd F.SEQ_PATCH_VER_VERSION = version := (State.rd_wr_same _ _ _ (by decide)).trans (Nat.mod_eq_of_lt (hlt 8))
  have hmin : s2.rd F.SEQ_PATCH_VER_MINVER = minver :=
    (State.rd_wr_disjoint _ F.SEQ_PATCH_VER_VERSION F.SEQ_PATCH_VER_MINVER _ (by decide) (by decide)).trans
      ((State.rd_wr_same _ _ _ (by decide)).trans (Nat.mod_eq_of_lt (hlt 10)))
  have hroll : s2.antiRollback = s.antiRollback := (patchBad_of_moves h2 (by decide) (by decide) p).2
  have hsub : minver - s2.antiRollback = 0 := by rw [hroll]; exact Nat.sub_eq_zero_of_le hm
  clear_value s2
  rw [if_neg (by simp [hb]), if_neg (by omega), hsub]
  exact ⟨rfl, hver, hmin, hseq, h2.then_ (modTsk_moves _ _ |>.trans (modTsk_moves _ _)) rfl (List.nil_subset _)⟩

end Sys2Proof.Machine
end

section
/-! ## PATCH_LOAD once its reads have brought the blob (R365, R434, R442) -/

namespace Sys2Proof.Machine

set_option Elab.async false

variable {s : State} {blob p : List Byte} {k : Slot}

theorem execPatchLoad_brought (hw : s.works 0x60 = true) (hp : s.tsk.phase = 2) (hm : s.hlk.mrds = []) (hl : blob.length = s.descW 3) :
    execPatchLoad blob s = .next (s.patchBlob blob) := by
  unfold execPatchLoad
  rw [if_pos hw, hp]
  exact congrArg _ (if_neg (by simp [hm, hl]))

/-- R442: only a key of usage 2 deciphers a patch. -/
theorem patchBlob_usage (hk : s.cph.slots[(Fin.ofNat 8 (s.descW 2) : Fin 8)] = some k) (hu : k.usage ≠ 2) :
    s.patchBlob blob = s.taskError 0x51 none 2 := by
  unfold State.patchBlob
  rw [hk]
  exact if_pos hu

/-- R434: the task waits for another master's lock. -/
theorem patchBlob_waits (hk : s.cph.slots[(Fin.ofNat 8 (s.descW 2) : Fin 8)] = some k) (hu : k.usage = 2)
    (hh : s.flag F.CPH_LOCK_HELD = true) (ho : s.cphOwner .seq = false) : s.patchBlob blob = s := by
  unfold State.patchBlob
  simp only [hk, hu, lockTake_held hh, ho]
  rw [if_neg (by simp)]
  exact if_pos (by simp)

/-- A blob's ciphertext and its tag, and the tag that the key gives (R442). -/
def patchCipher (blob : List Byte) : List Nat := toNats (blob.take (blob.length - 16))
def blobTag (blob : List Byte) : List Byte := blob.drop (blob.length - 16)
def keyTag (k : Slot) (blob : List Byte) : List Byte := toBytes (Aes.cmac (toNats (subkey k.key 2)) (patchCipher blob))

/-- The payload that the key deciphers (R442). -/
def patchPlain (k : Slot) (blob : List Byte) : List Byte :=
  toBytes (ctrDecrypt (toNats (subkey k.key 1)) (Aes.toNum ((patchCipher blob).take 16)) ((patchCipher blob).drop 16))

theorem length_keyTag (k : Slot) (blob : List Byte) : (keyTag k blob).length = 16 := (List.length_map _).trans (Aes.length_cmac _ _)

/-- R440, R442: a blob whose tag is right is deciphered under SEQ's lock, and its payload applied. -/
theorem patchBlob_deciphers (hk : s.cph.slots[(Fin.ofNat 8 (s.descW 2) : Fin 8)] = some k) (hu : k.usage = 2)
    (ho : s.flag F.CPH_LOCK_HELD = false ∨ s.cphOwner .seq = true) (hb : s.flag F.CPH_STAT_BUSY = false)
    (ht : keyTag k blob = blobTag blob) :
    s.patchBlob blob = ((s.lockTake .seq).patchSealed (patchPlain k blob) (blobTag blob) (blobTag blob)).patchApply (patchPlain k blob) := by
  have hbusy : (s.lockTake .seq).flag F.CPH_STAT_BUSY = false := ((lockTake_moves s .seq).flag (by decide)).trans hb
  unfold State.patchBlob
  simp only [hk, hu, lockTake_seq_owner ho, hbusy]
  rw [if_neg (by simp), if_neg (by simp)]
  have htag : ¬(keyTag k blob ≠ blobTag blob) := fun h => h ht
  refine (if_neg htag).trans ?_
  show State.patchApply (State.patchSealed _ (patchPlain k blob) (keyTag k blob) (blobTag blob)) (patchPlain k blob) = _
  rw [ht]

/-- The registers that a patch moves. -/
def patchRegs : List Nat := [Reg.SEQ_PATCH_VER, Reg.CPH_LOCK] ++ sealRegs

/-- What a patch that is accepted leaves. -/
structure State.PatchLoaded (s t : State) (p tag : List Byte) : Prop where
  work     : t.tsk.work = false
  version  : t.rd F.SEQ_PATCH_VER_VERSION = beAt p 8 2
  minver   : t.rd F.SEQ_PATCH_VER_MINVER = beAt p 10 2
  last     : t.csWord (BitVec.ofNat 14 (patchRecord p (beAt p 12 2 - 1)).2.1) = BitVec.ofNat 128 (patchRecord p (beAt p 12 2 - 1)).2.2
  owner    : t.cphOwner .seq = true
  tag      : t.cph.tag = some tag
  released : t.flag F.CPH_STAT_RELEASED = true
  cph      : s.CphBut t
  moves    : Moves { regs := true, tsk := true, seq := true, cph := true } patchRegs s t

/-- R365, R442: the lock, the deciphered payload and its records, one after another. -/
theorem execPatchLoad_loads (hw : s.works 0x60 = true) (hph : s.tsk.phase = 2) (hm : s.hlk.mrds = []) (hl : blob.length = s.descW 3)
    (hk : s.cph.slots[(Fin.ofNat 8 (s.descW 2) : Fin 8)] = some k) (hu : k.usage = 2) (ht : keyTag k blob = blobTag blob)
    (hp : patchPlain k blob = p) (ho : s.flag F.CPH_LOCK_HELD = false ∨ s.cphOwner .seq = true) (hb : s.flag F.CPH_STAT_BUSY = false)
    (hbad : s.patchBad p = false) (hv : s.antiRollback ≤ beAt p 8 2) (hmin : beAt p 10 2 ≤ s.antiRollback) (h0 : beAt p 12 2 ≠ 0)
    (h1 : (patchRecord p (beAt p 12 2 - 1)).1 = 1) (ha : (patchRecord p (beAt p 12 2 - 1)).2.1 < 2 ^ 14) :
    Ends (execPatchLoad blob s) fun t => s.PatchLoaded t p (blobTag blob) := by
  have hlock := lockTake_moves s .seq
  have hown := lockTake_seq_owner ho
  have hcph1 : (s.lockTake .seq).cph = s.cph := hlock.keep State.cph
  rw [execPatchLoad_brought hw hph hm hl, patchBlob_deciphers hk hu ho hb ht, hp]
  generalize s.lockTake .seq = u1 at *
  obtain ⟨htag, hrel, hcph2, hm2⟩ := patchSealed_deciphered u1 p (tag := blobTag blob) (ht ▸ length_keyTag k blob)
  generalize u1.patchSealed p (blobTag blob) (blobTag blob) = u2 at *
  have hm12 : Moves { regs := true, tsk := true, seq := true, cph := true } patchRegs s u2 :=
    (hlock.mono rfl (by decide)).then_ hm2 rfl (List.subset_append_right _ _)
  obtain ⟨hbad2, hroll2⟩ := patchBad_of_moves hm12 (by decide) (by decide) p
  obtain ⟨hwork, hver, hminver, hcs, hm3⟩ := patchApply_patched (hbad2.trans hbad) (hroll2 ▸ hv) (hroll2 ▸ hmin)
  have hcph3 : (u2.patchApply p).cph = u2.cph := hm3.keep State.cph
  refine .next ⟨hwork, hver, hminver, ?_, ?_, hcph3 ▸ htag, (hm3.flag (by decide)).trans hrel, ?_, hm12.then_ hm3 rfl (by decide)⟩
  · unfold State.csWord
    rw [hcs]
    exact patchRecords_csWord u2 h0 h1 ha
  · rw [cphOwner_of_moves hm3 (by decide), cphOwner_of_moves hm2 (by decide), hown]
  · unfold State.CphBut at hcph2 ⊢
    rw [hcph3, ← hcph1]
    exact hcph2

/-- Settles O34: each task by what it does of its work; a patch by its list, its lock, its key and its records. -/
theorem otherTasks : Obligations.OtherTasks := by
  refine ⟨fun s hw h0 hr => ?_, fun s hw ha h4 hr => ?_, fun s hw ha h0 hr => ?_, fun s hw ha hr => ?_, fun s hw hp hr h5 h6 => ?_,
    fun s blob a hw hp h => ?_, fun s blob p k hw hph hm hl hk hu ht hp ho hb hbad hv hmin h0 h1 ha => ?_,
    fun s blob k hw hph hm hl hk hu hh ho => ?_, fun s blob k hw hph hm hl hk hu => ?_, fun s hw => ⟨_, execNop_ends hw, rfl⟩⟩
  · obtain ⟨t, e, h1, h2, h3, h4, hm⟩ := execSpinUp_ends hw h0 hr
    exact ⟨t, e, h1, h2, h3, h4, hm.parts, hm.regs⟩
  · obtain ⟨t, e, ⟨h1, h2, h3, hm⟩, htgt⟩ := execSpinDownStop_ends hw ha h4 hr
    exact ⟨t, e, h1, h2, h3, htgt, hm.parts, hm.regs⟩
  · obtain ⟨t, e, h1, h2, h3, hm⟩ := execSpinDownBrake_ends hw ha h0 hr
    exact ⟨t, e, h1, h2, h3, hm.parts, hm.regs⟩
  · obtain ⟨t, e, ⟨h1, h2, h3, hm⟩, hpark⟩ := execSpinDownPark_ends hw ha hr
    exact ⟨t, e, h1, h2, h3, hpark, hm.parts, hm.regs⟩
  · obtain ⟨t, e, h1, h2, h3, h4, hm⟩ := execPairHandover_ends hw hp hr h5 h6
    exact ⟨t, e, h1, h2, h3, h4, hm.parts⟩
  · obtain ⟨t, e, h1, h2, hm⟩ := execPatchLoad_lists (blob := blob) hw hp h
    exact ⟨t, e, h1, h2, hm.parts, hm.regs⟩
  · obtain ⟨t, e, h⟩ := execPatchLoad_loads hw hph hm hl hk hu ht hp ho hb hbad hv hmin h0 h1 ha
    exact ⟨t, e, h.work, h.version, h.minver, h.last, h.owner, h.tag, h.released,
      h.moves.parts.trans (congrArg (fun c => { s with regs := t.regs, tsk := t.tsk, seq := t.seq, cph := c }) h.cph), h.moves.regs⟩
  · exact (execPatchLoad_brought hw hph hm hl).trans (congrArg _ (patchBlob_waits hk hu hh ho))
  · have hends : s.errEnds 0x51 = true := by
      unfold State.errEnds
      rw [works_running hw, works_opcode hw]
      rfl
    obtain ⟨hfrozen, hseq⟩ := taskError_freezes hends (by decide) none 2
    exact ⟨_, (execPatchLoad_brought hw hph hm hl).trans (congrArg _ (patchBlob_usage hk hu)), hfrozen.state, hfrozen.cls,
      congrArg Seq.cs hseq⟩

end Sys2Proof.Machine
end
